-- ==== Sys2Proof/Word.lean ====
section
/-! DEFINITION. The byte and the plainest helpers over numbers that every layout of the manual uses (R1 to R3, R6).
Widths are those of the manual; a multi-byte field is little-endian under R3. -/

namespace Sys2Proof

/-- A byte of memory, of a record, of a descriptor (R3). -/
abbrev Byte := BitVec 8

/-- A 32-bit machine word (scalar registers of R244, mailbox registers of R56). -/
abbrev Word32 := BitVec 32

/-- A byte from a number, modulo 256. -/
def byteOf (n : Nat) : Byte := BitVec.ofNat 8 n

/-- A number brought to `w` bits: modulo 2^w. -/
def wrapTo (w n : Nat) : Nat := n % 2 ^ w

/-- A count that saturates at the greatest value of a `w`-bit field. -/
def satTo (w n : Nat) : Nat := min n (2 ^ w - 1)

/-- The two's complement reading of a `w`-bit number. -/
def signedOf (w n : Nat) : Int :=
  if n % 2 ^ w < 2 ^ (w - 1) then (n % 2 ^ w : Nat) else ((n % 2 ^ w : Nat) : Int) - 2 ^ w

/-- The `w`-bit two's complement code of an integer. -/
def unsignedOf (w : Nat) (i : Int) : Nat := (i % 2 ^ w).toNat

/-- `i` limited to `[lo, hi]` (R91's clamp). -/
def clampInt (i lo hi : Int) : Int := max lo (min i hi)

/-- Arithmetic right shift of an exact integer: floors (R91). -/
def ashr (i : Int) (k : Nat) : Int := i / 2 ^ k

/-- Bit `k` of a number. -/
def bitAt (n k : Nat) : Bool := n.testBit k

/-- Bits `[lo + w - 1 : lo]` of a number (R2). -/
def bitsAt (n lo w : Nat) : Nat := (n >>> lo) % 2 ^ w

/-- Ceiling division. -/
def cdiv (a b : Nat) : Nat := (a + b - 1) / b

/-- 1 for true, 0 for false: a flag placed in a field. -/
def bit01 (b : Bool) : Nat := if b then 1 else 0

end Sys2Proof
end

