-- ==== Sys2Proof/Syntax.lean ====
section
/-! DEFINITION. The commands of the block: one constructor per row of spec/opcode_table.json, with the operands the
row's rules give it. A row that is a mailbox command of R492 carries the header of the record that brought it
(`CmdHdr`) and its payload fields in the order of the table *Mailbox commands*, the reserved ones (`r`) included,
because R4 refuses a record in which one is not zero. A row that is an event of the device or of its surroundings
carries what the surroundings decide: the unit it happens on and the values that arrive there. -/

namespace Sys2Proof

/-- The header fields of a command record that its execution uses (R69): FLAGS, SEQUENCE, DOMAIN and the CRC that R73
keeps. OPCODE is the row's own, PAYLOAD_LEN the length of the payload that the row's operands stand for. -/
structure CmdHdr where
  flags : Nat
  seq : Nat
  domain : Nat
  crc : Nat
deriving DecidableEq, Repr

/-- What begins an internal reset (R38, R40): a pin goes low, or the rail of this row of the table *Supply rails*
(0 VDD_CORE … 8 VDD_SDIO) falls below its power-on threshold. -/
inductive ResetCause where
  | pwrGoodLow
  | porstLow
  | railLow (rail : Nat)
deriving DecidableEq, Repr

/-- The other SDIO commands of the table *SDIO options supported* (R53). CMD52 moves a byte of a function; CMD53 moves
`count` bytes or blocks, at one address or at rising ones. Whole accesses to a register or a port of functions 1 to 3 have
rows of their own besides. -/
inductive SdioCmd where
  | cmd0
  | cmd3
  | cmd5
  | cmd7 (rca : Nat)
  | cmd15 (rca : Nat)
  | cmd19
  | cmd52Read (fn addr : Nat)
  | cmd52Write (fn addr value : Nat)
  | cmd53Read (fn addr count : Nat) (block inc : Bool)
  | cmd53Write (fn addr : Nat) (block inc : Bool) (data : List Byte)
deriving DecidableEq, Repr

/-- What a memory's ECC finds when a granule or row is read (R177, R178, R402, R405). -/
inductive EccFind where
  | clean
  | corrected
  | uncorrectable
deriving DecidableEq, Repr

/-- The memory in which a read meets an error: the one that holds the address, the weight cache's line of it (R343), the DDR5
code granule that holds its code (R402), or the rule memory of an FBC, where the address is 4,096 times the pipeline plus the
offset in its fallback table, and whatever is found is a travel code that fails (R435). -/
inductive EccPlace where
  | memory
  | line
  | code
  | rule
deriving DecidableEq, Repr

/-- An ECC error that stands in a memory when a row's reads are made: the local address, where, and what ECC finds; for DDR5 the
rank, DRAM bank and DRAM row that the controller addresses, which the mapping inside the controller decides (R513). -/
structure EccHit where
  addr : Nat
  place : EccPlace
  found : EccFind
  rank : Nat
  bank : Nat
  row : Nat
deriving DecidableEq, Repr

/-- The outcome of a golden run against firmware's expected values (R437). -/
inductive GoldenResult where
  | pass
  | mismatch
  | poison
  | duration
deriving DecidableEq, Repr

/-- What a peer sends of itself in CONFIG (R357). -/
structure PeerConfig where
  id : Nat
  joined : Bool
  inRom : Bool
  tstate : Nat
  depth : Nat
  port : Nat
deriving DecidableEq, Repr

/-- The outcome of the four channels' initialisation (R398): success, or the channel, subchannel and step that failed. -/
inductive TrainResult where
  | ok
  | fail (channel subch step : Nat)
deriving DecidableEq, Repr

/-- A head or single flit's payload (R375), and the granules of the packet with the travel code that came with each
(R359). `headCheck` is the CHECK field of the head flit. -/
structure Packet where
  type : Nat
  pflags : Nat
  dst : Nat
  src : Nat
  tag : Nat
  gen : Nat
  addr : Nat
  grans : Nat
  domain : Nat
  hops : Nat
  win : Nat
  epoch : Nat
  be : Nat
  status : Nat
  arg : Nat
  data : List (List Byte)
  codes : List Nat
deriving DecidableEq, Repr

/-- A flit as it reaches a port (R359): its header fields, the 32 payload bytes and its CRC field. -/
structure Flit where
  kind : Nat
  vc : Nat
  seq : Nat
  check : Nat
  payload : List Byte
  crc : Nat
deriving DecidableEq, Repr

/-- A TIME flit's payload (R390). -/
structure TimeMsg where
  tTx : Nat
  tTxFr : Nat
  tstate : Nat
  depth : Nat
  xseq : Nat
  eSeq : Nat
  eRxFr : Nat
  eTxFr : Nat
  eRx : Nat
  eTx : Nat
deriving DecidableEq, Repr

/-- A CTRL flit's payload (R366). -/
structure CtrlMsg where
  ack : Nat
  ackValid : Bool
  nak : Nat
  nakPresent : Bool
  cred : List Nat
deriving DecidableEq, Repr

/-- The commands of the block, in the order of spec/opcode_table.json. -/
inductive Instr where
  -- reset, boot and the control processor
  | resetEntry (cause : ResetCause)
  | resetRelease (refclk : Bool)
  | refclkPresent
  | aonPllLocked (bootSrc : Nat)
  | aonRelease (otpErr : Bool)
  | sdioFunctionReady
  | sdioCmd0Spi
  | sdioCmd11
  | sdioCommand (c : SdioCmd)
  | bootImageWrite (data : List Byte)
  | imageVerifyDone
  | firmwareReady
  | fwHalt
  | firmwareHeartbeat
  | cpStall
  | smFault
  -- mailbox, events and bulk ports
  | mbCmdPortWrite (data : List Byte)
  | mbDoorbellWrite (value : Nat)
  | mbRecordExecute (ecc : List EccHit)
  | mbRspPortRead (count : Nat)
  | mbStatusW1c (value : Nat)
  | registerWrite (fn addr value : Nat)
  | eventRecordRead (count : Nat)
  | bulkDataWrite (data : List Byte)
  | bulkDataRead (count : Nat) (ecc : List EccHit)
  -- commands of groups 0x00 to 0x02
  | nop (h : CmdHdr)
  | deviceInfo (h : CmdHdr)
  | channelTableSet (h : CmdHdr) (base count : Nat)
  | channelInvalidate (h : CmdHdr) (first count : Nat)
  | bulkWrite (h : CmdHdr) (addr len : Nat)
  | bulkRead (h : CmdHdr) (addr len : Nat)
  | dmaStart (h : CmdHdr) (channel flags : Nat)
  | dmaStop (h : CmdHdr) (channel r : Nat)
  | dmaKick (h : CmdHdr) (channel r : Nat)
  | streamRearm (h : CmdHdr) (stream r ja base : Nat)
  | wcacheInvalidate (h : CmdHdr) (addr len : Nat)
  | ddrInit (h : CmdHdr) (cfg : List Byte)
  | firewallSet (h : CmdHdr) (target region rflags base limit rdMask wrMask : Nat)
  | firewallGet (h : CmdHdr) (target region r : Nat)
  | egressStart (h : CmdHdr) (channel r : Nat)
  | egressStop (h : CmdHdr) (port r : Nat)
  | egressUrunClear (h : CmdHdr) (port r : Nat)
  | tensorCheck (h : CmdHdr) (use r device : Nat) (td : List Byte)
  | tensorLocate (h : CmdHdr) (g : List Nat) (td : List Byte)
  -- group 0x03 and its completions
  | graphLoad (h : CmdHdr) (payload : List Byte)
  | graphUnload (h : CmdHdr) (graph r : Nat)
  | graphStart (h : CmdHdr) (graph sflags r salt : Nat) (f0 : List Nat)
  | graphHold (h : CmdHdr) (graph r : Nat)
  | graphHoldQuiescent (graph : Nat)
  | graphResume (h : CmdHdr) (graph r : Nat)
  | graphStop (h : CmdHdr) (graph r : Nat)
  | graphStopIdle (graph : Nat)
  | graphParamSet (h : CmdHdr) (graph r entry r2 value : Nat)
  | graphStatus (h : CmdHdr) (graph r : Nat)
  -- group 0x04 and its completions
  | csiPortConfig (h : CmdHdr) (port lanes map pol i3cMode r : Nat)
  | cameraStart (h : CmdHdr) (channel r : Nat)
  | cameraStop (h : CmdHdr) (pipe r waitMs : Nat)
  | cameraStopTimeout (pipe : Nat)
  | cameraStatus (h : CmdHdr) (pipe clear r : Nat)
  | triggerSet (h : CmdHdr) (trig mode polarity r period tStart width count : Nat)
  | triggerSwitchPoint (trig : Nat)
  | sensorCommit (h : CmdHdr) (pipe r count param writes : Nat)
  | i3cTransfer (h : CmdHdr) (port addr dir len : Nat) (data : List Byte)
  -- group 0x05
  | safetyArm (h : CmdHdr) (policy : List Byte)
  | safetyDisarm (h : CmdHdr)
  | safetyStatus (h : CmdHdr)
  | safetyClear (h : CmdHdr) (source kind scope : Nat)
  | fbcLoad (h : CmdHdr) (pipe r addr : Nat)
  | fbcRead (h : CmdHdr) (pipe r : Nat)
  -- group 0x06
  | seasonSet (h : CmdHdr) (season r : Nat)
  | powerCapSet (h : CmdHdr) (watts r : Nat)
  | powerStatus (h : CmdHdr)
  | thermalSet (h : CmdHdr) (th r : Nat)
  | islandStop (h : CmdHdr) (island r : Nat)
  | islandStart (h : CmdHdr) (island r : Nat)
  -- group 0x07
  | traceStart (h : CmdHdr) (channel r : Nat)
  | traceStop (h : CmdHdr) (tch r : Nat)
  | traceStatus (h : CmdHdr)
  | traceTrigger (h : CmdHdr) (tch r : Nat)
  | traceMark (h : CmdHdr) (value : Nat)
  | counterRead (h : CmdHdr) (cls r first count r2 : Nat)
  | counterClear (h : CmdHdr) (cls r first count r2 : Nat)
  | watchSet (h : CmdHdr) (watch : List Byte)
  | watchClear (h : CmdHdr) (watch r : Nat)
  | watchArm (h : CmdHdr) (watch r : Nat)
  -- group 0x08
  | linkStart (h : CmdHdr) (channel r : Nat)
  | linkStop (h : CmdHdr) (port r : Nat)
  | linkStatus (h : CmdHdr)
  | linkRouteSet (h : CmdHdr) (first count : Nat) (ports : List Byte)
  | linkAbort (h : CmdHdr) (first last : Nat)
  | linkReserve (h : CmdHdr) (port dir r mbps : Nat)
  | linkWindowSet (h : CmdHdr) (win r base length : Nat)
  | linkWindowOpen (h : CmdHdr) (win r : Nat)
  | linkWindowClose (h : CmdHdr) (win r : Nat)
  | linkImportSet (h : CmdHdr) (entry win device epoch r base length : Nat)
  | linkIdSet (h : CmdHdr) (id r : Nat)
  | linkIdAssign (h : CmdHdr) (port r id : Nat)
  | linkMboxRelay (h : CmdHdr) (device r : Nat) (record : List Byte)
  | linkEventSink (h : CmdHdr) (device flags : Nat)
  | linkTimeJoin (h : CmdHdr)
  | linkPpsSet (h : CmdHdr) (phase flags : Nat)
  | bootRelay (h : CmdHdr) (port r addr len r2 : Nat)
  -- group 0x09
  | coreFence (h : CmdHdr) (core r : Nat)
  | coreUnfence (h : CmdHdr) (core r : Nat)
  | keyProvision (h : CmdHdr) (slot r : Nat) (hash : List Byte)
  | keyRevoke (h : CmdHdr) (slot r : Nat)
  | svnAdvance (h : CmdHdr)
  | debugEnable (h : CmdHdr) (domain r : Nat)
  | debugDisable (h : CmdHdr)
  -- monitors, time inputs, power and safety events
  | pmbAlert
  | refclkLoss
  | ppsEdge
  | ppsLost
  | thermalSensorRead (sensor : Nat) (temp : Int)
  | thermalTrip (sensor : Nat) (temp : Int)
  | budgetEpochStart (powerMw : Nat)
  | seasonChangeDone
  | counterWindowBoundary
  | vmon (rail mv : Nat)
  | clkMon (island : Nat) (ppm : Int)
  | doubtLevelEnd (source kind scope : Nat)
  | frameIntervalEnd
  | doubtPulseEnd
  | goldenRunStart (cls unit : Nat)
  | goldenRunDone (cls unit : Nat) (result : GoldenResult)
  | goldenRunOverdue (cls unit : Nat)
  | monthSlotStart
  | selfTestStart (duration : Nat)
  | selfTestDone (badChecker : Option Nat)
  -- cameras
  | csiFrameStart (port vc : Nat) (corrected : Bool)
  | csiFrameEnd (port vc : Nat) (corrected : Bool)
  | csiLongPacket (port vc dt : Nat) (samples : List Nat) (corrected crcOk : Bool) (taken codeErrs : Nat)
  | csiHeaderError (port : Nat)
  | pipelineLineDone (pipe : Nat)
  | frameComplete (pipe : Nat)
  | patternTestStart (pipe : Nat)
  | patternTestDone (pipe : Nat) (signature : Nat)
  | camTrigPulse (trig : Nat)
  | camTrigPulseEnd (trig : Nat)
  | sensorWriteDone (pipe : Nat) (ack : Bool)
  | sensorIbi (port addr : Nat) (data : List Byte)
  | i3cTransferDone (port : Nat) (ack : Bool) (data : List Byte)
  -- sequencer, engines, cores and pool
  | sourceNotice (graph lane : Nat)
  | nodeStart (node : Nat)
  | nodeComplete (node : Nat)
  | deadlockWalk (node : Nat)
  | engineRunStart (engine : Nat) (ecc : List EccHit)
  | engineRunDone (engine : Nat) (ecc : List EccHit)
  | obxObjectEmit (cluster : Nat)
  | coreUnitStart (core : Nat)
  | scalarInstruction (core : Nat) (ecc : List EccHit)
  | issue (core : Nat) (ecc : List EccHit)
  | opStart (core : Nat) (vector : Bool)
  | opComplete (core : Nat) (issueNo : Nat) (parityTiles : List Nat) (ecc : List EccHit)
  | spawn (core : Nat) (ecc : List EccHit)
  | coreUnitComplete (core : Nat)
  | itemAccept
  | itemDispatch (graph : Nat)
  | itemComplete (core : Nat)
  | resultRelease (flow : Nat)
  | recordAccept (port : Nat)
  | egressSlot (port : Nat) (found : EccFind)
  -- DMA, streams and memories
  | dmaDescriptorStart (channel : Nat) (ecc : List EccHit)
  | dmaReadReturn (channel : Nat) (ecc : List EccHit)
  | dmaDescriptorEnd (channel : Nat)
  | streamBlockStart (stream : Nat)
  | streamBlockDone (stream : Nat)
  | streamCancelled (stream : Nat)
  | fsScrubRow (bank row : Nat) (found : EccFind)
  | ddrRefresh (channel : Nat)
  | ddrMr4Poll (channel rank : Nat) (temp : Int)
  | ddrScrubGranule (addr : Nat) (isCode : Bool) (found : EccFind) (rank bank row : Nat)
  | ddrAlert (channel : Nat)
  | ddrInitDone (result : TrainResult)
  -- Holzar link
  | linkDetectPulse (port : Nat)
  | linkPeerDetected (port : Nat)
  | linkEqDone (port : Nat)
  | linkAlignDone (port txLat rxLat : Nat) (lanes : List (List Bool))
  | linkUp (port : Nat) (peer : PeerConfig)
  | linkTrainFail (port : Nat)
  | flitReceive (port : Nat) (x : Flit) (ecc : List EccHit)
  | ctrlReceive (port : Nat) (m : CtrlMsg)
  | replayTimer (port : Nat)
  | linkDown (port cause : Nat)
  | timeFlitSend (port : Nat)
  | timeFlitReceive (port : Nat) (m : TimeMsg) (arrival arrivalFr : Nat)
  | timeHoldover (cause : Nat)
  | timeStep
  | timeJoinLocked
  | write (p : Packet) (ecc : List EccHit)
  | read (p : Packet) (ecc : List EccHit)
  | semSignal (p : Packet)
  | winOpen (p : Packet)
  | winClose (p : Packet)
  | mbox (p : Packet)
  | bootData (port : Nat) (p : Packet)
  | bootEnd (port : Nat) (p : Packet)
  | idAssign (port : Nat) (p : Packet)
  | event (p : Packet)
  | transactionResponse (p : Packet)
  | bootRelayDone (port code : Nat)
  -- trace, watch and debug
  | traceRecordArrive (cls unit : Nat)
  | traceSpillCopy (tch : Nat) (ecc : List EccHit)
  | watchRead (watch : Nat) (ecc : List EccHit)
  | tapReset
  | idcode
  | sample (pins : List Bool)
  | preload (cells : List Bool)
  | extest
  | clamp
  | highz
  | bypass (code : Nat)
  | dbgAccess (dr : Nat) (ecc : List EccHit)
  | dbgAccessDone
  | hotJoin (port : Nat)
  | ctrlFlitSend (port : Nat)
deriving DecidableEq, Repr

end Sys2Proof
end

