-- ==== Sys2Proof/Decode.lean ====
section
/-! DEFINITION. The table of operations gives none of its rows a word or bits, so no word spells a command. -/

namespace Sys2Proof

/-- The command that a word of the table spells: none, because no row of the table has bits. -/
def decodeTableWord (_nbits _w : Nat) : Option Instr := none

end Sys2Proof
end

