-- ==== Sys2Proof/Machine/Bytes.lean ====
section
/-! DEFINITION. Little-endian fields (R3), CRC-32C (R70), the travel code (R184) and the pseudo-random bit sequence of
R111, over numbers so that the kernel evaluates them quickly. -/

namespace Sys2Proof.Machine

open Sys2Proof

/-- The `k` bytes of `n`, least significant first (R3). -/
def leBytes : Nat → Nat → List Byte
  | 0, _ => []
  | k + 1, n => byteOf n :: leBytes k (n / 256)

/-- The number that bytes spell, least significant first (R3). -/
def leNat : List Byte → Nat
  | [] => 0
  | b :: bs => b.toNat + 256 * leNat bs

/-- The `k`-byte field at offset `off` of a structure; bytes beyond its end count as zero. -/
def fieldAt (bs : List Byte) (off k : Nat) : Nat := leNat ((bs.drop off).take k)

/-- The same field read as two's complement. -/
def sfieldAt (bs : List Byte) (off k : Nat) : Int := signedOf (8 * k) (fieldAt bs off k)

/-- The bytes `off` to `off + k - 1` of a structure. -/
def bytesAt (bs : List Byte) (off k : Nat) : List Byte := (bs.drop off).take k

/-- Every byte of the list is zero. -/
def allZero (bs : List Byte) : Bool := bs.all (· == 0)

/-- Bytes `off` to `off + k - 1` are all zero (a reserved field, R4). -/
def zeroAt (bs : List Byte) (off k : Nat) : Bool := allZero (bytesAt bs off k)

/-- `bs` brought to exactly `k` bytes, with zeros after its end. -/
def padTo (k : Nat) (bs : List Byte) : List Byte := bs.take k ++ List.replicate (k - bs.length) 0

/-- `bs` with the bytes `w` written over it from offset `off`. -/
def overlay (bs : List Byte) (off : Nat) (w : List Byte) : List Byte :=
  bs.take off ++ w ++ bs.drop (off + w.length)

/-- The list cut into pieces of `k`; `n` bounds the number of pieces. -/
def chunks (k : Nat) : Nat → List Byte → List (List Byte)
  | 0, _ => []
  | _ + 1, [] => []
  | n + 1, bs => bs.take k :: chunks k n (bs.drop k)

/-! ### CRC-32C (R70) -/

/-- One bit of the reflected CRC with polynomial 0x1EDC6F41 (reflected 0x82F63B78). -/
def crcBit (c : Nat) : Nat := if c % 2 = 1 then (c / 2) ^^^ 0x82F63B78 else c / 2

/-- One byte of the CRC. -/
def crcByte (c : Nat) (b : Byte) : Nat :=
  crcBit (crcBit (crcBit (crcBit (crcBit (crcBit (crcBit (crcBit (c ^^^ b.toNat))))))))

/-- The CRC register after the bytes, from a given register. -/
def crcRun (c : Nat) (bs : List Byte) : Nat := bs.foldl crcByte c

/-- CRC-32C of a byte string: initial value and final XOR of all ones (R70). -/
def crc32c (bs : List Byte) : Nat := crcRun 0xFFFFFFFF bs ^^^ 0xFFFFFFFF

/-! ### Travel codes (R184, R185) -/

/-- One bit of the unreflected CRC with polynomial 0x8BB7. -/
def tcBit (r : Nat) : Nat :=
  if r / 0x8000 % 2 = 1 then ((r * 2) ^^^ 0x8BB7) % 0x10000 else r * 2 % 0x10000

/-- One byte of the travel code, most significant bit first. -/
def tcByte (r : Nat) (b : Byte) : Nat :=
  tcBit (tcBit (tcBit (tcBit (tcBit (tcBit (tcBit (tcBit (r ^^^ (b.toNat * 256)))))))))

/-- The travel code over a byte string (R184; R411 takes it over 30 bytes). -/
def tc (bs : List Byte) : Nat := bs.foldl tcByte 0xFFFF

/-- What a poisoned code differs by from a good one (R185). -/
def poisonMark : Nat := 0x6C39

/-! ### PRBS-15 (R111) -/

/-- The next bit of x^15 + x^14 + 1 and the state after it. -/
def prbsStep (s : Nat) : Nat × Nat :=
  let n := ((s >>> 14) ^^^ (s >>> 13)) % 2
  (n, ((s <<< 1) ||| n) % 0x8000)

/-- `k` successive bits as a word, first bit most significant, with the state after them. -/
def prbsWord : Nat → Nat → Nat → Nat × Nat
  | 0, acc, s => (acc, s)
  | k + 1, acc, s => let (b, s') := prbsStep s; prbsWord k (acc * 2 + b) s'

/-- `n` successive `k`-bit words of the sequence. -/
def prbsWords (k : Nat) : Nat → Nat → List Nat
  | 0, _ => []
  | n + 1, s => let (w, s') := prbsWord k 0 s; w :: prbsWords k n s'

end Sys2Proof.Machine
end

