-- ==== Sys2Proof/Config.lean ====
section
/-! DEFINITION. What an implementation or a board fixes and the manual does not state as a number, and the free values:
each is a constant without a body, so that nothing can be proved of its value. The assumption log names every one. -/

namespace Sys2Proof

/-- The hash that Viling programs into OTP slot 0 at manufacture (after the table of R60). Log entry 4. -/
opaque Config.vilingKeyHash : List Byte

/-- [31:28] of IDCODE, the silicon revision, which the boundary-scan file gives (R486). Log entry 5. -/
opaque Config.siliconRevision : BitVec 4

/-- [11:1] of IDCODE, Viling's manufacturer identity, which the boundary-scan file gives (R486). Log entry 5. -/
opaque Config.manufacturerId : BitVec 11

/-- Byte `a` of function 0's space outside the registers that the model holds (R53, R55). Log entry 6. -/
opaque Config.function0Byte : Nat → Byte

/-- Where the CIS of function 0 holds its manufacturer tuple (R53): the manual gives the tuple's codes. Log entry 6. -/
opaque Config.cisManfid : Nat

/-- A byte of function 1 to 3 at an address at which the manual places no register and no port. Log entry 72. -/
opaque Config.functionByte : Nat → Nat → Byte

/-- First and last page of the firewall region that guards the monitor's memory, the policy, the FBC tables and the age and
formatter settings in engine and block control space (R21, R23): the manual says that it is locked, not where it lies.
Log entry 73. -/
opaque Config.guardFirst : BitVec 36
/-- DESIGN CHOICE: log entry 73. -/
opaque Config.guardLast : BitVec 36

/-- The boundary-scan cell of an output pin, by the number of the pin: the boundary-scan file gives the order (R51, R486). Log
entry 5. DESIGN CHOICE: log entry 5. -/
opaque Config.scanCell : Nat → Nat

/-- The byte that a stop or a refused access leaves at an address where the manual calls the contents undefined
(R140, R248, R281, R332, R333): a fresh value for each use, by the counter of the state and the address. Log entry 7. -/
opaque Config.freeByte : Nat → Nat → Byte

/-- A number the manual leaves open where an operation still completes (named where it is used). Log entry 8. -/
opaque Config.freeNat : Nat → Nat → Nat

/-- The sample stored when a warp's CODED source gives a value or a code that the destination's format cannot hold (R127,
R133): by the format and the value. Log entry 57. -/
opaque Config.codedOut : Nat → Int → Nat

/-- The frame-store share that admission takes of a core that gathers crops, by its start record or its flow's list (R174,
R175): the manual names no source of its bytes per second. Log entry 58. -/
opaque Config.cropShare : List Byte → Nat

/-- Hops of the path from this device to another: a route table names ports, not lengths (R371, R380). Log entry 38. -/
opaque Config.pathHops : Nat → Nat

end Sys2Proof
end

