-- ==== Sys2Proof/Machine/State.lean ====
section
/-! DEFINITION. The state of the block as plain data, the (empty) reasons a step can fault, the reasons it can refuse,
and the state right after reset. Every register, FIFO, buffer, counter, mode and pin the manual names has its place
here. Sparse collections are lists of (key, value) pairs in rising key order; what a key that is not listed stands for
is said at each field. -/

namespace Sys2Proof.Machine

open Sys2Proof

/-- A table by number: sorted by key, each key once. -/
abbrev Tab (α : Type) := List (Nat × α)

/-- Reasons a step stops with a fault. There are none: on every error the device reports and goes on (R27), and a
refused command answers with a status. Nobody raises a fault; the empty type is safe, because it allows no stop. -/
inductive Fault where
deriving DecidableEq, Repr

/-- Reasons a step has no meaning. -/
inductive Refusal where
  /-- Raised by the dispatcher alone, for a row of the table that has no meaning yet; safe: nothing can be proved of it. -/
  | notModelled (mnemonic : String)
deriving DecidableEq, Repr

/-- The status space of R491, the boot status codes of R61 included. -/
inductive Status where
  | ok | badLength | crcErr | seqConflict | seqStale | badField | badOpcode | denied | state | busy
  | badParam | range | aliased | overlap | badEntry | badImage | late | fenced
  | nofit | cycle | norate
  | unmapped | islandOff | travelErr | stopped | trainFail
  | windowClosed | noWindow | linkDown | unreachable | loop | aborted | notReady
  | boot (code : Nat)
deriving DecidableEq, Repr

/-! ### Reset, clocks and pins (chapter 2) -/

/-- How far release from reset has come (R38, R39). -/
inductive RelPhase where
  | held        -- a condition of R38 holds
  | locking     -- from t0: the AON PLL locks
  | locked      -- t0 + 20 µs: BOOT_SRC latched
  | aonUp       -- t0 + 22 µs: AON released
  | sdioUp      -- t0 + 100 µs: the SDIO function answers
deriving DecidableEq, Repr

/-- Level of an output pin. -/
inductive Pin where
  | z
  | lo
  | hi
deriving DecidableEq, Repr

/-- Reset conditions, latches and the pins of the AON island (R34 to R47). -/
structure ResetUnit where
  pwrGood : Bool
  porstN : Bool
  railsUp : BitVec 9
  refclk : Bool
  phase : RelPhase
  t0 : Nat
  bootSrc : BitVec 2
  tripped : Bool
  refLostAt : Option Nat
  refGoodAt : Option Nat
  vddSdio18 : Bool
  sdio18 : Bool
  vrmAddr : BitVec 7
  vrmMv : Nat
  pmbDriven : Bool
deriving DecidableEq, Repr

/-- Where the SDIO card stands in the standard's state machine (R53). -/
inductive CardState where
  | idle
  | standby
  | selected
  | inactive
deriving DecidableEq, Repr

/-- Function 0 of the SDIO interface (R53, R55): the CCCR bytes the device uses, the last response, the bytes of the last
read, and the bytes that the last writes to offsets 0 to 2 of a register of functions 1 and 3 left (R56). -/
structure SdioCard where
  card : CardState
  rca : Nat
  ioe : BitVec 8
  ien : BitVec 8
  busCtl : BitVec 8
  speed : BitVec 8
  blkSize : Tab Nat
  resp : Nat
  data : List Byte
  latch : List Byte
deriving DecidableEq, Repr

/-! ### Boot ROM, OTP and firmware (chapter 3) -/

/-- The boot ROM, OTP and the state of the control processor's firmware (R57 to R68). -/
structure BootUnit where
  phase : BitVec 8
  code : BitVec 16
  received : Nat
  bodyLen : Option Nat
  verifying : Bool
  srcPort : Option Nat
  relayReq : Option Packet
  otpErr : Bool
  keyHash : List (List Byte)
  keyRevoke : BitVec 4
  svnFuse : BitVec 64
  svn : Nat
  keySlot : Nat
  buildId : Nat
  fwReady : Bool
  fwHalt : Bool
deriving DecidableEq, Repr

/-! ### Mailbox, events, bulk and channel table (chapter 3) -/

/-- Where a record came from: the host's own mailbox, or LINK_MBOX_RELAY of another device (R387, R495). -/
inductive RecSrc where
  | host
  | relay (dev tag gen : Nat)
deriving DecidableEq, Repr

/-- A command record (R69). `resv` is the offset of the first of its header's reserved fields that is not zero. -/
structure MbRec where
  src : RecSrc
  opcode : Nat
  hdr : CmdHdr
  resv : Option Nat
  payload : List Byte
deriving DecidableEq, Repr

/-- What a command whose response comes later waits for. -/
inductive WaitKind where
  | dmaStop (ch : Nat)
  | graphHold (g : Nat)
  | graphStop (g : Nat)
  | cameraStop (pipe : Nat)
  | i3c (port : Nat)
  | ddrInit
  | season
  | traceStop (tch : Nat)
  | timeJoin
  | relay (req : Nat)
  | idAssign (req : Nat)
deriving DecidableEq, Repr

/-- What a command answers: its response now, or the completion it waits for. -/
inductive CmdRes where
  | done (st : Status) (payload : List Byte)
  | wait (w : WaitKind)
deriving DecidableEq, Repr

/-- One place of the execution order (R71, R74): a record that is queued, one that executes and whose response comes
later, or a response that waits to be read. -/
inductive MbEntry where
  | queued (r : MbRec)
  | exec (r : MbRec) (w : WaitKind)
  | resp (src : RecSrc) (bytes : List Byte)
deriving DecidableEq, Repr

/-- One executed record of the history (R73). -/
structure HistEntry where
  seq : Nat
  opcode : Nat
  crc : Nat
  resp : List Byte
deriving DecidableEq, Repr

/-- Function 1 and firmware's record of executed commands (R56, R69 to R74). -/
structure Mailbox where
  part : Option (List Byte)
  discarding : Bool
  order : List MbEntry
  rspPos : Nat
  history : List HistEntry
  dupCnt : BitVec 16
  lenErr : Bool
  overrun : Bool
  intEn : BitVec 3
deriving DecidableEq, Repr

/-- An event record (R497). -/
structure EvRec where
  t : Nat
  code : Nat
  cls : Nat
  unit : Nat
  origin : Nat
  straddle : Bool
  refLost : Bool
  forwarded : Bool
  u : Nat
  eseq : Nat
  arg : List Byte
deriving DecidableEq, Repr

/-- Function 3: the event FIFO, the events dropped and the sink of R388 (R75, R76, R388). -/
structure EventUnit where
  fifo : List EvRec
  pos : Nat
  lost : Nat
  eseq : Nat
  intEn : Bool
  sink : Option Nat
  sinkLost : Nat
deriving DecidableEq, Repr

/-- An open bulk transfer (R77, R78). `part` holds bytes of a granule that is not yet whole. -/
structure BulkXfer where
  addr : Nat
  len : Nat
  dom : Nat
  done : Nat
  part : List Byte
  bad : Nat
  firstBad : Nat
  mism : Nat
deriving DecidableEq, Repr

/-- Function 2 under firmware (R77, R78). -/
structure BulkUnit where
  wr : Option BulkXfer
  rd : Option BulkXfer
  extraWr : Nat
  extraRd : Nat
deriving DecidableEq, Repr

/-- The channel table and its cache of up to 256 entries, most recently used first (R79 to R81). -/
structure ChanTab where
  base : Nat
  count : Nat
  cache : List (Nat × List Byte)
deriving DecidableEq, Repr

/-- One firewall region: FW_BASEn, FW_LIMITn and FW_PERMn (R17, R21). -/
structure FwRegion where
  base : BitVec 36
  limit : BitVec 36
  en : Bool
  lock : Bool
  rd : BitVec 16
  wr : BitVec 16
deriving DecidableEq, Repr

/-! ### Cameras (chapter 4) -/

/-- A pipeline's channel body (R89). -/
structure PipeCfg where
  vc : Nat
  dt : Nat
  pattern : Nat
  phase : Nat
  deep : Bool
  csc : Bool
  nir : Bool
  test : Bool
  width : Nat
  height : Nat
  slots : Nat
  lat : Nat
  linePitch : Nat
  planePitch : Nat
  slotPitch : Nat
  fsBase : Nat
  statBase : Nat
  snsAddr : Nat
  snsFmt : Nat
  expOffset : Nat
  winMin : Nat
  winMax : Nat
  fsLat : Nat
  linePeriodMin : Nat
  dpc : List (Nat × Nat)
  fsJit : Nat
deriving DecidableEq, Repr

/-- Where a settings commit stands (R107, R108). -/
inductive CommitState where
  | waiting             -- no write sent yet
  | writing (next : Nat) -- `next` writes have completed
  | written             -- the last write has ended
  | effective (f : Nat) -- takes effect at frame f
deriving DecidableEq, Repr

/-- A settings commit (R107). An absent parameter block leaves the one in force. `kept` says that it was pending at a
CAMERA_START and applies with the first frame, `applied` that it did so while its writes go on. -/
structure Commit where
  gen : Nat
  param : Option (List Byte)
  writes : List (Nat × Nat)
  accepted : Nat
  kept : Bool
  applied : Bool
  st : CommitState
deriving DecidableEq, Repr

/-- The frame a pipeline is receiving or completing (R98 to R100). `lines` are the raw lines as the pipeline takes them,
top first; `next` is the next line to be written; `ended` says that the event that ends the frame has come; `codeErrs` counts
the granules whose travel codes the pipeline found failing at its input (R86). -/
structure Frame where
  cnt : Nat
  gen : Nat
  param : List Byte
  flags : Nat
  tExp : Nat
  tFs : Nat
  linePeriod : Nat
  tUnc : Nat
  rcvd : Nat
  shortLines : Nat
  longLines : Nat
  crcLines : Nat
  codeErrs : Nat
  dpcCnt : Nat
  lines : List (List Nat)
  next : Nat
  ended : Bool
  hist : Tab Nat
  zones : Tab Nat
deriving DecidableEq, Repr

/-- A blanking test in progress (R111). -/
structure PatTest where
  gen : Nat
  param : List Byte
  frame : Nat
  start : Nat
deriving DecidableEq, Repr

/-- A pipeline that a channel has configured (R82 to R114). `relAt` is the moment that released the settings writes which wait
for the bus (R106); `bufFill` samples stood in the input buffer at `bufAt` (R87). -/
structure Pipe where
  chan : Nat
  dom : Nat
  cfg : PipeCfg
  running : Bool
  stopAt : Option Nat
  frameCnt : Nat
  gen : Nat
  nextGen : Nat
  param : List Byte
  commits : List Commit
  cur : Option Frame
  dropped : Option Nat
  closing : Option Frame
  patFailNext : Bool
  test : Option PatTest
  testDue : Option PatTest
  edges : List Nat
  lineEdge : Option Nat
  relAt : Nat
  bufFill : Nat
  bufAt : Nat
  orphans : Nat
  cnt : List Nat
deriving DecidableEq, Repr

/-- A host transfer of R106 on a sensor bus. -/
structure I3cXfer where
  addr : Nat
  read : Bool
  len : Nat
  data : List Byte
deriving DecidableEq, Repr

/-- A CSI-2 port and its sensor bus (R83, R101, R105, R106). `i3cOn` says that the bus controller is enabled (R48); `writers` are
the pipelines whose settings writes wait or run, first served first; `busWrite` says that a settings write is on the bus. -/
structure CsiPort where
  lanes : Nat
  map : Nat
  pol : Nat
  i3cMode : Nat
  i3cOn : Bool
  cnt : List Nat
  writers : List Nat
  busWrite : Bool
  host : Option I3cXfer
  hostQueue : List I3cXfer
deriving DecidableEq, Repr

/-- A trigger schedule (R102). -/
structure TrigSched where
  mode : Nat
  activeLow : Bool
  start : Nat
  period : Nat
  width : Nat
  count : Nat
deriving DecidableEq, Repr

/-- A trigger line (R102, R103): the running schedule, its pulses emitted, its next active edge, a pulse in progress,
the pulses that began in it as (end, active level), the accepted update, and the pin. -/
structure Trig where
  sched : TrigSched
  emitted : Nat
  nextEdge : Option Nat
  pulseEnd : Option Nat
  laterEnds : List (Nat × Pin)
  update : Option TrigSched
  pin : Pin
deriving DecidableEq, Repr

/-! ### Region flags and the sequencer (chapters 7 and 8) -/

/-- A region flag word (R181): FRAME, PEND (four bits per consumer) and CMASK. -/
structure Flag where
  frame : BitVec 16
  pend : BitVec 32
  cmask : BitVec 8
deriving DecidableEq, Repr

/-- Who produces a flag (R182). -/
inductive Producer where
  | pipe (p : Nat)
  | node (n : Nat)
  | stream (s : Nat)
deriving DecidableEq, Repr

/-- A flag's binding by a loaded graph (R182). `consumers` lists (index j, node). -/
structure FlagBind where
  graph : Nat
  producer : Option Producer
  consumers : List (Nat × Nat)
deriving DecidableEq, Repr

/-- A semaphore entry (R201). An unbound semaphore has GRAPH 0xFF. `impK` and `arrive` are K and ARRIVE of the import entry of
a remotely signalled one (R219). -/
structure Sem where
  count : Nat
  init : Nat
  waiter : Option Nat
  signaler : Option Nat
  sigDev : Nat
  remote : Bool
  graph : Nat
  blocked : Bool
  signals : Nat
  impK : Nat
  arrive : Nat
deriving DecidableEq, Repr

/-- A run of a node in progress: its iteration, frame counter, release, start, and whether its unit has finished. -/
structure NodeRun where
  iter : Nat
  f : Nat
  rel : Nat
  start : Nat
  unitDone : Bool
deriving DecidableEq, Repr

/-- A node-table entry (R196) with the node's run, its registration under R213, its slip counter (R212), and what
admission fixed for it: LATEST, W and J per season (R208, R209). Node and unit numbers are device numbers. -/
structure Node where
  kind : Nat
  safety : Bool
  iterEnd : Bool
  unit : Nat
  depInit : Nat
  cnt0 : Nat
  cnt1 : Nat
  desc : Nat
  descLen : Nat
  eclass : Nat
  edgeFirst : Nat
  edgeCnt : Nat
  waitCnt : Nat
  waitFirst : Nat
  lane : Nat
  graph : Nat
  iter : Nat
  lates : List Nat
  ws : List Nat
  js : List Nat
  run : Option NodeRun
  registered : Bool
  reported : Bool
  slips : Nat
  slipWindow : Option Nat
deriving DecidableEq, Repr

/-- One lane of a graph (R191, R192): the frame counter of its next notice, the notices that have arrived and released no
iteration yet as (arrival, f), and the iterations released and not completed as (iteration, release, f). -/
structure Lane where
  remote : Bool
  src : Nat
  period : Nat
  source : Nat
  latMax : Nat
  fNext : Option Nat
  f0 : Nat
  notices : List (Nat × Nat)
  started : Nat
  open_ : List (Nat × Nat × Nat)
  lastRel : Option Nat
deriving DecidableEq, Repr

/-- States of a graph (R190). -/
inductive GState where
  | loaded
  | running
  | held
deriving DecidableEq, Repr

/-- What a loaded graph charges to the resources of R206 that no other table shows. -/
structure Charge where
  fsBytes : Nat
  fsShare : Nat
  spm : Tab Nat
  ddr : List Nat
  ddrKib : Nat
  link : Tab Nat
  actions : Nat
  pipes : List Nat
deriving DecidableEq, Repr

/-- A loaded graph (R190 to R220). `holding` and `stopping` say that GRAPH_HOLD or GRAPH_STOP is
accepted and not completed; `holdAcc` is the first acceptance number of the pool after the hold; `order` rises with each
load. -/
structure Graph where
  st : GState
  order : Nat
  holding : Bool
  holdAcc : Nat
  stopping : Bool
  dom : Nat
  salt : Nat
  mask : Nat
  sx7 : Bool
  ways : List Nat
  base : Nat
  nodes : Nat
  linkBase : Nat
  linkLen : Nat
  descBase : Nat
  descLen : Nat
  lanes : List Lane
  pool : List Nat
  tensors : List (List Byte)
  edits : List (List Byte)
  aborted : Nat
  charge : Charge
deriving DecidableEq, Repr

/-! ### Vision engines (chapters 5 and 6) -/

/-- A frame header as an engine reads it (R98, R120). -/
structure FrameHdr where
  cnt : Nat
  gen : Nat
  flags : Nat
  tExp : Nat
  tUnc : Nat
  linePeriod : Nat
  eflags : Nat
deriving DecidableEq, Repr

/-- A connected component of the object engine (R164): its pixels as (plane sums are taken at the end) runs of
(x, y, samples, disparity code) with y counted over its span. -/
structure Comp where
  firstX : Nat
  firstY : Nat
  pixels : List (Nat × Nat)
  sums : List Nat
  dispSum : Int
  dispCnt : Nat
  poison : Bool
  carried : Bool
  spans : List FrameHdr
  lastLine : List Nat
  oflags : Nat
deriving DecidableEq, Repr

/-- A run of an engine (R115): the node it serves, f, its descriptor and the source headers it read, and, for OBX, what its
pass over the pixels found (poisoned or coded inputs, poisoned output granules) and the closed objects still to be
emitted, with the number beyond MAX_OBJ; `maps` are the meshes it read whole at its start, side by side, and whether each met bad
granules (R129, R137); `fails` lists the failing granules that the run has met so far (R189), and `ruleBad` those of the fallback
table that its objects met (R435). -/
structure EngRun where
  node : Option Nat
  f : Nat
  tBegin : Nat
  desc : List Byte
  begun : Bool
  stopping : Bool
  hdrA : FrameHdr
  hdrB : FrameHdr
  stale : Bool
  poison : Bool
  coded : Bool
  poisonGran : Nat
  objects : List Comp
  emitted : Nat
  lost : Nat
  maps : List (List Byte × Bool)
  fails : List Nat
  ruleBad : List Nat
deriving DecidableEq, Repr

/-! ### Cores (chapters 9 and 10) -/

/-- What a unit of work is: a node at its iteration, or a pool item of a flow (R222, R239). -/
inductive Work where
  | node (n : Nat)
  | item (flow acc copy : Nat)
deriving DecidableEq, Repr

/-- An operation issued and not completed (R245, R246): its record, its queue, the descriptors it names in the order IN0,
IN1, IN2, OUT, and TOPK's index tensor (a VPROG: its program alone), its footprints in scratchpad rows (first, last), the
scalar registers at issue with those that a bad granule fed, and whether it has started. -/
structure CoreOp where
  issueNo : Nat
  vector : Bool
  record : List Byte
  tds : List (List Byte)
  started : Bool
  pipe : Nat
  reads : List (Nat × Nat)
  writes : List (Nat × Nat)
  snap : List Nat
  snapBad : BitVec 32
deriving DecidableEq, Repr

/-- A posted result (R273). -/
structure PostVal where
  cls : Nat
  conf : Nat
  aux : Nat
  poison : Bool
deriving DecidableEq, Repr

/-- A unit of work on a core (R250 to R254): scalar registers, program counter, operations, counts and end status. `vout`
counts the accesses of vector programs outside their footprints (R277); `fails` lists the failing granules met, and bit r of
`taint` says that a failing or poisoned granule fed scalar register r (R189). -/
structure CoreUnit where
  work : Work
  hi : Nat
  lo : Nat
  seed : Nat
  rnd : Nat
  list : Nat
  listLen : Nat
  cycMax : Nat
  start : Nat
  regs : List Nat
  taint : BitVec 32
  pc : Nat
  begun : Bool
  ended : Bool
  status : Status
  issued : Nat
  pendingIssue : Option Nat
  ops : List CoreOp
  accSat : Nat
  outSat : Nat
  oob : Nat
  vout : Nat
  parity : Nat
  posted : Option PostVal
  postsLost : Nat
  refused : Option Nat
  fails : List Nat
deriving DecidableEq, Repr

/-- A core (R221, R222): its fence, its unit of work, its scalar registers (those of the unit of work while one runs), the
accumulators of its two sets (key set × 4096 + row × 64 + column), vector registers with their poison bits, and the vector
masks m1 to m3. -/
structure CoreSt where
  fenced : Bool
  unit : Option CoreUnit
  sregs : List Nat
  acc : Tab Int
  accSet : Nat
  vregs : Tab (List Byte)
  vpoison : BitVec 32
  vmask : Tab Nat
deriving DecidableEq, Repr

/-! ### Pool and egress (chapters 11 and 16) -/

/-- One copy of an item on a core (R293). `ended` says that the core has signalled the pool, `done` that the pool has taken
the signal. -/
structure ItemCopy where
  core : Nat
  ended : Bool
  done : Bool
  post : Option PostVal
  status : Status
deriving DecidableEq, Repr

/-- An accepted item in its flow's window (R285 to R291), numbered by acceptance. -/
structure PItem where
  acc : Nat
  seq : Nat
  eclass : Nat
  addr : Nat
  f : Nat
  rel : Nat
  void : Bool
  status : Status
  dup : Bool
  copies : List ItemCopy
  first : Option Nat
  done : Bool
  slip : Bool
  t : Nat
deriving DecidableEq, Repr

/-- A bound flow (R283). `spawner` and `graph` are device numbers. -/
structure Flow where
  graph : Nat
  ordered : Bool
  safety : Bool
  eclass : Nat
  spawner : Nat
  lane : Nat
  prio : Nat
  list : Nat
  listLen : Nat
  cycMax : Nat
  q : Nat
  dupTol : Nat
  itemLatest : Nat
  args : List Nat
  window : List PItem
  nextAcc : Nat
  lastSeq : Option Nat
  seqSkips : Nat
  lastCore : Option Nat
  iterItems : Tab Nat
  excessWindow : Option Nat
  slipWindow : Option Nat
  slips : Nat
  discarded : Nat
deriving DecidableEq, Repr

/-- An item submitted and not yet accepted (R285): the submitting node, the 16 bytes and its stamp. -/
structure Submission where
  node : Nat
  bytes : List Byte
  f : Nat
  rel : Nat
deriving DecidableEq, Repr

/-- The pool: bound flows by flow ID, submissions in order, and the device-wide counts of R287. -/
structure PoolUnit where
  flows : Tab Flow
  subs : List Submission
  nextAcc : Nat
  unbound : Nat
deriving DecidableEq, Repr

/-- An object stub (R407). -/
structure Stub where
  seq : Nat
  frameCnt : Nat
  tObj : Nat
  tUnc : Nat
  pipe : Nat
  flags : Nat
  oflags : Nat
  fbClass : Nat
  poison : Bool
deriving DecidableEq, Repr

/-- A result record before its CODE (R410), with what acceptance needs: the stream and the cores that ran the item. -/
structure ResRec where
  objId : Nat
  frameCnt : Nat
  tExp : Nat
  tAct : Nat
  priClass : Nat
  priConf : Nat
  pipe : Nat
  fbClass : Nat
  verdict : Nat
  doubt : Bool
  priVoid : Bool
  duplicated : Bool
  kind : Nat
  underrun : Bool
  edge : Bool
  actSat : Bool
  flags : Nat
  tUnc : Nat
  cores : List Nat
deriving DecidableEq, Repr

/-- An egress stream (R406, R415) with the stubs that the formatter holds for it, by SEQ mod 1,024 (R407). -/
structure EStream where
  flow : Nat
  actAux : Bool
  actDelay : Nat
  ageMax : Nat
  stubs : Tab Stub
  lateWindow : Option Nat
deriving DecidableEq, Repr

/-- An egress port (R414 to R421): the records that the formatter presents to it in order, each with its stream, the banks
as lists in acceptance order, the last record removed, pins and counts. -/
structure EPort where
  running : Bool
  chan : Nat
  dom : Nat
  wmHi : Nat
  wmLo : Nat
  streams : List EStream
  queue : List (Nat × ResRec)
  fill : List ResRec
  readB : List ResRec
  last : Option ResRec
  out : List Byte
  wm : Pin
  urun : Pin
  driven : Bool
  underruns : Nat
  discarded : Nat
deriving DecidableEq, Repr

/-! ### DMA, streams and the weight cache (chapter 13) -/

/-- A descriptor, node list or block in progress on a channel (R325, R331, R335): the node it serves, its place in the
ring, list or stream, f, and the descriptor with the two tensor descriptors in force. `busy` says that a descriptor is in
progress; `reads` granules are still to return; `todo` are those of this device that have not returned, or those of another
device that have not been asked for; `got` are the granules that came, with their marks; `writes` remote writes are outstanding;
`written` says that the data has been moved. The totals are a node's. -/
structure DmaRun where
  node : Option Nat
  index : Nat
  f : Nat
  start : Nat
  busy : Bool
  desc : List Byte
  src : List Byte
  dst : List Byte
  reads : Nat
  todo : List Nat
  got : Tab (List Byte × Nat)
  writes : Nat
  written : Bool
  bytes : Nat
  oobR : Nat
  oobW : Nat
  bad : Bool
  mism : Nat
  firstBad : Nat
  status : Status
  totalBytes : Nat
  totalOob : Nat
  descDone : Nat
deriving DecidableEq, Repr

/-- A DMA channel (R320, R330). -/
structure DmaChan where
  engine : Nat
  dom : Nat
  ring : Bool
  ringLog : Nat
  share : Nat
  tags : Nat
  ringBase : Nat
  head : Nat
  running : Bool
  parked : Bool
  kick : Bool
  stopping : Bool
  graph : Option Nat
  run : Option DmaRun
deriving DecidableEq, Repr

/-- An attached stream (R344 to R347). `rearms` are the blocks from which a new source BASE holds, the latest first. -/
structure StreamSt where
  chan : Nat
  graph : Nat
  lane : Nat
  dom : Nat
  engine : Nat
  nbufLog : Nat
  share : Nat
  tags : Nat
  wcache : Bool
  kind : Nat
  perm : Nat
  srcTd : List Byte
  dstTd : List Byte
  dstPitch : Nat
  srcStep : Nat
  srcWrap : Nat
  flag0 : Nat
  next : Nat
  rearms : List (Nat × Nat)
  active : Bool
  halted : Bool
  cancelling : Bool
  run : Option DmaRun
  discard : Nat
  unread : List (Nat × Nat)
deriving DecidableEq, Repr

/-- One line of the weight cache (R342): its address, way, bytes and the mark of its code; lines stand in order of use,
most recent first. -/
structure WLine where
  addr : Nat
  way : Nat
  data : List Byte
  mark : BitVec 16
deriving DecidableEq, Repr

/-! ### Holzar link (chapter 14) -/

/-- States of a link port (R356), in the order of LINK_STATUS. -/
inductive LState where
  | disabled
  | detect
  | eq
  | align
  | config
  | active
  | lost
deriving DecidableEq, Repr

/-- A flit held in the replay buffer with its packet and the number of times it has been sent again (R366 to R368). -/
structure HeldFlit where
  flit : Flit
  pkt : Packet
  resent : Nat
deriving DecidableEq, Repr

/-- A packet at an output: its virtual channel, its source of R365 (12: the device's own injection point), its flits that have
not left, as (KIND, CHECK, payload), and whether all of its flits have reached the output (R362). -/
structure OutPkt where
  pkt : Packet
  vc : Nat
  src : Nat
  flits : List (Nat × Nat × List Byte)
  whole : Bool
deriving DecidableEq, Repr

/-- Where the packet that a port receives goes, as its head decided (R362, R372, R373, R376, R378). -/
inductive RxRoute where
  | here                    -- this device takes it
  | forward (port : Nat)    -- it goes on by another port
  | refused (status : Nat)  -- it cannot go on
  | dropped                 -- its head check failed
deriving DecidableEq, Repr

/-- A link port (R350 to R371, R390 to R392). `outQ` holds the packets that wait and `cur` the one that the output sends;
`rxPart` and `rxRoute` are the flits so far of the packet that it receives. `scrAt` is the moment at which the transmit scramblers
were seeded, and `rxGen` with `rxGenAt` what the receivers loaded (R352). `misaligned` says that a flit has shown lost alignment. -/
structure LinkPort where
  st : LState
  since : Nat
  chan : Option Nat
  timeParent : Bool
  reverse : Bool
  rxPol : Nat
  txPol : Nat
  preset : Nat
  asym : Int
  txLat : Nat
  rxLat : Nat
  peer : Option PeerConfig
  pulses : Nat
  txSeq : Nat
  rxExp : Nat
  nakSent : Bool
  nakOwed : Bool
  ackOwed : Bool
  replay : List HeldFlit
  credSent : List Nat
  credSeen : List Nat
  freed : List Nat
  crcRun : Nat
  rxPart : List Flit
  rxRoute : RxRoute
  misaligned : Bool
  scrAt : Nat
  rxGen : List Nat
  rxGenAt : Nat
  outQ : List OutPkt
  cur : Option OutPkt
  lastVc : Nat
  lastSrc : List Nat
  lastCtrl : Option CtrlMsg
  lastTime : Option TimeMsg
  xseq : Nat
  peerTime : Option (TimeMsg × Nat × Nat)
  thetas : List Int
  skipRun : Nat
  skipped : Nat
  thetaWindow : Option Nat
  replays : Nat
  replayWindow : Option Nat
  stomps : Nat
  crcErrs : Nat
  dups : Nat
deriving DecidableEq, Repr

/-- An outstanding transaction of this device (R377): for a read or a write of a mover its granules and the bytes that it
writes, for a boot relay its port as `addr`. -/
structure Txn where
  dst : Nat
  kind : Nat
  addr : Nat
  grans : Nat
  bytes : Nat
  win : Nat
  wait : Option WaitKind
  chan : Option Nat
  rsp : List Byte
deriving DecidableEq, Repr

/-- A request that waits for a tag (R377): its transaction, its packets, and the port of a hop-local one. -/
structure TagReq where
  txn : Txn
  pkts : List Packet
  port : Option Nat
deriving DecidableEq, Repr

/-- An exported window (R382); `closedSeen` holds the sources and counter windows whose WINDOW_CLOSED event has been raised,
`closedCount` the failures counted without one (R383). -/
structure Window where
  base : Nat
  length : Nat
  open_ : Bool
  epoch : Nat
  closedSeen : List (Nat × Nat)
  closedCount : Nat
deriving DecidableEq, Repr

/-- An entry of the import table (R385). -/
structure Import where
  device : Nat
  win : Nat
  base : Nat
  length : Nat
  epoch : Nat
  stale : Bool
deriving DecidableEq, Repr

/-- States of the device's time (R390, R393, R394). -/
inductive TState where
  | unlocked
  | acquiring
  | locked
  | holdover
deriving DecidableEq, Repr

/-- The installation side of the link (R372 to R396). `tagWait` are the requests that wait for a tag, first come first, `reqCnt`
numbers the requests of commands, and `relayPorts` are the ports on which a boot relay runs. -/
structure Installation where
  id : Nat
  joined : Bool
  routes : Tab Nat
  lastTag : Nat
  gen : Nat
  txns : Tab Txn
  windows : Tab Window
  imports : Tab Import
  reserve : Tab Nat
  arrived : List Packet
  relayParts : List (Nat × Nat × List Byte)
  discarded : Nat
  tstate : TState
  depth : Nat
  joinWait : Bool
  joinStep : Int
  rate : Int
  ppsOn : Bool
  ppsPhase : Nat
  ppsLast : Option Nat
  ppsLost : Bool
  relayPorts : List Nat
  tagWait : List TagReq
  reqCnt : Nat
deriving DecidableEq, Repr

/-! ### DDR5 (chapter 15) -/

/-- The DDR5 controllers (R397 to R405). -/
structure DdrUnit where
  training : Bool
  ready : Bool
  cfg : List Byte
  usable : Nat
  hot : List Bool
  refreshes : List Nat
  scrubbed : Nat
deriving DecidableEq, Repr

/-! ### Safety (chapter 17) -/

/-- States of a doubt condition (R430). -/
inductive CState where
  | clear
  | transient
  | persistent
deriving DecidableEq, Repr

/-- A doubt condition: row of *Doubt sources* (from 1), scope kind and index of R493, its state, passes and the
intervals in which it failed, newest first; the present level of a level source; and what the interval in progress holds. -/
structure Cond where
  source : Nat
  kind : Nat
  scope : Nat
  st : CState
  passes : Nat
  fails : List Nat
  level : Bool
  levelSeen : Bool
deriving DecidableEq, Repr

/-- A golden run in progress or made in this interval (R436, R437). -/
structure Golden where
  cls : Nat
  unit : Nat
  started : Option Nat
  done : Bool
  passed : Bool
deriving DecidableEq, Repr

/-- The safety monitor (R425 to R441). `interval` and `month` are the frame interval and the month slot in progress;
`deferrals` count each group's consecutive deferrals, `overdue` lists the groups that are TEST_OVERDUE, `openings` holds when
the safety windows open that releases during the test in progress set for the units it stalls, and `overlaps` counts those that
opened during a test. -/
structure SafetyUnit where
  armed : Bool
  policy : List Byte
  smFault : Bool
  cpStall : Bool
  heartbeat : Nat
  interval : Nat
  conds : List Cond
  golden : List Golden
  patPass : List Nat
  patFail : List Nat
  patMiss : Tab Nat
  pulseEnd : Option Nat
  doubtLow : Bool
  month : Nat
  monthTested : Bool
  monthRunning : Bool
  deferrals : List Nat
  overdue : List Nat
  openings : List Nat
  overlaps : Nat
  fbc : Tab (List Byte)
deriving DecidableEq, Repr

/-! ### Power (chapter 18) -/

/-- Seasons (R443). -/
inductive Season where
  | spring
  | summer
  | autumn
  | winter
deriving DecidableEq, Repr

/-- What is left of a group's budgets in the epoch: graph class, pool class, safety partition (R447). -/
structure Budget where
  graph : Int
  pool : Int
  safety : Int
deriving DecidableEq, Repr

/-- The power controller (R443 to R458). Core-group clocks are in kHz, temperatures in 1/16 °C. -/
structure PowerUnit where
  season : Season
  changing : Option Season
  cap : Nat
  nextCap : Nat
  th : Nat
  lambda : Nat
  cgKhz : Nat
  epoch : Nat
  budgets : Tab Budget
  overdraw : Nat
  powerMw : Nat
  temps : List Int
  warned : Bool
  lastDown : Option Nat
  unmet : Nat
  unmetWindow : Option Nat
deriving DecidableEq, Repr

/-! ### Trace, counters, watch and debug (chapter 19) -/

/-- A trace record with its extension records (W0, W1, H0, B0, W2) (R462, R465). -/
structure TraceRec where
  t : Nat
  cls : Nat
  unit : Nat
  golden : Bool
  u : Nat
  kind : Nat
  refLost : Bool
  arg : Nat
  exts : List (Nat × Nat × Nat × Nat × Nat)
deriving DecidableEq, Repr

/-- States of a trace channel (R472). -/
inductive TraceSt where
  | idle
  | running
  | pre
  | post
  | full
  | stopped
deriving DecidableEq, Repr

/-- A trace channel (R468 to R474). Offsets count in the area that the mode uses: the region, or the spill area. `gapCnt`
losses since `gapT` wait for a GAP or stand in the one of a full channel. With a spill area, `stage` is the offset in the
region of the next record, and `dests` are the area offsets of the records that wait there to be copied, oldest first. -/
structure TraceCh where
  st : TraceSt
  chan : Nat
  dom : Nat
  mode : Nat
  post : Nat
  kinds : Nat
  classes : Nat
  unitLo : Nat
  unitHi : Nat
  graph : Nat
  trig : Nat
  trigEvent : Nat
  bufOff : Nat
  bufLen : Nat
  tStart : Nat
  tEnd : Nat
  spillBase : Nat
  spillLen : Nat
  spillRate : Nat
  wr : Nat
  wraps : Nat
  trigOff : Nat
  lost : Nat
  ignored : Nat
  triggered : Bool
  gapCnt : Nat
  gapT : Nat
  stage : Nat
  dests : List Nat
deriving DecidableEq, Repr

/-- The latch of a unit's counters (R479, R480). -/
structure Latch where
  window : Nat
  u : Nat
  stopped : Bool
  saturated : Bool
  vals : List Nat
deriving DecidableEq, Repr

/-- Trace sources, channels and counters. Sources are keyed class × 2048 + unit; counters that key × 8 + index. -/
structure TraceUnit where
  fifos : Tab (List TraceRec)
  fifoLost : Tab Nat
  chans : Tab TraceCh
  cnt : Tab Nat
  latches : Tab Latch
  window : Nat
  clearing : List Nat
deriving DecidableEq, Repr

/-- A tensor watch (R481 to R485) and the reads that wait, as (node, f). -/
structure Watch where
  def_ : List Byte
  graph : Nat
  node : Nat
  dom : Nat
  q : Nat
  armed : Bool
  pending : List (Nat × Nat)
deriving DecidableEq, Repr

/-- The test access port (R486, R487). -/
structure TapUnit where
  ir : BitVec 8
  cells : List Bool
  driving : Bool
  highz : Bool
  dbgDomain : Option Nat
  dbgBusy : Bool
  dbgData : BitVec 64
  dbgStatus : Status
  dbgPendData : BitVec 64
  dbgPendStatus : Status
deriving DecidableEq, Repr

/-! ### The whole state -/

/-- The state of the block. `eccCnt` and `eccWin` hold, by memory bank, the errors corrected (R177) and the counter window
of the last one; `eccBad` lists the ECC errors that stand in the memories (R177, R178, R318, R402). -/
structure State where
  pending : List Instr
  time : Nat
  rst : ResetUnit
  sdio : SdioCard
  boot : BootUnit
  mb : Mailbox
  ev : EventUnit
  bulk : BulkUnit
  chans : ChanTab
  fw : Tab FwRegion
  islands : BitVec 55
  mem : List Host.Cell
  marks : Tab (BitVec 16)
  eccBad : List EccHit
  pipes : Tab Pipe
  ports : Tab CsiPort
  trigs : Tab Trig
  flags : Tab Flag
  binds : Tab FlagBind
  sems : Tab Sem
  nodes : Tab Node
  links : Tab (BitVec 32)
  descs : Tab (List Byte)
  graphs : Tab Graph
  engines : Tab EngRun
  obxCarry : Tab (List Comp)
  objNext : Tab Nat
  objDropped : Nat
  ringBusy : List (Nat × Nat)
  cores : Tab CoreSt
  pool : PoolUnit
  eports : Tab EPort
  dma : Tab DmaChan
  streams : Tab StreamSt
  wcache : List WLine
  lports : Tab LinkPort
  inst : Installation
  ddr : DdrUnit
  safety : SafetyUnit
  power : PowerUnit
  trace : TraceUnit
  watches : Tab Watch
  tap : TapUnit
  eccCnt : Tab Nat
  eccWin : Tab Nat
  freeCnt : Nat
deriving DecidableEq, Repr

/-! ### Reset -/

/-- The policy record that holds every default of R426, with its CHECK. -/
def policyReset : List Byte :=
  [0x02, 0x03, 0x00, 0x00, 0x00, 0x12, 0x7A, 0x00, 0x00, 0x09, 0x3D, 0x00, 0x3F, 0x00, 0xFF, 0x03,
   0x80, 0x1A, 0x06, 0x00, 0x00, 0x00, 0x00, 0x00, 0x00, 0x00, 0x00, 0x00, 0x62, 0xC7, 0xCD, 0x18]

/-- Reset conditions and latches right after an assertion of PORST_N (R38, R40). The rails are up and REFCLK runs:
board inputs, log entry 2. -/
def rstReset : ResetUnit :=
  { pwrGood := true, porstN := false, railsUp := 0x1FF, refclk := true, phase := .held, t0 := 0, bootSrc := 0,
    tripped := false, refLostAt := none, refGoodAt := none, vddSdio18 := false, sdio18 := false,
    vrmAddr := 0x40, vrmMv := 0, pmbDriven := false }

/-- Function 0 in reset. -/
def sdioReset : SdioCard :=
  { card := .idle, rca := 0, ioe := 0, ien := 0, busCtl := 0, speed := 0, blkSize := [], resp := 0, data := [],
    latch := [0, 0, 0] }

/-- The boot ROM in reset (R57), and OTP as shipped (log entry 4). -/
def bootReset : BootUnit :=
  { phase := 0, code := 0, received := 0, bodyLen := none, verifying := false, srcPort := none, relayReq := none, otpErr := false,
    keyHash := [Config.vilingKeyHash, List.replicate 64 0, List.replicate 64 0, List.replicate 64 0],
    keyRevoke := 0, svnFuse := 0, svn := 0, keySlot := 0, buildId := 0, fwReady := false, fwHalt := false }

/-- Function 1 in reset (R56). -/
def mbReset : Mailbox :=
  { part := none, discarding := false, order := [], rspPos := 0, history := [], dupCnt := 0, lenErr := false,
    overrun := false, intEn := 0 }

/-- Function 3 in reset (R75). -/
def evReset : EventUnit :=
  { fifo := [], pos := 0, lost := 0, eseq := 0, intEn := false, sink := none, sinkLost := 0 }

/-- The installation side of the link in reset (R382, R386, R390).
DESIGN CHOICE: log entry 11. DESIGN CHOICE: log entry 30. -/
def instReset : Installation :=
  { id := 0, joined := false, routes := [], lastTag := 16383, gen := 0, txns := [], windows := [], imports := [],
    reserve := [], arrived := [], relayParts := [], discarded := 0, tstate := .unlocked, depth := 255,
    joinWait := false, joinStep := 0, rate := 0, ppsOn := false, ppsPhase := 0, ppsLast := none, ppsLost := false,
    relayPorts := [], tagWait := [], reqCnt := 0 }

/-- The safety monitor in reset: disarmed, the policy at its defaults (R426). DEDUCED: log entry 64. -/
def safetyReset : SafetyUnit :=
  { armed := false, policy := policyReset, smFault := false, cpStall := false, heartbeat := 0, interval := 0,
    conds := [], golden := [], patPass := [], patFail := [], patMiss := [], pulseEnd := none, doubtLow := false,
    month := 0, monthTested := false, monthRunning := false, deferrals := List.replicate 12 0, overdue := [],
    openings := [], overlaps := 0, fbc := [] }

/-- The power controller in reset: AUTUMN, 420 W, level 16, TH 100 °C (R445, R451, R455). DEDUCED: log entry 47. -/
def powerReset : PowerUnit :=
  { season := .autumn, changing := none, cap := 420, nextCap := 420, th := 100, lambda := 16, cgKhz := 250000,
    epoch := 0, budgets := [], overdraw := 0, powerMw := 0, temps := List.replicate 64 0, warned := false,
    lastDown := none, unmet := 0, unmetWindow := none }

/-- The test access port in reset: IDCODE selected (R486). -/
def tapReset : TapUnit :=
  { ir := 0x01, cells := [], driving := false, highz := false, dbgDomain := none, dbgBusy := false, dbgData := 0,
    dbgStatus := .ok, dbgPendData := 0, dbgPendStatus := .ok }

/-- The DDR5 controllers in reset: nothing mapped (R398). -/
def ddrReset : DdrUnit :=
  { training := false, ready := false, cfg := [], usable := 0, hot := List.replicate 8 false,
    refreshes := List.replicate 4 0, scrubbed := 0 }

/-- The machine right after reset (R5, R40): PORST_N asserted, only the AON island's clock counted as running, every
register of the manual at its reset value, and no memory byte listed. DESIGN CHOICE: log entry 71. -/
def State.reset : State :=
  { pending := [], time := 0, rst := rstReset, sdio := sdioReset, boot := bootReset, mb := mbReset, ev := evReset,
    bulk := { wr := none, rd := none, extraWr := 0, extraRd := 0 },
    chans := { base := 0, count := 0, cache := [] }, fw := [], islands := 1, mem := [], marks := [], eccBad := [], pipes := [],
    ports := [], trigs := [], flags := [], binds := [], sems := [], nodes := [], links := [], descs := [], graphs := [],
    engines := [], obxCarry := [], objNext := [], objDropped := 0, ringBusy := [], cores := [],
    pool := { flows := [], subs := [], nextAcc := 0, unbound := 0 }, eports := [], dma := [], streams := [],
    wcache := [], lports := [], inst := instReset, ddr := ddrReset, safety := safetyReset, power := powerReset,
    trace := { fifos := [], fifoLost := [], chans := [], cnt := [], latches := [], window := 0, clearing := [] },
    watches := [], tap := tapReset, eccCnt := [], eccWin := [], freeCnt := 0 }

end Sys2Proof.Machine
end

