-- ==== Sys2Proof/Machine/Base.lean ====
section
/-! DEFINITION. Tables, the byte memory, the units that stand at their reset state while a table does not list them,
device time with its uncertainty, the counters, and the emission of trace records. -/

namespace Sys2Proof.Machine

open Sys2Proof

/-! ### Tables by number -/

/-- The entry of a key. -/
def tabGet? {α : Type} : Tab α → Nat → Option α
  | [], _ => none
  | (k', v) :: t, k => if k' = k then some v else tabGet? t k

/-- The entry of a key, or what an unlisted key stands for. -/
def tabGet {α : Type} (d : α) (t : Tab α) (k : Nat) : α := (tabGet? t k).getD d

/-- The table with the entry of a key set. -/
def tabSet {α : Type} (k : Nat) (v : α) : Tab α → Tab α
  | [] => [(k, v)]
  | (k', v') :: t =>
    if k < k' then (k, v) :: (k', v') :: t
    else if k = k' then (k, v) :: t
    else (k', v') :: tabSet k v t

/-- The table without the entry of a key. -/
def tabErase {α : Type} (k : Nat) (t : Tab α) : Tab α := t.filter (fun e => decide (e.1 ≠ k))

/-- The table with a key set, kept free of entries equal to what an unlisted key stands for. -/
def tabPut {α : Type} [DecidableEq α] (d : α) (k : Nat) (v : α) (t : Tab α) : Tab α :=
  if v = d then tabErase k t else tabSet k v t

/-- The entry of a key changed, when there is one. -/
def tabModify {α : Type} (k : Nat) (f : α → α) (t : Tab α) : Tab α :=
  t.map (fun e => if e.1 = k then (e.1, f e.2) else e)

/-- Every key and entry satisfies the test. -/
def tabAll {α : Type} (p : Nat → α → Bool) (t : Tab α) : Bool := t.all (fun e => p e.1 e.2)

/-- Some key and entry satisfies the test. -/
def tabAny {α : Type} (p : Nat → α → Bool) (t : Tab α) : Bool := t.any (fun e => p e.1 e.2)

/-- Replace element `i` of a list. -/
def listSet {α : Type} (l : List α) (i : Nat) (v : α) : List α := l.set i v

/-- Element `i` of a list of numbers; 0 beyond its end. -/
def nth (l : List Nat) (i : Nat) : Nat := l.getD i 0

/-- Insertion into a sorted list, before the first element that `le` places after it. -/
def insertBy {α : Type} (le : α → α → Bool) (x : α) : List α → List α
  | [] => [x]
  | y :: ys => if le x y then x :: y :: ys else y :: insertBy le x ys

/-- A list sorted by `le`; elements equal under it keep their order. -/
def sortBy {α : Type} (le : α → α → Bool) : List α → List α
  | [] => []
  | x :: xs => insertBy le x (sortBy le xs)

/-- Add `n` to element `i`, saturating at `w` bits. -/
def bumpAt (w : Nat) (l : List Nat) (i n : Nat) : List Nat := l.set i (satTo w (nth l i + n))

/-! ### Memory -/

/-- What a byte that memory does not list reads as: zero. Firmware writes every granule of the on-chip memories to zero
before it reports boot complete (R180), and DDR_INIT does so for DDR5 before any of it is mapped (R398).
DEDUCED: log entry 42. -/
def memDefault : Byte := 0

/-- The canonical form of memory: addresses strictly rising, no byte equal to what an unlisted one reads as. -/
def Memory.wf : List Host.Cell → Bool
  | [] => true
  | [c] => decide (c.2 ≠ memDefault)
  | c :: d :: m => decide (c.2 ≠ memDefault) && decide (c.1 < d.1) && Memory.wf (d :: m)

/-- The byte at a local address. DEDUCED: log entry 42. -/
def memByte (m : List Host.Cell) (a : Nat) : Byte := tabGet memDefault m a

/-- Memory with one byte written. -/
def memSet (m : List Host.Cell) (a : Nat) (b : Byte) : List Host.Cell := tabPut memDefault a b m

/-- `len` bytes from an address. -/
def memRead (m : List Host.Cell) (a : Nat) : Nat → List Byte
  | 0 => []
  | n + 1 => memByte m a :: memRead m (a + 1) n

/-- Memory with a run of bytes written from an address. -/
def memWrite (m : List Host.Cell) (a : Nat) : List Byte → List Host.Cell
  | [] => m
  | b :: bs => memWrite (memSet m a b) (a + 1) bs

/-- The granule of an address (64 bytes). -/
def granOf (a : Nat) : Nat := a / 64

/-- The mark of a granule: its stored code XOR `tc` of its bytes (0: good; `poisonMark`: poisoned; else failing, R185).
DEDUCED: log entry 42. -/
def markOf (s : State) (g : Nat) : BitVec 16 := tabGet 0 s.marks g

/-- A granule's code is good. -/
def goodGran (s : State) (g : Nat) : Bool := markOf s g == 0

/-- A granule's code is failing: neither good nor poisoned. -/
def failingGran (s : State) (g : Nat) : Bool := markOf s g != 0 && markOf s g != BitVec.ofNat 16 poisonMark

/-- The granules that a byte range touches. -/
def gransOf (a len : Nat) : List Nat :=
  if len = 0 then [] else (List.range (granOf (a + len - 1) - granOf a + 1)).map (· + granOf a)

/-- Some granule of a range is failing or poisoned. -/
def rangeBad (s : State) (a len : Nat) : Bool := (gransOf a len).any (fun g => ! goodGran s g)

/-- The failing granules of a range. -/
def rangeFailing (s : State) (a len : Nat) : List Nat := (gransOf a len).filter (failingGran s)

/-- The failing or poisoned granules of a range. -/
def rangeBadCount (s : State) (a len : Nat) : Nat := ((gransOf a len).filter (fun g => ! goodGran s g)).length

/-- The mark of a granule after a write of part `[lo, hi)` of it (R187, R188): a whole write carries its own class; a
partial one keeps a good code only when both the old and the new are good. -/
def markAfter (old : BitVec 16) (whole poison : Bool) : BitVec 16 :=
  if poison then BitVec.ofNat 16 poisonMark
  else if whole then 0
  else if old == 0 then 0 else BitVec.ofNat 16 poisonMark

/-- A range holds every byte of a granule. -/
def wholeGran (a len g : Nat) : Bool := decide (a ≤ g * 64) && decide (g * 64 + 64 ≤ a + len)

/-- Marks after a write of `len` bytes at `a`. -/
def marksAfter (s : State) (a len : Nat) (poison : Bool) : Tab (BitVec 16) :=
  (gransOf a len).foldl (fun t g =>
    tabPut 0 g (markAfter (tabGet 0 t g) (wholeGran a len g) poison) t) s.marks

/-- A write that has passed every check: the bytes and the codes of the granules they touch (R187, R188). A write of a whole
granule ends an uncorrectable error there (R178, R318). -/
def putBytes (s : State) (a : Nat) (bs : List Byte) (poison : Bool) : State :=
  { s with mem := memWrite s.mem a bs, marks := marksAfter s a bs.length poison,
           eccBad := s.eccBad.filter (fun x => x.place == .rule || ! wholeGran a bs.length (granOf x.addr)) }

/-- The bytes at local addresses that a unit reads. -/
def getBytes (s : State) (a len : Nat) : List Byte := memRead s.mem a len

/-- The contents of a range after which the manual calls them undefined: fresh free values with good codes
(log entry 7). -/
def scramble (s : State) (a len : Nat) : State :=
  { putBytes s a ((List.range len).map (fun i => Config.freeByte s.freeCnt (a + i))) false with
    freeCnt := s.freeCnt + 1 }

/-! ### Units at reset -/

/-- A CSI-2 port never configured (R83). -/
def portReset : CsiPort :=
  { lanes := 4, map := 0xE4, pol := 0, i3cMode := 0, i3cOn := false, cnt := List.replicate 6 0, writers := [],
    busWrite := false, host := none, hostQueue := [] }

/-- A schedule that was never set (R103). -/
def schedOff : TrigSched := { mode := 0, activeLow := false, start := 0, period := 0, width := 0, count := 0 }

/-- A trigger line never set: high impedance (R48, R103). -/
def trigReset : Trig :=
  { sched := schedOff, emitted := 0, nextEdge := none, pulseEnd := none, laterEnds := [], update := none, pin := .z }

/-- A region flag at reset (R181). -/
def flagReset : Flag := { frame := 0, pend := 0, cmask := 0 }

/-- An unbound semaphore (R201). -/
def semReset : Sem :=
  { count := 0, init := 0, waiter := none, signaler := none, sigDev := 0, remote := false, graph := 0xFF,
    blocked := false, signals := 0, impK := 0, arrive := 0 }

/-- An idle core (R221). -/
def coreReset : CoreSt :=
  { fenced := false, unit := none, sregs := List.replicate 32 0, acc := [], accSet := 0, vregs := [], vpoison := 0, vmask := [] }

/-- A link port at reset (R356). -/
def lportReset : LinkPort :=
  { st := .disabled, since := 0, chan := none, timeParent := false, reverse := false, rxPol := 0, txPol := 0, preset := 0,
    asym := 0, txLat := 0, rxLat := 0, peer := none, pulses := 0, txSeq := 0, rxExp := 0, nakSent := false,
    nakOwed := false, ackOwed := false, replay := [], credSent := [0, 0, 0, 0], credSeen := [0, 0, 0, 0],
    freed := [0, 0, 0, 0], crcRun := 0, rxPart := [], rxRoute := .here, misaligned := false, scrAt := 0,
    rxGen := [], rxGenAt := 0, outQ := [], cur := none, lastVc := 1, lastSrc := [12, 12, 12, 12], lastCtrl := none, lastTime := none,
    xseq := 0, peerTime := none, thetas := [], skipRun := 0, skipped := 0, thetaWindow := none, replays := 0,
    replayWindow := none, stomps := 0, crcErrs := 0, dups := 0 }

/-- A channel body never set. -/
def pipeCfgNone : PipeCfg :=
  { vc := 0, dt := 0, pattern := 0, phase := 0, deep := false, csc := false, nir := false, test := false, width := 0,
    height := 0, slots := 1, lat := 0, linePitch := 0, planePitch := 0, slotPitch := 0, fsBase := 0, statBase := 0,
    snsAddr := 0, snsFmt := 0, expOffset := 0, winMin := 0, winMax := 0, fsLat := 0, linePeriodMin := 0, dpc := [],
    fsJit := 0 }

/-- A pipeline that was never started (R89, R101). -/
def pipeReset : Pipe :=
  { chan := 0, dom := 0, cfg := pipeCfgNone, running := false, stopAt := none, frameCnt := 0, gen := 0, nextGen := 1,
    param := [], commits := [], cur := none, dropped := none, closing := none, patFailNext := false, test := none,
    testDue := none, edges := [], lineEdge := none, relAt := 0, bufFill := 0, bufAt := 0, orphans := 0, cnt := List.replicate 16 0 }

/-- An egress port before its first start (R414). -/
def eportReset : EPort :=
  { running := false, chan := 0, dom := 0, wmHi := 0, wmLo := 0, streams := [], queue := [], fill := [], readB := [], last := none,
    out := [], wm := .z, urun := .z, driven := false, underruns := 0, discarded := 0 }

/-- A trace channel before its first start (R472). -/
def traceReset : TraceCh :=
  { st := .idle, chan := 0, dom := 0, mode := 0, post := 0, kinds := 0, classes := 0, unitLo := 0, unitHi := 0,
    graph := 0, trig := 0, trigEvent := 0, bufOff := 0, bufLen := 0, tStart := 0, tEnd := 0, spillBase := 0,
    spillLen := 0, spillRate := 0, wr := 0, wraps := 0, trigOff := 0, lost := 0, ignored := 0, triggered := false,
    gapCnt := 0, gapT := 0, stage := 0, dests := [] }

/-- A CSI-2 port. -/
def portOf (s : State) (k : Nat) : CsiPort := tabGet portReset s.ports k
/-- A pipeline. -/
def pipeOf (s : State) (p : Nat) : Pipe := tabGet pipeReset s.pipes p
/-- A trigger line. -/
def trigOf (s : State) (n : Nat) : Trig := tabGet trigReset s.trigs n
/-- A region flag. -/
def flagOf (s : State) (n : Nat) : Flag := tabGet flagReset s.flags n
/-- A semaphore. -/
def semOf (s : State) (n : Nat) : Sem := tabGet semReset s.sems n
/-- A core. -/
def coreOf (s : State) (c : Nat) : CoreSt := tabGet coreReset s.cores c
/-- A link port. -/
def lportOf (s : State) (p : Nat) : LinkPort := tabGet lportReset s.lports p
/-- An egress port. -/
def eportOf (s : State) (p : Nat) : EPort := tabGet eportReset s.eports p
/-- A trace channel. -/
def traceOf (s : State) (c : Nat) : TraceCh := tabGet traceReset s.trace.chans c

/-- The state with a CSI-2 port set. -/
def setPort (s : State) (k : Nat) (p : CsiPort) : State := { s with ports := tabSet k p s.ports }
/-- The state with a trigger line set. -/
def setTrig (s : State) (n : Nat) (t : Trig) : State := { s with trigs := tabSet n t s.trigs }
/-- The state with a region flag set. -/
def setFlag (s : State) (n : Nat) (f : Flag) : State := { s with flags := tabSet n f s.flags }
/-- The state with a semaphore set. -/
def setSem (s : State) (n : Nat) (x : Sem) : State := { s with sems := tabSet n x s.sems }
/-- The state with a core set. -/
def setCore (s : State) (c : Nat) (x : CoreSt) : State := { s with cores := tabSet c x s.cores }
/-- The state with a link port set. -/
def setLport (s : State) (p : Nat) (x : LinkPort) : State := { s with lports := tabSet p x s.lports }
/-- The state with an egress port set. -/
def setEport (s : State) (p : Nat) (x : EPort) : State := { s with eports := tabSet p x s.eports }
/-- The state with a trace channel set. -/
def setTrace (s : State) (c : Nat) (x : TraceCh) : State :=
  { s with trace := { s.trace with chans := tabSet c x s.trace.chans } }
/-- The state with a pipeline set. -/
def setPipe (s : State) (p : Nat) (x : Pipe) : State := { s with pipes := tabSet p x s.pipes }
/-- The state with a node set. -/
def setNode (s : State) (n : Nat) (x : Node) : State := { s with nodes := tabSet n x s.nodes }
/-- The state with a graph set. -/
def setGraph (s : State) (g : Nat) (x : Graph) : State := { s with graphs := tabSet g x s.graphs }
/-- The state with an engine's run set. -/
def setEngine (s : State) (e : Nat) (x : EngRun) : State := { s with engines := tabSet e x s.engines }
/-- The state with a DMA channel set. -/
def setDma (s : State) (c : Nat) (x : DmaChan) : State := { s with dma := tabSet c x s.dma }
/-- The state with a stream set. -/
def setStream (s : State) (c : Nat) (x : StreamSt) : State := { s with streams := tabSet c x s.streams }
/-- The state with a flow set. -/
def setFlow (s : State) (f : Nat) (x : Flow) : State :=
  { s with pool := { s.pool with flows := tabSet f x s.pool.flows } }

/-! ### Device time -/

/-- Ticks of device time in a microsecond (R7). -/
def usTicks : Nat := 4000

/-- Device time moves on to a moment; a moment already passed leaves it. DESIGN CHOICE: log entry 1. -/
def advanceTo (s : State) (t : Nat) : State := { s with time := max s.time t }

/-- The 1 ms counter window of a moment (R479). -/
def windowOf (t : Nat) : Nat := t / 4000000

/-- The island, as its class-11 index, that holds a unit (R12, R463). -/
def islandOf (cls unit : Nat) : Nat :=
  match cls with
  | 0 => 2 + unit / 16
  | 1 => 2 + unit / 16
  | 2 => 2 + unit / 2
  | 3 => 18 + unit / 6
  | 4 => 34 + unit / 4
  | 5 => 51 + unit / 4
  | 6 => 54
  | 7 => 50
  | 8 => 1
  | 9 => 1
  | 10 => 1
  | 11 => unit
  | 12 => 1
  | _ => 0

/-- The longest clock cycle of an island in ticks, rounded up (R459). -/
def islandU (s : State) (i : Nat) : Nat :=
  if i = 0 then 8
  else if i = 1 then 4
  else if i ≤ 17 then cdiv 4000000 (max 1 s.power.cgKhz)
  else if i ≤ 49 then 16
  else if i = 50 then 5
  else if i ≤ 53 then 7
  else 16

/-- What REF_LOST adds to an uncertainty (R461). -/
def refLostU (s : State) : Nat :=
  match s.rst.refLostAt with
  | none => 0
  | some tl => cdiv (s.time - tl) 50

/-- The uncertainty of a timestamp that a unit takes now, saturating at 255 (R459, R461). -/
def uNow (s : State) (cls unit : Nat) : Nat := satTo 8 (islandU s (islandOf cls unit) + refLostU s)

/-- Whether `[t - u, t + u]` contains `b` (R8, R9). -/
def straddles (t u b : Nat) : Bool := decide (t ≤ b + u) && decide (b ≤ t + u)

/-- Whether `[t - u, t + u]` contains a boundary of the 1 ms counter windows (R497). -/
def straddlesWindow (t u : Nat) : Bool :=
  straddles t u (windowOf t * 4000000) || straddles t u ((windowOf t + 1) * 4000000)

/-- An island's clock runs. -/
def islandRuns (s : State) (i : Nat) : Bool := s.islands.getLsbD i && ! s.rst.tripped

/-! ### Counters (R478) and trace sources (R462 to R467) -/

/-- The key of a unit among trace sources. -/
def srcKey (cls unit : Nat) : Nat := cls * 2048 + unit

/-- Add to one of a unit's 8 counters, saturating at 48 bits. -/
def bump (s : State) (cls unit i n : Nat) : State :=
  let k := srcKey cls unit * 8 + i
  { s with trace := { s.trace with cnt := tabPut 0 k (satTo 48 (tabGet 0 s.trace.cnt k + n)) s.trace.cnt } }

/-- The value of a counter. -/
def counterOf (s : State) (cls unit i : Nat) : Nat := tabGet 0 s.trace.cnt (srcKey cls unit * 8 + i)

/-- Records in a source's FIFO, extension records counted. -/
def fifoLen (l : List TraceRec) : Nat := l.foldl (fun n r => n + 1 + r.exts.length) 0

/-- A unit emits a trace record: it joins the FIFO of 16 records of its source, or is counted there, and a GAP with the
count goes before the next record that finds room (R467). -/
def emitTrace (s : State) (cls unit : Nat) (golden : Bool) (kind arg : Nat)
    (exts : List (Nat × Nat × Nat × Nat × Nat)) : State :=
  let k := srcKey cls unit
  let q := tabGet [] s.trace.fifos k
  let lost := tabGet 0 s.trace.fifoLost k
  let mk := fun (kd a : Nat) (e : List (Nat × Nat × Nat × Nat × Nat)) =>
    TraceRec.mk s.time cls unit golden (uNow s cls unit) kd s.rst.refLostAt.isSome a e
  let add := if lost = 0 then [mk kind arg exts] else [mk 4 (satTo 32 lost) [], mk kind arg exts]
  if fifoLen q + fifoLen add ≤ 16 then
    { s with trace := { s.trace with fifos := tabSet k (q ++ add) s.trace.fifos,
                                     fifoLost := tabErase k s.trace.fifoLost } }
  else
    { s with trace := { s.trace with fifoLost := tabSet k (lost + 1) s.trace.fifoLost } }

end Sys2Proof.Machine
end

