-- ==== Sys2Proof/Machine/LinkTx.lean ====
section
/-! DEFINITION. Packets and flits of the Holzar link (R359, R360, R375), the payloads of TIME and CTRL flits (R366, R390), the
output of a port (R362, R365, R366, R370), routing (R372, R373), the handling of a packet that cannot leave (R369), and tags
(R377). -/

namespace Sys2Proof.Machine

open Sys2Proof

/-! ### Packets as flits -/

/-- The virtual channel of a packet by its TYPE (table *Transaction types*): EVENT on 3, responses on 1, else 0. -/
def pktVc (p : Packet) : Nat := if p.type = 0x0A then 3 else if p.type ≥ 0x80 then 1 else 0

/-- The 32 payload bytes of a HEAD or SINGLE flit (R375). -/
def headPayload (p : Packet) : List Byte :=
  leBytes 1 p.type ++ leBytes 1 p.pflags ++ leBytes 2 p.dst ++ leBytes 2 p.src ++ leBytes 2 (p.tag + p.gen * 16384) ++
  leBytes 6 p.addr ++ leBytes 1 (p.grans + p.domain * 16) ++ leBytes 1 p.hops ++ leBytes 1 p.win ++ [0] ++
  leBytes 2 p.epoch ++ leBytes 8 p.be ++ leBytes 2 p.status ++ leBytes 2 p.arg

/-- The head check: the travel code over the payload followed by 32 zero bytes (R360). -/
def headCheck (payload : List Byte) : Nat := tc (payload ++ List.replicate 32 0)

/-- The header word of a flit (table *Flit header*). -/
def flitWord (kind vc seq check : Nat) : Nat := kind * 2 ^ 29 + vc * 2 ^ 27 + seq * 2 ^ 16 + check

/-- The CRC of a flit over its bytes 0 to 35 (R359). -/
def flitCrc (kind vc seq check : Nat) (payload : List Byte) : Nat :=
  crc32c (leBytes 4 (flitWord kind vc seq check) ++ payload)

/-- A flit with its good CRC. -/
def mkFlit (kind vc seq check : Nat) (payload : List Byte) : Flit :=
  { kind := kind, vc := vc, seq := seq, check := check, payload := payload, crc := flitCrc kind vc seq check payload }

/-- The data flits of granules with their codes: (kind, CHECK, payload); the last is LAST (R360). -/
def dataFlits : List (List Byte) → List Nat → List (Nat × Nat × List Byte)
  | [], _ => []
  | [g], cs => [(2, 0, g.take 32), (3, cs.headD 0, g.drop 32)]
  | g :: gs, cs => (2, 0, g.take 32) :: (2, cs.headD 0, g.drop 32) :: dataFlits gs cs.tail

/-- A packet as flits without their sequence numbers (R360). -/
def packetFlits (p : Packet) : List (Nat × Nat × List Byte) :=
  let h := headPayload p
  if p.data = [] then [(4, headCheck h, h)] else (1, headCheck h, h) :: dataFlits p.data p.codes

/-- The 32 payload bytes of a CTRL flit (table *CTRL payload*). -/
def ctrlPayload (m : CtrlMsg) : List Byte :=
  leBytes 2 (m.ack % 2048 + bit01 m.ackValid * 32768) ++ leBytes 2 (m.nak % 2048 + bit01 m.nakPresent * 32768) ++
  (List.range 4).flatMap (fun v => leBytes 2 (nth m.cred v % 4096)) ++ List.replicate 20 0

/-- What a CTRL payload says. -/
def ctrlOf (d : List Byte) : CtrlMsg :=
  { ack := fieldAt d 0 2 % 2048, ackValid := bitAt (fieldAt d 0 2) 15, nak := fieldAt d 2 2 % 2048,
    nakPresent := bitAt (fieldAt d 2 2) 15, cred := (List.range 4).map (fun v => fieldAt d (4 + 2 * v) 2 % 4096) }

/-- The 32 payload bytes of a TIME flit (table *TIME payload*). -/
def timePayload (m : TimeMsg) : List Byte :=
  leBytes 8 m.tTx ++ leBytes 1 m.tTxFr ++ leBytes 1 (m.tstate % 4) ++ leBytes 1 m.depth ++ leBytes 1 m.xseq ++
  leBytes 1 m.eSeq ++ leBytes 1 m.eRxFr ++ leBytes 1 m.eTxFr ++ [0] ++ leBytes 8 m.eRx ++ leBytes 8 m.eTx

/-- What a TIME payload says. -/
def timeOf (d : List Byte) : TimeMsg :=
  { tTx := fieldAt d 0 8, tTxFr := fieldAt d 8 1, tstate := fieldAt d 9 1 % 4, depth := fieldAt d 10 1, xseq := fieldAt d 11 1,
    eSeq := fieldAt d 12 1, eRxFr := fieldAt d 13 1, eTxFr := fieldAt d 14 1, eRx := fieldAt d 16 8, eTx := fieldAt d 24 8 }

/-- The CTRL flit of a message (R359). -/
def ctrlFlit (m : CtrlMsg) : Flit := mkFlit 5 0 0 0 (ctrlPayload m)

/-- The TIME flit of a message (R359). -/
def timeFlit (m : TimeMsg) : Flit := mkFlit 6 2 0 0 (timePayload m)

/-- A NULL, CTRL or TIME flit carries VC, SEQ or CHECK other than its kind gives: flit alignment is lost (R359, R368). -/
def flitMisaligned (x : Flit) : Bool :=
  (x.kind == 0 || x.kind == 5 || x.kind == 6) && (x.vc != (if x.kind = 6 then 2 else 0) || x.seq != 0 || x.check != 0)

/-- The packet that a head payload and its data flits spell. -/
def packetOf (h : List Byte) (data : List (List Byte)) (codes : List Nat) : Packet :=
  { type := fieldAt h 0 1, pflags := fieldAt h 1 1, dst := fieldAt h 2 2 % 1024, src := fieldAt h 4 2 % 1024,
    tag := fieldAt h 6 2 % 16384, gen := fieldAt h 6 2 / 16384, addr := fieldAt h 8 6, grans := fieldAt h 14 1 % 8,
    domain := fieldAt h 14 1 / 16, hops := fieldAt h 15 1, win := fieldAt h 16 1, epoch := fieldAt h 18 2,
    be := fieldAt h 20 8, status := fieldAt h 28 2, arg := fieldAt h 30 2, data := data, codes := codes }

/-- A request packet of this device with no data. -/
def reqPacket (s : State) (type dst tag : Nat) : Packet :=
  { type := type, pflags := 0, dst := dst, src := s.inst.id, tag := tag, gen := s.inst.gen, addr := 0, grans := 0,
    domain := 0, hops := 0, win := 0, epoch := 0, be := 0, status := 0, arg := 0, data := [], codes := [] }

/-- The types that get no response (table *Transaction types*): SEM_SIGNAL, BOOT_DATA, EVENT. -/
def postedType (t : Nat) : Bool := t == 0x03 || t == 0x07 || t == 0x0A

/-- The packet is a request that expects a response (R369, R372). -/
def expectsRsp (p : Packet) : Bool := decide (p.type < 0x80) && ! postedType p.type

/-- The response of this device to a request, with a status code: the request's type with bit 7, sent to the requester
under its tag and generation. Log entry 9 says how a response fills DST and SRC. -/
def responseTo (s : State) (p : Packet) (status : Nat) : Packet :=
  { type := p.type + 0x80, pflags := p.pflags % 2, dst := p.src, src := s.inst.id, tag := p.tag, gen := p.gen,
    addr := p.addr, grans := 0, domain := p.domain, hops := 0, win := p.win, epoch := p.epoch, be := p.be,
    status := status, arg := 0, data := [], codes := [] }

/-! ### The output of a port -/

/-- Input buffer of a virtual channel, in flits (R370). -/
def vcBuffer (vc : Nat) : Nat := if vc = 2 then 4 else if vc = 3 then 32 else 128

/-- Credits that a port holds on a virtual channel (R366, R370). -/
def creditsOf (l : LinkPort) (vc : Nat) : Nat :=
  vcBuffer vc - (nth l.credSent vc + 4096 - nth l.credSeen vc) % 4096

/-- The position of the first packet of a virtual channel and source in the queue. -/
def firstFrom (q : List OutPkt) (vc src : Nat) : Option Nat :=
  (List.range q.length).find? (fun i => match q[i]? with | some o => o.vc == vc && o.src == src | none => false)

/-- The packet that a virtual channel sends next: round-robin over the 12 ports and the injection point (R365). -/
def nextOfVc (l : LinkPort) (vc : Nat) : Option Nat :=
  (List.range 13).findSome? (fun k => firstFrom l.outQ vc ((nth l.lastSrc vc + 1 + k) % 13))

/-- A flit of a virtual channel can leave: a credit is held, and the replay buffer has room (R366, R370).
DEDUCED: log entry 10. -/
def canSend (l : LinkPort) (vc : Nat) : Bool := decide (1 ≤ creditsOf l vc) && decide (l.replay.length < 1024)

/-- The virtual channel's next packet, if it is ready. -/
def readyOfVc (l : LinkPort) (vc : Nat) : Option Nat :=
  match nextOfVc l vc with
  | some i => if canSend l vc then some i else none
  | none => none

/-- The position of the packet that the port sends next: VC 0 and VC 1 alternate when both are ready, VC 3 only when
neither is (R365). -/
def nextPacket (l : LinkPort) : Option Nat :=
  match readyOfVc l 0, readyOfVc l 1 with
  | some a, some b => some (if l.lastVc = 0 then b else a)
  | some a, none => some a
  | none, some b => some b
  | none, none => readyOfVc l 3

/-- The argument of a SEND or RECV record (table *Record kinds*). -/
def linkArg (p : Packet) : Nat := p.tag + p.gen * 16384 + p.type * 65536

/-- The extension of a SEND or RECV record (R465): the other end of the transaction and HOPS. -/
def linkExt (p : Packet) (peer : Nat) : List (Nat × Nat × Nat × Nat × Nat) :=
  [(p.addr % 2 ^ 32, p.addr / 2 ^ 32, peer, p.hops, 0)]

/-- Buffer space of flits is freed at an input (R366); the injection point (12) has none. -/
def freeFlits (s : State) (p vc n : Nat) : State :=
  if p = 12 then s
  else
    let l := lportOf s p
    setLport s p { l with freed := l.freed.set vc ((nth l.freed vc + n) % 4096) }

/-- A port turns to the packet at a position of its queue. -/
def startAt (s : State) (p i : Nat) : State :=
  let l := lportOf s p
  match l.outQ[i]? with
  | none => s
  | some o =>
    setLport s p { l with outQ := l.outQ.eraseIdx i, cur := some o, lastVc := if o.vc = 3 then l.lastVc else o.vc,
                          lastSrc := l.lastSrc.set o.vc o.src }

/-- The packet in progress after one of its flits has left. -/
def restOf (o : OutPkt) (rest : List (Nat × Nat × List Byte)) : Option OutPkt :=
  if rest = [] ∧ o.whole then none else some { o with flits := rest }

/-- A port puts a flit of its packet in progress on the link: it takes a sequence number, a credit and a place in the replay
buffer, and the buffer of the input it came from is freed (R362, R366). The head of a packet of this device is traced. -/
def sendFlit (s : State) (p : Nat) (o : OutPkt) (f : Nat × Nat × List Byte) (rest : List (Nat × Nat × List Byte)) : State :=
  let l := lportOf s p
  let h : HeldFlit := { flit := mkFlit f.1 o.vc l.txSeq f.2.1 f.2.2, pkt := o.pkt, resent := 0 }
  let l' := { l with cur := restOf o rest, replay := l.replay ++ [h], txSeq := (l.txSeq + 1) % 2048,
                     credSent := l.credSent.set o.vc ((nth l.credSent o.vc + 1) % 4096) }
  let s := bump (setLport s p l') 5 p 0 1
  let s := if o.src = 12 ∧ (f.1 = 1 ∨ f.1 = 4) then emitTrace s 5 p false 6 (linkArg o.pkt) (linkExt o.pkt o.pkt.dst) else s
  freeFlits s o.src o.vc 1

/-- What an output does next: it goes on with its packet in progress, which nothing pre-empts, or turns to the next one; none
when nothing can leave (R360, R365). -/
def pumpStep (s : State) (p : Nat) : Option State :=
  let l := lportOf s p
  match l.cur with
  | some o =>
    (match o.flits with
     | [] => none
     | f :: rest => if canSend l o.vc then some (sendFlit s p o f rest) else none)
  | none => (nextPacket l).map (startAt s p)

/-- A port sends flits while one can leave; `fuel` bounds their number. DEDUCED: log entry 10. -/
def pumpPort : Nat → State → Nat → State
  | 0, s, _ => s
  | fuel + 1, s, p =>
    if (lportOf s p).st ≠ .active then s
    else match pumpStep s p with
      | none => s
      | some s' => pumpPort fuel s' p

/-- The flits that stand at an output, and a step for each packet. -/
def pumpFuel (l : LinkPort) : Nat :=
  l.outQ.foldl (fun n o => n + o.flits.length + 1) ((match l.cur with
    | some o => o.flits.length
    | none => 0) + 1)

/-- A port sends what it can. DEDUCED: log entry 10. -/
def pump (s : State) (p : Nat) : State := pumpPort (pumpFuel (lportOf s p)) s p

/-! ### Routing and packets that cannot leave -/

/-- The route of a device: a port, or 15 for unreachable. Reset: unreachable (log entry 11). -/
def routeOf (s : State) (dev : Nat) : Nat := tabGet 15 s.inst.routes dev

/-- A packet joins the output queue of a port. -/
def enqueueAt (s : State) (p src : Nat) (x : Packet) : State :=
  let l := lportOf s p
  let o : OutPkt := { pkt := x, vc := pktVc x, src := src, flits := packetFlits x, whole := true }
  pump (setLport s p { l with outQ := l.outQ ++ [o] }) p

/-- A packet is discarded and counted (R369, R372). -/
def countDiscard (s : State) : State := { s with inst := { s.inst with discarded := s.inst.discarded + 1 } }

/-- A packet has reached the device's own mesh. -/
def deliver (s : State) (x : Packet) : State := { s with inst := { s.inst with arrived := s.inst.arrived ++ [x] } }

/-- A packet for which no answer is made: it leaves by its route, or is discarded and counted. -/
def routePosted (s : State) (src : Nat) (x : Packet) : State :=
  if x.dst = s.inst.id then deliver s x
  else if x.hops > 32 then countDiscard s
  else
    let p := routeOf s x.dst
    if p ≥ 12 then countDiscard s
    else if (lportOf s p).st ≠ .active then countDiscard s
    else enqueueAt s p src x

/-- A packet that cannot leave (R369, R372, R373): a request that expects a response is answered with the status, any
other is discarded and counted. -/
def refusePacket (s : State) (x : Packet) (status : Nat) : State :=
  if expectsRsp x then routePosted s 12 (responseTo s x status) else countDiscard s

/-- A packet leaves by its route: UNREACHABLE, LOOP and LINK_DOWN under R372, R373 and R369. -/
def routePacket (s : State) (src : Nat) (x : Packet) : State :=
  if x.dst = s.inst.id then deliver s x
  else if x.hops > 32 then refusePacket s x 0x44
  else
    let p := routeOf s x.dst
    if p ≥ 12 then refusePacket s x 0x43
    else if (lportOf s p).st ≠ .active then refusePacket s x 0x42
    else enqueueAt s p src x

/-- A hop-local packet leaves by a named port (R375, R386, R389). -/
def sendHopLocal (s : State) (p : Nat) (x : Packet) : State :=
  if (lportOf s p).st ≠ .active then refusePacket s x 0x42 else enqueueAt s p 12 x

/-! ### Tags (R377) -/

/-- The first tag after the last one allotted that is not outstanding; none while all are held. -/
def freeTag (s : State) : Option Nat :=
  (List.range 16384).findSome? (fun k =>
    let t := (s.inst.lastTag + 1 + k) % 16384
    if (tabGet? s.inst.txns t).isNone then some t else none)

/-- Allot a tag to a transaction. -/
def allotTag (s : State) (t : Nat) (x : Txn) : State :=
  { s with inst := { s.inst with lastTag := t, txns := tabSet t x s.inst.txns } }

/-- A packet of a request leaves under its tag and the generation in force. -/
def sendTagged (port : Option Nat) (t : Nat) (s : State) (p : Packet) : State :=
  let x : Packet := { p with tag := if expectsRsp p then t else 0, gen := s.inst.gen }
  match port with
  | some k => sendHopLocal s k x
  | none => routePacket s 12 x

/-- A request leaves under a tag. -/
def sendReq (s : State) (t : Nat) (q : TagReq) : State := q.pkts.foldl (sendTagged q.port t) (allotTag s t q.txn)

/-- A new request: it leaves under the next tag, or waits at its source behind those that wait already. -/
def request (s : State) (q : TagReq) : State :=
  match s.inst.tagWait, freeTag s with
  | [], some t => sendReq s t q
  | w, _ => { s with inst := { s.inst with tagWait := w ++ [q] } }

/-- Requests that wait take the tags that have become free, in order; `fuel` bounds their number. -/
def serveTags : Nat → State → State
  | 0, s => s
  | fuel + 1, s =>
    match s.inst.tagWait, freeTag s with
    | q :: w, some t => serveTags fuel (sendReq { s with inst := { s.inst with tagWait := w } } t q)
    | _, _ => s

end Sys2Proof.Machine
end

