-- ==== Sys2Proof/Machine/Ops.lean ====
section
/-! DEFINITION. The operations every family of commands shares: status codes (R491), the policy's values (R426), events
(R75, R76, R388, R497), doubt conditions (R428 to R430, R433), the address map with its firewalls (R14, R17 to R22,
R511), and the responses of mailbox commands (R69 to R74, R498). -/

namespace Sys2Proof.Machine

open Sys2Proof

/-! ### Status codes (R491) -/

/-- The code of a status. -/
def statusCode : Status → Nat
  | .ok => 0x0000 | .badLength => 0x0001 | .crcErr => 0x0002 | .seqConflict => 0x0003 | .seqStale => 0x0004
  | .badField => 0x0005 | .badOpcode => 0x0006 | .denied => 0x0007 | .state => 0x0008 | .busy => 0x0009
  | .badParam => 0x0010 | .range => 0x0011 | .aliased => 0x0012 | .overlap => 0x0013 | .badEntry => 0x0014
  | .badImage => 0x0015 | .late => 0x0016 | .fenced => 0x0017
  | .nofit => 0x0020 | .cycle => 0x0021 | .norate => 0x0022
  | .unmapped => 0x0030 | .islandOff => 0x0031 | .travelErr => 0x0032 | .stopped => 0x0033 | .trainFail => 0x0034
  | .windowClosed => 0x0040 | .noWindow => 0x0041 | .linkDown => 0x0042 | .unreachable => 0x0043 | .loop => 0x0044
  | .aborted => 0x0045 | .notReady => 0x0046
  | .boot c => c

/-- The statuses other than boot codes, in code order. -/
def statusList : List Status :=
  [.ok, .badLength, .crcErr, .seqConflict, .seqStale, .badField, .badOpcode, .denied, .state, .busy, .badParam, .range,
   .aliased, .overlap, .badEntry, .badImage, .late, .fenced, .nofit, .cycle, .norate, .unmapped, .islandOff, .travelErr,
   .stopped, .trainFail, .windowClosed, .noWindow, .linkDown, .unreachable, .loop, .aborted, .notReady]

/-- The status that a code names; a code outside the list is one of the boot ROM's. -/
def statusOf (c : Nat) : Status := (statusList.find? (fun x => statusCode x == c)).getD (.boot c)

/-! ### Device-wide values -/

/-- Season numbers of R492. -/
def seasonIdx : Season → Nat
  | .spring => 0
  | .summer => 1
  | .autumn => 2
  | .winter => 3

/-- The season of a number (R492). -/
def seasonOf (n : Nat) : Season := if n = 0 then .spring else if n = 1 then .summer else if n = 2 then .autumn else .winter

/-- Firmware executes: it has set FW_READY, has not halted, and the AON clock is not stopped by a trip (R28, R64, R66). -/
def fwUp (s : State) : Bool := s.boot.fwReady && ! s.boot.fwHalt && ! s.rst.tripped

/-- A field of the policy, where 0 selects the default (R426). -/
def polField (pol : List Byte) (off k dflt : Nat) : Nat :=
  let v := fieldAt pol off k
  if v = 0 then dflt else v

/-- K of a policy. -/
def polK (pol : List Byte) : Nat := polField pol 0 1 2
/-- M of a policy. -/
def polM (pol : List Byte) : Nat := polField pol 1 1 3
/-- FI of a policy, in ticks. -/
def polFI (pol : List Byte) : Nat := polField pol 4 4 8000000
/-- SLOT of a policy, in ticks. -/
def polSlot (pol : List Byte) : Nat := polField pol 8 4 4000000
/-- RECORD_MASK of a policy. -/
def polRecordMask (pol : List Byte) : Nat := polField pol 12 2 0x003F
/-- FRAME_MASK of a policy. -/
def polFrameMask (pol : List Byte) : Nat := polField pol 14 2 0x03FF
/-- PULSE of a policy, in ticks. -/
def polPulse (pol : List Byte) : Nat := polField pol 16 4 400000

/-- The frame interval in force (R427). -/
def fiOf (s : State) : Nat := polFI s.safety.policy

/-- The frame interval that holds a moment (R427). -/
def intervalOf (s : State) (t : Nat) : Nat := t / max 1 (fiOf s)

/-! ### Events (R75, R76, R388, R497) -/

/-- The 32 bytes of an event record (table *Event record*). -/
def evBytes (e : EvRec) : List Byte :=
  leBytes 8 e.t ++ leBytes 2 e.code ++ leBytes 2 (e.cls * 4096 + e.unit) ++
  leBytes 2 (e.origin + bit01 e.straddle * 1024 + bit01 e.refLost * 2048 + bit01 e.forwarded * 4096) ++
  leBytes 1 e.u ++ leBytes 1 e.eseq ++ padTo 16 e.arg

/-- The event record of 32 bytes, as it arrives in an EVENT packet (R388). -/
def evOfBytes (bs : List Byte) : EvRec :=
  { t := fieldAt bs 0 8, code := fieldAt bs 8 2, cls := fieldAt bs 10 2 / 4096, unit := fieldAt bs 10 2 % 2048,
    origin := fieldAt bs 12 2 % 1024, straddle := bitAt (fieldAt bs 12 2) 10, refLost := bitAt (fieldAt bs 12 2) 11,
    forwarded := true, u := fieldAt bs 14 1, eseq := fieldAt bs 15 1, arg := bytesAt bs 16 16 }

/-- A record joins the FIFO of function 3, or is counted and dropped while it is full (R76). -/
def pushEvent (s : State) (e : EvRec) : State :=
  if s.ev.fifo.length < 1024 && s.ev.lost == 0 then { s with ev := { s.ev with fifo := s.ev.fifo ++ [e] } }
  else { s with ev := { s.ev with lost := s.ev.lost + 1 } }

/-- The record of an event raised now by a unit; it takes the next ESEQ. -/
def mkEvent (s : State) (code cls unit : Nat) (arg : List Byte) : EvRec :=
  let u := uNow s cls unit
  { t := s.time, code := code, cls := cls, unit := unit, origin := s.inst.id, straddle := straddlesWindow s.time u,
    refLost := s.rst.refLostAt.isSome, forwarded := false, u := u, eseq := s.ev.eseq % 256, arg := arg }

/-- A record leaves for the sink as a posted EVENT packet of one granule (R388). -/
def eventPacket (s : State) (d : Nat) (e : EvRec) : Packet :=
  let g := padTo 64 (evBytes e)
  { reqPacket s 0x0A d 0 with grans := 1, be := 2 ^ 64 - 1, data := [g], codes := [tc g] }

/-- An EVENT packet for a device can leave now. -/
def canReach (s : State) (d : Nat) : Bool :=
  let p := routeOf s d
  decide (p < 12) && (lportOf s p).st == .active

/-- A record of this device on its way: to its own FIFO, or to the sink of R388, the count of those dropped before it. -/
def placeEvent (s : State) (e : EvRec) : State :=
  match s.ev.sink with
  | none => pushEvent s e
  | some d =>
    if d = s.inst.id then pushEvent s e
    else if ! canReach s d then { s with ev := { s.ev with sinkLost := s.ev.sinkLost + 1 } }
    else if s.ev.sinkLost = 0 then routePosted s 12 (eventPacket s d e)
    else
      let l := mkEvent s 0x0002 11 0 (leBytes 4 (satTo 32 s.ev.sinkLost))
      let s := { s with ev := { s.ev with sinkLost := 0, eseq := s.ev.eseq + 1 } }
      routePosted (routePosted s 12 (eventPacket s d l)) 12 (eventPacket s d e)

/-- Post an event: its record, its ESEQ, and the EVENT trace record that the control processor emits (R463, R497). -/
def postEvent (s : State) (code cls unit : Nat) (arg : List Byte) : State :=
  let e := mkEvent s code cls unit arg
  let s := { s with ev := { s.ev with eseq := s.ev.eseq + 1 } }
  placeEvent (emitTrace s 13 0 false 11 code []) e

/-! ### Doubt conditions (R428 to R430, R433) -/

/-- Rows of the table *Doubt sources*, counted from 1. -/
def rowGolden : Nat := 1
def rowCore : Nat := 2
def rowPattern : Nat := 3
def rowSensor : Nat := 4
def rowPool : Nat := 5
def rowGraph : Nat := 6
def rowDeadlock : Nat := 7
def rowDevice : Nat := 8
def rowClk : Nat := 9
def rowVmon : Nat := 10
def rowRefclk : Nat := 11
def rowTime : Nat := 12
def rowTest : Nat := 13
def rowChecker : Nat := 14
def rowStall : Nat := 15

/-- The kind numbers of a scope (R493). -/
def kindDevice : Nat := 0
def kindIsland : Nat := 1
def kindCore : Nat := 2
def kindEngine : Nat := 3
def kindFbc : Nat := 4
def kindPipe : Nat := 5
def kindFlow : Nat := 6
def kindGraph : Nat := 7

/-- Sources that enter PERSISTENT at once: DEADLOCK, CHECKER_FAIL, CP_STALL (R428). -/
def entersPersistent (row : Nat) : Bool := row == 7 || row == 14 || row == 15

/-- A condition never opened. -/
def condNew (source kind scope : Nat) : Cond :=
  { source := source, kind := kind, scope := scope, st := .clear, passes := 0, fails := [], level := false,
    levelSeen := false }

/-- The condition is the one of a source row and a scope. -/
def isCond (source kind scope : Nat) (c : Cond) : Bool := c.source == source && c.kind == kind && c.scope == scope

/-- The failing intervals with one more, newest first; those 1,000 intervals back and older leave the history. -/
def addFail (fails : List Nat) (n : Nat) : List Nat :=
  if fails.head? = some n then fails else n :: fails.filter (fun k => decide (n < k + 1000))

/-- The M-th most recent failing interval lies fewer than 1,000 intervals before the newest (R430). -/
def mRule (m : Nat) (fails : List Nat) : Bool :=
  match fails.head?, fails[m - 1]? with
  | some a, some b => decide (a < b + 1000)
  | _, _ => false

/-- A failing interval of a condition (table *Condition transitions*). -/
def failState (row m : Nat) (c : Cond) (n : Nat) (level : Bool) : Cond :=
  let fails := addFail c.fails n
  let st := if entersPersistent row || mRule m fails then .persistent else match c.st with
    | .persistent => .persistent
    | _ => .transient
  { c with st := st, passes := if c.st = .persistent then c.passes else 0, fails := fails,
           level := c.level || level, levelSeen := c.levelSeen || level }

/-- The AON island is out of reset (R39). -/
def aonRuns (s : State) : Bool := s.rst.phase == .aonUp || s.rst.phase == .sdioUp

/-- VDD_AON, the rail of the trip latch and of DOUBT_N and THERM_TRIP_N, is at its power-on threshold (R34, R46, R47). -/
def aonPowered (s : State) : Bool := s.rst.railsUp.getLsbD 2

/-- DOUBT_N is driven low (R433, R47): in a trip; and outside reset on SM_FAULT, CP_STALL, or the policy armed with a
condition open or a pulse in progress. Without VDD_AON nothing drives it. -/
def doubtPin (s : State) : Bool :=
  aonPowered s && (s.rst.tripped || (aonRuns s && (s.safety.smFault || s.safety.cpStall ||
    (s.safety.armed && (s.safety.conds.any (fun c => c.st != .clear) || s.safety.pulseEnd.isSome)))))

/-- DOUBT_N follows its conditions. -/
def updateDoubt (s : State) : State := { s with safety := { s.safety with doubtLow := doubtPin s } }

/-- The argument of DOUBT_BEGIN, DOUBT_PERSISTENT and DOUBT_END. -/
def doubtArg (c : Cond) (n : Nat) : List Byte :=
  leBytes 1 c.source ++ leBytes 1 c.kind ++ leBytes 2 c.scope ++ leBytes 4 0 ++ leBytes 8 n

/-- Conditions with one replaced or added. -/
def putCond (cs : List Cond) (c : Cond) : List Cond :=
  if cs.any (isCond c.source c.kind c.scope) then cs.map (fun d => if isCond c.source c.kind c.scope d then c else d)
  else cs ++ [c]

/-- A source fails now in a scope; `level` says that its level begins (R428, R430). -/
def failCond (s : State) (source kind scope : Nat) (level : Bool) : State :=
  let n := intervalOf s s.time
  let c := (s.safety.conds.find? (isCond source kind scope)).getD (condNew source kind scope)
  let c' := failState source (polM s.safety.policy) c n level
  let s := { s with safety := { s.safety with conds := putCond s.safety.conds c' } }
  let s := if c.st = .clear then postEvent s 0x0500 11 0 (doubtArg c' n) else s
  let s := if c.st ≠ .persistent ∧ c'.st = .persistent then postEvent s 0x0501 11 0 (doubtArg c' n) else s
  updateDoubt s

/-- A source's level ends in a scope (table *Doubt sources*). -/
def endLevel (s : State) (source kind scope : Nat) : State :=
  { s with safety := { s.safety with
    conds := s.safety.conds.map (fun c => if isCond source kind scope c then { c with level := false } else c) } }

/-- An event that is a doubt source: the event, then its condition. DEDUCED: log entry 60. -/
def raiseDoubt (s : State) (code cls unit : Nat) (arg : List Byte) (source kind scope : Nat) : State :=
  failCond (postEvent s code cls unit arg) source kind scope false

/-- TRAVEL_MISMATCH of a unit: the number of failing granules of the command, and the first of them (R189). -/
def travelMismatch (s : State) (cls unit count port addr : Nat) : State :=
  if count = 0 then s
  else raiseDoubt s 0x0107 cls unit
    (leBytes 4 (satTo 32 count) ++ leBytes 1 port ++ leBytes 3 0 ++ leBytes 8 addr) rowDevice kindDevice 0

/-! ### Address map and firewalls (R14, R17 to R22) -/

/-- Bases of the local map (R22). -/
def fsBase : Nat := 0x004000000000
def spmBase : Nat := 0x004100000000
def traceBase : Nat := 0x004300000000
def nodeBase : Nat := 0x004400000000
def semBase : Nat := 0x004400100000
def flagBase : Nat := 0x004400200000
def cpBase : Nat := 0x004500000000
def ctlBase : Nat := 0x005000000000
/-- The end of the addresses that the map gives to DDR5. -/
def ddrEnd : Nat := 0x002000000000
/-- Sizes of the local map. -/
def fsSize : Nat := 0x18000000
def spmSize : Nat := 0x60000
def spmStride : Nat := 0x80000
def traceSize : Nat := 0x800000
def cpSize : Nat := 0x400000
/-- The golden area at the top of the frame store (R436). -/
def goldenBase : Nat := 0x004017F80000

/-- The range [a, a + len) lies in [base, base + size). -/
def inRange (a len base size : Nat) : Bool := decide (base ≤ a) && decide (a + len ≤ base + size)

/-- The firewall target that holds an access whole (R22), with so much usable DDR5; none: unmapped. The node table and the
semaphore array stand beside each other, so an access may run from one into the other. 0 DDR5, 1 frame store, 2 trace buffer,
3 sequencer windows, 0x100 + c the scratchpad of core c, 4 control-processor memory, 5 engine and block control space. -/
def mapWith (usable a len : Nat) : Option Nat :=
  if inRange a len 0 usable then some 0
  else if inRange a len fsBase fsSize then some 1
  else if inRange a len spmBase (256 * spmStride) then
    let c := (a - spmBase) / spmStride
    if inRange a len (spmBase + c * spmStride) spmSize then some (0x100 + c) else none
  else if inRange a len traceBase traceSize then some 2
  else if inRange a len nodeBase 0x140000 || inRange a len flagBase 0x8000 then some 3
  else if inRange a len cpBase cpSize then some 4
  else if inRange a len ctlBase (2 ^ 48 - ctlBase) then some 5
  else none

/-- The target of an access to this device, with its usable DDR5 (R22, R398). -/
def mapTarget (s : State) (a len : Nat) : Option Nat := mapWith s.ddr.usable a len

/-- The island of a target. -/
def targetIsland (t : Nat) : Nat := if t = 0 then 50 else if t ≤ 3 then 1 else if t ≤ 5 then 0 else 2 + (t - 0x100) / 16

/-- Region 63 as reset leaves it: the whole target for domain 0 (R20). -/
def fwDefault63 : FwRegion := { base := 0, limit := BitVec.allOnes 36, en := true, lock := false, rd := 1, wr := 1 }

/-- A region other than 63 at reset: disabled. -/
def fwDefault : FwRegion := { base := 0, limit := 0, en := false, lock := false, rd := 0, wr := 0 }

/-- A firewall region of a target. -/
def fwOf (s : State) (target region : Nat) : FwRegion :=
  tabGet (if region = 63 then fwDefault63 else fwDefault) s.fw (target * 64 + region)

/-- The state with a firewall region set. -/
def setFw (s : State) (target region : Nat) (r : FwRegion) : State :=
  { s with fw := tabSet (target * 64 + region) r s.fw }

/-- A region contains an address. -/
def fwHas (r : FwRegion) (a : Nat) : Bool :=
  decide (r.base.toNat * 4096 ≤ a) && decide (a < r.limit.toNat * 4096 + 4096)

/-- The regions of a target that the table lists, in rising order. -/
def fwListed (s : State) (target : Nat) : List FwRegion :=
  (s.fw.filter (fun e => e.1 / 64 == target)).map (·.2)

/-- The read access that firmware grants a trace channel's domain on start: to its region, and to its spill area (R468).
The grant lasts until the channel starts again (log entry 36). -/
def traceGrants (s : State) (target : Nat) : List FwRegion :=
  (s.trace.chans.filter (fun e => e.2.st != .idle)).filterMap (fun e =>
    let x := e.2
    let region := fun (a len : Nat) => some (FwRegion.mk (BitVec.ofNat 36 (a / 4096)) (BitVec.ofNat 36 ((a + len) / 4096 - 1))
      true false (BitVec.ofNat 16 (2 ^ x.dom)) 0)
    if target = 2 then region (traceBase + x.bufOff) x.bufLen
    else if target = 0 ∧ x.spillBase ≠ 0 then region x.spillBase x.spillLen
    else none)

/-- The regions of a target in rising order, those at reset left out except region 63; what firmware grants trace channels
stands between region 62 and region 63 (log entry 36). -/
def fwRegions (s : State) (target : Nat) : List FwRegion :=
  if (tabGet? s.fw (target * 64 + 63)).isSome then fwListed s target
  else fwListed s target ++ traceGrants s target ++ [fwDefault63]

/-- The firewall test (R17). -/
def fwAllows (s : State) (target dom : Nat) (wr : Bool) (a len : Nat) : Bool :=
  match (fwRegions s target).find? (fun r => r.en && fwHas r a) with
  | none => false
  | some r => fwHas r (a + len - 1) && (if wr then r.wr.getLsbD dom else r.rd.getLsbD dom)

/-- The status of an access at its target: UNMAPPED, ISLAND_OFF, the fixed refusal of mesh writes to the sequencer
windows, then the firewall (R22, R14, R181, R196, R17). -/
def accessStatus (s : State) (dom : Nat) (wr : Bool) (a len : Nat) : Status :=
  match mapTarget s a len with
  | none => .unmapped
  | some t =>
    if ! islandRuns s (targetIsland t) then .islandOff
    else if wr && t == 3 then .denied
    else if fwAllows s t dom wr a len then .ok else .denied

/-- The DDR5 channel of an address (R399). -/
def ddrChan (a : Nat) : Nat := (a >>> 8) % 4

/-- The class and unit that a FIREWALL_DENY names (R514); for control-processor memory and control space the control
processor's. DESIGN CHOICE: log entry 75. -/
def denySrc (t a : Nat) : Nat × Nat :=
  if t ≥ 0x100 then (1, t - 0x100)
  else if t = 1 then (10, 0)
  else if t = 0 then (7, ddrChan a)
  else if t = 2 then (12, 0)
  else if t = 3 then (8, 0)
  else (13, 0)

/-- The event of an access that a target denies (R18). The manual numbers targets 0 to 3 and those of the scratchpads (R493);
4 and 5 for the other two are the model's. DESIGN CHOICE: log entry 75. -/
def denyEvent (s : State) (dom a len : Nat) : State :=
  match mapTarget s a len with
  | none => s
  | some t =>
    let src := denySrc t a
    postEvent s 0x0003 src.1 src.2 (leBytes 1 dom ++ [0] ++ leBytes 2 t ++ leBytes 8 a)

/-- An access arrives at its target: its status, and the event when it is denied. -/
def access (s : State) (dom : Nat) (wr : Bool) (a len : Nat) : State × Status :=
  let st := accessStatus s dom wr a len
  (if st = .denied then denyEvent s dom a len else s, st)

/-! ### Views of the sequencer windows (R196, R201, R181) -/

/-- The 32 bytes of a node-table entry. -/
def nodeBytes (s : State) (n : Nat) : List Byte :=
  match tabGet? s.nodes n with
  | none => List.replicate 32 0
  | some x =>
    leBytes 1 x.kind ++ leBytes 1 (bit01 x.safety + 2 * bit01 x.iterEnd) ++ leBytes 2 x.unit ++
    leBytes 4 (x.depInit + x.cnt0 * 1024 + x.cnt1 * 1048576) ++ leBytes 2 x.desc ++ leBytes 1 x.descLen ++
    leBytes 1 x.eclass ++ leBytes 2 x.edgeFirst ++ leBytes 1 x.edgeCnt ++ leBytes 1 x.waitCnt ++ leBytes 2 x.waitFirst ++
    leBytes 1 x.lane ++ leBytes 1 x.graph ++ leBytes 4 (nth x.lates (seasonIdx s.power.season)) ++ leBytes 4 x.iter ++
    leBytes 4 0

/-- The 16 bytes of a semaphore entry. -/
def semBytes (s : State) (n : Nat) : List Byte :=
  let x := semOf s n
  let bound := fun (o : Option Nat) => match o with
    | none => 0
    | some k => k + 0x8000
  leBytes 2 x.count ++ leBytes 2 x.init ++ leBytes 2 (bound x.waiter) ++
  leBytes 2 (if x.remote then 0x8000 else bound x.signaler) ++
  leBytes 2 (x.sigDev + 1024 * bit01 x.remote) ++ leBytes 1 x.graph ++ leBytes 1 (bit01 x.blocked) ++ leBytes 4 x.signals

/-- The 64-bit word of a region flag. -/
def flagBytes (s : State) (n : Nat) : List Byte :=
  let x := flagOf s n
  leBytes 1 x.cmask.toNat ++ leBytes 4 x.pend.toNat ++ [0] ++ leBytes 2 x.frame.toNat

/-- `len` bytes at an address of a window that holds entries of `size` bytes from `base`. -/
def windowBytes (entry : Nat → List Byte) (base size a len : Nat) : List Byte :=
  let lo := (a - base) / size
  let n := (a + len - 1 - base) / size + 1 - lo
  bytesAt ((List.range n).flatMap (fun i => entry (lo + i))) ((a - base) % size) len

/-- The bytes of an address range that passed its checks: memory, or the sequencer windows as they stand. -/
def viewBytes (s : State) (a len : Nat) : List Byte :=
  if inRange a len nodeBase 0x100000 then windowBytes (nodeBytes s) nodeBase 32 a len
  else if inRange a len semBase 0x40000 then windowBytes (semBytes s) semBase 16 a len
  else if inRange a len nodeBase 0x140000 then
    windowBytes (nodeBytes s) nodeBase 32 a (semBase - a) ++ windowBytes (semBytes s) semBase 16 semBase (a + len - semBase)
  else if inRange a len flagBase 0x8000 then windowBytes (flagBytes s) flagBase 8 a len
  else getBytes s a len

/-- The local part of an installation address that this device serves itself, or none (R24). -/
def localPart (s : State) (a : Nat) : Option Nat :=
  if a / 2 ^ 54 = s.inst.id then some (a % 2 ^ 48) else none

/-- An installation address with non-zero bits [53:48] (R24). -/
def badInstAddr (a : Nat) : Bool := bitsAt a 48 6 != 0

/-! ### Responses (R69 to R74, R498) -/

/-- A response record (R69): the command's header mirrored, STATUS filled in, its own length and CRC. -/
def respBytes (opcode : Nat) (h : CmdHdr) (st : Status) (payload : List Byte) : List Byte :=
  let hd := leBytes 2 opcode ++ leBytes 2 h.flags ++ leBytes 4 h.seq ++ leBytes 4 payload.length ++ leBytes 1 h.domain ++
    [0] ++ leBytes 2 (statusCode st) ++ List.replicate 12 0
  hd ++ leBytes 4 (crc32c (hd ++ payload)) ++ payload

/-- Bytes that stored responses occupy. -/
def histSize (l : List HistEntry) : Nat := l.foldl (fun n e => n + e.resp.length) 0

/-- The history within its limits: 16 entries and 512 KiB, the oldest dropped first, the newest always kept (R73). -/
def trimHist : List HistEntry → List HistEntry
  | [] => []
  | [e] => [e]
  | e :: es => if 16 < (e :: es).length ∨ 524288 < histSize (e :: es) then trimHist es else e :: es

/-- A record is executed: the history takes it (R73). -/
def recordHist (s : State) (opcode : Nat) (h : CmdHdr) (rsp : List Byte) : State :=
  { s with mb := { s.mb with history := trimHist (s.mb.history ++
      [{ seq := h.seq, opcode := opcode, crc := h.crc, resp := rsp }]) } }

/-- The parts of a response that returns over the link: 256 bytes each, as whole granules (R387). -/
def mboxPackets (s : State) (type dst tag gen : Nat) : Nat → Nat → List Byte → List Packet
  | 0, _, _ => []
  | n + 1, off, bs =>
    let gs := (chunks 64 4 (bs.take 256)).map (padTo 64)
    let last := decide (bs.length ≤ 256)
    { reqPacket s type dst tag with gen := gen, pflags := if last then 2 else 0, grans := gs.length, be := 2 ^ 64 - 1,
                                    arg := off, data := gs, codes := gs.map tc } ::
      (if last then [] else mboxPackets s type dst tag gen n (off + 4) (bs.drop 256))

/-- The packets of a record, in order. -/
def sendMbox (s : State) (type dst tag gen : Nat) (bs : List Byte) : State :=
  (mboxPackets s type dst tag gen (bs.length / 256 + 1) 0 bs).foldl (fun s p => routePosted s 12 p) s

/-- A response takes the place of its record: a waiting response of the host's mailbox, or MBOX_RSP packets; with
RSP_EVENT set CMD_DONE follows (R71, R387, R498). -/
def placeResponse (s : State) (i : Nat) (r : MbRec) (rsp : List Byte) : State :=
  let s := match r.src with
    | .host => { s with mb := { s.mb with order := s.mb.order.set i (.resp .host rsp) } }
    | .relay dev tag gen =>
      sendMbox { s with mb := { s.mb with order := s.mb.order.eraseIdx i } } 0x86 dev tag gen rsp
  if bitAt r.hdr.flags 0 then
    postEvent s 0x0001 13 0 (leBytes 2 r.opcode ++ leBytes 2 0 ++ leBytes 4 r.hdr.seq ++ bytesAt rsp 14 2)
  else s

/-- A recorded response (R73). -/
def finishAt (s : State) (i : Nat) (r : MbRec) (st : Status) (payload : List Byte) : State :=
  let rsp := respBytes r.opcode r.hdr st payload
  placeResponse (recordHist s r.opcode r.hdr rsp) i r rsp

/-- What a command answers is put in its place of the order. -/
def settleAt (s : State) (i : Nat) (r : MbRec) : CmdRes → State
  | .done st payload => finishAt s i r st payload
  | .wait w => { s with mb := { s.mb with order := s.mb.order.set i (.exec r w) } }

/-- The first record that executes and waits for a completion, with its place. -/
def waitingOn (w : WaitKind) : Nat → List MbEntry → Option (Nat × MbRec)
  | _, [] => none
  | i, .exec r w' :: t => if w' = w then some (i, r) else waitingOn w (i + 1) t
  | i, _ :: t => waitingOn w (i + 1) t

/-- The completion that a command waits for has come: its response follows, while firmware executes (R66). -/
def answer (s : State) (w : WaitKind) (st : Status) (payload : List Byte) : State :=
  if ! fwUp s then s
  else match waitingOn w 0 s.mb.order with
    | none => s
    | some (i, r) => finishAt s i r st payload

/-- The refusal detail of R490 for a field of the payload. -/
def detail (off : Nat) : List Byte := leBytes 4 off ++ leBytes 2 0xFFFF ++ [0, 0]

/-- The refusal detail of R490 for an object. -/
def detailOf (off object okind : Nat) : List Byte := leBytes 4 off ++ leBytes 2 object ++ leBytes 1 okind ++ [0]

/-- A refusal without a payload. -/
def refuse (s : State) (st : Status) : State × CmdRes := (s, .done st [])

/-- A refusal with the detail of a payload field. -/
def refuseAt (s : State) (st : Status) (off : Nat) : State × CmdRes := (s, .done st (detail off))

/-- Success without a payload. -/
def okDone (s : State) : State × CmdRes := (s, .done .ok [])

/-- Success with a payload. -/
def okWith (s : State) (payload : List Byte) : State × CmdRes := (s, .done .ok payload)

/-- The domain a command executes in: that of its record, but domain 1 for the safety group (R16). -/
def cmdDomain (opcode : Nat) (h : CmdHdr) : Nat := if opcode / 256 = 5 then 1 else h.domain

/-- The record's domain is refused (R16). -/
def domainRefused (opcode : Nat) (h : CmdHdr) : Bool :=
  opcode / 256 != 5 && (decide (h.domain ≤ 1) || decide (15 < h.domain))

/-- The checks of the header that stage 2 makes after the sequence rules, then the command (R4, R16, R74). -/
def execChecked (resv : Option Nat) (opcode : Nat) (h : CmdHdr) (f : State → State × CmdRes) (s : State) :
    State × CmdRes :=
  match resv with
  | some off => (s, .done .badField (detailOf off 0xFFFF 7))
  | none => if domainRefused opcode h then refuse s .denied else f s

/-- The record that a mailbox command given as a row stands for: the host's, with this header.
DEDUCED: log entry 12. -/
def rowRecord (h : CmdHdr) (opcode : Nat) : MbRec :=
  { src := .host, opcode := opcode, hdr := h, resv := none, payload := [] }

/-- What a row's command left and answers: the response, or the wait for it, joins the end of the order (log entry 12). -/
def answerRow (h : CmdHdr) (opcode : Nat) (x : State × CmdRes) : State :=
  settleAt { x.1 with mb := { x.1.mb with order := x.1.mb.order ++ [.queued (rowRecord h opcode)] } } x.1.mb.order.length
    (rowRecord h opcode) x.2

/-- A mailbox command given as a row of its own: the host's record of this header is executed now, whatever the order
holds (log entry 12). -/
def runCommand (h : CmdHdr) (opcode : Nat) (f : State → State × CmdRes) (s : State) : State :=
  if ! fwUp s then s
  else answerRow h opcode (execChecked (if h.flags / 2 = 0 then none else some 2) opcode h f s)

end Sys2Proof.Machine
end

