-- ==== Sys2Proof/Machine/Ecc.lean ====
section
/-! DEFINITION. ECC errors of the memories as their readers meet them (R177, R178, R318, R343, R402, R513), and the reads and
writes of local addresses that units make (R14, R17, R18, R22, R511). A row whose work reads carries the errors that stand in
the memories by then; every read meets those that stand in what it reads. -/

namespace Sys2Proof.Machine

open Sys2Proof

/-! ### Places -/

/-- The subchannel of an address. -/
def ddrSubch (a : Nat) : Nat := a / 64 % 2

/-- The offset of a local address within its channel. -/
def ddrOffset (a : Nat) : Nat := a / 1024 * 256 + a % 256

/-- The local address of a channel's offset. -/
def ddrAddr (chan o : Nat) : Nat := o / 256 * 1024 + chan * 256 + o % 256

/-- The first of the 32 data granules whose codes share a code granule with that of an address. -/
def codeFirst (a : Nat) : Nat := ddrAddr (ddrChan a) (ddrOffset a / 2048 * 2048)

/-- The 32 granules of a code granule. -/
def codeGrans (a : Nat) : List Nat :=
  (List.range 32).map (fun i => granOf (ddrAddr (ddrChan a) (ddrOffset a / 2048 * 2048 + 64 * i)))

/-- The granule of a frame-store bank and row (R172). -/
def fsRowAddr (bank row : Nat) : Nat := fsBase + (row * 48 + bank) * 64

/-! ### Reports -/

/-- ARG of ECC_CORRECTED and ECC_UNCORR (R513). -/
def eccArg (bank rank subch row addr : Nat) : List Byte :=
  leBytes 2 bank ++ leBytes 1 rank ++ leBytes 1 subch ++ leBytes 4 row ++ leBytes 8 addr

/-- A corrected error of a bank: counted, and the first in each counter window reported. -/
def eccCorrected (s : State) (cls unit key : Nat) (arg : List Byte) : State :=
  let w := windowOf s.time
  let s' := { s with eccCnt := tabSet key (tabGet 0 s.eccCnt key + 1) s.eccCnt, eccWin := tabSet key w s.eccWin }
  if tabGet? s.eccWin key = some w then s' else postEvent s' 0x0105 cls unit arg

/-- An uncorrectable error: the granules it poisons and its event, a doubt source. -/
def eccUncorr (s : State) (cls unit : Nat) (grans : List Nat) (arg : List Byte) : State :=
  let m := grans.foldl (fun t g => tabPut 0 g (BitVec.ofNat 16 poisonMark) t) s.marks
  raiseDoubt { s with marks := m } 0x0106 cls unit arg rowDevice kindDevice 0

/-- What ECC finds in a frame-store row (R177, R178). -/
def fsEcc (s : State) (bank row : Nat) (found : EccFind) : State :=
  let arg := eccArg bank 0 0 row (fsRowAddr bank row)
  match found with
  | .clean => s
  | .corrected => eccCorrected (bump s 10 0 3 1) 10 0 bank arg
  | .uncorrectable => eccUncorr s 10 0 [granOf (fsRowAddr bank row)] arg

/-- What ECC finds in a row of a core's scratchpad (R318): bank and bank row under R311. -/
def spmEcc (s : State) (core row : Nat) (found : EccFind) : State :=
  let addr := spmBase + core * spmStride + 64 * row
  let arg := eccArg (row % 16) 0 0 (row / 16) addr
  match found with
  | .clean => s
  | .corrected => eccCorrected (bump s 1 core 7 1) 1 core (131072 + core) arg
  | .uncorrectable => eccUncorr s 1 core [granOf addr] arg

/-- What ECC finds in a DDR5 data granule, or in the code granule that holds its code (R402). -/
def ddrEcc (s : State) (addr : Nat) (isCode : Bool) (found : EccFind) (rank bank row : Nat) : State :=
  let ch := ddrChan addr
  let a := if isCode then codeFirst addr + 2 ^ 63 else addr / 64 * 64
  let arg := eccArg bank rank (ddrSubch addr) row a
  match found with
  | .clean => s
  | .corrected => eccCorrected (bump s 7 ch 4 1) 7 ch (65536 + ch) arg
  | .uncorrectable => eccUncorr s 7 ch (if isCode then codeGrans addr else [granOf addr]) arg

/-- What ECC finds in a granule of the trace buffer. -/
def traceEcc (s : State) (addr : Nat) (found : EccFind) : State :=
  let arg := eccArg 0 0 0 ((addr - traceBase) / 64) (addr / 64 * 64)
  match found with
  | .clean => s
  | .corrected => eccCorrected s 12 0 196608 arg
  | .uncorrectable => eccUncorr s 12 0 [granOf addr] arg

/-- What ECC finds in a granule of the sequencer's node table, semaphores or flags: ROW is the granule's index within its
table (R186, R513). DEDUCED: log entry 70. -/
def tableEcc (s : State) (addr : Nat) (found : EccFind) : State :=
  let base := if addr < semBase then nodeBase else if addr < flagBase then semBase else flagBase
  let arg := eccArg 0 0 0 ((addr - base) / 64) (addr / 64 * 64)
  match found with
  | .clean => s
  | .corrected => eccCorrected s 8 0 196610 arg
  | .uncorrectable => eccUncorr s 8 0 [granOf addr] arg

/-- What ECC finds in the egress FIFO's granule of a record that a port reads. The granule's index and address there the manual
does not give (log entry 8). DEDUCED: log entry 70. -/
def fifoEcc (s : State) (port : Nat) (found : EccFind) : State :=
  let arg := eccArg 0 0 0 (Config.freeNat s.freeCnt port % 2 ^ 32) (Config.freeNat s.freeCnt (port + 8) % 2 ^ 64)
  match found with
  | .clean => s
  | .corrected => eccCorrected { s with freeCnt := s.freeCnt + 1 } 6 port (196616 + port) arg
  | .uncorrectable => eccUncorr { s with freeCnt := s.freeCnt + 1 } 6 port [] arg

/-- What ECC finds in a weight-cache line (R343): a corrected error is counted; an uncorrectable one drops the line, and the
read goes to DDR5. Which index the line has within the cache the manual does not state (log entry 8).
DEDUCED: log entry 70. -/
def lineEcc (s : State) (addr : Nat) (found : EccFind) : State :=
  let a := addr / 64 * 64
  if ! s.wcache.any (fun l => l.addr == a) then s
  else match found with
    | .clean => s
    | .corrected => { s with eccCnt := tabSet 196609 (tabGet 0 s.eccCnt 196609 + 1) s.eccCnt }
    | .uncorrectable =>
      let row := Config.freeNat s.freeCnt addr % 262144
      eccUncorr { s with wcache := s.wcache.filter (fun l => l.addr != a), freeCnt := s.freeCnt + 1 } 11 1 []
        (eccArg 0 0 0 row a)

/-! ### The errors that reads meet -/

/-- What ECC finds, in the memory that its place and address name. DEDUCED: log entry 70. -/
def eccFound (s : State) (x : EccHit) : State :=
  match x.place with
  | .line => lineEcc s x.addr x.found
  | .code => if x.addr < s.ddr.usable then ddrEcc s x.addr true x.found x.rank x.bank x.row else s
  | .rule => s
  | .memory =>
    match mapTarget s (x.addr / 64 * 64) 64 with
    | some 0 => ddrEcc s x.addr false x.found x.rank x.bank x.row
    | some 1 => let g := (x.addr - fsBase) / 64; fsEcc s (g % 48) (g / 48) x.found
    | some 2 => traceEcc s x.addr x.found
    | some 3 => tableEcc s x.addr x.found
    | some t => if 0x100 ≤ t then spmEcc s (t - 0x100) ((x.addr - spmBase) % spmStride / 64) x.found else s
    | none => s

/-- An error as it stands in a memory: an uncorrectable one of a granule hides whatever comes after it there, and a later one
replaces a corrected one. DEDUCED: log entry 70. -/
def standAt (l : List EccHit) (x : EccHit) : List EccHit :=
  let same := fun (y : EccHit) => y.place == x.place && granOf y.addr == granOf x.addr
  if x.found = .clean ∨ l.any (fun y => same y && y.found == .uncorrectable) then l
  else x :: l.filter (fun y => ! same y)

/-- The granules that an error poisons as long as it stands (R178, R318, R402). -/
def eccPoisons (s : State) (x : EccHit) : List Nat :=
  if x.found ≠ .uncorrectable then []
  else match x.place with
    | .memory => if (mapTarget s (x.addr / 64 * 64) 64).isSome then [granOf x.addr] else []
    | .code => if x.addr < s.ddr.usable then codeGrans x.addr else []
    | .line => []
    | .rule => []

/-- Errors come to stand in the memories. DEDUCED: log entry 70. -/
def plant (l : List EccHit) (s : State) : State :=
  l.foldl (fun s x => { s with
    eccBad := standAt s.eccBad x,
    marks := (eccPoisons s x).foldl (fun t g => tabPut 0 g (BitVec.ofNat 16 poisonMark) t) s.marks }) s

/-- An error goes on standing after a read met it: an uncorrectable one of a granule until it is written whole (R178, R318,
R402), a corrected one of the frame store until the scrubber writes it back (R177, R179), a rule granule that fails until a
table is loaded (R434); the other memories write corrected data back (R318, R402). -/
def staysAfter (s : State) (x : EccHit) : Bool :=
  match x.place, x.found with
  | .memory, .uncorrectable => true
  | .code, .uncorrectable => true
  | .rule, _ => true
  | .memory, .corrected => mapTarget s (x.addr / 64 * 64) 64 == some 1
  | _, _ => false

/-- One error met by a read. -/
def eccMeet (s : State) (x : EccHit) : State :=
  let s' := eccFound s x
  if staysAfter s x then s' else { s' with eccBad := s'.eccBad.filter (fun y => y != x) }

/-- A read of granules meets every error that stands in them. DEDUCED: log entry 70. -/
def meet (reads : Nat → Bool) (s : State) : State :=
  s.eccBad.foldl (fun s x => if reads (granOf x.addr) then eccMeet s x else s) s

/-- The errors that stand in granules that a step reads, those that came with the step among them. -/
def eccHits (reads : Nat → Bool) (l : List EccHit) (s : State) : State := meet reads (plant l s)

/-- A read of a byte range meets the errors that stand in it. -/
def meetRange (a len : Nat) (s : State) : State := meet (fun g => (gransOf a len).contains g) s

/-- The granules of a pipeline's fallback table that fail their travel codes (R435). -/
def ruleFails (s : State) (pipe : Nat) : List Nat :=
  (s.eccBad.filter (fun x => x.place == .rule && x.addr / 4096 == pipe)).map (fun x => granOf x.addr)

/-- A fallback table is written: none of its granules fails any longer (R434). -/
def rulesWritten (s : State) (pipe : Nat) : State :=
  { s with eccBad := s.eccBad.filter (fun x => ! (x.place == .rule && x.addr / 4096 == pipe)) }

/-- Partial writes of granules: those in a scratchpad count in SPM_RMW (R319), those in the frame store in FS_RMW (R478). -/
def countMerges (gs : List Nat) (s : State) : State :=
  gs.foldl (fun s g => match mapTarget s (g * 64) 64 with
    | some t => if 0x100 ≤ t then bump s 1 (t - 0x100) 6 1 else if t = 1 then bump s 10 0 2 1 else s
    | none => s) s

/-- The granules that a write of a byte range touches without covering them are read for the merge (R188). -/
def meetMerge (a len : Nat) (s : State) : State :=
  let part := (gransOf a len).filter (fun g => ! wholeGran a len g)
  countMerges part (meet (fun g => part.contains g) s)

/-! ### Reads and writes of local addresses -/

/-- A read of a local address in a domain: bytes on OK, zeros when denied (R18), none otherwise (R22, R14). -/
def readLocal (s : State) (dom a len : Nat) : State × Status × List Byte :=
  let (s', st) := access s dom false a len
  match st with
  | .ok => (meetRange a len s', .ok, viewBytes s a len)
  | .denied => (s', .denied, List.replicate len 0)
  | st => (s', st, [])

/-- The first granule of a range whose access its target refuses. -/
def firstBar (s : State) (dom : Nat) (wr : Bool) (gs : List Nat) : Option (Nat × Status) :=
  gs.findSome? (fun g =>
    let st := accessStatus s dom wr (g * 64) 64
    if st = .ok then none else some (g, st))

/-- A read of a structure that the host wrote, granule by granule (R511): the first refusal, TRAVEL_ERR on failing or
poisoned granules, and TRAVEL_MISMATCH for failing ones, in the name of the unit that reads. -/
def readStruct (s : State) (cls unit dom a len : Nat) : State × Status × List Byte :=
  match firstBar s dom false (gransOf a len) with
  | some (g, st) => (if st = .denied then denyEvent s dom (max a (g * 64)) 1 else s, st, [])
  | none =>
    let s := meetRange a len s
    let bs := viewBytes s a len
    if rangeBad s a len then
      let f := rangeFailing s a len
      (travelMismatch s cls unit f.length 0xFF (f.headD 0 * 64), .travelErr, bs)
    else (s, .ok, bs)

/-- A write of a local address in a domain: nothing is written unless every check passes (R18, R22). -/
def writeLocal (s : State) (dom a : Nat) (bs : List Byte) (poison : Bool) : State × Status :=
  let (s', st) := access s dom true a bs.length
  if st = .ok then (putBytes (meetMerge a bs.length s') a bs poison, .ok) else (s', st)

end Sys2Proof.Machine
end

