-- ==== Sys2Proof/Machine/Reset.lean ====
section
/-! DEFINITION. Reset, release from reset, REFCLK at release, and the SDIO bus commands (chapter 2; R53 to R56). -/

namespace Sys2Proof.Machine

open Sys2Proof

/-! ### Reset (R38 to R40, R46) -/

/-- The reset conditions after a cause; the trip latch ends with PORST_N or with VDD_AON (row 2), not with PWR_GOOD
(R46). The rails, REFCLK and the level of VDD_SDIO are the board's. DEDUCED: log entry 44. -/
def rstAfter (r : ResetUnit) (c : ResetCause) : ResetUnit :=
  { rstReset with
    pwrGood := match c with
      | .pwrGoodLow => false
      | _ => r.pwrGood
    porstN := match c with
      | .porstLow => false
      | _ => r.porstN
    railsUp := match c with
      | .railLow k => r.railsUp &&& ~~~(BitVec.ofNat 9 (2 ^ k))
      | _ => r.railsUp
    refclk := r.refclk
    vddSdio18 := r.vddSdio18
    sdio18 := r.vddSdio18
    tripped := match c with
      | .porstLow => false
      | .railLow k => r.tripped && k != 2
      | .pwrGoodLow => r.tripped }

/-- OTP keeps its bits through every reset (R60). DESIGN CHOICE: log entry 4. -/
def bootAfter (b : BootUnit) : BootUnit :=
  { bootReset with keyHash := b.keyHash, keyRevoke := b.keyRevoke, svnFuse := b.svnFuse }

/-- The test access port through a reset: PORST_N does not reset it (R51), but debug access ends, and an access in progress
ends with DENIED (R487). DEDUCED: log entry 69. -/
def tapAfter (t : TapUnit) : TapUnit :=
  { t with dbgDomain := none, dbgBusy := false, dbgStatus := if t.dbgBusy then .denied else t.dbgStatus }

/-- The SM_FAULT latch ends with PORST_N (R425), or with its supply VDD_AON. DEDUCED: log entry 44. -/
def smFaultAfter (latch : Bool) : ResetCause → Bool
  | .porstLow => false
  | .railLow k => latch && k != 2
  | .pwrGoodLow => latch

/-- The locked firewall regions, which a reset without PORST_N and without a loss of power leaves as they are (R21). -/
def fwAfter (fw : Tab FwRegion) : ResetCause → Tab FwRegion
  | .pwrGoodLow => fw.filter (fun e => e.2.lock)
  | _ => []

/-- Internal reset: every register at its reset value, every pin in its reset state (R40, R48). The queue of commands,
the board's inputs, OTP and the test access port are not the device's to reset. DEDUCED: log entry 44. -/
def doResetEntry (c : ResetCause) (s : State) : State :=
  updateDoubt { State.reset with
    pending := s.pending, rst := rstAfter s.rst c, boot := bootAfter s.boot, tap := tapAfter s.tap,
    fw := fwAfter s.fw c,
    safety := { safetyReset with smFault := smFaultAfter s.safety.smFault c }, freeCnt := s.freeCnt }

/-- RESET_ENTRY (R40). -/
def execResetEntry (c : ResetCause) (s : State) : Host.Outcome State Fault Refusal := .next (doResetEntry c s)

/-- t0: the last of the first three conditions of R38 ends; the AON PLL begins to lock when REFCLK is there (R39). -/
def doResetRelease (refclk : Bool) (s : State) : State :=
  if s.rst.phase = .held then
    { s with rst := { s.rst with pwrGood := true, porstN := true, railsUp := BitVec.allOnes 9, refclk := refclk,
                                 phase := .locking, t0 := s.time } }
  else s

/-- RESET_RELEASE (R39). -/
def execResetRelease (refclk : Bool) (s : State) : Host.Outcome State Fault Refusal := .next (doResetRelease refclk s)

/-- A REFCLK that starts late: the sequence runs from this moment in place of t0 (R39). -/
def doRefclkPresent (s : State) : State :=
  if s.rst.phase = .locking ∧ s.rst.refclk = false then
    { s with rst := { s.rst with refclk := true, t0 := s.time } }
  else s

/-- REFCLK_PRESENT (R39). -/
def execRefclkPresent (s : State) : Host.Outcome State Fault Refusal := .next (doRefclkPresent s)

/-- t0 + 20 µs: the PLL is locked, BOOT_SRC is latched (R39, R44). -/
def doAonPllLocked (bootSrc : Nat) (s : State) : State :=
  if s.rst.phase = .locking ∧ s.rst.refclk = true then
    let s := advanceTo s (s.rst.t0 + 80000)
    { s with rst := { s.rst with phase := .locked, bootSrc := BitVec.ofNat 2 bootSrc } }
  else s

/-- AON_PLL_LOCKED (R39). -/
def execAonPllLocked (bootSrc : Nat) (s : State) : Host.Outcome State Fault Refusal := .next (doAonPllLocked bootSrc s)

/-- The boot ROM fails: PHASE 0xFF and the code; nothing further is accepted until reset (R62). -/
def bootFail (b : BootUnit) (code : Nat) : BootUnit :=
  { b with phase := 0xFF, code := BitVec.ofNat 16 code, verifying := false }

/-- t0 + 22 µs: AON is released and the boot ROM starts; a reserved BOOT_SRC loads nothing (R39, R44, R57). A trip that
still holds keeps the ROM from starting (R46). -/
def doAonRelease (otpErr : Bool) (s : State) : State :=
  if s.rst.phase = .locked ∧ s.rst.tripped = false then
    let s := advanceTo s (s.rst.t0 + 88000)
    let b := { s.boot with otpErr := otpErr, phase := 0x01 }
    updateDoubt { s with rst := { s.rst with phase := .aonUp },
                         boot := if s.rst.bootSrc.toNat ≥ 2 then bootFail b 0x0B01 else b }
  else s

/-- AON_RELEASE (R39, R57). -/
def execAonRelease (otpErr : Bool) (s : State) : Host.Outcome State Fault Refusal := .next (doAonRelease otpErr s)

/-- A link port begins training (R39, R356). -/
def portDetect (s : State) (p : Nat) : State :=
  setLport s p { lportOf s p with st := .detect, since := s.time, pulses := 0 }

/-- The islands LNK0 to LNK2, as bits of the island clocks. -/
def lnkIslands : BitVec 55 := BitVec.ofNat 55 (2 ^ 51 + 2 ^ 52 + 2 ^ 53)

/-- t0 + 100 µs: the SDIO function answers; with BOOT_SRC = LINK the twelve ports begin training (R39). -/
def doSdioFunctionReady (s : State) : State :=
  if s.rst.phase = .aonUp ∧ s.rst.tripped = false then
    let s := advanceTo s (s.rst.t0 + 400000)
    let s := { s with rst := { s.rst with phase := .sdioUp } }
    if s.rst.bootSrc = 1 then
      (List.range 12).foldl portDetect { s with islands := s.islands ||| lnkIslands }
    else s
  else s

/-- SDIO_FUNCTION_READY (R39). -/
def execSdioFunctionReady (s : State) : Host.Outcome State Fault Refusal := .next (doSdioFunctionReady s)

/-! ### The SDIO bus (R36, R53, R54) -/

/-- The SDIO function answers (R39, R46). -/
def sdioAnswers (s : State) : Bool := s.rst.phase == .sdioUp && ! s.rst.tripped

/-- Function `n` of 1 to 3 takes an access that reaches it: function 3 from FW_READY (R55), and none of a card that CMD15 has
made inactive (R53). PRESUMED: log entry 6. -/
def fnUp (s : State) (n : Nat) : Bool :=
  sdioAnswers s && s.sdio.card != .inactive && (n != 3 || s.boot.fwReady)

/-- A CMD52 or CMD53 reaches function `n` of 1 to 3: the card is selected and the host has enabled the function, both as the
standard defines (R53, R55). PRESUMED: log entry 6. -/
def fnAnswers (s : State) (n : Nat) : Bool := fnUp s n && s.sdio.card == .selected && s.sdio.ioe.getLsbD n

/-- SDIO_CMD0_SPI: the request for SPI mode is ignored (R54). -/
def execSdioCmd0Spi (s : State) : Host.Outcome State Fault Refusal := .next s

/-- CMD11: 1.8 V signalling; at VDD_SDIO = 1.8 V it is there already (R36). A card that has gone inactive takes no command. -/
def doSdioCmd11 (s : State) : State :=
  if sdioAnswers s && s.sdio.card != .inactive then { s with rst := { s.rst with sdio18 := true } } else s

/-- SDIO_CMD11 (R36). -/
def execSdioCmd11 (s : State) : Host.Outcome State Fault Refusal := .next (doSdioCmd11 s)

/-! #### Function 1 and function 3 as the host reads them (R56, R71, R75) -/

/-- Places of the order that hold a slot: the host's own records and responses (R71). -/
def slotsUsed (m : Mailbox) : Nat :=
  (m.order.filter (fun e => match e with
    | .queued r => r.src == .host
    | .exec r _ => r.src == .host
    | .resp src _ => src == .host)).length + (if m.part.isSome then 1 else 0)

/-- CMD_FREE: 4 slots less those taken, 0 before FW_READY (R64, R71). DEDUCED: log entry 43. -/
def cmdFree (s : State) : Nat := if s.boot.fwReady then 4 - slotsUsed s.mb else 0

/-- The response at the head of the response port. -/
def headResponse (s : State) : Option (List Byte) :=
  match s.mb.order with
  | .resp _ bs :: _ => some bs
  | _ => none

/-- MB_STATUS (table *MB_STATUS*). -/
def mbStatus (s : State) : Nat :=
  s.mb.dupCnt.toNat * 65536 + bit01 s.boot.fwHalt * 128 + bit01 s.boot.fwReady * 64 + bit01 s.mb.lenErr * 32 +
  bit01 s.mb.overrun * 16 + bit01 (headResponse s).isSome * 8 + cmdFree s

/-- MB_RSP_LEN (R56). -/
def mbRspLen (s : State) : Nat := match headResponse s with
  | some bs => bs.length
  | none => 0

/-- BOOT_STATUS (table *BOOT_STATUS*). -/
def bootStatus (s : State) : Nat := s.boot.phase.toNat * 65536 + s.boot.code.toNat

/-- EV_COUNT (R75). -/
def evCount (s : State) : Nat := s.ev.fifo.length

/-- Function 1's interrupt condition (R56). -/
def mbInt (s : State) : Bool :=
  (s.mb.intEn.getLsbD 0 && (headResponse s).isSome) || (s.mb.intEn.getLsbD 1 && cmdFree s != 0) ||
  (s.mb.intEn.getLsbD 2 && (s.mb.lenErr || s.mb.overrun || s.boot.fwHalt))

/-- Function 3's interrupt condition (R75). -/
def evInt (s : State) : Bool := s.ev.intEn && evCount s != 0

/-- The interrupt on DAT1 (R55): the master enable, and a function whose IENx bit is set and whose condition holds. -/
def dat1 (s : State) : Bool :=
  s.sdio.ien.getLsbD 0 && ((s.sdio.ien.getLsbD 1 && mbInt s) || (s.sdio.ien.getLsbD 3 && evInt s))

end Sys2Proof.Machine
end

