-- ==== Sys2Proof/Machine/Sign.lean ====
section
/-! DEFINITION. SHA-512 and the verification of pure Ed25519, which the manual takes from RFC 8032 (R59, R61): the standards'
own definitions over byte strings. PRESUMED: log entry 3. -/

namespace Sys2Proof.Machine

open Sys2Proof

/-! ### SHA-512 -/

/-- Rotation of a 64-bit word to the right. -/
def rotr64 (x n : Nat) : Nat := x >>> n ||| (x <<< (64 - n)) % 2 ^ 64

/-- The round constants of SHA-512: the first 64 bits of the fractional parts of the cube roots of the first 80 primes. -/
def shaK : List Nat :=
  [0x428a2f98d728ae22, 0x7137449123ef65cd, 0xb5c0fbcfec4d3b2f, 0xe9b5dba58189dbbc,
   0x3956c25bf348b538, 0x59f111f1b605d019, 0x923f82a4af194f9b, 0xab1c5ed5da6d8118,
   0xd807aa98a3030242, 0x12835b0145706fbe, 0x243185be4ee4b28c, 0x550c7dc3d5ffb4e2,
   0x72be5d74f27b896f, 0x80deb1fe3b1696b1, 0x9bdc06a725c71235, 0xc19bf174cf692694,
   0xe49b69c19ef14ad2, 0xefbe4786384f25e3, 0x0fc19dc68b8cd5b5, 0x240ca1cc77ac9c65] ++
  [0x2de92c6f592b0275, 0x4a7484aa6ea6e483, 0x5cb0a9dcbd41fbd4, 0x76f988da831153b5,
   0x983e5152ee66dfab, 0xa831c66d2db43210, 0xb00327c898fb213f, 0xbf597fc7beef0ee4,
   0xc6e00bf33da88fc2, 0xd5a79147930aa725, 0x06ca6351e003826f, 0x142929670a0e6e70,
   0x27b70a8546d22ffc, 0x2e1b21385c26c926, 0x4d2c6dfc5ac42aed, 0x53380d139d95b3df,
   0x650a73548baf63de, 0x766a0abb3c77b2a8, 0x81c2c92e47edaee6, 0x92722c851482353b] ++
  [0xa2bfe8a14cf10364, 0xa81a664bbc423001, 0xc24b8b70d0f89791, 0xc76c51a30654be30,
   0xd192e819d6ef5218, 0xd69906245565a910, 0xf40e35855771202a, 0x106aa07032bbd1b8,
   0x19a4c116b8d2d0c8, 0x1e376c085141ab53, 0x2748774cdf8eeb99, 0x34b0bcb5e19b48a8,
   0x391c0cb3c5c95a63, 0x4ed8aa4ae3418acb, 0x5b9cca4f7763e373, 0x682e6ff3d6b2b8a3,
   0x748f82ee5defb2fc, 0x78a5636f43172f60, 0x84c87814a1f0ab72, 0x8cc702081a6439ec] ++
  [0x90befffa23631e28, 0xa4506cebde82bde9, 0xbef9a3f7b2c67915, 0xc67178f2e372532b,
   0xca273eceea26619c, 0xd186b8c721c0c207, 0xeada7dd6cde0eb1e, 0xf57d4f7fee6ed178,
   0x06f067aa72176fba, 0x0a637dc5a2c898a6, 0x113f9804bef90dae, 0x1b710b35131c471b,
   0x28db77f523047d84, 0x32caab7b40c72493, 0x3c9ebe0a15c9bebc, 0x431d67c49c100d4c,
   0x4cc5d4becb3e42b6, 0x597f299cfc657e2a, 0x5fcb6fab3ad6faec, 0x6c44198c4a475817]

/-- The initial hash value of SHA-512: the same of the square roots of the first 8 primes. -/
def shaH : List Nat :=
  [0x6a09e667f3bcc908, 0xbb67ae8584caa73b, 0x3c6ef372fe94f82b, 0xa54ff53a5f1d36f1,
   0x510e527fade682d1, 0x9b05688c2b3e6c1f, 0x1f83d9abfb41bd6b, 0x5be0cd19137e2179]

/-- A byte string as a number, its first byte the most significant. -/
def beNat (bs : List Byte) : Nat := bs.foldl (fun a b => a * 256 + b.toNat) 0

/-- A number in `k` bytes, the most significant first. -/
def beBytes (k n : Nat) : List Byte := (leBytes k n).reverse

/-- The message schedule: from the latest word back, `n` words more. -/
def shaSched : Nat → List Nat → List Nat
  | 0, w => w
  | n + 1, w =>
    let a := w.getD 1 0
    let b := w.getD 14 0
    let s1 := rotr64 a 19 ^^^ rotr64 a 61 ^^^ a >>> 6
    let s0 := rotr64 b 1 ^^^ rotr64 b 8 ^^^ b >>> 7
    shaSched n ((s1 + w.getD 6 0 + s0 + w.getD 15 0) % 2 ^ 64 :: w)

/-- One round, with the round constant plus the word of the schedule. -/
def shaRound (v : List Nat) (kw : Nat) : List Nat :=
  let x := fun (i : Nat) => v.getD i 0
  let e := x 4
  let a := x 0
  let t1 := x 7 + (rotr64 e 14 ^^^ rotr64 e 18 ^^^ rotr64 e 41) + ((e &&& x 5) ^^^ ((2 ^ 64 - 1 - e) &&& x 6)) + kw
  let t2 := (rotr64 a 28 ^^^ rotr64 a 34 ^^^ rotr64 a 39) + ((a &&& x 1) ^^^ (a &&& x 2) ^^^ (x 1 &&& x 2))
  [(t1 + t2) % 2 ^ 64, a, x 1, x 2, (x 3 + t1) % 2 ^ 64, e, x 5, x 6]

/-- The hash value after one block of 128 bytes. -/
def shaBlock (h : List Nat) (b : List Byte) : List Nat :=
  let w := (shaSched 64 ((List.range 16).map (fun i => beNat (bytesAt b (8 * (15 - i)) 8)))).reverse
  let v := (shaK.zip w).foldl (fun v e => shaRound v (e.1 + e.2)) h
  (h.zip v).map (fun e => (e.1 + e.2) % 2 ^ 64)

/-- SHA-512 of a byte string: the 64 bytes of the digest. PRESUMED: log entry 3. -/
def sha512 (m : List Byte) : List Byte :=
  let z := (239 - m.length % 128) % 128
  let p := m ++ [byteOf 0x80] ++ List.replicate z 0 ++ beBytes 16 (8 * m.length)
  ((List.range (p.length / 128)).foldl (fun h i => shaBlock h (bytesAt p (128 * i) 128)) shaH).flatMap (beBytes 8)

/-! ### Ed25519 -/

/-- The field of edwards25519. -/
def edP : Nat := 2 ^ 255 - 19

/-- The order of the base point. -/
def edL : Nat := 2 ^ 252 + 27742317777372353535851937790883648493

/-- A power modulo `m`, over 256 bits of the exponent. -/
def powMod (m b e : Nat) : Nat :=
  (List.range 256).foldr (fun i a => if e.testBit i then a * a % m * b % m else a * a % m) 1

/-- A difference in the field. -/
def edSub (a b : Nat) : Nat := (a + (edP - b % edP)) % edP

/-- The curve's constant d, -121665/121666. -/
def edD : Nat := edSub 0 (121665 * powMod edP 121666 (edP - 2) % edP)

/-- A point in extended homogeneous coordinates (X, Y, Z, T) with x = X/Z, y = Y/Z, x y = T/Z. -/
abbrev EdPoint := Nat × Nat × Nat × Nat

/-- The neutral element. -/
def edZero : EdPoint := (0, 1, 1, 0)

/-- The sum of two points. -/
def edAdd (p q : EdPoint) : EdPoint :=
  let a := edSub p.2.1 p.1 * edSub q.2.1 q.1 % edP
  let b := (p.2.1 + p.1) * (q.2.1 + q.1) % edP
  let c := p.2.2.2 * 2 * edD % edP * q.2.2.2 % edP
  let d := p.2.2.1 * 2 * q.2.2.1 % edP
  let e := edSub b a
  let f := edSub d c
  let g := (d + c) % edP
  let h := (b + a) % edP
  (e * f % edP, g * h % edP, f * g % edP, e * h % edP)

/-- A multiple of a point, over 256 bits of the scalar. -/
def edMul (n : Nat) (p : EdPoint) : EdPoint :=
  (List.range 256).foldr (fun i a => if n.testBit i then edAdd (edAdd a a) p else edAdd a a) edZero

/-- Two points are equal. -/
def edEq (p q : EdPoint) : Bool :=
  p.1 * q.2.2.1 % edP == q.1 * p.2.2.1 % edP && p.2.1 * q.2.2.1 % edP == q.2.1 * p.2.2.1 % edP

/-- The x coordinate of a y coordinate with a sign bit. -/
def edX (y sign : Nat) : Option Nat :=
  let u := edSub (y * y) 1
  let v := (edD * (y * y % edP) + 1) % edP
  let v3 := v * v % edP * v % edP
  let c := u * v3 % edP * powMod edP (u * (v3 * v3 % edP * v % edP) % edP) ((edP - 5) / 8) % edP
  let vx := v * (c * c % edP) % edP
  let root := if vx = u then some c
    else if vx = edSub 0 u then some (c * powMod edP 2 ((edP - 1) / 4) % edP) else none
  match root with
  | none => none
  | some x => if x = 0 ∧ sign = 1 then none else some (if x % 2 = sign then x else edSub 0 x)

/-- A point from its 32 bytes. -/
def edPoint (bs : List Byte) : Option EdPoint :=
  let n := fieldAt bs 0 32
  let y := n % 2 ^ 255
  if edP ≤ y then none else (edX y (n / 2 ^ 255)).map (fun x => (x, y, 1, x * y % edP))

/-- The base point: y is 4/5 and x is even. -/
def edBase : EdPoint :=
  let y := 4 * powMod edP 5 (edP - 2) % edP
  let x := (edX y 0).getD 0
  (x, y, 1, x * y % edP)

/-- Pure Ed25519 verification of RFC 8032: public key, message, signature. The group equation is the one with the cofactor,
which the standard states (it lets a verifier test the one without). PRESUMED: log entry 3. -/
def ed25519Verify (pk m sig : List Byte) : Bool :=
  let n := fieldAt sig 32 32
  match edPoint pk, edPoint (sig.take 32) with
  | some a, some r =>
    let k := fieldAt (sha512 (sig.take 32 ++ pk ++ m)) 0 64 % edL
    decide (n < edL) && edEq (edMul 8 (edMul n edBase)) (edAdd (edMul 8 r) (edMul 8 (edMul k a)))
  | _, _ => false

end Sys2Proof.Machine
end

