-- ==== Sys2Proof/Machine/Mldsa.lean ====
section
/-! DEFINITION. The verification of ML-DSA-65 in pure mode with an empty context, which the manual takes from FIPS 204 (R59),
with SHAKE of FIPS 202 under it: the standards' own definitions over byte strings. PRESUMED: log entry 3. -/

namespace Sys2Proof.Machine

open Sys2Proof

/-! ### SHAKE -/

/-- Rotation of a 64-bit lane to the left. -/
def rotl64 (x n : Nat) : Nat := (x <<< n) % 2 ^ 64 ||| x >>> (64 - n)

/-- The round constants of Keccak-f[1600]. -/
def keccakRc : List Nat :=
  [0x0000000000000001, 0x0000000000008082, 0x800000000000808A, 0x8000000080008000, 0x000000000000808B, 0x0000000080000001,
   0x8000000080008081, 0x8000000000008009, 0x000000000000008A, 0x0000000000000088, 0x0000000080008009, 0x000000008000000A] ++
  [0x000000008000808B, 0x800000000000008B, 0x8000000000008089, 0x8000000000008003, 0x8000000000008002, 0x8000000000000080,
   0x000000000000800A, 0x800000008000000A, 0x8000000080008081, 0x8000000000008080, 0x0000000080000001, 0x8000000080008008]

/-- The rotations of the lanes, lane x + 5 y. -/
def keccakRot : List Nat :=
  [0, 1, 62, 28, 27, 36, 44, 6, 55, 20, 3, 10, 43, 25, 39, 41, 45, 15, 21, 8, 18, 2, 61, 56, 14]

/-- One round: theta, rho and pi, chi, iota. -/
def keccakRound (a : List Nat) (rc : Nat) : List Nat :=
  let c := (List.range 5).map (fun x =>
    a.getD x 0 ^^^ a.getD (x + 5) 0 ^^^ a.getD (x + 10) 0 ^^^ a.getD (x + 15) 0 ^^^ a.getD (x + 20) 0)
  let d := (List.range 5).map (fun x => c.getD ((x + 4) % 5) 0 ^^^ rotl64 (c.getD ((x + 1) % 5) 0) 1)
  let b := (List.range 25).map (fun i =>
    let x := (i % 5 + 3 * (i / 5)) % 5
    let j := x + 5 * (i % 5)
    rotl64 (a.getD j 0 ^^^ d.getD x 0) (keccakRot.getD j 0))
  (List.range 25).map (fun i =>
    let at5 := fun (k : Nat) => b.getD ((i + k) % 5 + 5 * (i / 5)) 0
    let v := at5 0 ^^^ ((2 ^ 64 - 1 - at5 1) &&& at5 2)
    if i = 0 then v ^^^ rc else v)

/-- Keccak-f[1600] on 25 lanes. -/
def keccak (a : List Nat) : List Nat := keccakRc.foldl keccakRound a

/-- The state after the blocks of a message are absorbed, with SHAKE's padding; `rate` in bytes. -/
def shakeAbsorb (rate : Nat) (m : List Byte) : List Nat :=
  let z := rate - 1 - m.length % rate
  let p := if z = 0 then m ++ [byteOf 0x9F] else m ++ [byteOf 0x1F] ++ List.replicate (z - 1) 0 ++ [byteOf 0x80]
  (List.range (p.length / rate)).foldl (fun a i =>
    let b := bytesAt p (rate * i) rate
    keccak ((List.range 25).map (fun k => a.getD k 0 ^^^ fieldAt b (8 * k) 8))) (List.replicate 25 0)

/-- The bytes of a state that a squeeze gives. -/
def shakeOut (rate : Nat) (a : List Nat) : List Byte := (a.flatMap (leBytes 8)).take rate

/-- `n` bytes of SHAKE256, at most 136. PRESUMED: log entry 3. -/
def shake256 (n : Nat) (m : List Byte) : List Byte := (shakeOut 136 (shakeAbsorb 136 m)).take n

/-! ### Polynomials -/

/-- The modulus of ML-DSA. -/
def mlQ : Nat := 8380417

/-- The bits of an 8-bit number in the other order. -/
def bitRev8 (n : Nat) : Nat := (List.range 8).foldl (fun a i => 2 * a + bit01 (n.testBit i)) 0

/-- A power of the 512th root of unity 1753. -/
def mlRoot (e : Nat) : Nat := powMod mlQ 1753 e

/-- The transform of FIPS 204, by halves: `d` levels under the node `k` of the tree of roots. -/
def nttFrom : Nat → Nat → List Nat → List Nat
  | 0, _, a => a
  | d + 1, k, a =>
    let h := 2 ^ d
    let z := mlRoot (bitRev8 k)
    let lo := a.take h
    let hi := (a.drop h).map (fun x => z * x % mlQ)
    nttFrom d (2 * k) ((lo.zip hi).map (fun e => (e.1 + e.2) % mlQ)) ++
      nttFrom d (2 * k + 1) ((lo.zip hi).map (fun e => (e.1 + mlQ - e.2) % mlQ))

/-- The transform of a polynomial of 256 coefficients. -/
def ntt (a : List Nat) : List Nat := nttFrom 8 1 a

/-- The inverse of `nttFrom`. -/
def inttFrom : Nat → Nat → List Nat → List Nat
  | 0, _, a => a
  | d + 1, k, a =>
    let h := 2 ^ d
    let z := mlRoot (512 - bitRev8 k)
    let half := (mlQ + 1) / 2
    let lo := inttFrom d (2 * k) (a.take h)
    let hi := inttFrom d (2 * k + 1) (a.drop h)
    (lo.zip hi).map (fun e => (e.1 + e.2) * half % mlQ) ++
      (lo.zip hi).map (fun e => (e.1 + mlQ - e.2) * half % mlQ * z % mlQ)

/-- The inverse transform. -/
def intt (a : List Nat) : List Nat := inttFrom 8 1 a

/-- The product of two transforms. -/
def nttMul (a b : List Nat) : List Nat := (a.zip b).map (fun e => e.1 * e.2 % mlQ)

/-- The sum of two polynomials, and their difference. -/
def polyAdd (a b : List Nat) : List Nat := (a.zip b).map (fun e => (e.1 + e.2) % mlQ)
def polySub (a b : List Nat) : List Nat := (a.zip b).map (fun e => (e.1 + mlQ - e.2) % mlQ)

/-- Fields of `w` bits of a byte string, the least significant bit first. -/
def bitFields (w n : Nat) (bs : List Byte) : List Nat :=
  (List.range n).map (fun i => fieldAt bs (w * i / 8) (w / 8 + 2) / 2 ^ (w * i % 8) % 2 ^ w)

/-! ### Sampling -/

/-- The candidates below the modulus of a squeezed block. -/
def rejBlock (bs : List Byte) : List Nat :=
  ((List.range (bs.length / 3)).map (fun i => fieldAt bs (3 * i) 3 % 2 ^ 23)).filter (fun z => decide (z < mlQ))

/-- 256 coefficients by rejection; `fuel` bounds the blocks squeezed. -/
def rejPoly : Nat → List Nat → List Nat → List Nat
  | 0, _, out => out.take 256
  | n + 1, a, out => if 256 ≤ out.length then out.take 256 else rejPoly n (keccak a) (out ++ rejBlock (shakeOut 168 a))

/-- The entry of the matrix in a row and a column. -/
def expandA (rho : List Byte) (row col : Nat) : List Nat :=
  rejPoly 4096 (shakeAbsorb 168 (rho ++ [byteOf col, byteOf row])) []

/-- One byte in the course of SampleInBall: (i, signs, coefficients). -/
def ballByte (x : Nat × Nat × List Nat) (b : Byte) : Nat × Nat × List Nat :=
  let (i, signs, c) := x
  let j := b.toNat
  if 256 ≤ i ∨ i < j then x
  else
    let v := if signs.testBit (i + 49 - 256) then mlQ - 1 else 1
    (i + 1, signs, (c.set i (c.getD j 0)).set j v)

/-- The bytes of further blocks, until the 49 places are taken. -/
def ballBlocks : Nat → List Nat → Nat × Nat × List Nat → Nat × Nat × List Nat
  | 0, _, x => x
  | n + 1, a, x => if 256 ≤ x.1 then x else ballBlocks n (keccak a) ((shakeOut 136 a).foldl ballByte x)

/-- The challenge polynomial of a commitment hash. -/
def sampleInBall (ct : List Byte) : List Nat :=
  let a := shakeAbsorb 136 ct
  let b := shakeOut 136 a
  (ballBlocks 4096 (keccak a) ((b.drop 8).foldl ballByte (207, fieldAt b 0 8, List.replicate 256 0))).2.2

/-! ### Hints and verification -/

/-- The places of the hints of one polynomial: strictly rising, or none. -/
def hintPlaces (y : List Nat) (first last : Nat) : Option (List Nat) :=
  let l := (y.drop first).take (last - first)
  if (l.zip (l.drop 1)).all (fun e => decide (e.1 < e.2)) then some l else none

/-- The hints of the six polynomials from the 61 bytes of a signature; malformed ones give none. -/
def hintUnpack (bs : List Byte) : Option (List (List Nat)) :=
  let y := bs.map (fun b => b.toNat)
  let stop := fun (i : Nat) => if i = 0 then 0 else y.getD (54 + i) 0
  if (List.range 6).all (fun i => decide (stop i ≤ stop (i + 1)) && decide (stop (i + 1) ≤ 55)) &&
      ((y.take 55).drop (stop 6)).all (fun v => v == 0) then
    (List.range 6).mapM (fun i => hintPlaces (y.take 55) (stop i) (stop (i + 1)))
  else none

/-- UseHint over twice gamma2, which is 523,776. -/
def useHint (h : Bool) (r : Nat) : Nat :=
  let g2 := 261888
  let m := r % (2 * g2)
  let r0 : Int := if g2 < m then (m : Int) - 2 * g2 else m
  let top := (r : Int) - r0
  let r1 := if top = mlQ - 1 then 0 else (top / (2 * g2)).toNat
  let r0 := if top = mlQ - 1 then r0 - 1 else r0
  if h then (if 0 < r0 then (r1 + 1) % 16 else (r1 + 15) % 16) else r1

/-- ML-DSA-65 verification of FIPS 204 with an empty context: public key, message, signature.
PRESUMED: log entry 3. -/
def mldsaVerify (pk m sig : List Byte) : Bool :=
  let rho := pk.take 32
  let t1 := (List.range 6).map (fun i => bitFields 10 256 (bytesAt pk (32 + 320 * i) 320))
  let ct := sig.take 48
  let z := (List.range 5).map (fun i => bitFields 20 256 (bytesAt sig (48 + 640 * i) 640))
  match hintUnpack (bytesAt sig 3248 61) with
  | none => false
  | some h =>
    let mu := shake256 64 (shake256 64 pk ++ [0, 0] ++ m)
    let c := ntt (sampleInBall ct)
    let zh := z.map (fun p => ntt (p.map (fun v => (mlQ + 2 ^ 19 - v) % mlQ)))
    let w1 := (List.range 6).map (fun i =>
      let az := ((List.range 5).zip zh).foldl (fun a e => polyAdd a (nttMul (expandA rho i e.1) e.2)) (List.replicate 256 0)
      let w := intt (polySub az (nttMul c (ntt ((t1.getD i []).map (fun v => v * 8192 % mlQ)))))
      w.zipIdx.map (fun e => useHint ((h.getD i []).contains e.2) e.1))
    let enc := w1.flatMap (fun p => (List.range 128).map (fun k => byteOf (p.getD (2 * k) 0 + 16 * p.getD (2 * k + 1) 0)))
    z.all (fun p => p.all (fun v => decide (((2 ^ 19 : Int) - v).natAbs < 2 ^ 19 - 196))) && shake256 48 (mu ++ enc) == ct

end Sys2Proof.Machine
end

