-- ==== Sys2Proof/Machine/Boot.lean ====
section
/-! DEFINITION. The boot ROM (R57 to R63), the start of firmware (R21, R35, R64), its halt and heartbeat (R66, R425), and
the OTP commands (R60). -/

namespace Sys2Proof.Machine

open Sys2Proof

/-- Size of the image header (table *Image header*). -/
def hdrSize : Nat := 5440

/-- OTP_SVN: the number of bits set in SVN_FUSE. -/
def otpSvn (b : BootUnit) : Nat := ((List.range 64).filter (fun i => b.svnFuse.getLsbD i)).length

/-- KEY_HASH of a slot. -/
def keyHashOf (b : BootUnit) (slot : Nat) : List Byte := b.keyHash.getD slot []

/-- A slot is programmed: its hash is not all zero. -/
def slotProgrammed (b : BootUnit) (slot : Nat) : Bool := ! allZero (keyHashOf b slot)

/-- Checks 1 to 7 of R61 over a complete header, in order: the code of the first that fails, or none. -/
def headerCheck (b : BootUnit) (h : List Byte) : Option Nat :=
  let svn := fieldAt h 8 4
  let slot := fieldAt h 12 1
  let len := fieldAt h 16 4
  let entry := fieldAt h 20 4
  if b.otpErr then some 0x0B02
  else if fieldAt h 0 4 ≠ 0x46584353 ∨ fieldAt h 4 2 ≠ 1 ∨ fieldAt h 6 2 ≠ hdrSize ∨ 3 < slot ∨ 64 < svn ∨ len < 64 ∨
      len % 64 ≠ 0 ∨ entry % 4 ≠ 0 ∨ len ≤ entry ∨ zeroAt h 13 3 = false ∨ zeroAt h 5389 51 = false then some 0x0B03
  else if 3140288 < len then some 0x0B04
  else if ! slotProgrammed b slot then some 0x0B05
  else if b.keyRevoke.getLsbD slot then some 0x0B06
  else if sha512 (bytesAt h 32 32 ++ bytesAt h 64 1952) ≠ keyHashOf b slot then some 0x0B07
  else if svn < otpSvn b then some 0x0B08
  else none

/-- The ROM takes image bytes at the place it has reached (R57); whole granules in CP memory keep good codes. -/
def placeImage (s : State) (bs : List Byte) : State :=
  let s := putBytes s (cpBase + s.boot.received) bs false
  { s with boot := { s.boot with received := s.boot.received + bs.length } }

/-- The header is complete: checks 1 to 7 (R58, R61). -/
def headerDone (s : State) : State :=
  let h := getBytes s cpBase hdrSize
  match headerCheck s.boot h with
  | some c => { s with boot := bootFail s.boot c }
  | none => { s with boot := { s.boot with bodyLen := some (fieldAt h 16 4) } }

/-- Body bytes up to BODY_LEN; after the last of them the ROM verifies (R58). -/
def bodyBytes (s : State) (bs : List Byte) : State :=
  match s.boot.bodyLen with
  | none => s
  | some n =>
    let s := placeImage s (bs.take (hdrSize + n - s.boot.received))
    if s.boot.received = hdrSize + n then { s with boot := { s.boot with phase := 0x03, verifying := true } } else s

/-- The ROM receives image bytes from its source (R58, R389). -/
def receiveImage (s : State) (data : List Byte) : State :=
  if data = [] then s
  else
    let s := { s with boot := { s.boot with phase := 0x02 } }
    if hdrSize ≤ s.boot.received then bodyBytes s data
    else
      let k := hdrSize - s.boot.received
      let s := placeImage s (data.take k)
      if s.boot.received = hdrSize then
        let s := headerDone s
        if s.boot.phase = 0xFF then s else bodyBytes s (data.drop k)
      else s

/-- Image bytes at an offset (R389): those at or past the place reached go on from there, those before it replace what stands
there, and bytes past a gap are stored and not counted as received (log entry 21). -/
def receiveAt (s : State) (addr : Nat) (data : List Byte) : State :=
  let n := s.boot.received
  if addr = n then receiveImage s data
  else if addr < n then receiveImage (putBytes s (cpBase + addr) (data.take (n - addr)) false) (data.drop (n - addr))
  else putBytes s (cpBase + addr) (data.take (cpSize - addr)) false

/-- The ROM waits for or receives an image. -/
def romReceiving (s : State) : Bool := s.boot.phase == 0x01 || s.boot.phase == 0x02

/-- Bytes written to function 2 under the ROM (R58): discarded with another source, after a failure, or after the image. -/
def doBootImageWrite (data : List Byte) (s : State) : State :=
  if fnUp s 2 && s.rst.bootSrc == 0 && romReceiving s then receiveImage s data else s

/-- BOOT_IMAGE_WRITE (R58). -/
def execBootImageWrite (data : List Byte) (s : State) : Host.Outcome State Fault Refusal := .next (doBootImageWrite data s)

/-- The code of check 8 over an image (R59, R61): both signatures are evaluated. PRESUMED: log entry 3. -/
def sigCode (h body : List Byte) : Nat :=
  let m := h.take 2016 ++ body
  let ed := ed25519Verify (bytesAt h 32 32) m (bytesAt h 2016 64)
  let ml := mldsaVerify (bytesAt h 64 1952) m (bytesAt h 2080 3309)
  if ed && ml then 0 else if ml then 0x0B09 else if ed then 0x0B0A else 0x0B0B

/-- The completion of a relay boot goes back to the sender with the boot status code (R67, R389). -/
def bootDone (s : State) (code : Nat) : State :=
  match s.boot.srcPort, s.boot.relayReq with
  | some p, some q =>
    sendHopLocal { s with boot := { s.boot with relayReq := none } } p { responseTo s q 0 with pflags := 1, arg := code }
  | _, _ => s

/-- Verification ends: firmware starts, or the boot fails (R59, R61 to R64). PRESUMED: log entry 3. -/
def doImageVerifyDone (s : State) : State :=
  if s.boot.verifying && ! s.rst.tripped then
    let h := getBytes s cpBase hdrSize
    let code := sigCode h (getBytes s (cpBase + hdrSize) (s.boot.bodyLen.getD 0))
    let b := if code ≠ 0 then bootFail s.boot code
      else { s.boot with phase := 0x04, verifying := false, svn := fieldAt h 8 4, keySlot := fieldAt h 12 1,
                         buildId := fieldAt h 24 8 }
    bootDone { s with boot := b } code
  else s

/-- IMAGE_VERIFY_DONE (R63). -/
def execImageVerifyDone (s : State) : Host.Outcome State Fault Refusal := .next (doImageVerifyDone s)

/-- A region that admits domain 1 alone and is locked (R21). -/
def domain1Region (base limit : Nat) : FwRegion :=
  { base := BitVec.ofNat 36 (base / 4096), limit := BitVec.ofNat 36 (limit / 4096), en := true, lock := true,
    rd := 2, wr := 2 }

/-- The golden rows of a core's scratchpad (R21, R436). -/
def goldenRows (c : Nat) : Nat := spmBase + c * spmStride + 385024

/-- The region of control space that guards the monitor's memory, the policy, the FBC tables and the age and formatter
settings (R21). The manual does not place it; the model takes one region, region 0. DESIGN CHOICE: log entry 73. -/
def guardRegion : FwRegion :=
  { base := Config.guardFirst, limit := Config.guardLast, en := true, lock := true, rd := 2, wr := 2 }

/-- The regions that firmware locks before it reports boot complete (R21): region 0 of the frame store and of every
scratchpad, and those that guard domain 1's settings. -/
def lockedRegions : Tab FwRegion :=
  [(64, domain1Region goldenBase (goldenBase + 0x7FFFF)), (5 * 64, guardRegion)] ++
    (List.range 256).map (fun c => ((0x100 + c) * 64, domain1Region (goldenRows c) (goldenRows c + 8191)))

/-- Firmware writes the regions that it locks; one that is locked already stays as it is (R21). -/
def lockAll (fw : Tab FwRegion) : Tab FwRegion :=
  lockedRegions.foldl (fun t e => if (tabGet fwDefault t e.1).lock then t else tabSet e.1 e.2 t) fw

/-- Firmware is ready (R21, R35, R64, R180): the VRM's set-point, the locked regions, PHASE 0x05 and FW_READY. Every
island runs from here (log entry 13). -/
def doFirmwareReady (s : State) : State :=
  if s.boot.phase = 0x04 ∧ s.rst.tripped = false ∧ s.boot.fwHalt = false then
    { s with boot := { s.boot with phase := 0x05, fwReady := true }, rst := { s.rst with vrmMv := 745, pmbDriven := true },
             fw := lockAll s.fw, islands := BitVec.allOnes 55, safety := { s.safety with
               heartbeat := s.time, interval := intervalOf s s.time, month := s.time / polSlot s.safety.policy } }
  else s

/-- FIRMWARE_READY (R64). -/
def execFirmwareReady (s : State) : Host.Outcome State Fault Refusal := .next (doFirmwareReady s)

/-- The source CP_STALL begins: persistent until reset (R425, R428). -/
def stall (s : State) : State :=
  failCond { s with safety := { s.safety with cpStall := true } } rowStall kindDevice 0 true

/-- The control processor stops executing firmware (R66); FW_HALT is the source CP_STALL (R425). -/
def doFwHalt (s : State) : State :=
  if s.boot.phase = 0x04 ∨ s.boot.phase = 0x05 then
    let s' := { s with boot := { s.boot with fwHalt := true } }
    if s.safety.cpStall then s' else stall s'
  else s

/-- FW_HALT (R66). -/
def execFwHalt (s : State) : Host.Outcome State Fault Refusal := .next (doFwHalt s)

/-- Firmware's heartbeat to the safety monitor (R425). -/
def doFirmwareHeartbeat (s : State) : State :=
  if fwUp s then { s with safety := { s.safety with heartbeat := s.time } } else s

/-- FIRMWARE_HEARTBEAT (R425). -/
def execFirmwareHeartbeat (s : State) : Host.Outcome State Fault Refusal := .next (doFirmwareHeartbeat s)

/-- No heartbeat for 4 ms (R425): the moment is 16,000,000 ticks after the last one. -/
def doCpStall (s : State) : State :=
  if s.boot.fwReady && ! s.rst.tripped && ! s.safety.cpStall then stall (advanceTo s (s.safety.heartbeat + 16000000))
  else s

/-- CP_STALL (R425). -/
def execCpStall (s : State) : Host.Outcome State Fault Refusal := .next (doCpStall s)

/-- The lockstep comparator sets SM_FAULT (R425): DOUBT_N low, and an event when the control processor finds the latch. -/
def doSmFault (s : State) : State :=
  if aonRuns s then
    let s' := updateDoubt { s with safety := { s.safety with smFault := true } }
    if fwUp s && ! s.safety.smFault then postEvent s' 0x0508 11 0 [] else s'
  else s

/-- SM_FAULT (R425). -/
def execSmFault (s : State) : Host.Outcome State Fault Refusal := .next (doSmFault s)

/-! ### OTP commands (R60, R493) -/

/-- KEY_PROVISION: an empty slot only, and no all-zero hash. -/
def cmdKeyProvision (slot r : Nat) (hash : List Byte) (s : State) : State × CmdRes :=
  if r ≠ 0 then refuseAt s .badField 1
  else if 3 < slot then refuseAt s .badParam 0
  else if allZero hash then refuseAt s .badParam 4
  else if slotProgrammed s.boot slot then refuse s .busy
  else okDone { s with boot := { s.boot with keyHash := s.boot.keyHash.set slot (padTo 64 hash) } }

/-- KEY_PROVISION. -/
def execKeyProvision (h : CmdHdr) (slot r : Nat) (hash : List Byte) (s : State) : Host.Outcome State Fault Refusal :=
  .next (runCommand h 0x0902 (cmdKeyProvision slot r hash) s)

/-- Some slot other than `k` is both programmed and unrevoked. -/
def otherSlotUsable (b : BootUnit) (k : Nat) : Bool :=
  (List.range 4).any (fun j => j != k && slotProgrammed b j && ! b.keyRevoke.getLsbD j)

/-- KEY_REVOKE: DENIED when it would leave no slot both programmed and unrevoked. -/
def cmdKeyRevoke (slot r : Nat) (s : State) : State × CmdRes :=
  if r ≠ 0 then refuseAt s .badField 1
  else if 3 < slot then refuseAt s .badParam 0
  else if ! otherSlotUsable s.boot slot then refuse s .denied
  else okDone { s with boot := { s.boot with keyRevoke := s.boot.keyRevoke ||| BitVec.ofNat 4 (2 ^ slot) } }

/-- KEY_REVOKE. -/
def execKeyRevoke (h : CmdHdr) (slot r : Nat) (s : State) : Host.Outcome State Fault Refusal :=
  .next (runCommand h 0x0903 (cmdKeyRevoke slot r) s)

/-- SVN_ADVANCE: the thermometer code of the running image's SVN, never a bit cleared. -/
def cmdSvnAdvance (s : State) : State × CmdRes :=
  let b := { s.boot with svnFuse := s.boot.svnFuse ||| BitVec.ofNat 64 (2 ^ s.boot.svn - 1) }
  okWith { s with boot := b } (leBytes 4 (otpSvn b))

/-- SVN_ADVANCE. -/
def execSvnAdvance (h : CmdHdr) (s : State) : Host.Outcome State Fault Refusal :=
  .next (runCommand h 0x0904 cmdSvnAdvance s)

end Sys2Proof.Machine
end

