-- ==== Sys2Proof/Machine/Host.lean ====
section
/-! DEFINITION. The mailbox ports and registers (R56, R71, R72, R74), the event port (R75, R76), bulk transfers (R77,
R78), and the commands over the channel table, the firewalls and the device itself (R79 to R81, R492, R493). -/

namespace Sys2Proof.Machine

open Sys2Proof

/-! ### Command port and doorbell (R71, R72, R74) -/

/-- Bytes written to MB_CMD_PORT. DEDUCED: log entry 43. -/
def doMbCmdPortWrite (data : List Byte) (s : State) : State :=
  if ! fnUp s 1 || data == [] then s
  else if s.mb.discarding then { s with mb := { s.mb with overrun := true } }
  else match s.mb.part with
    | some p => { s with mb := { s.mb with part := some (p ++ data) } }
    | none =>
      if cmdFree s = 0 then { s with mb := { s.mb with discarding := true, overrun := true } }
      else { s with mb := { s.mb with part := some data } }

/-- MB_CMD_PORT_WRITE (R71). -/
def execMbCmdPortWrite (data : List Byte) (s : State) : Host.Outcome State Fault Refusal :=
  .next (doMbCmdPortWrite data s)

/-- The offset of the first reserved header field that is not zero (table *Mailbox record header*). -/
def hdrReserved (r : List Byte) : Option Nat :=
  if fieldAt r 2 2 / 2 ≠ 0 then some 2
  else if fieldAt r 13 1 ≠ 0 then some 13
  else if fieldAt r 14 2 ≠ 0 then some 14
  else if zeroAt r 16 12 = false then some 16
  else none

/-- A record from its bytes (R69). -/
def recordOf (src : RecSrc) (r : List Byte) : MbRec :=
  { src := src, opcode := fieldAt r 0 2,
    hdr := { flags := fieldAt r 2 2, seq := fieldAt r 4 4, domain := fieldAt r 12 1, crc := fieldAt r 28 4 },
    resv := hdrReserved r, payload := r.drop 32 }

/-- A sequence number is that of a record queued or executing (R74). -/
def seqPending (m : Mailbox) (seq : Nat) : Bool :=
  m.order.any (fun e => match e with
    | .queued r => r.hdr.seq == seq
    | .exec r _ => r.hdr.seq == seq
    | .resp _ _ => false)

/-- A response that is neither recorded nor executed takes the record's place at the end of the order (R74). -/
def respondNew (s : State) (r : MbRec) (st : Status) : State :=
  let i := s.mb.order.length
  placeResponse { s with mb := { s.mb with order := s.mb.order ++ [.queued r] } } i r (respBytes r.opcode r.hdr st [])

/-- Stage 1 of a record whose doorbell is written (R74). -/
def stage1 (s : State) (src : RecSrc) (bytes : List Byte) : State :=
  let r := recordOf src bytes
  let plen := fieldAt bytes 8 4
  if 32 + plen ≠ bytes.length ∨ plen % 4 ≠ 0 ∨ 65536 < plen then respondNew s r .badLength
  else if crc32c (bytes.take 28 ++ bytes.drop 32) ≠ r.hdr.crc then respondNew s r .crcErr
  else if seqPending s.mb r.hdr.seq then { s with mb := { s.mb with dupCnt := s.mb.dupCnt + 1 } }
  else { s with mb := { s.mb with order := s.mb.order ++ [.queued r] } }

/-- A record whose doorbell agrees with its length: stage 1, or only its slot once firmware has halted (R66, R74).
DEDUCED: log entry 43. -/
def takeRecord (s : State) (p : List Byte) : State :=
  if s.boot.fwHalt then { s with mb := { s.mb with order := s.mb.order ++ [.queued (recordOf .host p)] } } else stage1 s .host p

/-- MB_DOORBELL with LEN: the record just written (R71, R72). LEN 0 with no byte written since the last doorbell agrees with
what was written and names no record: it has no effect. DEDUCED: log entry 43. -/
def doMbDoorbellWrite (value : Nat) (s : State) : State :=
  if ! fnUp s 1 then s
  else if s.mb.discarding then { s with mb := { s.mb with discarding := false } }
  else
    let len := value % 2 ^ 17
    match s.mb.part with
    | none => if len = 0 then s else { s with mb := { s.mb with lenErr := true } }
    | some p =>
      let s := { s with mb := { s.mb with part := none } }
      if len ≠ p.length then { s with mb := { s.mb with lenErr := true } } else takeRecord s p

/-- MB_DOORBELL_WRITE (R72, R74). -/
def execMbDoorbellWrite (value : Nat) (s : State) : Host.Outcome State Fault Refusal :=
  .next (doMbDoorbellWrite value s)

/-! ### Response port and registers (R56, R71) -/

/-- Bytes read from the responses at the front of the order: the order left, the place within its first response, and
the bytes. Only responses before any record that still waits can be read (R71). DESIGN CHOICE: log entry 14. -/
def readResponses : List MbEntry → Nat → Nat → List MbEntry × Nat × List Byte
  | .resp src bs :: t, pos, n =>
    if n = 0 then (.resp src bs :: t, pos, [])
    else if bs.length ≤ pos + n then
      let (o, p, out) := readResponses t 0 (n - (bs.length - pos))
      (o, p, bs.drop pos ++ out)
    else (.resp src bs :: t, pos + n, bytesAt bs pos n)
  | o, pos, _ => (o, pos, [])

/-- Bytes read from MB_RSP_PORT; past the last response they read as zero (log entry 14). -/
def doMbRspPortRead (count : Nat) (s : State) : State :=
  if ! fnUp s 1 then s
  else
    let (o, p, out) := readResponses s.mb.order s.mb.rspPos count
    { s with mb := { s.mb with order := o, rspPos := p }, sdio := { s.sdio with data := padTo count out } }

/-- MB_RSP_PORT_READ (R71). -/
def execMbRspPortRead (count : Nat) (s : State) : Host.Outcome State Fault Refusal := .next (doMbRspPortRead count s)

/-- Writing 1 to LEN_ERR or OVERRUN clears it (table *MB_STATUS*). -/
def doMbStatusW1c (value : Nat) (s : State) : State :=
  if ! fnUp s 1 then s
  else { s with mb := { s.mb with lenErr := s.mb.lenErr && ! bitAt value 5, overrun := s.mb.overrun && ! bitAt value 4 } }

/-- MB_STATUS_W1C (R56). -/
def execMbStatusW1c (value : Nat) (s : State) : Host.Outcome State Fault Refusal := .next (doMbStatusW1c value s)

/-- A register of functions 1 and 3 is written whole (R56, R75); read-only ones ignore the write (R5). -/
def doRegisterWrite (fn addr value : Nat) (s : State) : State :=
  if ! fnUp s fn then s
  else if fn = 1 ∧ addr = 0x2000 then doMbDoorbellWrite value s
  else if fn = 1 ∧ addr = 0x2004 then doMbStatusW1c value s
  else if fn = 1 ∧ addr = 0x200C then { s with mb := { s.mb with intEn := BitVec.ofNat 3 value } }
  else if fn = 3 ∧ addr = 0x1004 then { s with ev := { s.ev with intEn := bitAt value 0 } }
  else s

/-- REGISTER_WRITE (R56). -/
def execRegisterWrite (fn addr value : Nat) (s : State) : Host.Outcome State Fault Refusal :=
  .next (doRegisterWrite fn addr value s)

/-! ### Events (R75, R76) -/

/-- EVENTS_LOST joins the FIFO as soon as it has space, before any newer event (R76). -/
def insertLost (s : State) : State :=
  if s.ev.lost = 0 ∨ 1024 ≤ s.ev.fifo.length then s
  else
    let e := mkEvent s 0x0002 11 0 (leBytes 4 (satTo 32 s.ev.lost))
    { s with ev := { s.ev with fifo := s.ev.fifo ++ [e], lost := 0, eseq := s.ev.eseq + 1 } }

/-- Bytes read from the event FIFO: the records left, the place within the first, and the bytes.
DESIGN CHOICE: log entry 14. -/
def readEvents : List EvRec → Nat → Nat → List EvRec × Nat × List Byte
  | [], pos, _ => ([], pos, [])
  | e :: t, pos, n =>
    if n = 0 then (e :: t, pos, [])
    else if 32 ≤ pos + n then
      let (l, p, out) := readEvents t 0 (n - (32 - pos))
      (l, p, (evBytes e).drop pos ++ out)
    else (e :: t, pos + n, bytesAt (evBytes e) pos n)

/-- Bytes read from function 3's FIFO; with none waiting they read as zero (log entry 14). -/
def doEventRecordRead (count : Nat) (s : State) : State :=
  if ! fnUp s 3 then s
  else
    let (l, p, out) := readEvents s.ev.fifo s.ev.pos count
    insertLost { s with ev := { s.ev with fifo := l, pos := p }, sdio := { s.sdio with data := padTo count out } }

/-- EVENT_RECORD_READ (R75). -/
def execEventRecordRead (count : Nat) (s : State) : Host.Outcome State Fault Refusal := .next (doEventRecordRead count s)

/-! ### Bulk transfers (R77, R78) -/

/-- BULK_DONE (table *Event codes*); SRC names the SDIO functions (R514). -/
def bulkDone (s : State) (dir : Nat) (st : Status) (bytes : Nat) : State :=
  postEvent s 0x0100 11 0 (leBytes 1 dir ++ [0] ++ leBytes 2 (statusCode st) ++ leBytes 8 bytes)

/-- A transfer's checks: reserved bits of the address and the length of R77. -/
def bulkRefusal (addr len : Nat) : Option Nat :=
  if 2 ^ 48 ≤ addr then some 0
  else if len % 64 ≠ 0 ∨ len < 64 ∨ 2 ^ 30 < len then some 8
  else none

/-- A transfer at its start. -/
def bulkNew (addr len dom : Nat) : BulkXfer :=
  { addr := addr, len := len, dom := dom, done := 0, part := [], bad := 0, firstBad := 0, mism := 0 }

/-- BULK_WRITE: opens the write transfer (R77). -/
def cmdBulkWrite (h : CmdHdr) (addr len : Nat) (s : State) : State × CmdRes :=
  match bulkRefusal addr len with
  | some off => refuseAt s .badParam off
  | none =>
    if s.bulk.wr.isSome then refuse s .busy
    else okDone { s with bulk := { s.bulk with wr := some (bulkNew addr len h.domain) } }

/-- BULK_WRITE. -/
def execBulkWrite (h : CmdHdr) (addr len : Nat) (s : State) : Host.Outcome State Fault Refusal :=
  .next (runCommand h 0x0102 (cmdBulkWrite h addr len) s)

/-- BULK_READ: opens the read transfer (R77). -/
def cmdBulkRead (h : CmdHdr) (addr len : Nat) (s : State) : State × CmdRes :=
  match bulkRefusal addr len with
  | some off => refuseAt s .badParam off
  | none =>
    if s.bulk.rd.isSome then refuse s .busy
    else okDone { s with bulk := { s.bulk with rd := some (bulkNew addr len h.domain) } }

/-- BULK_READ. -/
def execBulkRead (h : CmdHdr) (addr len : Nat) (s : State) : Host.Outcome State Fault Refusal :=
  .next (runCommand h 0x0103 (cmdBulkRead h addr len) s)

/-- Whole 64-byte pieces of the write transfer go to their target; the first refusal ends the transfer (R78). `fuel`
bounds the pieces. DEDUCED: log entry 44. -/
def bulkStore : Nat → State → BulkXfer → State
  | 0, s, x => { s with bulk := { s.bulk with wr := some x } }
  | fuel + 1, s, x =>
    if x.done = x.len then
      bulkDone { s with bulk := { s.bulk with wr := none, extraWr := s.bulk.extraWr + x.part.length } } 0 .ok x.done
    else if x.part.length < 64 then { s with bulk := { s.bulk with wr := some x } }
    else
      let (s', st) := writeLocal s x.dom (x.addr + x.done) (x.part.take 64) false
      if st = .ok then bulkStore fuel s' { x with done := x.done + 64, part := x.part.drop 64 }
      else
        bulkDone { s' with bulk := { s'.bulk with wr := none, extraWr := s'.bulk.extraWr + (x.part.length - 64) } } 0 st x.done

/-- Data written to function 2 under firmware (R78). -/
def doBulkDataWrite (data : List Byte) (s : State) : State :=
  if ! fnUp s 2 || ! fwUp s then s
  else match s.bulk.wr with
    | none => { s with bulk := { s.bulk with extraWr := s.bulk.extraWr + data.length } }
    | some x => bulkStore ((x.part.length + data.length) / 64 + 2) s { x with part := x.part ++ data }

/-- BULK_DATA_WRITE (R78). -/
def execBulkDataWrite (data : List Byte) (s : State) : Host.Outcome State Fault Refusal := .next (doBulkDataWrite data s)

/-- What one granule read adds to a transfer's counts of bad and failing granules (R189). -/
def bulkCount (s : State) (x : BulkXfer) (a : Nat) : BulkXfer :=
  let f := rangeFailing s a 64
  { x with bad := x.bad + rangeBadCount s a 64, mism := x.mism + f.length,
           firstBad := if x.mism = 0 then f.headD 0 * 64 else x.firstBad }

/-- A read transfer ends: TRAVEL_MISMATCH for its failing granules, then BULK_DONE (R78, R189). -/
def bulkReadEnd (s : State) (x : BulkXfer) (st : Status) : State :=
  let s := travelMismatch { s with bulk := { s.bulk with rd := none } } 11 0 x.mism 0xFF x.firstBad
  bulkDone s 1 (if st = .ok ∧ x.bad ≠ 0 then .travelErr else st) x.done

/-- `n` bytes from the read transfer: the bytes, in 64-byte pieces read as they are reached. `fuel` bounds the pieces.
DEDUCED: log entry 44. -/
def bulkLoad : Nat → State → BulkXfer → Nat → List Byte → State × List Byte
  | 0, s, x, _, out => ({ s with bulk := { s.bulk with rd := some x } }, out)
  | fuel + 1, s, x, n, out =>
    let s := { s with bulk := { s.bulk with rd := some x } }
    if x.part ≠ [] ∧ n ≠ 0 then
      let k := min n x.part.length
      bulkLoad fuel s { x with part := x.part.drop k, done := x.done + k } (n - k) (out ++ x.part.take k)
    else if x.done = x.len then
      let s := bulkReadEnd s x .ok
      ({ s with bulk := { s.bulk with extraRd := s.bulk.extraRd + n } }, out)
    else if n = 0 then (s, out)
    else
      let a := x.addr + x.done
      let (s', st, bs) := readLocal s x.dom a 64
      if st = .ok then bulkLoad fuel s' { bulkCount s x a with part := bs } n out
      else
        let s' := bulkReadEnd s' x st
        ({ s' with bulk := { s'.bulk with extraRd := s'.bulk.extraRd + n } }, out)

/-- Data read from function 2 (R78): under firmware the open transfer's, past it zeros that are counted. Where firmware does
not run the manual gives function 2 no bytes to read: they are free (log entry 72). -/
def doBulkDataRead (count : Nat) (s : State) : State :=
  if ! fnUp s 2 then s
  else if ! fwUp s then
    { s with sdio := { s.sdio with data := (List.range count).map (Config.freeByte s.freeCnt) }, freeCnt := s.freeCnt + 1 }
  else match s.bulk.rd with
    | none =>
      { s with bulk := { s.bulk with extraRd := s.bulk.extraRd + count },
               sdio := { s.sdio with data := List.replicate count 0 } }
    | some x =>
      let (s', out) := bulkLoad (2 * (count / 64) + 5) s x count []
      { s' with sdio := { s'.sdio with data := padTo count out } }

/-- BULK_DATA_READ (R78). -/
def execBulkDataRead (count : Nat) (ecc : List EccHit) (s : State) : Host.Outcome State Fault Refusal :=
  .next (doBulkDataRead count (plant ecc s))

/-! ### Channel table (R79 to R81) -/

/-- A trace channel that records (R472). -/
def traceActive (t : TraceCh) : Bool := t.st != .idle && t.st != .stopped

/-- A link port that a channel has started and that has not ended. -/
def linkActive (l : LinkPort) : Bool := l.st != .disabled && l.st != .lost

/-- A channel runs: some unit that it started has not ended. -/
def channelRuns (s : State) (c : Nat) : Bool :=
  tabAny (fun k x => k == c && (x.running || x.run.isSome)) s.dma || tabAny (fun _ p => p.chan == c && p.running) s.pipes ||
  tabAny (fun _ e => e.chan == c && e.running) s.eports || tabAny (fun _ l => l.chan == some c && linkActive l) s.lports ||
  tabAny (fun _ t => t.chan == c && traceActive t) s.trace.chans || tabAny (fun _ x => x.chan == c) s.streams

/-- Some channel runs (R79). A stream is attached from GRAPH_LOAD to GRAPH_UNLOAD: it counts as running in all of that time,
its graph LOADED included (DESIGN CHOICE: log entry 15). -/
def anyChannelRuns (s : State) : Bool :=
  tabAny (fun _ x => x.running || x.run.isSome) s.dma || tabAny (fun _ p => p.running) s.pipes ||
  tabAny (fun _ e => e.running) s.eports || tabAny (fun _ l => l.chan.isSome && linkActive l) s.lports ||
  tabAny (fun _ t => traceActive t) s.trace.chans || tabAny (fun _ _ => true) s.streams

/-- CHANNEL_TABLE_SET (R79). A new table leaves no cached copy of the old one; a table past usable DDR5, or before DDR_INIT,
is refused with RANGE (DESIGN CHOICE: log entry 15). -/
def cmdChannelTableSet (base count : Nat) (s : State) : State × CmdRes :=
  if base % 4096 ≠ 0 then refuseAt s .badParam 0
  else if count < 1 ∨ 4096 < count then refuseAt s .badParam 8
  else if s.ddr.usable < base + count * 128 then refuseAt s .range 0
  else if anyChannelRuns s then refuse s .busy
  else okDone { s with chans := { base := base, count := count, cache := [] } }

/-- CHANNEL_TABLE_SET. -/
def execChannelTableSet (h : CmdHdr) (base count : Nat) (s : State) : Host.Outcome State Fault Refusal :=
  .next (runCommand h 0x0100 (cmdChannelTableSet base count) s)

/-- CHANNEL_INVALIDATE (R79, R81). COUNT 0 names no entry and is accepted (DESIGN CHOICE: log entry 15). -/
def cmdChannelInvalidate (first count : Nat) (s : State) : State × CmdRes :=
  if s.chans.count ≤ first then refuseAt s .badParam 0
  else if s.chans.count < first + count then refuseAt s .badParam 4
  else if (List.range count).any (fun i => channelRuns s (first + i)) then refuse s .busy
  else okDone { s with chans := { s.chans with
    cache := s.chans.cache.filter (fun e => decide (e.1 < first) || decide (first + count ≤ e.1)) } }

/-- CHANNEL_INVALIDATE. -/
def execChannelInvalidate (h : CmdHdr) (first count : Nat) (s : State) : Host.Outcome State Fault Refusal :=
  .next (runCommand h 0x0101 (cmdChannelInvalidate first count) s)

/-- The cache after the use of an entry: most recently used first, 256 at most (R81). DEDUCED: log entry 15. -/
def cacheUse (c : List (Nat × List Byte)) (i : Nat) (bs : List Byte) : List (Nat × List Byte) :=
  ((i, bs) :: c.filter (fun e => e.1 != i)).take 256

/-- The stream entries of an egress channel body. -/
def streamEntries (e : List Byte) : List (List Byte) :=
  (List.range (min 8 (fieldAt e 12 1))).map (fun i => bytesAt e (16 + 12 * i) 12)

/-- The reserved fields of a channel entry of each TYPE, each with whether it is not zero, by rising offset (table *Channel
entry* and the channel bodies). -/
def entryReserved (e : List Byte) : List (Bool × Nat) :=
  let top := fun (off k lim : Nat) => (decide (lim ≤ fieldAt e off k), off)
  let nz := fun (off k : Nat) => (! zeroAt e off k, off)
  [nz 6 2] ++
  (match fieldAt e 0 1 with
   | 1 => [nz 14 2, nz 24 96]
   | 2 => [top 8 1 16, top 10 1 16, top 11 1 16, nz 18 2, top 57 1 4, nz 58 2, nz 92 28]
   | 3 => [nz 13 3] ++ (streamEntries e).zipIdx.flatMap (fun (x : List Byte × Nat) =>
       [(decide (4096 ≤ fieldAt x.1 0 2), 16 + 12 * x.2), (decide (2 ≤ fieldAt x.1 2 2), 18 + 12 * x.2)]) ++ [nz 112 8]
   | 4 => [top 8 1 4, top 9 1 16, top 10 1 16, nz 14 106]
   | 5 => [top 19 1 16, nz 22 2, nz 64 56]
   | 6 => [top 14 1 2, nz 54 2, nz 56 64]
   | _ => []) ++ [nz 120 4]

/-- The offset of the first reserved field of an entry that is not zero. -/
def entryResvBad (e : List Byte) : Option Nat := ((entryReserved e).find? (fun x => x.1)).map (fun x => x.2)

/-- The entry of a channel for a command that starts, re-arms or reconfigures it (R79 to R81): the cached copy, or the
one in DDR5, read in the domain of the command (R511). `type` is the TYPE that the command takes, `off` the offset of
the channel index in the payload. On success the entry's 128 bytes. DEDUCED: log entry 15. -/
def fetchEntry (s : State) (dom chan type off : Nat) : State × Sum CmdRes (List Byte) :=
  if s.chans.count ≤ chan then (s, .inl (.done .badParam (detail off)))
  else
    let (s', st, bs) := match s.chans.cache.find? (fun e => e.1 == chan) with
      | some e => (s, Status.ok, e.2)
      | none => readStruct s 13 0 dom (s.chans.base + chan * 128) 128
    if st ≠ .ok then (s', .inl (.done st []))
    else if crc32c (bs.take 124) ≠ fieldAt bs 124 4 ∨ fieldAt bs 0 1 ≠ type then (s', .inl (.done .badEntry []))
    else match entryResvBad bs with
      | some o => (s', .inl (.done .badField (detailOf o chan 2)))
      | none =>
        if fieldAt bs 1 1 ≠ dom then (s', .inl (.done .denied []))
        else ({ s' with chans := { s'.chans with cache := cacheUse s'.chans.cache chan bs } }, .inr bs)

/-! ### The device and its firewalls (R492, R493) -/

/-- NOP. -/
def execNop (h : CmdHdr) (s : State) : Host.Outcome State Fault Refusal := .next (runCommand h 0x0000 okDone s)

/-- The 32-bit IDCODE (R486). DESIGN CHOICE: log entry 5. -/
def idcodeValue : Nat := Config.siliconRevision.toNat * 2 ^ 28 + 0x9640 * 2 ^ 12 + Config.manufacturerId.toNat * 2 + 1

/-- DEVICE_INFO (R492). -/
def cmdDeviceInfo (s : State) : State × CmdRes :=
  okWith s (leBytes 4 idcodeValue ++ leBytes 4 s.boot.svn ++ leBytes 4 (otpSvn s.boot) ++ leBytes 1 s.boot.keySlot ++
    leBytes 1 (bit01 s.inst.joined) ++ leBytes 2 s.inst.id ++ leBytes 8 s.boot.buildId ++ leBytes 8 s.ddr.usable ++
    leBytes 8 goldenBase ++ leBytes 1 (seasonIdx s.power.season) ++ leBytes 3 0)

/-- DEVICE_INFO. -/
def execDeviceInfo (h : CmdHdr) (s : State) : Host.Outcome State Fault Refusal := .next (runCommand h 0x0001 cmdDeviceInfo s)

/-- TARGET of a firewall command names a target the host may name (R493). -/
def fwTargetOk (t : Nat) : Bool := decide (t ≤ 3) || (decide (0x100 ≤ t) && decide (t ≤ 0x1FF))

/-- FIREWALL_SET (R493). -/
def cmdFirewallSet (target region rflags base limit rdMask wrMask : Nat) (s : State) : State × CmdRes :=
  let r := fwOf s target region
  if 4 ≤ rflags then refuseAt s .badField 3
  else if ! fwTargetOk target then refuseAt s .badParam 0
  else if 63 < region then refuseAt s .badParam 2
  else if base % 4096 ≠ 0 ∨ 2 ^ 48 ≤ base then refuseAt s .badParam 4
  else if limit % 4096 ≠ 0 ∨ 2 ^ 48 ≤ limit then refuseAt s .badParam 12
  else if region = 63 ∨ r.lock ∨ rdMask % 4 ≠ 0 ∨ wrMask % 4 ≠ 0 then refuse s .denied
  else okDone (setFw s target region
    { base := BitVec.ofNat 36 (base / 4096), limit := BitVec.ofNat 36 (limit / 4096), en := ! bitAt rflags 1,
      lock := bitAt rflags 0, rd := BitVec.ofNat 16 rdMask, wr := BitVec.ofNat 16 wrMask })

/-- FIREWALL_SET. -/
def execFirewallSet (h : CmdHdr) (target region rflags base limit rdMask wrMask : Nat) (s : State) :
    Host.Outcome State Fault Refusal :=
  .next (runCommand h 0x010A (cmdFirewallSet target region rflags base limit rdMask wrMask) s)

/-- The three registers of a region (tables *FW_BASEn*, *FW_LIMITn*, *FW_PERMn*). -/
def fwRegs (r : FwRegion) : List Byte :=
  leBytes 8 (r.base.toNat * 4096 + bit01 r.en) ++ leBytes 8 (r.limit.toNat * 4096 + bit01 r.lock) ++
  leBytes 8 (r.wr.toNat * 65536 + r.rd.toNat)

/-- FIREWALL_GET (R492). -/
def cmdFirewallGet (target region r : Nat) (s : State) : State × CmdRes :=
  if r ≠ 0 then refuseAt s .badField 3
  else if ! fwTargetOk target then refuseAt s .badParam 0
  else if 63 < region then refuseAt s .badParam 2
  else okWith s (fwRegs (fwOf s target region))

/-- FIREWALL_GET. -/
def execFirewallGet (h : CmdHdr) (target region r : Nat) (s : State) : Host.Outcome State Fault Refusal :=
  .next (runCommand h 0x010B (cmdFirewallGet target region r) s)

end Sys2Proof.Machine
end

