-- ==== Sys2Proof/Machine/Flags.lean ====
section
/-! DEFINITION. Region flags and their operations (R181 to R183), and semaphore signals (R202, R378). These are the flags
of this block: it has no arithmetic status flags of a processor's kind. -/

namespace Sys2Proof.Machine

open Sys2Proof

/-! ### Region flags -/

/-- PEND_j of a flag. -/
def pendOf (f : Flag) (j : Nat) : Nat := bitsAt f.pend.toNat (4 * j) 4

/-- A flag with PEND_j set to a count. -/
def setPend (f : Flag) (j n : Nat) : Flag :=
  { f with pend := BitVec.ofNat 32 (f.pend.toNat - pendOf f j * 2 ^ (4 * j) + n * 2 ^ (4 * j)) }

/-- A flag is set while any PEND count is non-zero (R181). -/
def flagIsSet (f : Flag) : Bool := f.pend != 0

/-- The consumers bound to a flag. -/
def consumersOf (f : Flag) : List Nat := (List.range 8).filter (fun j => f.cmask.getLsbD j)

/-- The graph that a flag is bound to. -/
def flagGraph (s : State) (n : Nat) : Option Nat := (tabGet? s.binds n).map (·.graph)

/-- A doubt source whose scope is a graph, when there is one; the event is posted in any case (log entry 16). -/
def raiseGraph (s : State) (code cls unit : Nat) (arg : List Byte) (row : Nat) (g : Option Nat) : State :=
  match g with
  | some g => raiseDoubt s code cls unit arg row kindGraph g
  | none => postEvent s code cls unit arg

/-- FLAG_CONFLICT: operation 0 SET or 1 RELEASE (R182). -/
def flagConflict (s : State) (n op j : Nat) : State :=
  raiseGraph s 0x010A 11 1 (leBytes 2 n ++ leBytes 1 op ++ leBytes 1 j) rowGraph (flagGraph s n)

/-- Count one flag operation (SEQ_FLAG_OPS). -/
def countFlagOp (s : State) : State := bump s 8 0 7 1

/-- SET(f) (table *Region flag operations*). -/
def flagSet (s : State) (n f : Nat) : State :=
  let x := flagOf s n
  let s := countFlagOp s
  if flagIsSet x then flagConflict s n 0 0
  else setFlag s n ((consumersOf x).foldl (fun x j => setPend x j 1) { x with frame := BitVec.ofNat 16 f })

/-- RELEASE(j). -/
def flagRelease (s : State) (n j : Nat) : State :=
  let x := flagOf s n
  let s := countFlagOp s
  if pendOf x j = 0 then flagConflict s n 1 j else setFlag s n (setPend x j (pendOf x j - 1))

/-- REARM: one more release owed by each consumer; a count at 15 stays and raises FLAG_SATURATE. -/
def flagRearm (s : State) (n : Nat) : State :=
  let x := flagOf s n
  let s := countFlagOp s
  let full := (consumersOf x).any (fun j => pendOf x j == 15)
  let s := setFlag s n ((consumersOf x).foldl (fun x j => setPend x j (min 15 (pendOf x j + 1))) x)
  if full then postEvent s 0x010B 11 1 (leBytes 2 n) else s

/-! ### Semaphores -/

/-- SEM_UNBOUND, naming the semaphore and the signalling device (R202). -/
def semUnbound (s : State) (n dev : Nat) (g : Option Nat) : State :=
  raiseGraph s 0x0303 8 0 (leBytes 2 n ++ leBytes 2 dev) rowGraph g

/-- A semaphore is bound to a graph (R201). -/
def semBound (x : Sem) : Bool := x.graph != 0xFF

/-- A signal reaches a semaphore (R202). `g` is the graph of a local signaller. -/
def semSignalAt (s : State) (n dev : Nat) (g : Option Nat) : State :=
  let x := semOf s n
  let s := bump s 8 0 6 1
  if ! semBound x then semUnbound s n dev g
  else
    let s' := setSem s n { x with count := min 65535 (x.count + 1), signals := (x.signals + 1) % 2 ^ 32 }
    if x.count = 65535 then postEvent s' 0x0302 8 0 (leBytes 2 n) else s'

/-- A signal from another device (R378): one whose SRC is not the semaphore's SIG_DEV counts as a signal to an unbound
semaphore. -/
def semSignalRemote (s : State) (n dev : Nat) : State :=
  let x := semOf s n
  if semBound x && x.remote && x.sigDev == dev then semSignalAt s n dev none
  else semUnbound (bump s 8 0 6 1) n dev (if semBound x then some x.graph else none)

end Sys2Proof.Machine
end

