-- ==== Sys2Proof/Machine/Operands.lean ====
section
/-! DEFINITION. Tensor descriptors (R300 to R310): their fields, addressing, footprints, scale and exponent placement,
checks, and the elements they name. -/

namespace Sys2Proof.Machine

open Sys2Proof

/-- A tensor descriptor's fields (table *Tensor descriptor*). -/
structure TDesc where
  etype : Nat
  layout : Nat
  ndim : Nat
  space : Nat
  smode : Nat
  chAx : Nat
  ax : Nat
  tflags : Nat
  base : Nat
  alloc : Nat
  allocLen : Nat
  shard : Nat
  devBase : Nat
  size : List Nat
  stride : List Int
  scale : Nat
  exp : Nat
  expPitch : Nat
  gsize : List Nat
  parts : List Nat
  tail : Nat
deriving DecidableEq, Repr

/-- The six 4-byte fields from an offset. -/
def six4 (bs : List Byte) (off : Nat) : List Nat := (List.range 6).map (fun d => fieldAt bs (off + 4 * d) 4)

/-- A descriptor from its 128 bytes (R300). -/
def tdesc (bs : List Byte) : TDesc :=
  { etype := fieldAt bs 0 1, layout := fieldAt bs 1 1, ndim := fieldAt bs 2 1, space := fieldAt bs 3 1,
    smode := fieldAt bs 4 1, chAx := fieldAt bs 5 1, ax := fieldAt bs 6 1, tflags := fieldAt bs 7 1,
    base := fieldAt bs 8 8, alloc := fieldAt bs 16 6, allocLen := fieldAt bs 22 6, shard := fieldAt bs 28 2,
    devBase := fieldAt bs 30 2, size := six4 bs 32, stride := (six4 bs 56).map (signedOf 32), scale := fieldAt bs 80 6,
    exp := fieldAt bs 86 6, expPitch := fieldAt bs 92 4, gsize := six4 bs 96,
    parts := (List.range 6).map (fun d => fieldAt bs (120 + d) 1), tail := fieldAt bs 126 2 }

/-- A signed list's element; 0 beyond its end. -/
def ith (l : List Int) (d : Nat) : Int := l.getD d 0

/-- SHARDED. -/
def isSharded (t : TDesc) : Bool := bitAt t.tflags 0
/-- WRITABLE. -/
def isWritable (t : TDesc) : Bool := bitAt t.tflags 1
/-- The tensor has one scale record per channel. -/
def perChannel (t : TDesc) : Bool := bitAt t.smode 0
/-- The tensor has block exponents. -/
def blockExps (t : TDesc) : Bool := bitAt t.smode 1

/-- Storage bytes of an element (table *Element types*); an S4 pair shares one byte. -/
def elemBytes (etype : Nat) : Nat :=
  match etype with
  | 3 => 2
  | 4 => 2
  | 5 => 4
  | 6 => 6
  | _ => 1

/-- Bits of an element type. -/
def elemBits (etype : Nat) : Nat := if etype = 1 then 4 else 8 * elemBytes etype

/-- Unsigned element types. -/
def elemUnsigned (etype : Nat) : Bool := etype == 0 || etype == 3

/-- Least value of a type. -/
def elemMin (etype : Nat) : Int := if elemUnsigned etype then 0 else - (2 : Int) ^ (elemBits etype - 1)

/-- Greatest value of a type. -/
def elemMax (etype : Nat) : Int :=
  if elemUnsigned etype then (2 : Int) ^ elemBits etype - 1 else (2 : Int) ^ (elemBits etype - 1) - 1

/-- The value of a code of a type. -/
def elemDecode (etype n : Nat) : Int :=
  if elemUnsigned etype then (n % 2 ^ elemBits etype : Nat) else signedOf (elemBits etype) n

/-- Block bytes of a blocked layout (table *Block bytes*); none for a combination that it does not list. -/
def blockBytes (t : TDesc) : Option Nat :=
  let k := nth t.size 1
  match t.layout, t.etype with
  | 1, 0 => some (64 * k)
  | 1, 2 => some (64 * k)
  | 1, 3 => some (128 * k)
  | 1, 4 => some (128 * k)
  | 1, 1 => some (64 * cdiv k 2)
  | 2, 1 => some (64 * cdiv k 2)
  | 2, 2 => some (64 * k)
  | 2, 4 => some (128 * k)
  | 3, 5 => some 16384
  | 3, 6 => some 24576
  | _, _ => none

/-- The byte range of a descriptor, lowest and highest byte (R303), relative to a base in place of its BASE. -/
def footprintAt (t : TDesc) (base : Int) : Int × Int :=
  if t.layout = 0 then
    let step := fun (d : Nat) => ((nth t.size d : Int) - 1) * ith t.stride d
    let ds := (List.range t.ndim).filter (fun d => ! (t.etype == 1 && d == 0))
    let lo := ds.foldl (fun a d => a + min 0 (step d)) base
    let hi := ds.foldl (fun a d => a + max 0 (step d)) base
    let nib : Int := if t.etype = 1 then ((nth t.size 0 - 1) / 2 : Nat) else 0
    (lo, hi + nib + elemBytes t.etype - 1)
  else (base, base + ((nth t.size 2 : Int) - 1) * ith t.stride 2 + ((blockBytes t).getD 0 : Nat) - 1)

/-- BASE as the byte address it names: for an installation address its local part (R24). -/
def localBase (t : TDesc) : Nat := if t.space = 2 then t.base % 2 ^ 48 else t.base

/-- The footprint of a descriptor (R303). -/
def footprint (t : TDesc) : Int × Int := footprintAt t (localBase t)

/-! ### Validation (R305) -/

/-- Step 1: the offset of the first reserved field that is not zero. -/
def tdReserved (t : TDesc) : Option Nat :=
  if 4 ≤ t.smode then some 4
  else if 4 ≤ t.tflags then some 7
  else if 4096 ≤ t.shard then some 28
  else if 1024 ≤ t.devBase then some 30
  else if t.tail ≠ 0 then some 126
  else none

/-- Parts along a dimension. -/
def partsOf (t : TDesc) (d : Nat) : Nat := nth t.parts d + 1
/-- The kind of a dimension (table *Shard kinds*). -/
def shardOf (t : TDesc) (d : Nat) : Nat := bitsAt t.shard (2 * d) 2
/-- B of a BLOCK dimension. -/
def shardBlock (t : TDesc) (d : Nat) : Nat := cdiv (nth t.gsize d) (partsOf t d)

/-- The product of the parts of the dimensions below `d`. -/
def partsBelow (t : TDesc) (d : Nat) : Nat := (List.range d).foldl (fun a e => a * partsOf t e) 1

/-- The part coordinate of a device along a dimension (R309). -/
def partCoord (t : TDesc) (dev d : Nat) : Nat := (dev - t.devBase) / partsBelow t d % partsOf t d

/-- The local extent of a part (table *Shard kinds*). -/
def shardSize (t : TDesc) (d p : Nat) : Nat :=
  let g := nth t.gsize d
  match shardOf t d with
  | 1 => min g ((p + 1) * shardBlock t d) - p * shardBlock t d
  | 2 => cdiv (g - p) (partsOf t d)
  | _ => g

/-- A dimension's sharding rule broken: the offset of its field (R308). -/
def shardBad (t : TDesc) (dev d : Nat) : Option Nat :=
  let g := nth t.gsize d
  let p := partsOf t d
  if g = 0 then some (96 + 4 * d)
  else if shardOf t d = 0 ∧ p ≠ 1 then some (120 + d)
  else if shardOf t d = 1 ∧ g ≤ (p - 1) * shardBlock t d then some (120 + d)
  else if shardOf t d = 2 ∧ g < p then some (120 + d)
  else if nth t.size d ≠ shardSize t d (partCoord t dev d) then some (32 + 4 * d)
  else none

/-- The sharding fields of a descriptor on a device: the offset of the first that breaks R300, R308 or R309. -/
def tdShard (t : TDesc) (dev : Nat) : Option Nat :=
  let ds := List.range 6
  if ! isSharded t then
    if t.shard ≠ 0 then some 28
    else if t.devBase ≠ 0 then some 30
    else ds.findSome? (fun d => if nth t.gsize d ≠ 0 then some (96 + 4 * d) else if nth t.parts d ≠ 0 then some (120 + d)
      else none)
  else
    let unused := ds.findSome? (fun d => if d < t.ndim then none
      else if shardOf t d ≠ 0 then some 28
      else if nth t.gsize d ≠ 0 then some (96 + 4 * d)
      else if nth t.parts d ≠ 0 then some (120 + d) else none)
    let n := partsBelow t 6
    match unused with
    | some o => some o
    | none =>
      if t.layout ≠ 0 ∧ (shardOf t 0 = 1 ∨ shardOf t 0 = 2 ∨ shardOf t 1 = 1 ∨ shardOf t 1 = 2) then some 28
      else if t.layout ≠ 0 ∧ (shardOf t 2 = 1 ∨ shardOf t 2 = 2) ∧ (shardOf t 0 ≠ 0 ∨ shardOf t 1 ≠ 0) then some 28
      else if 1024 < n then some 120
      else if 1023 < t.devBase + n - 1 then some 30
      else if dev < t.devBase ∨ t.devBase + n ≤ dev then some 30
      else (List.range t.ndim).findSome? (shardBad t dev)

/-- Step 2: the offset of the first field outside its range, or of a rule of R300 to R304 or R308 to R309 broken. -/
def tdParam (t : TDesc) (dev : Nat) : Option Nat :=
  let k := nth t.size 1
  let blkExp := blockExps t && (t.layout == 1 || t.layout == 2)
  let dims := (List.range 6).findSome? (fun d =>
    if d < t.ndim then (if nth t.size d = 0 then some (32 + 4 * d) else none)
    else if nth t.size d ≠ 0 then some (32 + 4 * d)
    else if ith t.stride d ≠ 0 then some (56 + 4 * d) else none)
  if 6 < t.etype then some 0
  else if 3 < t.layout then some 1
  else if t.ndim = 0 ∨ 6 < t.ndim ∨ (t.layout ≠ 0 ∧ t.ndim ≠ 3) then some 2
  else if 2 < t.space then some 3
  else if t.ndim ≤ t.chAx ∨ (perChannel t = false ∧ t.chAx ≠ 0) then some 5
  else if t.ndim ≤ t.ax ∨ (blockExps t = false ∧ t.ax ≠ 0) then some 6
  else if t.allocLen = 0 then some 22
  else if dims.isSome then dims
  else if (tdShard t dev).isSome then tdShard t dev
  else if t.expPitch ≠ 0 ∧ blkExp = false then some 92
  else if t.layout = 0 then (if t.etype = 1 ∧ ith t.stride 0 ≠ 1 then some 56 else none)
  else if nth t.size 0 ≠ 64 then some 32
  else if (t.layout = 3 ∧ k ≠ 64) ∨ 65536 < k then some 36
  else if ith t.stride 0 ≠ 0 then some 56
  else if ith t.stride 1 ≠ 0 then some 60
  else match blockBytes t with
    | none => some 0
    | some b =>
      if ith t.stride 2 ≤ 0 ∨ ith t.stride 2 % 64 ≠ 0 ∨ ith t.stride 2 < b then some 64
      else if t.base % 64 ≠ 0 then some 8
      else if blkExp = true ∧ t.ax ≠ 1 then some 6
      else if blkExp = true ∧ t.exp % 64 ≠ 0 then some 86
      else if blkExp = true ∧ (t.expPitch % 64 ≠ 0 ∨ t.expPitch < 32 * cdiv k 32) then some 92
      else none

/-- What a descriptor is checked for. `core`: a core operation; a destination is one that the use writes. -/
inductive TUse where
  | read
  | write
  | coreRead
  | coreWrite
deriving DecidableEq, Repr

/-- The use writes. -/
def useWrites (u : TUse) : Bool := u == .write || u == .coreWrite
/-- The use is a core operation's. -/
def useCore (u : TUse) : Bool := u == .coreRead || u == .coreWrite

/-- Step 3: a use that the descriptor does not allow. -/
def tdUse (t : TDesc) (u : TUse) : Option Nat :=
  if useWrites u && ! isWritable t then some 7
  else if useCore u && t.space != 0 then some 3
  else none

/-- Bytes of the scale table (R304). -/
def scaleBytes (t : TDesc) : Nat :=
  if perChannel t then
    8 * (if t.layout ≠ 0 ∧ t.chAx = 0 then 64 * nth t.size 2 else nth t.size t.chAx)
  else 8

/-- Bytes of the block exponents (R304). -/
def expBytes (t : TDesc) : Nat :=
  if ! blockExps t then 0
  else if t.layout = 1 ∨ t.layout = 2 then (nth t.size 2 - 1) * t.expPitch + 32 * cdiv (nth t.size 1) 32
  else cdiv ((List.range t.ndim).foldl (fun a d => a * (if d = t.ax then cdiv (nth t.size d) 32 else nth t.size d)) 1) 2

/-- A byte range lies in a space: the scratchpad, the local map, or the map of another device (R22, R305). How much DDR5 another
device has is not known here: its whole range counts as mapped. DESIGN CHOICE: log entry 77. -/
def inSpace (s : State) (t : TDesc) (a len : Nat) : Bool :=
  if t.space = 0 then decide (a + len ≤ spmSize)
  else if t.space = 2 ∧ t.base / 2 ^ 54 ≠ s.inst.id then (mapWith ddrEnd a (max 1 len)).isSome
  else (mapTarget s a (max 1 len)).isSome

/-- The first address after `a` at which a firewall's answer can change. -/
def fwNext (rs : List FwRegion) (a hi : Nat) : Nat :=
  rs.foldl (fun m r =>
    let b := r.base.toNat * 4096
    let l := r.limit.toNat * 4096 + 4096
    let m := if r.en && decide (a < b) then min m b else m
    if r.en && decide (a < l) then min m l else m) hi

/-- Every byte of [a, hi) is permitted; `fuel` bounds the pieces of different regions. -/
def fwSpan (s : State) (target dom : Nat) (wr : Bool) : Nat → Nat → Nat → Bool
  | 0, _, _ => false
  | fuel + 1, a, hi =>
    if hi ≤ a then true
    else fwAllows s target dom wr a 1 && fwSpan s target dom wr fuel (fwNext (fwRegions s target) a hi) hi

/-- A footprint's bytes are permitted to a domain by the regions in force (R305, step 4). -/
def fwPermits (s : State) (dom : Nat) (wr : Bool) (a len : Nat) : Bool :=
  match mapTarget s a len with
  | none => false
  | some t => ! (wr && t == 3) && fwSpan s t dom wr 160 a (a + len)

/-- Step 4: footprint, allocated range, scale table, exponents and firewall. -/
def tdRange (s : State) (t : TDesc) (u : TUse) (dom : Nat) : Option Nat :=
  let (lo, hi) := footprint t
  if t.space = 2 ∧ badInstAddr t.base then some 8
  else if lo < t.alloc ∨ (t.alloc : Int) + t.allocLen ≤ hi then some 8
  else if ! inSpace s t t.alloc t.allocLen then some 16
  else if ! (t.smode == 0 && t.scale == 0) && ! inSpace s t t.scale (scaleBytes t) then some 80
  else if expBytes t ≠ 0 ∧ inSpace s t t.exp (expBytes t) = false then some 86
  else if ! useCore u && t.space != 0 && (t.space == 1 || t.base / 2 ^ 54 == s.inst.id) &&
      ! fwPermits s dom (useWrites u) lo.toNat (hi - lo + 1).toNat then some 8
  else none

/-- The dimensions that the write test takes, in order of rising |STRIDE|: (|STRIDE|, extent, dimension) (R306). -/
def writeDims (t : TDesc) : List (Nat × Nat × Nat) :=
  let ds := (List.range t.ndim).filter (fun d => decide (1 < nth t.size d))
  sortBy (fun a b => decide (a.1 ≤ b.1)) (ds.map (fun d => if d = 0 ∧ t.etype = 1 then (1, cdiv (nth t.size 0) 2, 0)
    else ((ith t.stride d).natAbs, nth t.size d, d)))

/-- The write test over the sorted dimensions: the first whose |STRIDE| is too small. -/
def writeFails : Nat → List (Nat × Nat × Nat) → Option Nat
  | _, [] => none
  | need, (st, n, d) :: t => if st < need then some (56 + 4 * d) else writeFails (need + (n - 1) * st) t

/-- Step 5: a writable LINEAR descriptor fails the write test (R306). -/
def tdAlias (t : TDesc) : Option Nat :=
  if ! isWritable t || t.layout != 0 then none
  else writeFails (elemBytes t.etype) (writeDims t)

/-- The checks of R305 in order, for a device's part: the status and field of the first that fails. -/
def tdCheck (s : State) (t : TDesc) (u : TUse) (dom dev : Nat) : Option (Status × Nat) :=
  match tdReserved t, tdParam t dev, tdUse t u, tdRange s t u dom, tdAlias t with
  | some o, _, _, _, _ => some (.badField, o)
  | none, some o, _, _, _ => some (.badParam, o)
  | none, none, some o, _, _ => some (.badParam, o)
  | none, none, none, some o, _ => some (.range, o)
  | none, none, none, none, some o => some (.aliased, o)
  | none, none, none, none, none => none

/-! ### Elements (R301, R302, R304, R307) -/

/-- An index list's element; 0 beyond its end. -/
def ix (l : List Nat) (d : Nat) : Nat := l.getD d 0

/-- The address of an element and, for S4, its nibble (R301, R302, R226 to R228). -/
def elemAddr (t : TDesc) (i : List Nat) : Int × Nat :=
  let base : Int := localBase t
  let e := elemBytes t.etype
  if t.layout = 0 then
    let far := (List.range t.ndim).foldl (fun a d => if d = 0 then a else a + ix i d * ith t.stride d) base
    if t.etype = 1 then (far + (ix i 0 / 2 : Nat), ix i 0 % 2) else (far + ix i 0 * ith t.stride 0, 0)
  else
    let b := base + ix i 2 * ith t.stride 2
    let m := ix i 0
    let k := ix i 1
    if t.layout = 3 then (b + (64 * e * k + e * m : Nat), 0)
    else if t.etype = 1 then (b + (64 * (k / 2) + m : Nat), k % 2)
    else (b + (64 * e * k + e * m : Nat), 0)

/-- An element's value at an address of a byte memory. -/
def elemLoad (m : List Host.Cell) (etype a nib : Nat) : Int :=
  let n := leNat (memRead m a (elemBytes etype))
  elemDecode etype (if etype = 1 then (if nib = 1 then n / 16 else n % 16) else n)

/-- Where a descriptor's addresses begin in the local map for a core: its scratchpad for SPACE 0. -/
def spaceBase (t : TDesc) (core : Nat) : Nat := if t.space = 0 then spmBase + core * spmStride else 0

/-- The local address of an element. -/
def elemLocal (t : TDesc) (core : Nat) (i : List Nat) : Nat × Nat :=
  let (a, n) := elemAddr t i
  (spaceBase t core + a.toNat, n)

/-- An index replaced by the nearest one of the shape (R307). -/
def clampIx (t : TDesc) (i : List Int) : List Nat :=
  (List.range t.ndim).map (fun d => (clampInt (ith i d) 0 ((nth t.size d : Int) - 1)).toNat)

/-- An index lies in the shape. -/
def inShape (t : TDesc) (i : List Int) : Bool :=
  (List.range t.ndim).all (fun d => decide (0 ≤ ith i d) && decide (ith i d < nth t.size d))

/-- Bytes to be written for an element: S4 takes its partner's nibble from what stands there or was just written. -/
def elemCells (m : List Host.Cell) (etype a nib : Nat) (v : Int) : List (Nat × Byte) :=
  if etype = 1 then
    let old := (memByte m a).toNat
    let c := unsignedOf 4 v
    [(a, byteOf (if nib = 1 then old % 16 + c * 16 else old / 16 * 16 + c))]
  else
    let n := unsignedOf (8 * elemBytes etype) v
    (List.range (elemBytes etype)).map (fun i => (a + i, byteOf (n / 256 ^ i)))

/-- Cells written to memory one after the other. -/
def cellsInto (m : List Host.Cell) (cs : List (Nat × Byte)) : List Host.Cell := cs.foldl (fun m c => memSet m c.1 c.2) m

/-- The granules that cells touch, each once. -/
def cellGrans (cs : List (Nat × Byte)) : List Nat := (cs.map (fun c => granOf c.1)).eraseDups

/-- Cells cover every byte of a granule. -/
def coversGran (cs : List (Nat × Byte)) (g : Nat) : Bool :=
  (List.range 64).all (fun i => cs.any (fun c => c.1 == g * 64 + i))

/-- A command's element writes taken together: the bytes, and for each granule the mark of one merged write (R187,
R188); `bad` are the granules whose output is poisoned. A granule that they do not cover is read for the merge. -/
def storeCells (s : State) (cs : List (Nat × Byte)) (bad : List Nat) : State :=
  let part := (cellGrans cs).filter (fun g => ! coversGran cs g)
  let s := countMerges part (meet (fun g => part.contains g) s)
  { s with mem := cellsInto s.mem cs,
           marks := (cellGrans cs).foldl (fun t g =>
             tabPut 0 g (markAfter (tabGet 0 t g) (coversGran cs g) (bad.contains g)) t) s.marks,
           eccBad := s.eccBad.filter (fun x => x.place == .rule || ! coversGran cs (granOf x.addr)) }

/-! ### TENSOR_CHECK and TENSOR_LOCATE (R305, R309) -/

/-- The use that USE of TENSOR_CHECK names. -/
def useOf (n : Nat) : Option TUse :=
  match n with
  | 0 => some .read
  | 1 => some .write
  | 2 => some .coreRead
  | _ => none

/-- TENSOR_CHECK (R305): the footprint and, for a sharded tensor, the part coordinates of the device. -/
def cmdTensorCheck (h : CmdHdr) (use r device : Nat) (td : List Byte) (s : State) : State × CmdRes :=
  if r ≠ 0 then refuseAt s .badField 1
  else if 1023 < device then refuseAt s .badParam 2
  else match useOf use with
    | none => refuseAt s .badParam 0
    | some u =>
      let t := tdesc td
      match tdCheck s t u h.domain device with
      | some (st, off) => refuseAt s st (4 + off)
      | none =>
        let (lo, hi) := footprint t
        let part := (List.range 6).flatMap (fun d => leBytes 1 (if isSharded t then partCoord t device d else 0))
        okWith s (leBytes 8 lo.toNat ++ leBytes 8 hi.toNat ++ part ++ leBytes 2 0)

/-- TENSOR_CHECK. -/
def execTensorCheck (h : CmdHdr) (use r device : Nat) (td : List Byte) (s : State) : Host.Outcome State Fault Refusal :=
  .next (runCommand h 0x0200 (cmdTensorCheck h use r device td) s)

/-- The part that holds a global index along a dimension; for a replicated one this device's own (table *Shard kinds*;
log entry 17). -/
def partOfIndex (t : TDesc) (dev d g : Nat) : Nat :=
  match shardOf t d with
  | 1 => g / max 1 (shardBlock t d)
  | 2 => g % partsOf t d
  | 3 => partCoord t dev d
  | _ => 0

/-- The local index of a global one (table *Shard kinds*). DEDUCED: log entry 17. -/
def localIndex (t : TDesc) (d g : Nat) : Nat :=
  match shardOf t d with
  | 1 => g % max 1 (shardBlock t d)
  | 2 => g / partsOf t d
  | _ => g

/-- TENSOR_LOCATE (R308, R309). DEDUCED: log entry 17. -/
def cmdTensorLocate (h : CmdHdr) (g : List Nat) (td : List Byte) (s : State) : State × CmdRes :=
  let t := tdesc td
  match tdCheck s t .read h.domain s.inst.id with
  | some (st, off) => refuseAt s st (24 + off)
  | none =>
    if ! isSharded t then refuseAt s .badParam (24 + 7)
    else match (List.range 6).find? (fun d => if d < t.ndim then decide (nth t.gsize d ≤ nth g d) else nth g d != 0) with
      | some d => refuseAt s .badParam (4 * d)
      | none =>
        let dev := (List.range t.ndim).foldl (fun a d => a + partOfIndex t s.inst.id d (nth g d) * partsBelow t d) t.devBase
        let l := (List.range 6).map (fun d => if d < t.ndim then localIndex t d (nth g d) else 0)
        let a := (elemAddr t l).1
        let a := if t.space = 2 then dev * 2 ^ 54 + a.toNat else a.toNat
        okWith s (leBytes 2 dev ++ leBytes 2 0 ++ l.flatMap (leBytes 4) ++ leBytes 8 a)

/-- TENSOR_LOCATE. -/
def execTensorLocate (h : CmdHdr) (g : List Nat) (td : List Byte) (s : State) : Host.Outcome State Fault Refusal :=
  .next (runCommand h 0x0201 (cmdTensorLocate h g td) s)

end Sys2Proof.Machine
end

