-- ==== Sys2Proof/Machine/Resources.lean ====
section
/-! DEFINITION. What running channels, reservations and loaded graphs take of DDR5 bandwidth and link bandwidth
(resources 10 and 12 of R206), and the resource report entry. -/

namespace Sys2Proof.Machine

open Sys2Proof

/-- A resource report entry (R206). -/
def resEntry (code : Nat) (exceeds : Bool) (scope season required available : Nat) : List Byte :=
  leBytes 1 code ++ leBytes 1 (bit01 exceeds) ++ leBytes 2 scope ++ leBytes 1 season ++ leBytes 3 0 ++
  leBytes 4 (satTo 32 required) ++ leBytes 4 (satTo 32 available)

/-- MB/s that a ring channel of a share reserves on each DDR5 channel: its share of 204.8 GB/s over four (R322, R337).
DEDUCED: log entry 19. -/
def ringDdr (share : Nat) : Nat := cdiv (51200 * share) 256

/-- MB/s that a ring channel reserves on a link port, in each direction (R322, R337; log entry 19). -/
def ringLink (share : Nat) : Nat := cdiv (21250 * share) 256

/-- A running ring channel. -/
def ringRuns (x : DmaChan) : Bool := x.ring && x.running

/-- The sum of a number over a table. -/
def tabSum {α : Type} (f : Nat → α → Nat) (t : Tab α) : Nat := t.foldl (fun n e => n + f e.1 e.2) 0

/-- The period of a node's lane. -/
def nodePeriod (s : State) (n : Nat) : Nat :=
  match tabGet? s.nodes n with
  | none => 1
  | some x => ((tabGet? s.graphs x.graph).bind (fun g => g.lanes[x.lane]?)).elim 1 (fun l => max 1 l.period)

/-- MB/s of DDR5 that a watch takes: 192 bytes in each selected iteration (R484), on every channel that its ring crosses. -/
def watchDdr (s : State) (w : Watch) : Nat := cdiv 768000 (max 1 (fieldAt w.def_ 6 2) * nodePeriod s w.node)

/-- MB/s in use on a DDR5 channel (R206, R322, R473, R484). -/
def ddrUsed (s : State) (ch : Nat) : Nat :=
  tabSum (fun _ w => watchDdr s w) s.watches +
  tabSum (fun _ g => nth g.charge.ddr ch) s.graphs + tabSum (fun _ x => if ringRuns x then ringDdr x.share else 0) s.dma +
  tabSum (fun _ t => if traceActive t then cdiv t.spillRate 4 else 0) s.trace.chans

/-- The key of a port and direction: 0 out, 1 in. -/
def linkKey (port dir : Nat) : Nat := port * 2 + dir

/-- MB/s in use on a link port in a direction (R206, R322, R381). -/
def linkUsed (s : State) (k : Nat) : Nat :=
  tabSum (fun _ g => tabGet 0 g.charge.link k) s.graphs +
  tabSum (fun _ x => if ringRuns x then ringLink x.share else 0) s.dma + tabGet 0 s.inst.reserve k

/-- Limits of resources 10 and 12. -/
def ddrLimit : Nat := 38400
def linkLimit : Nat := 17000

/-- The scope of least headroom among those listed as (scope, required, free): the one whose free amount exceeds what it
requires by least, the first of them. DEDUCED: log entry 58. -/
def leastHeadroom : List (Nat × Nat × Nat) → Nat × Nat × Nat
  | [] => (0xFFFF, 0, 0)
  | [x] => x
  | x :: y :: t =>
    let z := leastHeadroom (y :: t)
    if (x.2.2 : Int) - x.2.1 ≤ (z.2.2 : Int) - z.2.1 then x else z

/-- An entry for a resource with scopes. -/
def scopedEntry (code season : Nat) (l : List (Nat × Nat × Nat)) : Bool × List Byte :=
  let x := leastHeadroom l
  (decide (x.2.2 < x.2.1), resEntry code (decide (x.2.2 < x.2.1)) x.1 season x.2.1 x.2.2)

/-- Resource 10 with an additional need per channel. -/
def ddrFit (s : State) (need : Nat → Nat) : Bool × List Byte :=
  scopedEntry 10 0xFF ((List.range 4).map (fun c => (c, need c, ddrLimit - ddrUsed s c)))

/-- Resource 12 with an additional need per port and direction. -/
def linkFit (s : State) (need : Nat → Nat) : Bool × List Byte :=
  scopedEntry 12 0xFF ((List.range 24).map (fun k => (k / 2, need k, linkLimit - linkUsed s k)))

/-! ### DMA engines (R320, R322, R338) -/

/-- Channels that run on an engine: rings, channels bound to a graph, and attached streams (R320). -/
def engineChans (s : State) (e : Nat) : Nat :=
  tabSum (fun _ x => if x.engine = e ∧ x.running then 1 else 0) s.dma +
  tabSum (fun _ x => if x.engine = e then 1 else 0) s.streams

/-- Read tags taken on an engine (R338). -/
def engineTags (s : State) (e : Nat) : Nat :=
  tabSum (fun _ x => if x.engine = e ∧ x.running then x.tags else 0) s.dma +
  tabSum (fun _ x => if x.engine = e then x.tags else 0) s.streams

/-- An engine is graph-owned (R322). -/
def graphOwned (s : State) (e : Nat) : Bool :=
  tabAny (fun _ x => x.engine == e && x.running && x.graph.isSome) s.dma || tabAny (fun _ x => x.engine == e) s.streams

/-- An engine runs a ring channel. -/
def engineRings (s : State) (e : Nat) : Bool := tabAny (fun _ x => x.engine == e && ringRuns x) s.dma

end Sys2Proof.Machine
end

