-- ==== Sys2Proof/Machine/Dma.lean ====
section
/-! DEFINITION. DMA channels, descriptors and moves, the weight cache, and streams (chapter 13), with the remote accesses
a move makes (R376, R377, R385). -/

namespace Sys2Proof.Machine

open Sys2Proof

/-! ### The mover of a channel or stream -/

/-- What a channel or stream brings to its moves. -/
structure Mover where
  engine : Nat
  dom : Nat
  tags : Nat
  stopping : Bool
  graph : Option Nat
  wcache : Bool
deriving DecidableEq, Repr

/-- The stream that a channel entry runs. -/
def streamOfChan (s : State) (c : Nat) : Option (Nat × StreamSt) := s.streams.find? (fun e => e.2.chan == c)

/-- The mover at a channel index. -/
def moverAt (s : State) (c : Nat) : Option Mover :=
  match tabGet? s.dma c, streamOfChan s c with
  | some x, _ => some { engine := x.engine, dom := x.dom, tags := x.tags, stopping := x.stopping, graph := x.graph,
                        wcache := false }
  | none, some (_, x) => some { engine := x.engine, dom := x.dom, tags := x.tags, stopping := x.cancelling,
                                graph := some x.graph, wcache := x.wcache }
  | none, none => none

/-- The run in progress at a channel index. -/
def runAt (s : State) (c : Nat) : Option DmaRun :=
  match tabGet? s.dma c, streamOfChan s c with
  | some x, _ => x.run
  | none, some (_, x) => x.run
  | none, none => none

/-- The run at a channel index set. -/
def setRunAt (s : State) (c : Nat) (r : Option DmaRun) : State :=
  match tabGet? s.dma c, streamOfChan s c with
  | some x, _ => setDma s c { x with run := r }
  | none, some (k, x) => setStream s k { x with run := r }
  | none, none => s

/-- A run with no descriptor in progress. -/
def runIdle (node : Option Nat) (index f start : Nat) : DmaRun :=
  { node := node, index := index, f := f, start := start, busy := false, desc := [], src := [], dst := [], reads := 0,
    todo := [], got := [], writes := 0, written := false, bytes := 0, oobR := 0, oobW := 0, bad := false, mism := 0,
    firstBad := 0, status := .ok, totalBytes := 0, totalOob := 0, descDone := 0 }

/-- The engine's island runs. -/
def engineRuns (s : State) (e : Nat) : Bool := islandRuns s (2 + e / 2)

/-! ### Moves (R324, R325, R327) -/

/-- The permutation that a kind and PERM fix (R324); none when PERM does not name one. -/
def permOf (kind perm ndim : Nat) : Option (List Nat) :=
  match kind with
  | 0 => if perm = 0 then some (List.range ndim) else none
  | 1 =>
    let a := bitsAt perm 0 3
    let b := bitsAt perm 3 3
    if a < b ∧ b < ndim ∧ perm < 64 then
      some ((List.range ndim).map (fun d => if d = a then b else if d = b then a else d))
    else none
  | 2 =>
    let p := (List.range ndim).map (fun d => bitsAt perm (3 * d) 3)
    if perm < 2 ^ (3 * ndim) ∧ (List.range ndim).all (fun d => p.contains d) then some p else none
  | _ => none

/-- Every index of a box, dimension 0 innermost (R325). -/
def boxIndices : List Nat → List (List Nat)
  | [] => [[]]
  | n :: t => (boxIndices t).flatMap (fun r => (List.range n).map (fun i => i :: r))

/-- The six signed 16-bit offsets of a descriptor. -/
def offsAt (d : List Byte) (off : Nat) : List Int := (List.range 6).map (fun k => sfieldAt d (off + 2 * k) 2)

/-- One element of a move: source index as formed, destination index as formed. -/
def moveIx (perm : List Nat) (so dof : List Int) (ndim : Nat) (i : List Nat) : List Int × List Int :=
  ((List.range ndim).map (fun e =>
     match (List.range ndim).find? (fun d => nth perm d == e) with
     | some d => (ix i d : Int) + ith so e
     | none => 0),
   (List.range ndim).map (fun d => (ix i d : Int) + ith dof d))

/-- The elements of a move: (source address and nibble after clamping, destination address and nibble or none when
suppressed, whether the read was clamped). -/
def moveElems (src dst : TDesc) (perm : List Nat) (so dof : List Int) : List ((Nat × Nat) × Option (Nat × Nat) × Bool) :=
  (boxIndices ((List.range src.ndim).map (fun d => nth src.size (nth perm d)))).map (fun i =>
    let (a, b) := moveIx perm so dof src.ndim i
    (elemLocal src 0 (clampIx src a),
     if inShape dst b then some (elemLocal dst 0 (b.map Int.toNat)) else none,
     ! inShape src a))

/-- The granules of elements of a size at addresses, each once. -/
def elemGrans (etype : Nat) (l : List Nat) : List Nat :=
  (l.flatMap (fun a => gransOf a (elemBytes etype))).eraseDups

/-- The source granules of a move. -/
def moveSrcGrans (src : TDesc) (es : List ((Nat × Nat) × Option (Nat × Nat) × Bool)) : List Nat :=
  elemGrans src.etype (es.map (fun e => e.1.1))

/-- A tensor lies on another device (R24). -/
def isRemote (s : State) (t : TDesc) : Bool := t.space == 2 && t.base / 2 ^ 54 != s.inst.id

/-! ### The weight cache (R342, R343) -/

/-- The set of an address. -/
def wSet (a : Nat) : Nat := a / 64 % 16384

/-- Ways that a reader may fill: its graph's, or those held by no graph. -/
def fillWays (s : State) (g : Option Nat) : List Nat :=
  let held := s.graphs.flatMap (fun e => e.2.ways)
  let own := match g with
    | some k => (match tabGet? s.graphs k with
      | some x => x.ways
      | none => [])
    | none => []
  if own = [] then (List.range 16).filter (fun w => ! held.contains w) else own

/-- One granule read through the cache: a hit serves the line, a miss fills a way that is free or least recently used
among the reader's, or bypasses the cache. -/
def wRead (s : State) (g : Option Nat) (gran : Nat) : State × List Byte × BitVec 16 :=
  let a := gran * 64
  match s.wcache.find? (fun l => l.addr == a) with
  | some l => ({ s with wcache := l :: s.wcache.filter (fun x => x.addr != a) }, l.data, l.mark)
  | none =>
    let data := getBytes s a 64
    let mark := markOf s gran
    let ways := fillWays s g
    if ways = [] then (s, data, mark)
    else
      let here := s.wcache.filter (fun l => wSet l.addr == wSet a)
      let free := ways.find? (fun w => ! here.any (fun l => l.way == w))
      let way := match free with
        | some w => w
        | none => ((here.filter (fun l => ways.contains l.way)).getLast?.map (fun l => l.way)).getD 0
      let rest := s.wcache.filter (fun l => ! (wSet l.addr == wSet a && l.way == way))
      ({ s with wcache := { addr := a, way := way, data := data, mark := mark } :: rest }, data, mark)

/-- WCACHE_INVALIDATE (R343). -/
def cmdWcacheInvalidate (addr len : Nat) (s : State) : State × CmdRes :=
  okDone { s with wcache := s.wcache.filter (fun l => decide (l.addr + 64 ≤ addr) || decide (addr + len ≤ l.addr)) }

/-- WCACHE_INVALIDATE. -/
def execWcacheInvalidate (h : CmdHdr) (addr len : Nat) (s : State) : Host.Outcome State Fault Refusal :=
  .next (runCommand h 0x0108 (cmdWcacheInvalidate addr len) s)

/-! ### Checks of a descriptor (R323, R324, R326, R327) -/

/-- PERM as far as it can be tested without NDIM: zero for COPY, two dimensions A < B for TRANSPOSE (R323). -/
def permBad (kind perm : Nat) : Bool :=
  (kind == 0 && perm != 0) || (kind == 1 && (decide (bitsAt perm 3 3 ≤ bitsAt perm 0 3) || decide (64 ≤ perm)))

/-- A descriptor's own fields: a reserved one, then KIND and PERM. -/
def descFields (d : List Byte) : Option (Status × Nat) :=
  if 8 ≤ fieldAt d 0 1 then some (.badField, 0)
  else if 2 < fieldAt d 1 1 then some (.badParam, 1)
  else if permBad (fieldAt d 1 1) (fieldAt d 4 4) then some (.badParam, 4)
  else none

/-- The alignment of the tensor descriptors that a ring descriptor names (R323). -/
def descAligned (d : List Byte) : Option (Status × Nat) :=
  if fieldAt d 8 8 % 64 ≠ 0 then some (.badParam, 8)
  else if fieldAt d 16 8 % 64 ≠ 0 then some (.badParam, 16)
  else none

/-- The device on which a descriptor's elements lie (R24). -/
def devOf (s : State) (t : TDesc) : Nat := if t.space = 2 then t.base / 2 ^ 54 else s.inst.id

/-- Footprints of two descriptors overlap in the memory of one device. -/
def footOverlap (s : State) (a b : TDesc) : Bool :=
  let (al, ah) := footprint a
  let (bl, bh) := footprint b
  devOf s a == devOf s b && decide (al ≤ bh) && decide (bl ≤ ah)

/-- A plain copy (R327). -/
def plainCopy (kind : Nat) (a b : TDesc) : Bool := kind == 0 && a.layout == b.layout && a.stride == b.stride

/-- The checks of R326 and R327 over the two tensor descriptors, after the descriptor's own: PERM with NDIM first; `w`: the
source is read through the weight cache. -/
def moveCheck (s : State) (dom kind perm : Nat) (w : Bool) (src dst : TDesc) : Option (Status × Nat) :=
  if (permOf kind perm src.ndim).isNone then some (.badParam, 4)
  else match tdCheck s src .read dom s.inst.id, tdCheck s dst .write dom s.inst.id with
    | some e, _ => some e
    | none, some e => some e
    | none, none =>
      if src.ndim ≠ dst.ndim ∨ src.etype ≠ dst.etype then some (.badParam, 2)
      else if src.space = 0 ∨ dst.space = 0 then some (.badParam, 3)
      else if w ∧ (isRemote s src ∨ (0x002000000000 : Int) ≤ (footprint src).2) then some (.badParam, 0)
      else if footOverlap s src dst ∧ plainCopy kind src dst = false then some (.overlap, 8)
      else none

/-! ### Remote accesses of a move (R376, R377, R385) -/

/-- Consecutive granules of one aligned 256-byte block, at most `k` in each, merged into bursts in the order given (R329). -/
def bursts (k : Nat) : List Nat → List (List Nat)
  | [] => []
  | g :: gs =>
    match bursts k gs with
    | (h :: t) :: bs => if h = g + 1 ∧ h / 4 = g / 4 ∧ (h :: t).length < k then (g :: h :: t) :: bs else [g] :: (h :: t) :: bs
    | bs => [g] :: bs

/-- The bursts that merging forms: those of more than one granule. Merging goes across descriptors only when the next one is
already checked, which in the model it never is (log entry 78). -/
def mergedCount (bs : List (List Nat)) : Nat := (bs.filter (fun b => decide (1 < b.length))).length

/-- A read holds a tag per granule: what a burst of reads may hold (R329, R338). -/
def readBurst (m : Mover) : Nat := min 4 (max 1 m.tags)

/-- Ask for remote granules, burst by burst, while the tag quota allows (R329, R338); a request waits at its source while the
device holds every link tag (R377). `fuel` bounds the requests. -/
def issueReads (c dev dom : Nat) : Nat → State → State
  | 0, s => s
  | fuel + 1, s =>
    match runAt s c, moverAt s c with
    | some r, some m =>
      (match bursts (readBurst m) r.todo with
       | [] => s
       | b :: _ =>
         let n := b.length
         if m.tags < r.reads - r.todo.length + n then s
         else
           let s := setRunAt s c (some { r with todo := r.todo.drop n })
           let a := b.headD 0 * 64
           issueReads c dev dom fuel (request s
             { txn := { dst := dev, kind := 0x02, addr := a, grans := n, bytes := 0, win := 0, wait := none, chan := some c,
                        rsp := [] },
               pkts := [{ reqPacket s 0x02 dev 0 with addr := a, grans := n, domain := dom, be := 2 ^ 64 - 1 }],
               port := none }))
    | _, _ => s

/-- The import entry through which a write to a device leaves (R385). -/
def importFor (s : State) (dev a len : Nat) : Option Import :=
  (s.inst.imports.find? (fun e => e.2.device == dev && decide (e.2.base ≤ a) && decide (a + len ≤ e.2.base + e.2.length))).map
    (·.2)

/-- The byte-enable mask of a granule's cells and its bytes with the disabled ones zero (R188). -/
def granMask (cs : List (Nat × Byte)) (g : Nat) : Nat × List Byte :=
  let mine := cs.filter (fun c => granOf c.1 == g)
  let has := fun i => mine.any (fun c => c.1 == g * 64 + i)
  ((List.range 64).foldl (fun m i => if has i then m + 2 ^ i else m) 0,
   (List.range 64).map (fun i => ((mine.filter (fun c => c.1 == g * 64 + i)).getLast?.map (·.2)).getD 0))

/-- The first written address of granules, the last, and the number of bytes written. -/
def writeSpan (cs : List (Nat × Byte)) (gs : List Nat) : Nat × Nat × Nat :=
  let as := ((cs.filter (fun c => gs.contains (granOf c.1))).map (·.1)).eraseDups
  (as.foldl min (as.headD 0), as.foldl max 0, as.length)

/-- The granules that a write packet takes: a merged burst whose bytes are contiguous and go through one import entry, else
one granule each (R376, R385). -/
def writeUnits (s : State) (dev : Nat) (cs : List (Nat × Byte)) (gs : List Nat) : List (List Nat) :=
  (bursts 4 gs).flatMap (fun b =>
    let (lo, hi, n) := writeSpan cs b
    if n = hi + 1 - lo ∧ (importFor s dev lo (hi + 1 - lo)).isSome then [b] else b.map (fun g => [g]))

/-- A write to another device: refused at its source with NO_WINDOW or WINDOW_CLOSED, or asked for (R376, R385). -/
def remoteWrite (s : State) (c dev dom : Nat) (cs : List (Nat × Byte)) (bad : List Nat) (gs : List Nat) : State × Status :=
  let (lo, hi, n) := writeSpan cs gs
  match importFor s dev lo (hi + 1 - lo) with
  | none => (s, .noWindow)
  | some i =>
    if i.stale then (s, .windowClosed)
    else
      let a := gs.headD 0 * 64
      let data := gs.map (fun g => (granMask cs g).2)
      let code := fun (g : Nat) => let d := (granMask cs g).2; if bad.contains g then tc d ^^^ poisonMark else tc d
      let be := if gs.length ≤ 1 then (granMask cs (gs.headD 0)).1 else lo % 64 + hi % 64 * 256
      (request s
        { txn := { dst := dev, kind := 0x01, addr := a, grans := gs.length, bytes := n, win := i.win, wait := none,
                   chan := some c, rsp := [] },
          pkts := [{ reqPacket s 0x01 dev 0 with
            addr := a, grans := gs.length, domain := dom, win := i.win, epoch := i.epoch, be := be, data := data,
            codes := gs.map code }],
          port := none }, .ok)

/-- Requests of a mover that wait for a tag are given up: the granules to be read and the writes that they stood for. -/
def dropWaiting (s : State) (c : Nat) : State × Nat × Nat :=
  let mine := s.inst.tagWait.filter (fun q => q.txn.chan == some c)
  ({ s with inst := { s.inst with tagWait := s.inst.tagWait.filter (fun q => q.txn.chan != some c) } },
   (mine.filter (fun q => q.txn.kind == 0x02)).foldl (fun n q => n + q.txn.grans) 0,
   (mine.filter (fun q => q.txn.kind == 0x01)).length)

/-! ### Carrying out a move (R187, R189, R325 to R328) -/

/-- A source granule of this device as the mover reads it: its bytes and its mark. -/
def readGran (s : State) (m : Mover) (w : Bool) (g : Nat) : State × List Byte × Nat :=
  if w || m.wcache then
    let (s, data, mark) := wRead s m.graph g
    (s, data, mark.toNat)
  else (s, viewBytes s (g * 64) 64, (markOf s g).toNat)

/-- Contents that the manual calls undefined: each destination byte whose write the target takes becomes a free value
(R332, log entry 7). -/
def scrambleCells (s : State) (dom : Nat) (cs : List (Nat × Byte)) : State :=
  let ok := cs.filter (fun c => accessStatus s dom true c.1 1 == .ok)
  { storeCells s (ok.map (fun c => (c.1, Config.freeByte s.freeCnt c.1))) [] with freeCnt := s.freeCnt + 1 }

/-- The destination cells of a move, with the memory they leave. -/
def moveCells (srcMem : List Host.Cell) (etype : Nat) (m : List Host.Cell)
    (es : List ((Nat × Nat) × Option (Nat × Nat) × Bool)) : List (Nat × Byte) :=
  (es.foldl (fun (acc : List Host.Cell × List (Nat × Byte)) e =>
    match e.2.1 with
    | none => acc
    | some (d, n) =>
      let cs := elemCells acc.1 etype d n (elemLoad srcMem etype e.1.1 e.1.2)
      (cellsInto acc.1 cs, cs.reverse ++ acc.2)) (m, [])).2.reverse

/-- Remote writes of a move, unit by unit until one is refused at its source. -/
def remoteWrites (c dev dom : Nat) (cs : List (Nat × Byte)) (bad : List Nat) : List (List Nat) → State → State × Status × Nat
  | [], s => (s, .ok, 0)
  | g :: gs, s =>
    let (s, st) := remoteWrite s c dev dom cs bad g
    if st ≠ .ok then (s, st, 0)
    else
      let (s, st, n) := remoteWrites c dev dom cs bad gs s
      (s, st, n + 1)

/-- The elements of a move; none where PERM names no permutation. -/
def elemsOf (r : DmaRun) : Option (List ((Nat × Nat) × Option (Nat × Nat) × Bool)) :=
  (permOf (fieldAt r.desc 1 1) (fieldAt r.desc 4 4) (tdesc r.src).ndim).map (fun perm =>
    moveElems (tdesc r.src) (tdesc r.dst) perm (offsAt r.desc 24) (offsAt r.desc 36))

/-- A count of writes completed that the manual does not fix, at most the bytes of the destination (R332, R333;
log entry 8). -/
def freeBytes (s : State) (c : Nat) (cs : List (Nat × Byte)) : Nat :=
  Config.freeNat s.freeCnt c % ((cs.map (·.1)).eraseDups.length + 1)

/-- The destination of a descriptor that an access refused on arrival ends is undefined (R332). -/
def spoilDest (s : State) (m : Mover) (r : DmaRun) : State :=
  match elemsOf r with
  | none => s
  | some es => if isRemote s (tdesc r.dst) then s else scrambleCells s m.dom (moveCells [] (tdesc r.dst).etype s.mem es)

/-- An access of a move was refused, or a remote transaction came back with a status: nothing further is asked for, and
what is in flight is awaited (R332). `n` reads are in flight. -/
def failReads (s : State) (c : Nat) (m : Mover) (r : DmaRun) (st : Status) (n : Nat) : State :=
  let (s, w, _) := dropWaiting s c
  let s := if st = .denied ∨ st = .unmapped ∨ st = .islandOff then spoilDest s m r else s
  setRunAt s c (some { r with status := if r.status = .ok then st else r.status, todo := [], reads := n - w })

/-- Every source granule has returned: the destination is written, or the first refused access ends the descriptor
(R328, R332). DEDUCED: log entry 18. -/
def performMove (s : State) (c : Nat) (m : Mover) (r : DmaRun) : State :=
  match elemsOf r with
  | none => s
  | some es =>
    let src := tdesc r.src
    let dst := tdesc r.dst
    let gs := moveSrcGrans src es
    let srcMem := r.got.foldl (fun mm e => memWrite mm (e.1 * 64) e.2.1) []
    let mark := fun g => ((tabGet? r.got g).map (·.2)).getD 0
    let failing := gs.filter (fun g => mark g != 0 && mark g != poisonMark)
    let cs := moveCells srcMem dst.etype s.mem es
    let bad := (es.flatMap (fun e => match e.2.1 with
      | some (d, _) =>
        if (gransOf e.1.1 (elemBytes src.etype)).any (fun g => mark g != 0) then gransOf d (elemBytes dst.etype) else []
      | none => [])).eraseDups
    let dgs := cellGrans cs
    let r := { r with written := true, oobR := (es.filter (fun e => e.2.2)).length,
                      oobW := (es.filter (fun e => e.2.1.isNone)).length, bad := gs.any (fun g => mark g != 0),
                      mism := failing.length, firstBad := failing.headD 0 * 64 }
    let dstRef := if isRemote s dst then none else firstBar s m.dom true dgs
    let s := bump s 2 m.engine 5 (dgs.filter (fun g => ! coversGran cs g)).length
    match dstRef with
    | some (g, st) =>
      let s := if st = .denied then denyEvent s m.dom (g * 64) 64 else s
      let bytes := freeBytes s c cs
      setRunAt (scrambleCells s m.dom cs) c (some { r with status := st, bytes := bytes })
    | none =>
      let s := bump (bump s 2 m.engine 2 dgs.length) 2 m.engine 7 (mergedCount (bursts 4 dgs))
      if isRemote s dst then
        let dev := dst.base / 2 ^ 54
        let (s, st, n) := remoteWrites c dev m.dom cs bad (writeUnits s dev cs dgs) (setRunAt s c (some r))
        match runAt s c with
        | none => s
        | some r => setRunAt s c (some { r with writes := n, status := st })
      else setRunAt (storeCells s cs bad) c (some { r with bytes := (cs.map (·.1)).eraseDups.length })

/-- 64 bytes of a read that returned after a stop: counted at once for a channel, with the stream's own for a stream
(R333, R347, R349). -/
def discardRead (s : State) (c : Nat) (m : Mover) : State :=
  match tabGet? s.dma c, streamOfChan s c with
  | none, some (k, x) => setStream s k { x with discard := x.discard + 64 }
  | _, _ => bump s 2 m.engine 6 64

/-- Reads of a move have come back and their tags are free; after the last one the move is carried out. The data of a stopped
channel is discarded (R333, R338). -/
def readBack (s : State) (c : Nat) (m : Mover) (r : DmaRun) : State :=
  if m.stopping then discardRead (setRunAt s c (some r)) c m
  else if r.reads = 0 ∧ r.status = .ok then performMove (setRunAt s c (some r)) c m r
  else setRunAt s c (some r)

/-- A source granule of this device is read, checked as it arrives at its target (R17, R19). Reads that a stop of the island has
carried out already (R14) only return. -/
def takeGran (s : State) (c : Nat) (m : Mover) (r : DmaRun) (g : Nat) : State :=
  if (tabGet? r.got g).isSome then s
  else
    let (s, st) := access s m.dom false (g * 64) 64
    if st = .ok then
      let (s, data, mark) := readGran s m (bitAt (fieldAt r.desc 0 1) 2) g
      setRunAt s c (some { r with got := tabSet g (data, mark) r.got })
    else failReads s c m r st (min r.reads m.tags)

/-- The next granule of a move on this device returns. -/
def localReturn (s : State) (c : Nat) (m : Mover) (r : DmaRun) : State :=
  let s := bump s 2 m.engine 1 1
  match m.stopping, r.todo with
  | false, g :: _ =>
    let s := takeGran s c m r g
    (match runAt s c with
     | some r => readBack s c m { r with reads := r.reads - 1, todo := r.todo.drop 1 }
     | none => s)
  | _, _ => readBack s c m { r with reads := r.reads - 1 }

/-- The reads of a move that are in flight and whose target lies in an island are carried out now: an island stops only when
every access that it has accepted is complete (R14). -/
def settleReads (s : State) (island : Nat) (c : Nat) : State :=
  match runAt s c, moverAt s c with
  | some r, some m =>
    if ! r.busy || isRemote s (tdesc r.src) || m.stopping then s
    else (r.todo.take m.tags).foldl (fun s g =>
      if (mapTarget s (g * 64) 64).any (fun t => targetIsland t == island) then
        (match runAt s c with
         | some r => if r.todo = [] then s else takeGran s c m r g
         | none => s)
      else s) s
  | _, _ => s

/-- A move begins after its checks: its source granules are to be read. -/
def beginMove (s : State) (c : Nat) (m : Mover) (r : DmaRun) : State :=
  match elemsOf r with
  | none => s
  | some es =>
    let src := tdesc r.src
    let gs := moveSrcGrans src es
    let r := { r with busy := true, reads := gs.length, todo := gs, got := [], writes := 0, written := false, bytes := 0,
                      oobR := 0, oobW := 0, bad := false, mism := 0, firstBad := 0, status := .ok }
    let s := bump (setRunAt s c (some r)) 2 m.engine 7 (mergedCount (bursts (readBurst m) gs))
    if isRemote s src then issueReads c (src.base / 2 ^ 54) m.dom gs.length s else s

/-- A descriptor that fails a check: no byte is moved (R332). -/
def failMove (s : State) (c : Nat) (r : DmaRun) (st : Status) : State :=
  setRunAt s c (some { r with busy := true, reads := 0, todo := [], got := [], writes := 0, written := true, bytes := 0,
                              oobR := 0, oobW := 0, bad := false, mism := 0, firstBad := 0, status := st })

/-- The status that a descriptor ends with (table *DMA statuses*). -/
def endStatus (stopping : Bool) (r : DmaRun) : Status :=
  if r.status ≠ .ok then r.status else if stopping then .stopped else if r.bad then .travelErr else .ok

/-- A descriptor has ended: nothing of it is outstanding. -/
def moveEnded (stopping : Bool) (r : DmaRun) : Bool :=
  r.busy && decide (r.reads = 0) && decide (r.writes = 0) && (r.written || stopping || r.status != .ok)

/-- A status after which a channel goes on. -/
def goesOn (st : Status) : Bool := st == .ok || st == .travelErr

/-- OOB as written back: reads clamped and writes suppressed, each saturating (R323). -/
def oobWord (r : DmaRun) : Nat := satTo 16 r.oobR + satTo 16 r.oobW * 65536

/-- The OOB of a node's descriptors so far, each half saturating, with one more descriptor's (R465). -/
def oobSum (t : Nat) (r : DmaRun) : Nat := satTo 16 (t % 65536 + r.oobR) + satTo 16 (t / 65536 + r.oobW) * 65536

/-- What a stop leaves of a move in progress (R332, R333): requests that wait are given up, reads in flight are awaited, and the
destination is undefined, with a count of completed writes that the manual does not fix where the data was not yet written (log
entries 7 and 8). `keep`: what a stream has written stays (R347). DESIGN CHOICE: log entry 8. -/
def stopMove (s : State) (c : Nat) (m : Mover) (r : DmaRun) (keep : Bool) : State :=
  let dst := tdesc r.dst
  let (s, waitR, waitW) := dropWaiting s c
  match elemsOf r with
  | none => s
  | some es =>
    let cs := moveCells [] dst.etype s.mem es
    let spoilt := if isRemote s dst || (r.written && keep) then s else scrambleCells s m.dom cs
    if r.written then setRunAt spoilt c (some { r with writes := r.writes - waitW })
    else
      let flight := if isRemote s (tdesc r.src) then r.reads - r.todo.length - waitR else min r.reads m.tags
      let bytes := freeBytes s c cs
      setRunAt { spoilt with freeCnt := spoilt.freeCnt + 1 } c (some { r with reads := flight, todo := [], bytes := bytes })

/-! ### Ring channels (R320, R322, R330 to R333) -/

/-- The first field of a DMA channel body out of its range. -/
def dmaBody (e : List Byte) : Option Nat :=
  let mode := fieldAt e 8 1
  let log := fieldAt e 9 1
  let share := fieldAt e 10 2
  let tags := fieldAt e 12 2
  let base := fieldAt e 16 8
  if 31 < fieldAt e 2 2 then some 2
  else if 1 < mode then some 8
  else if (mode = 0 ∧ (log < 4 ∨ 12 < log)) ∨ (mode = 1 ∧ log ≠ 0) then some 9
  else if share < 1 ∨ 256 < share then some 10
  else if tags < 1 ∨ 256 < tags then some 12
  else if (mode = 0 ∧ base % 64 ≠ 0) ∨ (mode = 1 ∧ base ≠ 0) then some 16
  else none

/-- A channel as its entry configures it. -/
def dmaOfEntry (e : List Byte) (dom : Nat) (graph : Option Nat) (head : Nat) : DmaChan :=
  { engine := fieldAt e 2 2, dom := dom, ring := fieldAt e 8 1 == 0, ringLog := fieldAt e 9 1, share := fieldAt e 10 2,
    tags := fieldAt e 12 2, ringBase := fieldAt e 16 8, head := head, running := true, parked := false, kick := false,
    stopping := false, graph := graph, run := none }

/-- The report of a DMA_START that does not fit: resources 10 and 12 (R322, R494). DEDUCED: log entry 19. -/
def ringFit (s : State) (share : Nat) : Bool × List Byte :=
  let d := ddrFit s (fun _ => ringDdr share)
  let l := linkFit s (fun _ => ringLink share)
  (! d.1 && ! l.1, d.2 ++ l.2)

/-- DMA_START (R320, R322, R330, R338). DEDUCED: log entry 29. -/
def cmdDmaStart (h : CmdHdr) (channel flags : Nat) (s : State) : State × CmdRes :=
  if 2 ≤ flags then refuseAt s .badField 2
  else if 1023 < channel then refuseAt s .badParam 0
  else match fetchEntry s h.domain channel 1 0 with
    | (s, .inl r) => (s, r)
    | (s', .inr e) =>
      let share := fieldAt e 10 2
      let eng := fieldAt e 2 2
      let base := fieldAt e 16 8
      let size := 64 * 2 ^ fieldAt e 9 1
      match dmaBody e with
      | some off => (s', .done .badParam (detailOf off channel 2))
      | none =>
        if fieldAt e 8 1 ≠ 0 then (s', .done .badParam (detailOf 8 channel 2))
        else if mapTarget s base size ≠ some 0 ∧ mapTarget s base size ≠ some 1 then
          (s', .done .range (detailOf 16 channel 2))
        else if tabAny (fun k x => k == channel && (x.running || x.run.isSome)) s.dma || graphOwned s eng ||
            decide (32 ≤ engineChans s eng) || decide (256 < engineTags s eng + fieldAt e 12 2) then refuse s' .busy
        else if ! (ringFit s share).1 then (s', .done .nofit (ringFit s share).2)
        else if ! islandRuns s (2 + eng / 2) then refuse s' .islandOff
        else
          let head := match tabGet? s.dma channel with
            | some x => if bitAt flags 0 then x.head % 2 ^ fieldAt e 9 1 else 0
            | none => 0
          okDone (setDma s' channel (dmaOfEntry e h.domain none head))

/-- DMA_START. -/
def execDmaStart (h : CmdHdr) (channel flags : Nat) (s : State) : Host.Outcome State Fault Refusal :=
  .next (runCommand h 0x0104 (cmdDmaStart h channel flags) s)

/-- A ring channel that runs. -/
def ringAt (s : State) (channel : Nat) : Option DmaChan :=
  match tabGet? s.dma channel with
  | some x => if ringRuns x then some x else none
  | none => none

/-- DMA_STOP (R79, R333): the response follows the write-back and the last tag. DEDUCED: log entry 18. -/
def cmdDmaStop (channel r : Nat) (s : State) : State × CmdRes :=
  if s.chans.count ≤ channel then refuseAt s .badParam 0
  else match ringAt s channel with
  | none => refuse s .state
  | some x =>
    if r ≠ 0 then refuseAt s .badField 2
    else match x.run, moverAt s channel with
      | some d, some m =>
        let s := stopMove s channel m d false
        (match tabGet? s.dma channel with
         | some x => setDma s channel { x with stopping := true }
         | none => s, .wait (.dmaStop channel))
      | _, _ => okWith (setDma s channel { x with running := false, parked := false, kick := false }) (leBytes 4 x.head)

/-- DMA_STOP. -/
def execDmaStop (h : CmdHdr) (channel r : Nat) (s : State) : Host.Outcome State Fault Refusal :=
  .next (runCommand h 0x0105 (cmdDmaStop channel r) s)

/-- DMA_KICK (R79, R330): a parked channel reads HEAD again; otherwise the kick is held. -/
def cmdDmaKick (channel r : Nat) (s : State) : State × CmdRes :=
  if s.chans.count ≤ channel then refuseAt s .badParam 0
  else match ringAt s channel with
  | none => refuse s .state
  | some x =>
    if r ≠ 0 then refuseAt s .badField 2
    else okDone (setDma s channel (if x.parked then { x with parked := false } else { x with kick := true }))

/-- DMA_KICK. -/
def execDmaKick (h : CmdHdr) (channel r : Nat) (s : State) : Host.Outcome State Fault Refusal :=
  .next (runCommand h 0x0106 (cmdDmaKick channel r) s)

/-- The address of a ring's descriptor. -/
def ringDesc (x : DmaChan) : Nat := x.ringBase + 64 * x.head

/-- The work identifier of a ring descriptor (R466). -/
def ringWork (channel idx : Nat) : Nat := 2 ^ 31 + channel * 2 ^ 21 + idx % 4096 * 512

/-- The work identifier of a node (R466). -/
def nodeWork (f n : Nat) : Nat := f % 65536 * 32768 + n

/-- A ring channel halts (R332): DMA_ERROR names the channel, HEAD and the status. DEDUCED: log entry 18. -/
def ringHalt (s : State) (channel : Nat) (x : DmaChan) (st : Status) : State :=
  postEvent (setDma s channel { x with running := false, parked := false, kick := false, stopping := false, run := none })
    0x0102 2 x.engine
    (leBytes 2 channel ++ leBytes 2 (statusCode st) ++ leBytes 4 x.head ++ leBytes 1 0xFF ++ [0] ++ leBytes 2 0xFFFF)

/-- A tensor descriptor that a ring descriptor names, read in the channel's domain (R323, R511). DEDUCED: log entry 18. -/
def readTd (s : State) (x : DmaChan) (a off : Nat) : State × Option (Status × Nat) × List Byte :=
  let (s, st, bs) := readStruct s 2 x.engine x.dom a 128
  (s, if st = .ok then none else some (st, off), bs)

/-- A ring channel reads HEAD: it parks, or checks the descriptor and begins the move (R326, R330). -/
def ringStart (s : State) (channel : Nat) (x : DmaChan) : State :=
  let (s, st, d) := readStruct s 2 x.engine x.dom (ringDesc x) 64
  if st ≠ .ok then ringHalt s channel x st
  else if ! bitAt (fieldAt d 0 1) 0 then setDma s channel { x with parked := true, kick := false }
  else
    let s := emitTrace s 2 x.engine false 0 (ringWork channel x.head) []
    let r := { runIdle none x.head 0 s.time with desc := d }
    match (descFields d).or (descAligned d) with
    | some (st, _) => failMove (setDma s channel { x with run := some r }) channel r st
    | none =>
      let (s, e1, src) := readTd s x (fieldAt d 8 8) 8
      let (s, e2, dst) := match e1 with
        | some e => (s, some e, [])
        | none => readTd s x (fieldAt d 16 8) 16
      let r := { r with src := src, dst := dst }
      let s := setDma s channel { x with run := some r }
      match e2 with
      | some (st, _) => failMove s channel r st
      | none =>
        match moveCheck s x.dom (fieldAt d 1 1) (fieldAt d 4 4) (bitAt (fieldAt d 0 1) 2) (tdesc src) (tdesc dst) with
        | some (st, _) => failMove s channel r st
        | none => match moverAt s channel with
          | some m => beginMove s channel m r
          | none => s

/-- The descriptor as written back (R331): OWN 0, STATUS, BYTES, OOB, T_DONE. -/
def writtenBack (d : List Byte) (st : Status) (bytes oob t : Nat) : List Byte :=
  leBytes 1 (fieldAt d 0 1 / 2 * 2) ++ bytesAt d 1 1 ++ leBytes 2 (statusCode st) ++ bytesAt d 4 44 ++
  leBytes 4 (satTo 32 bytes) ++ leBytes 4 oob ++ leBytes 8 t

/-- A ring descriptor ends (R331, R332, R333). DEDUCED: log entry 18. DEDUCED: log entry 62. -/
def ringEnd (s : State) (channel : Nat) (x : DmaChan) (r : DmaRun) : State :=
  let st := endStatus x.stopping r
  let s := travelMismatch s 2 x.engine r.mism 0xFF r.firstBad
  let s := (writeLocal s x.dom (ringDesc x) (writtenBack r.desc st r.bytes (oobWord r) s.time) false).1
  let s := emitTrace s 2 x.engine false 1 (ringWork channel x.head)
    [(satTo 32 r.bytes, oobWord r, statusCode st, 0, 1)]
  let x' := { x with head := (x.head + 1) % 2 ^ x.ringLog, run := none }
  let s := setDma s channel x'
  let s := if bitAt (fieldAt r.desc 0 1) 1 then
    postEvent s 0x0101 2 x.engine (leBytes 2 channel ++ leBytes 2 (statusCode st) ++ leBytes 4 x.head) else s
  if x.stopping then
    let s := if goesOn st then setDma s channel { x' with running := false, stopping := false } else ringHalt s channel x' st
    answer s (.dmaStop channel) .ok (leBytes 4 x'.head)
  else if goesOn st then s
  else ringHalt s channel x' st

/-! ### Graph DMA nodes (R334 to R336) -/

/-- Descriptor bytes of a node in the descriptor store. -/
def nodeDesc (s : State) (n : Nat) : List Byte :=
  match tabGet? s.nodes n with
  | none => []
  | some x => (List.range x.descLen).flatMap (fun i => padTo 64 (tabGet [] s.descs (x.desc + i)))

/-- A tensor descriptor with its BASE moved. -/
def withBase (td : List Byte) (base : Nat) : List Byte := overlay td 8 (leBytes 8 base)

/-- A watch selects a run of a node at f (R481). -/
def watchSelects (w : Watch) (n f : Nat) : Bool := w.node == n && f % max 1 (fieldAt w.def_ 6 2) == 0

/-- The node's unit has finished its run; the watches that select the iteration have still to read (R482, R484). -/
def nodeUnitDone (s : State) (n : Nat) : State :=
  let s' := { s with nodes := tabModify n (fun x => { x with run := x.run.map (fun r => { r with unitDone := true }) }) s.nodes }
  match (tabGet? s.nodes n).bind (fun x => x.run) with
  | none => s'
  | some r => { s' with watches := s'.watches.map (fun e =>
      if watchSelects e.2 n r.f then (e.1, { e.2 with pending := e.2.pending ++ [(n, r.f)] }) else e) }

/-- The next descriptor of a node starts with its tensor descriptors at iteration f (R334, R335). Its checks were made at
GRAPH_LOAD (R326); each access is checked as it arrives. -/
def nodeDescStart (s : State) (channel : Nat) (_ : DmaChan) (r : DmaRun) (n : Nat) : State :=
  match tabGet? s.nodes n with
  | none => s
  | some nd =>
    match tabGet? s.graphs nd.graph with
    | none => s
    | some g =>
      let hd := nodeDesc s n
      let d := bytesAt hd (64 * (r.index + 1)) 64
      let slot := fun (log pitch : Nat) => (r.f % 2 ^ fieldAt hd log 1) * fieldAt hd pitch 4
      let src := (g.tensors[fieldAt d 8 2]?).getD []
      let dst := (g.tensors[fieldAt d 16 2]?).getD []
      let src := withBase src (fieldAt src 8 8 + slot 2 4)
      let dst := withBase dst (fieldAt dst 8 8 + slot 3 8)
      let r := { r with desc := d, src := src, dst := dst }
      match moverAt s channel with
      | none => s
      | some m => beginMove s channel m r

/-- The end trace record of a DMA node (R335, R465). -/
def nodeTraceEnd (s : State) (x : DmaChan) (r : DmaRun) (n : Nat) (st : Status) : State :=
  emitTrace s 2 x.engine false 1 (nodeWork r.f n)
    [(satTo 32 r.totalBytes, r.totalOob, statusCode st, 0, r.descDone)]

/-- A node's descriptor ends: the next one follows, the node's unit finishes, or the node ends in error (R335, R336). -/
def nodeDescEnd (s : State) (channel : Nat) (x : DmaChan) (r : DmaRun) (n : Nat) : State :=
  let st := endStatus x.stopping r
  let s := travelMismatch s 2 x.engine r.mism 0xFF r.firstBad
  let r := { r with busy := false, index := r.index + 1, totalBytes := r.totalBytes + r.bytes,
                    totalOob := oobSum r.totalOob r, descDone := r.descDone + (if goesOn st then 1 else 0) }
  if x.stopping then
    nodeTraceEnd (setDma s channel { x with run := none, stopping := false }) x r n .stopped
  else if ! goesOn st then
    let g := (tabGet? s.nodes n).elim 0 (fun nd => nd.graph)
    let s := nodeTraceEnd (setDma s channel { x with run := none }) x r n st
    raiseDoubt s 0x0102 2 x.engine (leBytes 2 channel ++ leBytes 2 (statusCode st) ++ leBytes 4 r.f ++ leBytes 1 g ++ [0] ++
      leBytes 2 n) rowGraph kindGraph g
  else if r.index < fieldAt (nodeDesc s n) 1 1 then setDma s channel { x with run := some r }
  else nodeUnitDone (nodeTraceEnd (setDma s channel { x with run := none }) x r n st) n

/-- A node's channel when its graph stops (R336): the descriptor in progress ends, or the node ends between two. -/
def stopNodeRun (s : State) (channel : Nat) : State :=
  match tabGet? s.dma channel, moverAt s channel with
  | some x, some m => match x.run with
    | some r => match r.node with
      | some n =>
        if r.busy then
          let s := stopMove s channel m r false
          (match tabGet? s.dma channel with
           | some x => setDma s channel { x with stopping := true }
           | none => s)
        else nodeTraceEnd (setDma s channel { x with run := none }) x r n .stopped
      | none => s
    | none => s
  | _, _ => s

/-! ### The steps of a channel -/

/-- A channel finds its next descriptor and begins, or parks (R326, R330, R335). -/
def doDmaDescriptorStart (channel : Nat) (s : State) : State :=
  match tabGet? s.dma channel with
  | none => s
  | some x =>
    if ! x.running || ! engineRuns s x.engine || x.stopping then s
    else match x.run with
      | none => if x.ring && ! x.parked then ringStart s channel x else s
      | some r => match r.node with
        | some n => if r.busy then s else nodeDescStart s channel x r n
        | none => s

/-- DMA_DESCRIPTOR_START (R326). -/
def execDmaDescriptorStart (channel : Nat) (ecc : List EccHit) (s : State) : Host.Outcome State Fault Refusal :=
  .next (doDmaDescriptorStart channel (plant ecc s))

/-- The granule whose read returns next. DEDUCED: log entry 70. -/
def moveReads (r : DmaRun) (g : Nat) : Bool := r.todo.head? == some g

/-- A local read of the move in progress returns, with the ECC errors it met (R338, R402). -/
def doDmaReadReturn (channel : Nat) (s : State) : State :=
  match runAt s channel, moverAt s channel with
  | some r, some m =>
    if r.busy && decide (0 < r.reads) && ! isRemote s (tdesc r.src) && engineRuns s m.engine then
      localReturn (meet (moveReads r) s) channel m r
    else s
  | _, _ => s

/-- DMA_READ_RETURN (R338). -/
def execDmaReadReturn (channel : Nat) (ecc : List EccHit) (s : State) : Host.Outcome State Fault Refusal :=
  .next (doDmaReadReturn channel (plant ecc s))

/-- The descriptor in progress has ended (R331, R335). -/
def doDmaDescriptorEnd (channel : Nat) (s : State) : State :=
  match tabGet? s.dma channel with
  | none => s
  | some x =>
    match x.run with
    | none => s
    | some r =>
      if ! moveEnded x.stopping r || ! engineRuns s x.engine then s
      else match r.node with
        | none => ringEnd s channel x r
        | some n => nodeDescEnd s channel x r n

/-- DMA_DESCRIPTOR_END (R331). -/
def execDmaDescriptorEnd (channel : Nat) (s : State) : Host.Outcome State Fault Refusal :=
  .next (doDmaDescriptorEnd channel s)

/-! ### Streams (R344 to R347) -/

/-- The destination slot of block j. -/
def streamSlot (x : StreamSt) (f0 j : Nat) : Nat := (f0 + j) % 2 ^ x.nbufLog

/-- The source BASE of block j (R344, R346). -/
def streamBase (x : StreamSt) (j : Nat) : Nat :=
  let (base, k) := match x.rearms.find? (fun e => decide (e.1 ≤ j)) with
    | some (ja, b) => (b, j - ja)
    | none => (fieldAt x.srcTd 8 8, j)
  let k := if x.srcWrap = 0 then k else k % x.srcWrap
  unsignedOf 64 ((base : Int) + k * signedOf 64 x.srcStep)

/-- F0 of a stream's lane. -/
def streamF0 (s : State) (x : StreamSt) : Option Nat :=
  match tabGet? s.graphs x.graph with
  | none => none
  | some g => match g.lanes[x.lane]? with
    | none => none
    | some l => if l.fNext.isSome then some l.f0 else none

/-- The synthetic descriptor of a block. -/
def streamDesc (x : StreamSt) : List Byte :=
  leBytes 1 (bit01 x.wcache * 4) ++ leBytes 1 x.kind ++ leBytes 2 0 ++ leBytes 4 x.perm ++ List.replicate 56 0

/-- The work identifier of a block (R466). -/
def blockWork (x : StreamSt) (j : Nat) : Nat := ringWork x.chan j

/-- A block starts when its slot's flag is clear (R344, R345). -/
def doStreamBlockStart (stream : Nat) (s : State) : State :=
  match tabGet? s.streams stream with
  | none => s
  | some x =>
    match streamF0 s x with
    | none => s
    | some f0 =>
      let slot := streamSlot x f0 x.next
      if ! x.active || x.halted || x.cancelling || x.run.isSome || ! engineRuns s x.engine ||
          flagIsSet (flagOf s (x.flag0 + slot)) then s
      else
        let src := withBase x.srcTd (streamBase x x.next)
        let dst := withBase x.dstTd (fieldAt x.dstTd 8 8 + slot * x.dstPitch)
        match moveCheck s x.dom x.kind x.perm x.wcache (tdesc src) (tdesc dst) with
        | some (st, _) =>
          raiseDoubt (setStream s stream { x with halted := true }) 0x0103 2 x.engine
            (leBytes 2 stream ++ leBytes 2 (statusCode st) ++ leBytes 4 x.next) rowGraph kindGraph x.graph
        | none =>
          let s := emitTrace s 2 x.engine false 0 (blockWork x x.next) []
          let r := { runIdle none x.next (f0 + x.next) s.time with desc := streamDesc x, src := src, dst := dst }
          let s := setStream s stream { x with run := some r }
          match moverAt s x.chan with
          | some m => beginMove s x.chan m r
          | none => s

/-- STREAM_BLOCK_START (R344). -/
def execStreamBlockStart (stream : Nat) (s : State) : Host.Outcome State Fault Refusal :=
  .next (doStreamBlockStart stream s)

/-- A block's writes have completed: SET(F0 + j) on its slot's flag; a refused access halts the stream (R344, R345). -/
def doStreamBlockDone (stream : Nat) (s : State) : State :=
  match tabGet? s.streams stream with
  | none => s
  | some x =>
    match x.run with
    | none => s
    | some r =>
      if ! moveEnded x.cancelling r || x.cancelling || ! engineRuns s x.engine then s
      else
        let st := endStatus false r
        let s := travelMismatch s 2 x.engine r.mism 0xFF r.firstBad
        let s := emitTrace s 2 x.engine false 1 (blockWork x r.index) [(satTo 32 r.bytes, oobWord r, statusCode st, 0, 1)]
        if ! goesOn st then
          raiseDoubt (setStream s stream { x with run := none, halted := true }) 0x0103 2 x.engine
            (leBytes 2 stream ++ leBytes 2 (statusCode st) ++ leBytes 4 r.index) rowGraph kindGraph x.graph
        else
          let slot := r.f % 2 ^ x.nbufLog
          flagSet (setStream s stream { x with run := none, next := r.index + 1, unread := tabSet slot r.bytes x.unread })
            (x.flag0 + slot) r.f

/-- STREAM_BLOCK_DONE (R344). -/
def execStreamBlockDone (stream : Nat) (s : State) : Host.Outcome State Fault Refusal := .next (doStreamBlockDone stream s)

/-- Bytes of the blocks that their consumers have not fully released (R347). -/
def unreadBytes (s : State) (x : StreamSt) : Nat :=
  x.unread.foldl (fun n e => n + (if flagIsSet (flagOf s (x.flag0 + e.1)) then e.2 else 0)) 0

/-- Bytes of a block whose data has been written and whose end has not been reported: no consumer has released them. -/
def blockBytesDone (x : StreamSt) : Nat := x.run.elim 0 (fun r => if r.written then r.bytes else 0)

/-- A stream of a stopped graph is cancelled: no further read is issued (R347). -/
def cancelStream (s : State) (stream : Nat) (x : StreamSt) : State :=
  let n := unreadBytes s x + blockBytesDone x
  let s := setStream s stream { x with cancelling := true, discard := n }
  match x.run, moverAt s x.chan with
  | some r, some m => stopMove s x.chan m r true
  | _, _ => s

/-- The last tag of a cancelled stream is free (R347). -/
def doStreamCancelled (stream : Nat) (s : State) : State :=
  match tabGet? s.streams stream with
  | none => s
  | some x =>
    let reads := x.run.elim 0 (fun r => r.reads + r.writes)
    if ! x.cancelling || reads != 0 then s
    else
      let s := bump s 2 x.engine 6 x.discard
      let s := setStream s stream { x with
        cancelling := false, active := false, halted := false, run := none, next := 0, discard := 0, unread := [] }
      postEvent s 0x0104 2 x.engine (leBytes 2 stream ++ leBytes 2 0 ++ leBytes 8 x.discard)

/-- STREAM_CANCELLED (R347). -/
def execStreamCancelled (stream : Nat) (s : State) : Host.Outcome State Fault Refusal := .next (doStreamCancelled stream s)

/-- STREAM_REARM (R346): LATE when block JA or a later one has started. -/
def cmdStreamRearm (h : CmdHdr) (stream r ja base : Nat) (s : State) : State × CmdRes :=
  match tabGet? s.streams stream with
  | none => refuse s .state
  | some x =>
    if r ≠ 0 then refuseAt s .badField 2
    else if x.dom ≠ h.domain then refuse s .denied
    else if ja < x.next ∨ (x.run.isSome ∧ ja ≤ x.next) then refuse s .late
    else okDone (setStream s stream { x with rearms := (ja, base) :: x.rearms })

/-- STREAM_REARM. -/
def execStreamRearm (h : CmdHdr) (stream r ja base : Nat) (s : State) : Host.Outcome State Fault Refusal :=
  .next (runCommand h 0x0107 (cmdStreamRearm h stream r ja base) s)

end Sys2Proof.Machine
end

