-- ==== Sys2Proof/Machine/Lanes.lean ====
section
/-! DEFINITION. The lanes of a link port: how a flit's bytes are spread over them (R351), the scramblers (R352), and lane
order and polarity (R355). The command rows carry flits; this is what they are on the balls. -/

namespace Sys2Proof.Machine

open Sys2Proof

/-! ### Flits as bytes -/

/-- The 40 bytes of a flit (table *Flit*). -/
def flitBytes (x : Flit) : List Byte := leBytes 4 (flitWord x.kind x.vc x.seq x.check) ++ padTo 32 x.payload ++ leBytes 4 x.crc

/-- The flit of 40 bytes. -/
def flitOf (bs : List Byte) : Flit :=
  { kind := bitsAt (fieldAt bs 0 4) 29 3, vc := bitsAt (fieldAt bs 0 4) 27 2, seq := bitsAt (fieldAt bs 0 4) 16 11,
    check := bitsAt (fieldAt bs 0 4) 0 16, payload := bytesAt bs 4 32, crc := fieldAt bs 36 4 }

/-- The bytes of a flit that lane `l` carries: l, l + 4, …, l + 36 (R351). -/
def laneBytes (flit : List Byte) (l : Nat) : List Byte := (List.range 10).map (fun i => flit.getD (l + 4 * i) 0)

/-- The bits of a byte, least significant first (R351). -/
def byteBits (b : Byte) : List Bool := (List.range 8).map b.getLsbD

/-- The byte of eight bits, least significant first. -/
def bitsByte (bs : List Bool) : Byte := byteOf (bs.foldr (fun b n => bit01 b + 2 * n) 0)

/-- The 80 bits that lane `l` carries for a flit. -/
def laneBits (flit : List Byte) (l : Nat) : List Bool := (laneBytes flit l).flatMap byteBits

/-- The flit whose lanes carry these bits. -/
def joinLanes (lanes : List (List Bool)) : List Byte :=
  (List.range 40).map (fun i => bitsByte (((lanes.getD (i % 4) []).drop (8 * (i / 4))).take 8))

/-! ### Scramblers (R352) -/

/-- The next bit of x^31 + x^28 + 1 and the state after it. DESIGN CHOICE: log entry 76. -/
def prbs31Step (g : Nat) : Bool × Nat :=
  let n := ((g >>> 30) ^^^ (g >>> 27)) % 2
  (n == 1, (g * 2 + n) % 2 ^ 31)

/-- The generator after `n` unit intervals. -/
def prbs31Run : Nat → Nat → Nat
  | 0, g => g
  | n + 1, g => prbs31Run n (prbs31Step g).2

/-- The seed of a transmitter's lane (R352). -/
def laneSeed (l : Nat) : Nat := 0x7FFFFFFF ^^^ (l * 0x01111111)

/-- Bits XORed with the generator's output; the same operation scrambles and descrambles. -/
def scrambleBits : Nat → List Bool → List Bool
  | _, [] => []
  | g, b :: bs => (b ^^ (prbs31Step g).1) :: scrambleBits (prbs31Step g).2 bs

/-- Unit intervals between two moments: 53.125 Gb/s is 425 in 32 ticks (R350). -/
def uiBetween (t0 t : Nat) : Nat := (t - t0) * 425 / 32

/-- The state of a lane's transmit generator: it runs on every unit interval since it was seeded. DESIGN CHOICE: log entry 76. -/
def txGen (p : LinkPort) (l now : Nat) : Nat := prbs31Run (uiBetween p.scrAt now) (laneSeed l)

/-- The state of a lane's receive generator, from the bits it loaded during ALIGN. -/
def rxGenNow (p : LinkPort) (l now : Nat) : Nat := prbs31Run (uiBetween p.rxGenAt now) (nth p.rxGen l)

/-- What a receiver loads from 31 received bits of an all-zero payload: they are the generator's last 31 outputs, the oldest
first. DESIGN CHOICE: log entry 76. -/
def loadGen (bits : List Bool) : Nat := (bits.take 31).foldl (fun g b => (g * 2 + bit01 b) % 2 ^ 31) 0

/-! ### Lane order and polarity (R351, R355) -/

/-- The logical lane that a physical lane carries. DESIGN CHOICE: log entry 76. -/
def laneOf (p : LinkPort) (k : Nat) : Nat := if p.reverse then 3 - k else k

/-- Bits inverted where the polarity of a physical lane says so. -/
def applyPol (pol k : Nat) (bits : List Bool) : List Bool := bits.map (fun b => b ^^ bitAt pol k)

/-- The bits of a flit on a physical transmit lane. -/
def txLane (p : LinkPort) (now : Nat) (x : Flit) (k : Nat) : List Bool :=
  applyPol p.txPol k (scrambleBits (txGen p (laneOf p k) now) (laneBits (flitBytes x) (laneOf p k)))

/-- The flit that four physical receive lanes carry. -/
def rxFlit (p : LinkPort) (now : Nat) (lanes : List (List Bool)) : Flit :=
  flitOf (joinLanes ((List.range 4).map (fun l =>
    scrambleBits (rxGenNow p l now) (applyPol p.rxPol (laneOf p l) (lanes.getD (laneOf p l) [])))))

/-- What the four receivers load from the bits on their physical lanes. -/
def loadLanes (p : LinkPort) (lanes : List (List Bool)) : List Nat :=
  (List.range 4).map (fun l => loadGen (applyPol p.rxPol (laneOf p l) (lanes.getD (laneOf p l) [])))

end Sys2Proof.Machine
end

