-- ==== Sys2Proof/Machine/Link.lean ====
section
/-! DEFINITION. A port's training, receiver, replay and loss (R356 to R373), and the transactions that arrive (R375 to
R389). -/

namespace Sys2Proof.Machine

open Sys2Proof

/-! ### Training (R356, R357) -/

/-- A port's island runs. -/
def portClock (s : State) (p : Nat) : Bool := decide (p < 12) && islandRuns s (51 + p / 4)

/-- The number of a port state in the order of R356. -/
def lstateIdx : LState → Nat
  | .disabled => 0
  | .detect => 1
  | .eq => 2
  | .align => 3
  | .config => 4
  | .active => 5
  | .lost => 6

/-- The limit of a training state, in ticks (table *Port states*). -/
def lstateLimit : LState → Option Nat
  | .eq => some 200000000
  | .align => some 8000000
  | .config => some 4000000
  | _ => none

/-- The port is in a state and within its limit. -/
def portIn (s : State) (p : Nat) (st : LState) : Bool :=
  portClock s p && (lportOf s p).st == st &&
  (match lstateLimit st with
   | some n => decide (s.time ≤ (lportOf s p).since + n)
   | none => true)

/-- The port enters a state. -/
def enterState (s : State) (p : Nat) (st : LState) : State := setLport s p { lportOf s p with st := st, since := s.time }

/-- A receiver-detect pulse (R356). -/
def doLinkDetectPulse (port : Nat) (s : State) : State :=
  if portIn s port .detect then setLport s port { lportOf s port with pulses := (lportOf s port).pulses + 1 } else s

/-- LINK_DETECT_PULSE (R356). -/
def execLinkDetectPulse (port : Nat) (s : State) : Host.Outcome State Fault Refusal := .next (doLinkDetectPulse port s)

/-- Peer terminations and signal on four lanes: EQ. -/
def doLinkPeerDetected (port : Nat) (s : State) : State := if portIn s port .detect then enterState s port .eq else s

/-- LINK_PEER_DETECTED (R356). -/
def execLinkPeerDetected (port : Nat) (s : State) : Host.Outcome State Fault Refusal := .next (doLinkPeerDetected port s)

/-- Both ends have equalised: ALIGN; the transmit scramblers run from here (R352). DESIGN CHOICE: log entry 76. -/
def doLinkEqDone (port : Nat) (s : State) : State :=
  if portIn s port .eq then
    let s := enterState s port .align
    setLport s port { lportOf s port with scrAt := s.time }
  else s

/-- LINK_EQ_DONE (R356). -/
def execLinkEqDone (port : Nat) (s : State) : Host.Outcome State Fault Refusal := .next (doLinkEqDone port s)

/-- Alignment is complete: the receivers have loaded their scramblers from 31 bits on each physical lane, the latencies are
measured, and CONFIG follows (R352, R357). DESIGN CHOICE: log entry 76. -/
def doLinkAlignDone (port txLat rxLat : Nat) (lanes : List (List Bool)) (s : State) : State :=
  if portIn s port .align then
    let s := enterState s port .config
    let l := lportOf s port
    setLport s port { l with txLat := txLat, rxLat := rxLat, rxGen := loadLanes l lanes, rxGenAt := s.time }
  else s

/-- LINK_ALIGN_DONE (R357). -/
def execLinkAlignDone (port txLat rxLat : Nat) (lanes : List (List Bool)) (s : State) : Host.Outcome State Fault Refusal :=
  .next (doLinkAlignDone port txLat rxLat lanes s)

/-- A port at the start of a training: what the channel and the measurements fixed is kept, sequence numbers, credits,
buffers and exchanges start afresh (R357). -/
def freshPort (l : LinkPort) : LinkPort :=
  { lportReset with
    st := l.st, since := l.since, chan := l.chan, timeParent := l.timeParent, reverse := l.reverse, rxPol := l.rxPol,
    txPol := l.txPol, preset := l.preset, asym := l.asym, txLat := l.txLat, rxLat := l.rxLat, pulses := l.pulses,
    replays := l.replays, replayWindow := l.replayWindow, stomps := l.stomps, crcErrs := l.crcErrs, dups := l.dups,
    thetaWindow := l.thetaWindow, scrAt := l.scrAt, rxGen := l.rxGen, rxGenAt := l.rxGenAt }

/-- Both configurations are acknowledged: ACTIVE (R357). -/
def doLinkUp (port : Nat) (peer : PeerConfig) (s : State) : State :=
  if portIn s port .config then
    let s := enterState s port .active
    let s := setLport s port { freshPort (lportOf s port) with peer := some peer }
    let s := postEvent s 0x0800 5 port (leBytes 1 port ++ [0] ++ leBytes 2 peer.id)
    if peer.id = s.inst.id ∧ peer.joined ∧ s.inst.joined then
      postEvent s 0x0803 5 port (leBytes 1 port ++ [0] ++ leBytes 2 peer.id)
    else s
  else s

/-- LINK_UP (R357). -/
def execLinkUp (port : Nat) (peer : PeerConfig) (s : State) : Host.Outcome State Fault Refusal := .next (doLinkUp port peer s)

/-- A training state is over its limit, or the peer reports a failure: DISABLED, and no further try (R356). -/
def doLinkTrainFail (port : Nat) (s : State) : State :=
  let l := lportOf s port
  if portClock s port && (l.st == .eq || l.st == .align || l.st == .config) then
    let s := setLport s port { l with st := .disabled, since := s.time, chan := none }
    postEvent s 0x0802 5 port (leBytes 1 port ++ leBytes 1 (lstateIdx l.st))
  else s

/-- LINK_TRAIN_FAIL (R356). -/
def execLinkTrainFail (port : Nat) (s : State) : Host.Outcome State Fault Refusal := .next (doLinkTrainFail port s)

/-! ### Loss (R358, R368, R369) -/

/-- The packets whose flits remain unacknowledged: those whose last flit is still held. -/
def heldPackets (l : LinkPort) : List Packet :=
  (l.replay.filter (fun h => h.flit.kind == 3 || h.flit.kind == 4)).map (·.pkt)

/-- A packet of an input that has not wholly reached an output. -/
def isOpen (p : Nat) (o : OutPkt) : Bool := o.src == p && ! o.whole

/-- The rest of a packet will not come: what waits of it at an output is discarded, and one that the output has begun ends
where it stands (log entry 10). -/
def dropOpen (s : State) (p r : Nat) : State :=
  let l := lportOf s r
  pump (setLport s r { l with outQ := l.outQ.filter (fun o => ! isOpen p o), cur := l.cur.filter (fun o => ! isOpen p o) }) r

/-- The packets held for a port: those not acknowledged, the one in progress, and those that wait. -/
def packetsFor (l : LinkPort) : List Packet := heldPackets l ++ l.cur.toList.map (·.pkt) ++ l.outQ.map (·.pkt)

/-- A port stops: a packet partly received is discarded, and every packet held for it is answered or discarded (R369).
DEDUCED: log entry 62. -/
def losePort (s : State) (p : Nat) (st : LState) : State :=
  let l := lportOf s p
  let s := setLport s p { l with st := st, since := s.time, rxPart := [], replay := [], outQ := [], cur := none,
                                 chan := if st = .disabled then none else l.chan, peer := none }
  let s := match l.rxRoute with
    | .forward r => if l.rxPart = [] then s else dropOpen s p r
    | _ => s
  (packetsFor l).foldl (fun s x => refusePacket s x 0x42) s

/-- The cause that a LINK_DOWN names holds (R368). -/
def lossCause (l : LinkPort) (cause : Nat) : Bool :=
  match cause with
  | 0 => true
  | 1 => decide (16 ≤ l.crcRun)
  | 2 => l.replay.any (fun h => decide (8 ≤ h.resent))
  | 3 => l.misaligned
  | _ => false

/-- An active port is lost (R368). -/
def doLinkDown (port cause : Nat) (s : State) : State :=
  if portIn s port .active && lossCause (lportOf s port) cause then
    losePort (raiseDoubt s 0x0801 5 port (leBytes 1 port ++ leBytes 1 cause) rowDevice kindDevice 0) port .lost
  else s

/-- LINK_DOWN (R368). -/
def execLinkDown (port cause : Nat) (s : State) : Host.Outcome State Fault Refusal := .next (doLinkDown port cause s)

/-! ### Receiver (R359 to R363, R367) -/

/-- A CTRL flit is sent: the last SEQ accepted in order, a NAK that is owed, and the totals of flits freed (R366). -/
def sendCtrl (s : State) (p : Nat) : State :=
  let l := lportOf s p
  let m : CtrlMsg :=
    { ack := (l.rxExp + 2047) % 2048,
      ackValid := l.ackOwed || (match l.lastCtrl with
        | some c => c.ackValid
        | none => false),
      nak := if l.nakOwed then l.rxExp else 0, nakPresent := l.nakOwed, cred := l.freed }
  bump (setLport s p { l with lastCtrl := some m, ackOwed := false, nakOwed := false }) 5 p 0 1

/-- A sequence number is newer than another, at 11 bits (R367). -/
def seqNewer (a b : Nat) : Bool :=
  let d := (a + 2048 - b) % 2048
  decide (1 ≤ d) && decide (d ≤ 1023)

/-- A request is answered on the port it came by (R378, R386, R389). -/
def answerOn (s : State) (p : Nat) (x : Packet) (status : Nat) : State :=
  if (lportOf s p).st = .active then enqueueAt s p 12 (responseTo s x status) else s

/-- The device has left its boot ROM and is part of an installation (R378). After FW_HALT the hardware still answers (R66). -/
def takesRequests (s : State) : Bool := s.boot.fwReady && s.inst.joined

/-- The types that a device takes by hop: the boot relay's, and ID_ASSIGN. -/
def hopLocal (x : Packet) : Bool := bitAt x.pflags 0

/-- Where a head sends its packet (R362, R372, R373, R378). -/
def routeHead (s : State) (x : Packet) : RxRoute :=
  if hopLocal x || (s.inst.joined && x.dst == s.inst.id) then .here
  else if ! takesRequests s then .refused 0x46
  else if 32 < x.hops + 1 then .refused 0x44
  else if 12 ≤ routeOf s x.dst then .refused 0x43
  else if (lportOf s (routeOf s x.dst)).st ≠ .active then .refused 0x42
  else .forward (routeOf s x.dst)

/-- A head goes to the output that its packet leaves by, with 1 added to HOPS and its own head check (R362, R373).
DEDUCED: log entry 10. -/
def openAt (s : State) (r p : Nat) (x : Flit) : State :=
  let h := x.payload.set 15 (byteOf (fieldAt x.payload 15 1 + 1))
  let o : OutPkt := { pkt := packetOf h [] [], vc := x.vc, src := p, flits := [(x.kind, headCheck h, h)], whole := x.kind == 4 }
  let l := lportOf s r
  pump (setLport s r { l with outQ := l.outQ ++ [o] }) r

/-- A packet at an output with one more of its flits. -/
def extendPkt (p : Nat) (f : Nat × Nat × List Byte) (o : OutPkt) : OutPkt :=
  if isOpen p o then { o with flits := o.flits ++ [f], whole := f.1 == 3 } else o

/-- A data flit goes to the output that its packet leaves by; when that output has given the packet up, its space is freed.
DEDUCED: log entry 10. -/
def extendAt (s : State) (r p vc : Nat) (f : Nat × Nat × List Byte) : State :=
  let l := lportOf s r
  if l.cur.any (isOpen p) || l.outQ.any (isOpen p) then
    pump (setLport s r { l with cur := l.cur.map (extendPkt p f), outQ := l.outQ.map (extendPkt p f) }) r
  else freeFlits s p vc 1

/-- The CHECK with which a granule goes on: its code, or a poisoned one where the code fails (R189, R376). -/
def passCode (g : List Byte) (code : Nat) : Nat :=
  if tc g = code ∨ (tc g ^^^ poisonMark) = code then code else tc g ^^^ poisonMark

/-- The CHECK of a data flit as it goes on: the second flit of a granule carries its code. `part` are the flits before it. -/
def dataCheck (part : List Flit) (x : Flit) : Nat :=
  if part.length % 2 = 0 then passCode ((part.getLast?.elim [] (·.payload)) ++ x.payload) x.check else x.check

/-- The granules and codes of a packet's data flits. -/
def granPairs : List Flit → List (List Byte) × List Nat
  | a :: b :: t =>
    let (gs, cs) := granPairs t
    ((a.payload ++ b.payload) :: gs, b.check :: cs)
  | _ => ([], [])

/-- The packet of received flits, failing granules poisoned, and the number of failing granules (R189, R376). -/
def packetIn (h : Flit) (data : List Flit) : Packet × Nat :=
  let (gs, cs) := granPairs data
  let pairs := gs.zip cs
  (packetOf h.payload gs (pairs.map (fun e => passCode e.1 e.2)),
   (pairs.filter (fun e => passCode e.1 e.2 != e.2)).length)

/-- The last flit of a packet has been accepted: its failing granules are reported, and it is taken, answered or discarded,
unless it has gone on (R369, R372, R373, R376, R378). -/
def packetDone (s : State) (p : Nat) (rt : RxRoute) (h : Flit) (data : List Flit) : State :=
  let n := data.length + 1
  let (x, bad) := packetIn h data
  let s := if rt = .dropped then s else travelMismatch s 5 p bad p (if bad = 0 then 0 else x.addr)
  match rt with
  | .here => deliver (emitTrace (freeFlits s p h.vc n) 5 p false 7 (linkArg x) (linkExt x x.src)) x
  | .forward _ => s
  | .refused st =>
    let s := freeFlits s p h.vc n
    if st = 0x46 then (if expectsRsp x then answerOn s p x st else countDiscard s) else refusePacket s x st
  | .dropped => freeFlits s p h.vc n

/-- What an input holds of a packet whose rest does not come is given up (log entry 10). -/
def dropPart (s : State) (p : Nat) : State :=
  let l := lportOf s p
  match l.rxPart, l.rxRoute with
  | [], _ => s
  | _, .forward r => dropOpen s p r
  | h :: t, _ => freeFlits s p h.vc (t.length + 1)

/-- A HEAD or SINGLE flit is accepted: its check decides whether the packet goes on, and its route where (R360, R362, R376). -/
def acceptHead (s : State) (p : Nat) (x : Flit) : State :=
  let s := dropPart s p
  let good := headCheck x.payload == x.check
  let rt := if good then routeHead s (packetOf x.payload [] []) else .dropped
  let s := if good then s else raiseDoubt s 0x0805 5 p (leBytes 1 p) rowDevice kindDevice 0
  let s := setLport s p { lportOf s p with rxPart := if x.kind = 4 then [] else [x], rxRoute := rt }
  let s := match rt with
    | .forward r => openAt s r p x
    | _ => s
  if x.kind = 4 then packetDone s p rt x [] else s

/-- A BODY or LAST flit is accepted (R360, R362); one that follows no head is discarded. -/
def acceptData (s : State) (p : Nat) (x : Flit) : State :=
  let l := lportOf s p
  match l.rxPart with
  | [] => freeFlits s p x.vc 1
  | h :: t =>
    let s := setLport s p { l with rxPart := if x.kind = 3 then [] else l.rxPart ++ [x] }
    let s := match l.rxRoute with
      | .forward r => extendAt s r p h.vc (x.kind, dataCheck l.rxPart x, x.payload)
      | _ => s
    if x.kind = 3 then packetDone s p l.rxRoute h (t ++ [x]) else s

/-- A flit whose check fails has begun to leave where its output was free for it: it leaves stomped, and takes no sequence
number, credit or place (R362). -/
def stompOut (s : State) (p : Nat) (x : Flit) : State :=
  let l := lportOf s p
  let out := if x.kind = 1 ∨ x.kind = 4 then routeHead s (packetOf x.payload [] []) else if l.rxPart = [] then .here else l.rxRoute
  match out with
  | .forward r =>
    let o := lportOf s r
    let idle := match o.cur with
      | none => (x.kind == 1 || x.kind == 4) && (nextPacket o).isNone
      | some c => (x.kind == 2 || x.kind == 3) && isOpen p c && c.flits == []
    if idle && canSend o x.vc then bump s 5 r 0 1 else s
  | _ => s

/-- A flit of a packet in sequence is accepted (R367). -/
def acceptFlit (s : State) (p : Nat) (x : Flit) : State :=
  let l := lportOf s p
  let s := setLport s p { l with rxExp := (l.rxExp + 1) % 2048, nakSent := false, ackOwed := true, crcRun := 0 }
  if x.kind = 1 ∨ x.kind = 4 then acceptHead s p x else acceptData s p x

/-- A flit whose CRC fails (R361, R366, R367): it is discarded and counted, a CTRL flit leaves at once, and it carries a NAK
for the first failure of a sequenced flit. DEDUCED: log entry 62. -/
def failFlit (s : State) (p : Nat) (x : Flit) : State :=
  let l := lportOf s p
  let s := bump (setLport s p { l with crcErrs := l.crcErrs + 1, crcRun := l.crcRun + 1 }) 5 p 5 1
  let sequenced := decide (1 ≤ x.kind) && decide (x.kind ≤ 4)
  let s := if sequenced then stompOut s p x else s
  let l := lportOf s p
  sendCtrl (if sequenced && ! l.nakSent then setLport s p { l with nakSent := true, nakOwed := true } else s) p

/-! ### Transmitter (R366, R367) -/

/-- Held flits are sent again: counted, and the first in each counter window raises LINK_REPLAY (R367). -/
def resendAll (s : State) (p : Nat) : State :=
  let l := lportOf s p
  if l.replay = [] then s
  else
    let w := windowOf s.time
    let l' := { l with replay := l.replay.map (fun h => { h with resent := h.resent + 1 }), replays := l.replays + 1,
                       replayWindow := some w }
    let s := bump (bump (setLport s p l') 5 p 3 1) 5 p 0 l.replay.length
    if l.replayWindow = some w then s
    else postEvent s 0x0804 5 p (leBytes 1 p ++ leBytes 3 0 ++ leBytes 4 (satTo 32 l'.replays))

/-- A CTRL flit's contents: acknowledgements free held flits, a NAK resends the rest, credits let more leave (R367). -/
def receiveCtrl (s : State) (p : Nat) (m : CtrlMsg) : State :=
  let l := lportOf s p
  let r := if m.ackValid then l.replay.filter (fun h => seqNewer h.flit.seq m.ack) else l.replay
  let r := if m.nakPresent then r.filter (fun h => h.flit.seq == m.nak || seqNewer h.flit.seq m.nak) else r
  let s := setLport (bump s 5 p 1 1) p { l with replay := r, credSeen := m.cred, crcRun := 0 }
  pump (if m.nakPresent then resendAll s p else s) p

/-- CTRL_RECEIVE, on an active port. -/
def doCtrlReceive (port : Nat) (m : CtrlMsg) (s : State) : State := if portIn s port .active then receiveCtrl s port m else s

/-- CTRL_RECEIVE (R367). -/
def execCtrlReceive (port : Nat) (m : CtrlMsg) (s : State) : Host.Outcome State Fault Refusal := .next (doCtrlReceive port m s)

/-- The replay timer of the oldest held flit runs out (R367). -/
def doReplayTimer (port : Nat) (s : State) : State := if portIn s port .active then resendAll s port else s

/-- REPLAY_TIMER (R367). -/
def execReplayTimer (port : Nat) (s : State) : Host.Outcome State Fault Refusal := .next (doReplayTimer port s)

/-- Acknowledgements or credits are owed (R365). -/
def ctrlOwed (l : LinkPort) : Bool :=
  l.ackOwed || l.nakOwed || decide (l.freed ≠ (match l.lastCtrl with
    | some c => c.cred
    | none => [0, 0, 0, 0]))

/-- CTRL_FLIT_SEND, while something is owed. -/
def doCtrlFlitSend (port : Nat) (s : State) : State :=
  if portIn s port .active && ctrlOwed (lportOf s port) then sendCtrl s port else s

/-- CTRL_FLIT_SEND (R365). -/
def execCtrlFlitSend (port : Nat) (s : State) : Host.Outcome State Fault Refusal := .next (doCtrlFlitSend port s)

/-! ### Requests that arrive (R378, R382 to R389) -/

/-- The request leaves the queue of packets that have reached the mesh. -/
def takePacket (s : State) (p : Packet) : State := { s with inst := { s.inst with arrived := s.inst.arrived.erase p } }

/-- A response goes back to the requester. DEDUCED: log entry 9. -/
def reply (s : State) (p : Packet) (status : Nat) : State := routePosted s 12 (responseTo s p status)

/-- A request at its target: NOT_READY for a device in its boot ROM or not joined, posted ones discarded (R378). -/
def serve (p : Packet) (s : State) (f : State → State) : State :=
  let s := takePacket s p
  if takesRequests s then f s else if expectsRsp p then reply s p 0x46 else countDiscard s

/-- A window as a request finds it. -/
def windowAt (s : State) (w : Nat) : Option Window := tabGet? s.inst.windows w

/-- The state with a window set. -/
def setWindow (s : State) (w : Nat) (x : Window) : State :=
  { s with inst := { s.inst with windows := tabSet w x s.inst.windows } }

/-- The bytes that a packet writes, as (address, byte), with the granules whose code is not good (R375, R376). -/
def packetCells (p : Packet) : List (Nat × Byte) × List Nat :=
  let base := p.addr / 64 * 64
  let n := p.data.length
  let on := fun (k : Nat) =>
    if n ≤ 1 then bitAt p.be k
    else decide (bitsAt p.be 0 6 ≤ k) && decide (k ≤ 64 * (n - 1) + bitsAt p.be 8 6)
  let bytes := p.data.flatMap (padTo 64)
  (((List.range bytes.length).zip bytes).filterMap (fun e => if on e.1 then some (base + e.1, e.2) else none),
   (((List.range n).zip (p.data.zip p.codes)).filter (fun e => tc e.2.1 != e.2.2)).map (fun e => granOf base + e.1))

/-- The lowest address and the length of cells. -/
def cellSpan (cs : List (Nat × Byte)) : Nat × Nat :=
  match cs.head?, cs.getLast? with
  | some a, some b => (a.1, b.1 + 1 - a.1)
  | _, _ => (0, 0)

/-- A WRITE with an old epoch, or to a closed window: one event per source and window in each counter window (R383). -/
def closedEvent (s : State) (p : Packet) (w : Window) : State :=
  let k := windowOf s.time
  if w.closedSeen.contains (p.src, k) then setWindow s p.win { w with closedCount := w.closedCount + 1 }
  else
    let s := setWindow s p.win { w with closedSeen := (p.src, k) :: w.closedSeen.filter (fun e => e.2 == k) }
    postEvent s 0x0806 13 0 (leBytes 1 p.win ++ [0] ++ leBytes 2 p.src ++ leBytes 2 p.epoch ++ leBytes 2 w.epoch)

/-- A remote WRITE is tested and applied whole, or discarded whole (R383, R384). -/
def applyWrite (p : Packet) (s : State) : State :=
  let (cs, bad) := packetCells p
  let (lo, len) := cellSpan cs
  match windowAt s p.win with
  | none => reply s p 0x41
  | some w =>
    if ! w.open_ || w.epoch != p.epoch then reply (closedEvent s p w) p 0x40
    else if ! inRange lo len w.base w.length then reply s p 0x11
    else
      let (s, st) := access s p.domain true lo len
      if st = .ok then reply (storeCells s cs bad) p 0 else reply s p (statusCode st)

/-- WRITE at its target. -/
def doWrite (p : Packet) (s : State) : State := serve p s (applyWrite p)

/-- WRITE (R383). -/
def execWrite (p : Packet) (ecc : List EccHit) (s : State) : Host.Outcome State Fault Refusal := .next (doWrite p (plant ecc s))

/-- A remote READ: the granules with their codes; a denied one returns poisoned zeros (R18, R378). -/
def applyRead (p : Packet) (s : State) : State :=
  let base := p.addr / 64 * 64
  let n := min 4 p.grans
  let (s', st) := access s p.domain false base (64 * n)
  let s' := if st = .ok then meetRange base (64 * n) s' else s'
  let gs := (List.range n).map (fun i => match st with
    | .ok => (viewBytes s (base + 64 * i) 64, (markOf s (granOf base + i)).toNat)
    | _ => (List.replicate 64 (0 : Byte), poisonMark))
  let r := responseTo s' p (statusCode st)
  let data := if st = .ok ∨ st = .denied then gs else []
  routePosted s' 12 { r with grans := data.length, data := data.map (·.1), codes := data.map (fun e => tc e.1 ^^^ e.2) }

/-- READ at its target. -/
def doRead (p : Packet) (s : State) : State := serve p s (applyRead p)

/-- READ (R378). -/
def execRead (p : Packet) (ecc : List EccHit) (s : State) : Host.Outcome State Fault Refusal := .next (doRead p (plant ecc s))

/-- A window opened: its epoch stays (R382). -/
def openWindow (w : Window) : Window := { w with open_ := true }

/-- A window closed: its epoch advances (R382). -/
def closeWindow (w : Window) : Window := { w with open_ := false, epoch := (w.epoch + 1) % 65536 }

/-- A remote request over a window, checked with its DOMAIN against the firewall of the window's range (R382). -/
def windowRequest (p : Packet) (f : Window → Window) (s : State) : State :=
  match windowAt s p.win with
  | none => reply s p 0x41
  | some w =>
    let (s, st) := access s p.domain true w.base w.length
    if st ≠ .ok then reply s p (statusCode st)
    else routePosted (setWindow s p.win (f w)) 12 { responseTo s p 0 with epoch := (f w).epoch }

/-- WIN_OPEN at its target. DEDUCED: log entry 62. -/
def doWinOpen (p : Packet) (s : State) : State := serve p s (windowRequest p openWindow)

/-- WIN_OPEN (R382). -/
def execWinOpen (p : Packet) (s : State) : Host.Outcome State Fault Refusal := .next (doWinOpen p s)

/-- WIN_CLOSE at its target. DEDUCED: log entry 62. -/
def doWinClose (p : Packet) (s : State) : State := serve p s (windowRequest p closeWindow)

/-- WIN_CLOSE (R382). -/
def execWinClose (p : Packet) (s : State) : Host.Outcome State Fault Refusal := .next (doWinClose p s)

/-- Parts received of a relayed record. -/
def partsFrom (s : State) (dev tag : Nat) : List Byte :=
  match s.inst.relayParts.find? (fun e => e.1 == dev && e.2.1 == tag) with
  | some e => e.2.2
  | none => []

/-- The parts of a relayed record set; none when empty. -/
def setParts (s : State) (dev tag : Nat) (bs : List Byte) : State :=
  let rest := s.inst.relayParts.filter (fun e => ! (e.1 == dev && e.2.1 == tag))
  { s with inst := { s.inst with relayParts := if bs = [] then rest else (dev, tag, bs) :: rest } }

/-- A part of a relayed record; the last one enters the execution order (R387, R495). -/
def applyMbox (p : Packet) (s : State) : State :=
  let bs := partsFrom s p.src p.tag ++ p.data.flatMap (padTo 64)
  if bitAt p.pflags 1 then
    stage1 (setParts s p.src p.tag []) (.relay p.src p.tag p.gen) (bs.take (32 + fieldAt bs 8 4))
  else setParts s p.src p.tag bs

/-- MBOX at its target. -/
def doMbox (p : Packet) (s : State) : State := serve p s (applyMbox p)

/-- MBOX (R495). -/
def execMbox (p : Packet) (s : State) : Host.Outcome State Fault Refusal := .next (doMbox p s)

/-- The ROM takes boot-relay transfers from the first port on which one begins (R67, R389). -/
def romTakes (s : State) (port : Nat) : Bool :=
  s.rst.bootSrc == 1 && romReceiving s && (match s.boot.srcPort with
    | none => true
    | some q => q == port)

/-- BOOT_DATA: granules of the image at the offset ADDR (R389). DEDUCED: log entry 21. -/
def doBootData (port : Nat) (p : Packet) (s : State) : State :=
  let s := takePacket s p
  if romTakes s port then
    receiveAt { s with boot := { s.boot with srcPort := some port } } p.addr (p.data.flatMap (padTo 64))
  else countDiscard s

/-- BOOT_DATA (R389). -/
def execBootData (port : Nat) (p : Packet) (s : State) : Host.Outcome State Fault Refusal := .next (doBootData port p s)

/-- The ROM's answer to BOOT_END: BOOT_DONE with a status and the boot status code. -/
def bootAnswer (s : State) (port : Nat) (p : Packet) (status code : Nat) : State :=
  sendHopLocal s port { responseTo s p status with pflags := 1, arg := code }

/-- BOOT_END (R67, R389). Once the boot has succeeded or failed it is answered with the boot status code. Until then another
port than the one taken is BUSY, and the answer to the one taken waits for the verification. The model's choices: a device that
does not boot over the link answers NOT_READY, a BOOT_END before any BOOT_DATA BUSY, and one before the whole image ends the boot
with BAD_HEADER, whatever length it names. DESIGN CHOICE: log entry 74. -/
def doBootEnd (port : Nat) (p : Packet) (s : State) : State :=
  let s := takePacket s p
  if s.rst.bootSrc ≠ 1 then bootAnswer s port p 0x46 0
  else if s.boot.phase = 0xFF ∨ s.boot.phase = 0x04 ∨ s.boot.phase = 0x05 then bootAnswer s port p 0 s.boot.code.toNat
  else if s.boot.srcPort ≠ some port then bootAnswer s port p 0x09 0
  else if s.boot.verifying then { s with boot := { s.boot with relayReq := some p } }
  else bootAnswer { s with boot := bootFail s.boot 0x0B03 } port p 0 0x0B03

/-- BOOT_END (R389). -/
def execBootEnd (port : Nat) (p : Packet) (s : State) : Host.Outcome State Fault Refusal := .next (doBootEnd port p s)

/-- Some port leads toward the time root (R390). -/
def hasParent (s : State) : Bool := tabAny (fun _ l => l.timeParent) s.lports

/-- The device joins the installation with an ID; without a TIME_PARENT port it is the time root, and LOCKED (R386, R390,
R394). -/
def joinAs (s : State) (id : Nat) : State :=
  { s with inst := { s.inst with
    id := id, joined := true, tstate := if hasParent s then s.inst.tstate else .locked,
    depth := if hasParent s then s.inst.depth else 0 } }

/-- ID_ASSIGN from a neighbour (R386). -/
def doIdAssign (port : Nat) (p : Packet) (s : State) : State :=
  let s := takePacket s p
  if ! fwUp s then sendHopLocal s port { responseTo s p 0x46 with pflags := 1 }
  else if s.inst.joined then sendHopLocal s port { responseTo s p 0x09 with pflags := 1 }
  else
    let s := joinAs s (p.arg % 1024)
    sendHopLocal s port { responseTo s p 0 with pflags := 1 }

/-- ID_ASSIGN (R386). -/
def execIdAssign (port : Nat) (p : Packet) (s : State) : Host.Outcome State Fault Refusal := .next (doIdAssign port p s)

/-- A forwarded event enters the FIFO of the sink (R388, R500). -/
def applyEvent (p : Packet) (s : State) : State := pushEvent s (evOfBytes (p.data.flatten.take 32))

/-- EVENT at the sink. -/
def doEvent (p : Packet) (s : State) : State := serve p s (applyEvent p)

/-- EVENT (R388). -/
def execEvent (p : Packet) (s : State) : Host.Outcome State Fault Refusal := .next (doEvent p s)

/-! ### Responses (R377, R379, R385) -/

/-- What a response's status does to the import table: WINDOW_CLOSED makes the entry stale, WIN_DONE writes the epoch. -/
def noteResponse (s : State) (dev win kind status epoch : Nat) : State :=
  let f := fun (e : Nat × Import) =>
    if e.2.device = dev ∧ e.2.win = win then
      if status = 0x40 then (e.1, { e.2 with stale := true })
      else if (kind = 0x04 ∨ kind = 0x05) ∧ status = 0 then (e.1, { e.2 with epoch := epoch, stale := false })
      else e
    else e
  { s with inst := { s.inst with imports := s.inst.imports.map f } }

/-- Granules that a READ_DATA brings, with their marks. -/
def gotGrans (g : Nat) (data : List (List Byte)) (codes : List Nat) (t : Tab (List Byte × Nat)) : Tab (List Byte × Nat) :=
  ((List.range data.length).zip (data.zip codes)).foldl (fun t e =>
    tabSet (g + e.1) (padTo 64 e.2.1, tc (padTo 64 e.2.1) ^^^ e.2.2) t) t

/-- A remote read or write of a DMA channel or stream completes (R331, R332, R377). -/
def moverResponse (s : State) (c : Nat) (t : Txn) (status : Nat) (p : Packet) : State :=
  match runAt s c, moverAt s c with
  | some r, some m =>
    if t.kind = 0x01 then
      if status = 0 then setRunAt s c (some { r with writes := r.writes - 1, bytes := r.bytes + t.bytes })
      else
        let (s, _, w) := dropWaiting s c
        setRunAt s c (some { r with writes := r.writes - 1 - w, status := if r.status = .ok then statusOf status else r.status })
    else if status = 0 then
      let s := bump s 2 m.engine 1 t.grans
      let r := { r with reads := r.reads - t.grans, got := gotGrans (granOf t.addr) p.data p.codes r.got }
      if m.stopping then (List.range t.grans).foldl (fun s _ => discardRead s c m) (setRunAt s c (some r))
      else issueReads c t.dst m.dom r.todo.length (readBack s c m r)
    else failReads s c m r (statusOf status) (r.reads - r.todo.length - t.grans)
  | _, _ => s

/-- The neighbour's boot completion has come (R68): BOOT_RELAY_DONE. -/
def relayDone (s : State) (port code : Nat) : State :=
  postEvent { s with inst := { s.inst with relayPorts := s.inst.relayPorts.filter (fun q => q != port) } } 0x080C 13 0
    (leBytes 1 port ++ [0] ++ leBytes 2 code)

/-- What the completion of a transaction brings to its requester. A boot relay that ends with a status other than OK carries
that status in CODE: the manual names the boot status code alone. DESIGN CHOICE: log entry 74. -/
def txnResult (s : State) (t : Txn) (status : Nat) (p : Packet) : State :=
  match t.chan, t.wait with
  | some c, _ => moverResponse s c t status p
  | none, some (.relay k) =>
    answer s (.relay k) (statusOf status) (if status = 0 then t.rsp.take (32 + fieldAt t.rsp 8 4) else [])
  | none, some (.idAssign k) => answer s (.idAssign k) (statusOf status) []
  | none, _ => if t.kind = 0x08 then relayDone s t.addr (if status = 0 then p.arg else status) else s

/-- A transaction completes with a status; its tag is free, and requests that wait for one go on (R377). -/
def completeTxn (s : State) (tag : Nat) (t : Txn) (status : Nat) (p : Packet) : State :=
  let s := { s with inst := { s.inst with txns := tabErase tag s.inst.txns } }
  let s := txnResult (noteResponse s t.dst t.win t.kind status p.epoch) t status p
  serveTags s.inst.tagWait.length s

/-- A response arrives (R377): the parts of MBOX_RSP gather until the last; one whose tag or generation is not
outstanding is discarded and counted. -/
def doTransactionResponse (p : Packet) (s : State) : State :=
  let s := takePacket s p
  match tabGet? s.inst.txns p.tag with
  | none => countDiscard s
  | some t =>
    if p.gen ≠ s.inst.gen then countDiscard s
    else if t.kind = 0x06 ∧ p.status = 0 then
      let t := { t with rsp := t.rsp ++ p.data.flatMap (padTo 64) }
      if bitAt p.pflags 1 then completeTxn s p.tag t 0 p
      else { s with inst := { s.inst with txns := tabSet p.tag t s.inst.txns } }
    else completeTxn s p.tag t p.status p

/-- TRANSACTION_RESPONSE (R377). -/
def execTransactionResponse (p : Packet) (s : State) : Host.Outcome State Fault Refusal := .next (doTransactionResponse p s)

/-- The neighbour's boot completion returns on a port (R68): its transaction ends, and its response is taken. -/
def doBootRelayDone (port code : Nat) (s : State) : State :=
  if s.inst.relayPorts.contains port then
    let own := fun (x : Txn) => x.kind == 0x08 && x.addr == port
    let tags := (s.inst.txns.filter (fun e => own e.2)).map (·.1)
    let s := { s with inst := { s.inst with
      txns := s.inst.txns.filter (fun e => ! own e.2), tagWait := s.inst.tagWait.filter (fun q => ! own q.txn),
      arrived := s.inst.arrived.filter (fun x => ! (x.type == 0x88 && tags.contains x.tag)) } }
    let s := relayDone s port code
    serveTags s.inst.tagWait.length s
  else s

/-- BOOT_RELAY_DONE (R68). -/
def execBootRelayDone (port code : Nat) (s : State) : Host.Outcome State Fault Refusal := .next (doBootRelayDone port code s)

end Sys2Proof.Machine
end

