-- ==== Sys2Proof/Machine/LinkCmd.lean ====
section
/-! DEFINITION. The commands of group 0x08 over ports, routes, windows, joining and relaying (R355, R358, R372, R379,
R381, R382, R385 to R389, R68). -/

namespace Sys2Proof.Machine

open Sys2Proof

/-- The refusal of a payload whose length is not the one its layout gives (R488): the header's PAYLOAD_LEN (R490).
DEDUCED: log entry 55. -/
def badLen (s : State) : State × CmdRes := (s, .done .badParam (detailOf 8 0xFFFF 7))

/-! ### Ports (R355, R356, R358) -/

/-- The first field of a link channel body out of its range (table *Link channel body*). -/
def linkBody (e : List Byte) : Option Nat :=
  if 11 < fieldAt e 2 2 then some 2
  else if 10 < fieldAt e 11 1 then some 11
  else if sfieldAt e 12 2 < -500 ∨ 500 < sfieldAt e 12 2 then some 12
  else none

/-- A port as LINK_START leaves it: in DETECT, configured by the entry of a channel. -/
def startPort (l : LinkPort) (now channel : Nat) (e : List Byte) : LinkPort :=
  { freshPort l with
    st := .detect, since := now, chan := some channel, timeParent := bitAt (fieldAt e 8 1) 0,
    reverse := bitAt (fieldAt e 8 1) 1, rxPol := fieldAt e 9 1, txPol := fieldAt e 10 1, preset := fieldAt e 11 1,
    asym := sfieldAt e 12 2 }

/-- LINK_START (R355, R356). DEDUCED: log entry 29. -/
def cmdLinkStart (h : CmdHdr) (channel r : Nat) (s : State) : State × CmdRes :=
  if r ≠ 0 then refuseAt s .badField 2
  else match fetchEntry s h.domain channel 4 0 with
    | (s, .inl r) => (s, r)
    | (s', .inr e) =>
      match linkBody e with
      | some off => (s', .done .badParam (detailOf off channel 2))
      | none =>
        let p := fieldAt e 2 2
        let l := lportOf s p
        if linkActive l then refuse s' .busy
        else if bitAt (fieldAt e 8 1) 0 && tabAny (fun k x => k != p && x.timeParent) s.lports then
          refuse s' .busy
        else if ! portClock s p then refuse s' .islandOff
        else okDone (setLport s' p (startPort l s.time channel e))

/-- LINK_START. -/
def execLinkStart (h : CmdHdr) (channel r : Nat) (s : State) : Host.Outcome State Fault Refusal :=
  .next (runCommand h 0x0800 (cmdLinkStart h channel r) s)

/-- LINK_STOP (R358). -/
def cmdLinkStop (port r : Nat) (s : State) : State × CmdRes :=
  if r ≠ 0 then refuseAt s .badField 1
  else if 11 < port then refuseAt s .badParam 0
  else okDone (losePort s port .disabled)

/-- LINK_STOP. -/
def execLinkStop (h : CmdHdr) (port r : Nat) (s : State) : Host.Outcome State Fault Refusal :=
  .next (runCommand h 0x0801 (cmdLinkStop port r) s)

/-- The number of a time state (table *TIME payload*). -/
def tstateIdx : TState → Nat
  | .unlocked => 0
  | .acquiring => 1
  | .locked => 2
  | .holdover => 3

/-- An entry of LINK_STATUS: the port's state, its peer's time state, depth and ID as last reported, and the latest
offset. Without a peer, TSTATE, PEER and THETA are 0 and DEPTH is 0xFF (log entry 22). -/
def linkEntry (l : LinkPort) : List Byte :=
  let (ts, dp) := match l.peerTime, l.peer with
    | some m, _ => (m.1.tstate % 4, m.1.depth)
    | none, some c => (c.tstate % 4, c.depth)
    | none, none => (0, 0xFF)
  leBytes 1 (lstateIdx l.st) ++ leBytes 1 ts ++ leBytes 1 dp ++ leBytes 1 0 ++
  leBytes 2 (match l.peer with
    | some c => c.id
    | none => 0) ++ leBytes 2 0 ++ leBytes 8 (unsignedOf 64 (l.thetas.headD 0))

/-- LINK_STATUS (R492). -/
def cmdLinkStatus (s : State) : State × CmdRes :=
  okWith s ((List.range 12).flatMap (fun p => linkEntry (lportOf s p)))

/-- LINK_STATUS. -/
def execLinkStatus (h : CmdHdr) (s : State) : Host.Outcome State Fault Refusal := .next (runCommand h 0x0802 cmdLinkStatus s)

/-! ### Routes, aborts and reservations (R372, R379, R381) -/

/-- Nibble `i` of a route list. -/
def routeNibble (ports : List Byte) (i : Nat) : Nat := bitsAt (fieldAt ports (i / 2) 1) (4 * (i % 2)) 4

/-- The route table with a range of entries written. -/
def setRoutes (t : Tab Nat) (ports : List Byte) (first : Nat) : Nat → Tab Nat
  | 0 => t
  | n + 1 => tabPut 15 (first + n) (routeNibble ports n) (setRoutes t ports first n)

/-- LINK_ROUTE_SET (R372): nibbles are a port 0 to 11 or 0xF. -/
def cmdLinkRouteSet (first count : Nat) (ports : List Byte) (s : State) : State × CmdRes :=
  if ports.length ≠ 4 * cdiv count 8 then badLen s
  else if 1023 < first then refuseAt s .badParam 0
  else if 1024 < first + count then refuseAt s .badParam 2
  else match (List.range count).find? (fun i => decide (11 < routeNibble ports i) && routeNibble ports i != 15) with
    | some i => refuseAt s .badParam (4 + i / 2)
    | none => okDone { s with inst := { s.inst with routes := setRoutes s.inst.routes ports first count } }

/-- LINK_ROUTE_SET. -/
def execLinkRouteSet (h : CmdHdr) (first count : Nat) (ports : List Byte) (s : State) : Host.Outcome State Fault Refusal :=
  .next (runCommand h 0x0803 (cmdLinkRouteSet first count ports) s)

/-- A packet that stands for no response: a completion made by this device itself. -/
def noPacket (s : State) : Packet := reqPacket s 0 0 0

/-- LINK_ABORT (R379): every outstanding transaction to the range completes with ABORTED, then the generation advances. -/
def cmdLinkAbort (first last : Nat) (s : State) : State × CmdRes :=
  if 1023 < first then refuseAt s .badParam 0
  else if 1023 < last ∨ last < first then refuseAt s .badParam 2
  else
    let on := fun (e : Nat × Txn) => decide (first ≤ e.2.dst) && decide (e.2.dst ≤ last)
    let hit := s.inst.txns.filter on
    let s := { s with inst := { s.inst with txns := s.inst.txns.filter (fun e => ! on e) } }
    let s := hit.foldl (fun s e => txnResult (noteResponse s e.2.dst e.2.win e.2.kind 0x45 0) e.2 0x45 (noPacket s)) s
    let s := { s with inst := { s.inst with gen := (s.inst.gen + 1) % 4 } }
    okWith (serveTags s.inst.tagWait.length s) (leBytes 4 hit.length)

/-- LINK_ABORT. -/
def execLinkAbort (h : CmdHdr) (first last : Nat) (s : State) : Host.Outcome State Fault Refusal :=
  .next (runCommand h 0x0804 (cmdLinkAbort first last) s)

/-- LINK_RESERVE (R381): the load takes the place of the one reserved before; NOFIT reports resource 12 (R494). -/
def cmdLinkReserve (port dir r mbps : Nat) (s : State) : State × CmdRes :=
  if r ≠ 0 then refuseAt s .badField 2
  else if 11 < port then refuseAt s .badParam 0
  else if 1 < dir then refuseAt s .badParam 1
  else
    let k := linkKey port dir
    let free := linkLimit - (linkUsed s k - tabGet 0 s.inst.reserve k)
    if free < mbps then (s, .done .nofit (resEntry 12 true port 0xFF mbps free))
    else okDone { s with inst := { s.inst with reserve := tabPut 0 k mbps s.inst.reserve } }

/-- LINK_RESERVE. -/
def execLinkReserve (h : CmdHdr) (port dir r mbps : Nat) (s : State) : Host.Outcome State Fault Refusal :=
  .next (runCommand h 0x0805 (cmdLinkReserve port dir r mbps) s)

/-! ### Windows and imports (R382, R385) -/

/-- LINK_WINDOW_SET (R382): the window starts closed; its epoch is kept (log entry 23). -/
def cmdLinkWindowSet (win r base length : Nat) (s : State) : State × CmdRes :=
  if r ≠ 0 then refuseAt s .badField 1
  else if base % 4096 ≠ 0 ∨ 2 ^ 48 ≤ base then refuseAt s .badParam 4
  else if length % 4096 ≠ 0 ∨ 2 ^ 48 < base + length then refuseAt s .badParam 12
  else
    let w := (windowAt s win).getD { base := 0, length := 0, open_ := false, epoch := 0, closedSeen := [], closedCount := 0 }
    okDone (setWindow s win { w with base := base, length := length, open_ := false })

/-- LINK_WINDOW_SET. -/
def execLinkWindowSet (h : CmdHdr) (win r base length : Nat) (s : State) : Host.Outcome State Fault Refusal :=
  .next (runCommand h 0x0806 (cmdLinkWindowSet win r base length) s)

/-- A window changed by its owner; the epoch in force after the change is returned. -/
def changeWindow (f : Window → Window) (win r : Nat) (s : State) : State × CmdRes :=
  if r ≠ 0 then refuseAt s .badField 1
  else match windowAt s win with
    | none => refuse s .noWindow
    | some w => okWith (setWindow s win (f w)) (leBytes 2 (f w).epoch ++ [0, 0])

/-- LINK_WINDOW_OPEN (R382). -/
def execLinkWindowOpen (h : CmdHdr) (win r : Nat) (s : State) : Host.Outcome State Fault Refusal :=
  .next (runCommand h 0x0807 (changeWindow openWindow win r) s)

/-- LINK_WINDOW_CLOSE (R382). -/
def execLinkWindowClose (h : CmdHdr) (win r : Nat) (s : State) : Host.Outcome State Fault Refusal :=
  .next (runCommand h 0x0808 (changeWindow closeWindow win r) s)

/-- LINK_IMPORT_SET (R385). -/
def cmdLinkImportSet (entry win device epoch r base length : Nat) (s : State) : State × CmdRes :=
  if r ≠ 0 then refuseAt s .badField 6
  else if 1023 < device then refuseAt s .badParam 2
  else if 2 ^ 48 ≤ base then refuseAt s .badParam 8
  else if 2 ^ 48 < base + length then refuseAt s .badParam 16
  else
    let e : Import := { device := device, win := win, base := base, length := length, epoch := epoch, stale := false }
    okDone { s with inst := { s.inst with imports := tabSet entry e s.inst.imports } }

/-- LINK_IMPORT_SET. -/
def execLinkImportSet (h : CmdHdr) (entry win device epoch r base length : Nat) (s : State) :
    Host.Outcome State Fault Refusal :=
  .next (runCommand h 0x0809 (cmdLinkImportSet entry win device epoch r base length) s)

/-! ### Joining, relaying and the event sink (R386 to R389, R68) -/

/-- LINK_ID_SET (R386): an ID holds until reset. DEDUCED: log entry 62. -/
def cmdLinkIdSet (id r : Nat) (s : State) : State × CmdRes :=
  if r ≠ 0 then refuseAt s .badField 2
  else if 1023 < id then refuseAt s .badParam 0
  else if s.inst.joined then refuse s .busy
  else okDone (joinAs s id)

/-- LINK_ID_SET. -/
def execLinkIdSet (h : CmdHdr) (id r : Nat) (s : State) : Host.Outcome State Fault Refusal :=
  .next (runCommand h 0x080A (cmdLinkIdSet id r) s)

/-- A transaction of a command: what its requester needs to know. DEDUCED: log entry 62. -/
def cmdTxn (dst kind : Nat) (w : Option WaitKind) : Txn :=
  { dst := dst, kind := kind, addr := 0, grans := 0, bytes := 0, win := 0, wait := w, chan := none, rsp := [] }

/-- The number of a command's request is used up. -/
def nextReq (s : State) : State := { s with inst := { s.inst with reqCnt := s.inst.reqCnt + 1 } }

/-- LINK_ID_ASSIGN (R386): the response waits for the neighbour's ID_DONE. -/
def cmdLinkIdAssign (port r id : Nat) (s : State) : State × CmdRes :=
  if r ≠ 0 then refuseAt s .badField 1
  else if 11 < port then refuseAt s .badParam 0
  else if 1023 < id then refuseAt s .badParam 2
  else if (lportOf s port).st ≠ .active then refuse s .linkDown
  else
    let dst := (lportOf s port).peer.elim 0 (fun c => c.id)
    let q : TagReq := { txn := cmdTxn dst 0x09 (some (.idAssign s.inst.reqCnt)),
                        pkts := [{ reqPacket s 0x09 dst 0 with pflags := 1, arg := id }], port := some port }
    (request (nextReq s) q, .wait (.idAssign s.inst.reqCnt))

/-- LINK_ID_ASSIGN. -/
def execLinkIdAssign (h : CmdHdr) (port r id : Nat) (s : State) : Host.Outcome State Fault Refusal :=
  .next (runCommand h 0x080B (cmdLinkIdAssign port r id) s)

/-- A record whose relay is refused (R387): a relay itself, or a COUNTER_READ of more than 1,023 units, the one command
whose response can exceed 65,504 bytes. -/
def relayRefused (record : List Byte) : Bool :=
  fieldAt record 0 2 == 0x080C || (fieldAt record 0 2 == 0x0705 && decide (1023 < fieldAt record 36 2))

/-- What refuses packets to a device at their source (R372, R369): no route, or a port that is not active. -/
def pathRefusal (s : State) (device : Nat) : Option Status :=
  if device = s.inst.id ∧ s.inst.joined then none
  else if 12 ≤ routeOf s device then some .unreachable
  else if (lportOf s (routeOf s device)).st ≠ .active then some .linkDown
  else none

/-- LINK_MBOX_RELAY (R387): the record leaves in MBOX packets; the target's response record is the payload. -/
def cmdLinkMboxRelay (device r : Nat) (record : List Byte) (s : State) : State × CmdRes :=
  if record.length < 32 ∨ 65532 < record.length ∨ record.length % 4 ≠ 0 then badLen s
  else if r ≠ 0 then refuseAt s .badField 2
  else if 1023 < device then refuseAt s .badParam 0
  else if relayRefused record then refuseAt s .badParam 4
  else match pathRefusal s device with
    | some st => refuse s st
    | none =>
      let q : TagReq := { txn := cmdTxn device 0x06 (some (.relay s.inst.reqCnt)),
                          pkts := mboxPackets s 0x06 device 0 0 (record.length / 256 + 1) 0 record, port := none }
      (request (nextReq s) q, .wait (.relay s.inst.reqCnt))

/-- LINK_MBOX_RELAY. -/
def execLinkMboxRelay (h : CmdHdr) (device r : Nat) (record : List Byte) (s : State) : Host.Outcome State Fault Refusal :=
  .next (runCommand h 0x080C (cmdLinkMboxRelay device r record) s)

/-- LINK_EVENT_SINK (R388). -/
def cmdLinkEventSink (device flags : Nat) (s : State) : State × CmdRes :=
  if 2 ≤ flags then refuseAt s .badField 2
  else if 1023 < device then refuseAt s .badParam 0
  else okDone { s with ev := { s.ev with sink := if bitAt flags 0 then none else some device } }

/-- LINK_EVENT_SINK. -/
def execLinkEventSink (h : CmdHdr) (device flags : Nat) (s : State) : Host.Outcome State Fault Refusal :=
  .next (runCommand h 0x080D (cmdLinkEventSink device flags) s)

/-- The BOOT_DATA packets of an image, four granules each; the last granule is filled up with zeros. -/
def bootPackets (s : State) : Nat → Nat → List Byte → List Packet
  | 0, _, _ => []
  | n + 1, off, bs =>
    if bs = [] then []
    else
      let gs := (chunks 64 4 (bs.take 256)).map (padTo 64)
      { reqPacket s 0x07 0 0 with pflags := 1, addr := off, grans := gs.length, be := 2 ^ 64 - 1, data := gs,
                                  codes := gs.map tc } :: bootPackets s n (off + 256) (bs.drop 256)

/-- The request of a boot relay: the image in BOOT_DATA packets, then BOOT_END with its length. -/
def relayReqOf (s : State) (port len : Nat) (image : List Byte) : TagReq :=
  { txn := { cmdTxn 0 0x08 none with addr := port },
    pkts := bootPackets s (len / 256 + 1) 0 image ++ [{ reqPacket s 0x08 0 0 with pflags := 1, addr := len }], port := some port }

/-- BOOT_RELAY (R68, R389): the image is read in the domain of the command and sent; the completion is an event. The model's
choices: LEN 0 is BAD_PARAM, and a second relay on a port on which one runs is BUSY. DESIGN CHOICE: log entry 74. -/
def cmdBootRelay (h : CmdHdr) (port r addr len r2 : Nat) (s : State) : State × CmdRes :=
  if r ≠ 0 then refuseAt s .badField 1
  else if r2 ≠ 0 then refuseAt s .badField 16
  else if 11 < port then refuseAt s .badParam 0
  else if len = 0 then refuseAt s .badParam 12
  else
    let (s', st, bs) := readStruct s 13 0 h.domain addr len
    if st ≠ .ok then (s', .done st [])
    else if s.inst.relayPorts.contains port then refuse s' .busy
    else if (lportOf s port).st ≠ .active then refuse s' .linkDown
    else
      let s' := { s' with inst := { s'.inst with relayPorts := port :: s'.inst.relayPorts } }
      okDone (request s' (relayReqOf s' port len bs))

/-- BOOT_RELAY. -/
def execBootRelay (h : CmdHdr) (port r addr len r2 : Nat) (s : State) : Host.Outcome State Fault Refusal :=
  .next (runCommand h 0x0810 (cmdBootRelay h port r addr len r2) s)

end Sys2Proof.Machine
end

