-- ==== Sys2Proof/Machine/LinkTime.lean ====
section
/-! DEFINITION. Time over the link (R390 to R396): TIME flits, offsets, joining, holdover, and the discipline by PPS_IN. -/

namespace Sys2Proof.Machine

open Sys2Proof

/-! ### TIME flits (R390 to R392) -/

/-- A TIME flit that leaves now: departure, state, depth and exchange number, and the echo of the peer's last one (zeros
when there is none, log entry 24). -/
def timeMsg (s : State) (l : LinkPort) : TimeMsg :=
  let d := s.time * 256 + l.txLat
  let (eSeq, eRx, eRxFr, eTx, eTxFr) := match l.peerTime with
    | some (m, rx, fr) => (m.xseq, rx, fr, m.tTx, m.tTxFr)
    | none => (0, 0, 0, 0, 0)
  { tTx := d / 256, tTxFr := d % 256, tstate := tstateIdx s.inst.tstate, depth := s.inst.depth, xseq := l.xseq,
    eSeq := eSeq, eRxFr := eRxFr, eTxFr := eTxFr, eRx := eRx, eTx := eTx }

/-- TIME_FLIT_SEND: an active port with a credit on VC 2 sends one (R390, R370). -/
def doTimeFlitSend (port : Nat) (s : State) : State :=
  let l := lportOf s port
  if portIn s port .active && decide (1 ≤ creditsOf l 2) then
    bump (setLport s port { l with lastTime := some (timeMsg s l), xseq := (l.xseq + 1) % 256,
                                   credSent := l.credSent.set 2 ((nth l.credSent 2 + 1) % 4096) }) 5 port 0 1
  else s

/-- TIME_FLIT_SEND (R390). -/
def execTimeFlitSend (port : Nat) (s : State) : Host.Outcome State Fault Refusal := .next (doTimeFlitSend port s)

/-- θ of an exchange in 1/256 tick (R392): 1 tick is 250 ps, and the half is taken downward (log entry 25). -/
def theta (m : TimeMsg) (arrival arrivalFr : Nat) (asym : Int) : Int :=
  let at256 := fun (t fr : Nat) => ((t * 256 + fr : Nat) : Int)
  let there := at256 m.eRx m.eRxFr - at256 m.eTx m.eTxFr
  let back := at256 arrival arrivalFr - at256 m.tTx m.tTxFr
  (250 * (there - back) - 256 * asym) / 500

/-- The message echoes one of the port's own TIME flits: the last, or the one before it. -/
def echoesOwn (l : LinkPort) (m : TimeMsg) : Bool :=
  match l.lastTime with
  | none => false
  | some o => (m.eSeq == o.xseq && m.eTx == o.tTx && m.eTxFr == o.tTxFr) || (m.eSeq + 1) % 256 == o.xseq

/-- The peer's message follows its last one. -/
def followsLast (l : LinkPort) (m : TimeMsg) : Bool :=
  match l.peerTime with
  | none => true
  | some (o, _, _) => m.xseq == (o.xseq + 1) % 256

/-- The sum of the offsets over the last 16 exchanges. -/
def thetaSum (l : LinkPort) : Int := l.thetas.foldl (· + ·) 0

/-- The mean of the offsets, to the nearest 1/256 tick (R475). -/
def thetaMean (l : LinkPort) : Int :=
  let n := max 1 l.thetas.length
  (2 * thetaSum l + n) / (2 * n)

/-- The mean over 16 exchanges is at most 1/8 tick (R394). -/
def thetaSmall (l : LinkPort) : Bool := l.thetas.length == 16 && decide (-512 ≤ thetaSum l) && decide (thetaSum l ≤ 512)

/-- The port leads toward the time root. -/
def isParent (s : State) (p : Nat) : Bool := (lportOf s p).timeParent

/-- The TIME_PARENT port, if there is one. -/
def parentPort (s : State) : Option Nat := (s.lports.find? (fun e => e.2.timeParent)).map (·.1)

/-- The parent's last report is LOCKED. -/
def parentLocked (l : LinkPort) : Bool :=
  match l.peerTime with
  | some (m, _, _) => m.tstate == 2
  | none => false

/-- ±200 ppm in steps of 2^−40, and the 1/16 of 1 ppm that one exchange of 8 µs may change it by (R393).
DESIGN CHOICE: log entry 26. -/
def rateLimit : Int := 219902325
/-- DESIGN CHOICE: log entry 26. -/
def rateStep : Int := 68719

/-- The device's rate after an exchange: within the limits of R393; how far it moves is the firmware's (log entry 26). -/
def slew (s : State) : State :=
  let d := clampInt ((Config.freeNat s.freeCnt 0 : Nat) - rateStep) (-rateStep) rateStep
  { s with inst := { s.inst with rate := clampInt (s.inst.rate + d) (-rateLimit) rateLimit }, freeCnt := s.freeCnt + 1 }

/-- The THETA record of a port's first exchange in a counter window (R475). -/
def thetaRecord (s : State) (p : Nat) (xseq : Nat) : State :=
  let l := lportOf s p
  let w := windowOf s.time
  if l.thetaWindow = some w then s
  else
    let mean := unsignedOf 64 (thetaMean l)
    let peer := match l.peer with
      | some c => c.id
      | none => 0
    let s := setLport s p { l with thetaWindow := some w, skipped := 0 }
    emitTrace s 5 p false 8 (p + peer * 16 + tstateIdx s.inst.tstate * 16384 + satTo 16 l.skipped * 65536)
      [(mean % 2 ^ 32, mean / 2 ^ 32, s.inst.depth, 0, xseq)]

/-- A device in the tree takes its depth from its parent, and comes back to LOCKED from HOLDOVER; REF_LOST ends there once
REFCLK has been good for 1 ms (R390, R394, R461). -/
def followParent (s : State) (p : Nat) (m : TimeMsg) : State :=
  if ! (s.inst.joined && isParent s p) then s
  else
    let s := slew { s with inst := { s.inst with depth := min 255 (m.depth + 1) } }
    if s.inst.tstate = .holdover ∧ m.tstate = 2 ∧ thetaSmall (lportOf s p) = true then
      let lost := if s.rst.refGoodAt.isSome then none else s.rst.refLostAt
      let s := { s with inst := { s.inst with tstate := .locked }, rst := { s.rst with refLostAt := lost } }
      endLevel (postEvent s 0x0809 5 p (leBytes 1 p)) rowTime kindDevice 0
    else s

/-- A TIME flit arrives: its credit is freed; it completes an exchange, or the exchange is skipped and counted (R392). -/
def receiveTime (s : State) (p : Nat) (m : TimeMsg) (arrival arrivalFr : Nat) : State :=
  let s := bump (freeFlits s p 2 1) 5 p 1 1
  let l := lportOf s p
  let l' := { l with peerTime := some (m, arrival, arrivalFr), crcRun := 0 }
  if l.lastTime = none then setLport s p l'
  else if echoesOwn l m && followsLast l m then
    let s := setLport s p { l' with thetas := (theta m arrival arrivalFr l.asym :: l.thetas).take 16, skipRun := 0 }
    followParent (thetaRecord s p m.xseq) p m
  else bump (setLport s p { l' with skipRun := l.skipRun + 1, skipped := l.skipped + 1 }) 5 p 7 1

/-- TIME_FLIT_RECEIVE, on an active port. -/
def doTimeFlitReceive (port : Nat) (m : TimeMsg) (arrival arrivalFr : Nat) (s : State) : State :=
  if portIn s port .active then receiveTime s port m arrival arrivalFr else s

/-- TIME_FLIT_RECEIVE (R392). -/
def execTimeFlitReceive (port : Nat) (m : TimeMsg) (arrival arrivalFr : Nat) (s : State) :
    Host.Outcome State Fault Refusal :=
  .next (doTimeFlitReceive port m arrival arrivalFr s)

/-! ### Flits of every kind (R361, R363, R367, R368) -/

/-- A flit reaches a port (R361, R363, R367). A CTRL or TIME flit is taken as its own row takes it; a TIME flit's arrival is
then this moment less the receive latency (R391). DEDUCED: log entry 62. -/
def receiveFlit (s : State) (p : Nat) (x : Flit) : State :=
  let l := lportOf s p
  let good := flitCrc x.kind x.vc x.seq x.check x.payload
  let sequenced := decide (1 ≤ x.kind) && decide (x.kind ≤ 4)
  let arrival := s.time * 256 - l.rxLat
  let c := bump s 5 p 1 1
  if x.crc = good ^^^ 0xFFFFFFFF then
    let c := bump (setLport c p { l with stomps := l.stomps + 1, crcRun := 0 }) 5 p 4 1
    if sequenced then stompOut c p x else c
  else if x.crc ≠ good then failFlit c p x
  else if flitMisaligned x then setLport c p { l with misaligned := true, crcRun := 0 }
  else if x.kind = 5 then receiveCtrl s p (ctrlOf x.payload)
  else if x.kind = 6 then receiveTime s p (timeOf x.payload) (arrival / 256) (arrival % 256)
  else if ! sequenced then setLport c p { l with crcRun := 0 }
  else if x.seq ≠ l.rxExp then setLport c p { l with dups := l.dups + 1, crcRun := 0 }
  else acceptFlit c p x

/-- FLIT_RECEIVE, on an active port. -/
def doFlitReceive (port : Nat) (x : Flit) (s : State) : State := if portIn s port .active then receiveFlit s port x else s

/-- FLIT_RECEIVE (R367). -/
def execFlitReceive (port : Nat) (x : Flit) (ecc : List EccHit) (s : State) : Host.Outcome State Fault Refusal :=
  .next (doFlitReceive port x (plant ecc s))

/-! ### Joining and holdover (R393, R394) -/

/-- No graph is RUNNING or HELD, and no trigger has MODE other than 0 (R393). -/
def timeMayStep (s : State) : Bool :=
  tabAll (fun _ g => g.st == .loaded) s.graphs &&
  tabAll (fun _ t => t.sched.mode == 0 && (match t.update with
    | some u => u.mode == 0
    | none => true)) s.trigs

/-- LINK_TIME_JOIN (R393): the response follows entry into LOCKED. -/
def cmdLinkTimeJoin (s : State) : State × CmdRes :=
  match parentPort s with
  | none => refuse s .busy
  | some p =>
    if (lportOf s p).st ≠ .active ∨ timeMayStep s = false then refuse s .busy
    else
      let s := setLport s p { lportOf s p with thetas := [] }
      ({ s with inst := { s.inst with joinWait := true } }, .wait .timeJoin)

/-- LINK_TIME_JOIN. -/
def execLinkTimeJoin (h : CmdHdr) (s : State) : Host.Outcome State Fault Refusal :=
  .next (runCommand h 0x080E cmdLinkTimeJoin s)

/-- Device time steps (R393, R396). DEDUCED: log entry 62. -/
def stepTime (s : State) (d : Int) : State :=
  let mv := fun (t : Nat) => ((t : Int) + d).toNat
  { s with time := mv s.time, inst := { s.inst with ppsLast := s.inst.ppsLast.map mv } }

/-- TIME_STEP (R393): 16 exchanges averaged, a step by the nearest whole tick, and ACQUIRING. -/
def doTimeStep (s : State) : State :=
  match parentPort s with
  | none => s
  | some p =>
    let l := lportOf s p
    if s.inst.joinWait && l.thetas.length == 16 then
      let d := (thetaSum l + 2048) / 4096
      let s := setLport (stepTime s d) p { l with thetas := [] }
      let s := { s with inst := { s.inst with joinWait := false, joinStep := d, tstate := .acquiring } }
      postEvent s 0x0807 13 0 (leBytes 8 (unsignedOf 64 d))
    else s

/-- TIME_STEP (R393). -/
def execTimeStep (s : State) : Host.Outcome State Fault Refusal := .next (doTimeStep s)

/-- Entry into LOCKED after a join (R393, R394): the response with the step. -/
def doTimeJoinLocked (s : State) : State :=
  match parentPort s with
  | none => s
  | some p =>
    if s.inst.tstate = .acquiring ∧ parentLocked (lportOf s p) = true ∧ thetaSmall (lportOf s p) = true then
      let s := { s with inst := { s.inst with tstate := .locked } }
      answer s .timeJoin .ok (leBytes 8 (unsignedOf 64 s.inst.joinStep))
    else s

/-- TIME_JOIN_LOCKED (R393). -/
def execTimeJoinLocked (s : State) : Host.Outcome State Fault Refusal := .next (doTimeJoinLocked s)

/-- The case of R394 that TIME_HOLDOVER names holds at the parent port. -/
def holdoverCause (l : LinkPort) (cause : Nat) : Bool :=
  match cause with
  | 0 => l.st != .active
  | 1 => decide (8 ≤ l.skipRun)
  | 2 => ! parentLocked l
  | _ => false

/-- TIME_HOLDOVER (R394): LOCKED is left, and the safety monitor's level begins. DEDUCED: log entry 62. -/
def doTimeHoldover (cause : Nat) (s : State) : State :=
  match parentPort s with
  | none => s
  | some p =>
    if s.inst.tstate = .locked ∧ holdoverCause (lportOf s p) cause = true then
      let s := { s with inst := { s.inst with tstate := .holdover } }
      failCond (postEvent s 0x0808 5 p (leBytes 1 p ++ leBytes 1 cause)) rowTime kindDevice 0 true
    else s

/-- TIME_HOLDOVER (R394). -/
def execTimeHoldover (cause : Nat) (s : State) : Host.Outcome State Fault Refusal := .next (doTimeHoldover cause s)

/-! ### PPS_IN (R43, R396) -/

/-- The device is the time root (R390). -/
def isRoot (s : State) : Bool := s.inst.joined && ! hasParent s

/-- One second of device time. -/
def ppsPeriod : Nat := 4000000000

/-- The step that brings a moment to the nearest one congruent to a phase. DEDUCED: log entry 27. -/
def ppsStep (t phase : Nat) : Int :=
  let d := (phase + ppsPeriod - t % ppsPeriod) % ppsPeriod
  if d ≤ ppsPeriod / 2 then (d : Int) else (d : Int) - ppsPeriod

/-- LINK_PPS_SET (R396, R493). The step is taken at the last edge, or now when none was seen (log entry 27). -/
def cmdLinkPpsSet (phase flags : Nat) (s : State) : State × CmdRes :=
  if ! isRoot s then refuse s .state
  else if 2 ≤ flags then refuseAt s .badField 4
  else if ppsPeriod ≤ phase then refuseAt s .badParam 0
  else if bitAt flags 0 then okWith { s with inst := { s.inst with ppsOn := false } } (leBytes 8 0)
  else
    let s := { s with inst := { s.inst with ppsOn := true, ppsPhase := phase, ppsLost := false } }
    let d := if timeMayStep s then ppsStep (s.inst.ppsLast.getD s.time) phase else 0
    okWith (stepTime s d) (leBytes 8 (unsignedOf 64 d))

/-- LINK_PPS_SET. -/
def execLinkPpsSet (h : CmdHdr) (phase flags : Nat) (s : State) : Host.Outcome State Fault Refusal :=
  .next (runCommand h 0x080F (cmdLinkPpsSet phase flags) s)

/-- A rising edge of PPS_IN: it steers a disciplined root; anywhere else it raises PPS_EDGE (R396).
DEDUCED: log entry 62. -/
def doPpsEdge (s : State) : State :=
  if ! fwUp s then s
  else
    let s := { s with inst := { s.inst with ppsLast := some s.time } }
    if isRoot s && s.inst.ppsOn then slew { s with inst := { s.inst with ppsLost := false } }
    else postEvent s 0x080B 11 0 (leBytes 8 s.time)

/-- PPS_EDGE (R396). -/
def execPpsEdge (s : State) : Host.Outcome State Fault Refusal := .next (doPpsEdge s)

/-- No edge within 1.5 s of the previous one: PPS_LOST (R396). -/
def doPpsLost (s : State) : State :=
  match s.inst.ppsLast with
  | none => s
  | some t =>
    if fwUp s && isRoot s && s.inst.ppsOn && ! s.inst.ppsLost then
      let s := advanceTo s (t + 6000000000)
      postEvent { s with inst := { s.inst with ppsLost := true } } 0x080A 11 0 []
    else s

/-- PPS_LOST (R396). -/
def execPpsLost (s : State) : Host.Outcome State Fault Refusal := .next (doPpsLost s)

end Sys2Proof.Machine
end

