-- ==== Sys2Proof/Machine/Ddr.lean ====
section
/-! DEFINITION. Memory integrity and upkeep: the frame store's ECC and scrub (R177 to R179), DDR_INIT (R397, R398), the
interleave and the code carve-out (R399, R400), ECC, ALERT_N, refresh, temperature and scrub of DDR5 (R402 to R405). -/

namespace Sys2Proof.Machine

open Sys2Proof

/-! ### Frame-store scrub (R179) -/

/-- The corrected error of a granule is written back. -/
def writeBack (s : State) (g : Nat) : State :=
  { s with eccBad := s.eccBad.filter (fun x => ! (x.place == .memory && x.found == .corrected && granOf x.addr == g)) }

/-- FS_SCRUB_ROW: one row read and corrected. -/
def doFsScrubRow (bank row : Nat) (found : EccFind) (s : State) : State :=
  if ! islandRuns s 1 || decide (47 < bank) || decide (131071 < row) then s
  else
    let a := fsRowAddr bank row
    writeBack (eccHits (fun g => g == granOf a)
      [{ addr := a, place := .memory, found := found, rank := 0, bank := bank, row := row }] (bump s 10 0 4 1)) (granOf a)

/-- FS_SCRUB_ROW (R179). -/
def execFsScrubRow (bank row : Nat) (found : EccFind) (s : State) : Host.Outcome State Fault Refusal :=
  .next (doFsScrubRow bank row found s)

/-! ### DDR5 initialisation (R397, R398, R400) -/

/-- A combination of the table *Supported configurations*. -/
def ddrSupported (width density ranks : Nat) : Bool :=
  (width == 0 && ((density == 16 && (ranks == 1 || ranks == 2)) || (density == 24 && ranks == 1) ||
    (density == 32 && ranks == 1))) ||
  (width == 1 && (density == 16 || density == 24 || density == 32) && (ranks == 1 || ranks == 2))

/-- Usable bytes of a supported configuration: 31/32 of the installed ones (table *Supported configurations*, R400). -/
def ddrUsable (width density ranks : Nat) : Nat :=
  (if width = 0 then 4 else 2) * density * ranks * 2 ^ 30 / 32 * 31

/-- DDR_INIT (R398): the response follows the last step. -/
def cmdDdrInit (cfg : List Byte) (s : State) : State × CmdRes :=
  if cfg.length ≠ 16 then badLen s
  else if zeroAt cfg 4 12 = false then refuseAt s .badField 4
  else if ddrSupported (fieldAt cfg 0 1) (fieldAt cfg 1 1) (fieldAt cfg 2 1) = false then refuseAt s .badParam 0
  else if fieldAt cfg 3 1 < 1 ∨ 24 < fieldAt cfg 3 1 then refuseAt s .badParam 3
  else if s.ddr.ready || s.ddr.training then refuse s .busy
  else ({ s with ddr := { s.ddr with training := true, cfg := cfg } }, .wait .ddrInit)

/-- DDR_INIT. -/
def execDdrInit (h : CmdHdr) (cfg : List Byte) (s : State) : Host.Outcome State Fault Refusal :=
  .next (runCommand h 0x0109 (cmdDdrInit cfg) s)

/-- DDR_INIT_DONE: every granule and code of the usable range is zero with a valid code and mapped, or training failed.
DEDUCED: log entry 42. -/
def doDdrInitDone (result : TrainResult) (s : State) : State :=
  if ! (s.ddr.training && islandRuns s 50) then s
  else match result with
    | .ok =>
      let u := ddrUsable (fieldAt s.ddr.cfg 0 1) (fieldAt s.ddr.cfg 1 1) (fieldAt s.ddr.cfg 2 1)
      let s := { s with
        mem := s.mem.filter (fun c => decide (u ≤ c.1)), marks := s.marks.filter (fun e => decide (u ≤ e.1 * 64)),
        eccBad := s.eccBad.filter (fun x => x.place == .rule || decide (u ≤ x.addr)),
        ddr := { s.ddr with training := false, ready := true, usable := u } }
      answer s .ddrInit .ok (leBytes 8 u)
    | .fail c b k =>
      answer { s with ddr := { s.ddr with training := false } } .ddrInit .trainFail
        (leBytes 1 c ++ leBytes 1 b ++ leBytes 1 k ++ leBytes 1 0)

/-- DDR_INIT_DONE (R398). -/
def execDdrInitDone (result : TrainResult) (s : State) : Host.Outcome State Fault Refusal := .next (doDdrInitDone result s)

/-! ### Interleave (R399, R400) -/

/-- The channel offset of a granule's code. -/
def ddrCodeOffset (usable a : Nat) : Nat := usable / 4 + ddrOffset a / 64 * 2

/-! ### Upkeep (R402, R404, R405) -/

/-- The controllers work. -/
def ddrUp (s : State) : Bool := s.ddr.ready && islandRuns s 50

/-- DDR_SCRUB_GRANULE: a data granule, or a code granule named by a data granule that it covers. -/
def doDdrScrubGranule (addr : Nat) (isCode : Bool) (found : EccFind) (rank bank row : Nat) (s : State) : State :=
  if ! ddrUp s || decide (s.ddr.usable ≤ addr) then s
  else
    eccHits (fun g => g == granOf addr)
      [{ addr := addr, place := if isCode then .code else .memory, found := found, rank := rank, bank := bank, row := row }]
      { s with ddr := { s.ddr with scrubbed := s.ddr.scrubbed + 1 } }

/-- DDR_SCRUB_GRANULE (R405). -/
def execDdrScrubGranule (addr : Nat) (isCode : Bool) (found : EccFind) (rank bank row : Nat) (s : State) :
    Host.Outcome State Fault Refusal :=
  .next (doDdrScrubGranule addr isCode found rank bank row s)

/-- DDR_ALERT: reported, and the command is not retried. -/
def doDdrAlert (channel : Nat) (s : State) : State :=
  if ddrUp s && decide (channel < 4) then raiseDoubt s 0x0108 7 channel (leBytes 1 channel) rowDevice kindDevice 0 else s

/-- DDR_ALERT (R402). -/
def execDdrAlert (channel : Nat) (s : State) : Host.Outcome State Fault Refusal := .next (doDdrAlert channel s)

/-- DDR_REFRESH: a same-bank refresh, counted. -/
def doDdrRefresh (channel : Nat) (s : State) : State :=
  if ddrUp s && decide (channel < 4) then
    bump { s with ddr := { s.ddr with refreshes := s.ddr.refreshes.set channel (nth s.ddr.refreshes channel + 1) } }
      7 channel 3 1
  else s

/-- DDR_REFRESH (R404). -/
def execDdrRefresh (channel : Nat) (s : State) : Host.Outcome State Fault Refusal := .next (doDdrRefresh channel s)

/-- The refresh interval of a channel in ticks: 3.9 µs, or 1.95 µs while a component reads above 85 °C (R404). -/
def ddrTrefi (s : State) (channel : Nat) : Nat :=
  if s.ddr.hot.getD (2 * channel) false || s.ddr.hot.getD (2 * channel + 1) false then 7800 else 15600

/-- DDR_MR4_POLL, with the reading in °C. DEDUCED: log entry 66. -/
def doDdrMr4Poll (channel rank : Nat) (temp : Int) (s : State) : State :=
  if ddrUp s && decide (channel < 4) && decide (rank < 2) then
    let s := { s with ddr := { s.ddr with hot := s.ddr.hot.set (2 * channel + rank) (decide (85 < temp)) } }
    if 95 < temp then postEvent s 0x0109 7 channel (leBytes 1 channel ++ leBytes 1 rank) else s
  else s

/-- DDR_MR4_POLL (R404). -/
def execDdrMr4Poll (channel rank : Nat) (temp : Int) (s : State) : Host.Outcome State Fault Refusal :=
  .next (doDdrMr4Poll channel rank temp s)

end Sys2Proof.Machine
end

