-- ==== Sys2Proof/Machine/Egress.lean ====
section
/-! DEFINITION. Egress streams, result records, the age monitor, the substitution of verdicts, and the egress ports
(R406 to R422, R429, R432, R433). -/

namespace Sys2Proof.Machine

open Sys2Proof

/-! ### Result records (R410, R411) -/

/-- FLAGS bits of a result record above the frame flags (table *Record bits*). -/
def fStale : Nat := 1024
def fPoison : Nat := 2048
def fDupMismatch : Nat := 4096
def fSlip : Nat := 8192
def fLate : Nat := 16384
def fStraddle : Nat := 32768

/-- PROV of a record. -/
def provOf (r : ResRec) : Nat := r.verdict + 4 * bit01 r.doubt + 8 * bit01 r.priVoid + 16 * bit01 r.duplicated

/-- KIND of a record. -/
def kindOf (r : ResRec) : Nat := r.kind + 4 * bit01 r.underrun + 8 * bit01 r.edge + 16 * bit01 r.actSat

/-- Bytes 0 to 29 of a record (table *Result record*). -/
def recBody (r : ResRec) : List Byte :=
  leBytes 4 r.objId ++ leBytes 4 r.frameCnt ++ leBytes 8 r.tExp ++ leBytes 4 r.tAct ++ leBytes 2 r.priClass ++
  leBytes 1 r.priConf ++ leBytes 1 r.pipe ++ leBytes 2 r.fbClass ++ leBytes 1 (provOf r) ++ leBytes 1 (kindOf r) ++
  leBytes 2 r.flags

/-- A bit of FLAGS, by its weight. -/
def hasFlag (flags w : Nat) : Bool := flags / w % 2 == 1

/-- The 32 bytes of a record with its CODE (R411). -/
def recBytes (r : ResRec) : List Byte :=
  let b := recBody r
  b ++ leBytes 2 (if hasFlag r.flags fPoison then tc b ^^^ poisonMark else tc b)

/-- A record with every field zero. -/
def recZero : ResRec :=
  { objId := 0, frameCnt := 0, tExp := 0, tAct := 0, priClass := 0, priConf := 0, pipe := 0, fbClass := 0, verdict := 0,
    doubt := false, priVoid := false, duplicated := false, kind := 0, underrun := false, edge := false, actSat := false,
    flags := 0, tUnc := 0, cores := [] }

/-! ### The formatter (R407 to R409, R412, R421) -/

/-- The port and place of the stream that a flow feeds. -/
def streamOf (s : State) (flow : Nat) : Option (Nat × Nat) :=
  s.eports.findSome? (fun e => (e.2.streams.findIdx? (fun x => x.flow == flow)).map (fun k => (e.1, k)))

/-- A stream of a port changed. -/
def setStreamAt (p : EPort) (k : Nat) (x : EStream) : EPort := { p with streams := p.streams.set k x }

/-- The stub slot of SEQ is free (R407). -/
def stubFree (s : State) (flow seq : Nat) : Bool :=
  match streamOf s flow with
  | none => true
  | some (p, k) => match (eportOf s p).streams[k]? with
    | some x => (tabGet? x.stubs (seq % 1024)).isNone
    | none => true

/-- The cluster delivers a stub to the formatter, when the flow feeds a stream (R407). -/
def deliverStub (s : State) (flow : Nat) (st : Stub) : State :=
  match streamOf s flow with
  | none => s
  | some (p, k) => match (eportOf s p).streams[k]? with
    | some x => setEport s p (setStreamAt (eportOf s p) k { x with stubs := tabSet (st.seq % 1024) st x.stubs })
    | none => s

/-- What the reorder stage releases (table *Released result*), with the cores that ran the item (R429). -/
structure Released where
  flow : Nat
  seq : Nat
  f : Nat
  rel : Nat
  status : Status
  post : PostVal
  void : Bool
  err : Bool
  dupMismatch : Bool
  poison : Bool
  slip : Bool
  duplicated : Bool
  cores : List Nat
deriving DecidableEq, Repr

/-- The fields of a stub that never came, as of an item that no object stands behind: free values (log entry 28). -/
def stubFreeVal (n seq : Nat) : Stub :=
  { seq := seq, frameCnt := Config.freeNat n 1 % 2 ^ 32, tObj := Config.freeNat n 2 % 2 ^ 64,
    tUnc := Config.freeNat n 3 % 2 ^ 16, pipe := Config.freeNat n 4 % 64, flags := Config.freeNat n 5 % 1024,
    oflags := Config.freeNat n 6 % 256, fbClass := Config.freeNat n 7 % 2 ^ 16, poison := false }

/-- T_ACT and ACT_SAT (R409). -/
def actOf (x : EStream) (r : Released) : Nat × Bool :=
  let v : Int := x.actDelay + (if x.actAux && ! r.void && ! r.err then signedOf 32 r.post.aux else 0)
  (unsignedOf 32 (clampInt v 0 4294967295), decide (v < 0) || decide (4294967295 < v))

/-- The record of a released result and its stub (R408 to R410). -/
def buildRecord (x : EStream) (st : Stub) (r : Released) : ResRec :=
  let void := r.void || r.err
  let poison := bitAt st.oflags 7 || st.poison || r.poison
  let act := actOf x r
  { recZero with
    objId := st.seq, frameCnt := st.frameCnt, tExp := st.tObj, tAct := act.1, priClass := if void then 0 else r.post.cls,
    priConf := if void then 0 else r.post.conf, pipe := st.pipe, fbClass := st.fbClass, priVoid := void,
    duplicated := r.duplicated, edge := decide (0 < st.oflags % 64), actSat := act.2,
    flags := st.flags % 1024 + bit01 (bitAt st.oflags 6) * fStale + bit01 poison * fPoison +
      bit01 r.dupMismatch * fDupMismatch + bit01 r.slip * fSlip,
    tUnc := st.tUnc, cores := r.cores }

/-- A port's queue holds a result of a stream. -/
def resultWaits (p : EPort) (k : Nat) : Bool := p.queue.any (fun e => e.1 == k && e.2.kind == 0)

/-- The formatter can take a result of a flow: it cannot while the fill bank is full and a result of the stream already
waits before it (R291, R418). DEDUCED: log entry 63. -/
def formatterReady (s : State) (flow : Nat) : Bool :=
  match streamOf s flow with
  | none => true
  | some (p, k) => ! (decide (256 ≤ (eportOf s p).fill.length) && resultWaits (eportOf s p) k)

/-- The formatter joins a released result to its stub, frees the stub, and presents the record (R408).
DESIGN CHOICE: log entry 28. -/
def formatResult (s : State) (r : Released) : State :=
  match streamOf s r.flow with
  | none => s
  | some (p, k) =>
    let q := eportOf s p
    match q.streams[k]? with
    | none => s
    | some x =>
      let stub := match tabGet? x.stubs (r.seq % 1024) with
        | some st => if st.seq = r.seq then some st else none
        | none => none
      let rec_ := buildRecord x (stub.getD (stubFreeVal s.freeCnt r.seq)) r
      let x := if stub.isSome then { x with stubs := tabErase (r.seq % 1024) x.stubs } else x
      setEport { s with freeCnt := if stub.isSome then s.freeCnt else s.freeCnt + 1 } p
        { setStreamAt q k x with queue := q.queue ++ [(k, rec_)] }

/-- A frame-aborted record goes to the stream of a flow; beyond 64 in its queue it is dropped and counted (R412, R421). -/
def abortRecord (s : State) (flow objId f tExp reason flags : Nat) : State :=
  match streamOf s flow with
  | none => s
  | some (p, k) =>
    let q := eportOf s p
    if 64 ≤ (q.queue.filter (fun e => e.1 == k && e.2.kind == 1)).length then
      postEvent (bump (setEport s p { q with discarded := q.discarded + 1 }) 6 p 7 1) 0x010D 6 p
        (leBytes 1 p ++ leBytes 1 k ++ leBytes 2 0 ++ leBytes 4 f)
    else
      let r := { recZero with objId := objId, frameCnt := f, tExp := tExp, priClass := reason, verdict := 2, kind := 1,
                              flags := flags % 1024 }
      setEport s p { q with queue := q.queue ++ [(k, r)] }

/-- The stubs of a flow's objects other than those kept are dropped: those objects are discarded (R216). -/
def dropStubs (s : State) (flow : Nat) (keep : List Nat) : State :=
  match streamOf s flow with
  | none => s
  | some (p, k) => match (eportOf s p).streams[k]? with
    | some x => setEport s p (setStreamAt (eportOf s p) k { x with
        stubs := x.stubs.filter (fun e => keep.contains e.2.seq) })
    | none => s

/-! ### Substitution (R428, R429, R432, R433) -/

/-- A condition covers the fallback verdict too (column Covers of *Doubt sources*). -/
def coversBoth (c : Cond) : Bool :=
  match c.source with
  | 1 => c.kind == kindFbc
  | 3 | 4 | 10 | 11 | 12 | 13 | 14 => true
  | 9 => c.scope == 1 || (decide (18 ≤ c.scope) && decide (c.scope ≤ 49)) || c.scope == 54
  | _ => false

/-- A graph places a CORE node on a core. -/
def placesCore (s : State) (g : Nat) (p : Nat → Bool) : Bool :=
  tabAny (fun _ n => n.kind == 2 && n.graph == g && p n.unit) s.nodes

/-- A record of a stream lies in a condition's scope (table *Record scopes*). -/
def inScope (s : State) (x : EStream) (r : ResRec) (kind scope : Nat) : Bool :=
  let g := (tabGet? s.pool.flows x.flow).elim 0xFFFF (fun f => f.graph)
  match kind with
  | 1 =>
    if 2 ≤ scope ∧ scope ≤ 17 then
      r.cores.any (fun c => c / 16 == scope - 2) || placesCore s g (fun c => c / 16 == scope - 2)
    else if 18 ≤ scope ∧ scope ≤ 33 then r.pipe / 4 == scope - 18
    else if 34 ≤ scope ∧ scope ≤ 49 then r.pipe / 4 == scope - 34
    else true
  | 2 => r.cores.contains scope || placesCore s g (fun c => c == scope)
  | 3 => r.pipe / 4 == scope / 6
  | 4 => r.pipe / 4 == scope
  | 5 => r.pipe == scope
  | 6 => x.flow == scope
  | 7 => g == scope
  | _ => true

/-- Some condition that is not CLEAR and satisfies a test holds the record in its scope. -/
def doubtOver (s : State) (x : EStream) (r : ResRec) (p : Cond → Bool) : Bool :=
  s.safety.conds.any (fun c => c.st != .clear && p c && inScope s x r c.kind c.scope)

/-- The record bits that RECORD_MASK names, in its order (table *Policy record*). -/
def recordBits (r : ResRec) : Nat :=
  bit01 r.priVoid + 2 * bit01 (hasFlag r.flags fPoison) + 4 * bit01 (hasFlag r.flags fLate) +
  8 * bit01 (hasFlag r.flags fDupMismatch) + 16 * bit01 (hasFlag r.flags fStale) + 32 * bit01 (hasFlag r.flags fSlip) +
  64 * bit01 r.edge + 128 * bit01 (hasFlag r.flags fStraddle)

/-- DOUBT and VERDICT of a RESULT record at its acceptance (R432). -/
def substitute (s : State) (x : EStream) (r : ResRec) : ResRec :=
  let pol := s.safety.policy
  let rec_ := decide (recordBits r &&& polRecordMask pol ≠ 0) || decide (r.flags % 1024 &&& polFrameMask pol ≠ 0)
  let pri := rec_ || doubtOver s x r (fun _ => true)
  let fb := r.fbClass == 0xFFFF || doubtOver s x r coversBoth
  if s.safety.smFault then { r with verdict := 2, doubt := true }
  else
    { r with doubt := pri || fb, verdict := if ! s.safety.armed || ! pri then 0 else if ! fb then 1 else 2 }

/-- A record accepted with VERDICT 1 or 2 holds DOUBT_N low for PULSE (R433). -/
def substitutionPulse (s : State) (verdict : Nat) : State :=
  if verdict = 0 then s
  else updateDoubt { s with safety := { s.safety with pulseEnd := some (s.time + polPulse s.safety.policy) } }

/-! ### Acceptance (R413, R418, R419) -/

/-- Records held in both banks (R417). -/
def fillOf (p : EPort) : Nat := p.fill.length + p.readB.length

/-- The watermark pin follows the fill (R419). -/
def watermark (p : EPort) : EPort :=
  if p.wmHi ≤ fillOf p then { p with wm := .hi } else if fillOf p ≤ p.wmLo then { p with wm := .lo } else p

/-- The age test of a record accepted now: LATE and STRADDLE (R413). -/
def ageTest (now : Nat) (x : EStream) (r : ResRec) : ResRec :=
  let b := r.tExp + x.ageMax
  { r with flags := r.flags + bit01 (decide (b ≤ now)) * fLate + bit01 (straddles now (r.tUnc + 16) b) * fStraddle }

/-- AGE_LATE, once per stream in each counter window (R413). -/
def lateEvent (s : State) (p k : Nat) (x : EStream) (r : ResRec) : State :=
  let w := windowOf s.time
  if x.lateWindow = some w then s
  else
    let s := setEport s p (setStreamAt (eportOf s p) k { x with lateWindow := some w })
    postEvent s 0x010C 6 p (leBytes 1 p ++ leBytes 1 k ++ leBytes 2 0 ++ leBytes 4 r.objId)

/-- A record enters the fill bank. -/
def putRecord (s : State) (p : Nat) (r : ResRec) : State :=
  let q := eportOf s p
  setEport s p (watermark { q with queue := q.queue.tail, fill := q.fill ++ [r] })

/-- A RESULT record is accepted: the age monitor, then the policy (R413, R432). -/
def acceptResult (s : State) (p k : Nat) (x : EStream) (r : ResRec) : State :=
  let r := ageTest s.time x r
  let s := if hasFlag r.flags fLate then lateEvent (bump s 6 p 3 1) p k x r else s
  let s := if hasFlag r.flags fStraddle then bump s 6 p 4 1 else s
  let r := substitute s x r
  let s := if r.verdict = 1 then bump s 6 p 5 1 else s
  substitutionPulse (putRecord s p r) r.verdict

/-- A frame-aborted record is accepted: not tested; SM_FAULT marks it too; its VERDICT is 2, so DOUBT_N's pulse begins
(R412, R413, R425, R433). DEDUCED: log entry 63. -/
def acceptAborted (s : State) (p : Nat) (r : ResRec) : State :=
  let r := if s.safety.smFault then { r with doubt := true } else r
  substitutionPulse (putRecord (bump s 6 p 6 1) p r) 2

/-- The port's island runs and the port is started. -/
def portLive (s : State) (p : Nat) : Bool := (eportOf s p).running && islandRuns s 54

/-- RECORD_ACCEPT: the port takes the first record presented to it while its fill bank has room. -/
def doRecordAccept (port : Nat) (s : State) : State :=
  let q := eportOf s port
  if ! portLive s port || decide (256 ≤ q.fill.length) then s
  else match q.queue with
    | [] => s
    | (k, r) :: _ =>
      if r.kind = 1 then acceptAborted s port r
      else match q.streams[k]? with
        | some x => acceptResult s port k x r
        | none => s

/-- RECORD_ACCEPT (R418). -/
def execRecordAccept (port : Nat) (s : State) : Host.Outcome State Fault Refusal := .next (doRecordAccept port s)

/-! ### Reader slots (R416, R417, R420) -/

/-- The banks swap when the read bank is empty and the fill bank is not (R417). -/
def swapBanks (p : EPort) : EPort :=
  if p.readB = [] then { p with readB := p.fill, fill := [] } else p

/-- The record that an underrun slot carries (R420). -/
def underrunRec (p : EPort) : ResRec :=
  match p.last with
  | some r => { r with underrun := true }
  | none => { recZero with kind := 2, underrun := true }

/-- A record as it is read with what ECC finds in its granule: an uncorrectable error poisons it (R186, R411).
DEDUCED: log entry 70. -/
def readRecord (r : ResRec) (found : EccFind) : ResRec :=
  if found = .uncorrectable ∧ ! hasFlag r.flags fPoison then { r with flags := r.flags + fPoison } else r

/-- EGRESS_SLOT: a slot of 16 reader clocks, from the choice of its record to the launch of byte 31; `found` is what ECC finds
in the FIFO where the slot reads a record. -/
def doEgressSlot (port : Nat) (found : EccFind) (s : State) : State :=
  if ! portLive s port then s
  else
    let q := swapBanks (eportOf s port)
    match q.readB with
    | r :: t =>
      let r := readRecord r found
      bump (setEport (fifoEcc s port found) port (watermark { q with readB := t, last := some r, out := recBytes r })) 6 port 0 1
    | [] => bump (setEport s port { q with out := recBytes (underrunRec q), underruns := q.underruns + 1, urun := .hi })
        6 port 1 1

/-- EGRESS_SLOT (R416). -/
def execEgressSlot (port : Nat) (found : EccFind) (s : State) : Host.Outcome State Fault Refusal :=
  .next (doEgressSlot port found s)

/-! ### Commands (R415, R420, R421) -/

/-- A stream from its entry. -/
def streamFrom (b : List Byte) : EStream :=
  { flow := fieldAt b 0 2, actAux := bitAt (fieldAt b 2 2) 0, actDelay := fieldAt b 4 4, ageMax := fieldAt b 8 4,
    stubs := [], lateWindow := none }

/-- A flow keeps R406: ordered, spawned by an OBX node with SPAWN set. -/
def flowFits (s : State) (flow : Nat) : Bool :=
  match tabGet? s.pool.flows flow with
  | none => false
  | some f =>
    let d := nodeDesc s f.spawner
    f.ordered && (tabGet? s.nodes f.spawner).elim false (fun n => n.kind == 1) && fieldAt d 0 1 == 0x06 &&
      bitAt (fieldAt d 2 1) 4

/-- The fields of the streams in order, each with whether it fails and its offset. -/
def entryFaults (es : List (List Byte)) (p : List Byte → List (Bool × Nat)) : List (Bool × Nat) :=
  es.zipIdx.flatMap (fun e => (p e.1).map (fun x => (x.1, 16 + 12 * e.2 + x.2)))

/-- The first field of an egress channel body out of its range. DEDUCED: log entry 63. -/
def egressBody (s : State) (e : List Byte) : Option Nat :=
  let n := fieldAt e 12 1
  let checks : List (Bool × Nat) :=
    [(decide (7 < fieldAt e 2 2), 2), (decide (fieldAt e 8 2 < 1 ∨ 512 < fieldAt e 8 2), 8),
     (decide (fieldAt e 8 2 ≤ fieldAt e 10 2), 10), (decide (n < 1 ∨ 8 < n), 12)] ++
    entryFaults (streamEntries e) (fun b => [(! flowFits s (fieldAt b 0 2), 0), (fieldAt b 4 4 == 0, 4),
      (fieldAt b 8 4 == 0 || decide (fieldAt b 4 4 ≤ fieldAt b 8 4), 8)]) ++
    [(! zeroAt e (16 + 12 * n) (12 * (8 - n)), 16 + 12 * n)]
  (checks.find? (fun x => x.1)).map (fun x => x.2)

/-- The graph of a flow, when it is bound. -/
def flowGraph (s : State) (flow : Nat) : Option Graph :=
  (tabGet? s.pool.flows flow).bind (fun f => tabGet? s.graphs f.graph)

/-- A graph is RUNNING or HELD. -/
def graphActive (g : Graph) : Bool := g.st != .loaded

/-- A flow's graph is RUNNING or HELD. -/
def flowActive (s : State) (flow : Nat) : Bool := (flowGraph s flow).elim false graphActive

/-- EGRESS_START (R415). DEDUCED: log entry 29. -/
def cmdEgressStart (h : CmdHdr) (channel r : Nat) (s : State) : State × CmdRes :=
  if r ≠ 0 then refuseAt s .badField 2
  else match fetchEntry s h.domain channel 3 0 with
    | (s, .inl r) => (s, r)
    | (s', .inr e) =>
      match egressBody s e with
      | some off => (s', .done .badParam (detailOf off channel 2))
      | none =>
        let p := fieldAt e 2 2
        let xs := (streamEntries e).map streamFrom
        let ids : List Nat := xs.map (fun x => x.flow)
        if xs.any (fun x => (flowGraph s x.flow).elim false (fun g => g.dom != h.domain)) then refuse s' .denied
        else if (eportOf s p).running || xs.any (fun x => (streamOf s x.flow).isSome) || ! decide (ids.Nodup) ||
            xs.any (fun x => flowActive s x.flow) then refuse s' .busy
        else if ! islandRuns s 54 then refuse s' .islandOff
        else okDone (setEport s' p { eportReset with
          running := true, chan := channel, dom := h.domain, wmHi := fieldAt e 8 2, wmLo := fieldAt e 10 2, streams := xs,
          out := List.replicate 32 0, wm := .lo, urun := .lo, driven := true })

/-- EGRESS_START. -/
def execEgressStart (h : CmdHdr) (channel r : Nat) (s : State) : Host.Outcome State Fault Refusal :=
  .next (runCommand h 0x010C (cmdEgressStart h channel r) s)

/-- What EGRESS_STOP discards: records in the FIFO and the queue, and stubs (R421). -/
def discardCount (q : EPort) : Nat :=
  fillOf q + q.queue.length + q.streams.foldl (fun n x => n + x.stubs.length) 0

/-- EGRESS_STOP (R421). -/
def cmdEgressStop (port r : Nat) (s : State) : State × CmdRes :=
  let q := eportOf s port
  if port ≤ 7 ∧ q.running = false then refuse s .state
  else if r ≠ 0 then refuseAt s .badField 1
  else if 7 < port then refuseAt s .badParam 0
  else if q.streams.any (fun x => flowActive s x.flow) then refuse s .busy
  else okWith (bump (setEport s port eportReset) 6 port 7 (discardCount q)) (leBytes 4 (satTo 32 (discardCount q)))

/-- EGRESS_STOP. -/
def execEgressStop (h : CmdHdr) (port r : Nat) (s : State) : Host.Outcome State Fault Refusal :=
  .next (runCommand h 0x010D (cmdEgressStop port r) s)

/-- EGRESS_URUN_CLEAR (R420). -/
def cmdEgressUrunClear (port r : Nat) (s : State) : State × CmdRes :=
  let q := eportOf s port
  if port ≤ 7 ∧ q.running = false then refuse s .state
  else if r ≠ 0 then refuseAt s .badField 1
  else if 7 < port then refuseAt s .badParam 0
  else okWith (setEport s port { q with urun := .lo, underruns := 0 }) (leBytes 4 (satTo 32 q.underruns))

/-- EGRESS_URUN_CLEAR. -/
def execEgressUrunClear (h : CmdHdr) (port r : Nat) (s : State) : Host.Outcome State Fault Refusal :=
  .next (runCommand h 0x010E (cmdEgressUrunClear port r) s)

end Sys2Proof.Machine
end

