-- ==== Sys2Proof/Machine/Power.lean ====
section
/-! DEFINITION. Seasons, energy tokens, the power cap, temperature and the stopping of islands (R443 to R461). -/

namespace Sys2Proof.Machine

open Sys2Proof

/-! ### Points and budgets of the seasons (R443, R444) -/

/-- Nominal core-group clock in kHz (table *Core-group points*). -/
def nominalKhz : Season → Nat
  | .winter => 200000
  | _ => 250000

/-- Floor clock in kHz. -/
def floorKhz : Season → Nat
  | .spring => 200000
  | .summer => 250000
  | .autumn => 200000
  | .winter => 150000

/-- The VRM set-point of a season in mV (R35). -/
def vrmSet : Season → Nat
  | .summer => 800
  | _ => 745

/-- P_floor in W (table *Token budgets per epoch*). -/
def pFloor : Season → Nat
  | .spring => 225
  | .summer => 290
  | .autumn => 200
  | .winter => 120

/-- G and X of the graph class of a CG group. -/
def cgGraph : Season → Nat × Nat
  | .spring => (48, 96)
  | .summer => (64, 128)
  | .autumn => (48, 80)
  | .winter => (32, 48)

/-- G and X of the pool class of a CG group. -/
def cgPool : Season → Nat × Nat
  | .spring => (96, 160)
  | .summer => (96, 192)
  | .autumn => (64, 96)
  | .winter => (16, 32)

/-- G and X of the graph class of a VC group. -/
def vcGraph : Season → Nat × Nat
  | .spring => (24, 40)
  | .summer => (32, 64)
  | .autumn => (24, 40)
  | .winter => (16, 24)

/-- Island groups: 0 to 15 are CG00 to CG15, 16 to 31 are VC00 to VC15. -/
def isCG (g : Nat) : Bool := decide (g < 16)

/-- The safety partition of a group. -/
def safetyTokens (g : Nat) : Nat := if isCG g then 24 else 12

/-- The graph-class budget of a group as (G, X). -/
def graphRange (x : Season) (g : Nat) : Nat × Nat := if isCG g then cgGraph x else vcGraph x

/-- The levels of the graph class and the pool class (R451). -/
def lambdas (x : Season) (l : Nat) : Nat × Nat :=
  if x = .winter then (min 16 (2 * l), 2 * l - 16) else (l, l)

/-- An issue between G and X at a level (R447). -/
def issueOf (r : Nat × Nat) (l : Nat) : Nat := r.1 + (r.2 - r.1) * l / 16

/-- What an epoch issues to a group. -/
def issueTo (x : Season) (l g : Nat) : Budget :=
  { graph := issueOf (graphRange x g) (lambdas x l).1, pool := if isCG g then issueOf (cgPool x) (lambdas x l).2 else 0,
    safety := safetyTokens g }

/-- A group's budget in the epoch in progress; before the first epoch start, the issue of the season and level. -/
def budgetOf (s : State) (g : Nat) : Budget := tabGet (issueTo s.power.season s.power.lambda g) s.power.budgets g

/-- Which budget a draw goes to (R203, R449). -/
inductive Purse where
  | graph
  | pool
  | safety
deriving DecidableEq, Repr

/-- What is left in a budget. -/
def purseLeft (b : Budget) : Purse → Int
  | .graph => b.graph
  | .pool => b.pool
  | .safety => b.safety

/-- A draw from a budget. -/
def drawFrom (b : Budget) (p : Purse) (c : Nat) : Budget :=
  match p with
  | .graph => { b with graph := b.graph - c }
  | .pool => { b with pool := b.pool - c }
  | .safety => { b with safety := b.safety - c }

/-- A group holds `c` tokens for a start (R203, R448). -/
def hasTokens (s : State) (g : Nat) (p : Purse) (c : Nat) : Bool := c == 0 || decide ((c : Int) ≤ purseLeft (budgetOf s g) p)

/-- Tokens are drawn from a group. -/
def drawTokens (s : State) (g : Nat) (p : Purse) (c : Nat) : State :=
  if c = 0 then s
  else { s with power := { s.power with budgets := tabSet g (drawFrom (budgetOf s g) p c) s.power.budgets } }

/-! ### Units and their groups -/

/-- The vision engine of a node: 6k + e, with e from the descriptor's TYPE. -/
def nodeEngine (s : State) (n : Nat) (x : Node) : Nat := 6 * (x.unit % 16) + (fieldAt (nodeDesc s n) 0 1 - 1)

/-- The DMA engine of a channel. -/
def chanEngine (s : State) (c : Nat) : Nat := (tabGet? s.dma c).elim 0 (fun x => x.engine)

/-- Class and index of the unit that a node runs on (R463); none for SOURCE, JOIN and EMPTY. -/
def nodeUnit (s : State) (n : Nat) (x : Node) : Option (Nat × Nat) :=
  match x.kind with
  | 1 => some (3, nodeEngine s n x)
  | 2 => some (0, x.unit)
  | 3 => some (2, chanEngine s x.unit)
  | _ => none

/-- The island group of a unit; an FBC is named by the index of its island (R514). -/
def unitGroup (cls unit : Nat) : Nat :=
  match cls with
  | 0 => unit / 16
  | 2 => unit / 2
  | 3 => 16 + unit / 6
  | _ => unit - 2

/-- The budget that a node draws from. -/
def nodePurse (x : Node) : Purse := if x.safety then .safety else .graph

/-- What a node that runs draws, with its unit. -/
def nodeDraw (s : State) (n : Nat) (x : Node) : Option ((Nat × Nat) × Purse × Nat) :=
  (nodeUnit s n x).map (fun u => (u, nodePurse x, x.eclass))

/-- A node's run holds its unit: that of a core that was fenced under it does not (R296). -/
def nodeRuns (s : State) (x : Node) : Bool :=
  x.run.elim false (fun r => x.kind != 2 || r.unitDone || (coreOf s x.unit).unit.isSome)

/-- Nodes of a stopped graph whose engine or channel still ends its run (R140, R336). -/
def endingNodes (s : State) : List Nat :=
  s.engines.filterMap (fun e => if e.2.stopping then e.2.node else none) ++
  s.dma.filterMap (fun e => if e.2.stopping then e.2.run.bind (fun r => r.node) else none)

/-- A golden run is in progress on the unit. -/
def goldenRuns (s : State) (cls unit : Nat) : Bool :=
  s.safety.golden.any (fun g => g.cls == cls && g.unit == unit && g.started.isSome && ! g.done)

/-- The units that a group's test stalls (table *Self-test groups*). -/
def groupStalls (g cls unit : Nat) : Bool :=
  match g with
  | 2 => cls == 0 && decide (unit < 128)
  | 3 => cls == 0 && decide (128 ≤ unit)
  | 4 => cls == 2
  | 5 => cls == 3
  | _ => false

/-- The self-test in progress stalls the unit (R440). -/
def unitStalled (s : State) (cls unit : Nat) : Bool :=
  s.safety.monthRunning && groupStalls (s.safety.month % 12) cls unit

/-- The draws of units that run their own work: (unit, budget, class) (R203, R448). -/
def unitDraws (s : State) : List ((Nat × Nat) × Purse × Nat) :=
  (s.nodes.filterMap (fun e => if nodeRuns s e.2 then nodeDraw s e.1 e.2 else none)) ++
  ((endingNodes s).filterMap (fun n => (tabGet? s.nodes n).bind (nodeDraw s n))) ++
  (s.pool.flows.flatMap (fun e => e.2.window.flatMap (fun i => i.copies.filterMap (fun c =>
    if c.ended then none else some ((0, c.core), if e.2.safety then Purse.safety else .pool, i.eclass))))) ++
  (s.safety.golden.filterMap (fun g => if g.started.isSome && ! g.done then some ((g.cls, g.unit), Purse.safety, 1)
    else none))

/-- The units that a group's test stalls: every one of them is named (table *Self-test groups*). -/
def stallUnits (g : Nat) : List (Nat × Nat) :=
  match g with
  | 2 => (List.range 128).map (fun u => (0, u))
  | 3 => (List.range 128).map (fun u => (0, 128 + u))
  | 4 => (List.range 32).map (fun u => (2, u))
  | 5 => (List.range 96).map (fun u => (3, u))
  | _ => []

/-- The draws of a group's self-test stalls: class 1 from the safety partition for each stalled unit of a running island that
does not draw from it already, as admission counts them (R203, R446, R449). DEDUCED: log entry 66. -/
def stallDraws (s : State) (g : Nat) : List ((Nat × Nat) × Purse × Nat) :=
  let busy := (unitDraws s).filterMap (fun d => if d.2.1 = .safety then some d.1 else none)
  ((stallUnits g).filter (fun u => islandRuns s (islandOf u.1 u.2) && ! busy.contains u)).map (fun u => (u, Purse.safety, 1))

/-- The draws of units that run: (group, budget, class) (R203, R446, R448). -/
def runningDraws (s : State) : List (Nat × Purse × Nat) :=
  (unitDraws s ++ (if s.safety.monthRunning then stallDraws s (s.safety.month % 12) else [])).map
    (fun d => (unitGroup d.1.1 d.1.2, d.2))

/-- Every group holds the tokens of a list of draws (R448). -/
def holdsAll (s : State) (ds : List ((Nat × Nat) × Purse × Nat)) : Bool :=
  (List.range 32).all (fun g => hasTokens s g .safety (((ds.filter (fun d => unitGroup d.1.1 d.1.2 == g)).map (·.2.2)).sum))

/-- The tokens of a list of draws are drawn. -/
def drawAll (s : State) (ds : List ((Nat × Nat) × Purse × Nat)) : State :=
  ds.foldl (fun s d => drawTokens s (unitGroup d.1.1 d.1.2) d.2.1 d.2.2) s

/-- The amount by which a budget is below zero. -/
def below (i : Int) : Nat := (-i).toNat

/-- Budgets at an epoch start: the issues less the draws of units that run, with the shortfall (R447, R448). -/
def epochBudgets (s : State) (l : Nat) : Tab Budget × Nat :=
  let bs : Tab Budget := (List.range 32).map (fun g => (g, issueTo s.power.season l g))
  let bs := (runningDraws s).foldl (fun t d => tabModify d.1 (fun b => drawFrom b d.2.1 d.2.2) t) bs
  (bs, bs.foldl (fun n e => n + below e.2.graph + below e.2.pool + below e.2.safety) 0)

/-! ### The throttle loop (R450 to R453) -/

/-- The hottest reading, in 1/16 °C. -/
def hottest (p : PowerUnit) : Int := p.temps.foldl max (p.temps.headD 0)

/-- One step at an epoch start: the level, the clock, and whether a step down was made. -/
def throttleStep (p : PowerUnit) (powerMw : Nat) : Nat × Nat × Bool :=
  let hot := hottest p
  if decide (1000 * p.cap < powerMw) || decide ((16 * p.th : Nat) ≤ hot) then
    if 0 < p.lambda then (p.lambda - 1, p.cgKhz, true)
    else if floorKhz p.season < p.cgKhz then (p.lambda, p.cgKhz - 6250, true)
    else (p.lambda, p.cgKhz, false)
  else if decide (powerMw < 970 * p.cap) && decide (hot < (16 * p.th : Nat) - 48) then
    if p.cgKhz < nominalKhz p.season then (p.lambda, p.cgKhz + 6250, false)
    else if p.lambda < 16 then (p.lambda + 1, p.cgKhz, false)
    else (p.lambda, p.cgKhz, false)
  else (p.lambda, p.cgKhz, false)

/-- POWER_THROTTLE at the first step down after 1 ms without one (R452). -/
def throttleEvent (s : State) (down : Bool) : State :=
  if ! down then s
  else
    let quiet := match s.power.lastDown with
      | none => true
      | some t => decide (t + 4000000 ≤ s.time)
    let s := { s with power := { s.power with lastDown := some s.time } }
    if quiet then
      postEvent s 0x0600 11 0 (leBytes 1 s.power.lambda ++ leBytes 1 0 ++ leBytes 2 (s.power.cgKhz / 250))
    else s

/-- CAP_UNMET after 250 epochs over the cap at the floors, once per counter window (R453). -/
def capUnmet (s : State) (before : PowerUnit) (powerMw : Nat) : State :=
  if decide (1000 * before.cap < powerMw) && before.lambda == 0 && before.cgKhz == floorKhz before.season then
    let n := s.power.unmet + 1
    let w := windowOf s.time
    let s := { s with power := { s.power with unmet := n } }
    if 250 ≤ n ∧ s.power.unmetWindow ≠ some w then
      postEvent { s with power := { s.power with unmetWindow := some w } } 0x0601 11 0
        (leBytes 4 powerMw ++ leBytes 2 before.cap)
    else s
  else { s with power := { s.power with unmet := 0 } }

/-- BUDGET_EPOCH_START: the next epoch begins, with the controller's estimate of the one before. -/
def doBudgetEpochStart (powerMw : Nat) (s : State) : State :=
  if ! aonRuns s || s.rst.tripped then s
  else
    let s := advanceTo s ((s.power.epoch + 1) * 16000)
    let p := { s.power with cap := s.power.nextCap }
    let (l, khz, down) := throttleStep p powerMw
    let (bs, short) := epochBudgets s l
    let s := { s with power := { p with
      epoch := s.time / 16000, lambda := l, cgKhz := khz, powerMw := powerMw, budgets := bs,
      overdraw := satTo 32 (s.power.overdraw + short) } }
    capUnmet (throttleEvent s down) p powerMw

/-- BUDGET_EPOCH_START (R447, R448, R452). -/
def execBudgetEpochStart (powerMw : Nat) (s : State) : Host.Outcome State Fault Refusal := .next (doBudgetEpochStart powerMw s)

/-- POWER_CAP_SET (R450). -/
def cmdPowerCapSet (watts r : Nat) (s : State) : State × CmdRes :=
  if r ≠ 0 then refuseAt s .badField 2
  else if watts < 120 ∨ 420 < watts ∨ watts < pFloor s.power.season then refuseAt s .badParam 0
  else okDone { s with power := { s.power with nextCap := watts } }

/-- POWER_CAP_SET. -/
def execPowerCapSet (h : CmdHdr) (watts r : Nat) (s : State) : Host.Outcome State Fault Refusal :=
  .next (runCommand h 0x0601 (cmdPowerCapSet watts r) s)

/-- POWER_STATUS (R454, R492). DEDUCED: log entry 66. -/
def cmdPowerStatus (s : State) : State × CmdRes :=
  let p := s.power
  okWith s (p.temps.flatMap (fun t => leBytes 2 (unsignedOf 16 t)) ++ leBytes 4 p.powerMw ++ leBytes 2 p.cap ++
    leBytes 1 p.th ++ leBytes 1 p.lambda ++ leBytes 1 (seasonIdx p.season) ++ leBytes 3 0 ++
    (List.range 16).flatMap (fun _ => leBytes 4 p.cgKhz) ++ leBytes 4 p.overdraw)

/-- POWER_STATUS. -/
def execPowerStatus (h : CmdHdr) (s : State) : Host.Outcome State Fault Refusal := .next (runCommand h 0x0602 cmdPowerStatus s)

/-! ### Temperature (R454 to R456, R28, R46) -/

/-- THERM_WARN when the hottest reading comes to TH; the condition ends below it (R455). -/
def thermCheck (s : State) : State :=
  let hot := hottest s.power
  if (16 * s.power.th : Nat) ≤ hot then
    if s.power.warned then s
    else
      let k := (s.power.temps.findIdx? (fun t => t == hot)).getD 0
      postEvent { s with power := { s.power with warned := true } } 0x0602 11 0
        (leBytes 1 k ++ leBytes 1 0 ++ leBytes 2 (unsignedOf 16 hot))
  else { s with power := { s.power with warned := false } }

/-- THERMAL_SENSOR_READ, with the reading in 1/16 °C: the sensors are read whether the firmware halted or not, and
DESIGN CHOICE (log 62) a reading before FW_READY is not kept. -/
def doThermalSensorRead (sensor : Nat) (temp : Int) (s : State) : State :=
  if s.boot.fwReady && ! s.rst.tripped && decide (sensor < 64) then
    thermCheck { s with power := { s.power with temps := s.power.temps.set sensor temp } }
  else s

/-- THERMAL_SENSOR_READ (R454). -/
def execThermalSensorRead (sensor : Nat) (temp : Int) (s : State) : Host.Outcome State Fault Refusal :=
  .next (doThermalSensorRead sensor temp s)

/-- THERMAL_SET (R455). -/
def cmdThermalSet (th r : Nat) (s : State) : State × CmdRes :=
  if r ≠ 0 then refuseAt s .badField 1
  else if th < 85 ∨ 110 < th then refuseAt s .badParam 0
  else okDone (thermCheck { s with power := { s.power with th := th } })

/-- THERMAL_SET. -/
def execThermalSet (h : CmdHdr) (th r : Nat) (s : State) : Host.Outcome State Fault Refusal :=
  .next (runCommand h 0x0603 (cmdThermalSet th r) s)

/-- Pins in their reset states, as in a trip (R46, R48). -/
def releasePins (s : State) : State :=
  { s with
    eports := s.eports.map (fun e => (e.1, { e.2 with wm := .z, urun := .z, driven := false })),
    trigs := s.trigs.map (fun e => (e.1, { e.2 with pin := .z })), rst := { s.rst with pmbDriven := false } }

/-- THERMAL_TRIP: a sensor at 125 °C stops every island clock; THERM_TRIP_N and DOUBT_N go low (R28, R46, R47). The latch
holds nothing while PORST_N is asserted or VDD_AON is down. -/
def doThermalTrip (sensor : Nat) (temp : Int) (s : State) : State :=
  if decide (2000 ≤ temp) && decide (sensor < 64) && s.rst.porstN && aonPowered s then
    let s := releasePins s
    updateDoubt { s with rst := { s.rst with tripped := true } }
  else s

/-- THERMAL_TRIP (R456). -/
def execThermalTrip (sensor : Nat) (temp : Int) (s : State) : Host.Outcome State Fault Refusal :=
  .next (doThermalTrip sensor temp s)

/-! ### Changing season (R457) -/

/-- SEASON_SET: the response follows once every group holds its new point. A higher set-point of the VRM is written at once,
a lower one at the end: voltage rises before a clock and falls after it (R35, R457). DEDUCED: log entry 66. -/
def cmdSeasonSet (season r : Nat) (s : State) : State × CmdRes :=
  if tabAny (fun _ g => g.st == .running) s.graphs then refuse s .state
  else if r ≠ 0 then refuseAt s .badField 1
  else if 3 < season ∨ s.power.nextCap < pFloor (seasonOf season) then refuseAt s .badParam 0
  else if s.power.changing.isSome then refuse s .busy
  else if ! tabAll (fun _ g => bitAt g.mask season) s.graphs then refuse s .norate
  else ({ s with power := { s.power with changing := some (seasonOf season) },
                 rst := { s.rst with vrmMv := max s.rst.vrmMv (vrmSet (seasonOf season)) } }, .wait .season)

/-- SEASON_SET. -/
def execSeasonSet (h : CmdHdr) (season r : Nat) (s : State) : Host.Outcome State Fault Refusal :=
  .next (runCommand h 0x0600 (cmdSeasonSet season r) s)

/-- SEASON_CHANGE_DONE: every group holds its new point. -/
def doSeasonChangeDone (s : State) : State :=
  match s.power.changing with
  | none => s
  | some x =>
    if ! fwUp s then s
    else
      let s := { s with
        power := { s.power with season := x, changing := none, lambda := 16, cgKhz := nominalKhz x },
        rst := { s.rst with vrmMv := vrmSet x } }
      answer s .season .ok []

/-- SEASON_CHANGE_DONE (R457). -/
def execSeasonChangeDone (s : State) : Host.Outcome State Fault Refusal := .next (doSeasonChangeDone s)

/-! ### Stopping islands (R458, R460, R14) -/

/-- The islands that ISLAND_STOP and ISLAND_START name. -/
def stoppable (i : Nat) : Bool := decide (2 ≤ i) && decide (i ≤ 54) && i != 50

/-- A trigger line whose MODE is not 0, or whose accepted update has one. -/
def trigOn (t : Trig) : Bool :=
  t.sched.mode != 0 || (match t.update with
    | some u => u.mode != 0
    | none => false)

/-- An island holds what refuses its stop (R458). -/
def islandHeld (s : State) (i : Nat) : Bool :=
  if i ≤ 17 then
    let k := i - 2
    tabAny (fun n x => match nodeUnit s n x with
      | some (0, u) => u / 16 == k
      | some (2, e) => e / 2 == k
      | _ => false) s.nodes ||
    tabAny (fun _ g => g.pool.any (fun c => c / 16 == k)) s.graphs ||
    tabAny (fun _ x => x.engine / 2 == k && (x.running || x.run.isSome)) s.dma ||
    tabAny (fun _ x => x.engine / 2 == k) s.streams
  else if i ≤ 33 then tabAny (fun _ x => x.kind == 1 && x.unit % 16 == i - 18) s.nodes
  else if i ≤ 49 then
    tabAny (fun p x => p / 4 == i - 34 && (x.running || x.closing.isSome)) s.pipes ||
    tabAny (fun n t => n / 4 == i - 34 && trigOn t) s.trigs
  else if i ≤ 53 then tabAny (fun p l => p / 4 == i - 51 && l.st != .disabled) s.lports
  else tabAny (fun _ q => q.running) s.eports

/-- An island's clock bit. -/
def setIsland (s : State) (i : Nat) (on : Bool) : State :=
  let b := BitVec.ofNat 55 (2 ^ i)
  { s with islands := if on then s.islands ||| b else s.islands &&& ~~~b }

/-- What the islands' ports have accepted completes: the reads of every mover that are in flight to an island (R14). -/
def settleIsland (s : State) (island : Nat) : State :=
  ((s.dma.map (fun e => e.1)) ++ (s.streams.map (fun e => e.2.chan))).foldl (fun s c => settleReads s island c) s

/-- ISLAND_STOP (R14, R458): what the island has accepted completes; its last record is its CLOCK_STOP. -/
def cmdIslandStop (island r : Nat) (s : State) : State × CmdRes :=
  if r ≠ 0 then refuseAt s .badField 1
  else if ! stoppable island then refuseAt s .badParam 0
  else if ! s.islands.getLsbD island then okDone s
  else if islandHeld s island then refuse s .busy
  else okDone (setIsland (emitTrace (settleIsland s island) 11 island false 3 1 []) island false)

/-- ISLAND_STOP. -/
def execIslandStop (h : CmdHdr) (island r : Nat) (s : State) : Host.Outcome State Fault Refusal :=
  .next (runCommand h 0x0604 (cmdIslandStop island r) s)

/-- ISLAND_START (R458): the first record of the island is its CLOCK_RESTART. -/
def cmdIslandStart (island r : Nat) (s : State) : State × CmdRes :=
  if r ≠ 0 then refuseAt s .badField 1
  else if ! stoppable island then refuseAt s .badParam 0
  else if s.islands.getLsbD island then okDone s
  else okDone (emitTrace (setIsland s island true) 11 island false 3 2 [])

/-- ISLAND_START. -/
def execIslandStart (h : CmdHdr) (island r : Nat) (s : State) : Host.Outcome State Fault Refusal :=
  .next (runCommand h 0x0605 (cmdIslandStart island r) s)

end Sys2Proof.Machine
end

