-- ==== Sys2Proof/Machine/Units.lean ====
section
/-! DEFINITION. Units of work on cores (R222, R239, R247, R250, R251, R273): seeds, the unit placed on a core, its identifiers,
its end trace record, and what it posts. -/

namespace Sys2Proof.Machine

open Sys2Proof

/-! ### Seeds (R238, R239) -/

/-- mix32 of R238. -/
def mix32 (x : Nat) : Nat :=
  let x := x % 2 ^ 32
  let x := (x ^^^ (x / 2 ^ 16)) * 0x7feb352d % 2 ^ 32
  let x := (x ^^^ (x / 2 ^ 15)) * 0x846ca68b % 2 ^ 32
  x ^^^ (x / 2 ^ 16)

/-- The seed of a unit of work (R239). -/
def seedOf (salt hi lo : Nat) : Nat := mix32 (salt ^^^ mix32 (hi ^^^ mix32 lo))

/-- The rounding that the season sets as DEFAULT: 1 RHE in SPRING, 2 DITHER otherwise (R237, R457). -/
def defaultRound (s : State) : Nat := if s.power.season = .spring then 1 else 2

/-! ### Units of work -/

/-- The base of a core's scratchpad (R22). -/
def spmOf (c : Nat) : Nat := spmBase + c * spmStride

/-- Scratchpad rows of a core. -/
def spmRows : Nat := 6144

/-- The scalar registers at start, 0 first (R251). -/
def startRegs (c : Nat) (args : List Nat) (hi lo addr : Nat) : List Nat :=
  [0] ++ (List.range 12).map (nth args) ++ [c, hi, lo, addr % 2 ^ 32, addr / 2 ^ 32] ++ List.replicate 14 0

/-- A unit of work placed on a core, before its first instruction is fetched (R250, R251). -/
def newUnit (s : State) (c : Nat) (w : Work) (salt hi lo list len cyc : Nat) (args : List Nat) (addr : Nat) : CoreUnit :=
  { work := w, hi := hi, lo := lo, seed := seedOf salt hi lo, rnd := defaultRound s, list := list, listLen := len,
    cycMax := cyc, start := s.time, regs := startRegs c args hi lo addr, taint := 0, pc := 0, begun := false, ended := false,
    status := .ok, issued := 0, pendingIssue := none, ops := [], accSat := 0, outSat := 0, oob := 0, vout := 0, parity := 0,
    posted := none, postsLost := 0, refused := none, fails := [] }

/-- The salt of a graph. -/
def saltOf (s : State) (g : Nat) : Nat := (tabGet? s.graphs g).elim 0 (fun x => x.salt)

/-- The work identifier of an item (R466). -/
def itemWork (flow seq : Nat) : Nat := 2 ^ 31 + flow * 2 ^ 19 + seq % 2 ^ 19

/-- The work identifier of a unit of work (R466). -/
def unitWork (u : CoreUnit) : Nat :=
  match u.work with
  | .node _ => nodeWork u.lo u.hi
  | .item _ _ _ => itemWork u.hi u.lo

/-- The end trace record of a unit of work with its two extension records (R247, R465). The cycles it ran are a free value:
the model holds no clock edges (log entry 8). -/
def unitTraceEnd (s : State) (c : Nat) (u : CoreUnit) : State :=
  let cycles := Config.freeNat s.freeCnt c % 2 ^ 32
  emitTrace { s with freeCnt := s.freeCnt + 1 } 0 c false 1 (unitWork u)
    [(satTo 32 u.accSat, satTo 32 u.outSat, statusCode u.status, satTo 8 u.parity, satTo 32 u.oob),
     (satTo 32 u.postsLost, cycles, 0, 0, u.refused.getD 0xFFFFFFFF)]

/-- The operation of a record is POST or SPAWN. -/
def opIsPost (o : CoreOp) : Bool := fieldAt o.record 0 1 == 0x0E
/-- The operation of a record is SPAWN. -/
def opIsSpawn (o : CoreOp) : Bool := fieldAt o.record 0 1 == 0x0F

/-- The fields of a POST row (R273). -/
def postRow (s : State) (c row : Nat) : PostVal :=
  let a := spmOf c + 64 * row
  let bs := getBytes s a 16
  { cls := fieldAt bs 0 2, conf := fieldAt bs 2 1, aux := fieldAt bs 4 4, poison := markOf s (granOf a) != 0 }

/-- Failing granules that a unit of work meets, each counted once (R189). -/
def noteFails (u : CoreUnit) (gs : List Nat) : CoreUnit := { u with fails := (u.fails ++ gs).eraseDups }

/-- A POST is delivered: the first of an item counts, a later one is discarded and counted (R273). -/
def deliverPost (s : State) (c : Nat) (u : CoreUnit) (row : Nat) : CoreUnit :=
  let u := noteFails u (rangeFailing s (spmOf c + 64 * row) 16)
  match u.posted with
  | none => { u with posted := some (postRow s c row) }
  | some _ => { u with postsLost := u.postsLost + 1 }

/-- The rows of an operation's write footprint become undefined (R248, R281). DESIGN CHOICE: log entry 7. -/
def scrambleRows (s : State) (c : Nat) (rows : List (Nat × Nat)) : State :=
  rows.foldl (fun s r => scramble s (spmOf c + 64 * r.1) (64 * (r.2 + 1 - r.1))) s

/-- The state with a core's unit of work set; the core's scalar registers are those of a unit that has begun (R221, R251). -/
def setUnit (s : State) (c : Nat) (u : Option CoreUnit) : State :=
  let k := coreOf s c
  setCore s c { k with unit := u, sregs := match u with
    | some x => if x.begun then x.regs else k.sregs
    | none => k.sregs }

end Sys2Proof.Machine
end

