-- ==== Sys2Proof/Machine/Planes.lean ====
section
/-! DEFINITION. Plane references (R116, R117), the sources and destinations that an engine descriptor names (R118, R122,
R127, R146, R152, R157, R162), and the region flags and headers that go with them (R119, R120, R139, R197). -/

namespace Sys2Proof.Machine

open Sys2Proof

/-! ### Plane references -/

/-- A plane reference (table *Plane reference*). -/
structure PRef where
  base : Nat
  linePitch : Nat
  planePitch : Nat
  slotPitch : Nat
  width : Nat
  height : Nat
  fmt : Nat
  planes : Nat
  slots : Nat
  bandLog : Nat
  flag0 : Nat
  resv : Nat
deriving DecidableEq, Repr

/-- The plane reference at an offset of a descriptor. -/
def pref (d : List Byte) (off : Nat) : PRef :=
  let b := bytesAt d off 32
  { base := fieldAt b 0 8, linePitch := fieldAt b 8 4, planePitch := fieldAt b 12 4, slotPitch := fieldAt b 16 4,
    width := fieldAt b 20 2, height := fieldAt b 22 2, fmt := fieldAt b 24 1, planes := fieldAt b 25 1,
    slots := fieldAt b 26 1, bandLog := fieldAt b 27 1, flag0 := fieldAt b 28 2, resv := fieldAt b 30 2 }

/-- Bytes of a sample. -/
def sampleBytes (r : PRef) : Nat := if r.fmt = 0 then 1 else 2

/-- Bands of a reference, B of R117. -/
def bandCount (r : PRef) : Nat := cdiv r.height (2 ^ r.bandLog)

/-- The slot that a run at f uses with a frame offset. -/
def slotOf (r : PRef) (f : Nat) (foff : Int) : Nat := (((f : Int) + foff) % (max 1 r.slots : Nat)).toNat

/-- A reference has region flags. -/
def hasFlags (r : PRef) : Bool := r.flag0 != 0xFFFF

/-- The region flag of a band of a slot (R117). -/
def bandFlag (r : PRef) (slot band : Nat) : Nat := r.flag0 + slot * bandCount r + band

/-- The flag of the last band of a slot. -/
def lastFlag (r : PRef) (slot : Nat) : Nat := bandFlag r slot (bandCount r - 1)

/-- Every flag of a slot. -/
def slotFlags (r : PRef) (slot : Nat) : List Nat := (List.range (bandCount r)).map (bandFlag r slot)

/-- The address of a line of a plane of a slot (R117). -/
def lineAddr (r : PRef) (slot p y : Nat) : Nat := r.base + slot * r.slotPitch + p * r.planePitch + y * r.linePitch

/-- The footprint over all slots and planes, first and past-last byte (R118). -/
def refSpan (r : PRef) : Nat × Nat :=
  (r.base, lineAddr r (r.slots - 1) (r.planes - 1) (r.height - 1) + r.width * sampleBytes r)

/-- 1, 2, 4 or 8. -/
def slotNumber (n : Nat) : Bool := n == 1 || n == 2 || n == 4 || n == 8

/-- Ranges of a plane reference's fields (table *Plane reference*, R117), at its offset. -/
def prefChecks (r : PRef) (o : Nat) : List (Bool × Nat) :=
  [(r.base % 64 == 0, o), (r.linePitch % 64 == 0 && decide (r.width * sampleBytes r ≤ r.linePitch), o + 8),
   (r.planePitch % 64 == 0 && decide (r.height * r.linePitch ≤ r.planePitch), o + 12),
   (r.slotPitch % 64 == 0 && decide (r.planes * r.planePitch ≤ r.slotPitch), o + 16),
   (decide (4 ≤ r.width) && decide (r.width ≤ 4096), o + 20), (decide (4 ≤ r.height) && decide (r.height ≤ 16384), o + 22),
   (decide (r.fmt ≤ 2), o + 24), (decide (1 ≤ r.planes) && decide (r.planes ≤ 4), o + 25), (slotNumber r.slots, o + 26),
   (decide (3 ≤ r.bandLog) && decide (r.bandLog ≤ 8), o + 27),
   (r.flag0 == 0xFFFF || decide (r.flag0 + r.slots * bandCount r ≤ 4096), o + 28)]

/-! ### What a descriptor reads and writes -/

/-- A source of an engine descriptor: its reference with its offset in the descriptor, the frame offset of the slot it
reads, the lag of R207, and its header's address at slot 0 with the header kind (true: engine). -/
structure SrcUse where
  ref : PRef
  off : Nat
  foff : Int
  lag : Nat
  hdr : Option (Nat × Bool)
deriving DecidableEq, Repr

/-- The magnitude of a negative offset; 0 of another. -/
def lagOf (i : Int) : Nat := (-i).toNat

/-- TYPE of an engine descriptor. -/
def engType (d : List Byte) : Nat := fieldAt d 0 1

/-- A source with a header. -/
def srcUse (d : List Byte) (off : Nat) (foff lag : Int) (hdrOff : Nat) (engine : Bool) : SrcUse :=
  { ref := pref d off, off := off, foff := foff, lag := lagOf lag, hdr := some (fieldAt d hdrOff 8, engine) }

/-- A source without a header. -/
def srcBare (d : List Byte) (off : Nat) (foff : Int) : SrcUse :=
  { ref := pref d off, off := off, foff := foff, lag := lagOf foff, hdr := none }

/-- PAIR of a WRP descriptor. -/
def isPair (d : List Byte) : Bool := bitAt (fieldAt d 2 1) 1

/-- The sources of a descriptor, source A first and source B second (R121, R142). DEDUCED: log entry 32. -/
def srcUses (d : List Byte) : List SrcUse :=
  let c := fieldAt d 2 1
  match engType d with
  | 1 => [srcUse d 32 0 0 8 (bitAt c 2)]
  | 2 => srcUse d 48 0 0 16 (bitAt c 3) ::
      (if isPair d then [srcUse d 112 0 (sfieldAt d 8 4) 24 (bitAt c 4)] else [])
  | 3 => [srcUse d 48 0 0 24 (bitAt c 3), srcUse d 80 (sfieldAt d 4 4) (sfieldAt d 4 4) 32 (bitAt c 4)] ++
      (if bitAt c 2 then [srcBare d 112 (sfieldAt d 18 2)] else [])
  | 4 => [srcUse d 48 0 0 24 (bitAt c 1), srcUse d 80 0 (sfieldAt d 8 4) 32 (bitAt c 2)] ++
      (if bitAt c 0 then [srcBare d 112 0] else [])
  | 5 => [srcUse d 56 0 0 24 (bitAt c 1)]
  | 6 => srcUse d 48 0 0 32 (bitAt c 3) :: (if bitAt c 2 then [srcBare d 112 0] else [])
  | _ => []

/-- The destination plane references of a descriptor with their offsets. OBX rewrites BG in place, and its flags take no
part (log entry 32). -/
def dstRefs (d : List Byte) : List (PRef × Nat) :=
  let at_ := fun (off : Nat) => (pref d off, off)
  match engType d with
  | 1 => (List.range (fieldAt d 1 1)).map (fun l => at_ (64 + 32 * l))
  | 2 => at_ 80 :: (if isPair d then [at_ 144] else [])
  | 3 => [at_ 144, at_ 176]
  | 4 => [at_ 144, at_ 176]
  | _ => []

/-- The output headers of a descriptor: addresses at slot 0 with their offsets. -/
def dstHdrs (d : List Byte) : List (Nat × Nat) :=
  match engType d with
  | 1 => [(fieldAt d 16 8, 16)]
  | 2 => (fieldAt d 32 8, 32) :: (if isPair d then [(fieldAt d 40 8, 40)] else [])
  | _ => [(fieldAt d 40 8, 40)]

/-- The list flag of a FEA run, when there is one (R157). -/
def listFlag (d : List Byte) (f : Nat) : List Nat :=
  if engType d = 5 ∧ fieldAt d 52 2 ≠ 0xFFFF then [fieldAt d 52 2 + f % max 1 (fieldAt d 54 1)] else []

/-- RELEASE_SRC, which only PYR and WRP have. -/
def releasesSrc (d : List Byte) : Bool :=
  (engType d == 1 && bitAt (fieldAt d 2 1) 1) || (engType d == 2 && bitAt (fieldAt d 2 1) 2)

/-- The last-band flags of the flagged source slots of a run (R197). -/
def sourceFlags (d : List Byte) (f : Nat) : List Nat :=
  (srcUses d).filterMap (fun u => if hasFlags u.ref then some (lastFlag u.ref (slotOf u.ref f u.foff)) else none)

/-- Every flag of the destination slots of a run (R119). -/
def destFlags (d : List Byte) (f : Nat) : List Nat :=
  (dstRefs d).flatMap (fun x => if hasFlags x.1 then slotFlags x.1 (slotOf x.1 f 0) else []) ++ listFlag d f

/-- The indices by which a node is bound to a flag as a consumer. -/
def indicesOf (s : State) (flag n : Nat) : List Nat :=
  match tabGet? s.binds flag with
  | none => []
  | some b => (b.consumers.filter (fun c => c.2 == n)).map (·.1)

/-! ### Pipelines that a graph reads (R512) -/

/-- The plane references of an ENGINE node's descriptor that read a pipeline, with their header addresses. -/
def pipeSources (d : List Byte) : List SrcUse := (srcUses d).filter (fun u => match u.hdr with
  | some (_, eng) => ! eng
  | none => false)

/-- Nodes of a graph, with their numbers. -/
def nodesOf (s : State) (g : Nat) : List (Nat × Node) := s.nodes.filter (fun e => e.2.graph == g)

/-- The plane references through which loaded graphs read the pipeline whose frame buffer begins at an address. -/
def readersOf (s : State) (fs : Nat) : List SrcUse :=
  s.nodes.flatMap (fun e => if e.2.kind = 1 then (pipeSources (nodeDesc s e.1)).filter (fun u => u.ref.base == fs) else [])

/-- The flagged reference of a pipeline's output: FLAG0 and the band size (R182). -/
def pipeRef (s : State) (fs : Nat) : Option PRef := ((readersOf s fs).find? (fun u => hasFlags u.ref)).map (fun u => u.ref)

end Sys2Proof.Machine
end

