-- ==== Sys2Proof/Machine/Arith.lean ====
section
/-! DEFINITION. Integer arithmetic of the cores: saturation (R231, R242), rounding and requantization (R236, R237), the dither
value (R238), the reciprocal and inverse square root tables (R266), and the taps of a resampling (R128, R131). -/

namespace Sys2Proof.Machine

open Sys2Proof

/-- A rounding of R237 with DEFAULT resolved. -/
inductive Rnd where
  | rhe
  | dither
  | floor
deriving DecidableEq, Repr

/-- The rounding of an RND field under a unit's default, which is 1 for RHE and 2 for DITHER (R237). -/
def rndOf (dflt n : Nat) : Rnd :=
  match (if n = 0 then dflt else n) with
  | 1 => .rhe
  | 2 => .dither
  | _ => .floor

/-- A value limited to a range, with 1 when it lay outside. -/
def satIn (v lo hi : Int) : Int × Nat := if v < lo then (lo, 1) else if hi < v then (hi, 1) else (v, 0)

/-- A value brought to S48 by saturation, with the count for acc_sat (R231, R259). -/
def satS48 (v : Int) : Int × Nat := satIn v (-140737488355328) 140737488355327

/-- A sum of exact terms that saturates after every addition (R231). -/
def satSum (init : Int) (l : List Int) : Int × Nat :=
  l.foldl (fun a x => let y := satS48 (a.1 + x); (y.1, a.2 + y.2)) (init, 0)

/-- A sum of exact terms, computed exactly and saturated once (R259). -/
def exactSum (init : Int) (l : List Int) : Int × Nat := satS48 (l.foldl (· + ·) init)

/-! ### Dither (R238) -/

/-- One xorshift step on 32 bits. -/
def xorStep (x : Nat) : Nat :=
  let x := x ^^^ (x <<< 13 % 2 ^ 32)
  let x := x ^^^ (x >>> 17)
  x ^^^ (x <<< 5 % 2 ^ 32)

/-- `n` xorshift steps. -/
def xorSteps : Nat → Nat → Nat
  | 0, x => x
  | n + 1, x => xorSteps n (xorStep x)

/-- The 16 bits that the generator gives an element (issue number i, lane g, step st). -/
def ditherBits (seed i g st : Nat) : Nat :=
  let x := (mix32 (seed ^^^ mix32 (i % 2 ^ 32)) + g * 0x9e3779b9) % 2 ^ 32
  xorSteps (st + 1) (if x = 0 then 1 else x) / 65536

/-- The dither value for a shift. -/
def ditherVal (rv shift : Nat) : Nat := if shift ≤ 16 then rv / 2 ^ (16 - shift) else rv * 2 ^ (shift - 16)

/-! ### Rounding right shift and requantization (R236) -/

/-- A product brought down by a rounding right shift; `rv` are the element's dither bits. -/
def roundShift (rnd : Rnd) (rv : Nat) (p : Int) (shift : Nat) : Int :=
  if shift = 0 then p
  else match rnd with
    | .rhe =>
      let q := p / 2 ^ shift
      let r := p - q * 2 ^ shift
      let h : Int := 2 ^ (shift - 1)
      if h < r ∨ (r = h ∧ q % 2 = 1) then q + 1 else q
    | .dither => (p + ditherVal rv shift) / 2 ^ shift
    | .floor => p / 2 ^ shift

/-- requant of R236: the code, and 1 when it was clamped. -/
def requant (v : Int) (mult shift : Nat) (zp lo hi : Int) (rnd : Rnd) (rv : Nat) : Int × Nat :=
  satIn (roundShift rnd rv (v * mult) shift + zp) lo hi

/-! ### Reciprocal and inverse square root (R266) -/

/-- The floor of a square root, by bisection between `lo` and `hi` with lo² ≤ n < hi². -/
def isqrtIn (n : Nat) : Nat → Nat → Nat → Nat
  | 0, lo, _ => lo
  | k + 1, lo, hi =>
    if hi ≤ lo + 1 then lo
    else
      let m := (lo + hi) / 2
      if m * m ≤ n then isqrtIn n k m hi else isqrtIn n k lo m

/-- The floor of a square root. -/
def isqrt (n : Nat) : Nat := isqrtIn n (n.log2 + 2) 0 (2 ^ (n.log2 / 2 + 1))

/-- RCP[j]. -/
def rcpAt (j : Nat) : Nat := (2 ^ 25 + (256 + j)) / (2 * (256 + j))

/-- RSQ[j]. -/
def rsqAt (j : Nat) : Nat := (isqrt (2 ^ 44 / (64 + j)) + 1) / 2

/-- recip of a number from 1 to 2^32 - 1. -/
def recip (x : Nat) : Nat × Nat :=
  let n := 31 - x.log2
  let u := x * 2 ^ n
  let j := u / 2 ^ 23 % 256
  let fr := u / 2 ^ 7 % 65536
  (rcpAt j - ((rcpAt j - rcpAt (j + 1)) * fr + 32768) / 65536, n)

/-- rsqrt of a number from 1 to 2^48 - 1. -/
def rsqrt (x : Nat) : Nat × Int :=
  let t : Int := (31 - (x.log2 : Int)) / 2
  let u := if 0 ≤ t then x * 2 ^ (2 * t).toNat else x / 2 ^ (-2 * t).toNat
  let j := u / 2 ^ 24 - 64
  let fr := u / 2 ^ 8 % 65536
  (rsqAt j - ((rsqAt j - rsqAt (j + 1)) * fr + 32768) / 65536, t)
/-! ### Resampling (R128, R131) -/

/-- Saturation to s16.16. -/
def satCoord (v : Int) : Int := clampInt v (-2147483648) 2147483647

/-- The bicubic weights of a phase (R131). -/
def cubicW (f : Int) (i : Nat) : Int :=
  let w0 := (-(f * f * f) + 512 * f * f - 65536 * f + 4096) / 8192
  let w2 := (-3 * f * f * f + 1024 * f * f + 65536 * f + 4096) / 8192
  let w3 := (f * f * f - 256 * f * f + 4096) / 8192
  match i with
  | 0 => w0
  | 1 => 4096 - w0 - w2 - w3
  | 2 => w2
  | _ => w3

/-- The taps of an output pixel as (weight, x, y), indices not yet clamped. DEDUCED: log entry 49. -/
def warpTaps (interp : Nat) (cx cy : Int) : List (Int × Int × Int) :=
  let xi := (cx + 128) / 65536
  let yi := (cy + 128) / 65536
  let fx := (cx + 128) / 256 % 256
  let fy := (cy + 128) / 256 % 256
  match interp with
  | 0 => [(1, (cx + 32768) / 65536, (cy + 32768) / 65536)]
  | 1 => [((256 - fx) * (256 - fy), xi, yi), (fx * (256 - fy), xi + 1, yi), ((256 - fx) * fy, xi, yi + 1),
          (fx * fy, xi + 1, yi + 1)]
  | _ => (List.range 4).flatMap (fun j => (List.range 4).map (fun i =>
      (cubicW fy j * cubicW fx i, xi + (i : Int) - 1, yi + (j : Int) - 1)))

/-- Pitch of a source header. -/
def hdrPitch (engine : Bool) : Nat := if engine then 64 else 9280

end Sys2Proof.Machine
end

