-- ==== Sys2Proof/Machine/CoreOps.lean ====
section
/-! DEFINITION. What the core operations share: reading and writing tensor elements in a scratchpad (R243, R301 to R307),
scale and requantization records (R233, R234, R253), the checks of an operation record and its descriptors (R240, R254,
R256 to R280), and footprints (R246). -/

namespace Sys2Proof.Machine

open Sys2Proof

/-! ### Reading -/

/-- A value with the failing or poisoned granules that fed it. -/
structure El where
  v : Int
  bad : List Nat
deriving DecidableEq, Repr

/-- The failing or poisoned granules of a range of local addresses. -/
def badGrans (s : State) (a len : Nat) : List Nat := (gransOf a len).filter (fun g => ! goodGran s g)

/-- An element of a tensor at an index that lies in its shape. -/
def elAt (s : State) (c : Nat) (t : TDesc) (i : List Nat) : El :=
  let (a, nib) := elemLocal t c i
  { v := elemLoad s.mem t.etype a nib, bad := badGrans s a (elemBytes t.etype) }

/-- An element at the nearest index of the shape (R307). -/
def elClamp (s : State) (c : Nat) (t : TDesc) (i : List Int) : El := elAt s c t (clampIx t i)

/-- An element at the nearest index of the shape, from natural indices. -/
def elNat (s : State) (c : Nat) (t : TDesc) (i : List Nat) : El := elClamp s c t (i.map (fun (k : Nat) => (k : Int)))

/-- `n` bytes of a core's scratchpad. -/
def spmBytes (s : State) (c off n : Nat) : List Byte := getBytes s (spmOf c + off) n

/-- A scale or requantization record (R233). -/
structure Rec where
  mult : Nat
  shift : Nat
  zp : Int
  bad : List Nat
deriving DecidableEq, Repr

/-- The fields of a record from its 8 bytes. -/
def recFields (b : List Byte) (bad : List Nat) : Rec :=
  { mult := fieldAt b 0 4, shift := fieldAt b 4 1, zp := sfieldAt b 6 2, bad := bad }

/-- The record at a byte of a core's scratchpad. -/
def recAt (s : State) (c off : Nat) : Rec := recFields (spmBytes s c off 8) (badGrans s (spmOf c + off) 8)

/-- Record `k` of the table at a row (R253). -/
def recIn (s : State) (c row k : Nat) : Rec := recAt s c (64 * row + 8 * k)

/-- The index of an element along the channel axis (R304). -/
def axisIndex (t : TDesc) (i : List Nat) : Nat :=
  if t.layout ≠ 0 ∧ t.chAx = 0 then 64 * ix i 2 + ix i 0 else ix i t.chAx

/-- The indices along the channel axis. -/
def axisCount (t : TDesc) : Nat := if t.layout ≠ 0 ∧ t.chAx = 0 then 64 * nth t.size 2 else nth t.size t.chAx

/-- The channel index of an element, which selects its scale record (R304). -/
def chanIndex (t : TDesc) (i : List Nat) : Nat := if perChannel t then axisIndex t i else 0

/-- The zero point of an element; S32 and S48 have none (R259, R262). -/
def zpAt (s : State) (c : Nat) (t : TDesc) (i : List Nat) : El :=
  if 5 ≤ t.etype then { v := 0, bad := [] }
  else
    let r := recAt s c (t.scale + 8 * chanIndex t i)
    { v := r.zp, bad := r.bad }

/-- q - ZP of an element at the nearest index of the shape. -/
def elReal (s : State) (c : Nat) (t : TDesc) (i : List Int) : El :=
  let j := clampIx t i
  let q := elAt s c t j
  let z := zpAt s c t j
  { v := q.v - z.v, bad := q.bad ++ z.bad }

/-! ### Writing -/

/-- One element to be written: its index, value with what fed it, the saturations it counted, and whether it may lie beyond
the shape (the padded rows of R229). -/
structure OutEl where
  i : List Nat
  el : El
  acc : Nat
  out : Nat
  free : Bool
deriving DecidableEq, Repr

/-- An element without saturations. -/
def outPlain (i : List Nat) (el : El) : OutEl := { i := i, el := el, acc := 0, out := 0, free := false }

/-- What an operation counts for its unit of work: saturations, suppressed writes, failing granules read, and vector accesses
outside their footprint; the tiles with a parity error (R232); and the number of output granules it wrote poisoned. -/
structure OpRep where
  acc : Nat
  out : Nat
  oob : Nat
  fails : List Nat
  vout : Nat
  tiles : Nat
  poisoned : Nat
deriving DecidableEq, Repr

/-- A report of nothing. -/
def opRepNone : OpRep := { acc := 0, out := 0, oob := 0, fails := [], vout := 0, tiles := 0, poisoned := 0 }

/-- Sums of a number over a list. -/
def sumOf {α : Type} (f : α → Nat) (l : List α) : Nat := l.foldl (fun n x => n + f x) 0

/-- An output element has a place: in the shape, or in the scratchpad for a padded one (R229, R307). -/
def hasPlace (t : TDesc) (o : OutEl) : Bool :=
  if o.free then decide (0 ≤ (elemAddr t o.i).1) && decide ((elemAddr t o.i).1 + elemBytes t.etype ≤ spmSize)
  else (List.range t.ndim).all (fun d => decide (ix o.i d < nth t.size d))

/-- Elements written one after the other: memory as they leave it, their cells latest first, and the granules that hold
poisoned ones. -/
def outCells (c : Nat) (t : TDesc) (m : List Host.Cell) (l : List OutEl) :
    List Host.Cell × List (Nat × Byte) × List Nat :=
  l.foldl (fun (q : List Host.Cell × List (Nat × Byte) × List Nat) o =>
    let (a, nib) := elemLocal t c o.i
    let cs := elemCells q.1 t.etype a nib o.el.v
    (cellsInto q.1 cs, cs.reverse ++ q.2.1, if o.el.bad.isEmpty then q.2.2 else cellGrans cs ++ q.2.2)) (m, [], [])

/-- Elements written: those with a place are stored, the others are suppressed and counted (R243, R307). -/
def writeOut (s : State) (c : Nat) (t : TDesc) (l : List OutEl) : State × OpRep :=
  let w := l.filter (hasPlace t)
  let (_, cs, bad) := outCells c t s.mem w
  (storeCells s cs.reverse bad.eraseDups,
    { opRepNone with
      acc := sumOf (fun o => o.acc) l, out := sumOf (fun o => o.out) l, oob := l.length - w.length,
      fails := ((l.flatMap (fun o => o.el.bad)).eraseDups).filter (failingGran s), poisoned := bad.eraseDups.length })

/-- Elements of a tensor. -/
def elemCount (t : TDesc) : Nat := (List.range t.ndim).foldl (fun a d => a * nth t.size d) 1

/-- The index of the element at a place in tensor order, dimension 0 innermost (R255). -/
def indexAt (size : List Nat) : Nat → List Nat
  | p => (size.foldl (fun (q : Nat × List Nat) n => (q.1 / max 1 n, q.2 ++ [q.1 % max 1 n])) (p, [])).2

/-- The place of an index in tensor order. -/
def placeOf (size i : List Nat) : Nat :=
  ((List.range size.length).foldl (fun (q : Nat × Nat) d => (q.1 + ix i d * q.2, q.2 * nth size d)) (0, 1)).1

/-- The extents of a tensor's own dimensions. -/
def dimsOf (t : TDesc) : List Nat := t.size.take t.ndim

/-- Every index of a shape in tensor order. -/
def allIndices (size : List Nat) : List (List Nat) :=
  (List.range (size.foldl (· * ·) 1)).map (indexAt size)

/-! ### An operation in execution -/

/-- An operation with what its unit of work fixes: core, record, descriptors, seed, issue number, rounding in force, and the
scalar registers at issue with those that a bad granule fed. `limit` is set for an operation that a stop ends: the passes,
groups of elements, crop rows or instructions that it had finished (R248, R281). -/
structure OpCtx where
  c : Nat
  r : List Byte
  tds : List (List Byte)
  seed : Nat
  issue : Nat
  dflt : Nat
  snap : List Nat
  snapBad : BitVec 32
  limit : Option Nat
deriving DecidableEq, Repr

/-- The context of an operation of a unit of work. -/
def opCtx (c : Nat) (u : CoreUnit) (o : CoreOp) (limit : Option Nat) : OpCtx :=
  { c := c, r := o.record, tds := o.tds, seed := u.seed, issue := o.issueNo, dflt := u.rnd, snap := o.snap,
    snapBad := o.snapBad, limit := limit }

/-- A descriptor of an operation: 0 to 2 inputs, 3 the output, 4 TOPK's index tensor. -/
def opTd (x : OpCtx) (k : Nat) : TDesc := tdesc ((x.tds[k]?).getD [])

/-- OPCODE of a record. -/
def recOpcode (r : List Byte) : Nat := fieldAt r 0 1
/-- CTRL of a record. -/
def recCtrl (r : List Byte) : Nat := fieldAt r 1 1
/-- RQ of a record. -/
def recRq (r : List Byte) : Nat := fieldAt r 10 2
/-- A one-byte field of a record. -/
def rb (r : List Byte) (off : Nat) : Nat := fieldAt r off 1

/-- The elements after which a stop ends an operation: an output row of CROP, groups of 128 elements else (R248, R281). -/
def groupEls (r : List Byte) : Nat := if recOpcode r = 0x0D then rb r 56 * rb r 41 else 128

/-- A vector-unit operation's output, as far as the operation comes. -/
def emitOut (s : State) (x : OpCtx) (t : TDesc) (l : List OutEl) : State × OpRep :=
  writeOut s x.c t (x.limit.elim l (fun n => l.take (groupEls x.r * n)))

/-- The rounding of an operation (R237). -/
def opRnd (x : OpCtx) : Rnd := rndOf x.dflt (recCtrl x.r % 4)

/-- LO and HI for an output type (R240). -/
def boundsOf (r : List Byte) (etype : Nat) : Int × Int :=
  if 5 ≤ etype then (elemMin etype, elemMax etype)
  else if elemUnsigned etype then ((fieldAt r 12 2 : Int), (fieldAt r 14 2 : Int))
  else (sfieldAt r 12 2, sfieldAt r 14 2)

/-- The dither bits of a vector operation's element (R238). -/
def vecBits (x : OpCtx) (p : Nat) : Nat := ditherBits x.seed x.issue (p % 128) (p / 128)

/-- The dither bits of a matrix drain's element (R238). -/
def matBits (x : OpCtx) (p : Nat) : Nat := ditherBits x.seed x.issue (p % 64) (p / 64)

/-- A vector operation's element brought to its output type through a record (R259). -/
def narrow (x : OpCtx) (t : TDesc) (q : Rec) (i : List Nat) (v : El) (acc : Nat) : OutEl :=
  let b := boundsOf x.r t.etype
  let y := requant v.v q.mult q.shift q.zp b.1 b.2 (opRnd x) (vecBits x (placeOf (dimsOf t) i))
  { i := i, el := { v := y.1, bad := v.bad ++ q.bad }, acc := acc, out := y.2, free := false }

/-- An element to which only LO and HI apply. -/
def boundOnly (x : OpCtx) (t : TDesc) (i : List Nat) (v : El) : OutEl :=
  let b := boundsOf x.r t.etype
  let y := satIn v.v b.1 b.2
  { i := i, el := { v := y.1, bad := v.bad }, acc := 0, out := y.2, free := false }

/-! ### Checks at issue (R254, R305) -/

/-- The rank of a refusal: the kinds in the order in which R254 names them. DEDUCED: log entry 51. -/
def refuseRank : Status → Nat
  | .badField => 0
  | .badParam => 1
  | .range => 2
  | .aliased => 3
  | _ => 4

/-- The refusal of lowest rank among the checks that fail. -/
def worstOf (l : List (Bool × Status)) : Option Status :=
  (sortBy (fun a b => decide (refuseRank a ≤ refuseRank b)) ((l.filter (fun e => e.1)).map (·.2))).head?

/-- INIT of MATMUL and CONV. -/
def recInit (r : List Byte) : Nat := rb r 17
/-- DRAIN of MATMUL and CONV. -/
def recDrain (r : List Byte) : Nat := rb r 19
/-- PER_CH, and each other one-bit selection in CTRL[2]. -/
def ctrl2 (r : List Byte) : Bool := bitAt (recCtrl r) 2

/-- Which descriptor slots an operation uses, and how. -/
def opSlots (r : List Byte) : List (Nat × TUse) :=
  match recOpcode r with
  | 0x01 => [(0, .coreRead), (1, .coreRead)] ++ (if recInit r = 0 then [] else [(2, .coreRead)]) ++ [(3, .coreWrite)]
  | 0x02 => [(0, .coreRead), (1, .coreRead)] ++ (if recInit r = 0 then [] else [(2, .coreRead)]) ++ [(3, .coreWrite)]
  | 0x03 => [(0, .coreRead), (1, .coreRead), (2, .coreRead), (3, .coreWrite)]
  | 0x05 => [(0, .coreRead), (1, .coreRead), (3, .coreWrite)]
  | 0x07 => ((List.range 3).filter (fun k => fieldAt r (2 + 2 * k) 2 != 0xFFFF)).map (fun k => (k, TUse.coreRead)) ++
      [(3, .coreWrite)]
  | 0x0C => [(0, .coreRead), (3, .coreWrite), (4, .coreWrite)]
  | 0x0D => [(3, .coreWrite)]
  | n => if n = 4 ∨ (6 ≤ n ∧ n ≤ 11) then [(0, .coreRead), (3, .coreWrite)] else []

/-- The row that names a descriptor slot. -/
def slotRow (r : List Byte) (k : Nat) : Nat := if k < 4 then fieldAt r (2 + 2 * k) 2 else fieldAt r 18 2

/-- A row at which a descriptor of 128 bytes fits. -/
def tdRowFits (row : Nat) : Bool := decide (row < 6143)

/-- The descriptors of an operation as they stand in the scratchpad; an unused slot is empty. -/
def loadTds (s : State) (c : Nat) (r : List Byte) : List (List Byte) :=
  (List.range 5).map (fun k => if (opSlots r).any (fun e => e.1 == k) ∧ tdRowFits (slotRow r k) then
    spmBytes s c (64 * slotRow r k) 128 else [])

/-- The checks of one descriptor (R305). -/
def slotChecks (s : State) (c : Nat) (r : List Byte) (e : Nat × TUse) : List (Bool × Status) :=
  let row := slotRow r e.1
  if ! tdRowFits row then [(true, .badParam)]
  else if rangeBad s (spmOf c + 64 * row) 128 then [(true, .badField)]
  else match tdCheck s (tdesc (spmBytes s c (64 * row) 128)) e.2 0 s.inst.id with
    | some (st, _) => [(true, st)]
    | none => []

/-- A failing check of a parameter. -/
def bp (b : Bool) : Bool × Status := (b, .badParam)

/-- The CTRL bits that an opcode gives a meaning. -/
def ctrlMask (op : Nat) : Nat :=
  match op with
  | 0x05 => 0x1F
  | 0x07 => 0x1F
  | 0x0D => 0x0F
  | 0x01 => 7 | 0x02 => 7 | 0x03 => 7 | 0x04 => 7 | 0x06 => 7 | 0x08 => 7
  | _ => 3

/-- The parameter bytes that an opcode uses, as (offset, size). -/
def paramUsed (op : Nat) : List (Nat × Nat) :=
  match op with
  | 0x01 => [(16, 14)]
  | 0x02 => [(16, 11)]
  | 0x03 => [(18, 1), (20, 7)]
  | 0x04 => [(20, 7)]
  | 0x05 => [(16, 4)]
  | 0x07 => [(16, 1)]
  | 0x08 => [(16, 8)]
  | 0x09 => [(16, 5), (22, 4)]
  | 0x0A => [(16, 1), (20, 12)]
  | 0x0B => [(16, 1)]
  | 0x0C => [(16, 4)]
  | 0x0D => [(16, 46)]
  | 0x0E => [(16, 2)]
  | 0x0F => [(16, 2)]
  | 0x10 => [(16, 20)]
  | _ => []

/-- A reserved bit or byte of a record is not zero, or its opcode is reserved. DEDUCED: log entry 51. -/
def recReserved (r : List Byte) : Bool :=
  let op := recOpcode r
  op == 0 || decide (0x10 < op) || decide (recCtrl r / (ctrlMask op + 1) ≠ 0) ||
  (List.range 48).any (fun k => ! (paramUsed op).any (fun e => decide (e.1 ≤ 16 + k) && decide (16 + k < e.1 + e.2)) &&
    rb r (16 + k) != 0) ||
  (op == 0x0D && fieldAt r 46 2 != 0) || (op == 0x0A && rb r 25 != 0)

/-- RND 3 in a requantizing operation (R237). -/
def rndBad (r : List Byte) : Bool := recCtrl r % 4 == 3

/-- The scale records of a stored input: reserved byte zero, SHIFT at most 63, ZP a code of the element type (R4, R233). -/
def scaleChecks (s : State) (c : Nat) (t : TDesc) : List (Bool × Status) :=
  if t.smode == 0 && t.scale == 0 then []
  else (List.range (scaleBytes t / 8)).flatMap (fun k =>
    let q := recAt s c (t.scale + 8 * k)
    [(rb (spmBytes s c (t.scale + 8 * k) 8) 5 != 0, .badField),
     bp (decide (63 < q.shift) || (decide (t.etype < 5) && (decide (q.zp < elemMin t.etype) || decide (elemMax t.etype < q.zp))))])

/-- The records of a requantization table: they lie in the scratchpad, their reserved byte is zero, SHIFT is at most 63 and ZP
is a code of the output type (R233, R253). -/
def recChecks (s : State) (c row etype : Nat) (ks : List Nat) : List (Bool × Status) :=
  let far := row == 0xFFFF || ks.any (fun k => decide (spmSize < 64 * row + 8 * k + 8))
  if far then [bp true]
  else ks.flatMap (fun k =>
    let q := recIn s c row k
    [(rb (spmBytes s c (64 * row + 8 * k) 8) 5 != 0, .badField),
     bp (decide (63 < q.shift) || decide (q.zp < elemMin etype) || decide (elemMax etype < q.zp))])

/-- LO and HI are no bounds for the output type (R240). -/
def boundsBad (r : List Byte) (etype : Nat) : Bool :=
  if 5 ≤ etype then fieldAt r 12 4 != 0
  else
    let b := boundsOf r etype
    decide (b.1 < elemMin etype) || decide (elemMax etype < b.2) || decide (b.2 < b.1)

/-- The checks of an operation that requantizes to an output type by some records of its table. -/
def rqChecks (s : State) (c : Nat) (r : List Byte) (etype : Nat) (ks : List Nat) : List (Bool × Status) :=
  [bp (rndBad r), bp (boundsBad r etype)] ++ recChecks s c (recRq r) etype ks

/-- The record numbers of an operation with PER_CH over `n` channels. -/
def perCh (r : List Byte) (n : Nat) : List Nat := if ctrl2 r then List.range n else [0]

/-- A dimension is BLOCK or CYCLIC. -/
def cutDim (t : TDesc) (d : Nat) : Bool := isSharded t && (shardOf t d == 1 || shardOf t d == 2)

/-- Only the listed dimensions may be BLOCK or CYCLIC (R280). -/
def cutOnly (t : TDesc) (ds : List Nat) : Bool := (List.range 6).all (fun d => ! cutDim t d || ds.contains d)

/-- How a tensor is sharded, REPLICATED and NONE taken alike. -/
def cutKey (t : TDesc) : List (Nat × Nat × Nat) :=
  (List.range 6).map (fun d => if cutDim t d then (shardOf t d, nth t.parts d, t.devBase) else (0, 0, 0))

/-- A type and mode admit a use with a subtracted zero point: TENSOR, or CHANNEL (R259). -/
def zpMode (t : TDesc) : Bool := decide (5 ≤ t.etype) || decide (t.smode ≤ 1)

/-- Types of A and W of a matrix mode (R223). -/
def modeTypes (mode : Nat) : List Nat × List Nat :=
  match mode with
  | 0 => ([1], [1])
  | 1 => ([0, 2], [2, 1])
  | 2 => ([3, 4], [2, 1])
  | 3 => ([0, 2, 3, 4], [4])
  | _ => ([], [])

/-- Every scale record of a tensor has ZP 0; a tensor without scales in use has none. -/
def zpsZero (s : State) (c : Nat) (t : TDesc) : Bool :=
  (t.smode == 0 && t.scale == 0) || (List.range (scaleBytes t / 8)).all (fun k => (recAt s c (t.scale + 8 * k)).zp == 0)

/-- The rules that W obeys (R235): its axes, and every ZP 0. -/
def weightBad (s : State) (c : Nat) (w : TDesc) : Bool := (perChannel w && w.chAx != 0) || ! zpsZero s c w

/-- The checks of a matrix drain: OUT's type by DRAIN and its records. -/
def drainChecks (s : State) (c : Nat) (r : List Byte) (o : TDesc) (channels : Nat) : List (Bool × Status) :=
  if recDrain r = 0 then bp (decide (4 < o.etype)) :: rqChecks s c r o.etype (perCh r channels)
  else [bp (recDrain r == 1 && o.etype != 6), bp (recDrain r == 2 && o.etype != 5), bp (boundsBad r o.etype)]

/-- A bias is no vector of S32 values for `blocks` column blocks: 64 values each, four bytes apart, 64-byte aligned (R228).
DEDUCED: log entry 52. -/
def biasBad (b : TDesc) (blocks : Nat) : Bool :=
  b.layout != 0 || b.etype != 5 || b.ndim != 1 || ith b.stride 0 != 4 || b.base % 64 != 0 || decide (nth b.size 0 < 64 * blocks)

/-- MATMUL (R223, R230, R235, R256). DEDUCED: log entry 52. -/
def matmulChecks (s : State) (c : Nat) (r : List Byte) (td : Nat → TDesc) : List (Bool × Status) :=
  let a := td 0
  let w := td 1
  let b := td 2
  let o := td 3
  let k := fieldAt r 20 4
  let mb := fieldAt r 24 2
  let nb := fieldAt r 26 2
  let ty := modeTypes (rb r 16)
  [bp (decide (3 < rb r 16) || decide (2 < recInit r) || decide (15 < rb r 18) || decide (2 < recDrain r)),
   bp (k == 0 || decide (65536 < k) || mb == 0 || decide (4096 < mb) || nb == 0 || decide (4096 < nb)),
   bp (rb r 28 == 0 || decide (64 < rb r 28) || rb r 29 == 0 || decide (64 < rb r 29)),
   bp (a.layout != 1 || w.layout != 2 || ! ty.1.contains a.etype || ! ty.2.contains w.etype),
   bp (nth a.size 1 != k || nth w.size 1 != k || decide (nth a.size 2 < mb) || decide (nth w.size 2 < nb)),
   bp (! (a.smode == 0 || a.smode == 2) || (a.smode == 2 && ! zpsZero s c a) || weightBad s c w),
   bp (recInit r == 1 && biasBad b nb),
   bp (recInit r == 2 && (b.layout != 3)),
   bp (if recDrain r = 0 then o.layout != 1 else o.layout != 3)] ++ drainChecks s c r o (64 * nb)

/-- Window fields of R257, R260 and R261: the largest window side and step. -/
def windowChecks (r : List Byte) (side step : Nat) : List (Bool × Status) :=
  [bp (rb r 20 == 0 || decide (side < rb r 20) || rb r 21 == 0 || decide (side < rb r 21)),
   bp (rb r 22 == 0 || decide (step < rb r 22) || rb r 23 == 0 || decide (step < rb r 23)),
   bp (decide (6 < rb r 24) || decide (6 < rb r 25) || decide (1 < rb r 26))]

/-- A LINEAR input of dimensions (x, y, c) with the x stride equal to the element size (R257). -/
def planeInput (t : TDesc) : Bool := t.layout == 0 && t.ndim == 3 && ith t.stride 0 == (elemBytes t.etype : Int)

/-- A of CONV may not carry its scale mode (R235): TENSOR, or BLOCK32 along c with every ZP 0 where each block of 32 k steps lies
in one block of c. DEDUCED: log entry 52. -/
def convModeBad (s : State) (c : Nat) (r : List Byte) (a : TDesc) : Bool :=
  a.smode != 0 && (a.smode != 2 || a.ax != 2 || ! zpsZero s c a || (rb r 20 * rb r 21 != 1 && nth a.size 2 % 32 != 0))

/-- CONV (R257). DEDUCED: log entry 52. -/
def convChecks (s : State) (c : Nat) (r : List Byte) (td : Nat → TDesc) : List (Bool × Status) :=
  let a := td 0
  let w := td 1
  let b := td 2
  let o := td 3
  let ty := modeTypes (rb r 16)
  let n := nth o.size 2
  let line := cdiv (nth o.size 0) 64 * 64
  let lineBytes := if o.etype = 1 then line / 2 else line * elemBytes o.etype
  [bp (decide (3 < rb r 16) || decide (1 < recInit r) || decide (15 < rb r 18) || decide (2 < recDrain r)),
   bp (! planeInput a || w.layout != 2 || ! ty.1.contains a.etype || ! ty.2.contains w.etype),
   bp (rb r 22 == 2 && elemBits a.etype != 8),
   bp (nth w.size 1 != rb r 20 * rb r 21 * nth a.size 2 || decide (nth w.size 2 < cdiv n 64)),
   bp (convModeBad s c r a || weightBad s c w),
   bp (recInit r == 1 && biasBad b (cdiv n 64)),
   bp (o.layout != 0 || o.ndim != 3 || decide ((ith o.stride 1).natAbs < lineBytes)),
   bp (! cutOnly a (if recDrain r = 0 then [] else [2]) || ! cutOnly o [2])] ++
  windowChecks r 7 2 ++ drainChecks s c r o n

/-- DWCONV (R260). -/
def dwconvChecks (s : State) (c : Nat) (r : List Byte) (td : Nat → TDesc) : List (Bool × Status) :=
  let a := td 0
  let w := td 1
  let b := td 2
  let o := td 3
  [bp (! planeInput a || a.etype == 1 || decide (4 < a.etype) || ! zpMode a),
   bp (! (w.etype == 2 || w.etype == 4) || w.ndim != 3), bp (b.etype != 5 || b.ndim != 1), bp (decide (15 < rb r 18)),
   bp (o.ndim != 3),
   bp (! cutOnly a [2] || ! cutOnly w [2] || ! cutOnly o [2])] ++
  windowChecks r 7 2 ++ rqChecks s c r o.etype (perCh r (nth o.size 2))

/-- POOL (R261). -/
def poolChecks (s : State) (c : Nat) (r : List Byte) (td : Nat → TDesc) : List (Bool × Status) :=
  let a := td 0
  let o := td 3
  [bp (a.ndim != 3 || o.ndim != 3), bp (! cutOnly a [2] || ! cutOnly o [2])] ++ windowChecks r 8 8 ++
  (if ctrl2 r then bp (! zpMode a) :: rqChecks s c r o.etype [0]
   else [bp (recRq r != 0xFFFF || a.etype != o.etype), bp (boundsBad r o.etype)])

/-- The function of ELTWISE. -/
def eltFn (r : List Byte) : Nat := recCtrl r / 4 % 8

/-- ELTWISE (R262). DEDUCED: log entry 53. -/
def eltChecks (s : State) (c : Nat) (r : List Byte) (td : Nat → TDesc) : List (Bool × Status) :=
  let a := td 0
  let b := td 1
  let o := td 3
  [bp (decide (4 < eltFn r)), bp (cutKey a != cutKey o || cutKey b != cutKey o)] ++
  (if eltFn r ≤ 2 then bp (! zpMode a || ! zpMode b) :: rqChecks s c r o.etype [0]
   else [bp (a.smode != b.smode || a.scale != b.scale || a.chAx != b.chAx), bp (boundsBad r o.etype)])

/-- REQUANT (R263). -/
def requantChecks (s : State) (c : Nat) (r : List Byte) (td : Nat → TDesc) : List (Bool × Status) :=
  let a := td 0
  let o := td 3
  [bp (! zpMode a), bp (cutKey a != cutKey o)] ++ rqChecks s c r o.etype (perCh r (axisCount o))

/-- Inputs that CONCAT places. -/
def concatInputs (r : List Byte) : List Nat := (List.range 3).filter (fun k => fieldAt r (2 + 2 * k) 2 != 0xFFFF)

/-- CONCAT copies the codes of an input unchanged. -/
def concatCopies (r : List Byte) (j : Nat) : Bool := bitAt (recCtrl r) (2 + j)

/-- CONCAT (R263). -/
def concatChecks (s : State) (c : Nat) (r : List Byte) (td : Nat → TDesc) : List (Bool × Status) :=
  let o := td 3
  let ax := rb r 16
  let js := concatInputs r
  let rq := js.filter (fun j => ! concatCopies r j)
  [bp (decide (o.ndim ≤ ax)),
   bp (js.any (fun j => (td j).ndim != o.ndim ||
     (List.range 6).any (fun d => d != ax && nth (td j).size d != nth o.size d))),
   bp (js.any (fun j => concatCopies r j &&
     (decide (elemMin (td j).etype < elemMin o.etype) || decide (elemMax o.etype < elemMax (td j).etype)))),
   bp (rq.any (fun j => ! zpMode (td j))),
   bp ((3 :: js).any (fun j => cutDim (td j) ax))] ++
  (if rq.isEmpty then [bp (boundsBad r o.etype)] else rqChecks s c r o.etype rq)

/-- RESIZE (R264). -/
def resizeChecks (r : List Byte) (td : Nat → TDesc) : List (Bool × Status) :=
  let a := td 0
  let o := td 3
  let bad := fun (n : Nat) => decide (n < 256) || decide (4194304 < n)
  [bp (bad (fieldAt r 16 4) || bad (fieldAt r 20 4)), bp (a.etype != o.etype || a.ndim != o.ndim || decide (a.ndim < 2)),
   bp (! cutOnly a [2] || ! cutOnly o [2]), bp (boundsBad r o.etype)]

/-- An operation along an axis of IN0 with at most `l` elements along it. -/
def axisChecks (r : List Byte) (l : Nat) (a : TDesc) (outs : List TDesc) : List (Bool × Status) :=
  let ax := rb r 16
  [bp (decide (a.ndim ≤ ax) || decide (l < nth a.size ax)), bp (cutDim a ax || outs.any (fun o => cutDim o ax))]

/-- SOFTMAX (R267). -/
def softmaxChecks (r : List Byte) (td : Nat → TDesc) : List (Bool × Status) :=
  let a := td 0
  let o := td 3
  let z := sfieldAt r 24 2
  axisChecks r 4096 a [o] ++
  [bp (a.etype == 1 || decide (4 < a.etype)), bp (a.ndim != o.ndim), bp (decide (31 < rb r 17) || decide (16 < rb r 20)),
   bp (decide (spmRows < fieldAt r 22 2 + 8)), bp (decide (z < elemMin o.etype) || decide (elemMax o.etype < z)),
   bp (rndBad r), bp (boundsBad r o.etype)]

/-- NORM (R268). -/
def normChecks (s : State) (c : Nat) (r : List Byte) (td : Nat → TDesc) : List (Bool × Status) :=
  let a := td 0
  let o := td 3
  axisChecks r 4096 a [o] ++
  [bp (a.ndim != o.ndim || ! zpMode a), bp (decide (63 < rb r 24) || fieldAt r 26 2 != 0), bp (fieldAt r 28 4 == 0)] ++
  rqChecks s c r o.etype (List.range (nth a.size (rb r 16)))

/-- The axis of ARGMAX and TOPK shares one scale (R265): it has one element; or no scale record and no block exponent changes
along it, a blocked tensor's records of channel axis 0 changing along dimension 2 too (R304). -/
def axisScale (a : TDesc) (ax : Nat) : Bool :=
  nth a.size ax == 1 ||
  (! (perChannel a && (a.chAx == ax || (a.layout != 0 && a.chAx == 0 && ax == 2))) &&
   ! (blockExps a && (a.ax != ax || decide (32 < nth a.size ax))))

/-- ARGMAX (R265). DEDUCED: log entry 53. -/
def argmaxChecks (r : List Byte) (td : Nat → TDesc) : List (Bool × Status) :=
  let a := td 0
  let o := td 3
  axisChecks r 65536 a (if o.ndim = a.ndim then [o] else []) ++
  [bp (! axisScale a (rb r 16)), bp (! (o.etype == 3 || o.etype == 5)),
   bp (! (o.ndim == a.ndim || o.ndim + 1 == a.ndim)), bp (boundsBad r o.etype)]

/-- TOPK (R265). DEDUCED: log entry 53. -/
def topkChecks (r : List Byte) (td : Nat → TDesc) : List (Bool × Status) :=
  let a := td 0
  let o := td 3
  let x := td 4
  axisChecks r 65536 a [o, x] ++
  [bp (! axisScale a (rb r 16)), bp (rb r 17 == 0 || decide (64 < rb r 17)), bp (o.etype != a.etype),
   bp (! (x.etype == 3 || x.etype == 5)), bp (o.ndim != a.ndim || x.ndim != a.ndim), bp (boundsBad r o.etype)]

/-- CROP (R116, R269). DEDUCED: log entry 53. -/
def cropChecks (r : List Byte) (td : Nat → TDesc) : List (Bool × Status) :=
  let o := td 3
  let p := pref r 16
  [bp (decide (1 < p.fmt) || (prefChecks p 16).any (fun e => ! e.1)),
   bp (rb r 56 == 0 || rb r 57 == 0 || rb r 59 % 2 == 1 || decide (30 < rb r 59) || decide (spmRows ≤ fieldAt r 60 2)),
   bp (o.ndim != 3 || nth o.size 0 != rb r 56 || nth o.size 1 != rb r 57 || nth o.size 2 != p.planes),
   bp (o.etype != (if p.fmt = 0 then 0 else 3)), bp (! cutOnly o []),
   bp (boundsBad r o.etype)]

/-! ### Footprints (R246) -/

/-- The rows of a descriptor's footprint. -/
def tdRows (t : TDesc) : Nat × Nat :=
  let f := footprint t
  (f.1.toNat / 64, f.2.toNat / 64)

/-- The rows of a byte range. -/
def rowsOf (off len : Nat) : Nat × Nat := (off / 64, (off + max 1 len - 1) / 64)

/-- The rows in which an input's scale records and block exponents lie. -/
def tableRows (t : TDesc) : List (Nat × Nat) :=
  (if t.smode = 0 ∧ t.scale = 0 then [] else [rowsOf t.scale (scaleBytes t)]) ++
  (if expBytes t = 0 then [] else [rowsOf t.exp (expBytes t)])

/-- Two ranges of rows meet. -/
def rowsMeet (a b : Nat × Nat) : Bool := decide (a.1 ≤ b.2) && decide (b.1 ≤ a.2)

/-- Some ranges of one list meet some of another. -/
def anyMeet (a b : List (Nat × Nat)) : Bool := a.any (fun x => b.any (rowsMeet x))

/-- The number of requantization records that an operation reads. -/
def rqCount (r : List Byte) (td : Nat → TDesc) : Nat :=
  let many := fun (n : Nat) => if ctrl2 r then n else 1
  match recOpcode r with
  | 0x01 => if recDrain r = 0 then many (64 * fieldAt r 26 2) else 0
  | 0x02 => if recDrain r = 0 then many (nth (td 3).size 2) else 0
  | 0x03 => many (nth (td 3).size 2)
  | 0x04 => if ctrl2 r then 1 else 0
  | 0x05 => if eltFn r ≤ 2 then 1 else 0
  | 0x06 => many (axisCount (td 3))
  | 0x07 => 3
  | 0x0A => nth (td 0).size (rb r 16)
  | _ => 0

/-- A non-empty range of rows, or nothing. -/
def someRows (lo hi : Nat) : List (Nat × Nat) := if lo ≤ hi then [(lo, hi)] else []

/-- The read footprint: operands with their tables, requantization records, and what the opcode names besides. -/
def readRows (r : List Byte) (td : Nat → TDesc) : List (Nat × Nat) :=
  let ins := (opSlots r).filter (fun e => e.1 < 3)
  let n := rqCount r td
  ins.flatMap (fun e => tdRows (td e.1) :: tableRows (td e.1)) ++
  (if n = 0 ∨ recRq r = 0xFFFF then [] else [rowsOf (64 * recRq r) (8 * n)]) ++
  match recOpcode r with
  | 0x09 => [(fieldAt r 22 2, fieldAt r 22 2 + 7)]
  | 0x0E => [(fieldAt r 16 2, fieldAt r 16 2)]
  | 0x0F => [(fieldAt r 16 2, fieldAt r 16 2)]
  | 0x10 => someRows (fieldAt r 24 2) (fieldAt r 26 2) ++ [rowsOf (64 * fieldAt r 16 2) (4 * fieldAt r 18 2)]
  | _ => []

/-- The write footprint. -/
def writeRows (r : List Byte) (td : Nat → TDesc) : List (Nat × Nat) :=
  ((opSlots r).filter (fun e => 3 ≤ e.1)).map (fun e => tdRows (td e.1)) ++
  match recOpcode r with
  | 0x0D => [(fieldAt r 60 2, fieldAt r 60 2)]
  | 0x10 => someRows (fieldAt r 28 2) (fieldAt r 30 2)
  | _ => []

/-- An output footprint meets an input footprint; an ELTWISE or REQUANT whose output descriptor is an input's runs in place
(R254). DEDUCED: log entry 51. -/
def overlaps (r : List Byte) (tds : List (List Byte)) (td : Nat → TDesc) : Bool :=
  let out := (tds[3]?).getD []
  let inPlace := fun (k : Nat) => (recOpcode r == 5 || recOpcode r == 6) && (tds[k]?).getD [] == out
  let ins := ((opSlots r).filter (fun e => decide (e.1 < 3) && ! inPlace e.1)).map (fun e => tdRows (td e.1))
  anyMeet (writeRows r td) (if recOpcode r = 0x10 then readRows r td else ins)

end Sys2Proof.Machine
end

