-- ==== Sys2Proof/Machine/CoreRun.lean ====
section
/-! DEFINITION. The operations of a core but VPROG: matrix operations (R224, R229 to R232, R256 to R258), vector-unit operations
(R259 to R268) and crops from the frame store (R269 to R271). Each answers the state with its output written and what it
counts; an operation's effect is taken whole, at its completion. -/

namespace Sys2Proof.Machine

open Sys2Proof

/-! ### Matrix operations -/

/-- One pass of a matrix operation: its operand functions (row, k) and (column, k), each already scaled by nothing, the block
exponents, the start value of a cell, what its drain writes, and every failing or poisoned granule that enters its tile. -/
structure Pass where
  no : Nat
  k : Nat
  mt : Nat
  nt : Nat
  a : Nat → Nat → Int
  w : Nat → Nat → Int
  ea : Nat → Nat → Nat
  ew : Nat → Nat → Nat
  init : Nat → Nat → Int
  place : Nat → Nat → List Nat
  rq : Nat → Rec
  bad : List Nat

/-- A cell after the whole reduction (R231). -/
def cellOf (p : Pass) (m n : Nat) : Int × Nat :=
  satSum (p.init m n) ((List.range p.k).map (fun k => p.a m k * p.w n k * 2 ^ (p.ea m (k / 32) + p.ew n (k / 32))))

/-- What a drained cell holds (R229, R236, R256). -/
def drainCell (x : OpCtx) (o : TDesc) (p : Pass) (bad : List Nat) (m n : Nat) (v : Int × Nat) : OutEl :=
  let b := boundsOf x.r o.etype
  let q := p.rq n
  let y := if recDrain x.r = 0 then
      (if m < p.mt then requant v.1 q.mult q.shift q.zp b.1 b.2 (opRnd x) (matBits x ((p.no * 64 + n) * 64 + m))
       else (q.zp, 0))
    else if m < p.mt then satIn v.1 b.1 b.2 else (0, 0)
  { i := p.place m n, el := { v := y.1, bad := bad ++ (if recDrain x.r = 0 then q.bad else []) }, acc := 0, out := y.2,
    free := o.layout == 0 }

/-- The partner nibbles of an S4 drain with an odd number of columns (R229). -/
def partnerCells (x : OpCtx) (o : TDesc) (p : Pass) (bad : List Nat) : List OutEl :=
  if recDrain x.r = 0 ∧ o.etype = 1 ∧ o.layout = 1 ∧ p.nt % 2 = 1 then
    (List.range 64).map (fun m =>
      { i := p.place m p.nt, el := { v := (p.rq (p.nt - 1)).zp, bad := bad }, acc := 0, out := 0, free := true })
  else []

/-- The 4,096 cells of a pass, row by row. -/
def passCells (p : Pass) : List (Nat × Nat × Int × Nat) :=
  (List.range 64).flatMap (fun m => (List.range 64).map (fun n => (m, n, cellOf p m n)))

/-- A pass drained; a parity error poisons the tile (R232). The saturations of every cell count, those of invalid lanes
too (R229). DEDUCED: log entry 52. -/
def drainPass (x : OpCtx) (o : TDesc) (p : Pass) (bad : List Nat) (cells : List (Nat × Nat × Int × Nat)) : List OutEl :=
  (cells.filter (fun e => decide (e.2.1 < p.nt))).map (fun e => drainCell x o p bad e.1 e.2.1 e.2.2) ++ partnerCells x o p bad

/-- The accumulators after a pass whose cells, row by row, are those of a set: keys rise with set, row and column, and a cell
that is 0 is not listed. DEDUCED: log entry 52. -/
def accAfter (t : Tab Int) (set : Nat) (cells : List (Nat × Nat × Int × Nat)) : Tab Int :=
  let own := (cells.filter (fun e => e.2.2.1 != 0)).map (fun e => (set * 4096 + e.1 * 64 + e.2.1, e.2.2.1))
  t.filter (fun e => decide (e.1 / 4096 < set)) ++ own ++ t.filter (fun e => decide (set < e.1 / 4096))

/-- A matrix operation over its passes (R224): the accumulator sets take turns, and the tiles drain to OUT. A tile with a
parity error is poisoned (R232). On a stop the pass in progress ends without its drain (R248). -/
def runPasses (s : State) (x : OpCtx) (parity : List Nat) (ps : List Pass) : State × OpRep :=
  let o := opTd x 3
  let k := coreOf s x.c
  let ps := x.limit.elim ps (fun n => ps.take (n + 1))
  let done := ps.map (fun p => (p, passCells p))
  let outs := (x.limit.elim done (fun n => done.take n)).flatMap (fun e =>
    drainPass x o e.1 (e.1.bad ++ (if parity.contains e.1.no then [0] else [])) e.2)
  let accs := done.foldl (fun (q : Tab Int × Nat) e => (accAfter q.1 q.2 e.2, 1 - q.2)) (k.acc, k.accSet)
  let (s', rep) := writeOut s x.c o outs
  (setCore s' x.c { coreOf s' x.c with acc := accs.1, accSet := accs.2 },
    { rep with
      acc := sumOf (fun e => sumOf (fun (c : Nat × Nat × Int × Nat) => c.2.2.2) e.2) done,
      tiles := (ps.filter (fun p => parity.contains p.no)).length,
      fails := (ps.flatMap (fun p => p.bad)).eraseDups.filter (failingGran s) })

/-- The bytes of a block of an ACT64, WGT64 or ACC64 operand, and its exponents: the bad granules among them. -/
def blockBad (s : State) (c : Nat) (t : TDesc) (b : Nat) : List Nat :=
  let base := spmOf c + t.base + b * (ith t.stride 2).toNat
  badGrans s base ((blockBytes t).getD 0) ++
  (if blockExps t then badGrans s (spmOf c + t.exp + b * t.expPitch) (32 * cdiv (nth t.size 1) 32) else [])

/-- The block exponent of a row or column for a block of 32 k steps (R226). -/
def blockExp (s : State) (c : Nat) (t : TDesc) (b row blk : Nat) : Nat :=
  if ! blockExps t then 0
  else
    let e := (memByte s.mem (spmOf c + t.exp + b * t.expPitch + 32 * blk + row / 2)).toNat
    if row % 2 = 0 then e % 16 else e / 16

/-- The start value of a cell's accumulator with its bad granules: ZERO, BIAS or LOAD (R230). -/
def startCell (s : State) (x : OpCtx) (pass m col n : Nat) : El :=
  match recInit x.r with
  | 1 =>
    let e := elNat s x.c (opTd x 2) [col]
    { e with v := e.v * 2 ^ rb x.r 18 }
  | 2 => elNat s x.c (opTd x 2) [m, n, pass]
  | _ => { v := 0, bad := [] }

/-- The bad granules of a pass's start values. -/
def startBad (s : State) (x : OpCtx) (pass nb : Nat) : List Nat :=
  match recInit x.r with
  | 1 => (List.range 64).flatMap (fun n => (startCell s x pass 0 (64 * nb + n) n).bad)
  | 2 => blockBad s x.c (opTd x 2) pass
  | _ => []

/-- The record of an output column. -/
def colRec (s : State) (x : OpCtx) (col : Nat) : Rec := recIn s x.c (recRq x.r) (if ctrl2 x.r then col else 0)

/-- A pass of MATMUL (R256). -/
def matmulPass (s : State) (x : OpCtx) (mb nb : Nat) : Pass :=
  let a := opTd x 0
  let w := opTd x 1
  let rowsN := fieldAt x.r 24 2
  let colsN := fieldAt x.r 26 2
  let no := mb * colsN + nb
  { no := no, k := fieldAt x.r 20 4, mt := if mb + 1 = rowsN then rb x.r 28 else 64,
    nt := if nb + 1 = colsN then rb x.r 29 else 64,
    a := fun (m k : Nat) => (elAt s x.c a [m, k, mb]).v, w := fun (n k : Nat) => (elAt s x.c w [n, k, nb]).v,
    ea := blockExp s x.c a mb, ew := blockExp s x.c w nb,
    init := fun (m n : Nat) => (startCell s x no m (64 * nb + n) n).v,
    place := fun (m n : Nat) => if recDrain x.r = 0 then [m, 64 * nb + n, mb] else [m, n, no],
    rq := fun (n : Nat) => colRec s x (64 * nb + n),
    bad := blockBad s x.c a mb ++ blockBad s x.c w nb ++ startBad s x no nb }

/-- MATMUL (R256): the row block outermost. DEDUCED: log entry 52. -/
def runMatmul (s : State) (x : OpCtx) (parity : List Nat) : State × OpRep :=
  runPasses s x parity ((List.range (fieldAt x.r 24 2)).flatMap (fun mb =>
    (List.range (fieldAt x.r 26 2)).map (fun nb => matmulPass s x mb nb)))

/-- The input position of a window: column and row (R258, R260). -/
def winPos (r : List Byte) (xo yo kx ky : Nat) : Int × Int :=
  ((rb r 22 * xo + kx : Nat) - (rb r 25 : Int), (rb r 23 * yo + ky : Nat) - (rb r 24 : Int))

/-- A position lies in an input. -/
def inPlane (t : TDesc) (p : Int × Int) : Bool :=
  decide (0 ≤ p.1) && decide (p.1 < nth t.size 0) && decide (0 ≤ p.2) && decide (p.2 < nth t.size 1)

/-- The activation of CONV at output (xo, yo) and k step (R258). -/
def convAct (s : State) (x : OpCtx) (xo yo k : Nat) : El :=
  let a := opTd x 0
  let cin := max 1 (nth a.size 2)
  let kk := k / cin
  let p := winPos x.r xo yo (kk % max 1 (rb x.r 21)) (kk / max 1 (rb x.r 21))
  if rb x.r 26 = 0 && ! inPlane a p then
    (if a.smode = 0 ∧ a.scale = 0 then { v := 0, bad := [] } else zpAt s x.c a [0, 0, 0])
  else elClamp s x.c a [p.1, p.2, (k % cin : Nat)]

/-- The number of an element's exponent in the nibble array of a LINEAR operand (R304). -/
def expNumber (t : TDesc) (i : List Nat) : Nat :=
  ((List.range t.ndim).foldl (fun (q : Nat × Nat) d =>
    if d = t.ax then (q.1 + ix i d / 32 * q.2, q.2 * cdiv (nth t.size d) 32) else (q.1 + ix i d * q.2, q.2 * nth t.size d))
    (0, 1)).1

/-- The exponent of an element of a LINEAR operand, with what fed it. -/
def linearExp (s : State) (c : Nat) (t : TDesc) (i : List Nat) : El :=
  if ! blockExps t then { v := 0, bad := [] }
  else
    let j := expNumber t i
    let a := spmOf c + t.exp + j / 2
    let n := (memByte s.mem a).toNat
    { v := ((if j % 2 = 0 then n % 16 else n / 16 : Nat) : Int), bad := badGrans s a 1 }

/-- The block exponent of the activation of CONV at output (xo, yo) and k step (R235); a padding value is 0 at any
exponent. -/
def convExp (s : State) (x : OpCtx) (xo yo k : Nat) : El :=
  let a := opTd x 0
  let cin := max 1 (nth a.size 2)
  let kk := k / cin
  let p := winPos x.r xo yo (kk % max 1 (rb x.r 21)) (kk / max 1 (rb x.r 21))
  if rb x.r 26 = 0 && ! inPlane a p then { v := 0, bad := [] } else linearExp s x.c a (clampIx a [p.1, p.2, (k % cin : Nat)])

/-- A pass of CONV (R258). -/
def convPass (s : State) (x : OpCtx) (yo xb nb : Nat) : Pass :=
  let w := opTd x 1
  let o := opTd x 3
  let wo := nth o.size 0
  let n := nth o.size 2
  let ksteps := nth w.size 1
  let no := (yo * cdiv wo 64 + xb) * cdiv n 64 + nb
  { no := no, k := ksteps, mt := min 64 (wo - 64 * xb), nt := min 64 (n - 64 * nb),
    a := fun (m k : Nat) => (convAct s x (64 * xb + m) yo k).v, w := fun (c k : Nat) => (elAt s x.c w [c, k, nb]).v,
    ea := fun (m b : Nat) => (convExp s x (64 * xb + m) yo (32 * b)).v.toNat, ew := blockExp s x.c w nb,
    init := fun (m c : Nat) => (startCell s x no m (64 * nb + c) c).v,
    place := fun (m c : Nat) => [64 * xb + m, yo, 64 * nb + c], rq := fun (c : Nat) => colRec s x (64 * nb + c),
    bad := ((List.range 64).flatMap (fun m => (List.range ksteps).flatMap (fun k =>
        (convAct s x (64 * xb + m) yo k).bad ++ (convExp s x (64 * xb + m) yo k).bad))).eraseDups ++
      blockBad s x.c w nb ++ startBad s x no nb }

/-- CONV (R258): output line, x block, column block, the last innermost. DEDUCED: log entry 52. -/
def runConv (s : State) (x : OpCtx) (parity : List Nat) : State × OpRep :=
  let o := opTd x 3
  runPasses s x parity ((List.range (nth o.size 1)).flatMap (fun yo => (List.range (cdiv (nth o.size 0) 64)).flatMap
    (fun xb => (List.range (cdiv (nth o.size 2) 64)).map (fun nb => convPass s x yo xb nb))))

/-! ### Vector-unit operations -/

/-- A sum of elements, saturated once (R259), with what fed them. -/
def elSum (init : El) (l : List El) : El × Nat :=
  let y := exactSum init.v (l.map (fun e => e.v))
  ({ v := y.1, bad := init.bad ++ l.flatMap (fun e => e.bad) }, y.2)

/-- An element times another. -/
def elMul (a b : El) : El := { v := a.v * b.v, bad := a.bad ++ b.bad }

/-- The taps (kx, ky) of a window, ky outermost. -/
def tapList (r : List Byte) : List (Nat × Nat) :=
  (List.range (rb r 20)).flatMap (fun ky => (List.range (rb r 21)).map (fun kx => (kx, ky)))

/-- DWCONV (R260). -/
def runDwconv (s : State) (x : OpCtx) : State × OpRep :=
  let a := opTd x 0
  let o := opTd x 3
  emitOut s x o ((allIndices (dimsOf o)).map (fun i =>
    let b := elNat s x.c (opTd x 2) [ix i 2]
    let terms := (tapList x.r).map (fun t =>
      let p := winPos x.r (ix i 0) (ix i 1) t.1 t.2
      let act : El := if rb x.r 26 = 0 && ! inPlane a p then { v := 0, bad := [] } else elReal s x.c a [p.1, p.2, (ix i 2 : Nat)]
      elMul act (elNat s x.c (opTd x 1) [t.1, t.2, ix i 2]))
    let (v, n) := elSum { b with v := b.v * 2 ^ rb x.r 18 } terms
    narrow x o (recIn s x.c (recRq x.r) (if ctrl2 x.r then ix i 2 else 0)) i v n))

/-- The greatest of some elements, with what fed them. -/
def elMax (l : List El) : El :=
  { v := (l.map (fun e => e.v)).foldl max ((l.headD { v := 0, bad := [] }).v), bad := l.flatMap (fun e => e.bad) }

/-- POOL (R261). -/
def runPool (s : State) (x : OpCtx) : State × OpRep :=
  let a := opTd x 0
  let o := opTd x 3
  emitOut s x o ((allIndices (dimsOf o)).map (fun i =>
    let at_ := fun (t : Nat × Nat) =>
      let p := winPos x.r (ix i 0) (ix i 1) t.1 t.2
      [p.1, p.2, (ix i 2 : Int)]
    if ctrl2 x.r then
      let (v, n) := elSum { v := 0, bad := [] } ((tapList x.r).map (fun t => elReal s x.c a (at_ t)))
      narrow x o (recIn s x.c (recRq x.r) 0) i v n
    else boundOnly x o i (elMax ((tapList x.r).map (fun t => elClamp s x.c a (at_ t))))))

/-- The value that ELTWISE forms from its two inputs, before S48 saturation (R262). DEDUCED: log entry 53. -/
def eltValue (r : List Byte) (a b : Int) : Int :=
  match eltFn r with
  | 0 => a * sfieldAt r 16 2 + b * sfieldAt r 18 2
  | 1 => a * sfieldAt r 16 2 - b * sfieldAt r 18 2
  | 2 => a * b
  | 3 => max a b
  | _ => min a b

/-- ELTWISE (R262). DEDUCED: log entry 53. -/
def runEltwise (s : State) (x : OpCtx) : State × OpRep :=
  let o := opTd x 3
  emitOut s x o ((allIndices (dimsOf o)).map (fun i =>
    let j := i.map (fun (k : Nat) => (k : Int))
    if eltFn x.r ≤ 2 then
      let a := elReal s x.c (opTd x 0) j
      let b := elReal s x.c (opTd x 1) j
      let y := satS48 (eltValue x.r a.v b.v)
      narrow x o (recIn s x.c (recRq x.r) 0) i { v := y.1, bad := a.bad ++ b.bad } y.2
    else
      let a := elClamp s x.c (opTd x 0) j
      let b := elClamp s x.c (opTd x 1) j
      boundOnly x o i { v := eltValue x.r a.v b.v, bad := a.bad ++ b.bad }))

/-- REQUANT (R263). DEDUCED: log entry 53. -/
def runRequant (s : State) (x : OpCtx) : State × OpRep :=
  let o := opTd x 3
  emitOut s x o ((allIndices (dimsOf o)).map (fun i =>
    narrow x o (recIn s x.c (recRq x.r) (if ctrl2 x.r then axisIndex o i else 0)) i
      (elReal s x.c (opTd x 0) (i.map (fun (k : Nat) => (k : Int)))) 0))

/-- Where each input of CONCAT begins along the axis. -/
def concatStarts (x : OpCtx) : List (Nat × Nat) :=
  ((concatInputs x.r).foldl (fun (q : Nat × List (Nat × Nat)) j =>
    (q.1 + nth (opTd x j).size (rb x.r 16), q.2 ++ [(j, q.1)])) (0, [])).2

/-- CONCAT (R263). -/
def runConcat (s : State) (x : OpCtx) : State × OpRep :=
  let o := opTd x 3
  let ax := rb x.r 16
  emitOut s x o ((concatStarts x).flatMap (fun e =>
    let t := opTd x e.1
    (allIndices (dimsOf t)).map (fun i =>
      let k := i.set ax (ix i ax + e.2)
      if concatCopies x.r e.1 then outPlain k (elAt s x.c t i)
      else narrow x o (recIn s x.c (recRq x.r) e.1) k (elReal s x.c t (i.map (fun (k : Nat) => (k : Int)))) 0)))

/-- A source coordinate of RESIZE (R264). -/
def resizeCoord (u step : Nat) : Int := ((2 * u + 1) * step / 2 : Nat) - 32768

/-- RESIZE (R264). DEDUCED: log entry 53. -/
def runResize (s : State) (x : OpCtx) : State × OpRep :=
  let a := opTd x 0
  let o := opTd x 3
  let mode := if ctrl2 x.r then 1 else 0
  emitOut s x o ((allIndices (dimsOf o)).map (fun i =>
    let rest := (i.drop 2).map (fun (k : Nat) => (k : Int))
    let ts := (warpTaps mode (satCoord (resizeCoord (ix i 0) (fieldAt x.r 16 4)))
      (satCoord (resizeCoord (ix i 1) (fieldAt x.r 20 4)))).map (fun t => (t.1, elClamp s x.c a ([t.2.1, t.2.2] ++ rest)))
    let sum := ts.foldl (fun n t => n + t.1 * t.2.v) 0
    outPlain i { v := if mode = 0 then sum else (sum + 32768) / 65536, bad := ts.flatMap (fun t => t.2.bad) }))

/-! ### Operations along an axis -/

/-- The vectors of a tensor along an axis, each named by its index with 0 on the axis. -/
def vectorsOf (t : TDesc) (ax : Nat) : List (List Nat) := allIndices ((dimsOf t).set ax 1)

/-- The elements of a vector. -/
def vectorEls (s : State) (c : Nat) (t : TDesc) (ax : Nat) (i : List Nat) : List El :=
  (List.range (nth t.size ax)).map (fun j => elAt s c t (i.set ax j))

/-- Everything that fed a vector. -/
def vecBad (l : List El) : List Nat := (l.flatMap (fun e => e.bad)).eraseDups

/-- The greatest value of a vector. -/
def vecMax (l : List El) : Int := (l.map (fun e => e.v)).foldl max ((l.headD { v := 0, bad := [] }).v)

/-- The outputs of one vector of SOFTMAX (R267). -/
def softmaxVec (s : State) (x : OpCtx) (i : List Nat) : List OutEl :=
  let ax := rb x.r 16
  let o := opTd x 3
  let l := vectorEls s x.c (opTd x 0) ax i
  let mx := vecMax l
  let es := l.map (fun e =>
    let k := min 255 ((mx - e.v).toNat * fieldAt x.r 18 2 / 2 ^ rb x.r 17)
    let a := 64 * fieldAt x.r 22 2 + 2 * k
    (leNat (spmBytes s x.c a 2), badGrans s (spmOf x.c + a) 2))
  let sum := sumOf (fun e => e.1) es
  let (q, n) := recip (if sum = 0 then 1 else sum)
  let b := boundsOf x.r o.etype
  let bad := vecBad l ++ (es.flatMap (fun e => e.2)).eraseDups
  ((List.range es.length).zip es).map (fun e =>
    let k := i.set ax e.1
    let v := sfieldAt x.r 24 2 + roundShift (opRnd x) (vecBits x (placeOf (dimsOf o) k)) (e.2.1 * q : Nat) (47 - n - rb x.r 20)
    let y := satIn v b.1 b.2
    { i := k, el := { v := y.1, bad := bad }, acc := 0, out := y.2, free := false })

/-- SOFTMAX (R267). -/
def runSoftmax (s : State) (x : OpCtx) : State × OpRep :=
  emitOut s x (opTd x 3) ((vectorsOf (opTd x 0) (rb x.r 16)).flatMap (softmaxVec s x))

/-- requant with the bounds of S32, rounded half to even (R268). -/
def requant32 (v : Int) (q : Rec) : Int × Nat := requant v q.mult q.shift 0 (-2147483648) 2147483647 .rhe 0

/-- The outputs of one vector of NORM (R268); the saturations of its sums and means count with its first output. -/
def normVec (s : State) (x : OpCtx) (i : List Nat) : List OutEl :=
  let ax := rb x.r 16
  let t := opTd x 0
  let o := opTd x 3
  let inv := recFields (bytesAt x.r 20 8) []
  let xs := (List.range (nth t.size ax)).map (fun j => elReal s x.c t ((i.set ax j).map (fun (k : Nat) => (k : Int))))
  let s1 := exactSum 0 (xs.map (fun e => e.v))
  let mu := requant32 s1.1 inv
  let s2 := exactSum 0 (xs.map (fun e => (e.v - mu.1) * (e.v - mu.1)))
  let vr := requant32 s2.1 inv
  let (m, tt) := rsqrt (max 1 (vr.1 + (fieldAt x.r 28 4 : Nat))).toNat
  let b := boundsOf x.r o.etype
  let bad := vecBad xs
  ((List.range xs.length).zip xs).map (fun e =>
    let k := i.set ax e.1
    let q := recIn s x.c (recRq x.r) e.1
    let sh := min 63 ((q.shift : Int) + 33 - tt).toNat
    let y := requant ((e.2.v - mu.1) * m) q.mult sh q.zp b.1 b.2 (opRnd x) (vecBits x (placeOf (dimsOf o) k))
    { i := k, el := { v := y.1, bad := bad ++ q.bad }, acc := if e.1 = 0 then s1.2 + s2.2 else 0,
      out := y.2 + (if e.1 = 0 then mu.2 + vr.2 else 0), free := false })

/-- NORM (R268). -/
def runNorm (s : State) (x : OpCtx) : State × OpRep :=
  emitOut s x (opTd x 3) ((vectorsOf (opTd x 0) (rb x.r 16)).flatMap (normVec s x))

/-- A vector's elements with their places, in falling order, a tie to the lower place (R265). -/
def ranked (l : List El) : List (Nat × El) :=
  sortBy (fun a b => decide (b.2.v < a.2.v) || (decide (a.2.v = b.2.v) && decide (a.1 ≤ b.1))) ((List.range l.length).zip l)

/-- ARGMAX (R265). The index of a vector stands at 0 on the axis, or without it where OUT leaves the axis out. -/
def runArgmax (s : State) (x : OpCtx) : State × OpRep :=
  let t := opTd x 0
  let o := opTd x 3
  let ax := rb x.r 16
  emitOut s x o ((vectorsOf t ax).map (fun i =>
    let l := vectorEls s x.c t ax i
    outPlain (if o.ndim = t.ndim then i else i.eraseIdx ax)
      { v := ((ranked l).headD (0, { v := 0, bad := [] })).1, bad := vecBad l }))

/-- Two reports together. -/
def repPlus (a b : OpRep) : OpRep :=
  { acc := a.acc + b.acc, out := a.out + b.out, oob := a.oob + b.oob, fails := (a.fails ++ b.fails).eraseDups,
    vout := a.vout + b.vout, tiles := a.tiles + b.tiles, poisoned := a.poisoned + b.poisoned }

/-- TOPK (R265). -/
def runTopk (s : State) (x : OpCtx) : State × OpRep :=
  let t := opTd x 0
  let o := opTd x 3
  let ax := rb x.r 16
  let rows := (vectorsOf t ax).flatMap (fun i =>
    let l := vectorEls s x.c t ax i
    let rk := ranked l
    (List.range (rb x.r 17)).map (fun k =>
      let e := (rk[k]?).map (fun e => (e.2.v, (e.1 : Int)))
      (i.set ax k, e.getD ((boundsOf x.r o.etype).1, 0xFFFF), vecBad l)))
  let (s', a) := emitOut s x o (rows.map (fun e => outPlain e.1 { v := e.2.1.1, bad := e.2.2 }))
  let (s'', b) := emitOut s' x (opTd x 4) (rows.map (fun e => outPlain e.1 { v := e.2.1.2, bad := e.2.2 }))
  (s'', repPlus a b)

/-! ### Crops (R269 to R271) -/

/-- The domain of a unit of work: that of its graph (R16). -/
def unitDom (s : State) (u : CoreUnit) : Nat :=
  let g := match u.work with
    | .node n => (tabGet? s.nodes n).map (fun (x : Node) => x.graph)
    | .item f _ _ => (tabGet? s.pool.flows f).map (fun (x : Flow) => x.graph)
  (g.bind (fun k => tabGet? s.graphs k)).elim 0 (fun x => x.dom)

/-- A box of R270 as exact fractions with denominator `den`: left, top, width and height. -/
structure CropBox where
  den : Nat
  xl : Int
  yt : Int
  bw : Int
  bh : Int
deriving DecidableEq, Repr

/-- The box of an object record, with ASPECT the shorter side grown about its centre (R270). DEDUCED: log entry 53. -/
def cropBox (r rec_ : List Byte) : CropBox :=
  let mg : Int := (rb r 58 : Nat)
  let ow : Int := (rb r 56 : Nat)
  let oh : Int := (rb r 57 : Nat)
  let xl := (fieldAt rec_ 24 2 : Int) - mg
  let yt := (fieldAt rec_ 28 2 : Int) - mg
  let bw := (fieldAt rec_ 26 2 : Int) - (fieldAt rec_ 24 2 : Int) + 1 + 2 * mg
  let bh := (fieldAt rec_ 30 2 : Int) - (fieldAt rec_ 28 2 : Int) + 1 + 2 * mg
  if ! ctrl2 r then { den := 1, xl := xl, yt := yt, bw := bw, bh := bh }
  else if bh * ow < bw * oh then
    { den := 2 * (rb r 56), xl := 2 * ow * xl, yt := 2 * ow * yt - (bw * oh - bh * ow), bw := 2 * ow * bw, bh := 2 * bw * oh }
  else
    { den := 2 * (rb r 57), xl := 2 * oh * xl - (bh * ow - bw * oh), yt := 2 * oh * yt, bw := 2 * bh * ow, bh := 2 * oh * bh }

/-- A source coordinate of a crop: `lo` and `ext` over the box's denominator, for output `u` of `n` (R270). -/
def cropCoord (den : Nat) (lo ext : Int) (u n : Nat) : Int :=
  satCoord ((2 * (n : Int) * lo * 65536 + (2 * (u : Int) + 1) * ext * 65536) / (2 * n * den : Nat) - 32768)

/-- A tap of a crop: weight, column, frame, line, and whether it was clamped. -/
structure CropTap where
  w : Int
  x : Nat
  frame : Nat
  y : Nat
  clipped : Bool
deriving DecidableEq, Repr

/-- The taps of an output position (R270). -/
def cropTaps (r rec_ : List Byte) (u v : Nat) : List CropTap :=
  let p := pref r 16
  let b := cropBox r rec_
  let span := fieldAt rec_ 19 1
  let h := max 1 p.height
  (warpTaps 1 (cropCoord b.den b.xl b.bw u (rb r 56)) (cropCoord b.den b.yt b.bh v (rb r 57))).map (fun t =>
    let cx := clampInt t.2.1 0 ((p.width : Int) - 1)
    let cy := (clampInt t.2.2 0 ((span * p.height : Nat) - (1 : Int))).toNat
    let fr := (fieldAt rec_ 4 4 : Int) + (cy / h : Nat) - (fieldAt rec_ 28 2 / h : Nat)
    { w := t.1, x := cx.toNat, frame := unsignedOf 32 fr, y := cy % h, clipped := decide (cx ≠ t.2.1) || decide ((cy : Int) ≠ t.2.2) })

/-- The address of a tap's sample in a plane. -/
def cropAddr (p : PRef) (q : Nat) (t : CropTap) : Nat :=
  lineAddr p (t.frame % max 1 p.slots) q t.y + t.x * sampleBytes p

/-- A sample as a crop reads it in its domain: zero and poisoned where the access is refused. -/
def cropSample (s : State) (dom : Nat) (p : PRef) (a : Nat) : El :=
  let g := granOf a
  if accessStatus s dom false (g * 64) 64 = .ok then
    { v := leNat (getBytes s a (sampleBytes p)), bad := if goodGran s g then [] else [g] }
  else { v := 0, bad := [g] }

/-- The crop header (R271). -/
def cropHeader (rec_ : List Byte) (stale poison clipped : Bool) (n : Nat) : List Byte :=
  bytesAt rec_ 0 8 ++ leBytes 2 (bit01 stale + 2 * bit01 poison + 4 * bit01 clipped) ++ leBytes 2 (satTo 16 n) ++
  List.replicate 52 0

/-- The granules of a list, each read once in a domain. -/
def readGrans (s : State) (dom : Nat) (gs : List Nat) : State := gs.foldl (fun s g => (readLocal s dom (g * 64) 64).1) s

/-- Where the record of a CROP stands: the address that two scalar registers hold (R269). -/
def cropRecAt (x : OpCtx) : Nat := nth x.snap (rb x.r 59) + nth x.snap (rb x.r 59 + 1) % 65536 * 2 ^ 32

/-- The samples of a position under their weights. -/
def mixTaps (ts : List (Int × El)) (recBad : List Nat) : El :=
  { v := (ts.foldl (fun n t => n + t.1 * t.2.v) 0 + 32768) / 65536, bad := recBad ++ ts.flatMap (fun t => t.2.bad) }

/-- The frame headers that a CROP reads: whether one is stale, and the granules that fail. -/
def cropHeaders (s s1 : State) (dom : Nat) (at_ : Nat → Nat) (frames : List Nat) : State × Bool × List Nat :=
  frames.foldl (fun (q : State × Bool × List Nat) f =>
    let (s', st, h) := readLocal q.1 dom (at_ f) 64
    (s', q.2.1 || fieldAt h 0 4 != f, q.2.2 ++ (if st ≠ .ok then [granOf (at_ f)] else badGrans s (at_ f) 64)))
    (s1, false, [])

/-- CROP (R269 to R271). DEDUCED: log entry 53. -/
def runCrop (s : State) (x : OpCtx) (u : CoreUnit) : State × OpRep :=
  let dom := unitDom s u
  let p := pref x.r 16
  let o := opTd x 3
  let a := cropRecAt x
  let rd := readLocal s dom a 64
  let rec_ := padTo 64 rd.2.2
  let fed := x.snapBad.getLsbD (rb x.r 59) || x.snapBad.getLsbD (rb x.r 59 + 1)
  let recBad := (if rd.2.1 ≠ .ok ∨ fed then [granOf a] else []) ++ badGrans s a 64
  let pos := (List.range (rb x.r 57)).flatMap (fun v => (List.range (rb x.r 56)).map (fun u => (u, v, cropTaps x.r rec_ u v)))
  let taps := pos.flatMap (fun e => e.2.2)
  let grans := (taps.flatMap (fun t => (List.range p.planes).map (fun q => granOf (cropAddr p q t)))).eraseDups
  let frames := (taps.map (fun t => t.frame)).eraseDups
  let pitch := hdrPitch (bitAt (recCtrl x.r) 3)
  let hdrAt := fun (f : Nat) => fieldAt x.r 48 8 + f % max 1 p.slots * pitch
  let (s2, stale, hdrBad) := cropHeaders s (readGrans rd.1 dom grans) dom hdrAt frames
  let outs := pos.flatMap (fun e => (List.range p.planes).map (fun q =>
    outPlain [e.1, e.2.1, q] (mixTaps (e.2.2.map (fun t => (t.w, cropSample s dom p (cropAddr p q t)))) recBad)))
  let (s3, rep) := emitOut s2 x o outs
  let clipped := taps.any (fun t => t.clipped && t.w != 0)
  (putBytes s3 (spmOf x.c + 64 * fieldAt x.r 60 2) (cropHeader rec_ stale (rep.poisoned != 0) clipped rep.poisoned)
    (! recBad.isEmpty || ! hdrBad.isEmpty),
    { rep with fails := (rep.fails ++ hdrBad.filter (failingGran s)).eraseDups })

end Sys2Proof.Machine
end

