-- ==== Sys2Proof/Machine/Vector.lean ====
section
/-! DEFINITION. Vector programs (R275 to R279): the instruction's fields, the checks at issue, and their execution on the
vector registers, masks and poison bits of a core (R241 to R243). -/

namespace Sys2Proof.Machine

open Sys2Proof

/-! ### Fields (R276) -/

/-- OP. -/
def vOp (w : Nat) : Nat := bitsAt w 26 6
/-- W, the width code. -/
def vW (w : Nat) : Nat := bitsAt w 24 2
/-- MD. -/
def vMd (w : Nat) : Nat := bitsAt w 22 2
/-- SG. -/
def vSg (w : Nat) : Bool := bitAt w 21
/-- SR of forms M and L. -/
def vSr (w : Nat) : Nat := bitsAt w 21 5
/-- VD. -/
def vD (w : Nat) : Nat := bitsAt w 16 5
/-- VA. -/
def vA (w : Nat) : Nat := bitsAt w 11 5
/-- VB, or IMM5. -/
def vB (w : Nat) : Nat := bitsAt w 6 5
/-- MK. -/
def vMk (w : Nat) : Nat := bitsAt w 4 2
/-- FN. -/
def vFn (w : Nat) : Nat := bitsAt w 0 4
/-- BODY of form L. -/
def vBody (w : Nat) : Nat := bitsAt w 11 10
/-- CNT of form L. -/
def vCnt (w : Nat) : Nat := bitsAt w 0 11

/-- The operations that have form I. -/
def vHasImm (op : Nat) : Bool := decide (4 ≤ op) && decide (op ≤ 0x0D)

/-- Form I: IMM5 stands in place of VB. -/
def vImm (w : Nat) : Bool := vHasImm (vOp w) && bitAt w 0

/-- Vector registers that an instruction reads, masked destinations left out. -/
def vReads (w : Nat) : List Nat :=
  let op := vOp w
  if op = 2 then [vD w]
  else if vHasImm op then (if vImm w then [vA w] else [vA w, vB w])
  else match op with
    | 0x0E => [vA w, vB w]
    | 0x0F => [vA w, vB w, vD w, vD w + 1]
    | 0x11 => [vA w, vA w + 1]
    | 0x13 => [vA w, vB w]
    | 0x14 => [vA w, vB w]
    | 0x19 => [vA w, vB w]
    | _ => if op = 0x10 ∨ op = 0x12 ∨ (0x15 ≤ op ∧ op ≤ 0x18) then [vA w] else []

/-- The destination is a pair. -/
def vPair (op : Nat) : Bool := op == 0x0E || op == 0x0F || op == 0x12 || op == 0x16 || op == 0x17

/-- Vector registers that an instruction writes. -/
def vWrites (w : Nat) : List Nat :=
  let op := vOp w
  if vPair op then [vD w, vD w + 1]
  else if op = 0 ∨ op = 2 ∨ op = 3 ∨ op = 0x13 then [] else [vD w]

/-- Cycles of an instruction (tables of R276, R278). -/
def vCost (w : Nat) : Nat :=
  let op := vOp w
  let c := if op = 0x15 ∨ op = 0x18 then 4
    else if op = 0x0E ∨ op = 0x0F ∨ op = 0x10 ∨ op = 0x16 ∨ op = 0x17 ∨ op = 0x19 then 2 else 1
  if 4 ≤ op ∧ vW w = 3 then 2 * c else c

/-! ### Checks at issue (R277) -/

/-- The instructions of a program. -/
def vProgram (s : State) (c : Nat) (r : List Byte) : List Byte := spmBytes s c (64 * fieldAt r 16 2) (4 * fieldAt r 18 2)

/-- The instruction at a place of a program. -/
def vInstr (prog : List Byte) (i : Nat) : Nat := fieldAt prog (4 * i) 4

/-- A loop at a place encloses another place. -/
def vEncloses (prog : List Byte) (j i : Nat) : Bool :=
  vOp (vInstr prog j) == 3 && decide (j < i) && decide (i < j + 1 + vBody (vInstr prog j))

/-- A VLOOP whose body passes the end of an enclosing body, or that nests deeper than 4. -/
def vLoopBad (prog : List Byte) (i : Nat) : Bool :=
  let w := vInstr prog i
  let outer := (List.range i).filter (fun j => vEncloses prog j i)
  vBody w == 0 || decide (3 < outer.length) ||
  outer.any (fun j => decide (j + 1 + vBody (vInstr prog j) < i + 1 + vBody w))

/-- An instruction with a width, method, mask or destination that its entry of R276 does not allow.
DEDUCED: log entry 54. -/
def vFormBad (w : Nat) : Bool :=
  let op := vOp w
  (vPair op && vD w % 2 == 1) ||
  ((op == 0x0E || op == 0x0F || op == 0x11 || op == 0x12) && vW w == 3) ||
  (op == 0x10 && (decide (vW w < 2) || vMd w == 3 || vB w == 31)) ||
  ((op == 0x16 || op == 0x17) && vW w != 2) ||
  ((op == 4 || op == 5 || op == 0x0B || op == 0x0F || op == 0x11 || (op == 0x18 && vFn w / 2 % 4 == 0)) && decide (1 < vMd w)) ||
  (op == 0x13 && (vD w % 4 == 0 || decide (7 < vFn w))) || (op == 0x14 && vMk w == 0) ||
  (op == 0x18 && vFn w / 2 % 4 == 3)

/-- The checks of a VPROG record and its program (R275, R277). -/
def vprogChecks (s : State) (c : Nat) (r : List Byte) : List (Bool × Status) :=
  let prog := vProgram s c r
  let len := fieldAt r 18 2
  let mask := fieldAt r 20 4
  let ws := (List.range len).map (vInstr prog)
  let far := decide (spmSize < 64 * fieldAt r 16 2 + 4 * len)
  [bp (len == 0 || decide (1024 < len) || far), bp (fieldAt r 32 4 == 0 || decide (2 ^ 24 < fieldAt r 32 4)),
   bp ([24, 26, 28, 30].any (fun o => decide (spmRows ≤ fieldAt r o 2)))] ++
  (if 1024 < len || far then []
   else
    [(rangeBad s (spmOf c + 64 * fieldAt r 16 2) (4 * len), .badField),
     (ws.any (fun w => decide (0x1A < vOp w)), .badField),
     bp (ws.any (fun w => (vReads w ++ vWrites w).any (fun k => decide (31 < k) || ! bitAt mask k))),
     bp (ws.any vFormBad),
     bp ((List.range len).any (fun i => vOp (vInstr prog i) == 3 && vLoopBad prog i)),
     bp (vOp (vInstr prog (len - 1)) != 0)])

/-! ### Registers and elements (R241) -/

/-- Bytes of an element in a register, S48 in a lane pair. -/
def vBytes (w : Nat) : Nat := 2 ^ w
/-- Bits of an element's value. -/
def vBits (w : Nat) : Nat := if w = 3 then 48 else 8 * 2 ^ w
/-- Elements in a register. -/
def vCount (w : Nat) : Nat := 512 / vBytes w

/-- A vector program in execution: the state, the core's registers, poison bits and masks, cycles gone, the cycle from which a
loaded register is usable, the loops entered as (first, past last, repetitions left), the VRSH and VRQ instructions
executed, and what the operation counts. -/
structure VRun where
  s : State
  regs : Tab (List Byte)
  poison : BitVec 32
  masks : Tab Nat
  pc : Nat
  cyc : Nat
  ready : Tab Nat
  loops : List (Nat × Nat × Nat)
  rounds : Nat
  rep : OpRep
  ended : Bool
deriving DecidableEq, Repr

/-- The bytes of a register. -/
def vReg (v : VRun) (k : Nat) : List Byte := padTo 512 (tabGet [] v.regs k)

/-- Element `e` of `n`-byte elements, as stored. -/
def rawEl (bs : List Byte) (n e : Nat) : Nat := fieldAt bs (n * e) n

/-- An element's value. -/
def vVal (w : Nat) (sg : Bool) (bs : List Byte) (e : Nat) : Int :=
  let x := rawEl bs (vBytes w) e
  if sg then signedOf (vBits w) x else (x % 2 ^ vBits w : Nat)

/-- An element as stored: S48 sign-extended over its lane pair. -/
def vRaw (w : Nat) (i : Int) : Nat := if w = 3 then unsignedOf 64 (signedOf 48 (unsignedOf 48 i)) else unsignedOf (vBits w) i

/-- The element is enabled by the mask MK. -/
def vOn (v : VRun) (w e : Nat) : Bool := vMk w == 0 || bitAt (tabGet 0 v.masks (vMk w)) e

/-- Elements of `n` bytes written over those of `old` where they are enabled. -/
def vMerge (v : VRun) (w n : Nat) (old : List Byte) (new : List Nat) : List Byte :=
  ((List.range new.length).zip new).flatMap (fun e => if vOn v w e.1 then leBytes n e.2 else bytesAt old (n * e.1) n)

/-- A register written. -/
def setVReg (v : VRun) (k : Nat) (bs : List Byte) : VRun := { v with regs := tabSet k bs v.regs }

/-- The poison bit of a register. -/
def setPoison (v : VRun) (k : Nat) (b : Bool) : VRun :=
  let bit := (1#32) <<< k
  { v with poison := if b then v.poison ||| bit else v.poison &&& ~~~ bit }

/-- The poison bits after an instruction: those of what it read, and of what a mask left in its destination (R243). -/
def vPoison (v : VRun) (w : Nat) : VRun :=
  let src := (vReads w).any (fun k => v.poison.getLsbD k)
  let kept := vMk w != 0 && vOp w != 0x14
  let was := v.poison
  (vWrites w).foldl (fun v k => setPoison v k (src || (kept && was.getLsbD k))) v

/-- Saturations counted for the enabled elements. -/
def vSats (v : VRun) (w : Nat) (l : List (Int × Nat)) : VRun :=
  { v with rep := { v.rep with
    out := v.rep.out + sumOf (fun (e : Nat × Int × Nat) => if vOn v w e.1 then e.2.2 else 0) ((List.range l.length).zip l) } }

/-- A result brought to `b` bits by WRAP or SAT (R242). -/
def vNarrow (md b : Nat) (sg : Bool) (i : Int) : Int × Nat :=
  if md ≠ 1 then (i, 0)
  else if sg then satIn i (- (2 : Int) ^ (b - 1)) (2 ^ (b - 1) - 1) else satIn i 0 (2 ^ b - 1)

/-- One register written with elements of width W, their saturations counted. -/
def vPut (v : VRun) (w : Nat) (l : List (Int × Nat)) : VRun :=
  let bs := vMerge v w (vBytes (vW w)) (vReg v (vD w)) (l.map (fun e => vRaw (vW w) e.1))
  setVReg (vSats (vPoison v w) w l) (vD w) bs

/-- A register pair written with elements of 2W. -/
def vPutPair (v : VRun) (w : Nat) (l : List (Int × Nat)) : VRun :=
  let n := 2 * vBytes (vW w)
  let old := vReg v (vD w) ++ vReg v (vD w + 1)
  let bs := vMerge v w n old (l.map (fun e => unsignedOf (8 * n) e.1))
  setVReg (setVReg (vSats (vPoison v w) w l) (vD w) (bs.take 512)) (vD w + 1) (bs.drop 512)

/-- A register pair written with two lists of 32-bit elements, one to each register. -/
def vPutTwo (v : VRun) (w : Nat) (a b : List Int) : VRun :=
  let x := vMerge v w 4 (vReg v (vD w)) (a.map (unsignedOf 32))
  let y := vMerge v w 4 (vReg v (vD w + 1)) (b.map (unsignedOf 32))
  setVReg (setVReg (vPoison v w) (vD w) x) (vD w + 1) y

/-- The second operand of an element: VB's, or IMM5. -/
def vOperand (v : VRun) (w : Nat) (sg : Bool) (e : Nat) : Int :=
  if vImm w then (if sg then signedOf 5 (vB w) else (unsignedOf (vBits (vW w)) (signedOf 5 (vB w)) : Nat))
  else vVal (vW w) sg (vReg v (vB w)) e

/-- A shift amount, of which no more than 128 matters at these widths. -/
def vAmount (v : VRun) (w e : Nat) : Nat := min 128 (vOperand v w false e).toNat

/-- The dither bits of element `e` of a rounding vector instruction (R238, R279). -/
def vDither (x : OpCtx) (v : VRun) (e : Nat) : Nat := vecBits x (512 * v.rounds + e)

/-- VADD to VXOR and the shifts: an element's result. -/
def vAlu (x : OpCtx) (v : VRun) (w e : Nat) : Int × Nat :=
  let op := vOp w
  let b := vBits (vW w)
  let sg := vSg w
  let a := vVal (vW w) sg (vReg v (vA w)) e
  let y := vOperand v w sg e
  let ua := (vVal (vW w) false (vReg v (vA w)) e).toNat
  let uy := (vOperand v w false e).toNat
  let k := vAmount v w e
  match op with
  | 0x04 => vNarrow (vMd w) b sg (a + y)
  | 0x05 => vNarrow (vMd w) b sg (a - y)
  | 0x06 => (min a y, 0)
  | 0x07 => (max a y, 0)
  | 0x08 => ((ua &&& uy : Nat), 0)
  | 0x09 => ((ua ||| uy : Nat), 0)
  | 0x0A => ((ua ^^^ uy : Nat), 0)
  | 0x0B => vNarrow (vMd w) b sg (a * 2 ^ k)
  | 0x0C => (a / 2 ^ k, 0)
  | _ => (roundShift (rndOf x.dflt (vMd w)) (vDither x v e) a k, 0)

/-- The comparison of a VCMP. -/
def vCompare (fn : Nat) (a b : Int) : Bool :=
  match fn / 2 % 8 with
  | 0 => decide (a = b)
  | 1 => decide (a ≠ b)
  | 2 => decide (a < b)
  | _ => decide (a ≤ b)

/-- VCMP: the enabled bits of a mask are set anew. -/
def vCmp (v : VRun) (w : Nat) : VRun :=
  let k := vD w % 4
  let old := tabGet 0 v.masks k
  let n := (List.range (vCount (vW w))).foldl (fun m e =>
    let b := vCompare (vFn w) (vVal (vW w) (vSg w) (vReg v (vA w)) e) (vVal (vW w) (vSg w) (vReg v (vB w)) e)
    let b := if vOn v w e then b else bitAt old e
    m + bit01 b * 2 ^ e) 0
  let keep := old / 2 ^ vCount (vW w) * 2 ^ vCount (vW w)
  { v with masks := tabPut 0 k (keep + n) v.masks }

/-- VSEL: the mask chooses between VA and VB. -/
def vSel (v : VRun) (w : Nat) : VRun :=
  let n := vBytes (vW w)
  let bs := (List.range (vCount (vW w))).flatMap (fun e =>
    bytesAt (if vOn v w e then vReg v (vA w) else vReg v (vB w)) (n * e) n)
  setVReg (vPoison v w) (vD w) bs

/-! ### Memory (R277) -/

/-- A scalar register of the snapshot that a bad granule fed gives an instruction its address, record or value (R189). -/
def vTaint (x : OpCtx) (w : Nat) : Bool :=
  match vOp w with
  | 0x01 => x.snapBad.getLsbD (vSr w)
  | 0x02 => x.snapBad.getLsbD (vSr w)
  | 0x10 => x.snapBad.getLsbD (vB w) || x.snapBad.getLsbD (vB w + 1)
  | 0x15 => x.snapBad.getLsbD (vB w)
  | 0x1A => x.snapBad.getLsbD (vA w)
  | _ => false

/-- `n` bytes from an address lie in the read footprint: rows RD_LO to RD_HI, and the program's own rows (R275). -/
def vReadable (r : List Byte) (a n : Nat) : Bool :=
  let p := rowsOf (64 * fieldAt r 16 2) (4 * fieldAt r 18 2)
  (List.range ((a + max 1 n - 1) / 64 + 1 - a / 64)).all (fun k =>
    let w := a / 64 + k
    (decide (fieldAt r 24 2 ≤ w) && decide (w ≤ fieldAt r 26 2)) || (decide (p.1 ≤ w) && decide (w ≤ p.2)))

/-- `n` bytes from an address lie in the rows of a footprint. -/
def vInside (lo hi a n : Nat) : Bool := decide (64 * lo ≤ a) && decide (a + n ≤ 64 * hi + 64)

/-- An access outside its footprint: counted, and the first of an operation raises VPROG_BOUND. -/
def vOutside (c issue work : Nat) (v : VRun) : VRun :=
  let s := if v.rep.vout = 0 then
      postEvent v.s 0x0309 0 c (leBytes 1 c ++ [0] ++ leBytes 2 0 ++ leBytes 4 issue ++ leBytes 4 work) else v.s
  { v with s := s, rep := { v.rep with vout := v.rep.vout + 1 } }

/-- A register loaded, with its poison bit. -/
def vLoaded (v : VRun) (k : Nat) (bs : List Byte) (poison : Bool) : VRun := setPoison (setVReg v k bs) k poison

/-- The address of a VLD or VST. -/
def vAddress (x : OpCtx) (w : Nat) : Nat := unsignedOf 32 ((nth x.snap (vSr w) : Int) + 64 * signedOf 16 (bitsAt w 0 16))

/-- VLD. -/
def vLd (x : OpCtx) (work : Nat) (v : VRun) (w : Nat) : VRun :=
  let a := vAddress x w
  let v := { v with ready := tabSet (vD w) (v.cyc + 7) v.ready }
  if a % 64 = 0 && vReadable x.r a 512 then
    let bad := badGrans v.s (spmOf x.c + a) 512
    let v := { v with rep := { v.rep with fails := (v.rep.fails ++ bad.filter (failingGran v.s)).eraseDups } }
    vLoaded v (vD w) (spmBytes v.s x.c a 512) (! bad.isEmpty)
  else vOutside x.c x.issue work (vLoaded v (vD w) (List.replicate 512 0) true)

/-- VST. -/
def vSt (x : OpCtx) (work : Nat) (v : VRun) (w : Nat) : VRun :=
  let a := vAddress x w
  if a % 64 = 0 && vInside (fieldAt x.r 28 2) (fieldAt x.r 30 2) a 512 then
    { v with s := putBytes v.s (spmOf x.c + a) (vReg v (vD w)) (v.poison.getLsbD (vD w) || vTaint x w) }
  else vOutside x.c x.issue work v

/-- VLUT: the table of 256 elements at byte s(VB); outside the read footprint it reads as zeros, poisoned.
DEDUCED: log entry 54. -/
def vLut (x : OpCtx) (work : Nat) (v : VRun) (w : Nat) : VRun :=
  let a := nth x.snap (vB w)
  let n := vBytes (vW w)
  let inside := vReadable x.r a (256 * n)
  let bad := if inside then badGrans v.s (spmOf x.c + a) (256 * n) else []
  let tbl := if inside then spmBytes v.s x.c a (256 * n) else []
  let l := (List.range (vCount (vW w))).map (fun e =>
    (((rawEl tbl n ((vVal (vW w) false (vReg v (vA w)) e).toNat % 256) : Nat) : Int), 0))
  let v := { v with rep := { v.rep with fails := (v.rep.fails ++ bad.filter (failingGran v.s)).eraseDups } }
  let v := vPut v w l
  let v := if inside && bad.isEmpty then v else setPoison v (vD w) true
  if inside then v else vOutside x.c x.issue work v

/-! ### Execution -/

/-- Sum, maximum or minimum of VA's elements (VRED). -/
def vReduce (v : VRun) (w : Nat) : Int × Nat :=
  let l := (List.range (vCount (vW w))).map (vVal (vW w) (vSg w) (vReg v (vA w)))
  match vFn w / 2 % 4 with
  | 0 => vNarrow (vMd w) (vBits (vW w)) (vSg w) (l.foldl (· + ·) 0)
  | 1 => (l.foldl max (l.headD 0), 0)
  | _ => (l.foldl min (l.headD 0), 0)

/-- The effect of an instruction other than VEND and VLOOP. DEDUCED: log entry 54. -/
def vExec (x : OpCtx) (work : Nat) (v : VRun) (w : Nat) : VRun :=
  let wd := vW w
  let n := vCount wd
  let sg := vSg w
  let els := fun (f : Nat → Int × Nat) => (List.range n).map f
  let a := fun (e : Nat) => vVal wd sg (vReg v (vA w)) e
  let b := fun (e : Nat) => vVal wd sg (vReg v (vB w)) e
  let pair := fun (k : Nat) => vReg v k ++ vReg v (k + 1)
  let wide := 2 * vBytes wd
  let dbl := fun (k e : Nat) => if sg then signedOf (8 * wide) (rawEl (pair k) wide e) else (rawEl (pair k) wide e : Nat)
  match vOp w with
  | 0x01 => vLd x work v w
  | 0x02 => vSt x work v w
  | 0x0D => { vPut v w (els (vAlu x v w)) with rounds := v.rounds + 1 }
  | 0x0E => vPutPair v w (els (fun e => (a e * b e, 0)))
  | 0x0F => vPutPair v w (els (fun e => vNarrow (vMd w) (8 * wide) sg (dbl (vD w) e + a e * b e)))
  | 0x10 =>
    let m := nth x.snap (vB w)
    let t := nth x.snap (vB w + 1)
    { vPut v w (els (fun e => requant (vVal wd true (vReg v (vA w)) e) m (t % 256) (signedOf 16 (t / 65536)) (-2147483648)
        2147483647 (rndOf x.dflt (vMd w)) (vDither x v e))) with rounds := v.rounds + 1 }
  | 0x11 => vPut v w (els (fun e => vNarrow (vMd w) (vBits wd) sg (dbl (vA w) e)))
  | 0x12 => vPutPair v w (els (fun e => (a e, 0)))
  | 0x13 => vCmp v w
  | 0x14 => vSel v w
  | 0x15 => vLut x work v w
  | 0x16 =>
    let q := (List.range n).map (fun e => recip (max 1 (rawEl (vReg v (vA w)) 4 e)))
    vPutTwo v w (q.map (fun e => (e.1 : Int))) (q.map (fun e => (e.2 : Int)))
  | 0x17 =>
    let q := (List.range n).map (fun e => rsqrt (max 1 (rawEl (vReg v (vA w)) 4 e)))
    vPutTwo v w (q.map (fun e => (e.1 : Int))) (q.map (fun e => e.2))
  | 0x18 => vPut v w (vReduce v w :: List.replicate (n - 1) (0, 0))
  | 0x19 => vPut v w (els (fun e => (vVal wd true (vReg v (vA w)) ((vVal wd false (vReg v (vB w)) e).toNat % n), 0)))
  | 0x1A => vPut v w (els (fun _ => (if sg then signedOf 32 (nth x.snap (vA w)) else (nth x.snap (vA w) : Nat), 0)))
  | _ => if 4 ≤ vOp w then vPut v w (els (vAlu x v w)) else v

/-- The repetitions of a VLOOP; a count in a scalar register outside 1 to 65,536 repeats a free number of times.
DESIGN CHOICE: log entry 8. -/
def vTimes (x : OpCtx) (v : VRun) (w : Nat) : VRun × Nat :=
  if vCnt w ≠ 0 then (v, vCnt w)
  else
    let n := nth x.snap (vSr w)
    if 1 ≤ n ∧ n ≤ 65536 then (v, n)
    else ({ v with s := { v.s with freeCnt := v.s.freeCnt + 1 } }, Config.freeNat v.s.freeCnt n % 65536 + 1)

/-- Loops whose last instruction has been executed: each repeats, or is left. -/
def vLoopEnd (pc : Nat) : List (Nat × Nat × Nat) → Nat × List (Nat × Nat × Nat)
  | [] => (pc, [])
  | (first, past, left) :: t =>
    if pc ≠ past then (pc, (first, past, left) :: t)
    else if 0 < left then (first, (first, past, left - 1) :: t) else vLoopEnd pc t

/-- The cycle at which the next instruction issues: it waits for a register that a VLD still loads. -/
def vIssueAt (prog : List Byte) (v : VRun) : Nat :=
  let w := vInstr prog v.pc
  let used := vReads w ++ (if vMk w ≠ 0 ∧ 4 ≤ vOp w then vWrites w else [])
  used.foldl (fun m k => max m (tabGet 0 v.ready k)) v.cyc

/-- An instruction's effect, with the poison of the scalar registers that it reads. -/
def vEffect (x : OpCtx) (work : Nat) (v : VRun) (w : Nat) : VRun :=
  let v := vExec x work v w
  if vTaint x w then (vWrites w).foldl (fun v k => setPoison v k true) v else v

/-- One instruction issued at cycle `t`: its effect, and the next instruction. -/
def vStep (x : OpCtx) (work : Nat) (prog : List Byte) (t : Nat) (v : VRun) : VRun :=
  let w := vInstr prog v.pc
  let v := { v with cyc := t }
  let v' := match vOp w with
    | 0x00 => { v with ended := true }
    | 0x03 =>
      let (v, n) := vTimes x v w
      { v with loops := (v.pc + 1, v.pc + 1 + vBody w, n - 1) :: v.loops, pc := v.pc + 1 }
    | _ =>
      let v := vEffect x work v w
      let (pc, ls) := vLoopEnd (v.pc + 1) v.loops
      { v with pc := pc, loops := ls }
  { v' with cyc := t + vCost w }

/-- A program that reaches MAX_CYC is ended: its registers are poisoned and VPROG_BOUND is raised (R278). -/
def vKill (x : OpCtx) (work : Nat) (v : VRun) : VRun :=
  { v with
    s := postEvent v.s 0x0309 0 x.c (leBytes 1 x.c ++ leBytes 1 1 ++ leBytes 2 0 ++ leBytes 4 x.issue ++ leBytes 4 work),
    poison := v.poison ||| BitVec.ofNat 32 (fieldAt x.r 20 4), ended := true }

/-- The program runs; every instruction takes a cycle, so MAX_CYC bounds their number, and none issues at or past MAX_CYC.
DEDUCED: log entry 54. -/
def vLoop (x : OpCtx) (work : Nat) (prog : List Byte) : Nat → VRun → VRun
  | 0, v => v
  | fuel + 1, v =>
    if v.ended then v
    else
      let t := vIssueAt prog v
      if fieldAt x.r 32 4 ≤ t then vKill x work v else vLoop x work prog fuel (vStep x work prog t v)

/-- VPROG (R275 to R279). On a stop it ends after its current instruction (R281). -/
def runVprog (s : State) (x : OpCtx) (work : Nat) : State × OpRep :=
  let k := coreOf s x.c
  let v := vLoop x work ((x.tds[0]?).getD []) (x.limit.getD (fieldAt x.r 32 4 + 1))
    { s := s, regs := k.vregs, poison := k.vpoison, masks := k.vmask, pc := 0, cyc := 16, ready := [], loops := [],
      rounds := 0, rep := opRepNone, ended := false }
  (setCore v.s x.c { coreOf v.s x.c with vregs := v.regs, vpoison := v.poison, vmask := v.masks }, v.rep)

/-! ### Every operation -/

/-- The effect of an operation other than POST and SPAWN; `parity` names the tiles with a parity error.
DEDUCED: log entry 51. -/
def runOp (s : State) (c : Nat) (u : CoreUnit) (o : CoreOp) (limit : Option Nat) (parity : List Nat) : State × OpRep :=
  let x := opCtx c u o limit
  match recOpcode o.record with
  | 0x01 => runMatmul s x parity
  | 0x02 => runConv s x parity
  | 0x03 => runDwconv s x
  | 0x04 => runPool s x
  | 0x05 => runEltwise s x
  | 0x06 => runRequant s x
  | 0x07 => runConcat s x
  | 0x08 => runResize s x
  | 0x09 => runSoftmax s x
  | 0x0A => runNorm s x
  | 0x0B => runArgmax s x
  | 0x0C => runTopk s x
  | 0x0D => runCrop s x u
  | 0x10 => runVprog s x (unitWork u)
  | _ => (s, opRepNone)

/-- An operation's counts join those of its unit of work (R240, R247). -/
def addRep (u : CoreUnit) (p : OpRep) : CoreUnit :=
  noteFails { u with accSat := satTo 32 (u.accSat + p.acc), outSat := satTo 32 (u.outSat + p.out), oob := u.oob + p.oob,
                     vout := u.vout + p.vout, parity := u.parity + p.tiles } p.fails

end Sys2Proof.Machine
end

