-- ==== Sys2Proof/Machine/Pool.lean ====
section
/-! DEFINITION. The end of a unit of work (R247, R248, R281), the pool: acceptance, dispatch, completion and release of work
items (R282 to R293, R297 to R299), and the fencing of cores (R296). -/

namespace Sys2Proof.Machine

open Sys2Proof

/-! ### The end of a unit of work -/

/-- A started operation that a stop ends: what it had done of its work is a free amount, its counts and its effect on the
core's registers are those of that part, and its write footprint is undefined (R248, R281).
DESIGN CHOICE: log entry 48. -/
def endOp (c : Nat) (su : State × CoreUnit) (o : CoreOp) : State × CoreUnit :=
  let (s, u) := su
  let (s', rep) := runOp { s with freeCnt := s.freeCnt + 1 } c u o (some (Config.freeNat s.freeCnt o.issueNo)) []
  (scrambleRows s' c o.writes, addRep u rep)

/-- A unit of work issues no further operation: those that have started end and leave their write footprints undefined,
those that wait are dropped, and a POST already issued is delivered (R248, R281). -/
def coreStop (s : State) (c : Nat) (u : CoreUnit) : State × CoreUnit :=
  let (s, u) := (u.ops.filter (fun o => o.started)).foldl (endOp c) (s, u)
  let u := (u.ops.filter opIsPost).foldl (fun u o => deliverPost s c u (fieldAt o.record 16 2)) u
  (s, { u with ops := [], pendingIssue := none, ended := true })

/-- The counts of a unit of work join the core's counters CORE_ACC_SAT, CORE_OUT_SAT and CORE_PARITY_ERR (R247, R478). -/
def coreCounts (s : State) (c : Nat) (u : CoreUnit) : State :=
  bump (bump (bump s 0 c 5 u.accSat) 0 c 6 u.outSat) 0 c 7 u.parity

/-- A unit of work ends for good: failing granules that it met are reported, its counts join the core's, and its end record
goes out (R189, R247). -/
def closeUnit (s : State) (c : Nat) (u : CoreUnit) : State :=
  setUnit (unitTraceEnd (coreCounts (travelMismatch s 0 c u.fails.length 0xFF (u.fails.headD 0 * 64)) c u) c u) c none

/-- A run of a CORE node that is stopped or fenced ends and does not complete (R248, R296). -/
def abandonCoreNode (s : State) (c : Nat) (u : CoreUnit) (st : Status) : State :=
  let (s, u) := coreStop s c u
  if u.begun then closeUnit s c { u with status := st } else setUnit s c none

/-- An item's copy on a core has ended, with what it posted and its status. -/
def markCopy (i : PItem) (c : Nat) (post : Option PostVal) (st : Status) : PItem :=
  { i with copies := i.copies.map (fun k =>
      if k.core = c ∧ ! k.ended then { k with ended := true, post := post, status := st } else k) }

/-- A flow's window changed item by item. -/
def mapWindow (s : State) (flow : Nat) (p : PItem → PItem) : State :=
  match tabGet? s.pool.flows flow with
  | none => s
  | some f => setFlow s flow { f with window := f.window.map p }

/-- The completion signal of an item's copy reaches the pool. -/
def signalPool (s : State) (flow acc c : Nat) (post : Option PostVal) (st : Status) : State :=
  mapWindow s flow (fun i => if i.acc = acc then markCopy i c post st else i)

/-! ### Golden runs that compete for units (R436, R437) -/

/-- A golden run of this interval waits for the unit. -/
def goldenDue (s : State) (cls unit : Nat) : Bool :=
  s.safety.golden.any (fun g => g.cls == cls && g.unit == unit && g.started.isNone && ! g.done)

/-- A core runs nothing. -/
def coreIdle (s : State) (c : Nat) : Bool := (coreOf s c).unit.isNone && ! goldenRuns s 0 c

/-! ### Acceptance (R285 to R287) -/

/-- Items of a window (R286). -/
def windowFull (f : Flow) : Bool := decide (1024 ≤ f.window.length)

/-- A work item's fields (R285). -/
def itemFlow (b : List Byte) : Nat := fieldAt b 4 2 % 4096
/-- ECLASS of a work item. -/
def itemClass (b : List Byte) : Nat := fieldAt b 6 1 % 16

/-- A reserved field of a work item is not zero. -/
def itemReserved (b : List Byte) : Bool :=
  fieldAt b 4 2 / 4096 != 0 || fieldAt b 6 1 / 16 != 0 || fieldAt b 7 1 != 0 || fieldAt b 14 2 != 0

/-- A submission can be accepted now. -/
def acceptable (s : State) (x : Submission) : Bool :=
  match tabGet? s.pool.flows (itemFlow x.bytes) with
  | none => true
  | some f => ! windowFull f

/-- The status that voids an item (R287); the codes are the model's reading (log entry 31). -/
def voidStatus (f : Flow) (x : Submission) : Status :=
  if itemReserved x.bytes then .badField
  else if x.node ≠ f.spawner ∨ f.eclass < itemClass x.bytes then .badParam
  else .ok

/-- POOL_ITEM_BAD. DEDUCED: log entry 31. -/
def itemBad (s : State) (flow : Nat) (st : Status) (seq : Nat) : State :=
  raiseDoubt s 0x030A 9 0 (leBytes 2 flow ++ leBytes 2 (statusCode st) ++ leBytes 4 seq) rowPool kindFlow flow

/-- Items of an iteration, which its release names, with one more (R287). -/
def countIter (f : Flow) (rel : Nat) : Nat := tabGet 0 f.iterItems rel + 1

/-- POOL_EXCESS for the first item beyond Q in a counter window (R287). -/
def poolExcess (s : State) (flow : Nat) (f : Flow) (fr count : Nat) : State :=
  let w := windowOf s.time
  if count ≤ f.q ∨ f.excessWindow = some w then s
  else
    raiseDoubt (setFlow s flow { f with excessWindow := some w }) 0x030B 9 0
      (leBytes 2 flow ++ leBytes 2 0 ++ leBytes 4 fr) rowPool kindFlow flow

/-- An item joins its flow's window. A void item completes at once and never runs. DEDUCED: log entry 61. -/
def acceptItem (s : State) (flow : Nat) (f : Flow) (x : Submission) : State :=
  let seq := fieldAt x.bytes 0 4
  let st := voidStatus f x
  let void := decide (st ≠ .ok)
  let skip := match f.lastSeq with
    | some l => decide (seq ≠ (l + 1) % 2 ^ 32)
    | none => false
  let it : PItem :=
    { acc := s.pool.nextAcc, seq := seq, eclass := itemClass x.bytes, addr := fieldAt x.bytes 8 6, f := x.f, rel := x.rel,
      void := void, status := st, dup := ! void && decide (s.power.season = .spring), copies := [], first := none,
      done := void, slip := false, t := s.time }
  let cnt := countIter f x.rel
  let f := { f with window := f.window ++ [it], lastSeq := some seq, seqSkips := f.seqSkips + bit01 skip,
                    iterItems := tabSet x.rel cnt f.iterItems }
  let s := setFlow { s with pool := { s.pool with nextAcc := s.pool.nextAcc + 1 } } flow f
  let s := bump s 9 0 0 1
  let s := if it.dup then bump s 9 0 7 1 else s
  let s := poolExcess s flow f x.f cnt
  if void then itemBad { s with ringBusy := s.ringBusy.filter (fun b => b ≠ (flow, seq)) } flow st seq else s

/-- ITEM_ACCEPT: the pool accepts the first submission that finds room. -/
def doItemAccept (s : State) : State :=
  if ! islandRuns s 1 then s
  else match s.pool.subs.findIdx? (acceptable s) with
    | none => s
    | some i => match s.pool.subs[i]? with
      | none => s
      | some x =>
        let flow := itemFlow x.bytes
        let s' := { s with pool := { s.pool with subs := s.pool.subs.eraseIdx i } }
        match tabGet? s.pool.flows flow with
        | none =>
          let seq := fieldAt x.bytes 0 4
          let s' := { s' with
            pool := { s'.pool with unbound := s'.pool.unbound + 1 },
            ringBusy := s'.ringBusy.filter (fun b => b ≠ (flow, seq)) }
          itemBad s' flow .badParam seq
        | some f => acceptItem s' flow f x

/-- ITEM_ACCEPT (R285, R286, R287). -/
def execItemAccept (s : State) : Host.Outcome State Fault Refusal := .next (doItemAccept s)

/-! ### Dispatch (R288 to R290, R293, R299) -/

/-- The pool cores of a group. -/
def poolIn (pool : List Nat) (g : Nat) : List Nat := pool.filter (fun c => c / 16 == g)

/-- The affinity order of a flow (R288). -/
def affinityOrder (pool : List Nat) (last : Option Nat) : List Nat :=
  match pool with
  | [] => []
  | low :: _ =>
    let l := last.getD low
    let g := l / 16
    let own := poolIn pool g
    [l] ++ own.filter (fun c => decide (l < c)) ++ own.filter (fun c => decide (c < l)) ++
      ((List.range 15).map (fun k => (g + 1 + k) % 16)).flatMap (poolIn pool)

/-- The cores that a copy may take: for the second, those of another group than the first's, or of the same group when the
pool lies within one (R293). -/
def copyCores (pool : List Nat) (copies : List ItemCopy) (order : List Nat) : List Nat :=
  match copies with
  | [] => order
  | c :: _ =>
    if pool.all (fun k => k / 16 == c.core / 16) then order.filter (fun k => k != c.core)
    else order.filter (fun k => k / 16 != c.core / 16)

/-- The budget that a flow's items draw from. -/
def flowPurse (f : Flow) : Purse := if f.safety then .safety else .pool

/-- A core can start an item of a class now (R288, R437). -/
def coreTakes (s : State) (p : Purse) (cls c : Nat) : Bool :=
  coreIdle s c && ! (coreOf s c).fenced && ! unitStalled s 0 c && islandRuns s (2 + c / 16) && ! goldenDue s 0 c &&
    hasTokens s (c / 16) p cls

/-- An item still has a copy to start. -/
def copyWaits (i : PItem) : Bool := ! i.void && decide (i.copies.length < (if i.dup then 2 else 1))

/-- The waiting items of a graph as (flow, item), oldest first; with SX7, higher priority first (R288, R299). -/
def waitingItems (s : State) (g : Nat) (sx7 : Bool) : List (Nat × Flow × PItem) :=
  let all := s.pool.flows.flatMap (fun e =>
    if e.2.graph = g then (e.2.window.filter copyWaits).map (fun i => (e.1, e.2, i)) else [])
  sortBy (fun a b => if sx7 && a.2.1.prio != b.2.1.prio then decide (b.2.1.prio < a.2.1.prio)
    else decide (a.2.2.acc ≤ b.2.2.acc)) all

/-- The core that an item of a graph takes now. -/
def pickCore (s : State) (pool : List Nat) (f : Flow) (i : PItem) : Option Nat :=
  (copyCores pool i.copies (affinityOrder pool f.lastCore)).find? (coreTakes s (flowPurse f) i.eclass)

/-- A copy of an item starts on a core (R283, R289, R290). -/
def startCopy (s : State) (flow : Nat) (f : Flow) (i : PItem) (c : Nat) : State :=
  let w := Work.item flow i.acc i.copies.length
  let u := newUnit s c w (saltOf s f.graph) flow i.seq f.list f.listLen f.cycMax f.args i.addr
  let s := drawTokens s (c / 16) (flowPurse f) i.eclass
  let hit := decide (f.lastCore = some c)
  let i' := { i with copies := i.copies ++ [{ core := c, ended := false, done := false, post := none, status := .ok }] }
  let f := { f with window := f.window.map (fun k => if k.acc = i.acc then i' else k),
                    lastCore := some c }
  let s := setUnit (setFlow s flow f) c (some u)
  let s := bump s 9 0 1 1
  if hit then bump s 9 0 2 1 else s

/-- The first waiting item that finds a core, with the core. -/
def firstStart (s : State) (pool : List Nat) : List (Nat × Flow × PItem) → Option (Nat × Flow × PItem × Nat)
  | [] => none
  | (n, f, i) :: t => match pickCore s pool f i with
    | some c => some (n, f, i, c)
    | none => firstStart s pool t

/-- ITEM_DISPATCH: the dispatcher makes one start for a graph. -/
def doItemDispatch (graph : Nat) (s : State) : State :=
  match tabGet? s.graphs graph with
  | none => s
  | some g =>
    if ! islandRuns s 1 || g.stopping then s
    else match firstStart s g.pool (waitingItems s graph g.sx7) with
      | none => s
      | some (n, f, i, c) => startCopy s n f i c

/-- ITEM_DISPATCH (R288, R289). -/
def execItemDispatch (graph : Nat) (s : State) : Host.Outcome State Fault Refusal := .next (doItemDispatch graph s)

/-! ### Completion (R290 to R293) -/

/-- A copy's outcome for comparison: what it posted; a fenced copy posted nothing (R296). -/
def copyPost (k : ItemCopy) : Option PostVal := if k.status = .fenced then none else k.post

/-- Two copies disagree (R293). DEDUCED: log entry 61. -/
def copiesDiffer (tol : Nat) (a b : ItemCopy) : Bool :=
  decide (decide (a.status = .ok) ≠ decide (b.status = .ok)) ||
  match copyPost a, copyPost b with
  | none, none => false
  | some x, some y => x.cls != y.cls || decide (tol < x.conf - y.conf) || decide (tol < y.conf - x.conf)
  | _, _ => true

/-- The two copies of an item disagree. -/
def itemDiffers (f : Flow) (i : PItem) : Bool :=
  match i.copies with
  | [a, b] => copiesDiffer f.dupTol a b
  | _ => false

/-- DUP_MISMATCH (R293). -/
def dupMismatch (s : State) (flow : Nat) (f : Flow) (i : PItem) : State :=
  match i.copies with
  | [a, b] =>
    if itemDiffers f i then
      postEvent s 0x030C 9 0 (leBytes 2 flow ++ leBytes 1 a.core ++ leBytes 1 b.core ++ leBytes 4 i.seq)
    else s
  | _ => s

/-- The argument of SCHEDULE_SLIP (R497). -/
def slipArg (graph kind who f late lane : Nat) : List Byte :=
  leBytes 1 graph ++ leBytes 1 kind ++ leBytes 2 who ++ leBytes 4 f ++ leBytes 4 (satTo 32 late) ++ leBytes 4 lane

/-- An item that completes at or after r + ITEM_LATEST (R292): counted, with SCHEDULE_SLIP once per flow and counter
window; each slip fails the doubt source of the graph. -/
def itemSlip (s : State) (flow : Nat) (f : Flow) (i : PItem) : State :=
  let w := windowOf s.time
  let s := setFlow s flow { f with slips := f.slips + 1, slipWindow := some w }
  if f.slipWindow = some w then failCond s rowGraph kindGraph f.graph false
  else
    raiseDoubt s 0x0300 9 0 (slipArg f.graph 1 flow i.f (s.time - (i.rel + 16 * f.itemLatest)) i.seq) rowGraph kindGraph
      f.graph

/-- The copies of an item that runs have all completed: it is done, and its slot of the object ring is free.
DEDUCED: log entry 61. -/
def finishItem (s : State) (flow : Nat) (f : Flow) (i : PItem) : State :=
  let slip := decide (i.rel + 16 * f.itemLatest ≤ s.time)
  let i := { i with done := true, slip := slip, t := s.time }
  let f := { f with window := f.window.map (fun k => if k.acc = i.acc then i else k) }
  let s := { setFlow s flow f with ringBusy := s.ringBusy.filter (fun b => b ≠ (flow, i.seq)) }
  let s := dupMismatch s flow f i
  if slip then itemSlip s flow f i else s

/-- The signal of one copy is taken: the copy is done, and the first of an item's copies to complete is remembered. -/
def takeSignal (s : State) (flow : Nat) (f : Flow) (i : PItem) (c : Nat) : State :=
  let cs := i.copies.map (fun k => if k.core = c ∧ k.ended then { k with done := true } else k)
  let i := { i with copies := cs, first := match i.first with
    | some k => some k
    | none => cs.findIdx? (fun k => k.core == c && k.done) }
  let f := { f with window := f.window.map (fun k => if k.acc = i.acc then i else k) }
  let s := setFlow s flow f
  if copyWaits i || cs.any (fun k => ! k.done) then s else finishItem s flow f i

/-- The oldest item with a copy on a core that has ended and whose signal is not taken. -/
def endedOn (s : State) (c : Nat) : Option (Nat × Flow × PItem) :=
  let l := s.pool.flows.flatMap (fun e =>
    (e.2.window.filter (fun i => i.copies.any (fun k => k.core == c && k.ended && ! k.done))).map (fun i => (e.1, e.2, i)))
  (sortBy (fun a b => decide (a.2.2.acc ≤ b.2.2.acc)) l).head?

/-- ITEM_COMPLETE: the pool takes the completion signal of a core. -/
def doItemComplete (core : Nat) (s : State) : State :=
  if ! islandRuns s 1 then s
  else match endedOn s core with
    | none => s
    | some (flow, f, i) => takeSignal s flow f i core

/-- ITEM_COMPLETE (R290, R291, R292, R293). -/
def execItemComplete (core : Nat) (s : State) : Host.Outcome State Fault Refusal := .next (doItemComplete core s)

/-! ### Release (R291) -/

/-- STATUS of a result: what voided the item; FENCED when a fence ended a copy (R296); else the first copy's end status that is
not OK. DEDUCED: log entry 61. -/
def resultStatus (i : PItem) : Status :=
  let l := (i.copies.map (fun k => k.status)).filter (fun st => decide (st ≠ .ok))
  if i.void then i.status else if l.contains .fenced then .fenced else l.headD .ok

/-- The result of a completed item (table *Released result*); one that a fence ended carries no POST (R296).
DEDUCED: log entry 61. -/
def resultOf (flow : Nat) (f : Flow) (i : PItem) : Released :=
  let k := (i.first.bind (fun n => i.copies[n]?)).orElse (fun _ => i.copies.head?)
  let st := resultStatus i
  let post := if st = .fenced then none else k.bind (fun x => x.post)
  let err := i.copies.any (fun x => decide (x.status ≠ .ok))
  { flow := flow, seq := i.seq, f := i.f, rel := i.rel, status := st, post := post.getD { cls := 0, conf := 0, aux := 0, poison := false },
    void := i.void || post.isNone, err := err, dupMismatch := itemDiffers f i,
    poison := post.elim false (fun p => p.poison), slip := i.slip, duplicated := i.dup,
    cores := i.copies.map (fun c => c.core) }

/-- The item whose result is released next: the oldest of an ordered flow when it is done, else the done item that
completed first. -/
def nextRelease (f : Flow) : Option PItem :=
  if f.ordered then match f.window with
    | i :: _ => if i.done then some i else none
    | [] => none
  else (sortBy (fun a b => decide (a.t ≤ b.t)) (f.window.filter (fun i => i.done))).head?

/-- A result leaves the window for the formatter. -/
def releaseItem (s : State) (flow : Nat) (f : Flow) (i : PItem) : State :=
  let r := resultOf flow f i
  let s := setFlow s flow { f with window := f.window.filter (fun k => k.acc != i.acc) }
  let s := bump s 9 0 5 1
  let s := if r.void then bump s 9 0 6 1 else s
  formatResult s r

/-- RESULT_RELEASE: the reorder stage releases the next result of a flow that the formatter can take. -/
def doResultRelease (flow : Nat) (s : State) : State :=
  match tabGet? s.pool.flows flow with
  | none => s
  | some f =>
    if ! islandRuns s 1 || ! formatterReady s flow then s
    else match nextRelease f with
      | none => s
      | some i => releaseItem s flow f i

/-- RESULT_RELEASE (R291, R408). -/
def execResultRelease (flow : Nat) (s : State) : Host.Outcome State Fault Refusal := .next (doResultRelease flow s)

/-! ### Stop and hold (R297, R298) -/

/-- The longest prefix of done items; for an unordered flow, every done item. -/
def keptItems (f : Flow) : List PItem :=
  if f.ordered then f.window.takeWhile (fun i => i.done) else f.window.filter (fun i => i.done)

/-- The item has its result: every copy it runs has ended, and one that the stop ended had posted. DEDUCED: log entry 61. -/
def resultComplete (i : PItem) : Bool :=
  ! copyWaits i && i.copies.all (fun k => k.ended && (decide (k.status ≠ .stopped) || k.post.isSome))

/-- The signals of an item's ended copies are taken. -/
def takeSignals (s : State) (flow acc : Nat) (l : List ItemCopy) : State :=
  l.foldl (fun s k => match tabGet? s.pool.flows flow with
    | none => s
    | some f => match f.window.find? (fun i => i.acc == acc) with
      | none => s
      | some i => takeSignal s flow f i k.core) s

/-- A flow of a stopped graph: items without a result are discarded; the results up to the first missing one of an ordered
flow, and every result of another, stay to be released, and the others are discarded and counted (R297).
DEDUCED: log entry 61. -/
def stopFlow (s : State) (flow : Nat) (f : Flow) : State :=
  let s := (f.window.filter (fun i => ! i.done && resultComplete i)).foldl (fun s i =>
    takeSignals s flow i.acc (i.copies.filter (fun k => ! k.done))) s
  let f := (tabGet? s.pool.flows flow).getD f
  let kept := keptItems f
  let lost : List PItem := f.window.filter (fun i => i.done && ! kept.any (fun k => k.acc == i.acc))
  let s := setFlow s flow { f with window := kept, discarded := f.discarded + lost.length }
  { s with ringBusy := s.ringBusy.filter (fun b => b.1 != flow) }

/-- An item that runs on a core of a stopped graph ends, and its core signals the pool; one whose list and operations have all
ended keeps its status (R248, R297). -/
def stopPoolCore (s : State) (c : Nat) : State :=
  match (coreOf s c).unit with
  | some u => match u.work with
    | .item flow acc _ =>
      let st := if u.ended && u.ops.isEmpty then u.status else .stopped
      let (s, u') := coreStop s c u
      let u' := { u' with status := st }
      signalPool (if u.begun then closeUnit s c u' else setUnit s c none) flow acc c u'.posted st
    | .node _ => s
  | none => s

/-- GRAPH_STOP over the graph's pool (R297): its cores end their items, then its flows keep the results that are due. -/
def stopPool (s : State) (g : Nat) (cores : List Nat) : State :=
  let s := { s with pool := { s.pool with
    subs := s.pool.subs.filter (fun x => (tabGet? s.nodes x.node).elim true (fun n => n.graph != g)) } }
  let s := cores.foldl stopPoolCore s
  (s.pool.flows.filter (fun e => e.2.graph == g)).foldl (fun s e => stopFlow s e.1 e.2) s

/-- Every item of a graph accepted before number `acc` has completed and released its result (R298). -/
def poolQuiet (s : State) (g acc : Nat) : Bool :=
  tabAll (fun _ f => f.graph != g || f.window.all (fun i => decide (acc ≤ i.acc))) s.pool.flows

/-! ### Fenced cores (R296) -/

/-- What a core does ends at its fence. A CORE node's run stays without its core: it never completes (R296). -/
def fenceUnit (s : State) (c : Nat) (u : CoreUnit) : State :=
  match u.work with
  | .node _ => abandonCoreNode s c u .fenced
  | .item flow acc _ =>
    let (s, u') := coreStop s c u
    let u' := { u' with status := .fenced }
    signalPool (if u.begun then closeUnit s c u' else setUnit s c none) flow acc c none .fenced

/-- CORE_FENCE (R296). -/
def cmdCoreFence (core r : Nat) (s : State) : State × CmdRes :=
  if r ≠ 0 then refuseAt s .badField 1
  else if 255 < core then refuseAt s .badParam 0
  else
    let s := setCore s core { coreOf s core with fenced := true }
    okDone (match (coreOf s core).unit with
      | some u => fenceUnit s core u
      | none => s)

/-- CORE_FENCE. -/
def execCoreFence (h : CmdHdr) (core r : Nat) (s : State) : Host.Outcome State Fault Refusal :=
  .next (runCommand h 0x0900 (cmdCoreFence core r) s)

/-- A loaded graph holds a core in its pool or in a CORE node. -/
def coreHeld (s : State) (c : Nat) : Bool :=
  tabAny (fun _ g => g.pool.contains c) s.graphs || tabAny (fun _ n => n.kind == 2 && n.unit == c) s.nodes

/-- CORE_UNFENCE (R493). -/
def cmdCoreUnfence (core r : Nat) (s : State) : State × CmdRes :=
  if r ≠ 0 then refuseAt s .badField 1
  else if 255 < core then refuseAt s .badParam 0
  else if coreHeld s core then refuse s .busy
  else okDone (setCore s core { coreOf s core with fenced := false })

/-- CORE_UNFENCE. -/
def execCoreUnfence (h : CmdHdr) (core r : Nat) (s : State) : Host.Outcome State Fault Refusal :=
  .next (runCommand h 0x0901 (cmdCoreUnfence core r) s)

end Sys2Proof.Machine
end

