-- ==== Sys2Proof/Machine/Sequencer.lean ====
section
/-! DEFINITION. The frame-graph sequencer at run time: lanes and notices (R191 to R193), readiness and starts (R197, R199,
R203), completions (R198), slips (R212), the deadlock walk (R213), and the start, hold, stop and editing of graphs (R214 to
R218, R493). -/

namespace Sys2Proof.Machine

open Sys2Proof

/-! ### Link-store entries (R196) -/

/-- An edge entry. -/
structure EdgeE where
  sem : Bool
  dev : Nat
  target : Nat
deriving DecidableEq, Repr

/-- An edge entry from its word. -/
def edgeOf (w : Nat) : EdgeE :=
  if bitsAt w 29 3 = 0 then { sem := false, dev := 0, target := bitsAt w 0 16 }
  else { sem := true, dev := bitsAt w 19 10, target := bitsAt w 0 14 }

/-- A wait entry: 0 semaphore, 1 flag as consumer, 2 flag as producer. -/
structure WaitE where
  kind : Nat
  j : Nat
  act : Bool
  slotsLog : Nat
  stride : Nat
  index : Nat
deriving DecidableEq, Repr

/-- A wait entry from its word. -/
def waitOf (w : Nat) : WaitE :=
  { kind := bitsAt w 29 3, j := bitsAt w 26 3, act := bitAt w 25, slotsLog := bitsAt w 23 2, stride := bitsAt w 14 9,
    index := bitsAt w 0 14 }

/-- Words of the link store from an index. -/
def linkWords (s : State) (first n : Nat) : List Nat :=
  (List.range n).map (fun i => (tabGet 0 s.links (first + i)).toNat)

/-- The edges of a node. -/
def edgesOf (s : State) (x : Node) : List EdgeE := (linkWords s x.edgeFirst x.edgeCnt).map edgeOf

/-- The nodes that a node decrements. -/
def targetsOf (s : State) (x : Node) : List Nat :=
  ((edgesOf s x).filter (fun e => ! e.sem)).map (fun e => e.target)

/-- The wait entries of a node. -/
def waitsOf (s : State) (x : Node) : List WaitE := (linkWords s x.waitFirst x.waitCnt).map waitOf

/-- The flag that a flag wait refers to at f (R196). -/
def waitFlag (w : WaitE) (f : Nat) : Nat := w.index + f % 2 ^ w.slotsLog * w.stride

/-! ### Iterations -/

/-- A lane of a graph. -/
def laneAt (s : State) (g k : Nat) : Option Lane := (tabGet? s.graphs g).bind (fun x => x.lanes[k]?)

/-- The state with a lane of a graph changed. -/
def setLane (s : State) (g k : Nat) (l : Lane) : State :=
  { s with graphs := tabModify g (fun x => { x with lanes := x.lanes.set k l }) s.graphs }

/-- The release and frame counter of an iteration of a lane that has been released. -/
def iterAt (l : Lane) (i : Nat) : Option (Nat × Nat) := (l.open_.find? (fun e => e.1 == i)).map (·.2)

/-- A node has completed iteration i. -/
def completedIter (x : Node) (i : Nat) : Bool :=
  decide (i < x.iter) && (match x.run with
    | some r => decide (r.iter ≠ i)
    | none => true)

/-- Nodes of a lane that end its iterations: those with ITER_END, or every node but SOURCE when none has it. -/
def enders (s : State) (g k : Nat) : List Node :=
  let ns := ((nodesOf s g).map (·.2)).filter (fun x => x.lane == k && x.kind != 0)
  let es := ns.filter (fun x => x.iterEnd)
  if es.isEmpty then ns.filter (fun x => x.kind != 4) else es

/-- The lane's iteration i has completed. -/
def iterDone (s : State) (g k i : Nat) : Bool := (enders s g k).all (fun x => completedIter x i)

/-- Iterations that every node of the lane has completed are forgotten. -/
def pruneLane (s : State) (g k : Nat) : State :=
  match laneAt s g k with
  | none => s
  | some l =>
    let ns := ((nodesOf s g).map (·.2)).filter (fun x => x.lane == k && x.kind != 0)
    setLane s g k { l with open_ := l.open_.filter (fun e => ! ns.all (fun x => completedIter x e.1)) }

/-! ### Waits and readiness (R197) -/

/-- A resource that a node waits for: 0 semaphore, 1 flag as consumer, 2 flag as producer, with its index. -/
abbrev Blocker := Nat × Nat

/-- The waits of a node that do not hold at f: its wait entries, then what its plane references imply (R197). -/
def blockers (s : State) (n : Nat) (x : Node) (f : Nat) : List Blocker :=
  let ws := (waitsOf s x).filterMap (fun w =>
    if w.kind = 0 then (if (semOf s w.index).count = 0 then some (0, w.index) else none)
    else
      let fl := waitFlag w f
      if w.kind = 1 then (if pendOf (flagOf s fl) w.j = 0 then some (1, fl) else none)
      else if flagIsSet (flagOf s fl) then some (2, fl) else none)
  let d := if x.kind = 1 then nodeDesc s n else []
  let src := (sourceFlags d f).filterMap (fun fl =>
    if (indicesOf s fl n).all (fun j => pendOf (flagOf s fl) j != 0) then none else some ((1, fl) : Blocker))
  let dst := (destFlags d f).filterMap (fun fl => if flagIsSet (flagOf s fl) then some ((2, fl) : Blocker) else none)
  ws ++ src ++ dst

/-- Condition 2 of R197: no node that this one decrements lies more than one iteration behind. -/
def runAhead (s : State) (x : Node) : Bool :=
  (targetsOf s x).all (fun t => (tabGet? s.nodes t).elim true (fun y => decide (x.iter ≤ y.iter + 1)))

/-- The counter of an iteration's parity. -/
def cntOf (x : Node) (i : Nat) : Nat := if i % 2 = 0 then x.cnt0 else x.cnt1

/-- The counter of an iteration's parity set. -/
def setCnt (x : Node) (i v : Nat) : Node := if i % 2 = 0 then { x with cnt0 := v } else { x with cnt1 := v }

/-- A graph starts nodes. -/
def graphRuns (s : State) (g : Nat) : Bool :=
  (tabGet? s.graphs g).elim false (fun x => x.st == .running && ! x.stopping) && islandRuns s 1

/-- The release and f of a node's next iteration, when its counter is at zero (condition 1 of R197). -/
def nextIter (s : State) (x : Node) : Option (Nat × Nat) :=
  if x.kind = 0 ∨ x.run.isSome ∨ ! graphRuns s x.graph then none
  else if x.kind = 4 then
    (laneAt s x.graph x.lane).bind (fun l => match l.notices with
      | (t, f) :: _ => some (t, f)
      | [] => none)
  else if cntOf x x.iter ≠ 0 then none
  else (laneAt s x.graph x.lane).bind (fun l => iterAt l x.iter)

/-- The island group that a node draws tokens in, with the class. -/
def nodeTokens (s : State) (n : Nat) (x : Node) : Bool :=
  match nodeUnit s n x with
  | some (c, u) => hasTokens s (unitGroup c u) (nodePurse x) x.eclass
  | none => true

/-- Conditions 1 to 5 of R197: the release and f of the iteration that the node is ready for. -/
def readyFor (s : State) (n : Nat) (x : Node) : Option (Nat × Nat) :=
  match nextIter s x with
  | none => none
  | some (rel, f) =>
    if runAhead s x && (blockers s n x f).isEmpty && nodeTokens s n x then some (rel, f) else none

/-- The units are the same. -/
def sameUnit (s : State) (u : Nat × Nat) (n : Nat) (x : Node) : Bool := nodeUnit s n x == some u

/-- A unit runs no work: no node that runs is on it, it holds no run of its own, and no golden run is in progress. -/
def unitIdle (s : State) (u : Nat × Nat) : Bool :=
  ! goldenRuns s u.1 u.2 && ! tabAny (fun n x => x.run.isSome && sameUnit s u n x) s.nodes &&
  (match u.1 with
   | 0 => (coreOf s u.2).unit.isNone && ! (coreOf s u.2).fenced
   | 3 => (tabGet? s.engines u.2).isNone
   | _ => true)

/-- The DMA channel of a DMA node is idle; other nodes have none. -/
def channelIdle (s : State) (x : Node) : Bool :=
  x.kind != 3 || (tabGet? s.dma x.unit).elim false (fun c => c.run.isNone && ! c.stopping)

/-- The unit that a node occupies: its channel for a DMA node, else its engine or core. Two DMA nodes of one engine on
different channels do not exclude each other (R320). -/
def sameSlot (s : State) (n : Nat) (x : Node) (m : Nat) (y : Node) : Bool :=
  if x.kind = 3 then y.kind == 3 && y.unit == x.unit else nodeUnit s m y == nodeUnit s n x

/-- R199's order: r + LATEST, then the lane, then the node index. -/
def deadlineKey (s : State) (n : Nat) (x : Node) (rel : Nat) : Nat × Nat × Nat :=
  (rel + 16 * nth x.lates (seasonIdx s.power.season), x.lane, n)

/-- One key comes before another. -/
def keyBefore (a b : Nat × Nat × Nat) : Bool :=
  decide (a.1 < b.1) || (a.1 == b.1 && (decide (a.2.1 < b.2.1) || (a.2.1 == b.2.1 && decide (a.2.2 < b.2.2))))

/-- Another node that is ready on the same unit goes first. -/
def outranked (s : State) (n : Nat) (x : Node) (rel : Nat) : Bool :=
  tabAny (fun m y => m != n && sameSlot s n x m y && (match readyFor s m y with
    | some (r, _) => keyBefore (deadlineKey s m y r) (deadlineKey s n x rel)
    | none => false)) s.nodes

/-- A golden run that waits for the unit goes first: its deadline is the interval's end (R199, R437). -/
def goldenFirst (s : State) (u : Nat × Nat) (key : Nat) : Bool :=
  goldenDue s u.1 u.2 && decide ((s.safety.interval + 1) * fiOf s ≤ key)

/-- The node's unit can take it now. -/
def unitTakes (s : State) (n : Nat) (x : Node) (rel : Nat) : Bool :=
  match nodeUnit s n x with
  | none => true
  | some u =>
    (if x.kind = 3 then channelIdle s x && ! goldenRuns s u.1 u.2 else unitIdle s u) && ! unitStalled s u.1 u.2 &&
    islandRuns s (islandOf u.1 u.2) && ! goldenFirst s u (deadlineKey s n x rel).1 && ! outranked s n x rel

/-! ### Completion (R198, R212) -/

/-- A node changed. -/
def modNode (s : State) (n : Nat) (p : Node → Node) : State := { s with nodes := tabModify n p s.nodes }

/-- The flag operations of a completion: SET or RELEASE for every wait entry with ACT (R198). -/
def completeFlags (s : State) (x : Node) (f : Nat) : State :=
  (waitsOf s x).foldl (fun s w =>
    if w.act && w.kind == 2 then flagSet s (waitFlag w f) f
    else if w.act && w.kind == 1 then flagRelease s (waitFlag w f) w.j
    else s) s

/-- One more notice of a lane with a frame counter: it waits for the SOURCE node, or skips its frame while the graph is
held (R192, R215). `t` is its arrival. DEDUCED: log entry 60. -/
def takeNotice (l : Lane) (t f : Nat) : Lane :=
  { l with notices := l.notices ++ [(t, f)], fNext := some ((f + 1) % 2 ^ 32) }

/-- The statistics block of the slot of a lane's frame: T_EXP and FLAGS, zero for a remote lane (R412). -/
def slotStamp (s : State) (l : Lane) (f : Nat) : Nat × Nat :=
  if l.remote then (0, 0)
  else
    let c := (pipeOf s l.src).cfg
    let b := getBytes s (c.statBase + f % max 1 c.slots * 9280) 16
    (fieldAt b 8 8, fieldAt b 6 2 % 1024)

/-- The PIPE of a flow's objects: that of its spawner's OBX descriptor. -/
def flowPipe (s : State) (x : Flow) : Nat := fieldAt (nodeDesc s x.spawner) 11 1

/-- The first OBJ_ID of a flow not released: the oldest of its window, else of its submissions, else the next to come. -/
def firstUnreleased (s : State) (flow : Nat) (x : Flow) : Nat :=
  match x.window with
  | i :: _ => i.seq
  | [] => match s.pool.subs.find? (fun y => itemFlow y.bytes == flow) with
    | some y => fieldAt y.bytes 0 4
    | none => tabGet 0 s.objNext (flowPipe s x)

/-- The flows of a lane that feed an egress stream. -/
def laneFlows (s : State) (g k : Nat) : List (Nat × Flow) :=
  s.pool.flows.filter (fun e => e.2.graph == g && e.2.lane == k && (streamOf s e.1).isSome)

/-- A frame-aborted record goes to every stream of the lane (R215, R216, R412): 1 HOLD, 2 STOP. -/
def abortFrame (s : State) (g k : Nat) (l : Lane) (f reason : Nat) : State :=
  let (tExp, flags) := slotStamp s l f
  (laneFlows s g k).foldl (fun s e => abortRecord s e.1 (firstUnreleased s e.1 e.2) f tExp reason flags) s

/-- A skipped frame releases every flag of its slot for each consumer that still owes one (R215). -/
def skipFlags (s : State) (l : Lane) (f : Nat) : State :=
  if l.remote then s
  else
    let c := (pipeOf s l.src).cfg
    match pipeRef s c.fsBase with
    | none => s
    | some r =>
      let fls := slotFlags r (slotOf r f 0)
      fls.foldl (fun s fl => (List.range 8).foldl (fun s j => if pendOf (flagOf s fl) j = 0 then s else flagRelease s fl j) s) s

/-- A notice reaches a lane of an active graph: notice number i has f = F0 + i, whatever frame it comes from (R192). -/
def noticeAt (s : State) (g k : Nat) (x : Graph) (l : Lane) : State :=
  let f := l.fNext.getD l.f0
  if x.st = .held ∨ x.holding then
    abortFrame (skipFlags (setLane s g k { l with fNext := some ((f + 1) % 2 ^ 32) }) l f) g k l f 1
  else setLane s g k (takeNotice l s.time f)

/-- The lanes of loaded graphs that satisfy a test, as (graph, lane number, graph, lane). -/
def lanesWhere (s : State) (p : Graph → Lane → Bool) : List (Nat × Nat × Graph × Lane) :=
  s.graphs.flatMap (fun e => (List.range e.2.lanes.length).filterMap (fun k => (e.2.lanes[k]?).bind (fun l =>
    if p e.2 l then some (e.1, k, e.2, l) else none)))

/-- A graph takes notices: it is RUNNING or HELD, and not stopping. -/
def takesNotices (x : Graph) : Bool := graphActive x && ! x.stopping

/-- A pipeline accepts a Frame Start: it fixes F0 of a lane that waits for its first (R214). -/
def laneFrameStart (s : State) (pipe cnt : Nat) : State :=
  (lanesWhere s (fun x l => takesNotices x && ! l.remote && l.src == pipe && l.fNext.isNone)).foldl (fun s e =>
    setLane s e.1 e.2.1 { e.2.2.2 with f0 := cnt, fNext := some cnt }) s

/-- A pipeline's notice of a frame (R192): a frame whose Frame Start came before the graph's start has none. -/
def pipeNotice (s : State) (pipe cnt : Nat) : State :=
  (lanesWhere s (fun x l => takesNotices x && ! l.remote && l.src == pipe &&
    l.fNext.isSome && decide ((cnt + 2 ^ 32 - l.f0) % 2 ^ 32 < 2 ^ 31))).foldl (fun s e =>
      noticeAt s e.1 e.2.1 e.2.2.1 e.2.2.2) s

/-- A signal of a remote lane's source semaphore is a notice (R192). -/
def remoteNotice (s : State) (sem : Nat) : State :=
  (lanesWhere s (fun x l => takesNotices x && l.remote && l.src == sem)).foldl (fun s e =>
    noticeAt s e.1 e.2.1 e.2.2.1 e.2.2.2) s

/-- A signal to a semaphore of this device, with the notice of a lane that it feeds, or a SEM_SIGNAL to another (R192, R196,
R202, R219). -/
def signalEdge (s : State) (e : EdgeE) (g : Nat) : State :=
  if e.dev = s.inst.id then
    let s' := semSignalAt s e.target e.dev (some g)
    if semBound (semOf s e.target) then remoteNotice s' e.target else s'
  else routePosted s 12 { reqPacket s 0x03 e.dev 0 with
    arg := e.target, domain := (tabGet? s.graphs g).elim 0 (fun x => x.dom) }

/-- SEM_SIGNAL arrives: a signal of the semaphore's own device counts, and is a notice of a lane that it feeds (R192, R202,
R378). -/
def applySemSignal (p : Packet) (s : State) : State :=
  let x := semOf s p.arg
  let s := semSignalRemote s p.arg p.src
  if semBound x && x.remote && x.sigDev == p.src then remoteNotice s p.arg else s

/-- A SEM_SIGNAL packet is served. -/
def doSemSignal (p : Packet) (s : State) : State := serve p s (applySemSignal p)

/-- SEM_SIGNAL (R202, R378). -/
def execSemSignal (p : Packet) (s : State) : Host.Outcome State Fault Refusal := .next (doSemSignal p s)

/-- A node's edges in list order (R198). -/
def completeEdges (s : State) (x : Node) (i : Nat) : State :=
  (edgesOf s x).foldl (fun s e =>
    let s := bump s 8 0 2 1
    if e.sem then signalEdge s e x.graph
    else modNode s e.target (fun y => setCnt y i (cntOf y i - 1))) s

/-- The slip check (R212): counted, with SCHEDULE_SLIP once per node and counter window; each slip fails the graph's doubt
source. SOURCE, whose notice defines r, is not checked (log entry 33). DEDUCED: log entry 60. -/
def slipCheck (s : State) (n : Nat) (x : Node) (rel f : Nat) : State :=
  let dl := rel + 16 * nth x.lates (seasonIdx s.power.season)
  if x.kind = 4 ∨ s.time < dl then s
  else
    let w := windowOf s.time
    let s := modNode (bump s 8 0 3 1) n (fun y => { y with slips := y.slips + 1, slipWindow := some w })
    if x.slipWindow = some w then failCond s rowGraph kindGraph x.graph false
    else raiseDoubt s 0x0300 8 0 (slipArg x.graph 0 n f (s.time - dl) x.lane) rowGraph kindGraph x.graph

/-- The actions of a completion in their order, with the end trace record (R198, R466). DEDUCED: log entry 60. -/
def completeNode (s : State) (n : Nat) (x : Node) (i rel f : Nat) : State :=
  let s := bump (emitTrace s 8 0 false 1 (nodeWork f n) []) 8 0 1 1
  let s := slipCheck (completeEdges (completeFlags s x f) x i) n x rel f
  pruneLane s x.graph x.lane

/-! ### Starts (R192, R197) -/

/-- What every start does: the counter reloads, ITER advances, each semaphore wait takes one (R197). -/
def takeStart (s : State) (n : Nat) (x : Node) (f : Nat) : State :=
  let s := modNode s n (fun y => { setCnt y y.iter y.depInit with iter := y.iter + 1, registered := false })
  let s := (waitsOf s x).foldl (fun s w =>
    if w.kind = 0 then setSem s w.index { semOf s w.index with count := (semOf s w.index).count - 1, blocked := false }
    else s) s
  bump (emitTrace s 8 0 false 0 (nodeWork f n) []) 8 0 0 1

/-- When the window opens that a release gives a SAFETY node on a unit that a self-test stalls (R193, R441). -/
def openingOf (s : State) (g k rel n : Nat) (x : Node) : Option Nat :=
  let stalled := match nodeUnit s n x with
    | some (c, u) => unitStalled s c u
    | none => false
  if x.graph = g ∧ x.lane = k ∧ x.safety = true ∧ stalled = true then some (rel + nth x.js (seasonIdx s.power.season)) else none

/-- A release during a self-test: the windows that it opens on the stalled units are noted, and those that open before the test
ends count as overlaps (R441). DEDUCED: log entry 65. -/
def noteOpenings (s : State) (g k rel : Nat) : State :=
  { s with safety := { s.safety with
      openings := s.safety.openings ++ s.nodes.filterMap (fun e => openingOf s g k rel e.1 e.2) } }

/-- The SOURCE node of a lane takes its next notice: the iteration is released and the node completes (R192).
DEDUCED: log entry 60. -/
def releaseIteration (s : State) (n : Nat) (x : Node) (l : Lane) (rel f : Nat) : State :=
  let s := noteOpenings s x.graph x.lane rel
  let s := setLane s x.graph x.lane { l with
    notices := l.notices.tail, started := l.started + 1, lastRel := some rel, open_ := l.open_ ++ [(x.iter, rel, f)] }
  completeNode (takeStart s n x f) n x x.iter rel f

/-- SOURCE_NOTICE: the lane's oldest notice completes its SOURCE node when it can. -/
def doSourceNotice (graph lane : Nat) (s : State) : State :=
  match laneAt s graph lane with
  | none => s
  | some l => match tabGet? s.nodes l.source with
    | none => s
    | some x => match readyFor s l.source x with
      | some (rel, f) => if x.kind = 4 then releaseIteration s l.source x l rel f else s
      | none => s

/-- SOURCE_NOTICE (R192, R197). -/
def execSourceNotice (graph lane : Nat) (s : State) : Host.Outcome State Fault Refusal := .next (doSourceNotice graph lane s)

/-- The frame header of which nothing has been read. -/
def hdrNone : FrameHdr := { cnt := 0, gen := 0, flags := 0, tExp := 0, tUnc := 0, linePeriod := 0, eflags := 0 }

/-- An engine run before its descriptor is read. -/
def engRunNew (node : Option Nat) (f : Nat) (desc : List Byte) : EngRun :=
  { node := node, f := f, tBegin := 0, desc := desc, begun := false, stopping := false, hdrA := hdrNone, hdrB := hdrNone,
    stale := false, poison := false, coded := false, poisonGran := 0, objects := [], emitted := 0, lost := 0, maps := [],
    fails := [], ruleBad := [] }

/-- The words of ARG of a core start record (R250). -/
def argWords (d : List Byte) (off : Nat) : List Nat := (List.range 12).map (fun i => fieldAt d (off + 4 * i) 4)

/-- A node's unit starts its run (R115, R250, R334). -/
def startUnit (s : State) (n : Nat) (x : Node) (f : Nat) : State :=
  let d := nodeDesc s n
  match x.kind with
  | 1 => setEngine s (nodeEngine s n x) (engRunNew (some n) f d)
  | 2 => setUnit s x.unit (some (newUnit s x.unit (.node n) (saltOf s x.graph) n f (fieldAt d 2 2) (fieldAt d 4 4)
      (fieldAt d 8 4) (argWords d 16) 0))
  | 3 => setRunAt s x.unit (some (runIdle (some n) 0 f s.time))
  | _ => s

/-- A ready node starts on its unit; a JOIN completes as soon as it is ready (R197, R198). -/
def startNode (s : State) (n : Nat) (x : Node) (rel f : Nat) : State :=
  let s := takeStart s n x f
  if x.kind = 5 then completeNode s n x x.iter rel f
  else
    let s := match nodeUnit s n x with
      | some (c, u) => drawTokens s (unitGroup c u) (nodePurse x) x.eclass
      | none => s
    let s := modNode s n (fun y => { y with
      run := some { iter := x.iter, f := f, rel := rel, start := s.time, unitDone := false } })
    startUnit s n x f

/-- NODE_START: a node that is ready starts on its idle unit when none goes before it. -/
def doNodeStart (node : Nat) (s : State) : State :=
  match tabGet? s.nodes node with
  | none => s
  | some x => match readyFor s node x with
    | none => s
    | some (rel, f) => if x.kind ≠ 4 && unitTakes s node x rel then startNode s node x rel f else s

/-- NODE_START (R197, R199). -/
def execNodeStart (node : Nat) (s : State) : Host.Outcome State Fault Refusal := .next (doNodeStart node s)

/-- A watch still has to read after the node's run at f (R484). -/
def watchPending (s : State) (n f : Nat) : Bool := tabAny (fun _ w => w.pending.contains (n, f)) s.watches

/-- A completion after the graph's stop is recorded: its flags, its trace record and its slip, and no edge, which could only
start a successor (R216). DESIGN CHOICE: log entry 60. -/
def recordNode (s : State) (n : Nat) (x : Node) (rel f : Nat) : State :=
  slipCheck (completeFlags (bump (emitTrace s 8 0 false 1 (nodeWork f n) []) 8 0 1 1) x f) n x rel f

/-- NODE_COMPLETE: the unit's completion signal has come, and no watch holds it. -/
def doNodeComplete (node : Nat) (s : State) : State :=
  match tabGet? s.nodes node with
  | none => s
  | some x => match x.run with
    | none => s
    | some r =>
      if ! r.unitDone || watchPending s node r.f || ! islandRuns s 1 then s
      else
        let s := modNode s node (fun y => { y with run := none })
        let x := { x with run := none }
        if graphRuns s x.graph then completeNode s node x r.iter r.rel r.f
        else recordNode s node x r.rel r.f

/-- NODE_COMPLETE (R198, R212). -/
def execNodeComplete (node : Nat) (s : State) : Host.Outcome State Fault Refusal := .next (doNodeComplete node s)

/-! ### The deadlock walk (R213) -/

/-- The nodes that a resource leads to, each with the resource as (flag, index). -/
def behind (s : State) (b : Blocker) : List (Nat × Option (Bool × Nat)) :=
  if b.1 = 0 then
    let x := semOf s b.2
    if x.remote then [] else x.signaler.toList.map (fun m => (m, some (false, b.2)))
  else if b.1 = 1 then match (tabGet? s.binds b.2).bind (fun x => x.producer) with
    | some (.node m) => [(m, some (true, b.2))]
    | _ => []
  else match tabGet? s.binds b.2 with
    | some x => (x.consumers.filter (fun c => pendOf (flagOf s b.2) c.1 != 0)).map (fun c => (c.2, some (true, b.2)))
    | none => []

/-- The nodes that decrement a node, in rising order. -/
def predecessors (s : State) (n : Nat) : List (Nat × Node) :=
  s.nodes.filter (fun e => (targetsOf s e.2).contains n)

/-- Where the walk goes from a node: through the waits of a registered node, or from a node that waits on a counter to its
predecessors that have not completed the iteration. -/
def walkFrom (s : State) (n : Nat) : List (Nat × Option (Bool × Nat)) :=
  match tabGet? s.nodes n with
  | none => []
  | some x =>
    if x.run.isSome then []
    else match nextIter s x with
      | some (_, f) => if x.registered then (blockers s n x f).flatMap (behind s) else []
      | none =>
        if x.kind = 4 then []
        else ((predecessors s n).filter (fun e => ! completedIter e.2 x.iter)).map (fun e => (e.1, none))

/-- A path of the walk: the node reached, the nodes before it newest first, and the resources passed oldest first. -/
structure WalkPath where
  node : Nat
  nodes : List Nat
  res : List (Bool × Nat)
deriving DecidableEq, Repr

/-- The walk from a start, breadth first, up to a number of visits: the path that returns to the start, if one does. -/
def walk (s : State) (start : Nat) : Nat → List WalkPath → List Nat → Option WalkPath
  | 0, _, _ => none
  | _ + 1, [], _ => none
  | k + 1, p :: q, seen =>
    let nx := (walkFrom s p.node).map (fun e =>
      ({ node := e.1, nodes := p.node :: p.nodes, res := p.res ++ e.2.toList } : WalkPath))
    match nx.find? (fun y => y.node == start) with
    | some y => some y
    | none =>
      let new := nx.filter (fun y => ! seen.contains y.node)
      walk s start k (q ++ new) (seen ++ new.map (fun y => y.node))

/-- The argument of DEADLOCK: up to 8 resources in 15 bits each, and the total (table *Event codes*). -/
def deadlockArg (res : List (Bool × Nat)) : List Byte :=
  let v := ((List.range 8).zip res).foldl (fun n e => n + (bit01 e.2.1 * 16384 + e.2.2 % 16384) * 2 ^ (15 * e.1)) 0
  leBytes 16 (v + satTo 8 res.length * 2 ^ 120)

/-- A cycle is reported once until the graph next starts. -/
def reportDeadlock (s : State) (p : WalkPath) (g : Nat) : State :=
  if p.nodes.all (fun m => (tabGet? s.nodes m).elim true (fun y => y.reported)) then s
  else
    let s := p.nodes.foldl (fun s m => modNode s m (fun y => { y with reported := true })) s
    raiseDoubt s 0x0301 8 0 (deadlockArg p.res) rowDeadlock kindGraph g

/-- A node is registered as waiting: the semaphores that it waits for are BLOCKED (R201, R213). -/
def registerNode (s : State) (n : Nat) (x : Node) (bs : List Blocker) : State :=
  let s := if x.registered then s else bump s 8 0 4 1
  let s := modNode s n (fun y => { y with registered := true })
  bs.foldl (fun s b => if b.1 = 0 then setSem s b.2 { semOf s b.2 with blocked := true } else s) s

/-- DEADLOCK_WALK: the node's counter is at zero and a wait does not hold; the walk starts from it. -/
def doDeadlockWalk (node : Nat) (s : State) : State :=
  match tabGet? s.nodes node with
  | none => s
  | some x => match nextIter s x with
    | none => s
    | some (_, f) =>
      match blockers s node x f with
      | [] => s
      | bs =>
        let s := registerNode s node x bs
        match walk s node 1024 [{ node := node, nodes := [], res := [] }] [node] with
        | some p => reportDeadlock s p x.graph
        | none => s

/-- DEADLOCK_WALK (R213). -/
def execDeadlockWalk (node : Nat) (s : State) : Host.Outcome State Fault Refusal := .next (doDeadlockWalk node s)

/-! ### Commands (R190, R214 to R218, R493) -/

/-- A graph command's first checks: its state, the reserved field, the graph number, and a hold or stop that is not yet
completed and that the command cannot join (R190, R489; log entry 34). -/
def graphCheck (s : State) (graph r off : Nat) (allowed busy : Graph → Bool) : Option (State × CmdRes) :=
  if graph ≤ 15 ∧ (tabGet? s.graphs graph).elim false allowed = false then some (refuse s .state)
  else if r ≠ 0 then some (refuseAt s .badField off)
  else if 15 < graph then some (refuseAt s .badParam 0)
  else if (tabGet? s.graphs graph).elim false busy then some (refuse s .busy)
  else none

/-- No hold or stop stands in the way. -/
def neverBusy (_ : Graph) : Bool := false

/-- A stop is accepted and not completed. DEDUCED: log entry 34. -/
def isStopping (g : Graph) : Bool := g.stopping

/-- A hold or a stop is accepted and not completed. DEDUCED: log entry 34. -/
def isChanging (g : Graph) : Bool := g.holding || g.stopping

/-- The lane of a started graph (R214). -/
def startLane (l : Lane) (f0 : Nat) : Lane :=
  { l with fNext := if l.remote then some f0 else none, f0 := if l.remote then f0 else 0, notices := [], started := 0,
           open_ := [], lastRel := none }

/-- A node of a started graph (R214). -/
def startedNode (x : Node) : Node :=
  { x with cnt0 := x.depInit, cnt1 := x.depInit, iter := 0, run := none, registered := false, reported := false, slips := 0,
           slipWindow := none }

/-- The graph's nodes, semaphores, flags and streams as a start leaves them (R182, R214). -/
def resetGraph (s : State) (g : Nat) : State :=
  { s with
    nodes := s.nodes.map (fun e => if e.2.graph = g then (e.1, startedNode e.2) else e),
    sems := s.sems.map (fun e => if e.2.graph = g then
      (e.1, { e.2 with count := e.2.init, blocked := false, signals := 0 }) else e),
    flags := s.flags.map (fun e => if flagGraph s e.1 = some g then (e.1, { e.2 with frame := 0, pend := 0 }) else e),
    pool := { s.pool with flows := s.pool.flows.map (fun e => if e.2.graph = g then (e.1, { e.2 with iterItems := [] }) else e) },
    streams := s.streams.map (fun e => if e.2.graph = g then
      (e.1, { e.2 with active := true, halted := false, next := 0, rearms := [], unread := [] }) else e) }

/-- GRAPH_START (R214, R239, R493). DEDUCED: log entry 60. -/
def cmdGraphStart (graph sflags r salt : Nat) (f0 : List Nat) (s : State) : State × CmdRes :=
  match graphCheck s graph (if 1 < sflags then 1 else r) (if 1 < sflags then 1 else 2) (fun g => g.st == .loaded) neverBusy with
  | some x => x
  | none => match tabGet? s.graphs graph with
    | none => refuse s .state
    | some g =>
      if f0.length ≠ g.lanes.length then badLen s
      else match (g.lanes.zip f0).findIdx? (fun e => ! e.1.remote && e.2 != 0) with
        | some k => refuseAt s .badParam (8 + 4 * k)
        | none =>
          let salt := if bitAt sflags 0 then salt else s.time % 2 ^ 32
          let s := setGraph (resetGraph s graph) graph { g with
            st := .running, holding := false, stopping := false, salt := salt, aborted := 0,
            lanes := (g.lanes.zip f0).map (fun e => startLane e.1 e.2) }
          okWith s (leBytes 4 salt)

/-- GRAPH_START. -/
def execGraphStart (h : CmdHdr) (graph sflags r salt : Nat) (f0 : List Nat) (s : State) : Host.Outcome State Fault Refusal :=
  .next (runCommand h 0x0302 (cmdGraphStart graph sflags r salt f0) s)

/-- GRAPH_HOLD (R215): the response follows at the quiescence point. -/
def cmdGraphHold (graph r : Nat) (s : State) : State × CmdRes :=
  match graphCheck s graph r 1 (fun g => g.st == .running) isChanging with
  | some x => x
  | none =>
    ({ s with graphs := tabModify graph (fun g => { g with holding := true, holdAcc := s.pool.nextAcc }) s.graphs },
      .wait (.graphHold graph))

/-- GRAPH_HOLD. -/
def execGraphHold (h : CmdHdr) (graph r : Nat) (s : State) : Host.Outcome State Fault Refusal :=
  .next (runCommand h 0x0303 (cmdGraphHold graph r) s)

/-- The graph's quiescence point: no node runs, every notice has released its iteration and every released iteration has
completed its ITER_END nodes, and the pool is quiet (R215, R298). -/
def quiescent (s : State) (graph : Nat) (g : Graph) : Bool :=
  (nodesOf s graph).all (fun e => e.2.run.isNone) &&
  (List.range g.lanes.length).all (fun k => (g.lanes[k]?).elim true (fun l =>
    l.notices.isEmpty && l.open_.all (fun e => iterDone s graph k e.1))) &&
  poolQuiet s graph g.holdAcc

/-- GRAPH_HOLD_QUIESCENT: the hold responds, and the graph enters HELD. -/
def doGraphHoldQuiescent (graph : Nat) (s : State) : State :=
  match tabGet? s.graphs graph with
  | none => s
  | some g =>
    if g.holding && ! g.stopping && quiescent s graph g then
      answer (setGraph s graph { g with st := .held, holding := false }) (.graphHold graph) .ok []
    else s

/-- GRAPH_HOLD_QUIESCENT (R215, R298). -/
def execGraphHoldQuiescent (graph : Nat) (s : State) : Host.Outcome State Fault Refusal :=
  .next (doGraphHoldQuiescent graph s)

/-- GRAPH_RESUME (R215). -/
def cmdGraphResume (graph r : Nat) (s : State) : State × CmdRes :=
  match graphCheck s graph r 1 (fun g => g.st == .held) isStopping with
  | some x => x
  | none => okDone { s with graphs := tabModify graph (fun g => { g with st := .running }) s.graphs }

/-- GRAPH_RESUME. -/
def execGraphResume (h : CmdHdr) (graph r : Nat) (s : State) : Host.Outcome State Fault Refusal :=
  .next (runCommand h 0x0304 (cmdGraphResume graph r) s)

/-- A node's run when its graph stops: one whose unit is done completes when its signal arrives; engines end after their line
(ENGINE_RUN_DONE), cores and channels as their chapters say (R140, R171, R216, R248, R336). -/
def stopNode (s : State) (n : Nat) (x : Node) : State :=
  match x.run with
  | none => s
  | some r =>
    if r.unitDone then s
    else
      let s := modNode s n (fun y => { y with run := none })
      match x.kind with
      | 1 => { s with engines := tabModify (nodeEngine s n x) (fun e => { e with stopping := true }) s.engines }
      | 2 => match (coreOf s x.unit).unit with
        | some u => abandonCoreNode s x.unit u .stopped
        | none => s
      | 3 => stopNodeRun s x.unit
      | _ => s

/-- The iterations of a lane released and not completed, and the notices that wait, by f (R216). -/
def unfinished (s : State) (g k : Nat) (l : Lane) : List Nat :=
  (l.open_.filter (fun e => ! iterDone s g k e.1)).map (fun e => e.2.2) ++ l.notices.map (·.2)

/-- The frame-aborted records of a stop: the frames of each lane, with the number of records issued. -/
def abortLane (s : State) (g k : Nat) (l : Lane) : State × Nat :=
  let fs := unfinished s g k l
  (fs.foldl (fun s f => abortFrame s g k l f 2) s, fs.length * (laneFlows s g k).length)

/-- The carried components of the graph's OBX nodes are discarded and counted (R171). -/
def dropCarry (s : State) (g : Nat) : State :=
  (nodesOf s g).foldl (fun s e =>
    let n := (tabGet [] s.obxCarry e.1).length
    { s with obxCarry := tabErase e.1 s.obxCarry, objDropped := s.objDropped + n }) s

/-- GRAPH_STOP (R216, R297, R347): nothing of the graph starts any more, runs end, the pool keeps its released prefix, and
one frame-aborted record names each unfinished frame. A hold that waits is answered STOPPED (log entry 34). -/
def stopGraph (s : State) (graph : Nat) (g : Graph) : State :=
  let s := answer s (.graphHold graph) .stopped []
  let s := setGraph s graph { g with holding := false, stopping := true }
  let s := stopPool s graph g.pool
  let (s, n) := ((List.range g.lanes.length).zip g.lanes).foldl (fun (p : State × Nat) e =>
    let (s, m) := abortLane p.1 graph e.1 e.2
    (s, p.2 + m)) (s, 0)
  let s := (nodesOf s graph).foldl (fun s e => stopNode s e.1 e.2) s
  let s := (s.streams.filter (fun e => e.2.graph == graph && e.2.active)).foldl (fun s e => cancelStream s e.1 e.2) s
  let s := dropCarry s graph
  let s := (s.pool.flows.filter (fun e => e.2.graph == graph)).foldl (fun s e =>
    dropStubs s e.1 (e.2.window.map (fun i => i.seq))) s
  { s with
    graphs := tabModify graph (fun x => { x with
      aborted := n, lanes := x.lanes.map (fun l => { l with notices := [] }) }) s.graphs,
    watches := s.watches.map (fun e => if e.2.graph = graph then (e.1, { e.2 with pending := [] }) else e) }

/-- GRAPH_STOP. -/
def cmdGraphStop (graph r : Nat) (s : State) : State × CmdRes :=
  match graphCheck s graph r 1 graphActive isStopping with
  | some x => x
  | none => match tabGet? s.graphs graph with
    | none => refuse s .state
    | some g => (stopGraph s graph g, .wait (.graphStop graph))

/-- GRAPH_STOP. -/
def execGraphStop (h : CmdHdr) (graph r : Nat) (s : State) : Host.Outcome State Fault Refusal :=
  .next (runCommand h 0x0305 (cmdGraphStop graph r) s)

/-- Every unit of the graph is idle and every read tag is free (R216, R297). -/
def graphIdle (s : State) (graph : Nat) (g : Graph) : Bool :=
  tabAll (fun _ e => (e.node.bind (fun n => tabGet? s.nodes n)).elim true (fun x => x.graph != graph)) s.engines &&
  (nodesOf s graph).all (fun e => e.2.run.isNone && match e.2.kind with
    | 2 => (coreOf s e.2.unit).unit.isNone
    | 3 => (tabGet? s.dma e.2.unit).elim true (fun c => c.run.isNone)
    | _ => true) &&
  g.pool.all (fun c => (coreOf s c).unit.isNone) &&
  tabAll (fun _ x => x.graph != graph || ! x.cancelling) s.streams

/-- GRAPH_STOP_IDLE: the stop responds with its frame-aborted records, and the graph enters LOADED. -/
def doGraphStopIdle (graph : Nat) (s : State) : State :=
  match tabGet? s.graphs graph with
  | none => s
  | some g =>
    if g.stopping && graphIdle s graph g then
      answer (setGraph s graph { g with st := .loaded, stopping := false }) (.graphStop graph) .ok (leBytes 4 (satTo 32 g.aborted))
    else s

/-- GRAPH_STOP_IDLE (R216). -/
def execGraphStopIdle (graph : Nat) (s : State) : Host.Outcome State Fault Refusal := .next (doGraphStopIdle graph s)

/-- GRAPH_UNLOAD (R218). -/
def cmdGraphUnload (graph r : Nat) (s : State) : State × CmdRes :=
  match graphCheck s graph r 1 (fun g => g.st == .loaded) neverBusy with
  | some x => x
  | none => match tabGet? s.graphs graph with
    | none => refuse s .state
    | some g =>
      let bound := fun (k : Nat) => flagGraph s k == some graph
      okDone { s with
        nodes := s.nodes.filter (fun e => e.2.graph != graph),
        links := s.links.filter (fun e => ! (decide (g.linkBase ≤ e.1) && decide (e.1 < g.linkBase + g.linkLen))),
        descs := s.descs.filter (fun e => ! (decide (g.descBase ≤ e.1) && decide (e.1 < g.descBase + g.descLen))),
        sems := s.sems.filter (fun e => e.2.graph != graph),
        flags := s.flags.map (fun e => if bound e.1 then (e.1, { e.2 with cmask := 0 }) else e),
        binds := s.binds.filter (fun e => e.2.graph != graph),
        dma := s.dma.filter (fun e => e.2.graph != some graph),
        streams := s.streams.filter (fun e => e.2.graph != graph),
        watches := s.watches.filter (fun e => e.2.graph != graph),
        obxCarry := s.obxCarry.filter (fun e => (tabGet? s.nodes e.1).elim true (fun n => n.graph != graph)),
        pool := { s.pool with flows := s.pool.flows.filter (fun e => e.2.graph != graph) },
        graphs := tabErase graph s.graphs }

/-- GRAPH_UNLOAD. -/
def execGraphUnload (h : CmdHdr) (graph r : Nat) (s : State) : Host.Outcome State Fault Refusal :=
  .next (runCommand h 0x0301 (cmdGraphUnload graph r) s)

/-- GRAPH_STATUS's code of a state; a graph that is not loaded is 0. -/
def gstateIdx : GState → Nat
  | .loaded => 1
  | .running => 2
  | .held => 3

/-- The slips of a lane's nodes. -/
def laneSlips (s : State) (g k : Nat) : Nat := ((nodesOf s g).filter (fun e => e.2.lane == k)).foldl (fun n e => n + e.2.slips) 0

/-- GRAPH_STATUS (R492). -/
def cmdGraphStatus (graph r : Nat) (s : State) : State × CmdRes :=
  if r ≠ 0 then refuseAt s .badField 1
  else if 15 < graph then refuseAt s .badParam 0
  else match tabGet? s.graphs graph with
    | none => okWith s (List.replicate 8 0)
    | some g =>
      okWith s (leBytes 1 (gstateIdx g.st) ++ leBytes 1 g.mask ++ leBytes 2 0 ++ leBytes 4 g.salt ++
        ((List.range g.lanes.length).zip g.lanes).flatMap (fun e =>
          leBytes 4 e.2.started ++ leBytes 4 (satTo 32 (laneSlips s graph e.1))))

/-- GRAPH_STATUS. -/
def execGraphStatus (h : CmdHdr) (graph r : Nat) (s : State) : Host.Outcome State Fault Refusal :=
  .next (runCommand h 0x0307 (cmdGraphStatus graph r) s)

end Sys2Proof.Machine
end

