-- ==== Sys2Proof/Machine/Pixel.lean ====
section
/-! DEFINITION. The arithmetic of the image pipelines (R89 to R95), the statistics taken from it (R99), and the blanking
test's rows (R111). -/

namespace Sys2Proof.Machine

open Sys2Proof

/-! ### The parameter block (R90) -/

/-- Bytes of a parameter block. -/
def paramLen : Nat := 17088

/-- Black level of a mosaic channel. -/
def pBl (p : List Byte) (c : Nat) : Nat := fieldAt p (2 * c) 2
/-- White-balance gain of a mosaic channel. -/
def pWb (p : List Byte) (c : Nat) : Nat := fieldAt p (8 + 2 * c) 2
/-- DPC_THR. -/
def pThr (p : List Byte) : Nat := fieldAt p 16 2
/-- cx of SHD_CELL. -/
def pCx (p : List Byte) : Nat := fieldAt p 18 1 % 16
/-- cy of SHD_CELL. -/
def pCy (p : List Byte) : Nat := fieldAt p 18 1 / 16
/-- CCM[i][j]. -/
def pCcm (p : List Byte) (i j : Nat) : Int := sfieldAt p (20 + 2 * (4 * i + j)) 2
/-- CSC[i][j]. -/
def pCsc (p : List Byte) (i j : Nat) : Int := sfieldAt p (44 + 2 * (3 * i + j)) 2
/-- CSC_OFF[i]. -/
def pOff (p : List Byte) (i : Nat) : Int := sfieldAt p (64 + 2 * i) 2
/-- SHD[c][l][k]. -/
def pShd (p : List Byte) (c l k : Nat) : Nat := fieldAt p (128 + 2 * (c * 1089 + l * 33 + k)) 2
/-- TONE[i][k]. -/
def pTone (p : List Byte) (i k : Nat) : Nat := fieldAt p (8896 + 2 * (i * 1024 + k)) 2

/-- Bits of a sample of a data type (R82). -/
def dtBits (dt : Nat) : Nat := 8 + 2 * (dt - 0x2A)

/-- tmax of R91. -/
def toneMax (c : PipeCfg) : Nat := if c.deep then 1023 else 255

/-- The offset of the first reserved field of a block that is not zero. -/
def paramReserved (p : List Byte) : Option Nat :=
  if zeroAt p 19 1 = false then some 19
  else if zeroAt p 62 2 = false then some 62
  else if zeroAt p 70 58 = false then some 70
  else if zeroAt p 8840 56 = false then some 8840
  else none

/-- The offset of the first field of a block out of its range, for a geometry and depth; width and height 0 and 1,023 stand
for a geometry and a depth that are not known. -/
def paramRange (p : List Byte) (width height tmax : Nat) : Option Nat :=
  match (List.range 4).find? (fun c => decide (16383 < pBl p c)) with
  | some c => some (2 * c)
  | none =>
    if 16383 < pThr p then some 16
    else if 7 < pCx p ∨ 9 < pCy p ∨ 32 * 2 ^ pCx p < width ∨ 32 * 2 ^ pCy p < height then some 18
    else ((List.range 4096).find? (fun i => decide (tmax < pTone p (i / 1024) (i % 1024)))).map (fun i => 8896 + 2 * i)

/-! ### Sites (R89, R92) -/

/-- The mosaic channel of a pixel. -/
def siteChan (c : PipeCfg) (x y : Nat) : Nat :=
  let cx := (x + c.phase % 2) % 2
  let cy := (y + c.phase / 2) % 2
  if c.pattern = 0 then cx + 2 * cy else if cy = 0 then cx else 3 - cx

/-- The demosaic channel of a mosaic channel: 0 R, 1 G, 2 B, 3 NIR. -/
def chanColour (c : PipeCfg) (k : Nat) : Nat := if c.pattern = 0 then (if k = 0 then 0 else if k = 3 then 2 else 1) else k

/-- The colour of a pixel's own site. -/
def siteColour (c : PipeCfg) (x y : Nat) : Nat := chanColour c (siteChan c x y)

/-- Reflection at the edges of `n` places (R92). DEDUCED: log entry 46. -/
def reflect (n : Nat) (i : Int) : Nat :=
  if n ≤ 1 then 0
  else
    let j := (i % (2 * (n - 1) : Nat)).toNat
    if j < n then j else 2 * (n - 1) - j

/-- A frame as the arithmetic sees it: its configuration, parameters, the shift of the alignment, and its raw lines. -/
structure RawFrame where
  cfg : PipeCfg
  prm : List Byte
  shift : Nat
  width : Nat
  height : Nat
  lines : List (List Nat)
deriving DecidableEq, Repr

/-- A raw sample. -/
def rawAt (r : RawFrame) (x y : Nat) : Nat := nth (r.lines.getD y []) x

/-- After alignment and black level (R91). -/
def blackAt (r : RawFrame) (x y : Nat) : Nat := rawAt r x y * 2 ^ r.shift - pBl r.prm (siteChan r.cfg x y)

/-- The same at a place that may lie outside the frame (R92). -/
def blackRef (r : RawFrame) (x y : Int) : Nat := blackAt r (reflect r.width x) (reflect r.height y)

/-- Four numbers in rising order. -/
def sort4 (l : List Nat) : List Nat := sortBy (fun a b => decide (a ≤ b)) l

/-- Defect correction: the sample, and whether it was replaced (R93). -/
def dpcAt (r : RawFrame) (x y : Nat) : Nat × Bool :=
  let s := blackAt r x y
  let q := sort4 [blackRef r (x - 2) y, blackRef r (x + 2) y, blackRef r x (y - 2), blackRef r x (y + 2)]
  let t := pThr r.prm
  if r.cfg.dpc.contains (x, y) || (decide (0 < t) && (decide (nth q 3 + t < s) || decide (s + t < nth q 0))) then
    ((nth q 1 + nth q 2 + 1) / 2, true)
  else (s, false)

/-- The shading gain (R91). -/
def shdAt (r : RawFrame) (c x y : Nat) : Nat :=
  let cx := pCx r.prm
  let cy := pCy r.prm
  let k := x / 2 ^ cx
  let fx := x % 2 ^ cx
  let l := y / 2 ^ cy
  let fy := y % 2 ^ cy
  let s := 2 ^ cx
  let t := 2 ^ cy
  let h := if cx + cy = 0 then 0 else 2 ^ (cx + cy - 1)
  (pShd r.prm c l k * (s - fx) * (t - fy) + pShd r.prm c l (k + 1) * fx * (t - fy) + pShd r.prm c (l + 1) k * (s - fx) * fy +
    pShd r.prm c (l + 1) (k + 1) * fx * fy + h) / 2 ^ (cx + cy)

/-- The white-balanced sample P (R91). -/
def balAt (r : RawFrame) (x y : Nat) : Nat :=
  let c := siteChan r.cfg x y
  let s := min 16383 (((dpcAt r x y).1 * shdAt r c x y + 2048) / 4096)
  min 16383 ((s * pWb r.prm c + 2048) / 4096)

/-- P at a place that may lie outside the frame. -/
def balRef (r : RawFrame) (x y : Int) : Int := balAt r (reflect r.width x) (reflect r.height y)

/-! ### Demosaic (R94) -/

/-- clamp to 0 to 16,383. -/
def clamp14 (i : Int) : Nat := (clampInt i 0 16383).toNat

/-- |i|. -/
def absI (i : Int) : Int := i.natAbs

/-- Green of a Bayer frame. -/
def greenAt (r : RawFrame) (x y : Nat) : Nat :=
  let p := fun (dx dy : Int) => balRef r (x + dx) (y + dy)
  if siteColour r.cfg x y = 1 then balAt r x y
  else
    let v := 2 * p 0 0
    let dh := absI (p (-1) 0 - p 1 0) + absI (v - p (-2) 0 - p 2 0)
    let gh := (2 * (p (-1) 0 + p 1 0) + v - p (-2) 0 - p 2 0 + 2) / 4
    let dv := absI (p 0 (-1) - p 0 1) + absI (v - p 0 (-2) - p 0 2)
    let gv := (2 * (p 0 (-1) + p 0 1) + v - p 0 (-2) - p 0 2 + 2) / 4
    clamp14 (if dh < dv then gh else if dv < dh then gv else (gh + gv + 1) / 2)

/-- Green at a place that may lie outside the frame. -/
def greenRef (r : RawFrame) (x y : Int) : Int := greenAt r (reflect r.width x) (reflect r.height y)

/-- The neighbours that carry a colour the pixel's own site does not: a pair along x, a pair along y, or the diagonals. -/
def colourSites (r : RawFrame) (x y col : Nat) : List (Int × Int) :=
  if siteColour r.cfg (x + 1) y = col then [(-1, 0), (1, 0)]
  else if siteColour r.cfg x (y + 1) = col then [(0, -1), (0, 1)]
  else [(-1, -1), (1, -1), (-1, 1), (1, 1)]

/-- The rounded mean of n values, n 2 or 4. -/
def meanOf (l : List Int) : Int := (l.foldl (· + ·) 0 + (l.length / 2 : Nat)) / (max 1 l.length : Nat)

/-- Channel `k` of the demosaiced pixel: 0 R, 1 G, 2 B, 3 NIR. -/
def demosaicAt (r : RawFrame) (x y k : Nat) : Nat :=
  if r.cfg.pattern = 0 then
    if k = 3 then 0
    else if k = 1 then greenAt r x y
    else if siteColour r.cfg x y = k then balAt r x y
    else
      let d := (colourSites r x y k).map (fun o => balRef r (x + o.1) (y + o.2) - greenRef r (x + o.1) (y + o.2))
      clamp14 (greenAt r x y + meanOf d)
  else if siteColour r.cfg x y = k then balAt r x y
  else (meanOf ((colourSites r x y k).map (fun o => balRef r (x + o.1) (y + o.2)))).toNat

/-! ### Colour, tone and statistics taps (R91) -/

/-- The 12-bit values v[0..3] of a pixel. -/
def tapAt (r : RawFrame) (x y : Nat) : List Nat :=
  let d := (List.range 4).map (demosaicAt r x y)
  let out := (List.range 3).map (fun i =>
    let s : Int := (List.range 4).foldl (fun (a : Int) j => a + pCcm r.prm i j * nth d j) 0
    clamp14 ((s + 2048) / 4096))
  (out ++ [nth d 3]).map (fun o => min 4095 ((o + 2) / 4))

/-- The tone-mapped value of a channel. -/
def toneAt (p : List Byte) (i v : Nat) : Nat :=
  let k := v / 4
  let f := v % 4
  (pTone p i k * (4 - f) + pTone p i (min (k + 1) 1023) * f + 2) / 4

/-- One row of the conversion, written over t[i] as the pseudocode of R91 writes it: the rows after it read the new value.
DEDUCED: log entry 45. -/
def cscRow (c : PipeCfg) (p : List Byte) (t : List Nat) (i : Nat) : List Nat :=
  let s : Int := (List.range 3).foldl (fun (a : Int) j => a + pCsc p i j * nth t j) 0
  t.set i (clampInt ((s + 2048) / 4096 + pOff p i) 0 (toneMax c : Nat)).toNat

/-- The output samples t[0..3] of a pixel from its taps. -/
def outAt (c : PipeCfg) (p : List Byte) (v : List Nat) : List Nat :=
  let t := (List.range 4).map (fun i => toneAt p i (nth v i))
  if c.csc then (List.range 3).foldl (cscRow c p) t else t

/-- Enabled planes. DEDUCED: log entry 45. -/
def planesOf (c : PipeCfg) : Nat := if c.nir then 4 else 3

/-- Bytes of an output sample. -/
def outBytes (c : PipeCfg) : Nat := if c.deep then 2 else 1

/-- A line of the frame: the taps of every pixel, its output samples, and the number of pixels that R93 replaced. -/
def lineOf (r : RawFrame) (y : Nat) : List (List Nat) × List (List Nat) × Nat :=
  let xs := List.range r.width
  let taps := xs.map (fun x => tapAt r x y)
  (taps, taps.map (outAt r.cfg r.prm), (xs.filter (fun x => (dpcAt r x y).2)).length)

/-- The bytes of a plane of an output line (R95). -/
def planeBytes (c : PipeCfg) (outs : List (List Nat)) (p : Nat) : List Byte :=
  outs.flatMap (fun t => leBytes (outBytes c) (nth t p))

/-! ### Statistics (R99) -/

/-- The zone column or row of a coordinate over `n` places. -/
def zoneOf (n i : Nat) : Nat := if n / 16 = 0 then 15 else min 15 (i / (n / 16))

/-- Channels that statistics count. -/
def statChans (c : PipeCfg) : Nat := if c.pattern = 0 then 3 else 4

/-- A number added to an entry. -/
def addTo (t : Tab Nat) (k n : Nat) : Tab Nat := tabPut 0 k (tabGet 0 t k + n) t

/-- A pixel's taps counted: histograms keyed channel × 256 + bin, zones keyed zone × 5 + field. -/
def countTap (c : PipeCfg) (z : Nat) (h : Tab Nat × Tab Nat) (v : List Nat) : Tab Nat × Tab Nat :=
  let ks := List.range (statChans c)
  let hist := ks.foldl (fun t k => addTo t (k * 256 + nth v k / 16) 1) h.1
  let zones := ks.foldl (fun t k => addTo t (z * 5 + k) (nth v k)) h.2
  (hist, if ks.any (fun k => nth v k == 4095) then addTo zones (z * 5 + 4) 1 else zones)

/-- A line's taps counted. -/
def countLine (c : PipeCfg) (y : Nat) (taps : List (List Nat)) (h : Tab Nat × Tab Nat) : Tab Nat × Tab Nat :=
  ((List.range taps.length).zip taps).foldl (fun h e =>
    countTap c (16 * zoneOf c.height y + zoneOf c.width e.1) h e.2) h

/-- The histograms and zone records as bytes. -/
def statBytes (hist zones : Tab Nat) : List Byte :=
  (List.range 1024).flatMap (fun k => leBytes 4 (tabGet 0 hist k)) ++
  (List.range 1280).flatMap (fun k => leBytes 4 (tabGet 0 zones k))

/-! ### The blanking test (R111) -/

/-- The four rows that a test injects after the alignment shift, as a frame of four lines. DEDUCED: log entry 46. -/
def testFrame (c : PipeCfg) (prm : List Byte) (pipe : Nat) : RawFrame :=
  let w := prbsWords 14 (4 * c.width) (pipe + 1)
  { cfg := c, prm := prm, shift := 0, width := c.width, height := 4,
    lines := (List.range 4).map (fun y => (w.drop (y * c.width)).take c.width) }

/-- The signature: CRC-32C over the outputs of rows 2 and 3, in plane order, then row order. -/
def testSignature (c : PipeCfg) (prm : List Byte) (pipe : Nat) : Nat :=
  let r := testFrame c prm pipe
  let rows := [(lineOf r 2).2.1, (lineOf r 3).2.1]
  crc32c ((List.range (planesOf c)).flatMap (fun p => rows.flatMap (fun o => planeBytes c o p)))

end Sys2Proof.Machine
end

