-- ==== Sys2Proof/Machine/Camera.lean ====
section
/-! DEFINITION. CSI-2 receivers (R82 to R88), frames, their anomalies, slots and completion (R95 to R101), exposure times
(R104), the blanking test's course (R111, R112), and the camera commands (R83, R84, R89, R90, R114). -/

namespace Sys2Proof.Machine

open Sys2Proof

/-! ### Ports and their counters (R83, R101) -/

/-- A pipeline changed. -/
def modPipe (s : State) (p : Nat) (f : Pipe → Pipe) : State := setPipe s p (f (pipeOf s p))

/-- One of the counters of a port. -/
def countPort (s : State) (k i : Nat) : State := setPort s k { portOf s k with cnt := bumpAt 32 (portOf s k).cnt i 1 }

/-- One of the counters of a pipeline. -/
def countPipe (s : State) (p i n : Nat) : State := modPipe s p (fun x => { x with cnt := bumpAt 32 x.cnt i n })

/-- Pipelines of a port. -/
def portPipes (k : Nat) : List Nat := [4 * k, 4 * k + 1, 4 * k + 2, 4 * k + 3]

/-- The port's terminations are connected: one of its pipelines runs (R83). -/
def portOn (s : State) (k : Nat) : Bool := decide (k < 16) && (portPipes k).any (fun p => (pipeOf s p).running)

/-- A packet can arrive at the port. -/
def portHears (s : State) (k : Nat) : Bool := portOn s k && islandRuns s (34 + k)

/-- The running pipeline of a virtual channel. -/
def pipeOnVc (s : State) (k vc : Nat) : Option Nat :=
  (portPipes k).find? (fun p => (pipeOf s p).running && (pipeOf s p).cfg.vc == vc)

/-- A header that ECC corrected is counted (R85). -/
def countCorrected (s : State) (k : Nat) (corrected : Bool) : State := if corrected then countPort s k 0 else s

/-- A header that ECC cannot correct is counted and its packet lost (R85). -/
def doCsiHeaderError (port : Nat) (s : State) : State := if portHears s port then countPort s port 1 else s

/-- CSI_HEADER_ERROR (R85). -/
def execCsiHeaderError (port : Nat) (s : State) : Host.Outcome State Fault Refusal := .next (doCsiHeaderError port s)

/-! ### Lines (R85 to R87, R100) -/

/-- FLAGS bits of the frame header. -/
def ffShort : Nat := 0
def ffLong : Nat := 1
def ffShortLine : Nat := 2
def ffLongLine : Nat := 3
def ffOverflow : Nat := 4
def ffLineCrc : Nat := 5
def ffNoFe : Nat := 6
def ffUnmatched : Nat := 7
def ffSettingsLate : Nat := 8
def ffPatternFail : Nat := 9

/-- A flag bit set in a word. -/
def orFlag (flags b : Nat) (on : Bool) : Nat := if on then flags ||| 2 ^ b else flags

/-- A flag set on a frame. -/
def flagFrame (f : Frame) (b : Nat) (on : Bool) : Frame := { f with flags := orFlag f.flags b on }

/-- The line that stands in for a lost one: the previous line, or zeros (R85, R100). -/
def standIn (c : PipeCfg) (f : Frame) : List Nat := (f.lines.getLast?).getD (List.replicate c.width 0)

/-- A line as it is completed from the pixels that were taken (table *Frame anomalies*). -/
def fillLine (c : PipeCfg) (f : Frame) (px : List Nat) : List Nat :=
  match px.getLast? with
  | none => standIn c f
  | some l => px.take c.width ++ List.replicate (c.width - px.length) l

/-- A long packet's line joins the open frame: `px` are the samples taken, `cut` that the input buffer cut it short, `bad`
that its CRC or a travel code failed. -/
def addLine (c : PipeCfg) (f : Frame) (px : List Nat) (cut bad : Bool) : Frame :=
  let f := flagFrame { f with rcvd := f.rcvd + 1 } ffOverflow cut
  if c.height ≤ f.lines.length then flagFrame f ffLong true
  else if bad then
    flagFrame { f with lines := f.lines ++ [standIn c f], crcLines := f.crcLines + 1 } ffLineCrc true
  else
    let short := decide (px.length < c.width)
    let long := decide (c.width < px.length)
    flagFrame (flagFrame { f with
      lines := f.lines ++ [fillLine c f px], shortLines := f.shortLines + bit01 short,
      longLines := f.longLines + bit01 long } ffShortLine short) ffLongLine long

/-- Samples as the data type carries them. -/
def maskSamples (dt : Nat) (px : List Nat) : List Nat := px.map (fun v => v % 2 ^ dtBits dt)

/-- Samples that a pipeline's input buffer holds: 24 KiB of 16 bits each (R87). -/
def bufSize : Nat := 12288

/-- Samples in the buffer now: the pipeline takes 2 in each cycle of 4 ns, one in 8 ticks (R88).
DESIGN CHOICE: log entry 82. -/
def bufNow (s : State) (x : Pipe) : Nat := x.bufFill - (s.time - x.bufAt) / 8

/-- How many samples of an arriving line the buffer takes: all that find room now, and at most those for which the pipeline
can have made room since the last line; between the two, for lines longer than the buffer, the surroundings say.
DESIGN CHOICE: log entry 82. -/
def bufTakes (s : State) (x : Pipe) (len taken : Nat) : Nat :=
  min len (max (bufSize - bufNow s x) (min taken (bufSize + (s.time - x.bufAt) / 8 - x.bufFill)))

/-- A line of a pipeline's virtual channel and data type. A line without an open frame is discarded and counted; one of a
dropped frame is not taken (R96, R100). DEDUCED: log entry 45. -/
def lineArrives (s : State) (p dt : Nat) (samples : List Nat) (crcOk : Bool) (taken codeErrs : Nat) : State :=
  let x := pipeOf s p
  match x.cur with
  | some f =>
    let taken := bufTakes s x samples.length taken
    let px := maskSamples dt (samples.take taken)
    let f := { f with codeErrs := f.codeErrs + codeErrs }
    setPipe s p { x with
      bufFill := min bufSize (bufNow s x + taken), bufAt := s.time,
      cur := some (addLine x.cfg f px (decide (taken < samples.length)) (! crcOk || codeErrs != 0)) }
  | none => if x.dropped.isSome then s else setPipe s p { x with orphans := x.orphans + 1 }

/-- CSI_LONG_PACKET at a port that hears it. `taken` says how much of a line longer than the input buffer found room (R87);
`codeErrs`
counts the granules whose travel codes the pipeline finds failing at its input (R86). DEDUCED: log entry 45. -/
def longPacket (s : State) (port vc dt : Nat) (samples : List Nat) (corrected crcOk : Bool)
    (taken codeErrs : Nat) : State :=
  let s := countCorrected s port corrected
  let s := if crcOk then s else countPort s port 2
  if dt < 0x2A ∨ 0x2D < dt then countPort s port 5
  else match pipeOnVc s port vc with
    | none => countPort s port 3
    | some p => if (pipeOf s p).cfg.dt = dt then lineArrives s p dt samples crcOk taken codeErrs else countPort s port 4

/-- CSI_LONG_PACKET. -/
def doCsiLongPacket (port vc dt : Nat) (samples : List Nat) (corrected crcOk : Bool) (taken codeErrs : Nat)
    (s : State) : State :=
  if portHears s port then longPacket s port vc dt samples corrected crcOk taken codeErrs else s

/-- CSI_LONG_PACKET (R82, R84, R85, R86, R87, R100). -/
def execCsiLongPacket (port vc dt : Nat) (samples : List Nat) (corrected crcOk : Bool) (taken codeErrs : Nat)
    (s : State) : Host.Outcome State Fault Refusal :=
  .next (doCsiLongPacket port vc dt samples corrected crcOk taken codeErrs s)

/-! ### The pipeline's output (R95 to R99) -/

/-- Every line of a frame, the missing ones completed (table *Frame anomalies*). -/
def padLines (c : PipeCfg) (f : Frame) : Frame :=
  { f with lines := f.lines ++ List.replicate (c.height - f.lines.length) (standIn c f) }

/-- A frame for the arithmetic. -/
def rawFrame (c : PipeCfg) (f : Frame) : RawFrame :=
  { cfg := c, prm := f.param, shift := 14 - dtBits c.dt, width := c.width, height := c.height, lines := f.lines }

/-- A line's result depends on lines up to five below it (R92 to R94); it can be made when they are there. -/
def lineReady (c : PipeCfg) (f : Frame) : Bool :=
  decide (f.next < c.height) && decide (min c.height (f.next + 6) ≤ f.lines.length)

/-- The frame-store address of a plane's line in the slot of a frame (R95). -/
def outAddr (c : PipeCfg) (cnt p y : Nat) : Nat :=
  c.fsBase + cnt % max 1 c.slots * c.slotPitch + p * c.planePitch + y * c.linePitch

/-- The flag of the band that ends with line y, the last band left out (R97). -/
def bandDone (s : State) (c : PipeCfg) (cnt y : Nat) : State :=
  match pipeRef s c.fsBase with
  | none => s
  | some r =>
    let n := 2 ^ r.bandLog
    if (y + 1) % n = 0 ∧ y + 1 < r.height then flagSet s (bandFlag r (slotOf r cnt 0) (y / n)) cnt else s

/-- One line leaves the pipeline: its samples in every enabled plane, its statistics, its band's flag. -/
def writeLine (s : State) (p : Nat) (x : Pipe) (f : Frame) : State × Frame :=
  let (taps, outs, d) := lineOf (rawFrame x.cfg f) f.next
  let s := (List.range (planesOf x.cfg)).foldl (fun s k =>
    (writeLocal s x.dom (outAddr x.cfg f.cnt k f.next) (planeBytes x.cfg outs k) false).1) s
  let (h, z) := countLine x.cfg f.next taps (f.hist, f.zones)
  let s := bump (bump s 4 p 1 1) 4 p 4 d
  (bandDone s x.cfg f.cnt f.next, { f with next := f.next + 1, dpcCnt := f.dpcCnt + d, hist := h, zones := z })

/-- PIPELINE_LINE_DONE: the next line of the frame that is completing, else of the open one. -/
def doPipelineLineDone (pipe : Nat) (s : State) : State :=
  let x := pipeOf s pipe
  if ! islandRuns s (34 + pipe / 4) then s
  else match x.closing with
    | some f =>
      if lineReady x.cfg f then
        let (s, f) := writeLine s pipe x f
        modPipe s pipe (fun x => { x with closing := some f })
      else s
    | none => match x.cur with
      | some f =>
        if lineReady x.cfg f then
          let (s, f) := writeLine s pipe x f
          modPipe s pipe (fun x => { x with cur := some f })
        else s
      | none => s

/-- PIPELINE_LINE_DONE (R91 to R97). -/
def execPipelineLineDone (pipe : Nat) (s : State) : Host.Outcome State Fault Refusal := .next (doPipelineLineDone pipe s)

/-- The 64 bytes of a frame header (table *Frame header*). -/
def headerBytes (f : Frame) : List Byte :=
  leBytes 4 f.cnt ++ leBytes 2 f.gen ++ leBytes 2 f.flags ++ leBytes 8 f.tExp ++ leBytes 8 f.tFs ++ leBytes 4 f.linePeriod ++
  leBytes 2 (satTo 16 f.tUnc) ++ leBytes 2 (satTo 16 f.rcvd) ++ leBytes 2 (satTo 16 f.shortLines) ++
  leBytes 2 (satTo 16 f.longLines) ++ leBytes 2 (satTo 16 f.crcLines) ++ leBytes 2 (satTo 16 f.dpcCnt) ++
  List.replicate 24 0

/-- The counters of a completed frame's flags (R101, R478). -/
def countFlags (s : State) (p flags : Nat) : State :=
  let s := (List.range 10).foldl (fun s b => countPipe s p (2 + b) (bit01 (bitAt flags b))) s
  bump (bump s 4 p 0 1) 4 p 5 (bit01 (decide (flags ≠ 0)))

/-- A completed frame: statistics block, a TRAVEL_MISMATCH for the failing codes that its lines met (R86, R189), last band's
flag, notice, and the response of a stop (R97, R114, R192). DEDUCED: log entry 45. -/
def finishFrame (s : State) (p : Nat) (x : Pipe) (f : Frame) : State :=
  let c := x.cfg
  let s := modPipe s p (fun x => { x with closing := none })
  let s := (writeLocal s x.dom (c.statBase + f.cnt % max 1 c.slots * 9280) (headerBytes f ++ statBytes f.hist f.zones) false).1
  let s := countFlags s p f.flags
  let s := travelMismatch s 4 p f.codeErrs 0xFF 0
  let s := match pipeRef s c.fsBase with
    | some r => flagSet s (lastFlag r (slotOf r f.cnt 0)) f.cnt
    | none => s
  let s := pipeNotice s p f.cnt
  if x.running then s else answer s (.cameraStop p) .ok []

/-- FRAME_COMPLETE: every line of the ended frame is written. -/
def doFrameComplete (pipe : Nat) (s : State) : State :=
  let x := pipeOf s pipe
  match x.closing with
  | none => s
  | some f => if f.next = x.cfg.height && islandRuns s (34 + pipe / 4) then finishFrame s pipe x f else s

/-- FRAME_COMPLETE (R97, R98, R99). -/
def execFrameComplete (pipe : Nat) (s : State) : Host.Outcome State Fault Refusal := .next (doFrameComplete pipe s)

/-- The lines that a frame still owes are written, one after another. -/
def drainLines : Nat → State → Nat → State
  | 0, s, _ => s
  | n + 1, s, p => drainLines n (doPipelineLineDone p s) p

/-- A frame that is still completing when the next one ends has completed by then, as R97's bound requires.
DEDUCED: log entry 46. -/
def drainClosing (s : State) (p : Nat) : State :=
  let x := pipeOf s p
  match x.closing with
  | none => s
  | some _ => doFrameComplete p (drainLines x.cfg.height s p)

/-! ### The blanking test (R111, R112) -/

/-- PATTERN_SKIP's counters: a test abandoned or never started (R112). DEDUCED: log entry 46. -/
def skipTest (s : State) (p : Nat) : State :=
  let x := pipeOf s p
  if x.test.isNone ∧ x.testDue.isNone then s
  else bump (countPipe (setPipe s p { x with test := none, testDue := none }) p 14 1) 4 p 7 1

/-- A test follows the frame that has ended, with the parameters of that frame (R111). -/
def dueTest (s : State) (p cnt gen : Nat) (param : List Byte) : State :=
  modPipe s p (fun x => if x.cfg.test then
    { x with testDue := some { gen := gen, param := param, frame := cnt, start := s.time } } else x)

/-- PATTERN_TEST_START: the frame's last line has left the pipeline, or the frame was dropped. -/
def doPatternTestStart (pipe : Nat) (s : State) : State :=
  let x := pipeOf s pipe
  match x.testDue with
  | none => s
  | some t =>
    if x.closing.elim true (fun f => f.next == x.cfg.height) && islandRuns s (34 + pipe / 4) then
      setPipe s pipe { x with testDue := none, test := some { t with start := s.time } }
    else s

/-- PATTERN_TEST_START (R111). -/
def execPatternTestStart (pipe : Nat) (s : State) : Host.Outcome State Fault Refusal := .next (doPatternTestStart pipe s)

/-- A pipeline named once in a list. -/
def addPipe (l : List Nat) (p : Nat) : List Nat := if l.contains p then l else l ++ [p]

/-- PATTERN_TEST_DONE: the datapath's signature is compared with the expected one. -/
def doPatternTestDone (pipe signature : Nat) (s : State) : State :=
  let x := pipeOf s pipe
  match x.test with
  | none => s
  | some t =>
    if ! islandRuns s (34 + pipe / 4) then s
    else
      let ok := decide (signature = testSignature x.cfg t.param pipe)
      let s := setPipe s pipe { x with test := none, patFailNext := x.patFailNext || ! ok }
      if ok then
        let s := bump (countPipe s pipe 12 1) 4 pipe 6 1
        { s with safety := { s.safety with patPass := addPipe s.safety.patPass pipe } }
      else
        let s := countPipe s pipe 13 1
        let s := { s with safety := { s.safety with patFail := addPipe s.safety.patFail pipe } }
        raiseDoubt s 0x0403 4 pipe (leBytes 1 pipe ++ [0] ++ leBytes 2 t.gen ++ leBytes 4 t.frame) rowPattern kindPipe pipe

/-- PATTERN_TEST_DONE (R111, R112). -/
def execPatternTestDone (pipe signature : Nat) (s : State) : Host.Outcome State Fault Refusal :=
  .next (doPatternTestDone pipe signature s)

/-! ### Ending a frame (R100, R114) -/

/-- A stop takes effect: no later Frame Start is accepted (R114). -/
def stopPipe (s : State) (p : Nat) : State := modPipe s p (fun x => { x with running := false, stopAt := none })

/-- A stop that takes effect at once abandons a test in progress (R114). -/
def stopNow (s : State) (p : Nat) : State := stopPipe (skipTest s p) p

/-- The open frame ends, with the flags its end gives it; a stop takes effect, and the frame's test follows (R111, R114). -/
def endFrame (s : State) (p extra : Nat) : State :=
  let x := pipeOf s p
  let stop := x.stopAt.isSome
  match x.cur, x.dropped with
  | some f, _ =>
    let s := drainClosing s p
    let f' := padLines x.cfg { flagFrame f ffShort (decide (f.lines.length < x.cfg.height)) with ended := true }
    let s := modPipe s p (fun x => { x with
      cur := none, closing := some { f' with flags := f'.flags ||| extra } })
    dueTest (if stop then stopPipe s p else s) p f.cnt f.gen f.param
  | none, some cnt =>
    let s := dueTest (modPipe s p (fun x => { x with dropped := none })) p cnt x.gen x.param
    if stop then
      let s := stopPipe s p
      if (pipeOf s p).closing.isNone then answer s (.cameraStop p) .ok [] else s
    else s
  | none, none => s

/-- A pipeline's frame is open. -/
def frameOpen (x : Pipe) : Bool := x.cur.isSome || x.dropped.isSome

/-! ### Settings (R107 to R110) -/

/-- The commit's writes are in progress (R109). -/
def isWriting (c : Commit) : Bool :=
  match c.st with
  | .writing _ => true
  | _ => false

/-- A commit at the Frame Start of frame n: its writes have ended before it, so it takes effect at n + L − 1, modulo 2^32 as
the frame counter is (R98, R108). -/
def fixEffect (lat n : Nat) (c : Commit) : Commit :=
  match c.st with
  | .written => { c with st := .effective ((n + lat - 1) % 2 ^ 32) }
  | _ => c

/-- Frame f is frame n or one of the 2^31 before it. -/
def notAfter (f n : Nat) : Bool := decide ((n + 2 ^ 32 - f) % 2 ^ 32 < 2 ^ 31)

/-- The commit takes effect at frame n or did before; one kept for the start does so with the first frame (R107). -/
def dueAt (n : Nat) (c : Commit) : Bool :=
  c.kept || (match c.st with
    | .effective f => notAfter f n
    | .waiting => c.writes.isEmpty
    | _ => false)

/-- The commit's writes have not all ended. -/
def writesOpen (c : Commit) : Bool :=
  match c.st with
  | .waiting => ! c.writes.isEmpty
  | .writing _ => true
  | _ => false

/-- A commit that is in force stays only for the writes that it still owes. -/
def leftOf (c : Commit) : List Commit := if writesOpen c then [{ c with kept := false, applied := true }] else []

/-- Commits take effect one at a time, in order (R108). DEDUCED: log entry 46. -/
def applyCommits (n : Nat) : List Commit → Nat → List Byte → List Commit × Nat × List Byte
  | [], gen, prm => ([], gen, prm)
  | c :: t, gen, prm =>
    if c.applied then
      let (cs, g, q) := applyCommits n t gen prm
      (leftOf c ++ cs, g, q)
    else if dueAt n c then
      let (cs, g, q) := applyCommits n t c.gen (c.param.getD prm)
      (leftOf c ++ cs, g, q)
    else (c :: t, gen, prm)

/-- The settings in force at a Frame Start. -/
def frameSettings (x : Pipe) (n : Nat) : Pipe :=
  let cs := x.commits.map (fixEffect x.cfg.lat n)
  let (cs, gen, prm) := applyCommits n cs x.gen x.param
  { x with commits := cs, gen := gen, param := prm }

/-- The commit whose writes come next: the first that has writes and has not sent them all. -/
def nextWrites (x : Pipe) : Option Commit :=
  x.commits.find? writesOpen

/-- A commit of a generation changed. -/
def setCommit (x : Pipe) (c : Commit) : Pipe := { x with commits := x.commits.map (fun d => if d.gen = c.gen then c else d) }

/-- The bus takes what waits for it: settings writes before host transfers (R106). -/
def startBus (s : State) (k : Nat) : State :=
  let q := portOf s k
  if q.busWrite || q.host.isSome then s
  else match q.writers with
    | _ :: _ => setPort s k { q with busWrite := true }
    | [] => match q.hostQueue with
      | t :: r => setPort s k { q with host := some t, hostQueue := r }
      | [] => s

/-- A pipeline takes its place among those that wait for the bus: by the moment that released its writes, and by its index
among those released in the same tick (R106). -/
def placeWriter (s : State) (p : Nat) : List Nat → List Nat
  | [] => [p]
  | q :: t => if (pipeOf s q).relAt = s.time ∧ p < q then p :: q :: t else q :: placeWriter s p t

/-- A pipeline's next commit with writes begins them: they join those that wait for the port's bus (R106, R108). -/
def joinWriters (s : State) (p : Nat) : State :=
  let k := p / 4
  let q := portOf s k
  match nextWrites (pipeOf s p) with
  | some c =>
    if q.writers.contains p then s
    else
      let s := modPipe s p (fun x => setCommit { x with relAt := s.time } (if isWriting c then c else { c with st := .writing 0 }))
      startBus (setPort s k { q with writers := placeWriter s p q.writers }) k
  | none => s

/-- The settings write that is on a port's bus: the sensor's address, and the register address and data with the widths of
SNS_FMT, the most significant byte first (R107). PRESUMED for the order: log entry 83. -/
def busTransfer (s : State) (k : Nat) : Option I3cXfer :=
  if ! (portOf s k).busWrite then none
  else match (portOf s k).writers with
    | [] => none
    | p :: _ =>
      let c := (pipeOf s p).cfg
      (nextWrites (pipeOf s p)).bind (fun m => match m.st with
        | .writing n => (m.writes[n]?).map (fun w =>
          let bs := (leBytes (1 + c.snsFmt % 2) w.1).reverse ++ (leBytes (1 + c.snsFmt / 2 % 2) w.2).reverse
          { addr := c.snsAddr % 128, read := false, len := bs.length, data := bs })
        | _ => none)

/-! ### Frame Start (R96, R104, R109, R112) -/

/-- Edges whose window ended before a Frame Start leave the queue; the edge that matches, if any, and the number missed
(R104). -/
def matchEdge (c : PipeCfg) (t : Nat) : List Nat → Nat → Option Nat × List Nat × Nat
  | [], n => (none, [], n)
  | e :: r, n =>
    if e + c.winMax ≤ t then matchEdge c t r (n + 1)
    else if e + c.winMin ≤ t then (some e, r, n)
    else (none, e :: r, n)

/-- The exposure of a frame: T_EXP, T_UNC, LINE_PERIOD, UNMATCHED, the edges left, and those missed (R104). -/
structure Exposure where
  tExp : Nat
  tUnc : Nat
  period : Nat
  unmatched : Bool
  edges : List Nat
  missed : Nat
deriving DecidableEq, Repr

/-- The exposure of a frame timed from its Frame Start. -/
def untriggered (s : State) (x : Pipe) (unmatched : Bool) (edges : List Nat) (missed : Nat) : Exposure :=
  { tExp := unsignedOf 64 ((s.time : Int) - x.cfg.fsLat), tUnc := 16 + x.cfg.fsJit + refLostU s, period := 0,
    unmatched := unmatched, edges := edges, missed := missed }

/-- The exposure of the frame whose Frame Start arrives now. -/
def exposure (s : State) (p : Nat) (x : Pipe) : Exposure :=
  let t := trigOf s p
  let m := t.sched.mode
  if m = 3 then match x.lineEdge with
    | some e => { tExp := e + x.cfg.expOffset, tUnc := 3 + refLostU s, period := t.sched.period, unmatched := false,
                  edges := x.edges, missed := 0 }
    | none => untriggered s x true x.edges 0
  else if m = 0 then untriggered s x false x.edges 0
  else
    let (e, r, n) := matchEdge x.cfg s.time x.edges 0
    match e with
    | some e => { tExp := e + x.cfg.expOffset, tUnc := 3 + refLostU s, period := 0, unmatched := false, edges := r, missed := n }
    | none => untriggered s x true r n

/-- A new frame at its Frame Start. -/
def newFrame (s : State) (x : Pipe) (n : Nat) (e : Exposure) : Frame :=
  let late := x.commits.any isWriting
  let flags := orFlag (orFlag (orFlag 0 ffUnmatched e.unmatched) ffSettingsLate late) ffPatternFail x.patFailNext
  { cnt := n, gen := x.gen, param := x.param, flags := flags, tExp := e.tExp, tFs := s.time, linePeriod := e.period,
    tUnc := e.tUnc, rcvd := 0, shortLines := 0, longLines := 0, crcLines := 0, codeErrs := 0, dpcCnt := 0, lines := [], next := 0,
    ended := false, hist := [], zones := [] }

/-- The slot of a frame is free: every region flag that covers it is clear (R96, R182). -/
def slotFree (s : State) (c : PipeCfg) (n : Nat) : Bool :=
  match pipeRef s c.fsBase with
  | none => true
  | some r => (slotFlags r (slotOf r n 0)).all (fun f => ! flagIsSet (flagOf s f))

/-- A frame is dropped at its Frame Start (R96, R182, R192). -/
def dropFrame (s : State) (p : Nat) (c : PipeCfg) (n : Nat) : State :=
  let s := postEvent (countPipe s p 1 1) 0x0400 4 p (leBytes 1 p ++ [0, 0, 0] ++ leBytes 4 n)
  let s := match pipeRef s c.fsBase with
    | some r => (slotFlags r (slotOf r n 0)).foldl flagRearm s
    | none => s
  pipeNotice (modPipe s p (fun x => { x with dropped := some n })) p n

/-- A frame begins: its settings, exposure, notice, and slot. -/
def beginFrame (s : State) (p : Nat) : State :=
  let s := skipTest s p
  let n := (pipeOf s p).frameCnt
  let x := frameSettings (pipeOf s p) n
  let e := exposure s p x
  let f := newFrame s x n e
  let free := slotFree s x.cfg n
  let s := setPipe s p { x with
    frameCnt := (n + 1) % 2 ^ 32, edges := e.edges, cur := if free then some f else none,
    patFailNext := x.patFailNext && ! free }
  let s := countPipe (countPipe s p 15 e.missed) p 0 1
  let s := laneFrameStart s p n
  if free then s else dropFrame s p x.cfg n

/-- CSI_FRAME_START: an open frame ends first, with NO_FE (table *Frame anomalies*). -/
def doCsiFrameStart (port vc : Nat) (corrected : Bool) (s : State) : State :=
  if ! portHears s port then s
  else
    let s := countCorrected s port corrected
    match pipeOnVc s port vc with
    | none => s
    | some p =>
      let s := if frameOpen (pipeOf s p) then endFrame s p (2 ^ ffNoFe) else s
      if (pipeOf s p).running then beginFrame s p else s

/-- CSI_FRAME_START (R96, R100, R104, R112). -/
def execCsiFrameStart (port vc : Nat) (corrected : Bool) (s : State) : Host.Outcome State Fault Refusal :=
  .next (doCsiFrameStart port vc corrected s)

/-- CSI_FRAME_END: the open frame ends, the span of the next frame's first line edge begins (R104), and settings writes that
wait begin (R108). DEDUCED: log entry 45. -/
def doCsiFrameEnd (port vc : Nat) (corrected : Bool) (s : State) : State :=
  if ! portHears s port then s
  else
    let s := countCorrected s port corrected
    match pipeOnVc s port vc with
    | none => s
    | some p =>
      let s := if frameOpen (pipeOf s p) then endFrame s p 0 else s
      joinWriters (modPipe s p (fun x => { x with lineEdge := none })) p

/-- CSI_FRAME_END (R100, R106, R108). -/
def execCsiFrameEnd (port vc : Nat) (corrected : Bool) (s : State) : Host.Outcome State Fault Refusal :=
  .next (doCsiFrameEnd port vc corrected s)

/-! ### Commands (R83, R89, R90, R114, R492) -/

/-- The physical lanes of the logical lanes in use are distinct. DESIGN CHOICE: log entry 81. -/
def lanesDistinct (map lanes : Nat) : Bool := decide (((List.range lanes).map (fun i => bitsAt map (2 * i) 2)).Nodup)

/-- CSI_PORT_CONFIG (R83). It enables the controller of the port's sensor bus (DESIGN CHOICE: log entry 80). -/
def cmdCsiPortConfig (port lanes map pol i3cMode r : Nat) (s : State) : State × CmdRes :=
  if 32 ≤ pol then refuseAt s .badField 3
  else if r ≠ 0 then refuseAt s .badField 5
  else if 15 < port then refuseAt s .badParam 0
  else if lanes < 1 ∨ 4 < lanes then refuseAt s .badParam 1
  else if lanesDistinct map lanes = false then refuseAt s .badParam 2
  else if 2 < i3cMode then refuseAt s .badParam 4
  else if portOn s port then refuse s .busy
  else okDone (setPort s port { portOf s port with
    lanes := lanes, map := map, pol := pol, i3cMode := i3cMode, i3cOn := true })

/-- CSI_PORT_CONFIG. -/
def execCsiPortConfig (h : CmdHdr) (port lanes map pol i3cMode r : Nat) (s : State) : Host.Outcome State Fault Refusal :=
  .next (runCommand h 0x0400 (cmdCsiPortConfig port lanes map pol i3cMode r) s)

/-- A pipeline's configuration from its channel entry (table *Pipeline channel body*). -/
def pipeCfgOf (e : List Byte) (dpc : List (Nat × Nat)) : PipeCfg :=
  let m := fieldAt e 10 1
  let o := fieldAt e 11 1
  { vc := fieldAt e 8 1, dt := fieldAt e 9 1, pattern := m % 4, phase := m / 4, deep := bitAt o 0, csc := bitAt o 1,
    nir := bitAt o 2, test := bitAt o 3, width := fieldAt e 12 2, height := fieldAt e 14 2, slots := fieldAt e 16 1,
    lat := fieldAt e 17 1, linePitch := fieldAt e 20 4, planePitch := fieldAt e 24 4, slotPitch := fieldAt e 28 4,
    fsBase := fieldAt e 32 8, statBase := fieldAt e 40 8, snsAddr := fieldAt e 56 1, snsFmt := fieldAt e 57 1,
    expOffset := fieldAt e 60 4, winMin := fieldAt e 64 4, winMax := fieldAt e 68 4, fsLat := fieldAt e 72 4,
    linePeriodMin := fieldAt e 76 4, dpc := dpc, fsJit := fieldAt e 90 2 }

/-- A geometry of a plane reference differs from a channel body's (R512). -/
def geometryDiffers (c : PipeCfg) (u : SrcUse) : Bool :=
  let r := u.ref
  r.base != c.fsBase || r.linePitch != c.linePitch || r.planePitch != c.planePitch || r.slotPitch != c.slotPitch ||
  r.width != c.width || r.height != c.height || r.slots != c.slots || r.fmt != bit01 c.deep ||
  decide (planesOf c < r.planes) || (match u.hdr with
    | some (a, _) => a != c.statBase
    | none => false)

/-- The lanes of loaded graphs have a pipeline as their source: the source A of their nodes with that lane. Source B may read
another pipeline. -/
def laneReaders (s : State) (p : Nat) : List SrcUse :=
  s.nodes.flatMap (fun e => match laneAt s e.2.graph e.2.lane with
    | some l =>
      if e.2.kind = 1 && ! l.remote && l.src == p then (pipeSources (nodeDesc s e.1)).filter (fun u => u.off < 80) else []
    | none => [])

/-- The pipeline that a plane reference with a pipeline header reads is known by its base (R512): those that read pipeline
p are those with its base and, when none has, those of the lanes that it feeds. -/
def pipeReaders (s : State) (p : Nat) (c : PipeCfg) : List SrcUse :=
  readersOf s c.fsBase ++ (laneReaders s p).filter (fun u =>
    ! tabAny (fun q x => q != p && (x.running || x.closing.isSome) && x.cfg.fsBase == u.ref.base) s.pipes)

/-- The first field of a body out of its range (R84, R88, R89). -/
def pipeRange (s : State) (e : List Byte) : Option Nat :=
  let c := pipeCfgOf e []
  let p := fieldAt e 2 2
  let others := (portPipes (p / 4)).filter (fun q => q != p && (pipeOf s q).running)
  if 63 < p then some 2
  else if others.any (fun q => (pipeOf s q).cfg.vc == c.vc) then some 8
  else if c.dt < 0x2A ∨ 0x2D < c.dt then some 9
  else if 1 < c.pattern then some 10
  else if c.nir && c.pattern == 0 then some 11
  else if c.width < 16 ∨ 4096 < c.width ∨ c.width % 2 = 1 then some 12
  else if c.height < 2 ∨ 16384 < c.height ∨ c.height % 2 = 1 then some 14
  else if c.slots ≠ 2 ∧ c.slots ≠ 4 ∧ c.slots ≠ 8 then some 16
  else if c.lat < 1 ∨ 8 < c.lat then some 17
  else if c.linePitch % 64 ≠ 0 ∨ c.linePitch < c.width * outBytes c then some 20
  else if c.planePitch % 64 ≠ 0 ∨ c.planePitch < c.height * c.linePitch then some 24
  else if c.slotPitch % 64 ≠ 0 ∨ c.slotPitch < planesOf c * c.planePitch then some 28
  else if c.fsBase % 64 ≠ 0 then some 32
  else if c.statBase % 64 ≠ 0 then some 40
  else if fieldAt e 48 8 % 64 ≠ 0 ∨ fsBase ≤ fieldAt e 48 8 then some 48
  else if c.winMax ≤ c.winMin then some 68
  else if c.linePeriodMin < 8 * c.width then some 76
  else if fieldAt e 80 8 % 4 ≠ 0 ∨ (fieldAt e 88 2 ≠ 0 ∧ fsBase ≤ fieldAt e 80 8) then some 80
  else if 1024 < fieldAt e 88 2 then some 88
  else if (pipeReaders s p c).any (geometryDiffers c) then some 12
  else none

/-- The entries of a defect list. -/
def dpcEntries (bs : List Byte) : List (Nat × Nat) :=
  (List.range (bs.length / 4)).map (fun i => (fieldAt bs (4 * i) 2, fieldAt bs (4 * i + 2) 2))

/-- The first entry of a list outside the frame or out of order (R89). -/
def dpcBad (w h : Nat) (l : List (Nat × Nat)) : Option Nat :=
  (List.range l.length).find? (fun i =>
    let e := l.getD i (0, 0)
    let b := l.getD (i - 1) (0, 0)
    decide (w ≤ e.1) || decide (h ≤ e.2) || (decide (0 < i) && ! (decide (b.2 < e.2) || (b.2 == e.2 && decide (b.1 < e.1)))))

/-- A range of the frame store every byte of which a domain may write (R89). -/
def writable (s : State) (dom a len : Nat) : Bool := inRange a len fsBase fsSize && fwPermits s dom true a len

/-- The offset of the first part of a pipeline's footprint that it may not write (R89). -/
def footprintBad (s : State) (dom : Nat) (c : PipeCfg) : Option Nat :=
  let ok := (List.range c.slots).all (fun k => (List.range (planesOf c)).all (fun p => (List.range c.height).all (fun y =>
    writable s dom (outAddr c k p y) (c.width * outBytes c))))
  if ! ok then some 32
  else if (List.range c.slots).all (fun k => writable s dom (c.statBase + k * 9280) 9280) then none else some 40

/-- The parameter block and the defect list, read whole and checked (R89, R90, R511). -/
def readSetup (s : State) (dom chan : Nat) (e : List Byte) : State × Sum CmdRes (List Byte × List (Nat × Nat)) :=
  let c := pipeCfgOf e []
  let (s, st, prm) := readStruct s 13 0 dom (fieldAt e 48 8) paramLen
  if st ≠ .ok then (s, .inl (.done st []))
  else match paramReserved prm, paramRange prm c.width c.height (toneMax c) with
    | some o, _ => (s, .inl (.done .badField (detailOf o chan 8)))
    | none, some o => (s, .inl (.done .badParam (detailOf o chan 8)))
    | none, none =>
      let n := fieldAt e 88 2
      let (s, st, bs) := if n = 0 then (s, Status.ok, []) else readStruct s 13 0 dom (fieldAt e 80 8) (4 * n)
      if st ≠ .ok then (s, .inl (.done st []))
      else match dpcBad c.width c.height (dpcEntries bs) with
        | some i => (s, .inl (.done .badParam (detailOf (4 * i) chan 9)))
        | none => (s, .inr (prm, dpcEntries bs))

/-- A commit kept for the start has a parameter block that the new geometry does not allow. DEDUCED: log entry 46. -/
def keptBad (x : Pipe) (c : PipeCfg) : Option Nat :=
  x.commits.findSome? (fun k => k.param.bind (fun p => paramRange p c.width c.height (toneMax c)))

/-- A commit that is pending at a start is kept for it. -/
def keepCommit (c : Commit) : Commit := { c with kept := ! c.applied }

/-- The pipeline as CAMERA_START leaves it. Commits kept from before apply whole with its first frame, and their writes begin
at once (R107, R114). -/
def startedPipe (x : Pipe) (chan dom : Nat) (c : PipeCfg) (prm : List Byte) : Pipe :=
  { x with chan := chan, dom := dom, cfg := c, running := true, stopAt := none, frameCnt := 0, param := prm,
           commits := x.commits.map keepCommit, cur := none, dropped := none, closing := none, lineEdge := none, bufFill := 0 }

/-- CAMERA_START (R80, R84, R88, R89, R90, R107). DEDUCED: log entry 29. -/
def cmdCameraStart (h : CmdHdr) (channel r : Nat) (s : State) : State × CmdRes :=
  if r ≠ 0 then refuseAt s .badField 2
  else match fetchEntry s h.domain channel 2 0 with
    | (s, .inl r) => (s, r)
    | (s', .inr e) =>
      let c := pipeCfgOf e []
      let p := fieldAt e 2 2
      match pipeRange s e with
      | some o => (s', .done .badParam (detailOf o channel 2))
      | none => match readSetup s' h.domain channel e with
        | (s'', .inl r) => (s'', r)
        | (s'', .inr (prm, dpc)) =>
          match keptBad (pipeOf s p) c, footprintBad s h.domain c with
          | some o, _ => (s'', .done .badParam (detailOf o channel 8))
          | none, some o => (s'', .done .range (detailOf o channel 2))
          | none, none =>
            if (pipeOf s p).running || (pipeOf s p).closing.isSome then refuse s'' .busy
            else if ! islandRuns s (34 + p / 4) then refuse s'' .islandOff
            else
              let s'' := skipTest s'' p
              okDone (joinWriters (setPipe s'' p (startedPipe (pipeOf s'' p) channel h.domain { c with dpc := dpc } prm)) p)

/-- CAMERA_START. -/
def execCameraStart (h : CmdHdr) (channel r : Nat) (s : State) : Host.Outcome State Fault Refusal :=
  .next (runCommand h 0x0401 (cmdCameraStart h channel r) s)

/-- WAIT_MS of CAMERA_STOP in ticks (R114). -/
def waitTicks (ms : Nat) : Nat := (if ms = 0 then 100 else ms) * 4000000

/-- CAMERA_STOP (R114). -/
def cmdCameraStop (pipe r waitMs : Nat) (s : State) : State × CmdRes :=
  let x := pipeOf s pipe
  if pipe ≤ 63 ∧ x.running = false then refuse s .state
  else if r ≠ 0 then refuseAt s .badField 1
  else if 63 < pipe then refuseAt s .badParam 0
  else if 2000 < waitMs then refuseAt s .badParam 2
  else if x.stopAt.isSome then refuse s .busy
  else if frameOpen x then
    (setPipe s pipe { x with stopAt := some (s.time + waitTicks waitMs) }, .wait (.cameraStop pipe))
  else
    let s := stopNow s pipe
    if x.closing.isSome then (s, .wait (.cameraStop pipe)) else okDone s

/-- CAMERA_STOP. -/
def execCameraStop (h : CmdHdr) (pipe r waitMs : Nat) (s : State) : Host.Outcome State Fault Refusal :=
  .next (runCommand h 0x0402 (cmdCameraStop pipe r waitMs) s)

/-- CAMERA_STOP_TIMEOUT: nothing ended the open frame within WAIT_MS; it ends as SHORT and NO_FE.
DEDUCED: log entry 45. -/
def doCameraStopTimeout (pipe : Nat) (s : State) : State :=
  let x := pipeOf s pipe
  match x.stopAt with
  | none => s
  | some t =>
    if frameOpen x then
      modPipe (endFrame (advanceTo s t) pipe (2 ^ ffShort + 2 ^ ffNoFe)) pipe (fun x => { x with lineEdge := none })
    else s

/-- CAMERA_STOP_TIMEOUT (R114). -/
def execCameraStopTimeout (pipe : Nat) (s : State) : Host.Outcome State Fault Refusal := .next (doCameraStopTimeout pipe s)

/-- CAMERA_STATUS (R101). -/
def cmdCameraStatus (pipe clear r : Nat) (s : State) : State × CmdRes :=
  if r ≠ 0 then refuseAt s .badField 2
  else if 63 < pipe then refuseAt s .badParam 0
  else if 1 < clear then refuseAt s .badParam 1
  else
    let q := portOf s (pipe / 4)
    let x := pipeOf s pipe
    let out := (q.cnt ++ x.cnt).flatMap (leBytes 4)
    okWith (if clear = 0 then s
      else setPipe (setPort s (pipe / 4) { q with cnt := List.replicate 6 0 }) pipe { x with cnt := List.replicate 16 0 }) out

/-- CAMERA_STATUS. -/
def execCameraStatus (h : CmdHdr) (pipe clear r : Nat) (s : State) : Host.Outcome State Fault Refusal :=
  .next (runCommand h 0x0403 (cmdCameraStatus pipe clear r) s)

end Sys2Proof.Machine
end

