-- ==== Sys2Proof/Machine/Sensor.lean ====
section
/-! DEFINITION. Trigger schedules and their pulses (R102 to R104), settings commits and the sensor buses (R105 to R110). -/

namespace Sys2Proof.Machine

open Sys2Proof

/-! ### Triggers (R102, R103) -/

/-- The active level of a schedule's pin. -/
def activePin (x : TrigSched) : Pin := if x.activeLow then .lo else .hi

/-- The inactive level of a schedule's pin. DEDUCED: log entry 47. -/
def inactivePin (x : TrigSched) : Pin := if x.activeLow then .hi else .lo

/-- The switch point of a pending update, once the running schedule determines it: its next active edge at or after
T_START, which in mode 3 must be the first line of a frame, or T_START when no edge is left. DEDUCED: log entry 47. -/
def switchPoint (t : Trig) (firstLine : Bool) : Option Nat :=
  match t.update with
  | none => none
  | some u => match t.nextEdge with
    | none => some u.start
    | some e => if u.start ≤ e ∧ (t.sched.mode ≠ 3 ∨ firstLine = true) then some e else none

/-- No active edge has come since the previous Frame End or the start: the next edge is a frame's first line (R104). -/
def atFirstLine (s : State) (n : Nat) : Bool := (pipeOf s n).lineEdge.isNone

/-- The trigger unit's island runs. -/
def trigRuns (s : State) (n : Nat) : Bool := decide (n < 64) && islandRuns s (34 + n / 4)

/-- TRIGGER_SET (R102, R103). -/
def cmdTriggerSet (trig mode polarity r period tStart width count : Nat) (s : State) : State × CmdRes :=
  let periodic := decide (2 ≤ mode)
  if r ≠ 0 then refuseAt s .badField 3
  else if 63 < trig then refuseAt s .badParam 0
  else if 3 < mode then refuseAt s .badParam 1
  else if mode ≠ 0 ∧ 1 < polarity then refuseAt s .badParam 2
  else if periodic ∧ period < 800 then refuseAt s .badParam 4
  else if mode ≠ 0 ∧ (width < 32 ∨ 4000000 < width ∨ (periodic ∧ period ≤ width)) then refuseAt s .badParam 16
  else if tStart < s.time + 40000 then refuse s .late
  else
    let t := trigOf s trig
    let u : TrigSched :=
      { mode := mode, activeLow := polarity == 1, start := tStart, period := period, width := width, count := count }
    let idle := mode != 0 && t.nextEdge.isNone && t.pulseEnd.isNone
    okDone (setTrig s trig { t with update := some u, pin := if idle then inactivePin u else t.pin })

/-- TRIGGER_SET. -/
def execTriggerSet (h : CmdHdr) (trig mode polarity r period tStart width count : Nat) (s : State) :
    Host.Outcome State Fault Refusal :=
  .next (runCommand h 0x0404 (cmdTriggerSet trig mode polarity r period tStart width count) s)

/-- The new schedule applies from its switch point. DEDUCED: log entry 47. -/
def switchTrig (t : Trig) (u : TrigSched) (at_ : Nat) : Trig :=
  { t with
    sched := { u with start := at_ }, emitted := 0, update := none,
    nextEdge := if u.mode = 0 then none else some at_,
    pin := if t.pulseEnd.isSome then t.pin else if u.mode = 0 then .z else inactivePin u }

/-- A pulse begins at its edge. While another is in progress, which completes at its full width, the pin stays with that one
(R103). DEDUCED: log entry 47. -/
def beginPulse (t : Trig) (e : Nat) : Trig :=
  let x := t.sched
  match t.pulseEnd with
  | some pe => if e < pe then { t with laterEnds := t.laterEnds ++ [(e + x.width, activePin x)] }
               else { t with pulseEnd := some (e + x.width), laterEnds := [], pin := activePin x }
  | none => { t with pulseEnd := some (e + x.width), pin := activePin x }

/-- A pulse ends: one that began in it and lasts longer goes on; else the pin returns to the inactive level, or to high
impedance when no pulse is left. -/
def endPulse (t : Trig) (e : Nat) : Trig :=
  match t.laterEnds.filter (fun o => decide (e < o.1)) with
  | o :: r => { t with pulseEnd := some o.1, laterEnds := r, pin := o.2 }
  | [] => { t with pulseEnd := none, laterEnds := [], pin := if t.nextEdge.isNone then .z else inactivePin t.sched }

/-- TRIGGER_SWITCH_POINT. -/
def doTriggerSwitchPoint (trig : Nat) (s : State) : State :=
  let t := trigOf s trig
  match t.update, switchPoint t (atFirstLine s trig) with
  | some u, some e => if trigRuns s trig then setTrig (advanceTo s e) trig (switchTrig t u e) else s
  | _, _ => s

/-- TRIGGER_SWITCH_POINT (R103). -/
def execTriggerSwitchPoint (trig : Nat) (s : State) : Host.Outcome State Fault Refusal := .next (doTriggerSwitchPoint trig s)

/-- The edge of a pulse after n pulses of a schedule have been emitted, if one is left. -/
def edgeAfter (x : TrigSched) (n e : Nat) : Option Nat :=
  if x.mode = 1 then none
  else if x.count ≠ 0 ∧ x.count ≤ n then none
  else some (e + x.period)

/-- An edge joins the queue of a pipeline in modes 1 and 2; a full queue loses its oldest, counted as missed (R104). -/
def queueEdge (s : State) (p e : Nat) : State :=
  let x := pipeOf s p
  if x.edges.length < 4 then setPipe s p { x with edges := x.edges ++ [e] }
  else countPipe (setPipe s p { x with edges := x.edges.drop 1 ++ [e] }) p 15 1

/-- The first active edge of a frame in mode 3 is its line edge (R104). -/
def lineEdgeAt (s : State) (p e : Nat) : State :=
  modPipe s p (fun x => { x with lineEdge := x.lineEdge.orElse (fun _ => some e) })

/-- CAM_TRIG_PULSE: the running schedule's next active edge, which is not the switch point of an update. -/
def doCamTrigPulse (trig : Nat) (s : State) : State :=
  let t := trigOf s trig
  match t.nextEdge with
  | none => s
  | some e =>
    if ! trigRuns s trig || (switchPoint t (atFirstLine s trig)).isSome then s
    else
      let x := t.sched
      let s := setTrig (advanceTo s e) trig (beginPulse { t with
        emitted := t.emitted + 1, nextEdge := edgeAfter x (t.emitted + 1) e } e)
      if x.mode = 3 then lineEdgeAt s trig e else queueEdge s trig e

/-- CAM_TRIG_PULSE (R102, R104). -/
def execCamTrigPulse (trig : Nat) (s : State) : Host.Outcome State Fault Refusal := .next (doCamTrigPulse trig s)

/-- CAM_TRIG_PULSE_END: the inactive edge of the pulse in progress. -/
def doCamTrigPulseEnd (trig : Nat) (s : State) : State :=
  let t := trigOf s trig
  match t.pulseEnd with
  | none => s
  | some e =>
    if ! trigRuns s trig then s
    else setTrig (advanceTo s e) trig (endPulse t e)

/-- CAM_TRIG_PULSE_END (R102, R103). -/
def execCamTrigPulseEnd (trig : Nat) (s : State) : Host.Outcome State Fault Refusal := .next (doCamTrigPulseEnd trig s)

/-! ### Settings commits (R107 to R110) -/

/-- The parameter block of a commit, read whole and checked (R90, R511): against the geometry and depth in force when the
pipeline has been started, against the ranges that no geometry decides before. DEDUCED: log entry 46. -/
def readParam (s : State) (dom : Nat) (x : Pipe) (addr : Nat) : State × Sum CmdRes (Option (List Byte)) :=
  if addr = 0 then (s, .inr none)
  else
    let (s, st, prm) := readStruct s 13 0 dom addr paramLen
    if st ≠ .ok then (s, .inl (.done st []))
    else match paramReserved prm,
        paramRange prm x.cfg.width x.cfg.height (if x.cfg.width = 0 then 1023 else toneMax x.cfg) with
      | some o, _ => (s, .inl (.done .badField (detailOf o x.chan 8)))
      | none, some o => (s, .inl (.done .badParam (detailOf o x.chan 8)))
      | none, none => (s, .inr (some prm))

/-- The register writes of a commit, as (address, data). -/
def readWrites (s : State) (dom addr count : Nat) : State × Sum CmdRes (List (Nat × Nat)) :=
  if count = 0 then (s, .inr [])
  else
    let (s, st, bs) := readStruct s 13 0 dom addr (4 * count)
    if st ≠ .ok then (s, .inl (.done st [])) else (s, .inr (dpcEntries bs))

/-- A commit accepted: it takes the pipeline's next generation. DEDUCED: log entry 46. -/
def addCommit (s : State) (p : Nat) (prm : Option (List Byte)) (ws : List (Nat × Nat)) : State :=
  modPipe s p (fun x => { x with
    nextGen := (x.nextGen + 1) % 65536,
    commits := x.commits ++
      [{ gen := x.nextGen, param := prm, writes := ws, accepted := s.time, kept := false, applied := false, st := .waiting }] })

/-- SENSOR_COMMIT (R107). DEDUCED: log entry 47. -/
def cmdSensorCommit (h : CmdHdr) (pipe r count param writes : Nat) (s : State) : State × CmdRes :=
  let x := pipeOf s pipe
  if r ≠ 0 then refuseAt s .badField 1
  else if 63 < pipe then refuseAt s .badParam 0
  else if 256 < count then refuseAt s .badParam 2
  else if param % 64 ≠ 0 ∨ fsBase ≤ param then refuseAt s .badParam 4
  else if count ≠ 0 ∧ (writes % 4 ≠ 0 ∨ fsBase ≤ writes) then refuseAt s .badParam 12
  else match readParam s h.domain x param with
    | (s', .inl e) => (s', e)
    | (s', .inr prm) => match readWrites s' h.domain writes count with
      | (s'', .inl e) => (s'', e)
      | (s'', .inr ws) =>
        if 4 ≤ (x.commits.filter (fun c => ! c.applied)).length then refuse s .busy
        else okWith (addCommit s'' pipe prm ws) (leBytes 2 x.nextGen ++ leBytes 2 0)

/-- SENSOR_COMMIT. -/
def execSensorCommit (h : CmdHdr) (pipe r count param writes : Nat) (s : State) : Host.Outcome State Fault Refusal :=
  .next (runCommand h 0x0405 (cmdSensorCommit h pipe r count param writes) s)

/-- A commit whose writes a start of the pipeline releases, not a Frame End (R107). -/
def startOwed (x : Pipe) (c : Commit) : Bool := (c.kept && x.running) || c.applied

/-- A commit after a write that the sensor took. -/
def writeTaken (c : Commit) (n : Nat) : Commit :=
  { c with st := if n + 1 < c.writes.length then .writing (n + 1) else .written }

/-- The bus is free again; the pipeline waits on for the writes of a further commit that its start released (R107, R108). -/
def releaseBus (s : State) (p : Nat) (ended : Bool) : State :=
  let k := p / 4
  let q := portOf s k
  let x := pipeOf s p
  let again := ended && (match nextWrites x with
    | some c => startOwed x c
    | none => false)
  let s := setPort s k { q with busWrite := false, writers := if ended then q.writers.drop 1 else q.writers }
  startBus (if again then joinWriters s p else s) k

/-- SENSOR_NACK (R110): the rest of the commit is dropped. -/
def dropCommit (s : State) (p : Nat) (c : Commit) : State :=
  let s := modPipe s p (fun x => { x with commits := x.commits.filter (fun d => d.gen != c.gen) })
  raiseDoubt s 0x0402 4 p (leBytes 1 p ++ [0] ++ leBytes 2 c.gen) rowSensor kindPipe p

/-- SENSOR_WRITE_DONE: the settings write on the pipeline's bus ends; `ack` says that the sensor took it. -/
def doSensorWriteDone (pipe : Nat) (ack : Bool) (s : State) : State :=
  let q := portOf s (pipe / 4)
  let x := pipeOf s pipe
  if ! q.busWrite || q.writers.head? != some pipe || ! islandRuns s (34 + pipe / 4) then s
  else match nextWrites x with
    | none => s
    | some c => match c.st with
      | .writing n =>
        if ack then
          releaseBus (setPipe s pipe (setCommit x (writeTaken c n))) pipe (decide (c.writes.length ≤ n + 1))
        else releaseBus (dropCommit s pipe c) pipe true
      | _ => s

/-- SENSOR_WRITE_DONE (R106, R108, R110). -/
def execSensorWriteDone (pipe : Nat) (ack : Bool) (s : State) : Host.Outcome State Fault Refusal :=
  .next (doSensorWriteDone pipe ack s)

/-! ### Host transfers, in-band interrupts and hot-join (R105, R106) -/

/-- SENSOR_IBI: an in-band interrupt with up to 8 payload bytes. -/
def doSensorIbi (port addr : Nat) (data : List Byte) (s : State) : State :=
  if 15 < port || ! islandRuns s (34 + port) then s
  else
    let d := data.take 8
    postEvent s 0x0401 11 (34 + port) (leBytes 1 port ++ leBytes 1 addr ++ leBytes 1 d.length ++ [0] ++ padTo 8 d)

/-- SENSOR_IBI (R105). -/
def execSensorIbi (port addr : Nat) (data : List Byte) (s : State) : Host.Outcome State Fault Refusal :=
  .next (doSensorIbi port addr data s)

/-- I3C_TRANSFER (R106): the response follows the transfer. DEDUCED: log entry 29. -/
def cmdI3cTransfer (port addr dir len : Nat) (data : List Byte) (s : State) : State × CmdRes :=
  if 15 < port then refuseAt s .badParam 0
  else if 1 < dir then refuseAt s .badParam 2
  else if len < 1 ∨ 64 < len then refuseAt s .badParam 3
  else if ! islandRuns s (34 + port) then refuse s .islandOff
  else
    let q := portOf s port
    let t : I3cXfer := { addr := addr, read := dir == 1, len := len, data := data.take len }
    (startBus (setPort s port { q with hostQueue := q.hostQueue ++ [t] }) port, .wait (.i3c port))

/-- I3C_TRANSFER. -/
def execI3cTransfer (h : CmdHdr) (port addr dir len : Nat) (data : List Byte) (s : State) :
    Host.Outcome State Fault Refusal :=
  .next (runCommand h 0x0406 (cmdI3cTransfer port addr dir len data) s)

/-- The status of a transfer that the device on the bus refused: the manual names none (log entry 35). -/
def i3cRefused (s : State) (port : Nat) : Status := .boot (Config.freeNat s.freeCnt port % 65536)

/-- I3C_TRANSFER_DONE: the host transfer on the bus ends, with the bytes that a read brought. -/
def doI3cTransferDone (port : Nat) (ack : Bool) (data : List Byte) (s : State) : State :=
  let q := portOf s port
  match q.host with
  | none => s
  | some t =>
    if ! islandRuns s (34 + port) then s
    else
      let s' := if ack then answer s (.i3c port) .ok (if t.read then padTo 64 (data.take t.len) else [])
        else answer { s with freeCnt := s.freeCnt + 1 } (.i3c port) (i3cRefused s port) []
      startBus (setPort s' port { q with host := none }) port

/-- I3C_TRANSFER_DONE (R106). -/
def execI3cTransferDone (port : Nat) (ack : Bool) (data : List Byte) (s : State) : Host.Outcome State Fault Refusal :=
  .next (doI3cTransferDone port ack data s)

/-- HOT_JOIN: the request is refused with NACK, and the device keeps nothing of it. DEDUCED: log entry 46. -/
def doHotJoin (_port : Nat) (s : State) : State := s

/-- HOT_JOIN (R105). -/
def execHotJoin (port : Nat) (s : State) : Host.Outcome State Fault Refusal := .next (doHotJoin port s)

end Sys2Proof.Machine
end

