-- ==== Sys2Proof/Machine/Engine.lean ====
section
/-! DEFINITION. What every vision engine shares: samples with the class of the granule they came from (R137), planes read and
written (R117, R138), the mean of coded samples (R125, R133), source and output headers (R120, R121, R142), region flags
(R139), and the arithmetic of the pyramid (R122 to R125) and warp (R127 to R136) engines. -/

namespace Sys2Proof.Machine

open Sys2Proof

/-! ### Samples and planes -/

/-- A sample: its value, and whether anything that fed it came from a failing or poisoned granule. -/
structure Px where
  v : Int
  bad : Bool
deriving DecidableEq, Repr

/-- A plane as rows of samples. -/
abbrev Grid := List (List Px)

/-- Columns of a plane. -/
def gWidth (g : Grid) : Nat := (g.headD []).length

/-- The sample at an index, clamped to the plane's edges (R124). -/
def gAt (g : Grid) (x y : Int) : Px :=
  let row := (g[(clampInt y 0 ((g.length : Int) - 1)).toNat]?).getD []
  (row[(clampInt x 0 ((row.length : Int) - 1)).toNat]?).getD { v := 0, bad := false }

/-- A plane from a function of column and row. -/
def gridOf (w h : Nat) (f : Nat → Nat → Px) : Grid := (List.range h).map (fun y => (List.range w).map (fun x => f x y))

/-- A value that is a special code (R116, R143). -/
def isCode (v : Int) : Bool := decide (0x7FF0 ≤ v) && decide (v ≤ 0x7FFF)

/-- The samples of a plane that are codes. -/
def codeCount (fmt : Nat) (g : Grid) : Nat :=
  if fmt = 2 then g.foldl (fun n r => n + (r.filter (fun p => isCode p.v)).length) 0 else 0

/-- A row of samples from an address, read granule by granule as `writeRow` writes it: one granule is one access of R17
(DESIGN CHOICE: log entry 79). A read that is not OK delivers zeros that count as poisoned (R18). -/
def readRow (s : State) (dom : Nat) (r : PRef) (a : Nat) : State × List Px :=
  let sb := sampleBytes r
  let per := 64 / sb
  (List.range (cdiv r.width per)).foldl (fun (q : State × List Px) k =>
    let g := a + 64 * k
    let (s', st, bs) := readLocal q.1 dom g 64
    let bad := decide (st ≠ .ok) || ! goodGran s (granOf g)
    (s', q.2 ++ (List.range (min per (r.width - k * per))).map (fun x =>
      let n := fieldAt bs (x * sb) sb
      { v := if r.fmt = 2 then signedOf 16 n else n, bad := bad }))) (s, [])

/-- A plane of a slot. -/
def readPlane (s : State) (dom : Nat) (r : PRef) (slot p : Nat) : State × Grid :=
  (List.range r.height).foldl (fun (q : State × Grid) y =>
    let (s, row) := readRow q.1 dom r (lineAddr r slot p y)
    (s, q.2 ++ [row])) (s, [])

/-- Every plane of a slot. -/
def readPlanes (s : State) (dom : Nat) (r : PRef) (slot : Nat) : State × List Grid :=
  (List.range r.planes).foldl (fun (q : State × List Grid) p =>
    let (s, g) := readPlane q.1 dom r slot p
    (s, q.2 ++ [g])) (s, [])

/-- A plane of a list of planes. -/
def planeAt (gs : List Grid) (p : Nat) : Grid := (gs[p]?).getD []

/-- The failing granules of some planes of a slot. -/
def planeFails (s : State) (r : PRef) (slot : Nat) (planes : List Nat) : List Nat :=
  planes.flatMap (fun p => (List.range r.height).flatMap (fun y =>
    rangeFailing s (lineAddr r slot p y) (r.width * sampleBytes r)))

/-- Some sample of a plane is bad. -/
def gridBad (g : Grid) : Bool := g.any (fun r => r.any (fun p => p.bad))

/-- The stored bytes of a sample. -/
def sampleOut (fmt : Nat) (v : Int) : List Byte := if fmt = 0 then [byteOf (unsignedOf 8 v)] else leBytes 2 (unsignedOf 16 v)

/-- One line written as whole granules, each one access, its last filled with zeros (R138); the count of poisoned granules.
DESIGN CHOICE: log entry 79. -/
def writeRow (s : State) (dom fmt a : Nat) (row : List Px) : State × Nat :=
  let sb := if fmt = 0 then 1 else 2
  let per := 64 / sb
  (List.range (cdiv row.length per)).foldl (fun (q : State × Nat) k =>
    let px := (row.drop (k * per)).take per
    let bad := px.any (fun p => p.bad)
    ((writeLocal q.1 dom (a + 64 * k) (padTo 64 (px.flatMap (fun p => sampleOut fmt p.v))) bad).1, q.2 + bit01 bad)) (s, 0)

/-- A plane written to a slot. -/
def writePlane (s : State) (dom : Nat) (r : PRef) (slot p : Nat) (g : Grid) : State × Nat :=
  ((List.range g.length).zip g).foldl (fun (q : State × Nat) e =>
    let (s, n) := writeRow q.1 dom r.fmt (lineAddr r slot p e.1) e.2
    (s, q.2 + n)) (s, 0)

/-- Planes written to a slot. -/
def writePlanes (s : State) (dom : Nat) (r : PRef) (slot : Nat) (gs : List Grid) : State × Nat :=
  ((List.range gs.length).zip gs).foldl (fun (q : State × Nat) e =>
    let (s, n) := writePlane q.1 dom r slot e.1 e.2
    (s, q.2 + n)) (s, 0)

/-! ### Coded means (R125, R133) -/

/-- Weighted samples. -/
abbrev Taps := List (Int × Px)

/-- Some tap is bad. -/
def tapsBad (t : Taps) : Bool := t.any (fun e => e.2.bad)

/-- The weighted sum of the taps. -/
def tapsSum (t : Taps) : Int := t.foldl (fun a e => a + e.1 * e.2.v) 0

/-- The code of the largest total weight, the lowest on a tie. -/
def heaviestCode (t : Taps) : Int :=
  let w := fun (c : Int) => (t.filter (fun e => e.2.v == c)).foldl (fun a e => a + e.1) 0
  ((List.range 16).foldl (fun (b : Int × Int) (k : Nat) =>
    let c : Int := 0x7FF0 + (k : Int)
    let x := if t.any (fun e => e.2.v == c) then w c else -1
    if b.1 < x then (x, c) else b) (-1, 0x7FF0)).2

/-- The mean of the value taps divided by `d`, when they weigh at least `thr`; else the heaviest code. -/
def codedMean (t : Taps) (thr d : Int) : Int :=
  let vs := t.filter (fun e => ! isCode e.2.v)
  let wv := vs.foldl (fun a e => a + e.1) 0
  if thr ≤ wv then clampInt ((2 * tapsSum vs + wv * d) / (2 * wv * d)) (-32768) 32751 else heaviestCode t

/-! ### The pyramid (R123 to R125) -/

/-- The separable kernel. -/
def kern (i : Nat) : Int := match i with
  | 0 => 1
  | 1 => 4
  | 2 => 6
  | 3 => 4
  | _ => 1

/-- The 25 taps of the kernel about a sample. -/
def kernTaps (g : Grid) (x y : Int) : Taps :=
  (List.range 5).flatMap (fun j => (List.range 5).map (fun i =>
    (kern i * kern j, gAt g (x + (i : Int) - 2) (y + (j : Int) - 2))))

/-- The kernel's result at a sample of U8 or U10. -/
def kernMean (t : Taps) : Px := { v := (tapsSum t + 128) / 256, bad := tapsBad t }

/-- One sample of the next level. -/
def pyrPx (fmt : Nat) (vec : Bool) (g : Grid) (x y : Nat) : Px :=
  let t := kernTaps g (2 * x : Nat) (2 * y : Nat)
  if fmt = 2 then { v := codedMean t 128 (if vec then 2 else 1), bad := tapsBad t } else kernMean t

/-- The next level of a plane. -/
def halfGrid (fmt : Nat) (vec : Bool) (g : Grid) : Grid :=
  gridOf ((gWidth g + 1) / 2) ((g.length + 1) / 2) (pyrPx fmt vec g)

/-- The planes of each of `n` levels, from level 1. -/
def pyrLevels (fmt : Nat) (vec : Bool) : Nat → List Grid → List (List Grid)
  | 0, _ => []
  | n + 1, gs =>
    let next := gs.map (halfGrid fmt vec)
    next :: pyrLevels fmt vec n next

/-! ### The warp (R127 to R136) -/

/-- The map of a side, as its 40 bytes and, in mesh mode, the points. -/
structure WMap where
  homography : Bool
  field : List Byte
  points : List Byte
deriving DecidableEq, Repr

/-- A mesh point's coordinate: 0 for X, 4 for Y. -/
def meshAt (m : WMap) (k l off : Nat) : Int := sfieldAt m.points (8 * (l * fieldAt m.field 10 2 + k) + off) 4

/-- A coordinate in mesh mode (R129). -/
def meshCoord (m : WMap) (u v off : Nat) : Int :=
  let gx := fieldAt m.field 8 1
  let gy := fieldAt m.field 9 1
  let k := u / 2 ^ gx
  let a : Int := (u % 2 ^ gx : Nat)
  let l := v / 2 ^ gy
  let b : Int := (v % 2 ^ gy : Nat)
  let sx : Int := 2 ^ gx
  let sy : Int := 2 ^ gy
  (meshAt m k l off * (sx - a) * (sy - b) + meshAt m (k + 1) l off * a * (sy - b) + meshAt m k (l + 1) off * (sx - a) * b +
    meshAt m (k + 1) (l + 1) off * a * b + 2 ^ (gx + gy - 1)) / 2 ^ (gx + gy)

/-- dd of R130. -/
def homDen (f : List Byte) (u v : Nat) : Int :=
  sfieldAt f 24 4 * (u : Int) + sfieldAt f 28 4 * (v : Int) + (fieldAt f 32 4 : Int) * 1024

/-- A coordinate in homography mode; `off` is 0 for X and 12 for Y (R130). -/
def homCoord (f : List Byte) (u v off : Nat) : Int :=
  let n := sfieldAt f off 4 * (u : Int) + sfieldAt f (off + 4) 4 * (v : Int) + sfieldAt f (off + 8) 4 * 256
  let d := homDen f u v
  (n * 8589934592 + d) / (2 * d)

/-- The source coordinate of an output pixel (R128). -/
def mapCoord (m : WMap) (u v : Nat) : Int × Int :=
  if m.homography then (satCoord (homCoord m.field u v 0), satCoord (homCoord m.field u v 12))
  else (satCoord (meshCoord m u v 0), satCoord (meshCoord m u v 4))

/-- The output of a pixel from its taps (R131, R133). -/
def warpValue (interp fmt : Nat) (t : Taps) : Int :=
  match interp with
  | 0 => tapsSum t
  | 1 => if fmt = 2 then codedMean t 32768 1 else (tapsSum t + 32768) / 65536
  | _ => clampInt ((tapsSum t + 8388608) / 16777216) 0 (if fmt = 0 then 255 else 1023)

/-- The taps of an output pixel of a plane. -/
def tapsOf (g : Grid) (ts : List (Int × Int × Int)) : Taps := ts.map (fun t => (t.1, gAt g t.2.1 t.2.2))

/-- The pixel maps outside the source (R132). -/
def isOob (w h : Nat) (c : Int × Int) : Bool :=
  decide (c.1 < -32768) || decide ((w : Int) * 65536 - 32768 ≤ c.1) || decide (c.2 < -32768) ||
  decide ((h : Int) * 65536 - 32768 ≤ c.2)

/-- The spread of some integers is less than 48 px. DEDUCED: log entry 49. -/
def spanLocal (l : List Int) : Bool :=
  decide (l.foldl max (l.headD 0) - l.foldl min (l.headD 0) < 48 * 65536)

/-- A map is local over a destination of w by h pixels (R135). -/
def mapLocal (m : WMap) (w h : Nat) : Bool :=
  (List.range (cdiv h 16)).all (fun j => (List.range (cdiv w 16)).all (fun i =>
    let x0 := 16 * i
    let y0 := 16 * j
    let x1 := min (w - 1) (x0 + 15)
    let y1 := min (h - 1) (y0 + 15)
    let cs := [mapCoord m x0 y0, mapCoord m x1 y0, mapCoord m x0 y1, mapCoord m x1 y1]
    spanLocal (cs.map (·.1)) && spanLocal (cs.map (·.2))))

/-- Bytes of a mesh. -/
def meshBytes (f : List Byte) : Nat := 8 * fieldAt f 10 2 * fieldAt f 12 2

/-! ### Headers (R120, R121, R142) -/

/-- A header as an engine reads it. -/
def parseHdr (engine : Bool) (b : List Byte) : FrameHdr :=
  { cnt := fieldAt b 0 4, gen := fieldAt b 4 2, flags := fieldAt b 6 2, tExp := fieldAt b 8 8,
    tUnc := if engine then fieldAt b 16 2 else fieldAt b 28 2,
    linePeriod := if engine then 0 else fieldAt b 24 4, eflags := if engine then fieldAt b 18 2 else 0 }

/-- The source headers of a run, with the failing and the bad granules among them. DEDUCED: log entry 48. -/
def readHeaders (s : State) (dom : Nat) (d : List Byte) (f : Nat) : State × List FrameHdr × List Nat × Bool :=
  ((srcUses d).filterMap (fun u => u.hdr.map (fun h => (u, h)))).foldl
    (fun (q : State × List FrameHdr × List Nat × Bool) e =>
      let a := e.2.1 + slotOf e.1.ref f e.1.foff * hdrPitch e.2.2
      let (s', st, b) := readLocal q.1 dom a 64
      (s', q.2.1 ++ [parseHdr e.2.2 b], q.2.2.1 ++ rangeFailing s a 64,
        q.2.2.2 || decide (st ≠ .ok) || rangeBad s a 64)) (s, [], [], false)

/-- FRAME_CNT of source B less f, as the descriptor expects it. -/
def bOffset (d : List Byte) : Int := if engType d = 3 then sfieldAt d 4 4 else sfieldAt d 8 4

/-- The engine's section names a source B (R121, R142). DEDUCED: log entry 48. -/
def hasB (d : List Byte) : Bool := engType d == 3 || engType d == 4 || (engType d == 2 && isPair d)

/-- STALE (R121). -/
def isStale (d : List Byte) (f : Nat) (a b : FrameHdr) : Bool :=
  a.cnt != f || (hasB d && b.cnt != unsignedOf 32 ((f : Int) + bOffset d))

/-- PAIR_SKEW (R134, R142, R152). -/
def isSkewed (d : List Byte) (a b : FrameHdr) : Bool :=
  let far := decide (fieldAt d 4 4 ≤ ((a.tExp : Int) - b.tExp).natAbs)
  match engType d with
  | 2 => isPair d && far
  | 4 => far || bitAt a.eflags 1 || bitAt b.eflags 1
  | _ => false

/-- What a run reports beside its samples. -/
structure EngRep where
  oob : Nat
  codeOut : Nat
  poisonGran : Nat
  special : Nat
  coded : Bool
  poison : Bool
  nonlocal : Bool
  status : Status
  fails : List Nat
deriving DecidableEq, Repr

/-- A report of nothing. -/
def repNone : EngRep :=
  { oob := 0, codeOut := 0, poisonGran := 0, special := 0, coded := false, poison := false, nonlocal := false,
    status := .ok, fails := [] }

/-- Two sides of a run together. -/
def repJoin (a b : EngRep) : EngRep :=
  { oob := a.oob + b.oob, codeOut := a.codeOut + b.codeOut, poisonGran := a.poisonGran + b.poisonGran,
    special := a.special + b.special, coded := a.coded || b.coded, poison := a.poison || b.poison,
    nonlocal := a.nonlocal || b.nonlocal, status := if a.status = .ok then b.status else a.status, fails := a.fails ++ b.fails }

/-- EFLAGS of a run. -/
def eflagsOf (r : EngRun) (p : EngRep) : Nat :=
  bit01 r.stale + 2 * bit01 (isSkewed r.desc r.hdrA r.hdrB) + 4 * bit01 (p.oob != 0) + 8 * bit01 p.coded +
  16 * bit01 (p.poison || r.poison) + 32 * bit01 p.nonlocal

/-- The 64 bytes of an output header (table *Engine output header*). DEDUCED: log entry 48. -/
def engHeader (r : EngRun) (p : EngRep) : List Byte :=
  let b := hasB r.desc
  leBytes 4 r.hdrA.cnt ++ leBytes 2 r.hdrA.gen ++ leBytes 2 (if b then r.hdrA.flags ||| r.hdrB.flags else r.hdrA.flags) ++
  leBytes 8 r.hdrA.tExp ++ leBytes 2 (if b then max r.hdrA.tUnc r.hdrB.tUnc else r.hdrA.tUnc) ++ leBytes 2 (eflagsOf r p) ++
  leBytes 4 (satTo 32 p.oob) ++ leBytes 4 (satTo 32 p.codeOut) ++ leBytes 4 (if b then r.hdrB.cnt else 0) ++
  leBytes 8 (if b then r.hdrB.tExp else 0) ++ leBytes 8 r.tBegin ++ leBytes 4 (satTo 32 p.poisonGran) ++ List.replicate 12 0

/-- Slots over which the output headers turn, in the order of `dstHdrs`. DEDUCED: log entry 48. -/
def hdrSlots (d : List Byte) : List Nat :=
  match engType d with
  | 1 => [(pref d 64).slots]
  | 2 => [(pref d 80).slots, (pref d 144).slots]
  | 5 => [fieldAt d 54 1]
  | 6 => [(pref d 48).slots]
  | _ => [(pref d 144).slots]

/-- The output headers of a run are written, one report for each. DEDUCED: log entry 48. -/
def writeHeaders (s : State) (dom : Nat) (r : EngRun) (ps : List EngRep) : State :=
  ((dstHdrs r.desc).zip ((hdrSlots r.desc).zip ps)).foldl (fun s e =>
    (writeLocal s dom (e.1.1 + r.f % max 1 e.2.1 * 64) (engHeader r e.2.2) false).1) s

/-! ### Flags (R139, R140) -/

/-- The flags of the bands that a number of lines of a destination completes, but that of its last band, are set. -/
def setBandsTo (s : State) (x : PRef) (f lines : Nat) : State :=
  if hasFlags x then
    ((slotFlags x (slotOf x f 0)).dropLast.take (lines / 2 ^ x.bandLog)).foldl (fun s fl => flagSet s fl f) s
  else s

/-- The flags of every band of the destination slots but their last are set. -/
def setBands (s : State) (d : List Byte) (f : Nat) : State :=
  (dstRefs d).foldl (fun s x => setBandsTo s x.1 f x.1.height) s

/-- The last-band flags are set, after the headers. -/
def setLast (s : State) (d : List Byte) (f : Nat) : State :=
  (dstRefs d).foldl (fun s x => if hasFlags x.1 then flagSet s (lastFlag x.1 (slotOf x.1 f 0)) f else s) s

/-- RELEASE_SRC: the source slots' flags are released for each index by which the node is bound (R139, R183). -/
def releaseSources (s : State) (d : List Byte) (f n : Nat) : State :=
  if ! releasesSrc d then s
  else (srcUses d).foldl (fun s u =>
    if hasFlags u.ref then (slotFlags u.ref (slotOf u.ref f u.foff)).foldl (fun s fl =>
      (indicesOf s fl n).foldl (fun s j => flagRelease s fl j) s) s
    else s) s

/-! ### Runs of PYR and WRP -/

/-- A PYR run: every level from level 0. -/
def runPyr (s : State) (dom : Nat) (r : EngRun) : State × List EngRep :=
  let d := r.desc
  let src := pref d 32
  let slot := slotOf src r.f 0
  let (s', gs) := readPlanes s dom src slot
  let lv := pyrLevels src.fmt (bitAt (fieldAt d 2 1) 0) (fieldAt d 1 1) gs
  let (s', n) := ((dstRefs d).zip lv).foldl (fun (q : State × Nat) e =>
    let (s, k) := writePlanes q.1 dom e.1.1 (slotOf e.1.1 r.f 0) e.2
    (s, q.2 + k)) (s', 0)
  (s', [{ repNone with
    codeOut := (lv.flatMap (fun l => l.map (codeCount src.fmt))).foldl (· + ·) 0, poisonGran := n,
    coded := gs.any (fun g => codeCount src.fmt g != 0), poison := gs.any gridBad,
    fails := planeFails s src slot (List.range src.planes) }])

/-- Offsets of the maps in mesh mode. -/
def meshOffs (d : List Byte) : List Nat :=
  if engType d ≠ 2 ∨ bitAt (fieldAt d 2 1) 0 then [] else 176 :: (if isPair d then [216] else [])

/-- The meshes of a run, each read whole (R129), with whether it met bad granules, and the failing ones. -/
def readMaps (s : State) (dom : Nat) (d : List Byte) : State × List (List Byte × Bool) × List Nat :=
  (meshOffs d).foldl (fun (q : State × List (List Byte × Bool) × List Nat) o =>
    let a := fieldAt d o 8
    let n := meshBytes (bytesAt d o 40)
    let (s', st, b) := readLocal q.1 dom a n
    (s', q.2.1 ++ [(b, decide (st ≠ .ok) || rangeBad q.1 a n)], q.2.2 ++ rangeFailing q.1 a n)) (s, [], [])

/-- The map of side `i` of a run, and whether its mesh met bad granules. -/
def sideMap (r : EngRun) (i off : Nat) : WMap × Bool :=
  let m := (r.maps[i]?).getD ([], false)
  ({ homography := bitAt (fieldAt r.desc 2 1) 0, field := bytesAt r.desc off 40, points := m.1 }, m.2)

/-- A warped value as the destination's format holds it: a CODED source's value or code outside another format is a free
value (R127). DESIGN CHOICE: log entry 57. -/
def warpStore (src dst : Nat) (v : Int) : Int :=
  let top : Int := if dst = 0 then 255 else 1023
  if src ≠ 2 ∨ dst = 2 then v
  else if 0 ≤ v ∧ v ≤ top then v else (Config.codedOut dst v : Int) % (top + 1)

/-- The granule of a source sample. -/
def tapGran (src : PRef) (slot p : Nat) (x y : Int) : Nat :=
  let cx := (clampInt x 0 ((src.width : Int) - 1)).toNat
  let cy := (clampInt y 0 ((src.height : Int) - 1)).toNat
  granOf (lineAddr src slot p cy + cx * sampleBytes src)

/-- Side `i` of a WRP run: `so`, `do_` and `mo` are the offsets of its source, destination and map. -/
def runWarpSide (s : State) (dom : Nat) (r : EngRun) (i so do_ mo : Nat) : State × EngRep :=
  let d := r.desc
  let src := pref d so
  let dst := pref d do_
  let interp := fieldAt d 1 1
  let slot := slotOf src r.f 0
  let (m, mbad) := sideMap r i mo
  let (s', gs) := readPlanes s dom src slot
  let coords := (List.range dst.height).map (fun v => (List.range dst.width).map (fun u => mapCoord m u v))
  let taps := coords.map (fun row => row.map (fun c => warpTaps interp c.1 c.2))
  let out := gs.map (fun g => taps.map (fun row => row.map (fun t =>
    let ts := tapsOf g t
    ({ v := warpStore src.fmt dst.fmt (warpValue interp src.fmt ts), bad := tapsBad ts || mbad } : Px))))
  let (s', n) := writePlanes s' dom dst (slotOf dst r.f 0) out
  let grans := ((List.range src.planes).flatMap (fun p => taps.flatMap (fun row => row.flatMap (fun t =>
    (t.map (fun e => tapGran src slot p e.2.1 e.2.2)).filter (failingGran s))))).eraseDups
  (s', { repNone with
    oob := coords.foldl (fun n row => n + (row.filter (isOob src.width src.height)).length) 0,
    codeOut := (out.map (codeCount dst.fmt)).foldl (· + ·) 0, poisonGran := n,
    special := 0,
    coded := src.fmt == 2 && gs.any (fun g => taps.any (fun row => row.any (fun t => (tapsOf g t).any (fun e => isCode e.2.v)))),
    poison := out.any gridBad, nonlocal := ! mapLocal m dst.width dst.height, fails := grans })

/-- A WRP run: side A, then side B in pair mode (R134). -/
def runWrp (s : State) (dom : Nat) (r : EngRun) : State × List EngRep :=
  let (s, a) := runWarpSide s dom r 0 48 80 176
  if isPair r.desc then
    let (s, b) := runWarpSide s dom r 1 112 144 216
    (s, [a, b])
  else (s, [a])

end Sys2Proof.Machine
end

