-- ==== Sys2Proof/Machine/Flow.lean ====
section
/-! DEFINITION. The flow engine (R143 to R150) and the stereo engine (R152 to R156). -/

namespace Sys2Proof.Machine

open Sys2Proof

/-! ### Shared (R143 to R145) -/

/-- NO_TEXTURE, OCCLUDED and WINDOW_EXHAUSTED. -/
def codeNoTexture : Int := 0x7FF0
def codeOccluded : Int := 0x7FF1
def codeExhausted : Int := 0x7FF2

/-- The confidence of a valid sample (R144). -/
def confOf (kn thr span : Nat) : Nat := min 255 (1 + 254 * (kn - thr) / max 1 span)

/-- The equiangular fit of R145. -/
def subpel (cm c0 cp : Nat) : Int :=
  let den : Int := 2 * ((max cm cp : Nat) - (c0 : Int))
  if den = 0 then 0 else (512 * ((cm : Int) - cp) + den) / (2 * den)

/-- A result sample: its value or code, confidence, cost sample, and what the run counts of it. -/
structure Match where
  vx : Int
  vy : Int
  conf : Nat
  cost : Nat
  coded : Bool
  oob : Bool
  clamps : Nat
  bad : Bool
deriving DecidableEq, Repr

/-- A coded sample (R144). -/
def codedMatch (c : Int) (oob : Bool) (clamps : Nat) (bad : Bool) : Match :=
  { vx := c, vy := c, conf := 0, cost := 255, coded := true, oob := oob, clamps := clamps, bad := bad }

/-- The integers from `lo`, `n` of them. -/
def intsFrom (lo : Int) (n : Nat) : List Int := (List.range n).map (fun (i : Nat) => lo + (i : Int))

/-- Some sample of a clamped box of a plane is bad. -/
def boxBad (g : Grid) (x y : Int) (w h : Nat) : Bool :=
  (intsFrom y h).any (fun b => (intsFrom x w).any (fun a => (gAt g a b).bad))

/-- A plane of some results. -/
def matchGrid (rows : List (List Match)) (f : Match → Int) : Grid :=
  rows.map (fun r => r.map (fun m => { v := f m, bad := m.bad }))

/-- Results that satisfy a test. -/
def matchCount (rows : List (List Match)) (p : Match → Bool) : Nat := rows.foldl (fun n r => n + (r.filter p).length) 0

/-! ### FLW (R147 to R150) -/

/-- What a flow pass matches: cells of `a` against `b`, displaced by the candidate with sign `sg`. -/
structure FlowIn where
  a : Grid
  b : Grid
  sg : Int
  bsLog : Nat
  zsad : Bool
  thr : Nat
  span : Nat
deriving DecidableEq, Repr

/-- Pixels of a cell. -/
def cellPixels (bs m n : Nat) : List (Int × Int) :=
  (List.range bs).flatMap (fun j => (List.range bs).map (fun i => (((m * bs + i : Nat) : Int), ((n * bs + j : Nat) : Int))))

/-- The cost of a candidate displacement (R148). -/
def flowCost (q : FlowIn) (m n : Nat) (dx dy : Int) : Nat :=
  let bs := 2 ^ q.bsLog
  let ps := (cellPixels bs m n).map (fun p => ((gAt q.a p.1 p.2).v, (gAt q.b (p.1 + q.sg * dx) (p.2 + q.sg * dy)).v))
  if q.zsad then
    let k : Int := (bs * bs : Nat)
    let sa := ps.foldl (fun t e => t + e.1) 0
    let sb := ps.foldl (fun t e => t + e.2) 0
    ps.foldl (fun t e => t + (k * e.1 - k * e.2 - sa + sb).natAbs) 0 / 2 ^ (2 * q.bsLog)
  else ps.foldl (fun t e => t + (e.1 - e.2).natAbs) 0

/-- A candidate: its cost and its place k in the search window. -/
abbrev Cand := Nat × Int × Int

/-- R149's order of candidates. -/
def candBefore (p q : Cand) : Bool :=
  let m := fun (c : Cand) => c.2.1.natAbs + c.2.2.natAbs
  if p.1 != q.1 then decide (p.1 < q.1)
  else if m p != m q then decide (m p < m q)
  else if p.2.2 != q.2.2 then decide (p.2.2 < q.2.2)
  else decide (p.2.1 < q.2.1)

/-- The least of some candidates. -/
def bestCand (first : Cand) (l : List Cand) : Cand := l.foldl (fun b c => if candBefore c b then c else b) first

/-- The integer centre of a prediction, and whether it was clamped (R147). -/
def flowCentre (pv : Int) : Int × Nat :=
  let c := (pv + 128) / 256
  (clampInt c (-111) 111, bit01 (decide (c < -111) || decide (111 < c)))

/-- The candidate read its frame outside the edges anywhere in the cell. -/
def cellOutside (q : FlowIn) (bs m n : Nat) (dx dy : Int) : Bool :=
  let x0 : Int := (m * bs : Nat) + q.sg * dx
  let y0 : Int := (n * bs : Nat) + q.sg * dy
  decide (x0 < 0) || decide (y0 < 0) || decide ((gWidth q.b : Int) < x0 + bs) || decide ((q.b.length : Int) < y0 + bs)

/-- One cell of a pass, matched about its centre (R149). `pbad` says that its prediction was bad. -/
def flowCell (q : FlowIn) (m n : Nat) (pred : Int × Int) (pbad : Bool) : Match :=
  let bs := 2 ^ q.bsLog
  let (cx, nx) := flowCentre pred.1
  let (cy, ny) := flowCentre pred.2
  let cost := fun (kx ky : Int) => flowCost q m n (cx + kx) (cy + ky)
  let ks := intsFrom (-16) 33
  let best := bestCand (cost (-16) (-16), -16, -16) (ks.flatMap (fun ky => ks.map (fun kx => (cost kx ky, kx, ky))))
  let kx := best.2.1
  let ky := best.2.2
  let c0 := best.1
  let dx := cx + kx
  let dy := cy + ky
  let oob := cellOutside q bs m n dx dy
  let bad := pbad || boxBad q.a (m * bs : Nat) (n * bs : Nat) bs bs ||
    boxBad q.b ((m * bs : Nat) + q.sg * cx - 16) ((n * bs : Nat) + q.sg * cy - 16) (bs + 32) (bs + 32)
  if kx.natAbs = 16 ∨ ky.natAbs = 16 then codedMatch codeExhausted oob (nx + ny) bad
  else
    let xm := cost (kx - 1) ky
    let xp := cost (kx + 1) ky
    let ym := cost kx (ky - 1)
    let yp := cost kx (ky + 1)
    let kn := (min (min xm xp) (min ym yp) - c0) * 64 / 2 ^ (2 * q.bsLog)
    if kn < q.thr then codedMatch codeNoTexture oob (nx + ny) bad
    else
      { vx := 256 * dx + subpel xm c0 xp, vy := 256 * dy + subpel ym c0 yp, conf := confOf kn q.thr q.span,
        cost := min 255 (c0 / 2 ^ (2 * q.bsLog)), coded := false, oob := oob, clamps := nx + ny, bad := bad }

/-- The backward cell that checks a forward one (R150). -/
def backCell (back : List (List Match)) (bs m n : Nat) (f : Match) : Option Match :=
  let at_ := fun (k : Nat) (v : Int) (len : Nat) =>
    (clampInt ((256 * ((k * bs + bs / 2 : Nat) : Int) - v) / (256 * (bs : Int))) 0 ((len : Int) - 1)).toNat
  (back[at_ n f.vy back.length]?).bind (fun r => r[at_ m f.vx r.length]?)

/-- The forward–backward check of a cell that passed R149. -/
def checkBack (back : List (List Match)) (bs tol m n : Nat) (f : Match) : Match :=
  if f.coded then f
  else match backCell back bs m n f with
    | none => f
    | some b =>
      let bad := f.bad || b.bad
      if b.coded || decide (tol < (f.vx - b.vx).natAbs) || decide (tol < (f.vy - b.vy).natAbs) then
        codedMatch codeOccluded f.oob f.clamps bad
      else { f with bad := bad }

/-- The prediction of a cell: its PRED sample when both planes hold values, else the global one (R147). -/
def flowPred (d : List Byte) (pr : List Grid) (m n : Nat) : (Int × Int) × Bool :=
  let g := (sfieldAt d 8 2, sfieldAt d 10 2)
  match pr with
  | px :: py :: _ =>
    let a := gAt px m n
    let b := gAt py m n
    (if isCode a.v || isCode b.v then g else (a.v, b.v), a.bad || b.bad)
  | _ => (g, false)

/-- Every cell of a pass. -/
def flowPass (q : FlowIn) (d : List Byte) (pr : List Grid) : List (List Match) :=
  let bs := 2 ^ q.bsLog
  (List.range (cdiv q.a.length bs)).map (fun n => (List.range (cdiv (gWidth q.a) bs)).map (fun m =>
    let p := flowPred d pr m n
    flowCell q m n p.1 p.2))

/-- The field of a FLW run. -/
def flowField (d : List Byte) (c p : Grid) (pr : List Grid) : List (List Match) :=
  let ctrl := fieldAt d 2 1
  let bs := 2 ^ fieldAt d 1 1
  let q : FlowIn :=
    { a := c, b := p, sg := -1, bsLog := fieldAt d 1 1, zsad := bitAt ctrl 0, thr := fieldAt d 12 2, span := fieldAt d 14 2 }
  let fwd := flowPass q d pr
  if ! bitAt ctrl 1 then fwd
  else
    let back := flowPass { q with a := p, b := c, sg := 1 } d pr
    ((List.range fwd.length).zip fwd).map (fun e => ((List.range e.2.length).zip e.2).map (fun x =>
      checkBack back bs (fieldAt d 16 2) x.1 e.1 x.2))

/-- A FLW run (R146 to R150). -/
def runFlw (s : State) (dom : Nat) (r : EngRun) : State × List EngRep :=
  let d := r.desc
  let sel := fieldAt d 3 1
  let sc := pref d 48
  let sp := pref d 80
  let pd := pref d 112
  let dv := pref d 144
  let dq := pref d 176
  let usePred := bitAt (fieldAt d 2 1) 2
  let cs := slotOf sc r.f 0
  let ps := slotOf sp r.f (sfieldAt d 4 4)
  let ds := slotOf pd r.f (sfieldAt d 18 2)
  let (s', c) := readPlane s dom sc cs sel
  let (s', p) := readPlane s' dom sp ps sel
  let (s', pr) := if usePred then readPlanes s' dom pd ds else (s', [])
  let f := flowField d c p pr
  let (s', n) := writePlanes s' dom dv (slotOf dv r.f 0) [matchGrid f (fun m => m.vx), matchGrid f (fun m => m.vy)]
  let (s', k) := writePlanes s' dom dq (slotOf dq r.f 0)
    [matchGrid f (fun m => m.conf), matchGrid f (fun m => m.cost)]
  (s', [{ repNone with
    oob := matchCount f (fun m => m.oob), codeOut := matchCount f (fun m => m.coded), poisonGran := n + k,
    special := f.foldl (fun t row => row.foldl (fun t m => t + m.clamps) t) 0,
    coded := pr.any (fun g => codeCount 2 g != 0), poison := gridBad c || gridBad p || pr.any gridBad,
    fails := planeFails s sc cs [sel] ++ planeFails s sp ps [sel] ++ (if usePred then planeFails s pd ds [0, 1] else []) }])

/-! ### STE (R153 to R156) -/

/-- The census of a pixel (R153). -/
def census (g : Grid) (x y : Nat) : Nat :=
  let c := (gAt g x y).v
  ((intsFrom (-2) 5).flatMap (fun j => (intsFrom (-2) 5).filterMap (fun i =>
    if i = 0 ∧ j = 0 then none else some (decide ((gAt g ((x : Int) + i) ((y : Int) + j)).v < c))))).foldl
      (fun n b => 2 * n + bit01 b) 0

/-- Bits set among the low 24 of a number. -/
def pop24 (n : Nat) : Nat := (List.range 24).foldl (fun t k => t + bit01 (bitAt n k)) 0

/-- Costs of the 128 candidates of a pixel. -/
def steCosts (cl cr : List Nat) (x : Nat) (dp : Int) : List Nat :=
  (intsFrom (dp - 64) 128).map (fun c =>
    let q := (x : Int) - c
    if 0 ≤ q ∧ q < cr.length then pop24 (nth cl x ^^^ nth cr q.toNat) else 24)

/-- A pixel on the paths: its predicted disparity, Lr per direction, S, and whether anything bad fed it. -/
structure PathPx where
  dp : Int
  lr : List (List Nat)
  sum : List Nat
  bad : Bool
deriving DecidableEq, Repr

/-- Lr of a disparity that is a candidate of q. -/
def lrAt (dq : Int) (l : List Nat) (c : Int) : Option Nat := if c < dq - 64 then none else l[(c - (dq - 64)).toNat]?

/-- The least of a list of costs. -/
def leastOf (l : List Nat) : Nat := l.foldl min (l.headD 0)

/-- One direction's aggregation at a pixel (R155). -/
def aggregate (cost : List Nat) (dp : Int) (q : Option (Int × List Nat)) (p1 p2 : Nat) : List Nat :=
  match q with
  | none => cost
  | some (dq, l) =>
    let m := leastOf l
    (cost.zip (intsFrom (dp - 64) 128)).map (fun e =>
      let t := [some (m + p2), lrAt dq l e.2, (lrAt dq l (e.2 - 1)).map (· + p1), (lrAt dq l (e.2 + 1)).map (· + p1)]
      e.1 + leastOf (t.filterMap id) - m)

/-- A pixel from its neighbours in path order: left, above, above left, above right. -/
def pathPx (cost : List Nat) (dp : Int) (bad : Bool) (ns : List (Option PathPx)) (p1 p2 : Nat) : PathPx :=
  let lr := ((List.range ns.length).zip ns).map (fun e =>
    aggregate cost dp (e.2.map (fun q => (q.dp, (q.lr[e.1]?).getD []))) p1 p2)
  { dp := dp, lr := lr, sum := (List.range 128).map (fun i => lr.foldl (fun t l => t + nth l i) 0),
    bad := bad || ns.any (fun q => q.elim false (fun x => x.bad)) }

/-- What a stereo run works on: its planes, their census rows, and the prediction of a pixel. -/
structure SteIn where
  l : Grid
  r : Grid
  pred : Option Grid
  predD : Int
  paths : Nat
  p1 : Nat
  p2 : Nat
  thr : Nat
  span : Nat
  lr : Option Nat
deriving DecidableEq, Repr

/-- The predicted disparity of a pixel's tile (R154). -/
def tilePred (q : SteIn) (x y : Nat) : Int × Bool :=
  match q.pred with
  | none => (q.predD, false)
  | some g =>
    let p := gAt g (x / 16 : Nat) (y / 16 : Nat)
    (if isCode p.v then q.predD else clampInt ((p.v + 128) / 256) (-63) 63, p.bad)

/-- One row of path pixels from the row above. -/
def pathRow (q : SteIn) (y : Nat) (above : List PathPx) : List PathPx :=
  let w := gWidth q.l
  let cl := (List.range w).map (fun x => census q.l x y)
  let cr := (List.range w).map (fun x => census q.r x y)
  (List.range w).foldl (fun row x =>
    let (dp, pb) := tilePred q x y
    let bad := pb || boxBad q.l ((x : Int) - 2) ((y : Int) - 2) 5 5 || boxBad q.r ((x : Int) - dp - 65) ((y : Int) - 2) 132 5
    let left := row.getLast?
    let diag := [if x = 0 then none else above[x - 1]?, above[x + 1]?]
    let ns := [left, above[x]?] ++ (if q.paths = 4 then diag else [])
    row ++ [pathPx (steCosts cl cr x dp) dp bad ns q.p1 q.p2]) []

/-- Every row of path pixels. -/
def pathRows (q : SteIn) : List (List PathPx) :=
  (List.range q.l.length).foldl (fun rows y => rows ++ [pathRow q y (rows.getLastD [])]) []

/-- The winner's place among the candidates: least S, then nearest to Dp, then smallest (R156). -/
def steBest (p : PathPx) : Nat :=
  ((List.range 128).foldl (fun (b : Nat × Nat × Nat) i =>
    let c : Nat × Nat × Nat := (nth p.sum i, ((i : Int) - 64).natAbs, i)
    if c.1 < b.1 ∨ (c.1 = b.1 ∧ (c.2.1 < b.2.1 ∨ (c.2.1 = b.2.1 ∧ c.2.2 < b.2.2))) then c else b)
    (nth p.sum 0, 64, 0)).2.2

/-- The pixels of a row that compete for a right pixel, as (S, disparity, bad). -/
def rightRivals (row : List PathPx) (xr : Int) : List (Nat × Int × Bool) :=
  ((List.range row.length).zip row).filterMap (fun e =>
    let c := (e.1 : Int) - xr
    (lrAt e.2.dp e.2.sum c).map (fun v => (v, c, e.2.bad)))

/-- cR of R156: the disparity that minimises S at a right pixel. -/
def rightBest (l : List (Nat × Int × Bool)) : Int :=
  match l with
  | [] => 0
  | h :: t => (t.foldl (fun b c => if c.1 < b.1 ∨ (c.1 = b.1 ∧ c.2.1 < b.2.1) then c else b) h).2.1

/-- One pixel's result (R156). -/
def stePx (q : SteIn) (row : List PathPx) (x : Nat) (p : PathPx) : Match :=
  let i := steBest p
  let c0 : Int := p.dp - 64 + i
  let s0 := nth p.sum i
  if i = 0 ∨ i = 127 then codedMatch codeExhausted false 0 p.bad
  else
    let kn := min (nth p.sum (i - 1)) (nth p.sum (i + 1)) - s0
    let xr := (x : Int) - c0
    if kn < q.thr then codedMatch codeNoTexture false 0 p.bad
    else if xr < 0 ∨ (row.length : Int) ≤ xr then codedMatch codeOccluded true 1 p.bad
    else
      let rs := rightRivals row xr
      let bad := p.bad || (q.lr.isSome && rs.any (fun e => e.2.2))
      if q.lr.elim false (fun tol => decide (tol < (c0 - rightBest rs).natAbs)) then codedMatch codeOccluded false 1 bad
      else
        { vx := 256 * c0 + subpel (nth p.sum (i - 1)) s0 (nth p.sum (i + 1)), vy := 0, conf := confOf kn q.thr q.span,
          cost := min 255 (s0 / 4), coded := false, oob := false, clamps := 0, bad := bad }

/-- The disparity field of a run. -/
def steField (q : SteIn) : List (List Match) :=
  (pathRows q).map (fun row => ((List.range row.length).zip row).map (fun e => stePx q row e.1 e.2))

/-- A STE run (R152 to R156). DEDUCED: log entry 49. -/
def runSte (s : State) (dom : Nat) (r : EngRun) : State × List EngRep :=
  let d := r.desc
  let ctrl := fieldAt d 2 1
  let sel := fieldAt d 3 1
  let rl := pref d 48
  let rr := pref d 80
  let pd := pref d 112
  let dd := pref d 144
  let dq := pref d 176
  let usePred := bitAt ctrl 0
  let ls := slotOf rl r.f 0
  let rs := slotOf rr r.f 0
  let ps := slotOf pd r.f 0
  let (s', gl) := readPlane s dom rl ls sel
  let (s', gr) := readPlane s' dom rr rs sel
  let (s', pr) := if usePred then (fun (x : State × Grid) => (x.1, some x.2)) (readPlane s' dom pd ps 0) else (s', none)
  let f := steField
    { l := gl, r := gr, pred := pr, predD := sfieldAt d 16 2, paths := fieldAt d 1 1, p1 := fieldAt d 12 2,
      p2 := fieldAt d 14 2, thr := fieldAt d 18 2, span := fieldAt d 20 2,
      lr := if bitAt ctrl 3 then some (fieldAt d 22 1) else none }
  let (s', n) := writePlanes s' dom dd (slotOf dd r.f 0) [matchGrid f (fun m => m.vx)]
  let (s', k) := writePlanes s' dom dq (slotOf dq r.f 0) [matchGrid f (fun m => m.conf), matchGrid f (fun m => m.cost)]
  (s', [{ repNone with
    oob := matchCount f (fun m => m.oob), codeOut := matchCount f (fun m => m.coded), poisonGran := n + k,
    special := matchCount f (fun m => m.coded && m.vx == codeOccluded),
    coded := pr.elim false (fun g => codeCount 2 g != 0), poison := gridBad gl || gridBad gr || pr.elim false gridBad,
    fails := planeFails s rl ls [sel] ++ planeFails s rr rs [sel] ++ (if usePred then planeFails s pd ps [0] else []) }])

end Sys2Proof.Machine
end

