-- ==== Sys2Proof/Machine/Feature.lean ====
section
/-! DEFINITION. The feature engine (R157 to R161). -/

namespace Sys2Proof.Machine

open Sys2Proof

/-- The response of R158. -/
def feaResponse (g : Grid) (x y : Int) : Int :=
  let gr := fun (a b : Int) => ((gAt g (a + 1) b).v - (gAt g (a - 1) b).v, (gAt g a (b + 1)).v - (gAt g a (b - 1)).v)
  let l := (intsFrom (y - 2) 5).flatMap (fun b => (intsFrom (x - 2) 5).map (fun a => gr a b))
  let a := l.foldl (fun t e => t + e.1 * e.1) 0
  let b := l.foldl (fun t e => t + e.2 * e.2) 0
  let c := l.foldl (fun t e => t + e.1 * e.2) 0
  a * b - c * c - (a + b) * (a + b) / 16

/-- A response of the field of responses, none outside the frame. -/
def respAt (rs : List (List Int)) (x y : Int) : Option Int :=
  if x < 0 ∨ y < 0 then none else (rs[y.toNat]?).bind (fun r => r[x.toNat]?)

/-- The non-maximum test of R159: greater than every earlier response of the window, not less than any later one. -/
def isPeak (rs : List (List Int)) (n : Nat) (x y : Int) (v : Int) : Bool :=
  (intsFrom (y - n) (2 * n + 1)).all (fun b => (intsFrom (x - n) (2 * n + 1)).all (fun a =>
    match respAt rs a b with
    | none => true
    | some r =>
      if a = x ∧ b = y then true
      else if b < y ∨ (b = y ∧ a < x) then decide (r < v) else decide (r ≤ v)))

/-- A keypoint: its response, place and tile. -/
structure KeyPt where
  resp : Int
  x : Nat
  y : Nat
  tile : Nat
deriving DecidableEq, Repr

/-- Candidates of a frame in raster order (R159). -/
def feaCandidates (d : List Byte) (g : Grid) : List KeyPt :=
  let nms := fieldAt d 1 1
  let e := if bitAt (fieldAt d 2 1) 0 then 17 else nms + 3
  let t := fieldAt d 12 1
  let w := gWidth g
  let tiles := cdiv w (2 ^ t)
  let rs := (List.range g.length).map (fun (y : Nat) => (List.range w).map (fun (x : Nat) => feaResponse g x y))
  (List.range g.length).flatMap (fun (y : Nat) => (List.range w).filterMap (fun (x : Nat) =>
    let v := (respAt rs x y).getD 0
    if e ≤ x ∧ x + e < w ∧ e ≤ y ∧ y + e < g.length ∧ (fieldAt d 4 8 : Int) < v ∧ isPeak rs nms x y v = true then
      some { resp := v, x := x, y := y, tile := y / 2 ^ t * tiles + x / 2 ^ t }
    else none))

/-- The keypoints that the tiles keep, tile by tile, by falling response (R159); whether some tile had too many. -/
def feaKept (d : List Byte) (g : Grid) (cs : List KeyPt) : List KeyPt × Bool :=
  let t := 2 ^ fieldAt d 12 1
  let mx := fieldAt d 13 1
  (List.range (cdiv (gWidth g) t * cdiv g.length t)).foldl (fun (q : List KeyPt × Bool) k =>
    let l := sortBy (fun a b => decide (b.resp ≤ a.resp)) (cs.filter (fun c => c.tile == k))
    (q.1 ++ l.take mx, q.2 || decide (mx < l.length))) ([], false)

/-! ### Descriptors (R160) -/

/-- The next coordinate of the built-in pattern and the state after it. -/
def patCoord (st : Nat) : Int × Nat :=
  let (v, st) := prbsWord 5 0 st
  (((v % 31 : Nat) : Int) - 15, st)

/-- `n` coordinates of the built-in pattern. -/
def patCoords : Nat → Nat → List Int
  | 0, _ => []
  | n + 1, st => let (v, st) := patCoord st; v :: patCoords n st

/-- A pattern's coordinates: built in, or from its 1,024 bytes. -/
def patternOf (addr : Nat) (bytes : List Byte) : List Int :=
  if addr = 0 then patCoords 1024 0x5A5A else bytes.map (fun b => signedOf 8 b.toNat)

/-- The smoothed source at a sample: the kernel of R124 without decimation. -/
def smoothAt (g : Grid) (x y : Int) : Int := (kernMean (kernTaps g x y)).v

/-- Bit i of a keypoint's descriptor. -/
def descBit (g : Grid) (pat : List Int) (x y : Int) (i : Nat) : Bool :=
  decide (smoothAt g (x + ith pat (4 * i)) (y + ith pat (4 * i + 1)) < smoothAt g (x + ith pat (4 * i + 2)) (y + ith pat (4 * i + 3)))

/-- The 32 descriptor bytes of a keypoint. -/
def descBytes (g : Grid) (pat : List Int) (k : KeyPt) : List Byte :=
  (List.range 32).map (fun b => byteOf ((List.range 8).foldl (fun n i => n + bit01 (descBit g pat k.x k.y (8 * b + i)) * 2 ^ i) 0))

/-- The 48 bytes of a keypoint record (R161). -/
def keyBytes (g : Grid) (pat : Option (List Int)) (k : KeyPt) : List Byte :=
  leBytes 2 k.x ++ leBytes 2 k.y ++ leBytes 4 (min (2 ^ 32 - 1) (k.resp / 65536).toNat) ++ leBytes 2 k.tile ++
  List.replicate 6 0 ++ (match pat with
    | some p => descBytes g p k
    | none => List.replicate 32 0)

/-- The 64 bytes of a list header. -/
def listHeader (cnt kept found : Nat) (trunc full : Bool) : List Byte :=
  leBytes 4 cnt ++ leBytes 2 kept ++ leBytes 2 (bit01 trunc + 2 * bit01 full) ++ leBytes 4 (satTo 32 found) ++
  List.replicate 52 0

/-- A list written as whole granules; every one of them depends on the whole plane, since the limits rank its keypoints.
DEDUCED: log entry 49. -/
def writeList (s : State) (dom a : Nat) (bs : List Byte) (bad : Bool) : State × Nat :=
  (List.range (cdiv bs.length 64)).foldl (fun (q : State × Nat) k =>
    ((writeLocal q.1 dom (a + 64 * k) (padTo 64 (bytesAt bs (64 * k) 64)) bad).1, q.2 + bit01 bad)) (s, 0)

/-- The address of the list of a run. -/
def listAddr (d : List Byte) (f : Nat) : Nat := fieldAt d 40 8 + f % max 1 (fieldAt d 54 1) * fieldAt d 48 4

/-- A FEA run (R157 to R161). DEDUCED: log entry 49. -/
def runFea (s : State) (dom : Nat) (r : EngRun) : State × List EngRep :=
  let d := r.desc
  let src := pref d 56
  let sel := fieldAt d 3 1
  let slot := slotOf src r.f 0
  let addr := fieldAt d 16 8
  let useDesc := bitAt (fieldAt d 2 1) 0
  let (s', g) := readPlane s dom src slot sel
  let (s', st, pb) := if addr = 0 ∨ useDesc = false then (s', Status.ok, []) else readLocal s' dom addr 1024
  let inMem := decide (addr ≠ 0) && useDesc
  let pbad := inMem && (decide (st ≠ .ok) || rangeBad s addr 1024)
  let bad := gridBad g || pbad
  let fails := planeFails s src slot [sel] ++ (if inMem then rangeFailing s addr 1024 else [])
  let pat := patternOf addr pb
  if inMem && pat.any (fun v => decide (v < -15) || decide (15 < v)) then
    (s', [{ repNone with status := .badParam, poison := bad, fails := fails }])
  else
    let cs := feaCandidates d g
    let (kept, full) := feaKept d g cs
    let mx := fieldAt d 14 2
    let l := kept.take mx
    let bs := l.flatMap (keyBytes g (if useDesc then some pat else none))
    let a := listAddr d r.f
    let (s', n) := writeList s' dom (a + 64) bs bad
    let (s', k) := writeList s' dom a (listHeader r.hdrA.cnt l.length cs.length (decide (mx < kept.length)) full) bad
    (s', [{ repNone with poisonGran := n + k, special := l.length, poison := bad, fails := fails }])

end Sys2Proof.Machine
end

