-- ==== Sys2Proof/Machine/Obx.lean ====
section
/-! DEFINITION. The object engine (R162 to R168), the fallback classifier's verdict (R435), and the rows of an engine run:
ENGINE_RUN_START, ENGINE_RUN_DONE and OBX_OBJECT_EMIT (R115, R120, R121, R139, R140, R171). -/

namespace Sys2Proof.Machine

open Sys2Proof

/-! ### Components (R164, R166) -/

/-- A component that is open while a run's lines are processed: `cur` are its columns on the line in progress, `here` says
that the run's frame is the last of its span. -/
structure OpenComp where
  c : Comp
  cur : List Nat
  here : Bool
deriving DecidableEq, Repr

/-- A pixel as the labelling sees it: foreground, its planes' samples, its disparity when it holds a value, and whether
anything bad fed it. -/
structure ObjPx where
  fg : Bool
  s : List Nat
  disp : Option Int
  bad : Bool
  fed : Bool
deriving DecidableEq, Repr

/-- Lists of numbers added element by element. -/
def addLists : List Nat → List Nat → List Nat
  | [], b => b
  | a, [] => a
  | x :: a, y :: b => (x + y) :: addLists a b

/-- A component that the run's frame enters: the frame joins its span (R166). -/
def enterFrame (h : FrameHdr) (stale : Bool) (o : OpenComp) : OpenComp :=
  if o.here then o
  else { o with
    c := { o.c with spans := o.c.spans ++ [h], oflags := if stale then o.c.oflags ||| 64 else o.c.oflags }, here := true }

/-- A component with its y counted over a span `k` frames longer at its beginning. -/
def shiftComp (height k : Nat) (c : Comp) : Comp :=
  { c with firstY := c.firstY + k * height, pixels := c.pixels.map (fun p => (p.1, p.2 + k * height)) }

/-- The raster place of a pixel comes first. -/
def earlier (x y x' y' : Nat) : Bool := decide (y < y') || (y == y' && decide (x < x'))

/-- Two components that meet, both with the run's frame as the last of their spans. -/
def mergeComp (height : Nat) (a b : OpenComp) : OpenComp :=
  let n := max a.c.spans.length b.c.spans.length
  let p := shiftComp height (n - a.c.spans.length) a.c
  let q := shiftComp height (n - b.c.spans.length) b.c
  let first := if earlier q.firstX q.firstY p.firstX p.firstY then q else p
  { c :=
      { firstX := first.firstX, firstY := first.firstY, pixels := p.pixels ++ q.pixels, sums := addLists p.sums q.sums,
        dispSum := p.dispSum + q.dispSum, dispCnt := p.dispCnt + q.dispCnt, poison := p.poison || q.poison,
        carried := p.carried || q.carried, spans := if a.c.spans.length < n then q.spans else p.spans,
        lastLine := p.lastLine ++ q.lastLine, oflags := p.oflags ||| q.oflags },
    cur := a.cur ++ b.cur, here := true }

/-- The new component of a segment of line y. -/
def segComp (h : FrameHdr) (stale : Bool) (y x0 : Nat) (px : List ObjPx) : OpenComp :=
  { c :=
      { firstX := x0, firstY := y, pixels := (List.range px.length).map (fun i => (x0 + i, y)),
        sums := px.foldl (fun a p => addLists a p.s) [], dispSum := px.foldl (fun a p => a + p.disp.getD 0) 0,
        dispCnt := (px.filter (fun p => p.disp.isSome)).length, poison := px.any (fun p => p.bad), carried := false,
        spans := [h], lastLine := [], oflags := if stale then 64 else 0 },
    cur := (List.range px.length).map (fun i => x0 + i), here := true }

/-- The component holds a pixel of the line above next to a segment (8-connectivity). -/
def touches (x0 n : Nat) (o : OpenComp) : Bool := o.c.lastLine.any (fun x => decide (x0 ≤ x + 1) && decide (x ≤ x0 + n))

/-- A segment joins the components that it touches, or opens one. -/
def joinSegment (h : FrameHdr) (stale : Bool) (height y : Nat) (os : List OpenComp) (x0 : Nat) (px : List ObjPx) :
    List OpenComp :=
  let ts := os.filter (touches x0 px.length)
  let rest := os.filter (fun o => ! touches x0 px.length o)
  rest ++ [ts.foldl (fun a o => mergeComp height (enterFrame h stale o) a) (segComp h stale y x0 px)]

/-- The foreground segments of a line, as (first column, pixels). -/
def segments : Nat → List ObjPx → List (Nat × List ObjPx) → List (Nat × List ObjPx)
  | _, [], acc => acc
  | x, p :: t, acc =>
    if ! p.fg then segments (x + 1) t acc
    else match acc.getLast? with
      | some (x0, l) =>
        if x0 + l.length = x then segments (x + 1) t (acc.dropLast ++ [(x0, l ++ [p])])
        else segments (x + 1) t (acc ++ [(x, [p])])
      | none => segments (x + 1) t [(x, [p])]

/-- The absolute raster order of first pixels within a run: frames before the run's come first. -/
def firstBefore (height : Nat) (a b : Comp) : Bool :=
  let key := fun (c : Comp) => (c.firstY : Int) - (c.spans.length : Int) * height
  decide (key a < key b) || (key a == key b && decide (a.firstX ≤ b.firstX))

/-- One line processed: the components still open, and those that close after it, in raster order.
DEDUCED: log entry 50. -/
def objLine (h : FrameHdr) (stale : Bool) (height y : Nat) (os : List OpenComp) (row : List ObjPx) :
    List OpenComp × List OpenComp :=
  let os := (segments 0 row []).foldl (fun os e => joinSegment h stale height y os e.1 e.2) os
  let keep := (os.filter (fun o => ! o.cur.isEmpty)).map (fun o =>
    { o with c := { o.c with lastLine := o.cur }, cur := [] })
  (keep, os.filter (fun o => o.cur.isEmpty))

/-- Every line of a run: the components open at its end, and the groups that closed, line by line.
DEDUCED: log entry 50. -/
def objLines (h : FrameHdr) (stale : Bool) (height : Nat) (os : List OpenComp) (rows : List (List ObjPx)) :
    List OpenComp × List (List OpenComp) :=
  ((List.range rows.length).zip rows).foldl (fun q e =>
    let (os, cl) := objLine h stale height e.1 q.1 e.2
    (os, q.2 ++ [cl])) (os, [])

/-- OFLAGS bits. -/
def ofEdgeB : Nat := 8
def ofContBreak : Nat := 16
def ofSpanTrunc : Nat := 32

/-- A component with a flag. DEDUCED: log entry 50. -/
def flagComp (b : Nat) (o : OpenComp) : OpenComp := { o with c := { o.c with oflags := o.c.oflags ||| b } }

/-- What a run's labelling yields: closed components in order of closure, and those carried into the next run (R164,
R165). Components that close at the run's end close with those that close after its last line. -/
def labelRun (h : FrameHdr) (stale cont : Bool) (height maxSpan : Nat) (carry : List Comp) (rows : List (List ObjPx)) :
    List Comp × List Comp :=
  let sorted := fun (l : List OpenComp) => sortBy (firstBefore height) (l.map (fun o => o.c))
  let asOpen := carry.map (fun c => ({ c := { c with carried := true }, cur := [], here := false } : OpenComp))
  let goes := ! stale && carry.all (fun c => (c.spans.getLast?).elim false (fun p => h.cnt == (p.cnt + 1) % 2 ^ 32))
  let broken := if goes then [] else sortBy (firstBefore height) (carry.map (fun c => { c with oflags := c.oflags ||| ofContBreak }))
  let (os, groups) := objLines h stale height (if goes then asOpen else []) rows
  let stays := fun (o : OpenComp) => cont && decide (o.c.spans.length < maxSpan)
  let ends := (os.filter (fun o => ! stays o)).map (fun o =>
    flagComp (if maxSpan ≤ o.c.spans.length then ofSpanTrunc else ofEdgeB) o)
  let closed := (groups.dropLast.map sorted ++ [sorted ((groups.getLast?).getD [] ++ ends)]).flatten
  (broken ++ closed, (os.filter stays).map (fun o => o.c))

/-! ### The object record (R166, R167) -/

/-- Least and greatest of a list of numbers. -/
def minMax (l : List Nat) : Nat × Nat := (l.foldl min (l.headD 0), l.foldl max (l.headD 0))

/-- A rounded quotient, half up. -/
def rdiv (a n : Int) : Int := (2 * a + n) / (2 * n)

/-- ELONG of R167. -/
def elongOf (n sx sy sxx syy sxy : Nat) : Nat :=
  let mxx : Int := (n * sxx : Nat) - (sx * sx : Nat)
  let myy : Int := (n * syy : Nat) - (sy * sy : Nat)
  let mxy : Int := (n * sxy : Nat) - ((sx * sy : Nat) : Int)
  let t := (mxx + myy).toNat
  let q := isqrt ((mxx - myy) * (mxx - myy) + 4 * (mxy * mxy)).toNat
  if t = 0 then 256 else if t ≤ q then 0xFFFF else min 65534 (256 * (t + q) / (t - q))

/-- What of an object record the stub and the FBC use. -/
structure ObjRec where
  id : Nat
  frameCnt : Nat
  tObj : Nat
  tUnc : Nat
  pipe : Nat
  flags : Nat
  oflags : Nat
  area : Nat
  mean : List Nat
  elong : Nat
  bytes : List Byte
deriving DecidableEq, Repr

/-- A frame of a component's span. -/
def spanAt (c : Comp) (k : Nat) : FrameHdr :=
  (c.spans[k]?).getD ((c.spans.getLast?).getD { cnt := 0, gen := 0, flags := 0, tExp := 0, tUnc := 0, linePeriod := 0, eflags := 0 })

/-- The object record of a closed component (table *Object record*). -/
def objRecord (d : List Byte) (c : Comp) (id : Nat) : ObjRec :=
  let src := pref d 48
  let h := src.height
  let n := c.pixels.length
  let xs := c.pixels.map (·.1)
  let ys := c.pixels.map (·.2)
  let tot := fun (l : List Nat) => l.foldl (· + ·) 0
  let (x0, x1) := minMax xs
  let (y0, y1) := minMax ys
  let cx := (32 * tot xs + n) / (2 * max 1 n)
  let cy := (32 * tot ys + n) / (2 * max 1 n)
  let mean := (List.range 4).map (fun p => if p < src.planes then (2 * nth c.sums p + n) / (2 * max 1 n) else 0)
  let el := elongOf n (tot xs) (tot ys) (tot (xs.map (fun x => x * x))) (tot (ys.map (fun y => y * y)))
    (tot (c.pixels.map (fun p => p.1 * p.2)))
  let ry := (cy + 8) / 16
  let k := spanAt c (ry / max 1 h)
  let tObj := (k.tExp + ry % max 1 h * k.linePeriod) % 2 ^ 64
  let tUnc := c.spans.foldl (fun m p => max m p.tUnc) 0
  let flags := c.spans.foldl (fun m p => m ||| p.flags) 0
  let oflags := c.oflags ||| bit01 (x0 == 0) ||| (2 * bit01 (x1 + 1 == src.width)) |||
    (4 * bit01 (y0 == 0 && ! c.carried)) ||| (128 * bit01 c.poison)
  let disp : Int := if bitAt (fieldAt d 2 1) 2 ∧ c.dispCnt ≠ 0 then rdiv c.dispSum c.dispCnt else 0x7FF0
  let fc := (spanAt c (y0 / max 1 h)).cnt
  let pipe := fieldAt d 11 1
  { id := id, frameCnt := fc, tObj := tObj, tUnc := tUnc, pipe := pipe, flags := flags, oflags := oflags, area := n,
    mean := mean, elong := el,
    bytes := leBytes 4 id ++ leBytes 4 fc ++ leBytes 8 tObj ++ leBytes 2 tUnc ++ leBytes 1 pipe ++ leBytes 1 c.spans.length ++
      leBytes 2 flags ++ leBytes 2 oflags ++ leBytes 2 x0 ++ leBytes 2 x1 ++ leBytes 2 y0 ++ leBytes 2 y1 ++ leBytes 4 n ++
      leBytes 4 cx ++ leBytes 4 cy ++ mean.flatMap (leBytes 2) ++ leBytes 2 el ++ leBytes 2 (unsignedOf 16 disp) ++
      leBytes 2 k.gen ++ leBytes 2 (fieldAt d 12 2) ++ leBytes 4 0 }

/-! ### The fallback classifier (R434, R435) -/

/-- A value lies within bounds, both included. -/
def within (lo v hi : Nat) : Bool := decide (lo ≤ v) && decide (v ≤ hi)

/-- A rule of 32 bytes matches an object. -/
def ruleMatches (b : List Byte) (r : ObjRec) : Bool :=
  bitAt (fieldAt b 2 1) 0 &&
  (List.range 4).all (fun p => within (fieldAt b (4 + 2 * p) 2) (nth r.mean p) (fieldAt b (12 + 2 * p) 2)) &&
  within (fieldAt b 20 4) r.area (fieldAt b 24 4) && within (fieldAt b 28 2) r.elong (fieldAt b 30 2)

/-- FB_CLASS of an object under a table, or without one (R434, R435). DEDUCED: log entry 49. -/
def fbVerdict (table : Option (List Byte)) (r : ObjRec) : Nat :=
  match table with
  | none => 0xFFFF
  | some t =>
    if bitAt r.oflags 7 then 0xFFFF
    else match (List.range 64).find? (fun i => ruleMatches (bytesAt t (32 + 32 * i) 32) r) with
      | some i => fieldAt t (32 + 32 * i) 2
      | none => fieldAt t 0 2

/-! ### The pass over the pixels (R163) -/

/-- Sum of absolute differences over the compared planes. -/
def fgDiff (mask : Nat) (ss bs : List Px) : Nat :=
  ((List.range ss.length).zip (ss.zip bs)).foldl (fun t e =>
    if bitAt mask e.1 then t + (e.2.1.v - e.2.2.v).natAbs else t) 0

/-- A compared plane's sample at a pixel is bad, so the decision it feeds is (R137). -/
def fgFedBad (mask : Nat) (ss bs : List Px) : Bool :=
  ((List.range ss.length).zip (ss.zip bs)).any (fun e => bitAt mask e.1 && (e.2.1.bad || e.2.2.bad))

/-- A background sample after its update. -/
def bgUpdate (al : Nat) (s b : Px) : Px := { v := b.v + (s.v - b.v + 2 ^ (al - 1)) / 2 ^ al, bad := s.bad || b.bad }

/-- A row of a list of planes. -/
def rowsAt (gs : List Grid) (y : Nat) : List (List Px) := gs.map (fun g => (g[y]?).getD [])

/-- A column of rows. -/
def colAt (rows : List (List Px)) (x : Nat) : List Px := rows.map (fun r => (r[x]?).getD { v := 0, bad := false })

/-- The pixels of a run's lines as the labelling sees them. -/
def objPixels (d : List Byte) (src bg : List Grid) (disp : Option Grid) : List (List ObjPx) :=
  let r := pref d 48
  let learn := bitAt (fieldAt d 2 1) 5
  (List.range r.height).map (fun y =>
    let sr := rowsAt src y
    let br := rowsAt bg y
    (List.range r.width).map (fun x =>
      let ss := colAt sr x
      let bs := colAt br x
      let dp := disp.map (fun g => gAt g x y)
      { fg := ! learn && decide (fieldAt d 4 2 < fgDiff (fieldAt d 1 1) ss bs), s := ss.map (fun p => p.v.toNat),
        disp := dp.bind (fun p => if isCode p.v then none else some p.v),
        bad := ss.any (fun p => p.bad) || bs.any (fun p => p.bad) || dp.elim false (fun p => p.bad),
        fed := ! learn && fgFedBad (fieldAt d 1 1) ss bs }))

/-- A background sample after a run: what decided that it is updated feeds it too (R137, R163). -/
def bgSample (al : Nat) (q : ObjPx) (s b : Px) : Px :=
  let p := if q.fg then b else bgUpdate al s b
  { p with bad := p.bad || q.fed }

/-- The background after a run. -/
def bgAfter (d : List Byte) (px : List (List ObjPx)) (src bg : List Grid) : List Grid :=
  let al := fieldAt d 3 1
  (src.zip bg).map (fun e => ((e.1.zip e.2).zip px).map (fun r => ((r.1.1.zip r.1.2).zip r.2).map (fun p =>
    bgSample al p.2 p.1.1 p.1.2)))

/-- The run rewrites BG. -/
def bgWritten (d : List Byte) : Bool := bitAt (fieldAt d 2 1) 0 || bitAt (fieldAt d 2 1) 5

/-- Components counted as dropped. -/
def countDropped (s : State) (n : Nat) : State := { s with objDropped := s.objDropped + n }

/-- The pass of an OBX run over its pixels: the background, the components, and what of them is to be emitted. A LEARN run
emits nothing: a component carried into it closes and is counted as dropped (R163). DEDUCED: log entry 50. -/
def obxPass (s : State) (dom : Nat) (r : EngRun) (n : Nat) : State × EngRun :=
  let d := r.desc
  let ctrl := fieldAt d 2 1
  let sp := pref d 48
  let bp := pref d 80
  let pp := pref d 112
  let slot := slotOf sp r.f 0
  let useDisp := bitAt ctrl 2
  let (s', src) := readPlanes s dom sp slot
  let (s', bg) := readPlanes s' dom bp 0
  let (s', dg) := if useDisp then (fun (x : State × Grid) => (x.1, some x.2)) (readPlane s' dom pp (slotOf pp r.f 0) 0)
    else (s', none)
  let px := objPixels d src bg dg
  let (s', pg) := if bgWritten d then writePlanes s' dom bp 0 (bgAfter d px src bg) else (s', 0)
  let (closed, carried) := labelRun r.hdrA r.stale (bitAt ctrl 1) sp.height (fieldAt d 10 1) (tabGet [] s.obxCarry n) px
  let big := if bitAt ctrl 5 then [] else closed.filter (fun c => decide (fieldAt d 6 2 ≤ c.pixels.length))
  let fails := planeFails s sp slot (List.range sp.planes) ++ planeFails s bp 0 (List.range bp.planes) ++
    (if useDisp then planeFails s pp (slotOf pp r.f 0) [0] else [])
  let s' := countDropped { s' with obxCarry := tabPut [] n carried s'.obxCarry } (closed.length - big.length)
  (s', { r with
    poison := r.poison || src.any gridBad || bg.any gridBad || dg.elim false gridBad,
    coded := dg.elim false (fun g => codeCount 2 g != 0), poisonGran := pg, objects := big.take (fieldAt d 8 2),
    lost := big.length - fieldAt d 8 2, fails := r.fails ++ fails })

/-! ### Runs -/

/-- The domain in which a graph's nodes act. -/
def nodeDom (s : State) (n : Nat) : Nat :=
  ((tabGet? s.nodes n).bind (fun x => tabGet? s.graphs x.graph)).elim 0 (fun g => g.dom)

/-- ENGINE_RUN_START: the engine reads its descriptor, source headers and meshes, and OBX its pixels (R115, R120, R121, R129).
DEDUCED: log entry 48. -/
def startRun (s : State) (e : Nat) (r : EngRun) (n : Nat) : State :=
  let d := r.desc
  let dom := nodeDom s n
  let s := emitTrace s 3 e false 0 (nodeWork r.f n) []
  let (s, hs, fails, bad) := readHeaders s dom d r.f
  let a := hs.headD hdrNone
  let b := (hs[1]?).getD hdrNone
  let stale := isStale d r.f a b
  let (s, ms, mf) := readMaps s dom d
  let r := { r with
    tBegin := s.time, begun := true, hdrA := a, hdrB := b, stale := stale, poison := bad, maps := ms, fails := fails ++ mf }
  let s := bump s 3 e 1 1
  let s := if stale then
    bump (postEvent s 0x0304 3 e (leBytes 1 (e / 6) ++ leBytes 1 (e % 6) ++ leBytes 2 0 ++ leBytes 4 r.f)) 3 e 5 1
    else s
  if e % 6 = 5 then
    let (s, r) := obxPass s dom r n
    setEngine s e r
  else setEngine s e r

/-- ENGINE_RUN_START. -/
def doEngineRunStart (engine : Nat) (s : State) : State :=
  match tabGet? s.engines engine with
  | none => s
  | some r => match r.node with
    | none => s
    | some n =>
      if r.begun || r.stopping || ! islandRuns s (18 + engine / 6) || unitStalled s 3 engine then s
      else startRun s engine r n

/-- ENGINE_RUN_START (R115, R120, R121, R164). -/
def execEngineRunStart (engine : Nat) (ecc : List EccHit) (s : State) : Host.Outcome State Fault Refusal :=
  .next (doEngineRunStart engine (plant ecc s))

/-- The work of a run other than OBX, and the report of an OBX run whose objects are all emitted.
DEDUCED: log entry 48. -/
def runEngine (s : State) (e dom : Nat) (r : EngRun) : State × List EngRep :=
  match e % 6 with
  | 0 => runPyr s dom r
  | 1 => runWrp s dom r
  | 2 => runFlw s dom r
  | 3 => runSte s dom r
  | 4 => runFea s dom r
  | _ => (s, [{ repNone with poisonGran := r.poisonGran, special := r.emitted, coded := r.coded }])

/-- The engine's end trace record and its counters (R465, R478). -/
def engineEnd (s : State) (e : Nat) (r : EngRun) (n : Nat) (p : EngRep) (st : Status) : State :=
  let s := emitTrace s 3 e false 1 (nodeWork r.f n)
    [(satTo 32 p.oob, satTo 32 p.codeOut, statusCode st, eflagsOf r p % 256, satTo 32 p.poisonGran)]
  bump (bump (bump (bump s 3 e 3 p.codeOut) 3 e 4 p.oob) 3 e 6 p.poisonGran) 3 e 7 p.special

/-- NONLOCAL_MAP of a warp whose map is not local (R136). -/
def nonlocalEvent (s : State) (e : Nat) (r : EngRun) (p : EngRep) : State :=
  if p.nonlocal then postEvent s 0x0305 3 e (leBytes 1 (e / 6) ++ [0, 0, 0] ++ leBytes 4 r.f) else s

/-- OBJ_OVERFLOW of a run with objects beyond MAX_OBJ (R165). DEDUCED: log entry 50. -/
def overflowEvent (s : State) (e : Nat) (r : EngRun) : State :=
  if r.lost = 0 then s
  else
    let p := fieldAt r.desc 11 1
    raiseDoubt s 0x0306 3 e (leBytes 1 (e / 6) ++ leBytes 1 p ++ leBytes 2 0 ++ leBytes 4 r.f ++ leBytes 4 (satTo 32 r.lost))
      rowSensor kindPipe p

/-- The engine is free. -/
def freeEngine (s : State) (e : Nat) : State := { s with engines := tabErase e s.engines }

/-- TRAVEL_MISMATCH of a run that has ended, for every failing granule that it met (R189). -/
def runMismatch (s : State) (e : Nat) (fails : List Nat) : State :=
  travelMismatch s 3 e fails.eraseDups.length 0xFF (fails.headD 0 * 64)

/-- TRAVEL_MISMATCH of the fallback classifier, for the rule granules that a run's objects met; the address of a granule of the
rule memory the manual does not give (R189, R435, log entry 8). -/
def rulesMismatch (s : State) (e : Nat) (r : EngRun) : State :=
  if r.ruleBad.isEmpty then s
  else travelMismatch { s with freeCnt := s.freeCnt + 1 } 11 (18 + e / 6) r.ruleBad.eraseDups.length 0xFF
    (Config.freeNat s.freeCnt (r.ruleBad.headD 0) % 2 ^ 64)

/-- A run completes: outputs and band flags, headers, last-band flags, RELEASE_SRC, and the completion signal (R139).
DEDUCED: log entry 48. -/
def finishRun (s : State) (e : Nat) (r : EngRun) (n : Nat) : State :=
  let dom := nodeDom s n
  let (s, ps) := runEngine s e dom r
  let p := ps.foldl repJoin repNone
  let s := rulesMismatch (runMismatch s e (r.fails ++ p.fails)) e r
  let s := overflowEvent (nonlocalEvent s e r p) e r
  let s := { p with special := if e % 6 = 1 then bit01 p.nonlocal else p.special } |> fun q =>
    engineEnd (setLast (writeHeaders (setBands s r.desc r.f) dom r ps) r.desc r.f) e r n q p.status
  let s := if p.status = .ok then (listFlag r.desc r.f).foldl (fun s fl => flagSet s fl r.f) s else s
  nodeUnitDone (freeEngine (releaseSources s r.desc r.f n) e) n

/-- The lines of destination `i` that a stopped run has finished: how far it came is a free value, `c` the counter it is drawn
at. DESIGN CHOICE: log entry 48. -/
def linesDone (c i : Nat) (x : PRef) : Nat := Config.freeNat c (8 + i) % (x.height + 1)

/-- A count of which a stopped run has reached a part. -/
def partOf (c k v : Nat) : Nat := Config.freeNat c k % (v + 1)

/-- What a stopped run reports of the run that it did not finish. -/
def stoppedRep (c : Nat) (p : EngRep) : EngRep :=
  { p with oob := partOf c 0 p.oob, codeOut := partOf c 1 p.codeOut, poisonGran := partOf c 2 p.poisonGran,
           special := partOf c 3 p.special }

/-- The lines of a slot from a number on are undefined (R140). DESIGN CHOICE: log entry 7. -/
def restUndefined (s : State) (x : PRef) (slot lines : Nat) : State :=
  (List.range x.planes).foldl (fun s p => ((List.range x.height).drop lines).foldl (fun s y =>
    scramble s (lineAddr x slot p y) (64 * cdiv (x.width * sampleBytes x) 64)) s) s

/-- What a run leaves of its planes when it is stopped: the lines it has finished, the flags of the bands that they complete,
and the rest undefined (R140). -/
def stopPlanes (s : State) (c f : Nat) (xs : List PRef) : State :=
  ((List.range xs.length).zip xs).foldl (fun s e =>
    let n := linesDone c e.1 e.2
    setBandsTo (restUndefined s e.2 (slotOf e.2 f 0) n) e.2 f n) s

/-- The part of a run that was done when the graph's stop ended it: planes line by line, FEA's records without their header,
OBX's background (R140, R171). DESIGN CHOICE: log entry 48. -/
def stopWork (s : State) (e dom : Nat) (r : EngRun) : State × EngRep :=
  let c := s.freeCnt
  let s := { s with freeCnt := c + 1 }
  let d := r.desc
  match e % 6 with
  | 4 => (scramble s (listAddr d r.f + 64) (48 * fieldAt d 14 2), repNone)
  | 5 =>
    let bg := pref d 80
    (if bgWritten d then restUndefined s bg 0 (linesDone c 0 bg) else s,
      { repNone with poisonGran := r.poisonGran, special := r.emitted, coded := r.coded })
  | _ =>
    let (s, ps) := runEngine s e dom r
    (stopPlanes s c r.f ((dstRefs d).map (·.1)), stoppedRep c (ps.foldl repJoin repNone))

/-- A stopped run ends after the output line in progress: no header, no last-band flag; source slots are released, and
objects not emitted are counted (R140, R165, R171). DEDUCED: log entry 48. -/
def stopRun (s : State) (e : Nat) (r : EngRun) (n : Nat) : State :=
  if ! r.begun then releaseSources (freeEngine s e) r.desc r.f n
  else
    let (s, p) := stopWork s e (nodeDom s n) r
    let s := overflowEvent (rulesMismatch (runMismatch s e (r.fails ++ p.fails)) e r) e r
    let s := engineEnd s e r n p .stopped
    releaseSources (countDropped (freeEngine s e) r.objects.length) r.desc r.f n

/-- ENGINE_RUN_DONE: an OBX run, which has read at its start, ends only when its objects have been emitted and its last item
accepted. -/
def doEngineRunDone (engine : Nat) (s : State) : State :=
  match tabGet? s.engines engine with
  | none => s
  | some r => match r.node with
    | none => s
    | some n =>
      if ! islandRuns s (18 + engine / 6) || unitStalled s 3 engine then s
      else if r.stopping then stopRun s engine r n
      else if ! r.begun || ! r.objects.isEmpty || s.pool.subs.any (fun x => x.node == n) then s
      else finishRun s engine r n

/-- ENGINE_RUN_DONE (R122 to R168, R139, R140, R171). -/
def execEngineRunDone (engine : Nat) (ecc : List EccHit) (s : State) : Host.Outcome State Fault Refusal :=
  .next (doEngineRunDone engine (plant ecc s))

/-! ### OBX_OBJECT_EMIT (R166, R168, R407) -/

/-- The ring entry of an OBJ_ID is free (R168). -/
def ringFree (s : State) (d : List Byte) (id : Nat) : Bool :=
  ! bitAt (fieldAt d 2 1) 4 ||
  ! s.ringBusy.any (fun b => b.1 == fieldAt d 12 2 && b.2 % max 1 (fieldAt d 24 2) == id % max 1 (fieldAt d 24 2))

/-- OBX can emit its next object: entry free, stub slot free, and no earlier item waiting for the pool. -/
def canEmit (s : State) (d : List Byte) (n id : Nat) : Bool :=
  ringFree s d id && (! bitAt (fieldAt d 2 1) 4 || stubFree s (fieldAt d 12 2) id) && ! s.pool.subs.any (fun x => x.node == n)

/-- The work item of an object (table *Work item*). -/
def objItem (d : List Byte) (id addr : Nat) : List Byte :=
  leBytes 4 id ++ leBytes 2 (fieldAt d 12 2) ++ leBytes 1 (fieldAt d 14 1) ++ [0] ++ leBytes 6 addr ++ [0, 0]

/-- The record, the stub and the item of one object; a rule granule that fails leaves it without a verdict (R435).
DEDUCED: log entry 50. -/
def emitObject (s : State) (e : Nat) (r : EngRun) (n : Nat) (c : Comp) (rest : List Comp) : State :=
  let d := r.desc
  let pipe := fieldAt d 11 1
  let flow := fieldAt d 12 2
  let id := tabGet 0 s.objNext pipe
  let o := objRecord d c id
  let addr := fieldAt d 16 8 + id % max 1 (fieldAt d 24 2) * 64
  let rel := ((tabGet? s.nodes n).bind (fun x => x.run)).elim s.time (fun x => x.rel)
  let s := (writeLocal s (nodeDom s n) addr o.bytes c.poison).1
  let s := { s with objNext := tabSet pipe ((id + 1) % 2 ^ 32) s.objNext }
  let bad := if (tabGet? s.safety.fbc pipe).isNone then [] else ruleFails s pipe
  let s := setEngine s e { r with
    objects := rest, emitted := r.emitted + 1, poisonGran := r.poisonGran + bit01 c.poison, ruleBad := r.ruleBad ++ bad }
  if ! bitAt (fieldAt d 2 1) 4 then s
  else
    let s := deliverStub s flow
      { seq := id, frameCnt := o.frameCnt, tObj := o.tObj, tUnc := o.tUnc, pipe := pipe, flags := o.flags, oflags := o.oflags,
        fbClass := if bad.isEmpty then fbVerdict (tabGet? s.safety.fbc pipe) o else 0xFFFF, poison := c.poison }
    { s with
      ringBusy := s.ringBusy ++ [(flow, id)],
      pool := { s.pool with subs := s.pool.subs ++ [{ node := n, bytes := objItem d id addr, f := r.f, rel := rel }] } }

/-- OBX_OBJECT_EMIT: the cluster's OBX emits its next object when its ring entry, its stub slot and the pool allow. -/
def doObxObjectEmit (cluster : Nat) (s : State) : State :=
  let e := 6 * cluster + 5
  match tabGet? s.engines e with
  | none => s
  | some r => match r.node, r.objects with
    | some n, c :: rest =>
      if r.stopping || ! islandRuns s (18 + cluster) || unitStalled s 3 e ||
          ! canEmit s r.desc n (tabGet 0 s.objNext (fieldAt r.desc 11 1)) then s
      else emitObject s e r n c rest
    | _, _ => s

/-- OBX_OBJECT_EMIT (R165, R166, R167, R168, R407). -/
def execObxObjectEmit (cluster : Nat) (s : State) : Host.Outcome State Fault Refusal := .next (doObxObjectEmit cluster s)

end Sys2Proof.Machine
end

