-- ==== Sys2Proof/Machine/CoreRows.lean ====
section
/-! DEFINITION. A unit of work on a core: its start, its scalar instructions, the issue, start and completion of its
operations, SPAWN, and its completion (R232, R244 to R247, R250 to R255, R273, R274). -/

namespace Sys2Proof.Machine

open Sys2Proof

/-! ### Starting (R250, R251) -/

/-- CORE_UNIT_START: the unit of work placed on a core begins; every register but those of R251's table holds 0.
DEDUCED: log entry 54. -/
def doCoreUnitStart (c : Nat) (s : State) : State :=
  match (coreOf s c).unit with
  | none => s
  | some u =>
    if u.begun || ! islandRuns s (2 + c / 16) then s
    else
      let u := { u with begun := true, start := s.time, rnd := defaultRound s }
      let s := setCore s c { coreOf s c with acc := [], accSet := 0, vregs := [], vpoison := 0, vmask := [] }
      emitTrace (setUnit s c (some u)) 0 c false 0 (unitWork u) []

/-- CORE_UNIT_START (R251). -/
def execCoreUnitStart (core : Nat) (s : State) : Host.Outcome State Fault Refusal := .next (doCoreUnitStart core s)

/-! ### Scalar instructions (R244, R252) -/

/-- A scalar register; register 0 reads zero. -/
def sReg (u : CoreUnit) (k : Nat) : Nat := if k = 0 then 0 else nth u.regs k

/-- A failing or poisoned granule fed a scalar register (R189). -/
def sBad (u : CoreUnit) (k : Nat) : Bool := u.taint.getLsbD k

/-- A scalar register written, modulo 2^32, with whether a bad granule fed it; register 0 stays. -/
def setSReg (u : CoreUnit) (k v : Nat) (bad : Bool) : CoreUnit :=
  let bit := (1#32) <<< k
  if k = 0 then u
  else { u with regs := u.regs.set k (v % 2 ^ 32), taint := if bad then u.taint ||| bit else u.taint &&& ~~~ bit }

/-- The result of ADD to MUL. -/
def scalarAlu (op a b : Nat) : Nat :=
  match op with
  | 0x01 => a + b
  | 0x02 => a + 2 ^ 32 - b
  | 0x03 => a &&& b
  | 0x04 => a ||| b
  | 0x05 => a ^^^ b
  | 0x06 => a * 2 ^ (b % 32)
  | 0x07 => a / 2 ^ (b % 32)
  | 0x08 => unsignedOf 32 (signedOf 32 a / 2 ^ (b % 32))
  | _ => a * b

/-- A branch is taken. -/
def branchTaken (op a b : Nat) : Bool :=
  match op with
  | 0x18 => decide (a = b)
  | 0x19 => decide (a ≠ b)
  | 0x1A => decide (signedOf 32 a < signedOf 32 b)
  | _ => decide (a < b)

/-- A register plus a sign-extended IMM, modulo 2^32. -/
def plusImm (a imm : Nat) : Nat := unsignedOf 32 ((a : Int) + signedOf 16 imm)

/-- OP_REFUSED (R254). -/
def opRefused (s : State) (c : Nat) (u : CoreUnit) (op : Nat) (st : Status) (issue : Nat) : State :=
  raiseDoubt s 0x0308 0 c
    (leBytes 1 c ++ leBytes 1 op ++ leBytes 2 (statusCode st) ++ leBytes 4 issue ++ leBytes 4 (unitWork u)) rowCore kindCore c

/-- A unit of work ends early: as a stop does, with OP_REFUSED and its status (R252, R254). -/
def endEarly (s : State) (c : Nat) (u : CoreUnit) (op : Nat) (st : Status) (issue : Nat) : State :=
  let (s, u) := coreStop s c u
  let u := { u with status := st, refused := some issue }
  opRefused (setUnit s c (some u)) c u op st issue

/-- A scalar instruction that ends the unit of work; it has no issue number. DEDUCED: log entry 54. -/
def scalarFault (s : State) (c : Nat) (u : CoreUnit) (op : Nat) (st : Status) : State := endEarly s c u op st 0xFFFFFFFF

/-- Footprints of operations that are not complete meet a scalar access to a row (R246). -/
def rowBusy (u : CoreUnit) (row : Nat) (store : Bool) : Bool :=
  u.ops.any (fun o => anyMeet o.writes [(row, row)] || (store && anyMeet o.reads [(row, row)]))

/-- A load or store of `n` bytes at an address cannot be: misaligned, outside the scratchpad, or an odd register pair. -/
def accessBad (n a rd : Nat) : Bool := a % n != 0 || decide (spmSize < a + n) || (n == 8 && rd % 2 == 1)

/-- A load; `bad` says that a bad granule fed its address or the instruction. -/
def scalarLoad (s : State) (c : Nat) (u : CoreUnit) (n a rd : Nat) (bad : Bool) : State :=
  let s := meetRange (spmOf c + a) n s
  let v := leNat (spmBytes s c a n)
  let bad := bad || rangeBad s (spmOf c + a) n
  let u := noteFails u (rangeFailing s (spmOf c + a) n)
  let u := setSReg u rd v bad
  let u := if n = 8 then setSReg u (rd + 1) (v / 2 ^ 32) bad else u
  setUnit s c (some { u with pc := u.pc + 1 })

/-- A store; what a bad granule fed is stored poisoned (R189). -/
def scalarStore (s : State) (c : Nat) (u : CoreUnit) (n a rd : Nat) (bad : Bool) : State :=
  let v := sReg u rd + (if n = 8 then sReg u (rd + 1) * 2 ^ 32 else 0)
  let bad := bad || sBad u rd || (n == 8 && sBad u (rd + 1))
  putBytes (meetMerge (spmOf c + a) n (setUnit s c (some { u with pc := u.pc + 1 }))) (spmOf c + a) (leBytes n v) bad

/-- A scalar instruction with its fields decoded; `bad` says that its own granule is. DEDUCED: log entry 54. -/
def scalarExec (s : State) (c : Nat) (u : CoreUnit) (w : Nat) (bad : Bool) : State :=
  let op := bitsAt w 26 6
  let rd := bitsAt w 21 5
  let ra := sReg u (bitsAt w 16 5)
  let imm := bitsAt w 0 16
  let rbv := sReg u (bitsAt w 11 5)
  let fed := bad || sBad u (bitsAt w 16 5)
  let put := fun (u : CoreUnit) => setUnit s c (some { u with pc := u.pc + 1 })
  if op = 0 then setUnit s c (some { u with ended := true })
  else if op ≤ 9 then
    (if bitsAt w 0 11 ≠ 0 then scalarFault s c u op .badField
     else put (setSReg u rd (scalarAlu op ra rbv) (fed || sBad u (bitsAt w 11 5))))
  else if op = 0x0A then put (setSReg u rd (plusImm ra imm) fed)
  else if op = 0x0B then put (setSReg u rd (imm * 65536) bad)
  else if op = 0x0C then put (setSReg u rd (ra ||| imm) fed)
  else if 0x10 ≤ op ∧ op ≤ 0x17 then
    let n := 2 ^ (op % 4)
    let a := plusImm ra imm
    let store := decide (0x14 ≤ op)
    if accessBad n a rd then scalarFault s c u op .badParam
    else if rowBusy u (a / 64) store then s
    else if store then scalarStore s c u n a rd fed else scalarLoad s c u n a rd fed
  else if 0x18 ≤ op ∧ op ≤ 0x1B then
    (if branchTaken op ra (sReg u rd) then
      let t := (u.pc : Int) + signedOf 16 imm
      if t < 0 ∨ (u.listLen : Int) ≤ t then scalarFault s c u op .badParam
      else setUnit s c (some { u with pc := t.toNat })
    else put u)
  else if op = 0x1C then put { u with pendingIssue := some (plusImm ra imm) }
  else scalarFault s c u op .badField

/-- A fault without an instruction: the opcode that its event names is free.
DESIGN CHOICE: log entry 8. DEDUCED: log entry 54. -/
def listEndFault (s : State) (c : Nat) (u : CoreUnit) : State :=
  scalarFault { s with freeCnt := s.freeCnt + 1 } c u (Config.freeNat s.freeCnt c % 256) .badParam

/-- SCALAR_INSTRUCTION: the scalar unit of a core executes its next instruction. -/
def doScalarInstruction (c : Nat) (s : State) : State :=
  match (coreOf s c).unit with
  | none => s
  | some u =>
    if ! u.begun || u.ended || u.pendingIssue.isSome || ! islandRuns s (2 + c / 16) then s
    else
      let a := 64 * u.list + 4 * u.pc
      if u.listLen ≤ u.pc ∨ spmSize < a + 4 then listEndFault s c u
      else
        let s := meetRange (spmOf c + a) 4 s
        scalarExec s c (noteFails u (rangeFailing s (spmOf c + a) 4)) (leNat (spmBytes s c a 4)) (rangeBad s (spmOf c + a) 4)

/-- SCALAR_INSTRUCTION (R252). -/
def execScalarInstruction (core : Nat) (ecc : List EccHit) (s : State) : Host.Outcome State Fault Refusal :=
  .next (doScalarInstruction core (plant ecc s))

/-! ### Issue (R245, R253, R254) -/

/-- The unit of work is a pool item. -/
def isItem (u : CoreUnit) : Bool :=
  match u.work with
  | .item _ _ _ => true
  | .node _ => false

/-- The checks of an opcode's own parameters, and of the scale records of its inputs. DEDUCED: log entry 51. -/
def opChecks (s : State) (c : Nat) (u : CoreUnit) (r : List Byte) (td : Nat → TDesc) : List (Bool × Status) :=
  ((opSlots r).filter (fun e => e.2 == .coreRead)).flatMap (fun e => scaleChecks s c (td e.1)) ++
  match recOpcode r with
  | 0x01 => matmulChecks s c r td
  | 0x02 => convChecks s c r td
  | 0x03 => dwconvChecks s c r td
  | 0x04 => poolChecks s c r td
  | 0x05 => eltChecks s c r td
  | 0x06 => requantChecks s c r td
  | 0x07 => concatChecks s c r td
  | 0x08 => resizeChecks r td
  | 0x09 => softmaxChecks r td
  | 0x0A => normChecks s c r td
  | 0x0B => argmaxChecks r td
  | 0x0C => topkChecks r td
  | 0x0D => cropChecks r td
  | 0x0E => [bp (! isItem u), bp (decide (spmRows ≤ fieldAt r 16 2))]
  | 0x0F => [bp (isItem u), bp (decide (spmRows ≤ fieldAt r 16 2))]
  | 0x10 => vprogChecks s c r
  | _ => []

/-- The status that refuses a record, if any (R254). An opcode's own checks are made on descriptors that pass theirs.
DEDUCED: log entry 51. -/
def recordRefusal (s : State) (c : Nat) (u : CoreUnit) (r : List Byte) : Option Status :=
  let tds := loadTds s c r
  let td := fun (k : Nat) => tdesc ((tds[k]?).getD [])
  let first := (recReserved r, Status.badField) :: (opSlots r).flatMap (slotChecks s c r)
  match worstOf first with
  | some .badField => some .badField
  | some st => some ((worstOf ((opChecks s c u r td ++ first))).getD st)
  | none => worstOf (opChecks s c u r td ++ [(overlaps r tds td, .overlap)])

/-- Failing granules of a record, its descriptors, its requantization records and its program (R189, R305). -/
def recordFails (s : State) (c : Nat) (r : List Byte) : List Nat :=
  (opSlots r).flatMap (fun e => if tdRowFits (slotRow r e.1) then rangeFailing s (spmOf c + 64 * slotRow r e.1) 128 else []) ++
  (if recOpcode r = 0x10 then rangeFailing s (spmOf c + 64 * fieldAt r 16 2) (4 * fieldAt r 18 2) else [])

/-- The reads of an issue meet the errors in the record, its descriptors and its program (R318). -/
def meetRecord (s : State) (c a : Nat) : State :=
  let r := spmBytes s c a 64
  let tds := (opSlots r).flatMap (fun e => if tdRowFits (slotRow r e.1) then gransOf (spmOf c + 64 * slotRow r e.1) 128 else [])
  let prog := if recOpcode r = 0x10 then gransOf (spmOf c + 64 * fieldAt r 16 2) (4 * fieldAt r 18 2) else []
  meet (fun g => (granOf (spmOf c + a) :: tds ++ prog).contains g) s

/-- Operations of a queue that have not started (R245). -/
def queueLen (u : CoreUnit) (vector : Bool) : Nat := (u.ops.filter (fun o => o.vector == vector && ! o.started)).length

/-- The queue of an opcode is full. -/
def queueFull (u : CoreUnit) (vector : Bool) : Bool := decide ((if vector then 8 else 4) ≤ queueLen u vector)

/-- The operation that a record makes. -/
def opOfRecord (s : State) (c : Nat) (u : CoreUnit) (r : List Byte) : CoreOp :=
  let tds := loadTds s c r
  let td := fun (k : Nat) => tdesc ((tds[k]?).getD [])
  { issueNo := u.issued, vector := decide (3 ≤ recOpcode r), record := r,
    tds := if recOpcode r = 0x10 then [vProgram s c r] else tds, started := false, pipe := 0, reads := readRows r td,
    writes := writeRows r td, snap := u.regs, snapBad := u.taint }

/-- A record is refused: the unit of work ends, and the number that ISSUE took is named. -/
def refuseRecord (s : State) (c : Nat) (u : CoreUnit) (op : Nat) (st : Status) : State :=
  endEarly s c { u with issued := u.issued + 1 } op st u.issued

/-- ISSUE of the record at a row. -/
def issueRow (s : State) (c : Nat) (u : CoreUnit) (row : Nat) : State :=
  if spmRows ≤ row then
    refuseRecord { s with freeCnt := s.freeCnt + 1 } c u (Config.freeNat s.freeCnt c % 256) .badParam
  else
    let s := meetRecord s c (64 * row)
    let r := spmBytes s c (64 * row) 64
    let u' := noteFails u (rangeFailing s (spmOf c + 64 * row) 64 ++ recordFails s c r)
    if rangeBad s (spmOf c + 64 * row) 64 then refuseRecord s c u' (recOpcode r) .badField
    else match recordRefusal s c u r with
      | some st => refuseRecord s c u' (recOpcode r) st
      | none =>
        if queueFull u (decide (3 ≤ recOpcode r)) then s
        else setUnit s c (some { u' with ops := u.ops ++ [opOfRecord s c u r], issued := u.issued + 1, pendingIssue := none })

/-- ISSUE: the record that the scalar unit issues is checked and queued, or refused. -/
def doIssue (c : Nat) (s : State) : State :=
  match (coreOf s c).unit with
  | none => s
  | some u =>
    if ! islandRuns s (2 + c / 16) then s
    else match u.pendingIssue with
      | none => s
      | some row => issueRow s c u row

/-- ISSUE (R254). -/
def execIssue (core : Nat) (ecc : List EccHit) (s : State) : Host.Outcome State Fault Refusal :=
  .next (doIssue core (plant ecc s))

/-! ### Start of operations (R245, R246) -/

/-- No earlier operation that is not complete bars the start of a new one. -/
def hazardFree (earlier : List CoreOp) (o : CoreOp) : Bool :=
  earlier.all (fun e => ! anyMeet e.writes (o.reads ++ o.writes) && ! anyMeet e.reads o.writes)

/-- REGMASK of a VPROG; no register of any other operation. -/
def opRegs (o : CoreOp) : Nat := if recOpcode o.record = 0x10 then fieldAt o.record 20 4 else 0

/-- The submission that a SPAWN makes: its node, the 16 bytes, and the node's stamp (R274, R285). -/
def spawnItem (s : State) (c : Nat) (u : CoreUnit) (row : Nat) : Option Submission :=
  match u.work with
  | .item _ _ _ => none
  | .node n =>
    let rel := ((tabGet? s.nodes n).bind (fun x => x.run)).elim 0 (fun r => r.rel)
    some { node := n, bytes := spmBytes s c (64 * row) 16, f := u.lo, rel := rel }

/-- A started SPAWN whose item the pool cannot accept holds the vector queue behind it (R274). -/
def spawnHolds (s : State) (c : Nat) (u : CoreUnit) : Bool :=
  u.ops.any (fun o => o.started && opIsSpawn o && (spawnItem s c u (fieldAt o.record 16 2)).elim false (fun x => ! acceptable s x))

/-- The pipe on which a vector operation can start: VP0 when both are free (R245), no VPROG's registers shared (R275), and
no SPAWN waiting (R274). -/
def freePipe (s : State) (c : Nat) (u : CoreUnit) (o : CoreOp) : Option Nat :=
  let run := u.ops.filter (fun e => e.vector && e.started)
  if spawnHolds s c u || run.any (fun e => decide (opRegs e &&& opRegs o ≠ 0)) then none
  else [0, 1].find? (fun p => ! run.any (fun e => e.pipe == p))

/-- The array is free. -/
def arrayFree (u : CoreUnit) : Bool := ! u.ops.any (fun o => ! o.vector && o.started)

/-- The operations with one of them started on a pipe. -/
def startOp (u : CoreUnit) (i pipe : Nat) : CoreUnit :=
  { u with ops := u.ops.mapIdx (fun k o => if k = i then { o with started := true, pipe := pipe } else o) }

/-- OP_START: the first operation of a queue starts when its conditions hold and its unit is free. -/
def doOpStart (c : Nat) (vector : Bool) (s : State) : State :=
  match (coreOf s c).unit with
  | none => s
  | some u =>
    match u.ops.findIdx? (fun o => o.vector == vector && ! o.started) with
    | none => s
    | some i => match u.ops[i]? with
      | none => s
      | some o =>
        if ! islandRuns s (2 + c / 16) || ! hazardFree (u.ops.take i) o then s
        else if vector then (match freePipe s c u o with
          | some p => setUnit s c (some (startOp u i p))
          | none => s)
        else if arrayFree u then setUnit s c (some (startOp u i 0)) else s

/-- OP_START (R246). -/
def execOpStart (core : Nat) (vector : Bool) (s : State) : Host.Outcome State Fault Refusal := .next (doOpStart core vector s)

/-! ### Completion of operations (R246) -/

/-- CORE_PARITY (R232). -/
def coreParity (s : State) (c : Nat) (u : CoreUnit) (o : CoreOp) : State :=
  raiseDoubt s 0x0307 0 c (leBytes 1 c ++ [0] ++ leBytes 2 (o.issueNo % 65536) ++ leBytes 4 (unitWork u)) rowCore kindCore c

/-- An operation has run: its counts, what it posted, its place in the queues, and one CORE_PARITY for each tile with a parity
error. DEDUCED: log entry 51. -/
def finishOp (s : State) (c : Nat) (u : CoreUnit) (o : CoreOp) (parity : List Nat) : State :=
  let (s', rep) := runOp s c u o none parity
  let u := if opIsPost o then deliverPost s' c u (fieldAt o.record 16 2) else addRep u rep
  let u := { u with ops := u.ops.filter (fun k => k.issueNo != o.issueNo) }
  (List.range rep.tiles).foldl (fun s _ => coreParity s c u o) (setUnit s' c (some u))

/-- A granule that an operation reads in its core's scratchpad: a row of its read footprints (R318). -/
def opReadsGran (c : Nat) (o : CoreOp) (g : Nat) : Bool :=
  let a := 64 * g
  decide (spmOf c ≤ a) && anyMeet o.reads [((a - spmOf c) / 64, (a - spmOf c) / 64)]

/-- OP_COMPLETE: a started operation completes; a SPAWN completes when the pool can take its item. -/
def doOpComplete (c issueNo : Nat) (parity : List Nat) (s : State) : State :=
  match (coreOf s c).unit with
  | none => s
  | some u => match u.ops.find? (fun o => o.issueNo == issueNo && o.started && ! opIsSpawn o) with
    | none => s
    | some o => if islandRuns s (2 + c / 16) then finishOp (meet (opReadsGran c o) s) c u o parity else s

/-- OP_COMPLETE (R246). -/
def execOpComplete (core issueNo : Nat) (parityTiles : List Nat) (ecc : List EccHit) (s : State) :
    Host.Outcome State Fault Refusal :=
  .next (doOpComplete core issueNo parityTiles (plant ecc s))

/-- SPAWN: a started SPAWN submits its item once the pool can accept it, and completes. DEDUCED: log entry 61. -/
def doSpawn (c : Nat) (s : State) : State :=
  match (coreOf s c).unit with
  | none => s
  | some u => match u.ops.find? (fun o => o.started && opIsSpawn o) with
    | none => s
    | some o =>
      let row := fieldAt o.record 16 2
      match spawnItem s c u row with
      | none => s
      | some x =>
        if ! islandRuns s (2 + c / 16) || ! islandRuns s 1 || ! acceptable s x then s
        else
          let s := meetRange (spmOf c + 64 * row) 16 s
          let u := noteFails u (rangeFailing s (spmOf c + 64 * row) 16)
          let u := { u with ops := u.ops.filter (fun k => k.issueNo != o.issueNo) }
          setUnit { s with pool := { s.pool with subs := s.pool.subs ++ [x] } } c (some u)

/-- SPAWN (R274). -/
def execSpawn (core : Nat) (ecc : List EccHit) (s : State) : Host.Outcome State Fault Refusal :=
  .next (doSpawn core (plant ecc s))

/-! ### Completion of a unit of work (R247) -/

/-- CORE_UNIT_COMPLETE: the list has ended and every operation has completed; the sequencer or the pool is signalled. -/
def doCoreUnitComplete (c : Nat) (s : State) : State :=
  match (coreOf s c).unit with
  | none => s
  | some u =>
    if ! u.begun || ! u.ended || ! u.ops.isEmpty || ! islandRuns s (2 + c / 16) then s
    else
      let s := bump (closeUnit s c u) 0 c 4 1
      match u.work with
      | .node n => nodeUnitDone s n
      | .item flow acc _ => signalPool s flow acc c u.posted u.status

/-- CORE_UNIT_COMPLETE (R247). -/
def execCoreUnitComplete (core : Nat) (s : State) : Host.Outcome State Fault Refusal := .next (doCoreUnitComplete core s)

end Sys2Proof.Machine
end

