-- ==== Sys2Proof/Machine/Monitor.lean ====
section
/-! DEFINITION. The safety monitor: the commands of group 0x05 (R426, R431, R434), the voltage, clock and REFCLK monitors
(R35, R42, R439, R461), frame intervals and their classification (R427 to R430), golden runs (R436, R437), DOUBT_N's pulse
(R433), and the self-tests of the checkers (R440, R441). -/

namespace Sys2Proof.Machine

open Sys2Proof

/-! ### The policy (R426) -/

/-- A policy's CHECK matches. -/
def policyCheck (pol : List Byte) : Bool := crc32c (pol.take 28) == fieldAt pol 28 4

/-- The offset of the first reserved field of a policy that is not zero. -/
def policyReserved (pol : List Byte) : Option Nat :=
  if fieldAt pol 2 2 ≠ 0 then some 2
  else if 256 ≤ fieldAt pol 12 2 then some 12
  else if 1024 ≤ fieldAt pol 14 2 then some 14
  else if zeroAt pol 20 8 then none else some 20

/-- A field that is neither 0 nor in a range. -/
def outOf (v lo hi : Nat) : Bool := v != 0 && (decide (v < lo) || decide (hi < v))

/-- The offset of the first field of a policy outside its range. -/
def policyParam (pol : List Byte) : Option Nat :=
  if outOf (fieldAt pol 0 1) 1 15 then some 0
  else if outOf (fieldAt pol 1 1) 1 15 then some 1
  else if outOf (fieldAt pol 4 4) 400000 4000000000 then some 4
  else if outOf (fieldAt pol 8 4) 2000000 16000000 then some 8
  else if polRecordMask pol % 4 ≠ 3 then some 12
  else if outOf (fieldAt pol 16 4) 1 40000000 then some 16
  else none

/-- Some graph is RUNNING or HELD. -/
def anyActive (s : State) : Bool := tabAny (fun _ g => g.st != .loaded) s.graphs

/-- The policy would change FI or SLOT. -/
def policyMoves (s : State) (pol : List Byte) : Bool :=
  polFI pol != polFI s.safety.policy || polSlot pol != polSlot s.safety.policy

/-- The policy in force replaced; intervals and slots are counted anew when their lengths change. -/
def setPolicy (s : State) (pol : List Byte) : State :=
  let moves := policyMoves s pol
  let x := { s.safety with policy := pol, armed := true }
  updateDoubt { s with
    safety := if moves then { x with interval := s.time / polFI pol, month := s.time / polSlot pol } else x }

/-- SAFETY_ARM (R426). DEDUCED: log entry 64. -/
def cmdSafetyArm (pol : List Byte) (s : State) : State × CmdRes :=
  if ! policyCheck pol then refuse s .crcErr
  else match policyReserved pol, policyParam pol with
    | some o, _ => refuseAt s .badField o
    | none, some o => refuseAt s .badParam o
    | none, none =>
      if anyActive s || (policyMoves s pol && ! s.graphs.isEmpty) then refuse s .busy else okDone (setPolicy s pol)

/-- SAFETY_ARM. -/
def execSafetyArm (h : CmdHdr) (policy : List Byte) (s : State) : Host.Outcome State Fault Refusal :=
  .next (runCommand h 0x0500 (cmdSafetyArm (padTo 32 policy)) s)

/-- SAFETY_DISARM (R426). DEDUCED: log entry 64. -/
def cmdSafetyDisarm (s : State) : State × CmdRes :=
  if anyActive s then refuse s .busy else okDone (updateDoubt { s with safety := { s.safety with armed := false } })

/-- SAFETY_DISARM. -/
def execSafetyDisarm (h : CmdHdr) (s : State) : Host.Outcome State Fault Refusal :=
  .next (runCommand h 0x0501 cmdSafetyDisarm s)

/-! ### Conditions seen and cleared (R431, R493) -/

/-- A state's code in a condition entry. -/
def cstateIdx : CState → Nat
  | .clear => 0
  | .transient => 1
  | .persistent => 2

/-- A condition entry. -/
def condEntry (s : State) (c : Cond) : List Byte :=
  let n := intervalOf s s.time
  leBytes 1 c.source ++ leBytes 1 c.kind ++ leBytes 2 c.scope ++ leBytes 1 (cstateIdx c.st) ++ leBytes 1 (satTo 8 c.passes) ++
  leBytes 2 (c.fails.filter (fun k => decide (n < k + 1000))).length ++ leBytes 4 (c.fails.headD 0) ++ leBytes 4 0

/-- SAFETY_STATUS. DEDUCED: log entry 64. -/
def cmdSafetyStatus (s : State) : State × CmdRes :=
  let open_ := s.safety.conds.filter (fun c => c.st != .clear)
  okWith s (s.safety.policy ++
    leBytes 4 (bit01 s.safety.armed + 2 * bit01 s.safety.smFault + 4 * bit01 s.safety.doubtLow) ++ leBytes 8 goldenBase ++
    leBytes 4 open_.length ++ open_.flatMap (condEntry s))

/-- SAFETY_STATUS (R493). -/
def execSafetyStatus (h : CmdHdr) (s : State) : Host.Outcome State Fault Refusal :=
  .next (runCommand h 0x0502 cmdSafetyStatus s)

/-- A condition that SAFETY_CLEAR may not clear (R431). -/
def clearBlocked (s : State) (c : Cond) : Bool :=
  c.level || c.source == rowStall ||
  (c.source == rowDeadlock && (tabGet? s.graphs c.scope).elim false (fun g => g.st != .loaded))

/-- A condition cleared by command: its history is emptied, and DOUBT_END is raised. -/
def clearCond (s : State) (c : Cond) : State :=
  if c.st = .clear then s
  else
    let c' := { c with st := .clear, passes := 0, fails := [] }
    let s := { s with safety := { s.safety with conds := putCond s.safety.conds c' } }
    updateDoubt (postEvent s 0x0502 11 0 (doubtArg c' (intervalOf s s.time)))

/-- Indices of a scope kind. -/
def kindCount (kind : Nat) : Nat :=
  match kind with
  | 0 => 1
  | 1 => 55
  | 2 => 256
  | 3 => 96
  | 4 => 16
  | 5 => 64
  | 6 => 4096
  | 7 => 16
  | _ => 0

/-- SAFETY_CLEAR (R431). DEDUCED: log entry 64. -/
def cmdSafetyClear (source kind scope : Nat) (s : State) : State × CmdRes :=
  if source = 0xFF then
    let kept := s.safety.conds.filter (fun c => c.st != .clear && clearBlocked s c)
    let s' := (s.safety.conds.filter (fun c => c.st != .clear && ! clearBlocked s c)).foldl clearCond s
    okWith s' (leBytes 4 kept.length ++ kept.flatMap (condEntry s'))
  else if source = 0 ∨ 15 < source then refuseAt s .badParam 0
  else if 7 < kind then refuseAt s .badParam 1
  else if kindCount kind ≤ scope then refuseAt s .badParam 2
  else
    let c := (s.safety.conds.find? (isCond source kind scope)).getD (condNew source kind scope)
    if source = rowStall || clearBlocked s c then refuse s .busy else okWith (clearCond s c) (leBytes 4 0)

/-- SAFETY_CLEAR. -/
def execSafetyClear (h : CmdHdr) (source kind scope : Nat) (s : State) : Host.Outcome State Fault Refusal :=
  .next (runCommand h 0x0503 (cmdSafetyClear source kind scope) s)

/-! ### Fallback tables (R434) -/

/-- Bytes of a fallback table. -/
def fbcLen : Nat := 2080

/-- The rule at an index of a table. -/
def fbcRule (t : List Byte) (i : Nat) : List Byte := bytesAt t (32 + 32 * i) 32

/-- A reserved field of a fallback table is not zero. -/
def fbcReserved (t : List Byte) : Bool :=
  ! zeroAt t 2 26 || (List.range 64).any (fun i => rb (fbcRule t i) 2 / 2 != 0 || rb (fbcRule t i) 3 != 0)

/-- A fallback table has a class 0xFFFF or a bound above its partner. -/
def fbcParam (t : List Byte) : Bool :=
  fieldAt t 0 2 == 0xFFFF || (List.range 64).any (fun i =>
    let r := fbcRule t i
    fieldAt r 0 2 == 0xFFFF || (List.range 4).any (fun k => decide (fieldAt r (12 + 2 * k) 2 < fieldAt r (4 + 2 * k) 2)) ||
    decide (fieldAt r 24 4 < fieldAt r 20 4) || decide (fieldAt r 30 2 < fieldAt r 28 2))

/-- A graph that is RUNNING or HELD reads a pipeline. -/
def pipeRead (s : State) (pipe : Nat) : Bool :=
  tabAny (fun _ g => g.st != .loaded && g.charge.pipes.contains pipe) s.graphs

/-- FBC_LOAD (R434): the table is read in the domain that the record's header names (R511). DEDUCED: log entry 64. -/
def cmdFbcLoad (h : CmdHdr) (pipe r addr : Nat) (s : State) : State × CmdRes :=
  if r ≠ 0 then refuseAt s .badField 1
  else if 63 < pipe then refuseAt s .badParam 0
  else if h.domain ≤ 1 ∨ 15 < h.domain then refuse s .denied
  else
    let (s, st, t) := readStruct s 13 0 h.domain addr fbcLen
    if st ≠ .ok then refuse s st
    else if crc32c (t.take 28 ++ t.drop 32) ≠ fieldAt t 28 4 then refuse s .crcErr
    else if fbcReserved t then refuseAt s .badField 4
    else if fbcParam t then refuseAt s .badParam 4
    else if pipeRead s pipe then refuse s .busy
    else
      let s := rulesWritten s pipe
      okDone { s with safety := { s.safety with fbc := tabSet pipe t s.safety.fbc } }

/-- FBC_LOAD. -/
def execFbcLoad (h : CmdHdr) (pipe r addr : Nat) (s : State) : Host.Outcome State Fault Refusal :=
  .next (runCommand h 0x0504 (cmdFbcLoad h pipe r addr) s)

/-- FBC_READ: the table in force; without one the command is not allowed. DEDUCED: log entry 64. -/
def cmdFbcRead (pipe r : Nat) (s : State) : State × CmdRes :=
  if pipe ≤ 63 && (tabGet? s.safety.fbc pipe).isNone then refuse s .state
  else if r ≠ 0 then refuseAt s .badField 1
  else if 63 < pipe then refuseAt s .badParam 0
  else okWith s (tabGet [] s.safety.fbc pipe)

/-- FBC_READ (R434). -/
def execFbcRead (h : CmdHdr) (pipe r : Nat) (s : State) : Host.Outcome State Fault Refusal :=
  .next (runCommand h 0x0505 (cmdFbcRead pipe r) s)

/-! ### Supplies and clocks (R35, R42, R439, R461) -/

/-- The AON island works and no trip holds. -/
def aonWorks (s : State) : Bool := aonRuns s && ! s.rst.tripped

/-- PMB_ALERT: VRM_ALERT, and no other action. -/
def doPmbAlert (s : State) : State :=
  if s.boot.fwReady && ! s.rst.tripped then postEvent s 0x0004 11 0 [] else s

/-- PMB_ALERT (R35). -/
def execPmbAlert (s : State) : Host.Outcome State Fault Refusal := .next (doPmbAlert s)

/-- REFCLK_LOSS: timestamps carry REF_LOST from here, and the level source begins. -/
def doRefclkLoss (s : State) : State :=
  if aonWorks s then
    let lost := match s.rst.refLostAt with
      | some t => some t
      | none => some s.time
    let s := { s with rst := { s.rst with refLostAt := lost, refGoodAt := none } }
    failCond (postEvent s 0x0005 11 0 []) rowRefclk kindDevice 0 true
  else s

/-- REFCLK_LOSS (R42). -/
def execRefclkLoss (s : State) : Host.Outcome State Fault Refusal := .next (doRefclkLoss s)

/-- VMON: a rail (or 0x80 + group) has lain outside its range for 1 µs; `mv` is the level measured. -/
def doVmon (rail mv : Nat) (s : State) : State :=
  if aonWorks s then failCond (postEvent s 0x0504 11 0 (leBytes 1 rail ++ [0] ++ leBytes 2 mv)) rowVmon kindDevice 0 true
  else s

/-- VMON (R439). -/
def execVmon (rail mv : Nat) (s : State) : Host.Outcome State Fault Refusal := .next (doVmon rail mv s)

/-- CLK_MON: the clock of a running island differs by more than 2 %; the deviation is in 1/100 %, as the event gives it.
DEDUCED: log entry 64. -/
def doClkMon (island : Nat) (ppm : Int) (s : State) : State :=
  if aonWorks s && decide (island < 55) && islandRuns s island && decide (200 < ppm.natAbs) then
    failCond (postEvent s 0x0505 11 island (leBytes 1 island ++ [0] ++ leBytes 2 (unsignedOf 16 ppm))) rowClk kindIsland island true
  else s

/-- CLK_MON (R439). -/
def execClkMon (island : Nat) (ppm : Int) (s : State) : Host.Outcome State Fault Refusal := .next (doClkMon island ppm s)

/-- DOUBT_LEVEL_END: the supplies, a clock or REFCLK have stayed in tolerance for 1 ms. -/
def doDoubtLevelEnd (source kind scope : Nat) (s : State) : State :=
  if aonWorks s && (source == rowClk || source == rowVmon || source == rowRefclk) then
    let s := endLevel s source kind scope
    if source = rowRefclk ∧ s.rst.refLostAt.isSome = true then { s with rst := { s.rst with refGoodAt := some s.time } } else s
  else s

/-- DOUBT_LEVEL_END (R428). -/
def execDoubtLevelEnd (source kind scope : Nat) (s : State) : Host.Outcome State Fault Refusal :=
  .next (doDoubtLevelEnd source kind scope s)

/-! ### Golden runs (R436, R437) -/

/-- The monitor runs: firmware has started it, and no trip holds. It goes on when firmware halts (R425).
DEDUCED: log entry 65. -/
def monitorRuns (s : State) : Bool := s.boot.fwReady && ! s.rst.tripped

/-- The island of a golden unit: a core, an engine, or an FBC named by its island (R514). -/
def goldenIsland (g : Golden) : Nat := islandOf g.cls g.unit

/-- A golden run is made on a unit: its island runs and, for a core, it is not fenced (R427). -/
def goldenLive (s : State) (g : Golden) : Bool :=
  islandRuns s (goldenIsland g) && ! (g.cls == 0 && (coreOf s g.unit).fenced)

/-- A golden run that waits for its unit. -/
def goldenNew (cls unit : Nat) : Golden := { cls := cls, unit := unit, started := none, done := false, passed := false }

/-- The golden runs of an interval: every core, engine and FBC of a running island (R436). DEDUCED: log entry 65. -/
def goldenRound (s : State) : List Golden :=
  ((List.range 256).map (goldenNew 0) ++ (List.range 96).map (goldenNew 3) ++
    (List.range 16).map (fun k => goldenNew 11 (18 + k))).filter (goldenLive s)

/-- The unit of a golden run. -/
def isGolden (cls unit : Nat) (g : Golden) : Bool := g.cls == cls && g.unit == unit

/-- Golden runs with one changed. -/
def modGolden (s : State) (cls unit : Nat) (p : Golden → Golden) : State :=
  { s with safety := { s.safety with golden := s.safety.golden.map (fun g => if isGolden cls unit g then p g else g) } }

/-- The end of the interval in progress. -/
def intervalEnd (s : State) : Nat := (s.safety.interval + 1) * fiOf s

/-- The longest duration of a golden run, in ticks; an FBC's has none but the interval (table *Golden runs*). -/
def goldenMax (s : State) (cls : Nat) : Option Nat :=
  match cls with
  | 0 => some (cdiv (1750 * 4000000) (max 1 s.power.cgKhz))
  | 3 => some 16384
  | _ => none

/-- The scope of a golden unit. -/
def goldenScope (cls unit : Nat) : Nat × Nat :=
  if cls = 0 then (kindCore, unit) else if cls = 3 then (kindEngine, unit) else (kindFbc, unit - 18)

/-- A work identifier of a golden run of the interval (R466). -/
def goldenWork (s : State) : Nat := s.safety.interval % 65536 * 32768

/-- GOLDEN_FAIL of a run of the interval in progress. -/
def goldenFail (s : State) (cls unit cause : Nat) : State :=
  let n := s.safety.interval
  let sc := goldenScope cls unit
  raiseDoubt s 0x0503 cls unit (leBytes 2 sc.2 ++ leBytes 1 (n % 8) ++ leBytes 1 cause ++ leBytes 8 n) rowGolden sc.1 sc.2

/-- A node that is ready on the unit and whose deadline comes before the interval's end (R199, R437). -/
def nodeBefore (s : State) (cls unit : Nat) : Bool :=
  tabAny (fun n x => nodeUnit s n x == some (cls, unit) && (match readyFor s n x with
    | some (r, _) => decide ((deadlineKey s n x r).1 < intervalEnd s)
    | none => false)) s.nodes

/-- GOLDEN_RUN_START: a unit's golden run starts when it waits, the unit is idle and no node goes first. -/
def doGoldenRunStart (cls unit : Nat) (s : State) : State :=
  if monitorRuns s && goldenDue s cls unit && decide (s.time < intervalEnd s) && unitIdle s (cls, unit) &&
      islandRuns s (islandOf cls unit) && ! unitStalled s cls unit && ! nodeBefore s cls unit &&
      hasTokens s (unitGroup cls unit) .safety 1 then
    let s := modGolden (drawTokens s (unitGroup cls unit) .safety 1) cls unit (fun g => { g with started := some s.time })
    if cls = 0 ∨ cls = 3 then emitTrace s cls unit true 0 (goldenWork s) [] else s
  else s

/-- GOLDEN_RUN_START (R437). -/
def execGoldenRunStart (cls unit : Nat) (s : State) : Host.Outcome State Fault Refusal := .next (doGoldenRunStart cls unit s)

/-- The golden rows of a core are written anew from the monitor's memory: their codes are good again.
DEDUCED: log entry 65. -/
def rewriteGolden (s : State) (cls unit : Nat) : State :=
  if cls = 0 then { s with marks := (gransOf (goldenRows unit) 8192).foldl (fun t g => tabErase g t) s.marks } else s

/-- A golden run's end record with the extensions of its class (R465, R466). What the run counted is a free value: the manual
does not give the golden sets (log entry 8). DEDUCED: log entry 65. -/
def goldenTraceEnd (s : State) (cls unit : Nat) : State :=
  let v := fun (i : Nat) => Config.freeNat s.freeCnt (8 * unit + i) % 2 ^ 32
  let s := { s with freeCnt := s.freeCnt + 1 }
  if cls = 0 then
    emitTrace s cls unit true 1 (goldenWork s) [(v 0, v 1, 0, 0, v 2), (0, v 3, 0, 0, 0xFFFFFFFF)]
  else if cls = 3 then emitTrace s cls unit true 1 (goldenWork s) [(v 0, v 1, 0, v 2 % 256, v 3)]
  else s

/-- A golden run ends: its entry, its end record, and what a failure raises. DEDUCED: log entry 65. -/
def endGolden (s : State) (cls unit : Nat) (cause : Option Nat) : State :=
  let s := goldenTraceEnd (modGolden s cls unit (fun g => { g with done := true, passed := cause.isNone })) cls unit
  match cause with
  | none => s
  | some c =>
    let f := if cls = 0 ∧ c = 1 then rangeFailing s (goldenRows unit) 8192 else []
    rewriteGolden (goldenFail (travelMismatch s 11 0 f.length 0xFF (f.headD 0 * 64)) cls unit c) cls unit

/-- The cause that a result names. -/
def goldenCause : GoldenResult → Option Nat
  | .pass => none
  | .mismatch => some 0
  | .poison => some 1
  | .duration => some 2

/-- GOLDEN_RUN_DONE: a run in progress is compared. -/
def doGoldenRunDone (cls unit : Nat) (result : GoldenResult) (s : State) : State :=
  if monitorRuns s && goldenRuns s cls unit && decide (s.time ≤ intervalEnd s) && islandRuns s (islandOf cls unit) then
    endGolden s cls unit (goldenCause result)
  else s

/-- GOLDEN_RUN_DONE (R437). -/
def execGoldenRunDone (cls unit : Nat) (result : GoldenResult) (s : State) : Host.Outcome State Fault Refusal :=
  .next (doGoldenRunDone cls unit result s)

/-- The moment at which a run not completed fails, and its cause: its duration, or the interval's end. -/
def overdueAt (s : State) (g : Golden) : Nat × Nat :=
  match g.started, goldenMax s g.cls with
  | some t, some d => if t + d < intervalEnd s then (t + d, 2) else (intervalEnd s, 3)
  | _, _ => (intervalEnd s, 3)

/-- GOLDEN_RUN_OVERDUE: a run fails at its duration or at the interval's end. -/
def doGoldenRunOverdue (cls unit : Nat) (s : State) : State :=
  match s.safety.golden.find? (isGolden cls unit) with
  | none => s
  | some g =>
    if ! monitorRuns s || g.done || ! goldenLive s g then s
    else
      let (t, cause) := overdueAt s g
      endGolden (advanceTo s t) cls unit (some cause)

/-- GOLDEN_RUN_OVERDUE (R437). -/
def execGoldenRunOverdue (cls unit : Nat) (s : State) : Host.Outcome State Fault Refusal :=
  .next (doGoldenRunOverdue cls unit s)

/-! ### Frame intervals (R427, R430) -/

/-- The golden run of a scope in the interval passed; other kinds of scope have none. -/
def goldenPassed (s : State) (kind scope : Nat) : Bool :=
  if kind = kindCore ∨ kind = kindEngine ∨ kind = kindFbc then
    s.safety.golden.any (fun g => decide (goldenScope g.cls g.unit = (kind, scope)) && g.done && g.passed)
  else true

/-- The pattern tests of a pipeline with TEST enabled: at least one passed, none failed. -/
def patternsPassed (s : State) (kind scope : Nat) : Bool :=
  if kind = kindPipe ∧ (pipeOf s scope).running = true ∧ (pipeOf s scope).cfg.test = true then
    s.safety.patPass.contains scope && ! s.safety.patFail.contains scope
  else true

/-- Interval `n` is clean for a condition (R427). -/
def isClean (s : State) (n : Nat) (c : Cond) : Bool :=
  ! c.fails.contains n && ! c.level && ! c.levelSeen && goldenPassed s c.kind c.scope && patternsPassed s c.kind c.scope

/-- A condition at the end of interval `n` (table *Condition transitions*). -/
def closeCond (s : State) (n : Nat) (c : Cond) : Cond :=
  if c.st = .transient ∧ isClean s n c = true then
    (if polK s.safety.policy ≤ c.passes + 1 then { c with st := .clear, passes := 0 } else { c with passes := c.passes + 1 })
  else c

/-- A condition's end of an interval, with DOUBT_END when it enters CLEAR. -/
def closeOne (n : Nat) (s : State) (c : Cond) : State :=
  let c' := closeCond s n c
  let s := { s with safety := { s.safety with conds := putCond s.safety.conds { c' with levelSeen := c'.level } } }
  if c.st ≠ .clear ∧ c'.st = .clear then postEvent s 0x0502 11 0 (doubtArg c' n) else s

/-- Golden runs not completed by the interval's end fail (R437). DEDUCED: log entry 65. -/
def closeGolden (s : State) : State :=
  (s.safety.golden.filter (fun g => ! g.done && goldenLive s g)).foldl (fun s g => endGolden s g.cls g.unit (some 3)) s

/-- Whole intervals in a row in which a pipeline with TEST enabled completed no pattern test, this one counted. `patMiss`
holds one more than that count, from the first interval's end at which the pipeline is found running with TEST. -/
def missCount (s : State) (p : Nat) : Nat :=
  if s.safety.patPass.contains p || s.safety.patFail.contains p then 0 else tabGet 0 s.safety.patMiss p

/-- PATTERN_SKIP at the third interval in a row without a completed test; the count begins anew.
DEDUCED: log entry 65. -/
def closePattern (n : Nat) (s : State) (e : Nat × Pipe) : State :=
  if ! (e.2.running && e.2.cfg.test) then { s with safety := { s.safety with patMiss := tabErase e.1 s.safety.patMiss } }
  else
    let k := missCount s e.1
    let s' := { s with safety := { s.safety with patMiss := tabPut 0 e.1 (if 3 ≤ k then 1 else k + 1) s.safety.patMiss } }
    if 3 ≤ k then raiseDoubt s' 0x0404 4 e.1 (leBytes 1 e.1 ++ leBytes 3 0 ++ leBytes 8 n) rowPattern kindPipe e.1 else s'

/-- FRAME_INTERVAL_END: every condition's interval is classified, and the next interval begins with its golden runs. -/
def doFrameIntervalEnd (s : State) : State :=
  if ! monitorRuns s then s
  else
    let n := s.safety.interval
    let s := advanceTo s (intervalEnd s)
    let s := s.safety.conds.foldl (closeOne n) s
    let s := closeGolden s
    let s := s.pipes.foldl (closePattern n) s
    updateDoubt { s with safety := { s.safety with interval := n + 1, golden := goldenRound s, patPass := [], patFail := [] } }

/-- FRAME_INTERVAL_END (R427). -/
def execFrameIntervalEnd (s : State) : Host.Outcome State Fault Refusal := .next (doFrameIntervalEnd s)

/-- DOUBT_PULSE_END: PULSE ticks have passed since the last substituted record. -/
def doDoubtPulseEnd (s : State) : State :=
  match s.safety.pulseEnd with
  | none => s
  | some t => updateDoubt { advanceTo s t with safety := { s.safety with pulseEnd := none } }

/-- DOUBT_PULSE_END (R433). -/
def execDoubtPulseEnd (s : State) : Host.Outcome State Fault Refusal := .next (doDoubtPulseEnd s)

/-! ### Self-tests (R440, R441) -/

/-- The group of the slot in progress. -/
def monthGroup (s : State) : Nat := s.safety.month % 12

/-- The end of the slot in progress. -/
def slotEnd (s : State) : Nat := (s.safety.month + 1) * polSlot s.safety.policy

/-- A slot that ends without its group's test: the deferral is counted, and the third in a row makes the group overdue.
DEDUCED: log entry 65. -/
def deferTest (s : State) : State :=
  let g := monthGroup s
  let k := nth s.safety.deferrals g + 1
  let s := { s with safety := { s.safety with deferrals := listSet s.safety.deferrals g k } }
  if k = 3 then
    let s := { s with safety := { s.safety with overdue := addPipe s.safety.overdue g } }
    failCond (postEvent s 0x0507 11 0 (leBytes 1 g ++ leBytes 3 0 ++ leBytes 4 k)) rowTest kindDevice 0 true
  else s

/-- MONTH_SLOT_START: the next slot begins, and its group may be tested. -/
def doMonthSlotStart (s : State) : State :=
  if ! monitorRuns s then s
  else
    let s := advanceTo s (slotEnd s)
    let s := if s.safety.monthTested then s else deferTest s
    { s with safety := { s.safety with month := s.safety.month + 1, monthTested := false } }

/-- MONTH_SLOT_START (R440). -/
def execMonthSlotStart (s : State) : Host.Outcome State Fault Refusal := .next (doMonthSlotStart s)

/-- A test over [t, t + d) avoids the windows of a SAFETY node on a stalled unit (R441). DEDUCED: log entry 65. -/
def avoidsNode (s : State) (t d n : Nat) (x : Node) : Bool :=
  let stalled := match nodeUnit s n x with
    | some (c, u) => groupStalls (monthGroup s) c u
    | none => false
  if ! (x.safety && stalled) then true
  else match laneAt s x.graph x.lane with
    | none => true
    | some l => match l.lastRel with
      | none => true
      | some r =>
        let se := seasonIdx s.power.season
        decide (r + 16 * nth x.lates se ≤ t) && decide (t + d ≤ r + l.period + nth x.js se)

/-- SELF_TEST_START: the slot's group starts its test of a duration where it fits, once each island group holds the tokens of
its stalls (R441, R446, R448). DEDUCED: log entry 66. -/
def doSelfTestStart (duration : Nat) (s : State) : State :=
  if monitorRuns s && ! s.safety.monthTested && ! s.safety.monthRunning &&
      decide (s.safety.month * polSlot s.safety.policy ≤ s.time) && decide (s.time + duration ≤ slotEnd s) &&
      decide (duration ≤ 8000 ∨ ¬ (2 ≤ monthGroup s ∧ monthGroup s ≤ 5)) && tabAll (avoidsNode s s.time duration) s.nodes &&
      holdsAll s (stallDraws s (monthGroup s)) then
    let s := drawAll s (stallDraws s (monthGroup s))
    { s with safety := { s.safety with
        monthRunning := true, monthTested := true, deferrals := listSet s.safety.deferrals (monthGroup s) 0 } }
  else s

/-- SELF_TEST_START (R441). -/
def execSelfTestStart (duration : Nat) (s : State) : Host.Outcome State Fault Refusal := .next (doSelfTestStart duration s)

/-- A group's test has passed: it is overdue no longer, and the level ends with the last such group. -/
def testPassed (s : State) (g : Nat) : State :=
  let o := s.safety.overdue.filter (fun k => k != g)
  let s' := { s with safety := { s.safety with overdue := o } }
  if o.isEmpty && ! s.safety.overdue.isEmpty then endLevel s' rowTest kindDevice 0 else s'

/-- SELF_TEST_DONE: the test ends, and the safety windows that opened during it are counted (R441); a checker that misreports
raises CHECKER_FAIL. -/
def doSelfTestDone (badChecker : Option Nat) (s : State) : State :=
  if ! monitorRuns s || ! s.safety.monthRunning then s
  else
    let g := monthGroup s
    let n := (s.safety.openings.filter (fun t => decide (t < s.time))).length
    let s := { s with safety := { s.safety with monthRunning := false, openings := [], overlaps := s.safety.overlaps + n } }
    match badChecker with
    | some k => raiseDoubt s 0x0506 11 0 (leBytes 1 g ++ leBytes 1 k) rowChecker kindDevice 0
    | none => testPassed s g

/-- SELF_TEST_DONE (R440). -/
def execSelfTestDone (badChecker : Option Nat) (s : State) : Host.Outcome State Fault Refusal :=
  .next (doSelfTestDone badChecker s)

end Sys2Proof.Machine
end

