-- ==== Sys2Proof/Machine/Trace.lean ====
section
/-! DEFINITION. Trace channels: what they admit, where records are written, triggers and spill (R464 to R474); and the
counters with their latches (R478 to R480). -/

namespace Sys2Proof.Machine

open Sys2Proof

/-! ### The bytes of a record (R462, R464, R465) -/

/-- The interval of a record touches the start or the end of a channel's trace window (R464). -/
def traceStraddle (x : TraceCh) (r : TraceRec) : Bool :=
  straddles r.t r.u x.tStart || (x.tEnd != 0 && straddles r.t r.u x.tEnd)

/-- The 16 bytes of a head record as a channel stores it (table *Trace record*). -/
def headBytes (x : TraceCh) (r : TraceRec) : List Byte :=
  leBytes 8 r.t ++ leBytes 2 (r.unit + 2048 * bit01 r.golden + 4096 * r.cls) ++ leBytes 1 r.u ++
  leBytes 1 (r.kind + 16 * r.exts.length + 64 * bit01 (traceStraddle x r) + 128 * bit01 r.refLost) ++ leBytes 4 r.arg

/-- The 16 bytes of an extension record (R465). -/
def extBytes (e : Nat × Nat × Nat × Nat × Nat) : List Byte :=
  leBytes 4 e.1 ++ leBytes 4 e.2.1 ++ leBytes 2 e.2.2.1 ++ leBytes 1 e.2.2.2.1 ++ [2] ++ leBytes 4 e.2.2.2.2

/-- A head record and its extensions, in 16-byte slots. -/
def recSlots (x : TraceCh) (r : TraceRec) : List (List Byte) := headBytes x r :: r.exts.map extBytes

/-- A record that the trace unit stamps itself: class 12, in the NOC island (R467). -/
def ownRecord (s : State) (kind arg : Nat) (exts : List (Nat × Nat × Nat × Nat × Nat)) : TraceRec :=
  { t := s.time, cls := 12, unit := 0, golden := false, u := uNow s 12 0, kind := kind,
    refLost := s.rst.refLostAt.isSome, arg := arg, exts := exts }

/-! ### Areas and modes (R470, R473) -/

/-- Bytes of the area that the mode uses: the spill area when there is one. -/
def areaLen (x : TraceCh) : Nat := if x.spillBase = 0 then x.bufLen else x.spillLen

/-- Bytes of the post part in CENTRED. -/
def postLen (x : TraceCh) : Nat := (if x.post = 0 then 4 else x.post) * areaLen x / 16

/-- The ring that records wrap in: the area in WRAP, the pre part before the trigger in CENTRED; none where they do not. -/
def ringLen (x : TraceCh) : Option Nat :=
  if x.mode = 0 then some (areaLen x) else if x.mode = 2 ∧ x.st = .pre then some (areaLen x - postLen x) else none

/-- Where records end in STOP and in the post part: 16 bytes are held for a GAP. -/
def fillEnd (x : TraceCh) : Nat := areaLen x - 16

/-- The local address of an offset of the region. -/
def regionAddr (x : TraceCh) (off : Nat) : Nat := traceBase + x.bufOff + off

/-- WR and WRAPS after one slot. -/
def advanceWr (x : TraceCh) : TraceCh :=
  match ringLen x with
  | some n => if n ≤ x.wr + 16 then { x with wr := 0, wraps := x.wraps + 1 } else { x with wr := x.wr + 16 }
  | none => { x with wr := x.wr + 16 }

/-- One slot is written: to the region, or to its staging place with its place in the spill area noted. -/
def putSlot (s : State) (c : Nat) (b : List Byte) : State :=
  let x := traceOf s c
  if x.spillBase = 0 then putBytes (setTrace s c (advanceWr x)) (regionAddr x x.wr) b false
  else
    let x' := advanceWr { x with stage := (x.stage + 16) % x.bufLen, dests := x.dests ++ [x.wr] }
    putBytes (setTrace s c x') (regionAddr x x.stage) b false

/-- Slots that await no copy. -/
def freeSlots (x : TraceCh) : Nat := if x.spillBase = 0 then 2 ^ 32 else x.bufLen / 16 - x.dests.length

/-- A record is lost to a channel and counts in its next GAP. -/
def countLoss (s : State) (x : TraceCh) : TraceCh :=
  { x with lost := x.lost + 1, gapCnt := x.gapCnt + 1, gapT := if x.gapCnt = 0 then s.time else x.gapT }

/-- The trace unit's own GAP for the losses of a channel. DEDUCED: log entry 67. -/
def gapRecord (s : State) (x : TraceCh) : TraceRec := ownRecord s 4 (satTo 32 x.gapCnt) []

/-- A record lost while the channel is FULL: the GAP in the last 16 bytes is rewritten in place; its T is the time of the
first loss (R470). DEDUCED: log entry 67. -/
def lossFull (s : State) (c : Nat) : State :=
  let x := countLoss s (traceOf s c)
  let g := { gapRecord s x with t := x.gapT }
  putBytes (setTrace s c x) (if x.spillBase = 0 then regionAddr x (fillEnd x) else x.spillBase + fillEnd x) (headBytes x g) false

/-- The channel becomes FULL (R470, R471). -/
def enterFull (s : State) (c : Nat) : State :=
  postEvent (setTrace s c { traceOf s c with st := .full }) 0x0701 12 0 (leBytes 1 c)

/-- A channel that writes has reached the end of its area. -/
def checkFull (s : State) (c : Nat) : State :=
  let x := traceOf s c
  if (ringLen x).isNone && decide (fillEnd x ≤ x.wr) && x.st != .full then enterFull s c else s

/-- A record that a channel admits is written whole, or lost and counted (R465, R470, R473). DEDUCED: log entry 67. -/
def appendRecord (s : State) (c : Nat) (r : TraceRec) : State :=
  let x := traceOf s c
  let slots := (if x.gapCnt = 0 then [] else [headBytes x (gapRecord s x)]) ++ recSlots x r
  if x.st = .full then lossFull s c
  else if freeSlots x < slots.length then setTrace s c (countLoss s x)
  else if (ringLen x).isNone && decide (fillEnd x < x.wr + 16 * slots.length) then lossFull (enterFull s c) c
  else checkFull (slots.foldl (fun s b => putSlot s c b) (setTrace s c { x with gapCnt := 0 })) c

/-! ### Admission (R469) -/

/-- A node-form work record: BEGIN or END of a sequencer, core, engine or DMA engine with bit 31 of ARG clear (R466). -/
def nodeForm (r : TraceRec) : Bool :=
  decide (r.kind ≤ 1) && (r.cls == 0 || r.cls == 2 || r.cls == 3 || r.cls == 8) && ! bitAt r.arg 31

/-- The node of a record belongs to a graph. -/
def recordGraph (s : State) (r : TraceRec) (g : Nat) : Bool :=
  ! r.golden && (tabGet? s.nodes (r.arg % 2 ^ 15)).elim false (fun n => n.graph == g)

/-- A channel admits a record. -/
def admits (s : State) (x : TraceCh) (r : TraceRec) : Bool :=
  let unitOk := decide (x.unitLo ≤ r.unit) && decide (r.unit ≤ x.unitHi)
  if r.kind = 5 ∨ (r.kind = 4 ∧ r.cls = 12) then true
  else if r.kind = 4 then bitAt x.classes r.cls && unitOk
  else bitAt x.kinds r.kind && bitAt x.classes r.cls && unitOk &&
    (! nodeForm r || x.graph == 0xFF || recordGraph s r x.graph) &&
    decide (x.tStart ≤ r.t) && (x.tEnd == 0 || decide (r.t < x.tEnd))

/-! ### Triggers (R471) -/

/-- A trigger that takes effect: its record at the next slot, and the event when it is the first.
DEDUCED: log entry 67. -/
def takeTrigger (s : State) (c cause : Nat) : State :=
  let x := traceOf s c
  let s' := appendRecord s c (ownRecord s 5 cause [])
  let y := traceOf s' c
  let y := { y with trigOff := if y.lost = x.lost then (if x.gapCnt = 0 then x.wr else (advanceWr x).wr) else x.trigOff,
                    triggered := true }
  let y := if x.mode = 2 then { y with st := .post, wr := areaLen x - postLen x } else y
  let s' := setTrace s' c y
  if x.triggered then s' else postEvent s' 0x0700 12 0 (leBytes 1 c ++ leBytes 1 cause)

/-- A trigger of a cause on a channel that is running and has the cause enabled. -/
def fireTrigger (s : State) (c cause : Nat) : State :=
  let x := traceOf s c
  if ! traceActive x || ! bitAt x.trig (cause - 1) then s
  else if (x.mode = 2 ∧ x.triggered) ∨ (x.mode = 1 ∧ x.st = .full) then setTrace s c { x with ignored := x.ignored + 1 }
  else takeTrigger s c cause

/-- The cause that an arriving record is for a channel: event TRIG_EVENT, or an END whose status is not OK. -/
def recordCause (x : TraceCh) (r : TraceRec) : Option Nat :=
  if r.kind = 11 ∧ r.arg % 65536 = x.trigEvent then some 3
  else if r.kind = 1 ∧ (r.exts.head?.elim 0 (fun e => e.2.2.1)) ≠ 0 then some 4
  else none

/-- A record reaches a channel: it is written when admitted, and then it may trigger. DEDUCED: log entry 67. -/
def offerRecord (s : State) (c : Nat) (r : TraceRec) : State :=
  let x := traceOf s c
  if ! traceActive x then s
  else
    let s := if admits s x r then appendRecord s c r else s
    match recordCause x r with
    | some k => fireTrigger s c k
    | none => s

/-- A record reaches every running channel. -/
def offerAll (s : State) (r : TraceRec) : State := (List.range 8).foldl (fun s c => offerRecord s c r) s

/-- TRACE_RECORD_ARRIVE: the oldest record of a source's FIFO reaches the trace unit. -/
def doTraceRecordArrive (cls unit : Nat) (s : State) : State :=
  let k := srcKey cls unit
  if ! islandRuns s 1 then s
  else match tabGet [] s.trace.fifos k with
    | [] => s
    | r :: q => offerAll { s with trace := { s.trace with fifos := tabPut [] k q s.trace.fifos } } r

/-- TRACE_RECORD_ARRIVE (R467). -/
def execTraceRecordArrive (cls unit : Nat) (s : State) : Host.Outcome State Fault Refusal :=
  .next (doTraceRecordArrive cls unit s)

/-! ### Spill (R473) -/

/-- The bytes of a complete block in the region go to their places in the spill area. -/
def copyBlock (s : State) (x : TraceCh) (first : Nat) (dests : List Nat) : State :=
  ((List.range dests.length).zip dests).foldl (fun s e =>
    if e.2 < areaLen x then putBytes s (x.spillBase + e.2) (getBytes s (regionAddr x ((first + 16 * e.1) % x.bufLen)) 16) false
    else s) s

/-- TRACE_SPILL_COPY: the oldest complete 4 KiB block of a channel is copied; after a TRACE_STOP the last copy brings the
response (R474). -/
def doTraceSpillCopy (tch : Nat) (s : State) : State :=
  let x := traceOf s tch
  if x.spillBase = 0 ∨ x.dests.length < 256 ∨ islandRuns s 1 = false ∨ islandRuns s 50 = false then s
  else
    let first := (x.stage + x.bufLen - 16 * x.dests.length) % x.bufLen
    let rest := x.dests.drop 256
    let s := meetRange (regionAddr x first) 4096 s
    let s := setTrace (copyBlock s x first (x.dests.take 256)) tch { x with dests := rest }
    if rest = [] ∧ x.st = .stopped then answer s (.traceStop tch) .ok [] else s

/-- TRACE_SPILL_COPY (R473). -/
def execTraceSpillCopy (tch : Nat) (ecc : List EccHit) (s : State) : Host.Outcome State Fault Refusal :=
  .next (doTraceSpillCopy tch (plant ecc s))

/-! ### Commands (R468, R471, R472, R474) -/

/-- The first field of a trace channel body out of its range. -/
def traceBody (e : List Byte) : Option Nat :=
  let spill := fieldAt e 48 8
  if 7 < fieldAt e 2 2 then some 2
  else if 2 < fieldAt e 8 1 then some 8
  else if 15 < fieldAt e 9 1 then some 9
  else if 15 < fieldAt e 18 1 ∧ fieldAt e 18 1 ≠ 0xFF then some 18
  else if fieldAt e 24 4 % 65536 ≠ 0 then some 24
  else if fieldAt e 28 4 % 65536 ≠ 0 ∨ fieldAt e 28 4 = 0 ∨ traceSize < fieldAt e 24 4 + fieldAt e 28 4 then some 28
  else if spill = 0 then none
  else if spill % 4096 ≠ 0 then some 48
  else if fieldAt e 56 4 = 0 ∨ fieldAt e 56 4 % 4096 ≠ 0 then some 56
  else if fieldAt e 60 4 < 1 ∨ 9600 < fieldAt e 60 4 then some 60
  else none

/-- A channel at its start from its entry. -/
def traceOfEntry (e : List Byte) (channel dom : Nat) : TraceCh :=
  { traceReset with
    st := if fieldAt e 8 1 = 2 then .pre else .running, chan := channel, dom := dom, mode := fieldAt e 8 1,
    post := fieldAt e 9 1, kinds := fieldAt e 10 2, classes := fieldAt e 12 2, unitLo := fieldAt e 14 2,
    unitHi := fieldAt e 16 2, graph := fieldAt e 18 1, trig := fieldAt e 19 1, trigEvent := fieldAt e 20 2,
    bufOff := fieldAt e 24 4, bufLen := fieldAt e 28 4, tStart := fieldAt e 32 8, tEnd := fieldAt e 40 8,
    spillBase := fieldAt e 48 8, spillLen := fieldAt e 56 4,
    spillRate := if fieldAt e 48 8 = 0 then 0 else fieldAt e 60 4 }

/-- Two ranges share a byte. -/
def rangesMeet (a la b lb : Nat) : Bool := decide (a < b + lb) && decide (b < a + la)

/-- The dump area of a watch (R481, R485). -/
def dumpArea (w : Watch) : Option (Nat × Nat) :=
  if bitAt (fieldAt w.def_ 8 1) 2 then some (fieldAt w.def_ 44 4, fieldAt w.def_ 48 4) else none

/-- A range of the trace buffer meets a running channel's region. -/
def meetsChannel (s : State) (off len : Nat) : Bool :=
  tabAny (fun _ t => traceActive t && rangesMeet off len t.bufOff t.bufLen) s.trace.chans

/-- A range of the trace buffer meets the dump area of a watch other than `but`. -/
def meetsDump (s : State) (but off len : Nat) : Bool :=
  tabAny (fun k w => k != but && (dumpArea w).elim false (fun d => rangesMeet off len d.1 d.2)) s.watches

/-- TRACE_START (R468). -/
def cmdTraceStart (h : CmdHdr) (channel r : Nat) (s : State) : State × CmdRes :=
  if r ≠ 0 then refuseAt s .badField 2
  else match fetchEntry s h.domain channel 5 0 with
    | (s, .inl r) => (s, r)
    | (s', .inr e) =>
      let x := traceOfEntry e channel h.domain
      let c := fieldAt e 2 2
      match traceBody e with
      | some off => (s', .done .badParam (detailOf off channel 2))
      | none =>
        let fit := ddrFit s (fun _ => cdiv x.spillRate 4)
        if x.spillBase ≠ 0 ∧ mapTarget s x.spillBase x.spillLen ≠ some 0 then (s', .done .range (detailOf 48 channel 2))
        else if traceActive (traceOf s c) || (traceOf s c).dests != [] || meetsChannel s x.bufOff x.bufLen ||
            meetsDump s 64 x.bufOff x.bufLen then refuse s' .busy
        else if fit.1 then (s', .done .nofit fit.2)
        else okDone (setTrace s' c x)

/-- TRACE_START. -/
def execTraceStart (h : CmdHdr) (channel r : Nat) (s : State) : Host.Outcome State Fault Refusal :=
  .next (runCommand h 0x0700 (cmdTraceStart h channel r) s)

/-- What refuses a command on a trace channel: one that does not run (STATE), then its fields. -/
def traceRefusal (s : State) (tch r : Nat) : Option (State × CmdRes) :=
  if tch ≤ 7 ∧ traceActive (traceOf s tch) = false then some (refuse s .state)
  else if r ≠ 0 then some (refuseAt s .badField 1)
  else if 7 < tch then some (refuseAt s .badParam 0)
  else none

/-- PAD records fill the last partial block of a channel with a spill area. DEDUCED: log entry 67. -/
def padBlock (s : State) (c : Nat) : Nat → State
  | 0 => s
  | n + 1 =>
    let x := traceOf s c
    if x.dests.length % 256 = 0 then s
    else
      let b := headBytes x (ownRecord s 13 0 [])
      let place := if (ringLen x).isNone && decide (fillEnd x ≤ x.wr) then areaLen x else x.wr
      let x' := { x with stage := (x.stage + 16) % x.bufLen, dests := x.dests ++ [place] }
      let x' := if place = areaLen x then x' else advanceWr x'
      padBlock (putBytes (setTrace s c x') (regionAddr x x.stage) b false) c n

/-- TRACE_STOP (R474): records still in source FIFOs are discarded; with a spill area the response follows the last copy.
DEDUCED: log entry 67. -/
def cmdTraceStop (tch r : Nat) (s : State) : State × CmdRes :=
  match traceRefusal s tch r with
  | some x => x
  | none =>
    let s := padBlock s tch 256
    let x := traceOf s tch
    let s := setTrace s tch { x with st := .stopped }
    let s := if tabAny (fun _ t => traceActive t) s.trace.chans then s else { s with trace := { s.trace with fifos := [] } }
    if x.dests = [] then okDone s else (s, .wait (.traceStop tch))

/-- TRACE_STOP. -/
def execTraceStop (h : CmdHdr) (tch r : Nat) (s : State) : Host.Outcome State Fault Refusal :=
  .next (runCommand h 0x0701 (cmdTraceStop tch r) s)

/-- STATE of a trace channel (R492). -/
def traceStIdx : TraceSt → Nat
  | .idle => 0
  | .running => 1
  | .pre => 2
  | .post => 3
  | .full => 4
  | .stopped => 5

/-- TRACE_STATUS (R472). DEDUCED: log entry 67. -/
def cmdTraceStatus (s : State) : State × CmdRes :=
  okWith s ((List.range 8).flatMap (fun c =>
    let x := traceOf s c
    leBytes 1 (traceStIdx x.st) ++ leBytes 3 0 ++ leBytes 4 x.wr ++ leBytes 4 (satTo 32 x.wraps) ++ leBytes 4 x.trigOff ++
    leBytes 4 (satTo 32 x.lost) ++ leBytes 4 (satTo 32 x.ignored) ++ leBytes 8 0))

/-- TRACE_STATUS. -/
def execTraceStatus (h : CmdHdr) (s : State) : Host.Outcome State Fault Refusal := .next (runCommand h 0x0702 cmdTraceStatus s)

/-- TRACE_TRIGGER: cause 1 (R471). -/
def cmdTraceTrigger (tch r : Nat) (s : State) : State × CmdRes :=
  match traceRefusal s tch r with
  | some x => x
  | none => okDone (fireTrigger s tch 1)

/-- TRACE_TRIGGER. -/
def execTraceTrigger (h : CmdHdr) (tch r : Nat) (s : State) : Host.Outcome State Fault Refusal :=
  .next (runCommand h 0x0703 (cmdTraceTrigger tch r) s)

/-- TRACE_MARK (R463): the control processor emits a MARK. -/
def cmdTraceMark (value : Nat) (s : State) : State × CmdRes := okDone (emitTrace s 13 0 false 12 value [])

/-- TRACE_MARK. -/
def execTraceMark (h : CmdHdr) (value : Nat) (s : State) : Host.Outcome State Fault Refusal :=
  .next (runCommand h 0x0704 (cmdTraceMark value) s)

/-! ### Counters (R478 to R480) -/

/-- Units of a class that has counters (R478). -/
def classUnits (cls : Nat) : Nat :=
  match cls with
  | 0 => 256
  | 1 => 256
  | 2 => 32
  | 3 => 96
  | 4 => 64
  | 5 => 12
  | 6 => 8
  | 7 => 4
  | 8 => 1
  | 9 => 1
  | 10 => 1
  | _ => 0

/-- The counters of a class that count cycles, waits or traffic that the model does not time: their growth between two
boundaries is free (log entry 37). -/
def freeCounters (cls : Nat) : List Nat :=
  match cls with
  | 0 => [0, 1, 2, 3]
  | 1 => [0, 1, 2, 3, 4, 5]
  | 2 => [0, 3, 4]
  | 3 => [0, 2]
  | 4 => [2, 3]
  | 5 => [2, 6]
  | 6 => [2]
  | 7 => [0, 1, 2, 5, 6, 7]
  | 8 => [5]
  | 9 => [3, 4]
  | 10 => [0, 1, 5, 6, 7]
  | _ => []

/-- A unit's counters as they stand at a boundary: the untimed ones grown by free amounts unless its island is stopped.
DESIGN CHOICE: log entry 37. -/
def countersNow (s : State) (cls unit : Nat) : List Nat :=
  let runs := islandRuns s (islandOf cls unit)
  (List.range 8).map (fun i =>
    let v := counterOf s cls unit i
    if runs && (freeCounters cls).contains i then satTo 48 (v + Config.freeNat s.freeCnt (srcKey cls unit * 8 + i)) else v)

/-- The units of every class with counters, by key. -/
def counterUnits : List (Nat × Nat) :=
  (List.range 11).flatMap (fun c => (List.range (classUnits c)).map (fun u => (c, u)))

/-- A unit latches its counters for a window (R479). -/
def latchOf (s : State) (w cls unit : Nat) : Latch :=
  let v := countersNow s cls unit
  { window := w, u := uNow s cls unit, stopped := ! islandRuns s (islandOf cls unit),
    saturated := v.any (· == 2 ^ 48 - 1), vals := v }

/-- A unit at a boundary: its latch, and its counters after it, zero where COUNTER_CLEAR named it (R480). -/
def latchUnit (s0 : State) (w : Nat) (t : TraceUnit) (e : Nat × Nat) : TraceUnit :=
  let k := srcKey e.1 e.2
  let l := latchOf s0 w e.1 e.2
  let cnt := (List.range 8).foldl (fun c i =>
    if s0.trace.clearing.contains k then tabErase (k * 8 + i) c
    else if (freeCounters e.1).contains i then tabSet (k * 8 + i) (nth l.vals i) c else c) t.cnt
  { t with cnt := cnt, latches := tabSet k l t.latches }

/-- The window that ends at the next boundary: the one in progress, or, at a boundary already passed, the last.
DEDUCED: log entry 67. -/
def endingWindow (s : State) : Nat :=
  if s.trace.window < windowOf s.time then windowOf s.time - 1 else windowOf s.time

/-- COUNTER_WINDOW_BOUNDARY: every unit latches its 8 counters. -/
def doCounterWindowBoundary (s : State) : State :=
  if ! aonRuns s || s.rst.tripped then s
  else
    let w := endingWindow s
    let s := advanceTo s ((w + 1) * 4000000)
    let t := counterUnits.foldl (latchUnit s w) s.trace
    { s with trace := { t with window := w + 1, clearing := [] }, freeCnt := s.freeCnt + 1 }

/-- COUNTER_WINDOW_BOUNDARY (R479). -/
def execCounterWindowBoundary (s : State) : Host.Outcome State Fault Refusal := .next (doCounterWindowBoundary s)

/-- The latch of a unit before any boundary. DEDUCED: log entry 67. -/
def latchNone : Latch := { window := 0, u := 0, stopped := false, saturated := false, vals := List.replicate 8 0 }

/-- The 64 bytes of a unit's latched counters (R480). -/
def latchBytes (s : State) (cls unit : Nat) : List Byte :=
  let l := tabGet latchNone s.trace.latches (srcKey cls unit)
  leBytes 4 l.window ++ leBytes 2 (unit + 4096 * cls) ++ leBytes 1 l.u ++ leBytes 1 (bit01 l.stopped + 2 * bit01 l.saturated) ++
  l.vals.flatMap (leBytes 6) ++ leBytes 8 0

/-- What refuses a command that names a class and a range of units. -/
def rangeRefusal (s : State) (cls r first count r2 : Nat) : Option (State × CmdRes) :=
  if r ≠ 0 then some (refuseAt s .badField 1)
  else if r2 ≠ 0 then some (refuseAt s .badField 6)
  else if 10 < cls then some (refuseAt s .badParam 0)
  else if classUnits cls ≤ first then some (refuseAt s .badParam 2)
  else if classUnits cls < first + count then some (refuseAt s .badParam 4)
  else none

/-- COUNTER_READ (R480). -/
def cmdCounterRead (cls r first count r2 : Nat) (s : State) : State × CmdRes :=
  match rangeRefusal s cls r first count r2 with
  | some x => x
  | none => okWith s ((List.range count).flatMap (fun i => latchBytes s cls (first + i)))

/-- COUNTER_READ. -/
def execCounterRead (h : CmdHdr) (cls r first count r2 : Nat) (s : State) : Host.Outcome State Fault Refusal :=
  .next (runCommand h 0x0705 (cmdCounterRead cls r first count r2) s)

/-- COUNTER_CLEAR (R480): the counters are zeroed at the next boundary. -/
def cmdCounterClear (cls r first count r2 : Nat) (s : State) : State × CmdRes :=
  match rangeRefusal s cls r first count r2 with
  | some x => x
  | none => okDone { s with trace := { s.trace with
      clearing := s.trace.clearing ++ (List.range count).map (fun i => srcKey cls (first + i)) } }

/-- COUNTER_CLEAR. -/
def execCounterClear (h : CmdHdr) (cls r first count r2 : Nat) (s : State) : Host.Outcome State Fault Refusal :=
  .next (runCommand h 0x0706 (cmdCounterClear cls r first count r2) s)

end Sys2Proof.Machine
end

