-- ==== Sys2Proof/Machine/Image.lean ====
section
/-! DEFINITION. Graph images (R194 to R196, R201, R217, R219): the image checks, the field checks of their entries, the
placing of a graph in the stores, and the state in which an image stands as if it were loaded, on which admission works. -/

namespace Sys2Proof.Machine

open Sys2Proof

/-! ### Refusals (R490, R496) -/

/-- A refusal with its detail: the status, and OFFSET, OBJECT and OKIND of R490. -/
structure Bad where
  st : Status
  off : Nat
  obj : Nat
  okind : Nat
deriving DecidableEq, Repr

/-- A check. -/
def need (ok : Bool) (st : Status) (off obj okind : Nat) : Option Bad :=
  if ok then none else some { st := st, off := off, obj := obj, okind := okind }

/-- A check of a field of the payload. -/
def needField (ok : Bool) (st : Status) (off : Nat) : Option Bad := need ok st off 0xFFFF 0

/-- The first refusal of checks in order, each with the offset of its field, for one object: those of reserved fields, then
those of ranges. -/
def fieldsBad (rsv par : List (Bool × Nat)) (obj okind : Nat) : Option Bad :=
  match rsv.find? (fun e => ! e.1), par.find? (fun e => ! e.1) with
  | some e, _ => some { st := .badField, off := e.2, obj := obj, okind := okind }
  | none, some e => some { st := .badParam, off := e.2, obj := obj, okind := okind }
  | none, none => none

/-- The 8-byte detail of a refusal. -/
def badBytes (b : Bad) : List Byte := detailOf b.off b.obj b.okind

/-- The refusal of a channel entry (`fetchEntry`) as the refusal of the object that names it. -/
def badOfRes (r : CmdRes) (off obj okind : Nat) : Bad :=
  match r with
  | .done st p =>
    if p.length = 8 ∧ fieldAt p 6 1 ≠ 0 then { st := st, off := fieldAt p 0 4, obj := fieldAt p 4 2, okind := fieldAt p 6 1 }
    else { st := st, off := off, obj := obj, okind := okind }
  | .wait _ => { st := .state, off := off, obj := obj, okind := okind }

/-! ### The image (R194) -/

/-- Offset of a section. -/
def sectOff (img : List Byte) (i : Nat) : Nat := fieldAt img (16 + 8 * i) 4
/-- Length of a section. -/
def sectLen (img : List Byte) (i : Nat) : Nat := fieldAt img (20 + 8 * i) 4
/-- Bytes of a section. -/
def sect (img : List Byte) (i : Nat) : List Byte := bytesAt img (sectOff img i) (sectLen img i)
/-- Entries of a section of `k` bytes each. -/
def sectCount (img : List Byte) (i k : Nat) : Nat := sectLen img i / k
/-- An entry of a section. -/
def sectEntry (img : List Byte) (i k n : Nat) : List Byte := bytesAt img (sectOff img i + k * n) k

/-- LANES of the image. -/
def imgLanes (img : List Byte) : Nat := fieldAt img 6 1
/-- NODES of the image. -/
def imgNodes (img : List Byte) : Nat := fieldAt img 8 2

/-- Two of the half-open ranges meet. -/
def rangesClash : List (Nat × Nat) → Bool
  | [] => false
  | x :: t => t.any (fun y => decide (x.1 < y.2) && decide (y.1 < x.2)) || rangesClash t

/-- Step 1 of R205: CHECK, MAGIC, VERSION and the places of the sections. DEDUCED: log entry 55. -/
def imageBad (img : List Byte) : Option Bad :=
  let used := (List.range 10).filter (fun i => sectLen img i != 0)
  let ok := crc32c (img.take 124 ++ [0, 0, 0, 0] ++ img.drop 128) == fieldAt img 124 4 && fieldAt img 0 4 == 0x48505247 &&
    fieldAt img 4 2 == 1
  need ok .badImage 0 0xFFFF 0 <|>
  used.findSome? (fun i =>
    need (sectOff img i % 64 == 0 && decide (sectOff img i + sectLen img i ≤ img.length)) .badImage (16 + 8 * i) 0xFFFF 6) <|>
  need (! rangesClash ((0, 128) :: used.map (fun i => (sectOff img i, sectOff img i + sectLen img i)))) .badImage 16 0xFFFF 6

/-- The header's reserved fields, LANES, NODES, and the lengths of the sections. -/
def headerBad (img : List Byte) : Option Bad :=
  let nl := imgLanes img
  let nn := imgNodes img
  let exact := fun (i k : Nat) => (sectLen img i == k, 20 + 8 * i)
  let whole := fun (i k : Nat) => (sectLen img i % k == 0, 20 + 8 * i)
  fieldsBad [(zeroAt img 7 1, 7), (zeroAt img 10 6, 10), (zeroAt img 96 28, 96)]
    [(decide (1 ≤ nl) && decide (nl ≤ 64), 6), (decide (1 ≤ nn) && decide (nn ≤ 32768), 8),
     exact 0 (16 * nl), exact 1 (32 * nn), whole 2 4, whole 3 64, whole 4 4, whole 5 4, whole 6 128, exact 7 (16 * nn),
     whole 8 24, whole 9 16] 0xFFFF 6

/-- A lane entry. -/
def laneE (img : List Byte) (i : Nat) : List Byte := sectEntry img 0 16 i
/-- A node entry. -/
def nodeE (img : List Byte) (k : Nat) : List Byte := sectEntry img 1 32 k
/-- A word of the LINK section. -/
def linkE (img : List Byte) (x : Nat) : Nat := leNat (sectEntry img 2 4 x)

/-- KIND of a node entry. -/
def kindE (img : List Byte) (k : Nat) : Nat := fieldAt (nodeE img k) 0 1

/-- A graph-local node number names a node that is not EMPTY (R196). -/
def namesNode (img : List Byte) (k : Nat) : Bool := decide (k < imgNodes img) && kindE img k != 0

/-- A lane entry's fields (R191, table *Lane entry*). -/
def laneBad (img : List Byte) (i : Nat) : Option Bad :=
  let e := laneE img i
  let kind := fieldAt e 0 1
  fieldsBad [(zeroAt e 1 1, 16 * i + 1), (zeroAt e 10 2, 16 * i + 10)]
    [(kind == 1 || kind == 2, 16 * i), (decide (fieldAt e 2 2 < if kind = 1 then 64 else 16384), 16 * i + 2),
     (decide (40000 ≤ fieldAt e 4 4), 16 * i + 4),
     (decide (fieldAt e 8 2 < imgNodes img) && kindE img (fieldAt e 8 2) == 4 &&
        fieldAt (nodeE img (fieldAt e 8 2)) 18 1 == i, 16 * i + 8)] 0 6

/-- The link-store words of a node's edges, by their place in the section. -/
def edgePlaces (img : List Byte) (k : Nat) : List Nat :=
  let e := nodeE img k
  (List.range (fieldAt e 14 1)).map (fun p => fieldAt e 12 2 + p)

/-- The link-store words of a node's waits. -/
def waitPlaces (img : List Byte) (k : Nat) : List Nat :=
  let e := nodeE img k
  (List.range (fieldAt e 15 1)).map (fun p => fieldAt e 16 2 + p)

/-- Descriptor units that a node of a kind has; none for a kind without a rule. -/
def descUnits (kind : Nat) (img : List Byte) (e : List Byte) : Option Nat :=
  match kind with
  | 1 => some 4
  | 2 => some 1
  | 3 => some (fieldAt img (sectOff img 3 + 64 * fieldAt e 8 2 + 1) 1 + 1)
  | _ => none

/-- A node entry's fields (R196, R203, R115, R250, R334). -/
def nodeBad (img : List Byte) (k : Nat) : Option Bad :=
  let e := nodeE img k
  let kind := fieldAt e 0 1
  let unit := fieldAt e 2 2
  let dep := fieldAt e 4 4
  let len := fieldAt e 10 1
  let links := sectCount img 2 4
  if kind = 0 then fieldsBad
    [(decide (fieldAt e 1 1 < 4), 1), (decide (dep < 2 ^ 30), 4), (zeroAt e 28 4, 28)] [(allZero (e.drop 1), 0)] k 1
  else fieldsBad
    [(decide (fieldAt e 1 1 < 4), 1), (kind != 1 || decide (unit < 16), 2), (decide (dep < 2 ^ 30), 4), (zeroAt e 28 4, 28)]
    [(decide (kind ≤ 5), 0),
     (match kind with
      | 1 => true
      | 2 => decide (unit ≤ 255)
      | 3 => decide (unit ≤ 1023)
      | _ => unit == 0, 2),
     (decide (dep < 1024) && (dep == 0) == (kind == 4), 4), (zeroAt e 24 4, 24), (zeroAt e 19 1, 19),
     (decide (len ≤ 64) && (descUnits kind img e).all (fun n => n == len), 10),
     (decide (64 * (fieldAt e 8 2 + len) ≤ sectLen img 3), 8),
     (decide (fieldAt e 11 1 ≤ 15) && (decide (kind < 4) || fieldAt e 11 1 == 0), 11),
     (decide (fieldAt e 12 2 + fieldAt e 14 1 ≤ links), 12), (decide (fieldAt e 15 1 ≤ 32), 15),
     (decide (fieldAt e 16 2 + fieldAt e 15 1 ≤ links), 16), (decide (fieldAt e 18 1 < imgLanes img), 18),
     (kind != 4 || fieldAt (laneE img (fieldAt e 18 1)) 8 2 == k, 0)] k 1

/-- An edge entry (table *Edge entry*). -/
def edgeBad (img : List Byte) (x : Nat) : Option Bad :=
  let w := linkE img x
  let kind := bitsAt w 29 3
  fieldsBad [(bitsAt w 16 3 == 0, 4 * x)]
    [(decide (kind ≤ 1), 4 * x), (kind != 0 || (bitsAt w 19 10 == 0 && namesNode img (bitsAt w 0 16)), 4 * x),
     (kind != 1 || decide (bitsAt w 0 16 ≤ 16383), 4 * x)] 2 6

/-- A wait entry (table *Wait entry* and the paragraph after it). -/
def waitBad (img : List Byte) (x : Nat) : Option Bad :=
  let w := waitOf (linkE img x)
  fieldsBad []
    [(decide (w.kind ≤ 2), 4 * x),
     (if w.kind = 0 then w.j == 0 && ! w.act && w.slotsLog == 0 && w.stride == 0
      else decide (w.index + (2 ^ w.slotsLog - 1) * w.stride ≤ 4095), 4 * x)] 2 6

/-- Every node of an image that is not EMPTY. -/
def liveNodes (img : List Byte) : List Nat := (List.range (imgNodes img)).filter (fun k => kindE img k != 0)

/-- The dependence edges of an image as (from, to), one for each edge entry. -/
def depEdges (img : List Byte) : List (Nat × Nat) :=
  (liveNodes img).flatMap (fun k => (edgePlaces img k).filterMap (fun x =>
    let w := linkE img x
    if bitsAt w 29 3 = 0 then some (k, bitsAt w 0 16) else none))

/-- DEP_INIT counts the dependence edges into every node (table *DEP field*). -/
def depBad (img : List Byte) : Option Bad :=
  let es := depEdges img
  (liveNodes img).findSome? (fun k =>
    need ((es.filter (fun e => e.2 == k)).length == fieldAt (nodeE img k) 4 4) .badParam 4 k 1)

/-! ### Semaphores and imports (R201, R219) -/

/-- The SEM section as (semaphore, INIT). -/
def semList (img : List Byte) : List (Nat × Nat) :=
  (List.range (sectCount img 4 4)).map (fun i =>
    let w := leNat (sectEntry img 4 4 i)
    (bitsAt w 0 14, bitsAt w 16 16))

/-- An IMPORT entry: semaphore, signalling device, lane, K and ARRIVE. -/
structure ImportE where
  sem : Nat
  dev : Nat
  lane : Nat
  k : Nat
  arrive : Nat
deriving DecidableEq, Repr

/-- The IMPORT section. -/
def importList (img : List Byte) : List ImportE :=
  (List.range (sectCount img 9 16)).map (fun i =>
    let e := sectEntry img 9 16 i
    { sem := fieldAt e 0 2, dev := fieldAt e 2 2, lane := fieldAt e 4 1, k := fieldAt e 5 1, arrive := fieldAt e 8 4 })

/-- The nodes that wait on a semaphore: by a wait entry, or as the SOURCE node of the remote lane that it feeds.
DEDUCED: log entry 57. -/
def semWaiters (img : List Byte) (sem : Nat) : List Nat :=
  ((liveNodes img).filter (fun k => (waitPlaces img k).any (fun x => linkE img x == sem)) ++
    ((List.range (imgLanes img)).filter (fun i => fieldAt (laneE img i) 0 1 == 2 && fieldAt (laneE img i) 2 2 == sem)).map
      (fun i => fieldAt (laneE img i) 8 2)).eraseDups

/-- The nodes of this device that signal a semaphore of this device. -/
def semSignalers (own : Nat) (img : List Byte) (sem : Nat) : List Nat :=
  (liveNodes img).filter (fun k => (edgePlaces img k).any (fun x =>
    let w := linkE img x
    bitsAt w 29 3 == 1 && bitsAt w 19 10 == own && bitsAt w 0 16 == sem))

/-- Every semaphore that the image names. -/
def semNames (own : Nat) (img : List Byte) : List Nat :=
  ((semList img).map (·.1) ++ (importList img).map (fun e => e.sem) ++
    ((List.range (imgLanes img)).filter (fun i => fieldAt (laneE img i) 0 1 == 2)).map (fun i => fieldAt (laneE img i) 2 2) ++
    (liveNodes img).flatMap (fun k =>
      ((waitPlaces img k).filterMap (fun x => if bitsAt (linkE img x) 29 3 = 0 then some (bitsAt (linkE img x) 0 14) else none)) ++
      ((edgePlaces img k).filterMap (fun x =>
        let w := linkE img x
        if bitsAt w 29 3 = 1 ∧ bitsAt w 19 10 = own then some (bitsAt w 0 16) else none)))).eraseDups

/-- The SEM section's entries, the IMPORT section's, and the binding of every semaphore to one waiting and one signalling
node (R201, R219). -/
def semsBad (own : Nat) (img : List Byte) : Option Bad :=
  (List.range (sectCount img 4 4)).findSome? (fun i =>
    let w := leNat (sectEntry img 4 4 i)
    fieldsBad [(bitsAt w 14 2 == 0, 4 * i)] [(! ((semList img).take i).any (fun e => e.1 == bitsAt w 0 14), 4 * i)] 4 6) <|>
  (List.range (sectCount img 9 16)).findSome? (fun i =>
    let e := sectEntry img 9 16 i
    fieldsBad [(decide (fieldAt e 2 2 < 1024), 16 * i + 2), (zeroAt e 6 2, 16 * i + 6), (zeroAt e 12 4, 16 * i + 12)]
      [(decide (fieldAt e 0 2 ≤ 16383), 16 * i), (fieldAt e 2 2 != own, 16 * i + 2),
       (decide (fieldAt e 4 1 < imgLanes img) &&
        (semWaiters img (fieldAt e 0 2)).all (fun k => fieldAt (nodeE img k) 18 1 == fieldAt e 4 1), 16 * i + 4)] 9 6) <|>
  (semNames own img).findSome? (fun s =>
    need ((semList img).any (fun e => e.1 == s) && (semWaiters img s).length == 1 &&
      (semSignalers own img s).length + ((importList img).filter (fun e => e.sem == s)).length == 1) .badParam 0 4 6)

/-! ### Flag bindings and editable fields (R182, R217) -/

/-- The FLAG section as (flag, j, graph-local node). -/
def flagList (img : List Byte) : List (Nat × Nat × Nat) :=
  (List.range (sectCount img 5 4)).map (fun i =>
    let w := leNat (sectEntry img 5 4 i)
    (bitsAt w 0 12, bitsAt w 12 3, bitsAt w 16 15))

/-- The FLAG section's entries. -/
def flagsBad (img : List Byte) : Option Bad :=
  (List.range (sectCount img 5 4)).findSome? (fun i =>
    let w := leNat (sectEntry img 5 4 i)
    fieldsBad [(! bitAt w 15 && ! bitAt w 31, 4 * i)]
      [(namesNode img (bitsAt w 16 15), 4 * i),
       (! ((flagList img).take i).any (fun e => e.1 == bitsAt w 0 12 && e.2.1 == bitsAt w 12 3), 4 * i)] 5 6)

/-- Bounds of an EDIT entry as integers. -/
def editBounds (e : List Byte) : Int × Int :=
  if fieldAt e 6 1 = 1 then (sfieldAt e 8 8, sfieldAt e 16 8) else ((fieldAt e 8 8 : Nat), (fieldAt e 16 8 : Nat))

/-- The EDIT section's entries (table *Editable field entry*). -/
def editsBad (img : List Byte) : Option Bad :=
  (List.range (sectCount img 8 24)).findSome? (fun i =>
    let e := sectEntry img 8 24 i
    let size := fieldAt e 1 1
    let idx := fieldAt e 2 2
    let (lo, hi) := editBounds e
    fieldsBad [(zeroAt e 7 1, 24 * i + 7)]
      [(decide (fieldAt e 0 1 ≤ 1), 24 * i), (decide (fieldAt e 6 1 ≤ 1), 24 * i + 6), (decide (lo ≤ hi), 24 * i + 8),
       (if fieldAt e 0 1 = 0 then size == 1 || size == 2 || size == 4 || size == 8 else size == 2, 24 * i + 1),
       (if fieldAt e 0 1 = 0 then namesNode img idx else (semList img).any (fun x => x.1 == idx), 24 * i + 2),
       (if fieldAt e 0 1 = 0 then decide (fieldAt e 4 2 + size ≤ 64 * fieldAt (nodeE img idx) 10 1) else fieldAt e 4 2 == 0,
        24 * i + 4)] 8 6)

/-- Step 2 over the entries of the image. DEDUCED: log entry 55. -/
def entriesBad (own : Nat) (img : List Byte) : Option Bad :=
  headerBad img <|>
  (List.range (imgLanes img)).findSome? (laneBad img) <|>
  (List.range (imgNodes img)).findSome? (fun k =>
    nodeBad img k <|> (edgePlaces img k).findSome? (edgeBad img) <|> (waitPlaces img k).findSome? (waitBad img)) <|>
  depBad img <|> semsBad own img <|> flagsBad img <|> editsBad img

/-! ### Places in the stores (R195) -/

/-- The ranges that loaded graphs hold in a store, in rising order. -/
def usedRanges (s : State) (f : Graph → Nat × Nat) : List (Nat × Nat) :=
  sortBy (fun a b => decide (a.1 ≤ b.1)) ((s.graphs.map (fun e => f e.2)).filter (fun r => r.2 != 0))

/-- The first free contiguous range of `n` entries before `total`, and the length of the longest one, from a place on. -/
def freeRange (n total : Nat) : List (Nat × Nat) → Nat → Option Nat × Nat
  | [], at_ => (if n ≤ total - at_ then some at_ else none, total - at_)
  | r :: t, at_ =>
    let (p, m) := freeRange n total t (r.1 + r.2)
    (if n ≤ r.1 - at_ then some at_ else p, max m (r.1 - at_))

/-- The nodes of a graph in the node table. -/
def nodeRange (g : Graph) : Nat × Nat := (g.base, g.nodes)
/-- Its words of the link store. -/
def linkRange (g : Graph) : Nat × Nat := (g.linkBase, g.linkLen)
/-- Its units of the descriptor store. -/
def descRange (g : Graph) : Nat × Nat := (g.descBase, g.descLen)

/-- Places of the three ranges of an image with the longest free range of each store. -/
structure Places where
  node : Nat
  link : Nat
  desc : Nat
  maxNode : Nat
  maxLink : Nat
  maxDesc : Nat
deriving DecidableEq, Repr

/-- The places of an image; a range that is not found stands beyond its store, and NOFIT follows (R195). -/
def placesFor (s : State) (img : List Byte) : Places :=
  let a := freeRange (imgNodes img) 32768 (usedRanges s nodeRange) 0
  let b := freeRange (sectCount img 2 4) 65536 (usedRanges s linkRange) 0
  let c := freeRange (sectCount img 3 64) 32768 (usedRanges s descRange) 0
  { node := a.1.getD 32768, link := b.1.getD 65536, desc := c.1.getD 32768, maxNode := a.2, maxLink := b.2, maxDesc := c.2 }

/-! ### The image written into the tables (R195, R205) -/

/-- A node of the image as it stands in the node table. -/
def nodeOfImage (img : List Byte) (g : Nat) (p : Places) (k : Nat) : Node :=
  let e := nodeE img k
  let late := fun (season : Nat) => fieldAt (sect img 7) (4 * (season * imgNodes img + k)) 4
  { kind := fieldAt e 0 1, safety := bitAt (fieldAt e 1 1) 0, iterEnd := bitAt (fieldAt e 1 1) 1, unit := fieldAt e 2 2,
    depInit := fieldAt e 4 4 % 1024, cnt0 := 0, cnt1 := 0, desc := p.desc + fieldAt e 8 2,
    descLen := fieldAt e 10 1, eclass := fieldAt e 11 1,
    edgeFirst := p.link + fieldAt e 12 2, edgeCnt := fieldAt e 14 1,
    waitCnt := fieldAt e 15 1, waitFirst := p.link + fieldAt e 16 2, lane := fieldAt e 18 1,
    graph := g, iter := 0, lates := (List.range 4).map late, ws := [], js := [], run := none, registered := false,
    reported := false, slips := 0, slipWindow := none }

/-- The words of the LINK section with the node base added to every edge that names a node. DEDUCED: log entry 57. -/
def linksOfImage (img : List Byte) (p : Places) : List (Nat × BitVec 32) :=
  let edges := (liveNodes img).flatMap (edgePlaces img)
  (List.range (sectCount img 2 4)).map (fun x =>
    let w := linkE img x
    (p.link + x, BitVec.ofNat 32 (if edges.contains x && bitsAt w 29 3 == 0 then w + p.node else w)))

/-- A lane of the image. -/
def laneOfImage (img : List Byte) (p : Places) (i : Nat) : Lane :=
  let e := laneE img i
  { remote := fieldAt e 0 1 == 2, src := fieldAt e 2 2, period := fieldAt e 4 4, source := p.node + fieldAt e 8 2,
    latMax := fieldAt e 12 4, fNext := none, f0 := 0, notices := [], started := 0, open_ := [], lastRel := none }

/-- A semaphore of the image as bound. DEDUCED: log entry 56. -/
def semOfImage (own : Nat) (img : List Byte) (g : Nat) (p : Places) (e : Nat × Nat) : Sem :=
  let imp := (importList img).find? (fun x => x.sem == e.1)
  { count := e.2, init := e.2, waiter := (semWaiters img e.1).head?.map (fun k => p.node + k),
    signaler := (semSignalers own img e.1).head?.map (fun k => p.node + k), sigDev := imp.elim own (fun x => x.dev),
    remote := imp.isSome, graph := g, blocked := false, signals := 0, impK := imp.elim 0 (fun x => x.k),
    arrive := imp.elim 0 (fun x => x.arrive) }

/-- What a graph charges before admission has computed it. -/
def chargeNone : Charge :=
  { fsBytes := 0, fsShare := 0, spm := [], ddr := [], ddrKib := 0, link := [], actions := 0, pipes := [] }

/-- Cores that a pool mask names. -/
def poolCores (mask : Nat) : List Nat := (List.range 256).filter (fun c => bitAt mask c)

/-- Ways of the weight cache that no loaded graph holds. -/
def freeWays (s : State) : List Nat :=
  let held := s.graphs.flatMap (fun e => e.2.ways)
  (List.range 16).filter (fun w => ! held.contains w)

/-- The next place in the order of loading. -/
def nextOrder (s : State) : Nat := s.graphs.foldl (fun n e => max n (e.2.order + 1)) 0

/-- The state with an image's nodes, links, descriptors and semaphores in the tables as graph `g` of a domain.
DEDUCED: log entry 50. -/
def withImage (s : State) (img : List Byte) (g dom : Nat) (sx7 : Bool) (ways mask : Nat) (p : Places) : State :=
  let gr : Graph :=
    { st := .loaded, order := nextOrder s, holding := false, holdAcc := 0, stopping := false, dom := dom, salt := 0, mask := 0,
      sx7 := sx7, ways := (freeWays s).take ways, base := p.node, nodes := imgNodes img, linkBase := p.link,
      linkLen := sectCount img 2 4, descBase := p.desc, descLen := sectCount img 3 64,
      lanes := (List.range (imgLanes img)).map (laneOfImage img p), pool := poolCores mask,
      tensors := (List.range (sectCount img 6 128)).map (sectEntry img 6 128),
      edits := (List.range (sectCount img 8 24)).map (sectEntry img 8 24), aborted := 0, charge := chargeNone }
  let s := setGraph s g gr
  let s := (liveNodes img).foldl (fun s k => setNode s (p.node + k) (nodeOfImage img g p k)) s
  let s := (linksOfImage img p).foldl (fun (s : State) e => { s with links := tabSet e.1 e.2 s.links }) s
  let s := (List.range (sectCount img 3 64)).foldl (fun (s : State) i =>
    { s with descs := tabSet (p.desc + i) (sectEntry img 3 64 i) s.descs }) s
  (semList img).foldl (fun s e => setSem s e.1 (semOfImage s.inst.id img g p e)) s

end Sys2Proof.Machine
end

