-- ==== Sys2Proof/Machine/Descs.lean ====
section
/-! DEFINITION. The checks of the descriptors of ENGINE, CORE and DMA nodes at GRAPH_LOAD and GRAPH_PARAM_SET (R116 to R118,
R122, R123, R127 to R136, R141, R146, R152, R157, R162, R250, R284, R326, R327, R334), with the footprints of an engine
descriptor. -/

namespace Sys2Proof.Machine

open Sys2Proof

/-- A reference's reserved field. -/
def prefRsv (d : List Byte) (o : Nat) : Bool × Nat := (zeroAt d (o + 30) 2, o + 30)

/-- A reference has a format, planes and dimensions. -/
def shaped (r : PRef) (fmt planes w h : Nat) : Bool := r.fmt == fmt && r.planes == planes && r.width == w && r.height == h

/-- Two references have the same dimensions and format. -/
def sameShape (a b : PRef) : Bool := a.width == b.width && a.height == b.height && a.fmt == b.fmt

/-- U8 or U10. -/
def plainFmt (r : PRef) : Bool := decide (r.fmt ≤ 1)

/-! ### Fields of each engine's descriptor -/

/-- PYR (R122, R123). -/
def pyrBad (d : List Byte) (obj : Nat) : Option Bad :=
  let n := fieldAt d 1 1
  let ls := List.range (min n 6)
  let src := pref d 32
  let lv := fun (l : Nat) => pref d (32 + 32 * l)
  fieldsBad ([(decide (fieldAt d 2 1 < 8), 2), (zeroAt d 3 5, 3), (zeroAt d 24 8, 24), prefRsv d 32] ++
      ls.map (fun l => prefRsv d (64 + 32 * l)))
    ([(decide (1 ≤ n) && decide (n ≤ 6), 1), (! bitAt (fieldAt d 2 1) 0 || src.fmt == 2, 2)] ++ prefChecks src 32 ++
      ls.flatMap (fun l =>
        let r := pref d (64 + 32 * l)
        let b := lv l
        prefChecks r (64 + 32 * l) ++
        [(shaped r src.fmt src.planes ((b.width + 1) / 2) ((b.height + 1) / 2) && r.slots == (pref d 64).slots,
          64 + 32 * l)]) ++
      (List.range 6).map (fun l => (decide (l < n) || zeroAt d (64 + 32 * l) 32, 64 + 32 * l))) obj 1

/-- One side of a warp: the references at two offsets and the map at a third (R127, R129, R130, R133). -/
def warpSide (d : List Byte) (so do_ mo : Nat) : List (Bool × Nat) :=
  let src := pref d so
  let dst := pref d do_
  let f := bytesAt d mo 40
  let map := if bitAt (fieldAt d 2 1) 0 then
      [([0, dst.width - 1].all (fun u => [0, dst.height - 1].all (fun v => decide (0 < homDen f u v))), mo + 24)]
    else
      let gx := fieldAt f 8 1
      let gy := fieldAt f 9 1
      [(fieldAt f 0 8 % 64 == 0, mo), (decide (2 ≤ gx) && decide (gx ≤ 7), mo + 8), (decide (2 ≤ gy) && decide (gy ≤ 7), mo + 9),
       (fieldAt f 10 2 == (dst.width - 1) / 2 ^ gx + 2, mo + 10), (fieldAt f 12 2 == (dst.height - 1) / 2 ^ gy + 2, mo + 12),
       (decide (fieldAt f 10 2 * fieldAt f 12 2 ≤ 8192), mo + 12)]
  prefChecks src so ++ prefChecks dst do_ ++
  [(dst.planes == src.planes && (dst.fmt == src.fmt || src.fmt == 2), do_ + 24), (src.fmt != 2 || fieldAt d 1 1 != 2, 1)] ++ map

/-- The reserved bytes of a map. -/
def mapRsv (d : List Byte) (mo : Nat) : Bool × Nat :=
  if bitAt (fieldAt d 2 1) 0 then (zeroAt d (mo + 36) 4, mo + 36) else (zeroAt d (mo + 14) 26, mo + 14)

/-- WRP (R127). DEDUCED: log entry 57. -/
def wrpBad (d : List Byte) (obj : Nat) : Option Bad :=
  let pair := isPair d
  fieldsBad ([(decide (fieldAt d 2 1 < 32), 2), (zeroAt d 3 1, 3), (zeroAt d 12 4, 12), prefRsv d 48, prefRsv d 80,
      mapRsv d 176] ++ (if pair then [prefRsv d 112, prefRsv d 144, mapRsv d 216] else []))
    ([(decide (fieldAt d 1 1 ≤ 2), 1)] ++ warpSide d 48 80 176 ++
      (if pair then (fieldAt d 4 4 != 0, 4) :: warpSide d 112 144 216
       else [(! bitAt (fieldAt d 2 1) 4, 2), (zeroAt d 24 8, 24), (zeroAt d 40 8, 40), (zeroAt d 112 32, 112),
             (zeroAt d 144 32, 144), (zeroAt d 216 40, 216)])) obj 1

/-- FLW (R146). -/
def flwBad (d : List Byte) (obj : Nat) : Option Bad :=
  let c := fieldAt d 2 1
  let bs := 2 ^ fieldAt d 1 1
  let cur := pref d 48
  let prev := pref d 80
  let pr := pref d 112
  let w := cdiv cur.width bs
  let h := cdiv cur.height bs
  let pf := sfieldAt d 4 4
  let qf := sfieldAt d 18 2
  let en := bitAt c 2
  fieldsBad ([(decide (c < 32), 2), (zeroAt d 20 4, 20), (zeroAt d 208 48, 208), prefRsv d 48, prefRsv d 80, prefRsv d 144,
      prefRsv d 176] ++ (if en then [prefRsv d 112] else []))
    ([(decide (2 ≤ fieldAt d 1 1) && decide (fieldAt d 1 1 ≤ 4), 1)] ++ prefChecks cur 48 ++ prefChecks prev 80 ++
      prefChecks (pref d 144) 144 ++ prefChecks (pref d 176) 176 ++
      [(decide (fieldAt d 3 1 < cur.planes) && decide (fieldAt d 3 1 < prev.planes), 3),
       (decide (-8 ≤ pf) && decide (pf ≤ -1), 4), (fieldAt d 14 2 != 0, 14), (decide (fieldAt d 16 2 ≤ 4095), 16),
       (decide (-8 ≤ qf) && decide (qf ≤ 0), 18), (plainFmt cur, 72), (sameShape cur prev, 80),
       (bytesAt d 48 32 != bytesAt d 80 32 || decide (lagOf pf < cur.slots), 4),
       (shaped (pref d 144) 2 2 w h, 144), (shaped (pref d 176) 0 2 w h, 176),
       (! bitAt c 1 || decide (w * h ≤ 16384), 2)] ++
      (if en then prefChecks pr 112 ++ [(shaped pr 2 2 w h, 112),
          (bytesAt d 112 32 != bytesAt d 144 32 || (decide (qf ≤ -1) && decide (lagOf qf < pr.slots)), 18)]
       else [(zeroAt d 112 32, 112)])) obj 1

/-- STE (R152). -/
def steBad (d : List Byte) (obj : Nat) : Option Bad :=
  let c := fieldAt d 2 1
  let l := pref d 48
  let r := pref d 80
  let en := bitAt c 0
  let pd := sfieldAt d 16 2
  fieldsBad ([(decide (c < 16), 2), (zeroAt d 23 1, 23), (zeroAt d 208 48, 208), prefRsv d 48, prefRsv d 80, prefRsv d 144,
      prefRsv d 176] ++ (if en then [prefRsv d 112] else []))
    ([(fieldAt d 1 1 == 2 || fieldAt d 1 1 == 4, 1)] ++ prefChecks l 48 ++ prefChecks r 80 ++ prefChecks (pref d 144) 144 ++
      prefChecks (pref d 176) 176 ++
      [(decide (fieldAt d 3 1 < l.planes) && decide (fieldAt d 3 1 < r.planes), 3), (fieldAt d 4 4 != 0, 4),
       (decide (1 ≤ fieldAt d 12 2) && decide (fieldAt d 12 2 ≤ 255), 12),
       (decide (fieldAt d 12 2 ≤ fieldAt d 14 2) && decide (fieldAt d 14 2 ≤ 1023), 14),
       (decide (-63 ≤ pd) && decide (pd ≤ 63), 16), (fieldAt d 20 2 != 0, 20), (decide (fieldAt d 22 1 ≤ 15), 22),
       (plainFmt l && decide (l.width ≤ 2048), 48), (sameShape l r, 80), (shaped (pref d 144) 2 1 l.width l.height, 144),
       (shaped (pref d 176) 0 2 l.width l.height, 176)] ++
      (if en then prefChecks (pref d 112) 112 ++ [(shaped (pref d 112) 2 1 (cdiv l.width 16) (cdiv l.height 16), 112)]
       else [(zeroAt d 112 32, 112)])) obj 1

/-- FEA (R157). -/
def feaBad (d : List Byte) (obj : Nat) : Option Bad :=
  let src := pref d 56
  let kp := fieldAt d 14 2
  let sl := fieldAt d 54 1
  fieldsBad [(decide (fieldAt d 2 1 < 4), 2), (zeroAt d 55 1, 55), (zeroAt d 88 168, 88), prefRsv d 56]
    ([(decide (1 ≤ fieldAt d 1 1) && decide (fieldAt d 1 1 ≤ 3), 1)] ++ prefChecks src 56 ++
      [(decide (fieldAt d 3 1 < src.planes), 3), (decide (fieldAt d 4 8 ≤ 2 ^ 62), 4),
       (decide (4 ≤ fieldAt d 12 1) && decide (fieldAt d 12 1 ≤ 7), 12),
       (decide (1 ≤ fieldAt d 13 1) && decide (fieldAt d 13 1 ≤ 64), 13), (decide (1 ≤ kp) && decide (kp ≤ 4096), 14),
       (fieldAt d 16 8 % 64 == 0, 16), (fieldAt d 40 8 % 64 == 0, 40),
       (fieldAt d 48 4 % 64 == 0 && decide (64 + 48 * kp ≤ fieldAt d 48 4), 48), (slotNumber sl, 54),
       (fieldAt d 52 2 == 0xFFFF || decide (fieldAt d 52 2 + sl ≤ 4096), 52), (plainFmt src, 80)]) obj 1

/-- OBX on cluster k (R162). -/
def obxBad (d : List Byte) (k obj : Nat) : Option Bad :=
  let c := fieldAt d 2 1
  let src := pref d 48
  let bg := pref d 80
  let span := fieldAt d 10 1
  let ring := fieldAt d 24 2
  let en := bitAt c 2
  fieldsBad ([(decide (fieldAt d 1 1 < 16), 1), (decide (c < 64), 2), (zeroAt d 15 1, 15), (zeroAt d 26 6, 26),
      (zeroAt d 144 112, 144), prefRsv d 48, prefRsv d 80] ++ (if en then [prefRsv d 112] else []))
    (prefChecks src 48 ++ prefChecks bg 80 ++
      [(fieldAt d 1 1 != 0 && decide (fieldAt d 1 1 < 2 ^ src.planes), 1),
       (decide (1 ≤ fieldAt d 3 1) && decide (fieldAt d 3 1 ≤ 8), 3),
       (decide (1 ≤ fieldAt d 4 2) && decide (fieldAt d 4 2 ≤ 4092), 4), (fieldAt d 6 2 != 0, 6),
       (decide (1 ≤ fieldAt d 8 2) && decide (fieldAt d 8 2 ≤ 1024), 8),
       (decide (1 ≤ span) && decide (span ≤ 4) && decide (src.height * span ≤ 65536), 10), (fieldAt d 11 1 / 4 == k, 11),
       (decide (fieldAt d 12 2 ≤ 4095), 12), (decide (fieldAt d 14 1 ≤ 15), 14), (fieldAt d 16 8 % 64 == 0, 16),
       (decide (64 ≤ ring) && decide (ring ≤ 8192) && ring == 2 ^ Nat.log2 ring && decide (2 * fieldAt d 8 2 ≤ ring), 24),
       (plainFmt src, 72), (sameShape src bg && bg.planes == src.planes && bg.slots == 1, 80)] ++
      (if en then prefChecks (pref d 112) 112 ++ [(shaped (pref d 112) 2 1 src.width src.height, 112)]
       else [(zeroAt d 112 32, 112)])) obj 1

/-- The fields of an engine descriptor on cluster k (rows 1 and 2 of the table *Descriptor checks*). -/
def engineFields (d : List Byte) (k obj : Nat) : Option Bad :=
  match engType d with
  | 1 => pyrBad d obj
  | 2 => wrpBad d obj
  | 3 => flwBad d obj
  | 4 => steBad d obj
  | 5 => feaBad d obj
  | 6 => obxBad d k obj
  | _ => need false .badParam 0 obj 1

/-! ### Where sources come from (row 3 of the table *Descriptor checks*) -/

/-- The first and past-last byte of a footprint with the offset of the field that places it. -/
abbrev Foot := Nat × Nat × Nat

/-- Two footprints meet. -/
def footMeet (a b : Foot) : Bool := decide (a.1 < b.2.1) && decide (b.1 < a.2.1)

/-- A reference's footprint. -/
def refFoot (r : PRef) (off : Nat) : Foot := ((refSpan r).1, (refSpan r).2, off)

/-- The engine nodes of a cluster, with their descriptors. -/
def clusterDescs (c : State) (k : Nat) : List (List Byte) :=
  (c.nodes.filter (fun e => e.2.kind == 1 && e.2.unit % 16 == k)).map (fun e => nodeDesc c e.1)

/-- An engine of the cluster writes a source: one of its destinations holds the source's footprint. -/
def engineWrites (c : State) (k : Nat) (r : PRef) : Bool :=
  (clusterDescs c k).any (fun d => (dstRefs d).any (fun x =>
    decide ((refSpan x.1).1 ≤ (refSpan r).1) && decide ((refSpan r).2 ≤ (refSpan x.1).2)))

/-- Running pipelines whose frame buffer begins at an address. DEDUCED: log entry 56. -/
def pipesAt (c : State) (base : Nat) : List Nat :=
  (c.pipes.filter (fun e => e.2.running && e.2.cfg.fsBase == base)).map (·.1)

/-- Pipelines that are the sources of a graph's lanes. -/
def graphPipes (c : State) (g : Nat) : List Nat :=
  (tabGet? c.graphs g).elim [] (fun x => (x.lanes.filter (fun l => ! l.remote)).map (fun l => l.src))

/-- A pipeline of the cluster writes a source: the running one with its base, or, when none runs, one of the graph's lanes. -/
def pipeWrites (c : State) (g k base : Nat) : Bool :=
  match pipesAt c base with
  | [] => (graphPipes c g).any (fun p => p / 4 == k)
  | ps => ps.any (fun p => p / 4 == k)

/-- A source is local to the cluster. DEDUCED: log entry 57. -/
def sourceLocal (c : State) (g k : Nat) (u : SrcUse) : Bool :=
  match u.hdr with
  | some (_, false) => pipeWrites c g k u.ref.base
  | _ => engineWrites c k u.ref

/-- Two references describe the same planes in the same slots: all their fields but those of bands and flags. -/
def samePlanes (a b : PRef) : Bool :=
  sameShape a b && a.base == b.base && a.linePitch == b.linePitch && a.planePitch == b.planePitch &&
  a.slotPitch == b.slotPitch && a.planes == b.planes && a.slots == b.slots

/-- STE's sources are the two sides of one pair-mode warp of the cluster, or the outputs of two pipelines (R152).
DEDUCED: log entry 57. -/
def stePair (c : State) (k : Nat) (d : List Byte) : Bool :=
  match srcUses d with
  | a :: b :: _ => match a.hdr, b.hdr with
    | some (_, false), some (_, false) => a.ref.base != b.ref.base
    | some (_, true), some (_, true) =>
      (clusterDescs c k).any (fun w => engType w == 2 && isPair w && samePlanes (pref w 80) a.ref && samePlanes (pref w 144) b.ref)
    | _, _ => false
  | _ => false

/-- The source rule of R118 and R141, and the pairing rule of R152. DEDUCED: log entry 57. -/
def sourcesBad (c : State) (g k : Nat) (d : List Byte) (obj : Nat) : Option Bad :=
  (srcUses d).findSome? (fun u => need (sourceLocal c g k u) .badParam u.off obj 1) <|>
  need (engType d != 4 || stePair c k d) .badParam 48 obj 1

/-! ### Footprints (rows 4 and 5 of the table *Descriptor checks*) -/

/-- Offsets of the source headers' addresses, in the order of the sources that have one. -/
def hdrOffs (d : List Byte) : List Nat :=
  match engType d with
  | 1 => [8]
  | 2 => [16, 24]
  | 3 => [24, 32]
  | 4 => [24, 32]
  | 5 => [24]
  | _ => [32]

/-- Footprints of the sources and of their headers. -/
def srcFeet (d : List Byte) : List Foot :=
  (srcUses d).map (fun u => refFoot u.ref u.off) ++
  (((srcUses d).filterMap (fun u => u.hdr.map (fun h => (u.ref.slots, h)))).zip (hdrOffs d)).map (fun e =>
    (e.1.2.1, e.1.2.1 + (e.1.1 - 1) * hdrPitch e.1.2.2 + 64, e.2))

/-- Footprints that may lie in the frame store or DDR5: meshes, and FEA's pattern. -/
def tableFeet (d : List Byte) : List Foot :=
  (meshOffs d).map (fun o => (fieldAt d o 8, fieldAt d o 8 + meshBytes (bytesAt d o 40), o)) ++
  (if engType d = 5 ∧ fieldAt d 16 8 ≠ 0 then [(fieldAt d 16 8, fieldAt d 16 8 + 1024, 16)] else [])

/-- Footprints of the destinations: planes, headers, FEA's list, OBX's ring and background. -/
def dstFeet (d : List Byte) : List Foot :=
  (dstRefs d).map (fun x => refFoot x.1 x.2) ++
  ((dstHdrs d).zip (hdrSlots d)).map (fun e => (e.1.1, e.1.1 + 64 * e.2, e.1.2)) ++
  (match engType d with
   | 5 => [(fieldAt d 40 8, fieldAt d 40 8 + (fieldAt d 54 1 - 1) * fieldAt d 48 4 + 64 + 48 * fieldAt d 14 2, 40)]
   | 6 => [(fieldAt d 16 8, fieldAt d 16 8 + 64 * fieldAt d 24 2, 16), refFoot (pref d 80) 80]
   | _ => [])

/-- A footprint lies in the frame store, and the domain may access it. -/
def storeOk (c : State) (dom : Nat) (wr : Bool) (f : Foot) : Bool :=
  inRange f.1 (f.2.1 - f.1) fsBase fsSize && fwPermits c dom wr f.1 (f.2.1 - f.1)

/-- A footprint lies in the frame store or DDR5, and the domain may read it. -/
def tableOk (c : State) (dom : Nat) (f : Foot) : Bool :=
  match mapTarget c f.1 (f.2.1 - f.1) with
  | some t => decide (t ≤ 1) && fwPermits c dom false f.1 (f.2.1 - f.1)
  | none => false

/-- The RANGE row of the table *Descriptor checks*. DEDUCED: log entry 57. -/
def feetBad (c : State) (dom : Nat) (d : List Byte) (obj : Nat) : Option Bad :=
  (srcFeet d).findSome? (fun f => need (storeOk c dom false f) .range f.2.2 obj 1) <|>
  (tableFeet d).findSome? (fun f => need (tableOk c dom f) .range f.2.2 obj 1) <|>
  (if engType d = 6 then need (storeOk c dom false (refFoot (pref d 80) 80)) .range 80 obj 1 else none) <|>
  (dstFeet d).findSome? (fun f => need (storeOk c dom true f) .range f.2.2 obj 1)

/-- PRED is DST_V itself (R146). -/
def predIsDest (d : List Byte) : Bool := engType d == 3 && bytesAt d 112 32 == bytesAt d 144 32

/-- Destinations that meet a later one of a list. -/
def meetLater : List Foot → Option Nat
  | [] => none
  | x :: t => if t.any (footMeet x) then some x.2.2 else meetLater t

/-- The OVERLAP row of the table *Descriptor checks*. DEDUCED: log entry 57. -/
def overlapBad (d : List Byte) (obj : Nat) : Option Bad :=
  let srcs := srcFeet d ++ tableFeet d
  (dstFeet d).findSome? (fun f =>
    need (! srcs.any (fun x => footMeet f x && ! (predIsDest d && f.2.2 == 144 && x.2.2 == 112))) .overlap f.2.2 obj 1) <|>
  (meetLater (dstFeet d)).bind (fun o => need false .overlap o obj 1)

/-- A lag that reaches the slot count of the flags it reads (R207). -/
def lagBad (d : List Byte) (obj : Nat) : Option Bad :=
  (srcUses d).findSome? (fun u => need (! hasFlags u.ref || decide (u.lag < u.ref.slots)) .badParam u.off obj 1)

/-- The checks of an ENGINE node's descriptor (R118). -/
def engineBad (c : State) (dom : Nat) (x : Node) (d : List Byte) (obj : Nat) : Option Bad :=
  engineFields d (x.unit % 16) obj <|> sourcesBad c x.graph (x.unit % 16) d obj <|> feetBad c dom d obj <|>
  overlapBad d obj <|> lagBad d obj

/-! ### Cores (R250, R284) -/

/-- Rows of an instruction list, first and past-last. -/
def listRows (list len : Nat) : Nat × Nat := (list, list + cdiv len 16)

/-- The first row of the golden area of a scratchpad (R436). -/
def goldenRow : Nat := 6016

/-- The checks of a core start record. -/
def coreBad (d : List Byte) (obj : Nat) : Option Bad :=
  fieldsBad [(zeroAt d 1 1, 1), (zeroAt d 12 4, 12)]
    [(fieldAt d 0 1 == 0x10, 0), (decide (fieldAt d 2 2 ≤ 6143), 2),
     (decide (1 ≤ fieldAt d 4 4) && decide (fieldAt d 4 4 ≤ 98304), 4)] obj 1 <|>
  need (decide ((listRows (fieldAt d 2 2) (fieldAt d 4 4)).2 ≤ goldenRow)) .range 2 obj 1

/-! ### DMA nodes (R334, R326, R327) -/

/-- The tensor descriptors of a DMA node's descriptor `i` at iteration f. -/
def nodeTds (tensors : List (List Byte)) (hd : List Byte) (i f : Nat) : List Byte × List Byte :=
  let d := bytesAt hd (64 * (i + 1)) 64
  let slot := fun (log pitch : Nat) => (f % 2 ^ fieldAt hd log 1) * fieldAt hd pitch 4
  let src := (tensors[fieldAt d 8 2]?).getD []
  let dst := (tensors[fieldAt d 16 2]?).getD []
  (withBase src (fieldAt src 8 8 + slot 2 4), withBase dst (fieldAt dst 8 8 + slot 3 8))

/-- The iterations that show every slot of a DMA node. -/
def nodeSlots (hd : List Byte) : List Nat := List.range (2 ^ max (fieldAt hd 2 1) (fieldAt hd 3 1))

/-- A move's checks for one slot, naming the tensor or the DMA descriptor that fails. -/
def slotBad (c : State) (dom : Nat) (d : List Byte) (src dst : List Byte) (i : Nat) : Option Bad :=
  let dev := c.inst.id
  match tdCheck c (tdesc src) .read dom dev, tdCheck c (tdesc dst) .write dom dev with
  | some (st, off), _ => some { st := st, off := off, obj := fieldAt d 8 2, okind := 3 }
  | none, some (st, off) => some { st := st, off := off, obj := fieldAt d 16 2, okind := 3 }
  | none, none =>
    (moveCheck c dom (fieldAt d 1 1) (fieldAt d 4 4) (bitAt (fieldAt d 0 1) 2) (tdesc src) (tdesc dst)).map (fun e =>
      { st := e.1, off := e.2, obj := i, okind := 4 })

/-- The fields of one DMA descriptor of a node: what the device writes back is zero, and the tensors exist. -/
def nodeDescFields (tensors : Nat) (d : List Byte) (i : Nat) : Option Bad :=
  fieldsBad [(decide (fieldAt d 0 1 < 8), 0)]
    [(decide (fieldAt d 0 1 % 4 = 0), 0), (decide (fieldAt d 1 1 ≤ 2), 1), (zeroAt d 2 2, 2),
     (decide (fieldAt d 8 8 < min tensors 65536), 8), (decide (fieldAt d 16 8 < min tensors 65536), 16), (zeroAt d 48 4, 48),
     (zeroAt d 52 4, 52), (zeroAt d 56 8, 56)] i 4

/-- The checks of a DMA node's descriptor, over every slot. -/
def dmaNodeBad (c : State) (dom : Nat) (tensors : List (List Byte)) (hd : List Byte) (obj : Nat) : Option Bad :=
  let n := fieldAt hd 1 1
  fieldsBad [(zeroAt hd 12 52, 12)]
    [(fieldAt hd 0 1 == 0x20, 0), (decide (1 ≤ n) && decide (n ≤ 63) && hd.length == 64 * (n + 1), 1),
     (decide (fieldAt hd 2 1 ≤ 3), 2), (decide (fieldAt hd 3 1 ≤ 3), 3), (fieldAt hd 4 4 % 64 == 0, 4),
     (fieldAt hd 8 4 % 64 == 0, 8)] obj 1 <|>
  (List.range n).findSome? (fun i =>
    let d := bytesAt hd (64 * (i + 1)) 64
    nodeDescFields tensors.length d i <|>
    (nodeSlots hd).findSome? (fun f =>
      let (src, dst) := nodeTds tensors hd i f
      slotBad c dom d src dst i))

/-- The checks of a node's descriptor in a state that holds its graph. DEDUCED: log entry 55. -/
def descBad (c : State) (n : Nat) (x : Node) (d : List Byte) : Option Bad :=
  match tabGet? c.graphs x.graph with
  | none => none
  | some g => match x.kind with
    | 1 => engineBad c g.dom x d (n - g.base)
    | 2 => coreBad d (n - g.base)
    | 3 => dmaNodeBad c g.dom g.tensors d (n - g.base)
    | _ => none

end Sys2Proof.Machine
end

