-- ==== Sys2Proof/Machine/Workload.lean ====
section
/-! DEFINITION. What admission takes of a node (R126, R135, R136, R169, R170, R175, R208, R217, R339, R340, R348): run times
in each season, frame-store bytes and shares, the loads of DMA moves, and the amounts that a graph charges (R206). Times are
in ticks. -/

namespace Sys2Proof.Machine

open Sys2Proof

/-! ### Moves of a graph -/

/-- A move of a DMA node or stream with one set of tensor descriptors: the channel's SHARE and TAGS, its engine, the kind and
PERM, whether it reads through the weight cache, and source and destination. -/
structure Move where
  chan : Nat
  engine : Nat
  share : Nat
  tags : Nat
  kind : Nat
  perm : Nat
  wc : Bool
  src : TDesc
  dst : TDesc
  so : List Int
  dof : List Int
  lane : Nat
deriving DecidableEq, Repr

/-- The moves of a DMA node's descriptor store entry, slot by slot, for each descriptor. -/
def nodeMoves (c : State) (x : Node) (hd : List Byte) : List (List Move) :=
  let tensors := (tabGet? c.graphs x.graph).elim [] (fun g => g.tensors)
  match tabGet? c.dma x.unit with
  | none => []
  | some ch => (List.range (fieldAt hd 1 1)).map (fun i =>
    let d := bytesAt hd (64 * (i + 1)) 64
    (nodeSlots hd).map (fun f =>
      let (src, dst) := nodeTds tensors hd i f
      { chan := x.unit, engine := ch.engine, share := ch.share, tags := ch.tags, kind := fieldAt d 1 1, perm := fieldAt d 4 4,
        wc := bitAt (fieldAt d 0 1) 2, src := tdesc src, dst := tdesc dst, so := offsAt d 24, dof := offsAt d 36, lane := x.lane }))

/-- The source blocks that a stream can read: SRC_WRAP of them, or as many as its source's allocated range holds, beyond which
no block starts (R305, R344). -/
def streamBlocks (x : StreamSt) : Nat :=
  let step := (signedOf 64 x.srcStep).natAbs
  let n := if step = 0 then 1 else (tdesc x.srcTd).allocLen / step + 1
  if x.srcWrap = 0 then n else min x.srcWrap n

/-- The moves of a stream: every source block to every destination slot, as any F0 can pair them. -/
def streamMoves (x : StreamSt) : List Move :=
  ((List.range (streamBlocks x)).flatMap (fun j => (List.range (2 ^ x.nbufLog)).map (fun k => (j, k)))).map (fun (j, k) =>
    { chan := x.chan, engine := x.engine, share := x.share, tags := x.tags, kind := x.kind, perm := x.perm, wc := x.wcache,
      src := tdesc (withBase x.srcTd (streamBase x j)),
      dst := tdesc (withBase x.dstTd (fieldAt x.dstTd 8 8 + k * x.dstPitch)),
      so := List.replicate 6 0, dof := List.replicate 6 0, lane := x.lane })

/-- Streams of a graph. -/
def graphStreams (c : State) (g : Nat) : List (Nat × StreamSt) := c.streams.filter (fun e => e.2.graph == g)

/-- The DMA nodes of a graph with their descriptors. -/
def dmaNodes (c : State) (g : Nat) : List (Node × List Byte) :=
  ((nodesOf c g).filter (fun e => e.2.kind == 3)).map (fun e => (e.2, nodeDesc c e.1))

/-- Every move that a graph can make. -/
def graphMoves (c : State) (g : Nat) : List Move :=
  (dmaNodes c g).flatMap (fun e => (nodeMoves c e.1 e.2).flatten) ++ (graphStreams c g).flatMap (fun e => streamMoves e.2)

/-- Elements of a move. -/
def moveList (m : Move) : List ((Nat × Nat) × Option (Nat × Nat) × Bool) :=
  match permOf m.kind m.perm m.src.ndim with
  | some p => moveElems m.src m.dst p m.so m.dof
  | none => []

/-- Destination granules of a move, after the outward rounding of R328. -/
def moveDstGrans (m : Move) : List Nat := elemGrans m.dst.etype ((moveList m).filterMap (fun e => e.2.1.map (·.1)))

/-- The source is read whole granules at a time: its elements lie side by side, and the move keeps them so (R340). -/
def srcRuns (m : Move) : Bool :=
  ith m.src.stride 0 == (elemBytes m.src.etype : Int) &&
    (m.kind != 2 || (permOf m.kind m.perm m.src.ndim).elim true (fun p => nth p 0 == 0))

/-- NR and NW of a move (R340). -/
def moveCounts (m : Move) : Nat × Nat :=
  let es := moveList m
  (if srcRuns m then (moveSrcGrans m.src es).length else es.length, (moveDstGrans m).length)

/-! ### Ports and latencies (R337, R339, R380) -/

/-- What a tensor lies in. -/
inductive Port where
  | ddr
  | store
  | spm
  | link (dev : Nat)
deriving DecidableEq, Repr

/-- The memory at a local address; what is neither DDR5 nor a scratchpad counts as the frame store. -/
def memPort (a : Nat) : Port := if a < ddrEnd then .ddr else if spmBase ≤ a ∧ a < traceBase then .spm else .store

/-- The port of a tensor. -/
def portOfT (c : State) (t : TDesc) : Port := if isRemote c t then .link (t.base / 2 ^ 54) else memPort (localBase t)

/-- V of a port in MB/s, with the core groups at a clock (table *Target port rates*). -/
def portRate (khz : Nat) : Port → Nat
  | .ddr => 204800
  | .store => 64000
  | .spm => 128 * khz / 1000
  | .link _ => 21250

/-- Cycles of the group clock in ticks. -/
def cycTicks (n khz : Nat) : Nat := cdiv (n * 4000000) (max 1 khz)

/-- Worst-case latency of a memory (R176, R339, R403) with a frame-store share. -/
def memLatency (khz share : Nat) (wr : Bool) : Port → Nat
  | .ddr => if wr then 580 else 1680
  | .spm => 256 + cycTicks 32 khz
  | _ => 4 * (72 + cdiv 256 (max 1 share))

/-- The delivery bound of a path (R371): 44,000 ns a hop and 100 ns. The number of hops is the board's (log entry 38). -/
def pathTicks (dev : Nat) : Nat := 4 * (Config.pathHops dev * 44000 + 100)

/-- Crossings between a core group and the NOC, out and back (R13, R339). DEDUCED: log entry 59. -/
def crossTicks (khz : Nat) : Nat := cycTicks 4 khz + 16

/-- Crossings of an engine, whose island runs at 250 MHz in every season. -/
def crossVC : Nat := 80

/-- LS or LD of a tensor (R339, R380). -/
def accessTicks (c : State) (khz share : Nat) (wr wc : Bool) (t : TDesc) : Nat :=
  (match portOfT c t with
   | .link dev => 2 * pathTicks dev + memLatency khz share wr (memPort (localBase t))
   | p => memLatency khz share wr p + (if wc then 64 else 0)) + crossTicks khz

/-- The limiter's term for bytes at a port (R337, R340). -/
def limitTicks (khz share bytes : Nat) (p : Port) : Nat := cdiv (bytes * 1024000) (max 1 (share * portRate khz p))

/-- T(d) of R340, with a frame-store share. DEDUCED: log entry 59. -/
def moveTicks (c : State) (khz fsShare : Nat) (m : Move) : Nat :=
  let (nr, nw) := moveCounts m
  let ls := accessTicks c khz fsShare false m.wc m.src
  let ld := accessTicks c khz fsShare true false m.dst
  max (cycTicks (max 1 (engineChans c m.engine) * (32 + max nr nw)) khz)
    (max (limitTicks khz m.share (64 * nr) (portOfT c m.src))
      (max (limitTicks khz m.share (64 * nw) (portOfT c m.dst)) (cdiv nr (max 1 m.tags) * ls))) + ls + ld

/-! ### Engines (R126, R135, R136, R169, R175) -/

/-- Local destination footprints of a graph's DMA nodes and streams. -/
def dmaFeet (c : State) (g : Nat) : List Foot :=
  (graphMoves c g).filterMap (fun m =>
    if isRemote c m.dst then none
    else
      let (lo, hi) := footprint m.dst
      some (lo.toNat, hi.toNat + 1, 0))

/-- The descriptors of a graph's ENGINE nodes. -/
def engineDescs (c : State) (g : Nat) : List (List Byte) :=
  ((nodesOf c g).filter (fun e => e.2.kind == 1)).map (fun e => nodeDesc c e.1)

/-- A side of a warp has a local map as far as GRAPH_LOAD can see it: a homography, or a mesh in memory that no node of the
graph writes (R136). -/
def sideLocal (c : State) (g : Nat) (d : List Byte) (do_ mo : Nat) : Bool :=
  let f := bytesAt d mo 40
  let hom := bitAt (fieldAt d 2 1) 0
  let a := fieldAt f 0 8
  let m : WMap := { homography := hom, field := f, points := if hom then [] else viewBytes c a (meshBytes f) }
  (hom || ! (dmaFeet c g ++ (engineDescs c g).flatMap dstFeet).any (footMeet (a, a + meshBytes f, 0))) &&
    mapLocal m (pref d do_).width (pref d do_).height

/-- Cycles of one side of a warp (R135). -/
def sideCycles (c : State) (g : Nat) (d : List Byte) (so do_ mo : Nat) : Nat :=
  let src := pref d so
  let dst := pref d do_
  let line := if ! sideLocal c g d do_ mo then 4 * dst.width
    else if src.fmt = 2 ∨ fieldAt d 1 1 = 2 then cdiv dst.width 2 else cdiv dst.width 4
  line * dst.height + 256 +
    (if bitAt (fieldAt d 2 1) 0 then 0 else cdiv (fieldAt d (mo + 10) 2 * fieldAt d (mo + 12) 2) 8)

/-- Cycles of 4 ns of a run (R126, R135, R169, R170). -/
def engCycles (c : State) (g : Nat) (d : List Byte) : Nat :=
  match engType d with
  | 1 => cdiv (pref d 32).width (if (pref d 32).fmt = 2 then 2 else 4) * (pref d 32).height + 64 * fieldAt d 1 1 + 256
  | 2 => sideCycles c g d 48 80 176 + (if isPair d then sideCycles c g d 112 144 216 else 0)
  | 3 =>
    let bs := 2 ^ fieldAt d 1 1
    let w := cdiv (pref d 48).width bs
    let h := cdiv (pref d 48).height bs
    w * bs * (h * bs) * (1 + bit01 (bitAt (fieldAt d 2 1) 1)) + (if bitAt (fieldAt d 2 1) 2 then bs * bs * (w * h) else 0) + 512
  | 4 => (pref d 48).width * (pref d 48).height * fieldAt d 1 1 / 2 + 32 * (pref d 48).height + 512
  | 5 => cdiv (pref d 56).width 4 * (pref d 56).height +
      (if bitAt (fieldAt d 2 1) 0 then 16 else 4) * fieldAt d 14 2 + 512
  | _ => cdiv (pref d 48).width 4 * (pref d 48).height + 16 * fieldAt d 8 2 + 512

/-- Bytes of some planes of a reference. -/
def refBytes (r : PRef) (planes : Nat) : Nat := r.width * r.height * sampleBytes r * planes

/-- Samples that one output pixel of a warp reads. -/
def tapCount (interp : Nat) : Nat := if interp = 0 then 1 else if interp = 1 then 4 else 16

/-- Frame-store bytes of one side of a warp: its source once when the map is local, else every tap. -/
def sideBytes (c : State) (g : Nat) (d : List Byte) (so do_ mo : Nat) : Nat :=
  let src := pref d so
  let dst := pref d do_
  (if sideLocal c g d do_ mo then refBytes src src.planes
   else dst.width * dst.height * tapCount (fieldAt d 1 1) * sampleBytes src * src.planes) + refBytes dst dst.planes + 128 +
  (if bitAt (fieldAt d 2 1) 0 ∨ fieldAt d mo 8 < fsBase then 0 else meshBytes (bytesAt d mo 40))

/-- Frame-store bytes that a run reads and writes (R175): samples, headers, lists and records. -/
def engBytes (c : State) (g : Nat) (d : List Byte) : Nat :=
  let ctl := fieldAt d 2 1
  let all := fun (r : PRef) => refBytes r r.planes
  match engType d with
  | 1 => all (pref d 32) + ((dstRefs d).map (fun x => all x.1)).sum + 128
  | 2 => sideBytes c g d 48 80 176 + (if isPair d then sideBytes c g d 112 144 216 else 0)
  | 3 => refBytes (pref d 48) 1 + refBytes (pref d 80) 1 + (if bitAt ctl 2 then all (pref d 112) else 0) +
      all (pref d 144) + all (pref d 176) + 192
  | 4 => refBytes (pref d 48) 1 + refBytes (pref d 80) 1 + (if bitAt ctl 0 then all (pref d 112) else 0) +
      all (pref d 144) + all (pref d 176) + 192
  | 5 => refBytes (pref d 56) 1 + 192 + 48 * fieldAt d 14 2
  | _ => all (pref d 48) + all (pref d 80) * (if bitAt ctl 0 || bitAt ctl 5 then 2 else 1) +
      (if bitAt ctl 2 then all (pref d 112) else 0) + 64 * fieldAt d 8 2 + 128

/-- A run's accesses are whole raster lines: all but a warp with a map that is not local (R175). -/
def engRaster (c : State) (g : Nat) (d : List Byte) : Bool :=
  engType d != 2 || (sideLocal c g d 80 176 && (! isPair d || sideLocal c g d 144 216))

/-- The share for bytes in ticks (R175): at least one slot when there is any traffic. -/
def shareFor (bytes ticks : Nat) (raster : Bool) : Nat :=
  if bytes = 0 then 0
  else max 1 (if raster then cdiv bytes (max 1 (3 * ticks)) else cdiv (16 * bytes) (max 1 ticks))

/-- The frame-store share of an engine run. -/
def engShare (c : State) (g : Nat) (d : List Byte) : Nat :=
  shareFor (engBytes c g d) (16 * engCycles c g d) (engRaster c g d)

/-- What R136 and R170 add to an engine's cycles: the latency of each mesh's memory, and 100 ns for each object submitted. -/
def engExtra (c : State) (g : Nat) (d : List Byte) : Nat :=
  ((meshOffs d).map (fun o => memLatency 250000 (engShare c g d) false (memPort (fieldAt d o 8)) + crossVC)).sum +
  (if engType d = 6 ∧ bitAt (fieldAt d 2 1) 4 then 400 * fieldAt d 8 2 else 0)

/-- A move's frame-store accesses are contiguous runs of granules: on the side that lies there, elements side by side (R175). -/
def isRaster (c : State) (m : Move) : Bool :=
  (portOfT c m.src != .store || srcRuns m) &&
  (portOfT c m.dst != .store || ith m.dst.stride 0 == (elemBytes m.dst.etype : Int))

/-- The destination granules that a move writes with byte enables, each two bank slots (R188, R328). -/
def partGrans (m : Move) : Nat :=
  let bytes := (((moveList m).filterMap (fun e => e.2.1.map (·.1))).flatMap (fun a =>
    (List.range (elemBytes m.dst.etype)).map (a + ·))).eraseDups
  (moveDstGrans m).countP (fun g => decide ((bytes.filter (fun a => granOf a == g)).length < 64))

/-- Frame-store bytes of a move. -/
def moveStoreBytes (c : State) (m : Move) : Nat :=
  let (nr, nw) := moveCounts m
  (if portOfT c m.src = .store then 64 * nr else 0) + (if portOfT c m.dst = .store then 64 * (nw + partGrans m) else 0)

/-- The frame-store share of moves, at the run time that the greatest share gives (log entry 39). -/
def moveShare (c : State) (khz : Nat) (ms : List Move) : Nat :=
  ms.foldl (fun n m => max n (shareFor (moveStoreBytes c m) (moveTicks c khz 224 m) (isRaster c m))) 0

/-- The greatest of a list. -/
def maxOf (l : List Nat) : Nat := l.foldl max 0

/-- The run time of the moves of a DMA node (R340): for each descriptor that of its longest slot. -/
def movesTicks (c : State) (khz : Nat) (ms : List (List Move)) : Nat :=
  let sh := moveShare c khz ms.flatten
  (ms.map (fun l => maxOf (l.map (moveTicks c khz sh)))).sum

/-! ### W(n) (R208, R217) -/

/-- W of a node with a descriptor in a season. -/
def descTicks (c : State) (x : Node) (d : List Byte) (season : Season) : Nat :=
  match x.kind with
  | 1 => 16 * engCycles c x.graph d + engExtra c x.graph d
  | 2 => cycTicks (fieldAt d 8 4) (floorKhz season)
  | 3 => movesTicks c (floorKhz season) (nodeMoves c x d)
  | _ => 0

/-! ### Editable fields (R217) -/

/-- Every value of an editable field's range. -/
def editValues (e : List Byte) : List Int :=
  let (lo, hi) := editBounds e
  (List.range ((hi - lo).toNat + 1)).map (fun (i : Nat) => lo + (i : Int))

/-- Writes a descriptor into the units of a node. -/
def putDesc (s : State) (x : Node) (d : List Byte) : State :=
  { s with descs := (List.range x.descLen).foldl (fun t i => tabSet (x.desc + i) (bytesAt d (64 * i) 64) t) s.descs }

/-- The state with an editable field of a graph at a value. -/
def withEdit (c : State) (base : Nat) (e : List Byte) (v : Nat) : State :=
  let idx := fieldAt e 2 2
  if fieldAt e 0 1 = 1 then setSem c idx { semOf c idx with init := v % 65536 }
  else match tabGet? c.nodes (base + idx) with
    | none => c
    | some x => putDesc c x (overlay (nodeDesc c (base + idx)) (fieldAt e 4 2) (leBytes (fieldAt e 1 1) v))

/-- The descriptors that a node's editable fields can come to hold, its own first; values that the field checks refuse never
come into force. -/
def nodeVariants (c : State) (n : Nat) (x : Node) : List (List Byte) :=
  let own := nodeDesc c n
  match tabGet? c.graphs x.graph with
  | none => [own]
  | some g =>
    let edits := g.edits.filter (fun e => fieldAt e 0 1 == 0 && g.base + fieldAt e 2 2 == n)
    own :: ((edits.foldl (fun (ds : List (List Byte)) e =>
      ds ++ ds.flatMap (fun d => (editValues e).map (fun v =>
        overlay d (fieldAt e 4 2) (leBytes (fieldAt e 1 1) (unsignedOf 64 v))))) [own]).drop 1).filter (fun d =>
          (descBad (putDesc c x d) n x d).isNone)

/-- W(n), the greatest over the whole range of the node's editable fields (R208, R217). -/
def nodeTicks (c : State) (n : Nat) (x : Node) (season : Season) : Nat :=
  maxOf ((nodeVariants c n x).map (fun d => descTicks c x d season))

/-- The least INIT of a semaphore over the range of a graph's editable fields. -/
def leastInit (c : State) (g i : Nat) : Nat :=
  (tabGet? c.graphs g).elim (semOf c i).init (fun x =>
    (x.edits.filter (fun e => fieldAt e 0 1 == 1 && fieldAt e 2 2 == i)).foldl (fun m e => min m (editBounds e).1.toNat)
      (semOf c i).init)

/-- W of a stream: T of its longest block (R348). DEDUCED: log entry 41. -/
def streamTicks (c : State) (x : StreamSt) (season : Season) : Nat :=
  let ms := streamMoves x
  maxOf (ms.map (moveTicks c (floorKhz season) (moveShare c (floorKhz season) ms)))

/-! ### What a graph charges (R206) -/

/-- Bytes of a union of half-open ranges in rising order of their starts, from a place on. -/
def unionBytes : List (Nat × Nat) → Nat → Nat
  | [], _ => 0
  | r :: t, top => (r.2 - max r.1 top) + unionBytes t (max top r.2)

/-- Bytes of a union of ranges. -/
def unionSize (l : List (Nat × Nat)) : Nat := unionBytes (sortBy (fun a b => decide (a.1 ≤ b.1)) l) 0

/-- The references through which a graph reads pipelines, one for each frame buffer. -/
def pipeBuffers (c : State) (g : Nat) : List PRef :=
  ((engineDescs c g).flatMap (fun d => (pipeSources d).map (fun u => u.ref))).foldl (fun l r =>
    if l.any (fun x => x.base == r.base) then l else l ++ [r]) []

/-- The frame store that a graph writes: the destinations of its engines, DMA nodes and streams (resource 6).
DEDUCED: log entry 58. -/
def graphStoreBytes (c : State) (g : Nat) : Nat :=
  unionSize (((engineDescs c g).flatMap dstFeet ++ (dmaFeet c g).filter (fun f => inRange f.1 (f.2.1 - f.1) fsBase fsSize)).map
    (fun f => (f.1, f.2.1)))

/-- Flows of a graph. -/
def graphFlows (c : State) (g : Nat) : List (Nat × Flow) := c.pool.flows.filter (fun e => e.2.graph == g)

/-- The share of a core that gathers crops: of a CORE node, or of each pool core that runs a flow's items (R174, R175). The
manual states no bytes for it: a free value. DESIGN CHOICE: log entry 58. -/
def cropShare (b : List Byte) : Nat := Config.cropShare b % 225

/-- Shares of a graph's nodes, flows and streams (resource 7). DEDUCED: log entry 58. -/
def graphShare (c : State) (g : Nat) : Nat :=
  ((engineDescs c g).map (engShare c g)).sum +
  (((nodesOf c g).filter (fun e => e.2.kind == 2)).map (fun e => cropShare (nodeDesc c e.1))).sum +
  ((graphFlows c g).map (fun e => cropShare (leBytes 4 e.2.list ++ leBytes 4 e.2.listLen) *
    (tabGet? c.graphs g).elim 0 (fun x => x.pool.length))).sum +
  ((dmaNodes c g).map (fun e => moveShare c 250000 (nodeMoves c e.1 e.2).flatten)).sum +
  ((graphStreams c g).map (fun e => moveShare c 250000 (streamMoves e.2))).sum

/-- Scratchpad bytes of instruction lists on each core of a graph (resource 8). -/
def graphSpm (c : State) (g : Nat) : Tab Nat :=
  let own := ((nodesOf c g).filter (fun e => e.2.kind == 2)).map (fun e =>
    (e.2.unit, listRows (fieldAt (nodeDesc c e.1) 2 2) (fieldAt (nodeDesc c e.1) 4 4)))
  let pool := (tabGet? c.graphs g).elim [] (fun x => x.pool)
  let flows := (graphFlows c g).map (fun e => listRows e.2.list e.2.listLen)
  let cores := (own.map (·.1) ++ (if flows = [] then [] else pool)).eraseDups
  cores.foldl (fun t k => tabSet k (64 * unionSize ((own.filter (fun e => e.1 == k)).map (·.2) ++
    (if pool.contains k then flows else []))) t) []

/-- Blocks of 256 bytes of DDR5 that granules touch, by channel (R399). -/
def blocksOn (gs : List Nat) (ch : Nat) : Nat := (((gs.map (· / 4)).eraseDups).filter (fun b => b % 4 == ch)).length

/-- MB/s of a rate that falls on a DDR5 channel with granules spread over the four. -/
def spreadRate (rate : Nat) (gs : List Nat) (ch : Nat) : Nat :=
  let n := ((gs.map (· / 4)).eraseDups).length
  if n = 0 then 0 else cdiv (rate * blocksOn gs ch) n

/-- Lines that a graph's cached reads can touch (R343). -/
def wcacheLines (c : State) (g : Nat) : List Nat :=
  (((graphMoves c g).filter (fun m => m.wc)).flatMap (fun m => moveSrcGrans m.src (moveList m))).eraseDups

/-- The union of the lines places at most WAYS lines in every set. -/
def wcacheFits (c : State) (g : Nat) : Bool :=
  let ls := wcacheLines c g
  let ways := (tabGet? c.graphs g).elim 0 (fun x => x.ways.length)
  ls.all (fun l => decide ((ls.filter (fun k => k % 16384 == l % 16384)).length ≤ ways))

/-- MB/s of a graph's cached lines on a channel: each line once per iteration of the lane that reads it (R343). -/
def lineRate (c : State) (g ch : Nat) : Nat :=
  (tabGet? c.graphs g).elim 0 (fun x => (((List.range x.lanes.length).zip x.lanes).map (fun l =>
    let ms := (graphMoves c g).filter (fun m => m.wc && m.lane == l.1)
    let ls := (ms.flatMap (fun m => moveSrcGrans m.src (moveList m))).eraseDups
    cdiv ((ls.filter (fun k => k / 4 % 4 == ch)).length * 64 * 4000) (max 1 l.2.period))).sum)

/-- MB/s of DDR5 that a move draws on a channel at its metered rate (R337); a cached read that fits is charged apart. -/
def moveDdr (c : State) (fits : Bool) (m : Move) (ch : Nat) : Nat :=
  let rate := cdiv (204800 * m.share) 256
  max (if portOfT c m.src = .ddr ∧ ! (m.wc && fits) then spreadRate rate (moveSrcGrans m.src (moveList m)) ch else 0)
    (if portOfT c m.dst = .ddr then spreadRate rate (moveDstGrans m) ch else 0)

/-- MB/s of DDR5 that a graph charges a channel: for each DMA channel its heaviest move, and its cached lines
(resource 10, R337, R343). DEDUCED: log entry 58. -/
def graphDdr (c : State) (g ch : Nat) : Nat :=
  let ms := graphMoves c g
  let fits := wcacheFits c g
  ((ms.map (fun m => m.chan)).eraseDups.map (fun k =>
    maxOf ((ms.filter (fun m => m.chan == k)).map (fun m => moveDdr c fits m ch)))).sum +
  (if fits then lineRate c g ch else 0)

/-- KiB of DDR5 that a graph's tensors and streams are allotted (resource 11). DEDUCED: log entry 58. -/
def graphDdrKib (c : State) (g : Nat) : Nat :=
  let tds := (tabGet? c.graphs g).elim [] (fun x => x.tensors) ++ (graphStreams c g).flatMap (fun e => [e.2.srcTd, e.2.dstTd])
  cdiv (unionSize (((tds.map tdesc).filter (fun t => t.space != 0 && portOfT c t == .ddr)).map (fun t =>
    (t.alloc, t.alloc + t.allocLen)))) 1024

/-- Ports and directions that a packet to a device crosses on this one. -/
def routeKeys (c : State) (dev : Nat) : Nat × Nat :=
  let p := routeOf c dev
  (linkKey p 0, linkKey p 1)

/-- MB/s of link that a move draws on a port and direction at its metered rate: granule reads and writes with their flits
(R360, R381). -/
def moveLink (c : State) (m : Move) (key : Nat) : Nat :=
  let rate := cdiv (21250 * m.share) 256
  let side := fun (t : TDesc) (outFlits inFlits : Nat) => match portOfT c t with
    | .link dev => (if (routeKeys c dev).1 = key then cdiv (rate * outFlits) 2 else 0) +
        (if (routeKeys c dev).2 = key then cdiv (rate * inFlits) 2 else 0)
    | _ => 0
  max (side m.src 1 3) (side m.dst 3 1)

/-- MB/s of link that a graph charges: its moves, and one flit each iteration for every semaphore signal to another device
(resource 12). DEDUCED: log entry 58. -/
def graphLink (c : State) (g key : Nat) : Nat :=
  let ms := graphMoves c g
  let sig := ((nodesOf c g).map (fun e => ((edgesOf c e.2).filter (fun x =>
    x.sem && x.dev != c.inst.id && (routeKeys c x.dev).1 == key)).length *
      cdiv 128000 ((laneAt c g e.2.lane).elim 1 (fun l => max 1 l.period)))).sum
  ((ms.map (fun m => m.chan)).eraseDups.map (fun k =>
    maxOf ((ms.filter (fun m => m.chan == k)).map (fun m => moveLink c m key)))).sum + sig

/-- Sequencer actions of one run of a node: its start, completion, edges and ACT operations (resource 13). -/
def nodeActions (c : State) (x : Node) : Nat :=
  (if x.kind = 4 then 1 else 2) + x.edgeCnt + ((waitsOf c x).filter (fun w => w.act && w.kind != 0)).length

/-- Sequencer actions per second of a graph, as a fraction. -/
def graphActions (c : State) (g : Nat) : Nat × Nat :=
  (tabGet? c.graphs g).elim (0, 1) (fun x => ((List.range x.lanes.length).zip x.lanes).foldl (fun (a : Nat × Nat) e =>
    let per := ((nodesOf c g).map (fun n => if n.2.lane = e.1 ∧ n.2.kind ≠ 0 then nodeActions c n.2 else 0)).sum
    (a.1 * max 1 e.2.period + per * 4000000000 * a.2, a.2 * max 1 e.2.period)) (0, 1))

/-- Pipelines that a graph reads: those of its lanes, the running ones whose frame buffer it reads, and those whose objects
it names. -/
def pipesRead (c : State) (g : Nat) : List Nat :=
  (graphPipes c g ++ (pipeBuffers c g).flatMap (fun r => pipesAt c r.base) ++
    ((engineDescs c g).filter (fun d => engType d == 6 && ! bitAt (fieldAt d 2 1) 3)).map (fun d => fieldAt d 11 1)).eraseDups

/-- What a graph charges. DEDUCED: log entry 58. -/
def graphCharge (c : State) (g : Nat) : Charge :=
  { fsBytes := graphStoreBytes c g, fsShare := graphShare c g, spm := graphSpm c g,
    ddr := (List.range 4).map (graphDdr c g), ddrKib := graphDdrKib c g,
    link := ((List.range 24).map (fun k => (k, graphLink c g k))).filter (fun e => e.2 != 0),
    actions := cdiv (graphActions c g).1 (graphActions c g).2, pipes := pipesRead c g }

end Sys2Proof.Machine
end

