-- ==== Sys2Proof/Machine/Admit.lean ====
section
/-! DEFINITION. Admission over a state that holds the graph (R203 to R211, R294, R295, R348, R484): the resource report, the
wait-for analysis, and the schedule of each season. Times are in ticks. -/

namespace Sys2Proof.Machine

open Sys2Proof

/-- The seasons in the order of their numbers. -/
def seasons : List Season := [.spring, .summer, .autumn, .winter]

/-- Loaded graphs other than one. -/
def otherGraphs (c : State) (g : Nat) : Tab Graph := tabErase g c.graphs

/-! ### Resources (R203, R206) -/

/-- Frame buffers of pipelines that the graphs of a table read, each once. -/
def buffersOf (c : State) (gs : Tab Graph) : List PRef :=
  (gs.flatMap (fun e => pipeBuffers c e.1)).foldl (fun l r => if l.any (fun x => x.base == r.base) then l else l ++ [r]) []

/-- Bytes of a pipeline's slots and statistics blocks (R512). -/
def bufferBytes (r : PRef) : Nat := r.slots * (r.slotPitch + 9280)

/-- The units of an island group whose classes R203 sums: their number. -/
def groupUnits (grp : Nat) : Nat := if isCG grp then 18 else 7

/-- The largest class, of a purse, that the nodes of some graphs place on each unit of a group. -/
def groupClasses (c : State) (gs : List Nat) (grp : Nat) (p : Purse) : Tab Nat :=
  c.nodes.foldl (fun t e => match nodeUnit c e.1 e.2 with
    | some (cls, u) =>
      if gs.contains e.2.graph && unitGroup cls u == grp && nodePurse e.2 == p then
        tabSet (srcKey cls u) (max (tabGet 0 t (srcKey cls u)) e.2.eclass) t
      else t
    | none => t) []

/-- What R203 sums for a group's graph-class budget. -/
def graphTokens (c : State) (gs : List Nat) (grp : Nat) : Nat := tabSum (fun _ n => n) (groupClasses c gs grp .graph)

/-- S(group) of R203. -/
def safetySum (c : State) (gs : List Nat) (grp : Nat) : Nat :=
  groupUnits grp + tabSum (fun _ n => n - 1) (groupClasses c gs grp .safety)

/-- The scopes of resources 14 to 17 in a season: SCOPE, what the graph needs, what the others leave. -/
def tokenScopes (c : State) (g : Nat) (season : Season) : List (Nat × Nat × Nat) :=
  let others := (otherGraphs c g).map (·.1)
  let all := c.graphs.map (·.1)
  (List.range 32).flatMap (fun grp =>
    let a := graphTokens c others grp
    let b := safetySum c others grp
    [(2 + grp, graphTokens c all grp - a, (graphRange season grp).1 - a),
     (2 + grp + 32768, safetySum c all grp - b, safetyTokens grp - b)])

/-- A token scope is a safety partition that does not hold the need. -/
def safetyShort (l : List (Nat × Nat × Nat)) : Bool := l.any (fun e => decide (32768 ≤ e.1) && decide (e.2.2 < e.2.1))

/-- A resource of the device as a whole. -/
def wholeEntry (code need free : Nat) : Bool × List Byte :=
  (decide (free < need), resEntry code (decide (free < need)) 0xFFFF 0xFF need free)

/-- DMA engines with the tags that a graph takes of them. -/
def graphTags (c : State) (g e : Nat) : Nat :=
  tabSum (fun _ x => if x.engine = e ∧ x.running ∧ x.graph = some g then x.tags else 0) c.dma +
  tabSum (fun _ x => if x.engine = e ∧ x.graph = g then x.tags else 0) c.streams

/-- The buffers of pipelines that run: each takes one share (resource 7). -/
def runningBuffers (c : State) (l : List PRef) : List PRef := l.filter (fun r => ! (pipesAt c r.base).isEmpty)

/-- Frame-store shares in use by others: their nodes', one for each running pipeline that they read, one for each watch
(R484). -/
def sharesUsed (c : State) (g : Nat) : Nat :=
  tabSum (fun _ x => x.charge.fsShare) (otherGraphs c g) + (runningBuffers c (buffersOf c (otherGraphs c g))).length +
  c.watches.length

/-- The 17 resources in code order: whether each fails, and its entry. The places in the stores are those found for the
image. DEDUCED: log entry 58. -/
def resourceList (c : State) (g : Nat) (p : Places) (x : Graph) (ch : Charge) : List (Bool × List Byte) :=
  let os := otherGraphs c g
  let bufs := (pipeBuffers c g).filter (fun r => ! (buffersOf c os).any (fun y => y.base == r.base))
  let fs := ch.fsBytes + (bufs.map bufferBytes).sum
  let fsFree := 402653184 - 524288 - (tabSum (fun _ y => y.charge.fsBytes) os + ((buffersOf c os).map bufferBytes).sum)
  let bound := fun (q : Nat → Bool) => (c.sems.filter (fun e => e.2.graph != 0xFF && q e.2.graph)).length
  let flags := fun (q : Nat → Bool) => (c.binds.filter (fun e => q e.2.graph)).length
  let spm := (List.range 256).map (fun k =>
    (k, tabGet 0 ch.spm k, 393216 - 8192 - tabSum (fun _ y => tabGet 0 y.charge.spm k) os))
  let tags := (List.range 32).map (fun e => (e, graphTags c g e, 256 - (engineTags c e - graphTags c g e)))
  [wholeEntry 1 x.nodes p.maxNode, wholeEntry 2 x.linkLen p.maxLink, wholeEntry 3 x.descLen p.maxDesc,
   wholeEntry 4 (bound (· == g)) (16384 - bound (· != g)), wholeEntry 5 (flags (· == g)) (4096 - flags (· != g)),
   wholeEntry 6 fs fsFree, wholeEntry 7 (ch.fsShare + (runningBuffers c bufs).length) (224 - sharesUsed c g), scopedEntry 8 0xFF spm,
   scopedEntry 9 0xFF tags, ddrFit { c with graphs := os } (fun k => nth ch.ddr k),
   wholeEntry 11 ch.ddrKib (c.ddr.usable / 1024 - tabSum (fun _ y => y.charge.ddrKib) os),
   linkFit { c with graphs := os } (fun k => tabGet 0 ch.link k),
   wholeEntry 13 (cdiv ch.actions 1000) (125000 - cdiv (tabSum (fun _ y => y.charge.actions) os) 1000)] ++
  seasons.map (fun se => scopedEntry (14 + seasonIdx se) (seasonIdx se) (tokenScopes c g se))

/-- A token shortfall marks a season; any other shortfall, one in the current season, or one of a safety partition refuses
the graph (R206). -/
def resourcesFail (c : State) (g : Nat) (l : List (Bool × List Byte)) : Bool :=
  (l.take 13).any (·.1) || (l[13 + seasonIdx c.power.season]?).elim false (·.1) || safetyShort (tokenScopes c g .autumn)

/-- Seasons whose tokens do not suffice. -/
def tokenShort (l : List (Bool × List Byte)) (season : Season) : Bool := (l[13 + seasonIdx season]?).elim false (·.1)

/-! ### Waits and their signals (R207, R209) -/

/-- The nodes that a flag is bound to as consumers. -/
def flagConsumers (c : State) (f : Nat) : List Nat :=
  ((tabGet? c.binds f).elim [] (fun b => b.consumers.map (·.2))).eraseDups

/-- The producer that a flag is bound to. -/
def flagProducer (c : State) (f : Nat) : Option Producer := (tabGet? c.binds f).bind (fun b => b.producer)

/-- A reference's flags over all slots. -/
def refFlags (r : PRef) : List Nat := if hasFlags r then (List.range (r.slots * bandCount r)).map (fun i => r.flag0 + i) else []

/-- The lag of an engine's descriptor on a flag (R207). -/
def descLag (d : List Byte) (f : Nat) : Nat :=
  maxOf ((srcUses d).map (fun u =>
    if hasFlags u.ref && decide (u.ref.flag0 ≤ f) && decide (f < u.ref.flag0 + u.ref.slots * bandCount u.ref) then u.lag else 0))

/-- The lag of a consumer on a flag. -/
def lagOn (c : State) (n f : Nat) : Nat :=
  match tabGet? c.nodes n with
  | none => 0
  | some x => if x.kind = 1 then descLag (nodeDesc c n) f else 0

/-- The lags of a consumer on a flag over the range of its editable fields (R217). -/
def lagsOn (c : State) (n f : Nat) : List Nat :=
  match tabGet? c.nodes n with
  | none => [0]
  | some x => if x.kind = 1 then (nodeVariants c n x).map (fun d => descLag d f) else [0]

/-- A wait of a node as admission takes it: consumer flags with the slots it may wait on, producer flags with the slot count,
or a semaphore. -/
inductive WaitOn where
  | sem (index : Nat)
  | consumer (flags : List Nat)
  | producer (flags : List Nat) (slots : Nat)
deriving DecidableEq, Repr

/-- Flags of a wait entry over its slots. -/
def waitFlags (w : WaitE) : List Nat := (List.range (2 ^ w.slotsLog)).map (fun i => w.index + i * w.stride)

/-- The waits of a node with a descriptor: its wait entries in order, then those that its descriptor implies, destinations before sources
(R197, log entry 40). -/
def waitsWith (c : State) (x : Node) (desc : List Byte) : List WaitOn :=
  let d := if x.kind = 1 then desc else []
  (waitsOf c x).map (fun w =>
    if w.kind = 0 then .sem w.index else if w.kind = 1 then .consumer (waitFlags w) else .producer (waitFlags w) (2 ^ w.slotsLog)) ++
  ((dstRefs d).filter (fun y => hasFlags y.1)).map (fun y => .producer (refFlags y.1) y.1.slots) ++
  (if engType d = 5 ∧ fieldAt d 52 2 ≠ 0xFFFF then
    [.producer ((List.range (fieldAt d 54 1)).map (fun i => fieldAt d 52 2 + i)) (fieldAt d 54 1)] else []) ++
  ((srcUses d).filter (fun u => hasFlags u.ref)).map (fun u =>
    .consumer ((List.range u.ref.slots).map (fun i => lastFlag u.ref i)))

/-- The waits of a node with the descriptor that it has. -/
def waitList (c : State) (n : Nat) (x : Node) : List WaitOn := waitsWith c x (nodeDesc c n)

/-! ### The wait-for cycle (R207) -/

/-- A vertex of the wait-for graph. -/
inductive Vtx where
  | node (n : Nat)
  | stream (k : Nat)
  | sem (n : Nat)
  | flag (n : Nat)
deriving DecidableEq, Repr

/-- The blocking arcs of a graph: those with token count 0. An arc to a flag that its producer waits for never blocks,
because a lag stays below the slot count. -/
def blockingArcs (c : State) (g : Nat) : List (Vtx × Vtx) :=
  (nodesOf c g).flatMap (fun e =>
    (targetsOf c e.2).map (fun t => (Vtx.node t, Vtx.node e.1)) ++
    (waitList c e.1 e.2).flatMap (fun w => match w with
      | .sem i => if (semOf c i).init = 0 then (.node e.1, .sem i) :: (semOf c i).signaler.toList.map (fun m => (.sem i, .node m))
          else []
      | .consumer fs => fs.flatMap (fun f =>
          if lagOn c e.1 f ≠ 0 then []
          else match flagProducer c f with
            | some (.node m) => [(.node e.1, .flag f), (.flag f, .node m)]
            | some (.stream k) => [(.node e.1, .flag f), (.flag f, .stream k)]
            | _ => [])
      | .producer _ _ => []))

/-- Arcs whose end has an arc of its own, again and again: what remains holds every cycle. -/
def peelArcs : Nat → List (Vtx × Vtx) → List (Vtx × Vtx)
  | 0, l => l
  | k + 1, l =>
    let l' := l.filter (fun a => l.any (fun b => b.1 == a.2))
    if l'.length = l.length then l else peelArcs k l'

/-- Follow arcs from a vertex until one repeats: the vertices of the cycle. -/
def followArcs (l : List (Vtx × Vtx)) : Nat → Vtx → List Vtx → List Vtx
  | 0, _, _ => []
  | k + 1, v, path =>
    if path.contains v then path.dropWhile (fun y => y != v)
    else match l.find? (fun a => a.1 == v) with
      | some a => followArcs l k a.2 (path ++ [v])
      | none => []

/-- The response's entry of a vertex (R207). -/
def vtxEntry : Vtx → Option Nat
  | .sem n => some n
  | .flag n => some (2 ^ 30 + n)
  | _ => none

/-- A blocking cycle of a graph, when there is one. -/
def waitCycle (c : State) (g : Nat) : Option (List Nat) :=
  let arcs := blockingArcs c g
  match peelArcs arcs.length arcs with
  | [] => none
  | a :: t => some (((followArcs (a :: t) (arcs.length + 2) a.1 []).filterMap vtxEntry).take 16)

/-! ### The schedule (R208 to R211) -/

/-- A node in a season: its W, J and LATEST. -/
structure SNode where
  n : Nat
  x : Node
  w : Nat
  j : Nat
  lat : Nat
deriving DecidableEq, Repr

/-- d of R200 at an edge position. -/
def edgeTicks (pos : Nat) : Nat := 2400 + 8 * pos

/-- LATEST of a node in a season. -/
def latestOf (x : Node) (season : Season) : Nat := if x.kind = 4 then 0 else 16 * nth x.lates (seasonIdx season)

/-- Edges of a node with their positions. -/
def edgesAt (c : State) (x : Node) : List (Nat × EdgeE) := (List.range x.edgeCnt).zip (edgesOf c x)

/-- J of every node of a graph in a season (R209). -/
def jTable (c : State) (g : Nat) (season : Season) : Tab Nat :=
  (nodesOf c g).foldl (fun t e => (edgesAt c e.2).foldl (fun t p =>
    if p.2.sem then t else tabSet p.2.target (max (tabGet 0 t p.2.target) (latestOf e.2 season + edgeTicks p.1)) t) t) []

/-- What a watch adds to the run time of its node (R484). -/
def watchTicks (c : State) (w : Watch) (season : Season) : Nat :=
  match tabGet? c.graphs w.graph with
  | none => 0
  | some g =>
    let t := tdesc ((g.tensors[fieldAt w.def_ 4 2]?).getD [])
    let (lo, hi) := footprint t
    16 * (gransOf lo.toNat (hi - lo + 1).toNat).length + accessTicks c (floorKhz season) 1 false false t + 1380

/-- What the watches of a node add. -/
def watchesTicks (c : State) (n : Nat) (season : Season) : Nat :=
  tabSum (fun _ w => if w.node = n then watchTicks c w season else 0) c.watches

/-- The nodes of a graph in a season. -/
def seasonNodes (c : State) (g : Nat) (season : Season) : List SNode :=
  let js := jTable c g season
  (nodesOf c g).map (fun e =>
    { n := e.1, x := e.2, w := nodeTicks c e.1 e.2 season + watchesTicks c e.1 season,
      j := if e.2.kind = 4 then 0 else tabGet 0 js e.1, lat := latestOf e.2 season })

/-- A stream in a season: its W and LATEST (R348). Its J is 0; its LATEST leaves room for one self-test stall (log entry
41). -/
structure SStream where
  k : Nat
  x : StreamSt
  w : Nat
  lat : Nat
deriving DecidableEq, Repr

/-- The streams of a graph in a season. DEDUCED: log entry 41. -/
def seasonStreams (c : State) (g : Nat) (season : Season) : List SStream :=
  (graphStreams c g).map (fun e => 
    let w := streamTicks c e.2 season
    { k := e.1, x := e.2, w := w, lat := w + 8000 })

/-- A failed check (table *Schedule report entry*): `raw` amounts stand as they are, others become units of 16 ticks. -/
structure Miss where
  result : Nat
  node : Nat
  lane : Nat
  wait : Nat
  unit : Nat
  req : Nat
  allow : Nat
  raw : Bool
deriving DecidableEq, Repr

/-- A failed check of a node. -/
def missOf (base : Nat) (y : SNode) (result wait : Nat) (req allow : Int) : Miss :=
  { result := result, node := y.n - base, lane := y.x.lane, wait := wait, unit := 0xFFFF, req := req.toNat,
    allow := allow.toNat, raw := false }

/-- LATEST of a node among those of a season. -/
def latIn (ys : List SNode) (n : Nat) : Nat := ((ys.find? (fun y => y.n == n)).map (fun y => y.lat)).getD 0

/-- The position of the edge by which a node signals a semaphore. -/
def signalPos (c : State) (m sem : Nat) : Nat :=
  (tabGet? c.nodes m).elim 0 (fun x => (((edgesAt c x).find? (fun p => p.2.sem && p.2.target == sem && p.2.dev == c.inst.id)).map
    (·.1)).getD 0)

/-- The instants, less k periods, by which the signals that a wait needs have come (WAIT of R209), with the least k over the
range of the editable fields (R217). DEDUCED: log entry 59. -/
def waitTimes (c : State) (g : Nat) (ys : List SNode) (ss : List SStream) (n : Nat) (p : Nat) : WaitOn → List Int
  | .sem i =>
    let x := semOf c i
    if x.remote then [(16 * x.arrive : Nat) - (x.impK * p : Nat)]
    else x.signaler.toList.map (fun m => ((latIn ys m + edgeTicks (signalPos c m i) : Nat) : Int) -
      (leastInit c g i * p : Nat))
  | .consumer fs => fs.filterMap (fun f => match flagProducer c f with
    | some (.node m) => some (((latIn ys m + edgeTicks 0 : Nat) : Int) - (leastOf (lagsOn c n f) * p : Nat))
    | some (.stream k) => (ss.find? (fun y => y.k == k)).map (fun y =>
        ((y.lat + edgeTicks 0 : Nat) : Int) - (leastOf (lagsOn c n f) * p : Nat))
    | _ => none)
  | .producer fs slots => fs.flatMap (fun f =>
    let ms := flagConsumers c f
    let lag := maxOf (ms.flatMap (fun m => lagsOn c m f))
    ms.map (fun m => ((latIn ys m + edgeTicks 0 : Nat) : Int) - ((slots - lag) * p : Nat)))

/-- The pipeline references that a node is a consumer of: those that its descriptor reads or can come to read, and those whose flags it is bound
to. -/
def slotRefs (c : State) (g : Nat) (y : SNode) : List PRef :=
  let own := if y.x.kind = 1 then ((nodeVariants c y.n y.x).flatMap (fun d => (pipeSources d).map (fun u => u.ref))).eraseDups
    else []
  own ++ ((pipeBuffers c g).filter (fun r => (refFlags r).any (fun f => (flagConsumers c f).contains y.n)))

/-- The waits that a node has or can come to have. -/
def nodeWaits (c : State) (n : Nat) (x : Node) : List (List WaitOn) :=
  if x.kind = 1 then ((nodeVariants c n x).map (waitsWith c x)).eraseDups else [waitList c n x]

/-- The checks of R209 for a node of a lane with period P. -/
def nodeMiss (c : State) (g base : Nat) (ys : List SNode) (ss : List SStream) (l : Lane) (y : SNode) : Option Miss :=
  let p := l.period
  (if y.x.kind != 4 && decide (y.lat < y.j + y.w) then some (missOf base y 3 0xFF (y.j + y.w : Nat) y.lat) else none) <|>
  (if y.x.iterEnd && decide (16 * l.latMax < y.lat) then some (missOf base y 4 0xFF y.lat (16 * l.latMax : Nat)) else none) <|>
  (nodeWaits c y.n y.x).findSome? (fun ws => ((List.range ws.length).zip ws).findSome? (fun w =>
    ((waitTimes c g ys ss y.n p w.2).find? (fun t => decide ((y.j : Int) < t))).map (fun t =>
      missOf base y 5 (if w.1 < y.x.waitCnt then w.1 else 0xFF) t y.j))) <|>
  (targetsOf c y.x).findSome? (fun t =>
    let v : Int := ((latIn ys t + 2400 : Nat) : Int) - (2 * p : Nat)
    if (y.j : Int) < v then some (missOf base y 6 0xFF v y.j) else none) <|>
  (slotRefs c g y).findSome? (fun r =>
    if (r.slots - 1) * p < y.lat + (r.width + 512) * 16 then
      some (missOf base y 7 0xFF (y.lat + (r.width + 512) * 16 : Nat) ((r.slots - 1) * p : Nat)) else none)

/-- A stream's slot rule as a WAIT check (R348). -/
def streamMiss (c : State) (g : Nat) (ys : List SNode) (ss : List SStream) (p : Nat) (y : SStream) : Option Miss :=
  let n := 2 ^ y.x.nbufLog
  ((waitTimes c g ys ss 0 p (.producer ((List.range n).map (fun i => y.x.flag0 + i)) n)).find? (fun t => decide (0 < t))).map
    (fun t => { result := 5, node := 0xFFFF, lane := y.x.lane, wait := 0xFF, unit := 0xFFFF, req := t.toNat, allow := 0,
                raw := false })

/-- Nodes in topological order, the lowest first among those whose predecessors are done. `fuel` bounds the nodes. -/
def topoOrder (c : State) : Nat → List SNode → List Nat → List SNode
  | 0, ys, _ => ys
  | k + 1, ys, done =>
    match ys.find? (fun y => ! ys.any (fun z => (targetsOf c z.x).contains y.n)) with
    | some y => y :: topoOrder c k (ys.filter (fun z => z.n != y.n)) (y.n :: done)
    | none => ys

/-- A task of a unit (R210). -/
structure UTask where
  w : Nat
  j : Nat
  d : Nat
  p : Nat
deriving DecidableEq, Repr

/-- The least b > 0 with b = Σ ⌈(b + J)/P⌉ W, from a start; `fuel` bounds the steps. -/
def busyPeriod (ts : List UTask) : Nat → Nat → Nat
  | 0, b => b
  | k + 1, b =>
    let b' := (ts.map (fun t => cdiv (b + t.j) (max 1 t.p) * t.w)).sum
    if b' = b then b else busyPeriod ts k b'

/-- The demand and blocking of R210 at a point. -/
def demandAt (ts : List UTask) (l : Nat) : Nat :=
  (ts.map (fun t => if l + t.j < t.d then 0 else t.w * ((l + t.j - t.d) / max 1 t.p + 1))).sum +
  maxOf (ts.map (fun t => if l + t.j < t.d then t.w else 0))

/-- The points of R210 in rising order: D − J + kP up to the limit. -/
def demandPoints (ts : List UTask) (top : Nat) : List Nat :=
  sortBy (fun a b => decide (a ≤ b)) ((ts.flatMap (fun t =>
    if top < t.d - t.j then []
    else (List.range ((top - (t.d - t.j)) / max 1 t.p + 1)).map (fun k => t.d - t.j + k * t.p))).eraseDups)

/-- The checks of R210 for a unit: the result, what is required and what is allowed. -/
def unitMiss (ts : List UTask) : Option (Nat × Nat × Nat) :=
  let den := ts.foldl (fun n t => n * max 1 t.p) 1
  let num := (ts.map (fun t => t.w * (den / max 1 t.p))).sum
  if den ≤ num then some (1, cdiv (num * 65536) den, 65536)
  else
    let top := maxOf (ts.map (fun t => t.d - t.j)) + busyPeriod ts 1000000 (max 1 (ts.map (fun t => t.w)).sum)
    ((demandPoints ts top).find? (fun l => decide (l < demandAt ts l))).map (fun l => (2, demandAt ts l, l))

/-- The unit of R210 that a node runs on: its kind and the engine, core or channel. DEDUCED: log entry 59. -/
def taskUnit (c : State) (n : Nat) (x : Node) : Option (Nat × Nat) :=
  match x.kind with
  | 1 => some (1, nodeEngine c n x)
  | 2 => some (2, x.unit)
  | 3 => some (3, x.unit)
  | _ => none

/-- The tasks of other loaded graphs on a unit. DEDUCED: log entry 59. -/
def otherTasks (c : State) (g : Nat) (u : Nat × Nat) (season : Season) : List UTask :=
  (c.nodes.filter (fun e => e.2.graph != g && taskUnit c e.1 e.2 == some u)).map (fun e =>
    { w := nth e.2.ws (seasonIdx season) + watchesTicks c e.1 season, j := nth e.2.js (seasonIdx season),
      d := latestOf e.2 season, p := nodePeriod c e.1 })

/-- Ticks of a core's golden run at the season's floor clock, and of an engine's (table *Golden runs*). -/
def goldenTicks (kind : Nat) (season : Season) : Nat := if kind = 2 then cycTicks 1750 (floorKhz season) else 16384

/-- The safety tasks of a unit (R208): DMA engines make no golden runs. DEDUCED: log entry 59. -/
def safetyTasks (c : State) (kind : Nat) (season : Season) : List UTask :=
  let fi := fiOf c
  let slot := polSlot c.safety.policy
  (if kind = 3 then [] else [{ w := goldenTicks kind season, j := 0, d := fi, p := fi }]) ++
  [{ w := 8000, j := 0, d := slot, p := 12 * slot }]

/-- The units that a graph's nodes and streams use, each with its UNIT value; a stream uses its channel (R348). -/
def unitsUsed (c : State) (ys : List SNode) (ss : List SStream) : List ((Nat × Nat) × Nat) :=
  let nodes : List ((Nat × Nat) × Nat) := ys.filterMap (fun y => (taskUnit c y.n y.x).map (fun u => (u, y.x.unit)))
  let streams : List ((Nat × Nat) × Nat) := ss.map (fun y => ((3, y.x.chan), y.x.chan))
  (nodes ++ streams).eraseDups

/-- A graph's own tasks on a unit: its nodes, and the streams that have the unit as their channel. -/
def ownTasks (c : State) (g : Nat) (ys : List SNode) (ss : List SStream) (u : Nat × Nat) : List UTask :=
  (ys.filter (fun y => taskUnit c y.n y.x == some u)).map (fun y =>
    { w := y.w, j := y.j, d := y.lat, p := nodePeriod c y.n }) ++
  (ss.filter (fun y => u == (3, y.x.chan))).map (fun y =>
    { w := y.w, j := 0, d := y.lat, p := (laneAt c g y.x.lane).elim 1 (fun l => l.period) })

/-- The checks of R210 for every unit that the graph uses. -/
def unitsMiss (c : State) (g : Nat) (ys : List SNode) (ss : List SStream) (season : Season) : Option Miss :=
  (unitsUsed c ys ss).findSome? (fun u =>
    (unitMiss (ownTasks c g ys ss u.1 ++ otherTasks c g u.1 season ++ safetyTasks c u.1.1 season)).map (fun m =>
      { result := m.1, node := 0xFFFF, lane := 0xFF, wait := 0xFF, unit := u.2, req := m.2.1, allow := m.2.2,
        raw := m.1 == 1 }))

/-- The first check of R209 and R210 that fails in a season over the whole range of the graph's editable fields, in the order of
R211 (R217). -/
def scheduleMiss (c : State) (g : Nat) (x : Graph) (season : Season) : Option Miss :=
  let ys := seasonNodes c g season
  let ss := seasonStreams c g season
  let order := topoOrder c ys.length ys []
  ((List.range x.lanes.length).zip x.lanes).findSome? (fun l =>
    (order.filter (fun y => y.x.lane == l.1 && y.x.kind != 0)).findSome? (nodeMiss c g x.base ys ss l.2) <|>
    (ss.filter (fun y => y.x.lane == l.1)).findSome? (streamMiss c g ys ss l.2.period)) <|>
  unitsMiss c g ys ss season

/-! ### The pool (R294, R295) -/

/-- Loaded graphs in the order of loading. -/
def byOrder (c : State) : Tab Graph := sortBy (fun a b => decide (a.2.order ≤ b.2.order)) c.graphs

/-- E of a graph's flows of a kind; none without such flows. -/
def flowClass (c : State) (g : Nat) (safety : Bool) : Option Nat :=
  match (graphFlows c g).filter (fun e => e.2.safety == safety) with
  | [] => none
  | l => some (max 1 (maxOf (l.map (fun e => e.2.eclass))))

/-- The cores that graphs in the order of loading contribute in a group to one kind, until the graph asked for. -/
def contribution (c : State) (safety : Bool) (grp g : Nat) : Tab Graph → Nat → Nat
  | [], _ => 0
  | e :: t, room =>
    match flowClass c e.1 safety with
    | none => if e.1 = g then 0 else contribution c safety grp g t room
    | some cls =>
      let n := (e.2.pool.filter (fun k => k / 16 == grp)).length
      let per := if safety then cls - 1 else cls
      let k := if per = 0 then n else min n (room / per)
      if e.1 = g then k else contribution c safety grp g t (room - k * per)

/-- Cores of each group that count for one kind of a graph's flows. DEDUCED: log entry 59. -/
def kindCores (c : State) (g : Nat) (season : Season) (safety : Bool) : List Nat :=
  (List.range 16).map (fun grp =>
    contribution c safety grp g (byOrder c)
      (if safety then safetyTokens grp - safetySum c (c.graphs.map (·.1)) grp else (cgPool season).1))

/-- A failed check of the pool. DEDUCED: log entry 59. -/
def poolFail (base result : Nat) (f : Flow) (req allow : Nat) (raw : Bool) : Miss :=
  { result := result, node := f.spawner - base, lane := f.lane, wait := 0xFF, unit := 0xFFFF, req := req, allow := allow,
    raw := raw }

/-- A demand in cores, as a fraction. -/
abbrev Frac := Nat × Nat

/-- The sum of two fractions. -/
def addFrac (a b : Frac) : Frac := (a.1 * b.2 + b.1 * a.2, a.2 * b.2)

/-- The pool check of R294 in a season, with the report of R295. -/
def poolMiss (c : State) (g : Nat) (x : Graph) (season : Season) : Option Miss :=
  let fs := (graphFlows c g).map (·.2)
  if x.sx7 || fs.isEmpty then none
  else
    let khz := floorKhz season
    let dup := if season = .spring then 2 else 1
    let w := fun (f : Flow) => cycTicks f.cycMax khz + 2400
    let p := fun (f : Flow) => ((x.lanes[f.lane]?).map (fun l => max 1 l.period)).getD 1
    let il := fun (f : Flow) => 16 * f.itemLatest
    let fi := fiOf c
    let slot := polSlot c.safety.policy
    let wg := goldenTicks 2 season
    let h := maxOf (fs.map il)
    let cores := x.pool.length
    let b := (fs.map (fun f => dup * f.q * w f * cdiv (il f) (p f))).sum +
      cores * (cdiv h (max 1 fi) * wg + cdiv h (max 1 (12 * slot)) * 8000)
    let rate := fun (l : List Flow) => l.foldl (fun a f => addFrac a (dup * f.q * w f, p f)) ((0, 1) : Frac)
    let safe := addFrac (cores * wg, max 1 fi) (cores * 8000, max 1 (12 * slot))
    let kp := kindCores c g season false
    let ks := kindCores c g season true
    let nAll := ((kp.zip ks).map (fun e => max e.1 e.2)).sum
    let plain := fs.filter (fun f => ! f.safety)
    let safety := fs.filter (fun f => f.safety)
    let util := fun (r : Frac) (n : Nat) => if n * r.2 < r.1 then
        some ({ result := 1, node := 0xFFFF, lane := 0xFF, wait := 0xFF, unit := 0xFFFF, req := cdiv (r.1 * 65536) r.2,
                allow := n * 65536, raw := true } : Miss)
      else none
    util (addFrac (rate fs) safe) nAll <|>
    (if plain.isEmpty then none else util (rate plain) kp.sum) <|>
    (if safety.isEmpty then none else util (rate safety) ks.sum) <|>
    fs.findSome? (fun f =>
      let n := max 1 (if f.safety then ks.sum else kp.sum)
      let items := f.q * cdiv (il f) (p f)
      let lat := (tabGet? c.nodes f.spawner).elim 0 (fun y => latestOf y season)
      if 1024 < items then some (poolFail x.base 5 f items 1024 true)
      else if n * il f < n * (lat + w f) + (b - w f) then
        some (poolFail x.base 3 f (lat + w f + cdiv (b - w f) n) (il f) false)
      else none)

/-! ### The report (R211) -/

/-- A schedule report entry. DEDUCED: log entry 40. -/
def schedEntry (season : Season) : Option Miss → List Byte
  | none => leBytes 1 (seasonIdx season) ++ [0] ++ leBytes 2 0xFFFF ++ leBytes 1 0xFF ++ leBytes 1 0xFF ++ leBytes 2 0xFFFF ++
      leBytes 8 0
  | some m => leBytes 1 (seasonIdx season) ++ leBytes 1 m.result ++ leBytes 2 m.node ++ leBytes 1 m.lane ++ leBytes 1 m.wait ++
      leBytes 2 m.unit ++ leBytes 4 (satTo 32 (if m.raw then m.req else cdiv m.req 16)) ++
      leBytes 4 (satTo 32 (if m.raw then m.allow else m.allow / 16))

/-- Step 5 of R205: for each season what fails, the pool last. -/
def scheduleAll (c : State) (g : Nat) (x : Graph) : List (Season × Option Miss) :=
  seasons.map (fun se => (se, scheduleMiss c g x se <|> poolMiss c g x se))

/-- The mask of the seasons in which a schedule passes; SX7 excludes SPRING (R299). -/
def seasonMask (x : Graph) (l : List (Season × Option Miss)) (short : Season → Bool) : Nat :=
  (l.map (fun e => if e.2.isNone && ! short e.1 && ! (x.sx7 && e.1 == .spring) then 2 ^ seasonIdx e.1 else 0)).sum

/-- The entries of a schedule report. -/
def schedBytes (l : List (Season × Option Miss)) : List Byte := l.flatMap (fun e => schedEntry e.1 e.2)

end Sys2Proof.Machine
end

