-- ==== Sys2Proof/Machine/GraphLoad.lean ====
section
/-! DEFINITION. GRAPH_LOAD (R190, R191, R195, R204, R205, R282, R283, R299, R320, R322, R342, R345, R496, R512) and
GRAPH_PARAM_SET (R217). -/

namespace Sys2Proof.Machine

open Sys2Proof

/-! ### The payload -/

/-- The domain, number and payload of a load with its image. -/
structure LoadArgs where
  g : Nat
  dom : Nat
  pay : List Byte
  img : List Byte
  p : Places
deriving DecidableEq, Repr

/-- A step of the load: a refusal with the state that it leaves, or the candidate state. -/
abbrev LoadStep := Sum (State × Bad) State

/-- The next step of a load. -/
def loadThen (x : LoadStep) (f : State → LoadStep) : LoadStep :=
  match x with
  | .inl e => .inl e
  | .inr c => f c

/-- A candidate given up: what the load had bound is as at the command's start, and what its reads did stands. -/
def undoLoad (s c : State) : State :=
  { c with chans := s.chans, flags := s.flags, binds := s.binds, sems := s.sems, nodes := s.nodes, links := s.links,
           descs := s.descs, graphs := s.graphs, pool := s.pool, dma := s.dma, streams := s.streams }

/-- A check between steps. -/
def loadCheck (s c : State) (b : Option Bad) : LoadStep :=
  match b with
  | some b => .inl (undoLoad s c, b)
  | none => .inr c

/-- Streams and flows that a payload names. -/
def payStreams (pay : List Byte) : Nat := fieldAt pay 3 1
/-- Flow entries that a payload names. -/
def payFlows (pay : List Byte) : Nat := fieldAt pay 4 4
/-- A stream entry of the payload: its channel, lane and reserved byte. -/
def payStream (pay : List Byte) (i : Nat) : Nat × Nat × Nat :=
  (fieldAt pay (64 + 4 * i) 2, fieldAt pay (66 + 4 * i) 1, fieldAt pay (67 + 4 * i) 1)

/-- The checks of the payload (table *GRAPH_LOAD payload*): its length (R488), then STATE first (R190, R489).
DEDUCED: log entry 55. -/
def payloadBad (s : State) (pay : List Byte) : Option Bad :=
  let g := fieldAt pay 0 1
  let ns := payStreams pay
  let nf := payFlows pay
  let fa := fieldAt pay 24 8
  need (pay.length == 64 + 4 * ns) .badParam 8 0xFFFF 7 <|>
  need (! (decide (g ≤ 15) && (tabGet? s.graphs g).isSome)) .state 0 0xFFFF 0 <|>
  fieldsBad ([(decide (fieldAt pay 1 1 < 2), 1), (zeroAt pay 20 4, 20)] ++
      (List.range ns).map (fun i => ((payStream pay i).2.2 == 0, 67 + 4 * i)))
    ([(decide (g ≤ 15), 0), (decide (fieldAt pay 2 1 ≤ 16), 2), (decide (ns ≤ 32), 3),
      (decide (nf ≤ 64), 4), (fieldAt pay 8 8 % 64 == 0, 8), (fa % 64 == 0 && (nf != 0 || fa == 0) && (nf == 0 || fa != 0), 24)] ++
      (List.range ns).map (fun i => (decide ((payStream pay i).1 ≤ 1023), 64 + 4 * i))) 0xFFFF 0 <|>
  needField (decide (128 ≤ fieldAt pay 16 4)) .badImage 16

/-! ### Channels (R79, R80, R204, R320, R345) -/

/-- A channel of TYPE 1 bound for DMA nodes. DEDUCED: log entry 56. -/
def bindDma (s : State) (a : LoadArgs) (k : Nat) (c : State) : LoadStep :=
  let ch := fieldAt (nodeE a.img k) 2 2
  if (tabGet? c.dma ch).elim false (fun x => x.graph == some a.g) then .inr c
  else match fetchEntry c a.dom ch 1 0 with
    | (c', .inl r) => .inl (undoLoad s c', badOfRes r 2 k 1)
    | (c', .inr e) => match dmaBody e with
      | some off => .inl (undoLoad s c', { st := .badParam, off := off, obj := ch, okind := 2 })
      | none =>
        if fieldAt e 8 1 ≠ 1 then .inl (undoLoad s c', { st := .badParam, off := 8, obj := ch, okind := 2 })
        else .inr (setDma c' ch (dmaOfEntry e a.dom (some a.g) 0))

/-- The checks of a stream channel's body. -/
def streamBody (e : List Byte) (ch : Nat) : Option Bad :=
  let share := fieldAt e 10 2
  let tags := fieldAt e 12 2
  let log := fieldAt e 9 1
  fieldsBad []
    [(decide (fieldAt e 2 2 ≤ 255), 2), (decide (fieldAt e 8 1 ≤ 31), 8), (decide (1 ≤ log) && decide (log ≤ 3), 9),
     (decide (1 ≤ share) && decide (share ≤ 256), 10), (decide (1 ≤ tags) && decide (tags ≤ 256), 12),
     (decide (fieldAt e 15 1 ≤ 2), 15), (fieldAt e 16 8 % 64 == 0, 16), (fieldAt e 24 8 % 64 == 0, 24),
     (fieldAt e 32 4 % 64 == 0, 32), (decide (fieldAt e 52 2 + 2 ^ log ≤ 4096), 52)] ch 2

/-- A stream as its entry configures it. DEDUCED: log entry 20. -/
def streamOfEntry (e : List Byte) (ch g lane dom : Nat) (src dst : List Byte) : StreamSt :=
  { chan := ch, graph := g, lane := lane, dom := dom, engine := fieldAt e 8 1, nbufLog := fieldAt e 9 1,
    share := fieldAt e 10 2, tags := fieldAt e 12 2, wcache := bitAt (fieldAt e 14 1) 0, kind := fieldAt e 15 1,
    perm := fieldAt e 36 4, srcTd := src, dstTd := dst, dstPitch := fieldAt e 32 4, srcStep := fieldAt e 40 8,
    srcWrap := fieldAt e 48 4, flag0 := fieldAt e 52 2, next := 0, rearms := [], active := false, halted := false,
    cancelling := false, run := none, discard := 0, unread := [] }

/-- A stream of the payload attached to its lane; its tensor descriptors are read now (log entry 20). -/
def bindStream (s : State) (a : LoadArgs) (i : Nat) (c : State) : LoadStep :=
  let (ch, lane, _) := payStream a.pay i
  if imgLanes a.img ≤ lane then .inl (undoLoad s c, { st := .badParam, off := 66 + 4 * i, obj := 0xFFFF, okind := 0 })
  else match fetchEntry c a.dom ch 6 0 with
    | (c', .inl r) => .inl (undoLoad s c', badOfRes r (64 + 4 * i) 0xFFFF 0)
    | (c', .inr e) => match streamBody e ch with
      | some b => .inl (undoLoad s c', b)
      | none =>
        let r1 := readStruct c' 13 0 a.dom (fieldAt e 16 8) 128
        let r2 := readStruct r1.1 13 0 a.dom (fieldAt e 24 8) 128
        if r1.2.1 ≠ .ok then .inl (undoLoad s r1.1, { st := r1.2.1, off := 16, obj := ch, okind := 2 })
        else if r2.2.1 ≠ .ok then .inl (undoLoad s r2.1, { st := r2.2.1, off := 24, obj := ch, okind := 2 })
        else .inr (setStream r2.1 (fieldAt e 2 2) (streamOfEntry e ch a.g lane a.dom r1.2.2 r2.2.2))

/-! ### Flows (R283) -/

/-- The node entry of a spawner may submit items: a CORE node, or an OBX with SPAWN. -/
def spawns (img : List Byte) (k : Nat) : Bool :=
  let e := nodeE img k
  let d := bytesAt (sect img 3) (64 * fieldAt e 8 2) (64 * fieldAt e 10 1)
  namesNode img k && (kindE img k == 2 || (kindE img k == 1 && engType d == 6 && bitAt (fieldAt d 2 1) 4))

/-- The checks of a flow entry. -/
def flowBad (img e : List Byte) (i : Nat) : Option Bad :=
  let len := fieldAt e 12 4
  let q := fieldAt e 20 2
  fieldsBad [(decide (fieldAt e 0 2 < 4096), 0), (decide (fieldAt e 2 1 < 4), 2), (decide (fieldAt e 7 1 < 8), 7),
      (zeroAt e 10 2, 10), (zeroAt e 23 1, 23), (zeroAt e 28 4, 28), (zeroAt e 80 16, 80)]
    [(decide (fieldAt e 3 1 ≤ 15), 3), (spawns img (fieldAt e 4 2), 4),
     (fieldAt e 6 1 == fieldAt (nodeE img (fieldAt e 4 2)) 18 1, 6), (decide (1 ≤ len) && decide (len ≤ 98304), 12),
     (decide (1 ≤ q) && decide (q ≤ 4096), 20)] i 5 <|>
  need (decide ((listRows (fieldAt e 8 2) len).2 ≤ goldenRow)) .range 8 i 5

/-- A flow as its entry configures it. -/
def flowOfEntry (e : List Byte) (g base : Nat) : Flow :=
  { graph := g, ordered := bitAt (fieldAt e 2 1) 0, safety := bitAt (fieldAt e 2 1) 1, eclass := fieldAt e 3 1,
    spawner := base + fieldAt e 4 2, lane := fieldAt e 6 1, prio := fieldAt e 7 1, list := fieldAt e 8 2,
    listLen := fieldAt e 12 4, cycMax := fieldAt e 16 4, q := fieldAt e 20 2, dupTol := fieldAt e 22 1,
    itemLatest := fieldAt e 24 4, args := argWords e 32, window := [], nextAcc := 0, lastSeq := none, seqSkips := 0,
    lastCore := none, iterItems := [], excessWindow := none, slipWindow := none, slips := 0, discarded := 0 }

/-- A flow entry of those read. -/
def flowE (bs : List Byte) (i : Nat) : List Byte := bytesAt bs (96 * i) 96

/-- The flows bound to the graph. DEDUCED: log entry 56. -/
def bindFlows (a : LoadArgs) (n : Nat) (bs : List Byte) (c : State) : State :=
  (List.range n).foldl (fun c i => setFlow c (fieldAt (flowE bs i) 0 2 % 4096) (flowOfEntry (flowE bs i) a.g a.p.node)) c

/-! ### Region flags (R182) -/

/-- The pipeline that a reference reads: the running one with its base, else the source of the node's lane. -/
def refPipe (c : State) (g lane base : Nat) : Nat :=
  match pipesAt c base with
  | p :: _ => p
  | [] => (laneAt c g lane).elim 0 (fun l => l.src)

/-- Flags with who produces them: KIND 2 waits, engine destinations and lists, pipelines that are read, and streams. -/
def flagProducers (c : State) (g : Nat) : List (Nat × Producer) :=
  (nodesOf c g).flatMap (fun e =>
    let d := if e.2.kind = 1 then nodeDesc c e.1 else []
    (((waitsOf c e.2).filter (fun w => w.kind == 2)).flatMap waitFlags ++ (dstRefs d).flatMap (fun x => refFlags x.1) ++
      (List.range (fieldAt d 54 1)).flatMap (fun f => listFlag d f)).map (fun f => (f, Producer.node e.1)) ++
    (pipeSources d).flatMap (fun u => (refFlags u.ref).map (fun f => (f, Producer.pipe (refPipe c g e.2.lane u.ref.base))))) ++
  (graphStreams c g).flatMap (fun e => (List.range (2 ^ e.2.nbufLog)).map (fun i => (e.2.flag0 + i, Producer.stream e.1)))

/-- Flags that the nodes of a graph read or wait on. -/
def flagsRead (c : State) (g : Nat) : List Nat :=
  (nodesOf c g).flatMap (fun e =>
    ((waitsOf c e.2).filter (fun w => w.kind == 1)).flatMap waitFlags ++
    (if e.2.kind = 1 then (srcUses (nodeDesc c e.1)).flatMap (fun u => refFlags u.ref) else []))

/-- Two producers of one flag refuse the graph (R182). DEDUCED: log entry 56. -/
def producersBad (l : List (Nat × Producer)) : Option Bad :=
  need (l.all (fun x => l.all (fun y => x.1 != y.1 || x.2 == y.2))) .badParam 0 5 6

/-- Every flag of a graph. -/
def graphFlags (c : State) (a : LoadArgs) (l : List (Nat × Producer)) : List Nat :=
  (l.map (·.1) ++ flagsRead c a.g ++ (flagList a.img).map (·.1)).eraseDups

/-- A flag bound: its producer, its consumers with their indices, CMASK set, FRAME and PEND clear. -/
def bindFlag (a : LoadArgs) (l : List (Nat × Producer)) (c : State) (f : Nat) : State :=
  let cons := ((flagList a.img).filter (fun e => e.1 == f)).map (fun e => (e.2.1, a.p.node + e.2.2))
  let mask := (cons.map (fun e => 2 ^ e.1)).sum
  let b : FlagBind := { graph := a.g, producer := (l.find? (fun e => e.1 == f)).map (·.2), consumers := cons }
  setFlag { c with binds := tabSet f b c.binds } f { frame := 0, pend := 0, cmask := BitVec.ofNat 8 mask }

/-! ### Descriptors, tensors and pipelines (R118, R182, R305, R334, R512) -/

/-- The descriptor checks of every node. -/
def descsBad (c : State) (g : Nat) : Option Bad :=
  (nodesOf c g).findSome? (fun e => descBad c e.1 e.2 (nodeDesc c e.1))

/-- The TENSOR section (R305): a writable tensor is checked for a write, another for a read. -/
def tensorsBad (c : State) (a : LoadArgs) : Option Bad :=
  (List.range (sectCount a.img 6 128)).findSome? (fun i =>
    let t := tdesc (sectEntry a.img 6 128 i)
    (tdCheck c t (if isWritable t then .write else .read) a.dom c.inst.id).map (fun e =>
      { st := e.1, off := e.2, obj := i, okind := 3 }))

/-- Two uses of one frame buffer give it one geometry (R512). DEDUCED: log entry 56. -/
def sameGeometry (u v : SrcUse) : Bool :=
  let a := u.ref
  let b := v.ref
  a.linePitch == b.linePitch && a.planePitch == b.planePitch && a.slotPitch == b.slotPitch && a.width == b.width &&
  a.height == b.height && a.fmt == b.fmt && a.slots == b.slots && u.hdr == v.hdr

/-- They also give it the same flags and bands (R182). -/
def sameFlags (u v : SrcUse) : Bool := u.ref.flag0 == v.ref.flag0 && u.ref.bandLog == v.ref.bandLog

/-- Uses of two graphs give a pipeline's output no two sets of flags: one of them has none, or both have the same (R182). -/
def flagsAgree (u v : SrcUse) : Bool := ! hasFlags u.ref || ! hasFlags v.ref || sameFlags u v

/-- The uses through which a graph reads pipelines, with their nodes. -/
def pipeUses (c : State) (g : Nat) : List (Nat × SrcUse) :=
  ((nodesOf c g).filter (fun e => e.2.kind == 1)).flatMap (fun e => (pipeSources (nodeDesc c e.1)).map (fun u => (e.1, u)))

/-- References to one pipeline agree within the graph, with other loaded graphs, and with a running pipeline.
DEDUCED: log entry 56. -/
def pipesBad (c : State) (a : LoadArgs) : Option Bad :=
  let us := pipeUses c a.g
  us.findSome? (fun u =>
    need (us.all (fun v => u.2.ref.base != v.2.ref.base || (sameGeometry u.2 v.2 && sameFlags u.2 v.2)) &&
      (readersOf c u.2.ref.base).all (fun v => sameGeometry u.2 v && flagsAgree u.2 v)) .badParam u.2.off (u.1 - a.p.node) 1) <|>
  (c.pipes.filter (fun e => e.2.running)).findSome? (fun e =>
    need (! (pipeReaders c e.1 e.2.cfg).any (geometryDiffers e.2.cfg)) .badParam 0 5 6)

/-- Flags whose producer waits over fewer slots than a consumer's lag needs refuse the graph (R207).
DEDUCED: log entry 56. -/
def slotLagBad (c : State) (a : LoadArgs) : Option Bad :=
  let ok := fun (fs : List Nat) (n : Nat) => fs.all (fun f => (flagConsumers c f).all (fun m => decide (lagOn c m f < n)))
  (nodesOf c a.g).findSome? (fun e => (waitList c e.1 e.2).findSome? (fun w => match w with
    | .producer fs n => need (ok fs n) .badParam 16 (e.1 - a.p.node) 1
    | _ => none)) <|>
  (graphStreams c a.g).findSome? (fun e =>
    need (ok ((List.range (2 ^ e.2.nbufLog)).map (fun i => e.2.flag0 + i)) (2 ^ e.2.nbufLog)) .badParam 9 e.2.chan 2)

/-! ### The index rules (R191, R195, R204, R282, R283, R299, R320, R322, R342) -/

/-- Cores that loaded graphs hold, in a pool or by a CORE node. -/
def heldCores (s : State) : List Nat :=
  s.graphs.flatMap (fun e => e.2.pool) ++ (s.nodes.filter (fun e => e.2.kind == 2)).map (fun e => e.2.unit)

/-- CORE nodes of an image as (node, core). -/
def coreNodes (img : List Byte) : List (Nat × Nat) :=
  ((liveNodes img).filter (fun k => kindE img k == 2)).map (fun k => (k, fieldAt (nodeE img k) 2 2))

/-- Placement of CORE nodes and the pool (R204, R282). -/
def coresBad (s : State) (a : LoadArgs) : Option Bad :=
  let held := heldCores s
  let pool := poolCores (fieldAt a.pay 32 32)
  let own := (coreNodes a.img).map (·.2)
  (coreNodes a.img).findSome? (fun e =>
    need (! (coreOf s e.2).fenced) .fenced 2 e.1 1 <|> need (! held.contains e.2) .busy 2 e.1 1) <|>
  needField (! pool.any (fun k => (coreOf s k).fenced)) .fenced 32 <|>
  needField (! pool.any (fun k => held.contains k || own.contains k)) .busy 32 <|>
  needField (payFlows a.pay == 0 || ! pool.isEmpty) .badParam 32

/-- At most 64 flows, each ID bound once (R283). -/
def flowsBusy (s : State) (n : Nat) (bs : List Byte) : Option Bad :=
  let ids := (List.range n).map (fun i => fieldAt (flowE bs i) 0 2)
  (List.range n).findSome? (fun i =>
    need (! (tabGet? s.pool.flows (nth ids i)).isSome && ! (ids.take i).contains (nth ids i)) .busy 0 i 5) <|>
  needField (decide (s.pool.flows.length + n ≤ 64)) .busy 4

/-- Core groups of a pool. -/
def poolGroups (l : List Nat) : List Nat := (l.map (· / 16)).eraseDups

/-- SX7 pools share a core group with SX7 pools only (R299). DEDUCED: log entry 56. -/
def sx7Busy (s : State) (a : LoadArgs) : Option Bad :=
  let grps := poolGroups (poolCores (fieldAt a.pay 32 32))
  needField (! tabAny (fun _ x => (x.sx7 != bitAt (fieldAt a.pay 1 1) 0) && (poolGroups x.pool).any grps.contains) s.graphs)
    .busy 1

/-- Channels and engines that the candidate binds (R320, R322, R345). -/
def channelsBusy (s c : State) (a : LoadArgs) : Option Bad :=
  let dma := c.dma.filter (fun e => e.2.graph == some a.g)
  let str := c.streams.filter (fun e => e.2.graph == a.g)
  let engines := (dma.map (fun e => e.2.engine) ++ str.map (fun e => e.2.engine)).eraseDups
  let taken := fun (ch : Nat) => (tabGet? s.dma ch).elim false (fun x => x.running || x.run.isSome) || (streamOfChan s ch).isSome
  needField (! dma.any (fun e => taken e.1) && ! str.any (fun e => taken e.2.chan || (tabGet? s.streams e.1).isSome)) .busy 64 <|>
  needField (str.length == payStreams a.pay) .busy 64 <|>
  needField (engines.all (fun e => ! engineRings s e && decide (engineChans c e ≤ 32))) .busy 64

/-- Pipelines that the lanes of an image have as sources. -/
def imgPipes (img : List Byte) : List Nat :=
  ((List.range (imgLanes img)).filter (fun i => fieldAt (laneE img i) 0 1 == 1)).map (fun i => fieldAt (laneE img i) 2 2)

/-- One lane per pipeline, semaphore and flag indices free, ways to spare (R191, R195, R342).
DEDUCED: log entry 56. -/
def indexBusy (s : State) (a : LoadArgs) (flags : List Nat) : Option Bad :=
  let pipes := imgPipes a.img
  let used := s.graphs.flatMap (fun e => (e.2.lanes.filter (fun l => ! l.remote)).map (fun l => l.src))
  need (pipes.eraseDups.length == pipes.length && ! pipes.any used.contains) .busy 2 0 6 <|>
  need (! (semList a.img).any (fun e => semBound (semOf s e.1))) .busy 0 4 6 <|>
  need (! flags.any (fun f => (tabGet? s.binds f).isSome)) .busy 0 5 6 <|>
  needField (decide ((s.graphs.map (fun e => e.2.ways.length)).sum + fieldAt a.pay 2 1 ≤ 16)) .busy 2

/-! ### The candidate -/

/-- Step 2 of R205 (R118, R182, R191, R195, R204, R282, R283, R334): the entries, channels, flows, flags, descriptors and
index rules, and the candidate state. DEDUCED: log entry 55. -/
def loadCandidate (s : State) (a : LoadArgs) (flows : List Byte) : LoadStep :=
  let nf := payFlows a.pay
  let flow := (List.range nf).findSome? (fun i => flowBad a.img (flowE flows i) i)
  let c := withImage s a.img a.g a.dom (bitAt (fieldAt a.pay 1 1) 0) (fieldAt a.pay 2 1) (fieldAt a.pay 32 32) a.p
  let dmas := (liveNodes a.img).filter (fun k => kindE a.img k == 3)
  let c := dmas.foldl (fun x k => loadThen x (bindDma s a k)) (loadCheck s c (entriesBad s.inst.id a.img <|> flow))
  let c := (List.range (payStreams a.pay)).foldl (fun x i => loadThen x (bindStream s a i)) c
  loadThen c (fun c =>
    let c := bindFlows a nf flows c
    let l := flagProducers c a.g
    let flags := graphFlags c a l
    let c' := flags.foldl (bindFlag a l) c
    loadCheck s c' (producersBad l <|> descsBad c' a.g <|> tensorsBad c' a <|> pipesBad c' a <|> slotLagBad c' a <|> coresBad s a <|>
      flowsBusy s nf flows <|> sx7Busy s a <|> channelsBusy s c' a <|> indexBusy s a flags))

/-! ### GRAPH_LOAD -/

/-- The head of the response (R496). -/
def loadHead (base mask nres nsched ncyc : Nat) : List Byte :=
  leBytes 2 base ++ leBytes 1 mask ++ leBytes 1 nres ++ leBytes 1 nsched ++ leBytes 1 ncyc ++ List.replicate 10 0

/-- A refusal before step 3. -/
def loadRefused (b : Bad) : CmdRes := .done b.st (loadHead 0xFFFF 0 0 0 0 ++ badBytes b)

/-- The nodes with the W of every season, the greatest over the editable fields' ranges, and the J, which the run-time windows
of R211 take (R208, R209, R217).
DEDUCED: log entry 56. -/
def withSchedule (c : State) (g : Nat) : State :=
  let tab := seasons.map (fun se => seasonNodes c g se)
  { c with nodes := c.nodes.map (fun e => if e.2.graph = g then
      (e.1, { e.2 with
        ws := seasons.map (fun se => nodeTicks c e.1 e.2 se),
        js := tab.map (fun l => ((l.find? (fun y => y.n == e.1)).map (fun y => y.j)).getD 0) })
      else e) }

/-- OBJ_ID counts from 0 for every pipeline whose objects the graph emits (R166). -/
def withObjects (c : State) (g : Nat) : State :=
  (engineDescs c g).foldl (fun (c : State) d =>
    if engType d = 6 then { c with objNext := tabSet (fieldAt d 11 1) 0 c.objNext } else c) c

/-- Steps 3 to 5 of R205 and the loading. DEDUCED: log entry 50. -/
def admitGraph (s c : State) (a : LoadArgs) : State × CmdRes :=
  match tabGet? c.graphs a.g with
  | none => refuse s .state
  | some x =>
    let ch := graphCharge c a.g
    let res := resourceList c a.g a.p x ch
    let rep := res.flatMap (·.2)
    if resourcesFail c a.g res then (s, .done .nofit (loadHead 0xFFFF 0 17 0 0 ++ rep))
    else match waitCycle c a.g with
      | some cyc => (s, .done .cycle (loadHead 0xFFFF 0 17 0 cyc.length ++ rep ++ cyc.flatMap (leBytes 4)))
      | none =>
        let sched := scheduleAll c a.g x
        let mask := seasonMask x sched (tokenShort res)
        let tail := rep ++ schedBytes sched
        if ! bitAt mask (seasonIdx s.power.season) then (s, .done .norate (loadHead 0xFFFF mask 17 4 0 ++ tail))
        else
          let c := withObjects (withSchedule c a.g) a.g
          okWith (setGraph c a.g { x with mask := mask, charge := ch }) (loadHead a.p.node mask 17 4 0 ++ tail)

/-- GRAPH_LOAD. DEDUCED: log entry 55. -/
def cmdGraphLoad (h : CmdHdr) (pay : List Byte) (s : State) : State × CmdRes :=
  match payloadBad s pay with
  | some b => (s, loadRefused b)
  | none =>
    let r1 := readStruct s 13 0 h.domain (fieldAt pay 8 8) (fieldAt pay 16 4)
    let s1 := r1.1
    let img := r1.2.2
    if r1.2.1 ≠ .ok then (s1, loadRefused { st := r1.2.1, off := 8, obj := 0xFFFF, okind := 0 })
    else match imageBad img with
      | some b => (s1, loadRefused b)
      | none =>
        let r2 := if payFlows pay = 0 then (s1, Status.ok, []) else
          readStruct s1 13 0 h.domain (fieldAt pay 24 8) (96 * payFlows pay)
        let s2 := r2.1
        if r2.2.1 ≠ .ok then (s2, loadRefused { st := r2.2.1, off := 24, obj := 0xFFFF, okind := 0 })
        else
          let a : LoadArgs := { g := fieldAt pay 0 1, dom := h.domain, pay := pay, img := img, p := placesFor s2 img }
          match loadCandidate s2 a r2.2.2 with
          | .inl (s', b) => (s', loadRefused b)
          | .inr c => admitGraph (undoLoad s2 c) c a

/-- GRAPH_LOAD (R190, R194, R205, R206, R207, R211, R496). -/
def execGraphLoad (h : CmdHdr) (payload : List Byte) (s : State) : Host.Outcome State Fault Refusal :=
  .next (runCommand h 0x0300 (cmdGraphLoad h payload) s)

/-! ### GRAPH_PARAM_SET (R217) -/

/-- A value as an integer of an editable field. -/
def editValue (e : List Byte) (v : Nat) : Int := if fieldAt e 6 1 = 1 then signedOf 64 v else (v : Int)

/-- A value lies within the field's range and size. DEDUCED: log entry 60. -/
def editFits (e : List Byte) (v : Nat) : Bool :=
  let x := editValue e v
  let (lo, hi) := editBounds e
  let bits := 8 * fieldAt e 1 1
  decide (lo ≤ x) && decide (x ≤ hi) &&
  (if fieldAt e 6 1 = 1 then decide (-(2 : Int) ^ (bits - 1) ≤ x) && decide (x < (2 : Int) ^ (bits - 1))
    else decide (x < (2 : Int) ^ bits))

/-- GRAPH_PARAM_SET. DEDUCED: log entry 60. -/
def cmdGraphParamSet (graph r entry r2 value : Nat) (s : State) : State × CmdRes :=
  match graphCheck s graph (if r ≠ 0 then r else r2) (if r ≠ 0 then 1 else 4) (fun g => g.st == .loaded || g.st == .held)
      isChanging with
  | some x => x
  | none => match tabGet? s.graphs graph with
    | none => refuse s .state
    | some g => match g.edits[entry]? with
      | none => refuseAt s .badParam 2
      | some e =>
        let idx := fieldAt e 2 2
        if ! editFits e value then refuseAt s .badParam 8
        else if fieldAt e 0 1 = 1 then okDone (withEdit s g.base e value)
        else match tabGet? s.nodes (g.base + idx) with
          | none => refuseAt s .badParam 2
          | some x =>
            let c := withEdit s g.base e value
            match descBad c (g.base + idx) x (nodeDesc c (g.base + idx)) with
            | some b => (s, .done b.st (badBytes b))
            | none => okDone c

/-- GRAPH_PARAM_SET (R217). -/
def execGraphParamSet (h : CmdHdr) (graph r entry r2 value : Nat) (s : State) : Host.Outcome State Fault Refusal :=
  .next (runCommand h 0x0306 (cmdGraphParamSet graph r entry r2 value) s)

end Sys2Proof.Machine
end

