-- ==== Sys2Proof/Machine/Watch.lean ====
section
/-! DEFINITION. Tensor watches (R481 to R485): WATCH_SET, WATCH_CLEAR, WATCH_ARM, and the read of a watched tensor. -/

namespace Sys2Proof.Machine

open Sys2Proof

/-! ### The definition (table *Watch definition*) -/

/-- The tensor descriptor of a definition in its graph. -/
def watchTensor (g : Graph) (d : List Byte) : TDesc := tdesc ((g.tensors[fieldAt d 4 2]?).getD [])

/-- Bytes of a tensor's elements in the form of R483. -/
def denseSize (t : TDesc) : Nat := elemCount t * elemBytes t.etype

/-- The checks of a definition against its graph (R481). DEDUCED: log entry 68. -/
def watchBad (s : State) (g : Graph) (d : List Byte) : Option Bad :=
  let node := fieldAt d 2 2
  let kind := (tabGet? s.nodes (g.base + node)).elim 0 (fun x => x.kind)
  let t := watchTensor g d
  let len := fieldAt d 40 4
  let off := fieldAt d 44 4
  let dump := fieldAt d 48 4
  fieldsBad []
    [(decide (fieldAt d 0 1 ≤ 63), 0), (decide (node < g.nodes) && (kind == 2 || kind == 3), 2),
     (decide (fieldAt d 4 2 < g.tensors.length) && t.space != 2 && decide (elemCount t < 2 ^ 32) && (t.space != 0 || kind == 2), 4),
     (fieldAt d 6 2 != 0, 6), (decide (fieldAt d 9 1 ≤ 3), 9), (decide (fieldAt d 10 1 ≤ 1), 10), (decide (fieldAt d 11 1 ≤ 7), 11),
     (decide (fieldAt d 12 1 ≤ 47), 12), (fieldAt d 32 8 % 64 == 0, 32),
     (decide (16 ≤ len) && decide (len ≤ 65536) && len == 2 ^ Nat.log2 len, 40), (off % 65536 == 0, 44), (dump % 65536 == 0, 48),
     (! bitAt (fieldAt d 8 1) 2 || (decide (denseSize t ≤ dump) && decide (off + dump ≤ traceSize)), 48)] 0xFFFF 0

/-- The reserved fields of a definition. -/
def watchReserved (d : List Byte) : Option Bad :=
  fieldsBad [(decide (fieldAt d 8 1 < 8), 8), (zeroAt d 13 3, 13), (zeroAt d 52 12, 52)] [] 0xFFFF 0

/-- A watch as its definition sets it; with TRIG set it is armed (R485). -/
def watchOf (d : List Byte) (g : Nat) (gr : Graph) (dom : Nat) : Watch :=
  { def_ := d, graph := g, node := gr.base + fieldAt d 2 2, dom := dom, q := 0, armed := bitAt (fieldAt d 8 1) 0,
    pending := [] }

/-- The mask bits that a schedule leaves, of those that a graph had. -/
def maskKept (old passed keep : Nat) : Nat :=
  ((List.range 4).map (fun k => if bitAt old k && (bitAt passed k || bitAt keep k) then 2 ^ k else 0)).sum

/-- Step 5 of R205 again with the watch (R481): other seasons that fail leave the graph's mask, whether or not the watch is
set. DEDUCED: log entry 68. -/
def admitWatch (s : State) (w : Nat) (x : Watch) (gr : Graph) : State × CmdRes :=
  let c := { s with watches := tabSet w x s.watches }
  let sched := scheduleAll c x.graph gr
  let passed := seasonMask gr sched (fun _ => false)
  let now := seasonIdx s.power.season
  let mask := maskKept gr.mask passed (2 ^ now)
  if bitAt passed now then okDone (setGraph c x.graph { gr with mask := mask })
  else (setGraph s x.graph { gr with mask := mask }, .done .norate (schedBytes sched))

/-- WATCH_SET. DEDUCED: log entry 68. -/
def cmdWatchSet (h : CmdHdr) (d : List Byte) (s : State) : State × CmdRes :=
  let w := fieldAt d 0 1
  let g := fieldAt d 1 1
  let ring := fieldAt d 32 8
  let without := { s with watches := tabErase w s.watches }
  if g ≤ 15 ∧ (tabGet? s.graphs g).elim false (fun x => x.st == .loaded) = false then refuse s .state
  else match watchReserved d, tabGet? s.graphs g with
    | some b, _ => (s, .done b.st (badBytes b))
    | none, none => refuseAt s .badParam 1
    | none, some gr => match watchBad s gr d with
      | some b => (s, .done b.st (badBytes b))
      | none =>
        let x := watchOf d g gr h.domain
        if mapTarget s ring (192 * fieldAt d 40 4) ≠ some 0 then refuseAt s .range 32
        else if (dumpArea x).elim false (fun a => meetsChannel s a.1 a.2 || meetsDump s w a.1 a.2) then refuse s .busy
        else if 224 < sharesUsed without 16 + 1 ∨ (ddrFit without (fun _ => watchDdr s x)).1 = true then refuse s .nofit
        else admitWatch s w x gr

/-- WATCH_SET (R481, R484). -/
def execWatchSet (h : CmdHdr) (watch : List Byte) (s : State) : Host.Outcome State Fault Refusal :=
  .next (runCommand h 0x0707 (cmdWatchSet h watch) s)

/-- The first checks of a command that names a watch: one that is not set, or whose graph's state does not allow the command,
is refused with STATE. -/
def watchRefusal (s : State) (w r : Nat) (allowed : Watch → Bool) : Option (State × CmdRes) :=
  if w ≤ 63 ∧ (tabGet? s.watches w).elim false allowed = false then some (refuse s .state)
  else if r ≠ 0 then some (refuseAt s .badField 1)
  else if 63 < w then some (refuseAt s .badParam 0)
  else none

/-- WATCH_CLEAR, only while the graph is LOADED. -/
def cmdWatchClear (w r : Nat) (s : State) : State × CmdRes :=
  match watchRefusal s w r (fun x => (tabGet? s.graphs x.graph).elim false (fun g => g.st == .loaded)) with
  | some x => x
  | none => okDone { s with watches := tabErase w s.watches }

/-- WATCH_CLEAR (R481). -/
def execWatchClear (h : CmdHdr) (watch r : Nat) (s : State) : Host.Outcome State Fault Refusal :=
  .next (runCommand h 0x0708 (cmdWatchClear watch r) s)

/-- WATCH_ARM, in any state of the graph: a watch with TRIG is armed. DEDUCED: log entry 68. -/
def cmdWatchArm (w r : Nat) (s : State) : State × CmdRes :=
  match watchRefusal s w r (fun _ => true) with
  | some x => x
  | none => okDone { s with watches := tabModify w (fun x => { x with armed := bitAt (fieldAt x.def_ 8 1) 0 }) s.watches }

/-- WATCH_ARM (R485, R493). -/
def execWatchArm (h : CmdHdr) (watch r : Nat) (s : State) : Host.Outcome State Fault Refusal :=
  .next (runCommand h 0x0709 (cmdWatchArm watch r) s)

/-! ### The read (R482, R483) -/

/-- An element as the watch reads it: its code, the ZP of its scale record, and the granules that hold it. -/
structure WElem where
  v : Int
  zp : Int
  grans : List Nat
deriving DecidableEq, Repr

/-- The granules that a read of the tensor needs: its elements' and its scale records'. -/
def watchGrans (t : TDesc) (core : Nat) : List Nat :=
  let idx := boxIndices ((List.range t.ndim).map (fun k => nth t.size k))
  (idx.flatMap (fun i => gransOf (elemLocal t core i).1 (elemBytes t.etype) ++
    (if t.scale = 0 then [] else gransOf (spaceBase t core + t.scale + 8 * chanIndex t i) 8))).eraseDups

/-- The granules that the firewalls refuse to the watch's domain, with their events (R18). DEDUCED: log entry 68. -/
def watchAccess (s : State) (dom : Nat) (gs : List Nat) : State × List Nat :=
  gs.foldl (fun (p : State × List Nat) g =>
    let (s, st) := access p.1 dom false (g * 64) 64
    (s, if st = .ok then p.2 else p.2 ++ [g])) (s, [])

/-- The elements in index order from a byte memory, dimension 0 innermost. -/
def watchElems (m : List Host.Cell) (t : TDesc) (core : Nat) : List WElem :=
  (boxIndices ((List.range t.ndim).map (fun k => nth t.size k))).map (fun i =>
    let (a, nib) := elemLocal t core i
    { v := elemLoad m t.etype a nib,
      zp := if t.scale = 0 then 0 else (recFields (memRead m (spaceBase t core + t.scale + 8 * chanIndex t i) 8) []).zp,
      grans := gransOf a (elemBytes t.etype) })

/-- The bytes of an element in its storage width; S4 takes one byte, sign-extended (R483). -/
def denseBytes (etype : Nat) (v : Int) : List Byte := leBytes (elemBytes etype) (unsignedOf (8 * elemBytes etype) v)

/-- The digest of R483. -/
def fnvDigest (bs : List Byte) : Nat :=
  bs.foldl (fun d b => ((d ^^^ b.toNat) * 0x100000001b3) % 2 ^ 64) 0xcbf29ce484222325

/-- The histogram bin of a code (R482). -/
def histBin (base : Int) (shift : Nat) (v : Int) : Nat := (clampInt ((v - base) / (2 : Int) ^ shift) 0 15).toNat

/-- The statistics that a watch can trigger on: MIN, MAX, ZEROS, SATS. -/
structure WStats where
  min : Int
  max : Int
  zeros : Nat
  sats : Nat
deriving DecidableEq, Repr

/-- The statistics of a read. -/
def statsOf (etype : Nat) (es : List WElem) : WStats :=
  let v0 := (es.head?.map (fun e => e.v)).getD 0
  { min := es.foldl (fun m e => min m e.v) v0, max := es.foldl (fun m e => max m e.v) v0,
    zeros := (es.filter (fun e => e.v == e.zp)).length,
    sats := (es.filter (fun e => e.v == elemMin etype || e.v == elemMax etype)).length }

/-- The statistic that STAT names. -/
def statValue (x : WStats) (stat : Nat) : Int :=
  match stat with
  | 0 => x.min
  | 1 => x.max
  | 2 => (x.zeros : Int)
  | _ => (x.sats : Int)

/-- The trigger condition of a definition. -/
def watchFires (d : List Byte) (x : WStats) : Bool :=
  let v := statValue x (fieldAt d 9 1)
  if fieldAt d 10 1 = 0 then decide (sfieldAt d 16 8 < v) else decide (v < sfieldAt d 16 8)

/-- The result record (table *Watch result*). -/
def watchResult (t f node w flags etype : Nat) (d : List Byte) (x : WStats) (es : List WElem) : List Byte :=
  let vs := es.map (fun e => e.v)
  let bins := vs.map (histBin (sfieldAt d 24 8) (fieldAt d 12 1))
  let body := leBytes 8 t ++ leBytes 4 f ++ leBytes 2 node ++ leBytes 1 w ++ leBytes 1 flags ++
    leBytes 8 (unsignedOf 64 x.min) ++ leBytes 8 (unsignedOf 64 x.max) ++ leBytes 16 (unsignedOf 128 vs.sum) ++
    leBytes 16 (unsignedOf 128 (vs.map (fun v => v * v)).sum) ++ leBytes 4 es.length ++ leBytes 4 x.zeros ++ leBytes 4 x.sats ++
    leBytes 4 0 ++ leBytes 8 (fnvDigest (vs.flatMap (denseBytes etype))) ++
    (List.range 16).flatMap (fun b => leBytes 4 (bins.filter (· == b)).length) ++ List.replicate 36 0
  body ++ leBytes 4 (crc32c body)

/-- The dump of a read: the elements densely, each granule poisoned by the granules that its elements came from.
DEDUCED: log entry 68. -/
def dumpElems (s : State) (off etype : Nat) (es : List WElem) (bad : List Nat) : State :=
  let k := elemBytes etype
  let at_ := fun (i : Nat) => traceBase + off + k * i
  let idx := (List.range es.length).zip es
  let cells := idx.flatMap (fun e => ((List.range k).zip (denseBytes etype e.2.v)).map (fun b => (at_ e.1 + b.1, b.2)))
  let poisoned := idx.flatMap (fun e => if e.2.grans.any bad.contains then gransOf (at_ e.1) k else [])
  storeCells s cells poisoned.eraseDups

/-- What a trigger does (R485): WATCH_TRIGGER, the DUMP record with the bytes dumped and f, the trace trigger of cause 2, and
the watch is disarmed. DEDUCED: log entry 67. -/
def fireWatch (s : State) (w : Nat) (x : Watch) (f dumped : Nat) (v : Int) : State :=
  let flags := fieldAt x.def_ 8 1
  let tch := fieldAt x.def_ 11 1
  let s := { s with watches := tabModify w (fun y => { y with armed := false }) s.watches }
  let s := postEvent s 0x0702 12 0 (leBytes 1 w ++ [0] ++ leBytes 2 x.node ++ leBytes 4 f ++ leBytes 8 (unsignedOf 64 v))
  let s := if bitAt flags 2 then offerRecord s tch (ownRecord s 10 w [(satTo 32 dumped, f, 0, 0, 0)]) else s
  if bitAt flags 1 then fireTrigger s tch 2 else s

/-- WATCH_READ: the watch reads the tensor of the oldest selected run, writes the dump and the result, and the run's
completion signal is free. DEDUCED: log entry 68. -/
def readWatch (s : State) (w : Nat) (x : Watch) (g : Graph) (node f : Nat) : State :=
  let t := watchTensor g x.def_
  let core := (tabGet? s.nodes node).elim 0 (fun n => n.unit)
  let flags := fieldAt x.def_ 8 1
  let gs := watchGrans t core
  let (s, refused) := watchAccess s x.dom gs
  let s := meet (fun k => gs.contains k && ! refused.contains k) s
  let fails := gs.filter (fun k => ! refused.contains k && failingGran s k)
  let bad := gs.filter (fun k => refused.contains k || ! goodGran s k)
  let s := travelMismatch s 12 0 fails.length 0xFF (fails.headD 0 * 64)
  let mem := refused.foldl (fun m k => memWrite m (k * 64) (List.replicate 64 0)) s.mem
  let es := watchElems mem t core
  let st := statsOf t.etype es
  let fires := x.armed && watchFires x.def_ st
  let dumps := x.armed && bitAt flags 2
  let s := if dumps then dumpElems s (fieldAt x.def_ 44 4) t.etype es bad else s
  let wflags := bit01 fires + 2 * bit01 (! bad.isEmpty) + 4 * bit01 (fires && dumps)
  let res := watchResult s.time f (node - g.base) w wflags t.etype x.def_ st es
  let s := (writeLocal s x.dom (fieldAt x.def_ 32 8 + x.q % max 1 (fieldAt x.def_ 40 4) * 192) res false).1
  let s := { s with watches := tabModify w (fun y => { y with q := y.q + 1, pending := y.pending.drop 1 }) s.watches }
  let s := offerAll s (ownRecord s 9 (w + f % 65536 * 65536) [])
  if fires then fireWatch s w x f (denseSize t) (statValue st (fieldAt x.def_ 9 1)) else s

/-- WATCH_READ of a watch with a selected run that has finished on its unit. -/
def doWatchRead (watch : Nat) (s : State) : State :=
  match tabGet? s.watches watch with
  | none => s
  | some x => match x.pending, tabGet? s.graphs x.graph with
    | (n, f) :: _, some g => if islandRuns s 1 then readWatch s watch x g n f else s
    | _, _ => s

/-- WATCH_READ (R482 to R485). -/
def execWatchRead (watch : Nat) (ecc : List EccHit) (s : State) : Host.Outcome State Fault Refusal :=
  .next (doWatchRead watch (plant ecc s))

end Sys2Proof.Machine
end

