-- ==== Sys2Proof/Machine/Debug.lean ====
section
/-! DEFINITION. The test access port and the debug access port (R51, R486, R487). -/

namespace Sys2Proof.Machine

open Sys2Proof

/-! ### Instructions of the test access port (R486) -/

/-- The codes that R486 lists, BYPASS apart. -/
def tapCodes : List Nat := [0x01, 0x02, 0x03, 0x04, 0x05, 0x06, 0x20]

/-- An instruction is in force: whether the boundary cells drive the pins, and whether the pins are in high impedance (R51).
DESIGN CHOICE: log entry 5. -/
def loadTap (s : State) (code : Nat) (driving highz : Bool) : State :=
  { s with tap := { s.tap with ir := BitVec.ofNat 8 code, driving := driving, highz := highz } }

/-- TAP_RESET: IDCODE is selected, and nothing is driven from the scan cells (R51, R486). -/
def doTapReset (s : State) : State := loadTap s 0x01 false false

/-- TAP_RESET (R51). -/
def execTapReset (s : State) : Host.Outcome State Fault Refusal := .next (doTapReset s)

/-- IDCODE: the identification register, whose value is `idcodeValue`, is selected. -/
def doIdcode (s : State) : State := loadTap s 0x01 false false

/-- IDCODE (R486). -/
def execIdcode (s : State) : Host.Outcome State Fault Refusal := .next (doIdcode s)

/-- SAMPLE: the pins are captured into the boundary register. DESIGN CHOICE: log entry 5. DEDUCED: log entry 69. -/
def doSample (pins : List Bool) (s : State) : State :=
  let s := loadTap s 0x02 false false
  { s with tap := { s.tap with cells := pins } }

/-- SAMPLE (R486). -/
def execSample (pins : List Bool) (s : State) : Host.Outcome State Fault Refusal := .next (doSample pins s)

/-- PRELOAD: the boundary register is loaded, and no pin is driven from it.
DESIGN CHOICE: log entry 5. DEDUCED: log entry 69. -/
def doPreload (cells : List Bool) (s : State) : State :=
  let s := loadTap s 0x03 false false
  { s with tap := { s.tap with cells := cells } }

/-- PRELOAD (R486). -/
def execPreload (cells : List Bool) (s : State) : Host.Outcome State Fault Refusal := .next (doPreload cells s)

/-- EXTEST: the pins follow their scan cells, in reset as well (R51). DESIGN CHOICE: log entry 5. -/
def doExtest (s : State) : State := loadTap s 0x04 true false

/-- EXTEST (R51, R486). -/
def execExtest (s : State) : Host.Outcome State Fault Refusal := .next (doExtest s)

/-- CLAMP: the pins follow their scan cells, with the bypass register selected. -/
def doClamp (s : State) : State := loadTap s 0x05 true false

/-- CLAMP (R51, R486). -/
def execClamp (s : State) : Host.Outcome State Fault Refusal := .next (doClamp s)

/-- HIGHZ: the boundary pins are in high impedance. -/
def doHighz (s : State) : State := loadTap s 0x06 false true

/-- HIGHZ (R486). -/
def execHighz (s : State) : Host.Outcome State Fault Refusal := .next (doHighz s)

/-- BYPASS, by any code that names no other instruction. DEDUCED: log entry 69. -/
def doBypass (code : Nat) (s : State) : State :=
  if tapCodes.contains (code % 256) then s else loadTap s (code % 256) false false

/-- BYPASS (R486). -/
def execBypass (code : Nat) (s : State) : Host.Outcome State Fault Refusal := .next (doBypass code s)

/-! ### The debug access port (R487) -/

/-- DEBUG_ENABLE. -/
def cmdDebugEnable (domain r : Nat) (s : State) : State × CmdRes :=
  if r ≠ 0 then refuseAt s .badField 1
  else if domain < 2 ∨ 15 < domain then refuseAt s .badParam 0
  else okDone { s with tap := { s.tap with dbgDomain := some domain } }

/-- DEBUG_ENABLE (R487). -/
def execDebugEnable (h : CmdHdr) (domain r : Nat) (s : State) : Host.Outcome State Fault Refusal :=
  .next (runCommand h 0x0905 (cmdDebugEnable domain r) s)

/-- DEBUG_DISABLE. DEDUCED: log entry 69. -/
def cmdDebugDisable (s : State) : State × CmdRes := okDone { s with tap := { s.tap with dbgDomain := none } }

/-- DEBUG_DISABLE (R487). -/
def execDebugDisable (h : CmdHdr) (s : State) : Host.Outcome State Fault Refusal :=
  .next (runCommand h 0x0906 cmdDebugDisable s)

/-- The domain in which an access is served: DEBUG_ENABLE is in force, outside reset and after the boot ROM. -/
def debugDomain (s : State) : Option Nat := if s.boot.fwReady && ! s.rst.tripped then s.tap.dbgDomain else none

/-- DATA of an access that returned none: the manual does not state it. DESIGN CHOICE: log entry 69. -/
def debugNoData (s : State) : Nat := Config.freeNat s.freeCnt 0 % 2 ^ 64

/-- The access that the register holds: its state, status and data. A refused read returns zeros (R18). -/
def debugAccess (s : State) (dr : Nat) : State × Status × Nat :=
  let a := 8 * bitsAt dr 3 45
  let c := { s with freeCnt := s.freeCnt + 1 }
  match debugDomain s with
  | none => if bitAt dr 0 then (c, .denied, debugNoData s) else (s, .denied, 0)
  | some d =>
    if bitAt dr 0 then
      let (t, st) := writeLocal c d a (leBytes 8 (dr / 2 ^ 64)) false
      (t, st, debugNoData s)
    else
      let (t, st, bs) := readLocal c d a 8
      (t, st, if bs.isEmpty then debugNoData s else leNat bs)

/-- DBG_ACCESS: Update-DR issues an access, unless the one before is still in progress; STATUS is NOT_READY until it ends.
DEDUCED: log entry 69. -/
def doDbgAccess (dr : Nat) (s : State) : State :=
  let s := loadTap s 0x20 false false
  if s.tap.dbgBusy then s
  else
    let (s, st, v) := debugAccess s dr
    { s with tap := { s.tap with dbgBusy := true, dbgStatus := .notReady, dbgPendData := BitVec.ofNat 64 v, dbgPendStatus := st } }

/-- DBG_ACCESS (R487). -/
def execDbgAccess (dr : Nat) (ecc : List EccHit) (s : State) : Host.Outcome State Fault Refusal :=
  .next (doDbgAccess dr (plant ecc s))

/-- DBG_ACCESS_DONE: the access ends, and its status and data can be captured. DEDUCED: log entry 69. -/
def doDbgAccessDone (s : State) : State :=
  if s.tap.dbgBusy then
    { s with tap := { s.tap with dbgBusy := false, dbgStatus := s.tap.dbgPendStatus, dbgData := s.tap.dbgPendData } }
  else s

/-- DBG_ACCESS_DONE (R487). -/
def execDbgAccessDone (s : State) : Host.Outcome State Fault Refusal := .next (doDbgAccessDone s)

/-- The register that DBG_ACCESS captures (table *DBG_ACCESS register*). -/
def debugRegister (s : State) : Nat := s.tap.dbgData.toNat * 2 ^ 64 + statusCode s.tap.dbgStatus * 2 ^ 48

end Sys2Proof.Machine
end

