-- ==== Sys2Proof/Machine/Commands.lean ====
section
/-! DEFINITION. The execution of mailbox records (R71, R73, R74, R488, R492): stage 2 of a record and the commands by opcode. -/

namespace Sys2Proof.Machine

open Sys2Proof

/-- The length that a fixed layout gives its payload (table *Mailbox commands*); for a layout with a variable part the fixed
part's length, with false; none for an opcode that is not listed. -/
def payLayout (opcode : Nat) : Option (Nat × Bool) :=
  match opcode with
  | 0x0000 | 0x0001 => some (0, true)
  | 0x0100 => some (12, true)
  | 0x0101 => some (8, true)
  | 0x0102 | 0x0103 => some (16, true)
  | 0x0104 | 0x0105 | 0x0106 => some (4, true)
  | 0x0107 | 0x0108 => some (16, true)
  | 0x0109 => some (16, true)
  | 0x010A => some (24, true)
  | 0x010B | 0x010C | 0x010D | 0x010E => some (4, true)
  | 0x0200 => some (132, true)
  | 0x0201 => some (152, true)
  | 0x0300 => some (0, false)
  | 0x0302 => some (8, false)
  | 0x0301 | 0x0303 | 0x0304 | 0x0305 | 0x0307 => some (4, true)
  | 0x0306 => some (16, true)
  | 0x0400 => some (8, true)
  | 0x0401 | 0x0402 | 0x0403 => some (4, true)
  | 0x0404 => some (24, true)
  | 0x0405 => some (20, true)
  | 0x0406 => some (68, true)
  | 0x0500 => some (32, true)
  | 0x0501 | 0x0502 => some (0, true)
  | 0x0503 => some (4, true)
  | 0x0504 => some (12, true)
  | 0x0505 => some (4, true)
  | 0x0600 | 0x0601 | 0x0603 | 0x0604 | 0x0605 => some (4, true)
  | 0x0602 => some (0, true)
  | 0x0700 | 0x0701 | 0x0703 | 0x0704 | 0x0708 | 0x0709 => some (4, true)
  | 0x0702 => some (0, true)
  | 0x0705 | 0x0706 => some (8, true)
  | 0x0707 => some (64, true)
  | 0x0800 | 0x0801 | 0x0804 | 0x0807 | 0x0808 | 0x080A | 0x080B | 0x080D => some (4, true)
  | 0x0802 | 0x080E => some (0, true)
  | 0x0803 | 0x080C => some (4, false)
  | 0x0805 | 0x080F => some (8, true)
  | 0x0806 => some (20, true)
  | 0x0809 => some (24, true)
  | 0x0810 => some (20, true)
  | 0x0900 | 0x0901 | 0x0903 | 0x0905 => some (4, true)
  | 0x0902 => some (68, true)
  | 0x0904 | 0x0906 => some (0, true)
  | _ => none

/-- A payload has the length of its layout, as far as the layout alone gives it. -/
def payFits (l : Nat × Bool) (n : Nat) : Bool := if l.2 then n == l.1 else decide (l.1 ≤ n)

/-- Commands of groups 0x00 to 0x02 (table *Mailbox commands*). -/
def runGroups02 (opcode : Nat) (h : CmdHdr) (p : List Byte) : State → State × CmdRes :=
  let b := fieldAt p
  match opcode with
  | 0x0000 => okDone
  | 0x0001 => cmdDeviceInfo
  | 0x0100 => cmdChannelTableSet (b 0 8) (b 8 4)
  | 0x0101 => cmdChannelInvalidate (b 0 4) (b 4 4)
  | 0x0102 => cmdBulkWrite h (b 0 8) (b 8 8)
  | 0x0103 => cmdBulkRead h (b 0 8) (b 8 8)
  | 0x0104 => cmdDmaStart h (b 0 2) (b 2 2)
  | 0x0105 => cmdDmaStop (b 0 2) (b 2 2)
  | 0x0106 => cmdDmaKick (b 0 2) (b 2 2)
  | 0x0107 => cmdStreamRearm h (b 0 2) (b 2 2) (b 4 4) (b 8 8)
  | 0x0108 => cmdWcacheInvalidate (b 0 8) (b 8 8)
  | 0x0109 => cmdDdrInit p
  | 0x010A => cmdFirewallSet (b 0 2) (b 2 1) (b 3 1) (b 4 8) (b 12 8) (b 20 2) (b 22 2)
  | 0x010B => cmdFirewallGet (b 0 2) (b 2 1) (b 3 1)
  | 0x010C => cmdEgressStart h (b 0 2) (b 2 2)
  | 0x010D => cmdEgressStop (b 0 1) (b 1 3)
  | 0x010E => cmdEgressUrunClear (b 0 1) (b 1 3)
  | 0x0200 => cmdTensorCheck h (b 0 1) (b 1 1) (b 2 2) (bytesAt p 4 128)
  | 0x0201 => cmdTensorLocate h ((List.range 6).map (fun d => b (4 * d) 4)) (bytesAt p 24 128)
  | _ => fun s => refuse s .badOpcode

/-- Commands of groups 0x03 and 0x04. -/
def runGroups34 (opcode : Nat) (h : CmdHdr) (p : List Byte) : State → State × CmdRes :=
  let b := fieldAt p
  match opcode with
  | 0x0300 => cmdGraphLoad h p
  | 0x0301 => cmdGraphUnload (b 0 1) (b 1 3)
  | 0x0302 => cmdGraphStart (b 0 1) (b 1 1) (b 2 2) (b 4 4) ((List.range ((p.length - 8) / 4)).map (fun i => b (8 + 4 * i) 4))
  | 0x0303 => cmdGraphHold (b 0 1) (b 1 3)
  | 0x0304 => cmdGraphResume (b 0 1) (b 1 3)
  | 0x0305 => cmdGraphStop (b 0 1) (b 1 3)
  | 0x0306 => cmdGraphParamSet (b 0 1) (b 1 1) (b 2 2) (b 4 4) (b 8 8)
  | 0x0307 => cmdGraphStatus (b 0 1) (b 1 3)
  | 0x0400 => cmdCsiPortConfig (b 0 1) (b 1 1) (b 2 1) (b 3 1) (b 4 1) (b 5 3)
  | 0x0401 => cmdCameraStart h (b 0 2) (b 2 2)
  | 0x0402 => cmdCameraStop (b 0 1) (b 1 1) (b 2 2)
  | 0x0403 => cmdCameraStatus (b 0 1) (b 1 1) (b 2 2)
  | 0x0404 => cmdTriggerSet (b 0 1) (b 1 1) (b 2 1) (b 3 1) (b 4 4) (b 8 8) (b 16 4) (b 20 4)
  | 0x0405 => cmdSensorCommit h (b 0 1) (b 1 1) (b 2 2) (b 4 8) (b 12 8)
  | 0x0406 => cmdI3cTransfer (b 0 1) (b 1 1) (b 2 1) (b 3 1) (bytesAt p 4 64)
  | _ => fun s => refuse s .badOpcode

/-- Commands of groups 0x05 to 0x07. -/
def runGroups57 (opcode : Nat) (h : CmdHdr) (p : List Byte) : State → State × CmdRes :=
  let b := fieldAt p
  match opcode with
  | 0x0500 => cmdSafetyArm (padTo 32 p)
  | 0x0501 => cmdSafetyDisarm
  | 0x0502 => cmdSafetyStatus
  | 0x0503 => cmdSafetyClear (b 0 1) (b 1 1) (b 2 2)
  | 0x0504 => cmdFbcLoad h (b 0 1) (b 1 3) (b 4 8)
  | 0x0505 => cmdFbcRead (b 0 1) (b 1 3)
  | 0x0600 => cmdSeasonSet (b 0 1) (b 1 3)
  | 0x0601 => cmdPowerCapSet (b 0 2) (b 2 2)
  | 0x0602 => cmdPowerStatus
  | 0x0603 => cmdThermalSet (b 0 1) (b 1 3)
  | 0x0604 => cmdIslandStop (b 0 1) (b 1 3)
  | 0x0605 => cmdIslandStart (b 0 1) (b 1 3)
  | 0x0700 => cmdTraceStart h (b 0 2) (b 2 2)
  | 0x0701 => cmdTraceStop (b 0 1) (b 1 3)
  | 0x0702 => cmdTraceStatus
  | 0x0703 => cmdTraceTrigger (b 0 1) (b 1 3)
  | 0x0704 => cmdTraceMark (b 0 4)
  | 0x0705 => cmdCounterRead (b 0 1) (b 1 1) (b 2 2) (b 4 2) (b 6 2)
  | 0x0706 => cmdCounterClear (b 0 1) (b 1 1) (b 2 2) (b 4 2) (b 6 2)
  | 0x0707 => cmdWatchSet h p
  | 0x0708 => cmdWatchClear (b 0 1) (b 1 3)
  | 0x0709 => cmdWatchArm (b 0 1) (b 1 3)
  | _ => fun s => refuse s .badOpcode

/-- Commands of groups 0x08 and 0x09. -/
def runGroups89 (opcode : Nat) (h : CmdHdr) (p : List Byte) : State → State × CmdRes :=
  let b := fieldAt p
  match opcode with
  | 0x0800 => cmdLinkStart h (b 0 2) (b 2 2)
  | 0x0801 => cmdLinkStop (b 0 1) (b 1 3)
  | 0x0802 => cmdLinkStatus
  | 0x0803 => cmdLinkRouteSet (b 0 2) (b 2 2) (p.drop 4)
  | 0x0804 => cmdLinkAbort (b 0 2) (b 2 2)
  | 0x0805 => cmdLinkReserve (b 0 1) (b 1 1) (b 2 2) (b 4 4)
  | 0x0806 => cmdLinkWindowSet (b 0 1) (b 1 3) (b 4 8) (b 12 8)
  | 0x0807 => changeWindow openWindow (b 0 1) (b 1 3)
  | 0x0808 => changeWindow closeWindow (b 0 1) (b 1 3)
  | 0x0809 => cmdLinkImportSet (b 0 1) (b 1 1) (b 2 2) (b 4 2) (b 6 2) (b 8 8) (b 16 8)
  | 0x080A => cmdLinkIdSet (b 0 2) (b 2 2)
  | 0x080B => cmdLinkIdAssign (b 0 1) (b 1 1) (b 2 2)
  | 0x080C => cmdLinkMboxRelay (b 0 2) (b 2 2) (p.drop 4)
  | 0x080D => cmdLinkEventSink (b 0 2) (b 2 2)
  | 0x080E => cmdLinkTimeJoin
  | 0x080F => cmdLinkPpsSet (b 0 4) (b 4 4)
  | 0x0810 => cmdBootRelay h (b 0 1) (b 1 3) (b 4 8) (b 12 4) (b 16 4)
  | 0x0900 => cmdCoreFence (b 0 1) (b 1 3)
  | 0x0901 => cmdCoreUnfence (b 0 1) (b 1 3)
  | 0x0902 => cmdKeyProvision (b 0 1) (b 1 3) (p.drop 4)
  | 0x0903 => cmdKeyRevoke (b 0 1) (b 1 3)
  | 0x0904 => cmdSvnAdvance
  | 0x0905 => cmdDebugEnable (b 0 1) (b 1 3)
  | 0x0906 => cmdDebugDisable
  | _ => fun s => refuse s .badOpcode

/-- The command of a record: BAD_OPCODE when it is not listed, BAD_PARAM when its payload has not its layout's length
(R488). DEDUCED: log entry 12. DEDUCED: log entry 55. -/
def runRecord (r : MbRec) (s : State) : State × CmdRes :=
  match payLayout r.opcode with
  | none => refuse s .badOpcode
  | some l =>
    if ! payFits l r.payload.length then badLen s
    else if r.opcode < 0x0300 then runGroups02 r.opcode r.hdr r.payload s
    else if r.opcode < 0x0500 then runGroups34 r.opcode r.hdr r.payload s
    else if r.opcode < 0x0800 then runGroups57 r.opcode r.hdr r.payload s
    else runGroups89 r.opcode r.hdr r.payload s

/-- The record that firmware reaches next: the first that is queued, with none executing before it (R71). -/
def nextQueued : List MbEntry → Nat → Option (Nat × MbRec)
  | [], _ => none
  | .queued r :: _, i => some (i, r)
  | .exec _ _ :: _, _ => none
  | .resp _ _ :: t, i => nextQueued t (i + 1)

/-- newer(a, b) of R74. -/
def newerSeq (a b : Nat) : Bool :=
  let d := (a + 2 ^ 32 - b % 2 ^ 32) % 2 ^ 32
  decide (1 ≤ d) && decide (d ≤ 2 ^ 31 - 1)

/-- Stage 2 of a record (R74). DEDUCED: log entry 12. -/
def stage2 (s : State) (i : Nat) (r : MbRec) : State :=
  match s.mb.history.find? (fun e => e.seq == r.hdr.seq) with
  | some e =>
    if e.opcode = r.opcode ∧ e.crc = r.hdr.crc then placeResponse s i r e.resp
    else placeResponse s i r (respBytes r.opcode r.hdr .seqConflict [])
  | none =>
    if (s.mb.history.getLast?).elim false (fun e => ! newerSeq r.hdr.seq e.seq) then
      placeResponse s i r (respBytes r.opcode r.hdr .seqStale [])
    else
      let (s', res) := execChecked r.resv r.opcode r.hdr (runRecord r) s
      settleAt s' i r res

/-- MB_RECORD_EXECUTE: firmware reaches the next record in doorbell order. DEDUCED: log entry 12. -/
def doMbRecordExecute (s : State) : State :=
  if ! fwUp s then s
  else match nextQueued s.mb.order 0 with
    | none => s
    | some (i, r) => stage2 s i r

/-- MB_RECORD_EXECUTE (R71, R74, R488). -/
def execMbRecordExecute (ecc : List EccHit) (s : State) : Host.Outcome State Fault Refusal :=
  .next (doMbRecordExecute (plant ecc s))

end Sys2Proof.Machine
end

