-- ==== Sys2Proof/Machine/Sdio.lean ====
section
/-! DEFINITION. The SDIO commands (R53 to R56): function 0 as the SDIO standard defines it, and the registers and ports of
functions 1 to 3 byte by byte. -/

namespace Sys2Proof.Machine

open Sys2Proof

/-! ### Function 0 (log entry 6) -/

/-- The tuning block that CMD19 returns in 4-bit mode, from the SD standard (log entry 6). -/
def tuningBlock : List Byte :=
  [0xFF, 0x0F, 0xFF, 0x00, 0xFF, 0xCC, 0xC3, 0xCC, 0xC3, 0x3C, 0xCC, 0xFF, 0xFE, 0xFF, 0xFE, 0xEF,
   0xFF, 0xDF, 0xFF, 0xDD, 0xFF, 0xFB, 0xFF, 0xFB, 0xBF, 0xFF, 0x7F, 0xFF, 0x77, 0xF7, 0xBD, 0xEF] ++
  [0xFF, 0xF0, 0xFF, 0xF0, 0x0F, 0xFC, 0xCC, 0x3C, 0xCC, 0x33, 0xCC, 0xCF, 0xFF, 0xEF, 0xFF, 0xEE,
   0xFF, 0xFD, 0xFF, 0xFD, 0xDF, 0xFF, 0xBF, 0xFF, 0xBB, 0xFF, 0xF7, 0xFF, 0xF7, 0x7F, 0x7B, 0xDE]

/-- The manufacturer tuple of the CIS: manufacturer 0x0A7C, card 0x9640 (R53); the tuple's form is the standard's. -/
def manfidTuple : List Byte := [0x20, 0x04] ++ leBytes 2 0x0A7C ++ leBytes 2 0x9640

/-- The address of the manufacturer tuple, somewhere in the CIS area of the standard. -/
def manfidAt : Nat := 0x1000 + Config.cisManfid % 0x16FFA

/-- The address of a block size register: the low byte of function `a / 256` is at 0x10 of its FBR. -/
def isBlkReg (a k : Nat) : Bool := a % 256 == 0x10 + k && decide (a < 0x400)

/-- A byte of function 0's space. The standard interface code of functions 1 to 3 is 0, the revisions and the supported
speed modes are those of R53. PRESUMED: log entry 6. -/
def fn0Read (s : State) (a : Nat) : Byte :=
  if a = 0x00 then 0x43
  else if a = 0x01 then 0x03
  else if a = 0x02 then s.sdio.ioe
  else if a = 0x03 then s.sdio.ioe &&& (if s.boot.fwReady then 0x0E else 0x06)
  else if a = 0x04 then s.sdio.ien
  else if a = 0x05 then byteOf (bit01 (mbInt s) * 2 + bit01 (evInt s) * 8)
  else if a = 0x07 then s.sdio.busCtl
  else if a = 0x13 then s.sdio.speed ||| 0x01
  else if a = 0x14 then 0x07
  else if a = 0x100 ∨ a = 0x200 ∨ a = 0x300 then 0
  else if isBlkReg a 0 then byteOf (tabGet 0 s.sdio.blkSize (a / 256))
  else if isBlkReg a 1 then byteOf (tabGet 0 s.sdio.blkSize (a / 256) / 256)
  else if manfidAt ≤ a ∧ a < manfidAt + 6 then manfidTuple.getD (a - manfidAt) 0
  else Config.function0Byte a

/-- A write of a byte of function 0's space. PRESUMED: log entry 6. -/
def fn0Write (c : SdioCard) (a : Nat) (v : Byte) : SdioCard :=
  if a = 0x02 then { c with ioe := v &&& 0x0E }
  else if a = 0x04 then { c with ien := v &&& 0x0F }
  else if a = 0x06 then (if v.getLsbD 3 then { c with ioe := 0, ien := 0, busCtl := 0, speed := 0, blkSize := [] } else c)
  else if a = 0x07 then { c with busCtl := v }
  else if a = 0x13 then { c with speed := v &&& 0x0E }
  else if isBlkReg a 0 then
    let old := tabGet 0 c.blkSize (a / 256)
    { c with blkSize := tabSet (a / 256) (old / 256 * 256 + v.toNat) c.blkSize }
  else if isBlkReg a 1 then
    let old := tabGet 0 c.blkSize (a / 256)
    { c with blkSize := tabSet (a / 256) (old % 256 + v.toNat * 256) c.blkSize }
  else c

/-! ### Registers and ports of functions 1 to 3 (R5, R56, R75, R78) -/

/-- The value of a register of functions 1 and 3 at its address; a write-only one reads as zero (R5). -/
def regValue (s : State) (fn addr : Nat) : Option Nat :=
  if fn = 1 then
    (match addr with
     | 0x2000 => some 0
     | 0x2004 => some (mbStatus s)
     | 0x2008 => some (mbRspLen s)
     | 0x200C => some s.mb.intEn.toNat
     | 0x2010 => some (bootStatus s)
     | _ => none)
  else if fn = 3 then
    (match addr with
     | 0x1000 => some (evCount s)
     | 0x1004 => some (bit01 s.ev.intEn)
     | _ => none)
  else none

/-- A byte read at a port: the state after it, and the byte that the port gives. -/
def portByte (s : State) : State × Byte := (s, s.sdio.data.headD 0)

/-- A byte read from functions 1 to 3. The command port is write-only; a byte at which nothing stands is free (log entry 72). -/
def fnReadByte (s : State) (fn a : Nat) : State × Byte :=
  if fn = 1 ∧ a = 0x1000 then portByte (doMbRspPortRead 1 s)
  else if fn = 2 ∧ a = 0x1000 then portByte (doBulkDataRead 1 s)
  else if fn = 3 ∧ a = 0 then portByte (doEventRecordRead 1 s)
  else if fn = 1 ∧ a = 0 then (s, 0)
  else match regValue s fn (a / 4 * 4) with
    | some v => (s, (leBytes 4 v).getD (a % 4) 0)
    | none => (s, Config.functionByte fn a)

/-- A byte written to functions 1 to 3. A register takes its value with the byte at offset 3; the bytes at offsets 0 to 2 are
those last written (R56, log entry 72). -/
def fnWriteByte (s : State) (fn a : Nat) (v : Byte) : State :=
  if fn = 1 ∧ a = 0 then doMbCmdPortWrite [v] s
  else if fn = 2 ∧ a = 0 then (if fwUp s then doBulkDataWrite [v] s else doBootImageWrite [v] s)
  else if (regValue s fn (a / 4 * 4)).isNone then s
  else if a % 4 = 3 then doRegisterWrite fn (a / 4 * 4) (leNat (s.sdio.latch ++ [v])) s
  else { s with sdio := { s.sdio with latch := s.sdio.latch.set (a % 4) v } }

/-- A byte read from any function (R55). -/
def sdioReadByte (s : State) (fn a : Nat) : State × Byte :=
  if fn = 0 then (s, fn0Read s a) else if fnAnswers s fn then fnReadByte s fn a else (s, Config.functionByte fn a)

/-- A byte written to any function (R55). -/
def sdioWriteByte (s : State) (fn a : Nat) (v : Byte) : State :=
  if fn = 0 then { s with sdio := fn0Write s.sdio a v } else if fnAnswers s fn then fnWriteByte s fn a v else s

/-- `n` bytes read from one address, or from rising ones (CMD53). -/
def sdioReadRun (fn : Nat) (inc : Bool) : Nat → Nat → State → State × List Byte
  | 0, _, s => (s, [])
  | n + 1, a, s =>
    let (s, b) := sdioReadByte s fn a
    let (s, bs) := sdioReadRun fn inc n (if inc then a + 1 else a) s
    (s, b :: bs)

/-- Bytes written to one address, or to rising ones (CMD53). -/
def sdioWriteRun (fn : Nat) (inc : Bool) : List Byte → Nat → State → State
  | [], _, s => s
  | b :: bs, a, s => sdioWriteRun fn inc bs (if inc then a + 1 else a) (sdioWriteByte s fn a b)

/-- The bytes that a CMD53 moves: in block mode whole blocks of the function's size, 1 to 512 bytes for functions 1 to 3
(R53), none with another size; in byte mode a count of 0 stands for 512. PRESUMED: log entry 6. -/
def cmd53Len (c : SdioCard) (fn count : Nat) (block : Bool) : Nat :=
  if block then
    let n := tabGet 0 c.blkSize fn
    if n = 0 ∨ (fn ≠ 0 ∧ 512 < n) then 0 else count * n
  else if count = 0 then 512 else count

/-- A CMD53 write moves the bytes only when their number fits its mode. -/
def cmd53Takes (c : SdioCard) (fn : Nat) (block : Bool) (len : Nat) : Bool :=
  if block then
    let n := tabGet 0 c.blkSize fn
    decide (n ≠ 0) && (fn == 0 || decide (n ≤ 512)) && decide (len % n = 0)
  else decide (len ≤ 512)

/-- What a supported SDIO command does (R53; the standard's state machine: log entry 6). DESIGN CHOICE: log entry 8. -/
def sdioEffect (s : State) (c : SdioCmd) : State :=
  let k := s.sdio
  match c with
  | .cmd0 => { s with sdio := { k with card := .idle } }
  | .cmd5 =>
    { s with sdio := { k with resp := 2 ^ 31 + 3 * 2 ^ 28 + 2 ^ 24 + Config.freeNat 0 0 % 2 ^ 24 } }
  | .cmd3 =>
    let r := Config.freeNat s.freeCnt 3 % 65535 + 1
    { s with sdio := { k with rca := r, card := .standby, resp := r * 65536 }, freeCnt := s.freeCnt + 1 }
  | .cmd7 rca =>
    if rca = k.rca then (if k.card = .standby then { s with sdio := { k with card := .selected } } else s)
    else if k.card = .selected then { s with sdio := { k with card := .standby } } else s
  | .cmd15 rca => if rca = k.rca then { s with sdio := { k with card := .inactive } } else s
  | .cmd19 => { s with sdio := { k with data := tuningBlock } }
  | .cmd52Read fn a =>
    if k.card = .selected then
      let (s, b) := sdioReadByte s fn a
      { s with sdio := { s.sdio with resp := b.toNat } }
    else s
  | .cmd52Write fn a v =>
    if k.card = .selected then
      let s := sdioWriteByte s fn a (byteOf v)
      { s with sdio := { s.sdio with resp := v % 256 } }
    else s
  | .cmd53Read fn a n block inc =>
    if k.card = .selected then
      let (s, bs) := sdioReadRun fn inc (cmd53Len k fn n block) a s
      { s with sdio := { s.sdio with data := bs } }
    else s
  | .cmd53Write fn a block inc data =>
    if k.card = .selected && cmd53Takes k fn block data.length then sdioWriteRun fn inc data a s else s

/-- An SDIO command reaches the card; one that has gone inactive answers nothing until reset. -/
def doSdioCommand (c : SdioCmd) (s : State) : State :=
  if sdioAnswers s && s.sdio.card != .inactive then sdioEffect s c else s

/-- SDIO_COMMAND (R53). -/
def execSdioCommand (c : SdioCmd) (s : State) : Host.Outcome State Fault Refusal := .next (doSdioCommand c s)

end Sys2Proof.Machine
end

