-- ==== Sys2Proof/Machine/Dispatch.lean ====
section
/-! DEFINITION. One arm for every command: a direct call of its meaning. -/

namespace Sys2Proof.Machine

open Sys2Proof

def exec (i : Instr) (s : State) : Host.Outcome State Fault Refusal :=
  match i with
  | .resetEntry cause => Sys2Proof.Machine.execResetEntry cause s
  | .resetRelease refclk => Sys2Proof.Machine.execResetRelease refclk s
  | .refclkPresent => Sys2Proof.Machine.execRefclkPresent s
  | .aonPllLocked bootSrc => Sys2Proof.Machine.execAonPllLocked bootSrc s
  | .aonRelease otpErr => Sys2Proof.Machine.execAonRelease otpErr s
  | .sdioFunctionReady => Sys2Proof.Machine.execSdioFunctionReady s
  | .sdioCmd0Spi => Sys2Proof.Machine.execSdioCmd0Spi s
  | .sdioCmd11 => Sys2Proof.Machine.execSdioCmd11 s
  | .sdioCommand c => Sys2Proof.Machine.execSdioCommand c s
  | .bootImageWrite data => Sys2Proof.Machine.execBootImageWrite data s
  | .imageVerifyDone => Sys2Proof.Machine.execImageVerifyDone s
  | .firmwareReady => Sys2Proof.Machine.execFirmwareReady s
  | .fwHalt => Sys2Proof.Machine.execFwHalt s
  | .firmwareHeartbeat => Sys2Proof.Machine.execFirmwareHeartbeat s
  | .cpStall => Sys2Proof.Machine.execCpStall s
  | .smFault => Sys2Proof.Machine.execSmFault s
  | .mbCmdPortWrite data => Sys2Proof.Machine.execMbCmdPortWrite data s
  | .mbDoorbellWrite value => Sys2Proof.Machine.execMbDoorbellWrite value s
  | .mbRecordExecute ecc => Sys2Proof.Machine.execMbRecordExecute ecc s
  | .mbRspPortRead count => Sys2Proof.Machine.execMbRspPortRead count s
  | .mbStatusW1c value => Sys2Proof.Machine.execMbStatusW1c value s
  | .registerWrite fn addr value => Sys2Proof.Machine.execRegisterWrite fn addr value s
  | .eventRecordRead count => Sys2Proof.Machine.execEventRecordRead count s
  | .bulkDataWrite data => Sys2Proof.Machine.execBulkDataWrite data s
  | .bulkDataRead count ecc => Sys2Proof.Machine.execBulkDataRead count ecc s
  | .nop h => Sys2Proof.Machine.execNop h s
  | .deviceInfo h => Sys2Proof.Machine.execDeviceInfo h s
  | .channelTableSet h base count => Sys2Proof.Machine.execChannelTableSet h base count s
  | .channelInvalidate h first count => Sys2Proof.Machine.execChannelInvalidate h first count s
  | .bulkWrite h addr len => Sys2Proof.Machine.execBulkWrite h addr len s
  | .bulkRead h addr len => Sys2Proof.Machine.execBulkRead h addr len s
  | .dmaStart h channel flags => Sys2Proof.Machine.execDmaStart h channel flags s
  | .dmaStop h channel r => Sys2Proof.Machine.execDmaStop h channel r s
  | .dmaKick h channel r => Sys2Proof.Machine.execDmaKick h channel r s
  | .streamRearm h stream r ja base => Sys2Proof.Machine.execStreamRearm h stream r ja base s
  | .wcacheInvalidate h addr len => Sys2Proof.Machine.execWcacheInvalidate h addr len s
  | .ddrInit h cfg => Sys2Proof.Machine.execDdrInit h cfg s
  | .firewallSet h target region rflags base limit rdMask wrMask => Sys2Proof.Machine.execFirewallSet h target region rflags base limit rdMask wrMask s
  | .firewallGet h target region r => Sys2Proof.Machine.execFirewallGet h target region r s
  | .egressStart h channel r => Sys2Proof.Machine.execEgressStart h channel r s
  | .egressStop h port r => Sys2Proof.Machine.execEgressStop h port r s
  | .egressUrunClear h port r => Sys2Proof.Machine.execEgressUrunClear h port r s
  | .tensorCheck h use r device td => Sys2Proof.Machine.execTensorCheck h use r device td s
  | .tensorLocate h g td => Sys2Proof.Machine.execTensorLocate h g td s
  | .graphLoad h payload => Sys2Proof.Machine.execGraphLoad h payload s
  | .graphUnload h graph r => Sys2Proof.Machine.execGraphUnload h graph r s
  | .graphStart h graph sflags r salt f0 => Sys2Proof.Machine.execGraphStart h graph sflags r salt f0 s
  | .graphHold h graph r => Sys2Proof.Machine.execGraphHold h graph r s
  | .graphHoldQuiescent graph => Sys2Proof.Machine.execGraphHoldQuiescent graph s
  | .graphResume h graph r => Sys2Proof.Machine.execGraphResume h graph r s
  | .graphStop h graph r => Sys2Proof.Machine.execGraphStop h graph r s
  | .graphStopIdle graph => Sys2Proof.Machine.execGraphStopIdle graph s
  | .graphParamSet h graph r entry r2 value => Sys2Proof.Machine.execGraphParamSet h graph r entry r2 value s
  | .graphStatus h graph r => Sys2Proof.Machine.execGraphStatus h graph r s
  | .csiPortConfig h port lanes map pol i3cMode r => Sys2Proof.Machine.execCsiPortConfig h port lanes map pol i3cMode r s
  | .cameraStart h channel r => Sys2Proof.Machine.execCameraStart h channel r s
  | .cameraStop h pipe r waitMs => Sys2Proof.Machine.execCameraStop h pipe r waitMs s
  | .cameraStopTimeout pipe => Sys2Proof.Machine.execCameraStopTimeout pipe s
  | .cameraStatus h pipe clear r => Sys2Proof.Machine.execCameraStatus h pipe clear r s
  | .triggerSet h trig mode polarity r period tStart width count => Sys2Proof.Machine.execTriggerSet h trig mode polarity r period tStart width count s
  | .triggerSwitchPoint trig => Sys2Proof.Machine.execTriggerSwitchPoint trig s
  | .sensorCommit h pipe r count param writes => Sys2Proof.Machine.execSensorCommit h pipe r count param writes s
  | .i3cTransfer h port addr dir len data => Sys2Proof.Machine.execI3cTransfer h port addr dir len data s
  | .safetyArm h policy => Sys2Proof.Machine.execSafetyArm h policy s
  | .safetyDisarm h => Sys2Proof.Machine.execSafetyDisarm h s
  | .safetyStatus h => Sys2Proof.Machine.execSafetyStatus h s
  | .safetyClear h source kind scope => Sys2Proof.Machine.execSafetyClear h source kind scope s
  | .fbcLoad h pipe r addr => Sys2Proof.Machine.execFbcLoad h pipe r addr s
  | .fbcRead h pipe r => Sys2Proof.Machine.execFbcRead h pipe r s
  | .seasonSet h season r => Sys2Proof.Machine.execSeasonSet h season r s
  | .powerCapSet h watts r => Sys2Proof.Machine.execPowerCapSet h watts r s
  | .powerStatus h => Sys2Proof.Machine.execPowerStatus h s
  | .thermalSet h th r => Sys2Proof.Machine.execThermalSet h th r s
  | .islandStop h island r => Sys2Proof.Machine.execIslandStop h island r s
  | .islandStart h island r => Sys2Proof.Machine.execIslandStart h island r s
  | .traceStart h channel r => Sys2Proof.Machine.execTraceStart h channel r s
  | .traceStop h tch r => Sys2Proof.Machine.execTraceStop h tch r s
  | .traceStatus h => Sys2Proof.Machine.execTraceStatus h s
  | .traceTrigger h tch r => Sys2Proof.Machine.execTraceTrigger h tch r s
  | .traceMark h value => Sys2Proof.Machine.execTraceMark h value s
  | .counterRead h cls r first count r2 => Sys2Proof.Machine.execCounterRead h cls r first count r2 s
  | .counterClear h cls r first count r2 => Sys2Proof.Machine.execCounterClear h cls r first count r2 s
  | .watchSet h watch => Sys2Proof.Machine.execWatchSet h watch s
  | .watchClear h watch r => Sys2Proof.Machine.execWatchClear h watch r s
  | .watchArm h watch r => Sys2Proof.Machine.execWatchArm h watch r s
  | .linkStart h channel r => Sys2Proof.Machine.execLinkStart h channel r s
  | .linkStop h port r => Sys2Proof.Machine.execLinkStop h port r s
  | .linkStatus h => Sys2Proof.Machine.execLinkStatus h s
  | .linkRouteSet h first count ports => Sys2Proof.Machine.execLinkRouteSet h first count ports s
  | .linkAbort h first last => Sys2Proof.Machine.execLinkAbort h first last s
  | .linkReserve h port dir r mbps => Sys2Proof.Machine.execLinkReserve h port dir r mbps s
  | .linkWindowSet h win r base length => Sys2Proof.Machine.execLinkWindowSet h win r base length s
  | .linkWindowOpen h win r => Sys2Proof.Machine.execLinkWindowOpen h win r s
  | .linkWindowClose h win r => Sys2Proof.Machine.execLinkWindowClose h win r s
  | .linkImportSet h entry win device epoch r base length => Sys2Proof.Machine.execLinkImportSet h entry win device epoch r base length s
  | .linkIdSet h id r => Sys2Proof.Machine.execLinkIdSet h id r s
  | .linkIdAssign h port r id => Sys2Proof.Machine.execLinkIdAssign h port r id s
  | .linkMboxRelay h device r record => Sys2Proof.Machine.execLinkMboxRelay h device r record s
  | .linkEventSink h device flags => Sys2Proof.Machine.execLinkEventSink h device flags s
  | .linkTimeJoin h => Sys2Proof.Machine.execLinkTimeJoin h s
  | .linkPpsSet h phase flags => Sys2Proof.Machine.execLinkPpsSet h phase flags s
  | .bootRelay h port r addr len r2 => Sys2Proof.Machine.execBootRelay h port r addr len r2 s
  | .coreFence h core r => Sys2Proof.Machine.execCoreFence h core r s
  | .coreUnfence h core r => Sys2Proof.Machine.execCoreUnfence h core r s
  | .keyProvision h slot r hash => Sys2Proof.Machine.execKeyProvision h slot r hash s
  | .keyRevoke h slot r => Sys2Proof.Machine.execKeyRevoke h slot r s
  | .svnAdvance h => Sys2Proof.Machine.execSvnAdvance h s
  | .debugEnable h domain r => Sys2Proof.Machine.execDebugEnable h domain r s
  | .debugDisable h => Sys2Proof.Machine.execDebugDisable h s
  | .pmbAlert => Sys2Proof.Machine.execPmbAlert s
  | .refclkLoss => Sys2Proof.Machine.execRefclkLoss s
  | .ppsEdge => Sys2Proof.Machine.execPpsEdge s
  | .ppsLost => Sys2Proof.Machine.execPpsLost s
  | .thermalSensorRead sensor temp => Sys2Proof.Machine.execThermalSensorRead sensor temp s
  | .thermalTrip sensor temp => Sys2Proof.Machine.execThermalTrip sensor temp s
  | .budgetEpochStart powerMw => Sys2Proof.Machine.execBudgetEpochStart powerMw s
  | .seasonChangeDone => Sys2Proof.Machine.execSeasonChangeDone s
  | .counterWindowBoundary => Sys2Proof.Machine.execCounterWindowBoundary s
  | .vmon rail mv => Sys2Proof.Machine.execVmon rail mv s
  | .clkMon island ppm => Sys2Proof.Machine.execClkMon island ppm s
  | .doubtLevelEnd source kind scope => Sys2Proof.Machine.execDoubtLevelEnd source kind scope s
  | .frameIntervalEnd => Sys2Proof.Machine.execFrameIntervalEnd s
  | .doubtPulseEnd => Sys2Proof.Machine.execDoubtPulseEnd s
  | .goldenRunStart cls unit => Sys2Proof.Machine.execGoldenRunStart cls unit s
  | .goldenRunDone cls unit result => Sys2Proof.Machine.execGoldenRunDone cls unit result s
  | .goldenRunOverdue cls unit => Sys2Proof.Machine.execGoldenRunOverdue cls unit s
  | .monthSlotStart => Sys2Proof.Machine.execMonthSlotStart s
  | .selfTestStart duration => Sys2Proof.Machine.execSelfTestStart duration s
  | .selfTestDone badChecker => Sys2Proof.Machine.execSelfTestDone badChecker s
  | .csiFrameStart port vc corrected => Sys2Proof.Machine.execCsiFrameStart port vc corrected s
  | .csiFrameEnd port vc corrected => Sys2Proof.Machine.execCsiFrameEnd port vc corrected s
  | .csiLongPacket port vc dt samples corrected crcOk taken codeErrs => Sys2Proof.Machine.execCsiLongPacket port vc dt samples corrected crcOk taken codeErrs s
  | .csiHeaderError port => Sys2Proof.Machine.execCsiHeaderError port s
  | .pipelineLineDone pipe => Sys2Proof.Machine.execPipelineLineDone pipe s
  | .frameComplete pipe => Sys2Proof.Machine.execFrameComplete pipe s
  | .patternTestStart pipe => Sys2Proof.Machine.execPatternTestStart pipe s
  | .patternTestDone pipe signature => Sys2Proof.Machine.execPatternTestDone pipe signature s
  | .camTrigPulse trig => Sys2Proof.Machine.execCamTrigPulse trig s
  | .camTrigPulseEnd trig => Sys2Proof.Machine.execCamTrigPulseEnd trig s
  | .sensorWriteDone pipe ack => Sys2Proof.Machine.execSensorWriteDone pipe ack s
  | .sensorIbi port addr data => Sys2Proof.Machine.execSensorIbi port addr data s
  | .i3cTransferDone port ack data => Sys2Proof.Machine.execI3cTransferDone port ack data s
  | .sourceNotice graph lane => Sys2Proof.Machine.execSourceNotice graph lane s
  | .nodeStart node => Sys2Proof.Machine.execNodeStart node s
  | .nodeComplete node => Sys2Proof.Machine.execNodeComplete node s
  | .deadlockWalk node => Sys2Proof.Machine.execDeadlockWalk node s
  | .engineRunStart engine ecc => Sys2Proof.Machine.execEngineRunStart engine ecc s
  | .engineRunDone engine ecc => Sys2Proof.Machine.execEngineRunDone engine ecc s
  | .obxObjectEmit cluster => Sys2Proof.Machine.execObxObjectEmit cluster s
  | .coreUnitStart core => Sys2Proof.Machine.execCoreUnitStart core s
  | .scalarInstruction core ecc => Sys2Proof.Machine.execScalarInstruction core ecc s
  | .issue core ecc => Sys2Proof.Machine.execIssue core ecc s
  | .opStart core vector => Sys2Proof.Machine.execOpStart core vector s
  | .opComplete core issueNo parityTiles ecc => Sys2Proof.Machine.execOpComplete core issueNo parityTiles ecc s
  | .spawn core ecc => Sys2Proof.Machine.execSpawn core ecc s
  | .coreUnitComplete core => Sys2Proof.Machine.execCoreUnitComplete core s
  | .itemAccept => Sys2Proof.Machine.execItemAccept s
  | .itemDispatch graph => Sys2Proof.Machine.execItemDispatch graph s
  | .itemComplete core => Sys2Proof.Machine.execItemComplete core s
  | .resultRelease flow => Sys2Proof.Machine.execResultRelease flow s
  | .recordAccept port => Sys2Proof.Machine.execRecordAccept port s
  | .egressSlot port found => Sys2Proof.Machine.execEgressSlot port found s
  | .dmaDescriptorStart channel ecc => Sys2Proof.Machine.execDmaDescriptorStart channel ecc s
  | .dmaReadReturn channel ecc => Sys2Proof.Machine.execDmaReadReturn channel ecc s
  | .dmaDescriptorEnd channel => Sys2Proof.Machine.execDmaDescriptorEnd channel s
  | .streamBlockStart stream => Sys2Proof.Machine.execStreamBlockStart stream s
  | .streamBlockDone stream => Sys2Proof.Machine.execStreamBlockDone stream s
  | .streamCancelled stream => Sys2Proof.Machine.execStreamCancelled stream s
  | .fsScrubRow bank row found => Sys2Proof.Machine.execFsScrubRow bank row found s
  | .ddrRefresh channel => Sys2Proof.Machine.execDdrRefresh channel s
  | .ddrMr4Poll channel rank temp => Sys2Proof.Machine.execDdrMr4Poll channel rank temp s
  | .ddrScrubGranule addr isCode found rank bank row => Sys2Proof.Machine.execDdrScrubGranule addr isCode found rank bank row s
  | .ddrAlert channel => Sys2Proof.Machine.execDdrAlert channel s
  | .ddrInitDone result => Sys2Proof.Machine.execDdrInitDone result s
  | .linkDetectPulse port => Sys2Proof.Machine.execLinkDetectPulse port s
  | .linkPeerDetected port => Sys2Proof.Machine.execLinkPeerDetected port s
  | .linkEqDone port => Sys2Proof.Machine.execLinkEqDone port s
  | .linkAlignDone port txLat rxLat lanes => Sys2Proof.Machine.execLinkAlignDone port txLat rxLat lanes s
  | .linkUp port peer => Sys2Proof.Machine.execLinkUp port peer s
  | .linkTrainFail port => Sys2Proof.Machine.execLinkTrainFail port s
  | .flitReceive port x ecc => Sys2Proof.Machine.execFlitReceive port x ecc s
  | .ctrlReceive port m => Sys2Proof.Machine.execCtrlReceive port m s
  | .replayTimer port => Sys2Proof.Machine.execReplayTimer port s
  | .linkDown port cause => Sys2Proof.Machine.execLinkDown port cause s
  | .timeFlitSend port => Sys2Proof.Machine.execTimeFlitSend port s
  | .timeFlitReceive port m arrival arrivalFr => Sys2Proof.Machine.execTimeFlitReceive port m arrival arrivalFr s
  | .timeHoldover cause => Sys2Proof.Machine.execTimeHoldover cause s
  | .timeStep => Sys2Proof.Machine.execTimeStep s
  | .timeJoinLocked => Sys2Proof.Machine.execTimeJoinLocked s
  | .write p ecc => Sys2Proof.Machine.execWrite p ecc s
  | .read p ecc => Sys2Proof.Machine.execRead p ecc s
  | .semSignal p => Sys2Proof.Machine.execSemSignal p s
  | .winOpen p => Sys2Proof.Machine.execWinOpen p s
  | .winClose p => Sys2Proof.Machine.execWinClose p s
  | .mbox p => Sys2Proof.Machine.execMbox p s
  | .bootData port p => Sys2Proof.Machine.execBootData port p s
  | .bootEnd port p => Sys2Proof.Machine.execBootEnd port p s
  | .idAssign port p => Sys2Proof.Machine.execIdAssign port p s
  | .event p => Sys2Proof.Machine.execEvent p s
  | .transactionResponse p => Sys2Proof.Machine.execTransactionResponse p s
  | .bootRelayDone port code => Sys2Proof.Machine.execBootRelayDone port code s
  | .traceRecordArrive cls unit => Sys2Proof.Machine.execTraceRecordArrive cls unit s
  | .traceSpillCopy tch ecc => Sys2Proof.Machine.execTraceSpillCopy tch ecc s
  | .watchRead watch ecc => Sys2Proof.Machine.execWatchRead watch ecc s
  | .tapReset => Sys2Proof.Machine.execTapReset s
  | .idcode => Sys2Proof.Machine.execIdcode s
  | .sample pins => Sys2Proof.Machine.execSample pins s
  | .preload cells => Sys2Proof.Machine.execPreload cells s
  | .extest => Sys2Proof.Machine.execExtest s
  | .clamp => Sys2Proof.Machine.execClamp s
  | .highz => Sys2Proof.Machine.execHighz s
  | .bypass code => Sys2Proof.Machine.execBypass code s
  | .dbgAccess dr ecc => Sys2Proof.Machine.execDbgAccess dr ecc s
  | .dbgAccessDone => Sys2Proof.Machine.execDbgAccessDone s
  | .hotJoin port => Sys2Proof.Machine.execHotJoin port s
  | .ctrlFlitSend port => Sys2Proof.Machine.execCtrlFlitSend port s

end Sys2Proof.Machine
end

