-- ==== Sys2Proof/Machine/Step.lean ====
section
/-! DEFINITION. One step of the block: the command at the front of the queue, or one tick of device time. -/

namespace Sys2Proof.Machine

open Sys2Proof

/-- One tick of device time (R7), while the AON island runs: log entry 1. -/
def idleTick (s : State) : State := if aonRuns s && ! s.rst.tripped then { s with time := s.time + 1 } else s

/-- One step: the command at the front of the queue is carried out on the rest; with an empty queue a tick passes.
DESIGN CHOICE: log entry 1. -/
def step (s : State) : Host.Outcome State Fault Refusal :=
  match s.pending with
  | [] => .next (idleTick s)
  | c :: rest => exec c { s with pending := rest }

/-- The state with the command of a table word at the front of its queue; unchanged where the word spells none.
DESIGN CHOICE: log entry 1. -/
def State.withFetchWord (s : State) (nbits w : Nat) : State :=
  match decodeTableWord nbits w with
  | none => s
  | some c => { s with pending := c :: s.pending }

end Sys2Proof.Machine
end

