-- ==== Sys2Proof/Machine/Pins.lean ====
section
/-! DEFINITION. What each pin class of the table *Pin states* shows in a state (R36, R40, R46 to R51): it is read off the state,
so a reset, a trip, a rail that falls or a boundary-scan instruction shows at once on every pin. -/

namespace Sys2Proof.Machine

open Sys2Proof

/-- The pin classes of the table *Pin states* that are not inputs, by interface number. -/
inductive PinName where
  | csi (port : Nat)
  | linkTx (port : Nat)
  | linkRx (port : Nat)
  | ddrOut (channel : Nat)
  | ddrDq (channel : Nat)
  | egrData (port : Nat)
  | egrRclk (port : Nat)
  | egrWm (port : Nat)
  | egrUrun (port : Nat)
  | camTrig (line : Nat)
  | i3c (port : Nat)
  | sdio
  | pmb
  | doubtN
  | thermTripN
  | tdo
deriving DecidableEq, Repr

/-- What a pin shows. -/
inductive PinView where
  | off      -- no drive: high impedance, released, terminations disconnected, receiver detection absent
  | idle     -- a link transmitter in electrical idle
  | works    -- the interface drives and terminates the pin as its own rules say
  | low
  | high
deriving DecidableEq, Repr

/-- The rails of the table *Supply rails* that feed a pin, by row from 0. -/
def pinRails : PinName → List Nat
  | .csi _ => [6]
  | .linkTx _ | .linkRx _ => [3, 4]
  | .ddrOut _ | .ddrDq _ => [5]
  | .egrData _ | .egrRclk _ | .egrWm _ | .egrUrun _ | .camTrig _ | .i3c _ | .pmb | .tdo => [7]
  | .sdio => [8]
  | .doubtN | .thermTripN => [2]

/-- Every rail on which a pin depends is at its power-on threshold (R50). -/
def pinPowered (s : State) (p : PinName) : Bool := (pinRails p).all (fun r => s.rst.railsUp.getLsbD r)

/-- The boundary register covers the pin: every CMOS, LVDS, SDIO and DDR5 pin, and not the CSI-2 and link lanes (R486) nor the
port's own TDO. PRESUMED for the open-drain pins: log entry 80. -/
def pinScanned : PinName → Bool
  | .csi _ | .linkTx _ | .linkRx _ | .tdo => false
  | _ => true

/-- An open-drain pin is driven low or not at all (R46, R47, R503). -/
def pinOpenDrain : PinName → Bool
  | .doubtN | .thermTripN | .pmb => true
  | _ => false

/-- The number of a pin, by which the boundary-scan file places its cell. -/
def pinNumber : PinName → Nat
  | .csi p => p
  | .linkTx p => 64 + p
  | .linkRx p => 128 + p
  | .ddrOut c => 192 + c
  | .ddrDq c => 256 + c
  | .egrData p => 320 + p
  | .egrRclk p => 384 + p
  | .egrWm p => 448 + p
  | .egrUrun p => 512 + p
  | .camTrig k => 576 + k
  | .i3c p => 640 + p
  | .sdio => 704
  | .pmb => 705
  | .doubtN => 706
  | .thermTripN => 707
  | .tdo => 708

/-- What a pin shows that follows its scan cell (R51). DESIGN CHOICE: log entry 5. -/
def pinCell (s : State) (p : PinName) : PinView :=
  if s.tap.cells.getD (Config.scanCell (pinNumber p)) false then (if pinOpenDrain p then .off else .high) else .low

/-- The state of a level that a unit drives. -/
def pinLevel : Pin → PinView
  | .z => .off
  | .lo => .low
  | .hi => .high

/-- A pin in the device's own hands, outside reset and trip: its release condition of the table *Pin states* and what its unit
drives. DESIGN CHOICE: log entry 80. TDO shifts nothing that the model holds (log entry 5). -/
def pinOwn (s : State) : PinName → PinView
  | .csi p => if portOn s p then .works else .off
  | .linkTx p => if linkActive (lportOf s p) then .works else .idle
  | .linkRx p => if linkActive (lportOf s p) then .works else .off
  | .ddrOut _ | .ddrDq _ => if s.ddr.training || s.ddr.ready then .works else .off
  | .egrData p | .egrRclk p => if (eportOf s p).driven then .works else .off
  | .egrWm p => pinLevel (eportOf s p).wm
  | .egrUrun p => pinLevel (eportOf s p).urun
  | .camTrig k => pinLevel (trigOf s k).pin
  | .i3c p => if (portOf s p).i3cOn then .works else .off
  | .sdio => if s.rst.phase = .sdioUp then .works else .off
  | .pmb => if s.rst.pmbDriven then .works else .off
  | .doubtN => if doubtPin s then .low else .off
  | .thermTripN => if s.rst.tripped then .low else .off
  | .tdo => .off

/-- A pin in reset or in a trip (R40, R46, R47, R48). -/
def pinHeld (s : State) : PinName → PinView
  | .linkTx _ => .idle
  | .doubtN => if doubtPin s then .low else .off
  | .thermTripN => if s.rst.tripped then .low else .off
  | _ => .off

/-- What a pin shows: nothing without its rails; its scan cell, or high impedance, under a boundary-scan instruction that says
so, in reset as well; its reset state in reset and in a trip; else what its unit does (R46 to R51).
DESIGN CHOICE: log entry 80. -/
def pinOf (s : State) (p : PinName) : PinView :=
  if ! pinPowered s p then .off
  else if s.tap.highz && pinScanned p then .off
  else if s.tap.driving && pinScanned p then pinCell s p
  else if s.rst.tripped || ! aonRuns s then pinHeld s p
  else pinOwn s p

end Sys2Proof.Machine
end

