-- ==== Sys2Proof/Safety.lean ====
section
/-! DEFINITION. What a safe state and a safe step are, in the terms that claims use. -/

namespace Sys2Proof.Machine

open Sys2Proof

/-- A step goes on to a next state. -/
def completes (o : Host.Outcome State Fault Refusal) : Prop := ∃ t, o = .next t

/-- The canonical form of the travel-code marks: granules strictly rising, no mark of a good code listed. -/
def Marks.wf : Tab (BitVec 16) → Bool
  | [] => true
  | [c] => c.2 != 0
  | c :: d :: m => c.2 != 0 && decide (c.1 < d.1) && Marks.wf (d :: m)

/-- What holds of the block in every state that a command leaves, when it held before: memory and marks in canonical form,
function 3's FIFO within its 1,024 records (R76), the history within its 16 entries (R73), every trace source's FIFO within
its 16 records (R467), and the AON island running (R14, R41). -/
structure Inv (s : State) : Prop where
  mem : Memory.wf s.mem = true
  marks : Marks.wf s.marks = true
  events : s.ev.fifo.length ≤ 1024
  history : s.mb.history.length ≤ 16
  traces : ∀ e ∈ s.trace.fifos, fifoLen e.2 ≤ 16
  aon : s.islands.getLsbD 0 = true

/-- Nothing changed but what the way of an event's record can change: function 3's FIFO, ESEQ and counts, trace sources and
counters, and, where the record leaves for a sink (R388), the queues of the link. -/
def EventsOnly (s t : State) : Prop :=
  t = { s with ev := t.ev, trace := t.trace, lports := t.lports,
               inst := { s.inst with arrived := t.inst.arrived, discarded := t.inst.discarded } }

/-- Nothing changed but events, and the doubt conditions with DOUBT_N. -/
def DoubtOnly (s t : State) : Prop :=
  t = { s with ev := t.ev, trace := t.trace, lports := t.lports,
               inst := { s.inst with arrived := t.inst.arrived, discarded := t.inst.discarded },
               safety := { s.safety with conds := t.safety.conds, doubtLow := t.safety.doubtLow } }

/-- The header of a command's record passes the checks that stage 2 makes before the command itself, and firmware runs to
make them: no reserved flag set (R4, R69), and a domain that the host may use, which the safety group does not look at
(R16). -/
abbrev Accepted (opcode : Nat) (h : CmdHdr) (s : State) : Prop :=
  fwUp s = true ∧ h.flags ≤ 1 ∧ (opcode / 256 = 5 ∨ (2 ≤ h.domain ∧ h.domain ≤ 15))

/-- A command row goes on to the state that its own effect `s'` leaves, with an OK response of this payload. -/
def answersOk (o : Host.Outcome State Fault Refusal) (h : CmdHdr) (opcode : Nat) (s' : State) (payload : List Byte) : Prop :=
  o = .next (answerRow h opcode (s', .done .ok payload))

/-- A command row goes on to the state that its own effect `s'` leaves, its record waiting for a completion. -/
def answersLater (o : Host.Outcome State Fault Refusal) (h : CmdHdr) (opcode : Nat) (s' : State) (w : WaitKind) : Prop :=
  o = .next (answerRow h opcode (s', .wait w))

/-- While firmware runs, a record of the host's mailbox that waits for a completion is answered in its place of the order. -/
def completesWait (s t : State) (w : WaitKind) (st : Status) (payload : List Byte) : Prop :=
  fwUp s = true → ∀ i r, waitingOn w 0 s.mb.order = some (i, r) → r.src = .host →
    t.mb.order[i]? = some (.resp .host (respBytes r.opcode r.hdr st payload))

/-- A read of a structure that is granted, of good granules in none of which an ECC error stands (R17, R189, R511). -/
def ReadsClean (s : State) (dom a len : Nat) : Prop :=
  firstBar s dom false (gransOf a len) = none ∧ rangeBad s a len = false ∧
  ∀ y ∈ s.eccBad, y.addr / 64 ∉ gransOf a len

/-- A unit's counter has risen by `n`, saturating at 48 bits (R478). -/
def counted (s t : State) (cls unit i n : Nat) : Prop :=
  counterOf t cls unit i = min (counterOf s cls unit i + n) (2 ^ 48 - 1)

/-- The doubt condition of a source row and a scope is open (R430). -/
def doubtOpen (t : State) (row kind scope : Nat) : Prop :=
  ∃ c ∈ t.safety.conds, isCond row kind scope c = true ∧ c.st ≠ .clear

/-- What one-time-programmable memory may do (R60): a bit of SVN_FUSE or KEY_REVOKE that is set stays set, and a key slot that
is programmed keeps its hash. -/
structure OtpGrows (a b : BootUnit) : Prop where
  svn : ∀ k, a.svnFuse.getLsbD k = true → b.svnFuse.getLsbD k = true
  revoke : ∀ k, a.keyRevoke.getLsbD k = true → b.keyRevoke.getLsbD k = true
  keys : ∀ k, slotProgrammed a k = true → keyHashOf b k = keyHashOf a k

end Sys2Proof.Machine
end

