-- ==== Sys2Proof/Certificates/Slice0/Obligations.lean ====
section
/-! DEFINITION. The statements about the block, each with the rules of the manual it rests on. A statement of a mailbox
command says which state the command itself leaves and what it answers (`answersOk`, `answersLater`); what an answer does to
the block is stated once, of `answerRow`. -/

section

open Sys2Proof Sys2Proof.Machine


/-! ### The queue, the tick and reset (chapters 1, 2) -/

/-- The model's own queue: a step with the command `c` at the front of the queue is `exec c` on the state with the rest of
the queue. R7 with log entry 1: on an empty queue a step is one tick of device time, which stands still while the AON island
does not run, and nothing else changes. -/
def Obligations.StepRunsTheFrontCommandOrTicks : Prop :=
  (∀ (s : State) (c : Instr) (rest : List Instr), s.pending = c :: rest → step s = exec c { s with pending := rest }) ∧
  (∀ s : State, s.pending = [] →
    step s = .next { s with time := if aonRuns s = true ∧ s.rst.tripped = false then s.time + 1 else s.time })

/-- The reset values the manual states (R5, R20, R56, R57, R69, R75, R83, R181, R356, R382, R390, R397, R414, R426, R445,
R455): what stands in the state right after reset. -/
def Obligations.ResetLeavesStatedValues : Prop :=
  let s := State.reset
  s.pending = [] ∧ s.rst.phase = .held ∧ s.rst.tripped = false ∧ s.mem = [] ∧ s.marks = [] ∧
  bootStatus s = 0 ∧ mbStatus s = 0 ∧ mbRspLen s = 0 ∧ s.mb.intEn = 0 ∧ s.mb.history = [] ∧
  evCount s = 0 ∧ s.ev.intEn = false ∧ s.ev.eseq = 0 ∧ s.ev.sink = none ∧ s.bulk.wr = none ∧ s.bulk.rd = none ∧
  (∀ t, fwOf s t 63 = fwDefault63) ∧ (∀ t n, n ≠ 63 → (fwOf s t n).en = false) ∧
  (∀ n, flagBytes s n = List.replicate 8 0) ∧
  (∀ p, (lportOf s p).st = .disabled) ∧ (∀ p, (eportOf s p).running = false) ∧ (∀ p, (pipeOf s p).running = false) ∧
  s.inst.id = 0 ∧ s.inst.joined = false ∧ s.inst.tstate = .unlocked ∧ s.inst.windows = [] ∧ s.inst.imports = [] ∧
  s.ddr.usable = 0 ∧ s.ddr.ready = false ∧ s.graphs = [] ∧ s.dma = [] ∧ s.streams = [] ∧ s.watches = [] ∧
  s.safety.armed = false ∧ polK s.safety.policy = 2 ∧ polM s.safety.policy = 3 ∧ polFI s.safety.policy = 8000000 ∧
  polSlot s.safety.policy = 4000000 ∧ polRecordMask s.safety.policy = 0x003F ∧ polFrameMask s.safety.policy = 0x03FF ∧
  polPulse s.safety.policy = 400000 ∧ s.safety.smFault = false ∧ s.safety.cpStall = false ∧ s.safety.doubtLow = false ∧
  s.power.season = .autumn ∧ s.power.cap = 420 ∧ s.power.th = 100 ∧ s.power.lambda = 16 ∧
  s.tap.dbgDomain = none ∧ s.tap.ir = 0x01

/-- R40, R46, R51, R60, R425: RESET_ENTRY brings every unit to its reset values, keeps the queue and OTP, stops every island
but AON, and leaves the trip latch only to PORST_N and VDD_AON. R39, R44, R62: the rows of the table *Release from reset*,
each in the state that the row before it leaves: t0, REFCLK late, the PLL's lock with BOOT_SRC latched at t0 + 20 µs, AON at
t0 + 22 µs with the boot ROM waiting for its image (or failed with BOOT_SRC_BAD), and the SDIO function at t0 + 100 µs, the
ports training only with BOOT_SRC = LINK. -/
def Obligations.ResetEntryAndReleaseFollowTheirTables : Prop :=
  (∀ (s : State) (c : ResetCause), ∃ t, exec (.resetEntry c) s = .next t ∧
    t = { State.reset with pending := s.pending, rst := rstAfter s.rst c, boot := t.boot, tap := t.tap,
                           fw := fwAfter s.fw c, safety := t.safety, freeCnt := s.freeCnt } ∧
    (∀ e ∈ t.fw, e ∈ s.fw ∧ e.2.lock = true ∧ c = .pwrGoodLow) ∧ (c = .pwrGoodLow → ∀ e ∈ s.fw, e.2.lock = true → e ∈ t.fw) ∧
    t.rst.phase = .held ∧ t.islands = 1 ∧
    t.boot = { bootReset with keyHash := s.boot.keyHash, keyRevoke := s.boot.keyRevoke, svnFuse := s.boot.svnFuse } ∧
    t.rst.tripped = (match c with
      | .porstLow => false
      | .railLow k => s.rst.tripped && k != 2
      | .pwrGoodLow => s.rst.tripped) ∧
    t.tap = { s.tap with dbgDomain := none, dbgBusy := false, dbgStatus := if s.tap.dbgBusy then .denied else s.tap.dbgStatus } ∧
    t.safety = { safetyReset with smFault := t.safety.smFault, doubtLow := t.safety.doubtLow } ∧
    (c = .porstLow → t.safety.smFault = false)) ∧
  (∀ (s : State) (refclk : Bool), s.rst.phase = .held →
    exec (.resetRelease refclk) s = .next { s with rst := { s.rst with
      pwrGood := true, porstN := true, railsUp := BitVec.allOnes 9, refclk := refclk, phase := .locking, t0 := s.time } }) ∧
  (∀ s : State, s.rst.phase = .locking → s.rst.refclk = false →
    exec .refclkPresent s = .next { s with rst := { s.rst with refclk := true, t0 := s.time } }) ∧
  (∀ (s : State) (src : Nat), s.rst.phase = .locking → s.rst.refclk = true →
    exec (.aonPllLocked src) s = .next { s with time := max s.time (s.rst.t0 + 80000), rst := { s.rst with
      phase := .locked, bootSrc := BitVec.ofNat 2 src } }) ∧
  (∀ (s : State) (otpErr : Bool), s.rst.phase = .locked → s.rst.tripped = false →
    ∃ t, exec (.aonRelease otpErr) s = .next t ∧
      t = { s with time := max s.time (s.rst.t0 + 88000), rst := { s.rst with phase := .aonUp }, boot := t.boot,
                   safety := t.safety } ∧ t.boot.otpErr = otpErr ∧
      (s.rst.bootSrc.toNat < 2 → t.boot.phase = 0x01 ∧ t.boot.code = s.boot.code) ∧
      (2 ≤ s.rst.bootSrc.toNat → t.boot.phase = 0xFF ∧ t.boot.code = 0x0B01) ∧
      t.safety = { s.safety with doubtLow := t.safety.doubtLow }) ∧
  (∀ s : State, s.rst.phase = .aonUp → s.rst.tripped = false →
    ∃ t, exec .sdioFunctionReady s = .next t ∧
      t = { s with time := max s.time (s.rst.t0 + 400000), rst := { s.rst with phase := .sdioUp }, islands := t.islands,
                   lports := t.lports } ∧ sdioAnswers t = true ∧
      (s.rst.bootSrc = 1 → ∀ p < 12, (lportOf t p).st = .detect) ∧
      (s.rst.bootSrc ≠ 1 → t.lports = s.lports ∧ t.islands = s.islands))

/-- R36, R53, R54: on the SDIO bus CMD0 in SPI form changes nothing; CMD11 brings 1.8 V signalling; each supported command
reaches the card, and one that reaches function 0 changes nothing but the card; a CMD53 read gives as many bytes as its
count or its blocks say. R5, R55, R56: a CMD52 reads a register of function 1 or 3 byte by byte, little-endian, and a
write-only one as zero; a register takes its value with the byte at offset 3; and a function that does not answer takes no
write. -/
def Obligations.SdioBusCommandsReachFunctionZero : Prop :=
  (∀ s : State, exec .sdioCmd0Spi s = .next s) ∧
  (∀ s : State, sdioAnswers s = true → s.sdio.card ≠ .inactive →
    exec .sdioCmd11 s = .next { s with rst := { s.rst with sdio18 := true } }) ∧
  (∀ (s : State) (c : SdioCmd), sdioAnswers s = true → s.sdio.card ≠ .inactive →
    ∃ t, exec (.sdioCommand c) s = .next t ∧
      ((match c with
        | .cmd52Read fn _ | .cmd52Write fn _ _ | .cmd53Read fn _ _ _ _ | .cmd53Write fn _ _ _ _ => fn = 0
        | _ => True) → t = { s with sdio := t.sdio, freeCnt := t.freeCnt }) ∧
      (c = .cmd0 → t.sdio.card = .idle) ∧ (c = .cmd3 → t.sdio.card = .standby ∧ 1 ≤ t.sdio.rca ∧ t.sdio.rca < 65536) ∧
      (c = .cmd7 s.sdio.rca → s.sdio.card = .standby → t.sdio.card = .selected) ∧
      (c = .cmd15 s.sdio.rca → t.sdio.card = .inactive) ∧
      (∀ v, c = .cmd52Write 0 4 v → s.sdio.card = .selected → t.sdio.ien = byteOf v &&& 0x0F) ∧
      (∀ fn a n inc, c = .cmd53Read fn a n false inc → s.sdio.card = .selected →
        t.sdio.data.length = if n = 0 then 512 else n) ∧
      (∀ fn a n inc k, c = .cmd53Read fn a n true inc → s.sdio.card = .selected → tabGet 0 s.sdio.blkSize fn = k →
        1 ≤ k → k ≤ 512 → t.sdio.data.length = n * k)) ∧
  (∀ (s : State) (fn r k v : Nat), fnAnswers s fn = true → regValue s fn r = some v → r % 4 = 0 → k < 4 →
    exec (.sdioCommand (.cmd52Read fn (r + k))) s =
      .next { s with sdio := { s.sdio with resp := ((leBytes 4 v).getD k 0).toNat } }) ∧
  (∀ s : State, regValue s 1 0x2000 = some 0 ∧ regValue s 1 0x2004 = some (mbStatus s) ∧
    regValue s 1 0x2008 = some (mbRspLen s) ∧ regValue s 1 0x200C = some s.mb.intEn.toNat ∧
    regValue s 1 0x2010 = some (bootStatus s) ∧ regValue s 3 0x1000 = some (evCount s) ∧
    regValue s 3 0x1004 = some (bit01 s.ev.intEn)) ∧
  (∀ (s : State) (fn r v : Nat), fnAnswers s fn = true → (regValue s fn r).isSome = true → r % 4 = 0 →
    ∃ t u, exec (.registerWrite fn r (leNat (s.sdio.latch ++ [byteOf v]))) s = .next u ∧
      exec (.sdioCommand (.cmd52Write fn (r + 3) v)) s = .next t ∧
      t = { u with sdio := { u.sdio with resp := v % 256 } }) ∧
  (∀ (s : State) (fn a v : Nat), sdioAnswers s = true → s.sdio.card = .selected → fn ≠ 0 → fnAnswers s fn = false →
    exec (.sdioCommand (.cmd52Write fn a v)) s = .next { s with sdio := { s.sdio with resp := v % 256 } })

/-! ### Boot and the control processor (chapter 3) -/

/-- R58: the ROM takes the bytes of an image in the order in which they come, at the place it has reached in CP memory,
header first; a write that completes neither header nor image leaves it receiving, and changes nothing but CP memory and the
ROM's place. R61: the seven checks of a complete header are made in their order, and the code is that of the first that
fails: nothing of a header whose MAGIC is wrong is looked at further, an empty slot is found before a revoked one, a revoked
one before its hash, and the roll-back check comes last. -/
def Obligations.BootRomTakesAndChecksTheHeader : Prop :=
  (∀ (s : State) (data : List Byte), fnUp s 2 = true → s.rst.bootSrc = 0 →
    (s.boot.phase = 0x01 ∨ s.boot.phase = 0x02) → data ≠ [] → s.boot.received + data.length < 5440 →
    ∃ t, exec (.bootImageWrite data) s = .next t ∧
      t = { s with mem := t.mem, marks := t.marks, eccBad := t.eccBad,
                   boot := { s.boot with phase := 0x02, received := s.boot.received + data.length } } ∧
      memRead t.mem (0x004500000000 + s.boot.received) data.length = data ∧
      (∀ a, (a < 0x004500000000 + s.boot.received ∨ 0x004500000000 + s.boot.received + data.length ≤ a) →
        memByte t.mem a = memByte s.mem a)) ∧
  (∀ (b : BootUnit) (h : List Byte),
    (b.otpErr = true → headerCheck b h = some 0x0B02) ∧
    (b.otpErr = false → fieldAt h 0 4 ≠ 0x46584353 → headerCheck b h = some 0x0B03) ∧
    (∀ c, headerCheck b h = some c → 0x0B02 ≤ c ∧ c ≤ 0x0B08) ∧
    (headerCheck b h = some 0x0B06 → slotProgrammed b (fieldAt h 12 1) = true ∧ b.keyRevoke.getLsbD (fieldAt h 12 1) = true) ∧
    (headerCheck b h = some 0x0B05 → slotProgrammed b (fieldAt h 12 1) = false) ∧
    (headerCheck b h = some 0x0B08 → fieldAt h 8 4 < otpSvn b) ∧
    (headerCheck b h = none →
      b.otpErr = false ∧ fieldAt h 12 1 ≤ 3 ∧ fieldAt h 16 4 ≤ 3140288 ∧ 64 ≤ fieldAt h 16 4 ∧ fieldAt h 16 4 % 64 = 0 ∧
      fieldAt h 20 4 % 4 = 0 ∧ fieldAt h 20 4 < fieldAt h 16 4 ∧ slotProgrammed b (fieldAt h 12 1) = true ∧
      b.keyRevoke.getLsbD (fieldAt h 12 1) = false ∧ otpSvn b ≤ fieldAt h 8 4))

/-- R59, R61 to R64, R66, R425: the end of verification starts firmware or fails the boot; firmware becomes ready with the
domain-1 regions locked; it halts, beats and stalls, and SM_FAULT drives DOUBT_N low. -/
def Obligations.FirmwareStartsHaltsAndStalls : Prop :=
  (∀ s : State, s.boot.verifying = true → s.rst.tripped = false → s.boot.srcPort = none →
    let code := sigCode (getBytes s cpBase hdrSize) (getBytes s (cpBase + hdrSize) (s.boot.bodyLen.getD 0))
    ∃ t, exec .imageVerifyDone s = .next t ∧ t = { s with boot := t.boot } ∧ t.boot.verifying = false ∧
      (code = 0 → t.boot.phase = 0x04 ∧ t.boot.svn = fieldAt (getBytes s cpBase hdrSize) 8 4 ∧
        t.boot.buildId = fieldAt (getBytes s cpBase hdrSize) 24 8) ∧
      (code ≠ 0 → t.boot.phase = 0xFF ∧ t.boot.code = BitVec.ofNat 16 code)) ∧
  (∀ s : State, s.boot.phase = 0x04 → s.rst.tripped = false → s.boot.fwHalt = false → (fwOf s 1 0).lock = false →
    ∃ t, exec .firmwareReady s = .next t ∧ t.boot = { s.boot with phase := 0x05, fwReady := true } ∧
      t = { s with boot := t.boot, rst := t.rst, fw := t.fw, islands := BitVec.allOnes 55, safety := t.safety } ∧
      t.rst = { s.rst with vrmMv := 745, pmbDriven := true } ∧
      fwOf t 1 0 = domain1Region goldenBase (goldenBase + 0x7FFFF) ∧
      (∀ d, d ≠ 1 → ∀ wr, fwAllows t 1 d wr goldenBase 64 = false)) ∧
  (∀ s : State, s.boot.phase = 0x05 → ∃ t, exec .fwHalt s = .next t ∧ fwUp t = false ∧
      (s.safety.cpStall = true → t = { s with boot := { s.boot with fwHalt := true } }) ∧
      (s.safety.cpStall = false →
        DoubtOnly { s with boot := { s.boot with fwHalt := true }, safety := { s.safety with cpStall := true } } t ∧
        ∃ c ∈ t.safety.conds, isCond rowStall kindDevice 0 c = true ∧ c.st = .persistent)) ∧
  (∀ s : State, fwUp s = true → exec .firmwareHeartbeat s = .next { s with safety := { s.safety with heartbeat := s.time } }) ∧
  (∀ s : State, s.boot.fwReady = true → s.rst.tripped = false → s.safety.cpStall = false → aonRuns s = true →
    aonPowered s = true →
    ∃ t, exec .cpStall s = .next t ∧ t.safety.doubtLow = true ∧
      DoubtOnly { s with time := max s.time (s.safety.heartbeat + 16000000), safety := { s.safety with cpStall := true } } t ∧
      ∃ c ∈ t.safety.conds, isCond rowStall kindDevice 0 c = true ∧ c.st = .persistent) ∧
  (∀ s : State, aonRuns s = true → aonPowered s = true → ∃ t, exec .smFault s = .next t ∧ t.safety.doubtLow = true ∧
      DoubtOnly { s with safety := { s.safety with smFault := true } } t)

/-- R60, R493: KEY_PROVISION writes an empty slot only, KEY_REVOKE leaves a slot that is programmed and unrevoked, and
SVN_ADVANCE raises the counter to the running image's SVN and never lowers it; nothing else of the block changes. -/
def Obligations.OtpCommandsHaveTheirEffect : Prop :=
  (∀ (s : State) (h : CmdHdr) (slot : Nat) (hash : List Byte), Accepted 0x0902 h s → slot ≤ 3 → hash.length = 64 →
    allZero hash = false → slotProgrammed s.boot slot = false →
    answersOk (exec (.keyProvision h slot 0 hash) s) h 0x0902
      { s with boot := { s.boot with keyHash := s.boot.keyHash.set slot hash } } []) ∧
  (∀ (s : State) (h : CmdHdr) (slot : Nat), Accepted 0x0903 h s → slot ≤ 3 →
    (∃ j < 4, j ≠ slot ∧ slotProgrammed s.boot j = true ∧ s.boot.keyRevoke.getLsbD j = false) →
    answersOk (exec (.keyRevoke h slot 0) s) h 0x0903
      { s with boot := { s.boot with keyRevoke := s.boot.keyRevoke ||| BitVec.ofNat 4 (2 ^ slot) } } []) ∧
  (∀ (s : State) (h : CmdHdr), Accepted 0x0904 h s → s.boot.svn ≤ 64 →
    ∃ b, answersOk (exec (.svnAdvance h) s) h 0x0904 { s with boot := b } (leBytes 4 (otpSvn b)) ∧
      b = { s.boot with svnFuse := b.svnFuse } ∧
      (∀ k, b.svnFuse.getLsbD k = (s.boot.svnFuse.getLsbD k || decide (k < s.boot.svn))))

/-! ### Mailbox, events and bulk transfers (chapters 3, 20) -/

/-- R71: bytes written to MB_CMD_PORT go to the record whose first byte took a slot; with no slot free the record is
discarded whole and OVERRUN is set; nothing else of the block changes. R71: MB_RSP_PORT gives the responses at the front of
the order byte by byte, and reading the last byte of a response removes it; a response behind a record that still waits
cannot be read. -/
def Obligations.CommandAndResponsePortsMoveRecords : Prop :=
  (∀ (s : State) (data : List Byte), fnUp s 1 = true → data ≠ [] →
    (s.mb.discarding = true → exec (.mbCmdPortWrite data) s = .next { s with mb := { s.mb with overrun := true } }) ∧
    (s.mb.discarding = false → ∀ p, s.mb.part = some p →
      exec (.mbCmdPortWrite data) s = .next { s with mb := { s.mb with part := some (p ++ data) } }) ∧
    (s.mb.discarding = false → s.mb.part = none → cmdFree s ≠ 0 →
      exec (.mbCmdPortWrite data) s = .next { s with mb := { s.mb with part := some data } }) ∧
    (s.mb.discarding = false → s.mb.part = none → cmdFree s = 0 →
      exec (.mbCmdPortWrite data) s = .next { s with mb := { s.mb with discarding := true, overrun := true } })) ∧
  (∀ (s : State) (src : RecSrc) (bs : List Byte) (rest : List MbEntry) (count : Nat), fnUp s 1 = true →
    s.mb.order = .resp src bs :: rest → s.mb.rspPos + count < bs.length → 0 < count →
    exec (.mbRspPortRead count) s = .next { s with mb := { s.mb with rspPos := s.mb.rspPos + count },
                                                   sdio := { s.sdio with data := bytesAt bs s.mb.rspPos count } }) ∧
  (∀ (s : State) (src : RecSrc) (bs : List Byte) (rest : List MbEntry) (count : Nat), fnUp s 1 = true →
    s.mb.order = .resp src bs :: rest → s.mb.rspPos + count = bs.length → 0 < count →
    exec (.mbRspPortRead count) s = .next { s with mb := { s.mb with order := rest, rspPos := 0 },
                                                   sdio := { s.sdio with data := bs.drop s.mb.rspPos } }) ∧
  (∀ (s : State) (count : Nat), fnUp s 1 = true → headResponse s = none →
    exec (.mbRspPortRead count) s = .next { s with sdio := { s.sdio with data := List.replicate count 0 } })

/-- R72: a doorbell whose LEN differs from the bytes written discards the record without a response and sets LEN_ERR; one
that ends a discarded record is itself discarded without LEN_ERR. -/
def Obligations.DoorbellWithWrongLengthSetsLenErr : Prop :=
  ∀ (s : State) (value : Nat), fnUp s 1 = true →
    (s.mb.discarding = false → value % 2 ^ 17 ≠ (s.mb.part.getD []).length →
      exec (.mbDoorbellWrite value) s = .next { s with mb := { s.mb with part := none, lenErr := true } }) ∧
    (s.mb.discarding = true → exec (.mbDoorbellWrite value) s = .next { s with mb := { s.mb with discarding := false } })

/-- R74, stage 1, of a record whose doorbell gives its length: BAD_LENGTH and CRC_ERR are answered at once without an
execution, a record whose sequence number is that of one queued or executing is dropped and counted in DUP_CNT, and any
other joins the end of the order. -/
def Obligations.DoorbellMakesStageOneChecks : Prop :=
  ∀ (s : State) (value : Nat) (p : List Byte), fnUp s 1 = true → s.boot.fwHalt = false → s.mb.discarding = false →
    s.mb.part = some p → value % 2 ^ 17 = p.length →
    let s' := { s with mb := { s.mb with part := none } }
    let r := recordOf .host p
    let badLength := 32 + fieldAt p 8 4 ≠ p.length ∨ fieldAt p 8 4 % 4 ≠ 0 ∨ 65536 < fieldAt p 8 4
    let badCrc := crc32c (p.take 28 ++ p.drop 32) ≠ r.hdr.crc
    (badLength → ∃ t, exec (.mbDoorbellWrite value) s = .next t ∧
      t.mb = { s'.mb with order := s.mb.order ++ [.resp .host (respBytes r.opcode r.hdr .badLength [])] } ∧
      EventsOnly { s' with mb := t.mb } t) ∧
    (¬ badLength → badCrc → ∃ t, exec (.mbDoorbellWrite value) s = .next t ∧
      t.mb = { s'.mb with order := s.mb.order ++ [.resp .host (respBytes r.opcode r.hdr .crcErr [])] } ∧
      EventsOnly { s' with mb := t.mb } t) ∧
    (¬ badLength → ¬ badCrc → seqPending s.mb r.hdr.seq = true →
      exec (.mbDoorbellWrite value) s = .next { s' with mb := { s'.mb with dupCnt := s.mb.dupCnt + 1 } }) ∧
    (¬ badLength → ¬ badCrc → seqPending s.mb r.hdr.seq = false →
      exec (.mbDoorbellWrite value) s = .next { s' with mb := { s'.mb with order := s.mb.order ++ [.queued r] } })

/-- R71, R74, stage 2: firmware takes the first record of the order that waits; one in the history gets its stored response
or SEQ_CONFLICT, one that is not newer than the last gets SEQ_STALE, one with a reserved header field BAD_FIELD, one in a
domain that the host may not use DENIED, and any other is executed; the answer takes the record's place. R16, R488, R492: a
record of a listed opcode with a payload of its row's length runs the command that its opcode names on the fields of its
payload; one of an opcode that is not listed gets BAD_OPCODE, and one of another length BAD_PARAM. -/
def Obligations.RecordsAreCheckedAndRunByOpcode : Prop :=
  (∀ (s0 s : State) (ecc : List EccHit) (i : Nat) (r : MbRec), plant ecc s0 = s → fwUp s = true →
    nextQueued s.mb.order 0 = some (i, r) →
    (∀ e, s.mb.history.find? (fun e => e.seq == r.hdr.seq) = some e →
      exec (.mbRecordExecute ecc) s0 = .next (placeResponse s i r
        (if e.opcode = r.opcode ∧ e.crc = r.hdr.crc then e.resp else respBytes r.opcode r.hdr .seqConflict []))) ∧
    ((∀ e ∈ s.mb.history, e.seq ≠ r.hdr.seq) →
      (∀ e, s.mb.history.getLast? = some e → newerSeq r.hdr.seq e.seq = false →
        exec (.mbRecordExecute ecc) s0 = .next (placeResponse s i r (respBytes r.opcode r.hdr .seqStale []))) ∧
      ((∀ e, s.mb.history.getLast? = some e → newerSeq r.hdr.seq e.seq = true) →
        (∀ off, r.resv = some off →
          exec (.mbRecordExecute ecc) s0 = .next (finishAt s i r .badField (detailOf off 0xFFFF 7))) ∧
        (r.resv = none → domainRefused r.opcode r.hdr = true →
          exec (.mbRecordExecute ecc) s0 = .next (finishAt s i r .denied [])) ∧
        (r.resv = none → domainRefused r.opcode r.hdr = false →
          exec (.mbRecordExecute ecc) s0 = .next (settleAt (runRecord r s).1 i r (runRecord r s).2))))) ∧
  (∀ (s : State) (r : MbRec),
    (payLayout r.opcode = none → runRecord r s = (s, .done .badOpcode [])) ∧
    (r.opcode = 0x0000 → r.payload = [] → runRecord r s = (s, .done .ok [])) ∧
    (r.opcode = 0x0101 → r.payload.length = 8 →
      runRecord r s = cmdChannelInvalidate (fieldAt r.payload 0 4) (fieldAt r.payload 4 4) s) ∧
    (r.opcode = 0x010A → r.payload.length = 24 →
      runRecord r s = cmdFirewallSet (fieldAt r.payload 0 2) (fieldAt r.payload 2 1) (fieldAt r.payload 3 1)
        (fieldAt r.payload 4 8) (fieldAt r.payload 12 8) (fieldAt r.payload 20 2) (fieldAt r.payload 22 2) s) ∧
    (r.opcode = 0x0404 → r.payload.length = 24 →
      runRecord r s = cmdTriggerSet (fieldAt r.payload 0 1) (fieldAt r.payload 1 1) (fieldAt r.payload 2 1)
        (fieldAt r.payload 3 1) (fieldAt r.payload 4 4) (fieldAt r.payload 8 8) (fieldAt r.payload 16 4)
        (fieldAt r.payload 20 4) s) ∧
    (r.opcode = 0x0809 → r.payload.length = 24 →
      runRecord r s = cmdLinkImportSet (fieldAt r.payload 0 1) (fieldAt r.payload 1 1) (fieldAt r.payload 2 2)
        (fieldAt r.payload 4 2) (fieldAt r.payload 6 2) (fieldAt r.payload 8 8) (fieldAt r.payload 16 8) s) ∧
    (r.opcode = 0x0601 → r.payload.length = 4 →
      runRecord r s = cmdPowerCapSet (fieldAt r.payload 0 2) (fieldAt r.payload 2 2) s) ∧
    (∀ l, payLayout r.opcode = some l → payFits l r.payload.length = false →
      runRecord r s = (s, .done .badParam (detailOf 8 0xFFFF 7))))

/-- R16, R66, R69, R74: a command row changes nothing before firmware is ready or after it has halted; with a reserved flag
set it is answered BAD_FIELD, and in a domain that the host may not use DENIED, without any of its effect. R69, R73, R498:
what an answered command row leaves: the response record, with the command's header mirrored, the status and its own length
and CRC, at the end of the order; the history with one more entry, cut to its 16 entries and 512 KiB; and beyond these
nothing but the event CMD_DONE of a record that asked for it. -/
def Obligations.CommandRowsAreCheckedAndAnswered : Prop :=
  (∀ (s : State) (h : CmdHdr) (opcode : Nat) (f : State → State × CmdRes),
    (fwUp s = false → runCommand h opcode f s = s) ∧
    (fwUp s = true → 2 ≤ h.flags → runCommand h opcode f s = answerRow h opcode (s, .done .badField (detailOf 2 0xFFFF 7))) ∧
    (fwUp s = true → h.flags ≤ 1 → opcode / 256 ≠ 5 → (h.domain ≤ 1 ∨ 15 < h.domain) →
      runCommand h opcode f s = answerRow h opcode (s, .done .denied [])) ∧
    (Accepted opcode h s → runCommand h opcode f s = answerRow h opcode (f s))) ∧
  (∀ (s : State) (h : CmdHdr) (opcode : Nat) (st : Status) (payload : List Byte),
    let rsp := respBytes opcode h st payload
    let t := answerRow h opcode (s, .done st payload)
    t.mb = { s.mb with
      order := s.mb.order ++ [.resp .host rsp]
      history := trimHist (s.mb.history ++ [{ seq := h.seq, opcode := opcode, crc := h.crc, resp := rsp }]) } ∧
    t.mb.history.length ≤ 16 ∧ (t.mb.history.getLast?.elim [] HistEntry.resp) = rsp ∧
    (histSize t.mb.history ≤ 524288 ∨ t.mb.history.length = 1) ∧
    (h.flags % 2 = 0 → t = { s with mb := t.mb }) ∧ EventsOnly { s with mb := t.mb } t ∧
    rsp.length = 32 + payload.length ∧ (∀ w, answerRow h opcode (s, .wait w) =
      { s with mb := { s.mb with order := s.mb.order ++ [.exec (rowRecord h opcode) w] } }))

/-- R5, R55, R56, R75: the writable registers of functions 1 and 3 take what is written to them, a one written to LEN_ERR or
OVERRUN clears it, a read-only register ignores a write, and the interrupt on DAT1 follows the enabled conditions. -/
def Obligations.RegisterWritesReachTheirRegisters : Prop :=
  (∀ (s : State) (v : Nat), fnUp s 1 = true →
    exec (.mbStatusW1c v) s = .next { s with mb := { s.mb with
      lenErr := s.mb.lenErr && ! v.testBit 5, overrun := s.mb.overrun && ! v.testBit 4 } }) ∧
  (∀ (s : State) (v : Nat), fnUp s 1 = true →
    exec (.registerWrite 1 0x200C v) s = .next { s with mb := { s.mb with intEn := BitVec.ofNat 3 v } } ∧
    exec (.registerWrite 1 0x2004 v) s = exec (.mbStatusW1c v) s ∧
    exec (.registerWrite 1 0x2000 v) s = exec (.mbDoorbellWrite v) s ∧
    exec (.registerWrite 1 0x2008 v) s = .next s ∧ exec (.registerWrite 1 0x2010 v) s = .next s) ∧
  (∀ (s : State) (v : Nat), fnUp s 3 = true →
    exec (.registerWrite 3 0x1004 v) s = .next { s with ev := { s.ev with intEn := v.testBit 0 } } ∧
    exec (.registerWrite 3 0x1000 v) s = .next s) ∧
  (∀ (s : State) (fn addr v : Nat), fnUp s fn = false → exec (.registerWrite fn addr v) s = .next s) ∧
  (∀ s : State, dat1 s = true ↔ s.sdio.ien.getLsbD 0 = true ∧
    ((s.sdio.ien.getLsbD 1 = true ∧ ((s.mb.intEn.getLsbD 0 = true ∧ headResponse s ≠ none) ∨
        (s.mb.intEn.getLsbD 1 = true ∧ cmdFree s ≠ 0) ∨
        (s.mb.intEn.getLsbD 2 = true ∧ (s.mb.lenErr = true ∨ s.mb.overrun = true ∨ s.boot.fwHalt = true)))) ∨
     (s.sdio.ien.getLsbD 3 = true ∧ s.ev.intEn = true ∧ evCount s ≠ 0)))

/-- R76: an event source is never held back: a record joins a FIFO that is not full and holds none back, and is counted and
dropped by a full one; once a read makes space, one EVENTS_LOST record that carries the count goes in before any newer
event. -/
def Obligations.FullEventFifoCountsAndReports : Prop :=
  (∀ (s : State) (e : EvRec), s.ev.fifo.length < 1024 → s.ev.lost = 0 →
    pushEvent s e = { s with ev := { s.ev with fifo := s.ev.fifo ++ [e] } }) ∧
  (∀ (s : State) (e : EvRec), 1024 ≤ s.ev.fifo.length →
    pushEvent s e = { s with ev := { s.ev with lost := s.ev.lost + 1 } }) ∧
  (∀ (s : State) (count : Nat) (e : EvRec) (rest : List EvRec), fnUp s 3 = true → s.ev.fifo = e :: rest →
    s.ev.fifo.length ≤ 1024 → s.ev.pos + count = 32 → 0 < count →
    ∃ t, exec (.eventRecordRead count) s = .next t ∧ t = { s with ev := t.ev, sdio := { s.sdio with data := t.sdio.data } } ∧
      t.sdio.data = (evBytes e).drop s.ev.pos ∧ t.ev.pos = 0 ∧ t.ev.lost = 0 ∧
      (s.ev.lost = 0 → t.ev.fifo = rest) ∧
      (0 < s.ev.lost → ∃ l, t.ev.fifo = rest ++ [l] ∧ l.code = 0x0002 ∧ l.arg = leBytes 4 (satTo 32 s.ev.lost)))

/-- R459, R463, R497, with the sink of R388 not set: an event takes the next ESEQ and the device time, joins the FIFO as its
newest record, and changes nothing beyond the FIFO but the trace. -/
def Obligations.EventTakesTimeAndSequence : Prop :=
  ∀ (s : State) (code cls unit : Nat) (arg : List Byte), s.ev.sink = none → s.ev.fifo.length < 1024 → s.ev.lost = 0 →
    let t := postEvent s code cls unit arg
    ∃ e, t = { s with ev := { s.ev with fifo := s.ev.fifo ++ [e], eseq := s.ev.eseq + 1 }, trace := t.trace } ∧
      e.t = s.time ∧ e.code = code ∧ e.cls = cls ∧ e.unit = unit ∧ e.eseq = s.ev.eseq % 256 ∧ e.origin = s.inst.id ∧
      e.arg = arg ∧ (evBytes e).length = 32

/-- R77: BULK_WRITE and BULK_READ open a transfer of their direction in the record's domain, and a second in the same
direction is refused with BUSY. R78, R187: the 64 bytes of a granule written to function 2 within a transfer that its target
admits stand at the next local address of the transfer, every other byte of memory is unchanged, and the transfer goes on.
R78: bytes read within a transfer are those of memory, in 64-byte pieces read under the transfer's domain; with no transfer
open bytes are discarded on write, read as zero, and counted. -/
def Obligations.BulkTransfersOpenAndMoveBytes : Prop :=
  (∀ (s : State) (h : CmdHdr) (addr len : Nat), Accepted 0x0102 h s → addr < 2 ^ 48 → 64 ≤ len → len ≤ 2 ^ 30 →
    len % 64 = 0 →
    (s.bulk.wr = none → answersOk (exec (.bulkWrite h addr len) s) h 0x0102
      { s with bulk := { s.bulk with wr := some (bulkNew addr len h.domain) } } []) ∧
    (s.bulk.wr ≠ none → exec (.bulkWrite h addr len) s = .next (answerRow h 0x0102 (s, .done .busy [])))) ∧
  (∀ (s : State) (h : CmdHdr) (addr len : Nat), Accepted 0x0103 h s → addr < 2 ^ 48 → 64 ≤ len → len ≤ 2 ^ 30 →
    len % 64 = 0 →
    (s.bulk.rd = none → answersOk (exec (.bulkRead h addr len) s) h 0x0103
      { s with bulk := { s.bulk with rd := some (bulkNew addr len h.domain) } } []) ∧
    (s.bulk.rd ≠ none → exec (.bulkRead h addr len) s = .next (answerRow h 0x0103 (s, .done .busy [])))) ∧
  (∀ (s : State) (x : BulkXfer) (data : List Byte), fnUp s 2 = true → fwUp s = true → s.bulk.wr = some x →
    x.part = [] → data.length = 64 → x.done + 64 < x.len → accessStatus s x.dom true (x.addr + x.done) 64 = .ok →
    ∃ t, exec (.bulkDataWrite data) s = .next t ∧
      DoubtOnly { s with mem := t.mem, marks := t.marks, eccBad := t.eccBad, wcache := t.wcache, eccCnt := t.eccCnt,
                         eccWin := t.eccWin, freeCnt := t.freeCnt,
                         bulk := { s.bulk with wr := some { x with done := x.done + 64 } } } t ∧
      ((x.addr + x.done) % 64 = 0 → t = { s with mem := t.mem, marks := t.marks, eccBad := t.eccBad, bulk := t.bulk }) ∧
      memRead t.mem (x.addr + x.done) 64 = data ∧
      (∀ a, (a < x.addr + x.done ∨ x.addr + x.done + 64 ≤ a) → memByte t.mem a = memByte s.mem a)) ∧
  (∀ (s0 s : State) (ecc : List EccHit) (x : BulkXfer), plant ecc s0 = s → fnUp s 2 = true → fwUp s = true →
    s.bulk.rd = some x → x.part = [] →
    x.done + 64 < x.len → accessStatus s x.dom false (x.addr + x.done) 64 = .ok →
    x.addr + x.done + 64 ≤ nodeBase →
    ∃ t, exec (.bulkDataRead 64 ecc) s0 = .next t ∧
      DoubtOnly { s with bulk := t.bulk, sdio := { s.sdio with data := t.sdio.data }, marks := t.marks, eccBad := t.eccBad,
                         wcache := t.wcache, eccCnt := t.eccCnt, eccWin := t.eccWin, freeCnt := t.freeCnt } t ∧
      ((∀ y ∈ s.eccBad, granOf y.addr ∉ gransOf (x.addr + x.done) 64) →
        t = { s with bulk := t.bulk, sdio := { s.sdio with data := t.sdio.data } }) ∧
      t.sdio.data = memRead s.mem (x.addr + x.done) 64 ∧ t.bulk.extraRd = s.bulk.extraRd) ∧
  (∀ (s0 s : State) (ecc : List EccHit) (count : Nat), plant ecc s0 = s → fnUp s 2 = true → fwUp s = true →
    s.bulk.rd = none →
    exec (.bulkDataRead count ecc) s0 = .next { s with
      bulk := { s.bulk with extraRd := s.bulk.extraRd + count }, sdio := { s.sdio with data := List.replicate count 0 } }) ∧
  (∀ (s : State) (data : List Byte), fnUp s 2 = true → fwUp s = true → s.bulk.wr = none →
    exec (.bulkDataWrite data) s = .next { s with bulk := { s.bulk with extraWr := s.bulk.extraWr + data.length } })

/-! ### The device, the channel table, firewalls and memory (chapters 1, 3, 7, 15, 20) -/

/-- R492: NOP answers and changes nothing, and DEVICE_INFO answers with the device's identity, the image's numbers, the
usable DDR5 capacity, the golden area and the season. R79, R81: CHANNEL_TABLE_SET takes a table that lies in usable DDR5,
and CHANNEL_INVALIDATE drops the cached copies of the entries it names and of no other, as long as no channel concerned
runs. R79 to R81: the entry of a channel is its cached copy, or else the 128 bytes of its place in DDR5; a channel beyond
the count is BAD_PARAM, a failing CHECK or another TYPE is BAD_ENTRY, a reserved field that is not zero BAD_FIELD, another
domain DENIED, and an accepted entry is the most recently used of at most 256 cached ones. -/
def Obligations.DeviceAndChannelCommandsHaveTheirEffect : Prop :=
  (∀ (s : State) (h : CmdHdr), Accepted 0x0000 h s → answersOk (exec (.nop h) s) h 0x0000 s []) ∧
  (∀ (s : State) (h : CmdHdr), Accepted 0x0001 h s → ∃ p, answersOk (exec (.deviceInfo h) s) h 0x0001 s p ∧
    p.length = 44 ∧ fieldAt p 4 4 = s.boot.svn % 2 ^ 32 ∧ fieldAt p 8 4 = otpSvn s.boot ∧ fieldAt p 14 2 = s.inst.id % 2 ^ 16 ∧
    fieldAt p 24 8 = s.ddr.usable % 2 ^ 64 ∧ fieldAt p 32 8 = goldenBase ∧ fieldAt p 40 1 = seasonIdx s.power.season) ∧
  (∀ (s : State) (h : CmdHdr) (base count : Nat), Accepted 0x0100 h s → base % 4096 = 0 → 1 ≤ count → count ≤ 4096 →
    base + count * 128 ≤ s.ddr.usable → anyChannelRuns s = false →
    answersOk (exec (.channelTableSet h base count) s) h 0x0100 { s with chans := { base := base, count := count, cache := [] } } []) ∧
  (∀ (s : State) (h : CmdHdr) (first count : Nat), Accepted 0x0101 h s → first < s.chans.count →
    first + count ≤ s.chans.count → (∀ i < count, channelRuns s (first + i) = false) →
    ∃ c, answersOk (exec (.channelInvalidate h first count) s) h 0x0101 { s with chans := { s.chans with cache := c } } [] ∧
      (∀ e, e ∈ c ↔ e ∈ s.chans.cache ∧ ¬ (first ≤ e.1 ∧ e.1 < first + count))) ∧
  (∀ (s : State) (h : CmdHdr) (first count : Nat), Accepted 0x0101 h s → first < s.chans.count →
    first + count ≤ s.chans.count → (∃ i < count, channelRuns s (first + i) = true) →
    exec (.channelInvalidate h first count) s = .next (answerRow h 0x0101 (s, .done .busy []))) ∧
  (∀ (s : State) (dom chan type off : Nat), s.chans.count ≤ chan →
    fetchEntry s dom chan type off = (s, .inl (.done .badParam (detail off)))) ∧
  (∀ (s : State) (dom chan type off : Nat) (e : List Byte), chan < s.chans.count →
    s.chans.cache.find? (fun x => x.1 == chan) = some (chan, e) →
    ((crc32c (e.take 124) ≠ fieldAt e 124 4 ∨ fieldAt e 0 1 ≠ type) →
      fetchEntry s dom chan type off = (s, .inl (.done .badEntry []))) ∧
    (∀ o, crc32c (e.take 124) = fieldAt e 124 4 → fieldAt e 0 1 = type → entryResvBad e = some o →
      fetchEntry s dom chan type off = (s, .inl (.done .badField (detailOf o chan 2)))) ∧
    (zeroAt e 6 2 = false → entryResvBad e ≠ none) ∧ (zeroAt e 120 4 = false → entryResvBad e ≠ none) ∧
    (crc32c (e.take 124) = fieldAt e 124 4 → fieldAt e 0 1 = type → entryResvBad e = none →
      fieldAt e 1 1 ≠ dom → fetchEntry s dom chan type off = (s, .inl (.done .denied []))) ∧
    (crc32c (e.take 124) = fieldAt e 124 4 → fieldAt e 0 1 = type → entryResvBad e = none →
      fieldAt e 1 1 = dom → ∃ c, c.length ≤ 256 ∧ c.head? = some (chan, e) ∧
        fetchEntry s dom chan type off = ({ s with chans := { s.chans with cache := c } }, .inr e)))

/-- R17, for a target on which no trace channel's grant stands (log entry 36): an access is allowed exactly when the
lowest-numbered enabled region that contains its first byte contains its last byte and has its domain's bit. -/
def Obligations.FirewallTakesTheLowestRegion : Prop :=
  ∀ (s : State) (t dom a len : Nat) (wr : Bool), s.fw.Pairwise (fun x y => x.1 < y.1) →
    (∀ e ∈ s.fw, e.1 % 64 ≠ 63) → traceGrants s t = [] →
    (fwAllows s t dom wr a len = true ↔ ∃ n < 64, (fwOf s t n).en = true ∧ fwHas (fwOf s t n) a = true ∧
      (∀ m < n, ¬ ((fwOf s t m).en = true ∧ fwHas (fwOf s t m) a = true)) ∧
      fwHas (fwOf s t n) (a + len - 1) = true ∧
      (if wr then (fwOf s t n).wr.getLsbD dom else (fwOf s t n).rd.getLsbD dom) = true)

/-- R19, R21, R492, R493: FIREWALL_SET writes the three registers of a region that is neither region 63 nor locked,
FIREWALL_GET reads a region back, and a locked region or a mask with a bit of domain 0 or 1 is refused with DENIED. -/
def Obligations.FirewallCommandsReadAndWriteRegions : Prop :=
  (∀ (s : State) (h : CmdHdr) (t n f base limit rd wr : Nat), Accepted 0x010A h s → f ≤ 3 → fwTargetOk t = true → n < 63 →
    base % 4096 = 0 → base < 2 ^ 48 → limit % 4096 = 0 → limit < 2 ^ 48 → rd < 65536 → wr < 65536 → rd % 4 = 0 → wr % 4 = 0 →
    ((fwOf s t n).lock = false → ∃ t', answersOk (exec (.firewallSet h t n f base limit rd wr) s) h 0x010A t' [] ∧
      t' = { s with fw := t'.fw } ∧
      fwRegs (fwOf t' t n) = leBytes 8 (base + bit01 (! f.testBit 1)) ++ leBytes 8 (limit + bit01 (f.testBit 0)) ++
        leBytes 8 (wr * 65536 + rd) ∧
      (∀ t2 n2, n2 < 64 → (t2 ≠ t ∨ n2 ≠ n) → fwOf t' t2 n2 = fwOf s t2 n2)) ∧
    ((fwOf s t n).lock = true →
      exec (.firewallSet h t n f base limit rd wr) s = .next (answerRow h 0x010A (s, .done .denied [])))) ∧
  (∀ (s : State) (h : CmdHdr) (t n : Nat), Accepted 0x010B h s → fwTargetOk t = true → n ≤ 63 →
    answersOk (exec (.firewallGet h t n 0) s) h 0x010B s (fwRegs (fwOf s t n)))

/-- R22, R398: an access any byte of which lies beyond the usable DDR5 capacity, in the upper quarter of a scratchpad's
stride or in no listed range is unmapped as a whole. R14, R18, R22: an access that its target does not admit stores nothing;
one that is denied is logged by FIREWALL_DENY with its domain, target and address, and reads as zeros; one beyond the map,
or at a stopped island, is not looked at further. -/
def Obligations.AccessesAreMappedWholeAndRefusedWhole : Prop :=
  (∀ (s : State) (a len : Nat), 0 < len → s.ddr.usable ≤ ddrEnd →
    (mapTarget s a len = some 0 ↔ a + len ≤ s.ddr.usable) ∧
    (mapTarget s a len = some 1 ↔ 0x004000000000 ≤ a ∧ a + len ≤ 0x004018000000) ∧
    (∀ c < 256, mapTarget s a len = some (0x100 + c) ↔
      0x004100000000 + c * 0x80000 ≤ a ∧ a + len ≤ 0x004100000000 + c * 0x80000 + 393216) ∧
    (mapTarget s a len = some 2 ↔ 0x004300000000 ≤ a ∧ a + len ≤ 0x004300800000) ∧
    (0x002000000000 ≤ a → a < 0x004000000000 → mapTarget s a len = none)) ∧
  (∀ (s : State) (dom a : Nat) (bs : List Byte) (poison : Bool),
    (accessStatus s dom true a bs.length ≠ .ok → (writeLocal s dom a bs poison).1.mem = s.mem ∧
      (writeLocal s dom a bs poison).1.marks = s.marks ∧
      (writeLocal s dom a bs poison).2 = accessStatus s dom true a bs.length) ∧
    (∀ n, accessStatus s dom false a n = .denied → (readLocal s dom a n).2.2 = List.replicate n 0 ∧
      (s.ev.sink = none → s.ev.fifo.length < 1024 → s.ev.lost = 0 → ∃ e t, mapTarget s a n = some t ∧
        (readLocal s dom a n).1.ev.fifo = s.ev.fifo ++ [e] ∧ e.code = 0x0003 ∧
        e.arg = leBytes 1 dom ++ [0] ++ leBytes 2 t ++ leBytes 8 a)) ∧
    (∀ n wr, mapTarget s a n = none → accessStatus s dom wr a n = .unmapped) ∧
    (∀ n wr t, mapTarget s a n = some t → islandRuns s (targetIsland t) = false → accessStatus s dom wr a n = .islandOff) ∧
    (∀ n, mapTarget s a n = some 3 → islandRuns s 1 = true → accessStatus s dom true a n = .denied))

/-- R187, R188: a write of whole granules by a unit that holds good bytes leaves their codes good; a poisoned write leaves
every granule it touches poisoned; a partial write leaves a granule good only where it was good; every other granule keeps
its code. -/
def Obligations.WritesCarryTravelCodes : Prop :=
  ∀ (s : State) (a : Nat) (bs : List Byte) (poison : Bool) (g : Nat),
    let t := putBytes s a bs poison
    let touched := bs ≠ [] ∧ a < g * 64 + 64 ∧ g * 64 < a + bs.length
    (¬ touched → markOf t g = markOf s g) ∧
    (touched → poison = true → goodGran t g = false ∧ failingGran t g = false) ∧
    (touched → poison = false → a ≤ g * 64 → g * 64 + 64 ≤ a + bs.length → goodGran t g = true) ∧
    (touched → poison = false → (g * 64 < a ∨ a + bs.length < g * 64 + 64) →
      (goodGran s g = true → goodGran t g = true) ∧ (goodGran s g = false → goodGran t g = false ∧ failingGran t g = false)) ∧
    (∀ c, memByte t.mem c = if h : a ≤ c ∧ c - a < bs.length then bs[c - a] else memByte s.mem c)

/-- R397, R398, R400: DDR_INIT of a supported configuration starts training, its success clears DDR5 and maps 31/32 of what
is installed, and its failure names the step and leaves the capacity at zero. -/
def Obligations.DdrInitMapsTheUsableCapacity : Prop :=
  (∀ (s : State) (h : CmdHdr) (cfg : List Byte), Accepted 0x0109 h s → cfg.length = 16 → zeroAt cfg 4 12 = true →
    ddrSupported (fieldAt cfg 0 1) (fieldAt cfg 1 1) (fieldAt cfg 2 1) = true → 1 ≤ fieldAt cfg 3 1 → fieldAt cfg 3 1 ≤ 24 →
    s.ddr.ready = false → s.ddr.training = false →
    answersLater (exec (.ddrInit h cfg) s) h 0x0109 { s with ddr := { s.ddr with training := true, cfg := cfg } } .ddrInit) ∧
  (∀ (s : State), s.ddr.training = true → islandRuns s 50 = true → ∃ t, exec (.ddrInitDone .ok) s = .next t ∧
    t.ddr = { s.ddr with training := false, ready := true, usable := t.ddr.usable } ∧
    t.ddr.usable = ddrUsable (fieldAt s.ddr.cfg 0 1) (fieldAt s.ddr.cfg 1 1) (fieldAt s.ddr.cfg 2 1) ∧
    (Memory.wf s.mem = true → ∀ a, memByte t.mem a = if a < t.ddr.usable then 0 else memByte s.mem a) ∧
    completesWait s t .ddrInit .ok (leBytes 8 t.ddr.usable)) ∧
  (∀ (s : State) (c b k : Nat), s.ddr.training = true → islandRuns s 50 = true →
    ∃ t, exec (.ddrInitDone (.fail c b k)) s = .next t ∧ t.ddr = { s.ddr with training := false } ∧ t.mem = s.mem) ∧
  ddrUsable 0 16 1 = 62 * 2 ^ 30 ∧ ddrUsable 0 16 2 = 124 * 2 ^ 30 ∧ ddrUsable 0 24 1 = 93 * 2 ^ 30 ∧
  ddrUsable 0 32 1 = 124 * 2 ^ 30 ∧ ddrUsable 1 16 1 = 31 * 2 ^ 30 ∧ ddrUsable 1 16 2 = 62 * 2 ^ 30 ∧
  ddrUsable 1 24 1 * 2 = 93 * 2 ^ 30 ∧ ddrUsable 1 24 2 = 93 * 2 ^ 30 ∧ ddrUsable 1 32 1 = 62 * 2 ^ 30 ∧
  ddrUsable 1 32 2 = 124 * 2 ^ 30

/-- R177 to R179, R402, R404, R405: refresh, temperature polls, scrubbing and ALERT_N count, poison and report as their
rules say; the bytes of memory stay, and what changes beside the unit's own counts are events and doubt. -/
def Obligations.MemoryUpkeepCountsPoisonsAndReports : Prop :=
  (∀ (s : State) (ch : Nat), ddrUp s = true → ch < 4 → ∃ t, exec (.ddrRefresh ch) s = .next t ∧
    t = { s with ddr := { s.ddr with refreshes := s.ddr.refreshes.set ch (nth s.ddr.refreshes ch + 1) }, trace := t.trace } ∧
    counterOf t 7 ch 3 = min (counterOf s 7 ch 3 + 1) (2 ^ 48 - 1)) ∧
  (∀ (s : State) (ch rank : Nat) (temp : Int), ddrUp s = true → ch < 4 → rank < 2 →
    ∃ t, exec (.ddrMr4Poll ch rank temp) s = .next t ∧
      EventsOnly { s with ddr := { s.ddr with hot := s.ddr.hot.set (2 * ch + rank) (decide (85 < temp)) } } t ∧
      (temp ≤ 95 → t.ev = s.ev) ∧ (95 < temp → t.ev.eseq = s.ev.eseq + 1 ∨ s.ev.sink ≠ none)) ∧
  (∀ (s : State) (ch : Nat), ddrUp s = true → ch < 4 → ∃ t, exec (.ddrAlert ch) s = .next t ∧ DoubtOnly s t ∧
    ∃ c ∈ t.safety.conds, isCond rowDevice kindDevice 0 c = true ∧ c.st ≠ .clear) ∧
  (∀ (s : State) (a rank bank row : Nat) (code : Bool) (f : EccFind), ddrUp s = true → a / 64 * 64 + 64 ≤ s.ddr.usable →
    (∀ y ∈ s.eccBad, y.addr / 64 ≠ a / 64) →
    ∃ t, exec (.ddrScrubGranule a code f rank bank row) s = .next t ∧ 
      DoubtOnly { s with ddr := { s.ddr with scrubbed := s.ddr.scrubbed + 1 }, marks := t.marks, eccBad := t.eccBad,
                         eccCnt := t.eccCnt, eccWin := t.eccWin } t ∧
      (f ≠ .uncorrectable → t.marks = s.marks) ∧
      (f = .uncorrectable → code = false → markOf t (a / 64) = BitVec.ofNat 16 0x6C39 ∧ ∀ g, g ≠ a / 64 → markOf t g = markOf s g) ∧
      (f = .uncorrectable → code = true → ∀ i < 32, markOf t ((ddrAddr (ddrChan a) (ddrOffset a / 2048 * 2048 + 64 * i)) / 64) =
        BitVec.ofNat 16 0x6C39)) ∧
  (∀ (s : State) (bank row : Nat) (f : EccFind), islandRuns s 1 = true → bank ≤ 47 → row ≤ 131071 →
    s.ddr.usable ≤ ddrEnd → (∀ y ∈ s.eccBad, y.addr / 64 ≠ (0x004000000000 + (row * 48 + bank) * 64) / 64) →
    ∃ t, exec (.fsScrubRow bank row f) s = .next t ∧
      DoubtOnly { s with marks := t.marks, eccBad := t.eccBad, eccCnt := t.eccCnt, eccWin := t.eccWin } t ∧
      counted s t 10 0 4 1 ∧
      (∀ y ∈ t.eccBad, y.found = .corrected → y.addr / 64 ≠ (0x004000000000 + (row * 48 + bank) * 64) / 64) ∧
        (f ≠ .uncorrectable → t.marks = s.marks) ∧
      (f = .uncorrectable → markOf t ((0x004000000000 + (row * 48 + bank) * 64) / 64) = BitVec.ofNat 16 0x6C39) ∧
      (f = .corrected → tabGet 0 t.eccCnt bank = tabGet 0 s.eccCnt bank + 1))

/-- R177, R178, R318, R343, R402, R186: an ECC error that a read meets, in DDR5, the frame store, the trace buffer, a
scratchpad, the sequencer's tables or the weight cache. A corrected one is counted and changes no code; its bank reports the
first in each counter window. An uncorrectable one poisons its granule and no other, or drops its line, and opens the doubt
of the device. Nothing else changes. An uncorrectable error of memory stands, and is met again by every later read, until
its granule is written whole. -/
def Obligations.EccErrorsCountPoisonAndReport : Prop :=
  (∀ (s : State) (x : EccHit), ∃ t, eccFound s x = t ∧
    DoubtOnly { s with marks := t.marks, wcache := t.wcache, eccCnt := t.eccCnt, eccWin := t.eccWin, freeCnt := t.freeCnt } t ∧
    (x.found = .clean → t = s) ∧ (x.found = .corrected → t.marks = s.marks ∧ t.wcache = s.wcache ∧ t.safety = s.safety)) ∧
  (∀ (s : State) (x : EccHit) (k : Nat), mapTarget s (x.addr / 64 * 64) 64 = some k → x.place = .memory →
    (k ≤ 3 ∨ 0x100 ≤ k) →
    (x.found = .uncorrectable → doubtOpen (eccFound s x) rowDevice kindDevice 0 ∧
      markOf (eccFound s x) (x.addr / 64) = BitVec.ofNat 16 0x6C39 ∧
      ∀ g, g ≠ x.addr / 64 → markOf (eccFound s x) g = markOf s g) ∧
    (x.found = .corrected →
      (let key := if k = 0 then 65536 + x.addr / 256 % 4 else if k = 1 then (x.addr - 0x004000000000) / 64 % 48
         else if k = 2 then 196608 else if k = 3 then 196610 else 131072 + (k - 0x100)
       tabGet 0 (eccFound s x).eccCnt key = tabGet 0 s.eccCnt key + 1 ∧
       (tabGet? s.eccWin key = some (s.time / 4000000) → (eccFound s x).ev = s.ev) ∧
       (tabGet? s.eccWin key ≠ some (s.time / 4000000) → (eccFound s x).ev.eseq = s.ev.eseq + 1 ∨ s.ev.sink ≠ none))) ∧
    (x.found = .corrected → 0x100 ≤ k → counted s (eccFound s x) 1 (k - 0x100) 7 1) ∧
    (x.found = .corrected → k = 1 → counted s (eccFound s x) 10 0 3 1) ∧
    (x.found = .corrected → k = 0 → counted s (eccFound s x) 7 (x.addr / 256 % 4) 4 1)) ∧
  (∀ (s : State) (x : EccHit) (l : WLine), x.place = .line → l ∈ s.wcache → l.addr = x.addr / 64 * 64 →
    (x.found = .corrected → (eccFound s x).ev = s.ev ∧ tabGet 0 (eccFound s x).eccCnt 196609 = tabGet 0 s.eccCnt 196609 + 1) ∧
    (x.found = .uncorrectable → (eccFound s x).marks = s.marks ∧ doubtOpen (eccFound s x) rowDevice kindDevice 0 ∧
      ∀ m, m ∈ (eccFound s x).wcache ↔ m ∈ s.wcache ∧ m.addr ≠ x.addr / 64 * 64)) ∧
  (∀ (s : State) (x : EccHit) (p : Nat → Bool), s.eccBad = [x] →
    (p (x.addr / 64) = true → meet p s = { eccFound s x with
      eccBad := if staysAfter s x = true then [x] else [] }) ∧
    (p (x.addr / 64) = false → meet p s = s)) ∧
  (∀ (s : State) (x : EccHit), s.eccBad = [] → x.found ≠ .clean → (plant [x] s).eccBad = [x]) ∧
  (∀ (s : State) (x : EccHit), x.found = .uncorrectable → x.place = .memory → staysAfter s x = true) ∧
  (∀ (s : State) (x : EccHit) (a : Nat) (bs : List Byte) (poison : Bool), x ∈ (putBytes s a bs poison).eccBad ↔
    x ∈ s.eccBad ∧ (x.place = .rule ∨ ¬ (a ≤ x.addr / 64 * 64 ∧ x.addr / 64 * 64 + 64 ≤ a + bs.length)))

/-- R181 to R183: the operations on a region flag. SET on a clear flag puts one release on every bound consumer and takes
FRAME modulo 2^16; RELEASE takes one off; REARM adds one, 15 at most; an operation in conflict leaves the flag as it was;
and no other flag changes. -/
def Obligations.FlagOperationsFollowTheirTable : Prop :=
  ∀ (s : State) (n f j : Nat), j < 8 →
    (∀ k, k ≠ n → flagOf (flagSet s n f) k = flagOf s k ∧ flagOf (flagRelease s n j) k = flagOf s k ∧
      flagOf (flagRearm s n) k = flagOf s k) ∧
    (flagIsSet (flagOf s n) = true → flagOf (flagSet s n f) n = flagOf s n) ∧
    (flagIsSet (flagOf s n) = false →
      pendOf (flagOf (flagSet s n f) n) j = (if (flagOf s n).cmask.getLsbD j then 1 else 0) ∧
      (flagOf (flagSet s n f) n).frame = BitVec.ofNat 16 f ∧ (flagOf (flagSet s n f) n).cmask = (flagOf s n).cmask) ∧
    (pendOf (flagOf s n) j = 0 → flagOf (flagRelease s n j) n = flagOf s n) ∧
    (pendOf (flagOf s n) j ≠ 0 →
      pendOf (flagOf (flagRelease s n j) n) j = pendOf (flagOf s n) j - 1 ∧
      ∀ i < 8, i ≠ j → pendOf (flagOf (flagRelease s n j) n) i = pendOf (flagOf s n) i) ∧
    (pendOf (flagOf (flagRearm s n) n) j =
      if (flagOf s n).cmask.getLsbD j then min 15 (pendOf (flagOf s n) j + 1) else pendOf (flagOf s n) j) ∧
    (flagOf (flagRearm s n) n).frame = (flagOf s n).frame

/-! ### Tensors (chapter 12) -/

/-- R305, R309: TENSOR_CHECK of a descriptor that passes the checks of its use answers with its footprint and, for a sharded
tensor, the part coordinates of the device it names; TENSOR_LOCATE answers with the device that holds a global index and the
index there; neither changes anything. One that fails answers the status and field of the first failing check. -/
def Obligations.TensorCommandsCheckAndLocate : Prop :=
  (∀ (s : State) (h : CmdHdr) (use device : Nat) (u : TUse) (td : List Byte), Accepted 0x0200 h s → device ≤ 1023 →
    useOf use = some u →
    (tdCheck s (tdesc td) u h.domain device = none → ∃ p, answersOk (exec (.tensorCheck h use 0 device td) s) h 0x0200 s p ∧
      p.length = 24 ∧ fieldAt p 0 8 = (footprint (tdesc td)).1.toNat % 2 ^ 64 ∧
      fieldAt p 8 8 = (footprint (tdesc td)).2.toNat % 2 ^ 64 ∧
      ∀ d < 6, fieldAt p (16 + d) 1 = if isSharded (tdesc td) then partCoord (tdesc td) device d % 256 else 0) ∧
    (∀ st off, tdCheck s (tdesc td) u h.domain device = some (st, off) →
      exec (.tensorCheck h use 0 device td) s = .next (answerRow h 0x0200 (s, .done st (detail (4 + off)))))) ∧
  (∀ (s : State) (h : CmdHdr) (g : List Nat) (td : List Byte), Accepted 0x0201 h s →
    tdCheck s (tdesc td) .read h.domain s.inst.id = none → isSharded (tdesc td) = true →
    (∀ d < 6, if d < (tdesc td).ndim then nth g d < nth (tdesc td).gsize d else nth g d = 0) →
    ∃ p, answersOk (exec (.tensorLocate h g td) s) h 0x0201 s p ∧ p.length = 36 ∧
      fieldAt p 0 2 = ((List.range (tdesc td).ndim).foldl (fun a d => a +
        partOfIndex (tdesc td) s.inst.id d (nth g d) * partsBelow (tdesc td) d) (tdesc td).devBase) % 65536 ∧
      ∀ d < (tdesc td).ndim, fieldAt p (4 + 4 * d) 4 = localIndex (tdesc td) d (nth g d) % 2 ^ 32)

/-- R301 to R303: every element of a valid descriptor lies within its footprint, whatever its layout, type and the signs of
its strides. -/
def Obligations.FootprintHoldsEveryElement : Prop :=
  ∀ (t : TDesc) (dev : Nat) (i : List Nat), tdParam t dev = none → (∀ d < t.ndim, ix i d < nth t.size d) →
    (footprint t).1 ≤ (elemAddr t i).1 ∧ (elemAddr t i).1 + elemBytes t.etype - 1 ≤ (footprint t).2

/-- R306: a LINEAR descriptor that passes the write test holds no two elements in one byte: the storage of different indices
is disjoint. -/
def Obligations.WriteTestKeepsElementsApart : Prop :=
  ∀ (t : TDesc) (dev : Nat) (i j : List Nat), tdParam t dev = none → isWritable t = true → t.layout = 0 → t.etype ≠ 1 →
    tdAlias t = none → (∀ d < t.ndim, ix i d < nth t.size d) → (∀ d < t.ndim, ix j d < nth t.size d) →
    (∃ d < t.ndim, ix i d ≠ ix j d) →
    (elemAddr t i).1 + elemBytes t.etype ≤ (elemAddr t j).1 ∨ (elemAddr t j).1 + elemBytes t.etype ≤ (elemAddr t i).1

/-- R308: along a BLOCK or CYCLIC dimension every global index lies in one part, at a local index of that part's extent, and
the two give the global index back. R324: the kind of a move gives a permutation of its dimensions, or is refused. -/
def Obligations.ShardPartsAndMoveKindsAreOneToOne : Prop :=
  (∀ (t : TDesc) (dev d g : Nat), g < nth t.gsize d →
    (shardOf t d = 1 → (partsOf t d - 1) * shardBlock t d < nth t.gsize d →
      partOfIndex t dev d g < partsOf t d ∧ localIndex t d g < shardSize t d (partOfIndex t dev d g) ∧
      partOfIndex t dev d g * shardBlock t d + localIndex t d g = g) ∧
    (shardOf t d = 2 → partsOf t d ≤ nth t.gsize d →
      partOfIndex t dev d g < partsOf t d ∧ localIndex t d g < shardSize t d (partOfIndex t dev d g) ∧
      localIndex t d g * partsOf t d + partOfIndex t dev d g = g) ∧
    (shardOf t d = 0 → partsOf t d = 1 → partOfIndex t dev d g = 0 ∧ localIndex t d g = g ∧ shardSize t d 0 = nth t.gsize d)) ∧
  (∀ (kind perm ndim : Nat) (p : List Nat), permOf kind perm ndim = some p → p.Perm (List.range ndim))

/-! ### DMA channels and streams (chapter 13) -/

/-- R320, R322, R330, R333, R342: DMA_START runs a ring from HEAD 0, or from where it stood with RESUME; DMA_KICK wakes a
parked channel or is held; DMA_STOP ends an idle ring at once and answers with HEAD, and waits for the descriptor in
progress; WCACHE_INVALIDATE drops the lines of its range and no other. -/
def Obligations.DmaCommandsDriveRings : Prop :=
  (∀ (s s' : State) (h : CmdHdr) (c f : Nat) (e : List Byte), Accepted 0x0104 h s → f ≤ 1 → c ≤ 1023 →
    fetchEntry s h.domain c 1 0 = (s', .inr e) → dmaBody e = none → fieldAt e 8 1 = 0 →
    (mapTarget s (fieldAt e 16 8) (64 * 2 ^ fieldAt e 9 1) = some 0 ∨
      mapTarget s (fieldAt e 16 8) (64 * 2 ^ fieldAt e 9 1) = some 1) →
    (∀ x, tabGet? s.dma c = some x → x.running = false ∧ x.run = none) → (∀ x ∈ s.dma, x.1 = c → tabGet? s.dma c = some x.2) →
    graphOwned s (fieldAt e 2 2) = false → engineChans s (fieldAt e 2 2) < 32 →
    engineTags s (fieldAt e 2 2) + fieldAt e 12 2 ≤ 256 → (ringFit s (fieldAt e 10 2)).1 = true →
    islandRuns s (2 + fieldAt e 2 2 / 2) = true →
    ∃ x, answersOk (exec (.dmaStart h c f) s) h 0x0104 (setDma s' c x) [] ∧
      x.running = true ∧ x.parked = false ∧ x.ring = true ∧ x.engine = fieldAt e 2 2 ∧ x.dom = h.domain ∧
      x.ringBase = fieldAt e 16 8 ∧ x.ringLog = fieldAt e 9 1 ∧ x.share = fieldAt e 10 2 ∧ x.tags = fieldAt e 12 2 ∧
      x.run = none ∧ (f = 0 → x.head = 0) ∧
      (f = 1 → x.head = (tabGet? s.dma c).elim 0 (fun y => y.head % 2 ^ fieldAt e 9 1))) ∧
  (∀ (s : State) (h : CmdHdr) (c : Nat) (x : DmaChan), Accepted 0x0106 h s → c < s.chans.count → ringAt s c = some x →
    answersOk (exec (.dmaKick h c 0) s) h 0x0106
      (setDma s c (if x.parked then { x with parked := false } else { x with kick := true })) []) ∧
  (∀ (s : State) (h : CmdHdr) (c : Nat) (x : DmaChan), Accepted 0x0105 h s → c < s.chans.count → ringAt s c = some x →
    (x.run = none → answersOk (exec (.dmaStop h c 0) s) h 0x0105
      (setDma s c { x with running := false, parked := false, kick := false }) (leBytes 4 x.head)) ∧
    (∀ r, x.run = some r → ∃ s' x', answersLater (exec (.dmaStop h c 0) s) h 0x0105 s' (.dmaStop c) ∧
      tabGet? s'.dma c = some x' ∧ x' = { x with stopping := true, run := x'.run } ∧
      (∀ k, k ≠ c → tabGet? s'.dma k = tabGet? s.dma k) ∧
      DoubtOnly { s with dma := s'.dma, mem := s'.mem, marks := s'.marks, eccBad := s'.eccBad, wcache := s'.wcache,
                         eccCnt := s'.eccCnt, eccWin := s'.eccWin, freeCnt := s'.freeCnt,
                         inst := { s.inst with tagWait := s'.inst.tagWait } } s' ∧
      ∀ a, (∀ es, elemsOf r = some es → ∀ e ∈ moveCells [] (tdesc r.dst).etype s.mem es, e.1 ≠ a) →
        memByte s'.mem a = memByte s.mem a)) ∧
  (∀ (s : State) (h : CmdHdr) (c : Nat), s.chans.count ≤ c →
    (Accepted 0x0105 h s → exec (.dmaStop h c 0) s = .next (answerRow h 0x0105 (s, .done .badParam (detail 0)))) ∧
    (Accepted 0x0106 h s → exec (.dmaKick h c 0) s = .next (answerRow h 0x0106 (s, .done .badParam (detail 0))))) ∧
  (∀ (s : State) (h : CmdHdr) (a len : Nat), Accepted 0x0108 h s →
    ∃ w, answersOk (exec (.wcacheInvalidate h a len) s) h 0x0108 { s with wcache := w } [] ∧
      ∀ l, l ∈ w ↔ l ∈ s.wcache ∧ (l.addr + 64 ≤ a ∨ a + len ≤ l.addr))

/-- R330, R325, R326: a ring channel that finds OWN = 0 at HEAD parks; one that finds a descriptor of its own, with both
tensor descriptors readable and every check passed, begins its move: the descriptor is in progress, with one read
outstanding for each source granule. Nothing but the channel and the trace changes. R331, R332: when a descriptor of a ring
ends with OK, its granule is written back with OWN = 0, STATUS, BYTES, OOB and T_DONE, HEAD advances modulo the ring, the
channel goes on, and no other byte of memory changes. R335: one of a node's list that ends with OK lets the node go on with
its next descriptor, or completes the node's work after the last. -/
def Obligations.RingDescriptorsStartParkAndWriteBack : Prop :=
  (∀ (s0 s : State) (ecc : List EccHit) (c : Nat) (x : DmaChan), plant ecc s0 = s → tabGet? s.dma c = some x →
    x.running = true → x.ring = true → x.parked = false → x.stopping = false → x.run = none → engineRuns s x.engine = true →
    ReadsClean s x.dom (ringDesc x) 64 →
    let d := viewBytes s (ringDesc x) 64
    (fieldAt d 0 1 % 2 = 0 →
      exec (.dmaDescriptorStart c ecc) s0 = .next (setDma s c { x with parked := true, kick := false })) ∧
    (let src := viewBytes s (fieldAt d 8 8) 128
     let dst := viewBytes s (fieldAt d 16 8) 128
     fieldAt d 0 1 % 2 = 1 → descFields d = none → descAligned d = none →
      ReadsClean s x.dom (fieldAt d 8 8) 128 → ReadsClean s x.dom (fieldAt d 16 8) 128 →
      moveCheck s x.dom (fieldAt d 1 1) (fieldAt d 4 4) ((fieldAt d 0 1).testBit 2) (tdesc src) (tdesc dst) = none →
      isRemote s (tdesc src) = false →
      ∃ t r, exec (.dmaDescriptorStart c ecc) s0 = .next t ∧ t = { s with dma := t.dma, trace := t.trace } ∧
        tabGet? t.dma c = some { x with run := some r } ∧ (∀ k, k ≠ c → tabGet? t.dma k = tabGet? s.dma k) ∧
        r.busy = true ∧ r.desc = d ∧ r.src = src ∧ r.dst = dst ∧ r.written = false ∧ r.status = .ok ∧ r.got = [] ∧
        ∃ perm, permOf (fieldAt d 1 1) (fieldAt d 4 4) (tdesc src).ndim = some perm ∧
          r.todo = moveSrcGrans (tdesc src) (moveElems (tdesc src) (tdesc dst) perm (offsAt d 24) (offsAt d 36)) ∧
          r.reads = r.todo.length) ∧
    (∀ st off, fieldAt d 0 1 % 2 = 1 → (descFields d).or (descAligned d) = some (st, off) →
      ∃ t r, exec (.dmaDescriptorStart c ecc) s0 = .next t ∧ t = { s with dma := t.dma, trace := t.trace } ∧
        tabGet? t.dma c = some { x with run := some r } ∧ r.status = st ∧ r.reads = 0 ∧ r.writes = 0 ∧ r.bytes = 0)) ∧
  (∀ (s : State) (c : Nat) (x : DmaChan) (r : DmaRun), tabGet? s.dma c = some x → x.run = some r → r.node = none →
    r.busy = true → r.reads = 0 → r.writes = 0 → r.written = true → r.status = .ok → r.bad = false → r.mism = 0 →
    r.desc.length = 64 → engineRuns s x.engine = true → x.stopping = false → accessStatus s x.dom true (ringDesc x) 64 = .ok →
    ringDesc x % 64 = 0 →
    ∃ t, exec (.dmaDescriptorEnd c) s = .next t ∧
      tabGet? t.dma c = some { x with head := (x.head + 1) % 2 ^ x.ringLog, run := none } ∧
      (∀ k, k ≠ c → tabGet? t.dma k = tabGet? s.dma k) ∧
      memRead t.mem (ringDesc x) 64 = writtenBack r.desc .ok r.bytes (oobWord r) s.time ∧
      (∀ a, (a < ringDesc x ∨ ringDesc x + 64 ≤ a) → memByte t.mem a = memByte s.mem a) ∧
      EventsOnly { s with mem := t.mem, marks := t.marks, eccBad := t.eccBad, dma := t.dma } t) ∧
  (∀ (s : State) (c : Nat) (x : DmaChan) (r : DmaRun) (n : Nat), tabGet? s.dma c = some x → x.run = some r → r.node = some n →
    r.busy = true → r.reads = 0 → r.writes = 0 → r.written = true → r.status = .ok → r.bad = false → r.mism = 0 →
    engineRuns s x.engine = true → x.stopping = false →
    (r.index + 1 < fieldAt (nodeDesc s n) 1 1 → ∃ t r', exec (.dmaDescriptorEnd c) s = .next t ∧
      t = setDma s c { x with run := some r' } ∧ r'.busy = false ∧ r'.index = r.index + 1 ∧ r'.node = some n ∧ r'.f = r.f ∧
      r'.totalBytes = r.totalBytes + r.bytes) ∧
    (fieldAt (nodeDesc s n) 1 1 ≤ r.index + 1 → ∃ t, exec (.dmaDescriptorEnd c) s = .next t ∧
      tabGet? t.dma c = some { x with run := none } ∧ t.mem = s.mem ∧
      (∀ nd q, tabGet? s.nodes n = some nd → nd.run = some q → (tabGet? t.nodes n).bind (·.run) = some { q with unitDone := true })))

/-- R17, R19, R333, R338: the return of one of several outstanding local reads of a move takes the granule as it stands
then, checked as it arrives at its target; a read that its target refuses ends the descriptor with the refusal's status, and
nothing further is asked for; with the channel being stopped the data of a read are discarded and counted. R325, R328: the
return of the last one writes the destination: the bytes of the elements it names and no other byte of memory. -/
def Obligations.DmaReadReturnsThenWrites : Prop :=
  ∀ (s0 s : State) (c : Nat) (x : DmaChan) (r : DmaRun) (ecc : List EccHit), plant ecc s0 = s → tabGet? s.dma c = some x →
    x.run = some r → r.busy = true → isRemote s (tdesc r.src) = false → engineRuns s x.engine = true →
    (∀ y ∈ s.eccBad, r.todo.head? ≠ some (y.addr / 64)) →
    (x.stopping = true → 1 ≤ r.reads → ∃ t, exec (.dmaReadReturn c ecc) s0 = .next t ∧
      t = { s with dma := t.dma, trace := t.trace } ∧
      tabGet? t.dma c = some { x with run := some { r with reads := r.reads - 1 } } ∧
      counted s t 2 x.engine 1 1 ∧ counted s t 2 x.engine 6 64) ∧
    (∀ g rest, r.todo = g :: rest → tabGet? r.got g = none → x.stopping = false → (fieldAt r.desc 0 1).testBit 2 = false →
      r.status = .ok →
      let got := tabSet g (viewBytes s (g * 64) 64, (markOf s g).toNat) r.got
      (2 ≤ r.reads → accessStatus s x.dom false (g * 64) 64 = .ok → ∃ t, exec (.dmaReadReturn c ecc) s0 = .next t ∧
        t = { s with dma := t.dma, trace := t.trace } ∧ counted s t 2 x.engine 1 1 ∧
        tabGet? t.dma c = some { x with run := some { r with reads := r.reads - 1, todo := rest, got := got } }) ∧
      (∀ st, 1 ≤ r.reads → accessStatus s x.dom false (g * 64) 64 = st → st ≠ .ok →
        ∃ t r', exec (.dmaReadReturn c ecc) s0 = .next t ∧ tabGet? t.dma c = some { x with run := some r' } ∧
          r'.status = st ∧ r'.todo = [] ∧ r'.desc = r.desc ∧ r'.written = r.written ∧
          (∀ k, k ≠ c → tabGet? t.dma k = tabGet? s.dma k) ∧
          DoubtOnly { s with dma := t.dma, mem := t.mem, marks := t.marks, eccBad := t.eccBad, wcache := t.wcache,
                             eccCnt := t.eccCnt, eccWin := t.eccWin, freeCnt := t.freeCnt,
                             inst := { s.inst with tagWait := t.inst.tagWait } } t ∧
          ∀ a, (∀ es, elemsOf r = some es → ∀ e ∈ moveCells [] (tdesc r.dst).etype s.mem es, e.1 ≠ a) →
            memByte t.mem a = memByte s.mem a) ∧
      (∀ es, r.reads = 1 → rest = [] → accessStatus s x.dom false (g * 64) 64 = .ok → isRemote s (tdesc r.dst) = false →
        elemsOf r = some es →
        ∀ cs, cs = moveCells (got.foldl (fun m e => memWrite m (e.1 * 64) e.2.1) []) (tdesc r.dst).etype s.mem es →
          firstBar s x.dom true (cellGrans cs) = none →
          ∃ t r', exec (.dmaReadReturn c ecc) s0 = .next t ∧ tabGet? t.dma c = some { x with run := some r' } ∧
            (∀ k, k ≠ c → tabGet? t.dma k = tabGet? s.dma k) ∧
            r'.reads = 0 ∧ r'.written = true ∧ r'.desc = r.desc ∧ r'.status = .ok ∧
            r'.bytes = (cs.map (·.1)).eraseDups.length ∧ t.mem = cellsInto s.mem cs ∧
            DoubtOnly { s with dma := t.dma, mem := t.mem, marks := t.marks, eccBad := t.eccBad, wcache := t.wcache,
                               eccCnt := t.eccCnt, eccWin := t.eccWin, freeCnt := t.freeCnt } t ∧
            ∀ a, (∀ e ∈ cs, e.1 ≠ a) → memByte t.mem a = memByte s.mem a))

/-- R344 to R347: a stream's block starts when the flag of its slot is clear and its checks pass; a finished block advances
the stream and sets the flag of its slot; STREAM_REARM takes a new BASE from a block that has not started; and the end of a
cancellation leaves the stream idle, counts what was discarded and reports it. -/
def Obligations.StreamsMoveBlocksAndCancel : Prop :=
  (∀ (s : State) (k : Nat) (x : StreamSt) (f0 : Nat), tabGet? s.streams k = some x → streamF0 s x = some f0 →
    x.active = true → x.halted = false → x.cancelling = false → x.run = none → engineRuns s x.engine = true →
    flagIsSet (flagOf s (x.flag0 + streamSlot x f0 x.next)) = false →
    tabGet? s.dma x.chan = none → streamOfChan s x.chan = some (k, x) →
    let src := withBase x.srcTd (streamBase x x.next)
    let dst := withBase x.dstTd (fieldAt x.dstTd 8 8 + streamSlot x f0 x.next * x.dstPitch)
    moveCheck s x.dom x.kind x.perm x.wcache (tdesc src) (tdesc dst) = none →
    ∃ t, exec (.streamBlockStart k) s = .next t ∧
      ((tabGet? t.streams k).bind (·.run)).elim False (fun r => r.index = x.next ∧ r.f = f0 + x.next ∧ r.src = src ∧ r.dst = dst)) ∧
  (∀ (s : State) (k : Nat) (x : StreamSt) (r : DmaRun), tabGet? s.streams k = some x → x.run = some r → r.busy = true →
    r.reads = 0 → r.writes = 0 → r.written = true → r.status = .ok → r.bad = false → r.mism = 0 → x.cancelling = false →
    engineRuns s x.engine = true →
    let fl := x.flag0 + r.f % 2 ^ x.nbufLog
    ∃ t, exec (.streamBlockDone k) s = .next t ∧
      tabGet? t.streams k = some { x with run := none, next := r.index + 1, unread := tabSet (r.f % 2 ^ x.nbufLog) r.bytes x.unread } ∧
      t.mem = s.mem ∧ (flagIsSet (flagOf s fl) = false → (flagOf s fl).cmask ≠ 0 → flagIsSet (flagOf t fl) = true)) ∧
  (∀ (s : State) (h : CmdHdr) (k ja base : Nat) (x : StreamSt), Accepted 0x0107 h s → tabGet? s.streams k = some x →
    x.dom = h.domain →
    (x.next < ja ∨ (x.next = ja ∧ x.run = none) →
      answersOk (exec (.streamRearm h k 0 ja base) s) h 0x0107 (setStream s k { x with rearms := (ja, base) :: x.rearms }) []) ∧
    (ja < x.next ∨ (ja = x.next ∧ x.run ≠ none) →
      exec (.streamRearm h k 0 ja base) s = .next (answerRow h 0x0107 (s, .done .late [])))) ∧
  (∀ (s : State) (k : Nat) (x : StreamSt), tabGet? s.streams k = some x → x.cancelling = true →
    (∀ r, x.run = some r → r.reads = 0 ∧ r.writes = 0) →
    ∃ t, exec (.streamCancelled k) s = .next t ∧ EventsOnly { s with streams := t.streams } t ∧
      tabGet? t.streams k = some { x with cancelling := false, active := false, halted := false, run := none, next := 0,
                                          discard := 0, unread := [] } ∧
      (∀ j, j ≠ k → tabGet? t.streams j = tabGet? s.streams j))

/-! ### Egress (chapter 16) -/

/-- R409: T_ACT is ACT_DELAY, plus POST AUX as a two's complement count of ticks where ACT_AUX is set and PRI_VOID clear,
clamped to 0 to 2^32 − 1 with ACT_SAT set by a clamp. -/
def Obligations.ActuationDelayIsClamped : Prop :=
  ∀ (x : EStream) (st : Stub) (r : Released),
    let v : Int := x.actDelay +
      (if x.actAux = true ∧ (buildRecord x st r).priVoid = false then (BitVec.ofNat 32 r.post.aux).toInt else 0)
    (0 ≤ v → v ≤ 2 ^ 32 - 1 → (buildRecord x st r).tAct = v ∧ (buildRecord x st r).actSat = false) ∧
    (v < 0 → (buildRecord x st r).tAct = 0 ∧ (buildRecord x st r).actSat = true) ∧
    (2 ^ 32 - 1 < v → (buildRecord x st r).tAct = 2 ^ 32 - 1 ∧ (buildRecord x st r).actSat = true)

/-- R410, R411: a record is 32 bytes; its last two are the CRC of R184 over the other thirty, with the poison mark where the
record carries POISON. -/
def Obligations.RecordCarriesItsCode : Prop :=
  ∀ r : ResRec, (recBytes r).length = 32 ∧
    fieldAt (recBytes r) 30 2 = (if r.flags / 2048 % 2 = 1 then tc ((recBytes r).take 30) ^^^ 0x6C39
      else tc ((recBytes r).take 30)) ∧
    fieldAt (recBytes r) 0 4 = r.objId % 2 ^ 32 ∧ fieldAt (recBytes r) 8 8 = r.tExp % 2 ^ 64 ∧
    fieldAt (recBytes r) 16 4 = r.tAct % 2 ^ 32 ∧ fieldAt (recBytes r) 28 2 = r.flags % 65536

/-- R432: how the monitor sets VERDICT and DOUBT of a result, and nothing else of it. -/
def Obligations.VerdictFollowsThePolicy : Prop :=
  ∀ (s : State) (x : EStream) (r : ResRec),
    let y := substitute s x r
    let rec_ := recordBits r &&& polRecordMask s.safety.policy ≠ 0 ∨ r.flags % 1024 &&& polFrameMask s.safety.policy ≠ 0
    let covers := fun (p : Cond → Prop) =>
      ∃ c ∈ s.safety.conds, c.st ≠ .clear ∧ p c ∧ inScope s x r c.kind c.scope = true
    let pri := rec_ ∨ covers (fun _ => True)
    let fb := r.fbClass = 0xFFFF ∨ covers (fun c => coversBoth c = true)
    y = { r with verdict := y.verdict, doubt := y.doubt } ∧
    (s.safety.smFault = true → y.verdict = 2 ∧ y.doubt = true) ∧
    (s.safety.smFault = false → (y.doubt = true ↔ pri ∨ fb) ∧
      ((s.safety.armed = false ∨ ¬ pri) → y.verdict = 0) ∧
      (s.safety.armed = true → pri → ¬ fb → y.verdict = 1) ∧
      (s.safety.armed = true → pri → fb → y.verdict = 2))

/-- R415, R419, R420, R421: EGRESS_START starts an idle port empty and with its pins driven; EGRESS_STOP discards what the
port holds and answers its count; EGRESS_URUN_CLEAR releases the pin and answers the underruns; no other port changes. -/
def Obligations.EgressCommandsStartStopAndClear : Prop :=
  (∀ (s s' : State) (h : CmdHdr) (c : Nat) (e : List Byte), Accepted 0x010C h s →
    fetchEntry s h.domain c 3 0 = (s', .inr e) → egressBody s e = none → (eportOf s (fieldAt e 2 2)).running = false →
    islandRuns s 54 = true → ((streamEntries e).map (fun b => (streamFrom b).flow)).Nodup →
    (∀ b ∈ streamEntries e, (streamOf s (streamFrom b).flow) = none ∧ flowActive s (streamFrom b).flow = false ∧
      ∀ g, flowGraph s (streamFrom b).flow = some g → g.dom = h.domain) →
    ∃ q, answersOk (exec (.egressStart h c 0) s) h 0x010C (setEport s' (fieldAt e 2 2) q) [] ∧ q.running = true ∧
      q.streams = (streamEntries e).map streamFrom ∧ q.wmHi = fieldAt e 8 2 ∧ q.wmLo = fieldAt e 10 2 ∧ q.fill = [] ∧
      q.readB = [] ∧ q.queue = [] ∧ q.wm = .lo ∧ q.urun = .lo ∧ q.out = List.replicate 32 0 ∧ q.driven = true) ∧
  (∀ (s : State) (h : CmdHdr) (p : Nat), Accepted 0x010D h s → p ≤ 7 → (eportOf s p).running = true →
    (∀ x ∈ (eportOf s p).streams, flowActive s x.flow = false) →
    answersOk (exec (.egressStop h p 0) s) h 0x010D (bump (setEport s p eportReset) 6 p 7 (discardCount (eportOf s p)))
      (leBytes 4 (satTo 32 (discardCount (eportOf s p))))) ∧
  (∀ (s : State) (h : CmdHdr) (p : Nat), Accepted 0x010E h s → p ≤ 7 → (eportOf s p).running = true →
    answersOk (exec (.egressUrunClear h p 0) s) h 0x010E (setEport s p { eportOf s p with urun := .lo, underruns := 0 })
      (leBytes 4 (satTo 32 (eportOf s p).underruns)))

/-- R413, R417, R418, R432, R433: a port with room takes the first record that waits for it. A result is tested for its age
and given its verdict in this moment, and one with VERDICT 1 or 2 begins DOUBT_N's pulse. Only the port, its counters,
events and that pulse change. R186, R416, R417, R420: a slot takes the oldest record of the read bank, which an empty read
bank has first swapped with the fill bank; a slot that finds no record repeats the last one with UNDERRUN set, counts it and
raises the underrun pin. An uncorrectable error of the FIFO that the read meets sets the record's POISON and opens the doubt
of the device. -/
def Obligations.EgressPortsAcceptAndSendRecords : Prop :=
  (∀ (s : State) (p k : Nat) (r : ResRec) (rest : List (Nat × ResRec)), (eportOf s p).running = true → islandRuns s 54 = true →
    (eportOf s p).fill.length < 256 → (eportOf s p).queue = (k, r) :: rest →
    (∀ x, r.kind ≠ 1 → (eportOf s p).streams[k]? = some x →
      ∃ t y, exec (.recordAccept p) s = .next t ∧ y = substitute s x (ageTest s.time x r) ∧ (eportOf t p).queue = rest ∧
        (eportOf t p).fill = (eportOf s p).fill ++ [y] ∧ (∀ q, q ≠ p → eportOf t q = eportOf s q) ∧
        t.safety.pulseEnd = (if y.verdict = 0 then s.safety.pulseEnd else some (s.time + polPulse s.safety.policy)) ∧
        t = { s with eports := t.eports, ev := t.ev, trace := t.trace, lports := t.lports,
                     inst := { s.inst with arrived := t.inst.arrived, discarded := t.inst.discarded },
                     safety := { s.safety with pulseEnd := t.safety.pulseEnd, doubtLow := t.safety.doubtLow } }) ∧
    (r.kind = 1 → ∃ t, exec (.recordAccept p) s = .next t ∧ (eportOf t p).queue = rest ∧
      (eportOf t p).fill = (eportOf s p).fill ++ [{ r with doubt := r.doubt || s.safety.smFault }] ∧
      counterOf t 6 p 6 = min (counterOf s 6 p 6 + 1) (2 ^ 48 - 1) ∧ t.mem = s.mem)) ∧
  (∀ (s : State) (p : Nat) (f : EccFind), (eportOf s p).running = true → islandRuns s 54 = true →
    let bank := if (eportOf s p).readB = [] then (eportOf s p).fill else (eportOf s p).readB
    (∀ r rest, bank = r :: rest → ∃ t, exec (.egressSlot p f) s = .next t ∧
      DoubtOnly { s with eports := t.eports, eccCnt := t.eccCnt, eccWin := t.eccWin, freeCnt := t.freeCnt } t ∧
      (f = .clean → t = { s with eports := t.eports, trace := t.trace }) ∧
      (f = .uncorrectable → doubtOpen t rowDevice kindDevice 0) ∧
      (f ≠ .uncorrectable → (eportOf t p).last = some r) ∧
      (f = .uncorrectable → (eportOf t p).last = some { r with flags := r.flags ||| 2 ^ 11 }) ∧
      (eportOf t p).out = recBytes ((eportOf t p).last.getD recZero) ∧ (eportOf t p).readB = rest ∧
      (eportOf t p).fill = (if (eportOf s p).readB = [] then [] else (eportOf s p).fill) ∧
      (eportOf t p).urun = (eportOf s p).urun ∧ (∀ q, q ≠ p → eportOf t q = eportOf s q) ∧
      counterOf t 6 p 0 = min (counterOf s 6 p 0 + 1) (2 ^ 48 - 1)) ∧
    (bank = [] → ∃ t, exec (.egressSlot p f) s = .next t ∧ t = { s with eports := t.eports, trace := t.trace } ∧
      (eportOf t p).urun = .hi ∧ (eportOf t p).underruns = (eportOf s p).underruns + 1 ∧ (eportOf t p).last = (eportOf s p).last ∧
      (∀ r, (eportOf s p).last = some r → (eportOf t p).out = recBytes { r with underrun := true }) ∧
      ((eportOf s p).last = none → (eportOf t p).out = recBytes { recZero with kind := 2, underrun := true }) ∧
      counterOf t 6 p 1 = min (counterOf s 6 p 1 + 1) (2 ^ 48 - 1)))

/-! ### Graphs and the sequencer (chapter 8) -/

/-- R190, R214, R215, R217, R218, R493: GRAPH_START makes a loaded graph RUNNING with its counters, semaphores and flags at
their initial values; GRAPH_HOLD waits and its quiescence point makes the graph HELD; GRAPH_RESUME goes on; GRAPH_UNLOAD
leaves nothing of a loaded graph; GRAPH_PARAM_SET writes the value of an edit entry; GRAPH_STATUS reads the graph. -/
def Obligations.GraphCommandsStartHoldAndEdit : Prop :=
  (∀ (s : State) (h : CmdHdr) (g sf salt : Nat) (f0 : List Nat) (x : Graph), Accepted 0x0302 h s → g ≤ 15 → sf ≤ 1 →
    tabGet? s.graphs g = some x → x.st = .loaded → f0.length = x.lanes.length →
    (∀ e ∈ x.lanes.zip f0, e.1.remote = false → e.2 = 0) →
    let v := if sf = 1 then salt else s.time % 2 ^ 32
    ∃ t, answersOk (exec (.graphStart h g sf 0 salt f0) s) h 0x0302 t (leBytes 4 v) ∧
      t = { s with graphs := t.graphs, nodes := t.nodes, sems := t.sems, flags := t.flags, streams := t.streams,
                   pool := { s.pool with flows := t.pool.flows } } ∧
      (∀ n y, tabGet? s.pool.flows n = some y →
        tabGet? t.pool.flows n = some (if y.graph = g then { y with iterItems := [] } else y)) ∧
      (∀ n y, tabGet? s.streams n = some y → tabGet? t.streams n = some (if y.graph = g then
        { y with active := true, halted := false, next := 0, rearms := [], unread := [] } else y)) ∧
      tabGet? t.graphs g = some { x with st := .running, holding := false, stopping := false, salt := v, aborted := 0,
                                         lanes := (x.lanes.zip f0).map (fun e => startLane e.1 e.2) } ∧
      (∀ k, k ≠ g → tabGet? t.graphs k = tabGet? s.graphs k) ∧
      (∀ n y, tabGet? s.nodes n = some y → tabGet? t.nodes n = some (if y.graph = g then
        { y with cnt0 := y.depInit, cnt1 := y.depInit, iter := 0, run := none, registered := false, reported := false,
                 slips := 0, slipWindow := none } else y)) ∧
      (∀ n y, tabGet? s.sems n = some y → tabGet? t.sems n = some (if y.graph = g then
        { y with count := y.init, blocked := false, signals := 0 } else y)) ∧
      (∀ f, flagOf t f = if flagGraph s f = some g then { flagOf s f with frame := 0, pend := 0 } else flagOf s f)) ∧
  (∀ (s : State) (h : CmdHdr) (g : Nat) (x : Graph), Accepted 0x0303 h s → g ≤ 15 → tabGet? s.graphs g = some x →
    x.st = .running → x.holding = false → x.stopping = false →
    ∃ t, answersLater (exec (.graphHold h g 0) s) h 0x0303 t (.graphHold g) ∧ t = { s with graphs := t.graphs } ∧
      tabGet? t.graphs g = some { x with holding := true, holdAcc := s.pool.nextAcc } ∧
      (∀ k, k ≠ g → tabGet? t.graphs k = tabGet? s.graphs k)) ∧
  (∀ (s : State) (g : Nat) (x : Graph), tabGet? s.graphs g = some x → x.holding = true → x.stopping = false →
    (∀ e ∈ nodesOf s g, e.2.run = none) →
    (∀ k l, x.lanes[k]? = some l → l.notices = [] ∧ ∀ e ∈ l.open_, iterDone s g k e.1 = true) →
    (∀ e ∈ s.pool.flows, e.2.graph = g → ∀ i ∈ e.2.window, x.holdAcc ≤ i.acc) →
    ∃ t, exec (.graphHoldQuiescent g) s = .next t ∧ tabGet? t.graphs g = some { x with st := .held, holding := false } ∧
      (∀ k, k ≠ g → tabGet? t.graphs k = tabGet? s.graphs k) ∧ completesWait s t (.graphHold g) .ok []) ∧
  (∀ (s : State) (h : CmdHdr) (g : Nat) (x : Graph), Accepted 0x0304 h s → g ≤ 15 → tabGet? s.graphs g = some x →
    x.st = .held → x.stopping = false →
    ∃ t, answersOk (exec (.graphResume h g 0) s) h 0x0304 t [] ∧ t = { s with graphs := t.graphs } ∧
      tabGet? t.graphs g = some { x with st := .running } ∧ (∀ k, k ≠ g → tabGet? t.graphs k = tabGet? s.graphs k)) ∧
  (∀ (s : State) (h : CmdHdr) (g : Nat) (x : Graph), Accepted 0x0301 h s → g ≤ 15 → tabGet? s.graphs g = some x →
    x.st = .loaded →
    ∃ t, answersOk (exec (.graphUnload h g 0) s) h 0x0301 t [] ∧ tabGet? t.graphs g = none ∧
      (∀ k, k ≠ g → tabGet? t.graphs k = tabGet? s.graphs k) ∧
      (∀ e, (e ∈ t.nodes ↔ e ∈ s.nodes ∧ e.2.graph ≠ g)) ∧ (∀ e, (e ∈ t.sems ↔ e ∈ s.sems ∧ e.2.graph ≠ g)) ∧
      (∀ e, (e ∈ t.binds ↔ e ∈ s.binds ∧ e.2.graph ≠ g)) ∧ (∀ e, (e ∈ t.streams ↔ e ∈ s.streams ∧ e.2.graph ≠ g)) ∧
      (∀ e, (e ∈ t.watches ↔ e ∈ s.watches ∧ e.2.graph ≠ g)) ∧
      (∀ e, (e ∈ t.pool.flows ↔ e ∈ s.pool.flows ∧ e.2.graph ≠ g)) ∧
      t.mem = s.mem ∧ t.marks = s.marks ∧ t.pipes = s.pipes ∧ t.engines = s.engines ∧ t.cores = s.cores ∧
      t.eports = s.eports ∧ t.safety = s.safety ∧ t.power = s.power) ∧
  (∀ (s : State) (h : CmdHdr) (g k value : Nat) (x : Graph) (e : List Byte), Accepted 0x0306 h s → g ≤ 15 →
    tabGet? s.graphs g = some x → x.st ≠ .running → x.holding = false → x.stopping = false → x.edits[k]? = some e →
    editFits e value = true →
    (fieldAt e 0 1 = 1 → answersOk (exec (.graphParamSet h g 0 k 0 value) s) h 0x0306
      (setSem s (fieldAt e 2 2) { semOf s (fieldAt e 2 2) with init := value % 65536 }) []) ∧
    (fieldAt e 0 1 ≠ 1 → ∀ y, tabGet? s.nodes (x.base + fieldAt e 2 2) = some y →
      let d := overlay (nodeDesc s (x.base + fieldAt e 2 2)) (fieldAt e 4 2) (leBytes (fieldAt e 1 1) value)
      let n := x.base + fieldAt e 2 2
      descBad (putDesc s y d) n y (nodeDesc (putDesc s y d) n) = none →
      ∃ t, answersOk (exec (.graphParamSet h g 0 k 0 value) s) h 0x0306 t [] ∧ t = { s with descs := t.descs } ∧
        (∀ i < y.descLen, tabGet? t.descs (y.desc + i) = some (bytesAt d (64 * i) 64)) ∧
        (∀ i, (i < y.desc ∨ y.desc + y.descLen ≤ i) → tabGet? t.descs i = tabGet? s.descs i))) ∧
  (∀ (s : State) (h : CmdHdr) (g : Nat), Accepted 0x0307 h s → g ≤ 15 →
    (tabGet? s.graphs g = none → answersOk (exec (.graphStatus h g 0) s) h 0x0307 s (List.replicate 8 0)) ∧
    (∀ x, tabGet? s.graphs g = some x → ∃ p, answersOk (exec (.graphStatus h g 0) s) h 0x0307 s p ∧
      p.length = 8 + 8 * x.lanes.length ∧
      fieldAt p 0 1 = (match x.st with
        | .loaded => 1
        | .running => 2
        | .held => 3) ∧ fieldAt p 1 1 = x.mask % 256 ∧ fieldAt p 4 4 = x.salt % 2 ^ 32 ∧
      ∀ k l, x.lanes[k]? = some l → fieldAt p (8 + 8 * k) 4 = l.started % 2 ^ 32))

/-- R207 to R213, R217, R220: GRAPH_LOAD of an image that passes the checks, with channels, flows and resources that fit and
no cycle, in a season for which it is admitted, makes the graph LOADED and answers its first node and the admitted seasons;
one that is refused leaves the block as it was, but for what its reads report. -/
def Obligations.GraphLoadAdmitsOrChangesNothing : Prop :=
  (∀ (s c : State) (h : CmdHdr) (pay img : List Byte) (flows : List Byte), Accepted 0x0300 h s → s.eccBad = [] →
    payloadBad s pay = none →
    readStruct s 13 0 h.domain (fieldAt pay 8 8) (fieldAt pay 16 4) = (s, .ok, img) → imageBad img = none →
    (if payFlows pay = 0 then (s, Status.ok, []) else
      readStruct s 13 0 h.domain (fieldAt pay 24 8) (96 * payFlows pay)) = (s, Status.ok, flows) →
    let a : LoadArgs := { g := fieldAt pay 0 1, dom := h.domain, pay := pay, img := img, p := placesFor s img }
    loadCandidate s a flows = .inr c →
    ∀ x, tabGet? c.graphs a.g = some x → resourcesFail c a.g (resourceList c a.g a.p x (graphCharge c a.g)) = false →
    waitCycle c a.g = none →
    let sched := scheduleAll c a.g x
    let mask := seasonMask x sched (tokenShort (resourceList c a.g a.p x (graphCharge c a.g)))
    bitAt mask (seasonIdx s.power.season) = true →
    ∃ t p, answersOk (exec (.graphLoad h pay) s) h 0x0300 t p ∧
      tabGet? t.graphs a.g = some { x with mask := mask, charge := graphCharge c a.g } ∧ x.st = .loaded ∧ x.dom = h.domain ∧
      fieldAt p 0 2 = a.p.node % 65536 ∧ fieldAt p 2 1 = mask % 256 ∧ fieldAt p 3 1 = 17 ∧
      (∀ k, k ≠ a.g → tabGet? t.graphs k = tabGet? s.graphs k) ∧
      t.mem = s.mem ∧ t.marks = s.marks ∧ t.pipes = s.pipes ∧ t.engines = s.engines ∧ t.cores = s.cores ∧
      t.eports = s.eports ∧ t.safety = s.safety ∧ t.power = s.power ∧ t.time = s.time) ∧
  (∀ (s : State) (h : CmdHdr) (pay : List Byte), Accepted 0x0300 h s →
    ∃ s' st p, exec (.graphLoad h pay) s = .next (answerRow h 0x0300 (s', .done st p)) ∧ (st = .ok ∨
      DoubtOnly { s with marks := s'.marks, eccBad := s'.eccBad, wcache := s'.wcache, eccCnt := s'.eccCnt, eccWin := s'.eccWin,
                         freeCnt := s'.freeCnt } s'))

/-- R216, R297, R347: GRAPH_STOP of a graph that runs or is held stops every node of it but one whose unit is done, drops
the notices that wait and waits for its units; when they are idle the graph is LOADED again, and the response counts the
frames that were aborted. -/
def Obligations.GraphStopEndsEveryRun : Prop :=
  (∀ (s : State) (h : CmdHdr) (g : Nat) (x : Graph), Accepted 0x0305 h s → g ≤ 15 → tabGet? s.graphs g = some x →
    x.st ≠ .loaded → x.stopping = false →
    ∃ t, answersLater (exec (.graphStop h g 0) s) h 0x0305 t (.graphStop g) ∧
      (∃ y, tabGet? t.graphs g = some y ∧ y.stopping = true ∧ y.holding = false ∧ y.st = x.st ∧
        (∀ l ∈ y.lanes, l.notices = [])) ∧
      (∀ k, k ≠ g → tabGet? t.graphs k = tabGet? s.graphs k) ∧
      (∀ e ∈ t.nodes, e.2.graph = g → e.2.run = none ∨ ∃ r, e.2.run = some r ∧ r.unitDone = true) ∧
      (∀ n, (∀ e ∈ s.nodes, e.2.graph = g → e.1 ≠ n) → tabGet? t.nodes n = tabGet? s.nodes n) ∧
      (∀ e ∈ t.watches, e.2.graph = g → e.2.pending = []) ∧ t.time = s.time ∧ t.power = s.power) ∧
  (∀ (s : State) (g : Nat) (x : Graph), tabGet? s.graphs g = some x → x.stopping = true → graphIdle s g x = true →
    ∃ t, exec (.graphStopIdle g) s = .next t ∧ tabGet? t.graphs g = some { x with st := .loaded, stopping := false } ∧
      (∀ k, k ≠ g → tabGet? t.graphs k = tabGet? s.graphs k) ∧ t.nodes = s.nodes ∧
      completesWait s t (.graphStop g) .ok (leBytes 4 (satTo 32 x.aborted)))

/-- R192, R196 to R199, R201, R202, R212, R213: a notice releases an iteration of its lane; a node that is ready starts on
its idle unit, and its completion decrements the counters behind its edges unless its graph is stopped; a signal counts; and
a node whose wait does not hold is registered, with its semaphores BLOCKED and a cycle reported as DEADLOCK. -/
def Obligations.SequencerReleasesStartsAndCompletes : Prop :=
  (∀ (s : State) (g k rel f : Nat) (l : Lane) (x : Node), laneAt s g k = some l → tabGet? s.nodes l.source = some x →
    x.kind = 4 → x.graph = g → x.lane = k → readyFor s l.source x = some (rel, f) →
    ∃ t l', exec (.sourceNotice g k) s = .next t ∧ laneAt t g k = some l' ∧ l.notices.tail <+: l'.notices ∧
      l.notices.head? = some (rel, f) ∧ l'.started = l.started + 1 ∧ l'.lastRel = some rel ∧
      (∃ y, tabGet? t.nodes l.source = some y ∧ y.iter = x.iter + 1) ∧ t.mem = s.mem) ∧
  (∀ (s : State) (n rel f : Nat) (x : Node), tabGet? s.nodes n = some x → 1 ≤ x.kind → x.kind ≤ 3 →
    readyFor s n x = some (rel, f) → unitTakes s n x rel = true →
    ∃ t y, exec (.nodeStart n) s = .next t ∧ tabGet? t.nodes n = some y ∧ y.iter = x.iter + 1 ∧ cntOf y x.iter = x.depInit ∧
      y.run = some { iter := x.iter, f := f, rel := rel, start := s.time, unitDone := false } ∧
      (∀ m, m ≠ n → tabGet? t.nodes m = tabGet? s.nodes m) ∧
      (x.kind = 1 → ∃ e, tabGet? t.engines (nodeEngine s n x) = some e ∧ e.node = some n ∧ e.f = f ∧ e.begun = false) ∧
      (x.kind = 2 → ∃ u, (coreOf t x.unit).unit = some u ∧ u.work = .node n ∧ u.hi = n ∧ u.lo = f ∧ u.begun = false) ∧
      t.mem = s.mem ∧ t.marks = s.marks ∧ counted s t 8 0 0 1) ∧
  (∀ (s : State) (n : Nat) (x : Node) (r : NodeRun), tabGet? s.nodes n = some x → x.run = some r → r.unitDone = true →
    watchPending s n r.f = false → islandRuns s 1 = true →
    let late := x.kind ≠ 4 ∧ r.rel + 16 * nth x.lates (seasonIdx s.power.season) ≤ s.time
    ∃ t, exec (.nodeComplete n) s = .next t ∧
      (∃ y, tabGet? t.nodes n = some y ∧ y.run = none ∧ (late → y.slips = x.slips + 1) ∧ (¬ late → y.slips = x.slips)) ∧
      (∀ m y, tabGet? s.nodes m = some y → ∃ z, tabGet? t.nodes m = some z ∧ z.iter = y.iter ∧
        cntOf z r.iter = cntOf y r.iter - (if graphRuns s x.graph = true then (targetsOf s x).count m else 0)) ∧ t.mem = s.mem ∧
      (late → doubtOpen t rowGraph kindGraph x.graph)) ∧
  (∀ (s : State) (p : Packet), s.inst.arrived = [p] → fwUp s = true → s.inst.joined = true → p.type = 0x03 →
    semBound (semOf s p.arg) = true → (semOf s p.arg).remote = true → (semOf s p.arg).sigDev = p.src →
    (semOf s p.arg).count < 0xFFFF →
    ∃ t, exec (.semSignal p) s = .next t ∧ (semOf t p.arg).count = (semOf s p.arg).count + 1 ∧
      (∀ k, k ≠ p.arg → semOf t k = semOf s k) ∧ t.nodes = s.nodes ∧ t.mem = s.mem) ∧
  (∀ (s : State) (n rel f : Nat) (x : Node) (b : Blocker) (bs : List Blocker), tabGet? s.nodes n = some x →
    nextIter s x = some (rel, f) → blockers s n x f = b :: bs →
    let s1 := registerNode s n x (b :: bs)
    let path := walk s1 n 1024 [{ node := n, nodes := [], res := [] }] [n]
    ∃ t, exec (.deadlockWalk n) s = .next t ∧ (∃ y, tabGet? t.nodes n = some y ∧ y.registered = true) ∧
      (∀ e ∈ b :: bs, e.1 = 0 → (semOf t e.2).blocked = true ∧ (semOf t e.2).count = (semOf s e.2).count) ∧
      t.mem = s.mem ∧ (path = none → t.safety = s.safety) ∧
      (∀ p, path = some p → (∃ m ∈ p.nodes, ∃ y, tabGet? s.nodes m = some y ∧ y.reported = false) →
        doubtOpen t rowDeadlock kindGraph x.graph))

/-! ### Cameras (chapter 4) -/

/-- R83, R89, R102, R103, R106, R107, R114, R492: CSI_PORT_CONFIG sets a port none of whose pipelines runs; CAMERA_START
starts a pipeline with its channel's body and parameters at frame 0; CAMERA_STOP stops it at once, or at the end of an open
frame or after WAIT; CAMERA_STATUS reads the counters and clears them on request; TRIGGER_SET leaves an update for the
switch point; SENSOR_COMMIT takes the next generation; I3C_TRANSFER waits for the bus. -/
def Obligations.CameraCommandsHaveTheirEffect : Prop :=
  (∀ (s : State) (h : CmdHdr) (k lanes map pol mode : Nat), Accepted 0x0400 h s → k ≤ 15 → 1 ≤ lanes → lanes ≤ 4 →
    ((List.range lanes).map (fun i => bitsAt map (2 * i) 2)).Nodup → pol < 32 → mode ≤ 2 →
    (∀ p, p / 4 = k → (pipeOf s p).running = false) →
    answersOk (exec (.csiPortConfig h k lanes map pol mode 0) s) h 0x0400
      (setPort s k { portOf s k with lanes := lanes, map := map, pol := pol, i3cMode := mode, i3cOn := true }) []) ∧
  (∀ (s s' s1 : State) (h : CmdHdr) (c : Nat) (e prm : List Byte) (dpc : List (Nat × Nat)), Accepted 0x0401 h s →
    fetchEntry s h.domain c 2 0 = (s', .inr e) → pipeRange s e = none →
    readSetup s' h.domain c e = (s1, .inr (prm, dpc)) → keptBad (pipeOf s (fieldAt e 2 2)) (pipeCfgOf e []) = none →
    footprintBad s h.domain (pipeCfgOf e []) = none → (pipeOf s (fieldAt e 2 2)).running = false →
    (pipeOf s (fieldAt e 2 2)).closing = none → islandRuns s (34 + fieldAt e 2 2 / 4) = true →
    ∃ t, answersOk (exec (.cameraStart h c 0) s) h 0x0401 t [] ∧
      t = { s1 with pipes := t.pipes, ports := t.ports, trace := t.trace } ∧
      (let x := pipeOf t (fieldAt e 2 2)
       x.running = true ∧ x.cfg = { pipeCfgOf e [] with dpc := dpc } ∧ x.param = prm ∧ x.frameCnt = 0 ∧ x.cur = none ∧
       x.closing = none ∧ x.stopAt = none ∧ x.chan = c ∧ x.dom = h.domain) ∧
      (∀ q, q ≠ fieldAt e 2 2 → (pipeOf t q).running = (pipeOf s1 q).running ∧ (pipeOf t q).cur = (pipeOf s1 q).cur)) ∧
  (∀ (s : State) (h : CmdHdr) (p ms : Nat), Accepted 0x0402 h s → p ≤ 63 → ms ≤ 2000 → (pipeOf s p).running = true →
    (pipeOf s p).stopAt = none →
    (frameOpen (pipeOf s p) = true → answersLater (exec (.cameraStop h p 0 ms) s) h 0x0402
      (setPipe s p { pipeOf s p with stopAt := some (s.time + (if ms = 0 then 100 else ms) * 4000000) }) (.cameraStop p)) ∧
    (frameOpen (pipeOf s p) = false → (pipeOf s p).closing = none → (pipeOf s p).test = none → (pipeOf s p).testDue = none →
      answersOk (exec (.cameraStop h p 0 ms) s) h 0x0402 (setPipe s p { pipeOf s p with running := false, stopAt := none }) [])) ∧
  (∀ (s : State) (h : CmdHdr) (p clear : Nat), Accepted 0x0403 h s → p ≤ 63 → clear ≤ 1 →
    ∃ t, answersOk (exec (.cameraStatus h p clear 0) s) h 0x0403 t
        (((portOf s (p / 4)).cnt ++ (pipeOf s p).cnt).flatMap (leBytes 4)) ∧
      (clear = 0 → t = s) ∧
      (clear = 1 → t = { s with ports := t.ports, pipes := t.pipes } ∧
        portOf t (p / 4) = { portOf s (p / 4) with cnt := List.replicate 6 0 } ∧
        pipeOf t p = { pipeOf s p with cnt := List.replicate 16 0 } ∧ (∀ q, q ≠ p → pipeOf t q = pipeOf s q))) ∧
  (∀ (s : State) (h : CmdHdr) (n mode pol period t0 width count : Nat), Accepted 0x0404 h s → n ≤ 63 → mode ≤ 3 → (mode ≠ 0 →
    pol ≤ 1) →
    (2 ≤ mode → 800 ≤ period ∧ width < period) → (mode ≠ 0 → 32 ≤ width ∧ width ≤ 4000000) → s.time + 40000 ≤ t0 →
    answersOk (exec (.triggerSet h n mode pol 0 period t0 width count) s) h 0x0404
      (setTrig s n { trigOf s n with
        update := some { mode := mode, activeLow := pol == 1, start := t0, period := period, width := width, count := count }
        pin := if mode ≠ 0 ∧ (trigOf s n).nextEdge = none ∧ (trigOf s n).pulseEnd = none then (if pol = 1 then .hi else .lo)
          else (trigOf s n).pin }) []) ∧
  (∀ (s s1 s2 : State) (h : CmdHdr) (p count param writes : Nat) (prm : Option (List Byte)) (ws : List (Nat × Nat)),
    Accepted 0x0405 h s → p ≤ 63 → count ≤ 256 → param % 64 = 0 → param < fsBase →
    (count ≠ 0 → writes % 4 = 0 ∧ writes < fsBase) → readParam s h.domain (pipeOf s p) param = (s1, .inr prm) →
    readWrites s1 h.domain writes count = (s2, .inr ws) → ((pipeOf s p).commits.filter (fun c => ! c.applied)).length < 4 →
    answersOk (exec (.sensorCommit h p 0 count param writes) s) h 0x0405
      (setPipe s2 p { pipeOf s2 p with
        nextGen := ((pipeOf s p).nextGen + 1) % 65536
        commits := (pipeOf s p).commits ++ [{ gen := (pipeOf s p).nextGen, param := prm, writes := ws, accepted := s.time,
                                              kept := false, applied := false, st := .waiting }] })
      (leBytes 2 (pipeOf s p).nextGen ++ leBytes 2 0)) ∧
  (∀ (s : State) (h : CmdHdr) (k addr dir len : Nat) (data : List Byte), Accepted 0x0406 h s → k ≤ 15 → dir ≤ 1 → 1 ≤ len →
    len ≤ 64 → islandRuns s (34 + k) = true →
    let x : I3cXfer := { addr := addr, read := dir == 1, len := len, data := data.take len }
    ∃ t, answersLater (exec (.i3cTransfer h k addr dir len data) s) h 0x0406 t (.i3c k) ∧
      t = { s with ports := t.ports, pipes := t.pipes } ∧
      ((portOf s k).busWrite = false → (portOf s k).host = none → (portOf s k).writers = [] → (portOf s k).hostQueue = [] →
        (portOf t k).host = some x ∧ (portOf t k).hostQueue = []) ∧
      ((portOf s k).busWrite = true ∨ (portOf s k).host ≠ none →
        portOf t k = { portOf s k with hostQueue := (portOf s k).hostQueue ++ [x] }))

/-- R82, R85, R91, R96 to R100, R105, R106, R108, R110 to R112, R114: what arrives from the sensors and passes through the
pipelines. A Frame Start opens a frame in a free slot and drops it otherwise; a good line that the input buffer takes joins
the open frame; Frame End completes the frame; its lines leave in order; its header is written and its flags set; and the
blanking test passes or fails by its signature. -/
def Obligations.SensorsFillFramesAndPipelinesCompleteThem : Prop :=
  (∀ (s : State) (k vc p : Nat) (cor : Bool), portHears s k = true → pipeOnVc s k vc = some p →
    frameOpen (pipeOf s p) = false →
    let n := (pipeOf s p).frameCnt
    ∃ t, exec (.csiFrameStart k vc cor) s = .next t ∧ (pipeOf t p).frameCnt = (n + 1) % 2 ^ 32 ∧
      (slotFree s (pipeOf s p).cfg n = true → (pipeOf t p).dropped = none ∧
        ∃ f, (pipeOf t p).cur = some f ∧ f.cnt = n ∧ f.tFs = s.time ∧ f.lines = [] ∧ f.next = 0 ∧ f.rcvd = 0) ∧
      (slotFree s (pipeOf s p).cfg n = false → (pipeOf t p).cur = none ∧ (pipeOf t p).dropped = some n) ∧ t.mem = s.mem) ∧
  (∀ (s : State) (k vc p dt taken : Nat) (px : List Nat) (f : Frame), portHears s k = true → pipeOnVc s k vc = some p →
    (pipeOf s p).cfg.dt = dt → 0x2A ≤ dt → dt ≤ 0x2D → (pipeOf s p).cur = some f → px.length = (pipeOf s p).cfg.width →
    0 < (pipeOf s p).cfg.width → bufTakes s (pipeOf s p) px.length taken = px.length → f.lines.length < (pipeOf s p).cfg.height →
    exec (.csiLongPacket k vc dt px false true taken 0) s =
      .next (setPipe s p { pipeOf s p with
        bufFill := min 12288 (bufNow s (pipeOf s p) + px.length), bufAt := s.time
        cur := some { f with rcvd := f.rcvd + 1, lines := f.lines ++ [px.map (fun v => v % 2 ^ dtBits dt)] } })) ∧
  (∀ (s : State) (x : Pipe) (len taken : Nat), x.bufFill = 0 → len ≤ 12288 → bufTakes s x len taken = len) ∧
  (∀ (s : State) (k vc p : Nat) (f : Frame), portHears s k = true → pipeOnVc s k vc = some p → (pipeOf s p).cur = some f →
    (pipeOf s p).closing = none → (pipeOf s p).stopAt = none →
    let x := pipeOf s p
    ∃ t g, exec (.csiFrameEnd k vc false) s = .next t ∧ (pipeOf t p).cur = none ∧ (pipeOf t p).closing = some g ∧
      g.ended = true ∧ g.cnt = f.cnt ∧ g.lines.length = max f.lines.length x.cfg.height ∧
      g.lines.take f.lines.length = f.lines ∧
      g.flags = (if f.lines.length < x.cfg.height then f.flags ||| 1 else f.flags) ∧ t.mem = s.mem) ∧
  (∀ (s : State) (k : Nat), portHears s k = true → exec (.csiHeaderError k) s =
    .next (setPort s k { portOf s k with cnt := bumpAt 32 (portOf s k).cnt 1 1 })) ∧
  (∀ (s : State) (p : Nat) (f : Frame), islandRuns s (34 + p / 4) = true → (pipeOf s p).closing = none →
    (pipeOf s p).cur = some f → lineReady (pipeOf s p).cfg f = true →
    let c := (pipeOf s p).cfg
    ∃ t g, exec (.pipelineLineDone p) s = .next t ∧ (pipeOf t p).cur = some g ∧ g.next = f.next + 1 ∧ g.lines = f.lines ∧
      counted s t 4 p 1 1 ∧
      (∀ a, (∀ k < planesOf c, a < outAddr c f.cnt k f.next ∨ outAddr c f.cnt k f.next + c.width * outBytes c ≤ a) →
        memByte t.mem a = memByte s.mem a)) ∧
  (∀ (s : State) (p : Nat) (f : Frame), islandRuns s (34 + p / 4) = true → (pipeOf s p).closing = some f →
    f.next = (pipeOf s p).cfg.height →
    let c := (pipeOf s p).cfg
    let a := c.statBase + f.cnt % max 1 c.slots * 9280
    ∃ t, exec (.frameComplete p) s = .next t ∧ (pipeOf t p).closing = none ∧ counted s t 4 p 0 1 ∧
      (accessStatus s (pipeOf s p).dom true a (headerBytes f ++ statBytes f.hist f.zones).length = .ok →
        memRead t.mem a 64 = headerBytes f) ∧
      ((pipeOf s p).running = false → completesWait s t (.cameraStop p) .ok [])) ∧
  (∀ (s : State) (p t0 : Nat) (f : Frame), (pipeOf s p).stopAt = some t0 → (pipeOf s p).cur = some f →
    (pipeOf s p).closing = none →
    ∃ t g, exec (.cameraStopTimeout p) s = .next t ∧ t.time = max s.time t0 ∧ (pipeOf t p).running = false ∧
      (pipeOf t p).stopAt = none ∧ (pipeOf t p).cur = none ∧ (pipeOf t p).closing = some g ∧ bitAt g.flags 0 = true ∧
      bitAt g.flags 6 = true) ∧
  (∀ (s : State) (p : Nat) (q : PatTest), islandRuns s (34 + p / 4) = true → (pipeOf s p).testDue = some q →
    (pipeOf s p).closing = none →
    exec (.patternTestStart p) s =
      .next (setPipe s p { pipeOf s p with testDue := none, test := some { q with start := s.time } })) ∧
  (∀ (s : State) (p sig : Nat) (q : PatTest), islandRuns s (34 + p / 4) = true → (pipeOf s p).test = some q →
    ∃ t, exec (.patternTestDone p sig) s = .next t ∧ (pipeOf t p).test = none ∧ t.mem = s.mem ∧
      (sig = testSignature (pipeOf s p).cfg q.param p → p ∈ t.safety.patPass ∧
        (pipeOf t p).patFailNext = (pipeOf s p).patFailNext ∧ counted s t 4 p 6 1) ∧
      (sig ≠ testSignature (pipeOf s p).cfg q.param p → p ∈ t.safety.patFail ∧ (pipeOf t p).patFailNext = true ∧
        doubtOpen t rowPattern kindPipe p))

/-- R102 to R104, R105, R106, R108, R110: a trigger's pulses come at their edges, each at its full width, and a new schedule
applies at its switch point; settings writes end on the bus or with SENSOR_NACK; a host transfer answers; in-band interrupts
are events; and a hot-join leaves nothing. -/
def Obligations.TriggersAndSensorBusesFollowTheirSchedules : Prop :=
  (∀ (s : State) (n e : Nat) (u : TrigSched), n < 64 → islandRuns s (34 + n / 4) = true → (trigOf s n).update = some u →
    ((trigOf s n).nextEdge = none ∧ e = u.start ∨
      ((trigOf s n).nextEdge = some e ∧ u.start ≤ e ∧ ((trigOf s n).sched.mode ≠ 3 ∨ (pipeOf s n).lineEdge = none))) →
    exec (.triggerSwitchPoint n) s = .next (setTrig { s with time := max s.time e } n { trigOf s n with
      sched := { u with start := e }, emitted := 0, update := none
      nextEdge := if u.mode = 0 then none else some e
      pin := if (trigOf s n).pulseEnd.isSome then (trigOf s n).pin else if u.mode = 0 then .z
        else if u.activeLow then .hi else .lo })) ∧
  (∀ (s : State) (n e : Nat), n < 64 → islandRuns s (34 + n / 4) = true → (trigOf s n).nextEdge = some e →
    switchPoint (trigOf s n) (atFirstLine s n) = none →
    let x := (trigOf s n).sched
    ∃ t, exec (.camTrigPulse n) s = .next t ∧ t = { s with time := max s.time e, trigs := t.trigs, pipes := t.pipes } ∧
      (let lvl : Pin := if x.activeLow then .lo else .hi
       let y := { trigOf s n with
         emitted := (trigOf s n).emitted + 1
         nextEdge := if x.mode = 1 ∨ (x.count ≠ 0 ∧ x.count ≤ (trigOf s n).emitted + 1) then none else some (e + x.period) }
       (y.pulseEnd = none → trigOf t n = { y with pulseEnd := some (e + x.width), pin := lvl }) ∧
       (∀ pe, y.pulseEnd = some pe → pe ≤ e → trigOf t n = { y with pulseEnd := some (e + x.width), laterEnds := [], pin := lvl }) ∧
       (∀ pe, y.pulseEnd = some pe → e < pe → trigOf t n = { y with laterEnds := y.laterEnds ++ [(e + x.width, lvl)] })) ∧
      (x.mode = 3 → (pipeOf t n).lineEdge = some ((pipeOf s n).lineEdge.getD e)) ∧
      (x.mode ≠ 3 → (pipeOf s n).edges.length < 4 → (pipeOf t n).edges = (pipeOf s n).edges ++ [e])) ∧
  (∀ (s : State) (n e : Nat), n < 64 → islandRuns s (34 + n / 4) = true → (trigOf s n).pulseEnd = some e →
    ((∀ o ∈ (trigOf s n).laterEnds, o.1 ≤ e) →
      exec (.camTrigPulseEnd n) s = .next (setTrig { s with time := max s.time e } n { trigOf s n with
        pulseEnd := none
        laterEnds := []
        pin := if (trigOf s n).nextEdge = none then .z else if (trigOf s n).sched.activeLow then .hi else .lo })) ∧
    (∀ o r, (trigOf s n).laterEnds.filter (fun o => decide (e < o.1)) = o :: r →
      exec (.camTrigPulseEnd n) s = .next (setTrig { s with time := max s.time e } n { trigOf s n with
        pulseEnd := some o.1, laterEnds := r, pin := o.2 }))) ∧
  (∀ (s : State) (p n : Nat) (ack : Bool) (c : Commit), (portOf s (p / 4)).busWrite = true →
    (portOf s (p / 4)).writers.head? = some p → islandRuns s (34 + p / 4) = true → nextWrites (pipeOf s p) = some c →
    c.st = .writing n →
    ∃ t, exec (.sensorWriteDone p ack) s = .next t ∧ t.mem = s.mem ∧
      (ack = true → n + 1 < c.writes.length → ∀ d ∈ (pipeOf t p).commits, d.gen = c.gen → d.st = .writing (n + 1)) ∧
      (ack = false → (∀ d ∈ (pipeOf t p).commits, d.gen ≠ c.gen) ∧ doubtOpen t rowSensor kindPipe p)) ∧
  (∀ (s : State) (k addr : Nat) (data : List Byte), k ≤ 15 → islandRuns s (34 + k) = true → s.ev.sink = none →
    s.ev.fifo.length < 1024 → s.ev.lost = 0 →
    ∃ t e, exec (.sensorIbi k addr data) s = .next t ∧ EventsOnly s t ∧ t.ev.fifo = s.ev.fifo ++ [e] ∧ e.code = 0x0401 ∧
      e.arg = leBytes 1 k ++ leBytes 1 addr ++ leBytes 1 (data.take 8).length ++ [0] ++ padTo 8 (data.take 8)) ∧
  (∀ (s : State) (k : Nat) (ack : Bool) (data : List Byte) (x : I3cXfer), (portOf s k).host = some x →
    islandRuns s (34 + k) = true →
    ∃ t, exec (.i3cTransferDone k ack data) s = .next t ∧ t.mem = s.mem ∧
      (ack = true → completesWait s t (.i3c k) .ok (if x.read then padTo 64 (data.take x.len) else [])) ∧
      ((portOf s k).writers = [] → (portOf s k).hostQueue = [] → (portOf t k).host = none)) ∧
  (∀ (s : State) (k : Nat), exec (.hotJoin k) s = .next s)

/-! ### The pool, the cores and the vision engines (chapters 5, 6, 9 to 11) -/

/-- R285 to R292, R296: the pool accepts the oldest submission that finds room, voids a bad one with POOL_ITEM_BAD, starts a
waiting item on a core that can take it, completes an item with its slip checked, and releases the result that is due;
CORE_FENCE ends what a core does, and CORE_UNFENCE gives back a core that no graph holds. -/
def Obligations.PoolAcceptsStartsAndReleases : Prop :=
  (∀ (s : State) (x : Submission) (rest : List Submission), islandRuns s 1 = true → s.pool.subs = x :: rest →
    let n := itemFlow x.bytes
    (tabGet? s.pool.flows n = none → ∃ t, exec .itemAccept s = .next t ∧ t.pool = { s.pool with
      subs := rest, unbound := s.pool.unbound + 1 } ∧ doubtOpen t rowPool kindFlow n) ∧
    (∀ f, tabGet? s.pool.flows n = some f → f.window.length < 1024 →
      ∃ t f' i, exec .itemAccept s = .next t ∧ tabGet? t.pool.flows n = some f' ∧ f'.window = f.window ++ [i] ∧
        i.acc = s.pool.nextAcc ∧ i.seq = fieldAt x.bytes 0 4 ∧ i.f = x.f ∧ i.rel = x.rel ∧ i.copies = [] ∧
        t.pool.subs = rest ∧ t.pool.nextAcc = s.pool.nextAcc + 1 ∧ t.mem = s.mem ∧
        (∀ k, k ≠ n → tabGet? t.pool.flows k = tabGet? s.pool.flows k) ∧
        (itemReserved x.bytes = false → x.node = f.spawner → itemClass x.bytes ≤ f.eclass → i.void = false ∧ i.done = false ∧
          (i.dup = true ↔ s.power.season = .spring)) ∧
        (itemReserved x.bytes = true ∨ x.node ≠ f.spawner ∨ f.eclass < itemClass x.bytes → i.void = true ∧ i.done = true ∧
          i.dup = false ∧ doubtOpen t rowPool kindFlow n))) ∧
  (∀ (s : State) (g n c : Nat) (x : Graph) (f : Flow) (i : PItem), tabGet? s.graphs g = some x → islandRuns s 1 = true →
    x.stopping = false → firstStart s x.pool (waitingItems s g x.sx7) = some (n, f, i, c) →
    ∃ t u f', exec (.itemDispatch g) s = .next t ∧ (coreOf t c).unit = some u ∧ u.work = .item n i.acc i.copies.length ∧
      u.begun = false ∧ (∀ k, k ≠ c → coreOf t k = coreOf s k) ∧ coreTakes s (flowPurse f) i.eclass c = true ∧
      tabGet? t.pool.flows n = some f' ∧ f'.window.length = f.window.length ∧ t.mem = s.mem ∧ counted s t 9 0 1 1) ∧
  (∀ (s : State) (c n : Nat) (f : Flow) (i : PItem), islandRuns s 1 = true → endedOn s c = some (n, f, i) →
    copyWaits i = false → (∀ k ∈ i.copies, k.done = true ∨ (k.core = c ∧ k.ended = true)) →
    ∃ t f' j, exec (.itemComplete c) s = .next t ∧ tabGet? t.pool.flows n = some f' ∧ j ∈ f'.window ∧ j.acc = i.acc ∧
      j.done = true ∧ j.t = s.time ∧ (j.slip = true ↔ i.rel + 16 * f.itemLatest ≤ s.time) ∧
      (i.rel + 16 * f.itemLatest ≤ s.time → f'.slips = f.slips + 1 ∧ doubtOpen t rowGraph kindGraph f.graph) ∧
      t.mem = s.mem) ∧
  (∀ (s : State) (n : Nat) (f : Flow) (i : PItem), islandRuns s 1 = true → formatterReady s n = true →
    tabGet? s.pool.flows n = some f → nextRelease f = some i →
    ∃ t f', exec (.resultRelease n) s = .next t ∧ tabGet? t.pool.flows n = some f' ∧ i.done = true ∧ i ∈ f.window ∧
      f'.window = f.window.filter (fun k => k.acc != i.acc) ∧ (f.ordered = true → f.window.head? = some i) ∧
      counted s t 9 0 5 1 ∧ t.mem = s.mem ∧ (∀ k, k ≠ n → tabGet? t.pool.flows k = tabGet? s.pool.flows k)) ∧
  (∀ (s : State) (h : CmdHdr) (c : Nat), Accepted 0x0900 h s → c ≤ 255 →
    ∃ t, answersOk (exec (.coreFence h c 0) s) h 0x0900 t [] ∧ (coreOf t c).fenced = true ∧ (coreOf t c).unit = none ∧
      (∀ k, k ≠ c → coreOf t k = coreOf s k)) ∧
  (∀ (s : State) (h : CmdHdr) (c : Nat), Accepted 0x0901 h s → c ≤ 255 →
    (coreHeld s c = false → answersOk (exec (.coreUnfence h c 0) s) h 0x0901 (setCore s c { coreOf s c with fenced := false }) []) ∧
    (coreHeld s c = true → exec (.coreUnfence h c 0) s = .next (answerRow h 0x0901 (s, .done .busy []))))

/-- R221, R237, R244, R247, R251 to R255, R273, R274: a unit of work begins with its season's rounding and with every
register but the scalar ones of its start record at zero; its scalar instructions act on its registers and its scratchpad;
ISSUE takes an operation record or ends the unit with OP_REFUSED; an operation starts when its hazards are clear and
completes; SPAWN submits an item; and a unit with nothing left signals its completion. -/
def Obligations.CoresRunUnitsOfWork : Prop :=
  (∀ (s : State) (c : Nat) (u : CoreUnit), (coreOf s c).unit = some u → u.begun = false → islandRuns s (2 + c / 16) = true →
    ∃ t, exec (.coreUnitStart c) s = .next t ∧ t = { s with cores := t.cores, trace := t.trace } ∧
      (coreOf t c).unit = some { u with begun := true, start := s.time, rnd := if s.power.season = .spring then 1 else 2 } ∧
      (coreOf t c).sregs = u.regs ∧ (coreOf t c).acc = [] ∧ (coreOf t c).accSet = 0 ∧ (coreOf t c).vregs = [] ∧
      (coreOf t c).vpoison = 0 ∧ (coreOf t c).vmask = [] ∧ (coreOf t c).fenced = (coreOf s c).fenced ∧
      (∀ k, k ≠ c → coreOf t k = coreOf s k)) ∧
  (∀ (s0 s : State) (ecc : List EccHit) (c : Nat) (u : CoreUnit), plant ecc s0 = s → (coreOf s c).unit = some u →
    u.begun = true → u.ended = false → u.pendingIssue = none → islandRuns s (2 + c / 16) = true → u.pc < u.listLen →
      64 * u.list + 4 * u.pc + 4 ≤ spmSize →
    (∀ k, sReg u k < 2 ^ 32) → u.regs.length = 32 →
    (∀ y ∈ s.eccBad, y.addr / 64 ∉ gransOf (spmOf c + (64 * u.list + 4 * u.pc)) 4) →
    let w := leNat (getBytes s (spmOf c + (64 * u.list + 4 * u.pc)) 4)
    let op := bitsAt w 26 6
    let rd := bitsAt w 21 5
    let a := BitVec.ofNat 32 (sReg u (bitsAt w 16 5))
    let b := BitVec.ofNat 32 (sReg u (bitsAt w 11 5))
    let imm := (BitVec.ofNat 16 (bitsAt w 0 16)).signExtend 32
    let addr := (a + imm).toNat
    let wr := fun (u' : CoreUnit) (v : BitVec 32) => u'.pc = u.pc + 1 ∧ u'.ended = false ∧
      (∀ k < 32, sReg u' k = if k = rd ∧ k ≠ 0 then v.toNat else sReg u k)
    ∃ t, exec (.scalarInstruction c ecc) s0 = .next t ∧
      (∀ k, k ≠ c → coreOf t k = coreOf s k) ∧
      (op ≤ 0x0C → (1 ≤ op → op ≤ 9 → bitsAt w 0 11 = 0) → t = { s with cores := t.cores } ∧
        ∃ u', (coreOf t c).unit = some u' ∧ u'.issued = u.issued ∧ u'.ops = u.ops ∧
          (op = 0 → u'.ended = true ∧ u'.regs = u.regs) ∧ (op = 1 → wr u' (a + b)) ∧ (op = 2 → wr u' (a - b)) ∧
          (op = 3 → wr u' (a &&& b)) ∧ (op = 4 → wr u' (a ||| b)) ∧ (op = 5 → wr u' (a ^^^ b)) ∧
          (op = 6 → wr u' (a <<< (b.toNat % 32))) ∧ (op = 7 → wr u' (a >>> (b.toNat % 32))) ∧
          (op = 8 → wr u' (a.sshiftRight (b.toNat % 32))) ∧ (op = 9 → wr u' (a * b)) ∧ (op = 0x0A → wr u' (a + imm)) ∧
          (op = 0x0B → wr u' (BitVec.ofNat 32 (bitsAt w 0 16 * 65536))) ∧
          (op = 0x0C → wr u' (a ||| BitVec.ofNat 32 (bitsAt w 0 16)))) ∧
      (∀ m < 4, addr % 2 ^ m = 0 → addr + 2 ^ m ≤ spmSize → (m = 3 → rd % 2 = 0) →
        (op = 0x10 + m → rowBusy u (addr / 64) false = false →
          (∀ y ∈ s.eccBad, y.addr / 64 ∉ gransOf (spmOf c + addr) (2 ^ m)) → t = { s with cores := t.cores } ∧
          let v := leNat (getBytes s (spmOf c + addr) (2 ^ m))
          ∃ u', (coreOf t c).unit = some u' ∧ u'.pc = u.pc + 1 ∧ u'.ended = false ∧
            (∀ k < 32, sReg u' k = if k = rd ∧ k ≠ 0 then v % 2 ^ 32 else if m = 3 ∧ k = rd + 1 then v / 2 ^ 32 else sReg u k)) ∧
        (op = 0x14 + m → rowBusy u (addr / 64) true = false →
          memRead t.mem (spmOf c + addr) (2 ^ m) =
            leBytes (2 ^ m) (sReg u rd + (if m = 3 then sReg u (rd + 1) * 2 ^ 32 else 0)) ∧
          (∃ u', (coreOf t c).unit = some u' ∧ u'.pc = u.pc + 1 ∧ u'.regs = u.regs) ∧
          (∀ k, (k < spmOf c + addr ∨ spmOf c + addr + 2 ^ m ≤ k) → memByte t.mem k = memByte s.mem k))) ∧
      (0x18 ≤ op → op ≤ 0x1B →
        let r := BitVec.ofNat 32 (sReg u rd)
        let taken := (op = 0x18 ∧ a = r) ∨ (op = 0x19 ∧ a ≠ r) ∨ (op = 0x1A ∧ a.slt r = true) ∨ (op = 0x1B ∧ a.ult r = true)
        (¬ taken → t = { s with cores := t.cores } ∧
          ∃ u', (coreOf t c).unit = some u' ∧ u'.pc = u.pc + 1 ∧ u'.regs = u.regs ∧ u'.ended = false) ∧
        (taken → ∀ p : Nat, (p : Int) = u.pc + (BitVec.ofNat 16 (bitsAt w 0 16)).toInt → p < u.listLen →
          t = { s with cores := t.cores } ∧
          ∃ u', (coreOf t c).unit = some u' ∧ u'.pc = p ∧ u'.regs = u.regs ∧ u'.ended = false)) ∧
      (op = 0x1C → t = { s with cores := t.cores } ∧
        ∃ u', (coreOf t c).unit = some u' ∧ u'.pc = u.pc + 1 ∧ u'.pendingIssue = some addr)) ∧
  (∀ (s0 s : State) (ecc : List EccHit) (c row : Nat) (u : CoreUnit), (coreOf (plant ecc s0) c).unit = some u →
    islandRuns s0 (2 + c / 16) = true → u.pendingIssue = some row → row < spmRows →
    meetRecord (plant ecc s0) c (64 * row) = s →
    let bad := rangeBad s (spmOf c + 64 * row) 64
    let r := getBytes s (spmOf c + 64 * row) 64
    (bad = false → recordRefusal s c u r = none → queueFull u (decide (3 ≤ recOpcode r)) = true →
      exec (.issue c ecc) s0 = .next s) ∧
    (bad = false → recordRefusal s c u r = none → queueFull u (decide (3 ≤ recOpcode r)) = false →
      ∃ t u' o, exec (.issue c ecc) s0 = .next t ∧ t = { s with cores := t.cores } ∧ (coreOf t c).unit = some u' ∧
        u'.ops = u.ops ++ [o] ∧ o.record = r ∧ o.issueNo = u.issued ∧ o.started = false ∧ o.snap = u.regs ∧ o.snapBad = u.taint ∧
        u'.issued = u.issued + 1 ∧ u'.pendingIssue = none ∧ u'.ended = u.ended) ∧
    (∀ st, (bad = true ∧ st = .badField) ∨ (bad = false ∧ recordRefusal s c u r = some st) →
      ∃ t u', exec (.issue c ecc) s0 = .next t ∧ (coreOf t c).unit = some u' ∧ u'.ended = true ∧ u'.status = st ∧ u'.ops = [] ∧
        doubtOpen t rowCore kindCore c)) ∧
  (∀ (s : State) (c i : Nat) (v : Bool) (u : CoreUnit) (o : CoreOp), (coreOf s c).unit = some u →
    u.ops.findIdx? (fun o => o.vector == v && ! o.started) = some i → u.ops[i]? = some o →
    islandRuns s (2 + c / 16) = true → hazardFree (u.ops.take i) o = true →
    (v = false → arrayFree u = true → exec (.opStart c v) s = .next (setUnit s c (some (startOp u i 0)))) ∧
    (v = true → ∀ p, freePipe s c u o = some p → exec (.opStart c v) s = .next (setUnit s c (some (startOp u i p))))) ∧
  (∀ (s s1 : State) (c k : Nat) (parity : List Nat) (ecc : List EccHit) (u : CoreUnit) (o : CoreOp) (rep : OpRep),
    (coreOf s c).unit = some u →
    islandRuns s (2 + c / 16) = true → u.ops.find? (fun o => o.issueNo == k && o.started && ! opIsSpawn o) = some o →
    runOp (meet (opReadsGran c o) (plant ecc s)) c u o none parity = (s1, rep) →
    ∃ t u', exec (.opComplete c k parity ecc) s = .next t ∧ (coreOf t c).unit = some u' ∧ (∀ e ∈ u'.ops, e ∈ u.ops ∧ e.issueNo ≠ k) ∧
      (∀ e ∈ u.ops, e.issueNo ≠ k → e ∈ u'.ops) ∧ (∀ j, j ≠ c → coreOf t j = coreOf s j) ∧
      (recOpcode o.record = 0x0E → t.mem = s.mem ∧ (u.posted = none →
        u'.posted = some (postRow s1 c (fieldAt o.record 16 2)))) ∧
      (recOpcode o.record ≠ 0x0E → t.mem = s1.mem ∧ u'.parity = u.parity + rep.tiles ∧
        u'.accSat = min (u.accSat + rep.acc) (2 ^ 32 - 1) ∧ u'.outSat = min (u.outSat + rep.out) (2 ^ 32 - 1) ∧
        (0 < rep.tiles → doubtOpen t rowCore kindCore c)) ∧
      t.graphs = s.graphs ∧ t.nodes = s.nodes ∧ t.pool = s.pool ∧ t.time = s.time) ∧
  (∀ (s s1 : State) (ecc : List EccHit) (c : Nat) (u : CoreUnit) (o : CoreOp) (x : Submission), (coreOf s c).unit = some u →
    u.ops.find? (fun o => o.started && opIsSpawn o) = some o → spawnItem s c u (fieldAt o.record 16 2) = some x →
    islandRuns s (2 + c / 16) = true → islandRuns s 1 = true → acceptable s x = true →
    meetRange (spmOf c + 64 * fieldAt o.record 16 2) 16 (plant ecc s) = s1 →
    ∃ t u', exec (.spawn c ecc) s = .next t ∧ t = { s1 with cores := t.cores, pool := { s.pool with subs := s.pool.subs ++ [x] } } ∧
      x.bytes = getBytes s (spmOf c + 64 * fieldAt o.record 16 2) 16 ∧
      (coreOf t c).unit = some u' ∧ (∀ e ∈ u'.ops, e.issueNo ≠ o.issueNo)) ∧
  (∀ (s : State) (c : Nat) (u : CoreUnit), (coreOf s c).unit = some u → u.begun = true → u.ended = true → u.ops = [] →
    islandRuns s (2 + c / 16) = true →
    ∃ t, exec (.coreUnitComplete c) s = .next t ∧ (coreOf t c).unit = none ∧ (∀ k, k ≠ c → coreOf t k = coreOf s k) ∧
      t.mem = s.mem ∧ counted s t 0 c 4 1 ∧
      (∀ n y q, u.work = .node n → tabGet? s.nodes n = some y → y.run = some q →
        tabGet? t.nodes n = some { y with run := some { q with unitDone := true } }))

/-- R115, R120, R121, R139, R140, R166, R168: an engine run begins when its engine reads descriptor and headers, and ends
with its completion signal; a stopped one ends without; and OBX emits its closed objects in order, each with the next OBJ_ID
of its pipe and its 64-byte record. -/
def Obligations.EnginesRunTheirNodes : Prop :=
  (∀ (s : State) (e n : Nat) (r : EngRun) (ecc : List EccHit), tabGet? s.engines e = some r → r.node = some n → r.begun = false →
    r.stopping = false →
    islandRuns s (18 + e / 6) = true → unitStalled s 3 e = false →
    ∃ t q, exec (.engineRunStart e ecc) s = .next t ∧ tabGet? t.engines e = some q ∧ q.begun = true ∧ q.tBegin = s.time ∧
      q.node = some n ∧ q.f = r.f ∧ (∀ k, k ≠ e → tabGet? t.engines k = tabGet? s.engines k) ∧
      (e % 6 ≠ 5 → t.mem = s.mem) ∧ t.graphs = s.graphs ∧ t.nodes = s.nodes ∧ t.time = s.time) ∧
  (∀ (s : State) (e n : Nat) (r : EngRun) (ecc : List EccHit), tabGet? s.engines e = some r → r.node = some n →
    islandRuns s (18 + e / 6) = true → unitStalled s 3 e = false →
    (r.stopping = false → r.begun = true → r.objects = [] → (∀ x ∈ s.pool.subs, x.node ≠ n) →
      ∃ t, exec (.engineRunDone e ecc) s = .next t ∧ tabGet? t.engines e = none ∧
        (∀ k, k ≠ e → tabGet? t.engines k = tabGet? s.engines k) ∧ t.time = s.time ∧
        (∀ y q, tabGet? s.nodes n = some y → y.run = some q →
          tabGet? t.nodes n = some { y with run := some { q with unitDone := true } })) ∧
    (r.stopping = true → ∃ t, exec (.engineRunDone e ecc) s = .next t ∧ tabGet? t.engines e = none ∧
      (∀ k, k ≠ e → tabGet? t.engines k = tabGet? s.engines k) ∧ t.nodes = s.nodes ∧ t.time = s.time)) ∧
  (∀ (s : State) (k n : Nat) (r : EngRun) (c : Comp) (rest : List Comp), tabGet? s.engines (6 * k + 5) = some r →
    r.node = some n → r.objects = c :: rest → r.stopping = false → islandRuns s (18 + k) = true →
    unitStalled s 3 (6 * k + 5) = false →
    let d := r.desc
    let pipe := fieldAt d 11 1
    let id := tabGet 0 s.objNext pipe
    let addr := fieldAt d 16 8 + id % max 1 (fieldAt d 24 2) * 64
    canEmit s d n id = true →
    ∃ t q, exec (.obxObjectEmit k) s = .next t ∧ tabGet? t.engines (6 * k + 5) = some q ∧ q.objects = rest ∧
      q.emitted = r.emitted + 1 ∧ tabGet 0 t.objNext pipe = (id + 1) % 2 ^ 32 ∧
      (accessStatus s (nodeDom s n) true addr (objRecord d c id).bytes.length = .ok →
        memRead t.mem addr (objRecord d c id).bytes.length = (objRecord d c id).bytes) ∧
      (∀ a, (a < addr ∨ addr + (objRecord d c id).bytes.length ≤ a) → memByte t.mem a = memByte s.mem a) ∧
      (bitAt (fieldAt d 2 1) 4 = true → ∃ x, t.pool.subs = s.pool.subs ++ [x] ∧ x.node = n ∧ x.f = r.f ∧
        x.bytes = objItem d id addr) ∧
      (bitAt (fieldAt d 2 1) 4 = false → t.pool = s.pool))

/-! ### The safety monitor (chapter 17) -/

/-- R426, R430, R431, R434, R493: SAFETY_ARM takes a policy and arms the monitor while no graph is active; SAFETY_DISARM
disarms it; SAFETY_STATUS reports the policy and the open conditions; SAFETY_CLEAR clears a condition that it may; FBC_LOAD
stores a rule table and FBC_READ gives it back. -/
def Obligations.SafetyCommandsHaveTheirEffect : Prop :=
  (∀ (s : State) (h : CmdHdr) (pol : List Byte), Accepted 0x0500 h s → pol.length = 32 →
    crc32c (pol.take 28) = fieldAt pol 28 4 → policyReserved pol = none → policyParam pol = none →
    ((∀ e ∈ s.graphs, e.2.st = .loaded) → (s.graphs = [] ∨ policyMoves s pol = false) →
      ∃ t, answersOk (exec (.safetyArm h pol) s) h 0x0500 t [] ∧ t = { s with safety := t.safety } ∧ t.safety.armed = true ∧
        t.safety.policy = pol ∧ t.safety.conds = s.safety.conds ∧ t.safety.fbc = s.safety.fbc ∧
        t.safety.doubtLow = doubtPin t) ∧
    ((∃ e ∈ s.graphs, e.2.st ≠ .loaded) →
      exec (.safetyArm h pol) s = .next (answerRow h 0x0500 (s, .done .busy [])))) ∧
  (∀ (s : State) (h : CmdHdr), Accepted 0x0501 h s →
    ((∀ e ∈ s.graphs, e.2.st = .loaded) → ∃ t, answersOk (exec (.safetyDisarm h) s) h 0x0501 t [] ∧
      t = { s with safety := { s.safety with armed := false, doubtLow := t.safety.doubtLow } } ∧ t.safety.doubtLow = doubtPin t) ∧
    ((∃ e ∈ s.graphs, e.2.st ≠ .loaded) →
      exec (.safetyDisarm h) s = .next (answerRow h 0x0501 (s, .done .busy [])))) ∧
  (∀ (s : State) (h : CmdHdr), Accepted 0x0502 h s → s.safety.policy.length = 32 →
    let n := (s.safety.conds.filter (fun c => c.st != .clear)).length
    ∃ p, answersOk (exec (.safetyStatus h) s) h 0x0502 s p ∧ p.take 32 = s.safety.policy ∧ p.length = 48 + 16 * n ∧
      fieldAt p 32 4 = bit01 s.safety.armed + 2 * bit01 s.safety.smFault + 4 * bit01 s.safety.doubtLow ∧
      fieldAt p 36 8 = goldenBase ∧ fieldAt p 44 4 = n % 2 ^ 32) ∧
  (∀ (s : State) (h : CmdHdr) (row kind scope : Nat), Accepted 0x0503 h s → 1 ≤ row → row ≤ 14 → kind ≤ 7 →
    scope < kindCount kind →
    let c := (s.safety.conds.find? (isCond row kind scope)).getD (condNew row kind scope)
    (clearBlocked s c = false → ∃ t, answersOk (exec (.safetyClear h row kind scope) s) h 0x0503 t (leBytes 4 0) ∧ DoubtOnly s t ∧
      ∀ d, t.safety.conds.find? (isCond row kind scope) = some d → d.st = .clear) ∧
    (clearBlocked s c = true → exec (.safetyClear h row kind scope) s = .next (answerRow h 0x0503 (s, .done .busy [])))) ∧
  (∀ (s : State) (h : CmdHdr) (kind scope : Nat), Accepted 0x0503 h s →
    ∃ t p, answersOk (exec (.safetyClear h 255 kind scope) s) h 0x0503 t p ∧ DoubtOnly s t ∧
      (∀ d ∈ t.safety.conds, d.st ≠ .clear → clearBlocked s d = true) ∧
      fieldAt p 0 4 = (s.safety.conds.filter (fun c => c.st != .clear && clearBlocked s c)).length % 2 ^ 32) ∧
  (∀ (s : State) (h : CmdHdr) (pipe addr : Nat) (t : List Byte), Accepted 0x0504 h s → pipe ≤ 63 →
    2 ≤ h.domain → h.domain ≤ 15 → readStruct s 13 0 h.domain addr 2080 = (s, .ok, t) →
    crc32c (t.take 28 ++ t.drop 32) = fieldAt t 28 4 → fbcReserved t = false → fbcParam t = false → pipeRead s pipe = false →
    answersOk (exec (.fbcLoad h pipe 0 addr) s) h 0x0504
      { rulesWritten s pipe with safety := { s.safety with fbc := tabSet pipe t s.safety.fbc } } []) ∧
  (∀ (s : State) (h : CmdHdr) (pipe : Nat) (t : List Byte), Accepted 0x0505 h s → pipe ≤ 63 →
    tabGet? s.safety.fbc pipe = some t → answersOk (exec (.fbcRead h pipe 0) s) h 0x0505 s t)

/-- R427, R428, R430, R433, R436 to R441, R461: what the monitor sees opens its condition; a level ends; an interval's end
counts the clean conditions' passes and begins the next round of golden runs; golden runs start and pass or fail; the
monthly test runs in its slot; and DOUBT_N's pulse ends. -/
def Obligations.MonitorOpensCountsAndTests : Prop :=
  (∀ (s : State) (row kind scope : Nat) (level : Bool), DoubtOnly s (failCond s row kind scope level) ∧
    doubtOpen (failCond s row kind scope level) row kind scope ∧ (failCond s row kind scope level).safety.doubtLow =
      doubtPin (failCond s row kind scope level)) ∧
  (∀ (s : State) (n : Nat) (c : Cond),
    (c.st = .transient → isClean s n c = true → c.passes + 1 < polK s.safety.policy →
      closeCond s n c = { c with passes := c.passes + 1 }) ∧
    (c.st = .transient → isClean s n c = true → polK s.safety.policy ≤ c.passes + 1 →
      closeCond s n c = { c with st := .clear, passes := 0 }) ∧
    (c.st ≠ .transient ∨ isClean s n c = false → closeCond s n c = c)) ∧
  (∀ s : State, fwUp s = true → s.ev.sink = none → s.ev.fifo.length < 1024 → s.ev.lost = 0 →
    ∃ t e, exec .pmbAlert s = .next t ∧ EventsOnly s t ∧ t.ev.fifo = s.ev.fifo ++ [e] ∧ e.code = 0x0004) ∧
  (∀ s : State, aonRuns s = true → s.rst.tripped = false →
    ∃ t, exec .refclkLoss s = .next t ∧ doubtOpen t rowRefclk kindDevice 0 ∧
      t.rst = { s.rst with refLostAt := some (s.rst.refLostAt.getD s.time), refGoodAt := none } ∧
      DoubtOnly { s with rst := t.rst } t) ∧
  (∀ (s : State) (rail mv : Nat), aonRuns s = true → s.rst.tripped = false →
    ∃ t, exec (.vmon rail mv) s = .next t ∧ DoubtOnly s t ∧ doubtOpen t rowVmon kindDevice 0) ∧
  (∀ (s : State) (i : Nat) (ppm : Int), aonRuns s = true → i < 55 → islandRuns s i = true → 200 < ppm.natAbs →
    ∃ t, exec (.clkMon i ppm) s = .next t ∧ DoubtOnly s t ∧ doubtOpen t rowClk kindIsland i) ∧
  (∀ (s : State) (row kind scope : Nat), aonRuns s = true → s.rst.tripped = false →
    (row = rowClk ∨ row = rowVmon ∨ row = rowRefclk) →
    ∃ t, exec (.doubtLevelEnd row kind scope) s = .next t ∧
      t = { s with rst := t.rst, safety := { s.safety with conds := t.safety.conds } } ∧
      (∀ c ∈ t.safety.conds, isCond row kind scope c = true → c.level = false) ∧
      (row ≠ rowRefclk → t.rst = s.rst)) ∧
  (∀ s : State, s.boot.fwReady = true → s.rst.tripped = false →
    ∃ t, exec .frameIntervalEnd s = .next t ∧ t.time = max s.time ((s.safety.interval + 1) * polFI s.safety.policy) ∧
      t.safety.interval = s.safety.interval + 1 ∧ t.safety.patPass = [] ∧ t.safety.patFail = [] ∧ t.mem = s.mem ∧
      (∀ g ∈ t.safety.golden, g.started = none ∧ g.done = false) ∧ t.graphs = s.graphs ∧ t.pipes = s.pipes) ∧
  (∀ (s : State) (t0 : Nat), s.safety.pulseEnd = some t0 →
    ∃ t, exec .doubtPulseEnd s = .next t ∧ t = { s with time := max s.time t0, safety := { s.safety with
      pulseEnd := none, doubtLow := t.safety.doubtLow } } ∧ t.safety.doubtLow = doubtPin t) ∧
  (∀ (s : State) (cls u : Nat), s.boot.fwReady = true → s.rst.tripped = false → goldenDue s cls u = true →
    s.time < intervalEnd s → unitIdle s (cls, u) = true → islandRuns s (islandOf cls u) = true → unitStalled s cls u = false →
    nodeBefore s cls u = false → hasTokens s (unitGroup cls u) .safety 1 = true →
    ∃ t, exec (.goldenRunStart cls u) s = .next t ∧ goldenRuns t cls u = true ∧
      t = { s with safety := { s.safety with golden := t.safety.golden }, power := { s.power with budgets := t.power.budgets },
                   trace := t.trace } ∧
      (∀ g ∈ t.safety.golden, isGolden cls u g = true → g.started = some s.time) ∧
      (budgetOf t (unitGroup cls u)).safety = (budgetOf s (unitGroup cls u)).safety - 1) ∧
  (∀ (s : State) (cls u : Nat) (res : GoldenResult), s.boot.fwReady = true → s.rst.tripped = false →
    goldenRuns s cls u = true → s.time ≤ intervalEnd s → islandRuns s (islandOf cls u) = true →
    ∃ t, exec (.goldenRunDone cls u res) s = .next t ∧ t.mem = s.mem ∧
      (∀ g ∈ t.safety.golden, isGolden cls u g = true → g.done = true ∧ (g.passed = true ↔ res = .pass)) ∧
      (res ≠ .pass → doubtOpen t rowGolden (goldenScope cls u).1 (goldenScope cls u).2) ∧
      (res = .pass → t.safety.conds = s.safety.conds)) ∧
  (∀ (s : State) (cls u : Nat) (g : Golden), s.boot.fwReady = true → s.rst.tripped = false →
    s.safety.golden.find? (isGolden cls u) = some g → g.done = false → goldenLive s g = true →
    ∃ t, exec (.goldenRunOverdue cls u) s = .next t ∧ t.time = max s.time (overdueAt s g).1 ∧
      (∀ k ∈ t.safety.golden, isGolden cls u k = true → k.done = true ∧ k.passed = false) ∧
      doubtOpen t rowGolden (goldenScope cls u).1 (goldenScope cls u).2) ∧
  (∀ s : State, s.boot.fwReady = true → s.rst.tripped = false →
    ∃ t, exec .monthSlotStart s = .next t ∧ t.safety.month = s.safety.month + 1 ∧ t.safety.monthTested = false ∧
      t.time = max s.time ((s.safety.month + 1) * polSlot s.safety.policy) ∧
      (s.safety.monthTested = true → t.safety.deferrals = s.safety.deferrals) ∧
      (s.safety.monthTested = false → s.safety.month % 12 < s.safety.deferrals.length →
        nth t.safety.deferrals (s.safety.month % 12) = nth s.safety.deferrals (s.safety.month % 12) + 1 ∧
        (nth s.safety.deferrals (s.safety.month % 12) = 2 → doubtOpen t rowTest kindDevice 0))) ∧
  (∀ (s : State) (d : Nat), s.boot.fwReady = true → s.rst.tripped = false → s.safety.monthTested = false →
    s.safety.monthRunning = false → s.safety.month * polSlot s.safety.policy ≤ s.time →
    s.time + d ≤ (s.safety.month + 1) * polSlot s.safety.policy →
    (d ≤ 8000 ∨ ¬ (2 ≤ s.safety.month % 12 ∧ s.safety.month % 12 ≤ 5)) → (∀ e ∈ s.nodes, avoidsNode s s.time d e.1 e.2 = true) →
    holdsAll s (stallDraws s (s.safety.month % 12)) = true →
    exec (.selfTestStart d) s = .next { drawAll s (stallDraws s (s.safety.month % 12)) with safety := { s.safety with
      monthRunning := true, monthTested := true, deferrals := s.safety.deferrals.set (s.safety.month % 12) 0 } } ∧
    drawAll s (stallDraws s (s.safety.month % 12)) = { s with power := { s.power with
      budgets := (drawAll s (stallDraws s (s.safety.month % 12))).power.budgets } }) ∧
  (∀ (s : State) (bad : Option Nat), s.boot.fwReady = true → s.rst.tripped = false → s.safety.monthRunning = true →
    ∃ t, exec (.selfTestDone bad) s = .next t ∧ t.safety.monthRunning = false ∧ t.safety.openings = [] ∧
      t.safety.overlaps = s.safety.overlaps + (s.safety.openings.filter (fun o => decide (o < s.time))).length ∧
      (bad ≠ none → doubtOpen t rowChecker kindDevice 0) ∧
      (bad = none → (s.safety.month % 12) ∉ t.safety.overdue ∧
        t = { s with safety := { s.safety with monthRunning := false, openings := [], overlaps := t.safety.overlaps,
                                               overdue := t.safety.overdue, conds := t.safety.conds } }))

/-! ### Power and temperature (chapter 18) -/

/-- R47, R443 to R452, R454 to R456, R493: a season change is accepted when no graph runs and every graph is admitted for
it, and takes effect with its clocks and supply; the cap applies from the next epoch; the controller steps with the power
and the heat; islands stop, once the reads that they have accepted are complete, and start; and the temperature rows warn,
at 125 °C with a trip that releases every pin. -/
def Obligations.PowerFollowsSeasonCapAndHeat : Prop :=
  (∀ (s : State) (h : CmdHdr) (k : Nat), Accepted 0x0600 h s → k ≤ 3 → (∀ e ∈ s.graphs, e.2.st ≠ .running) →
    pFloor (seasonOf k) ≤ s.power.nextCap → s.power.changing = none →
    ((∀ e ∈ s.graphs, bitAt e.2.mask k = true) → answersLater (exec (.seasonSet h k 0) s) h 0x0600
      { s with power := { s.power with changing := some (seasonOf k) },
               rst := { s.rst with vrmMv := max s.rst.vrmMv (if seasonOf k = .summer then 800 else 745) } } .season) ∧
    ((∃ e ∈ s.graphs, bitAt e.2.mask k = false) →
      exec (.seasonSet h k 0) s = .next (answerRow h 0x0600 (s, .done .norate [])))) ∧
  (∀ (s : State) (x : Season), fwUp s = true → s.power.changing = some x →
    ∃ t, exec .seasonChangeDone s = .next t ∧ completesWait s t .season .ok [] ∧
      t.power = { s.power with season := x, changing := none, lambda := 16, cgKhz := if x = .winter then 200000 else 250000 } ∧
      t.rst = { s.rst with vrmMv := if x = .summer then 800 else 745 } ∧ t.mem = s.mem ∧ t.graphs = s.graphs) ∧
  (∀ (s : State) (h : CmdHdr) (w : Nat), Accepted 0x0601 h s → 120 ≤ w → w ≤ 420 → pFloor s.power.season ≤ w →
    answersOk (exec (.powerCapSet h w 0) s) h 0x0601 { s with power := { s.power with nextCap := w } } []) ∧
  (∀ (s : State) (h : CmdHdr), Accepted 0x0602 h s → s.power.temps.length = 64 →
    ∃ p, answersOk (exec (.powerStatus h) s) h 0x0602 s p ∧ p.length = 208 ∧
      fieldAt p 128 4 = s.power.powerMw % 2 ^ 32 ∧ fieldAt p 132 2 = s.power.cap % 65536 ∧
      fieldAt p 134 1 = s.power.th % 256 ∧ fieldAt p 135 1 = s.power.lambda % 256 ∧
      fieldAt p 136 1 = seasonIdx s.power.season ∧ fieldAt p 140 4 = s.power.cgKhz % 2 ^ 32) ∧
  (∀ (s : State) (h : CmdHdr) (th : Nat), Accepted 0x0603 h s → 85 ≤ th → th ≤ 110 →
    ∃ t, answersOk (exec (.thermalSet h th 0) s) h 0x0603 t [] ∧
      EventsOnly { s with power := { s.power with th := th, warned := decide ((16 * th : Nat) ≤ hottest s.power) } } t) ∧
  (∀ (s : State) (h : CmdHdr) (i : Nat), Accepted 0x0604 h s → 2 ≤ i → i ≤ 54 → i ≠ 50 →
    (s.islands.getLsbD i = true → islandHeld s i = false →
      ∃ t, answersOk (exec (.islandStop h i 0) s) h 0x0604 t [] ∧
        ((∀ c, runAt s c = none) → t = { s with islands := t.islands, trace := t.trace }) ∧
        (∀ c r m, runAt s c = some r → moverAt s c = some m → r.busy = true → isRemote s (tdesc r.src) = false →
          m.stopping = false → (∀ g ∈ r.todo.take m.tags, accessStatus s m.dom false (g * 64) 64 = .ok) →
          ∀ g ∈ r.todo.take m.tags, ∀ x, mapTarget s (g * 64) 64 = some x → targetIsland x = i →
          ∃ r', runAt t c = some r' ∧ r'.todo = r.todo ∧ (tabGet? r'.got g).isSome = true) ∧
        t.islands.getLsbD i = false ∧ ∀ j, j ≠ i → t.islands.getLsbD j = s.islands.getLsbD j) ∧
    (s.islands.getLsbD i = true → islandHeld s i = true →
      exec (.islandStop h i 0) s = .next (answerRow h 0x0604 (s, .done .busy []))) ∧
    (s.islands.getLsbD i = false → answersOk (exec (.islandStop h i 0) s) h 0x0604 s [])) ∧
  (∀ (s : State) (h : CmdHdr) (i : Nat), Accepted 0x0605 h s → 2 ≤ i → i ≤ 54 → i ≠ 50 →
    (s.islands.getLsbD i = false →
      ∃ t, answersOk (exec (.islandStart h i 0) s) h 0x0605 t [] ∧ t = { s with islands := t.islands, trace := t.trace } ∧
        t.islands.getLsbD i = true ∧ ∀ j, j ≠ i → t.islands.getLsbD j = s.islands.getLsbD j) ∧
    (s.islands.getLsbD i = true → answersOk (exec (.islandStart h i 0) s) h 0x0605 s [])) ∧
  (∀ (s : State) (k : Nat) (temp : Int), fwUp s = true → k < 64 →
    let p := { s.power with temps := s.power.temps.set k temp }
    ∃ t, exec (.thermalSensorRead k temp) s = .next t ∧
      EventsOnly { s with power := { p with warned := decide ((16 * p.th : Nat) ≤ hottest p) } } t) ∧
  (∀ (s : State) (k : Nat) (temp : Int), k < 64 → 2000 ≤ temp → s.rst.porstN = true → aonPowered s = true →
    ∃ t, exec (.thermalTrip k temp) s = .next t ∧ t.rst = { s.rst with tripped := true, pmbDriven := false } ∧
      t.safety = { s.safety with doubtLow := true } ∧ (∀ i, islandRuns t i = false) ∧
      (∀ e ∈ t.trigs, e.2.pin = .z) ∧ (∀ e ∈ t.eports, e.2.wm = .z ∧ e.2.urun = .z ∧ e.2.driven = false) ∧
      t = { s with rst := t.rst, safety := t.safety, trigs := t.trigs, eports := t.eports }) ∧
  (∀ (s : State) (mw : Nat), aonRuns s = true → s.rst.tripped = false →
    let hot := 1000 * s.power.nextCap < mw ∨ ((16 * s.power.th : Nat) : Int) ≤ hottest s.power
    let cool := mw < 970 * s.power.nextCap ∧ hottest s.power < ((16 * s.power.th : Nat) : Int) - 48
    let nom := if s.power.season = .winter then 200000 else 250000
    ∃ t, exec (.budgetEpochStart mw) s = .next t ∧ t.time = max s.time ((s.power.epoch + 1) * 16000) ∧
      t.power.cap = s.power.nextCap ∧ t.power.powerMw = mw ∧ t.power.epoch = t.time / 16000 ∧ t.power.temps = s.power.temps ∧
      (hot → 0 < s.power.lambda → t.power.lambda = s.power.lambda - 1 ∧ t.power.cgKhz = s.power.cgKhz) ∧
      (hot → s.power.lambda = 0 → floorKhz s.power.season < s.power.cgKhz →
        t.power.lambda = 0 ∧ t.power.cgKhz = s.power.cgKhz - 6250) ∧
      (¬ hot → cool → s.power.cgKhz < nom → t.power.lambda = s.power.lambda ∧ t.power.cgKhz = s.power.cgKhz + 6250) ∧
      (¬ hot → cool → nom ≤ s.power.cgKhz → s.power.lambda < 16 → t.power.lambda = s.power.lambda + 1) ∧
      (¬ hot → ¬ cool → t.power.lambda = s.power.lambda ∧ t.power.cgKhz = s.power.cgKhz) ∧ t.mem = s.mem)

/-! ### Trace, counters, watches, debug and test access (chapter 19) -/

/-- R465 to R474, R478 to R480, R493: trace channels start with their channel's body, stop, report, trigger and take the
records of every source in order; the control processor marks the trace; and counters are latched at each 1 ms boundary,
read from the latches and cleared at the next boundary. -/
def Obligations.TraceChannelsAndCountersFollowTheirCommands : Prop :=
  (∀ (s s' : State) (h : CmdHdr) (c : Nat) (e : List Byte), Accepted 0x0700 h s → fetchEntry s h.domain c 5 0 = (s', .inr e) →
    traceBody e = none → traceActive (traceOf s (fieldAt e 2 2)) = false → (traceOf s (fieldAt e 2 2)).dests = [] →
    meetsChannel s (fieldAt e 24 4) (fieldAt e 28 4) = false → meetsDump s 64 (fieldAt e 24 4) (fieldAt e 28 4) = false →
    (fieldAt e 48 8 ≠ 0 → mapTarget s (fieldAt e 48 8) (fieldAt e 56 4) = some 0) →
    (ddrFit s (fun _ => cdiv (traceOfEntry e c h.domain).spillRate 4)).1 = false →
    answersOk (exec (.traceStart h c 0) s) h 0x0700 (setTrace s' (fieldAt e 2 2) (traceOfEntry e c h.domain)) [] ∧
    (traceOfEntry e c h.domain).st = (if fieldAt e 8 1 = 2 then .pre else .running) ∧
    (traceOfEntry e c h.domain).bufOff = fieldAt e 24 4 ∧ (traceOfEntry e c h.domain).bufLen = fieldAt e 28 4) ∧
  (∀ (s : State) (h : CmdHdr) (k : Nat), Accepted 0x0701 h s → k ≤ 7 → traceActive (traceOf s k) = true →
    ((traceOf s k).dests = [] → ∃ t, answersOk (exec (.traceStop h k 0) s) h 0x0701 t [] ∧ t = { s with trace := t.trace } ∧
      traceOf t k = { traceOf s k with st := .stopped } ∧ (∀ j, j ≠ k → traceOf t j = traceOf s j)) ∧
    ((traceOf s k).dests ≠ [] → ∃ t, answersLater (exec (.traceStop h k 0) s) h 0x0701 t (.traceStop k) ∧
      (traceOf t k).st = .stopped ∧ (traceOf t k).dests.length % 256 = 0 ∧ (∀ j, j ≠ k → traceOf t j = traceOf s j))) ∧
  (∀ (s : State) (h : CmdHdr), Accepted 0x0702 h s → ∃ p, answersOk (exec (.traceStatus h) s) h 0x0702 s p ∧ p.length = 256 ∧
    ∀ c < 8, fieldAt p (32 * c) 1 = traceStIdx (traceOf s c).st ∧ fieldAt p (32 * c + 4) 4 = (traceOf s c).wr % 2 ^ 32 ∧
      fieldAt p (32 * c + 16) 4 = min (traceOf s c).lost (2 ^ 32 - 1)) ∧
  (∀ (s : State) (h : CmdHdr) (k : Nat), Accepted 0x0703 h s → k ≤ 7 → traceActive (traceOf s k) = true →
    bitAt (traceOf s k).trig 0 = true →
    let x := traceOf s k
    ((x.mode = 2 ∧ x.triggered = true) ∨ (x.mode = 1 ∧ x.st = .full) →
      answersOk (exec (.traceTrigger h k 0) s) h 0x0703 (setTrace s k { x with ignored := x.ignored + 1 }) []) ∧
    (¬ ((x.mode = 2 ∧ x.triggered = true) ∨ (x.mode = 1 ∧ x.st = .full)) →
      ∃ t, answersOk (exec (.traceTrigger h k 0) s) h 0x0703 t [] ∧ (traceOf t k).triggered = true ∧
        (x.mode = 2 → (traceOf t k).st = .post) ∧ (∀ j, j ≠ k → traceOf t j = traceOf s j))) ∧
  (∀ (s : State) (h : CmdHdr) (v : Nat), Accepted 0x0704 h s →
    ∃ t, answersOk (exec (.traceMark h v) s) h 0x0704 t [] ∧ t = { s with trace := t.trace } ∧ t.trace.chans = s.trace.chans ∧
      (tabGet 0 s.trace.fifoLost (srcKey 13 0) = 0 → fifoLen (tabGet [] s.trace.fifos (srcKey 13 0)) < 16 →
        ∃ r, tabGet [] t.trace.fifos (srcKey 13 0) = tabGet [] s.trace.fifos (srcKey 13 0) ++ [r] ∧ r.kind = 12 ∧ r.arg = v ∧
          r.t = s.time ∧ r.exts = [])) ∧
  (∀ (s : State) (h : CmdHdr) (cls first count : Nat), Accepted 0x0705 h s → cls ≤ 10 → first < classUnits cls →
    first + count ≤ classUnits cls → (∀ e ∈ s.trace.latches, e.2.vals.length = 8) →
    ∃ p, answersOk (exec (.counterRead h cls 0 first count 0) s) h 0x0705 s p ∧ p.length = 64 * count ∧
      ∀ i < count, ∀ j < 8, fieldAt p (64 * i + 8 + 6 * j) 6 =
        nth (tabGet latchNone s.trace.latches (srcKey cls (first + i))).vals j % 2 ^ 48) ∧
  (∀ (s : State) (h : CmdHdr) (cls first count : Nat), Accepted 0x0706 h s → cls ≤ 10 → first < classUnits cls →
    first + count ≤ classUnits cls →
    answersOk (exec (.counterClear h cls 0 first count 0) s) h 0x0706 { s with trace := { s.trace with
      clearing := s.trace.clearing ++ (List.range count).map (fun i => srcKey cls (first + i)) } } []) ∧
  (∀ s : State, aonRuns s = true → s.rst.tripped = false →
    let w := endingWindow s
    ∃ t, exec .counterWindowBoundary s = .next t ∧ t = { s with time := t.time, trace := t.trace, freeCnt := t.freeCnt } ∧
      t.time = max s.time ((w + 1) * 4000000) ∧ t.trace.window = w + 1 ∧ t.trace.clearing = [] ∧
      ∀ cls ≤ 10, ∀ u < classUnits cls, ∃ l, tabGet? t.trace.latches (srcKey cls u) = some l ∧ l.window = w ∧
        ∀ i < 8, i ∉ freeCounters cls → nth l.vals i = counterOf s cls u i ∧
          counterOf t cls u i = if srcKey cls u ∈ s.trace.clearing then 0 else counterOf s cls u i) ∧
  (∀ (s : State) (cls u c : Nat) (r : TraceRec) (q : List TraceRec), islandRuns s 1 = true →
    tabGet [] s.trace.fifos (srcKey cls u) = r :: q → c < 8 → (∀ j < 8, j ≠ c → traceActive (traceOf s j) = false) →
    (traceActive (traceOf s c) = false → exec (.traceRecordArrive cls u) s =
      .next { s with trace := { s.trace with fifos := tabPut [] (srcKey cls u) q s.trace.fifos } }) ∧
    (let x := traceOf s c
     x.st = .running → x.mode = 0 → x.spillBase = 0 → x.gapCnt = 0 → r.exts = [] → recordCause x r = none →
     admits s x r = true →
     ∃ t, exec (.traceRecordArrive cls u) s = .next t ∧ memRead t.mem (traceBase + x.bufOff + x.wr) 16 = headBytes x r ∧
       (∀ a, (a < traceBase + x.bufOff + x.wr ∨ traceBase + x.bufOff + x.wr + 16 ≤ a) → memByte t.mem a = memByte s.mem a) ∧
       (traceOf t c).wr = (if x.bufLen ≤ x.wr + 16 then 0 else x.wr + 16) ∧
       tabGet [] t.trace.fifos (srcKey cls u) = q)) ∧
  (∀ (s0 s : State) (ecc : List EccHit) (k : Nat), plant ecc s0 = s → (traceOf s k).spillBase ≠ 0 →
    256 ≤ (traceOf s k).dests.length → islandRuns s 1 = true → islandRuns s 50 = true →
    ∃ t, exec (.traceSpillCopy k ecc) s0 = .next t ∧
      ((∀ d ∈ (traceOf s k).dests, d + 16 ≤ areaLen (traceOf s k)) → ∀ a, (a < (traceOf s k).spillBase ∨
        (traceOf s k).spillBase + areaLen (traceOf s k) ≤ a) → memByte t.mem a = memByte s.mem a) ∧
      traceOf t k = { traceOf s k with dests := (traceOf s k).dests.drop 256 } ∧
      ((traceOf s k).dests.length = 256 → (traceOf s k).st = .stopped → completesWait s t (.traceStop k) .ok []))

/-- R481 to R485: WATCH_SET defines a watch that its graph's schedule admits, WATCH_CLEAR removes it and WATCH_ARM arms one
that has a trigger; each read of a watch takes the oldest selected run, writes its result in its place of the ring, writes
nowhere else but in the dump area, advances the watch, and disarms it where it fires. R486, R487, R493, R513: the test
access port's instructions set its register, its boundary cells and its pins; DEBUG_ENABLE and DEBUG_DISABLE set the domain
of debug accesses; and one debug access at a time reads or writes eight bytes in that domain. -/
def Obligations.WatchesAndTestAccessFollowTheirRegisters : Prop :=
  (∀ (s : State) (h : CmdHdr) (d : List Byte) (g : Graph), Accepted 0x0707 h s → fieldAt d 1 1 ≤ 15 →
    tabGet? s.graphs (fieldAt d 1 1) = some g → g.st = .loaded → watchReserved d = none → watchBad s g d = none →
    mapTarget s (fieldAt d 32 8) (192 * fieldAt d 40 4) = some 0 →
    let x := watchOf d (fieldAt d 1 1) g h.domain
    let s0 := { s with watches := tabErase (fieldAt d 0 1) s.watches }
    let s1 := { s with watches := tabSet (fieldAt d 0 1) x s.watches }
    (dumpArea x).elim false (fun a => meetsChannel s a.1 a.2 || meetsDump s (fieldAt d 0 1) a.1 a.2) = false →
    sharesUsed s0 16 < 224 → (ddrFit s0 (fun _ => watchDdr s x)).1 = false →
    bitAt (seasonMask g (scheduleAll s1 (fieldAt d 1 1) g) (fun _ => false)) (seasonIdx s.power.season) = true →
    ∃ t, answersOk (exec (.watchSet h d) s) h 0x0707 t [] ∧ t = { s1 with graphs := t.graphs } ∧
      tabGet? t.watches (fieldAt d 0 1) = some x ∧ x.q = 0 ∧ x.pending = [] ∧ (x.armed = true ↔ bitAt (fieldAt d 8 1) 0 = true) ∧
      (∀ k, k ≠ fieldAt d 1 1 → tabGet? t.graphs k = tabGet? s.graphs k)) ∧
  (∀ (s : State) (h : CmdHdr) (k : Nat) (x : Watch) (g : Graph), Accepted 0x0708 h s → k ≤ 63 → tabGet? s.watches k = some x →
    tabGet? s.graphs x.graph = some g → g.st = .loaded →
    ∃ t, answersOk (exec (.watchClear h k 0) s) h 0x0708 t [] ∧ t = { s with watches := t.watches } ∧
      tabGet? t.watches k = none ∧ ∀ j, j ≠ k → tabGet? t.watches j = tabGet? s.watches j) ∧
  (∀ (s : State) (h : CmdHdr) (k : Nat) (x : Watch), Accepted 0x0709 h s → k ≤ 63 → tabGet? s.watches k = some x →
    ∃ t, answersOk (exec (.watchArm h k 0) s) h 0x0709 t [] ∧ t = { s with watches := t.watches } ∧
      tabGet? t.watches k = some { x with armed := bitAt (fieldAt x.def_ 8 1) 0 } ∧
      ∀ j, j ≠ k → tabGet? t.watches j = tabGet? s.watches j) ∧
  (∀ (s0 s : State) (ecc : List EccHit) (k n f : Nat) (x : Watch) (g : Graph) (rest : List (Nat × Nat)), plant ecc s0 = s →
    tabGet? s.watches k = some x → x.pending = (n, f) :: rest → tabGet? s.graphs x.graph = some g → islandRuns s 1 = true →
    let ring := fieldAt x.def_ 32 8 + x.q % max 1 (fieldAt x.def_ 40 4) * 192
    let dump := traceBase + fieldAt x.def_ 44 4
    let td := watchTensor g x.def_
    let core := (tabGet? s.nodes n).elim 0 (fun e => e.unit)
    let es := watchElems s.mem td core
    let st := statsOf td.etype es
    ∃ t y, exec (.watchRead k ecc) s0 = .next t ∧ tabGet? t.watches k = some y ∧ y.q = x.q + 1 ∧ y.pending = rest ∧
      y.def_ = x.def_ ∧ (∀ j, j ≠ k → tabGet? t.watches j = tabGet? s.watches j) ∧ t.nodes = s.nodes ∧ t.graphs = s.graphs ∧
      t = { s with mem := t.mem, marks := t.marks, eccBad := t.eccBad, eccCnt := t.eccCnt, eccWin := t.eccWin,
                   wcache := t.wcache, freeCnt := t.freeCnt, ev := t.ev, trace := t.trace, lports := t.lports,
                   safety := t.safety, watches := t.watches,
                   inst := { s.inst with arrived := t.inst.arrived, discarded := t.inst.discarded } } ∧
      ((∀ c, traceActive (traceOf s c) = false) → ∀ a, (a < ring ∨ ring + 192 ≤ a) →
        (x.armed = false ∨ bitAt (fieldAt x.def_ 8 1) 2 = false ∨ a < dump ∨ dump + denseSize td ≤ a) →
        memByte t.mem a = memByte s.mem a) ∧
      ((∀ c, traceActive (traceOf s c) = false) → x.armed = false → (∀ k ∈ watchGrans td core, ReadsClean s x.dom (k * 64) 64) →
        accessStatus s x.dom true ring 192 = .ok → y.armed = false ∧
        memRead t.mem ring 192 = watchResult s.time f (n - g.base) k 0 td.etype x.def_ st es) ∧
      (x.armed = true → (∀ k ∈ watchGrans td core, ReadsClean s x.dom (k * 64) 64) →
        (watchFires x.def_ st = true → y.armed = false) ∧ (watchFires x.def_ st = false → y.armed = true))) ∧
  (∀ s : State,
    exec .tapReset s = .next { s with tap := { s.tap with ir := 0x01, driving := false, highz := false } } ∧
    exec .idcode s = .next { s with tap := { s.tap with ir := 0x01, driving := false, highz := false } } ∧
    exec .extest s = .next { s with tap := { s.tap with ir := 0x04, driving := true, highz := false } } ∧
    exec .clamp s = .next { s with tap := { s.tap with ir := 0x05, driving := true, highz := false } } ∧
    exec .highz s = .next { s with tap := { s.tap with ir := 0x06, driving := false, highz := true } }) ∧
  (∀ (s : State) (bs : List Bool),
    exec (.sample bs) s = .next { s with tap := { s.tap with ir := 0x02, driving := false, highz := false, cells := bs } } ∧
    exec (.preload bs) s = .next { s with tap := { s.tap with ir := 0x03, driving := false, highz := false, cells := bs } }) ∧
  (∀ (s : State) (c : Nat),
    (c % 256 ∉ [0x01, 0x02, 0x03, 0x04, 0x05, 0x06, 0x20] → exec (.bypass c) s = .next { s with
      tap := { s.tap with ir := BitVec.ofNat 8 (c % 256), driving := false, highz := false } }) ∧
    (c % 256 ∈ [0x01, 0x02, 0x03, 0x04, 0x05, 0x06, 0x20] → exec (.bypass c) s = .next s)) ∧
  (∀ (s t : State) (p : PinName), pinPowered s p = true → pinScanned p = true →
    (exec .extest s = .next t ∨ exec .clamp s = .next t → pinOf t p = pinCell s p) ∧
    (exec .highz s = .next t → pinOf t p = .off)) ∧
  (∀ (s : State) (h : CmdHdr) (d : Nat), Accepted 0x0905 h s → 2 ≤ d → d ≤ 15 →
    answersOk (exec (.debugEnable h d 0) s) h 0x0905 { s with tap := { s.tap with dbgDomain := some d } } []) ∧
  (∀ (s : State) (h : CmdHdr), Accepted 0x0906 h s →
    answersOk (exec (.debugDisable h) s) h 0x0906 { s with tap := { s.tap with dbgDomain := none } } []) ∧
  (∀ (s0 s : State) (ecc : List EccHit) (dr : Nat), plant ecc s0 = s → s.tap.dbgBusy = true → exec (.dbgAccess dr ecc) s0 =
    .next { s with tap := { s.tap with ir := 0x20, driving := false, highz := false } }) ∧
  (∀ (s0 s : State) (ecc : List EccHit) (dr : Nat), plant ecc s0 = s → s.tap.dbgBusy = false →
    let a := 8 * bitsAt dr 3 45
    ∃ t, exec (.dbgAccess dr ecc) s0 = .next t ∧ t.tap.dbgBusy = true ∧ t.tap.dbgStatus = .notReady ∧ t.tap.ir = 0x20 ∧
      DoubtOnly { s with tap := t.tap, mem := t.mem, marks := t.marks, eccBad := t.eccBad, eccCnt := t.eccCnt,
                         eccWin := t.eccWin, wcache := t.wcache, freeCnt := t.freeCnt } t ∧
      (fwUp s = false ∨ s.tap.dbgDomain = none → t.mem = s.mem ∧ t.tap.dbgPendStatus = .denied ∧
        (bitAt dr 0 = false → t.tap.dbgPendData = 0)) ∧
      (∀ d, fwUp s = true → s.tap.dbgDomain = some d → bitAt dr 0 = true →
        t.tap.dbgPendStatus = accessStatus s d true a 8 ∧
        (accessStatus s d true a 8 = .ok → memRead t.mem a 8 = leBytes 8 (dr / 2 ^ 64)) ∧
        (accessStatus s d true a 8 ≠ .ok → t.mem = s.mem) ∧
        (∀ k, (k < a ∨ a + 8 ≤ k) → memByte t.mem k = memByte s.mem k)) ∧
      (∀ d, fwUp s = true → s.tap.dbgDomain = some d → bitAt dr 0 = false → t.mem = s.mem ∧
        t.tap.dbgPendStatus = accessStatus s d false a 8 ∧
        (accessStatus s d false a 8 = .ok → a + 8 ≤ nodeBase → t.tap.dbgPendData = BitVec.ofNat 64 (leNat (memRead s.mem a 8))))) ∧
  (∀ s : State, (s.tap.dbgBusy = true → exec .dbgAccessDone s = .next { s with tap := { s.tap with
      dbgBusy := false, dbgStatus := s.tap.dbgPendStatus, dbgData := s.tap.dbgPendData } }) ∧
    (s.tap.dbgBusy = false → exec .dbgAccessDone s = .next s))

/-! ### Links and the installation (chapter 14) -/

/-- R356 to R360, R370, R376, R377, R380 to R383, R385, R388 to R395, R501: what each link command leaves: a port in DETECT
with the body of its channel, a port DISABLED with its held packets refused, routes, reservations, windows, imports, the
device's id, the sink of events, and the requests that LINK_ID_ASSIGN, LINK_MBOX_RELAY and BOOT_RELAY send. -/
def Obligations.LinkCommandsHaveTheirEffect : Prop :=
  (∀ (s s' : State) (h : CmdHdr) (c : Nat) (e : List Byte), Accepted 0x0800 h s → fetchEntry s h.domain c 4 0 = (s', .inr e) →
    linkBody e = none → linkActive (lportOf s (fieldAt e 2 2)) = false → portClock s (fieldAt e 2 2) = true →
    (bitAt (fieldAt e 8 1) 0 = true →
      ∀ x ∈ s.lports, x.1 ≠ fieldAt e 2 2 → x.2.timeParent = false) →
    ∃ l, answersOk (exec (.linkStart h c 0) s) h 0x0800 (setLport s' (fieldAt e 2 2) l) [] ∧ l.st = .detect ∧ l.since = s.time ∧
      l.chan = some c ∧ l.peer = none ∧ l.replay = [] ∧ l.outQ = [] ∧ l.txSeq = 0 ∧ l.rxExp = 0 ∧
      (l.timeParent = true ↔ bitAt (fieldAt e 8 1) 0 = true) ∧ l.asym = sfieldAt e 12 2) ∧
  (∀ (s : State) (h : CmdHdr) (p : Nat), Accepted 0x0801 h s → p ≤ 11 →
    ∃ t, answersOk (exec (.linkStop h p 0) s) h 0x0801 t [] ∧
      t = { s with lports := t.lports, trace := t.trace,
                   inst := { s.inst with arrived := t.inst.arrived, discarded := t.inst.discarded } } ∧
      (lportOf t p).st = .disabled ∧ (lportOf t p).chan = none ∧ (lportOf t p).peer = none ∧ (lportOf t p).replay = [] ∧
      (lportOf t p).outQ = [] ∧ ∀ q, q ≠ p → (lportOf t q).st = (lportOf s q).st) ∧
  (∀ (s : State) (h : CmdHdr), Accepted 0x0802 h s → ∃ b, answersOk (exec (.linkStatus h) s) h 0x0802 s b ∧ b.length = 192 ∧
    ∀ p < 12, fieldAt b (16 * p) 1 = lstateIdx (lportOf s p).st ∧
      fieldAt b (16 * p + 4) 2 = ((lportOf s p).peer.elim 0 (fun c => c.id)) % 65536) ∧
  (∀ (s : State) (h : CmdHdr) (first count : Nat) (ports : List Byte), Accepted 0x0803 h s → first ≤ 1023 →
    first + count ≤ 1024 → ports.length = 4 * cdiv count 8 →
    (∀ i < count, routeNibble ports i ≤ 11 ∨ routeNibble ports i = 15) →
    ∃ t, answersOk (exec (.linkRouteSet h first count ports) s) h 0x0803 t [] ∧
      t = { s with inst := { s.inst with routes := t.inst.routes } } ∧
      (∀ i < count, routeOf t (first + i) = routeNibble ports i) ∧
      (∀ d, d < first ∨ first + count ≤ d → routeOf t d = routeOf s d)) ∧
  (∀ (s : State) (h : CmdHdr) (first last : Nat), Accepted 0x0804 h s → first ≤ last → last ≤ 1023 →
    ∃ t, answersOk (exec (.linkAbort h first last) s) h 0x0804 t
        (leBytes 4 (s.inst.txns.filter (fun e => decide (first ≤ e.2.dst) && decide (e.2.dst ≤ last))).length) ∧
      t.inst.gen = (s.inst.gen + 1) % 4 ∧
      (s.inst.tagWait = [] → (∀ e ∈ t.inst.txns, ¬ (first ≤ e.2.dst ∧ e.2.dst ≤ last)) ∧
        ∀ e ∈ s.inst.txns, (∀ f ∈ s.inst.txns, f.1 = e.1 → ¬ (first ≤ f.2.dst ∧ f.2.dst ≤ last)) → e ∈ t.inst.txns)) ∧
  (∀ (s : State) (h : CmdHdr) (p d m : Nat), Accepted 0x0805 h s → p ≤ 11 → d ≤ 1 →
    m ≤ linkLimit - (linkUsed s (linkKey p d) - tabGet 0 s.inst.reserve (linkKey p d)) →
    ∃ t, answersOk (exec (.linkReserve h p d 0 m) s) h 0x0805 t [] ∧
      t = { s with inst := { s.inst with reserve := t.inst.reserve } } ∧ tabGet 0 t.inst.reserve (linkKey p d) = m ∧
      ∀ k, k ≠ linkKey p d → tabGet 0 t.inst.reserve k = tabGet 0 s.inst.reserve k) ∧
  (∀ (s : State) (h : CmdHdr) (w base len : Nat), Accepted 0x0806 h s → base % 4096 = 0 → base < 2 ^ 48 → len % 4096 = 0 →
    base + len ≤ 2 ^ 48 →
    ∃ x, answersOk (exec (.linkWindowSet h w 0 base len) s) h 0x0806 (setWindow s w x) [] ∧ x.base = base ∧ x.length = len) ∧
  (∀ (s : State) (h : CmdHdr) (w : Nat) (x : Window), windowAt s w = some x →
    (Accepted 0x0807 h s → answersOk (exec (.linkWindowOpen h w 0) s) h 0x0807 (setWindow s w { x with open_ := true })
      (leBytes 2 x.epoch ++ [0, 0])) ∧
    (Accepted 0x0808 h s → answersOk (exec (.linkWindowClose h w 0) s) h 0x0808
      (setWindow s w { x with open_ := false, epoch := (x.epoch + 1) % 65536 })
      (leBytes 2 ((x.epoch + 1) % 65536) ++ [0, 0]))) ∧
  (∀ (s : State) (h : CmdHdr) (n w dev ep base len : Nat), Accepted 0x0809 h s → dev ≤ 1023 → base < 2 ^ 48 →
    base + len ≤ 2 ^ 48 →
    ∃ t, answersOk (exec (.linkImportSet h n w dev ep 0 base len) s) h 0x0809 t [] ∧
      t = { s with inst := { s.inst with imports := t.inst.imports } } ∧
      tabGet? t.inst.imports n =
        some { device := dev, win := w, base := base, length := len, epoch := ep, stale := false } ∧
      ∀ k, k ≠ n → tabGet? t.inst.imports k = tabGet? s.inst.imports k) ∧
  (∀ (s : State) (h : CmdHdr) (id : Nat), Accepted 0x080A h s → id ≤ 1023 → s.inst.joined = false →
    ∃ t, answersOk (exec (.linkIdSet h id 0) s) h 0x080A t [] ∧
      t = { s with inst := { s.inst with id := id, joined := true, tstate := t.inst.tstate, depth := t.inst.depth } } ∧
      (hasParent s = false → t.inst.tstate = .locked ∧ t.inst.depth = 0) ∧
      (hasParent s = true → t.inst.tstate = s.inst.tstate ∧ t.inst.depth = s.inst.depth)) ∧
  (∀ (s : State) (h : CmdHdr) (p id : Nat), Accepted 0x080B h s → p ≤ 11 → id ≤ 1023 → (lportOf s p).st = .active →
    let d := (lportOf s p).peer.elim 0 (fun c => c.id)
    let n := s.inst.reqCnt
    let q : TagReq := { txn := cmdTxn d 0x09 (some (.idAssign n)), pkts := [{ reqPacket s 0x09 d 0 with pflags := 1, arg := id }],
                        port := some p }
    let w := { s with inst := { s.inst with reqCnt := n + 1 } }
    (∀ g, s.inst.tagWait = [] → freeTag s = some g →
      answersLater (exec (.linkIdAssign h p 0 id) s) h 0x080B (sendReq w g q) (.idAssign n)) ∧
    (s.inst.tagWait ≠ [] ∨ freeTag s = none → answersLater (exec (.linkIdAssign h p 0 id) s) h 0x080B
      { w with inst := { w.inst with tagWait := s.inst.tagWait ++ [q] } } (.idAssign n))) ∧
  (∀ (s : State) (h : CmdHdr) (d : Nat) (b : List Byte), Accepted 0x080C h s → 32 ≤ b.length → b.length ≤ 65532 →
    b.length % 4 = 0 → d ≤ 1023 → relayRefused b = false → pathRefusal s d = none →
    let n := s.inst.reqCnt
    let q : TagReq := { txn := cmdTxn d 0x06 (some (.relay n)), pkts := mboxPackets s 0x06 d 0 0 (b.length / 256 + 1) 0 b,
                        port := none }
    let w := { s with inst := { s.inst with reqCnt := n + 1 } }
    (∀ g, s.inst.tagWait = [] → freeTag s = some g →
      answersLater (exec (.linkMboxRelay h d 0 b) s) h 0x080C (sendReq w g q) (.relay n)) ∧
    (s.inst.tagWait ≠ [] ∨ freeTag s = none → answersLater (exec (.linkMboxRelay h d 0 b) s) h 0x080C
      { w with inst := { w.inst with tagWait := s.inst.tagWait ++ [q] } } (.relay n))) ∧
  (∀ (s : State) (h : CmdHdr) (d : Nat), Accepted 0x080D h s → d ≤ 1023 →
    answersOk (exec (.linkEventSink h d 0) s) h 0x080D { s with ev := { s.ev with sink := some d } } [] ∧
    answersOk (exec (.linkEventSink h d 1) s) h 0x080D { s with ev := { s.ev with sink := none } } []) ∧
  (∀ (s s' : State) (h : CmdHdr) (p a len : Nat) (b : List Byte), Accepted 0x0810 h s → p ≤ 11 → 0 < len →
    p ∉ s.inst.relayPorts → (lportOf s p).st = .active → readStruct s 13 0 h.domain a len = (s', .ok, b) →
    ∃ t, answersOk (exec (.bootRelay h p 0 a len 0) s) h 0x0810 t [] ∧ t.inst.relayPorts = p :: s.inst.relayPorts ∧
      t.mem = s'.mem ∧
      (∀ g, s.inst.tagWait = [] → freeTag s = some g →
        tabGet? t.inst.txns g = some { cmdTxn 0 0x08 none with addr := p } ∧
        ∀ k, k ≠ g → tabGet? t.inst.txns k = tabGet? s.inst.txns k) ∧
      (s.inst.tagWait ≠ [] ∨ freeTag s = none → t.inst.txns = s.inst.txns ∧
        t.inst.tagWait.length = s.inst.tagWait.length + 1)) ∧
  (∀ (s : State) (p code : Nat), p ∈ s.inst.relayPorts →
    ∃ t, exec (.bootRelayDone p code) s = .next t ∧ t.inst.relayPorts = s.inst.relayPorts.filter (fun q => q != p) ∧
      (s.inst.tagWait = [] → t.inst.txns = s.inst.txns.filter (fun e => ! (e.2.kind == 0x08 && e.2.addr == p))) ∧
      t.mem = s.mem ∧ t.boot = s.boot)

/-- R357 to R375: a port goes through its training states; flits with a good CRC and the expected number are taken in order
and go on to the output of their route at once; a stomped or repeated one is dropped, a bad one is asked for again, and one
whose header its kind does not give ends the alignment; control flits free the replay buffer; a port that loses its link
refuses what it holds. -/
def Obligations.PortsTrainCarryAndLoseTheLink : Prop :=
  (∀ (s : State) (p : Nat),
    (portIn s p .detect = true → exec (.linkDetectPulse p) s =
      .next (setLport s p { lportOf s p with pulses := (lportOf s p).pulses + 1 })) ∧
    (portIn s p .detect = true → exec (.linkPeerDetected p) s =
      .next (setLport s p { lportOf s p with st := .eq, since := s.time })) ∧
    (portIn s p .eq = true → ∃ t, exec (.linkEqDone p) s = .next t ∧ t = { s with lports := t.lports } ∧
      lportOf t p = { lportOf s p with st := .align, since := s.time, scrAt := s.time } ∧
      ∀ q, q ≠ p → lportOf t q = lportOf s q)) ∧
  (∀ (s : State) (p tx rx : Nat) (lanes : List (List Bool)), portIn s p .align = true →
    ∃ t, exec (.linkAlignDone p tx rx lanes) s = .next t ∧ t = { s with lports := t.lports } ∧
      lportOf t p = { lportOf s p with st := .config, since := s.time, txLat := tx, rxLat := rx,
                                       rxGen := loadLanes (lportOf s p) lanes, rxGenAt := s.time } ∧
      ∀ q, q ≠ p → lportOf t q = lportOf s q) ∧
  (∀ (s : State) (p : Nat) (c : PeerConfig), portIn s p .config = true →
    ∃ t, exec (.linkUp p c) s = .next t ∧ EventsOnly s t ∧ (lportOf t p).st = .active ∧ (lportOf t p).since = s.time ∧
      (lportOf t p).peer = some c ∧ (lportOf t p).chan = (lportOf s p).chan ∧ (lportOf t p).rxExp = 0 ∧
      ∀ q, q ≠ p → (lportOf t q).st = (lportOf s q).st) ∧
  (∀ (s : State) (p : Nat), portClock s p = true → (lportOf s p).st ∈ [LState.eq, LState.align, LState.config] →
    ∃ t, exec (.linkTrainFail p) s = .next t ∧ EventsOnly s t ∧ (lportOf t p).st = .disabled ∧ (lportOf t p).chan = none ∧
      ∀ q, q ≠ p → (lportOf t q).st = (lportOf s q).st) ∧
  (∀ (s : State) (p c : Nat), portIn s p .active = true → lossCause (lportOf s p) c = true →
    ∃ t, exec (.linkDown p c) s = .next t ∧ DoubtOnly s t ∧ (lportOf t p).st = .lost ∧ (lportOf t p).peer = none ∧
      (lportOf t p).replay = [] ∧ (lportOf t p).outQ = [] ∧ doubtOpen t rowDevice kindDevice 0 ∧
      ∀ q, q ≠ p → (lportOf t q).st = (lportOf s q).st) ∧
  (∀ (s0 s : State) (ecc : List EccHit) (p : Nat) (x : Flit), plant ecc s0 = s → portIn s p .active = true →
    let l := lportOf s p
    let good := flitCrc x.kind x.vc x.seq x.check x.payload
    let number := decide (1 ≤ x.kind) && decide (x.kind ≤ 4)
    (x.crc = good ^^^ 0xFFFFFFFF → ∃ t, exec (.flitReceive p x ecc) s0 = .next t ∧
      t = { s with lports := t.lports, trace := t.trace } ∧
      lportOf t p = { l with stomps := l.stomps + 1, crcRun := 0 }) ∧
    (x.crc ≠ good → x.crc ≠ good ^^^ 0xFFFFFFFF →
      let first := number && ! l.nakSent
      ∃ t m, exec (.flitReceive p x ecc) s0 = .next t ∧ t = { s with lports := t.lports, trace := t.trace } ∧
        lportOf t p = { l with crcErrs := l.crcErrs + 1, crcRun := l.crcRun + 1, nakSent := l.nakSent || first,
                               nakOwed := false, ackOwed := false, lastCtrl := some m } ∧
        m.nakPresent = (l.nakOwed || first) ∧ (m.nakPresent = true → m.nak = l.rxExp) ∧ m.cred = l.freed) ∧
    (x.crc = good → number = true → x.seq ≠ l.rxExp → ∃ t, exec (.flitReceive p x ecc) s0 = .next t ∧
      t = { s with lports := t.lports, trace := t.trace } ∧ lportOf t p = { l with dups := l.dups + 1, crcRun := 0 }) ∧
    (x.crc = good → (x.kind = 0 ∨ x.kind = 5 ∨ x.kind = 6) → flitMisaligned x = true →
      ∃ t, exec (.flitReceive p x ecc) s0 = .next t ∧ t = { s with lports := t.lports, trace := t.trace } ∧
        lportOf t p = { l with misaligned := true, crcRun := 0 }) ∧
    (x.crc = good → x.kind = 5 → flitMisaligned x = false →
      exec (.flitReceive p x ecc) s0 = exec (.ctrlReceive p (ctrlOf x.payload)) s) ∧
    (x.crc = good → x.kind = 6 → flitMisaligned x = false → exec (.flitReceive p x ecc) s0 =
      exec (.timeFlitReceive p (timeOf x.payload) ((s.time * 256 - l.rxLat) / 256) ((s.time * 256 - l.rxLat) % 256)) s) ∧
    (x.crc = good → x.kind = 1 → x.seq = l.rxExp → l.rxPart = [] → x.check = headCheck x.payload →
      routeHead s (packetOf x.payload [] []) = .here → ∃ t, exec (.flitReceive p x ecc) s0 = .next t ∧
      t = { s with lports := t.lports, trace := t.trace } ∧
      lportOf t p = { l with rxExp := (l.rxExp + 1) % 2048, nakSent := false, ackOwed := true, crcRun := 0,
                             rxPart := [x], rxRoute := .here }) ∧
    (x.crc = good → x.kind = 2 → x.seq = l.rxExp → l.rxPart ≠ [] → l.rxRoute = .here →
      ∃ t, exec (.flitReceive p x ecc) s0 = .next t ∧ t = { s with lports := t.lports, trace := t.trace } ∧
      lportOf t p = { l with rxExp := (l.rxExp + 1) % 2048, nakSent := false, ackOwed := true, crcRun := 0,
                             rxPart := l.rxPart ++ [x] }) ∧
    (∀ r, x.crc = good → x.kind = 1 ∨ x.kind = 4 → x.seq = l.rxExp → l.rxPart = [] → x.check = headCheck x.payload →
      routeHead s (packetOf x.payload [] []) = .forward r → r ≠ p → x.vc = 0 ∨ x.vc = 1 ∨ x.vc = 3 → p < 12 →
      (lportOf s r).cur = none → (lportOf s r).outQ = [] → canSend (lportOf s r) x.vc = true →
      let hd := x.payload.set 15 (byteOf (fieldAt x.payload 15 1 + 1))
      ∃ t h, exec (.flitReceive p x ecc) s0 = .next t ∧ t = { s with lports := t.lports, trace := t.trace } ∧
        (lportOf t r).replay = (lportOf s r).replay ++ [h] ∧ h.flit = mkFlit x.kind x.vc (lportOf s r).txSeq (headCheck hd) hd ∧
        (lportOf t r).txSeq = ((lportOf s r).txSeq + 1) % 2048 ∧ (lportOf t p).rxExp = (l.rxExp + 1) % 2048) ∧
    (let k := packetOf x.payload [] []
     x.crc = good → x.kind = 4 → x.seq = l.rxExp → l.rxPart = [] → x.check = headCheck x.payload →
      hopLocal k = true ∨ (s.inst.joined = true ∧ k.dst = s.inst.id) →
      ∃ t, exec (.flitReceive p x ecc) s0 = .next t ∧
        t = { s with lports := t.lports, trace := t.trace, inst := { s.inst with arrived := s.inst.arrived ++ [k] } } ∧
        (lportOf t p).rxExp = (l.rxExp + 1) % 2048 ∧ (lportOf t p).ackOwed = true ∧
        (lportOf t p).freed = l.freed.set x.vc ((nth l.freed x.vc + 1) % 4096))) ∧
  (∀ (s : State) (p : Nat) (m : CtrlMsg), portIn s p .active = true → (lportOf s p).outQ = [] → (lportOf s p).cur = none →
    let l := lportOf s p
    let kept := if m.ackValid then l.replay.filter (fun h => seqNewer h.flit.seq m.ack) else l.replay
    (m.nakPresent = false → ∃ t, exec (.ctrlReceive p m) s = .next t ∧ t = { s with lports := t.lports, trace := t.trace } ∧
      lportOf t p = { l with replay := kept, credSeen := m.cred, crcRun := 0 }) ∧
    (m.nakPresent = true → s.ev.sink = none → ∃ t, exec (.ctrlReceive p m) s = .next t ∧ EventsOnly s t ∧
      (lportOf t p).credSeen = m.cred ∧
      (lportOf t p).replay = (kept.filter (fun h => h.flit.seq == m.nak || seqNewer h.flit.seq m.nak)).map
        (fun h => { h with resent := h.resent + 1 }))) ∧
  (∀ (s : State) (p : Nat), portIn s p .active = true →
    (ctrlOwed (lportOf s p) = true → ∃ t m, exec (.ctrlFlitSend p) s = .next t ∧
      t = { s with lports := t.lports, trace := t.trace } ∧
      lportOf t p = { lportOf s p with lastCtrl := some m, ackOwed := false, nakOwed := false } ∧ m.cred = (lportOf s p).freed ∧
      m.ack = ((lportOf s p).rxExp + 2047) % 2048) ∧
    ((lportOf s p).replay ≠ [] → s.ev.sink = none → ∃ t, exec (.replayTimer p) s = .next t ∧ EventsOnly s t ∧
      (lportOf t p).replay = (lportOf s p).replay.map (fun h => { h with resent := h.resent + 1 }) ∧
      (lportOf t p).replays = (lportOf s p).replays + 1 ∧ (lportOf t p).st = .active))

/-- R376 to R391: the packets that arrive for this device. A WRITE stores its bytes within an open window of its epoch and
nowhere else; a READ answers with the granules; WIN_OPEN and WIN_CLOSE change a window; an MBOX joins its record; boot
packets reach the boot ROM; an ID_ASSIGN gives the id; an EVENT enters function 3's FIFO; and a response ends its
transaction. -/
def Obligations.ArrivedPacketsAreServed : Prop :=
  (∀ (s0 s : State) (ecc : List EccHit) (p : Packet), plant ecc s0 = s →
    let cells := (packetCells p).1
    let lo := (cellSpan cells).1
    let len := (cellSpan cells).2
    let good := fun (w : Window) => w.open_ = true ∧ w.epoch = p.epoch ∧ inRange lo len w.base w.length = true ∧
      accessStatus s p.domain true lo len = .ok
    (∀ w, takesRequests s = true → windowAt s p.win = some w → good w → ∃ t, exec (.write p ecc) s0 = .next t ∧
      DoubtOnly { s with mem := t.mem, marks := t.marks, eccBad := t.eccBad, eccCnt := t.eccCnt, eccWin := t.eccWin,
                         wcache := t.wcache, freeCnt := t.freeCnt } t ∧
      (∀ c ∈ cells, memByte t.mem c.1 = c.2) ∧ (∀ a, a ∉ cells.map Prod.fst → memByte t.mem a = memByte s.mem a)) ∧
    ((∀ w, windowAt s p.win = some w → ¬ good w) ∨ takesRequests s = false →
      ∃ t, exec (.write p ecc) s0 = .next t ∧ t.mem = s.mem ∧ t.marks = s.marks)) ∧
  (∀ (s0 s : State) (ecc : List EccHit) (p : Packet), plant ecc s0 = s → takesRequests s = true →
    let base := p.addr / 64 * 64
    let n := min 4 p.grans
    ∃ r s1, exec (.read p ecc) s0 = .next (routePosted s1 12 r) ∧
      DoubtOnly { s with marks := s1.marks, eccBad := s1.eccBad, eccCnt := s1.eccCnt, eccWin := s1.eccWin,
                         wcache := s1.wcache, freeCnt := s1.freeCnt } s1 ∧
      ((∀ y ∈ s.eccBad, granOf y.addr ∉ gransOf base (64 * n)) →
        s1 = (access (takePacket s p) p.domain false base (64 * n)).1) ∧
      r.dst = p.src ∧ r.tag = p.tag ∧ r.type = p.type + 0x80 ∧
      (accessStatus s p.domain false base (64 * n) = .ok → r.status = 0 ∧ r.grans = n ∧
        r.data = (List.range n).map (fun i => viewBytes s (base + 64 * i) 64)) ∧
      (accessStatus s p.domain false base (64 * n) = .denied → r.status = statusCode .denied ∧
        r.data = List.replicate n (List.replicate 64 0))) ∧
  (∀ (s : State) (p : Packet) (w : Window), takesRequests s = true → windowAt s p.win = some w →
    accessStatus s p.domain true w.base w.length = .ok →
    (∃ t, exec (.winOpen p) s = .next t ∧ windowAt t p.win = some { w with open_ := true } ∧ t.mem = s.mem ∧
      ∀ k, k ≠ p.win → windowAt t k = windowAt s k) ∧
    (∃ t, exec (.winClose p) s = .next t ∧ windowAt t p.win =
        some { w with open_ := false, epoch := (w.epoch + 1) % 65536 } ∧ t.mem = s.mem ∧
      ∀ k, k ≠ p.win → windowAt t k = windowAt s k)) ∧
  (∀ (s : State) (p : Packet), takesRequests s = true →
    let b := partsFrom s p.src p.tag ++ p.data.flatMap (padTo 64)
    (bitAt p.pflags 1 = false → exec (.mbox p) s = .next (setParts (takePacket s p) p.src p.tag b)) ∧
    (bitAt p.pflags 1 = true → exec (.mbox p) s =
      .next (stage1 (setParts (takePacket s p) p.src p.tag []) (.relay p.src p.tag p.gen) (b.take (32 + fieldAt b 8 4))))) ∧
  (∀ (s : State) (port : Nat) (p : Packet),
    (romTakes s port = true → p.addr = s.boot.received → exec (.bootData port p) s =
      .next (receiveImage { takePacket s p with boot := { s.boot with srcPort := some port } } (p.data.flatMap (padTo 64)))) ∧
    (romTakes s port = true → s.boot.received < p.addr → p.addr + (p.data.flatMap (padTo 64)).length ≤ cpSize →
      ∃ t, exec (.bootData port p) s = .next t ∧ t.boot = { s.boot with srcPort := some port } ∧
        memRead t.mem (cpBase + p.addr) (p.data.flatMap (padTo 64)).length = p.data.flatMap (padTo 64)) ∧
    (romTakes s port = false → exec (.bootData port p) s = .next (countDiscard (takePacket s p)))) ∧
  (∀ (s : State) (port : Nat) (p : Packet), s.rst.bootSrc = 1 → s.boot.phase ≠ 0x04 → s.boot.phase ≠ 0x05 →
    s.boot.phase ≠ 0xFF → s.boot.srcPort = some port →
    (s.boot.verifying = true → exec (.bootEnd port p) s =
      .next { takePacket s p with boot := { s.boot with relayReq := some p } }) ∧
    (s.boot.verifying = false → ∃ t, exec (.bootEnd port p) s = .next t ∧ t.boot = bootFail s.boot 0x0B03 ∧ t.mem = s.mem)) ∧
  (∀ (s : State) (port : Nat) (p : Packet), s.rst.bootSrc = 1 →
    s.boot.phase = 0x04 ∨ s.boot.phase = 0x05 ∨ s.boot.phase = 0xFF → exec (.bootEnd port p) s =
      .next (sendHopLocal (takePacket s p) port
        { responseTo (takePacket s p) p 0 with pflags := 1, arg := s.boot.code.toNat })) ∧
  (∀ (s : State) (port : Nat) (p : Packet), fwUp s = true →
    (s.inst.joined = false → ∃ t, exec (.idAssign port p) s = .next t ∧ t.inst.joined = true ∧ t.inst.id = p.arg % 1024 ∧
      (hasParent s = false → t.inst.tstate = .locked ∧ t.inst.depth = 0)) ∧
    (s.inst.joined = true → ∃ t, exec (.idAssign port p) s = .next t ∧ t.inst.id = s.inst.id)) ∧
  (∀ (s : State) (p : Packet), takesRequests s = true → s.ev.fifo.length < 1024 → s.ev.lost = 0 →
    exec (.event p) s = .next { takePacket s p with
      ev := { s.ev with fifo := s.ev.fifo ++ [evOfBytes (p.data.flatten.take 32)] } }) ∧
  (∀ (s : State) (p : Packet),
    (tabGet? s.inst.txns p.tag = none ∨ p.gen ≠ s.inst.gen →
      exec (.transactionResponse p) s = .next (countDiscard (takePacket s p))) ∧
    (∀ x, tabGet? s.inst.txns p.tag = some x → p.gen = s.inst.gen → x.kind = 0x09 → x.chan = none →
      ∀ k, x.wait = some (.idAssign k) → ∃ t, exec (.transactionResponse p) s = .next t ∧
        (s.inst.tagWait = [] → t.inst.txns = tabErase p.tag s.inst.txns) ∧ completesWait s t (.idAssign k) (statusOf p.status) []) ∧
    (∀ x k, tabGet? s.inst.txns p.tag = some x → p.gen = s.inst.gen → x.kind = 0x06 → x.chan = none →
      x.wait = some (.relay k) → p.status = 0 → bitAt p.pflags 1 = true →
      let b := x.rsp ++ p.data.flatMap (padTo 64)
      ∃ t, exec (.transactionResponse p) s = .next t ∧ (s.inst.tagWait = [] → t.inst.txns = tabErase p.tag s.inst.txns) ∧
        completesWait s t (.relay k) (statusOf 0) (b.take (32 + fieldAt b 8 4))) ∧
    (∀ x c r m, tabGet? s.inst.txns p.tag = some x → p.gen = s.inst.gen → x.kind = 0x01 → x.chan = some c →
      runAt s c = some r → moverAt s c = some m → s.inst.tagWait = [] →
      ∃ s', exec (.transactionResponse p) s = .next (setRunAt s' c (some { r with
        writes := r.writes - 1, bytes := if p.status = 0 then r.bytes + x.bytes else r.bytes,
        status := if p.status = 0 then r.status else if r.status = .ok then statusOf p.status else r.status })) ∧
        s' = { s with inst := s'.inst } ∧ s'.inst.txns = tabErase p.tag s.inst.txns))

/-- R390 to R397: TIME flits carry the time of the port and give the skew to the peer; LINK_TIME_JOIN, the step, the lock
and holdover follow the skew of the time parent; and the root follows the PPS pin, within the bounds of its rate. -/
def Obligations.InstallationTimeFollowsItsParent : Prop :=
  (∀ (s : State) (p : Nat), portIn s p .active = true → 1 ≤ creditsOf (lportOf s p) 2 →
    ∃ t, exec (.timeFlitSend p) s = .next t ∧ t = { s with lports := t.lports, trace := t.trace } ∧
      lportOf t p = { lportOf s p with
        lastTime := some (timeMsg s (lportOf s p)), xseq := ((lportOf s p).xseq + 1) % 256,
        credSent := (lportOf s p).credSent.set 2 ((nth (lportOf s p).credSent 2 + 1) % 4096) }) ∧
  (∀ (s : State) (p a fr : Nat) (m : TimeMsg), portIn s p .active = true → (lportOf s p).lastTime ≠ none →
    (echoesOwn (lportOf s p) m = true → followsLast (lportOf s p) m = true →
      ∃ t, exec (.timeFlitReceive p m a fr) s = .next t ∧
        (lportOf t p).thetas = (theta m a fr (lportOf s p).asym :: (lportOf s p).thetas).take 16 ∧
        (lportOf t p).peerTime = some (m, a, fr) ∧ (lportOf t p).skipRun = 0 ∧ t.time = s.time ∧ t.mem = s.mem) ∧
    (echoesOwn (lportOf s p) m = false ∨ followsLast (lportOf s p) m = false →
      ∃ t, exec (.timeFlitReceive p m a fr) s = .next t ∧ t = { s with lports := t.lports, trace := t.trace } ∧
        (lportOf t p).thetas = (lportOf s p).thetas ∧ (lportOf t p).peerTime = some (m, a, fr) ∧
        (lportOf t p).skipRun = (lportOf s p).skipRun + 1 ∧ counted s t 5 p 7 1)) ∧
  (∀ (s : State) (h : CmdHdr) (p : Nat), Accepted 0x080E h s → parentPort s = some p → (lportOf s p).st = .active →
    timeMayStep s = true → answersLater (exec (.linkTimeJoin h) s) h 0x080E
      { setLport s p { lportOf s p with thetas := [] } with inst := { s.inst with joinWait := true } } .timeJoin) ∧
  (∀ (s : State) (p : Nat), parentPort s = some p → s.inst.joinWait = true → (lportOf s p).thetas.length = 16 →
    let d := (thetaSum (lportOf s p) + 2048) / 4096
    ∃ t, exec .timeStep s = .next t ∧ t.time = ((s.time : Int) + d).toNat ∧ t.inst.joinWait = false ∧ t.inst.joinStep = d ∧
      t.inst.tstate = .acquiring ∧ (lportOf t p).thetas = [] ∧ t.mem = s.mem) ∧
  (∀ (s : State) (p : Nat), parentPort s = some p → s.inst.tstate = .acquiring → parentLocked (lportOf s p) = true →
    thetaSmall (lportOf s p) = true →
    ∃ t, exec .timeJoinLocked s = .next t ∧ t.inst.tstate = .locked ∧ t.time = s.time ∧
      completesWait s t .timeJoin .ok (leBytes 8 (unsignedOf 64 s.inst.joinStep))) ∧
  (∀ (s : State) (p c : Nat), parentPort s = some p → s.inst.tstate = .locked → holdoverCause (lportOf s p) c = true →
    ∃ t, exec (.timeHoldover c) s = .next t ∧ t.inst.tstate = .holdover ∧ doubtOpen t rowTime kindDevice 0 ∧
      t.time = s.time ∧ t.mem = s.mem) ∧
  (∀ (s : State) (h : CmdHdr) (ph : Nat), Accepted 0x080F h s → isRoot s = true → ph < ppsPeriod →
    answersOk (exec (.linkPpsSet h ph 1) s) h 0x080F { s with inst := { s.inst with ppsOn := false } } (leBytes 8 0) ∧
    (let d := if timeMayStep s then ppsStep (s.inst.ppsLast.getD s.time) ph else 0
     ∃ t, answersOk (exec (.linkPpsSet h ph 0) s) h 0x080F t (leBytes 8 (unsignedOf 64 d)) ∧
       t = { s with time := t.time, inst := t.inst } ∧ t.time = ((s.time : Int) + d).toNat ∧ t.inst.ppsOn = true ∧
       t.inst.ppsPhase = ph ∧ t.inst.ppsLost = false)) ∧
  (∀ s : State, fwUp s = true →
    ((isRoot s && s.inst.ppsOn) = true → ∃ t, exec .ppsEdge s = .next t ∧
      t = { s with freeCnt := t.freeCnt, inst := { s.inst with
        ppsLast := some s.time, ppsLost := false, rate := t.inst.rate } } ∧ -rateLimit ≤ t.inst.rate ∧ t.inst.rate ≤ rateLimit) ∧
    ((isRoot s && s.inst.ppsOn) = false → ∃ t, exec .ppsEdge s = .next t ∧
      EventsOnly { s with inst := { s.inst with ppsLast := some s.time } } t)) ∧
  (∀ (s : State) (x : Nat), s.inst.ppsLast = some x → (fwUp s && isRoot s && s.inst.ppsOn) = true → s.inst.ppsLost = false →
    ∃ t, exec .ppsLost s = .next t ∧ t.inst.ppsLost = true ∧ t.time = max s.time (x + 6000000000) ∧ t.mem = s.mem)

/-! ### The whole machine -/

/-- Each step that goes on from a state with `Inv` leaves a state with `Inv`. -/
def Obligations.EveryStepKeepsTheInvariant : Prop :=
  ∀ s t : State, Inv s → step s = .next t → Inv t

/-- The state after reset has `Inv`. -/
def Obligations.ResetMeetsTheInvariant : Prop :=
  Inv State.reset

/-- R60: one-time-programmable bits are never cleared by any command; and no command stops the block or touches the queue of
commands that wait. -/
def Obligations.EveryCommandGoesOnAndOtpOnlyGrows : Prop :=
  ∀ (c : Instr) (s : State), ∃ t, exec c s = .next t ∧ t.pending = s.pending ∧ OtpGrows s.boot t.boot

end
end

