-- ==== Sys2Proof/Laws/Tab.lean ====
section
/-! SUPPORT. Tables by number: what a lookup gives after an entry is set or erased, and the canonical form that byte memory
and the travel-code marks share. -/

namespace Sys2Proof.Machine

open Sys2Proof

/-! ### Lookups -/

@[simp] theorem tabGet?_tabSet_same {α : Type} (k : Nat) (v : α) (t : Tab α) : tabGet? (tabSet k v t) k = some v := by
  induction t with
  | nil => simp [tabSet, tabGet?]
  | cons e t ih =>
    simp only [tabSet]
    split
    · simp [tabGet?]
    · split
      · simp [tabGet?]
      · have hne : e.1 ≠ k := by omega
        simp [tabGet?, hne, ih]

theorem tabGet?_tabSet_other {α : Type} {k k' : Nat} (v : α) (t : Tab α) (h : k' ≠ k) :
    tabGet? (tabSet k v t) k' = tabGet? t k' := by
  induction t with
  | nil => simp [tabSet, tabGet?, Ne.symm h]
  | cons e t ih =>
    simp only [tabSet]
    split
    · simp [tabGet?, Ne.symm h]
    · split
      · rename_i _ he
        have hne : e.1 ≠ k' := by omega
        simp [tabGet?, hne, Ne.symm h]
      · simp only [tabGet?]
        split
        · rfl
        · exact ih

@[simp] theorem tabGet?_tabErase_same {α : Type} (k : Nat) (t : Tab α) : tabGet? (tabErase k t) k = none := by
  induction t with
  | nil => rfl
  | cons e t ih =>
    simp only [tabErase, List.filter_cons]
    split
    · rename_i h
      have hne : e.1 ≠ k := by simpa using h
      simp only [tabGet?, hne, if_false]
      exact ih
    · exact ih

theorem tabGet?_tabErase_other {α : Type} {k k' : Nat} (t : Tab α) (h : k' ≠ k) :
    tabGet? (tabErase k t) k' = tabGet? t k' := by
  induction t with
  | nil => rfl
  | cons e t ih =>
    simp only [tabErase, List.filter_cons]
    split
    · simp only [tabGet?]
      split
      · rfl
      · exact ih
    · rename_i he
      have hk : e.1 = k := by simpa using he
      have hne : e.1 ≠ k' := by omega
      simp only [tabGet?, hne, if_false]
      exact ih

@[simp] theorem tabGet_tabSet_same {α : Type} (d : α) (k : Nat) (v : α) (t : Tab α) : tabGet d (tabSet k v t) k = v := by
  simp [tabGet]

theorem tabGet_tabSet_other {α : Type} (d : α) {k k' : Nat} (v : α) (t : Tab α) (h : k' ≠ k) :
    tabGet d (tabSet k v t) k' = tabGet d t k' := by
  simp [tabGet, tabGet?_tabSet_other v t h]

@[simp] theorem tabGet_tabPut_same {α : Type} [DecidableEq α] (d : α) (k : Nat) (v : α) (t : Tab α) :
    tabGet d (tabPut d k v t) k = v := by
  simp only [tabPut]
  split
  · rename_i h
    simp [tabGet, h]
  · simp

theorem tabGet_tabPut_other {α : Type} [DecidableEq α] (d : α) {k k' : Nat} (v : α) (t : Tab α) (h : k' ≠ k) :
    tabGet d (tabPut d k v t) k' = tabGet d t k' := by
  simp only [tabPut]
  split
  · simp [tabGet, tabGet?_tabErase_other t h]
  · exact tabGet_tabSet_other d v t h

/-! ### The canonical form -/

/-- Keys strictly rising, and no entry equal to what an unlisted key stands for. -/
structure TabWf {α : Type} (d : α) (t : Tab α) : Prop where
  rising : t.Pairwise (fun a b => a.1 < b.1)
  listed : ∀ e ∈ t, e.2 ≠ d

theorem TabWf.nil {α : Type} (d : α) : TabWf d ([] : Tab α) := ⟨.nil, by simp⟩

theorem TabWf.filter {α : Type} {d : α} {t : Tab α} (p : Nat × α → Bool) (h : TabWf d t) : TabWf d (t.filter p) :=
  ⟨h.rising.filter _, fun e he => h.listed e (List.mem_filter.1 he).1⟩

theorem tabErase_wf {α : Type} {d : α} {t : Tab α} (k : Nat) (h : TabWf d t) : TabWf d (tabErase k t) := h.filter _

/-- The entries after a key is set: the new one, and those of other keys that stood before. -/
theorem mem_tabSet {α : Type} {k : Nat} {v : α} {t : Tab α} {e : Nat × α} (h : e ∈ tabSet k v t) :
    e = (k, v) ∨ e ∈ t := by
  induction t with
  | nil => simpa [tabSet] using h
  | cons a t ih =>
    simp only [tabSet] at h
    split at h
    · simpa using h
    · split at h
      · rcases List.mem_cons.1 h with h | h
        · exact .inl h
        · exact .inr (List.mem_cons_of_mem _ h)
      · rcases List.mem_cons.1 h with h | h
        · exact .inr (h ▸ List.mem_cons_self)
        · exact (ih h).imp id (List.mem_cons_of_mem _)

theorem tabSet_rising {α : Type} (k : Nat) (v : α) {t : Tab α} (h : t.Pairwise (fun a b => a.1 < b.1)) :
    (tabSet k v t).Pairwise (fun a b => a.1 < b.1) := by
  induction t with
  | nil => simp [tabSet]
  | cons a t ih =>
    have hp := List.pairwise_cons.1 h
    simp only [tabSet]
    split
    · rename_i hk
      refine List.pairwise_cons.2 ⟨fun b hb => ?_, h⟩
      rcases List.mem_cons.1 hb with hb | hb
      · subst hb; exact hk
      · exact Nat.lt_trans hk (hp.1 b hb)
    · split
      · rename_i hk
        refine List.pairwise_cons.2 ⟨fun b hb => ?_, hp.2⟩
        simpa [hk] using hp.1 b hb
      · refine List.pairwise_cons.2 ⟨fun b hb => ?_, ih hp.2⟩
        rcases mem_tabSet hb with hb | hb
        · subst hb; simp; omega
        · exact hp.1 b hb

theorem tabSet_wf {α : Type} {d : α} {k : Nat} {v : α} {t : Tab α} (hv : v ≠ d) (h : TabWf d t) :
    TabWf d (tabSet k v t) :=
  ⟨tabSet_rising k v h.rising, fun e he => (mem_tabSet he).elim (fun x => x ▸ hv) (h.listed e)⟩

theorem tabPut_wf {α : Type} [DecidableEq α] {d : α} (k : Nat) (v : α) {t : Tab α} (h : TabWf d t) :
    TabWf d (tabPut d k v t) := by
  simp only [tabPut]
  split
  · exact tabErase_wf k h
  · exact tabSet_wf ‹_› h

/-- Tables in canonical form that read alike are equal. -/
theorem TabWf.ext {α : Type} {d : α} {t u : Tab α} (ht : TabWf d t) (hu : TabWf d u)
    (h : ∀ k, tabGet d t k = tabGet d u k) : t = u := by
  have aux : ∀ {w : Tab α} {k : Nat}, (∀ e ∈ w, k < e.1) → tabGet? w k = none := by
    intro w k hw
    induction w with
    | nil => rfl
    | cons e w ih =>
      have he : e.1 ≠ k := by have := hw e List.mem_cons_self; omega
      simpa [tabGet?, he] using ih (fun x hx => hw x (List.mem_cons_of_mem _ hx))
  induction t generalizing u with
  | nil =>
    cases u with
    | nil => rfl
    | cons b u =>
      have hb := h b.1
      simp [tabGet, tabGet?] at hb
      exact absurd hb.symm (hu.listed b List.mem_cons_self)
  | cons a t ih =>
    have hpa := List.pairwise_cons.1 ht.rising
    cases u with
    | nil =>
      have ha := h a.1
      simp [tabGet, tabGet?] at ha
      exact absurd ha (ht.listed a List.mem_cons_self)
    | cons b u =>
      have hpb := List.pairwise_cons.1 hu.rising
      have hab : a.1 = b.1 := by
        rcases Nat.lt_trichotomy a.1 b.1 with hlt | heq | hlt
        · have ha := h a.1
          have hn : tabGet? (b :: u) a.1 = none := aux (fun e he => by
            rcases List.mem_cons.1 he with he | he
            · subst he; exact hlt
            · exact Nat.lt_trans hlt (hpb.1 e he))
          simp [tabGet, hn] at ha
          simp [tabGet?] at ha
          exact absurd ha (ht.listed a List.mem_cons_self)
        · exact heq
        · have hb := h b.1
          have hn : tabGet? (a :: t) b.1 = none := aux (fun e he => by
            rcases List.mem_cons.1 he with he | he
            · subst he; exact hlt
            · exact Nat.lt_trans hlt (hpa.1 e he))
          simp [tabGet, hn] at hb
          simp [tabGet?] at hb
          exact absurd hb.symm (hu.listed b List.mem_cons_self)
      have hv : a.2 = b.2 := by
        have ha := h a.1
        simpa [tabGet, tabGet?, hab] using ha
      have htu : t = u := by
        refine ih ⟨hpa.2, fun e he => ht.listed e (List.mem_cons_of_mem _ he)⟩
          ⟨hpb.2, fun e he => hu.listed e (List.mem_cons_of_mem _ he)⟩ (fun k => ?_)
        by_cases hk : a.1 = k
        · have h1 : tabGet? t k = none := aux (fun e he => hk ▸ hpa.1 e he)
          have h2 : tabGet? u k = none := aux (fun e he => hk ▸ hab ▸ hpb.1 e he)
          simp [tabGet, h1, h2]
        · have hb' : b.1 ≠ k := hab ▸ hk
          simpa [tabGet, tabGet?, hk, hb'] using h k
      rw [htu, Prod.ext hab hv]

/-! ### Memory and marks -/

theorem memory_wf_iff (m : List Host.Cell) : Memory.wf m = true ↔ TabWf memDefault m := by
  induction m with
  | nil => exact ⟨fun _ => TabWf.nil _, fun _ => rfl⟩
  | cons a m ih =>
    cases m with
    | nil =>
      simp only [Memory.wf, decide_eq_true_eq]
      exact ⟨fun h => ⟨by simp, by simpa using h⟩, fun h => h.listed a List.mem_cons_self⟩
    | cons b m =>
      simp only [Memory.wf, Bool.and_eq_true, decide_eq_true_eq, ih]
      constructor
      · rintro ⟨⟨h1, h2⟩, h3⟩
        refine ⟨List.pairwise_cons.2 ⟨fun e he => ?_, h3.rising⟩, fun e he => ?_⟩
        · rcases List.mem_cons.1 he with he | he
          · subst he; exact h2
          · exact Nat.lt_trans h2 ((List.pairwise_cons.1 h3.rising).1 e he)
        · rcases List.mem_cons.1 he with he | he
          · subst he; exact h1
          · exact h3.listed e he
      · intro h
        have hp := List.pairwise_cons.1 h.rising
        exact ⟨⟨h.listed a List.mem_cons_self, hp.1 b List.mem_cons_self⟩, hp.2,
          fun e he => h.listed e (List.mem_cons_of_mem _ he)⟩

theorem marks_wf_iff (m : Tab (BitVec 16)) : Marks.wf m = true ↔ TabWf 0 m := by
  induction m with
  | nil => exact ⟨fun _ => TabWf.nil _, fun _ => rfl⟩
  | cons a m ih =>
    cases m with
    | nil =>
      simp only [Marks.wf, bne_iff_ne]
      exact ⟨fun h => ⟨by simp, by simpa using h⟩, fun h => h.listed a List.mem_cons_self⟩
    | cons b m =>
      simp only [Marks.wf, Bool.and_eq_true, decide_eq_true_eq, bne_iff_ne, ih]
      constructor
      · rintro ⟨⟨h1, h2⟩, h3⟩
        refine ⟨List.pairwise_cons.2 ⟨fun e he => ?_, h3.rising⟩, fun e he => ?_⟩
        · rcases List.mem_cons.1 he with he | he
          · subst he; exact h2
          · exact Nat.lt_trans h2 ((List.pairwise_cons.1 h3.rising).1 e he)
        · rcases List.mem_cons.1 he with he | he
          · subst he; exact h1
          · exact h3.listed e he
      · intro h
        have hp := List.pairwise_cons.1 h.rising
        exact ⟨⟨h.listed a List.mem_cons_self, hp.1 b List.mem_cons_self⟩, hp.2,
          fun e he => h.listed e (List.mem_cons_of_mem _ he)⟩

/-- A byte written keeps memory's canonical form. -/
theorem memSet_wf {m : List Host.Cell} (a : Nat) (b : Byte) (h : Memory.wf m = true) : Memory.wf (memSet m a b) = true :=
  (memory_wf_iff _).2 (tabPut_wf a b ((memory_wf_iff m).1 h))

/-- A run of bytes written keeps it. -/
theorem memWrite_wf {m : List Host.Cell} (a : Nat) (bs : List Byte) (h : Memory.wf m = true) :
    Memory.wf (memWrite m a bs) = true := by
  induction bs generalizing m a with
  | nil => exact h
  | cons b bs ih => exact ih (a + 1) (memSet_wf a b h)

@[simp] theorem memByte_memSet_same (m : List Host.Cell) (a : Nat) (b : Byte) : memByte (memSet m a b) a = b :=
  tabGet_tabPut_same memDefault a b m

theorem memByte_memSet_other (m : List Host.Cell) {a c : Nat} (b : Byte) (h : c ≠ a) :
    memByte (memSet m a b) c = memByte m c := tabGet_tabPut_other memDefault b m h

/-- A byte after a run is written: the run's own inside it, the old one outside. -/
theorem memByte_memWrite (m : List Host.Cell) (a : Nat) (bs : List Byte) (c : Nat) :
    memByte (memWrite m a bs) c = if h : a ≤ c ∧ c - a < bs.length then bs[c - a] else memByte m c := by
  induction bs generalizing m a with
  | nil => simp [memWrite]
  | cons b bs ih =>
    rw [memWrite, ih]
    by_cases hc : c = a
    · subst hc
      have h1 : ¬ (c + 1 ≤ c ∧ c - (c + 1) < bs.length) := by omega
      rw [dif_neg h1]
      simp
    · by_cases h1 : a + 1 ≤ c ∧ c - (a + 1) < bs.length
      · have h2 : a ≤ c ∧ c - a < (b :: bs).length := by simp only [List.length_cons]; omega
        rw [dif_pos h1, dif_pos h2]
        have : c - a = (c - (a + 1)) + 1 := by omega
        simp [this]
      · have h2 : ¬ (a ≤ c ∧ c - a < (b :: bs).length) := by simp only [List.length_cons]; omega
        rw [dif_neg h1, dif_neg h2, memByte_memSet_other m b hc]

theorem memRead_length (m : List Host.Cell) (a n : Nat) : (memRead m a n).length = n := by
  induction n generalizing a with
  | zero => rfl
  | succ n ih => simp [memRead, ih]

/-- A mark set or cleared keeps the marks' canonical form. -/
theorem marksPut_wf {t : Tab (BitVec 16)} (g : Nat) (v : BitVec 16) (h : Marks.wf t = true) :
    Marks.wf (tabPut 0 g v t) = true := (marks_wf_iff _).2 (tabPut_wf g v ((marks_wf_iff t).1 h))

/-- A fold of marks set or cleared keeps it. -/
theorem marksFold_wf {α : Type} {l : List α} {f : Tab (BitVec 16) → α → Tab (BitVec 16)}
    (hf : ∀ t e, Marks.wf t = true → Marks.wf (f t e) = true) {t : Tab (BitVec 16)} (h : Marks.wf t = true) :
    Marks.wf (l.foldl f t) = true := by
  induction l generalizing t with
  | nil => exact h
  | cons a l ih => exact ih (hf t a h)

theorem marksAfter_wf (s : State) (a len : Nat) (poison : Bool) (h : Marks.wf s.marks = true) :
    Marks.wf (marksAfter s a len poison) = true :=
  marksFold_wf (fun _ _ ht => marksPut_wf _ _ ht) h

/-- Reading back the bytes just written. -/
theorem memRead_memWrite (m : List Host.Cell) (a : Nat) (bs : List Byte) : memRead (memWrite m a bs) a bs.length = bs := by
  have key : ∀ (n b : Nat), n + b = bs.length → memRead (memWrite m a bs) (a + b) n = bs.drop b := by
    intro n
    induction n with
    | zero => intro b hb; simp [memRead, List.drop_eq_nil_of_le (by omega : bs.length ≤ b)]
    | succ n ih =>
      intro b hb
      have hlt : b < bs.length := by omega
      rw [memRead, memByte_memWrite, dif_pos (by omega), show a + b + 1 = a + (b + 1) from rfl, ih (b + 1) (by omega),
        List.drop_eq_getElem_cons hlt]
      congr 2
      omega
  have := key bs.length 0 (by omega)
  simpa using this

end Sys2Proof.Machine
end

