-- ==== Sys2Proof/Laws/Keeps.lean ====
section
/-! SUPPORT. A command leaves the queue as it is, keeps the invariant and clears no OTP bit: the predicate that the lemmas
of the operations carry through them, and the ways to carry it. -/

namespace Sys2Proof.Machine

open Sys2Proof

/-- What the boot ROM's OTP holds: the key hashes, KEY_REVOKE and SVN_FUSE. -/
def otpOf (b : BootUnit) : List (List Byte) × BitVec 4 × BitVec 64 := (b.keyHash, b.keyRevoke, b.svnFuse)

theorem OtpGrows.refl (a : BootUnit) : OtpGrows a a := ⟨fun _ h => h, fun _ h => h, fun _ _ => rfl⟩

theorem OtpGrows.trans {a b c : BootUnit} (h : OtpGrows a b) (k : OtpGrows b c) : OtpGrows a c :=
  ⟨fun i hi => k.svn i (h.svn i hi), fun i hi => k.revoke i (h.revoke i hi), fun i hi => by
    have e := h.keys i hi
    have p : slotProgrammed b i = true := by unfold slotProgrammed at hi ⊢; rw [e]; exact hi
    exact (k.keys i p).trans e⟩

theorem OtpGrows.ofEq {a b : BootUnit} (h : otpOf b = otpOf a) : OtpGrows a b := by
  simp only [otpOf, Prod.mk.injEq] at h
  obtain ⟨hk, hr, hs⟩ := h
  exact ⟨fun _ x => by rw [hs]; exact x, fun _ x => by rw [hr]; exact x, fun _ _ => by unfold keyHashOf; rw [hk]⟩

/-- From the state `q` on, the queue is as it was, the invariant holds and OTP has only grown. -/
structure Keeps (q : State) (s : State) : Prop where
  pending : s.pending = q.pending
  inv : Inv s
  otp : OtpGrows q.boot s.boot

theorem Keeps.ofEq {q : State} {α : Type} {p : State × α} {t : State} {r : α} (e : p = (t, r)) (h : Keeps q p.1) :
    Keeps q t := by subst e; exact h

theorem Keeps.foldl {q : State} {α : Type} {f : State → α → State} {l : List α} {s : State}
    (hf : ∀ s e, Keeps q s → Keeps q (f s e)) (h : Keeps q s) : Keeps q (l.foldl f s) := by
  induction l generalizing s with
  | nil => exact h
  | cons a l ih => exact ih (hf s a h)

theorem Keeps.foldlFst {q : State} {α β : Type} {f : State × β → α → State × β} {l : List α} {p : State × β}
    (hf : ∀ p e, Keeps q p.1 → Keeps q (f p e).1) (h : Keeps q p.1) : Keeps q (l.foldl f p).1 := by
  induction l generalizing p with
  | nil => exact h
  | cons a l ih => exact ih (hf p a h)

theorem Keeps.ite {q : State} {c : Prop} [Decidable c] {a b : State} (ha : c → Keeps q a) (hb : ¬ c → Keeps q b) :
    Keeps q (if c then a else b) := by
  split
  · exact ha ‹_›
  · exact hb ‹_›

theorem Keeps.iteFst {q : State} {α : Type} {c : Prop} [Decidable c] {a b : State × α} (ha : c → Keeps q a.1)
    (hb : ¬ c → Keeps q b.1) : Keeps q (if c then a else b).1 := by
  split
  · exact ha ‹_›
  · exact hb ‹_›

/-- A state with the fields of the invariant changed, each keeping its part of it. -/
theorem Keeps.change {q : State} {s t : State} (h : Keeps q s) (hp : t.pending = s.pending)
    (hm : Memory.wf t.mem = true) (hk : Marks.wf t.marks = true) (he : t.ev.fifo.length ≤ 1024)
    (hh : t.mb.history.length ≤ 16) (ht : ∀ e ∈ t.trace.fifos, fifoLen e.2 ≤ 16) (ha : t.islands.getLsbD 0 = true)
    (hb : OtpGrows s.boot t.boot) : Keeps q t :=
  ⟨hp.trans h.pending, ⟨hm, hk, he, hh, ht, ha⟩, h.otp.trans hb⟩

/-- A state in which only fields outside the invariant differ. -/
theorem Keeps.upd {q : State} {s : State} (h : Keeps q s)
    {time₁ : Nat} {rst₁ : ResetUnit} {sdio₁ : SdioCard} {boot₁ : BootUnit} {mb₁ : Mailbox} {ev₁ : EventUnit}
    {bulk₁ : BulkUnit} {chans₁ : ChanTab} {fw₁ : Tab FwRegion} {eccBad₁ : List EccHit} {pipes₁ : Tab Pipe} {ports₁ : Tab CsiPort}
    {trigs₁ : Tab Trig} {flags₁ : Tab Flag} {binds₁ : Tab FlagBind} {sems₁ : Tab Sem} {nodes₁ : Tab Node}
    {links₁ : Tab (BitVec 32)} {descs₁ : Tab (List Byte)} {graphs₁ : Tab Graph} {engines₁ : Tab EngRun}
    {obxCarry₁ : Tab (List Comp)} {objNext₁ : Tab Nat} {objDropped₁ : Nat} {ringBusy₁ : List (Nat × Nat)}
    {cores₁ : Tab CoreSt} {pool₁ : PoolUnit} {eports₁ : Tab EPort} {dma₁ : Tab DmaChan} {streams₁ : Tab
    StreamSt} {wcache₁ : List WLine} {lports₁ : Tab LinkPort} {inst₁ : Installation} {ddr₁ : DdrUnit} {safety₁ :
    SafetyUnit} {power₁ : PowerUnit} {trace₁ : TraceUnit} {watches₁ : Tab Watch} {tap₁ : TapUnit} {eccCnt₁ : Tab
    Nat} {eccWin₁ : Tab Nat} {freeCnt₁ : Nat}
    (he : ev₁.fifo = s.ev.fifo) (hh : mb₁.history = s.mb.history) (ht : trace₁.fifos = s.trace.fifos)
    (hb : otpOf boot₁ = otpOf s.boot) :
    Keeps q (State.mk s.pending time₁ rst₁ sdio₁ boot₁ mb₁ ev₁ bulk₁ chans₁ fw₁ s.islands s.mem s.marks eccBad₁ pipes₁
      ports₁ trigs₁ flags₁ binds₁ sems₁ nodes₁ links₁ descs₁ graphs₁ engines₁ obxCarry₁ objNext₁ objDropped₁
      ringBusy₁ cores₁ pool₁ eports₁ dma₁ streams₁ wcache₁ lports₁ inst₁ ddr₁ safety₁ power₁ trace₁ watches₁
      tap₁ eccCnt₁ eccWin₁ freeCnt₁) :=
  h.change rfl h.inv.mem h.inv.marks (by rw [he]; exact h.inv.events) (by rw [hh]; exact h.inv.history)
    (by rw [ht]; exact h.inv.traces) h.inv.aon (.ofEq hb)

end Sys2Proof.Machine
end

