-- ==== Sys2Proof/Laws/KeepsBase.lean ====
section
/-! SUPPORT. Every operation of Machine/Base.lean keeps the queue and the invariant. -/

namespace Sys2Proof.Machine

open Sys2Proof

theorem putBytes_keeps {q₀ : State} {s : State} (a : Nat) (bs : List Byte) (poison : Bool) (h : Keeps q₀ s) :
    Keeps q₀ (putBytes s a bs poison) :=
  h.change rfl (memWrite_wf a bs h.inv.mem) (marksAfter_wf s a bs.length poison h.inv.marks) h.inv.events h.inv.history
    h.inv.traces h.inv.aon (.refl _)

theorem scramble_keeps {q₀ : State} {s : State} (a : Nat) (len : Nat) (hK : Keeps q₀ s) :
    Keeps q₀ (scramble s a len) := by
  unfold scramble
  repeat' first
    | with_reducible assumption
    | (refine Keeps.ofEq (by with_reducible assumption) ?_)
    | with_reducible apply putBytes_keeps
    | (refine Keeps.upd ?_ rfl rfl rfl rfl; first | with_reducible assumption | (refine Keeps.ofEq (by with_reducible assumption) ?_) | with_reducible apply putBytes_keeps)

theorem setPort_keeps {q₀ : State} {s : State} (k : Nat) (p : CsiPort) (hK : Keeps q₀ s) :
    Keeps q₀ (setPort s k p) := by
  unfold setPort
  repeat' first
    | with_reducible assumption
    | (refine Keeps.ofEq (by with_reducible assumption) ?_)
    | (refine Keeps.upd ?_ rfl rfl rfl rfl; with_reducible assumption)

theorem setTrig_keeps {q₀ : State} {s : State} (n : Nat) (t : Trig) (hK : Keeps q₀ s) :
    Keeps q₀ (setTrig s n t) := by
  unfold setTrig
  repeat' first
    | with_reducible assumption
    | (refine Keeps.ofEq (by with_reducible assumption) ?_)
    | (refine Keeps.upd ?_ rfl rfl rfl rfl; with_reducible assumption)

theorem setFlag_keeps {q₀ : State} {s : State} (n : Nat) (f : Flag) (hK : Keeps q₀ s) :
    Keeps q₀ (setFlag s n f) := by
  unfold setFlag
  repeat' first
    | with_reducible assumption
    | (refine Keeps.ofEq (by with_reducible assumption) ?_)
    | (refine Keeps.upd ?_ rfl rfl rfl rfl; with_reducible assumption)

theorem setSem_keeps {q₀ : State} {s : State} (n : Nat) (x : Sem) (hK : Keeps q₀ s) :
    Keeps q₀ (setSem s n x) := by
  unfold setSem
  repeat' first
    | with_reducible assumption
    | (refine Keeps.ofEq (by with_reducible assumption) ?_)
    | (refine Keeps.upd ?_ rfl rfl rfl rfl; with_reducible assumption)

theorem setCore_keeps {q₀ : State} {s : State} (c : Nat) (x : CoreSt) (hK : Keeps q₀ s) :
    Keeps q₀ (setCore s c x) := by
  unfold setCore
  repeat' first
    | with_reducible assumption
    | (refine Keeps.ofEq (by with_reducible assumption) ?_)
    | (refine Keeps.upd ?_ rfl rfl rfl rfl; with_reducible assumption)

theorem setLport_keeps {q₀ : State} {s : State} (p : Nat) (x : LinkPort) (hK : Keeps q₀ s) :
    Keeps q₀ (setLport s p x) := by
  unfold setLport
  repeat' first
    | with_reducible assumption
    | (refine Keeps.ofEq (by with_reducible assumption) ?_)
    | (refine Keeps.upd ?_ rfl rfl rfl rfl; with_reducible assumption)

theorem setEport_keeps {q₀ : State} {s : State} (p : Nat) (x : EPort) (hK : Keeps q₀ s) :
    Keeps q₀ (setEport s p x) := by
  unfold setEport
  repeat' first
    | with_reducible assumption
    | (refine Keeps.ofEq (by with_reducible assumption) ?_)
    | (refine Keeps.upd ?_ rfl rfl rfl rfl; with_reducible assumption)

theorem setTrace_keeps {q₀ : State} {s : State} (c : Nat) (x : TraceCh) (hK : Keeps q₀ s) :
    Keeps q₀ (setTrace s c x) := by
  unfold setTrace
  repeat' first
    | with_reducible assumption
    | (refine Keeps.ofEq (by with_reducible assumption) ?_)
    | (refine Keeps.upd ?_ rfl rfl rfl rfl; with_reducible assumption)

theorem setPipe_keeps {q₀ : State} {s : State} (p : Nat) (x : Pipe) (hK : Keeps q₀ s) :
    Keeps q₀ (setPipe s p x) := by
  unfold setPipe
  repeat' first
    | with_reducible assumption
    | (refine Keeps.ofEq (by with_reducible assumption) ?_)
    | (refine Keeps.upd ?_ rfl rfl rfl rfl; with_reducible assumption)

theorem setNode_keeps {q₀ : State} {s : State} (n : Nat) (x : Node) (hK : Keeps q₀ s) :
    Keeps q₀ (setNode s n x) := by
  unfold setNode
  repeat' first
    | with_reducible assumption
    | (refine Keeps.ofEq (by with_reducible assumption) ?_)
    | (refine Keeps.upd ?_ rfl rfl rfl rfl; with_reducible assumption)

theorem setGraph_keeps {q₀ : State} {s : State} (g : Nat) (x : Graph) (hK : Keeps q₀ s) :
    Keeps q₀ (setGraph s g x) := by
  unfold setGraph
  repeat' first
    | with_reducible assumption
    | (refine Keeps.ofEq (by with_reducible assumption) ?_)
    | (refine Keeps.upd ?_ rfl rfl rfl rfl; with_reducible assumption)

theorem setEngine_keeps {q₀ : State} {s : State} (e : Nat) (x : EngRun) (hK : Keeps q₀ s) :
    Keeps q₀ (setEngine s e x) := by
  unfold setEngine
  repeat' first
    | with_reducible assumption
    | (refine Keeps.ofEq (by with_reducible assumption) ?_)
    | (refine Keeps.upd ?_ rfl rfl rfl rfl; with_reducible assumption)

theorem setDma_keeps {q₀ : State} {s : State} (c : Nat) (x : DmaChan) (hK : Keeps q₀ s) :
    Keeps q₀ (setDma s c x) := by
  unfold setDma
  repeat' first
    | with_reducible assumption
    | (refine Keeps.ofEq (by with_reducible assumption) ?_)
    | (refine Keeps.upd ?_ rfl rfl rfl rfl; with_reducible assumption)

theorem setStream_keeps {q₀ : State} {s : State} (c : Nat) (x : StreamSt) (hK : Keeps q₀ s) :
    Keeps q₀ (setStream s c x) := by
  unfold setStream
  repeat' first
    | with_reducible assumption
    | (refine Keeps.ofEq (by with_reducible assumption) ?_)
    | (refine Keeps.upd ?_ rfl rfl rfl rfl; with_reducible assumption)

theorem setFlow_keeps {q₀ : State} {s : State} (f : Nat) (x : Flow) (hK : Keeps q₀ s) :
    Keeps q₀ (setFlow s f x) := by
  unfold setFlow
  repeat' first
    | with_reducible assumption
    | (refine Keeps.ofEq (by with_reducible assumption) ?_)
    | (refine Keeps.upd ?_ rfl rfl rfl rfl; with_reducible assumption)

theorem advanceTo_keeps {q₀ : State} {s : State} (t : Nat) (hK : Keeps q₀ s) :
    Keeps q₀ (advanceTo s t) := by
  unfold advanceTo
  repeat' first
    | with_reducible assumption
    | (refine Keeps.ofEq (by with_reducible assumption) ?_)
    | (refine Keeps.upd ?_ rfl rfl rfl rfl; with_reducible assumption)

theorem bump_keeps {q₀ : State} {s : State} (cls : Nat) (unit : Nat) (i : Nat) (n : Nat) (hK : Keeps q₀ s) :
    Keeps q₀ (bump s cls unit i n) := by
  unfold bump
  repeat' first
    | with_reducible assumption
    | (refine Keeps.ofEq (by with_reducible assumption) ?_)
    | (refine Keeps.upd ?_ rfl rfl rfl rfl; with_reducible assumption)

/-- A FIFO set to what still fits keeps every FIFO within 16 records. -/
theorem fifos_tabSet {t : Tab (List TraceRec)} (k : Nat) {q : List TraceRec} (hq : fifoLen q ≤ 16)
    (h : ∀ e ∈ t, fifoLen e.2 ≤ 16) : ∀ e ∈ tabSet k q t, fifoLen e.2 ≤ 16 :=
  fun _ he => (mem_tabSet he).elim (fun x => x ▸ hq) (h _)

theorem fifoLen_cons (r : TraceRec) (l : List TraceRec) : fifoLen (r :: l) = 1 + r.exts.length + fifoLen l := by
  have key : ∀ (l : List TraceRec) (n : Nat),
      l.foldl (fun n r => n + 1 + r.exts.length) n = n + l.foldl (fun n r => n + 1 + r.exts.length) 0 := by
    intro l
    induction l with
    | nil => intro n; rfl
    | cons a l ih => intro n; simp only [List.foldl_cons]; rw [ih, ih (0 + 1 + _)]; omega
  simp only [fifoLen, List.foldl_cons]
  rw [key, Nat.zero_add]

theorem fifoLen_append (l m : List TraceRec) : fifoLen (l ++ m) = fifoLen l + fifoLen m := by
  induction l with
  | nil => simp [fifoLen]
  | cons r l ih => simp only [List.cons_append, fifoLen_cons, ih]; omega

theorem emitTrace_keeps {q₀ : State} {s : State} (cls unit : Nat) (golden : Bool) (kind arg : Nat)
    (exts : List (Nat × Nat × Nat × Nat × Nat)) (h : Keeps q₀ s) :
    Keeps q₀ (emitTrace s cls unit golden kind arg exts) := by
  unfold emitTrace
  extract_lets k q lost mk add
  split
  · rename_i hfit
    refine h.change rfl h.inv.mem h.inv.marks h.inv.events h.inv.history (fifos_tabSet _ ?_ h.inv.traces) h.inv.aon (.refl _)
    rw [fifoLen_append]
    exact hfit
  · exact h.upd rfl rfl rfl rfl

end Sys2Proof.Machine
end

