-- ==== Sys2Proof/Laws/KeepsLinkTx.lean ====
section
/-! SUPPORT. Every operation of Machine/LinkTx.lean keeps the queue and the invariant. -/

namespace Sys2Proof.Machine

open Sys2Proof

theorem freeFlits_keeps {q₀ : State} {s : State} (p : Nat) (vc : Nat) (n : Nat) (hK : Keeps q₀ s) :
    Keeps q₀ (freeFlits s p vc n) := by
  unfold freeFlits
  repeat' first
    | with_reducible assumption
    | (refine Keeps.ofEq (by with_reducible assumption) ?_)
    | with_reducible apply setLport_keeps
    | (with_reducible apply Keeps.ite <;> intro _)

theorem startAt_keeps {q₀ : State} {s : State} (p : Nat) (i : Nat) (hK : Keeps q₀ s) :
    Keeps q₀ (startAt s p i) := by
  unfold startAt
  repeat' first
    | with_reducible assumption
    | (refine Keeps.ofEq (by with_reducible assumption) ?_)
    | with_reducible apply setLport_keeps
    | split
    | dsimp only

theorem sendFlit_keeps {q₀ : State} {s : State} (p : Nat) (o : OutPkt) (f : Nat × Nat × List Byte) (rest : List (Nat × Nat × List Byte)) (hK : Keeps q₀ s) :
    Keeps q₀ (sendFlit s p o f rest) := by
  unfold sendFlit
  repeat' first
    | with_reducible assumption
    | (refine Keeps.ofEq (by with_reducible assumption) ?_)
    | with_reducible apply bump_keeps
    | with_reducible apply setLport_keeps
    | with_reducible apply emitTrace_keeps
    | with_reducible apply freeFlits_keeps
    | (with_reducible apply Keeps.ite <;> intro _)

theorem pumpStep_keeps {q₀ : State} {s t : State} {p : Nat} (h : Keeps q₀ s) (e : pumpStep s p = some t) : Keeps q₀ t := by
  unfold pumpStep at e
  dsimp only at e
  split at e
  · split at e
    · cases e
    · split at e <;> cases e
      exact sendFlit_keeps _ _ _ _ h
  · simp only [Option.map_eq_some_iff] at e
    obtain ⟨i, -, rfl⟩ := e
    exact startAt_keeps _ _ h

theorem pumpPort_keeps {q₀ : State} (n : Nat) {s : State} (p : Nat) (h : Keeps q₀ s) : Keeps q₀ (pumpPort n s p) := by
  induction n generalizing s with
  | zero => exact h
  | succ n ih =>
    unfold pumpPort
    split
    · exact h
    · split
      · exact h
      · exact ih (pumpStep_keeps h ‹_›)

theorem pump_keeps {q₀ : State} {s : State} (p : Nat) (hK : Keeps q₀ s) :
    Keeps q₀ (pump s p) := by
  unfold pump
  repeat' first
    | with_reducible assumption
    | (refine Keeps.ofEq (by with_reducible assumption) ?_)
    | with_reducible apply pumpPort_keeps

theorem enqueueAt_keeps {q₀ : State} {s : State} (p : Nat) (src : Nat) (x : Packet) (hK : Keeps q₀ s) :
    Keeps q₀ (enqueueAt s p src x) := by
  unfold enqueueAt
  repeat' first
    | with_reducible assumption
    | (refine Keeps.ofEq (by with_reducible assumption) ?_)
    | with_reducible apply pump_keeps
    | with_reducible apply setLport_keeps

theorem countDiscard_keeps {q₀ : State} {s : State} (hK : Keeps q₀ s) :
    Keeps q₀ (countDiscard s) := by
  unfold countDiscard
  repeat' first
    | with_reducible assumption
    | (refine Keeps.ofEq (by with_reducible assumption) ?_)
    | (refine Keeps.upd ?_ rfl rfl rfl rfl; with_reducible assumption)

theorem deliver_keeps {q₀ : State} {s : State} (x : Packet) (hK : Keeps q₀ s) :
    Keeps q₀ (deliver s x) := by
  unfold deliver
  repeat' first
    | with_reducible assumption
    | (refine Keeps.ofEq (by with_reducible assumption) ?_)
    | (refine Keeps.upd ?_ rfl rfl rfl rfl; with_reducible assumption)

theorem routePosted_keeps {q₀ : State} {s : State} (src : Nat) (x : Packet) (hK : Keeps q₀ s) :
    Keeps q₀ (routePosted s src x) := by
  unfold routePosted
  repeat' first
    | with_reducible assumption
    | (refine Keeps.ofEq (by with_reducible assumption) ?_)
    | with_reducible apply deliver_keeps
    | with_reducible apply countDiscard_keeps
    | with_reducible apply enqueueAt_keeps
    | (with_reducible apply Keeps.ite <;> intro _)

theorem refusePacket_keeps {q₀ : State} {s : State} (x : Packet) (status : Nat) (hK : Keeps q₀ s) :
    Keeps q₀ (refusePacket s x status) := by
  unfold refusePacket
  repeat' first
    | with_reducible assumption
    | (refine Keeps.ofEq (by with_reducible assumption) ?_)
    | with_reducible apply routePosted_keeps
    | with_reducible apply countDiscard_keeps
    | (with_reducible apply Keeps.ite <;> intro _)

theorem routePacket_keeps {q₀ : State} {s : State} (src : Nat) (x : Packet) (hK : Keeps q₀ s) :
    Keeps q₀ (routePacket s src x) := by
  unfold routePacket
  repeat' first
    | with_reducible assumption
    | (refine Keeps.ofEq (by with_reducible assumption) ?_)
    | with_reducible apply deliver_keeps
    | with_reducible apply refusePacket_keeps
    | with_reducible apply enqueueAt_keeps
    | (with_reducible apply Keeps.ite <;> intro _)

theorem sendHopLocal_keeps {q₀ : State} {s : State} (p : Nat) (x : Packet) (hK : Keeps q₀ s) :
    Keeps q₀ (sendHopLocal s p x) := by
  unfold sendHopLocal
  repeat' first
    | with_reducible assumption
    | (refine Keeps.ofEq (by with_reducible assumption) ?_)
    | with_reducible apply refusePacket_keeps
    | with_reducible apply enqueueAt_keeps
    | (with_reducible apply Keeps.ite <;> intro _)

theorem allotTag_keeps {q₀ : State} {s : State} (t : Nat) (x : Txn) (hK : Keeps q₀ s) :
    Keeps q₀ (allotTag s t x) := by
  unfold allotTag
  repeat' first
    | with_reducible assumption
    | (refine Keeps.ofEq (by with_reducible assumption) ?_)
    | (refine Keeps.upd ?_ rfl rfl rfl rfl; with_reducible assumption)

theorem sendTagged_keeps {q₀ : State} (port : Option Nat) (t : Nat) {s : State} (p : Packet) (hK : Keeps q₀ s) :
    Keeps q₀ (sendTagged port t s p) := by
  unfold sendTagged
  repeat' first
    | with_reducible assumption
    | (refine Keeps.ofEq (by with_reducible assumption) ?_)
    | with_reducible apply sendHopLocal_keeps
    | with_reducible apply routePacket_keeps
    | split

theorem sendReq_keeps {q₀ : State} {s : State} (t : Nat) (q : TagReq) (hK : Keeps q₀ s) :
    Keeps q₀ (sendReq s t q) := by
  unfold sendReq
  repeat' first
    | with_reducible assumption
    | (refine Keeps.ofEq (by with_reducible assumption) ?_)
    | with_reducible apply sendTagged_keeps
    | with_reducible apply allotTag_keeps
    | with_reducible apply Keeps.foldl

theorem request_keeps {q₀ : State} {s : State} (q : TagReq) (hK : Keeps q₀ s) :
    Keeps q₀ (request s q) := by
  unfold request
  repeat' first
    | with_reducible assumption
    | (refine Keeps.ofEq (by with_reducible assumption) ?_)
    | with_reducible apply sendReq_keeps
    | (refine Keeps.upd ?_ rfl rfl rfl rfl; first | with_reducible assumption | (refine Keeps.ofEq (by with_reducible assumption) ?_) | with_reducible apply sendReq_keeps)
    | split

theorem serveTags_keeps {q₀ : State} (n : Nat) {s : State} (h : Keeps q₀ s) : Keeps q₀ (serveTags n s) := by
  induction n generalizing s with
  | zero => exact h
  | succ n ih =>
    unfold serveTags
    split
    · exact ih (sendReq_keeps _ _ (.upd h rfl rfl rfl rfl))
    · exact h

end Sys2Proof.Machine
end

