-- ==== Sys2Proof/Laws/KeepsOps.lean ====
section
/-! SUPPORT. Every operation of Machine/Ops.lean keeps the queue and the invariant. -/

namespace Sys2Proof.Machine

open Sys2Proof

theorem pushEvent_keeps {q₀ : State} {s : State} (e : EvRec) (h : Keeps q₀ s) : Keeps q₀ (pushEvent s e) := by
  unfold pushEvent
  split
  · rename_i hc
    simp only [Bool.and_eq_true, decide_eq_true_eq] at hc
    refine h.change rfl h.inv.mem h.inv.marks ?_ h.inv.history h.inv.traces h.inv.aon (.refl _)
    simp only [List.length_append, List.length_singleton]
    omega
  · exact h.upd rfl rfl rfl rfl

theorem placeEvent_keeps {q₀ : State} {s : State} (e : EvRec) (hK : Keeps q₀ s) :
    Keeps q₀ (placeEvent s e) := by
  unfold placeEvent
  repeat' first
    | with_reducible assumption
    | (refine Keeps.ofEq (by with_reducible assumption) ?_)
    | with_reducible apply pushEvent_keeps
    | with_reducible apply routePosted_keeps
    | (with_reducible apply Keeps.ite <;> intro _)
    | (refine Keeps.upd ?_ rfl rfl rfl rfl; first | with_reducible assumption | (refine Keeps.ofEq (by with_reducible assumption) ?_) | with_reducible apply pushEvent_keeps | with_reducible apply routePosted_keeps)
    | split

theorem postEvent_keeps {q₀ : State} {s : State} (code : Nat) (cls : Nat) (unit : Nat) (arg : List Byte) (hK : Keeps q₀ s) :
    Keeps q₀ (postEvent s code cls unit arg) := by
  unfold postEvent
  repeat' first
    | with_reducible assumption
    | (refine Keeps.ofEq (by with_reducible assumption) ?_)
    | with_reducible apply placeEvent_keeps
    | with_reducible apply emitTrace_keeps
    | (refine Keeps.upd ?_ rfl rfl rfl rfl; with_reducible assumption)

theorem updateDoubt_keeps {q₀ : State} {s : State} (hK : Keeps q₀ s) :
    Keeps q₀ (updateDoubt s) := by
  unfold updateDoubt
  repeat' first
    | with_reducible assumption
    | (refine Keeps.ofEq (by with_reducible assumption) ?_)
    | (refine Keeps.upd ?_ rfl rfl rfl rfl; with_reducible assumption)

theorem failCond_keeps {q₀ : State} {s : State} (source : Nat) (kind : Nat) (scope : Nat) (level : Bool) (hK : Keeps q₀ s) :
    Keeps q₀ (failCond s source kind scope level) := by
  unfold failCond
  repeat' first
    | with_reducible assumption
    | (refine Keeps.ofEq (by with_reducible assumption) ?_)
    | with_reducible apply postEvent_keeps
    | with_reducible apply updateDoubt_keeps
    | (with_reducible apply Keeps.ite <;> intro _)
    | (refine Keeps.upd ?_ rfl rfl rfl rfl; with_reducible assumption)

theorem endLevel_keeps {q₀ : State} {s : State} (source : Nat) (kind : Nat) (scope : Nat) (hK : Keeps q₀ s) :
    Keeps q₀ (endLevel s source kind scope) := by
  unfold endLevel
  repeat' first
    | with_reducible assumption
    | (refine Keeps.ofEq (by with_reducible assumption) ?_)
    | (refine Keeps.upd ?_ rfl rfl rfl rfl; with_reducible assumption)

theorem raiseDoubt_keeps {q₀ : State} {s : State} (code : Nat) (cls : Nat) (unit : Nat) (arg : List Byte) (source : Nat) (kind : Nat) (scope : Nat) (hK : Keeps q₀ s) :
    Keeps q₀ (raiseDoubt s code cls unit arg source kind scope) := by
  unfold raiseDoubt
  repeat' first
    | with_reducible assumption
    | (refine Keeps.ofEq (by with_reducible assumption) ?_)
    | with_reducible apply failCond_keeps
    | with_reducible apply postEvent_keeps

theorem travelMismatch_keeps {q₀ : State} {s : State} (cls : Nat) (unit : Nat) (count : Nat) (port : Nat) (addr : Nat) (hK : Keeps q₀ s) :
    Keeps q₀ (travelMismatch s cls unit count port addr) := by
  unfold travelMismatch
  repeat' first
    | with_reducible assumption
    | (refine Keeps.ofEq (by with_reducible assumption) ?_)
    | with_reducible apply raiseDoubt_keeps
    | (with_reducible apply Keeps.ite <;> intro _)

theorem setFw_keeps {q₀ : State} {s : State} (target : Nat) (region : Nat) (r : FwRegion) (hK : Keeps q₀ s) :
    Keeps q₀ (setFw s target region r) := by
  unfold setFw
  repeat' first
    | with_reducible assumption
    | (refine Keeps.ofEq (by with_reducible assumption) ?_)
    | (refine Keeps.upd ?_ rfl rfl rfl rfl; with_reducible assumption)

theorem denyEvent_keeps {q₀ : State} {s : State} (dom : Nat) (a : Nat) (len : Nat) (hK : Keeps q₀ s) :
    Keeps q₀ (denyEvent s dom a len) := by
  unfold denyEvent
  repeat' first
    | with_reducible assumption
    | (refine Keeps.ofEq (by with_reducible assumption) ?_)
    | with_reducible apply postEvent_keeps
    | split

theorem access_keeps {q₀ : State} {s : State} (dom : Nat) (wr : Bool) (a : Nat) (len : Nat) (hK : Keeps q₀ s) :
    Keeps q₀ (access s dom wr a len).1 := by
  unfold access
  repeat' first
    | with_reducible assumption
    | (refine Keeps.ofEq (by with_reducible assumption) ?_)
    | with_reducible apply denyEvent_keeps
    | (with_reducible apply Keeps.ite <;> intro _)

/-- The trimmed history holds at most 16 records. -/
theorem trimHist_length (l : List HistEntry) : (trimHist l).length ≤ 16 := by
  induction l with
  | nil => simp [trimHist]
  | cons e l ih =>
    cases l with
    | nil => simp [trimHist]
    | cons e' l =>
      simp only [trimHist] at ih ⊢
      split
      · exact ih
      · rename_i hc
        omega

theorem recordHist_keeps {q₀ : State} {s : State} (opcode : Nat) (hd : CmdHdr) (rsp : List Byte) (h : Keeps q₀ s) :
    Keeps q₀ (recordHist s opcode hd rsp) :=
  h.change rfl h.inv.mem h.inv.marks h.inv.events (trimHist_length _) h.inv.traces h.inv.aon (.refl _)

theorem sendMbox_keeps {q₀ : State} {s : State} (type : Nat) (dst : Nat) (tag : Nat) (gen : Nat) (bs : List Byte) (hK : Keeps q₀ s) :
    Keeps q₀ (sendMbox s type dst tag gen bs) := by
  unfold sendMbox
  repeat' first
    | with_reducible assumption
    | (refine Keeps.ofEq (by with_reducible assumption) ?_)
    | with_reducible apply routePosted_keeps
    | with_reducible apply Keeps.foldl
    | with_reducible apply Keeps.foldlFst
    | split
    | dsimp only
    | (intro _)

theorem placeResponse_keeps {q₀ : State} {s : State} (i : Nat) (r : MbRec) (rsp : List Byte) (hK : Keeps q₀ s) :
    Keeps q₀ (placeResponse s i r rsp) := by
  unfold placeResponse
  repeat' first
    | with_reducible assumption
    | (refine Keeps.ofEq (by with_reducible assumption) ?_)
    | with_reducible apply sendMbox_keeps
    | with_reducible apply postEvent_keeps
    | (with_reducible apply Keeps.ite <;> intro _)
    | (refine Keeps.upd ?_ rfl rfl rfl rfl; first | with_reducible assumption | (refine Keeps.ofEq (by with_reducible assumption) ?_) | with_reducible apply sendMbox_keeps | with_reducible apply postEvent_keeps)
    | split

theorem finishAt_keeps {q₀ : State} {s : State} (i : Nat) (r : MbRec) (st : Status) (payload : List Byte) (hK : Keeps q₀ s) :
    Keeps q₀ (finishAt s i r st payload) := by
  unfold finishAt
  repeat' first
    | with_reducible assumption
    | (refine Keeps.ofEq (by with_reducible assumption) ?_)
    | with_reducible apply placeResponse_keeps
    | with_reducible apply recordHist_keeps

theorem settleAt_keeps {q₀ : State} {s : State} (i : Nat) (r : MbRec) (c : CmdRes) (h : Keeps q₀ s) :
    Keeps q₀ (settleAt s i r c) := by
  cases c
  · exact finishAt_keeps _ _ _ _ h
  · exact h.upd rfl rfl rfl rfl

theorem answer_keeps {q₀ : State} {s : State} (w : WaitKind) (st : Status) (payload : List Byte) (hK : Keeps q₀ s) :
    Keeps q₀ (answer s w st payload) := by
  unfold answer
  repeat' first
    | with_reducible assumption
    | (refine Keeps.ofEq (by with_reducible assumption) ?_)
    | with_reducible apply finishAt_keeps
    | split

theorem refuse_keeps {q₀ : State} {s : State} (st : Status) (hK : Keeps q₀ s) :
    Keeps q₀ (refuse s st).1 := by
  unfold refuse
  repeat' first
    | with_reducible assumption

theorem refuseAt_keeps {q₀ : State} {s : State} (st : Status) (off : Nat) (hK : Keeps q₀ s) :
    Keeps q₀ (refuseAt s st off).1 := by
  unfold refuseAt
  repeat' first
    | with_reducible assumption

theorem okDone_keeps {q₀ : State} {s : State} (hK : Keeps q₀ s) :
    Keeps q₀ (okDone s).1 := by
  unfold okDone
  repeat' first
    | with_reducible assumption

theorem okWith_keeps {q₀ : State} {s : State} (payload : List Byte) (hK : Keeps q₀ s) :
    Keeps q₀ (okWith s payload).1 := by
  unfold okWith
  repeat' first
    | with_reducible assumption

theorem execChecked_keeps {q₀ : State} {s : State} (resv : Option Nat) (opcode : Nat) (hd : CmdHdr)
    {f : State → State × CmdRes} (hf : ∀ s, Keeps q₀ s → Keeps q₀ (f s).1) (h : Keeps q₀ s) :
    Keeps q₀ (execChecked resv opcode hd f s).1 := by
  unfold execChecked
  repeat' first
    | with_reducible assumption
    | with_reducible exact hf _ h
    | with_reducible apply refuse_keeps
    | split

theorem answerRow_keeps {q₀ : State} (h : CmdHdr) (opcode : Nat) {x : State × CmdRes} (hK : Keeps q₀ x.1) :
    Keeps q₀ (answerRow h opcode x) := by
  unfold answerRow
  exact settleAt_keeps _ _ _ (.upd hK rfl rfl rfl rfl)

theorem runCommand_keeps {q₀ : State} {s : State} (hd : CmdHdr) (opcode : Nat)
    {f : State → State × CmdRes} (hf : ∀ s, Keeps q₀ s → Keeps q₀ (f s).1) (h : Keeps q₀ s) :
    Keeps q₀ (runCommand hd opcode f s) := by
  unfold runCommand
  split
  · exact h
  · exact settleAt_keeps _ _ _ ((execChecked_keeps _ opcode hd hf h).upd rfl rfl rfl rfl)

end Sys2Proof.Machine
end

