-- ==== Sys2Proof/Laws/KeepsEcc.lean ====
section
/-! SUPPORT. Every operation of Machine/Ecc.lean keeps the queue and the invariant. -/

namespace Sys2Proof.Machine

open Sys2Proof

theorem eccCorrected_keeps {q₀ : State} {s : State} (cls : Nat) (unit : Nat) (key : Nat) (arg : List Byte) (hK : Keeps q₀ s) :
    Keeps q₀ (eccCorrected s cls unit key arg) := by
  unfold eccCorrected
  repeat' first
    | with_reducible assumption
    | (refine Keeps.ofEq (by with_reducible assumption) ?_)
    | with_reducible apply postEvent_keeps
    | (with_reducible apply Keeps.ite <;> intro _)
    | (refine Keeps.upd ?_ rfl rfl rfl rfl; with_reducible assumption)

theorem eccUncorr_keeps {q₀ : State} {s : State} (cls unit : Nat) (grans : List Nat) (arg : List Byte)
    (h : Keeps q₀ s) : Keeps q₀ (eccUncorr s cls unit grans arg) :=
  raiseDoubt_keeps _ _ _ _ _ _ _ (h.change rfl h.inv.mem (marksFold_wf (fun _ _ ht => marksPut_wf _ _ ht) h.inv.marks)
    h.inv.events h.inv.history h.inv.traces h.inv.aon (.refl _))

theorem fsEcc_keeps {q₀ : State} {s : State} (bank row : Nat) (found : EccFind) (hK : Keeps q₀ s) :
    Keeps q₀ (fsEcc s bank row found) := by
  unfold fsEcc
  repeat' first
    | with_reducible assumption
    | (refine Keeps.ofEq (by with_reducible assumption) ?_)
    | with_reducible apply bump_keeps
    | with_reducible apply eccCorrected_keeps
    | with_reducible apply eccUncorr_keeps
    | split

theorem spmEcc_keeps {q₀ : State} {s : State} (core row : Nat) (found : EccFind) (hK : Keeps q₀ s) :
    Keeps q₀ (spmEcc s core row found) := by
  unfold spmEcc
  repeat' first
    | with_reducible assumption
    | (refine Keeps.ofEq (by with_reducible assumption) ?_)
    | with_reducible apply bump_keeps
    | with_reducible apply eccCorrected_keeps
    | with_reducible apply eccUncorr_keeps
    | split

theorem ddrEcc_keeps {q₀ : State} {s : State} (addr : Nat) (isCode : Bool) (found : EccFind) (rank bank row : Nat) (hK : Keeps q₀ s) :
    Keeps q₀ (ddrEcc s addr isCode found rank bank row) := by
  unfold ddrEcc
  repeat' first
    | with_reducible assumption
    | (refine Keeps.ofEq (by with_reducible assumption) ?_)
    | with_reducible apply bump_keeps
    | with_reducible apply eccCorrected_keeps
    | with_reducible apply eccUncorr_keeps
    | split

theorem traceEcc_keeps {q₀ : State} {s : State} (addr : Nat) (found : EccFind) (hK : Keeps q₀ s) :
    Keeps q₀ (traceEcc s addr found) := by
  unfold traceEcc
  repeat' first
    | with_reducible assumption
    | (refine Keeps.ofEq (by with_reducible assumption) ?_)
    | with_reducible apply eccCorrected_keeps
    | with_reducible apply eccUncorr_keeps
    | split

theorem tableEcc_keeps {q₀ : State} {s : State} (addr : Nat) (found : EccFind) (hK : Keeps q₀ s) :
    Keeps q₀ (tableEcc s addr found) := by
  unfold tableEcc
  repeat' first
    | with_reducible assumption
    | (refine Keeps.ofEq (by with_reducible assumption) ?_)
    | with_reducible apply eccCorrected_keeps
    | with_reducible apply eccUncorr_keeps
    | split

theorem fifoEcc_keeps {q₀ : State} {s : State} (port : Nat) (found : EccFind) (hK : Keeps q₀ s) :
    Keeps q₀ (fifoEcc s port found) := by
  unfold fifoEcc
  repeat' first
    | with_reducible assumption
    | (refine Keeps.ofEq (by with_reducible assumption) ?_)
    | with_reducible apply eccCorrected_keeps
    | with_reducible apply eccUncorr_keeps
    | (refine Keeps.upd ?_ rfl rfl rfl rfl; first | with_reducible assumption | (refine Keeps.ofEq (by with_reducible assumption) ?_) | with_reducible apply eccCorrected_keeps | with_reducible apply eccUncorr_keeps)
    | split

theorem lineEcc_keeps {q₀ : State} {s : State} (addr : Nat) (found : EccFind) (hK : Keeps q₀ s) :
    Keeps q₀ (lineEcc s addr found) := by
  unfold lineEcc
  repeat' first
    | with_reducible assumption
    | (refine Keeps.ofEq (by with_reducible assumption) ?_)
    | with_reducible apply eccUncorr_keeps
    | (with_reducible apply Keeps.ite <;> intro _)
    | (refine Keeps.upd ?_ rfl rfl rfl rfl; with_reducible assumption)
    | split

theorem eccFound_keeps {q₀ : State} {s : State} (x : EccHit) (hK : Keeps q₀ s) :
    Keeps q₀ (eccFound s x) := by
  unfold eccFound
  repeat' first
    | with_reducible assumption
    | (refine Keeps.ofEq (by with_reducible assumption) ?_)
    | with_reducible apply lineEcc_keeps
    | with_reducible apply ddrEcc_keeps
    | with_reducible apply fsEcc_keeps
    | with_reducible apply traceEcc_keeps
    | with_reducible apply tableEcc_keeps
    | with_reducible apply spmEcc_keeps
    | (with_reducible apply Keeps.ite <;> intro _)
    | split

theorem plant_keeps {q₀ : State} (l : List EccHit) {s : State} (hK : Keeps q₀ s) : Keeps q₀ (plant l s) :=
  Keeps.foldl (fun _ _ h => h.change rfl h.inv.mem (marksFold_wf (fun _ _ ht => marksPut_wf _ _ ht) h.inv.marks)
    h.inv.events h.inv.history h.inv.traces h.inv.aon (.refl _)) hK

theorem eccMeet_keeps {q₀ : State} {s : State} (x : EccHit) (hK : Keeps q₀ s) :
    Keeps q₀ (eccMeet s x) := by
  unfold eccMeet
  repeat' first
    | with_reducible assumption
    | (refine Keeps.ofEq (by with_reducible assumption) ?_)
    | with_reducible apply eccFound_keeps
    | (with_reducible apply Keeps.ite <;> intro _)
    | (refine Keeps.upd ?_ rfl rfl rfl rfl; first | with_reducible assumption | (refine Keeps.ofEq (by with_reducible assumption) ?_) | with_reducible apply eccFound_keeps)

theorem meet_keeps {q₀ : State} (reads : Nat → Bool) {s : State} (hK : Keeps q₀ s) :
    Keeps q₀ (meet reads s) := by
  unfold meet
  repeat' first
    | with_reducible assumption
    | (refine Keeps.ofEq (by with_reducible assumption) ?_)
    | with_reducible apply eccMeet_keeps
    | with_reducible apply Keeps.foldl
    | with_reducible apply Keeps.foldlFst
    | split
    | dsimp only
    | (intro _)

theorem eccHits_keeps {q₀ : State} (reads : Nat → Bool) (l : List EccHit) {s : State} (hK : Keeps q₀ s) :
    Keeps q₀ (eccHits reads l s) := by
  unfold eccHits
  repeat' first
    | with_reducible assumption
    | (refine Keeps.ofEq (by with_reducible assumption) ?_)
    | with_reducible apply meet_keeps
    | with_reducible apply plant_keeps

theorem meetRange_keeps {q₀ : State} (a : Nat) (len : Nat) {s : State} (hK : Keeps q₀ s) :
    Keeps q₀ (meetRange a len s) := by
  unfold meetRange
  repeat' first
    | with_reducible assumption
    | (refine Keeps.ofEq (by with_reducible assumption) ?_)
    | with_reducible apply meet_keeps

theorem rulesWritten_keeps {q₀ : State} {s : State} (pipe : Nat) (hK : Keeps q₀ s) :
    Keeps q₀ (rulesWritten s pipe) := by
  unfold rulesWritten
  repeat' first
    | with_reducible assumption
    | (refine Keeps.ofEq (by with_reducible assumption) ?_)
    | (refine Keeps.upd ?_ rfl rfl rfl rfl; with_reducible assumption)

theorem countMerges_keeps {q₀ : State} (gs : List Nat) {s : State} (hK : Keeps q₀ s) :
    Keeps q₀ (countMerges gs s) := by
  unfold countMerges
  repeat' first
    | with_reducible assumption
    | (refine Keeps.ofEq (by with_reducible assumption) ?_)
    | with_reducible apply bump_keeps
    | with_reducible apply Keeps.foldl
    | with_reducible apply Keeps.foldlFst
    | split
    | dsimp only
    | (intro _)

theorem meetMerge_keeps {q₀ : State} (a : Nat) (len : Nat) {s : State} (hK : Keeps q₀ s) :
    Keeps q₀ (meetMerge a len s) := by
  unfold meetMerge
  repeat' first
    | with_reducible assumption
    | (refine Keeps.ofEq (by with_reducible assumption) ?_)
    | with_reducible apply countMerges_keeps
    | with_reducible apply meet_keeps

theorem readLocal_keeps {q₀ : State} {s : State} (dom : Nat) (a : Nat) (len : Nat) (hK : Keeps q₀ s) :
    Keeps q₀ (readLocal s dom a len).1 := by
  unfold readLocal
  repeat' first
    | with_reducible assumption
    | (refine Keeps.ofEq (by with_reducible assumption) ?_)
    | with_reducible apply access_keeps
    | with_reducible apply meetRange_keeps
    | split

theorem readStruct_keeps {q₀ : State} {s : State} (cls : Nat) (unit : Nat) (dom : Nat) (a : Nat) (len : Nat) (hK : Keeps q₀ s) :
    Keeps q₀ (readStruct s cls unit dom a len).1 := by
  unfold readStruct
  repeat' first
    | with_reducible assumption
    | (refine Keeps.ofEq (by with_reducible assumption) ?_)
    | with_reducible apply denyEvent_keeps
    | with_reducible apply meetRange_keeps
    | with_reducible apply travelMismatch_keeps
    | (with_reducible apply Keeps.ite <;> intro _)
    | (with_reducible apply Keeps.iteFst <;> intro _)
    | split

theorem writeLocal_keeps {q₀ : State} {s : State} (dom : Nat) (a : Nat) (bs : List Byte) (poison : Bool) (hK : Keeps q₀ s) :
    Keeps q₀ (writeLocal s dom a bs poison).1 := by
  unfold writeLocal
  repeat' first
    | with_reducible assumption
    | (refine Keeps.ofEq (by with_reducible assumption) ?_)
    | with_reducible apply access_keeps
    | with_reducible apply putBytes_keeps
    | with_reducible apply meetMerge_keeps
    | (with_reducible apply Keeps.iteFst <;> intro _)

end Sys2Proof.Machine
end

