-- ==== Sys2Proof/Laws/KeepsReset.lean ====
section
/-! SUPPORT. Every operation of Machine/Reset.lean keeps the queue and the invariant. -/

namespace Sys2Proof.Machine

open Sys2Proof

theorem doResetEntry_keeps {q₀ : State} (c : ResetCause) {s : State} (h : Keeps q₀ s) :
    Keeps q₀ (doResetEntry c s) := by
  refine updateDoubt_keeps (h.change rfl rfl rfl (Nat.zero_le _) (Nat.zero_le _)
    (fun e he => absurd he List.not_mem_nil) ?_ (.ofEq rfl))
  show State.reset.islands.getLsbD 0 = true
  decide

theorem doResetRelease_keeps {q₀ : State} (refclk : Bool) {s : State} (hK : Keeps q₀ s) :
    Keeps q₀ (doResetRelease refclk s) := by
  unfold doResetRelease
  repeat' first
    | with_reducible assumption
    | (refine Keeps.ofEq (by with_reducible assumption) ?_)
    | (with_reducible apply Keeps.ite <;> intro _)
    | (refine Keeps.upd ?_ rfl rfl rfl rfl; with_reducible assumption)

theorem doRefclkPresent_keeps {q₀ : State} {s : State} (hK : Keeps q₀ s) :
    Keeps q₀ (doRefclkPresent s) := by
  unfold doRefclkPresent
  repeat' first
    | with_reducible assumption
    | (refine Keeps.ofEq (by with_reducible assumption) ?_)
    | (with_reducible apply Keeps.ite <;> intro _)
    | (refine Keeps.upd ?_ rfl rfl rfl rfl; with_reducible assumption)

theorem doAonPllLocked_keeps {q₀ : State} (bootSrc : Nat) {s : State} (hK : Keeps q₀ s) :
    Keeps q₀ (doAonPllLocked bootSrc s) := by
  unfold doAonPllLocked
  repeat' first
    | with_reducible assumption
    | (refine Keeps.ofEq (by with_reducible assumption) ?_)
    | with_reducible apply advanceTo_keeps
    | (with_reducible apply Keeps.ite <;> intro _)
    | (refine Keeps.upd ?_ rfl rfl rfl rfl; first | with_reducible assumption | (refine Keeps.ofEq (by with_reducible assumption) ?_) | with_reducible apply advanceTo_keeps)

theorem doAonRelease_keeps {q₀ : State} (otpErr : Bool) {s : State} (h : Keeps q₀ s) :
    Keeps q₀ (doAonRelease otpErr s) := by
  unfold doAonRelease
  split
  · refine updateDoubt_keeps ((advanceTo_keeps _ h).upd rfl rfl rfl ?_)
    split <;> rfl
  · exact h

theorem portDetect_keeps {q₀ : State} {s : State} (p : Nat) (hK : Keeps q₀ s) :
    Keeps q₀ (portDetect s p) := by
  unfold portDetect
  repeat' first
    | with_reducible assumption
    | (refine Keeps.ofEq (by with_reducible assumption) ?_)
    | with_reducible apply setLport_keeps

theorem doSdioFunctionReady_keeps {q₀ : State} {s : State} (h : Keeps q₀ s) : Keeps q₀ (doSdioFunctionReady s) := by
  have ha := advanceTo_keeps (s.rst.t0 + 400000) h
  unfold doSdioFunctionReady
  split
  · dsimp only
    split
    · refine Keeps.foldl (fun _ _ hk => portDetect_keeps _ hk) (ha.change rfl ha.inv.mem ha.inv.marks ha.inv.events
        ha.inv.history ha.inv.traces ?_ (.refl _))
      have := ha.inv.aon
      simp only [BitVec.getLsbD_or, this, Bool.true_or]
    · exact ha.upd rfl rfl rfl rfl
  · exact h

theorem doSdioCmd11_keeps {q₀ : State} {s : State} (hK : Keeps q₀ s) :
    Keeps q₀ (doSdioCmd11 s) := by
  unfold doSdioCmd11
  repeat' first
    | with_reducible assumption
    | (refine Keeps.ofEq (by with_reducible assumption) ?_)
    | (with_reducible apply Keeps.ite <;> intro _)
    | (refine Keeps.upd ?_ rfl rfl rfl rfl; with_reducible assumption)

end Sys2Proof.Machine
end

