-- ==== Sys2Proof/Laws/KeepsBoot.lean ====
section
/-! SUPPORT. Every operation of Machine/Boot.lean keeps the queue and the invariant. -/

namespace Sys2Proof.Machine

open Sys2Proof

theorem placeImage_keeps {q₀ : State} {s : State} (bs : List Byte) (hK : Keeps q₀ s) :
    Keeps q₀ (placeImage s bs) := by
  unfold placeImage
  repeat' first
    | with_reducible assumption
    | (refine Keeps.ofEq (by with_reducible assumption) ?_)
    | with_reducible apply putBytes_keeps
    | (refine Keeps.upd ?_ rfl rfl rfl rfl; first | with_reducible assumption | (refine Keeps.ofEq (by with_reducible assumption) ?_) | with_reducible apply putBytes_keeps)

theorem headerDone_keeps {q₀ : State} {s : State} (hK : Keeps q₀ s) :
    Keeps q₀ (headerDone s) := by
  unfold headerDone
  repeat' first
    | with_reducible assumption
    | (refine Keeps.ofEq (by with_reducible assumption) ?_)
    | (refine Keeps.upd ?_ rfl rfl rfl rfl; first | with_reducible assumption | (refine Keeps.ofEq (by with_reducible assumption) ?_))
    | split
    | dsimp only

theorem bodyBytes_keeps {q₀ : State} {s : State} (bs : List Byte) (hK : Keeps q₀ s) :
    Keeps q₀ (bodyBytes s bs) := by
  unfold bodyBytes
  repeat' first
    | with_reducible assumption
    | (refine Keeps.ofEq (by with_reducible assumption) ?_)
    | with_reducible apply placeImage_keeps
    | (with_reducible apply Keeps.ite <;> intro _)
    | (refine Keeps.upd ?_ rfl rfl rfl rfl; first | with_reducible assumption | (refine Keeps.ofEq (by with_reducible assumption) ?_) | with_reducible apply placeImage_keeps)
    | split

theorem receiveImage_keeps {q₀ : State} {s : State} (data : List Byte) (hK : Keeps q₀ s) :
    Keeps q₀ (receiveImage s data) := by
  unfold receiveImage
  repeat' first
    | with_reducible assumption
    | (refine Keeps.ofEq (by with_reducible assumption) ?_)
    | with_reducible apply bodyBytes_keeps
    | with_reducible apply placeImage_keeps
    | with_reducible apply headerDone_keeps
    | (with_reducible apply Keeps.ite <;> intro _)
    | (refine Keeps.upd ?_ rfl rfl rfl rfl; with_reducible assumption)

theorem receiveAt_keeps {q₀ : State} {s : State} (addr : Nat) (data : List Byte) (hK : Keeps q₀ s) :
    Keeps q₀ (receiveAt s addr data) := by
  unfold receiveAt
  repeat' first
    | with_reducible assumption
    | with_reducible apply receiveImage_keeps
    | with_reducible apply putBytes_keeps
    | (with_reducible apply Keeps.ite <;> intro _)

theorem doBootImageWrite_keeps {q₀ : State} (data : List Byte) {s : State} (hK : Keeps q₀ s) :
    Keeps q₀ (doBootImageWrite data s) := by
  unfold doBootImageWrite
  repeat' first
    | with_reducible assumption
    | (refine Keeps.ofEq (by with_reducible assumption) ?_)
    | with_reducible apply receiveImage_keeps
    | (with_reducible apply Keeps.ite <;> intro _)

theorem bootDone_keeps {q₀ : State} {s : State} (code : Nat) (hK : Keeps q₀ s) :
    Keeps q₀ (bootDone s code) := by
  unfold bootDone
  repeat' first
    | with_reducible assumption
    | (refine Keeps.ofEq (by with_reducible assumption) ?_)
    | with_reducible apply sendHopLocal_keeps
    | (refine Keeps.upd ?_ rfl rfl rfl rfl; first | with_reducible assumption | (refine Keeps.ofEq (by with_reducible assumption) ?_) | with_reducible apply sendHopLocal_keeps)
    | split

theorem doImageVerifyDone_keeps {q₀ : State} {s : State} (h : Keeps q₀ s) :
    Keeps q₀ (doImageVerifyDone s) := by
  unfold doImageVerifyDone
  split
  · refine bootDone_keeps _ (h.upd rfl rfl rfl ?_)
    split <;> rfl
  · exact h

theorem doFirmwareReady_keeps {q₀ : State} {s : State} (h : Keeps q₀ s) : Keeps q₀ (doFirmwareReady s) := by
  unfold doFirmwareReady
  split
  · refine h.change rfl h.inv.mem h.inv.marks h.inv.events h.inv.history h.inv.traces ?_ (.ofEq rfl)
    show (BitVec.allOnes 55).getLsbD 0 = true
    decide
  · exact h

theorem stall_keeps {q₀ : State} {s : State} (hK : Keeps q₀ s) :
    Keeps q₀ (stall s) := by
  unfold stall
  repeat' first
    | with_reducible assumption
    | (refine Keeps.ofEq (by with_reducible assumption) ?_)
    | with_reducible apply failCond_keeps
    | (refine Keeps.upd ?_ rfl rfl rfl rfl; with_reducible assumption)

theorem doFwHalt_keeps {q₀ : State} {s : State} (hK : Keeps q₀ s) :
    Keeps q₀ (doFwHalt s) := by
  unfold doFwHalt
  repeat' first
    | with_reducible assumption
    | (refine Keeps.ofEq (by with_reducible assumption) ?_)
    | with_reducible apply stall_keeps
    | (with_reducible apply Keeps.ite <;> intro _)
    | (refine Keeps.upd ?_ rfl rfl rfl rfl; with_reducible assumption)

theorem doFirmwareHeartbeat_keeps {q₀ : State} {s : State} (hK : Keeps q₀ s) :
    Keeps q₀ (doFirmwareHeartbeat s) := by
  unfold doFirmwareHeartbeat
  repeat' first
    | with_reducible assumption
    | (refine Keeps.ofEq (by with_reducible assumption) ?_)
    | (with_reducible apply Keeps.ite <;> intro _)
    | (refine Keeps.upd ?_ rfl rfl rfl rfl; with_reducible assumption)

theorem doCpStall_keeps {q₀ : State} {s : State} (hK : Keeps q₀ s) :
    Keeps q₀ (doCpStall s) := by
  unfold doCpStall
  repeat' first
    | with_reducible assumption
    | (refine Keeps.ofEq (by with_reducible assumption) ?_)
    | with_reducible apply stall_keeps
    | with_reducible apply advanceTo_keeps
    | (with_reducible apply Keeps.ite <;> intro _)

theorem doSmFault_keeps {q₀ : State} {s : State} (hK : Keeps q₀ s) :
    Keeps q₀ (doSmFault s) := by
  unfold doSmFault
  repeat' first
    | with_reducible assumption
    | (refine Keeps.ofEq (by with_reducible assumption) ?_)
    | with_reducible apply updateDoubt_keeps
    | with_reducible apply postEvent_keeps
    | (with_reducible apply Keeps.ite <;> intro _)
    | (refine Keeps.upd ?_ rfl rfl rfl rfl; with_reducible assumption)

/-- An update of the boot unit alone. -/
theorem Keeps.boot {q₀ : State} {s : State} (h : Keeps q₀ s) {b : BootUnit} (hb : OtpGrows s.boot b) :
    Keeps q₀ { s with boot := b } :=
  h.change rfl h.inv.mem h.inv.marks h.inv.events h.inv.history h.inv.traces h.inv.aon hb

theorem cmdKeyProvision_keeps {q₀ : State} (slot r : Nat) (hash : List Byte) {s : State} (h : Keeps q₀ s) :
    Keeps q₀ (cmdKeyProvision slot r hash s).1 := by
  unfold cmdKeyProvision
  repeat' (with_reducible apply Keeps.iteFst <;> intro _)
  · exact h
  · exact h
  · exact h
  · exact h
  · rename_i hp
    refine h.boot ⟨fun _ x => x, fun _ x => x, fun k hk => ?_⟩
    have hne : slot ≠ k := fun e => hp (e ▸ hk)
    simp only [keyHashOf, List.getD_eq_getElem?_getD, List.getElem?_set_ne hne]

theorem cmdKeyRevoke_keeps {q₀ : State} (slot r : Nat) {s : State} (h : Keeps q₀ s) :
    Keeps q₀ (cmdKeyRevoke slot r s).1 := by
  unfold cmdKeyRevoke
  repeat' (with_reducible apply Keeps.iteFst <;> intro _)
  · exact h
  · exact h
  · exact h
  · refine h.boot ⟨fun _ x => x, fun k x => ?_, fun _ _ => rfl⟩
    simp only [BitVec.getLsbD_or, x, Bool.true_or]

theorem cmdSvnAdvance_keeps {q₀ : State} {s : State} (h : Keeps q₀ s) : Keeps q₀ (cmdSvnAdvance s).1 := by
  unfold cmdSvnAdvance
  refine h.boot ⟨fun k x => ?_, fun _ x => x, fun _ _ => rfl⟩
  simp only [BitVec.getLsbD_or, x, Bool.true_or]

end Sys2Proof.Machine
end

