-- ==== Sys2Proof/Laws/KeepsHost.lean ====
section
/-! SUPPORT. Every operation of Machine/Host.lean keeps the queue and the invariant. -/

namespace Sys2Proof.Machine

open Sys2Proof

theorem doMbCmdPortWrite_keeps {q₀ : State} (data : List Byte) {s : State} (hK : Keeps q₀ s) :
    Keeps q₀ (doMbCmdPortWrite data s) := by
  unfold doMbCmdPortWrite
  repeat' first
    | with_reducible assumption
    | (refine Keeps.ofEq (by with_reducible assumption) ?_)
    | (with_reducible apply Keeps.ite <;> intro _)
    | (refine Keeps.upd ?_ rfl rfl rfl rfl; first | with_reducible assumption | (refine Keeps.ofEq (by with_reducible assumption) ?_))
    | split

theorem respondNew_keeps {q₀ : State} {s : State} (r : MbRec) (st : Status) (hK : Keeps q₀ s) :
    Keeps q₀ (respondNew s r st) := by
  unfold respondNew
  repeat' first
    | with_reducible assumption
    | (refine Keeps.ofEq (by with_reducible assumption) ?_)
    | with_reducible apply placeResponse_keeps
    | (refine Keeps.upd ?_ rfl rfl rfl rfl; with_reducible assumption)

theorem stage1_keeps {q₀ : State} {s : State} (src : RecSrc) (bytes : List Byte) (hK : Keeps q₀ s) :
    Keeps q₀ (stage1 s src bytes) := by
  unfold stage1
  repeat' first
    | with_reducible assumption
    | (refine Keeps.ofEq (by with_reducible assumption) ?_)
    | with_reducible apply respondNew_keeps
    | (with_reducible apply Keeps.ite <;> intro _)
    | (refine Keeps.upd ?_ rfl rfl rfl rfl; with_reducible assumption)

theorem takeRecord_keeps {q₀ : State} {s : State} (p : List Byte) (hK : Keeps q₀ s) :
    Keeps q₀ (takeRecord s p) := by
  unfold takeRecord
  repeat' first
    | with_reducible assumption
    | (refine Keeps.ofEq (by with_reducible assumption) ?_)
    | with_reducible apply stage1_keeps
    | (with_reducible apply Keeps.ite <;> intro _)
    | (refine Keeps.upd ?_ rfl rfl rfl rfl; with_reducible assumption)

theorem doMbDoorbellWrite_keeps {q₀ : State} (value : Nat) {s : State} (hK : Keeps q₀ s) :
    Keeps q₀ (doMbDoorbellWrite value s) := by
  unfold doMbDoorbellWrite
  repeat' first
    | with_reducible assumption
    | (refine Keeps.ofEq (by with_reducible assumption) ?_)
    | with_reducible apply takeRecord_keeps
    | (with_reducible apply Keeps.ite <;> intro _)
    | (refine Keeps.upd ?_ rfl rfl rfl rfl; first | with_reducible assumption | (refine Keeps.ofEq (by with_reducible assumption) ?_) | with_reducible apply takeRecord_keeps)
    | split
    | dsimp only

theorem doMbRspPortRead_keeps {q₀ : State} (count : Nat) {s : State} (hK : Keeps q₀ s) :
    Keeps q₀ (doMbRspPortRead count s) := by
  unfold doMbRspPortRead
  repeat' first
    | with_reducible assumption
    | (refine Keeps.ofEq (by with_reducible assumption) ?_)
    | (with_reducible apply Keeps.ite <;> intro _)
    | (refine Keeps.upd ?_ rfl rfl rfl rfl; with_reducible assumption)

theorem doMbStatusW1c_keeps {q₀ : State} (value : Nat) {s : State} (hK : Keeps q₀ s) :
    Keeps q₀ (doMbStatusW1c value s) := by
  unfold doMbStatusW1c
  repeat' first
    | with_reducible assumption
    | (refine Keeps.ofEq (by with_reducible assumption) ?_)
    | (with_reducible apply Keeps.ite <;> intro _)
    | (refine Keeps.upd ?_ rfl rfl rfl rfl; with_reducible assumption)

theorem doRegisterWrite_keeps {q₀ : State} (fn : Nat) (addr : Nat) (value : Nat) {s : State} (hK : Keeps q₀ s) :
    Keeps q₀ (doRegisterWrite fn addr value s) := by
  unfold doRegisterWrite
  repeat' first
    | with_reducible assumption
    | (refine Keeps.ofEq (by with_reducible assumption) ?_)
    | with_reducible apply doMbDoorbellWrite_keeps
    | with_reducible apply doMbStatusW1c_keeps
    | (with_reducible apply Keeps.ite <;> intro _)
    | (refine Keeps.upd ?_ rfl rfl rfl rfl; with_reducible assumption)

theorem insertLost_keeps {q₀ : State} {s : State} (h : Keeps q₀ s) : Keeps q₀ (insertLost s) := by
  unfold insertLost
  split
  · exact h
  · rename_i hc
    refine h.change rfl h.inv.mem h.inv.marks ?_ h.inv.history h.inv.traces h.inv.aon (.refl _)
    simp only [List.length_append, List.length_singleton]
    omega

/-- Reading leaves no more records than there were. -/
theorem readEvents_length (l : List EvRec) (pos n : Nat) : (readEvents l pos n).1.length ≤ l.length := by
  induction l generalizing pos n with
  | nil => exact Nat.le_refl _
  | cons e l ih =>
    simp only [readEvents]
    split
    · exact Nat.le_refl _
    · split
      · exact Nat.le_succ_of_le (ih 0 _)
      · exact Nat.le_refl _

theorem doEventRecordRead_keeps {q₀ : State} (count : Nat) {s : State} (h : Keeps q₀ s) :
    Keeps q₀ (doEventRecordRead count s) := by
  unfold doEventRecordRead
  split
  · exact h
  · exact insertLost_keeps (h.change rfl h.inv.mem h.inv.marks
      (Nat.le_trans (readEvents_length _ _ _) h.inv.events) h.inv.history h.inv.traces h.inv.aon (.refl _))

theorem bulkDone_keeps {q₀ : State} {s : State} (dir : Nat) (st : Status) (bytes : Nat) (hK : Keeps q₀ s) :
    Keeps q₀ (bulkDone s dir st bytes) := by
  unfold bulkDone
  repeat' first
    | with_reducible assumption
    | (refine Keeps.ofEq (by with_reducible assumption) ?_)
    | with_reducible apply postEvent_keeps

theorem cmdBulkWrite_keeps {q₀ : State} (h : CmdHdr) (addr : Nat) (len : Nat) {s : State} (hK : Keeps q₀ s) :
    Keeps q₀ (cmdBulkWrite h addr len s).1 := by
  unfold cmdBulkWrite
  repeat' first
    | with_reducible assumption
    | (refine Keeps.ofEq (by with_reducible assumption) ?_)
    | with_reducible apply refuseAt_keeps
    | with_reducible apply refuse_keeps
    | with_reducible apply okDone_keeps
    | (with_reducible apply Keeps.iteFst <;> intro _)
    | (refine Keeps.upd ?_ rfl rfl rfl rfl; first | with_reducible assumption | (refine Keeps.ofEq (by with_reducible assumption) ?_) | with_reducible apply refuseAt_keeps | with_reducible apply refuse_keeps | with_reducible apply okDone_keeps)
    | split

theorem cmdBulkRead_keeps {q₀ : State} (h : CmdHdr) (addr : Nat) (len : Nat) {s : State} (hK : Keeps q₀ s) :
    Keeps q₀ (cmdBulkRead h addr len s).1 := by
  unfold cmdBulkRead
  repeat' first
    | with_reducible assumption
    | (refine Keeps.ofEq (by with_reducible assumption) ?_)
    | with_reducible apply refuseAt_keeps
    | with_reducible apply refuse_keeps
    | with_reducible apply okDone_keeps
    | (with_reducible apply Keeps.iteFst <;> intro _)
    | (refine Keeps.upd ?_ rfl rfl rfl rfl; first | with_reducible assumption | (refine Keeps.ofEq (by with_reducible assumption) ?_) | with_reducible apply refuseAt_keeps | with_reducible apply refuse_keeps | with_reducible apply okDone_keeps)
    | split

theorem bulkStore_keeps {q₀ : State} (n : Nat) {s : State} (x : BulkXfer) (h : Keeps q₀ s) :
    Keeps q₀ (bulkStore n s x) := by
  induction n generalizing s x with
  | zero => exact h.upd rfl rfl rfl rfl
  | succ n ih =>
    unfold bulkStore
    repeat' first
      | with_reducible assumption
      | (refine Keeps.ofEq (by with_reducible assumption) ?_)
      | with_reducible apply ih
      | with_reducible apply bulkDone_keeps
      | with_reducible apply writeLocal_keeps
      | (refine Keeps.upd ?_ rfl rfl rfl rfl; first | with_reducible assumption | (refine Keeps.ofEq (by with_reducible assumption) ?_) | with_reducible apply bulkDone_keeps)
      | split

theorem doBulkDataWrite_keeps {q₀ : State} (data : List Byte) {s : State} (hK : Keeps q₀ s) :
    Keeps q₀ (doBulkDataWrite data s) := by
  unfold doBulkDataWrite
  repeat' first
    | with_reducible assumption
    | (refine Keeps.ofEq (by with_reducible assumption) ?_)
    | with_reducible apply bulkStore_keeps
    | (with_reducible apply Keeps.ite <;> intro _)
    | (refine Keeps.upd ?_ rfl rfl rfl rfl; first | with_reducible assumption | (refine Keeps.ofEq (by with_reducible assumption) ?_) | with_reducible apply bulkStore_keeps)
    | split

theorem bulkReadEnd_keeps {q₀ : State} {s : State} (x : BulkXfer) (st : Status) (hK : Keeps q₀ s) :
    Keeps q₀ (bulkReadEnd s x st) := by
  unfold bulkReadEnd
  repeat' first
    | with_reducible assumption
    | (refine Keeps.ofEq (by with_reducible assumption) ?_)
    | with_reducible apply travelMismatch_keeps
    | with_reducible apply bulkDone_keeps
    | (refine Keeps.upd ?_ rfl rfl rfl rfl; with_reducible assumption)

theorem bulkLoad_keeps {q₀ : State} (n : Nat) {s : State} (x : BulkXfer) (k : Nat) (out : List Byte)
    (h : Keeps q₀ s) : Keeps q₀ (bulkLoad n s x k out).1 := by
  induction n generalizing s x k out with
  | zero => exact h.upd rfl rfl rfl rfl
  | succ n ih =>
    unfold bulkLoad
    repeat' first
      | with_reducible assumption
      | (refine Keeps.ofEq (by with_reducible assumption) ?_)
      | with_reducible apply ih
      | with_reducible apply bulkReadEnd_keeps
      | with_reducible apply readLocal_keeps
      | (refine Keeps.upd ?_ rfl rfl rfl rfl; first | with_reducible assumption | (refine Keeps.ofEq (by with_reducible assumption) ?_) | with_reducible apply bulkReadEnd_keeps)
      | split
      | dsimp only

theorem doBulkDataRead_keeps {q₀ : State} (count : Nat) {s : State} (hK : Keeps q₀ s) :
    Keeps q₀ (doBulkDataRead count s) := by
  unfold doBulkDataRead
  repeat' first
    | with_reducible assumption
    | (refine Keeps.ofEq (by with_reducible assumption) ?_)
    | with_reducible apply bulkLoad_keeps
    | (with_reducible apply Keeps.ite <;> intro _)
    | (refine Keeps.upd ?_ rfl rfl rfl rfl; first | with_reducible assumption | (refine Keeps.ofEq (by with_reducible assumption) ?_) | with_reducible apply bulkLoad_keeps)
    | split

theorem cmdChannelTableSet_keeps {q₀ : State} (base : Nat) (count : Nat) {s : State} (hK : Keeps q₀ s) :
    Keeps q₀ (cmdChannelTableSet base count s).1 := by
  unfold cmdChannelTableSet
  repeat' first
    | with_reducible assumption
    | (refine Keeps.ofEq (by with_reducible assumption) ?_)
    | with_reducible apply refuseAt_keeps
    | with_reducible apply refuse_keeps
    | with_reducible apply okDone_keeps
    | (with_reducible apply Keeps.iteFst <;> intro _)
    | (refine Keeps.upd ?_ rfl rfl rfl rfl; with_reducible assumption)

theorem cmdChannelInvalidate_keeps {q₀ : State} (first : Nat) (count : Nat) {s : State} (hK : Keeps q₀ s) :
    Keeps q₀ (cmdChannelInvalidate first count s).1 := by
  unfold cmdChannelInvalidate
  repeat' first
    | with_reducible assumption
    | (refine Keeps.ofEq (by with_reducible assumption) ?_)
    | with_reducible apply refuseAt_keeps
    | with_reducible apply refuse_keeps
    | with_reducible apply okDone_keeps
    | (with_reducible apply Keeps.iteFst <;> intro _)
    | (refine Keeps.upd ?_ rfl rfl rfl rfl; with_reducible assumption)

theorem fetchEntry_keeps {q₀ : State} {s : State} (dom : Nat) (chan : Nat) (type : Nat) (off : Nat) (hK : Keeps q₀ s) :
    Keeps q₀ (fetchEntry s dom chan type off).1 := by
  unfold fetchEntry
  repeat' first
    | with_reducible assumption
    | (refine Keeps.ofEq (by with_reducible assumption) ?_)
    | with_reducible apply readStruct_keeps
    | (with_reducible apply Keeps.iteFst <;> intro _)
    | (refine Keeps.upd ?_ rfl rfl rfl rfl; first | with_reducible assumption | (refine Keeps.ofEq (by with_reducible assumption) ?_) | with_reducible apply readStruct_keeps)
    | split

theorem cmdDeviceInfo_keeps {q₀ : State} {s : State} (hK : Keeps q₀ s) :
    Keeps q₀ (cmdDeviceInfo s).1 := by
  unfold cmdDeviceInfo
  repeat' first
    | with_reducible assumption
    | (refine Keeps.ofEq (by with_reducible assumption) ?_)
    | with_reducible apply okWith_keeps

theorem cmdFirewallSet_keeps {q₀ : State} (target : Nat) (region : Nat) (rflags : Nat) (base : Nat) (limit : Nat) (rdMask : Nat) (wrMask : Nat) {s : State} (hK : Keeps q₀ s) :
    Keeps q₀ (cmdFirewallSet target region rflags base limit rdMask wrMask s).1 := by
  unfold cmdFirewallSet
  repeat' first
    | with_reducible assumption
    | (refine Keeps.ofEq (by with_reducible assumption) ?_)
    | with_reducible apply refuseAt_keeps
    | with_reducible apply refuse_keeps
    | with_reducible apply okDone_keeps
    | with_reducible apply setFw_keeps
    | (with_reducible apply Keeps.iteFst <;> intro _)

theorem cmdFirewallGet_keeps {q₀ : State} (target : Nat) (region : Nat) (r : Nat) {s : State} (hK : Keeps q₀ s) :
    Keeps q₀ (cmdFirewallGet target region r s).1 := by
  unfold cmdFirewallGet
  repeat' first
    | with_reducible assumption
    | (refine Keeps.ofEq (by with_reducible assumption) ?_)
    | with_reducible apply refuseAt_keeps
    | with_reducible apply okWith_keeps
    | (with_reducible apply Keeps.iteFst <;> intro _)

end Sys2Proof.Machine
end

