-- ==== Sys2Proof/Laws/KeepsSdio.lean ====
section
/-! SUPPORT. Every operation of Machine/Sdio.lean keeps the queue and the invariant. -/

namespace Sys2Proof.Machine

open Sys2Proof

theorem portByte_keeps {q₀ : State} {s : State} (hK : Keeps q₀ s) :
    Keeps q₀ (portByte s).1 := by
  unfold portByte
  repeat' first
    | with_reducible assumption

theorem fnReadByte_keeps {q₀ : State} {s : State} (fn : Nat) (a : Nat) (hK : Keeps q₀ s) :
    Keeps q₀ (fnReadByte s fn a).1 := by
  unfold fnReadByte
  repeat' first
    | with_reducible assumption
    | (refine Keeps.ofEq (by with_reducible assumption) ?_)
    | with_reducible apply portByte_keeps
    | with_reducible apply doMbRspPortRead_keeps
    | with_reducible apply doBulkDataRead_keeps
    | with_reducible apply doEventRecordRead_keeps
    | (with_reducible apply Keeps.iteFst <;> intro _)
    | split

theorem fnWriteByte_keeps {q₀ : State} {s : State} (fn : Nat) (a : Nat) (v : Byte) (hK : Keeps q₀ s) :
    Keeps q₀ (fnWriteByte s fn a v) := by
  unfold fnWriteByte
  repeat' first
    | with_reducible assumption
    | (refine Keeps.ofEq (by with_reducible assumption) ?_)
    | with_reducible apply doMbCmdPortWrite_keeps
    | with_reducible apply doBulkDataWrite_keeps
    | with_reducible apply doBootImageWrite_keeps
    | with_reducible apply doRegisterWrite_keeps
    | (with_reducible apply Keeps.ite <;> intro _)
    | (refine Keeps.upd ?_ rfl rfl rfl rfl; with_reducible assumption)

theorem sdioReadByte_keeps {q₀ : State} {s : State} (fn : Nat) (a : Nat) (hK : Keeps q₀ s) :
    Keeps q₀ (sdioReadByte s fn a).1 := by
  unfold sdioReadByte
  repeat' first
    | with_reducible assumption
    | (refine Keeps.ofEq (by with_reducible assumption) ?_)
    | with_reducible apply fnReadByte_keeps
    | (with_reducible apply Keeps.iteFst <;> intro _)

theorem sdioWriteByte_keeps {q₀ : State} {s : State} (fn : Nat) (a : Nat) (v : Byte) (hK : Keeps q₀ s) :
    Keeps q₀ (sdioWriteByte s fn a v) := by
  unfold sdioWriteByte
  repeat' first
    | with_reducible assumption
    | (refine Keeps.ofEq (by with_reducible assumption) ?_)
    | with_reducible apply fnWriteByte_keeps
    | (with_reducible apply Keeps.ite <;> intro _)
    | (refine Keeps.upd ?_ rfl rfl rfl rfl; with_reducible assumption)

theorem sdioReadRun_keeps {q₀ : State} (fn : Nat) (inc : Bool) (n a : Nat) {s : State} (h : Keeps q₀ s) :
    Keeps q₀ (sdioReadRun fn inc n a s).1 := by
  induction n generalizing s a with
  | zero => exact h
  | succ n ih => exact ih _ (sdioReadByte_keeps _ _ h)

theorem sdioWriteRun_keeps {q₀ : State} (fn : Nat) (inc : Bool) (bs : List Byte) (a : Nat) {s : State} (h : Keeps q₀ s) :
    Keeps q₀ (sdioWriteRun fn inc bs a s) := by
  induction bs generalizing s a with
  | nil => exact h
  | cons b bs ih => exact ih _ (sdioWriteByte_keeps _ _ _ h)

theorem sdioEffect_keeps {q₀ : State} {s : State} (c : SdioCmd) (hK : Keeps q₀ s) :
    Keeps q₀ (sdioEffect s c) := by
  unfold sdioEffect
  repeat' first
    | with_reducible assumption
    | (refine Keeps.ofEq (by with_reducible assumption) ?_)
    | with_reducible apply sdioReadByte_keeps
    | with_reducible apply sdioWriteByte_keeps
    | with_reducible apply sdioReadRun_keeps
    | with_reducible apply sdioWriteRun_keeps
    | (with_reducible apply Keeps.ite <;> intro _)
    | (refine Keeps.upd ?_ rfl rfl rfl rfl; first | with_reducible assumption | (refine Keeps.ofEq (by with_reducible assumption) ?_) | with_reducible apply sdioReadByte_keeps | with_reducible apply sdioWriteByte_keeps | with_reducible apply sdioReadRun_keeps | with_reducible apply sdioWriteRun_keeps)
    | split

theorem doSdioCommand_keeps {q₀ : State} (c : SdioCmd) {s : State} (hK : Keeps q₀ s) :
    Keeps q₀ (doSdioCommand c s) := by
  unfold doSdioCommand
  repeat' first
    | with_reducible assumption
    | (refine Keeps.ofEq (by with_reducible assumption) ?_)
    | with_reducible apply sdioEffect_keeps
    | (with_reducible apply Keeps.ite <;> intro _)

end Sys2Proof.Machine
end

