-- ==== Sys2Proof/Laws/KeepsFlags.lean ====
section
/-! SUPPORT. Every operation of Machine/Flags.lean keeps the queue and the invariant. -/

namespace Sys2Proof.Machine

open Sys2Proof

theorem raiseGraph_keeps {q₀ : State} {s : State} (code : Nat) (cls : Nat) (unit : Nat) (arg : List Byte) (row : Nat) (g : Option Nat) (hK : Keeps q₀ s) :
    Keeps q₀ (raiseGraph s code cls unit arg row g) := by
  unfold raiseGraph
  repeat' first
    | with_reducible assumption
    | (refine Keeps.ofEq (by with_reducible assumption) ?_)
    | with_reducible apply raiseDoubt_keeps
    | with_reducible apply postEvent_keeps
    | split

theorem flagConflict_keeps {q₀ : State} {s : State} (n : Nat) (op : Nat) (j : Nat) (hK : Keeps q₀ s) :
    Keeps q₀ (flagConflict s n op j) := by
  unfold flagConflict
  repeat' first
    | with_reducible assumption
    | (refine Keeps.ofEq (by with_reducible assumption) ?_)
    | with_reducible apply raiseGraph_keeps

theorem countFlagOp_keeps {q₀ : State} {s : State} (hK : Keeps q₀ s) :
    Keeps q₀ (countFlagOp s) := by
  unfold countFlagOp
  repeat' first
    | with_reducible assumption
    | (refine Keeps.ofEq (by with_reducible assumption) ?_)
    | with_reducible apply bump_keeps

theorem flagSet_keeps {q₀ : State} {s : State} (n : Nat) (f : Nat) (hK : Keeps q₀ s) :
    Keeps q₀ (flagSet s n f) := by
  unfold flagSet
  repeat' first
    | with_reducible assumption
    | (refine Keeps.ofEq (by with_reducible assumption) ?_)
    | with_reducible apply countFlagOp_keeps
    | with_reducible apply flagConflict_keeps
    | with_reducible apply setFlag_keeps
    | with_reducible apply Keeps.foldl
    | with_reducible apply Keeps.foldlFst
    | (with_reducible apply Keeps.ite <;> intro _)

theorem flagRelease_keeps {q₀ : State} {s : State} (n : Nat) (j : Nat) (hK : Keeps q₀ s) :
    Keeps q₀ (flagRelease s n j) := by
  unfold flagRelease
  repeat' first
    | with_reducible assumption
    | (refine Keeps.ofEq (by with_reducible assumption) ?_)
    | with_reducible apply countFlagOp_keeps
    | with_reducible apply flagConflict_keeps
    | with_reducible apply setFlag_keeps
    | (with_reducible apply Keeps.ite <;> intro _)

theorem flagRearm_keeps {q₀ : State} {s : State} (n : Nat) (hK : Keeps q₀ s) :
    Keeps q₀ (flagRearm s n) := by
  unfold flagRearm
  repeat' first
    | with_reducible assumption
    | (refine Keeps.ofEq (by with_reducible assumption) ?_)
    | with_reducible apply countFlagOp_keeps
    | with_reducible apply setFlag_keeps
    | with_reducible apply postEvent_keeps
    | with_reducible apply Keeps.foldl
    | with_reducible apply Keeps.foldlFst
    | (with_reducible apply Keeps.ite <;> intro _)

theorem semUnbound_keeps {q₀ : State} {s : State} (n : Nat) (dev : Nat) (g : Option Nat) (hK : Keeps q₀ s) :
    Keeps q₀ (semUnbound s n dev g) := by
  unfold semUnbound
  repeat' first
    | with_reducible assumption
    | (refine Keeps.ofEq (by with_reducible assumption) ?_)
    | with_reducible apply raiseGraph_keeps

theorem semSignalAt_keeps {q₀ : State} {s : State} (n : Nat) (dev : Nat) (g : Option Nat) (hK : Keeps q₀ s) :
    Keeps q₀ (semSignalAt s n dev g) := by
  unfold semSignalAt
  repeat' first
    | with_reducible assumption
    | (refine Keeps.ofEq (by with_reducible assumption) ?_)
    | with_reducible apply bump_keeps
    | with_reducible apply semUnbound_keeps
    | with_reducible apply setSem_keeps
    | with_reducible apply postEvent_keeps
    | (with_reducible apply Keeps.ite <;> intro _)

theorem semSignalRemote_keeps {q₀ : State} {s : State} (n : Nat) (dev : Nat) (hK : Keeps q₀ s) :
    Keeps q₀ (semSignalRemote s n dev) := by
  unfold semSignalRemote
  repeat' first
    | with_reducible assumption
    | (refine Keeps.ofEq (by with_reducible assumption) ?_)
    | with_reducible apply semSignalAt_keeps
    | with_reducible apply semUnbound_keeps
    | with_reducible apply bump_keeps
    | (with_reducible apply Keeps.ite <;> intro _)

end Sys2Proof.Machine
end

