-- ==== Sys2Proof/Laws/KeepsOperands.lean ====
section
/-! SUPPORT. Every operation of Machine/Operands.lean keeps the queue and the invariant. -/

namespace Sys2Proof.Machine

open Sys2Proof

/-- Cells stored keep memory's canonical form. -/
theorem cellsInto_wf {m : List Host.Cell} (cs : List (Nat × Byte)) (h : Memory.wf m = true) :
    Memory.wf (cellsInto m cs) = true := by
  unfold cellsInto
  induction cs generalizing m with
  | nil => exact h
  | cons c cs ih => exact ih (memSet_wf c.1 c.2 h)

theorem storeCells_keeps {q₀ : State} {s : State} (cs : List (Nat × Byte)) (bad : List Nat) (h : Keeps q₀ s) :
    Keeps q₀ (storeCells s cs bad) := by
  unfold storeCells
  dsimp only
  have k := countMerges_keeps ((cellGrans cs).filter (fun g => ! coversGran cs g)) (meet_keeps
    (fun g => ((cellGrans cs).filter (fun g => ! coversGran cs g)).contains g) h)
  exact k.change rfl (cellsInto_wf cs k.inv.mem) (marksFold_wf (fun _ _ ht => marksPut_wf _ _ ht) k.inv.marks)
    k.inv.events k.inv.history k.inv.traces k.inv.aon (.refl _)

theorem cmdTensorCheck_keeps {q₀ : State} (h : CmdHdr) (use : Nat) (r : Nat) (device : Nat) (td : List Byte) {s : State} (hK : Keeps q₀ s) :
    Keeps q₀ (cmdTensorCheck h use r device td s).1 := by
  unfold cmdTensorCheck
  repeat' first
    | with_reducible assumption
    | (refine Keeps.ofEq (by with_reducible assumption) ?_)
    | with_reducible apply refuseAt_keeps
    | with_reducible apply okWith_keeps
    | (with_reducible apply Keeps.iteFst <;> intro _)
    | split
    | dsimp only

theorem cmdTensorLocate_keeps {q₀ : State} (h : CmdHdr) (g : List Nat) (td : List Byte) {s : State} (hK : Keeps q₀ s) :
    Keeps q₀ (cmdTensorLocate h g td s).1 := by
  unfold cmdTensorLocate
  repeat' first
    | with_reducible assumption
    | (refine Keeps.ofEq (by with_reducible assumption) ?_)
    | with_reducible apply refuseAt_keeps
    | with_reducible apply okWith_keeps
    | with_reducible apply Keeps.foldl
    | with_reducible apply Keeps.foldlFst
    | (with_reducible apply Keeps.iteFst <;> intro _)
    | split
    | dsimp only

end Sys2Proof.Machine
end

