-- ==== Sys2Proof/Laws/KeepsDma.lean ====
section
/-! SUPPORT. Every operation of Machine/Dma.lean keeps the queue and the invariant. -/

namespace Sys2Proof.Machine

open Sys2Proof

theorem setRunAt_keeps {q₀ : State} {s : State} (c : Nat) (r : Option DmaRun) (hK : Keeps q₀ s) :
    Keeps q₀ (setRunAt s c r) := by
  unfold setRunAt
  repeat' first
    | with_reducible assumption
    | (refine Keeps.ofEq (by with_reducible assumption) ?_)
    | with_reducible apply setDma_keeps
    | with_reducible apply setStream_keeps
    | split

theorem wRead_keeps {q₀ : State} {s : State} (g : Option Nat) (gran : Nat) (hK : Keeps q₀ s) :
    Keeps q₀ (wRead s g gran).1 := by
  unfold wRead
  repeat' first
    | with_reducible assumption
    | (refine Keeps.ofEq (by with_reducible assumption) ?_)
    | (with_reducible apply Keeps.iteFst <;> intro _)
    | (refine Keeps.upd ?_ rfl rfl rfl rfl; first | with_reducible assumption | (refine Keeps.ofEq (by with_reducible assumption) ?_))
    | split
    | dsimp only

theorem cmdWcacheInvalidate_keeps {q₀ : State} (addr : Nat) (len : Nat) {s : State} (hK : Keeps q₀ s) :
    Keeps q₀ (cmdWcacheInvalidate addr len s).1 := by
  unfold cmdWcacheInvalidate
  repeat' first
    | with_reducible assumption
    | (refine Keeps.ofEq (by with_reducible assumption) ?_)
    | with_reducible apply okDone_keeps
    | (refine Keeps.upd ?_ rfl rfl rfl rfl; with_reducible assumption)

theorem issueReads_keeps {q₀ : State} (c dev dom n : Nat) {s : State} (h : Keeps q₀ s) :
    Keeps q₀ (issueReads c dev dom n s) := by
  induction n generalizing s with
  | zero => exact h
  | succ n ih =>
    unfold issueReads
    split
    · split
      · exact h
      · dsimp only
        split
        · exact h
        · exact ih (request_keeps _ (setRunAt_keeps _ _ h))
    · exact h

theorem remoteWrite_keeps {q₀ : State} {s : State} (c : Nat) (dev : Nat) (dom : Nat) (cs : List (Nat × Byte)) (bad : List Nat) (gs : List Nat) (hK : Keeps q₀ s) :
    Keeps q₀ (remoteWrite s c dev dom cs bad gs).1 := by
  unfold remoteWrite
  repeat' first
    | with_reducible assumption
    | (refine Keeps.ofEq (by with_reducible assumption) ?_)
    | with_reducible apply request_keeps
    | (with_reducible apply Keeps.iteFst <;> intro _)
    | split

theorem dropWaiting_keeps {q₀ : State} {s : State} (c : Nat) (hK : Keeps q₀ s) :
    Keeps q₀ (dropWaiting s c).1 := by
  unfold dropWaiting
  repeat' first
    | with_reducible assumption
    | (refine Keeps.ofEq (by with_reducible assumption) ?_)
    | with_reducible apply Keeps.foldl
    | with_reducible apply Keeps.foldlFst
    | (refine Keeps.upd ?_ rfl rfl rfl rfl; with_reducible assumption)

theorem readGran_keeps {q₀ : State} {s : State} (m : Mover) (w : Bool) (g : Nat) (hK : Keeps q₀ s) :
    Keeps q₀ (readGran s m w g).1 := by
  unfold readGran
  repeat' first
    | with_reducible assumption
    | (refine Keeps.ofEq (by with_reducible assumption) ?_)
    | with_reducible apply wRead_keeps
    | (with_reducible apply Keeps.iteFst <;> intro _)

theorem scrambleCells_keeps {q₀ : State} {s : State} (dom : Nat) (cs : List (Nat × Byte)) (hK : Keeps q₀ s) :
    Keeps q₀ (scrambleCells s dom cs) := by
  unfold scrambleCells
  repeat' first
    | with_reducible assumption
    | (refine Keeps.ofEq (by with_reducible assumption) ?_)
    | with_reducible apply storeCells_keeps
    | (refine Keeps.upd ?_ rfl rfl rfl rfl; first | with_reducible assumption | (refine Keeps.ofEq (by with_reducible assumption) ?_) | with_reducible apply storeCells_keeps)

theorem remoteWrites_keeps {q₀ : State} (c dev dom : Nat) (cs : List (Nat × Byte)) (bad : List Nat)
    (gs : List (List Nat)) {s : State} (h : Keeps q₀ s) : Keeps q₀ (remoteWrites c dev dom cs bad gs s).1 := by
  induction gs generalizing s with
  | nil => exact h
  | cons g gs ih =>
    have k := remoteWrite_keeps c dev dom cs bad g h
    unfold remoteWrites
    dsimp only
    split
    · exact k
    · exact ih k

theorem spoilDest_keeps {q₀ : State} {s : State} (m : Mover) (r : DmaRun) (hK : Keeps q₀ s) :
    Keeps q₀ (spoilDest s m r) := by
  unfold spoilDest
  repeat' first
    | with_reducible assumption
    | (refine Keeps.ofEq (by with_reducible assumption) ?_)
    | with_reducible apply scrambleCells_keeps
    | (with_reducible apply Keeps.ite <;> intro _)
    | split

theorem failReads_keeps {q₀ : State} {s : State} (c : Nat) (m : Mover) (r : DmaRun) (st : Status) (n : Nat) (hK : Keeps q₀ s) :
    Keeps q₀ (failReads s c m r st n) := by
  unfold failReads
  repeat' first
    | with_reducible assumption
    | (refine Keeps.ofEq (by with_reducible assumption) ?_)
    | with_reducible apply dropWaiting_keeps
    | with_reducible apply spoilDest_keeps
    | with_reducible apply setRunAt_keeps
    | (with_reducible apply Keeps.ite <;> intro _)

theorem performMove_keeps {q₀ : State} {s : State} (c : Nat) (m : Mover) (r : DmaRun) (hK : Keeps q₀ s) :
    Keeps q₀ (performMove s c m r) := by
  unfold performMove
  split
  · exact hK
  · dsimp only
    have hb := fun n => bump_keeps (q₀ := q₀) 2 m.engine 5 n hK
    split
    · refine setRunAt_keeps _ _ (scrambleCells_keeps _ _ ?_)
      split
      · exact denyEvent_keeps _ _ _ (hb _)
      · exact hb _
    · split
      · split
        · exact remoteWrites_keeps _ _ _ _ _ _ (setRunAt_keeps _ _ (bump_keeps _ _ _ _ (bump_keeps _ _ _ _ (hb _))))
        · exact setRunAt_keeps _ _
            (remoteWrites_keeps _ _ _ _ _ _ (setRunAt_keeps _ _ (bump_keeps _ _ _ _ (bump_keeps _ _ _ _ (hb _)))))
      · exact setRunAt_keeps _ _ (storeCells_keeps _ _ (bump_keeps _ _ _ _ (bump_keeps _ _ _ _ (hb _))))

theorem discardRead_keeps {q₀ : State} {s : State} (c : Nat) (m : Mover) (hK : Keeps q₀ s) :
    Keeps q₀ (discardRead s c m) := by
  unfold discardRead
  repeat' first
    | with_reducible assumption
    | (refine Keeps.ofEq (by with_reducible assumption) ?_)
    | with_reducible apply setStream_keeps
    | with_reducible apply bump_keeps
    | split

theorem readBack_keeps {q₀ : State} {s : State} (c : Nat) (m : Mover) (r : DmaRun) (hK : Keeps q₀ s) :
    Keeps q₀ (readBack s c m r) := by
  unfold readBack
  repeat' first
    | with_reducible assumption
    | (refine Keeps.ofEq (by with_reducible assumption) ?_)
    | with_reducible apply discardRead_keeps
    | with_reducible apply setRunAt_keeps
    | with_reducible apply performMove_keeps
    | (with_reducible apply Keeps.ite <;> intro _)

theorem takeGran_keeps {q₀ : State} {s : State} (c : Nat) (m : Mover) (r : DmaRun) (g : Nat) (hK : Keeps q₀ s) :
    Keeps q₀ (takeGran s c m r g) := by
  unfold takeGran
  repeat' first
    | with_reducible assumption
    | (refine Keeps.ofEq (by with_reducible assumption) ?_)
    | with_reducible apply access_keeps
    | with_reducible apply readGran_keeps
    | with_reducible apply setRunAt_keeps
    | with_reducible apply failReads_keeps
    | (with_reducible apply Keeps.ite <;> intro _)

theorem localReturn_keeps {q₀ : State} {s : State} (c : Nat) (m : Mover) (r : DmaRun) (hK : Keeps q₀ s) :
    Keeps q₀ (localReturn s c m r) := by
  unfold localReturn
  repeat' first
    | with_reducible assumption
    | (refine Keeps.ofEq (by with_reducible assumption) ?_)
    | with_reducible apply bump_keeps
    | with_reducible apply takeGran_keeps
    | with_reducible apply readBack_keeps
    | split
    | dsimp only

theorem settleReads_keeps {q₀ : State} {s : State} (island : Nat) (c : Nat) (hK : Keeps q₀ s) :
    Keeps q₀ (settleReads s island c) := by
  unfold settleReads
  repeat' first
    | with_reducible assumption
    | (refine Keeps.ofEq (by with_reducible assumption) ?_)
    | with_reducible apply takeGran_keeps
    | with_reducible apply Keeps.foldl
    | with_reducible apply Keeps.foldlFst
    | (with_reducible apply Keeps.ite <;> intro _)
    | split
    | dsimp only
    | (intro _)

theorem beginMove_keeps {q₀ : State} {s : State} (c : Nat) (m : Mover) (r : DmaRun) (hK : Keeps q₀ s) :
    Keeps q₀ (beginMove s c m r) := by
  unfold beginMove
  repeat' first
    | with_reducible assumption
    | (refine Keeps.ofEq (by with_reducible assumption) ?_)
    | with_reducible apply bump_keeps
    | with_reducible apply setRunAt_keeps
    | with_reducible apply issueReads_keeps
    | (with_reducible apply Keeps.ite <;> intro _)
    | split

theorem failMove_keeps {q₀ : State} {s : State} (c : Nat) (r : DmaRun) (st : Status) (hK : Keeps q₀ s) :
    Keeps q₀ (failMove s c r st) := by
  unfold failMove
  repeat' first
    | with_reducible assumption
    | (refine Keeps.ofEq (by with_reducible assumption) ?_)
    | with_reducible apply setRunAt_keeps

theorem stopMove_keeps {q₀ : State} {s : State} (c : Nat) (m : Mover) (r : DmaRun) (keep : Bool) (hK : Keeps q₀ s) :
    Keeps q₀ (stopMove s c m r keep) := by
  unfold stopMove
  repeat' first
    | with_reducible assumption
    | (refine Keeps.ofEq (by with_reducible assumption) ?_)
    | with_reducible apply dropWaiting_keeps
    | with_reducible apply scrambleCells_keeps
    | with_reducible apply setRunAt_keeps
    | (with_reducible apply Keeps.ite <;> intro _)
    | (refine Keeps.upd ?_ rfl rfl rfl rfl; first | with_reducible assumption | (refine Keeps.ofEq (by with_reducible assumption) ?_) | with_reducible apply dropWaiting_keeps | with_reducible apply scrambleCells_keeps | with_reducible apply setRunAt_keeps)
    | split

theorem cmdDmaStart_keeps {q₀ : State} (h : CmdHdr) (channel : Nat) (flags : Nat) {s : State} (hK : Keeps q₀ s) :
    Keeps q₀ (cmdDmaStart h channel flags s).1 := by
  unfold cmdDmaStart
  repeat' first
    | with_reducible assumption
    | (refine Keeps.ofEq (by with_reducible assumption) ?_)
    | with_reducible apply refuseAt_keeps
    | with_reducible apply fetchEntry_keeps
    | with_reducible apply refuse_keeps
    | with_reducible apply okDone_keeps
    | with_reducible apply setDma_keeps
    | (with_reducible apply Keeps.iteFst <;> intro _)
    | split

theorem cmdDmaStop_keeps {q₀ : State} (channel : Nat) (r : Nat) {s : State} (hK : Keeps q₀ s) :
    Keeps q₀ (cmdDmaStop channel r s).1 := by
  unfold cmdDmaStop
  repeat' first
    | with_reducible assumption
    | (refine Keeps.ofEq (by with_reducible assumption) ?_)
    | with_reducible apply refuseAt_keeps
    | with_reducible apply refuse_keeps
    | with_reducible apply stopMove_keeps
    | with_reducible apply setDma_keeps
    | with_reducible apply okWith_keeps
    | (with_reducible apply Keeps.iteFst <;> intro _)
    | split
    | dsimp only

theorem cmdDmaKick_keeps {q₀ : State} (channel : Nat) (r : Nat) {s : State} (hK : Keeps q₀ s) :
    Keeps q₀ (cmdDmaKick channel r s).1 := by
  unfold cmdDmaKick
  repeat' first
    | with_reducible assumption
    | (refine Keeps.ofEq (by with_reducible assumption) ?_)
    | with_reducible apply refuse_keeps
    | with_reducible apply refuseAt_keeps
    | with_reducible apply okDone_keeps
    | with_reducible apply setDma_keeps
    | (with_reducible apply Keeps.iteFst <;> intro _)
    | split

theorem ringHalt_keeps {q₀ : State} {s : State} (channel : Nat) (x : DmaChan) (st : Status) (hK : Keeps q₀ s) :
    Keeps q₀ (ringHalt s channel x st) := by
  unfold ringHalt
  repeat' first
    | with_reducible assumption
    | (refine Keeps.ofEq (by with_reducible assumption) ?_)
    | with_reducible apply postEvent_keeps
    | with_reducible apply setDma_keeps

theorem readTd_keeps {q₀ : State} {s : State} (x : DmaChan) (a : Nat) (off : Nat) (hK : Keeps q₀ s) :
    Keeps q₀ (readTd s x a off).1 := by
  unfold readTd
  repeat' first
    | with_reducible assumption
    | (refine Keeps.ofEq (by with_reducible assumption) ?_)
    | with_reducible apply readStruct_keeps

theorem ringStart_keeps {q₀ : State} {s : State} (channel : Nat) (x : DmaChan) (hK : Keeps q₀ s) :
    Keeps q₀ (ringStart s channel x) := by
  unfold ringStart
  repeat' first
    | with_reducible assumption
    | (refine Keeps.ofEq (by with_reducible assumption) ?_)
    | with_reducible apply readStruct_keeps
    | with_reducible apply ringHalt_keeps
    | with_reducible apply setDma_keeps
    | with_reducible apply emitTrace_keeps
    | with_reducible apply failMove_keeps
    | with_reducible apply readTd_keeps
    | with_reducible apply beginMove_keeps
    | (with_reducible apply Keeps.ite <;> intro _)
    | split
    | dsimp only

theorem ringEnd_keeps {q₀ : State} {s : State} (channel : Nat) (x : DmaChan) (r : DmaRun) (hK : Keeps q₀ s) :
    Keeps q₀ (ringEnd s channel x r) := by
  unfold ringEnd
  repeat' first
    | with_reducible assumption
    | (refine Keeps.ofEq (by with_reducible assumption) ?_)
    | with_reducible apply travelMismatch_keeps
    | with_reducible apply writeLocal_keeps
    | with_reducible apply emitTrace_keeps
    | with_reducible apply setDma_keeps
    | with_reducible apply postEvent_keeps
    | with_reducible apply ringHalt_keeps
    | with_reducible apply answer_keeps
    | (with_reducible apply Keeps.ite <;> intro _)

theorem nodeUnitDone_keeps {q₀ : State} {s : State} (n : Nat) (hK : Keeps q₀ s) :
    Keeps q₀ (nodeUnitDone s n) := by
  unfold nodeUnitDone
  repeat' first
    | with_reducible assumption
    | (refine Keeps.ofEq (by with_reducible assumption) ?_)
    | (refine Keeps.upd ?_ rfl rfl rfl rfl; first | with_reducible assumption | (refine Keeps.ofEq (by with_reducible assumption) ?_))
    | split
    | dsimp only

theorem nodeDescStart_keeps {q₀ : State} {s : State} (channel : Nat) (x : DmaChan) (r : DmaRun) (n : Nat) (hK : Keeps q₀ s) :
    Keeps q₀ (nodeDescStart s channel x r n) := by
  unfold nodeDescStart
  repeat' first
    | with_reducible assumption
    | (refine Keeps.ofEq (by with_reducible assumption) ?_)
    | with_reducible apply failMove_keeps
    | with_reducible apply beginMove_keeps
    | split

theorem nodeTraceEnd_keeps {q₀ : State} {s : State} (x : DmaChan) (r : DmaRun) (n : Nat) (st : Status) (hK : Keeps q₀ s) :
    Keeps q₀ (nodeTraceEnd s x r n st) := by
  unfold nodeTraceEnd
  repeat' first
    | with_reducible assumption
    | (refine Keeps.ofEq (by with_reducible assumption) ?_)
    | with_reducible apply emitTrace_keeps

theorem nodeDescEnd_keeps {q₀ : State} {s : State} (channel : Nat) (x : DmaChan) (r : DmaRun) (n : Nat) (hK : Keeps q₀ s) :
    Keeps q₀ (nodeDescEnd s channel x r n) := by
  unfold nodeDescEnd
  repeat' first
    | with_reducible assumption
    | (refine Keeps.ofEq (by with_reducible assumption) ?_)
    | with_reducible apply travelMismatch_keeps
    | with_reducible apply nodeTraceEnd_keeps
    | with_reducible apply setDma_keeps
    | with_reducible apply raiseDoubt_keeps
    | with_reducible apply nodeUnitDone_keeps
    | (with_reducible apply Keeps.ite <;> intro _)

theorem stopNodeRun_keeps {q₀ : State} {s : State} (channel : Nat) (hK : Keeps q₀ s) :
    Keeps q₀ (stopNodeRun s channel) := by
  unfold stopNodeRun
  repeat' first
    | with_reducible assumption
    | (refine Keeps.ofEq (by with_reducible assumption) ?_)
    | with_reducible apply stopMove_keeps
    | with_reducible apply setDma_keeps
    | with_reducible apply nodeTraceEnd_keeps
    | (with_reducible apply Keeps.ite <;> intro _)
    | split
    | dsimp only

theorem doDmaDescriptorStart_keeps {q₀ : State} (channel : Nat) {s : State} (hK : Keeps q₀ s) :
    Keeps q₀ (doDmaDescriptorStart channel s) := by
  unfold doDmaDescriptorStart
  repeat' first
    | with_reducible assumption
    | (refine Keeps.ofEq (by with_reducible assumption) ?_)
    | with_reducible apply ringStart_keeps
    | with_reducible apply nodeDescStart_keeps
    | (with_reducible apply Keeps.ite <;> intro _)
    | split

theorem doDmaReadReturn_keeps {q₀ : State} (channel : Nat) {s : State} (hK : Keeps q₀ s) :
    Keeps q₀ (doDmaReadReturn channel s) := by
  unfold doDmaReadReturn
  repeat' first
    | with_reducible assumption
    | (refine Keeps.ofEq (by with_reducible assumption) ?_)
    | with_reducible apply localReturn_keeps
    | with_reducible apply meet_keeps
    | (with_reducible apply Keeps.ite <;> intro _)
    | split

theorem doDmaDescriptorEnd_keeps {q₀ : State} (channel : Nat) {s : State} (hK : Keeps q₀ s) :
    Keeps q₀ (doDmaDescriptorEnd channel s) := by
  unfold doDmaDescriptorEnd
  repeat' first
    | with_reducible assumption
    | (refine Keeps.ofEq (by with_reducible assumption) ?_)
    | with_reducible apply ringEnd_keeps
    | with_reducible apply nodeDescEnd_keeps
    | (with_reducible apply Keeps.ite <;> intro _)
    | split

theorem doStreamBlockStart_keeps {q₀ : State} (stream : Nat) {s : State} (hK : Keeps q₀ s) :
    Keeps q₀ (doStreamBlockStart stream s) := by
  unfold doStreamBlockStart
  repeat' first
    | with_reducible assumption
    | (refine Keeps.ofEq (by with_reducible assumption) ?_)
    | with_reducible apply raiseDoubt_keeps
    | with_reducible apply setStream_keeps
    | with_reducible apply emitTrace_keeps
    | with_reducible apply beginMove_keeps
    | (with_reducible apply Keeps.ite <;> intro _)
    | split
    | dsimp only

theorem doStreamBlockDone_keeps {q₀ : State} (stream : Nat) {s : State} (hK : Keeps q₀ s) :
    Keeps q₀ (doStreamBlockDone stream s) := by
  unfold doStreamBlockDone
  repeat' first
    | with_reducible assumption
    | (refine Keeps.ofEq (by with_reducible assumption) ?_)
    | with_reducible apply travelMismatch_keeps
    | with_reducible apply emitTrace_keeps
    | with_reducible apply raiseDoubt_keeps
    | with_reducible apply setStream_keeps
    | with_reducible apply flagSet_keeps
    | (with_reducible apply Keeps.ite <;> intro _)
    | split

theorem cancelStream_keeps {q₀ : State} {s : State} (stream : Nat) (x : StreamSt) (hK : Keeps q₀ s) :
    Keeps q₀ (cancelStream s stream x) := by
  unfold cancelStream
  repeat' first
    | with_reducible assumption
    | (refine Keeps.ofEq (by with_reducible assumption) ?_)
    | with_reducible apply setStream_keeps
    | with_reducible apply stopMove_keeps
    | split
    | dsimp only

theorem doStreamCancelled_keeps {q₀ : State} (stream : Nat) {s : State} (hK : Keeps q₀ s) :
    Keeps q₀ (doStreamCancelled stream s) := by
  unfold doStreamCancelled
  repeat' first
    | with_reducible assumption
    | (refine Keeps.ofEq (by with_reducible assumption) ?_)
    | with_reducible apply bump_keeps
    | with_reducible apply setStream_keeps
    | with_reducible apply postEvent_keeps
    | (with_reducible apply Keeps.ite <;> intro _)
    | split

theorem cmdStreamRearm_keeps {q₀ : State} (h : CmdHdr) (stream : Nat) (r : Nat) (ja : Nat) (base : Nat) {s : State} (hK : Keeps q₀ s) :
    Keeps q₀ (cmdStreamRearm h stream r ja base s).1 := by
  unfold cmdStreamRearm
  repeat' first
    | with_reducible assumption
    | (refine Keeps.ofEq (by with_reducible assumption) ?_)
    | with_reducible apply refuse_keeps
    | with_reducible apply refuseAt_keeps
    | with_reducible apply okDone_keeps
    | with_reducible apply setStream_keeps
    | (with_reducible apply Keeps.iteFst <;> intro _)
    | split

end Sys2Proof.Machine
end

