-- ==== Sys2Proof/Laws/KeepsLink.lean ====
section
/-! SUPPORT. Every operation of Machine/Link.lean keeps the queue and the invariant. -/

namespace Sys2Proof.Machine

open Sys2Proof

theorem enterState_keeps {q₀ : State} {s : State} (p : Nat) (st : LState) (hK : Keeps q₀ s) :
    Keeps q₀ (enterState s p st) := by
  unfold enterState
  repeat' first
    | with_reducible assumption
    | (refine Keeps.ofEq (by with_reducible assumption) ?_)
    | with_reducible apply setLport_keeps

theorem doLinkDetectPulse_keeps {q₀ : State} (port : Nat) {s : State} (hK : Keeps q₀ s) :
    Keeps q₀ (doLinkDetectPulse port s) := by
  unfold doLinkDetectPulse
  repeat' first
    | with_reducible assumption
    | (refine Keeps.ofEq (by with_reducible assumption) ?_)
    | with_reducible apply setLport_keeps
    | (with_reducible apply Keeps.ite <;> intro _)

theorem doLinkPeerDetected_keeps {q₀ : State} (port : Nat) {s : State} (hK : Keeps q₀ s) :
    Keeps q₀ (doLinkPeerDetected port s) := by
  unfold doLinkPeerDetected
  repeat' first
    | with_reducible assumption
    | (refine Keeps.ofEq (by with_reducible assumption) ?_)
    | with_reducible apply enterState_keeps
    | (with_reducible apply Keeps.ite <;> intro _)

theorem doLinkEqDone_keeps {q₀ : State} (port : Nat) {s : State} (hK : Keeps q₀ s) :
    Keeps q₀ (doLinkEqDone port s) := by
  unfold doLinkEqDone
  repeat' first
    | with_reducible assumption
    | (refine Keeps.ofEq (by with_reducible assumption) ?_)
    | with_reducible apply enterState_keeps
    | with_reducible apply setLport_keeps
    | (with_reducible apply Keeps.ite <;> intro _)

theorem doLinkAlignDone_keeps {q₀ : State} (port : Nat) (txLat : Nat) (rxLat : Nat) (lanes : List (List Bool)) {s : State} (hK : Keeps q₀ s) :
    Keeps q₀ (doLinkAlignDone port txLat rxLat lanes s) := by
  unfold doLinkAlignDone
  repeat' first
    | with_reducible assumption
    | (refine Keeps.ofEq (by with_reducible assumption) ?_)
    | with_reducible apply enterState_keeps
    | with_reducible apply setLport_keeps
    | (with_reducible apply Keeps.ite <;> intro _)

theorem doLinkUp_keeps {q₀ : State} (port : Nat) (peer : PeerConfig) {s : State} (hK : Keeps q₀ s) :
    Keeps q₀ (doLinkUp port peer s) := by
  unfold doLinkUp
  repeat' first
    | with_reducible assumption
    | (refine Keeps.ofEq (by with_reducible assumption) ?_)
    | with_reducible apply enterState_keeps
    | with_reducible apply setLport_keeps
    | with_reducible apply postEvent_keeps
    | (with_reducible apply Keeps.ite <;> intro _)

theorem doLinkTrainFail_keeps {q₀ : State} (port : Nat) {s : State} (hK : Keeps q₀ s) :
    Keeps q₀ (doLinkTrainFail port s) := by
  unfold doLinkTrainFail
  repeat' first
    | with_reducible assumption
    | (refine Keeps.ofEq (by with_reducible assumption) ?_)
    | with_reducible apply setLport_keeps
    | with_reducible apply postEvent_keeps
    | (with_reducible apply Keeps.ite <;> intro _)

theorem dropOpen_keeps {q₀ : State} {s : State} (p : Nat) (r : Nat) (hK : Keeps q₀ s) :
    Keeps q₀ (dropOpen s p r) := by
  unfold dropOpen
  repeat' first
    | with_reducible assumption
    | (refine Keeps.ofEq (by with_reducible assumption) ?_)
    | with_reducible apply pump_keeps
    | with_reducible apply setLport_keeps

theorem losePort_keeps {q₀ : State} {s : State} (p : Nat) (st : LState) (hK : Keeps q₀ s) :
    Keeps q₀ (losePort s p st) := by
  unfold losePort
  repeat' first
    | with_reducible assumption
    | (refine Keeps.ofEq (by with_reducible assumption) ?_)
    | with_reducible apply setLport_keeps
    | with_reducible apply dropOpen_keeps
    | with_reducible apply refusePacket_keeps
    | with_reducible apply Keeps.foldl
    | with_reducible apply Keeps.foldlFst
    | (with_reducible apply Keeps.ite <;> intro _)
    | split
    | dsimp only
    | (intro _)

theorem doLinkDown_keeps {q₀ : State} (port : Nat) (cause : Nat) {s : State} (hK : Keeps q₀ s) :
    Keeps q₀ (doLinkDown port cause s) := by
  unfold doLinkDown
  repeat' first
    | with_reducible assumption
    | (refine Keeps.ofEq (by with_reducible assumption) ?_)
    | with_reducible apply losePort_keeps
    | with_reducible apply raiseDoubt_keeps
    | (with_reducible apply Keeps.ite <;> intro _)

theorem sendCtrl_keeps {q₀ : State} {s : State} (p : Nat) (hK : Keeps q₀ s) :
    Keeps q₀ (sendCtrl s p) := by
  unfold sendCtrl
  repeat' first
    | with_reducible assumption
    | (refine Keeps.ofEq (by with_reducible assumption) ?_)
    | with_reducible apply bump_keeps
    | with_reducible apply setLport_keeps

theorem answerOn_keeps {q₀ : State} {s : State} (p : Nat) (x : Packet) (status : Nat) (hK : Keeps q₀ s) :
    Keeps q₀ (answerOn s p x status) := by
  unfold answerOn
  repeat' first
    | with_reducible assumption
    | (refine Keeps.ofEq (by with_reducible assumption) ?_)
    | with_reducible apply enqueueAt_keeps
    | (with_reducible apply Keeps.ite <;> intro _)

theorem openAt_keeps {q₀ : State} {s : State} (r : Nat) (p : Nat) (x : Flit) (hK : Keeps q₀ s) :
    Keeps q₀ (openAt s r p x) := by
  unfold openAt
  repeat' first
    | with_reducible assumption
    | (refine Keeps.ofEq (by with_reducible assumption) ?_)
    | with_reducible apply pump_keeps
    | with_reducible apply setLport_keeps

theorem extendAt_keeps {q₀ : State} {s : State} (r : Nat) (p : Nat) (vc : Nat) (f : Nat × Nat × List Byte) (hK : Keeps q₀ s) :
    Keeps q₀ (extendAt s r p vc f) := by
  unfold extendAt
  repeat' first
    | with_reducible assumption
    | (refine Keeps.ofEq (by with_reducible assumption) ?_)
    | with_reducible apply pump_keeps
    | with_reducible apply setLport_keeps
    | with_reducible apply freeFlits_keeps
    | (with_reducible apply Keeps.ite <;> intro _)

theorem packetDone_keeps {q₀ : State} {s : State} (p : Nat) (rt : RxRoute) (h : Flit) (data : List Flit) (hK : Keeps q₀ s) :
    Keeps q₀ (packetDone s p rt h data) := by
  unfold packetDone
  repeat' first
    | with_reducible assumption
    | (refine Keeps.ofEq (by with_reducible assumption) ?_)
    | with_reducible apply travelMismatch_keeps
    | with_reducible apply deliver_keeps
    | with_reducible apply emitTrace_keeps
    | with_reducible apply freeFlits_keeps
    | with_reducible apply answerOn_keeps
    | with_reducible apply countDiscard_keeps
    | with_reducible apply refusePacket_keeps
    | (with_reducible apply Keeps.ite <;> intro _)
    | split

theorem dropPart_keeps {q₀ : State} {s : State} (p : Nat) (hK : Keeps q₀ s) :
    Keeps q₀ (dropPart s p) := by
  unfold dropPart
  repeat' first
    | with_reducible assumption
    | (refine Keeps.ofEq (by with_reducible assumption) ?_)
    | with_reducible apply dropOpen_keeps
    | with_reducible apply freeFlits_keeps
    | split
    | dsimp only

theorem acceptHead_keeps {q₀ : State} {s : State} (p : Nat) (x : Flit) (hK : Keeps q₀ s) :
    Keeps q₀ (acceptHead s p x) := by
  unfold acceptHead
  repeat' first
    | with_reducible assumption
    | (refine Keeps.ofEq (by with_reducible assumption) ?_)
    | with_reducible apply dropPart_keeps
    | with_reducible apply raiseDoubt_keeps
    | with_reducible apply setLport_keeps
    | with_reducible apply openAt_keeps
    | with_reducible apply packetDone_keeps
    | (with_reducible apply Keeps.ite <;> intro _)
    | split

theorem acceptData_keeps {q₀ : State} {s : State} (p : Nat) (x : Flit) (hK : Keeps q₀ s) :
    Keeps q₀ (acceptData s p x) := by
  unfold acceptData
  repeat' first
    | with_reducible assumption
    | (refine Keeps.ofEq (by with_reducible assumption) ?_)
    | with_reducible apply freeFlits_keeps
    | with_reducible apply setLport_keeps
    | with_reducible apply extendAt_keeps
    | with_reducible apply packetDone_keeps
    | split
    | dsimp only

theorem stompOut_keeps {q₀ : State} {s : State} (p : Nat) (x : Flit) (hK : Keeps q₀ s) :
    Keeps q₀ (stompOut s p x) := by
  unfold stompOut
  repeat' first
    | with_reducible assumption
    | (refine Keeps.ofEq (by with_reducible assumption) ?_)
    | with_reducible apply bump_keeps
    | (with_reducible apply Keeps.ite <;> intro _)
    | split
    | dsimp only

theorem acceptFlit_keeps {q₀ : State} {s : State} (p : Nat) (x : Flit) (hK : Keeps q₀ s) :
    Keeps q₀ (acceptFlit s p x) := by
  unfold acceptFlit
  repeat' first
    | with_reducible assumption
    | (refine Keeps.ofEq (by with_reducible assumption) ?_)
    | with_reducible apply setLport_keeps
    | with_reducible apply acceptHead_keeps
    | with_reducible apply acceptData_keeps
    | (with_reducible apply Keeps.ite <;> intro _)

theorem failFlit_keeps {q₀ : State} {s : State} (p : Nat) (x : Flit) (hK : Keeps q₀ s) :
    Keeps q₀ (failFlit s p x) := by
  unfold failFlit
  repeat' first
    | with_reducible assumption
    | (refine Keeps.ofEq (by with_reducible assumption) ?_)
    | with_reducible apply bump_keeps
    | with_reducible apply setLport_keeps
    | with_reducible apply stompOut_keeps
    | with_reducible apply sendCtrl_keeps
    | (with_reducible apply Keeps.ite <;> intro _)

theorem resendAll_keeps {q₀ : State} {s : State} (p : Nat) (hK : Keeps q₀ s) :
    Keeps q₀ (resendAll s p) := by
  unfold resendAll
  repeat' first
    | with_reducible assumption
    | (refine Keeps.ofEq (by with_reducible assumption) ?_)
    | with_reducible apply bump_keeps
    | with_reducible apply setLport_keeps
    | with_reducible apply postEvent_keeps
    | (with_reducible apply Keeps.ite <;> intro _)

theorem receiveCtrl_keeps {q₀ : State} {s : State} (p : Nat) (m : CtrlMsg) (hK : Keeps q₀ s) :
    Keeps q₀ (receiveCtrl s p m) := by
  unfold receiveCtrl
  repeat' first
    | with_reducible assumption
    | (refine Keeps.ofEq (by with_reducible assumption) ?_)
    | with_reducible apply setLport_keeps
    | with_reducible apply bump_keeps
    | with_reducible apply pump_keeps
    | with_reducible apply resendAll_keeps
    | (with_reducible apply Keeps.ite <;> intro _)

theorem doCtrlReceive_keeps {q₀ : State} (port : Nat) (m : CtrlMsg) {s : State} (hK : Keeps q₀ s) :
    Keeps q₀ (doCtrlReceive port m s) := by
  unfold doCtrlReceive
  repeat' first
    | with_reducible assumption
    | (refine Keeps.ofEq (by with_reducible assumption) ?_)
    | with_reducible apply receiveCtrl_keeps
    | (with_reducible apply Keeps.ite <;> intro _)

theorem doReplayTimer_keeps {q₀ : State} (port : Nat) {s : State} (hK : Keeps q₀ s) :
    Keeps q₀ (doReplayTimer port s) := by
  unfold doReplayTimer
  repeat' first
    | with_reducible assumption
    | (refine Keeps.ofEq (by with_reducible assumption) ?_)
    | with_reducible apply resendAll_keeps
    | (with_reducible apply Keeps.ite <;> intro _)

theorem doCtrlFlitSend_keeps {q₀ : State} (port : Nat) {s : State} (hK : Keeps q₀ s) :
    Keeps q₀ (doCtrlFlitSend port s) := by
  unfold doCtrlFlitSend
  repeat' first
    | with_reducible assumption
    | (refine Keeps.ofEq (by with_reducible assumption) ?_)
    | with_reducible apply sendCtrl_keeps
    | (with_reducible apply Keeps.ite <;> intro _)

theorem takePacket_keeps {q₀ : State} {s : State} (p : Packet) (hK : Keeps q₀ s) :
    Keeps q₀ (takePacket s p) := by
  unfold takePacket
  repeat' first
    | with_reducible assumption
    | (refine Keeps.ofEq (by with_reducible assumption) ?_)
    | (refine Keeps.upd ?_ rfl rfl rfl rfl; with_reducible assumption)

theorem reply_keeps {q₀ : State} {s : State} (p : Packet) (status : Nat) (hK : Keeps q₀ s) :
    Keeps q₀ (reply s p status) := by
  unfold reply
  repeat' first
    | with_reducible assumption
    | (refine Keeps.ofEq (by with_reducible assumption) ?_)
    | with_reducible apply routePosted_keeps

theorem serve_keeps {q₀ : State} (p : Packet) {s : State} {f : State → State}
    (hf : ∀ s, Keeps q₀ s → Keeps q₀ (f s)) (h : Keeps q₀ s) : Keeps q₀ (serve p s f) := by
  unfold serve
  repeat' first
    | with_reducible assumption
    | with_reducible apply hf
    | with_reducible apply takePacket_keeps
    | with_reducible apply reply_keeps
    | with_reducible apply countDiscard_keeps
    | split
    | dsimp only

theorem setWindow_keeps {q₀ : State} {s : State} (w : Nat) (x : Window) (hK : Keeps q₀ s) :
    Keeps q₀ (setWindow s w x) := by
  unfold setWindow
  repeat' first
    | with_reducible assumption
    | (refine Keeps.ofEq (by with_reducible assumption) ?_)
    | (refine Keeps.upd ?_ rfl rfl rfl rfl; with_reducible assumption)

theorem closedEvent_keeps {q₀ : State} {s : State} (p : Packet) (w : Window) (hK : Keeps q₀ s) :
    Keeps q₀ (closedEvent s p w) := by
  unfold closedEvent
  repeat' first
    | with_reducible assumption
    | (refine Keeps.ofEq (by with_reducible assumption) ?_)
    | with_reducible apply setWindow_keeps
    | with_reducible apply postEvent_keeps
    | (with_reducible apply Keeps.ite <;> intro _)

theorem applyWrite_keeps {q₀ : State} (p : Packet) {s : State} (hK : Keeps q₀ s) :
    Keeps q₀ (applyWrite p s) := by
  unfold applyWrite
  repeat' first
    | with_reducible assumption
    | (refine Keeps.ofEq (by with_reducible assumption) ?_)
    | with_reducible apply reply_keeps
    | with_reducible apply closedEvent_keeps
    | with_reducible apply access_keeps
    | with_reducible apply storeCells_keeps
    | (with_reducible apply Keeps.ite <;> intro _)
    | split

theorem doWrite_keeps {q₀ : State} (p : Packet) {s : State} (hK : Keeps q₀ s) :
    Keeps q₀ (doWrite p s) := by
  unfold doWrite
  repeat' first
    | with_reducible assumption
    | (refine Keeps.ofEq (by with_reducible assumption) ?_)
    | with_reducible apply serve_keeps
    | with_reducible apply applyWrite_keeps

theorem applyRead_keeps {q₀ : State} (p : Packet) {s : State} (hK : Keeps q₀ s) :
    Keeps q₀ (applyRead p s) := by
  unfold applyRead
  repeat' first
    | with_reducible assumption
    | (refine Keeps.ofEq (by with_reducible assumption) ?_)
    | with_reducible apply access_keeps
    | with_reducible apply meetRange_keeps
    | with_reducible apply routePosted_keeps
    | (with_reducible apply Keeps.ite <;> intro _)

theorem doRead_keeps {q₀ : State} (p : Packet) {s : State} (hK : Keeps q₀ s) :
    Keeps q₀ (doRead p s) := by
  unfold doRead
  repeat' first
    | with_reducible assumption
    | (refine Keeps.ofEq (by with_reducible assumption) ?_)
    | with_reducible apply serve_keeps
    | with_reducible apply applyRead_keeps

theorem windowRequest_keeps {q₀ : State} (p : Packet) (f : Window → Window) {s : State} (hK : Keeps q₀ s) :
    Keeps q₀ (windowRequest p f s) := by
  unfold windowRequest
  repeat' first
    | with_reducible assumption
    | (refine Keeps.ofEq (by with_reducible assumption) ?_)
    | with_reducible apply reply_keeps
    | with_reducible apply access_keeps
    | with_reducible apply routePosted_keeps
    | with_reducible apply setWindow_keeps
    | (with_reducible apply Keeps.ite <;> intro _)
    | split

theorem doWinOpen_keeps {q₀ : State} (p : Packet) {s : State} (hK : Keeps q₀ s) :
    Keeps q₀ (doWinOpen p s) := by
  unfold doWinOpen
  repeat' first
    | with_reducible assumption
    | (refine Keeps.ofEq (by with_reducible assumption) ?_)
    | with_reducible apply serve_keeps
    | with_reducible apply windowRequest_keeps

theorem doWinClose_keeps {q₀ : State} (p : Packet) {s : State} (hK : Keeps q₀ s) :
    Keeps q₀ (doWinClose p s) := by
  unfold doWinClose
  repeat' first
    | with_reducible assumption
    | (refine Keeps.ofEq (by with_reducible assumption) ?_)
    | with_reducible apply serve_keeps
    | with_reducible apply windowRequest_keeps

theorem setParts_keeps {q₀ : State} {s : State} (dev : Nat) (tag : Nat) (bs : List Byte) (hK : Keeps q₀ s) :
    Keeps q₀ (setParts s dev tag bs) := by
  unfold setParts
  repeat' first
    | with_reducible assumption
    | (refine Keeps.ofEq (by with_reducible assumption) ?_)
    | (refine Keeps.upd ?_ rfl rfl rfl rfl; with_reducible assumption)

theorem applyMbox_keeps {q₀ : State} (p : Packet) {s : State} (hK : Keeps q₀ s) :
    Keeps q₀ (applyMbox p s) := by
  unfold applyMbox
  repeat' first
    | with_reducible assumption
    | (refine Keeps.ofEq (by with_reducible assumption) ?_)
    | with_reducible apply stage1_keeps
    | with_reducible apply setParts_keeps
    | (with_reducible apply Keeps.ite <;> intro _)

theorem doMbox_keeps {q₀ : State} (p : Packet) {s : State} (hK : Keeps q₀ s) :
    Keeps q₀ (doMbox p s) := by
  unfold doMbox
  repeat' first
    | with_reducible assumption
    | (refine Keeps.ofEq (by with_reducible assumption) ?_)
    | with_reducible apply serve_keeps
    | with_reducible apply applyMbox_keeps

theorem doBootData_keeps {q₀ : State} (port : Nat) (p : Packet) {s : State} (hK : Keeps q₀ s) :
    Keeps q₀ (doBootData port p s) := by
  unfold doBootData
  repeat' first
    | with_reducible assumption
    | (refine Keeps.ofEq (by with_reducible assumption) ?_)
    | with_reducible apply takePacket_keeps
    | with_reducible apply receiveAt_keeps
    | with_reducible apply countDiscard_keeps
    | (with_reducible apply Keeps.ite <;> intro _)
    | (refine Keeps.upd ?_ rfl rfl rfl rfl; first | with_reducible assumption | (refine Keeps.ofEq (by with_reducible assumption) ?_) | with_reducible apply takePacket_keeps)

theorem bootAnswer_keeps {q₀ : State} {s : State} (port : Nat) (p : Packet) (status : Nat) (code : Nat) (hK : Keeps q₀ s) :
    Keeps q₀ (bootAnswer s port p status code) := by
  unfold bootAnswer
  repeat' first
    | with_reducible assumption
    | (refine Keeps.ofEq (by with_reducible assumption) ?_)
    | with_reducible apply sendHopLocal_keeps

theorem doBootEnd_keeps {q₀ : State} (port : Nat) (p : Packet) {s : State} (hK : Keeps q₀ s) :
    Keeps q₀ (doBootEnd port p s) := by
  unfold doBootEnd
  repeat' first
    | with_reducible assumption
    | (refine Keeps.ofEq (by with_reducible assumption) ?_)
    | with_reducible apply takePacket_keeps
    | with_reducible apply bootAnswer_keeps
    | (with_reducible apply Keeps.ite <;> intro _)
    | (refine Keeps.upd ?_ rfl rfl rfl rfl; first | with_reducible assumption | (refine Keeps.ofEq (by with_reducible assumption) ?_) | with_reducible apply takePacket_keeps)

theorem joinAs_keeps {q₀ : State} {s : State} (id : Nat) (hK : Keeps q₀ s) :
    Keeps q₀ (joinAs s id) := by
  unfold joinAs
  repeat' first
    | with_reducible assumption
    | (refine Keeps.ofEq (by with_reducible assumption) ?_)
    | (refine Keeps.upd ?_ rfl rfl rfl rfl; with_reducible assumption)

theorem doIdAssign_keeps {q₀ : State} (port : Nat) (p : Packet) {s : State} (hK : Keeps q₀ s) :
    Keeps q₀ (doIdAssign port p s) := by
  unfold doIdAssign
  repeat' first
    | with_reducible assumption
    | (refine Keeps.ofEq (by with_reducible assumption) ?_)
    | with_reducible apply takePacket_keeps
    | with_reducible apply sendHopLocal_keeps
    | with_reducible apply joinAs_keeps
    | (with_reducible apply Keeps.ite <;> intro _)

theorem applyEvent_keeps {q₀ : State} (p : Packet) {s : State} (hK : Keeps q₀ s) :
    Keeps q₀ (applyEvent p s) := by
  unfold applyEvent
  repeat' first
    | with_reducible assumption
    | (refine Keeps.ofEq (by with_reducible assumption) ?_)
    | with_reducible apply pushEvent_keeps

theorem doEvent_keeps {q₀ : State} (p : Packet) {s : State} (hK : Keeps q₀ s) :
    Keeps q₀ (doEvent p s) := by
  unfold doEvent
  repeat' first
    | with_reducible assumption
    | (refine Keeps.ofEq (by with_reducible assumption) ?_)
    | with_reducible apply serve_keeps
    | with_reducible apply applyEvent_keeps

theorem noteResponse_keeps {q₀ : State} {s : State} (dev : Nat) (win : Nat) (kind : Nat) (status : Nat) (epoch : Nat) (hK : Keeps q₀ s) :
    Keeps q₀ (noteResponse s dev win kind status epoch) := by
  unfold noteResponse
  repeat' first
    | with_reducible assumption
    | (refine Keeps.ofEq (by with_reducible assumption) ?_)
    | (refine Keeps.upd ?_ rfl rfl rfl rfl; with_reducible assumption)

theorem moverResponse_keeps {q₀ : State} {s : State} (c : Nat) (t : Txn) (status : Nat) (p : Packet) (hK : Keeps q₀ s) :
    Keeps q₀ (moverResponse s c t status p) := by
  unfold moverResponse
  repeat' first
    | with_reducible assumption
    | (refine Keeps.ofEq (by with_reducible assumption) ?_)
    | with_reducible apply setRunAt_keeps
    | with_reducible apply dropWaiting_keeps
    | with_reducible apply bump_keeps
    | with_reducible apply discardRead_keeps
    | with_reducible apply issueReads_keeps
    | with_reducible apply readBack_keeps
    | with_reducible apply failReads_keeps
    | with_reducible apply Keeps.foldl
    | with_reducible apply Keeps.foldlFst
    | (with_reducible apply Keeps.ite <;> intro _)
    | split
    | dsimp only
    | (intro _)

theorem relayDone_keeps {q₀ : State} {s : State} (port : Nat) (code : Nat) (hK : Keeps q₀ s) :
    Keeps q₀ (relayDone s port code) := by
  unfold relayDone
  repeat' first
    | with_reducible assumption
    | (refine Keeps.ofEq (by with_reducible assumption) ?_)
    | with_reducible apply postEvent_keeps
    | (refine Keeps.upd ?_ rfl rfl rfl rfl; with_reducible assumption)

theorem txnResult_keeps {q₀ : State} {s : State} (t : Txn) (status : Nat) (p : Packet) (hK : Keeps q₀ s) :
    Keeps q₀ (txnResult s t status p) := by
  unfold txnResult
  repeat' first
    | with_reducible assumption
    | (refine Keeps.ofEq (by with_reducible assumption) ?_)
    | with_reducible apply moverResponse_keeps
    | with_reducible apply answer_keeps
    | with_reducible apply relayDone_keeps
    | (with_reducible apply Keeps.ite <;> intro _)
    | split

theorem completeTxn_keeps {q₀ : State} {s : State} (tag : Nat) (t : Txn) (status : Nat) (p : Packet) (hK : Keeps q₀ s) :
    Keeps q₀ (completeTxn s tag t status p) := by
  unfold completeTxn
  repeat' first
    | with_reducible assumption
    | (refine Keeps.ofEq (by with_reducible assumption) ?_)
    | with_reducible apply txnResult_keeps
    | with_reducible apply noteResponse_keeps
    | with_reducible apply serveTags_keeps
    | (refine Keeps.upd ?_ rfl rfl rfl rfl; with_reducible assumption)

theorem doTransactionResponse_keeps {q₀ : State} (p : Packet) {s : State} (hK : Keeps q₀ s) :
    Keeps q₀ (doTransactionResponse p s) := by
  unfold doTransactionResponse
  repeat' first
    | with_reducible assumption
    | (refine Keeps.ofEq (by with_reducible assumption) ?_)
    | with_reducible apply takePacket_keeps
    | with_reducible apply countDiscard_keeps
    | with_reducible apply completeTxn_keeps
    | (with_reducible apply Keeps.ite <;> intro _)
    | (refine Keeps.upd ?_ rfl rfl rfl rfl; first | with_reducible assumption | (refine Keeps.ofEq (by with_reducible assumption) ?_) | with_reducible apply takePacket_keeps | with_reducible apply countDiscard_keeps | with_reducible apply completeTxn_keeps)
    | split
    | dsimp only

theorem doBootRelayDone_keeps {q₀ : State} (port : Nat) (code : Nat) {s : State} (hK : Keeps q₀ s) :
    Keeps q₀ (doBootRelayDone port code s) := by
  unfold doBootRelayDone
  repeat' first
    | with_reducible assumption
    | (refine Keeps.ofEq (by with_reducible assumption) ?_)
    | with_reducible apply relayDone_keeps
    | with_reducible apply serveTags_keeps
    | (with_reducible apply Keeps.ite <;> intro _)
    | (refine Keeps.upd ?_ rfl rfl rfl rfl; with_reducible assumption)

end Sys2Proof.Machine
end

