-- ==== Sys2Proof/Laws/KeepsLinkCmd.lean ====
section
/-! SUPPORT. Every operation of Machine/LinkCmd.lean keeps the queue and the invariant. -/

namespace Sys2Proof.Machine

open Sys2Proof

theorem badLen_keeps {q₀ : State} {s : State} (hK : Keeps q₀ s) :
    Keeps q₀ (badLen s).1 := by
  unfold badLen
  repeat' first
    | with_reducible assumption

theorem cmdLinkStart_keeps {q₀ : State} (h : CmdHdr) (channel : Nat) (r : Nat) {s : State} (hK : Keeps q₀ s) :
    Keeps q₀ (cmdLinkStart h channel r s).1 := by
  unfold cmdLinkStart
  repeat' first
    | with_reducible assumption
    | (refine Keeps.ofEq (by with_reducible assumption) ?_)
    | with_reducible apply refuseAt_keeps
    | with_reducible apply fetchEntry_keeps
    | with_reducible apply refuse_keeps
    | with_reducible apply okDone_keeps
    | with_reducible apply setLport_keeps
    | (with_reducible apply Keeps.iteFst <;> intro _)
    | split

theorem cmdLinkStop_keeps {q₀ : State} (port : Nat) (r : Nat) {s : State} (hK : Keeps q₀ s) :
    Keeps q₀ (cmdLinkStop port r s).1 := by
  unfold cmdLinkStop
  repeat' first
    | with_reducible assumption
    | (refine Keeps.ofEq (by with_reducible assumption) ?_)
    | with_reducible apply refuseAt_keeps
    | with_reducible apply okDone_keeps
    | with_reducible apply losePort_keeps
    | (with_reducible apply Keeps.iteFst <;> intro _)

theorem cmdLinkStatus_keeps {q₀ : State} {s : State} (hK : Keeps q₀ s) :
    Keeps q₀ (cmdLinkStatus s).1 := by
  unfold cmdLinkStatus
  repeat' first
    | with_reducible assumption
    | (refine Keeps.ofEq (by with_reducible assumption) ?_)
    | with_reducible apply okWith_keeps

theorem cmdLinkRouteSet_keeps {q₀ : State} (first : Nat) (count : Nat) (ports : List Byte) {s : State} (hK : Keeps q₀ s) :
    Keeps q₀ (cmdLinkRouteSet first count ports s).1 := by
  unfold cmdLinkRouteSet
  repeat' first
    | with_reducible assumption
    | (refine Keeps.ofEq (by with_reducible assumption) ?_)
    | with_reducible apply badLen_keeps
    | with_reducible apply refuseAt_keeps
    | with_reducible apply okDone_keeps
    | (with_reducible apply Keeps.iteFst <;> intro _)
    | (refine Keeps.upd ?_ rfl rfl rfl rfl; first | with_reducible assumption | (refine Keeps.ofEq (by with_reducible assumption) ?_) | with_reducible apply badLen_keeps | with_reducible apply refuseAt_keeps | with_reducible apply okDone_keeps)
    | split

theorem cmdLinkAbort_keeps {q₀ : State} (first : Nat) (last : Nat) {s : State} (hK : Keeps q₀ s) :
    Keeps q₀ (cmdLinkAbort first last s).1 := by
  unfold cmdLinkAbort
  repeat' first
    | with_reducible assumption
    | (refine Keeps.ofEq (by with_reducible assumption) ?_)
    | with_reducible apply refuseAt_keeps
    | with_reducible apply txnResult_keeps
    | with_reducible apply noteResponse_keeps
    | with_reducible apply okWith_keeps
    | with_reducible apply serveTags_keeps
    | with_reducible apply Keeps.foldl
    | with_reducible apply Keeps.foldlFst
    | (with_reducible apply Keeps.iteFst <;> intro _)
    | (refine Keeps.upd ?_ rfl rfl rfl rfl; first | with_reducible assumption | (refine Keeps.ofEq (by with_reducible assumption) ?_) | with_reducible apply refuseAt_keeps | with_reducible apply txnResult_keeps | with_reducible apply noteResponse_keeps | with_reducible apply okWith_keeps | with_reducible apply serveTags_keeps | with_reducible apply Keeps.foldl)
    | split
    | dsimp only
    | (intro _)

theorem cmdLinkReserve_keeps {q₀ : State} (port : Nat) (dir : Nat) (r : Nat) (mbps : Nat) {s : State} (hK : Keeps q₀ s) :
    Keeps q₀ (cmdLinkReserve port dir r mbps s).1 := by
  unfold cmdLinkReserve
  repeat' first
    | with_reducible assumption
    | (refine Keeps.ofEq (by with_reducible assumption) ?_)
    | with_reducible apply refuseAt_keeps
    | with_reducible apply okDone_keeps
    | (with_reducible apply Keeps.iteFst <;> intro _)
    | (refine Keeps.upd ?_ rfl rfl rfl rfl; with_reducible assumption)

theorem cmdLinkWindowSet_keeps {q₀ : State} (win : Nat) (r : Nat) (base : Nat) (length : Nat) {s : State} (hK : Keeps q₀ s) :
    Keeps q₀ (cmdLinkWindowSet win r base length s).1 := by
  unfold cmdLinkWindowSet
  repeat' first
    | with_reducible assumption
    | (refine Keeps.ofEq (by with_reducible assumption) ?_)
    | with_reducible apply refuseAt_keeps
    | with_reducible apply okDone_keeps
    | with_reducible apply setWindow_keeps
    | (with_reducible apply Keeps.iteFst <;> intro _)

theorem changeWindow_keeps {q₀ : State} (f : Window → Window) (win : Nat) (r : Nat) {s : State} (hK : Keeps q₀ s) :
    Keeps q₀ (changeWindow f win r s).1 := by
  unfold changeWindow
  repeat' first
    | with_reducible assumption
    | (refine Keeps.ofEq (by with_reducible assumption) ?_)
    | with_reducible apply refuseAt_keeps
    | with_reducible apply refuse_keeps
    | with_reducible apply okWith_keeps
    | with_reducible apply setWindow_keeps
    | (with_reducible apply Keeps.iteFst <;> intro _)
    | split

theorem cmdLinkImportSet_keeps {q₀ : State} (entry : Nat) (win : Nat) (device : Nat) (epoch : Nat) (r : Nat) (base : Nat) (length : Nat) {s : State} (hK : Keeps q₀ s) :
    Keeps q₀ (cmdLinkImportSet entry win device epoch r base length s).1 := by
  unfold cmdLinkImportSet
  repeat' first
    | with_reducible assumption
    | (refine Keeps.ofEq (by with_reducible assumption) ?_)
    | with_reducible apply refuseAt_keeps
    | with_reducible apply okDone_keeps
    | (with_reducible apply Keeps.iteFst <;> intro _)
    | (refine Keeps.upd ?_ rfl rfl rfl rfl; with_reducible assumption)

theorem cmdLinkIdSet_keeps {q₀ : State} (id : Nat) (r : Nat) {s : State} (hK : Keeps q₀ s) :
    Keeps q₀ (cmdLinkIdSet id r s).1 := by
  unfold cmdLinkIdSet
  repeat' first
    | with_reducible assumption
    | (refine Keeps.ofEq (by with_reducible assumption) ?_)
    | with_reducible apply refuseAt_keeps
    | with_reducible apply refuse_keeps
    | with_reducible apply okDone_keeps
    | with_reducible apply joinAs_keeps
    | (with_reducible apply Keeps.iteFst <;> intro _)

theorem nextReq_keeps {q₀ : State} {s : State} (hK : Keeps q₀ s) :
    Keeps q₀ (nextReq s) := by
  unfold nextReq
  repeat' first
    | with_reducible assumption
    | (refine Keeps.ofEq (by with_reducible assumption) ?_)
    | (refine Keeps.upd ?_ rfl rfl rfl rfl; with_reducible assumption)

theorem cmdLinkIdAssign_keeps {q₀ : State} (port : Nat) (r : Nat) (id : Nat) {s : State} (hK : Keeps q₀ s) :
    Keeps q₀ (cmdLinkIdAssign port r id s).1 := by
  unfold cmdLinkIdAssign
  repeat' first
    | with_reducible assumption
    | (refine Keeps.ofEq (by with_reducible assumption) ?_)
    | with_reducible apply refuseAt_keeps
    | with_reducible apply refuse_keeps
    | with_reducible apply request_keeps
    | with_reducible apply nextReq_keeps
    | (with_reducible apply Keeps.iteFst <;> intro _)

theorem cmdLinkMboxRelay_keeps {q₀ : State} (device : Nat) (r : Nat) (record : List Byte) {s : State} (hK : Keeps q₀ s) :
    Keeps q₀ (cmdLinkMboxRelay device r record s).1 := by
  unfold cmdLinkMboxRelay
  repeat' first
    | with_reducible assumption
    | (refine Keeps.ofEq (by with_reducible assumption) ?_)
    | with_reducible apply badLen_keeps
    | with_reducible apply refuseAt_keeps
    | with_reducible apply refuse_keeps
    | with_reducible apply request_keeps
    | with_reducible apply nextReq_keeps
    | (with_reducible apply Keeps.iteFst <;> intro _)
    | split

theorem cmdLinkEventSink_keeps {q₀ : State} (device : Nat) (flags : Nat) {s : State} (hK : Keeps q₀ s) :
    Keeps q₀ (cmdLinkEventSink device flags s).1 := by
  unfold cmdLinkEventSink
  repeat' first
    | with_reducible assumption
    | (refine Keeps.ofEq (by with_reducible assumption) ?_)
    | with_reducible apply refuseAt_keeps
    | with_reducible apply okDone_keeps
    | (with_reducible apply Keeps.iteFst <;> intro _)
    | (refine Keeps.upd ?_ rfl rfl rfl rfl; with_reducible assumption)

theorem cmdBootRelay_keeps {q₀ : State} (h : CmdHdr) (port : Nat) (r : Nat) (addr : Nat) (len : Nat) (r2 : Nat) {s : State} (hK : Keeps q₀ s) :
    Keeps q₀ (cmdBootRelay h port r addr len r2 s).1 := by
  unfold cmdBootRelay
  repeat' first
    | with_reducible assumption
    | (refine Keeps.ofEq (by with_reducible assumption) ?_)
    | with_reducible apply refuseAt_keeps
    | with_reducible apply readStruct_keeps
    | with_reducible apply refuse_keeps
    | with_reducible apply okDone_keeps
    | with_reducible apply request_keeps
    | (with_reducible apply Keeps.iteFst <;> intro _)
    | split
    | (refine Keeps.upd ?_ rfl rfl rfl rfl; first | with_reducible assumption | (refine Keeps.ofEq (by with_reducible assumption) ?_) | with_reducible apply refuseAt_keeps | with_reducible apply readStruct_keeps)

end Sys2Proof.Machine
end

