-- ==== Sys2Proof/Laws/KeepsLinkTime.lean ====
section
/-! SUPPORT. Every operation of Machine/LinkTime.lean keeps the queue and the invariant. -/

namespace Sys2Proof.Machine

open Sys2Proof

theorem doTimeFlitSend_keeps {q₀ : State} (port : Nat) {s : State} (hK : Keeps q₀ s) :
    Keeps q₀ (doTimeFlitSend port s) := by
  unfold doTimeFlitSend
  repeat' first
    | with_reducible assumption
    | (refine Keeps.ofEq (by with_reducible assumption) ?_)
    | with_reducible apply bump_keeps
    | with_reducible apply setLport_keeps
    | (with_reducible apply Keeps.ite <;> intro _)

theorem slew_keeps {q₀ : State} {s : State} (hK : Keeps q₀ s) :
    Keeps q₀ (slew s) := by
  unfold slew
  repeat' first
    | with_reducible assumption
    | (refine Keeps.ofEq (by with_reducible assumption) ?_)
    | (refine Keeps.upd ?_ rfl rfl rfl rfl; with_reducible assumption)

theorem thetaRecord_keeps {q₀ : State} {s : State} (p : Nat) (xseq : Nat) (hK : Keeps q₀ s) :
    Keeps q₀ (thetaRecord s p xseq) := by
  unfold thetaRecord
  repeat' first
    | with_reducible assumption
    | (refine Keeps.ofEq (by with_reducible assumption) ?_)
    | with_reducible apply setLport_keeps
    | with_reducible apply emitTrace_keeps
    | (with_reducible apply Keeps.ite <;> intro _)

theorem followParent_keeps {q₀ : State} {s : State} (p : Nat) (m : TimeMsg) (hK : Keeps q₀ s) :
    Keeps q₀ (followParent s p m) := by
  unfold followParent
  repeat' first
    | with_reducible assumption
    | (refine Keeps.ofEq (by with_reducible assumption) ?_)
    | with_reducible apply slew_keeps
    | with_reducible apply endLevel_keeps
    | with_reducible apply postEvent_keeps
    | (with_reducible apply Keeps.ite <;> intro _)
    | (refine Keeps.upd ?_ rfl rfl rfl rfl; first | with_reducible assumption | (refine Keeps.ofEq (by with_reducible assumption) ?_) | with_reducible apply slew_keeps)

theorem receiveTime_keeps {q₀ : State} {s : State} (p : Nat) (m : TimeMsg) (arrival : Nat) (arrivalFr : Nat) (hK : Keeps q₀ s) :
    Keeps q₀ (receiveTime s p m arrival arrivalFr) := by
  unfold receiveTime
  repeat' first
    | with_reducible assumption
    | (refine Keeps.ofEq (by with_reducible assumption) ?_)
    | with_reducible apply bump_keeps
    | with_reducible apply freeFlits_keeps
    | with_reducible apply setLport_keeps
    | with_reducible apply followParent_keeps
    | with_reducible apply thetaRecord_keeps
    | (with_reducible apply Keeps.ite <;> intro _)

theorem doTimeFlitReceive_keeps {q₀ : State} (port : Nat) (m : TimeMsg) (arrival : Nat) (arrivalFr : Nat) {s : State} (hK : Keeps q₀ s) :
    Keeps q₀ (doTimeFlitReceive port m arrival arrivalFr s) := by
  unfold doTimeFlitReceive
  repeat' first
    | with_reducible assumption
    | (refine Keeps.ofEq (by with_reducible assumption) ?_)
    | with_reducible apply receiveTime_keeps
    | (with_reducible apply Keeps.ite <;> intro _)

theorem receiveFlit_keeps {q₀ : State} {s : State} (p : Nat) (x : Flit) (hK : Keeps q₀ s) :
    Keeps q₀ (receiveFlit s p x) := by
  unfold receiveFlit
  repeat' first
    | with_reducible assumption
    | (refine Keeps.ofEq (by with_reducible assumption) ?_)
    | with_reducible apply bump_keeps
    | with_reducible apply setLport_keeps
    | with_reducible apply stompOut_keeps
    | with_reducible apply failFlit_keeps
    | with_reducible apply receiveCtrl_keeps
    | with_reducible apply receiveTime_keeps
    | with_reducible apply acceptFlit_keeps
    | (with_reducible apply Keeps.ite <;> intro _)

theorem doFlitReceive_keeps {q₀ : State} (port : Nat) (x : Flit) {s : State} (hK : Keeps q₀ s) :
    Keeps q₀ (doFlitReceive port x s) := by
  unfold doFlitReceive
  repeat' first
    | with_reducible assumption
    | (refine Keeps.ofEq (by with_reducible assumption) ?_)
    | with_reducible apply receiveFlit_keeps
    | (with_reducible apply Keeps.ite <;> intro _)

theorem cmdLinkTimeJoin_keeps {q₀ : State} {s : State} (hK : Keeps q₀ s) :
    Keeps q₀ (cmdLinkTimeJoin s).1 := by
  unfold cmdLinkTimeJoin
  repeat' first
    | with_reducible assumption
    | (refine Keeps.ofEq (by with_reducible assumption) ?_)
    | with_reducible apply refuse_keeps
    | with_reducible apply setLport_keeps
    | (with_reducible apply Keeps.iteFst <;> intro _)
    | (refine Keeps.upd ?_ rfl rfl rfl rfl; first | with_reducible assumption | (refine Keeps.ofEq (by with_reducible assumption) ?_) | with_reducible apply refuse_keeps | with_reducible apply setLport_keeps)
    | split

theorem stepTime_keeps {q₀ : State} {s : State} (d : Int) (hK : Keeps q₀ s) :
    Keeps q₀ (stepTime s d) := by
  unfold stepTime
  repeat' first
    | with_reducible assumption
    | (refine Keeps.ofEq (by with_reducible assumption) ?_)
    | (refine Keeps.upd ?_ rfl rfl rfl rfl; with_reducible assumption)

theorem doTimeStep_keeps {q₀ : State} {s : State} (hK : Keeps q₀ s) :
    Keeps q₀ (doTimeStep s) := by
  unfold doTimeStep
  repeat' first
    | with_reducible assumption
    | (refine Keeps.ofEq (by with_reducible assumption) ?_)
    | with_reducible apply setLport_keeps
    | with_reducible apply stepTime_keeps
    | with_reducible apply postEvent_keeps
    | (with_reducible apply Keeps.ite <;> intro _)
    | (refine Keeps.upd ?_ rfl rfl rfl rfl; first | with_reducible assumption | (refine Keeps.ofEq (by with_reducible assumption) ?_) | with_reducible apply setLport_keeps | with_reducible apply stepTime_keeps | with_reducible apply postEvent_keeps)
    | split

theorem doTimeJoinLocked_keeps {q₀ : State} {s : State} (hK : Keeps q₀ s) :
    Keeps q₀ (doTimeJoinLocked s) := by
  unfold doTimeJoinLocked
  repeat' first
    | with_reducible assumption
    | (refine Keeps.ofEq (by with_reducible assumption) ?_)
    | with_reducible apply answer_keeps
    | (with_reducible apply Keeps.ite <;> intro _)
    | (refine Keeps.upd ?_ rfl rfl rfl rfl; first | with_reducible assumption | (refine Keeps.ofEq (by with_reducible assumption) ?_) | with_reducible apply answer_keeps)
    | split

theorem doTimeHoldover_keeps {q₀ : State} (cause : Nat) {s : State} (hK : Keeps q₀ s) :
    Keeps q₀ (doTimeHoldover cause s) := by
  unfold doTimeHoldover
  repeat' first
    | with_reducible assumption
    | (refine Keeps.ofEq (by with_reducible assumption) ?_)
    | with_reducible apply failCond_keeps
    | with_reducible apply postEvent_keeps
    | (with_reducible apply Keeps.ite <;> intro _)
    | (refine Keeps.upd ?_ rfl rfl rfl rfl; first | with_reducible assumption | (refine Keeps.ofEq (by with_reducible assumption) ?_) | with_reducible apply failCond_keeps | with_reducible apply postEvent_keeps)
    | split

theorem cmdLinkPpsSet_keeps {q₀ : State} (phase : Nat) (flags : Nat) {s : State} (hK : Keeps q₀ s) :
    Keeps q₀ (cmdLinkPpsSet phase flags s).1 := by
  unfold cmdLinkPpsSet
  repeat' first
    | with_reducible assumption
    | (refine Keeps.ofEq (by with_reducible assumption) ?_)
    | with_reducible apply refuse_keeps
    | with_reducible apply refuseAt_keeps
    | with_reducible apply okWith_keeps
    | with_reducible apply stepTime_keeps
    | (with_reducible apply Keeps.iteFst <;> intro _)
    | (refine Keeps.upd ?_ rfl rfl rfl rfl; with_reducible assumption)

theorem doPpsEdge_keeps {q₀ : State} {s : State} (hK : Keeps q₀ s) :
    Keeps q₀ (doPpsEdge s) := by
  unfold doPpsEdge
  repeat' first
    | with_reducible assumption
    | (refine Keeps.ofEq (by with_reducible assumption) ?_)
    | with_reducible apply slew_keeps
    | with_reducible apply postEvent_keeps
    | (with_reducible apply Keeps.ite <;> intro _)
    | (refine Keeps.upd ?_ rfl rfl rfl rfl; first | with_reducible assumption | (refine Keeps.ofEq (by with_reducible assumption) ?_) | with_reducible apply slew_keeps | with_reducible apply postEvent_keeps)
    | split
    | dsimp only

theorem doPpsLost_keeps {q₀ : State} {s : State} (hK : Keeps q₀ s) :
    Keeps q₀ (doPpsLost s) := by
  unfold doPpsLost
  repeat' first
    | with_reducible assumption
    | (refine Keeps.ofEq (by with_reducible assumption) ?_)
    | with_reducible apply advanceTo_keeps
    | with_reducible apply postEvent_keeps
    | (with_reducible apply Keeps.ite <;> intro _)
    | (refine Keeps.upd ?_ rfl rfl rfl rfl; first | with_reducible assumption | (refine Keeps.ofEq (by with_reducible assumption) ?_) | with_reducible apply advanceTo_keeps | with_reducible apply postEvent_keeps)
    | split

end Sys2Proof.Machine
end

