-- ==== Sys2Proof/Laws/KeepsDdr.lean ====
section
/-! SUPPORT. Every operation of Machine/Ddr.lean keeps the queue and the invariant. -/

namespace Sys2Proof.Machine

open Sys2Proof

theorem writeBack_keeps {q₀ : State} {s : State} (g : Nat) (hK : Keeps q₀ s) :
    Keeps q₀ (writeBack s g) := by
  unfold writeBack
  repeat' first
    | with_reducible assumption
    | (refine Keeps.ofEq (by with_reducible assumption) ?_)
    | (refine Keeps.upd ?_ rfl rfl rfl rfl; with_reducible assumption)

theorem doFsScrubRow_keeps {q₀ : State} (bank : Nat) (row : Nat) (found : EccFind) {s : State} (hK : Keeps q₀ s) :
    Keeps q₀ (doFsScrubRow bank row found s) := by
  unfold doFsScrubRow
  repeat' first
    | with_reducible assumption
    | (refine Keeps.ofEq (by with_reducible assumption) ?_)
    | with_reducible apply writeBack_keeps
    | with_reducible apply eccHits_keeps
    | with_reducible apply bump_keeps
    | (with_reducible apply Keeps.ite <;> intro _)

theorem cmdDdrInit_keeps {q₀ : State} (cfg : List Byte) {s : State} (hK : Keeps q₀ s) :
    Keeps q₀ (cmdDdrInit cfg s).1 := by
  unfold cmdDdrInit
  repeat' first
    | with_reducible assumption
    | (refine Keeps.ofEq (by with_reducible assumption) ?_)
    | with_reducible apply badLen_keeps
    | with_reducible apply refuseAt_keeps
    | with_reducible apply refuse_keeps
    | (with_reducible apply Keeps.iteFst <;> intro _)
    | (refine Keeps.upd ?_ rfl rfl rfl rfl; with_reducible assumption)

theorem doDdrInitDone_keeps {q₀ : State} (result : TrainResult) {s : State} (h : Keeps q₀ s) :
    Keeps q₀ (doDdrInitDone result s) := by
  unfold doDdrInitDone
  split
  · exact h
  · split
    · exact answer_keeps _ _ _ (h.change rfl ((memory_wf_iff _).2 (((memory_wf_iff _).1 h.inv.mem).filter _))
        ((marks_wf_iff _).2 (((marks_wf_iff _).1 h.inv.marks).filter _)) h.inv.events h.inv.history h.inv.traces h.inv.aon (.refl _))
    · exact answer_keeps _ _ _ (h.upd rfl rfl rfl rfl)

theorem doDdrScrubGranule_keeps {q₀ : State} (addr : Nat) (isCode : Bool) (found : EccFind) (rank : Nat) (bank : Nat) (row : Nat) {s : State} (hK : Keeps q₀ s) :
    Keeps q₀ (doDdrScrubGranule addr isCode found rank bank row s) := by
  unfold doDdrScrubGranule
  repeat' first
    | with_reducible assumption
    | (refine Keeps.ofEq (by with_reducible assumption) ?_)
    | with_reducible apply eccHits_keeps
    | (with_reducible apply Keeps.ite <;> intro _)
    | (refine Keeps.upd ?_ rfl rfl rfl rfl; with_reducible assumption)

theorem doDdrAlert_keeps {q₀ : State} (channel : Nat) {s : State} (hK : Keeps q₀ s) :
    Keeps q₀ (doDdrAlert channel s) := by
  unfold doDdrAlert
  repeat' first
    | with_reducible assumption
    | (refine Keeps.ofEq (by with_reducible assumption) ?_)
    | with_reducible apply raiseDoubt_keeps
    | (with_reducible apply Keeps.ite <;> intro _)

theorem doDdrRefresh_keeps {q₀ : State} (channel : Nat) {s : State} (hK : Keeps q₀ s) :
    Keeps q₀ (doDdrRefresh channel s) := by
  unfold doDdrRefresh
  repeat' first
    | with_reducible assumption
    | (refine Keeps.ofEq (by with_reducible assumption) ?_)
    | with_reducible apply bump_keeps
    | (with_reducible apply Keeps.ite <;> intro _)
    | (refine Keeps.upd ?_ rfl rfl rfl rfl; with_reducible assumption)

theorem doDdrMr4Poll_keeps {q₀ : State} (channel : Nat) (rank : Nat) (temp : Int) {s : State} (hK : Keeps q₀ s) :
    Keeps q₀ (doDdrMr4Poll channel rank temp s) := by
  unfold doDdrMr4Poll
  repeat' first
    | with_reducible assumption
    | (refine Keeps.ofEq (by with_reducible assumption) ?_)
    | with_reducible apply postEvent_keeps
    | (with_reducible apply Keeps.ite <;> intro _)
    | (refine Keeps.upd ?_ rfl rfl rfl rfl; with_reducible assumption)

end Sys2Proof.Machine
end

