-- ==== Sys2Proof/Laws/KeepsEgress.lean ====
section
/-! SUPPORT. Every operation of Machine/Egress.lean keeps the queue and the invariant. -/

namespace Sys2Proof.Machine

open Sys2Proof

theorem deliverStub_keeps {q₀ : State} {s : State} (flow : Nat) (st : Stub) (hK : Keeps q₀ s) :
    Keeps q₀ (deliverStub s flow st) := by
  unfold deliverStub
  repeat' first
    | with_reducible assumption
    | (refine Keeps.ofEq (by with_reducible assumption) ?_)
    | with_reducible apply setEport_keeps
    | split

theorem formatResult_keeps {q₀ : State} {s : State} (r : Released) (hK : Keeps q₀ s) :
    Keeps q₀ (formatResult s r) := by
  unfold formatResult
  repeat' first
    | with_reducible assumption
    | (refine Keeps.ofEq (by with_reducible assumption) ?_)
    | with_reducible apply setEport_keeps
    | (refine Keeps.upd ?_ rfl rfl rfl rfl; first | with_reducible assumption | (refine Keeps.ofEq (by with_reducible assumption) ?_) | with_reducible apply setEport_keeps)
    | split
    | dsimp only

theorem abortRecord_keeps {q₀ : State} {s : State} (flow : Nat) (objId : Nat) (f : Nat) (tExp : Nat) (reason : Nat) (flags : Nat) (hK : Keeps q₀ s) :
    Keeps q₀ (abortRecord s flow objId f tExp reason flags) := by
  unfold abortRecord
  repeat' first
    | with_reducible assumption
    | (refine Keeps.ofEq (by with_reducible assumption) ?_)
    | with_reducible apply postEvent_keeps
    | with_reducible apply bump_keeps
    | with_reducible apply setEport_keeps
    | (with_reducible apply Keeps.ite <;> intro _)
    | split

theorem dropStubs_keeps {q₀ : State} {s : State} (flow : Nat) (keep : List Nat) (hK : Keeps q₀ s) :
    Keeps q₀ (dropStubs s flow keep) := by
  unfold dropStubs
  repeat' first
    | with_reducible assumption
    | (refine Keeps.ofEq (by with_reducible assumption) ?_)
    | with_reducible apply setEport_keeps
    | split

theorem substitutionPulse_keeps {q₀ : State} {s : State} (verdict : Nat) (hK : Keeps q₀ s) :
    Keeps q₀ (substitutionPulse s verdict) := by
  unfold substitutionPulse
  repeat' first
    | with_reducible assumption
    | (refine Keeps.ofEq (by with_reducible assumption) ?_)
    | with_reducible apply updateDoubt_keeps
    | (with_reducible apply Keeps.ite <;> intro _)
    | (refine Keeps.upd ?_ rfl rfl rfl rfl; with_reducible assumption)

theorem lateEvent_keeps {q₀ : State} {s : State} (p : Nat) (k : Nat) (x : EStream) (r : ResRec) (hK : Keeps q₀ s) :
    Keeps q₀ (lateEvent s p k x r) := by
  unfold lateEvent
  repeat' first
    | with_reducible assumption
    | (refine Keeps.ofEq (by with_reducible assumption) ?_)
    | with_reducible apply setEport_keeps
    | with_reducible apply postEvent_keeps
    | (with_reducible apply Keeps.ite <;> intro _)

theorem putRecord_keeps {q₀ : State} {s : State} (p : Nat) (r : ResRec) (hK : Keeps q₀ s) :
    Keeps q₀ (putRecord s p r) := by
  unfold putRecord
  repeat' first
    | with_reducible assumption
    | (refine Keeps.ofEq (by with_reducible assumption) ?_)
    | with_reducible apply setEport_keeps

theorem acceptResult_keeps {q₀ : State} {s : State} (p : Nat) (k : Nat) (x : EStream) (r : ResRec) (hK : Keeps q₀ s) :
    Keeps q₀ (acceptResult s p k x r) := by
  unfold acceptResult
  repeat' first
    | with_reducible assumption
    | (refine Keeps.ofEq (by with_reducible assumption) ?_)
    | with_reducible apply lateEvent_keeps
    | with_reducible apply bump_keeps
    | with_reducible apply substitutionPulse_keeps
    | with_reducible apply putRecord_keeps
    | (with_reducible apply Keeps.ite <;> intro _)

theorem acceptAborted_keeps {q₀ : State} {s : State} (p : Nat) (r : ResRec) (hK : Keeps q₀ s) :
    Keeps q₀ (acceptAborted s p r) := by
  unfold acceptAborted
  repeat' first
    | with_reducible assumption
    | (refine Keeps.ofEq (by with_reducible assumption) ?_)
    | with_reducible apply substitutionPulse_keeps
    | with_reducible apply putRecord_keeps
    | with_reducible apply bump_keeps

theorem doRecordAccept_keeps {q₀ : State} (port : Nat) {s : State} (hK : Keeps q₀ s) :
    Keeps q₀ (doRecordAccept port s) := by
  unfold doRecordAccept
  repeat' first
    | with_reducible assumption
    | (refine Keeps.ofEq (by with_reducible assumption) ?_)
    | with_reducible apply acceptAborted_keeps
    | with_reducible apply acceptResult_keeps
    | (with_reducible apply Keeps.ite <;> intro _)
    | split

theorem doEgressSlot_keeps {q₀ : State} (port : Nat) (found : EccFind) {s : State} (hK : Keeps q₀ s) :
    Keeps q₀ (doEgressSlot port found s) := by
  unfold doEgressSlot
  repeat' first
    | with_reducible assumption
    | (refine Keeps.ofEq (by with_reducible assumption) ?_)
    | with_reducible apply bump_keeps
    | with_reducible apply setEport_keeps
    | with_reducible apply fifoEcc_keeps
    | (with_reducible apply Keeps.ite <;> intro _)
    | split
    | dsimp only

theorem cmdEgressStart_keeps {q₀ : State} (h : CmdHdr) (channel : Nat) (r : Nat) {s : State} (hK : Keeps q₀ s) :
    Keeps q₀ (cmdEgressStart h channel r s).1 := by
  unfold cmdEgressStart
  repeat' first
    | with_reducible assumption
    | (refine Keeps.ofEq (by with_reducible assumption) ?_)
    | with_reducible apply refuseAt_keeps
    | with_reducible apply fetchEntry_keeps
    | with_reducible apply refuse_keeps
    | with_reducible apply okDone_keeps
    | with_reducible apply setEport_keeps
    | (with_reducible apply Keeps.iteFst <;> intro _)
    | split

theorem cmdEgressStop_keeps {q₀ : State} (port : Nat) (r : Nat) {s : State} (hK : Keeps q₀ s) :
    Keeps q₀ (cmdEgressStop port r s).1 := by
  unfold cmdEgressStop
  repeat' first
    | with_reducible assumption
    | (refine Keeps.ofEq (by with_reducible assumption) ?_)
    | with_reducible apply refuse_keeps
    | with_reducible apply refuseAt_keeps
    | with_reducible apply okWith_keeps
    | with_reducible apply bump_keeps
    | with_reducible apply setEport_keeps
    | (with_reducible apply Keeps.iteFst <;> intro _)

theorem cmdEgressUrunClear_keeps {q₀ : State} (port : Nat) (r : Nat) {s : State} (hK : Keeps q₀ s) :
    Keeps q₀ (cmdEgressUrunClear port r s).1 := by
  unfold cmdEgressUrunClear
  repeat' first
    | with_reducible assumption
    | (refine Keeps.ofEq (by with_reducible assumption) ?_)
    | with_reducible apply refuse_keeps
    | with_reducible apply refuseAt_keeps
    | with_reducible apply okWith_keeps
    | with_reducible apply setEport_keeps
    | (with_reducible apply Keeps.iteFst <;> intro _)

end Sys2Proof.Machine
end

