-- ==== Sys2Proof/Laws/KeepsPower.lean ====
section
/-! SUPPORT. Every operation of Machine/Power.lean keeps the queue and the invariant. -/

namespace Sys2Proof.Machine

open Sys2Proof

theorem drawTokens_keeps {q₀ : State} {s : State} (g : Nat) (p : Purse) (c : Nat) (hK : Keeps q₀ s) :
    Keeps q₀ (drawTokens s g p c) := by
  unfold drawTokens
  repeat' first
    | with_reducible assumption
    | (refine Keeps.ofEq (by with_reducible assumption) ?_)
    | (with_reducible apply Keeps.ite <;> intro _)
    | (refine Keeps.upd ?_ rfl rfl rfl rfl; with_reducible assumption)

theorem drawAll_keeps {q₀ : State} {s : State} (ds : List ((Nat × Nat) × Purse × Nat)) (hK : Keeps q₀ s) :
    Keeps q₀ (drawAll s ds) :=
  Keeps.foldl (fun _ _ h => drawTokens_keeps _ _ _ h) hK

theorem throttleEvent_keeps {q₀ : State} {s : State} (down : Bool) (hK : Keeps q₀ s) :
    Keeps q₀ (throttleEvent s down) := by
  unfold throttleEvent
  repeat' first
    | with_reducible assumption
    | (refine Keeps.ofEq (by with_reducible assumption) ?_)
    | with_reducible apply postEvent_keeps
    | (with_reducible apply Keeps.ite <;> intro _)
    | (refine Keeps.upd ?_ rfl rfl rfl rfl; with_reducible assumption)

theorem capUnmet_keeps {q₀ : State} {s : State} (before : PowerUnit) (powerMw : Nat) (hK : Keeps q₀ s) :
    Keeps q₀ (capUnmet s before powerMw) := by
  unfold capUnmet
  repeat' first
    | with_reducible assumption
    | (refine Keeps.ofEq (by with_reducible assumption) ?_)
    | with_reducible apply postEvent_keeps
    | (with_reducible apply Keeps.ite <;> intro _)
    | (refine Keeps.upd ?_ rfl rfl rfl rfl; first | with_reducible assumption | (refine Keeps.ofEq (by with_reducible assumption) ?_) | with_reducible apply postEvent_keeps)
    | split
    | dsimp only

theorem doBudgetEpochStart_keeps {q₀ : State} (powerMw : Nat) {s : State} (hK : Keeps q₀ s) :
    Keeps q₀ (doBudgetEpochStart powerMw s) := by
  unfold doBudgetEpochStart
  repeat' first
    | with_reducible assumption
    | (refine Keeps.ofEq (by with_reducible assumption) ?_)
    | with_reducible apply advanceTo_keeps
    | with_reducible apply capUnmet_keeps
    | with_reducible apply throttleEvent_keeps
    | (with_reducible apply Keeps.ite <;> intro _)
    | (refine Keeps.upd ?_ rfl rfl rfl rfl; first | with_reducible assumption | (refine Keeps.ofEq (by with_reducible assumption) ?_) | with_reducible apply advanceTo_keeps)

theorem cmdPowerCapSet_keeps {q₀ : State} (watts : Nat) (r : Nat) {s : State} (hK : Keeps q₀ s) :
    Keeps q₀ (cmdPowerCapSet watts r s).1 := by
  unfold cmdPowerCapSet
  repeat' first
    | with_reducible assumption
    | (refine Keeps.ofEq (by with_reducible assumption) ?_)
    | with_reducible apply refuseAt_keeps
    | with_reducible apply okDone_keeps
    | (with_reducible apply Keeps.iteFst <;> intro _)
    | (refine Keeps.upd ?_ rfl rfl rfl rfl; with_reducible assumption)

theorem cmdPowerStatus_keeps {q₀ : State} {s : State} (hK : Keeps q₀ s) :
    Keeps q₀ (cmdPowerStatus s).1 := by
  unfold cmdPowerStatus
  repeat' first
    | with_reducible assumption
    | (refine Keeps.ofEq (by with_reducible assumption) ?_)
    | with_reducible apply okWith_keeps

theorem thermCheck_keeps {q₀ : State} {s : State} (hK : Keeps q₀ s) :
    Keeps q₀ (thermCheck s) := by
  unfold thermCheck
  repeat' first
    | with_reducible assumption
    | (refine Keeps.ofEq (by with_reducible assumption) ?_)
    | with_reducible apply postEvent_keeps
    | (with_reducible apply Keeps.ite <;> intro _)
    | (refine Keeps.upd ?_ rfl rfl rfl rfl; with_reducible assumption)

theorem doThermalSensorRead_keeps {q₀ : State} (sensor : Nat) (temp : Int) {s : State} (hK : Keeps q₀ s) :
    Keeps q₀ (doThermalSensorRead sensor temp s) := by
  unfold doThermalSensorRead
  repeat' first
    | with_reducible assumption
    | (refine Keeps.ofEq (by with_reducible assumption) ?_)
    | with_reducible apply thermCheck_keeps
    | (with_reducible apply Keeps.ite <;> intro _)
    | (refine Keeps.upd ?_ rfl rfl rfl rfl; with_reducible assumption)

theorem cmdThermalSet_keeps {q₀ : State} (th : Nat) (r : Nat) {s : State} (hK : Keeps q₀ s) :
    Keeps q₀ (cmdThermalSet th r s).1 := by
  unfold cmdThermalSet
  repeat' first
    | with_reducible assumption
    | (refine Keeps.ofEq (by with_reducible assumption) ?_)
    | with_reducible apply refuseAt_keeps
    | with_reducible apply okDone_keeps
    | with_reducible apply thermCheck_keeps
    | (with_reducible apply Keeps.iteFst <;> intro _)
    | (refine Keeps.upd ?_ rfl rfl rfl rfl; with_reducible assumption)

theorem releasePins_keeps {q₀ : State} {s : State} (hK : Keeps q₀ s) :
    Keeps q₀ (releasePins s) := by
  unfold releasePins
  repeat' first
    | with_reducible assumption
    | (refine Keeps.ofEq (by with_reducible assumption) ?_)
    | (refine Keeps.upd ?_ rfl rfl rfl rfl; with_reducible assumption)

theorem doThermalTrip_keeps {q₀ : State} (sensor : Nat) (temp : Int) {s : State} (hK : Keeps q₀ s) :
    Keeps q₀ (doThermalTrip sensor temp s) := by
  unfold doThermalTrip
  repeat' first
    | with_reducible assumption
    | (refine Keeps.ofEq (by with_reducible assumption) ?_)
    | with_reducible apply releasePins_keeps
    | with_reducible apply updateDoubt_keeps
    | (with_reducible apply Keeps.ite <;> intro _)
    | (refine Keeps.upd ?_ rfl rfl rfl rfl; first | with_reducible assumption | (refine Keeps.ofEq (by with_reducible assumption) ?_) | with_reducible apply releasePins_keeps)

theorem cmdSeasonSet_keeps {q₀ : State} (season : Nat) (r : Nat) {s : State} (hK : Keeps q₀ s) :
    Keeps q₀ (cmdSeasonSet season r s).1 := by
  unfold cmdSeasonSet
  repeat' first
    | with_reducible assumption
    | (refine Keeps.ofEq (by with_reducible assumption) ?_)
    | with_reducible apply refuse_keeps
    | with_reducible apply refuseAt_keeps
    | (with_reducible apply Keeps.iteFst <;> intro _)
    | (refine Keeps.upd ?_ rfl rfl rfl rfl; with_reducible assumption)

theorem doSeasonChangeDone_keeps {q₀ : State} {s : State} (hK : Keeps q₀ s) :
    Keeps q₀ (doSeasonChangeDone s) := by
  unfold doSeasonChangeDone
  repeat' first
    | with_reducible assumption
    | (refine Keeps.ofEq (by with_reducible assumption) ?_)
    | with_reducible apply answer_keeps
    | (with_reducible apply Keeps.ite <;> intro _)
    | (refine Keeps.upd ?_ rfl rfl rfl rfl; first | with_reducible assumption | (refine Keeps.ofEq (by with_reducible assumption) ?_) | with_reducible apply answer_keeps)
    | split

/-- A clock bit other than that of AON, or one that is set, leaves AON running. -/
theorem setIsland_keeps {q₀ : State} {s : State} (i : Nat) (on : Bool) (hi : i ≠ 0 ∨ on = true) (h : Keeps q₀ s) :
    Keeps q₀ (setIsland s i on) := by
  refine h.change rfl h.inv.mem h.inv.marks h.inv.events h.inv.history h.inv.traces ?_ (.refl _)
  have ha := h.inv.aon
  show (if on = true then s.islands ||| BitVec.ofNat 55 (2 ^ i) else s.islands &&& ~~~BitVec.ofNat 55 (2 ^ i)).getLsbD 0 = true
  split
  · simp only [BitVec.getLsbD_or, ha, Bool.true_or]
  · rename_i hon
    have hi : i ≠ 0 := hi.resolve_right hon
    have : (2 ^ i).testBit 0 = false := by
      rw [Nat.testBit_two_pow]
      simpa using hi
    simp only [BitVec.getLsbD_and, ha, BitVec.getLsbD_not, BitVec.getLsbD_ofNat, this]
    decide

theorem settleIsland_keeps {q₀ : State} {s : State} (island : Nat) (hK : Keeps q₀ s) :
    Keeps q₀ (settleIsland s island) := by
  unfold settleIsland
  repeat' first
    | with_reducible assumption
    | (refine Keeps.ofEq (by with_reducible assumption) ?_)
    | with_reducible apply settleReads_keeps
    | with_reducible apply Keeps.foldl
    | with_reducible apply Keeps.foldlFst
    | split
    | dsimp only
    | (intro _)

theorem stoppable_ne_zero {i : Nat} (h : stoppable i = true) : i ≠ 0 := by
  simp only [stoppable, Bool.and_eq_true, decide_eq_true_eq] at h
  omega

theorem cmdIslandStop_keeps {q₀ : State} (island r : Nat) {s : State} (h : Keeps q₀ s) :
    Keeps q₀ (cmdIslandStop island r s).1 := by
  unfold cmdIslandStop
  split
  · exact refuseAt_keeps _ _ h
  · split
    · exact refuseAt_keeps _ _ h
    · rename_i hst
      split
      · exact okDone_keeps h
      · split
        · exact refuse_keeps _ h
        · exact okDone_keeps (setIsland_keeps _ _ (.inl (stoppable_ne_zero (by simpa using hst)))
            (emitTrace_keeps _ _ _ _ _ _ (settleIsland_keeps _ h)))

theorem cmdIslandStart_keeps {q₀ : State} (island r : Nat) {s : State} (h : Keeps q₀ s) :
    Keeps q₀ (cmdIslandStart island r s).1 := by
  unfold cmdIslandStart
  repeat' first
    | with_reducible assumption
    | with_reducible apply refuseAt_keeps
    | with_reducible apply okDone_keeps
    | with_reducible apply emitTrace_keeps
    | exact setIsland_keeps _ _ (.inr rfl) h
    | split

end Sys2Proof.Machine
end

