-- ==== Sys2Proof/Laws/KeepsUnits.lean ====
section
/-! SUPPORT. Every operation of Machine/Units.lean keeps the queue and the invariant. -/

namespace Sys2Proof.Machine

open Sys2Proof

theorem unitTraceEnd_keeps {q₀ : State} {s : State} (c : Nat) (u : CoreUnit) (hK : Keeps q₀ s) :
    Keeps q₀ (unitTraceEnd s c u) := by
  unfold unitTraceEnd
  repeat' first
    | with_reducible assumption
    | (refine Keeps.ofEq (by with_reducible assumption) ?_)
    | with_reducible apply emitTrace_keeps
    | (refine Keeps.upd ?_ rfl rfl rfl rfl; with_reducible assumption)

theorem scrambleRows_keeps {q₀ : State} {s : State} (c : Nat) (rows : List (Nat × Nat)) (hK : Keeps q₀ s) :
    Keeps q₀ (scrambleRows s c rows) := by
  unfold scrambleRows
  repeat' first
    | with_reducible assumption
    | (refine Keeps.ofEq (by with_reducible assumption) ?_)
    | with_reducible apply scramble_keeps
    | with_reducible apply Keeps.foldl
    | with_reducible apply Keeps.foldlFst
    | split
    | dsimp only
    | (intro _)

theorem setUnit_keeps {q₀ : State} {s : State} (c : Nat) (u : Option CoreUnit) (hK : Keeps q₀ s) :
    Keeps q₀ (setUnit s c u) := by
  unfold setUnit
  repeat' first
    | with_reducible assumption
    | (refine Keeps.ofEq (by with_reducible assumption) ?_)
    | with_reducible apply setCore_keeps

end Sys2Proof.Machine
end

