-- ==== Sys2Proof/Laws/KeepsCoreOps.lean ====
section
/-! SUPPORT. Every operation of Machine/CoreOps.lean keeps the queue and the invariant. -/

namespace Sys2Proof.Machine

open Sys2Proof

theorem writeOut_keeps {q₀ : State} {s : State} (c : Nat) (t : TDesc) (l : List OutEl) (hK : Keeps q₀ s) :
    Keeps q₀ (writeOut s c t l).1 := by
  unfold writeOut
  repeat' first
    | with_reducible assumption
    | (refine Keeps.ofEq (by with_reducible assumption) ?_)
    | with_reducible apply storeCells_keeps

theorem emitOut_keeps {q₀ : State} {s : State} (x : OpCtx) (t : TDesc) (l : List OutEl) (hK : Keeps q₀ s) :
    Keeps q₀ (emitOut s x t l).1 := by
  unfold emitOut
  repeat' first
    | with_reducible assumption
    | (refine Keeps.ofEq (by with_reducible assumption) ?_)
    | with_reducible apply writeOut_keeps

end Sys2Proof.Machine
end

