-- ==== Sys2Proof/Laws/KeepsCoreRun.lean ====
section
/-! SUPPORT. Every operation of Machine/CoreRun.lean keeps the queue and the invariant. -/

namespace Sys2Proof.Machine

open Sys2Proof

theorem runPasses_keeps {q₀ : State} {s : State} (x : OpCtx) (parity : List Nat) (ps : List Pass) (hK : Keeps q₀ s) :
    Keeps q₀ (runPasses s x parity ps).1 := by
  unfold runPasses
  repeat' first
    | with_reducible assumption
    | (refine Keeps.ofEq (by with_reducible assumption) ?_)
    | with_reducible apply writeOut_keeps
    | with_reducible apply setCore_keeps

theorem runMatmul_keeps {q₀ : State} {s : State} (x : OpCtx) (parity : List Nat) (hK : Keeps q₀ s) :
    Keeps q₀ (runMatmul s x parity).1 := by
  unfold runMatmul
  repeat' first
    | with_reducible assumption
    | (refine Keeps.ofEq (by with_reducible assumption) ?_)
    | with_reducible apply runPasses_keeps

theorem runConv_keeps {q₀ : State} {s : State} (x : OpCtx) (parity : List Nat) (hK : Keeps q₀ s) :
    Keeps q₀ (runConv s x parity).1 := by
  unfold runConv
  repeat' first
    | with_reducible assumption
    | (refine Keeps.ofEq (by with_reducible assumption) ?_)
    | with_reducible apply runPasses_keeps

theorem runDwconv_keeps {q₀ : State} {s : State} (x : OpCtx) (hK : Keeps q₀ s) :
    Keeps q₀ (runDwconv s x).1 := by
  unfold runDwconv
  repeat' first
    | with_reducible assumption
    | (refine Keeps.ofEq (by with_reducible assumption) ?_)
    | with_reducible apply emitOut_keeps

theorem runPool_keeps {q₀ : State} {s : State} (x : OpCtx) (hK : Keeps q₀ s) :
    Keeps q₀ (runPool s x).1 := by
  unfold runPool
  repeat' first
    | with_reducible assumption
    | (refine Keeps.ofEq (by with_reducible assumption) ?_)
    | with_reducible apply emitOut_keeps

theorem runEltwise_keeps {q₀ : State} {s : State} (x : OpCtx) (hK : Keeps q₀ s) :
    Keeps q₀ (runEltwise s x).1 := by
  unfold runEltwise
  repeat' first
    | with_reducible assumption
    | (refine Keeps.ofEq (by with_reducible assumption) ?_)
    | with_reducible apply emitOut_keeps

theorem runRequant_keeps {q₀ : State} {s : State} (x : OpCtx) (hK : Keeps q₀ s) :
    Keeps q₀ (runRequant s x).1 := by
  unfold runRequant
  repeat' first
    | with_reducible assumption
    | (refine Keeps.ofEq (by with_reducible assumption) ?_)
    | with_reducible apply emitOut_keeps

theorem runConcat_keeps {q₀ : State} {s : State} (x : OpCtx) (hK : Keeps q₀ s) :
    Keeps q₀ (runConcat s x).1 := by
  unfold runConcat
  repeat' first
    | with_reducible assumption
    | (refine Keeps.ofEq (by with_reducible assumption) ?_)
    | with_reducible apply emitOut_keeps

theorem runResize_keeps {q₀ : State} {s : State} (x : OpCtx) (hK : Keeps q₀ s) :
    Keeps q₀ (runResize s x).1 := by
  unfold runResize
  repeat' first
    | with_reducible assumption
    | (refine Keeps.ofEq (by with_reducible assumption) ?_)
    | with_reducible apply emitOut_keeps

theorem runSoftmax_keeps {q₀ : State} {s : State} (x : OpCtx) (hK : Keeps q₀ s) :
    Keeps q₀ (runSoftmax s x).1 := by
  unfold runSoftmax
  repeat' first
    | with_reducible assumption
    | (refine Keeps.ofEq (by with_reducible assumption) ?_)
    | with_reducible apply emitOut_keeps

theorem runNorm_keeps {q₀ : State} {s : State} (x : OpCtx) (hK : Keeps q₀ s) :
    Keeps q₀ (runNorm s x).1 := by
  unfold runNorm
  repeat' first
    | with_reducible assumption
    | (refine Keeps.ofEq (by with_reducible assumption) ?_)
    | with_reducible apply emitOut_keeps

theorem runArgmax_keeps {q₀ : State} {s : State} (x : OpCtx) (hK : Keeps q₀ s) :
    Keeps q₀ (runArgmax s x).1 := by
  unfold runArgmax
  repeat' first
    | with_reducible assumption
    | (refine Keeps.ofEq (by with_reducible assumption) ?_)
    | with_reducible apply emitOut_keeps

theorem runTopk_keeps {q₀ : State} {s : State} (x : OpCtx) (hK : Keeps q₀ s) :
    Keeps q₀ (runTopk s x).1 := by
  unfold runTopk
  repeat' first
    | with_reducible assumption
    | (refine Keeps.ofEq (by with_reducible assumption) ?_)
    | with_reducible apply emitOut_keeps

theorem readGrans_keeps {q₀ : State} {s : State} (dom : Nat) (gs : List Nat) (hK : Keeps q₀ s) :
    Keeps q₀ (readGrans s dom gs) := by
  unfold readGrans
  repeat' first
    | with_reducible assumption
    | (refine Keeps.ofEq (by with_reducible assumption) ?_)
    | with_reducible apply readLocal_keeps
    | with_reducible apply Keeps.foldl
    | with_reducible apply Keeps.foldlFst
    | split
    | dsimp only
    | (intro _)

theorem cropHeaders_keeps {q₀ : State} (s : State) {s1 : State} (dom : Nat) (hdr : Nat → Nat) (l : List Nat)
    (h : Keeps q₀ s1) : Keeps q₀ (cropHeaders s s1 dom hdr l).1 :=
  Keeps.foldlFst (fun _ _ hq => readLocal_keeps _ _ _ hq) h

theorem runCrop_keeps {q₀ : State} {s : State} (x : OpCtx) (u : CoreUnit) (h : Keeps q₀ s) :
    Keeps q₀ (runCrop s x u).1 := by
  unfold runCrop
  dsimp only
  exact putBytes_keeps _ _ _ (emitOut_keeps _ _ _
    (cropHeaders_keeps _ _ _ _ (readGrans_keeps _ _ (readLocal_keeps _ _ _ h))))

end Sys2Proof.Machine
end

