-- ==== Sys2Proof/Laws/KeepsVector.lean ====
section
/-! SUPPORT. Every operation of Machine/Vector.lean keeps the queue and the invariant. -/

namespace Sys2Proof.Machine

open Sys2Proof

/-! ### Vector programs: the state inside a run -/

@[simp] theorem setVReg_s (v : VRun) (k : Nat) (bs : List Byte) : (setVReg v k bs).s = v.s := rfl
@[simp] theorem setPoison_s (v : VRun) (k : Nat) (b : Bool) : (setPoison v k b).s = v.s := rfl
@[simp] theorem vSats_s (v : VRun) (w : Nat) (l : List (Int × Nat)) : (vSats v w l).s = v.s := rfl

@[simp] theorem vPoison_s (v : VRun) (w : Nat) : (vPoison v w).s = v.s := by
  have key : ∀ (l : List Nat) (f : Nat → Bool) (u : VRun), (l.foldl (fun v k => setPoison v k (f k)) u).s = u.s := by
    intro l f
    induction l with
    | nil => intro u; rfl
    | cons a l ih => intro u; exact (ih _).trans (setPoison_s _ _ _)
  exact key _ _ v

@[simp] theorem vPut_s (v : VRun) (w : Nat) (l : List (Int × Nat)) : (vPut v w l).s = v.s := by simp [vPut]
@[simp] theorem vPutPair_s (v : VRun) (w : Nat) (l : List (Int × Nat)) : (vPutPair v w l).s = v.s := by simp [vPutPair]
@[simp] theorem vPutTwo_s (v : VRun) (w : Nat) (a b : List Int) : (vPutTwo v w a b).s = v.s := by simp [vPutTwo]
@[simp] theorem vCmp_s (v : VRun) (w : Nat) : (vCmp v w).s = v.s := rfl
@[simp] theorem vSel_s (v : VRun) (w : Nat) : (vSel v w).s = v.s := by simp [vSel]

theorem vOutside_keeps {q₀ : State} (c issue work : Nat) {v : VRun} (h : Keeps q₀ v.s) :
    Keeps q₀ (vOutside c issue work v).s := by
  unfold vOutside
  exact Keeps.ite (fun _ => postEvent_keeps _ _ _ _ h) (fun _ => h)

theorem vLd_keeps {q₀ : State} (x : OpCtx) (work : Nat) {v : VRun} (w : Nat) (h : Keeps q₀ v.s) :
    Keeps q₀ (vLd x work v w).s := by
  unfold vLd vLoaded
  dsimp only
  split
  · exact h
  · exact vOutside_keeps _ _ _ h

theorem vSt_keeps {q₀ : State} (x : OpCtx) (work : Nat) {v : VRun} (w : Nat) (h : Keeps q₀ v.s) :
    Keeps q₀ (vSt x work v w).s := by
  unfold vSt
  dsimp only
  split
  · exact putBytes_keeps _ _ _ h
  · exact vOutside_keeps _ _ _ h

theorem vLut_keeps {q₀ : State} (x : OpCtx) (work : Nat) {v : VRun} (w : Nat) (h : Keeps q₀ v.s) :
    Keeps q₀ (vLut x work v w).s := by
  unfold vLut
  extract_lets a n inside bad tbl l r v2 v3 v4
  have h3 : v3.s = v.s := vPut_s v2 w l
  have h4 : Keeps q₀ v4.s := by
    simp only [v4]
    split
    · rw [h3]; exact h
    · rw [setPoison_s, h3]; exact h
  split
  · exact h4
  · exact vOutside_keeps _ _ _ h4

theorem vExec_keeps {q₀ : State} (x : OpCtx) (work : Nat) {v : VRun} (w : Nat) (h : Keeps q₀ v.s) :
    Keeps q₀ (vExec x work v w).s := by
  unfold vExec
  have key : ∀ l, Keeps q₀ (vPut v w l).s := fun l => by rw [vPut_s]; exact h
  dsimp only
  split
  any_goals exact key _
  any_goals exact vLd_keeps _ _ _ h
  any_goals exact vSt_keeps _ _ _ h
  any_goals exact vLut_keeps _ _ _ h
  any_goals (simp only [vPut_s, vPutPair_s, vPutTwo_s, vCmp_s, vSel_s]; exact h)
  split
  · rw [vPut_s]; exact h
  · exact h

theorem vTimes_keeps {q₀ : State} (x : OpCtx) {v : VRun} (w : Nat) (h : Keeps q₀ v.s) :
    Keeps q₀ (vTimes x v w).1.s := by
  unfold vTimes
  dsimp only
  split
  · exact h
  · split
    · exact h
    · exact h.upd rfl rfl rfl rfl

theorem setPoisons_s (ks : List Nat) (v : VRun) : (ks.foldl (fun v k => setPoison v k true) v).s = v.s := by
  induction ks generalizing v with
  | nil => rfl
  | cons k ks ih => exact (ih _).trans (setPoison_s _ _ _)

theorem vEffect_keeps {q₀ : State} (x : OpCtx) (work : Nat) {v : VRun} (w : Nat) (h : Keeps q₀ v.s) :
    Keeps q₀ (vEffect x work v w).s := by
  unfold vEffect
  dsimp only
  split
  · rw [setPoisons_s]; exact vExec_keeps _ _ _ h
  · exact vExec_keeps _ _ _ h

theorem vStep_keeps {q₀ : State} (x : OpCtx) (work : Nat) (prog : List Byte) (t : Nat) {v : VRun} (h : Keeps q₀ v.s) :
    Keeps q₀ (vStep x work prog t v).s := by
  unfold vStep
  dsimp only
  split
  · exact h
  · exact vTimes_keeps _ _ h
  · exact vEffect_keeps _ _ _ h

theorem vLoop_keeps {q₀ : State} (x : OpCtx) (work : Nat) (prog : List Byte) (n : Nat) {v : VRun}
    (h : Keeps q₀ v.s) : Keeps q₀ (vLoop x work prog n v).s := by
  induction n generalizing v with
  | zero => exact h
  | succ n ih =>
    unfold vLoop
    split
    · exact h
    · dsimp only
      split
      · exact postEvent_keeps _ _ _ _ h
      · exact ih (vStep_keeps _ _ _ _ h)

theorem runVprog_keeps {q₀ : State} {s : State} (x : OpCtx) (work : Nat) (h : Keeps q₀ s) :
    Keeps q₀ (runVprog s x work).1 := by
  unfold runVprog
  exact setCore_keeps _ _ (vLoop_keeps _ _ _ _ h)

theorem runOp_keeps {q₀ : State} {s : State} (c : Nat) (u : CoreUnit) (o : CoreOp) (limit : Option Nat) (parity : List Nat) (hK : Keeps q₀ s) :
    Keeps q₀ (runOp s c u o limit parity).1 := by
  unfold runOp
  repeat' first
    | with_reducible assumption
    | (refine Keeps.ofEq (by with_reducible assumption) ?_)
    | with_reducible apply runMatmul_keeps
    | with_reducible apply runConv_keeps
    | with_reducible apply runDwconv_keeps
    | with_reducible apply runPool_keeps
    | with_reducible apply runEltwise_keeps
    | with_reducible apply runRequant_keeps
    | with_reducible apply runConcat_keeps
    | with_reducible apply runResize_keeps
    | with_reducible apply runSoftmax_keeps
    | with_reducible apply runNorm_keeps
    | with_reducible apply runArgmax_keeps
    | with_reducible apply runTopk_keeps
    | with_reducible apply runCrop_keeps
    | with_reducible apply runVprog_keeps
    | split

end Sys2Proof.Machine
end

