-- ==== Sys2Proof/Laws/KeepsPool.lean ====
section
/-! SUPPORT. Every operation of Machine/Pool.lean keeps the queue and the invariant. -/

namespace Sys2Proof.Machine

open Sys2Proof

theorem endOp_keeps {q₀ : State} (c : Nat) {su : State × CoreUnit} (o : CoreOp) (h : Keeps q₀ su.1) :
    Keeps q₀ (endOp c su o).1 :=
  scrambleRows_keeps _ _ (runOp_keeps _ _ _ _ _ (.upd h rfl rfl rfl rfl))

theorem coreStop_keeps {q₀ : State} {s : State} (c : Nat) (u : CoreUnit) (hK : Keeps q₀ s) :
    Keeps q₀ (coreStop s c u).1 := by
  unfold coreStop
  repeat' first
    | with_reducible assumption
    | (refine Keeps.ofEq (by with_reducible assumption) ?_)
    | with_reducible apply endOp_keeps
    | with_reducible apply Keeps.foldl
    | with_reducible apply Keeps.foldlFst

theorem coreCounts_keeps {q₀ : State} {s : State} (c : Nat) (u : CoreUnit) (hK : Keeps q₀ s) :
    Keeps q₀ (coreCounts s c u) := by
  unfold coreCounts
  repeat' first
    | with_reducible assumption
    | (refine Keeps.ofEq (by with_reducible assumption) ?_)
    | with_reducible apply bump_keeps

theorem closeUnit_keeps {q₀ : State} {s : State} (c : Nat) (u : CoreUnit) (hK : Keeps q₀ s) :
    Keeps q₀ (closeUnit s c u) := by
  unfold closeUnit
  repeat' first
    | with_reducible assumption
    | (refine Keeps.ofEq (by with_reducible assumption) ?_)
    | with_reducible apply setUnit_keeps
    | with_reducible apply unitTraceEnd_keeps
    | with_reducible apply coreCounts_keeps
    | with_reducible apply travelMismatch_keeps

theorem abandonCoreNode_keeps {q₀ : State} {s : State} (c : Nat) (u : CoreUnit) (st : Status) (hK : Keeps q₀ s) :
    Keeps q₀ (abandonCoreNode s c u st) := by
  unfold abandonCoreNode
  repeat' first
    | with_reducible assumption
    | (refine Keeps.ofEq (by with_reducible assumption) ?_)
    | with_reducible apply coreStop_keeps
    | with_reducible apply closeUnit_keeps
    | with_reducible apply setUnit_keeps
    | (with_reducible apply Keeps.ite <;> intro _)

theorem mapWindow_keeps {q₀ : State} {s : State} (flow : Nat) (p : PItem → PItem) (hK : Keeps q₀ s) :
    Keeps q₀ (mapWindow s flow p) := by
  unfold mapWindow
  repeat' first
    | with_reducible assumption
    | (refine Keeps.ofEq (by with_reducible assumption) ?_)
    | with_reducible apply setFlow_keeps
    | split

theorem signalPool_keeps {q₀ : State} {s : State} (flow : Nat) (acc : Nat) (c : Nat) (post : Option PostVal) (st : Status) (hK : Keeps q₀ s) :
    Keeps q₀ (signalPool s flow acc c post st) := by
  unfold signalPool
  repeat' first
    | with_reducible assumption
    | (refine Keeps.ofEq (by with_reducible assumption) ?_)
    | with_reducible apply mapWindow_keeps

theorem itemBad_keeps {q₀ : State} {s : State} (flow : Nat) (st : Status) (seq : Nat) (hK : Keeps q₀ s) :
    Keeps q₀ (itemBad s flow st seq) := by
  unfold itemBad
  repeat' first
    | with_reducible assumption
    | (refine Keeps.ofEq (by with_reducible assumption) ?_)
    | with_reducible apply raiseDoubt_keeps

theorem poolExcess_keeps {q₀ : State} {s : State} (flow : Nat) (f : Flow) (fr : Nat) (count : Nat) (hK : Keeps q₀ s) :
    Keeps q₀ (poolExcess s flow f fr count) := by
  unfold poolExcess
  repeat' first
    | with_reducible assumption
    | (refine Keeps.ofEq (by with_reducible assumption) ?_)
    | with_reducible apply raiseDoubt_keeps
    | with_reducible apply setFlow_keeps
    | (with_reducible apply Keeps.ite <;> intro _)

theorem acceptItem_keeps {q₀ : State} {s : State} (flow : Nat) (f : Flow) (x : Submission) (hK : Keeps q₀ s) :
    Keeps q₀ (acceptItem s flow f x) := by
  unfold acceptItem
  repeat' first
    | with_reducible assumption
    | (refine Keeps.ofEq (by with_reducible assumption) ?_)
    | with_reducible apply setFlow_keeps
    | with_reducible apply bump_keeps
    | with_reducible apply poolExcess_keeps
    | with_reducible apply itemBad_keeps
    | (with_reducible apply Keeps.ite <;> intro _)
    | (refine Keeps.upd ?_ rfl rfl rfl rfl; first | with_reducible assumption | (refine Keeps.ofEq (by with_reducible assumption) ?_) | with_reducible apply setFlow_keeps | with_reducible apply bump_keeps | with_reducible apply poolExcess_keeps)

theorem doItemAccept_keeps {q₀ : State} {s : State} (hK : Keeps q₀ s) :
    Keeps q₀ (doItemAccept s) := by
  unfold doItemAccept
  repeat' first
    | with_reducible assumption
    | (refine Keeps.ofEq (by with_reducible assumption) ?_)
    | with_reducible apply itemBad_keeps
    | with_reducible apply acceptItem_keeps
    | (with_reducible apply Keeps.ite <;> intro _)
    | (refine Keeps.upd ?_ rfl rfl rfl rfl; first | with_reducible assumption | (refine Keeps.ofEq (by with_reducible assumption) ?_) | with_reducible apply itemBad_keeps | with_reducible apply acceptItem_keeps)
    | split
    | dsimp only

theorem startCopy_keeps {q₀ : State} {s : State} (flow : Nat) (f : Flow) (i : PItem) (c : Nat) (hK : Keeps q₀ s) :
    Keeps q₀ (startCopy s flow f i c) := by
  unfold startCopy
  repeat' first
    | with_reducible assumption
    | (refine Keeps.ofEq (by with_reducible assumption) ?_)
    | with_reducible apply drawTokens_keeps
    | with_reducible apply setUnit_keeps
    | with_reducible apply setFlow_keeps
    | with_reducible apply bump_keeps
    | (with_reducible apply Keeps.ite <;> intro _)

theorem doItemDispatch_keeps {q₀ : State} (graph : Nat) {s : State} (hK : Keeps q₀ s) :
    Keeps q₀ (doItemDispatch graph s) := by
  unfold doItemDispatch
  repeat' first
    | with_reducible assumption
    | (refine Keeps.ofEq (by with_reducible assumption) ?_)
    | with_reducible apply startCopy_keeps
    | (with_reducible apply Keeps.ite <;> intro _)
    | split

theorem dupMismatch_keeps {q₀ : State} {s : State} (flow : Nat) (f : Flow) (i : PItem) (hK : Keeps q₀ s) :
    Keeps q₀ (dupMismatch s flow f i) := by
  unfold dupMismatch
  repeat' first
    | with_reducible assumption
    | (refine Keeps.ofEq (by with_reducible assumption) ?_)
    | with_reducible apply postEvent_keeps
    | (with_reducible apply Keeps.ite <;> intro _)
    | split

theorem itemSlip_keeps {q₀ : State} {s : State} (flow : Nat) (f : Flow) (i : PItem) (hK : Keeps q₀ s) :
    Keeps q₀ (itemSlip s flow f i) := by
  unfold itemSlip
  repeat' first
    | with_reducible assumption
    | (refine Keeps.ofEq (by with_reducible assumption) ?_)
    | with_reducible apply setFlow_keeps
    | with_reducible apply failCond_keeps
    | with_reducible apply raiseDoubt_keeps
    | (with_reducible apply Keeps.ite <;> intro _)

theorem finishItem_keeps {q₀ : State} {s : State} (flow : Nat) (f : Flow) (i : PItem) (hK : Keeps q₀ s) :
    Keeps q₀ (finishItem s flow f i) := by
  unfold finishItem
  repeat' first
    | with_reducible assumption
    | (refine Keeps.ofEq (by with_reducible assumption) ?_)
    | with_reducible apply setFlow_keeps
    | with_reducible apply dupMismatch_keeps
    | with_reducible apply itemSlip_keeps
    | (with_reducible apply Keeps.ite <;> intro _)
    | (refine Keeps.upd ?_ rfl rfl rfl rfl; first | with_reducible assumption | (refine Keeps.ofEq (by with_reducible assumption) ?_) | with_reducible apply setFlow_keeps)

theorem takeSignal_keeps {q₀ : State} {s : State} (flow : Nat) (f : Flow) (i : PItem) (c : Nat) (hK : Keeps q₀ s) :
    Keeps q₀ (takeSignal s flow f i c) := by
  unfold takeSignal
  repeat' first
    | with_reducible assumption
    | (refine Keeps.ofEq (by with_reducible assumption) ?_)
    | with_reducible apply setFlow_keeps
    | with_reducible apply finishItem_keeps
    | (with_reducible apply Keeps.ite <;> intro _)

theorem doItemComplete_keeps {q₀ : State} (core : Nat) {s : State} (hK : Keeps q₀ s) :
    Keeps q₀ (doItemComplete core s) := by
  unfold doItemComplete
  repeat' first
    | with_reducible assumption
    | (refine Keeps.ofEq (by with_reducible assumption) ?_)
    | with_reducible apply takeSignal_keeps
    | (with_reducible apply Keeps.ite <;> intro _)
    | split

theorem releaseItem_keeps {q₀ : State} {s : State} (flow : Nat) (f : Flow) (i : PItem) (hK : Keeps q₀ s) :
    Keeps q₀ (releaseItem s flow f i) := by
  unfold releaseItem
  repeat' first
    | with_reducible assumption
    | (refine Keeps.ofEq (by with_reducible assumption) ?_)
    | with_reducible apply setFlow_keeps
    | with_reducible apply bump_keeps
    | with_reducible apply formatResult_keeps
    | (with_reducible apply Keeps.ite <;> intro _)

theorem doResultRelease_keeps {q₀ : State} (flow : Nat) {s : State} (hK : Keeps q₀ s) :
    Keeps q₀ (doResultRelease flow s) := by
  unfold doResultRelease
  repeat' first
    | with_reducible assumption
    | (refine Keeps.ofEq (by with_reducible assumption) ?_)
    | with_reducible apply releaseItem_keeps
    | (with_reducible apply Keeps.ite <;> intro _)
    | split

theorem takeSignals_keeps {q₀ : State} {s : State} (flow : Nat) (acc : Nat) (l : List ItemCopy) (hK : Keeps q₀ s) :
    Keeps q₀ (takeSignals s flow acc l) := by
  unfold takeSignals
  repeat' first
    | with_reducible assumption
    | (refine Keeps.ofEq (by with_reducible assumption) ?_)
    | with_reducible apply takeSignal_keeps
    | with_reducible apply Keeps.foldl
    | with_reducible apply Keeps.foldlFst
    | split
    | dsimp only
    | (intro _)

theorem stopFlow_keeps {q₀ : State} {s : State} (flow : Nat) (f : Flow) (hK : Keeps q₀ s) :
    Keeps q₀ (stopFlow s flow f) := by
  unfold stopFlow
  repeat' first
    | with_reducible assumption
    | (refine Keeps.ofEq (by with_reducible assumption) ?_)
    | with_reducible apply takeSignals_keeps
    | with_reducible apply setFlow_keeps
    | with_reducible apply Keeps.foldl
    | with_reducible apply Keeps.foldlFst
    | (refine Keeps.upd ?_ rfl rfl rfl rfl; first | with_reducible assumption | (refine Keeps.ofEq (by with_reducible assumption) ?_) | with_reducible apply takeSignals_keeps | with_reducible apply setFlow_keeps)
    | split
    | dsimp only
    | (intro _)

theorem stopPoolCore_keeps {q₀ : State} {s : State} (c : Nat) (hK : Keeps q₀ s) :
    Keeps q₀ (stopPoolCore s c) := by
  unfold stopPoolCore
  repeat' first
    | with_reducible assumption
    | (refine Keeps.ofEq (by with_reducible assumption) ?_)
    | with_reducible apply coreStop_keeps
    | with_reducible apply signalPool_keeps
    | with_reducible apply closeUnit_keeps
    | with_reducible apply setUnit_keeps
    | (with_reducible apply Keeps.ite <;> intro _)
    | split

theorem stopPool_keeps {q₀ : State} {s : State} (g : Nat) (cores : List Nat) (hK : Keeps q₀ s) :
    Keeps q₀ (stopPool s g cores) := by
  unfold stopPool
  repeat' first
    | with_reducible assumption
    | (refine Keeps.ofEq (by with_reducible assumption) ?_)
    | with_reducible apply stopFlow_keeps
    | with_reducible apply stopPoolCore_keeps
    | with_reducible apply Keeps.foldl
    | with_reducible apply Keeps.foldlFst
    | (refine Keeps.upd ?_ rfl rfl rfl rfl; with_reducible assumption)
    | split
    | dsimp only
    | (intro _)

theorem fenceUnit_keeps {q₀ : State} {s : State} (c : Nat) (u : CoreUnit) (hK : Keeps q₀ s) :
    Keeps q₀ (fenceUnit s c u) := by
  unfold fenceUnit
  repeat' first
    | with_reducible assumption
    | (refine Keeps.ofEq (by with_reducible assumption) ?_)
    | with_reducible apply dropNodeRun_keeps
    | with_reducible apply abandonCoreNode_keeps
    | with_reducible apply coreStop_keeps
    | with_reducible apply signalPool_keeps
    | with_reducible apply closeUnit_keeps
    | with_reducible apply setUnit_keeps
    | (with_reducible apply Keeps.ite <;> intro _)
    | split

theorem cmdCoreFence_keeps {q₀ : State} (core : Nat) (r : Nat) {s : State} (hK : Keeps q₀ s) :
    Keeps q₀ (cmdCoreFence core r s).1 := by
  unfold cmdCoreFence
  repeat' first
    | with_reducible assumption
    | (refine Keeps.ofEq (by with_reducible assumption) ?_)
    | with_reducible apply refuseAt_keeps
    | with_reducible apply setCore_keeps
    | with_reducible apply okDone_keeps
    | with_reducible apply fenceUnit_keeps
    | (with_reducible apply Keeps.iteFst <;> intro _)
    | split

theorem cmdCoreUnfence_keeps {q₀ : State} (core : Nat) (r : Nat) {s : State} (hK : Keeps q₀ s) :
    Keeps q₀ (cmdCoreUnfence core r s).1 := by
  unfold cmdCoreUnfence
  repeat' first
    | with_reducible assumption
    | (refine Keeps.ofEq (by with_reducible assumption) ?_)
    | with_reducible apply refuseAt_keeps
    | with_reducible apply refuse_keeps
    | with_reducible apply okDone_keeps
    | with_reducible apply setCore_keeps
    | (with_reducible apply Keeps.iteFst <;> intro _)

end Sys2Proof.Machine
end

