-- ==== Sys2Proof/Laws/KeepsSequencer.lean ====
section
/-! SUPPORT. Every operation of Machine/Sequencer.lean keeps the queue and the invariant. -/

namespace Sys2Proof.Machine

open Sys2Proof

theorem setLane_keeps {q₀ : State} {s : State} (g : Nat) (k : Nat) (l : Lane) (hK : Keeps q₀ s) :
    Keeps q₀ (setLane s g k l) := by
  unfold setLane
  repeat' first
    | with_reducible assumption
    | (refine Keeps.ofEq (by with_reducible assumption) ?_)
    | (refine Keeps.upd ?_ rfl rfl rfl rfl; with_reducible assumption)

theorem pruneLane_keeps {q₀ : State} {s : State} (g : Nat) (k : Nat) (hK : Keeps q₀ s) :
    Keeps q₀ (pruneLane s g k) := by
  unfold pruneLane
  repeat' first
    | with_reducible assumption
    | (refine Keeps.ofEq (by with_reducible assumption) ?_)
    | with_reducible apply setLane_keeps
    | split

theorem modNode_keeps {q₀ : State} {s : State} (n : Nat) (p : Node → Node) (hK : Keeps q₀ s) :
    Keeps q₀ (modNode s n p) := by
  unfold modNode
  repeat' first
    | with_reducible assumption
    | (refine Keeps.ofEq (by with_reducible assumption) ?_)
    | (refine Keeps.upd ?_ rfl rfl rfl rfl; with_reducible assumption)

theorem completeFlags_keeps {q₀ : State} {s : State} (x : Node) (f : Nat) (hK : Keeps q₀ s) :
    Keeps q₀ (completeFlags s x f) := by
  unfold completeFlags
  repeat' first
    | with_reducible assumption
    | (refine Keeps.ofEq (by with_reducible assumption) ?_)
    | with_reducible apply flagSet_keeps
    | with_reducible apply flagRelease_keeps
    | with_reducible apply Keeps.foldl
    | with_reducible apply Keeps.foldlFst
    | split
    | dsimp only
    | (intro _)

theorem abortFrame_keeps {q₀ : State} {s : State} (g : Nat) (k : Nat) (l : Lane) (f : Nat) (reason : Nat) (hK : Keeps q₀ s) :
    Keeps q₀ (abortFrame s g k l f reason) := by
  unfold abortFrame
  repeat' first
    | with_reducible assumption
    | (refine Keeps.ofEq (by with_reducible assumption) ?_)
    | with_reducible apply abortRecord_keeps
    | with_reducible apply Keeps.foldl
    | with_reducible apply Keeps.foldlFst
    | split
    | dsimp only
    | (intro _)

theorem skipFlags_keeps {q₀ : State} {s : State} (l : Lane) (f : Nat) (hK : Keeps q₀ s) :
    Keeps q₀ (skipFlags s l f) := by
  unfold skipFlags
  repeat' first
    | with_reducible assumption
    | (refine Keeps.ofEq (by with_reducible assumption) ?_)
    | with_reducible apply flagRelease_keeps
    | with_reducible apply Keeps.foldl
    | with_reducible apply Keeps.foldlFst
    | (with_reducible apply Keeps.ite <;> intro _)
    | split
    | dsimp only
    | (intro _)

theorem noticeAt_keeps {q₀ : State} {s : State} (g : Nat) (k : Nat) (x : Graph) (l : Lane) (hK : Keeps q₀ s) :
    Keeps q₀ (noticeAt s g k x l) := by
  unfold noticeAt
  repeat' first
    | with_reducible assumption
    | (refine Keeps.ofEq (by with_reducible assumption) ?_)
    | with_reducible apply abortFrame_keeps
    | with_reducible apply skipFlags_keeps
    | with_reducible apply setLane_keeps
    | (with_reducible apply Keeps.ite <;> intro _)

theorem laneFrameStart_keeps {q₀ : State} {s : State} (pipe : Nat) (cnt : Nat) (hK : Keeps q₀ s) :
    Keeps q₀ (laneFrameStart s pipe cnt) := by
  unfold laneFrameStart
  repeat' first
    | with_reducible assumption
    | (refine Keeps.ofEq (by with_reducible assumption) ?_)
    | with_reducible apply setLane_keeps
    | with_reducible apply Keeps.foldl
    | with_reducible apply Keeps.foldlFst
    | split
    | dsimp only
    | (intro _)

theorem pipeNotice_keeps {q₀ : State} {s : State} (pipe : Nat) (cnt : Nat) (hK : Keeps q₀ s) :
    Keeps q₀ (pipeNotice s pipe cnt) := by
  unfold pipeNotice
  repeat' first
    | with_reducible assumption
    | (refine Keeps.ofEq (by with_reducible assumption) ?_)
    | with_reducible apply noticeAt_keeps
    | with_reducible apply Keeps.foldl
    | with_reducible apply Keeps.foldlFst
    | split
    | dsimp only
    | (intro _)

theorem remoteNotice_keeps {q₀ : State} {s : State} (sem : Nat) (hK : Keeps q₀ s) :
    Keeps q₀ (remoteNotice s sem) := by
  unfold remoteNotice
  repeat' first
    | with_reducible assumption
    | (refine Keeps.ofEq (by with_reducible assumption) ?_)
    | with_reducible apply noticeAt_keeps
    | with_reducible apply Keeps.foldl
    | with_reducible apply Keeps.foldlFst
    | split
    | dsimp only
    | (intro _)

theorem signalEdge_keeps {q₀ : State} {s : State} (e : EdgeE) (g : Nat) (hK : Keeps q₀ s) :
    Keeps q₀ (signalEdge s e g) := by
  unfold signalEdge
  repeat' first
    | with_reducible assumption
    | (refine Keeps.ofEq (by with_reducible assumption) ?_)
    | with_reducible apply semSignalAt_keeps
    | with_reducible apply remoteNotice_keeps
    | with_reducible apply routePosted_keeps
    | (with_reducible apply Keeps.ite <;> intro _)

theorem applySemSignal_keeps {q₀ : State} (p : Packet) {s : State} (hK : Keeps q₀ s) :
    Keeps q₀ (applySemSignal p s) := by
  unfold applySemSignal
  repeat' first
    | with_reducible assumption
    | (refine Keeps.ofEq (by with_reducible assumption) ?_)
    | with_reducible apply semSignalRemote_keeps
    | with_reducible apply remoteNotice_keeps
    | (with_reducible apply Keeps.ite <;> intro _)

theorem doSemSignal_keeps {q₀ : State} (p : Packet) {s : State} (hK : Keeps q₀ s) :
    Keeps q₀ (doSemSignal p s) := by
  unfold doSemSignal
  repeat' first
    | with_reducible assumption
    | (refine Keeps.ofEq (by with_reducible assumption) ?_)
    | with_reducible apply serve_keeps
    | with_reducible apply applySemSignal_keeps

theorem completeEdges_keeps {q₀ : State} {s : State} (x : Node) (i : Nat) (hK : Keeps q₀ s) :
    Keeps q₀ (completeEdges s x i) := by
  unfold completeEdges
  repeat' first
    | with_reducible assumption
    | (refine Keeps.ofEq (by with_reducible assumption) ?_)
    | with_reducible apply bump_keeps
    | with_reducible apply signalEdge_keeps
    | with_reducible apply modNode_keeps
    | with_reducible apply Keeps.foldl
    | with_reducible apply Keeps.foldlFst
    | split
    | dsimp only
    | (intro _)

theorem slipCheck_keeps {q₀ : State} {s : State} (n : Nat) (x : Node) (rel : Nat) (f : Nat) (hK : Keeps q₀ s) :
    Keeps q₀ (slipCheck s n x rel f) := by
  unfold slipCheck
  repeat' first
    | with_reducible assumption
    | (refine Keeps.ofEq (by with_reducible assumption) ?_)
    | with_reducible apply modNode_keeps
    | with_reducible apply bump_keeps
    | with_reducible apply failCond_keeps
    | with_reducible apply raiseDoubt_keeps
    | (with_reducible apply Keeps.ite <;> intro _)

theorem completeNode_keeps {q₀ : State} {s : State} (n : Nat) (x : Node) (i : Nat) (rel : Nat) (f : Nat) (hK : Keeps q₀ s) :
    Keeps q₀ (completeNode s n x i rel f) := by
  unfold completeNode
  repeat' first
    | with_reducible assumption
    | (refine Keeps.ofEq (by with_reducible assumption) ?_)
    | with_reducible apply bump_keeps
    | with_reducible apply emitTrace_keeps
    | with_reducible apply slipCheck_keeps
    | with_reducible apply completeEdges_keeps
    | with_reducible apply completeFlags_keeps
    | with_reducible apply pruneLane_keeps

theorem takeStart_keeps {q₀ : State} {s : State} (n : Nat) (x : Node) (f : Nat) (hK : Keeps q₀ s) :
    Keeps q₀ (takeStart s n x f) := by
  unfold takeStart
  repeat' first
    | with_reducible assumption
    | (refine Keeps.ofEq (by with_reducible assumption) ?_)
    | with_reducible apply modNode_keeps
    | with_reducible apply setSem_keeps
    | with_reducible apply bump_keeps
    | with_reducible apply emitTrace_keeps
    | with_reducible apply Keeps.foldl
    | with_reducible apply Keeps.foldlFst
    | split
    | dsimp only
    | (intro _)

theorem noteOpenings_keeps {q₀ : State} {s : State} (g : Nat) (k : Nat) (rel : Nat) (hK : Keeps q₀ s) :
    Keeps q₀ (noteOpenings s g k rel) := by
  unfold noteOpenings
  repeat' first
    | with_reducible assumption
    | (refine Keeps.ofEq (by with_reducible assumption) ?_)
    | (refine Keeps.upd ?_ rfl rfl rfl rfl; with_reducible assumption)

theorem releaseIteration_keeps {q₀ : State} {s : State} (n : Nat) (x : Node) (l : Lane) (rel : Nat) (f : Nat) (hK : Keeps q₀ s) :
    Keeps q₀ (releaseIteration s n x l rel f) := by
  unfold releaseIteration
  repeat' first
    | with_reducible assumption
    | (refine Keeps.ofEq (by with_reducible assumption) ?_)
    | with_reducible apply noteOpenings_keeps
    | with_reducible apply setLane_keeps
    | with_reducible apply completeNode_keeps
    | with_reducible apply takeStart_keeps

theorem doSourceNotice_keeps {q₀ : State} (graph : Nat) (lane : Nat) {s : State} (hK : Keeps q₀ s) :
    Keeps q₀ (doSourceNotice graph lane s) := by
  unfold doSourceNotice
  repeat' first
    | with_reducible assumption
    | (refine Keeps.ofEq (by with_reducible assumption) ?_)
    | with_reducible apply releaseIteration_keeps
    | (with_reducible apply Keeps.ite <;> intro _)
    | split

theorem startUnit_keeps {q₀ : State} {s : State} (n : Nat) (x : Node) (f : Nat) (hK : Keeps q₀ s) :
    Keeps q₀ (startUnit s n x f) := by
  unfold startUnit
  repeat' first
    | with_reducible assumption
    | (refine Keeps.ofEq (by with_reducible assumption) ?_)
    | with_reducible apply setEngine_keeps
    | with_reducible apply setUnit_keeps
    | with_reducible apply setRunAt_keeps
    | split

theorem startNode_keeps {q₀ : State} {s : State} (n : Nat) (x : Node) (rel : Nat) (f : Nat) (hK : Keeps q₀ s) :
    Keeps q₀ (startNode s n x rel f) := by
  unfold startNode
  repeat' first
    | with_reducible assumption
    | (refine Keeps.ofEq (by with_reducible assumption) ?_)
    | with_reducible apply takeStart_keeps
    | with_reducible apply completeNode_keeps
    | with_reducible apply drawTokens_keeps
    | with_reducible apply modNode_keeps
    | with_reducible apply startUnit_keeps
    | (with_reducible apply Keeps.ite <;> intro _)
    | split

theorem doNodeStart_keeps {q₀ : State} (node : Nat) {s : State} (hK : Keeps q₀ s) :
    Keeps q₀ (doNodeStart node s) := by
  unfold doNodeStart
  repeat' first
    | with_reducible assumption
    | (refine Keeps.ofEq (by with_reducible assumption) ?_)
    | with_reducible apply startNode_keeps
    | (with_reducible apply Keeps.ite <;> intro _)
    | split

theorem recordNode_keeps {q₀ : State} {s : State} (n : Nat) (x : Node) (rel : Nat) (f : Nat) (hK : Keeps q₀ s) :
    Keeps q₀ (recordNode s n x rel f) := by
  unfold recordNode
  repeat' first
    | with_reducible assumption
    | (refine Keeps.ofEq (by with_reducible assumption) ?_)
    | with_reducible apply slipCheck_keeps
    | with_reducible apply completeFlags_keeps
    | with_reducible apply bump_keeps
    | with_reducible apply emitTrace_keeps

theorem doNodeComplete_keeps {q₀ : State} (node : Nat) {s : State} (hK : Keeps q₀ s) :
    Keeps q₀ (doNodeComplete node s) := by
  unfold doNodeComplete
  repeat' first
    | with_reducible assumption
    | (refine Keeps.ofEq (by with_reducible assumption) ?_)
    | with_reducible apply modNode_keeps
    | with_reducible apply completeNode_keeps
    | with_reducible apply recordNode_keeps
    | (with_reducible apply Keeps.ite <;> intro _)
    | split

theorem reportDeadlock_keeps {q₀ : State} {s : State} (p : WalkPath) (g : Nat) (hK : Keeps q₀ s) :
    Keeps q₀ (reportDeadlock s p g) := by
  unfold reportDeadlock
  repeat' first
    | with_reducible assumption
    | (refine Keeps.ofEq (by with_reducible assumption) ?_)
    | with_reducible apply modNode_keeps
    | with_reducible apply raiseDoubt_keeps
    | with_reducible apply Keeps.foldl
    | with_reducible apply Keeps.foldlFst
    | (with_reducible apply Keeps.ite <;> intro _)
    | split
    | dsimp only
    | (intro _)

theorem registerNode_keeps {q₀ : State} {s : State} (n : Nat) (x : Node) (bs : List Blocker) (hK : Keeps q₀ s) :
    Keeps q₀ (registerNode s n x bs) := by
  unfold registerNode
  repeat' first
    | with_reducible assumption
    | (refine Keeps.ofEq (by with_reducible assumption) ?_)
    | with_reducible apply bump_keeps
    | with_reducible apply modNode_keeps
    | with_reducible apply setSem_keeps
    | with_reducible apply Keeps.foldl
    | with_reducible apply Keeps.foldlFst
    | (with_reducible apply Keeps.ite <;> intro _)
    | split
    | dsimp only
    | (intro _)

theorem doDeadlockWalk_keeps {q₀ : State} (node : Nat) {s : State} (hK : Keeps q₀ s) :
    Keeps q₀ (doDeadlockWalk node s) := by
  unfold doDeadlockWalk
  repeat' first
    | with_reducible assumption
    | (refine Keeps.ofEq (by with_reducible assumption) ?_)
    | with_reducible apply registerNode_keeps
    | with_reducible apply reportDeadlock_keeps
    | split
    | dsimp only

theorem graphCheck_keeps {q₀ : State} {s : State} {graph r off : Nat} {allowed busy : Graph → Bool}
    {x : State × CmdRes} (hx : graphCheck s graph r off allowed busy = some x) (h : Keeps q₀ s) : Keeps q₀ x.1 := by
  have key : x.1 = s := by
    unfold graphCheck at hx
    repeat' split at hx
    all_goals first
      | (cases hx; rfl)
      | cases hx
  rw [key]
  exact h

theorem resetGraph_keeps {q₀ : State} {s : State} (g : Nat) (hK : Keeps q₀ s) :
    Keeps q₀ (resetGraph s g) := by
  unfold resetGraph
  repeat' first
    | with_reducible assumption
    | (refine Keeps.ofEq (by with_reducible assumption) ?_)
    | (refine Keeps.upd ?_ rfl rfl rfl rfl; with_reducible assumption)

theorem cmdGraphStart_keeps {q₀ : State} (graph : Nat) (sflags : Nat) (r : Nat) (salt : Nat) (f0 : List Nat) {s : State} (hK : Keeps q₀ s) :
    Keeps q₀ (cmdGraphStart graph sflags r salt f0 s).1 := by
  unfold cmdGraphStart
  repeat' first
    | with_reducible assumption
    | (refine Keeps.ofEq (by with_reducible assumption) ?_)
    | (refine graphCheck_keeps (by with_reducible assumption) ?_)
    | with_reducible apply refuse_keeps
    | with_reducible apply badLen_keeps
    | with_reducible apply refuseAt_keeps
    | with_reducible apply setGraph_keeps
    | with_reducible apply resetGraph_keeps
    | with_reducible apply okWith_keeps
    | (with_reducible apply Keeps.iteFst <;> intro _)
    | split

theorem cmdGraphHold_keeps {q₀ : State} (graph : Nat) (r : Nat) {s : State} (hK : Keeps q₀ s) :
    Keeps q₀ (cmdGraphHold graph r s).1 := by
  unfold cmdGraphHold
  repeat' first
    | with_reducible assumption
    | (refine Keeps.ofEq (by with_reducible assumption) ?_)
    | (refine graphCheck_keeps (by with_reducible assumption) ?_)
    | (refine Keeps.upd ?_ rfl rfl rfl rfl; first | with_reducible assumption | (refine Keeps.ofEq (by with_reducible assumption) ?_) | (refine graphCheck_keeps (by with_reducible assumption) ?_))
    | split

theorem doGraphHoldQuiescent_keeps {q₀ : State} (graph : Nat) {s : State} (hK : Keeps q₀ s) :
    Keeps q₀ (doGraphHoldQuiescent graph s) := by
  unfold doGraphHoldQuiescent
  repeat' first
    | with_reducible assumption
    | (refine Keeps.ofEq (by with_reducible assumption) ?_)
    | with_reducible apply answer_keeps
    | with_reducible apply setGraph_keeps
    | (with_reducible apply Keeps.ite <;> intro _)
    | split

theorem cmdGraphResume_keeps {q₀ : State} (graph : Nat) (r : Nat) {s : State} (hK : Keeps q₀ s) :
    Keeps q₀ (cmdGraphResume graph r s).1 := by
  unfold cmdGraphResume
  repeat' first
    | with_reducible assumption
    | (refine Keeps.ofEq (by with_reducible assumption) ?_)
    | (refine graphCheck_keeps (by with_reducible assumption) ?_)
    | with_reducible apply okDone_keeps
    | (refine Keeps.upd ?_ rfl rfl rfl rfl; first | with_reducible assumption | (refine Keeps.ofEq (by with_reducible assumption) ?_) | (refine graphCheck_keeps (by with_reducible assumption) ?_) | with_reducible apply okDone_keeps)
    | split

theorem stopNode_keeps {q₀ : State} {s : State} (n : Nat) (x : Node) (hK : Keeps q₀ s) :
    Keeps q₀ (stopNode s n x) := by
  unfold stopNode
  repeat' first
    | with_reducible assumption
    | (refine Keeps.ofEq (by with_reducible assumption) ?_)
    | with_reducible apply modNode_keeps
    | with_reducible apply abandonCoreNode_keeps
    | with_reducible apply stopNodeRun_keeps
    | (with_reducible apply Keeps.ite <;> intro _)
    | (refine Keeps.upd ?_ rfl rfl rfl rfl; first | with_reducible assumption | (refine Keeps.ofEq (by with_reducible assumption) ?_) | with_reducible apply modNode_keeps | with_reducible apply abandonCoreNode_keeps | with_reducible apply stopNodeRun_keeps)
    | split
    | dsimp only

theorem abortLane_keeps {q₀ : State} {s : State} (g : Nat) (k : Nat) (l : Lane) (hK : Keeps q₀ s) :
    Keeps q₀ (abortLane s g k l).1 := by
  unfold abortLane
  repeat' first
    | with_reducible assumption
    | (refine Keeps.ofEq (by with_reducible assumption) ?_)
    | with_reducible apply abortFrame_keeps
    | with_reducible apply Keeps.foldl
    | with_reducible apply Keeps.foldlFst
    | split
    | dsimp only
    | (intro _)

theorem dropCarry_keeps {q₀ : State} {s : State} (g : Nat) (hK : Keeps q₀ s) :
    Keeps q₀ (dropCarry s g) := by
  unfold dropCarry
  repeat' first
    | with_reducible assumption
    | (refine Keeps.ofEq (by with_reducible assumption) ?_)
    | with_reducible apply Keeps.foldl
    | with_reducible apply Keeps.foldlFst
    | (refine Keeps.upd ?_ rfl rfl rfl rfl; with_reducible assumption)
    | split
    | dsimp only
    | (intro _)

theorem stopGraph_keeps {q₀ : State} {s : State} (graph : Nat) (g : Graph) (hK : Keeps q₀ s) :
    Keeps q₀ (stopGraph s graph g) := by
  unfold stopGraph
  repeat' first
    | with_reducible assumption
    | (refine Keeps.ofEq (by with_reducible assumption) ?_)
    | with_reducible apply answer_keeps
    | with_reducible apply setGraph_keeps
    | with_reducible apply stopPool_keeps
    | with_reducible apply abortLane_keeps
    | with_reducible apply stopNode_keeps
    | with_reducible apply cancelStream_keeps
    | with_reducible apply dropCarry_keeps
    | with_reducible apply dropStubs_keeps
    | with_reducible apply Keeps.foldl
    | with_reducible apply Keeps.foldlFst
    | (refine Keeps.upd ?_ rfl rfl rfl rfl; first | with_reducible assumption | (refine Keeps.ofEq (by with_reducible assumption) ?_) | with_reducible apply answer_keeps | with_reducible apply setGraph_keeps | with_reducible apply stopPool_keeps | with_reducible apply abortLane_keeps | with_reducible apply stopNode_keeps | with_reducible apply cancelStream_keeps | with_reducible apply dropCarry_keeps | with_reducible apply dropStubs_keeps | with_reducible apply Keeps.foldl)
    | split
    | dsimp only
    | (intro _)

theorem cmdGraphStop_keeps {q₀ : State} (graph : Nat) (r : Nat) {s : State} (hK : Keeps q₀ s) :
    Keeps q₀ (cmdGraphStop graph r s).1 := by
  unfold cmdGraphStop
  repeat' first
    | with_reducible assumption
    | (refine Keeps.ofEq (by with_reducible assumption) ?_)
    | (refine graphCheck_keeps (by with_reducible assumption) ?_)
    | with_reducible apply refuse_keeps
    | with_reducible apply stopGraph_keeps
    | split

theorem doGraphStopIdle_keeps {q₀ : State} (graph : Nat) {s : State} (hK : Keeps q₀ s) :
    Keeps q₀ (doGraphStopIdle graph s) := by
  unfold doGraphStopIdle
  repeat' first
    | with_reducible assumption
    | (refine Keeps.ofEq (by with_reducible assumption) ?_)
    | with_reducible apply answer_keeps
    | with_reducible apply setGraph_keeps
    | (with_reducible apply Keeps.ite <;> intro _)
    | split

theorem cmdGraphUnload_keeps {q₀ : State} (graph : Nat) (r : Nat) {s : State} (hK : Keeps q₀ s) :
    Keeps q₀ (cmdGraphUnload graph r s).1 := by
  unfold cmdGraphUnload
  repeat' first
    | with_reducible assumption
    | (refine Keeps.ofEq (by with_reducible assumption) ?_)
    | (refine graphCheck_keeps (by with_reducible assumption) ?_)
    | with_reducible apply refuse_keeps
    | with_reducible apply okDone_keeps
    | (refine Keeps.upd ?_ rfl rfl rfl rfl; first | with_reducible assumption | (refine Keeps.ofEq (by with_reducible assumption) ?_) | (refine graphCheck_keeps (by with_reducible assumption) ?_) | with_reducible apply refuse_keeps | with_reducible apply okDone_keeps)
    | split

theorem cmdGraphStatus_keeps {q₀ : State} (graph : Nat) (r : Nat) {s : State} (hK : Keeps q₀ s) :
    Keeps q₀ (cmdGraphStatus graph r s).1 := by
  unfold cmdGraphStatus
  repeat' first
    | with_reducible assumption
    | (refine Keeps.ofEq (by with_reducible assumption) ?_)
    | with_reducible apply refuseAt_keeps
    | with_reducible apply okWith_keeps
    | (with_reducible apply Keeps.iteFst <;> intro _)
    | split

end Sys2Proof.Machine
end

