-- ==== Sys2Proof/Laws/KeepsCamera.lean ====
section
/-! SUPPORT. Every operation of Machine/Camera.lean keeps the queue and the invariant. -/

namespace Sys2Proof.Machine

open Sys2Proof

theorem modPipe_keeps {q₀ : State} {s : State} (p : Nat) (f : Pipe → Pipe) (hK : Keeps q₀ s) :
    Keeps q₀ (modPipe s p f) := by
  unfold modPipe
  repeat' first
    | with_reducible assumption
    | (refine Keeps.ofEq (by with_reducible assumption) ?_)
    | with_reducible apply setPipe_keeps

theorem countPort_keeps {q₀ : State} {s : State} (k : Nat) (i : Nat) (hK : Keeps q₀ s) :
    Keeps q₀ (countPort s k i) := by
  unfold countPort
  repeat' first
    | with_reducible assumption
    | (refine Keeps.ofEq (by with_reducible assumption) ?_)
    | with_reducible apply setPort_keeps

theorem countPipe_keeps {q₀ : State} {s : State} (p : Nat) (i : Nat) (n : Nat) (hK : Keeps q₀ s) :
    Keeps q₀ (countPipe s p i n) := by
  unfold countPipe
  repeat' first
    | with_reducible assumption
    | (refine Keeps.ofEq (by with_reducible assumption) ?_)
    | with_reducible apply modPipe_keeps

theorem countCorrected_keeps {q₀ : State} {s : State} (k : Nat) (corrected : Bool) (hK : Keeps q₀ s) :
    Keeps q₀ (countCorrected s k corrected) := by
  unfold countCorrected
  repeat' first
    | with_reducible assumption
    | (refine Keeps.ofEq (by with_reducible assumption) ?_)
    | with_reducible apply countPort_keeps
    | (with_reducible apply Keeps.ite <;> intro _)

theorem doCsiHeaderError_keeps {q₀ : State} (port : Nat) {s : State} (hK : Keeps q₀ s) :
    Keeps q₀ (doCsiHeaderError port s) := by
  unfold doCsiHeaderError
  repeat' first
    | with_reducible assumption
    | (refine Keeps.ofEq (by with_reducible assumption) ?_)
    | with_reducible apply countPort_keeps
    | (with_reducible apply Keeps.ite <;> intro _)

theorem lineArrives_keeps {q₀ : State} {s : State} (p : Nat) (dt : Nat) (samples : List Nat) (crcOk : Bool) (taken : Nat) (codeErrs : Nat) (hK : Keeps q₀ s) :
    Keeps q₀ (lineArrives s p dt samples crcOk taken codeErrs) := by
  unfold lineArrives
  repeat' first
    | with_reducible assumption
    | (refine Keeps.ofEq (by with_reducible assumption) ?_)
    | with_reducible apply setPipe_keeps
    | (with_reducible apply Keeps.ite <;> intro _)
    | split
    | dsimp only

theorem longPacket_keeps {q₀ : State} {s : State} (port : Nat) (vc : Nat) (dt : Nat) (samples : List Nat) (corrected : Bool) (crcOk : Bool) (taken : Nat) (codeErrs : Nat) (hK : Keeps q₀ s) :
    Keeps q₀ (longPacket s port vc dt samples corrected crcOk taken codeErrs) := by
  unfold longPacket
  repeat' first
    | with_reducible assumption
    | (refine Keeps.ofEq (by with_reducible assumption) ?_)
    | with_reducible apply countCorrected_keeps
    | with_reducible apply countPort_keeps
    | with_reducible apply lineArrives_keeps
    | (with_reducible apply Keeps.ite <;> intro _)
    | split

theorem doCsiLongPacket_keeps {q₀ : State} (port : Nat) (vc : Nat) (dt : Nat) (samples : List Nat) (corrected : Bool) (crcOk : Bool) (taken : Nat) (codeErrs : Nat) {s : State} (hK : Keeps q₀ s) :
    Keeps q₀ (doCsiLongPacket port vc dt samples corrected crcOk taken codeErrs s) := by
  unfold doCsiLongPacket
  repeat' first
    | with_reducible assumption
    | (refine Keeps.ofEq (by with_reducible assumption) ?_)
    | with_reducible apply longPacket_keeps
    | (with_reducible apply Keeps.ite <;> intro _)

theorem bandDone_keeps {q₀ : State} {s : State} (c : PipeCfg) (cnt : Nat) (y : Nat) (hK : Keeps q₀ s) :
    Keeps q₀ (bandDone s c cnt y) := by
  unfold bandDone
  repeat' first
    | with_reducible assumption
    | (refine Keeps.ofEq (by with_reducible assumption) ?_)
    | with_reducible apply flagSet_keeps
    | (with_reducible apply Keeps.ite <;> intro _)
    | split

theorem writeLine_keeps {q₀ : State} {s : State} (p : Nat) (x : Pipe) (f : Frame) (hK : Keeps q₀ s) :
    Keeps q₀ (writeLine s p x f).1 := by
  unfold writeLine
  repeat' first
    | with_reducible assumption
    | (refine Keeps.ofEq (by with_reducible assumption) ?_)
    | with_reducible apply writeLocal_keeps
    | with_reducible apply bump_keeps
    | with_reducible apply bandDone_keeps
    | with_reducible apply Keeps.foldl
    | with_reducible apply Keeps.foldlFst
    | split
    | dsimp only
    | (intro _)

theorem doPipelineLineDone_keeps {q₀ : State} (pipe : Nat) {s : State} (hK : Keeps q₀ s) :
    Keeps q₀ (doPipelineLineDone pipe s) := by
  unfold doPipelineLineDone
  repeat' first
    | with_reducible assumption
    | (refine Keeps.ofEq (by with_reducible assumption) ?_)
    | with_reducible apply writeLine_keeps
    | with_reducible apply modPipe_keeps
    | (with_reducible apply Keeps.ite <;> intro _)
    | split

theorem countFlags_keeps {q₀ : State} {s : State} (p : Nat) (flags : Nat) (hK : Keeps q₀ s) :
    Keeps q₀ (countFlags s p flags) := by
  unfold countFlags
  repeat' first
    | with_reducible assumption
    | (refine Keeps.ofEq (by with_reducible assumption) ?_)
    | with_reducible apply countPipe_keeps
    | with_reducible apply bump_keeps
    | with_reducible apply Keeps.foldl
    | with_reducible apply Keeps.foldlFst
    | split
    | dsimp only
    | (intro _)

theorem finishFrame_keeps {q₀ : State} {s : State} (p : Nat) (x : Pipe) (f : Frame) (h : Keeps q₀ s) :
    Keeps q₀ (finishFrame s p x f) := by
  unfold finishFrame
  extract_lets c s1 s2 s3 s3' s4 s5
  have h2 : Keeps q₀ s2 := writeLocal_keeps _ _ _ _ (modPipe_keeps _ _ h)
  have h3 : Keeps q₀ s3 := countFlags_keeps _ _ h2
  have h3' : Keeps q₀ s3' := travelMismatch_keeps _ _ _ _ _ h3
  have h4 : Keeps q₀ s4 := by
    simp only [s4]
    split
    · exact flagSet_keeps _ _ h3'
    · exact h3'
  have h5 : Keeps q₀ s5 := pipeNotice_keeps _ _ h4
  exact Keeps.ite (fun _ => h5) (fun _ => answer_keeps _ _ _ h5)

theorem doFrameComplete_keeps {q₀ : State} (pipe : Nat) {s : State} (hK : Keeps q₀ s) :
    Keeps q₀ (doFrameComplete pipe s) := by
  unfold doFrameComplete
  repeat' first
    | with_reducible assumption
    | (refine Keeps.ofEq (by with_reducible assumption) ?_)
    | with_reducible apply finishFrame_keeps
    | (with_reducible apply Keeps.ite <;> intro _)
    | split
    | dsimp only

theorem drainLines_keeps {q₀ : State} (n : Nat) {s : State} (p : Nat) (h : Keeps q₀ s) :
    Keeps q₀ (drainLines n s p) := by
  induction n generalizing s with
  | zero => exact h
  | succ n ih => exact ih (doPipelineLineDone_keeps _ h)

theorem drainClosing_keeps {q₀ : State} {s : State} (p : Nat) (hK : Keeps q₀ s) :
    Keeps q₀ (drainClosing s p) := by
  unfold drainClosing
  repeat' first
    | with_reducible assumption
    | (refine Keeps.ofEq (by with_reducible assumption) ?_)
    | with_reducible apply doFrameComplete_keeps
    | with_reducible apply drainLines_keeps
    | split
    | dsimp only

theorem skipTest_keeps {q₀ : State} {s : State} (p : Nat) (hK : Keeps q₀ s) :
    Keeps q₀ (skipTest s p) := by
  unfold skipTest
  repeat' first
    | with_reducible assumption
    | (refine Keeps.ofEq (by with_reducible assumption) ?_)
    | with_reducible apply bump_keeps
    | with_reducible apply countPipe_keeps
    | with_reducible apply setPipe_keeps
    | (with_reducible apply Keeps.ite <;> intro _)

theorem dueTest_keeps {q₀ : State} {s : State} (p : Nat) (cnt : Nat) (gen : Nat) (param : List Byte) (hK : Keeps q₀ s) :
    Keeps q₀ (dueTest s p cnt gen param) := by
  unfold dueTest
  repeat' first
    | with_reducible assumption
    | (refine Keeps.ofEq (by with_reducible assumption) ?_)
    | with_reducible apply modPipe_keeps

theorem doPatternTestStart_keeps {q₀ : State} (pipe : Nat) {s : State} (hK : Keeps q₀ s) :
    Keeps q₀ (doPatternTestStart pipe s) := by
  unfold doPatternTestStart
  repeat' first
    | with_reducible assumption
    | (refine Keeps.ofEq (by with_reducible assumption) ?_)
    | with_reducible apply setPipe_keeps
    | (with_reducible apply Keeps.ite <;> intro _)
    | split
    | dsimp only

theorem doPatternTestDone_keeps {q₀ : State} (pipe : Nat) (signature : Nat) {s : State} (hK : Keeps q₀ s) :
    Keeps q₀ (doPatternTestDone pipe signature s) := by
  unfold doPatternTestDone
  repeat' first
    | with_reducible assumption
    | (refine Keeps.ofEq (by with_reducible assumption) ?_)
    | with_reducible apply setPipe_keeps
    | with_reducible apply bump_keeps
    | with_reducible apply countPipe_keeps
    | with_reducible apply raiseDoubt_keeps
    | (with_reducible apply Keeps.ite <;> intro _)
    | (refine Keeps.upd ?_ rfl rfl rfl rfl; first | with_reducible assumption | (refine Keeps.ofEq (by with_reducible assumption) ?_) | with_reducible apply setPipe_keeps | with_reducible apply bump_keeps | with_reducible apply countPipe_keeps | with_reducible apply raiseDoubt_keeps)
    | split
    | dsimp only

theorem stopPipe_keeps {q₀ : State} {s : State} (p : Nat) (hK : Keeps q₀ s) :
    Keeps q₀ (stopPipe s p) := by
  unfold stopPipe
  repeat' first
    | with_reducible assumption
    | (refine Keeps.ofEq (by with_reducible assumption) ?_)
    | with_reducible apply modPipe_keeps

theorem stopNow_keeps {q₀ : State} {s : State} (p : Nat) (hK : Keeps q₀ s) :
    Keeps q₀ (stopNow s p) := by
  unfold stopNow
  repeat' first
    | with_reducible assumption
    | (refine Keeps.ofEq (by with_reducible assumption) ?_)
    | with_reducible apply stopPipe_keeps
    | with_reducible apply skipTest_keeps

theorem endFrame_keeps {q₀ : State} {s : State} (p : Nat) (extra : Nat) (hK : Keeps q₀ s) :
    Keeps q₀ (endFrame s p extra) := by
  unfold endFrame
  repeat' first
    | with_reducible assumption
    | (refine Keeps.ofEq (by with_reducible assumption) ?_)
    | with_reducible apply drainClosing_keeps
    | with_reducible apply modPipe_keeps
    | with_reducible apply dueTest_keeps
    | with_reducible apply stopPipe_keeps
    | with_reducible apply answer_keeps
    | (with_reducible apply Keeps.ite <;> intro _)
    | split
    | dsimp only

theorem startBus_keeps {q₀ : State} {s : State} (k : Nat) (hK : Keeps q₀ s) :
    Keeps q₀ (startBus s k) := by
  unfold startBus
  repeat' first
    | with_reducible assumption
    | (refine Keeps.ofEq (by with_reducible assumption) ?_)
    | with_reducible apply modPipe_keeps
    | with_reducible apply setPort_keeps
    | (with_reducible apply Keeps.ite <;> intro _)
    | split

theorem joinWriters_keeps {q₀ : State} {s : State} (p : Nat) (hK : Keeps q₀ s) :
    Keeps q₀ (joinWriters s p) := by
  unfold joinWriters
  repeat' first
    | with_reducible assumption
    | (refine Keeps.ofEq (by with_reducible assumption) ?_)
    | with_reducible apply modPipe_keeps
    | with_reducible apply startBus_keeps
    | with_reducible apply setPort_keeps
    | (with_reducible apply Keeps.ite <;> intro _)
    | split

theorem dropFrame_keeps {q₀ : State} {s : State} (p : Nat) (c : PipeCfg) (n : Nat) (hK : Keeps q₀ s) :
    Keeps q₀ (dropFrame s p c n) := by
  unfold dropFrame
  repeat' first
    | with_reducible assumption
    | (refine Keeps.ofEq (by with_reducible assumption) ?_)
    | with_reducible apply postEvent_keeps
    | with_reducible apply countPipe_keeps
    | with_reducible apply flagRearm_keeps
    | with_reducible apply pipeNotice_keeps
    | with_reducible apply modPipe_keeps
    | with_reducible apply Keeps.foldl
    | with_reducible apply Keeps.foldlFst
    | split

theorem beginFrame_keeps {q₀ : State} {s : State} (p : Nat) (hK : Keeps q₀ s) :
    Keeps q₀ (beginFrame s p) := by
  unfold beginFrame
  repeat' first
    | with_reducible assumption
    | (refine Keeps.ofEq (by with_reducible assumption) ?_)
    | with_reducible apply skipTest_keeps
    | with_reducible apply setPipe_keeps
    | with_reducible apply countPipe_keeps
    | with_reducible apply laneFrameStart_keeps
    | with_reducible apply dropFrame_keeps
    | (with_reducible apply Keeps.ite <;> intro _)

theorem doCsiFrameStart_keeps {q₀ : State} (port : Nat) (vc : Nat) (corrected : Bool) {s : State} (hK : Keeps q₀ s) :
    Keeps q₀ (doCsiFrameStart port vc corrected s) := by
  unfold doCsiFrameStart
  repeat' first
    | with_reducible assumption
    | (refine Keeps.ofEq (by with_reducible assumption) ?_)
    | with_reducible apply countCorrected_keeps
    | with_reducible apply endFrame_keeps
    | with_reducible apply beginFrame_keeps
    | (with_reducible apply Keeps.ite <;> intro _)
    | split
    | dsimp only

theorem doCsiFrameEnd_keeps {q₀ : State} (port : Nat) (vc : Nat) (corrected : Bool) {s : State} (hK : Keeps q₀ s) :
    Keeps q₀ (doCsiFrameEnd port vc corrected s) := by
  unfold doCsiFrameEnd
  repeat' first
    | with_reducible assumption
    | (refine Keeps.ofEq (by with_reducible assumption) ?_)
    | with_reducible apply countCorrected_keeps
    | with_reducible apply endFrame_keeps
    | with_reducible apply joinWriters_keeps
    | with_reducible apply modPipe_keeps
    | (with_reducible apply Keeps.ite <;> intro _)
    | split
    | dsimp only

theorem cmdCsiPortConfig_keeps {q₀ : State} (port : Nat) (lanes : Nat) (map : Nat) (pol : Nat) (i3cMode : Nat) (r : Nat) {s : State} (hK : Keeps q₀ s) :
    Keeps q₀ (cmdCsiPortConfig port lanes map pol i3cMode r s).1 := by
  unfold cmdCsiPortConfig
  repeat' first
    | with_reducible assumption
    | (refine Keeps.ofEq (by with_reducible assumption) ?_)
    | with_reducible apply refuseAt_keeps
    | with_reducible apply refuse_keeps
    | with_reducible apply okDone_keeps
    | with_reducible apply setPort_keeps
    | (with_reducible apply Keeps.iteFst <;> intro _)

theorem readSetup_keeps {q₀ : State} {s : State} (dom : Nat) (chan : Nat) (e : List Byte) (hK : Keeps q₀ s) :
    Keeps q₀ (readSetup s dom chan e).1 := by
  unfold readSetup
  repeat' first
    | with_reducible assumption
    | (refine Keeps.ofEq (by with_reducible assumption) ?_)
    | with_reducible apply readStruct_keeps
    | (with_reducible apply Keeps.iteFst <;> intro _)
    | split

theorem cmdCameraStart_keeps {q₀ : State} (h : CmdHdr) (channel : Nat) (r : Nat) {s : State} (hK : Keeps q₀ s) :
    Keeps q₀ (cmdCameraStart h channel r s).1 := by
  unfold cmdCameraStart
  repeat' first
    | with_reducible assumption
    | (refine Keeps.ofEq (by with_reducible assumption) ?_)
    | with_reducible apply refuseAt_keeps
    | with_reducible apply fetchEntry_keeps
    | with_reducible apply readSetup_keeps
    | with_reducible apply refuse_keeps
    | with_reducible apply skipTest_keeps
    | with_reducible apply okDone_keeps
    | with_reducible apply joinWriters_keeps
    | with_reducible apply setPipe_keeps
    | (with_reducible apply Keeps.iteFst <;> intro _)
    | split
    | dsimp only

theorem cmdCameraStop_keeps {q₀ : State} (pipe : Nat) (r : Nat) (waitMs : Nat) {s : State} (hK : Keeps q₀ s) :
    Keeps q₀ (cmdCameraStop pipe r waitMs s).1 := by
  unfold cmdCameraStop
  repeat' first
    | with_reducible assumption
    | (refine Keeps.ofEq (by with_reducible assumption) ?_)
    | with_reducible apply refuse_keeps
    | with_reducible apply refuseAt_keeps
    | with_reducible apply setPipe_keeps
    | with_reducible apply stopNow_keeps
    | with_reducible apply okDone_keeps
    | (with_reducible apply Keeps.iteFst <;> intro _)

theorem doCameraStopTimeout_keeps {q₀ : State} (pipe : Nat) {s : State} (hK : Keeps q₀ s) :
    Keeps q₀ (doCameraStopTimeout pipe s) := by
  unfold doCameraStopTimeout
  repeat' first
    | with_reducible assumption
    | (refine Keeps.ofEq (by with_reducible assumption) ?_)
    | with_reducible apply modPipe_keeps
    | with_reducible apply endFrame_keeps
    | with_reducible apply advanceTo_keeps
    | (with_reducible apply Keeps.ite <;> intro _)
    | split
    | dsimp only

theorem cmdCameraStatus_keeps {q₀ : State} (pipe : Nat) (clear : Nat) (r : Nat) {s : State} (hK : Keeps q₀ s) :
    Keeps q₀ (cmdCameraStatus pipe clear r s).1 := by
  unfold cmdCameraStatus
  repeat' first
    | with_reducible assumption
    | (refine Keeps.ofEq (by with_reducible assumption) ?_)
    | with_reducible apply refuseAt_keeps
    | with_reducible apply okWith_keeps
    | with_reducible apply setPipe_keeps
    | with_reducible apply setPort_keeps
    | (with_reducible apply Keeps.ite <;> intro _)
    | (with_reducible apply Keeps.iteFst <;> intro _)

end Sys2Proof.Machine
end

