-- ==== Sys2Proof/Laws/KeepsSensor.lean ====
section
/-! SUPPORT. Every operation of Machine/Sensor.lean keeps the queue and the invariant. -/

namespace Sys2Proof.Machine

open Sys2Proof

theorem cmdTriggerSet_keeps {q₀ : State} (trig : Nat) (mode : Nat) (polarity : Nat) (r : Nat) (period : Nat) (tStart : Nat) (width : Nat) (count : Nat) {s : State} (hK : Keeps q₀ s) :
    Keeps q₀ (cmdTriggerSet trig mode polarity r period tStart width count s).1 := by
  unfold cmdTriggerSet
  repeat' first
    | with_reducible assumption
    | (refine Keeps.ofEq (by with_reducible assumption) ?_)
    | with_reducible apply refuseAt_keeps
    | with_reducible apply refuse_keeps
    | with_reducible apply okDone_keeps
    | with_reducible apply setTrig_keeps
    | (with_reducible apply Keeps.iteFst <;> intro _)

theorem doTriggerSwitchPoint_keeps {q₀ : State} (trig : Nat) {s : State} (hK : Keeps q₀ s) :
    Keeps q₀ (doTriggerSwitchPoint trig s) := by
  unfold doTriggerSwitchPoint
  repeat' first
    | with_reducible assumption
    | (refine Keeps.ofEq (by with_reducible assumption) ?_)
    | with_reducible apply setTrig_keeps
    | with_reducible apply advanceTo_keeps
    | split
    | dsimp only

theorem queueEdge_keeps {q₀ : State} {s : State} (p : Nat) (e : Nat) (hK : Keeps q₀ s) :
    Keeps q₀ (queueEdge s p e) := by
  unfold queueEdge
  repeat' first
    | with_reducible assumption
    | (refine Keeps.ofEq (by with_reducible assumption) ?_)
    | with_reducible apply setPipe_keeps
    | with_reducible apply countPipe_keeps
    | (with_reducible apply Keeps.ite <;> intro _)

theorem lineEdgeAt_keeps {q₀ : State} {s : State} (p : Nat) (e : Nat) (hK : Keeps q₀ s) :
    Keeps q₀ (lineEdgeAt s p e) := by
  unfold lineEdgeAt
  repeat' first
    | with_reducible assumption
    | (refine Keeps.ofEq (by with_reducible assumption) ?_)
    | with_reducible apply modPipe_keeps

theorem doCamTrigPulse_keeps {q₀ : State} (trig : Nat) {s : State} (hK : Keeps q₀ s) :
    Keeps q₀ (doCamTrigPulse trig s) := by
  unfold doCamTrigPulse
  repeat' first
    | with_reducible assumption
    | (refine Keeps.ofEq (by with_reducible assumption) ?_)
    | with_reducible apply setTrig_keeps
    | with_reducible apply advanceTo_keeps
    | with_reducible apply lineEdgeAt_keeps
    | with_reducible apply queueEdge_keeps
    | (with_reducible apply Keeps.ite <;> intro _)
    | split
    | dsimp only

theorem doCamTrigPulseEnd_keeps {q₀ : State} (trig : Nat) {s : State} (hK : Keeps q₀ s) :
    Keeps q₀ (doCamTrigPulseEnd trig s) := by
  unfold doCamTrigPulseEnd
  repeat' first
    | with_reducible assumption
    | (refine Keeps.ofEq (by with_reducible assumption) ?_)
    | with_reducible apply setTrig_keeps
    | with_reducible apply advanceTo_keeps
    | split
    | dsimp only

theorem readParam_keeps {q₀ : State} {s : State} (dom : Nat) (x : Pipe) (addr : Nat) (hK : Keeps q₀ s) :
    Keeps q₀ (readParam s dom x addr).1 := by
  unfold readParam
  repeat' first
    | with_reducible assumption
    | (refine Keeps.ofEq (by with_reducible assumption) ?_)
    | with_reducible apply readStruct_keeps
    | (with_reducible apply Keeps.iteFst <;> intro _)
    | split

theorem readWrites_keeps {q₀ : State} {s : State} (dom : Nat) (addr : Nat) (count : Nat) (hK : Keeps q₀ s) :
    Keeps q₀ (readWrites s dom addr count).1 := by
  unfold readWrites
  repeat' first
    | with_reducible assumption
    | (refine Keeps.ofEq (by with_reducible assumption) ?_)
    | with_reducible apply readStruct_keeps
    | (with_reducible apply Keeps.iteFst <;> intro _)

theorem addCommit_keeps {q₀ : State} {s : State} (p : Nat) (prm : Option (List Byte)) (ws : List (Nat × Nat)) (hK : Keeps q₀ s) :
    Keeps q₀ (addCommit s p prm ws) := by
  unfold addCommit
  repeat' first
    | with_reducible assumption
    | (refine Keeps.ofEq (by with_reducible assumption) ?_)
    | with_reducible apply modPipe_keeps

theorem cmdSensorCommit_keeps {q₀ : State} (h : CmdHdr) (pipe : Nat) (r : Nat) (count : Nat) (param : Nat) (writes : Nat) {s : State} (hK : Keeps q₀ s) :
    Keeps q₀ (cmdSensorCommit h pipe r count param writes s).1 := by
  unfold cmdSensorCommit
  repeat' first
    | with_reducible assumption
    | (refine Keeps.ofEq (by with_reducible assumption) ?_)
    | with_reducible apply refuseAt_keeps
    | with_reducible apply readParam_keeps
    | with_reducible apply readWrites_keeps
    | with_reducible apply refuse_keeps
    | with_reducible apply okWith_keeps
    | with_reducible apply addCommit_keeps
    | (with_reducible apply Keeps.iteFst <;> intro _)
    | split

theorem releaseBus_keeps {q₀ : State} {s : State} (p : Nat) (ended : Bool) (hK : Keeps q₀ s) :
    Keeps q₀ (releaseBus s p ended) := by
  unfold releaseBus
  repeat' first
    | with_reducible assumption
    | (refine Keeps.ofEq (by with_reducible assumption) ?_)
    | with_reducible apply setPort_keeps
    | with_reducible apply startBus_keeps
    | with_reducible apply joinWriters_keeps
    | (with_reducible apply Keeps.ite <;> intro _)

theorem dropCommit_keeps {q₀ : State} {s : State} (p : Nat) (c : Commit) (hK : Keeps q₀ s) :
    Keeps q₀ (dropCommit s p c) := by
  unfold dropCommit
  repeat' first
    | with_reducible assumption
    | (refine Keeps.ofEq (by with_reducible assumption) ?_)
    | with_reducible apply modPipe_keeps
    | with_reducible apply raiseDoubt_keeps

theorem doSensorWriteDone_keeps {q₀ : State} (pipe : Nat) (ack : Bool) {s : State} (hK : Keeps q₀ s) :
    Keeps q₀ (doSensorWriteDone pipe ack s) := by
  unfold doSensorWriteDone
  repeat' first
    | with_reducible assumption
    | (refine Keeps.ofEq (by with_reducible assumption) ?_)
    | with_reducible apply releaseBus_keeps
    | with_reducible apply setPipe_keeps
    | with_reducible apply dropCommit_keeps
    | (with_reducible apply Keeps.ite <;> intro _)
    | split

theorem doSensorIbi_keeps {q₀ : State} (port : Nat) (addr : Nat) (data : List Byte) {s : State} (hK : Keeps q₀ s) :
    Keeps q₀ (doSensorIbi port addr data s) := by
  unfold doSensorIbi
  repeat' first
    | with_reducible assumption
    | (refine Keeps.ofEq (by with_reducible assumption) ?_)
    | with_reducible apply postEvent_keeps
    | (with_reducible apply Keeps.ite <;> intro _)

theorem cmdI3cTransfer_keeps {q₀ : State} (port : Nat) (addr : Nat) (dir : Nat) (len : Nat) (data : List Byte) {s : State} (hK : Keeps q₀ s) :
    Keeps q₀ (cmdI3cTransfer port addr dir len data s).1 := by
  unfold cmdI3cTransfer
  repeat' first
    | with_reducible assumption
    | (refine Keeps.ofEq (by with_reducible assumption) ?_)
    | with_reducible apply refuseAt_keeps
    | with_reducible apply refuse_keeps
    | with_reducible apply startBus_keeps
    | with_reducible apply setPort_keeps
    | (with_reducible apply Keeps.iteFst <;> intro _)

theorem doI3cTransferDone_keeps {q₀ : State} (port : Nat) (ack : Bool) (data : List Byte) {s : State} (hK : Keeps q₀ s) :
    Keeps q₀ (doI3cTransferDone port ack data s) := by
  unfold doI3cTransferDone
  repeat' first
    | with_reducible assumption
    | (refine Keeps.ofEq (by with_reducible assumption) ?_)
    | with_reducible apply answer_keeps
    | with_reducible apply startBus_keeps
    | with_reducible apply setPort_keeps
    | (refine Keeps.upd ?_ rfl rfl rfl rfl; first | with_reducible assumption | (refine Keeps.ofEq (by with_reducible assumption) ?_) | with_reducible apply answer_keeps | with_reducible apply startBus_keeps | with_reducible apply setPort_keeps)
    | split
    | dsimp only

theorem doHotJoin_keeps {q₀ : State} (_port : Nat) {s : State} (hK : Keeps q₀ s) :
    Keeps q₀ (doHotJoin _port s) := by
  unfold doHotJoin
  repeat' first
    | with_reducible assumption

end Sys2Proof.Machine
end

