-- ==== Sys2Proof/Laws/KeepsEngine.lean ====
section
/-! SUPPORT. Every operation of Machine/Engine.lean keeps the queue and the invariant. -/

namespace Sys2Proof.Machine

open Sys2Proof

theorem readRow_keeps {q₀ : State} {s : State} (dom : Nat) (r : PRef) (a : Nat) (hK : Keeps q₀ s) :
    Keeps q₀ (readRow s dom r a).1 := by
  unfold readRow
  repeat' first
    | with_reducible assumption
    | (refine Keeps.ofEq (by with_reducible assumption) ?_)
    | with_reducible apply readLocal_keeps
    | with_reducible apply Keeps.foldl
    | with_reducible apply Keeps.foldlFst
    | split
    | dsimp only
    | (intro _)

theorem readPlane_keeps {q₀ : State} {s : State} (dom : Nat) (r : PRef) (slot : Nat) (p : Nat) (hK : Keeps q₀ s) :
    Keeps q₀ (readPlane s dom r slot p).1 := by
  unfold readPlane
  repeat' first
    | with_reducible assumption
    | (refine Keeps.ofEq (by with_reducible assumption) ?_)
    | with_reducible apply readRow_keeps
    | with_reducible apply Keeps.foldl
    | with_reducible apply Keeps.foldlFst
    | split
    | dsimp only
    | (intro _)

theorem readPlanes_keeps {q₀ : State} {s : State} (dom : Nat) (r : PRef) (slot : Nat) (hK : Keeps q₀ s) :
    Keeps q₀ (readPlanes s dom r slot).1 := by
  unfold readPlanes
  repeat' first
    | with_reducible assumption
    | (refine Keeps.ofEq (by with_reducible assumption) ?_)
    | with_reducible apply readPlane_keeps
    | with_reducible apply Keeps.foldl
    | with_reducible apply Keeps.foldlFst
    | split
    | dsimp only
    | (intro _)

theorem writeRow_keeps {q₀ : State} {s : State} (dom : Nat) (fmt : Nat) (a : Nat) (row : List Px) (hK : Keeps q₀ s) :
    Keeps q₀ (writeRow s dom fmt a row).1 := by
  unfold writeRow
  repeat' first
    | with_reducible assumption
    | (refine Keeps.ofEq (by with_reducible assumption) ?_)
    | with_reducible apply writeLocal_keeps
    | with_reducible apply Keeps.foldl
    | with_reducible apply Keeps.foldlFst
    | split
    | dsimp only
    | (intro _)

theorem writePlane_keeps {q₀ : State} {s : State} (dom : Nat) (r : PRef) (slot : Nat) (p : Nat) (g : Grid) (hK : Keeps q₀ s) :
    Keeps q₀ (writePlane s dom r slot p g).1 := by
  unfold writePlane
  repeat' first
    | with_reducible assumption
    | (refine Keeps.ofEq (by with_reducible assumption) ?_)
    | with_reducible apply writeRow_keeps
    | with_reducible apply Keeps.foldl
    | with_reducible apply Keeps.foldlFst
    | split
    | dsimp only
    | (intro _)

theorem writePlanes_keeps {q₀ : State} {s : State} (dom : Nat) (r : PRef) (slot : Nat) (gs : List Grid) (hK : Keeps q₀ s) :
    Keeps q₀ (writePlanes s dom r slot gs).1 := by
  unfold writePlanes
  repeat' first
    | with_reducible assumption
    | (refine Keeps.ofEq (by with_reducible assumption) ?_)
    | with_reducible apply writePlane_keeps
    | with_reducible apply Keeps.foldl
    | with_reducible apply Keeps.foldlFst
    | split
    | dsimp only
    | (intro _)

theorem readHeaders_keeps {q₀ : State} {s : State} (dom : Nat) (d : List Byte) (f : Nat) (hK : Keeps q₀ s) :
    Keeps q₀ (readHeaders s dom d f).1 := by
  unfold readHeaders
  repeat' first
    | with_reducible assumption
    | (refine Keeps.ofEq (by with_reducible assumption) ?_)
    | with_reducible apply readLocal_keeps
    | with_reducible apply Keeps.foldl
    | with_reducible apply Keeps.foldlFst
    | split
    | dsimp only
    | (intro _)

theorem writeHeaders_keeps {q₀ : State} {s : State} (dom : Nat) (r : EngRun) (ps : List EngRep) (hK : Keeps q₀ s) :
    Keeps q₀ (writeHeaders s dom r ps) := by
  unfold writeHeaders
  repeat' first
    | with_reducible assumption
    | (refine Keeps.ofEq (by with_reducible assumption) ?_)
    | with_reducible apply writeLocal_keeps
    | with_reducible apply Keeps.foldl
    | with_reducible apply Keeps.foldlFst
    | split
    | dsimp only
    | (intro _)

theorem setBandsTo_keeps {q₀ : State} {s : State} (x : PRef) (f : Nat) (lines : Nat) (hK : Keeps q₀ s) :
    Keeps q₀ (setBandsTo s x f lines) := by
  unfold setBandsTo
  repeat' first
    | with_reducible assumption
    | (refine Keeps.ofEq (by with_reducible assumption) ?_)
    | with_reducible apply flagSet_keeps
    | with_reducible apply Keeps.foldl
    | with_reducible apply Keeps.foldlFst
    | (with_reducible apply Keeps.ite <;> intro _)
    | split
    | dsimp only
    | (intro _)

theorem setBands_keeps {q₀ : State} {s : State} (d : List Byte) (f : Nat) (hK : Keeps q₀ s) :
    Keeps q₀ (setBands s d f) := by
  unfold setBands
  repeat' first
    | with_reducible assumption
    | (refine Keeps.ofEq (by with_reducible assumption) ?_)
    | with_reducible apply setBandsTo_keeps
    | with_reducible apply Keeps.foldl
    | with_reducible apply Keeps.foldlFst
    | split
    | dsimp only
    | (intro _)

theorem setLast_keeps {q₀ : State} {s : State} (d : List Byte) (f : Nat) (hK : Keeps q₀ s) :
    Keeps q₀ (setLast s d f) := by
  unfold setLast
  repeat' first
    | with_reducible assumption
    | (refine Keeps.ofEq (by with_reducible assumption) ?_)
    | with_reducible apply flagSet_keeps
    | with_reducible apply Keeps.foldl
    | with_reducible apply Keeps.foldlFst
    | split
    | dsimp only
    | (intro _)

theorem releaseSources_keeps {q₀ : State} {s : State} (d : List Byte) (f : Nat) (n : Nat) (hK : Keeps q₀ s) :
    Keeps q₀ (releaseSources s d f n) := by
  unfold releaseSources
  repeat' first
    | with_reducible assumption
    | (refine Keeps.ofEq (by with_reducible assumption) ?_)
    | with_reducible apply flagRelease_keeps
    | with_reducible apply Keeps.foldl
    | with_reducible apply Keeps.foldlFst
    | (with_reducible apply Keeps.ite <;> intro _)
    | split
    | dsimp only
    | (intro _)

theorem runPyr_keeps {q₀ : State} {s : State} (dom : Nat) (r : EngRun) (hK : Keeps q₀ s) :
    Keeps q₀ (runPyr s dom r).1 := by
  unfold runPyr
  repeat' first
    | with_reducible assumption
    | (refine Keeps.ofEq (by with_reducible assumption) ?_)
    | with_reducible apply readPlanes_keeps
    | with_reducible apply writePlanes_keeps
    | with_reducible apply Keeps.foldl
    | with_reducible apply Keeps.foldlFst
    | split
    | dsimp only
    | (intro _)

theorem readMaps_keeps {q₀ : State} {s : State} (dom : Nat) (d : List Byte) (hK : Keeps q₀ s) :
    Keeps q₀ (readMaps s dom d).1 := by
  unfold readMaps
  repeat' first
    | with_reducible assumption
    | (refine Keeps.ofEq (by with_reducible assumption) ?_)
    | with_reducible apply readLocal_keeps
    | with_reducible apply Keeps.foldl
    | with_reducible apply Keeps.foldlFst
    | split
    | dsimp only
    | (intro _)

theorem runWarpSide_keeps {q₀ : State} {s : State} (dom : Nat) (r : EngRun) (i : Nat) (so : Nat) (do_ : Nat) (mo : Nat) (hK : Keeps q₀ s) :
    Keeps q₀ (runWarpSide s dom r i so do_ mo).1 := by
  unfold runWarpSide
  repeat' first
    | with_reducible assumption
    | (refine Keeps.ofEq (by with_reducible assumption) ?_)
    | with_reducible apply readPlanes_keeps
    | with_reducible apply writePlanes_keeps

theorem runWrp_keeps {q₀ : State} {s : State} (dom : Nat) (r : EngRun) (hK : Keeps q₀ s) :
    Keeps q₀ (runWrp s dom r).1 := by
  unfold runWrp
  repeat' first
    | with_reducible assumption
    | (refine Keeps.ofEq (by with_reducible assumption) ?_)
    | with_reducible apply runWarpSide_keeps
    | (with_reducible apply Keeps.iteFst <;> intro _)

end Sys2Proof.Machine
end

