-- ==== Sys2Proof/Laws/KeepsFlow.lean ====
section
/-! SUPPORT. Every operation of Machine/Flow.lean keeps the queue and the invariant. -/

namespace Sys2Proof.Machine

open Sys2Proof

theorem runFlw_keeps {q₀ : State} {s : State} (dom : Nat) (r : EngRun) (hK : Keeps q₀ s) :
    Keeps q₀ (runFlw s dom r).1 := by
  unfold runFlw
  repeat' first
    | with_reducible assumption
    | (refine Keeps.ofEq (by with_reducible assumption) ?_)
    | with_reducible apply readPlane_keeps
    | with_reducible apply readPlanes_keeps
    | with_reducible apply writePlanes_keeps
    | with_reducible apply Keeps.foldl
    | with_reducible apply Keeps.foldlFst
    | (with_reducible apply Keeps.iteFst <;> intro _)

theorem runSte_keeps {q₀ : State} {s : State} (dom : Nat) (r : EngRun) (hK : Keeps q₀ s) :
    Keeps q₀ (runSte s dom r).1 := by
  unfold runSte
  repeat' first
    | with_reducible assumption
    | (refine Keeps.ofEq (by with_reducible assumption) ?_)
    | with_reducible apply readPlane_keeps
    | with_reducible apply writePlanes_keeps
    | (with_reducible apply Keeps.iteFst <;> intro _)

end Sys2Proof.Machine
end

