-- ==== Sys2Proof/Laws/KeepsFeature.lean ====
section
/-! SUPPORT. Every operation of Machine/Feature.lean keeps the queue and the invariant. -/

namespace Sys2Proof.Machine

open Sys2Proof

theorem writeList_keeps {q₀ : State} {s : State} (dom : Nat) (a : Nat) (bs : List Byte) (bad : Bool) (hK : Keeps q₀ s) :
    Keeps q₀ (writeList s dom a bs bad).1 := by
  unfold writeList
  repeat' first
    | with_reducible assumption
    | (refine Keeps.ofEq (by with_reducible assumption) ?_)
    | with_reducible apply writeLocal_keeps
    | with_reducible apply Keeps.foldl
    | with_reducible apply Keeps.foldlFst
    | split
    | dsimp only
    | (intro _)

theorem runFea_keeps {q₀ : State} {s : State} (dom : Nat) (r : EngRun) (hK : Keeps q₀ s) :
    Keeps q₀ (runFea s dom r).1 := by
  unfold runFea
  repeat' first
    | with_reducible assumption
    | (refine Keeps.ofEq (by with_reducible assumption) ?_)
    | with_reducible apply readPlane_keeps
    | with_reducible apply readLocal_keeps
    | with_reducible apply writeList_keeps
    | (with_reducible apply Keeps.iteFst <;> intro _)

end Sys2Proof.Machine
end

