-- ==== Sys2Proof/Laws/KeepsObx.lean ====
section
/-! SUPPORT. Every operation of Machine/Obx.lean keeps the queue and the invariant. -/

namespace Sys2Proof.Machine

open Sys2Proof

theorem countDropped_keeps {q₀ : State} {s : State} (n : Nat) (hK : Keeps q₀ s) :
    Keeps q₀ (countDropped s n) := by
  unfold countDropped
  repeat' first
    | with_reducible assumption
    | (refine Keeps.ofEq (by with_reducible assumption) ?_)
    | (refine Keeps.upd ?_ rfl rfl rfl rfl; with_reducible assumption)

theorem obxPass_keeps {q₀ : State} {s : State} (dom : Nat) (r : EngRun) (n : Nat) (hK : Keeps q₀ s) :
    Keeps q₀ (obxPass s dom r n).1 := by
  unfold obxPass
  repeat' first
    | with_reducible assumption
    | (refine Keeps.ofEq (by with_reducible assumption) ?_)
    | with_reducible apply readPlanes_keeps
    | with_reducible apply readPlane_keeps
    | with_reducible apply writePlanes_keeps
    | with_reducible apply travelMismatch_keeps
    | with_reducible apply countDropped_keeps
    | (with_reducible apply Keeps.iteFst <;> intro _)
    | (intro _)
    | (refine Keeps.upd ?_ rfl rfl rfl rfl; first | with_reducible assumption | with_reducible apply Keeps.iteFst)

theorem startRun_keeps {q₀ : State} {s : State} (e : Nat) (r : EngRun) (n : Nat) (hK : Keeps q₀ s) :
    Keeps q₀ (startRun s e r n) := by
  unfold startRun
  repeat' first
    | with_reducible assumption
    | (refine Keeps.ofEq (by with_reducible assumption) ?_)
    | with_reducible apply emitTrace_keeps
    | with_reducible apply readHeaders_keeps
    | with_reducible apply readMaps_keeps
    | with_reducible apply bump_keeps
    | with_reducible apply postEvent_keeps
    | with_reducible apply obxPass_keeps
    | with_reducible apply setEngine_keeps
    | (with_reducible apply Keeps.ite <;> intro _)

theorem doEngineRunStart_keeps {q₀ : State} (engine : Nat) {s : State} (hK : Keeps q₀ s) :
    Keeps q₀ (doEngineRunStart engine s) := by
  unfold doEngineRunStart
  repeat' first
    | with_reducible assumption
    | (refine Keeps.ofEq (by with_reducible assumption) ?_)
    | with_reducible apply startRun_keeps
    | (with_reducible apply Keeps.ite <;> intro _)
    | split

theorem runEngine_keeps {q₀ : State} {s : State} (e : Nat) (dom : Nat) (r : EngRun) (hK : Keeps q₀ s) :
    Keeps q₀ (runEngine s e dom r).1 := by
  unfold runEngine
  repeat' first
    | with_reducible assumption
    | (refine Keeps.ofEq (by with_reducible assumption) ?_)
    | with_reducible apply runPyr_keeps
    | with_reducible apply runWrp_keeps
    | with_reducible apply runFlw_keeps
    | with_reducible apply runSte_keeps
    | with_reducible apply runFea_keeps
    | split

theorem engineEnd_keeps {q₀ : State} {s : State} (e : Nat) (r : EngRun) (n : Nat) (p : EngRep) (st : Status) (hK : Keeps q₀ s) :
    Keeps q₀ (engineEnd s e r n p st) := by
  unfold engineEnd
  repeat' first
    | with_reducible assumption
    | (refine Keeps.ofEq (by with_reducible assumption) ?_)
    | with_reducible apply emitTrace_keeps
    | with_reducible apply bump_keeps

theorem nonlocalEvent_keeps {q₀ : State} {s : State} (e : Nat) (r : EngRun) (p : EngRep) (hK : Keeps q₀ s) :
    Keeps q₀ (nonlocalEvent s e r p) := by
  unfold nonlocalEvent
  repeat' first
    | with_reducible assumption
    | (refine Keeps.ofEq (by with_reducible assumption) ?_)
    | with_reducible apply postEvent_keeps
    | (with_reducible apply Keeps.ite <;> intro _)

theorem overflowEvent_keeps {q₀ : State} {s : State} (e : Nat) (r : EngRun) (hK : Keeps q₀ s) :
    Keeps q₀ (overflowEvent s e r) := by
  unfold overflowEvent
  repeat' first
    | with_reducible assumption
    | (refine Keeps.ofEq (by with_reducible assumption) ?_)
    | with_reducible apply raiseDoubt_keeps
    | (with_reducible apply Keeps.ite <;> intro _)

theorem freeEngine_keeps {q₀ : State} {s : State} (e : Nat) (hK : Keeps q₀ s) :
    Keeps q₀ (freeEngine s e) := by
  unfold freeEngine
  repeat' first
    | with_reducible assumption
    | (refine Keeps.ofEq (by with_reducible assumption) ?_)
    | (refine Keeps.upd ?_ rfl rfl rfl rfl; with_reducible assumption)

theorem runMismatch_keeps {q₀ : State} {s : State} (e : Nat) (fails : List Nat) (hK : Keeps q₀ s) :
    Keeps q₀ (runMismatch s e fails) := travelMismatch_keeps _ _ _ _ _ hK

theorem rulesMismatch_keeps {q₀ : State} {s : State} (e : Nat) (r : EngRun) (hK : Keeps q₀ s) :
    Keeps q₀ (rulesMismatch s e r) := by
  unfold rulesMismatch
  repeat' first
    | with_reducible assumption
    | (refine Keeps.ofEq (by with_reducible assumption) ?_)
    | with_reducible apply travelMismatch_keeps
    | (with_reducible apply Keeps.ite <;> intro _)
    | (refine Keeps.upd ?_ rfl rfl rfl rfl; with_reducible assumption)

theorem finishRun_keeps {q₀ : State} {s : State} (e : Nat) (r : EngRun) (n : Nat) (hK : Keeps q₀ s) :
    Keeps q₀ (finishRun s e r n) := by
  unfold finishRun
  repeat' first
    | with_reducible assumption
    | (refine Keeps.ofEq (by with_reducible assumption) ?_)
    | with_reducible apply runEngine_keeps
    | with_reducible apply runMismatch_keeps
    | with_reducible apply rulesMismatch_keeps
    | with_reducible apply overflowEvent_keeps
    | with_reducible apply nonlocalEvent_keeps
    | with_reducible apply engineEnd_keeps
    | with_reducible apply setLast_keeps
    | with_reducible apply writeHeaders_keeps
    | with_reducible apply setBands_keeps
    | with_reducible apply flagSet_keeps
    | with_reducible apply nodeUnitDone_keeps
    | with_reducible apply freeEngine_keeps
    | with_reducible apply releaseSources_keeps
    | with_reducible apply Keeps.foldl
    | with_reducible apply Keeps.foldlFst
    | (with_reducible apply Keeps.ite <;> intro _)
    | split
    | dsimp only
    | (intro _)

theorem restUndefined_keeps {q₀ : State} {s : State} (x : PRef) (slot : Nat) (lines : Nat) (hK : Keeps q₀ s) :
    Keeps q₀ (restUndefined s x slot lines) := by
  unfold restUndefined
  repeat' first
    | with_reducible assumption
    | (refine Keeps.ofEq (by with_reducible assumption) ?_)
    | with_reducible apply scramble_keeps
    | with_reducible apply Keeps.foldl
    | with_reducible apply Keeps.foldlFst
    | split
    | dsimp only
    | (intro _)

theorem stopPlanes_keeps {q₀ : State} {s : State} (c : Nat) (f : Nat) (xs : List PRef) (hK : Keeps q₀ s) :
    Keeps q₀ (stopPlanes s c f xs) := by
  unfold stopPlanes
  repeat' first
    | with_reducible assumption
    | (refine Keeps.ofEq (by with_reducible assumption) ?_)
    | with_reducible apply setBandsTo_keeps
    | with_reducible apply restUndefined_keeps
    | with_reducible apply Keeps.foldl
    | with_reducible apply Keeps.foldlFst
    | split
    | dsimp only
    | (intro _)

theorem stopWork_keeps {q₀ : State} {s : State} (e : Nat) (dom : Nat) (r : EngRun) (hK : Keeps q₀ s) :
    Keeps q₀ (stopWork s e dom r).1 := by
  unfold stopWork
  repeat' first
    | with_reducible assumption
    | (refine Keeps.ofEq (by with_reducible assumption) ?_)
    | with_reducible apply scramble_keeps
    | with_reducible apply restUndefined_keeps
    | with_reducible apply runEngine_keeps
    | with_reducible apply stopPlanes_keeps
    | with_reducible apply Keeps.foldl
    | with_reducible apply Keeps.foldlFst
    | (with_reducible apply Keeps.ite <;> intro _)
    | (refine Keeps.upd ?_ rfl rfl rfl rfl; first | with_reducible assumption | (refine Keeps.ofEq (by with_reducible assumption) ?_) | with_reducible apply scramble_keeps | with_reducible apply restUndefined_keeps | with_reducible apply runEngine_keeps | with_reducible apply stopPlanes_keeps | with_reducible apply Keeps.foldl | with_reducible apply Keeps.foldlFst)
    | split

theorem stopRun_keeps {q₀ : State} {s : State} (e : Nat) (r : EngRun) (n : Nat) (hK : Keeps q₀ s) :
    Keeps q₀ (stopRun s e r n) := by
  unfold stopRun
  repeat' first
    | with_reducible assumption
    | (refine Keeps.ofEq (by with_reducible assumption) ?_)
    | with_reducible apply releaseSources_keeps
    | with_reducible apply freeEngine_keeps
    | with_reducible apply stopWork_keeps
    | with_reducible apply overflowEvent_keeps
    | with_reducible apply runMismatch_keeps
    | with_reducible apply rulesMismatch_keeps
    | with_reducible apply engineEnd_keeps
    | with_reducible apply countDropped_keeps
    | (with_reducible apply Keeps.ite <;> intro _)

theorem doEngineRunDone_keeps {q₀ : State} (engine : Nat) {s : State} (hK : Keeps q₀ s) :
    Keeps q₀ (doEngineRunDone engine s) := by
  unfold doEngineRunDone
  repeat' first
    | with_reducible assumption
    | (refine Keeps.ofEq (by with_reducible assumption) ?_)
    | with_reducible apply stopRun_keeps
    | with_reducible apply finishRun_keeps
    | (with_reducible apply Keeps.ite <;> intro _)
    | split

theorem emitObject_keeps {q₀ : State} {s : State} (e : Nat) (r : EngRun) (n : Nat) (c : Comp) (rest : List Comp) (hK : Keeps q₀ s) :
    Keeps q₀ (emitObject s e r n c rest) := by
  unfold emitObject
  repeat' first
    | with_reducible assumption
    | (refine Keeps.ofEq (by with_reducible assumption) ?_)
    | with_reducible apply writeLocal_keeps
    | with_reducible apply setEngine_keeps
    | with_reducible apply deliverStub_keeps
    | (with_reducible apply Keeps.ite <;> intro _)
    | (refine Keeps.upd ?_ rfl rfl rfl rfl; first | with_reducible assumption | (refine Keeps.ofEq (by with_reducible assumption) ?_) | with_reducible apply writeLocal_keeps | with_reducible apply setEngine_keeps | with_reducible apply deliverStub_keeps)

theorem doObxObjectEmit_keeps {q₀ : State} (cluster : Nat) {s : State} (hK : Keeps q₀ s) :
    Keeps q₀ (doObxObjectEmit cluster s) := by
  unfold doObxObjectEmit
  repeat' first
    | with_reducible assumption
    | (refine Keeps.ofEq (by with_reducible assumption) ?_)
    | with_reducible apply emitObject_keeps
    | (with_reducible apply Keeps.ite <;> intro _)
    | split
    | dsimp only

end Sys2Proof.Machine
end

