-- ==== Sys2Proof/Laws/KeepsCoreRows.lean ====
section
/-! SUPPORT. Every operation of Machine/CoreRows.lean keeps the queue and the invariant. -/

namespace Sys2Proof.Machine

open Sys2Proof

theorem doCoreUnitStart_keeps {q₀ : State} (c : Nat) {s : State} (hK : Keeps q₀ s) :
    Keeps q₀ (doCoreUnitStart c s) := by
  unfold doCoreUnitStart
  repeat' first
    | with_reducible assumption
    | (refine Keeps.ofEq (by with_reducible assumption) ?_)
    | with_reducible apply setCore_keeps
    | with_reducible apply emitTrace_keeps
    | with_reducible apply setUnit_keeps
    | (with_reducible apply Keeps.ite <;> intro _)
    | split

theorem opRefused_keeps {q₀ : State} {s : State} (c : Nat) (u : CoreUnit) (op : Nat) (st : Status) (issue : Nat) (hK : Keeps q₀ s) :
    Keeps q₀ (opRefused s c u op st issue) := by
  unfold opRefused
  repeat' first
    | with_reducible assumption
    | (refine Keeps.ofEq (by with_reducible assumption) ?_)
    | with_reducible apply raiseDoubt_keeps

theorem endEarly_keeps {q₀ : State} {s : State} (c : Nat) (u : CoreUnit) (op : Nat) (st : Status) (issue : Nat) (hK : Keeps q₀ s) :
    Keeps q₀ (endEarly s c u op st issue) := by
  unfold endEarly
  repeat' first
    | with_reducible assumption
    | (refine Keeps.ofEq (by with_reducible assumption) ?_)
    | with_reducible apply coreStop_keeps
    | with_reducible apply opRefused_keeps
    | with_reducible apply setUnit_keeps

theorem scalarFault_keeps {q₀ : State} {s : State} (c : Nat) (u : CoreUnit) (op : Nat) (st : Status) (hK : Keeps q₀ s) :
    Keeps q₀ (scalarFault s c u op st) := by
  unfold scalarFault
  repeat' first
    | with_reducible assumption
    | (refine Keeps.ofEq (by with_reducible assumption) ?_)
    | with_reducible apply endEarly_keeps

theorem scalarLoad_keeps {q₀ : State} {s : State} (c : Nat) (u : CoreUnit) (n : Nat) (a : Nat) (rd : Nat) (bad : Bool) (hK : Keeps q₀ s) :
    Keeps q₀ (scalarLoad s c u n a rd bad) := by
  unfold scalarLoad
  repeat' first
    | with_reducible assumption
    | (refine Keeps.ofEq (by with_reducible assumption) ?_)
    | with_reducible apply meetRange_keeps
    | with_reducible apply setUnit_keeps

theorem scalarStore_keeps {q₀ : State} {s : State} (c : Nat) (u : CoreUnit) (n : Nat) (a : Nat) (rd : Nat) (bad : Bool) (hK : Keeps q₀ s) :
    Keeps q₀ (scalarStore s c u n a rd bad) := by
  unfold scalarStore
  repeat' first
    | with_reducible assumption
    | (refine Keeps.ofEq (by with_reducible assumption) ?_)
    | with_reducible apply putBytes_keeps
    | with_reducible apply meetMerge_keeps
    | with_reducible apply setUnit_keeps

theorem scalarExec_keeps {q₀ : State} {s : State} (c : Nat) (u : CoreUnit) (w : Nat) (bad : Bool) (hK : Keeps q₀ s) :
    Keeps q₀ (scalarExec s c u w bad) := by
  unfold scalarExec
  repeat' first
    | with_reducible assumption
    | (refine Keeps.ofEq (by with_reducible assumption) ?_)
    | with_reducible apply setUnit_keeps
    | with_reducible apply scalarFault_keeps
    | with_reducible apply scalarStore_keeps
    | with_reducible apply scalarLoad_keeps
    | (with_reducible apply Keeps.ite <;> intro _)

theorem listEndFault_keeps {q₀ : State} {s : State} (c : Nat) (u : CoreUnit) (hK : Keeps q₀ s) :
    Keeps q₀ (listEndFault s c u) := by
  unfold listEndFault
  repeat' first
    | with_reducible assumption
    | (refine Keeps.ofEq (by with_reducible assumption) ?_)
    | with_reducible apply scalarFault_keeps
    | (refine Keeps.upd ?_ rfl rfl rfl rfl; with_reducible assumption)

theorem doScalarInstruction_keeps {q₀ : State} (c : Nat) {s : State} (hK : Keeps q₀ s) :
    Keeps q₀ (doScalarInstruction c s) := by
  unfold doScalarInstruction
  repeat' first
    | with_reducible assumption
    | (refine Keeps.ofEq (by with_reducible assumption) ?_)
    | with_reducible apply listEndFault_keeps
    | with_reducible apply meetRange_keeps
    | with_reducible apply scalarExec_keeps
    | (with_reducible apply Keeps.ite <;> intro _)
    | split

theorem meetRecord_keeps {q₀ : State} {s : State} (c : Nat) (a : Nat) (hK : Keeps q₀ s) :
    Keeps q₀ (meetRecord s c a) := by
  unfold meetRecord
  repeat' first
    | with_reducible assumption
    | (refine Keeps.ofEq (by with_reducible assumption) ?_)
    | with_reducible apply meet_keeps

theorem refuseRecord_keeps {q₀ : State} {s : State} (c : Nat) (u : CoreUnit) (op : Nat) (st : Status) (hK : Keeps q₀ s) :
    Keeps q₀ (refuseRecord s c u op st) := by
  unfold refuseRecord
  repeat' first
    | with_reducible assumption
    | (refine Keeps.ofEq (by with_reducible assumption) ?_)
    | with_reducible apply endEarly_keeps

theorem issueRow_keeps {q₀ : State} {s : State} (c : Nat) (u : CoreUnit) (row : Nat) (hK : Keeps q₀ s) :
    Keeps q₀ (issueRow s c u row) := by
  unfold issueRow
  repeat' first
    | with_reducible assumption
    | (refine Keeps.ofEq (by with_reducible assumption) ?_)
    | with_reducible apply refuseRecord_keeps
    | with_reducible apply meetRecord_keeps
    | with_reducible apply setUnit_keeps
    | (with_reducible apply Keeps.ite <;> intro _)
    | (refine Keeps.upd ?_ rfl rfl rfl rfl; first | with_reducible assumption | (refine Keeps.ofEq (by with_reducible assumption) ?_) | with_reducible apply refuseRecord_keeps | with_reducible apply meetRecord_keeps | with_reducible apply setUnit_keeps)
    | split

theorem doIssue_keeps {q₀ : State} (c : Nat) {s : State} (hK : Keeps q₀ s) :
    Keeps q₀ (doIssue c s) := by
  unfold doIssue
  repeat' first
    | with_reducible assumption
    | (refine Keeps.ofEq (by with_reducible assumption) ?_)
    | with_reducible apply issueRow_keeps
    | (with_reducible apply Keeps.ite <;> intro _)
    | split

theorem doOpStart_keeps {q₀ : State} (c : Nat) (vector : Bool) {s : State} (hK : Keeps q₀ s) :
    Keeps q₀ (doOpStart c vector s) := by
  unfold doOpStart
  repeat' first
    | with_reducible assumption
    | (refine Keeps.ofEq (by with_reducible assumption) ?_)
    | with_reducible apply setUnit_keeps
    | (with_reducible apply Keeps.ite <;> intro _)
    | split

theorem coreParity_keeps {q₀ : State} {s : State} (c : Nat) (u : CoreUnit) (o : CoreOp) (hK : Keeps q₀ s) :
    Keeps q₀ (coreParity s c u o) := by
  unfold coreParity
  repeat' first
    | with_reducible assumption
    | (refine Keeps.ofEq (by with_reducible assumption) ?_)
    | with_reducible apply raiseDoubt_keeps

theorem finishOp_keeps {q₀ : State} {s : State} (c : Nat) (u : CoreUnit) (o : CoreOp) (parity : List Nat) (hK : Keeps q₀ s) :
    Keeps q₀ (finishOp s c u o parity) := by
  unfold finishOp
  repeat' first
    | with_reducible assumption
    | (refine Keeps.ofEq (by with_reducible assumption) ?_)
    | with_reducible apply runOp_keeps
    | with_reducible apply coreParity_keeps
    | with_reducible apply setUnit_keeps
    | with_reducible apply Keeps.foldl
    | with_reducible apply Keeps.foldlFst
    | split
    | dsimp only
    | (intro _)

theorem doOpComplete_keeps {q₀ : State} (c : Nat) (issueNo : Nat) (parity : List Nat) {s : State} (hK : Keeps q₀ s) :
    Keeps q₀ (doOpComplete c issueNo parity s) := by
  unfold doOpComplete
  repeat' first
    | with_reducible assumption
    | (refine Keeps.ofEq (by with_reducible assumption) ?_)
    | with_reducible apply finishOp_keeps
    | with_reducible apply meet_keeps
    | (with_reducible apply Keeps.ite <;> intro _)
    | split

theorem doSpawn_keeps {q₀ : State} (c : Nat) {s : State} (hK : Keeps q₀ s) :
    Keeps q₀ (doSpawn c s) := by
  unfold doSpawn
  repeat' first
    | with_reducible assumption
    | (refine Keeps.ofEq (by with_reducible assumption) ?_)
    | with_reducible apply meetRange_keeps
    | with_reducible apply setUnit_keeps
    | (with_reducible apply Keeps.ite <;> intro _)
    | (refine Keeps.upd ?_ rfl rfl rfl rfl; first | with_reducible assumption | (refine Keeps.ofEq (by with_reducible assumption) ?_) | with_reducible apply meetRange_keeps | with_reducible apply setUnit_keeps)
    | split
    | dsimp only

theorem doCoreUnitComplete_keeps {q₀ : State} (c : Nat) {s : State} (hK : Keeps q₀ s) :
    Keeps q₀ (doCoreUnitComplete c s) := by
  unfold doCoreUnitComplete
  repeat' first
    | with_reducible assumption
    | (refine Keeps.ofEq (by with_reducible assumption) ?_)
    | with_reducible apply bump_keeps
    | with_reducible apply closeUnit_keeps
    | with_reducible apply nodeUnitDone_keeps
    | with_reducible apply signalPool_keeps
    | (with_reducible apply Keeps.ite <;> intro _)
    | split

end Sys2Proof.Machine
end

