-- ==== Sys2Proof/Laws/KeepsMonitor.lean ====
section
/-! SUPPORT. Every operation of Machine/Monitor.lean keeps the queue and the invariant. -/

namespace Sys2Proof.Machine

open Sys2Proof

theorem setPolicy_keeps {q₀ : State} {s : State} (pol : List Byte) (hK : Keeps q₀ s) :
    Keeps q₀ (setPolicy s pol) := by
  unfold setPolicy
  repeat' first
    | with_reducible assumption
    | (refine Keeps.ofEq (by with_reducible assumption) ?_)
    | with_reducible apply updateDoubt_keeps
    | (refine Keeps.upd ?_ rfl rfl rfl rfl; with_reducible assumption)

theorem cmdSafetyArm_keeps {q₀ : State} (pol : List Byte) {s : State} (hK : Keeps q₀ s) :
    Keeps q₀ (cmdSafetyArm pol s).1 := by
  unfold cmdSafetyArm
  repeat' first
    | with_reducible assumption
    | (refine Keeps.ofEq (by with_reducible assumption) ?_)
    | with_reducible apply refuse_keeps
    | with_reducible apply refuseAt_keeps
    | with_reducible apply okDone_keeps
    | with_reducible apply setPolicy_keeps
    | (with_reducible apply Keeps.iteFst <;> intro _)
    | split

theorem cmdSafetyDisarm_keeps {q₀ : State} {s : State} (hK : Keeps q₀ s) :
    Keeps q₀ (cmdSafetyDisarm s).1 := by
  unfold cmdSafetyDisarm
  repeat' first
    | with_reducible assumption
    | (refine Keeps.ofEq (by with_reducible assumption) ?_)
    | with_reducible apply refuse_keeps
    | with_reducible apply okDone_keeps
    | with_reducible apply updateDoubt_keeps
    | (with_reducible apply Keeps.iteFst <;> intro _)
    | (refine Keeps.upd ?_ rfl rfl rfl rfl; with_reducible assumption)

theorem cmdSafetyStatus_keeps {q₀ : State} {s : State} (hK : Keeps q₀ s) :
    Keeps q₀ (cmdSafetyStatus s).1 := by
  unfold cmdSafetyStatus
  repeat' first
    | with_reducible assumption
    | (refine Keeps.ofEq (by with_reducible assumption) ?_)
    | with_reducible apply okWith_keeps

theorem clearCond_keeps {q₀ : State} {s : State} (c : Cond) (hK : Keeps q₀ s) :
    Keeps q₀ (clearCond s c) := by
  unfold clearCond
  repeat' first
    | with_reducible assumption
    | (refine Keeps.ofEq (by with_reducible assumption) ?_)
    | with_reducible apply updateDoubt_keeps
    | with_reducible apply postEvent_keeps
    | (with_reducible apply Keeps.ite <;> intro _)
    | (refine Keeps.upd ?_ rfl rfl rfl rfl; with_reducible assumption)

theorem cmdSafetyClear_keeps {q₀ : State} (source : Nat) (kind : Nat) (scope : Nat) {s : State} (hK : Keeps q₀ s) :
    Keeps q₀ (cmdSafetyClear source kind scope s).1 := by
  unfold cmdSafetyClear
  repeat' first
    | with_reducible assumption
    | (refine Keeps.ofEq (by with_reducible assumption) ?_)
    | with_reducible apply clearCond_keeps
    | with_reducible apply okWith_keeps
    | with_reducible apply refuseAt_keeps
    | with_reducible apply refuse_keeps
    | with_reducible apply Keeps.foldl
    | with_reducible apply Keeps.foldlFst
    | (with_reducible apply Keeps.iteFst <;> intro _)

theorem cmdFbcLoad_keeps {q₀ : State} (h : CmdHdr) (pipe : Nat) (r : Nat) (addr : Nat) {s : State} (hK : Keeps q₀ s) :
    Keeps q₀ (cmdFbcLoad h pipe r addr s).1 := by
  unfold cmdFbcLoad
  repeat' first
    | with_reducible assumption
    | (refine Keeps.ofEq (by with_reducible assumption) ?_)
    | with_reducible apply refuseAt_keeps
    | with_reducible apply refuse_keeps
    | with_reducible apply readStruct_keeps
    | with_reducible apply okDone_keeps
    | with_reducible apply rulesWritten_keeps
    | (with_reducible apply Keeps.iteFst <;> intro _)
    | (refine Keeps.upd ?_ rfl rfl rfl rfl; first | with_reducible assumption | (refine Keeps.ofEq (by with_reducible assumption) ?_) | with_reducible apply refuseAt_keeps | with_reducible apply refuse_keeps | with_reducible apply readStruct_keeps | with_reducible apply rulesWritten_keeps)

theorem cmdFbcRead_keeps {q₀ : State} (pipe : Nat) (r : Nat) {s : State} (hK : Keeps q₀ s) :
    Keeps q₀ (cmdFbcRead pipe r s).1 := by
  unfold cmdFbcRead
  repeat' first
    | with_reducible assumption
    | (refine Keeps.ofEq (by with_reducible assumption) ?_)
    | with_reducible apply refuse_keeps
    | with_reducible apply refuseAt_keeps
    | with_reducible apply okWith_keeps
    | (with_reducible apply Keeps.iteFst <;> intro _)

theorem doPmbAlert_keeps {q₀ : State} {s : State} (hK : Keeps q₀ s) :
    Keeps q₀ (doPmbAlert s) := by
  unfold doPmbAlert
  repeat' first
    | with_reducible assumption
    | (refine Keeps.ofEq (by with_reducible assumption) ?_)
    | with_reducible apply postEvent_keeps
    | (with_reducible apply Keeps.ite <;> intro _)

theorem doRefclkLoss_keeps {q₀ : State} {s : State} (hK : Keeps q₀ s) :
    Keeps q₀ (doRefclkLoss s) := by
  unfold doRefclkLoss
  repeat' first
    | with_reducible assumption
    | (refine Keeps.ofEq (by with_reducible assumption) ?_)
    | with_reducible apply failCond_keeps
    | with_reducible apply postEvent_keeps
    | (with_reducible apply Keeps.ite <;> intro _)
    | (refine Keeps.upd ?_ rfl rfl rfl rfl; with_reducible assumption)

theorem doVmon_keeps {q₀ : State} (rail : Nat) (mv : Nat) {s : State} (hK : Keeps q₀ s) :
    Keeps q₀ (doVmon rail mv s) := by
  unfold doVmon
  repeat' first
    | with_reducible assumption
    | (refine Keeps.ofEq (by with_reducible assumption) ?_)
    | with_reducible apply failCond_keeps
    | with_reducible apply postEvent_keeps
    | (with_reducible apply Keeps.ite <;> intro _)

theorem doClkMon_keeps {q₀ : State} (island : Nat) (ppm : Int) {s : State} (hK : Keeps q₀ s) :
    Keeps q₀ (doClkMon island ppm s) := by
  unfold doClkMon
  repeat' first
    | with_reducible assumption
    | (refine Keeps.ofEq (by with_reducible assumption) ?_)
    | with_reducible apply failCond_keeps
    | with_reducible apply postEvent_keeps
    | (with_reducible apply Keeps.ite <;> intro _)

theorem doDoubtLevelEnd_keeps {q₀ : State} (source : Nat) (kind : Nat) (scope : Nat) {s : State} (hK : Keeps q₀ s) :
    Keeps q₀ (doDoubtLevelEnd source kind scope s) := by
  unfold doDoubtLevelEnd
  repeat' first
    | with_reducible assumption
    | (refine Keeps.ofEq (by with_reducible assumption) ?_)
    | with_reducible apply endLevel_keeps
    | (with_reducible apply Keeps.ite <;> intro _)
    | (refine Keeps.upd ?_ rfl rfl rfl rfl; first | with_reducible assumption | (refine Keeps.ofEq (by with_reducible assumption) ?_) | with_reducible apply endLevel_keeps)

theorem modGolden_keeps {q₀ : State} {s : State} (cls : Nat) (unit : Nat) (p : Golden → Golden) (hK : Keeps q₀ s) :
    Keeps q₀ (modGolden s cls unit p) := by
  unfold modGolden
  repeat' first
    | with_reducible assumption
    | (refine Keeps.ofEq (by with_reducible assumption) ?_)
    | (refine Keeps.upd ?_ rfl rfl rfl rfl; with_reducible assumption)

theorem goldenFail_keeps {q₀ : State} {s : State} (cls : Nat) (unit : Nat) (cause : Nat) (hK : Keeps q₀ s) :
    Keeps q₀ (goldenFail s cls unit cause) := by
  unfold goldenFail
  repeat' first
    | with_reducible assumption
    | (refine Keeps.ofEq (by with_reducible assumption) ?_)
    | with_reducible apply raiseDoubt_keeps

theorem doGoldenRunStart_keeps {q₀ : State} (cls : Nat) (unit : Nat) {s : State} (hK : Keeps q₀ s) :
    Keeps q₀ (doGoldenRunStart cls unit s) := by
  unfold doGoldenRunStart
  repeat' first
    | with_reducible assumption
    | (refine Keeps.ofEq (by with_reducible assumption) ?_)
    | with_reducible apply modGolden_keeps
    | with_reducible apply drawTokens_keeps
    | with_reducible apply emitTrace_keeps
    | (with_reducible apply Keeps.ite <;> intro _)

theorem rewriteGolden_keeps {q₀ : State} {s : State} (cls unit : Nat) (h : Keeps q₀ s) :
    Keeps q₀ (rewriteGolden s cls unit) := by
  unfold rewriteGolden
  split
  · exact h.change rfl h.inv.mem (marksFold_wf (fun _ g ht => (marks_wf_iff _).2
      (tabErase_wf g ((marks_wf_iff _).1 ht))) h.inv.marks) h.inv.events h.inv.history h.inv.traces h.inv.aon (.refl _)
  · exact h

theorem goldenTraceEnd_keeps {q₀ : State} {s : State} (cls : Nat) (unit : Nat) (hK : Keeps q₀ s) :
    Keeps q₀ (goldenTraceEnd s cls unit) := by
  unfold goldenTraceEnd
  repeat' first
    | with_reducible assumption
    | with_reducible apply emitTrace_keeps
    | (with_reducible apply Keeps.ite <;> intro _)
    | (refine Keeps.upd ?_ rfl rfl rfl rfl; with_reducible assumption)

theorem endGolden_keeps {q₀ : State} {s : State} (cls : Nat) (unit : Nat) (cause : Option Nat) (hK : Keeps q₀ s) :
    Keeps q₀ (endGolden s cls unit cause) := by
  unfold endGolden
  repeat' first
    | with_reducible assumption
    | with_reducible apply goldenTraceEnd_keeps
    | (refine Keeps.ofEq (by with_reducible assumption) ?_)
    | with_reducible apply modGolden_keeps
    | with_reducible apply emitTrace_keeps
    | with_reducible apply rewriteGolden_keeps
    | with_reducible apply goldenFail_keeps
    | with_reducible apply travelMismatch_keeps
    | split

theorem doGoldenRunDone_keeps {q₀ : State} (cls : Nat) (unit : Nat) (result : GoldenResult) {s : State} (hK : Keeps q₀ s) :
    Keeps q₀ (doGoldenRunDone cls unit result s) := by
  unfold doGoldenRunDone
  repeat' first
    | with_reducible assumption
    | (refine Keeps.ofEq (by with_reducible assumption) ?_)
    | with_reducible apply endGolden_keeps
    | (with_reducible apply Keeps.ite <;> intro _)

theorem doGoldenRunOverdue_keeps {q₀ : State} (cls : Nat) (unit : Nat) {s : State} (hK : Keeps q₀ s) :
    Keeps q₀ (doGoldenRunOverdue cls unit s) := by
  unfold doGoldenRunOverdue
  repeat' first
    | with_reducible assumption
    | (refine Keeps.ofEq (by with_reducible assumption) ?_)
    | with_reducible apply endGolden_keeps
    | with_reducible apply advanceTo_keeps
    | (with_reducible apply Keeps.ite <;> intro _)
    | split

theorem closeOne_keeps {q₀ : State} (n : Nat) {s : State} (c : Cond) (hK : Keeps q₀ s) :
    Keeps q₀ (closeOne n s c) := by
  unfold closeOne
  repeat' first
    | with_reducible assumption
    | (refine Keeps.ofEq (by with_reducible assumption) ?_)
    | with_reducible apply postEvent_keeps
    | (with_reducible apply Keeps.ite <;> intro _)
    | (refine Keeps.upd ?_ rfl rfl rfl rfl; with_reducible assumption)

theorem closeGolden_keeps {q₀ : State} {s : State} (hK : Keeps q₀ s) :
    Keeps q₀ (closeGolden s) := by
  unfold closeGolden
  repeat' first
    | with_reducible assumption
    | (refine Keeps.ofEq (by with_reducible assumption) ?_)
    | with_reducible apply endGolden_keeps
    | with_reducible apply Keeps.foldl
    | with_reducible apply Keeps.foldlFst
    | split
    | dsimp only
    | (intro _)

theorem closePattern_keeps {q₀ : State} (n : Nat) {s : State} (e : Nat × Pipe) (hK : Keeps q₀ s) :
    Keeps q₀ (closePattern n s e) := by
  unfold closePattern
  repeat' first
    | with_reducible assumption
    | (refine Keeps.ofEq (by with_reducible assumption) ?_)
    | with_reducible apply raiseDoubt_keeps
    | (with_reducible apply Keeps.ite <;> intro _)
    | (refine Keeps.upd ?_ rfl rfl rfl rfl; with_reducible assumption)

theorem doFrameIntervalEnd_keeps {q₀ : State} {s : State} (hK : Keeps q₀ s) :
    Keeps q₀ (doFrameIntervalEnd s) := by
  unfold doFrameIntervalEnd
  repeat' first
    | with_reducible assumption
    | (refine Keeps.ofEq (by with_reducible assumption) ?_)
    | with_reducible apply advanceTo_keeps
    | with_reducible apply closeOne_keeps
    | with_reducible apply closeGolden_keeps
    | with_reducible apply closePattern_keeps
    | with_reducible apply updateDoubt_keeps
    | with_reducible apply Keeps.foldl
    | with_reducible apply Keeps.foldlFst
    | (with_reducible apply Keeps.ite <;> intro _)
    | (refine Keeps.upd ?_ rfl rfl rfl rfl; first | with_reducible assumption | (refine Keeps.ofEq (by with_reducible assumption) ?_) | with_reducible apply advanceTo_keeps | with_reducible apply closeOne_keeps | with_reducible apply closeGolden_keeps | with_reducible apply closePattern_keeps | with_reducible apply updateDoubt_keeps | with_reducible apply Keeps.foldl)

theorem doDoubtPulseEnd_keeps {q₀ : State} {s : State} (hK : Keeps q₀ s) :
    Keeps q₀ (doDoubtPulseEnd s) := by
  unfold doDoubtPulseEnd
  repeat' first
    | with_reducible assumption
    | (refine Keeps.ofEq (by with_reducible assumption) ?_)
    | with_reducible apply updateDoubt_keeps
    | with_reducible apply advanceTo_keeps
    | (refine Keeps.upd ?_ rfl rfl rfl rfl; first | with_reducible assumption | (refine Keeps.ofEq (by with_reducible assumption) ?_) | with_reducible apply updateDoubt_keeps | with_reducible apply advanceTo_keeps)
    | split

theorem deferTest_keeps {q₀ : State} {s : State} (hK : Keeps q₀ s) :
    Keeps q₀ (deferTest s) := by
  unfold deferTest
  repeat' first
    | with_reducible assumption
    | (refine Keeps.ofEq (by with_reducible assumption) ?_)
    | with_reducible apply failCond_keeps
    | with_reducible apply postEvent_keeps
    | (with_reducible apply Keeps.ite <;> intro _)
    | (refine Keeps.upd ?_ rfl rfl rfl rfl; first | with_reducible assumption | (refine Keeps.ofEq (by with_reducible assumption) ?_) | with_reducible apply failCond_keeps | with_reducible apply postEvent_keeps)
    | split
    | dsimp only

theorem doMonthSlotStart_keeps {q₀ : State} {s : State} (hK : Keeps q₀ s) :
    Keeps q₀ (doMonthSlotStart s) := by
  unfold doMonthSlotStart
  repeat' first
    | with_reducible assumption
    | (refine Keeps.ofEq (by with_reducible assumption) ?_)
    | with_reducible apply advanceTo_keeps
    | with_reducible apply deferTest_keeps
    | (with_reducible apply Keeps.ite <;> intro _)
    | (refine Keeps.upd ?_ rfl rfl rfl rfl; first | with_reducible assumption | (refine Keeps.ofEq (by with_reducible assumption) ?_) | with_reducible apply advanceTo_keeps | with_reducible apply deferTest_keeps)
    | split
    | dsimp only

theorem doSelfTestStart_keeps {q₀ : State} (duration : Nat) {s : State} (hK : Keeps q₀ s) :
    Keeps q₀ (doSelfTestStart duration s) := by
  unfold doSelfTestStart
  repeat' first
    | with_reducible assumption
    | (refine Keeps.ofEq (by with_reducible assumption) ?_)
    | (with_reducible apply Keeps.ite <;> intro _)
    | (refine Keeps.upd ?_ rfl rfl rfl rfl; first | with_reducible assumption | with_reducible apply drawAll_keeps)

theorem testPassed_keeps {q₀ : State} {s : State} (g : Nat) (hK : Keeps q₀ s) :
    Keeps q₀ (testPassed s g) := by
  unfold testPassed
  repeat' first
    | with_reducible assumption
    | (refine Keeps.ofEq (by with_reducible assumption) ?_)
    | with_reducible apply endLevel_keeps
    | (with_reducible apply Keeps.ite <;> intro _)
    | (refine Keeps.upd ?_ rfl rfl rfl rfl; with_reducible assumption)

theorem doSelfTestDone_keeps {q₀ : State} (badChecker : Option Nat) {s : State} (hK : Keeps q₀ s) :
    Keeps q₀ (doSelfTestDone badChecker s) := by
  unfold doSelfTestDone
  repeat' first
    | with_reducible assumption
    | (refine Keeps.ofEq (by with_reducible assumption) ?_)
    | with_reducible apply raiseDoubt_keeps
    | with_reducible apply testPassed_keeps
    | (with_reducible apply Keeps.ite <;> intro _)
    | (refine Keeps.upd ?_ rfl rfl rfl rfl; first | with_reducible assumption | (refine Keeps.ofEq (by with_reducible assumption) ?_) | with_reducible apply raiseDoubt_keeps | with_reducible apply testPassed_keeps)
    | split

end Sys2Proof.Machine
end

