-- ==== Sys2Proof/Laws/KeepsTrace.lean ====
section
/-! SUPPORT. Every operation of Machine/Trace.lean keeps the queue and the invariant. -/

namespace Sys2Proof.Machine

open Sys2Proof

theorem putSlot_keeps {q₀ : State} {s : State} (c : Nat) (b : List Byte) (hK : Keeps q₀ s) :
    Keeps q₀ (putSlot s c b) := by
  unfold putSlot
  repeat' first
    | with_reducible assumption
    | (refine Keeps.ofEq (by with_reducible assumption) ?_)
    | with_reducible apply putBytes_keeps
    | with_reducible apply setTrace_keeps
    | (with_reducible apply Keeps.ite <;> intro _)

theorem lossFull_keeps {q₀ : State} {s : State} (c : Nat) (hK : Keeps q₀ s) :
    Keeps q₀ (lossFull s c) := by
  unfold lossFull
  repeat' first
    | with_reducible assumption
    | (refine Keeps.ofEq (by with_reducible assumption) ?_)
    | with_reducible apply putBytes_keeps
    | with_reducible apply setTrace_keeps

theorem enterFull_keeps {q₀ : State} {s : State} (c : Nat) (hK : Keeps q₀ s) :
    Keeps q₀ (enterFull s c) := by
  unfold enterFull
  repeat' first
    | with_reducible assumption
    | (refine Keeps.ofEq (by with_reducible assumption) ?_)
    | with_reducible apply postEvent_keeps
    | with_reducible apply setTrace_keeps

theorem checkFull_keeps {q₀ : State} {s : State} (c : Nat) (hK : Keeps q₀ s) :
    Keeps q₀ (checkFull s c) := by
  unfold checkFull
  repeat' first
    | with_reducible assumption
    | (refine Keeps.ofEq (by with_reducible assumption) ?_)
    | with_reducible apply enterFull_keeps
    | (with_reducible apply Keeps.ite <;> intro _)

theorem appendRecord_keeps {q₀ : State} {s : State} (c : Nat) (r : TraceRec) (hK : Keeps q₀ s) :
    Keeps q₀ (appendRecord s c r) := by
  unfold appendRecord
  repeat' first
    | with_reducible assumption
    | (refine Keeps.ofEq (by with_reducible assumption) ?_)
    | with_reducible apply lossFull_keeps
    | with_reducible apply setTrace_keeps
    | with_reducible apply enterFull_keeps
    | with_reducible apply checkFull_keeps
    | with_reducible apply putSlot_keeps
    | with_reducible apply Keeps.foldl
    | with_reducible apply Keeps.foldlFst
    | (with_reducible apply Keeps.ite <;> intro _)
    | split
    | dsimp only
    | (intro _)

theorem takeTrigger_keeps {q₀ : State} {s : State} (c : Nat) (cause : Nat) (hK : Keeps q₀ s) :
    Keeps q₀ (takeTrigger s c cause) := by
  unfold takeTrigger
  repeat' first
    | with_reducible assumption
    | (refine Keeps.ofEq (by with_reducible assumption) ?_)
    | with_reducible apply appendRecord_keeps
    | with_reducible apply setTrace_keeps
    | with_reducible apply postEvent_keeps
    | (with_reducible apply Keeps.ite <;> intro _)

theorem fireTrigger_keeps {q₀ : State} {s : State} (c : Nat) (cause : Nat) (hK : Keeps q₀ s) :
    Keeps q₀ (fireTrigger s c cause) := by
  unfold fireTrigger
  repeat' first
    | with_reducible assumption
    | (refine Keeps.ofEq (by with_reducible assumption) ?_)
    | with_reducible apply setTrace_keeps
    | with_reducible apply takeTrigger_keeps
    | (with_reducible apply Keeps.ite <;> intro _)

theorem offerRecord_keeps {q₀ : State} {s : State} (c : Nat) (r : TraceRec) (hK : Keeps q₀ s) :
    Keeps q₀ (offerRecord s c r) := by
  unfold offerRecord
  repeat' first
    | with_reducible assumption
    | (refine Keeps.ofEq (by with_reducible assumption) ?_)
    | with_reducible apply appendRecord_keeps
    | with_reducible apply fireTrigger_keeps
    | (with_reducible apply Keeps.ite <;> intro _)
    | split

theorem offerAll_keeps {q₀ : State} {s : State} (r : TraceRec) (hK : Keeps q₀ s) :
    Keeps q₀ (offerAll s r) := by
  unfold offerAll
  repeat' first
    | with_reducible assumption
    | (refine Keeps.ofEq (by with_reducible assumption) ?_)
    | with_reducible apply offerRecord_keeps
    | with_reducible apply Keeps.foldl
    | with_reducible apply Keeps.foldlFst
    | split
    | dsimp only
    | (intro _)

theorem doTraceRecordArrive_keeps {q₀ : State} (cls unit : Nat) {s : State} (h : Keeps q₀ s) :
    Keeps q₀ (doTraceRecordArrive cls unit s) := by
  unfold doTraceRecordArrive
  dsimp only
  split
  · exact h
  · split
    · exact h
    · rename_i r q hq
      refine offerAll_keeps _ (h.change rfl h.inv.mem h.inv.marks h.inv.events h.inv.history ?_ h.inv.aon (.refl _))
      have hle : fifoLen (r :: q) ≤ 16 := by
        have key : ∀ (t : Tab (List TraceRec)) (k : Nat), (∀ e ∈ t, fifoLen e.2 ≤ 16) → fifoLen (tabGet [] t k) ≤ 16 := by
          intro t k ht
          induction t with
          | nil => exact Nat.zero_le _
          | cons e t ih =>
            simp only [tabGet, tabGet?]
            split
            · exact ht e List.mem_cons_self
            · exact ih (fun x hx => ht x (List.mem_cons_of_mem _ hx))
        rw [← hq]
        exact key _ _ h.inv.traces
      rw [fifoLen_cons] at hle
      simp only [tabPut]
      split
      · exact fun e he => h.inv.traces e (List.mem_filter.1 he).1
      · exact fifos_tabSet _ (by omega) h.inv.traces

theorem copyBlock_keeps {q₀ : State} {s : State} (x : TraceCh) (first : Nat) (dests : List Nat) (hK : Keeps q₀ s) :
    Keeps q₀ (copyBlock s x first dests) := by
  unfold copyBlock
  repeat' first
    | with_reducible assumption
    | (refine Keeps.ofEq (by with_reducible assumption) ?_)
    | with_reducible apply putBytes_keeps
    | with_reducible apply Keeps.foldl
    | with_reducible apply Keeps.foldlFst
    | split
    | dsimp only
    | (intro _)

theorem doTraceSpillCopy_keeps {q₀ : State} (tch : Nat) {s : State} (hK : Keeps q₀ s) :
    Keeps q₀ (doTraceSpillCopy tch s) := by
  unfold doTraceSpillCopy
  repeat' first
    | with_reducible assumption
    | (refine Keeps.ofEq (by with_reducible assumption) ?_)
    | with_reducible apply meetRange_keeps
    | with_reducible apply setTrace_keeps
    | with_reducible apply copyBlock_keeps
    | with_reducible apply answer_keeps
    | (with_reducible apply Keeps.ite <;> intro _)

theorem cmdTraceStart_keeps {q₀ : State} (h : CmdHdr) (channel : Nat) (r : Nat) {s : State} (hK : Keeps q₀ s) :
    Keeps q₀ (cmdTraceStart h channel r s).1 := by
  unfold cmdTraceStart
  repeat' first
    | with_reducible assumption
    | (refine Keeps.ofEq (by with_reducible assumption) ?_)
    | with_reducible apply refuseAt_keeps
    | with_reducible apply fetchEntry_keeps
    | with_reducible apply refuse_keeps
    | with_reducible apply okDone_keeps
    | with_reducible apply setTrace_keeps
    | (with_reducible apply Keeps.iteFst <;> intro _)
    | split

theorem traceRefusal_keeps {q₀ : State} {s : State} {tch r : Nat}
    {x : State × CmdRes} (hx : traceRefusal s tch r = some x) (h : Keeps q₀ s) : Keeps q₀ x.1 := by
  have key : x.1 = s := by
    unfold traceRefusal at hx
    repeat' split at hx
    all_goals first
      | (cases hx; rfl)
      | cases hx
  rw [key]
  exact h

theorem padBlock_keeps {q₀ : State} {s : State} (c n : Nat) (h : Keeps q₀ s) : Keeps q₀ (padBlock s c n) := by
  induction n generalizing s with
  | zero => exact h
  | succ n ih =>
    unfold padBlock
    dsimp only
    split
    · exact h
    · exact ih (putBytes_keeps _ _ _ (setTrace_keeps _ _ h))

theorem cmdTraceStop_keeps {q₀ : State} (tch r : Nat) {s : State} (h : Keeps q₀ s) :
    Keeps q₀ (cmdTraceStop tch r s).1 := by
  have clear : ∀ {s : State}, Keeps q₀ s → Keeps q₀ { s with trace := { s.trace with fifos := [] } } := fun h =>
    h.change rfl h.inv.mem h.inv.marks h.inv.events h.inv.history (fun e he => absurd he List.not_mem_nil) h.inv.aon (.refl _)
  unfold cmdTraceStop
  split
  · exact traceRefusal_keeps (by assumption) h
  · have hp := padBlock_keeps tch 256 h
    extract_lets s1 x x' s2 s3
    have h3 : Keeps q₀ s3 := Keeps.ite (fun _ => setTrace_keeps _ _ hp) (fun _ => clear (setTrace_keeps _ _ hp))
    split
    · exact h3
    · exact h3

theorem cmdTraceStatus_keeps {q₀ : State} {s : State} (hK : Keeps q₀ s) :
    Keeps q₀ (cmdTraceStatus s).1 := by
  unfold cmdTraceStatus
  repeat' first
    | with_reducible assumption
    | (refine Keeps.ofEq (by with_reducible assumption) ?_)
    | with_reducible apply okWith_keeps

theorem cmdTraceTrigger_keeps {q₀ : State} (tch : Nat) (r : Nat) {s : State} (hK : Keeps q₀ s) :
    Keeps q₀ (cmdTraceTrigger tch r s).1 := by
  unfold cmdTraceTrigger
  repeat' first
    | with_reducible assumption
    | (refine Keeps.ofEq (by with_reducible assumption) ?_)
    | (refine traceRefusal_keeps (by with_reducible assumption) ?_)
    | with_reducible apply okDone_keeps
    | with_reducible apply fireTrigger_keeps
    | split

theorem cmdTraceMark_keeps {q₀ : State} (value : Nat) {s : State} (hK : Keeps q₀ s) :
    Keeps q₀ (cmdTraceMark value s).1 := by
  unfold cmdTraceMark
  repeat' first
    | with_reducible assumption
    | (refine Keeps.ofEq (by with_reducible assumption) ?_)
    | with_reducible apply okDone_keeps
    | with_reducible apply emitTrace_keeps

theorem latchFold_fifos (s : State) (w : Nat) (l : List (Nat × Nat)) (t : TraceUnit) :
    (l.foldl (latchUnit s w) t).fifos = t.fifos := by
  induction l generalizing t with
  | nil => rfl
  | cons a l ih => exact (ih _).trans rfl

theorem latched_keeps {q₀ : State} {s : State} (w : Nat) (l : List (Nat × Nat)) (n : Nat) (h : Keeps q₀ s) :
    Keeps q₀ { s with trace := { l.foldl (latchUnit s w) s.trace with window := n, clearing := [] },
                      freeCnt := s.freeCnt + 1 } :=
  h.upd rfl rfl (latchFold_fifos s w l s.trace) rfl

theorem doCounterWindowBoundary_keeps {q₀ : State} {s : State} (h : Keeps q₀ s) :
    Keeps q₀ (doCounterWindowBoundary s) :=
  Keeps.ite (fun _ => h) (fun _ => latched_keeps _ _ _ (advanceTo_keeps _ h))

theorem rangeRefusal_keeps {q₀ : State} {s : State} {cls r first count r2 : Nat}
    {x : State × CmdRes} (hx : rangeRefusal s cls r first count r2 = some x) (h : Keeps q₀ s) : Keeps q₀ x.1 := by
  have key : x.1 = s := by
    unfold rangeRefusal at hx
    repeat' split at hx
    all_goals first
      | (cases hx; rfl)
      | cases hx
  rw [key]
  exact h

theorem cmdCounterRead_keeps {q₀ : State} (cls : Nat) (r : Nat) (first : Nat) (count : Nat) (r2 : Nat) {s : State} (hK : Keeps q₀ s) :
    Keeps q₀ (cmdCounterRead cls r first count r2 s).1 := by
  unfold cmdCounterRead
  repeat' first
    | with_reducible assumption
    | (refine Keeps.ofEq (by with_reducible assumption) ?_)
    | (refine rangeRefusal_keeps (by with_reducible assumption) ?_)
    | with_reducible apply okWith_keeps
    | split

theorem cmdCounterClear_keeps {q₀ : State} (cls : Nat) (r : Nat) (first : Nat) (count : Nat) (r2 : Nat) {s : State} (hK : Keeps q₀ s) :
    Keeps q₀ (cmdCounterClear cls r first count r2 s).1 := by
  unfold cmdCounterClear
  repeat' first
    | with_reducible assumption
    | (refine Keeps.ofEq (by with_reducible assumption) ?_)
    | (refine rangeRefusal_keeps (by with_reducible assumption) ?_)
    | with_reducible apply okDone_keeps
    | split
    | (refine Keeps.upd ?_ rfl rfl rfl rfl; with_reducible assumption)

end Sys2Proof.Machine
end

