-- ==== Sys2Proof/Laws/KeepsImage.lean ====
section
/-! SUPPORT. Every operation of Machine/Image.lean keeps the queue and the invariant. -/

namespace Sys2Proof.Machine

open Sys2Proof

theorem withImage_keeps {q₀ : State} {s : State} (img : List Byte) (g : Nat) (dom : Nat) (sx7 : Bool) (ways : Nat) (mask : Nat) (p : Places) (hK : Keeps q₀ s) :
    Keeps q₀ (withImage s img g dom sx7 ways mask p) := by
  unfold withImage
  repeat' first
    | with_reducible assumption
    | (refine Keeps.ofEq (by with_reducible assumption) ?_)
    | with_reducible apply setGraph_keeps
    | with_reducible apply setNode_keeps
    | with_reducible apply setSem_keeps
    | with_reducible apply Keeps.foldl
    | with_reducible apply Keeps.foldlFst
    | (refine Keeps.upd ?_ rfl rfl rfl rfl; with_reducible assumption)
    | split
    | dsimp only
    | (intro _)

end Sys2Proof.Machine
end

