-- ==== Sys2Proof/Laws/KeepsWorkload.lean ====
section
/-! SUPPORT. Every operation of Machine/Workload.lean keeps the queue and the invariant. -/

namespace Sys2Proof.Machine

open Sys2Proof

theorem putDesc_keeps {q₀ : State} {s : State} (x : Node) (d : List Byte) (hK : Keeps q₀ s) :
    Keeps q₀ (putDesc s x d) := by
  unfold putDesc
  repeat' first
    | with_reducible assumption
    | (refine Keeps.ofEq (by with_reducible assumption) ?_)
    | with_reducible apply Keeps.foldl
    | with_reducible apply Keeps.foldlFst
    | (refine Keeps.upd ?_ rfl rfl rfl rfl; with_reducible assumption)

theorem withEdit_keeps {q₀ : State} {c : State} (base : Nat) (e : List Byte) (v : Nat) (hK : Keeps q₀ c) :
    Keeps q₀ (withEdit c base e v) := by
  unfold withEdit
  repeat' first
    | with_reducible assumption
    | (refine Keeps.ofEq (by with_reducible assumption) ?_)
    | with_reducible apply setSem_keeps
    | with_reducible apply putDesc_keeps
    | (with_reducible apply Keeps.ite <;> intro _)
    | split

end Sys2Proof.Machine
end

