-- ==== Sys2Proof/Laws/KeepsGraphLoad.lean ====
section
/-! SUPPORT. Every operation of Machine/GraphLoad.lean keeps the queue and the invariant. -/

namespace Sys2Proof.Machine

open Sys2Proof

theorem bindFlows_keeps {q₀ : State} (a : LoadArgs) (n : Nat) (bs : List Byte) {c : State} (hK : Keeps q₀ c) :
    Keeps q₀ (bindFlows a n bs c) := by
  unfold bindFlows
  repeat' first
    | with_reducible assumption
    | (refine Keeps.ofEq (by with_reducible assumption) ?_)
    | with_reducible apply setFlow_keeps
    | with_reducible apply Keeps.foldl
    | with_reducible apply Keeps.foldlFst
    | split
    | dsimp only
    | (intro _)

theorem bindFlag_keeps {q₀ : State} (a : LoadArgs) (l : List (Nat × Producer)) {c : State} (f : Nat) (hK : Keeps q₀ c) :
    Keeps q₀ (bindFlag a l c f) := by
  unfold bindFlag
  repeat' first
    | with_reducible assumption
    | (refine Keeps.ofEq (by with_reducible assumption) ?_)
    | with_reducible apply setFlag_keeps
    | (refine Keeps.upd ?_ rfl rfl rfl rfl; with_reducible assumption)

theorem withSchedule_keeps {q₀ : State} {c : State} (g : Nat) (hK : Keeps q₀ c) :
    Keeps q₀ (withSchedule c g) := by
  unfold withSchedule
  repeat' first
    | with_reducible assumption
    | (refine Keeps.ofEq (by with_reducible assumption) ?_)
    | (refine Keeps.upd ?_ rfl rfl rfl rfl; with_reducible assumption)

theorem withObjects_keeps {q₀ : State} {c : State} (g : Nat) (hK : Keeps q₀ c) :
    Keeps q₀ (withObjects c g) := by
  unfold withObjects
  repeat' first
    | with_reducible assumption
    | (refine Keeps.ofEq (by with_reducible assumption) ?_)
    | with_reducible apply Keeps.foldl
    | with_reducible apply Keeps.foldlFst
    | (refine Keeps.upd ?_ rfl rfl rfl rfl; with_reducible assumption)
    | split
    | dsimp only
    | (intro _)

theorem admitGraph_keeps {q₀ : State} {s c : State} (a : LoadArgs) (hs : Keeps q₀ s) (hc : Keeps q₀ c) :
    Keeps q₀ (admitGraph s c a).1 := by
  unfold admitGraph
  split
  · exact refuse_keeps _ hs
  · extract_lets ch res rep
    refine Keeps.iteFst (fun _ => hs) (fun _ => ?_)
    split
    · exact hs
    · exact Keeps.iteFst (fun _ => hs) (fun _ => okWith_keeps _ (setGraph_keeps _ _ (withObjects_keeps _ (withSchedule_keeps _ hc))))

theorem undoLoad_keeps {q₀ : State} (s : State) {c : State} (h : Keeps q₀ c) : Keeps q₀ (undoLoad s c) :=
  h.upd rfl rfl rfl rfl

/-- A step of a load keeps the queue and the invariant, whether it refuses or goes on. -/
def LoadKeeps (q : State) (x : LoadStep) : Prop :=
  match x with
  | .inl p => Keeps q p.1
  | .inr c => Keeps q c

theorem loadThen_keeps {q₀ : State} {x : LoadStep} {f : State → LoadStep} (hx : LoadKeeps q₀ x)
    (hf : ∀ c, Keeps q₀ c → LoadKeeps q₀ (f c)) : LoadKeeps q₀ (loadThen x f) := by
  unfold loadThen
  split
  · exact hx
  · exact hf _ hx

theorem loadCheck_keeps {q₀ : State} (s : State) {c : State} (b : Option Bad) (hc : Keeps q₀ c) :
    LoadKeeps q₀ (loadCheck s c b) := by
  unfold loadCheck
  split
  · exact undoLoad_keeps s hc
  · exact hc

theorem loadFold_keeps {q₀ : State} {α : Type} (l : List α) {f : LoadStep → α → LoadStep}
    (hf : ∀ x a, LoadKeeps q₀ x → LoadKeeps q₀ (f x a)) {x : LoadStep} (hx : LoadKeeps q₀ x) :
    LoadKeeps q₀ (l.foldl f x) := by
  induction l generalizing x with
  | nil => exact hx
  | cons a l ih => exact ih (hf x a hx)

theorem bindDma_keeps {q₀ : State} (s : State) {c : State} (a : LoadArgs) (k : Nat) (hc : Keeps q₀ c) :
    LoadKeeps q₀ (bindDma s a k c) := by
  have hf := fetchEntry_keeps a.dom (fieldAt (nodeE a.img k) 2 2) 1 0 hc
  unfold bindDma
  dsimp only
  split
  · exact hc
  · split
    · exact undoLoad_keeps s (Keeps.ofEq ‹_› hf)
    · have k' := Keeps.ofEq ‹_› hf
      split
      · exact undoLoad_keeps s k'
      · split
        · exact undoLoad_keeps s k'
        · exact setDma_keeps _ _ k'

theorem bindStream_keeps {q₀ : State} (s : State) {c : State} (a : LoadArgs) (i : Nat) (hc : Keeps q₀ c) :
    LoadKeeps q₀ (bindStream s a i c) := by
  have hf := fetchEntry_keeps a.dom (payStream a.pay i).1 6 0 hc
  unfold bindStream
  dsimp only
  split
  · exact undoLoad_keeps s hc
  · split
    · exact undoLoad_keeps s (Keeps.ofEq ‹_› hf)
    · have k' := Keeps.ofEq ‹_› hf
      split
      · exact undoLoad_keeps s k'
      · split
        · exact undoLoad_keeps s (readStruct_keeps _ _ _ _ _ k')
        · split
          · exact undoLoad_keeps s (readStruct_keeps _ _ _ _ _ (readStruct_keeps _ _ _ _ _ k'))
          · exact setStream_keeps _ _ (readStruct_keeps _ _ _ _ _ (readStruct_keeps _ _ _ _ _ k'))

theorem loadCandidate_keeps {q₀ : State} {s : State} (a : LoadArgs) (flows : List Byte) (h : Keeps q₀ s) :
    LoadKeeps q₀ (loadCandidate s a flows) := by
  unfold loadCandidate
  extract_lets nf flow c0 dmas c1 c2
  have h0 : Keeps q₀ c0 := withImage_keeps _ _ _ _ _ _ _ h
  have h1 : LoadKeeps q₀ c1 :=
    loadFold_keeps _ (fun _ _ hx => loadThen_keeps hx (fun _ hc => bindDma_keeps _ _ _ hc)) (loadCheck_keeps _ _ h0)
  have h2 : LoadKeeps q₀ c2 :=
    loadFold_keeps _ (fun _ _ hx => loadThen_keeps hx (fun _ hc => bindStream_keeps _ _ _ hc)) h1
  exact loadThen_keeps h2 (fun _ hc => loadCheck_keeps _ _
    (Keeps.foldl (fun _ _ hk => bindFlag_keeps _ _ _ hk) (bindFlows_keeps _ _ _ hc)))

theorem cmdGraphLoad_keeps {q₀ : State} (h : CmdHdr) (pay : List Byte) {s : State} (hK : Keeps q₀ s) :
    Keeps q₀ (cmdGraphLoad h pay s).1 := by
  unfold cmdGraphLoad
  split
  · exact hK
  · extract_lets r1 s1 img r2 s2 a
    have k1 : Keeps q₀ s1 := readStruct_keeps _ _ _ _ _ hK
    have k2 : Keeps q₀ s2 := Keeps.iteFst (fun _ => k1) (fun _ => readStruct_keeps _ _ _ _ _ k1)
    refine Keeps.iteFst (fun _ => k1) (fun _ => ?_)
    split
    · exact k1
    · refine Keeps.iteFst (fun _ => k2) (fun _ => ?_)
      have hl := loadCandidate_keeps a r2.2.2 k2
      split
      · rename_i heq
        rw [heq] at hl
        exact hl
      · rename_i heq
        rw [heq] at hl
        exact admitGraph_keeps a (undoLoad_keeps s2 hl) hl

theorem cmdGraphParamSet_keeps {q₀ : State} (graph : Nat) (r : Nat) (entry : Nat) (r2 : Nat) (value : Nat) {s : State} (hK : Keeps q₀ s) :
    Keeps q₀ (cmdGraphParamSet graph r entry r2 value s).1 := by
  unfold cmdGraphParamSet
  repeat' first
    | with_reducible assumption
    | (refine Keeps.ofEq (by with_reducible assumption) ?_)
    | (refine graphCheck_keeps (by with_reducible assumption) ?_)
    | with_reducible apply refuse_keeps
    | with_reducible apply refuseAt_keeps
    | with_reducible apply okDone_keeps
    | with_reducible apply withEdit_keeps
    | (with_reducible apply Keeps.iteFst <;> intro _)
    | split
    | dsimp only

end Sys2Proof.Machine
end

