-- ==== Sys2Proof/Laws/KeepsWatch.lean ====
section
/-! SUPPORT. Every operation of Machine/Watch.lean keeps the queue and the invariant. -/

namespace Sys2Proof.Machine

open Sys2Proof

theorem admitWatch_keeps {q₀ : State} {s : State} (w : Nat) (x : Watch) (gr : Graph) (hK : Keeps q₀ s) :
    Keeps q₀ (admitWatch s w x gr).1 := by
  unfold admitWatch
  repeat' first
    | with_reducible assumption
    | (refine Keeps.ofEq (by with_reducible assumption) ?_)
    | with_reducible apply okDone_keeps
    | with_reducible apply setGraph_keeps
    | (with_reducible apply Keeps.iteFst <;> intro _)
    | (refine Keeps.upd ?_ rfl rfl rfl rfl; with_reducible assumption)

theorem cmdWatchSet_keeps {q₀ : State} (h : CmdHdr) (d : List Byte) {s : State} (hK : Keeps q₀ s) :
    Keeps q₀ (cmdWatchSet h d s).1 := by
  unfold cmdWatchSet
  repeat' first
    | with_reducible assumption
    | (refine Keeps.ofEq (by with_reducible assumption) ?_)
    | with_reducible apply refuse_keeps
    | with_reducible apply refuseAt_keeps
    | with_reducible apply admitWatch_keeps
    | (with_reducible apply Keeps.iteFst <;> intro _)
    | split

theorem watchRefusal_keeps {q₀ : State} {s : State} {w r : Nat} {allowed : Watch → Bool}
    {x : State × CmdRes} (hx : watchRefusal s w r allowed = some x) (h : Keeps q₀ s) : Keeps q₀ x.1 := by
  have key : x.1 = s := by
    unfold watchRefusal at hx
    repeat' split at hx
    all_goals first
      | (cases hx; rfl)
      | cases hx
  rw [key]
  exact h

theorem cmdWatchClear_keeps {q₀ : State} (w : Nat) (r : Nat) {s : State} (hK : Keeps q₀ s) :
    Keeps q₀ (cmdWatchClear w r s).1 := by
  unfold cmdWatchClear
  repeat' first
    | with_reducible assumption
    | (refine Keeps.ofEq (by with_reducible assumption) ?_)
    | (refine watchRefusal_keeps (by with_reducible assumption) ?_)
    | with_reducible apply okDone_keeps
    | (refine Keeps.upd ?_ rfl rfl rfl rfl; first | with_reducible assumption | (refine Keeps.ofEq (by with_reducible assumption) ?_) | (refine watchRefusal_keeps (by with_reducible assumption) ?_) | with_reducible apply okDone_keeps)
    | split

theorem cmdWatchArm_keeps {q₀ : State} (w : Nat) (r : Nat) {s : State} (hK : Keeps q₀ s) :
    Keeps q₀ (cmdWatchArm w r s).1 := by
  unfold cmdWatchArm
  repeat' first
    | with_reducible assumption
    | (refine Keeps.ofEq (by with_reducible assumption) ?_)
    | (refine watchRefusal_keeps (by with_reducible assumption) ?_)
    | with_reducible apply okDone_keeps
    | (refine Keeps.upd ?_ rfl rfl rfl rfl; first | with_reducible assumption | (refine Keeps.ofEq (by with_reducible assumption) ?_) | (refine watchRefusal_keeps (by with_reducible assumption) ?_) | with_reducible apply okDone_keeps)
    | split

theorem watchAccess_keeps {q₀ : State} {s : State} (dom : Nat) (gs : List Nat) (hK : Keeps q₀ s) :
    Keeps q₀ (watchAccess s dom gs).1 := by
  unfold watchAccess
  repeat' first
    | with_reducible assumption
    | (refine Keeps.ofEq (by with_reducible assumption) ?_)
    | with_reducible apply access_keeps
    | with_reducible apply Keeps.foldl
    | with_reducible apply Keeps.foldlFst
    | split
    | dsimp only
    | (intro _)

theorem dumpElems_keeps {q₀ : State} {s : State} (off : Nat) (etype : Nat) (es : List WElem) (bad : List Nat) (hK : Keeps q₀ s) :
    Keeps q₀ (dumpElems s off etype es bad) := by
  unfold dumpElems
  repeat' first
    | with_reducible assumption
    | (refine Keeps.ofEq (by with_reducible assumption) ?_)
    | with_reducible apply storeCells_keeps

theorem fireWatch_keeps {q₀ : State} {s : State} (w : Nat) (x : Watch) (f dumped : Nat) (v : Int) (hK : Keeps q₀ s) :
    Keeps q₀ (fireWatch s w x f dumped v) := by
  unfold fireWatch
  repeat' first
    | with_reducible assumption
    | (refine Keeps.ofEq (by with_reducible assumption) ?_)
    | with_reducible apply postEvent_keeps
    | with_reducible apply offerRecord_keeps
    | with_reducible apply fireTrigger_keeps
    | (with_reducible apply Keeps.ite <;> intro _)
    | (refine Keeps.upd ?_ rfl rfl rfl rfl; with_reducible assumption)

theorem readWatch_keeps {q₀ : State} {s : State} (w : Nat) (x : Watch) (g : Graph) (node : Nat) (f : Nat) (hK : Keeps q₀ s) :
    Keeps q₀ (readWatch s w x g node f) := by
  unfold readWatch
  repeat' first
    | with_reducible assumption
    | (refine Keeps.ofEq (by with_reducible assumption) ?_)
    | with_reducible apply watchAccess_keeps
    | with_reducible apply meet_keeps
    | with_reducible apply travelMismatch_keeps
    | with_reducible apply dumpElems_keeps
    | with_reducible apply writeLocal_keeps
    | with_reducible apply offerAll_keeps
    | with_reducible apply fireWatch_keeps
    | with_reducible apply Keeps.foldl
    | with_reducible apply Keeps.foldlFst
    | (with_reducible apply Keeps.ite <;> intro _)
    | (refine Keeps.upd ?_ rfl rfl rfl rfl; first | with_reducible assumption | (refine Keeps.ofEq (by with_reducible assumption) ?_) | with_reducible apply watchAccess_keeps | with_reducible apply meet_keeps | with_reducible apply travelMismatch_keeps | with_reducible apply dumpElems_keeps | with_reducible apply writeLocal_keeps)

theorem doWatchRead_keeps {q₀ : State} (watch : Nat) {s : State} (hK : Keeps q₀ s) :
    Keeps q₀ (doWatchRead watch s) := by
  unfold doWatchRead
  repeat' first
    | with_reducible assumption
    | (refine Keeps.ofEq (by with_reducible assumption) ?_)
    | with_reducible apply readWatch_keeps
    | (with_reducible apply Keeps.ite <;> intro _)
    | split

end Sys2Proof.Machine
end

