-- ==== Sys2Proof/Laws/KeepsDebug.lean ====
section
/-! SUPPORT. Every operation of Machine/Debug.lean keeps the queue and the invariant. -/

namespace Sys2Proof.Machine

open Sys2Proof

theorem loadTap_keeps {q₀ : State} {s : State} (code : Nat) (driving : Bool) (highz : Bool) (hK : Keeps q₀ s) :
    Keeps q₀ (loadTap s code driving highz) := by
  unfold loadTap
  repeat' first
    | with_reducible assumption
    | (refine Keeps.ofEq (by with_reducible assumption) ?_)
    | (refine Keeps.upd ?_ rfl rfl rfl rfl; with_reducible assumption)

theorem doTapReset_keeps {q₀ : State} {s : State} (hK : Keeps q₀ s) :
    Keeps q₀ (doTapReset s) := by
  unfold doTapReset
  repeat' first
    | with_reducible assumption
    | (refine Keeps.ofEq (by with_reducible assumption) ?_)
    | with_reducible apply loadTap_keeps

theorem doIdcode_keeps {q₀ : State} {s : State} (hK : Keeps q₀ s) :
    Keeps q₀ (doIdcode s) := by
  unfold doIdcode
  repeat' first
    | with_reducible assumption
    | (refine Keeps.ofEq (by with_reducible assumption) ?_)
    | with_reducible apply loadTap_keeps

theorem doSample_keeps {q₀ : State} (pins : List Bool) {s : State} (hK : Keeps q₀ s) :
    Keeps q₀ (doSample pins s) := by
  unfold doSample
  repeat' first
    | with_reducible assumption
    | (refine Keeps.ofEq (by with_reducible assumption) ?_)
    | with_reducible apply loadTap_keeps
    | (refine Keeps.upd ?_ rfl rfl rfl rfl; first | with_reducible assumption | (refine Keeps.ofEq (by with_reducible assumption) ?_) | with_reducible apply loadTap_keeps)

theorem doPreload_keeps {q₀ : State} (cells : List Bool) {s : State} (hK : Keeps q₀ s) :
    Keeps q₀ (doPreload cells s) := by
  unfold doPreload
  repeat' first
    | with_reducible assumption
    | (refine Keeps.ofEq (by with_reducible assumption) ?_)
    | with_reducible apply loadTap_keeps
    | (refine Keeps.upd ?_ rfl rfl rfl rfl; first | with_reducible assumption | (refine Keeps.ofEq (by with_reducible assumption) ?_) | with_reducible apply loadTap_keeps)

theorem doExtest_keeps {q₀ : State} {s : State} (hK : Keeps q₀ s) :
    Keeps q₀ (doExtest s) := by
  unfold doExtest
  repeat' first
    | with_reducible assumption
    | (refine Keeps.ofEq (by with_reducible assumption) ?_)
    | with_reducible apply loadTap_keeps

theorem doClamp_keeps {q₀ : State} {s : State} (hK : Keeps q₀ s) :
    Keeps q₀ (doClamp s) := by
  unfold doClamp
  repeat' first
    | with_reducible assumption
    | (refine Keeps.ofEq (by with_reducible assumption) ?_)
    | with_reducible apply loadTap_keeps

theorem doHighz_keeps {q₀ : State} {s : State} (hK : Keeps q₀ s) :
    Keeps q₀ (doHighz s) := by
  unfold doHighz
  repeat' first
    | with_reducible assumption
    | (refine Keeps.ofEq (by with_reducible assumption) ?_)
    | with_reducible apply loadTap_keeps

theorem doBypass_keeps {q₀ : State} (code : Nat) {s : State} (hK : Keeps q₀ s) :
    Keeps q₀ (doBypass code s) := by
  unfold doBypass
  repeat' first
    | with_reducible assumption
    | (refine Keeps.ofEq (by with_reducible assumption) ?_)
    | with_reducible apply loadTap_keeps
    | (with_reducible apply Keeps.ite <;> intro _)

theorem cmdDebugEnable_keeps {q₀ : State} (domain : Nat) (r : Nat) {s : State} (hK : Keeps q₀ s) :
    Keeps q₀ (cmdDebugEnable domain r s).1 := by
  unfold cmdDebugEnable
  repeat' first
    | with_reducible assumption
    | (refine Keeps.ofEq (by with_reducible assumption) ?_)
    | with_reducible apply refuseAt_keeps
    | with_reducible apply okDone_keeps
    | (with_reducible apply Keeps.iteFst <;> intro _)
    | (refine Keeps.upd ?_ rfl rfl rfl rfl; with_reducible assumption)

theorem cmdDebugDisable_keeps {q₀ : State} {s : State} (hK : Keeps q₀ s) :
    Keeps q₀ (cmdDebugDisable s).1 := by
  unfold cmdDebugDisable
  repeat' first
    | with_reducible assumption
    | (refine Keeps.ofEq (by with_reducible assumption) ?_)
    | with_reducible apply okDone_keeps
    | (refine Keeps.upd ?_ rfl rfl rfl rfl; with_reducible assumption)

theorem debugAccess_keeps {q₀ : State} {s : State} (dr : Nat) (hK : Keeps q₀ s) :
    Keeps q₀ (debugAccess s dr).1 := by
  unfold debugAccess
  repeat' first
    | with_reducible assumption
    | (refine Keeps.ofEq (by with_reducible assumption) ?_)
    | with_reducible apply writeLocal_keeps
    | with_reducible apply readLocal_keeps
    | (with_reducible apply Keeps.iteFst <;> intro _)
    | split
    | (refine Keeps.upd ?_ rfl rfl rfl rfl; with_reducible assumption)

theorem doDbgAccess_keeps {q₀ : State} (dr : Nat) {s : State} (hK : Keeps q₀ s) :
    Keeps q₀ (doDbgAccess dr s) := by
  unfold doDbgAccess
  repeat' first
    | with_reducible assumption
    | (refine Keeps.ofEq (by with_reducible assumption) ?_)
    | with_reducible apply loadTap_keeps
    | with_reducible apply debugAccess_keeps
    | (with_reducible apply Keeps.ite <;> intro _)
    | (refine Keeps.upd ?_ rfl rfl rfl rfl; first | with_reducible assumption | (refine Keeps.ofEq (by with_reducible assumption) ?_) | with_reducible apply loadTap_keeps | with_reducible apply debugAccess_keeps)
    | split

theorem doDbgAccessDone_keeps {q₀ : State} {s : State} (hK : Keeps q₀ s) :
    Keeps q₀ (doDbgAccessDone s) := by
  unfold doDbgAccessDone
  repeat' first
    | with_reducible assumption
    | (refine Keeps.ofEq (by with_reducible assumption) ?_)
    | (with_reducible apply Keeps.ite <;> intro _)
    | (refine Keeps.upd ?_ rfl rfl rfl rfl; with_reducible assumption)

end Sys2Proof.Machine
end

