-- ==== Sys2Proof/Laws/KeepsCommands.lean ====
section
/-! SUPPORT. Every operation of Machine/Commands.lean keeps the queue and the invariant. -/

namespace Sys2Proof.Machine

open Sys2Proof

theorem runGroups02_keeps {q₀ : State} (opcode : Nat) (h : CmdHdr) (p : List Byte) {s : State} (hK : Keeps q₀ s) :
    Keeps q₀ (runGroups02 opcode h p s).1 := by
  unfold runGroups02
  split
  all_goals first
    | with_reducible exact okDone_keeps hK
    | with_reducible exact cmdDeviceInfo_keeps hK
    | with_reducible exact cmdChannelTableSet_keeps _ _ hK
    | with_reducible exact cmdChannelInvalidate_keeps _ _ hK
    | with_reducible exact cmdBulkWrite_keeps _ _ _ hK
    | with_reducible exact cmdBulkRead_keeps _ _ _ hK
    | with_reducible exact cmdDmaStart_keeps _ _ _ hK
    | with_reducible exact cmdDmaStop_keeps _ _ hK
    | with_reducible exact cmdDmaKick_keeps _ _ hK
    | with_reducible exact cmdStreamRearm_keeps _ _ _ _ _ hK
    | with_reducible exact cmdWcacheInvalidate_keeps _ _ hK
    | with_reducible exact cmdDdrInit_keeps _ hK
    | with_reducible exact cmdFirewallSet_keeps _ _ _ _ _ _ _ hK
    | with_reducible exact cmdFirewallGet_keeps _ _ _ hK
    | with_reducible exact cmdEgressStart_keeps _ _ _ hK
    | with_reducible exact cmdEgressStop_keeps _ _ hK
    | with_reducible exact cmdEgressUrunClear_keeps _ _ hK
    | with_reducible exact cmdTensorCheck_keeps _ _ _ _ _ hK
    | with_reducible exact cmdTensorLocate_keeps _ _ _ hK
    | with_reducible exact refuse_keeps _ hK

theorem runGroups34_keeps {q₀ : State} (opcode : Nat) (h : CmdHdr) (p : List Byte) {s : State} (hK : Keeps q₀ s) :
    Keeps q₀ (runGroups34 opcode h p s).1 := by
  unfold runGroups34
  split
  all_goals first
    | with_reducible exact cmdGraphLoad_keeps _ _ hK
    | with_reducible exact cmdGraphUnload_keeps _ _ hK
    | with_reducible exact cmdGraphStart_keeps _ _ _ _ _ hK
    | with_reducible exact cmdGraphHold_keeps _ _ hK
    | with_reducible exact cmdGraphResume_keeps _ _ hK
    | with_reducible exact cmdGraphStop_keeps _ _ hK
    | with_reducible exact cmdGraphParamSet_keeps _ _ _ _ _ hK
    | with_reducible exact cmdGraphStatus_keeps _ _ hK
    | with_reducible exact cmdCsiPortConfig_keeps _ _ _ _ _ _ hK
    | with_reducible exact cmdCameraStart_keeps _ _ _ hK
    | with_reducible exact cmdCameraStop_keeps _ _ _ hK
    | with_reducible exact cmdCameraStatus_keeps _ _ _ hK
    | with_reducible exact cmdTriggerSet_keeps _ _ _ _ _ _ _ _ hK
    | with_reducible exact cmdSensorCommit_keeps _ _ _ _ _ _ hK
    | with_reducible exact cmdI3cTransfer_keeps _ _ _ _ _ hK
    | with_reducible exact refuse_keeps _ hK

theorem runGroups57_keeps {q₀ : State} (opcode : Nat) (h : CmdHdr) (p : List Byte) {s : State} (hK : Keeps q₀ s) :
    Keeps q₀ (runGroups57 opcode h p s).1 := by
  unfold runGroups57
  split
  all_goals first
    | with_reducible exact cmdSafetyArm_keeps _ hK
    | with_reducible exact cmdSafetyDisarm_keeps hK
    | with_reducible exact cmdSafetyStatus_keeps hK
    | with_reducible exact cmdSafetyClear_keeps _ _ _ hK
    | with_reducible exact cmdFbcLoad_keeps _ _ _ _ hK
    | with_reducible exact cmdFbcRead_keeps _ _ hK
    | with_reducible exact cmdSeasonSet_keeps _ _ hK
    | with_reducible exact cmdPowerCapSet_keeps _ _ hK
    | with_reducible exact cmdPowerStatus_keeps hK
    | with_reducible exact cmdThermalSet_keeps _ _ hK
    | with_reducible exact cmdIslandStop_keeps _ _ hK
    | with_reducible exact cmdIslandStart_keeps _ _ hK
    | with_reducible exact cmdTraceStart_keeps _ _ _ hK
    | with_reducible exact cmdTraceStop_keeps _ _ hK
    | with_reducible exact cmdTraceStatus_keeps hK
    | with_reducible exact cmdTraceTrigger_keeps _ _ hK
    | with_reducible exact cmdTraceMark_keeps _ hK
    | with_reducible exact cmdCounterRead_keeps _ _ _ _ _ hK
    | with_reducible exact cmdCounterClear_keeps _ _ _ _ _ hK
    | with_reducible exact cmdWatchSet_keeps _ _ hK
    | with_reducible exact cmdWatchClear_keeps _ _ hK
    | with_reducible exact cmdWatchArm_keeps _ _ hK
    | with_reducible exact refuse_keeps _ hK

theorem runGroups89_keeps {q₀ : State} (opcode : Nat) (h : CmdHdr) (p : List Byte) {s : State} (hK : Keeps q₀ s) :
    Keeps q₀ (runGroups89 opcode h p s).1 := by
  unfold runGroups89
  split
  all_goals first
    | with_reducible exact cmdLinkStart_keeps _ _ _ hK
    | with_reducible exact cmdLinkStop_keeps _ _ hK
    | with_reducible exact cmdLinkStatus_keeps hK
    | with_reducible exact cmdLinkRouteSet_keeps _ _ _ hK
    | with_reducible exact cmdLinkAbort_keeps _ _ hK
    | with_reducible exact cmdLinkReserve_keeps _ _ _ _ hK
    | with_reducible exact cmdLinkWindowSet_keeps _ _ _ _ hK
    | with_reducible exact changeWindow_keeps _ _ _ hK
    | with_reducible exact cmdLinkImportSet_keeps _ _ _ _ _ _ _ hK
    | with_reducible exact cmdLinkIdSet_keeps _ _ hK
    | with_reducible exact cmdLinkIdAssign_keeps _ _ _ hK
    | with_reducible exact cmdLinkMboxRelay_keeps _ _ _ hK
    | with_reducible exact cmdLinkEventSink_keeps _ _ hK
    | with_reducible exact cmdLinkTimeJoin_keeps hK
    | with_reducible exact cmdLinkPpsSet_keeps _ _ hK
    | with_reducible exact cmdBootRelay_keeps _ _ _ _ _ _ hK
    | with_reducible exact cmdCoreFence_keeps _ _ hK
    | with_reducible exact cmdCoreUnfence_keeps _ _ hK
    | with_reducible exact cmdKeyProvision_keeps _ _ _ hK
    | with_reducible exact cmdKeyRevoke_keeps _ _ hK
    | with_reducible exact cmdSvnAdvance_keeps hK
    | with_reducible exact cmdDebugEnable_keeps _ _ hK
    | with_reducible exact cmdDebugDisable_keeps hK
    | with_reducible exact refuse_keeps _ hK

theorem runRecord_keeps {q₀ : State} (r : MbRec) {s : State} (hK : Keeps q₀ s) :
    Keeps q₀ (runRecord r s).1 := by
  unfold runRecord
  repeat' first
    | with_reducible assumption
    | (refine Keeps.ofEq (by with_reducible assumption) ?_)
    | with_reducible apply refuse_keeps
    | with_reducible apply badLen_keeps
    | with_reducible apply runGroups02_keeps
    | with_reducible apply runGroups34_keeps
    | with_reducible apply runGroups57_keeps
    | with_reducible apply runGroups89_keeps
    | (with_reducible apply Keeps.iteFst <;> intro _)
    | split

theorem stage2_keeps {q₀ : State} {s : State} (i : Nat) (r : MbRec) (hK : Keeps q₀ s) :
    Keeps q₀ (stage2 s i r) := by
  unfold stage2
  repeat' first
    | with_reducible assumption
    | (refine Keeps.ofEq (by with_reducible assumption) ?_)
    | with_reducible apply placeResponse_keeps
    | with_reducible apply execChecked_keeps
    | with_reducible apply runRecord_keeps
    | with_reducible apply settleAt_keeps
    | (with_reducible apply Keeps.ite <;> intro _)
    | split

theorem doMbRecordExecute_keeps {q₀ : State} {s : State} (hK : Keeps q₀ s) :
    Keeps q₀ (doMbRecordExecute s) := by
  unfold doMbRecordExecute
  repeat' first
    | with_reducible assumption
    | (refine Keeps.ofEq (by with_reducible assumption) ?_)
    | with_reducible apply stage2_keeps
    | (with_reducible apply Keeps.ite <;> intro _)
    | split

end Sys2Proof.Machine
end

