-- ==== Sys2Proof/Laws/State.lean ====
section
/-! SUPPORT. What each named update of the state leaves of every field: one lemma per field and update. -/

namespace Sys2Proof.Machine

open Sys2Proof

/-! ### setPort -/

@[simp] theorem setPort_pending (s : State) (k : Nat) (x : CsiPort) : (setPort s k x).pending = s.pending := rfl
@[simp] theorem setPort_time (s : State) (k : Nat) (x : CsiPort) : (setPort s k x).time = s.time := rfl
@[simp] theorem setPort_rst (s : State) (k : Nat) (x : CsiPort) : (setPort s k x).rst = s.rst := rfl
@[simp] theorem setPort_sdio (s : State) (k : Nat) (x : CsiPort) : (setPort s k x).sdio = s.sdio := rfl
@[simp] theorem setPort_boot (s : State) (k : Nat) (x : CsiPort) : (setPort s k x).boot = s.boot := rfl
@[simp] theorem setPort_mb (s : State) (k : Nat) (x : CsiPort) : (setPort s k x).mb = s.mb := rfl
@[simp] theorem setPort_ev (s : State) (k : Nat) (x : CsiPort) : (setPort s k x).ev = s.ev := rfl
@[simp] theorem setPort_bulk (s : State) (k : Nat) (x : CsiPort) : (setPort s k x).bulk = s.bulk := rfl
@[simp] theorem setPort_chans (s : State) (k : Nat) (x : CsiPort) : (setPort s k x).chans = s.chans := rfl
@[simp] theorem setPort_fw (s : State) (k : Nat) (x : CsiPort) : (setPort s k x).fw = s.fw := rfl
@[simp] theorem setPort_islands (s : State) (k : Nat) (x : CsiPort) : (setPort s k x).islands = s.islands := rfl
@[simp] theorem setPort_mem (s : State) (k : Nat) (x : CsiPort) : (setPort s k x).mem = s.mem := rfl
@[simp] theorem setPort_marks (s : State) (k : Nat) (x : CsiPort) : (setPort s k x).marks = s.marks := rfl
@[simp] theorem setPort_eccBad (s : State) (k : Nat) (x : CsiPort) : (setPort s k x).eccBad = s.eccBad := rfl
@[simp] theorem setPort_pipes (s : State) (k : Nat) (x : CsiPort) : (setPort s k x).pipes = s.pipes := rfl
@[simp] theorem setPort_ports (s : State) (k : Nat) (x : CsiPort) : (setPort s k x).ports = tabSet k x s.ports := rfl
@[simp] theorem setPort_trigs (s : State) (k : Nat) (x : CsiPort) : (setPort s k x).trigs = s.trigs := rfl
@[simp] theorem setPort_flags (s : State) (k : Nat) (x : CsiPort) : (setPort s k x).flags = s.flags := rfl
@[simp] theorem setPort_binds (s : State) (k : Nat) (x : CsiPort) : (setPort s k x).binds = s.binds := rfl
@[simp] theorem setPort_sems (s : State) (k : Nat) (x : CsiPort) : (setPort s k x).sems = s.sems := rfl
@[simp] theorem setPort_nodes (s : State) (k : Nat) (x : CsiPort) : (setPort s k x).nodes = s.nodes := rfl
@[simp] theorem setPort_links (s : State) (k : Nat) (x : CsiPort) : (setPort s k x).links = s.links := rfl
@[simp] theorem setPort_descs (s : State) (k : Nat) (x : CsiPort) : (setPort s k x).descs = s.descs := rfl
@[simp] theorem setPort_graphs (s : State) (k : Nat) (x : CsiPort) : (setPort s k x).graphs = s.graphs := rfl
@[simp] theorem setPort_engines (s : State) (k : Nat) (x : CsiPort) : (setPort s k x).engines = s.engines := rfl
@[simp] theorem setPort_obxCarry (s : State) (k : Nat) (x : CsiPort) : (setPort s k x).obxCarry = s.obxCarry := rfl
@[simp] theorem setPort_objNext (s : State) (k : Nat) (x : CsiPort) : (setPort s k x).objNext = s.objNext := rfl
@[simp] theorem setPort_objDropped (s : State) (k : Nat) (x : CsiPort) : (setPort s k x).objDropped = s.objDropped := rfl
@[simp] theorem setPort_ringBusy (s : State) (k : Nat) (x : CsiPort) : (setPort s k x).ringBusy = s.ringBusy := rfl
@[simp] theorem setPort_cores (s : State) (k : Nat) (x : CsiPort) : (setPort s k x).cores = s.cores := rfl
@[simp] theorem setPort_pool (s : State) (k : Nat) (x : CsiPort) : (setPort s k x).pool = s.pool := rfl
@[simp] theorem setPort_eports (s : State) (k : Nat) (x : CsiPort) : (setPort s k x).eports = s.eports := rfl
@[simp] theorem setPort_dma (s : State) (k : Nat) (x : CsiPort) : (setPort s k x).dma = s.dma := rfl
@[simp] theorem setPort_streams (s : State) (k : Nat) (x : CsiPort) : (setPort s k x).streams = s.streams := rfl
@[simp] theorem setPort_wcache (s : State) (k : Nat) (x : CsiPort) : (setPort s k x).wcache = s.wcache := rfl
@[simp] theorem setPort_lports (s : State) (k : Nat) (x : CsiPort) : (setPort s k x).lports = s.lports := rfl
@[simp] theorem setPort_inst (s : State) (k : Nat) (x : CsiPort) : (setPort s k x).inst = s.inst := rfl
@[simp] theorem setPort_ddr (s : State) (k : Nat) (x : CsiPort) : (setPort s k x).ddr = s.ddr := rfl
@[simp] theorem setPort_safety (s : State) (k : Nat) (x : CsiPort) : (setPort s k x).safety = s.safety := rfl
@[simp] theorem setPort_power (s : State) (k : Nat) (x : CsiPort) : (setPort s k x).power = s.power := rfl
@[simp] theorem setPort_trace (s : State) (k : Nat) (x : CsiPort) : (setPort s k x).trace = s.trace := rfl
@[simp] theorem setPort_watches (s : State) (k : Nat) (x : CsiPort) : (setPort s k x).watches = s.watches := rfl
@[simp] theorem setPort_tap (s : State) (k : Nat) (x : CsiPort) : (setPort s k x).tap = s.tap := rfl
@[simp] theorem setPort_eccCnt (s : State) (k : Nat) (x : CsiPort) : (setPort s k x).eccCnt = s.eccCnt := rfl
@[simp] theorem setPort_eccWin (s : State) (k : Nat) (x : CsiPort) : (setPort s k x).eccWin = s.eccWin := rfl
@[simp] theorem setPort_freeCnt (s : State) (k : Nat) (x : CsiPort) : (setPort s k x).freeCnt = s.freeCnt := rfl

/-! ### setTrig -/

@[simp] theorem setTrig_pending (s : State) (k : Nat) (x : Trig) : (setTrig s k x).pending = s.pending := rfl
@[simp] theorem setTrig_time (s : State) (k : Nat) (x : Trig) : (setTrig s k x).time = s.time := rfl
@[simp] theorem setTrig_rst (s : State) (k : Nat) (x : Trig) : (setTrig s k x).rst = s.rst := rfl
@[simp] theorem setTrig_sdio (s : State) (k : Nat) (x : Trig) : (setTrig s k x).sdio = s.sdio := rfl
@[simp] theorem setTrig_boot (s : State) (k : Nat) (x : Trig) : (setTrig s k x).boot = s.boot := rfl
@[simp] theorem setTrig_mb (s : State) (k : Nat) (x : Trig) : (setTrig s k x).mb = s.mb := rfl
@[simp] theorem setTrig_ev (s : State) (k : Nat) (x : Trig) : (setTrig s k x).ev = s.ev := rfl
@[simp] theorem setTrig_bulk (s : State) (k : Nat) (x : Trig) : (setTrig s k x).bulk = s.bulk := rfl
@[simp] theorem setTrig_chans (s : State) (k : Nat) (x : Trig) : (setTrig s k x).chans = s.chans := rfl
@[simp] theorem setTrig_fw (s : State) (k : Nat) (x : Trig) : (setTrig s k x).fw = s.fw := rfl
@[simp] theorem setTrig_islands (s : State) (k : Nat) (x : Trig) : (setTrig s k x).islands = s.islands := rfl
@[simp] theorem setTrig_mem (s : State) (k : Nat) (x : Trig) : (setTrig s k x).mem = s.mem := rfl
@[simp] theorem setTrig_marks (s : State) (k : Nat) (x : Trig) : (setTrig s k x).marks = s.marks := rfl
@[simp] theorem setTrig_eccBad (s : State) (k : Nat) (x : Trig) : (setTrig s k x).eccBad = s.eccBad := rfl
@[simp] theorem setTrig_pipes (s : State) (k : Nat) (x : Trig) : (setTrig s k x).pipes = s.pipes := rfl
@[simp] theorem setTrig_ports (s : State) (k : Nat) (x : Trig) : (setTrig s k x).ports = s.ports := rfl
@[simp] theorem setTrig_trigs (s : State) (k : Nat) (x : Trig) : (setTrig s k x).trigs = tabSet k x s.trigs := rfl
@[simp] theorem setTrig_flags (s : State) (k : Nat) (x : Trig) : (setTrig s k x).flags = s.flags := rfl
@[simp] theorem setTrig_binds (s : State) (k : Nat) (x : Trig) : (setTrig s k x).binds = s.binds := rfl
@[simp] theorem setTrig_sems (s : State) (k : Nat) (x : Trig) : (setTrig s k x).sems = s.sems := rfl
@[simp] theorem setTrig_nodes (s : State) (k : Nat) (x : Trig) : (setTrig s k x).nodes = s.nodes := rfl
@[simp] theorem setTrig_links (s : State) (k : Nat) (x : Trig) : (setTrig s k x).links = s.links := rfl
@[simp] theorem setTrig_descs (s : State) (k : Nat) (x : Trig) : (setTrig s k x).descs = s.descs := rfl
@[simp] theorem setTrig_graphs (s : State) (k : Nat) (x : Trig) : (setTrig s k x).graphs = s.graphs := rfl
@[simp] theorem setTrig_engines (s : State) (k : Nat) (x : Trig) : (setTrig s k x).engines = s.engines := rfl
@[simp] theorem setTrig_obxCarry (s : State) (k : Nat) (x : Trig) : (setTrig s k x).obxCarry = s.obxCarry := rfl
@[simp] theorem setTrig_objNext (s : State) (k : Nat) (x : Trig) : (setTrig s k x).objNext = s.objNext := rfl
@[simp] theorem setTrig_objDropped (s : State) (k : Nat) (x : Trig) : (setTrig s k x).objDropped = s.objDropped := rfl
@[simp] theorem setTrig_ringBusy (s : State) (k : Nat) (x : Trig) : (setTrig s k x).ringBusy = s.ringBusy := rfl
@[simp] theorem setTrig_cores (s : State) (k : Nat) (x : Trig) : (setTrig s k x).cores = s.cores := rfl
@[simp] theorem setTrig_pool (s : State) (k : Nat) (x : Trig) : (setTrig s k x).pool = s.pool := rfl
@[simp] theorem setTrig_eports (s : State) (k : Nat) (x : Trig) : (setTrig s k x).eports = s.eports := rfl
@[simp] theorem setTrig_dma (s : State) (k : Nat) (x : Trig) : (setTrig s k x).dma = s.dma := rfl
@[simp] theorem setTrig_streams (s : State) (k : Nat) (x : Trig) : (setTrig s k x).streams = s.streams := rfl
@[simp] theorem setTrig_wcache (s : State) (k : Nat) (x : Trig) : (setTrig s k x).wcache = s.wcache := rfl
@[simp] theorem setTrig_lports (s : State) (k : Nat) (x : Trig) : (setTrig s k x).lports = s.lports := rfl
@[simp] theorem setTrig_inst (s : State) (k : Nat) (x : Trig) : (setTrig s k x).inst = s.inst := rfl
@[simp] theorem setTrig_ddr (s : State) (k : Nat) (x : Trig) : (setTrig s k x).ddr = s.ddr := rfl
@[simp] theorem setTrig_safety (s : State) (k : Nat) (x : Trig) : (setTrig s k x).safety = s.safety := rfl
@[simp] theorem setTrig_power (s : State) (k : Nat) (x : Trig) : (setTrig s k x).power = s.power := rfl
@[simp] theorem setTrig_trace (s : State) (k : Nat) (x : Trig) : (setTrig s k x).trace = s.trace := rfl
@[simp] theorem setTrig_watches (s : State) (k : Nat) (x : Trig) : (setTrig s k x).watches = s.watches := rfl
@[simp] theorem setTrig_tap (s : State) (k : Nat) (x : Trig) : (setTrig s k x).tap = s.tap := rfl
@[simp] theorem setTrig_eccCnt (s : State) (k : Nat) (x : Trig) : (setTrig s k x).eccCnt = s.eccCnt := rfl
@[simp] theorem setTrig_eccWin (s : State) (k : Nat) (x : Trig) : (setTrig s k x).eccWin = s.eccWin := rfl
@[simp] theorem setTrig_freeCnt (s : State) (k : Nat) (x : Trig) : (setTrig s k x).freeCnt = s.freeCnt := rfl

/-! ### setFlag -/

@[simp] theorem setFlag_pending (s : State) (k : Nat) (x : Flag) : (setFlag s k x).pending = s.pending := rfl
@[simp] theorem setFlag_time (s : State) (k : Nat) (x : Flag) : (setFlag s k x).time = s.time := rfl
@[simp] theorem setFlag_rst (s : State) (k : Nat) (x : Flag) : (setFlag s k x).rst = s.rst := rfl
@[simp] theorem setFlag_sdio (s : State) (k : Nat) (x : Flag) : (setFlag s k x).sdio = s.sdio := rfl
@[simp] theorem setFlag_boot (s : State) (k : Nat) (x : Flag) : (setFlag s k x).boot = s.boot := rfl
@[simp] theorem setFlag_mb (s : State) (k : Nat) (x : Flag) : (setFlag s k x).mb = s.mb := rfl
@[simp] theorem setFlag_ev (s : State) (k : Nat) (x : Flag) : (setFlag s k x).ev = s.ev := rfl
@[simp] theorem setFlag_bulk (s : State) (k : Nat) (x : Flag) : (setFlag s k x).bulk = s.bulk := rfl
@[simp] theorem setFlag_chans (s : State) (k : Nat) (x : Flag) : (setFlag s k x).chans = s.chans := rfl
@[simp] theorem setFlag_fw (s : State) (k : Nat) (x : Flag) : (setFlag s k x).fw = s.fw := rfl
@[simp] theorem setFlag_islands (s : State) (k : Nat) (x : Flag) : (setFlag s k x).islands = s.islands := rfl
@[simp] theorem setFlag_mem (s : State) (k : Nat) (x : Flag) : (setFlag s k x).mem = s.mem := rfl
@[simp] theorem setFlag_marks (s : State) (k : Nat) (x : Flag) : (setFlag s k x).marks = s.marks := rfl
@[simp] theorem setFlag_eccBad (s : State) (k : Nat) (x : Flag) : (setFlag s k x).eccBad = s.eccBad := rfl
@[simp] theorem setFlag_pipes (s : State) (k : Nat) (x : Flag) : (setFlag s k x).pipes = s.pipes := rfl
@[simp] theorem setFlag_ports (s : State) (k : Nat) (x : Flag) : (setFlag s k x).ports = s.ports := rfl
@[simp] theorem setFlag_trigs (s : State) (k : Nat) (x : Flag) : (setFlag s k x).trigs = s.trigs := rfl
@[simp] theorem setFlag_flags (s : State) (k : Nat) (x : Flag) : (setFlag s k x).flags = tabSet k x s.flags := rfl
@[simp] theorem setFlag_binds (s : State) (k : Nat) (x : Flag) : (setFlag s k x).binds = s.binds := rfl
@[simp] theorem setFlag_sems (s : State) (k : Nat) (x : Flag) : (setFlag s k x).sems = s.sems := rfl
@[simp] theorem setFlag_nodes (s : State) (k : Nat) (x : Flag) : (setFlag s k x).nodes = s.nodes := rfl
@[simp] theorem setFlag_links (s : State) (k : Nat) (x : Flag) : (setFlag s k x).links = s.links := rfl
@[simp] theorem setFlag_descs (s : State) (k : Nat) (x : Flag) : (setFlag s k x).descs = s.descs := rfl
@[simp] theorem setFlag_graphs (s : State) (k : Nat) (x : Flag) : (setFlag s k x).graphs = s.graphs := rfl
@[simp] theorem setFlag_engines (s : State) (k : Nat) (x : Flag) : (setFlag s k x).engines = s.engines := rfl
@[simp] theorem setFlag_obxCarry (s : State) (k : Nat) (x : Flag) : (setFlag s k x).obxCarry = s.obxCarry := rfl
@[simp] theorem setFlag_objNext (s : State) (k : Nat) (x : Flag) : (setFlag s k x).objNext = s.objNext := rfl
@[simp] theorem setFlag_objDropped (s : State) (k : Nat) (x : Flag) : (setFlag s k x).objDropped = s.objDropped := rfl
@[simp] theorem setFlag_ringBusy (s : State) (k : Nat) (x : Flag) : (setFlag s k x).ringBusy = s.ringBusy := rfl
@[simp] theorem setFlag_cores (s : State) (k : Nat) (x : Flag) : (setFlag s k x).cores = s.cores := rfl
@[simp] theorem setFlag_pool (s : State) (k : Nat) (x : Flag) : (setFlag s k x).pool = s.pool := rfl
@[simp] theorem setFlag_eports (s : State) (k : Nat) (x : Flag) : (setFlag s k x).eports = s.eports := rfl
@[simp] theorem setFlag_dma (s : State) (k : Nat) (x : Flag) : (setFlag s k x).dma = s.dma := rfl
@[simp] theorem setFlag_streams (s : State) (k : Nat) (x : Flag) : (setFlag s k x).streams = s.streams := rfl
@[simp] theorem setFlag_wcache (s : State) (k : Nat) (x : Flag) : (setFlag s k x).wcache = s.wcache := rfl
@[simp] theorem setFlag_lports (s : State) (k : Nat) (x : Flag) : (setFlag s k x).lports = s.lports := rfl
@[simp] theorem setFlag_inst (s : State) (k : Nat) (x : Flag) : (setFlag s k x).inst = s.inst := rfl
@[simp] theorem setFlag_ddr (s : State) (k : Nat) (x : Flag) : (setFlag s k x).ddr = s.ddr := rfl
@[simp] theorem setFlag_safety (s : State) (k : Nat) (x : Flag) : (setFlag s k x).safety = s.safety := rfl
@[simp] theorem setFlag_power (s : State) (k : Nat) (x : Flag) : (setFlag s k x).power = s.power := rfl
@[simp] theorem setFlag_trace (s : State) (k : Nat) (x : Flag) : (setFlag s k x).trace = s.trace := rfl
@[simp] theorem setFlag_watches (s : State) (k : Nat) (x : Flag) : (setFlag s k x).watches = s.watches := rfl
@[simp] theorem setFlag_tap (s : State) (k : Nat) (x : Flag) : (setFlag s k x).tap = s.tap := rfl
@[simp] theorem setFlag_eccCnt (s : State) (k : Nat) (x : Flag) : (setFlag s k x).eccCnt = s.eccCnt := rfl
@[simp] theorem setFlag_eccWin (s : State) (k : Nat) (x : Flag) : (setFlag s k x).eccWin = s.eccWin := rfl
@[simp] theorem setFlag_freeCnt (s : State) (k : Nat) (x : Flag) : (setFlag s k x).freeCnt = s.freeCnt := rfl

/-! ### setSem -/

@[simp] theorem setSem_pending (s : State) (k : Nat) (x : Sem) : (setSem s k x).pending = s.pending := rfl
@[simp] theorem setSem_time (s : State) (k : Nat) (x : Sem) : (setSem s k x).time = s.time := rfl
@[simp] theorem setSem_rst (s : State) (k : Nat) (x : Sem) : (setSem s k x).rst = s.rst := rfl
@[simp] theorem setSem_sdio (s : State) (k : Nat) (x : Sem) : (setSem s k x).sdio = s.sdio := rfl
@[simp] theorem setSem_boot (s : State) (k : Nat) (x : Sem) : (setSem s k x).boot = s.boot := rfl
@[simp] theorem setSem_mb (s : State) (k : Nat) (x : Sem) : (setSem s k x).mb = s.mb := rfl
@[simp] theorem setSem_ev (s : State) (k : Nat) (x : Sem) : (setSem s k x).ev = s.ev := rfl
@[simp] theorem setSem_bulk (s : State) (k : Nat) (x : Sem) : (setSem s k x).bulk = s.bulk := rfl
@[simp] theorem setSem_chans (s : State) (k : Nat) (x : Sem) : (setSem s k x).chans = s.chans := rfl
@[simp] theorem setSem_fw (s : State) (k : Nat) (x : Sem) : (setSem s k x).fw = s.fw := rfl
@[simp] theorem setSem_islands (s : State) (k : Nat) (x : Sem) : (setSem s k x).islands = s.islands := rfl
@[simp] theorem setSem_mem (s : State) (k : Nat) (x : Sem) : (setSem s k x).mem = s.mem := rfl
@[simp] theorem setSem_marks (s : State) (k : Nat) (x : Sem) : (setSem s k x).marks = s.marks := rfl
@[simp] theorem setSem_eccBad (s : State) (k : Nat) (x : Sem) : (setSem s k x).eccBad = s.eccBad := rfl
@[simp] theorem setSem_pipes (s : State) (k : Nat) (x : Sem) : (setSem s k x).pipes = s.pipes := rfl
@[simp] theorem setSem_ports (s : State) (k : Nat) (x : Sem) : (setSem s k x).ports = s.ports := rfl
@[simp] theorem setSem_trigs (s : State) (k : Nat) (x : Sem) : (setSem s k x).trigs = s.trigs := rfl
@[simp] theorem setSem_flags (s : State) (k : Nat) (x : Sem) : (setSem s k x).flags = s.flags := rfl
@[simp] theorem setSem_binds (s : State) (k : Nat) (x : Sem) : (setSem s k x).binds = s.binds := rfl
@[simp] theorem setSem_sems (s : State) (k : Nat) (x : Sem) : (setSem s k x).sems = tabSet k x s.sems := rfl
@[simp] theorem setSem_nodes (s : State) (k : Nat) (x : Sem) : (setSem s k x).nodes = s.nodes := rfl
@[simp] theorem setSem_links (s : State) (k : Nat) (x : Sem) : (setSem s k x).links = s.links := rfl
@[simp] theorem setSem_descs (s : State) (k : Nat) (x : Sem) : (setSem s k x).descs = s.descs := rfl
@[simp] theorem setSem_graphs (s : State) (k : Nat) (x : Sem) : (setSem s k x).graphs = s.graphs := rfl
@[simp] theorem setSem_engines (s : State) (k : Nat) (x : Sem) : (setSem s k x).engines = s.engines := rfl
@[simp] theorem setSem_obxCarry (s : State) (k : Nat) (x : Sem) : (setSem s k x).obxCarry = s.obxCarry := rfl
@[simp] theorem setSem_objNext (s : State) (k : Nat) (x : Sem) : (setSem s k x).objNext = s.objNext := rfl
@[simp] theorem setSem_objDropped (s : State) (k : Nat) (x : Sem) : (setSem s k x).objDropped = s.objDropped := rfl
@[simp] theorem setSem_ringBusy (s : State) (k : Nat) (x : Sem) : (setSem s k x).ringBusy = s.ringBusy := rfl
@[simp] theorem setSem_cores (s : State) (k : Nat) (x : Sem) : (setSem s k x).cores = s.cores := rfl
@[simp] theorem setSem_pool (s : State) (k : Nat) (x : Sem) : (setSem s k x).pool = s.pool := rfl
@[simp] theorem setSem_eports (s : State) (k : Nat) (x : Sem) : (setSem s k x).eports = s.eports := rfl
@[simp] theorem setSem_dma (s : State) (k : Nat) (x : Sem) : (setSem s k x).dma = s.dma := rfl
@[simp] theorem setSem_streams (s : State) (k : Nat) (x : Sem) : (setSem s k x).streams = s.streams := rfl
@[simp] theorem setSem_wcache (s : State) (k : Nat) (x : Sem) : (setSem s k x).wcache = s.wcache := rfl
@[simp] theorem setSem_lports (s : State) (k : Nat) (x : Sem) : (setSem s k x).lports = s.lports := rfl
@[simp] theorem setSem_inst (s : State) (k : Nat) (x : Sem) : (setSem s k x).inst = s.inst := rfl
@[simp] theorem setSem_ddr (s : State) (k : Nat) (x : Sem) : (setSem s k x).ddr = s.ddr := rfl
@[simp] theorem setSem_safety (s : State) (k : Nat) (x : Sem) : (setSem s k x).safety = s.safety := rfl
@[simp] theorem setSem_power (s : State) (k : Nat) (x : Sem) : (setSem s k x).power = s.power := rfl
@[simp] theorem setSem_trace (s : State) (k : Nat) (x : Sem) : (setSem s k x).trace = s.trace := rfl
@[simp] theorem setSem_watches (s : State) (k : Nat) (x : Sem) : (setSem s k x).watches = s.watches := rfl
@[simp] theorem setSem_tap (s : State) (k : Nat) (x : Sem) : (setSem s k x).tap = s.tap := rfl
@[simp] theorem setSem_eccCnt (s : State) (k : Nat) (x : Sem) : (setSem s k x).eccCnt = s.eccCnt := rfl
@[simp] theorem setSem_eccWin (s : State) (k : Nat) (x : Sem) : (setSem s k x).eccWin = s.eccWin := rfl
@[simp] theorem setSem_freeCnt (s : State) (k : Nat) (x : Sem) : (setSem s k x).freeCnt = s.freeCnt := rfl

/-! ### setCore -/

@[simp] theorem setCore_pending (s : State) (k : Nat) (x : CoreSt) : (setCore s k x).pending = s.pending := rfl
@[simp] theorem setCore_time (s : State) (k : Nat) (x : CoreSt) : (setCore s k x).time = s.time := rfl
@[simp] theorem setCore_rst (s : State) (k : Nat) (x : CoreSt) : (setCore s k x).rst = s.rst := rfl
@[simp] theorem setCore_sdio (s : State) (k : Nat) (x : CoreSt) : (setCore s k x).sdio = s.sdio := rfl
@[simp] theorem setCore_boot (s : State) (k : Nat) (x : CoreSt) : (setCore s k x).boot = s.boot := rfl
@[simp] theorem setCore_mb (s : State) (k : Nat) (x : CoreSt) : (setCore s k x).mb = s.mb := rfl
@[simp] theorem setCore_ev (s : State) (k : Nat) (x : CoreSt) : (setCore s k x).ev = s.ev := rfl
@[simp] theorem setCore_bulk (s : State) (k : Nat) (x : CoreSt) : (setCore s k x).bulk = s.bulk := rfl
@[simp] theorem setCore_chans (s : State) (k : Nat) (x : CoreSt) : (setCore s k x).chans = s.chans := rfl
@[simp] theorem setCore_fw (s : State) (k : Nat) (x : CoreSt) : (setCore s k x).fw = s.fw := rfl
@[simp] theorem setCore_islands (s : State) (k : Nat) (x : CoreSt) : (setCore s k x).islands = s.islands := rfl
@[simp] theorem setCore_mem (s : State) (k : Nat) (x : CoreSt) : (setCore s k x).mem = s.mem := rfl
@[simp] theorem setCore_marks (s : State) (k : Nat) (x : CoreSt) : (setCore s k x).marks = s.marks := rfl
@[simp] theorem setCore_eccBad (s : State) (k : Nat) (x : CoreSt) : (setCore s k x).eccBad = s.eccBad := rfl
@[simp] theorem setCore_pipes (s : State) (k : Nat) (x : CoreSt) : (setCore s k x).pipes = s.pipes := rfl
@[simp] theorem setCore_ports (s : State) (k : Nat) (x : CoreSt) : (setCore s k x).ports = s.ports := rfl
@[simp] theorem setCore_trigs (s : State) (k : Nat) (x : CoreSt) : (setCore s k x).trigs = s.trigs := rfl
@[simp] theorem setCore_flags (s : State) (k : Nat) (x : CoreSt) : (setCore s k x).flags = s.flags := rfl
@[simp] theorem setCore_binds (s : State) (k : Nat) (x : CoreSt) : (setCore s k x).binds = s.binds := rfl
@[simp] theorem setCore_sems (s : State) (k : Nat) (x : CoreSt) : (setCore s k x).sems = s.sems := rfl
@[simp] theorem setCore_nodes (s : State) (k : Nat) (x : CoreSt) : (setCore s k x).nodes = s.nodes := rfl
@[simp] theorem setCore_links (s : State) (k : Nat) (x : CoreSt) : (setCore s k x).links = s.links := rfl
@[simp] theorem setCore_descs (s : State) (k : Nat) (x : CoreSt) : (setCore s k x).descs = s.descs := rfl
@[simp] theorem setCore_graphs (s : State) (k : Nat) (x : CoreSt) : (setCore s k x).graphs = s.graphs := rfl
@[simp] theorem setCore_engines (s : State) (k : Nat) (x : CoreSt) : (setCore s k x).engines = s.engines := rfl
@[simp] theorem setCore_obxCarry (s : State) (k : Nat) (x : CoreSt) : (setCore s k x).obxCarry = s.obxCarry := rfl
@[simp] theorem setCore_objNext (s : State) (k : Nat) (x : CoreSt) : (setCore s k x).objNext = s.objNext := rfl
@[simp] theorem setCore_objDropped (s : State) (k : Nat) (x : CoreSt) : (setCore s k x).objDropped = s.objDropped := rfl
@[simp] theorem setCore_ringBusy (s : State) (k : Nat) (x : CoreSt) : (setCore s k x).ringBusy = s.ringBusy := rfl
@[simp] theorem setCore_cores (s : State) (k : Nat) (x : CoreSt) : (setCore s k x).cores = tabSet k x s.cores := rfl
@[simp] theorem setCore_pool (s : State) (k : Nat) (x : CoreSt) : (setCore s k x).pool = s.pool := rfl
@[simp] theorem setCore_eports (s : State) (k : Nat) (x : CoreSt) : (setCore s k x).eports = s.eports := rfl
@[simp] theorem setCore_dma (s : State) (k : Nat) (x : CoreSt) : (setCore s k x).dma = s.dma := rfl
@[simp] theorem setCore_streams (s : State) (k : Nat) (x : CoreSt) : (setCore s k x).streams = s.streams := rfl
@[simp] theorem setCore_wcache (s : State) (k : Nat) (x : CoreSt) : (setCore s k x).wcache = s.wcache := rfl
@[simp] theorem setCore_lports (s : State) (k : Nat) (x : CoreSt) : (setCore s k x).lports = s.lports := rfl
@[simp] theorem setCore_inst (s : State) (k : Nat) (x : CoreSt) : (setCore s k x).inst = s.inst := rfl
@[simp] theorem setCore_ddr (s : State) (k : Nat) (x : CoreSt) : (setCore s k x).ddr = s.ddr := rfl
@[simp] theorem setCore_safety (s : State) (k : Nat) (x : CoreSt) : (setCore s k x).safety = s.safety := rfl
@[simp] theorem setCore_power (s : State) (k : Nat) (x : CoreSt) : (setCore s k x).power = s.power := rfl
@[simp] theorem setCore_trace (s : State) (k : Nat) (x : CoreSt) : (setCore s k x).trace = s.trace := rfl
@[simp] theorem setCore_watches (s : State) (k : Nat) (x : CoreSt) : (setCore s k x).watches = s.watches := rfl
@[simp] theorem setCore_tap (s : State) (k : Nat) (x : CoreSt) : (setCore s k x).tap = s.tap := rfl
@[simp] theorem setCore_eccCnt (s : State) (k : Nat) (x : CoreSt) : (setCore s k x).eccCnt = s.eccCnt := rfl
@[simp] theorem setCore_eccWin (s : State) (k : Nat) (x : CoreSt) : (setCore s k x).eccWin = s.eccWin := rfl
@[simp] theorem setCore_freeCnt (s : State) (k : Nat) (x : CoreSt) : (setCore s k x).freeCnt = s.freeCnt := rfl

/-! ### setLport -/

@[simp] theorem setLport_pending (s : State) (k : Nat) (x : LinkPort) : (setLport s k x).pending = s.pending := rfl
@[simp] theorem setLport_time (s : State) (k : Nat) (x : LinkPort) : (setLport s k x).time = s.time := rfl
@[simp] theorem setLport_rst (s : State) (k : Nat) (x : LinkPort) : (setLport s k x).rst = s.rst := rfl
@[simp] theorem setLport_sdio (s : State) (k : Nat) (x : LinkPort) : (setLport s k x).sdio = s.sdio := rfl
@[simp] theorem setLport_boot (s : State) (k : Nat) (x : LinkPort) : (setLport s k x).boot = s.boot := rfl
@[simp] theorem setLport_mb (s : State) (k : Nat) (x : LinkPort) : (setLport s k x).mb = s.mb := rfl
@[simp] theorem setLport_ev (s : State) (k : Nat) (x : LinkPort) : (setLport s k x).ev = s.ev := rfl
@[simp] theorem setLport_bulk (s : State) (k : Nat) (x : LinkPort) : (setLport s k x).bulk = s.bulk := rfl
@[simp] theorem setLport_chans (s : State) (k : Nat) (x : LinkPort) : (setLport s k x).chans = s.chans := rfl
@[simp] theorem setLport_fw (s : State) (k : Nat) (x : LinkPort) : (setLport s k x).fw = s.fw := rfl
@[simp] theorem setLport_islands (s : State) (k : Nat) (x : LinkPort) : (setLport s k x).islands = s.islands := rfl
@[simp] theorem setLport_mem (s : State) (k : Nat) (x : LinkPort) : (setLport s k x).mem = s.mem := rfl
@[simp] theorem setLport_marks (s : State) (k : Nat) (x : LinkPort) : (setLport s k x).marks = s.marks := rfl
@[simp] theorem setLport_eccBad (s : State) (k : Nat) (x : LinkPort) : (setLport s k x).eccBad = s.eccBad := rfl
@[simp] theorem setLport_pipes (s : State) (k : Nat) (x : LinkPort) : (setLport s k x).pipes = s.pipes := rfl
@[simp] theorem setLport_ports (s : State) (k : Nat) (x : LinkPort) : (setLport s k x).ports = s.ports := rfl
@[simp] theorem setLport_trigs (s : State) (k : Nat) (x : LinkPort) : (setLport s k x).trigs = s.trigs := rfl
@[simp] theorem setLport_flags (s : State) (k : Nat) (x : LinkPort) : (setLport s k x).flags = s.flags := rfl
@[simp] theorem setLport_binds (s : State) (k : Nat) (x : LinkPort) : (setLport s k x).binds = s.binds := rfl
@[simp] theorem setLport_sems (s : State) (k : Nat) (x : LinkPort) : (setLport s k x).sems = s.sems := rfl
@[simp] theorem setLport_nodes (s : State) (k : Nat) (x : LinkPort) : (setLport s k x).nodes = s.nodes := rfl
@[simp] theorem setLport_links (s : State) (k : Nat) (x : LinkPort) : (setLport s k x).links = s.links := rfl
@[simp] theorem setLport_descs (s : State) (k : Nat) (x : LinkPort) : (setLport s k x).descs = s.descs := rfl
@[simp] theorem setLport_graphs (s : State) (k : Nat) (x : LinkPort) : (setLport s k x).graphs = s.graphs := rfl
@[simp] theorem setLport_engines (s : State) (k : Nat) (x : LinkPort) : (setLport s k x).engines = s.engines := rfl
@[simp] theorem setLport_obxCarry (s : State) (k : Nat) (x : LinkPort) : (setLport s k x).obxCarry = s.obxCarry := rfl
@[simp] theorem setLport_objNext (s : State) (k : Nat) (x : LinkPort) : (setLport s k x).objNext = s.objNext := rfl
@[simp] theorem setLport_objDropped (s : State) (k : Nat) (x : LinkPort) : (setLport s k x).objDropped = s.objDropped := rfl
@[simp] theorem setLport_ringBusy (s : State) (k : Nat) (x : LinkPort) : (setLport s k x).ringBusy = s.ringBusy := rfl
@[simp] theorem setLport_cores (s : State) (k : Nat) (x : LinkPort) : (setLport s k x).cores = s.cores := rfl
@[simp] theorem setLport_pool (s : State) (k : Nat) (x : LinkPort) : (setLport s k x).pool = s.pool := rfl
@[simp] theorem setLport_eports (s : State) (k : Nat) (x : LinkPort) : (setLport s k x).eports = s.eports := rfl
@[simp] theorem setLport_dma (s : State) (k : Nat) (x : LinkPort) : (setLport s k x).dma = s.dma := rfl
@[simp] theorem setLport_streams (s : State) (k : Nat) (x : LinkPort) : (setLport s k x).streams = s.streams := rfl
@[simp] theorem setLport_wcache (s : State) (k : Nat) (x : LinkPort) : (setLport s k x).wcache = s.wcache := rfl
@[simp] theorem setLport_lports (s : State) (k : Nat) (x : LinkPort) : (setLport s k x).lports = tabSet k x s.lports := rfl
@[simp] theorem setLport_inst (s : State) (k : Nat) (x : LinkPort) : (setLport s k x).inst = s.inst := rfl
@[simp] theorem setLport_ddr (s : State) (k : Nat) (x : LinkPort) : (setLport s k x).ddr = s.ddr := rfl
@[simp] theorem setLport_safety (s : State) (k : Nat) (x : LinkPort) : (setLport s k x).safety = s.safety := rfl
@[simp] theorem setLport_power (s : State) (k : Nat) (x : LinkPort) : (setLport s k x).power = s.power := rfl
@[simp] theorem setLport_trace (s : State) (k : Nat) (x : LinkPort) : (setLport s k x).trace = s.trace := rfl
@[simp] theorem setLport_watches (s : State) (k : Nat) (x : LinkPort) : (setLport s k x).watches = s.watches := rfl
@[simp] theorem setLport_tap (s : State) (k : Nat) (x : LinkPort) : (setLport s k x).tap = s.tap := rfl
@[simp] theorem setLport_eccCnt (s : State) (k : Nat) (x : LinkPort) : (setLport s k x).eccCnt = s.eccCnt := rfl
@[simp] theorem setLport_eccWin (s : State) (k : Nat) (x : LinkPort) : (setLport s k x).eccWin = s.eccWin := rfl
@[simp] theorem setLport_freeCnt (s : State) (k : Nat) (x : LinkPort) : (setLport s k x).freeCnt = s.freeCnt := rfl

/-! ### setEport -/

@[simp] theorem setEport_pending (s : State) (k : Nat) (x : EPort) : (setEport s k x).pending = s.pending := rfl
@[simp] theorem setEport_time (s : State) (k : Nat) (x : EPort) : (setEport s k x).time = s.time := rfl
@[simp] theorem setEport_rst (s : State) (k : Nat) (x : EPort) : (setEport s k x).rst = s.rst := rfl
@[simp] theorem setEport_sdio (s : State) (k : Nat) (x : EPort) : (setEport s k x).sdio = s.sdio := rfl
@[simp] theorem setEport_boot (s : State) (k : Nat) (x : EPort) : (setEport s k x).boot = s.boot := rfl
@[simp] theorem setEport_mb (s : State) (k : Nat) (x : EPort) : (setEport s k x).mb = s.mb := rfl
@[simp] theorem setEport_ev (s : State) (k : Nat) (x : EPort) : (setEport s k x).ev = s.ev := rfl
@[simp] theorem setEport_bulk (s : State) (k : Nat) (x : EPort) : (setEport s k x).bulk = s.bulk := rfl
@[simp] theorem setEport_chans (s : State) (k : Nat) (x : EPort) : (setEport s k x).chans = s.chans := rfl
@[simp] theorem setEport_fw (s : State) (k : Nat) (x : EPort) : (setEport s k x).fw = s.fw := rfl
@[simp] theorem setEport_islands (s : State) (k : Nat) (x : EPort) : (setEport s k x).islands = s.islands := rfl
@[simp] theorem setEport_mem (s : State) (k : Nat) (x : EPort) : (setEport s k x).mem = s.mem := rfl
@[simp] theorem setEport_marks (s : State) (k : Nat) (x : EPort) : (setEport s k x).marks = s.marks := rfl
@[simp] theorem setEport_eccBad (s : State) (k : Nat) (x : EPort) : (setEport s k x).eccBad = s.eccBad := rfl
@[simp] theorem setEport_pipes (s : State) (k : Nat) (x : EPort) : (setEport s k x).pipes = s.pipes := rfl
@[simp] theorem setEport_ports (s : State) (k : Nat) (x : EPort) : (setEport s k x).ports = s.ports := rfl
@[simp] theorem setEport_trigs (s : State) (k : Nat) (x : EPort) : (setEport s k x).trigs = s.trigs := rfl
@[simp] theorem setEport_flags (s : State) (k : Nat) (x : EPort) : (setEport s k x).flags = s.flags := rfl
@[simp] theorem setEport_binds (s : State) (k : Nat) (x : EPort) : (setEport s k x).binds = s.binds := rfl
@[simp] theorem setEport_sems (s : State) (k : Nat) (x : EPort) : (setEport s k x).sems = s.sems := rfl
@[simp] theorem setEport_nodes (s : State) (k : Nat) (x : EPort) : (setEport s k x).nodes = s.nodes := rfl
@[simp] theorem setEport_links (s : State) (k : Nat) (x : EPort) : (setEport s k x).links = s.links := rfl
@[simp] theorem setEport_descs (s : State) (k : Nat) (x : EPort) : (setEport s k x).descs = s.descs := rfl
@[simp] theorem setEport_graphs (s : State) (k : Nat) (x : EPort) : (setEport s k x).graphs = s.graphs := rfl
@[simp] theorem setEport_engines (s : State) (k : Nat) (x : EPort) : (setEport s k x).engines = s.engines := rfl
@[simp] theorem setEport_obxCarry (s : State) (k : Nat) (x : EPort) : (setEport s k x).obxCarry = s.obxCarry := rfl
@[simp] theorem setEport_objNext (s : State) (k : Nat) (x : EPort) : (setEport s k x).objNext = s.objNext := rfl
@[simp] theorem setEport_objDropped (s : State) (k : Nat) (x : EPort) : (setEport s k x).objDropped = s.objDropped := rfl
@[simp] theorem setEport_ringBusy (s : State) (k : Nat) (x : EPort) : (setEport s k x).ringBusy = s.ringBusy := rfl
@[simp] theorem setEport_cores (s : State) (k : Nat) (x : EPort) : (setEport s k x).cores = s.cores := rfl
@[simp] theorem setEport_pool (s : State) (k : Nat) (x : EPort) : (setEport s k x).pool = s.pool := rfl
@[simp] theorem setEport_eports (s : State) (k : Nat) (x : EPort) : (setEport s k x).eports = tabSet k x s.eports := rfl
@[simp] theorem setEport_dma (s : State) (k : Nat) (x : EPort) : (setEport s k x).dma = s.dma := rfl
@[simp] theorem setEport_streams (s : State) (k : Nat) (x : EPort) : (setEport s k x).streams = s.streams := rfl
@[simp] theorem setEport_wcache (s : State) (k : Nat) (x : EPort) : (setEport s k x).wcache = s.wcache := rfl
@[simp] theorem setEport_lports (s : State) (k : Nat) (x : EPort) : (setEport s k x).lports = s.lports := rfl
@[simp] theorem setEport_inst (s : State) (k : Nat) (x : EPort) : (setEport s k x).inst = s.inst := rfl
@[simp] theorem setEport_ddr (s : State) (k : Nat) (x : EPort) : (setEport s k x).ddr = s.ddr := rfl
@[simp] theorem setEport_safety (s : State) (k : Nat) (x : EPort) : (setEport s k x).safety = s.safety := rfl
@[simp] theorem setEport_power (s : State) (k : Nat) (x : EPort) : (setEport s k x).power = s.power := rfl
@[simp] theorem setEport_trace (s : State) (k : Nat) (x : EPort) : (setEport s k x).trace = s.trace := rfl
@[simp] theorem setEport_watches (s : State) (k : Nat) (x : EPort) : (setEport s k x).watches = s.watches := rfl
@[simp] theorem setEport_tap (s : State) (k : Nat) (x : EPort) : (setEport s k x).tap = s.tap := rfl
@[simp] theorem setEport_eccCnt (s : State) (k : Nat) (x : EPort) : (setEport s k x).eccCnt = s.eccCnt := rfl
@[simp] theorem setEport_eccWin (s : State) (k : Nat) (x : EPort) : (setEport s k x).eccWin = s.eccWin := rfl
@[simp] theorem setEport_freeCnt (s : State) (k : Nat) (x : EPort) : (setEport s k x).freeCnt = s.freeCnt := rfl

/-! ### setTrace -/

@[simp] theorem setTrace_pending (s : State) (k : Nat) (x : TraceCh) : (setTrace s k x).pending = s.pending := rfl
@[simp] theorem setTrace_time (s : State) (k : Nat) (x : TraceCh) : (setTrace s k x).time = s.time := rfl
@[simp] theorem setTrace_rst (s : State) (k : Nat) (x : TraceCh) : (setTrace s k x).rst = s.rst := rfl
@[simp] theorem setTrace_sdio (s : State) (k : Nat) (x : TraceCh) : (setTrace s k x).sdio = s.sdio := rfl
@[simp] theorem setTrace_boot (s : State) (k : Nat) (x : TraceCh) : (setTrace s k x).boot = s.boot := rfl
@[simp] theorem setTrace_mb (s : State) (k : Nat) (x : TraceCh) : (setTrace s k x).mb = s.mb := rfl
@[simp] theorem setTrace_ev (s : State) (k : Nat) (x : TraceCh) : (setTrace s k x).ev = s.ev := rfl
@[simp] theorem setTrace_bulk (s : State) (k : Nat) (x : TraceCh) : (setTrace s k x).bulk = s.bulk := rfl
@[simp] theorem setTrace_chans (s : State) (k : Nat) (x : TraceCh) : (setTrace s k x).chans = s.chans := rfl
@[simp] theorem setTrace_fw (s : State) (k : Nat) (x : TraceCh) : (setTrace s k x).fw = s.fw := rfl
@[simp] theorem setTrace_islands (s : State) (k : Nat) (x : TraceCh) : (setTrace s k x).islands = s.islands := rfl
@[simp] theorem setTrace_mem (s : State) (k : Nat) (x : TraceCh) : (setTrace s k x).mem = s.mem := rfl
@[simp] theorem setTrace_marks (s : State) (k : Nat) (x : TraceCh) : (setTrace s k x).marks = s.marks := rfl
@[simp] theorem setTrace_eccBad (s : State) (k : Nat) (x : TraceCh) : (setTrace s k x).eccBad = s.eccBad := rfl
@[simp] theorem setTrace_pipes (s : State) (k : Nat) (x : TraceCh) : (setTrace s k x).pipes = s.pipes := rfl
@[simp] theorem setTrace_ports (s : State) (k : Nat) (x : TraceCh) : (setTrace s k x).ports = s.ports := rfl
@[simp] theorem setTrace_trigs (s : State) (k : Nat) (x : TraceCh) : (setTrace s k x).trigs = s.trigs := rfl
@[simp] theorem setTrace_flags (s : State) (k : Nat) (x : TraceCh) : (setTrace s k x).flags = s.flags := rfl
@[simp] theorem setTrace_binds (s : State) (k : Nat) (x : TraceCh) : (setTrace s k x).binds = s.binds := rfl
@[simp] theorem setTrace_sems (s : State) (k : Nat) (x : TraceCh) : (setTrace s k x).sems = s.sems := rfl
@[simp] theorem setTrace_nodes (s : State) (k : Nat) (x : TraceCh) : (setTrace s k x).nodes = s.nodes := rfl
@[simp] theorem setTrace_links (s : State) (k : Nat) (x : TraceCh) : (setTrace s k x).links = s.links := rfl
@[simp] theorem setTrace_descs (s : State) (k : Nat) (x : TraceCh) : (setTrace s k x).descs = s.descs := rfl
@[simp] theorem setTrace_graphs (s : State) (k : Nat) (x : TraceCh) : (setTrace s k x).graphs = s.graphs := rfl
@[simp] theorem setTrace_engines (s : State) (k : Nat) (x : TraceCh) : (setTrace s k x).engines = s.engines := rfl
@[simp] theorem setTrace_obxCarry (s : State) (k : Nat) (x : TraceCh) : (setTrace s k x).obxCarry = s.obxCarry := rfl
@[simp] theorem setTrace_objNext (s : State) (k : Nat) (x : TraceCh) : (setTrace s k x).objNext = s.objNext := rfl
@[simp] theorem setTrace_objDropped (s : State) (k : Nat) (x : TraceCh) : (setTrace s k x).objDropped = s.objDropped := rfl
@[simp] theorem setTrace_ringBusy (s : State) (k : Nat) (x : TraceCh) : (setTrace s k x).ringBusy = s.ringBusy := rfl
@[simp] theorem setTrace_cores (s : State) (k : Nat) (x : TraceCh) : (setTrace s k x).cores = s.cores := rfl
@[simp] theorem setTrace_pool (s : State) (k : Nat) (x : TraceCh) : (setTrace s k x).pool = s.pool := rfl
@[simp] theorem setTrace_eports (s : State) (k : Nat) (x : TraceCh) : (setTrace s k x).eports = s.eports := rfl
@[simp] theorem setTrace_dma (s : State) (k : Nat) (x : TraceCh) : (setTrace s k x).dma = s.dma := rfl
@[simp] theorem setTrace_streams (s : State) (k : Nat) (x : TraceCh) : (setTrace s k x).streams = s.streams := rfl
@[simp] theorem setTrace_wcache (s : State) (k : Nat) (x : TraceCh) : (setTrace s k x).wcache = s.wcache := rfl
@[simp] theorem setTrace_lports (s : State) (k : Nat) (x : TraceCh) : (setTrace s k x).lports = s.lports := rfl
@[simp] theorem setTrace_inst (s : State) (k : Nat) (x : TraceCh) : (setTrace s k x).inst = s.inst := rfl
@[simp] theorem setTrace_ddr (s : State) (k : Nat) (x : TraceCh) : (setTrace s k x).ddr = s.ddr := rfl
@[simp] theorem setTrace_safety (s : State) (k : Nat) (x : TraceCh) : (setTrace s k x).safety = s.safety := rfl
@[simp] theorem setTrace_power (s : State) (k : Nat) (x : TraceCh) : (setTrace s k x).power = s.power := rfl
@[simp] theorem setTrace_trace (s : State) (k : Nat) (x : TraceCh) : (setTrace s k x).trace = { s.trace with chans := tabSet k x s.trace.chans } := rfl
@[simp] theorem setTrace_watches (s : State) (k : Nat) (x : TraceCh) : (setTrace s k x).watches = s.watches := rfl
@[simp] theorem setTrace_tap (s : State) (k : Nat) (x : TraceCh) : (setTrace s k x).tap = s.tap := rfl
@[simp] theorem setTrace_eccCnt (s : State) (k : Nat) (x : TraceCh) : (setTrace s k x).eccCnt = s.eccCnt := rfl
@[simp] theorem setTrace_eccWin (s : State) (k : Nat) (x : TraceCh) : (setTrace s k x).eccWin = s.eccWin := rfl
@[simp] theorem setTrace_freeCnt (s : State) (k : Nat) (x : TraceCh) : (setTrace s k x).freeCnt = s.freeCnt := rfl

/-! ### setPipe -/

@[simp] theorem setPipe_pending (s : State) (k : Nat) (x : Pipe) : (setPipe s k x).pending = s.pending := rfl
@[simp] theorem setPipe_time (s : State) (k : Nat) (x : Pipe) : (setPipe s k x).time = s.time := rfl
@[simp] theorem setPipe_rst (s : State) (k : Nat) (x : Pipe) : (setPipe s k x).rst = s.rst := rfl
@[simp] theorem setPipe_sdio (s : State) (k : Nat) (x : Pipe) : (setPipe s k x).sdio = s.sdio := rfl
@[simp] theorem setPipe_boot (s : State) (k : Nat) (x : Pipe) : (setPipe s k x).boot = s.boot := rfl
@[simp] theorem setPipe_mb (s : State) (k : Nat) (x : Pipe) : (setPipe s k x).mb = s.mb := rfl
@[simp] theorem setPipe_ev (s : State) (k : Nat) (x : Pipe) : (setPipe s k x).ev = s.ev := rfl
@[simp] theorem setPipe_bulk (s : State) (k : Nat) (x : Pipe) : (setPipe s k x).bulk = s.bulk := rfl
@[simp] theorem setPipe_chans (s : State) (k : Nat) (x : Pipe) : (setPipe s k x).chans = s.chans := rfl
@[simp] theorem setPipe_fw (s : State) (k : Nat) (x : Pipe) : (setPipe s k x).fw = s.fw := rfl
@[simp] theorem setPipe_islands (s : State) (k : Nat) (x : Pipe) : (setPipe s k x).islands = s.islands := rfl
@[simp] theorem setPipe_mem (s : State) (k : Nat) (x : Pipe) : (setPipe s k x).mem = s.mem := rfl
@[simp] theorem setPipe_marks (s : State) (k : Nat) (x : Pipe) : (setPipe s k x).marks = s.marks := rfl
@[simp] theorem setPipe_eccBad (s : State) (k : Nat) (x : Pipe) : (setPipe s k x).eccBad = s.eccBad := rfl
@[simp] theorem setPipe_pipes (s : State) (k : Nat) (x : Pipe) : (setPipe s k x).pipes = tabSet k x s.pipes := rfl
@[simp] theorem setPipe_ports (s : State) (k : Nat) (x : Pipe) : (setPipe s k x).ports = s.ports := rfl
@[simp] theorem setPipe_trigs (s : State) (k : Nat) (x : Pipe) : (setPipe s k x).trigs = s.trigs := rfl
@[simp] theorem setPipe_flags (s : State) (k : Nat) (x : Pipe) : (setPipe s k x).flags = s.flags := rfl
@[simp] theorem setPipe_binds (s : State) (k : Nat) (x : Pipe) : (setPipe s k x).binds = s.binds := rfl
@[simp] theorem setPipe_sems (s : State) (k : Nat) (x : Pipe) : (setPipe s k x).sems = s.sems := rfl
@[simp] theorem setPipe_nodes (s : State) (k : Nat) (x : Pipe) : (setPipe s k x).nodes = s.nodes := rfl
@[simp] theorem setPipe_links (s : State) (k : Nat) (x : Pipe) : (setPipe s k x).links = s.links := rfl
@[simp] theorem setPipe_descs (s : State) (k : Nat) (x : Pipe) : (setPipe s k x).descs = s.descs := rfl
@[simp] theorem setPipe_graphs (s : State) (k : Nat) (x : Pipe) : (setPipe s k x).graphs = s.graphs := rfl
@[simp] theorem setPipe_engines (s : State) (k : Nat) (x : Pipe) : (setPipe s k x).engines = s.engines := rfl
@[simp] theorem setPipe_obxCarry (s : State) (k : Nat) (x : Pipe) : (setPipe s k x).obxCarry = s.obxCarry := rfl
@[simp] theorem setPipe_objNext (s : State) (k : Nat) (x : Pipe) : (setPipe s k x).objNext = s.objNext := rfl
@[simp] theorem setPipe_objDropped (s : State) (k : Nat) (x : Pipe) : (setPipe s k x).objDropped = s.objDropped := rfl
@[simp] theorem setPipe_ringBusy (s : State) (k : Nat) (x : Pipe) : (setPipe s k x).ringBusy = s.ringBusy := rfl
@[simp] theorem setPipe_cores (s : State) (k : Nat) (x : Pipe) : (setPipe s k x).cores = s.cores := rfl
@[simp] theorem setPipe_pool (s : State) (k : Nat) (x : Pipe) : (setPipe s k x).pool = s.pool := rfl
@[simp] theorem setPipe_eports (s : State) (k : Nat) (x : Pipe) : (setPipe s k x).eports = s.eports := rfl
@[simp] theorem setPipe_dma (s : State) (k : Nat) (x : Pipe) : (setPipe s k x).dma = s.dma := rfl
@[simp] theorem setPipe_streams (s : State) (k : Nat) (x : Pipe) : (setPipe s k x).streams = s.streams := rfl
@[simp] theorem setPipe_wcache (s : State) (k : Nat) (x : Pipe) : (setPipe s k x).wcache = s.wcache := rfl
@[simp] theorem setPipe_lports (s : State) (k : Nat) (x : Pipe) : (setPipe s k x).lports = s.lports := rfl
@[simp] theorem setPipe_inst (s : State) (k : Nat) (x : Pipe) : (setPipe s k x).inst = s.inst := rfl
@[simp] theorem setPipe_ddr (s : State) (k : Nat) (x : Pipe) : (setPipe s k x).ddr = s.ddr := rfl
@[simp] theorem setPipe_safety (s : State) (k : Nat) (x : Pipe) : (setPipe s k x).safety = s.safety := rfl
@[simp] theorem setPipe_power (s : State) (k : Nat) (x : Pipe) : (setPipe s k x).power = s.power := rfl
@[simp] theorem setPipe_trace (s : State) (k : Nat) (x : Pipe) : (setPipe s k x).trace = s.trace := rfl
@[simp] theorem setPipe_watches (s : State) (k : Nat) (x : Pipe) : (setPipe s k x).watches = s.watches := rfl
@[simp] theorem setPipe_tap (s : State) (k : Nat) (x : Pipe) : (setPipe s k x).tap = s.tap := rfl
@[simp] theorem setPipe_eccCnt (s : State) (k : Nat) (x : Pipe) : (setPipe s k x).eccCnt = s.eccCnt := rfl
@[simp] theorem setPipe_eccWin (s : State) (k : Nat) (x : Pipe) : (setPipe s k x).eccWin = s.eccWin := rfl
@[simp] theorem setPipe_freeCnt (s : State) (k : Nat) (x : Pipe) : (setPipe s k x).freeCnt = s.freeCnt := rfl

/-! ### setNode -/

@[simp] theorem setNode_pending (s : State) (k : Nat) (x : Node) : (setNode s k x).pending = s.pending := rfl
@[simp] theorem setNode_time (s : State) (k : Nat) (x : Node) : (setNode s k x).time = s.time := rfl
@[simp] theorem setNode_rst (s : State) (k : Nat) (x : Node) : (setNode s k x).rst = s.rst := rfl
@[simp] theorem setNode_sdio (s : State) (k : Nat) (x : Node) : (setNode s k x).sdio = s.sdio := rfl
@[simp] theorem setNode_boot (s : State) (k : Nat) (x : Node) : (setNode s k x).boot = s.boot := rfl
@[simp] theorem setNode_mb (s : State) (k : Nat) (x : Node) : (setNode s k x).mb = s.mb := rfl
@[simp] theorem setNode_ev (s : State) (k : Nat) (x : Node) : (setNode s k x).ev = s.ev := rfl
@[simp] theorem setNode_bulk (s : State) (k : Nat) (x : Node) : (setNode s k x).bulk = s.bulk := rfl
@[simp] theorem setNode_chans (s : State) (k : Nat) (x : Node) : (setNode s k x).chans = s.chans := rfl
@[simp] theorem setNode_fw (s : State) (k : Nat) (x : Node) : (setNode s k x).fw = s.fw := rfl
@[simp] theorem setNode_islands (s : State) (k : Nat) (x : Node) : (setNode s k x).islands = s.islands := rfl
@[simp] theorem setNode_mem (s : State) (k : Nat) (x : Node) : (setNode s k x).mem = s.mem := rfl
@[simp] theorem setNode_marks (s : State) (k : Nat) (x : Node) : (setNode s k x).marks = s.marks := rfl
@[simp] theorem setNode_eccBad (s : State) (k : Nat) (x : Node) : (setNode s k x).eccBad = s.eccBad := rfl
@[simp] theorem setNode_pipes (s : State) (k : Nat) (x : Node) : (setNode s k x).pipes = s.pipes := rfl
@[simp] theorem setNode_ports (s : State) (k : Nat) (x : Node) : (setNode s k x).ports = s.ports := rfl
@[simp] theorem setNode_trigs (s : State) (k : Nat) (x : Node) : (setNode s k x).trigs = s.trigs := rfl
@[simp] theorem setNode_flags (s : State) (k : Nat) (x : Node) : (setNode s k x).flags = s.flags := rfl
@[simp] theorem setNode_binds (s : State) (k : Nat) (x : Node) : (setNode s k x).binds = s.binds := rfl
@[simp] theorem setNode_sems (s : State) (k : Nat) (x : Node) : (setNode s k x).sems = s.sems := rfl
@[simp] theorem setNode_nodes (s : State) (k : Nat) (x : Node) : (setNode s k x).nodes = tabSet k x s.nodes := rfl
@[simp] theorem setNode_links (s : State) (k : Nat) (x : Node) : (setNode s k x).links = s.links := rfl
@[simp] theorem setNode_descs (s : State) (k : Nat) (x : Node) : (setNode s k x).descs = s.descs := rfl
@[simp] theorem setNode_graphs (s : State) (k : Nat) (x : Node) : (setNode s k x).graphs = s.graphs := rfl
@[simp] theorem setNode_engines (s : State) (k : Nat) (x : Node) : (setNode s k x).engines = s.engines := rfl
@[simp] theorem setNode_obxCarry (s : State) (k : Nat) (x : Node) : (setNode s k x).obxCarry = s.obxCarry := rfl
@[simp] theorem setNode_objNext (s : State) (k : Nat) (x : Node) : (setNode s k x).objNext = s.objNext := rfl
@[simp] theorem setNode_objDropped (s : State) (k : Nat) (x : Node) : (setNode s k x).objDropped = s.objDropped := rfl
@[simp] theorem setNode_ringBusy (s : State) (k : Nat) (x : Node) : (setNode s k x).ringBusy = s.ringBusy := rfl
@[simp] theorem setNode_cores (s : State) (k : Nat) (x : Node) : (setNode s k x).cores = s.cores := rfl
@[simp] theorem setNode_pool (s : State) (k : Nat) (x : Node) : (setNode s k x).pool = s.pool := rfl
@[simp] theorem setNode_eports (s : State) (k : Nat) (x : Node) : (setNode s k x).eports = s.eports := rfl
@[simp] theorem setNode_dma (s : State) (k : Nat) (x : Node) : (setNode s k x).dma = s.dma := rfl
@[simp] theorem setNode_streams (s : State) (k : Nat) (x : Node) : (setNode s k x).streams = s.streams := rfl
@[simp] theorem setNode_wcache (s : State) (k : Nat) (x : Node) : (setNode s k x).wcache = s.wcache := rfl
@[simp] theorem setNode_lports (s : State) (k : Nat) (x : Node) : (setNode s k x).lports = s.lports := rfl
@[simp] theorem setNode_inst (s : State) (k : Nat) (x : Node) : (setNode s k x).inst = s.inst := rfl
@[simp] theorem setNode_ddr (s : State) (k : Nat) (x : Node) : (setNode s k x).ddr = s.ddr := rfl
@[simp] theorem setNode_safety (s : State) (k : Nat) (x : Node) : (setNode s k x).safety = s.safety := rfl
@[simp] theorem setNode_power (s : State) (k : Nat) (x : Node) : (setNode s k x).power = s.power := rfl
@[simp] theorem setNode_trace (s : State) (k : Nat) (x : Node) : (setNode s k x).trace = s.trace := rfl
@[simp] theorem setNode_watches (s : State) (k : Nat) (x : Node) : (setNode s k x).watches = s.watches := rfl
@[simp] theorem setNode_tap (s : State) (k : Nat) (x : Node) : (setNode s k x).tap = s.tap := rfl
@[simp] theorem setNode_eccCnt (s : State) (k : Nat) (x : Node) : (setNode s k x).eccCnt = s.eccCnt := rfl
@[simp] theorem setNode_eccWin (s : State) (k : Nat) (x : Node) : (setNode s k x).eccWin = s.eccWin := rfl
@[simp] theorem setNode_freeCnt (s : State) (k : Nat) (x : Node) : (setNode s k x).freeCnt = s.freeCnt := rfl

/-! ### setGraph -/

@[simp] theorem setGraph_pending (s : State) (k : Nat) (x : Graph) : (setGraph s k x).pending = s.pending := rfl
@[simp] theorem setGraph_time (s : State) (k : Nat) (x : Graph) : (setGraph s k x).time = s.time := rfl
@[simp] theorem setGraph_rst (s : State) (k : Nat) (x : Graph) : (setGraph s k x).rst = s.rst := rfl
@[simp] theorem setGraph_sdio (s : State) (k : Nat) (x : Graph) : (setGraph s k x).sdio = s.sdio := rfl
@[simp] theorem setGraph_boot (s : State) (k : Nat) (x : Graph) : (setGraph s k x).boot = s.boot := rfl
@[simp] theorem setGraph_mb (s : State) (k : Nat) (x : Graph) : (setGraph s k x).mb = s.mb := rfl
@[simp] theorem setGraph_ev (s : State) (k : Nat) (x : Graph) : (setGraph s k x).ev = s.ev := rfl
@[simp] theorem setGraph_bulk (s : State) (k : Nat) (x : Graph) : (setGraph s k x).bulk = s.bulk := rfl
@[simp] theorem setGraph_chans (s : State) (k : Nat) (x : Graph) : (setGraph s k x).chans = s.chans := rfl
@[simp] theorem setGraph_fw (s : State) (k : Nat) (x : Graph) : (setGraph s k x).fw = s.fw := rfl
@[simp] theorem setGraph_islands (s : State) (k : Nat) (x : Graph) : (setGraph s k x).islands = s.islands := rfl
@[simp] theorem setGraph_mem (s : State) (k : Nat) (x : Graph) : (setGraph s k x).mem = s.mem := rfl
@[simp] theorem setGraph_marks (s : State) (k : Nat) (x : Graph) : (setGraph s k x).marks = s.marks := rfl
@[simp] theorem setGraph_eccBad (s : State) (k : Nat) (x : Graph) : (setGraph s k x).eccBad = s.eccBad := rfl
@[simp] theorem setGraph_pipes (s : State) (k : Nat) (x : Graph) : (setGraph s k x).pipes = s.pipes := rfl
@[simp] theorem setGraph_ports (s : State) (k : Nat) (x : Graph) : (setGraph s k x).ports = s.ports := rfl
@[simp] theorem setGraph_trigs (s : State) (k : Nat) (x : Graph) : (setGraph s k x).trigs = s.trigs := rfl
@[simp] theorem setGraph_flags (s : State) (k : Nat) (x : Graph) : (setGraph s k x).flags = s.flags := rfl
@[simp] theorem setGraph_binds (s : State) (k : Nat) (x : Graph) : (setGraph s k x).binds = s.binds := rfl
@[simp] theorem setGraph_sems (s : State) (k : Nat) (x : Graph) : (setGraph s k x).sems = s.sems := rfl
@[simp] theorem setGraph_nodes (s : State) (k : Nat) (x : Graph) : (setGraph s k x).nodes = s.nodes := rfl
@[simp] theorem setGraph_links (s : State) (k : Nat) (x : Graph) : (setGraph s k x).links = s.links := rfl
@[simp] theorem setGraph_descs (s : State) (k : Nat) (x : Graph) : (setGraph s k x).descs = s.descs := rfl
@[simp] theorem setGraph_graphs (s : State) (k : Nat) (x : Graph) : (setGraph s k x).graphs = tabSet k x s.graphs := rfl
@[simp] theorem setGraph_engines (s : State) (k : Nat) (x : Graph) : (setGraph s k x).engines = s.engines := rfl
@[simp] theorem setGraph_obxCarry (s : State) (k : Nat) (x : Graph) : (setGraph s k x).obxCarry = s.obxCarry := rfl
@[simp] theorem setGraph_objNext (s : State) (k : Nat) (x : Graph) : (setGraph s k x).objNext = s.objNext := rfl
@[simp] theorem setGraph_objDropped (s : State) (k : Nat) (x : Graph) : (setGraph s k x).objDropped = s.objDropped := rfl
@[simp] theorem setGraph_ringBusy (s : State) (k : Nat) (x : Graph) : (setGraph s k x).ringBusy = s.ringBusy := rfl
@[simp] theorem setGraph_cores (s : State) (k : Nat) (x : Graph) : (setGraph s k x).cores = s.cores := rfl
@[simp] theorem setGraph_pool (s : State) (k : Nat) (x : Graph) : (setGraph s k x).pool = s.pool := rfl
@[simp] theorem setGraph_eports (s : State) (k : Nat) (x : Graph) : (setGraph s k x).eports = s.eports := rfl
@[simp] theorem setGraph_dma (s : State) (k : Nat) (x : Graph) : (setGraph s k x).dma = s.dma := rfl
@[simp] theorem setGraph_streams (s : State) (k : Nat) (x : Graph) : (setGraph s k x).streams = s.streams := rfl
@[simp] theorem setGraph_wcache (s : State) (k : Nat) (x : Graph) : (setGraph s k x).wcache = s.wcache := rfl
@[simp] theorem setGraph_lports (s : State) (k : Nat) (x : Graph) : (setGraph s k x).lports = s.lports := rfl
@[simp] theorem setGraph_inst (s : State) (k : Nat) (x : Graph) : (setGraph s k x).inst = s.inst := rfl
@[simp] theorem setGraph_ddr (s : State) (k : Nat) (x : Graph) : (setGraph s k x).ddr = s.ddr := rfl
@[simp] theorem setGraph_safety (s : State) (k : Nat) (x : Graph) : (setGraph s k x).safety = s.safety := rfl
@[simp] theorem setGraph_power (s : State) (k : Nat) (x : Graph) : (setGraph s k x).power = s.power := rfl
@[simp] theorem setGraph_trace (s : State) (k : Nat) (x : Graph) : (setGraph s k x).trace = s.trace := rfl
@[simp] theorem setGraph_watches (s : State) (k : Nat) (x : Graph) : (setGraph s k x).watches = s.watches := rfl
@[simp] theorem setGraph_tap (s : State) (k : Nat) (x : Graph) : (setGraph s k x).tap = s.tap := rfl
@[simp] theorem setGraph_eccCnt (s : State) (k : Nat) (x : Graph) : (setGraph s k x).eccCnt = s.eccCnt := rfl
@[simp] theorem setGraph_eccWin (s : State) (k : Nat) (x : Graph) : (setGraph s k x).eccWin = s.eccWin := rfl
@[simp] theorem setGraph_freeCnt (s : State) (k : Nat) (x : Graph) : (setGraph s k x).freeCnt = s.freeCnt := rfl

/-! ### setEngine -/

@[simp] theorem setEngine_pending (s : State) (k : Nat) (x : EngRun) : (setEngine s k x).pending = s.pending := rfl
@[simp] theorem setEngine_time (s : State) (k : Nat) (x : EngRun) : (setEngine s k x).time = s.time := rfl
@[simp] theorem setEngine_rst (s : State) (k : Nat) (x : EngRun) : (setEngine s k x).rst = s.rst := rfl
@[simp] theorem setEngine_sdio (s : State) (k : Nat) (x : EngRun) : (setEngine s k x).sdio = s.sdio := rfl
@[simp] theorem setEngine_boot (s : State) (k : Nat) (x : EngRun) : (setEngine s k x).boot = s.boot := rfl
@[simp] theorem setEngine_mb (s : State) (k : Nat) (x : EngRun) : (setEngine s k x).mb = s.mb := rfl
@[simp] theorem setEngine_ev (s : State) (k : Nat) (x : EngRun) : (setEngine s k x).ev = s.ev := rfl
@[simp] theorem setEngine_bulk (s : State) (k : Nat) (x : EngRun) : (setEngine s k x).bulk = s.bulk := rfl
@[simp] theorem setEngine_chans (s : State) (k : Nat) (x : EngRun) : (setEngine s k x).chans = s.chans := rfl
@[simp] theorem setEngine_fw (s : State) (k : Nat) (x : EngRun) : (setEngine s k x).fw = s.fw := rfl
@[simp] theorem setEngine_islands (s : State) (k : Nat) (x : EngRun) : (setEngine s k x).islands = s.islands := rfl
@[simp] theorem setEngine_mem (s : State) (k : Nat) (x : EngRun) : (setEngine s k x).mem = s.mem := rfl
@[simp] theorem setEngine_marks (s : State) (k : Nat) (x : EngRun) : (setEngine s k x).marks = s.marks := rfl
@[simp] theorem setEngine_eccBad (s : State) (k : Nat) (x : EngRun) : (setEngine s k x).eccBad = s.eccBad := rfl
@[simp] theorem setEngine_pipes (s : State) (k : Nat) (x : EngRun) : (setEngine s k x).pipes = s.pipes := rfl
@[simp] theorem setEngine_ports (s : State) (k : Nat) (x : EngRun) : (setEngine s k x).ports = s.ports := rfl
@[simp] theorem setEngine_trigs (s : State) (k : Nat) (x : EngRun) : (setEngine s k x).trigs = s.trigs := rfl
@[simp] theorem setEngine_flags (s : State) (k : Nat) (x : EngRun) : (setEngine s k x).flags = s.flags := rfl
@[simp] theorem setEngine_binds (s : State) (k : Nat) (x : EngRun) : (setEngine s k x).binds = s.binds := rfl
@[simp] theorem setEngine_sems (s : State) (k : Nat) (x : EngRun) : (setEngine s k x).sems = s.sems := rfl
@[simp] theorem setEngine_nodes (s : State) (k : Nat) (x : EngRun) : (setEngine s k x).nodes = s.nodes := rfl
@[simp] theorem setEngine_links (s : State) (k : Nat) (x : EngRun) : (setEngine s k x).links = s.links := rfl
@[simp] theorem setEngine_descs (s : State) (k : Nat) (x : EngRun) : (setEngine s k x).descs = s.descs := rfl
@[simp] theorem setEngine_graphs (s : State) (k : Nat) (x : EngRun) : (setEngine s k x).graphs = s.graphs := rfl
@[simp] theorem setEngine_engines (s : State) (k : Nat) (x : EngRun) : (setEngine s k x).engines = tabSet k x s.engines := rfl
@[simp] theorem setEngine_obxCarry (s : State) (k : Nat) (x : EngRun) : (setEngine s k x).obxCarry = s.obxCarry := rfl
@[simp] theorem setEngine_objNext (s : State) (k : Nat) (x : EngRun) : (setEngine s k x).objNext = s.objNext := rfl
@[simp] theorem setEngine_objDropped (s : State) (k : Nat) (x : EngRun) : (setEngine s k x).objDropped = s.objDropped := rfl
@[simp] theorem setEngine_ringBusy (s : State) (k : Nat) (x : EngRun) : (setEngine s k x).ringBusy = s.ringBusy := rfl
@[simp] theorem setEngine_cores (s : State) (k : Nat) (x : EngRun) : (setEngine s k x).cores = s.cores := rfl
@[simp] theorem setEngine_pool (s : State) (k : Nat) (x : EngRun) : (setEngine s k x).pool = s.pool := rfl
@[simp] theorem setEngine_eports (s : State) (k : Nat) (x : EngRun) : (setEngine s k x).eports = s.eports := rfl
@[simp] theorem setEngine_dma (s : State) (k : Nat) (x : EngRun) : (setEngine s k x).dma = s.dma := rfl
@[simp] theorem setEngine_streams (s : State) (k : Nat) (x : EngRun) : (setEngine s k x).streams = s.streams := rfl
@[simp] theorem setEngine_wcache (s : State) (k : Nat) (x : EngRun) : (setEngine s k x).wcache = s.wcache := rfl
@[simp] theorem setEngine_lports (s : State) (k : Nat) (x : EngRun) : (setEngine s k x).lports = s.lports := rfl
@[simp] theorem setEngine_inst (s : State) (k : Nat) (x : EngRun) : (setEngine s k x).inst = s.inst := rfl
@[simp] theorem setEngine_ddr (s : State) (k : Nat) (x : EngRun) : (setEngine s k x).ddr = s.ddr := rfl
@[simp] theorem setEngine_safety (s : State) (k : Nat) (x : EngRun) : (setEngine s k x).safety = s.safety := rfl
@[simp] theorem setEngine_power (s : State) (k : Nat) (x : EngRun) : (setEngine s k x).power = s.power := rfl
@[simp] theorem setEngine_trace (s : State) (k : Nat) (x : EngRun) : (setEngine s k x).trace = s.trace := rfl
@[simp] theorem setEngine_watches (s : State) (k : Nat) (x : EngRun) : (setEngine s k x).watches = s.watches := rfl
@[simp] theorem setEngine_tap (s : State) (k : Nat) (x : EngRun) : (setEngine s k x).tap = s.tap := rfl
@[simp] theorem setEngine_eccCnt (s : State) (k : Nat) (x : EngRun) : (setEngine s k x).eccCnt = s.eccCnt := rfl
@[simp] theorem setEngine_eccWin (s : State) (k : Nat) (x : EngRun) : (setEngine s k x).eccWin = s.eccWin := rfl
@[simp] theorem setEngine_freeCnt (s : State) (k : Nat) (x : EngRun) : (setEngine s k x).freeCnt = s.freeCnt := rfl

/-! ### setDma -/

@[simp] theorem setDma_pending (s : State) (k : Nat) (x : DmaChan) : (setDma s k x).pending = s.pending := rfl
@[simp] theorem setDma_time (s : State) (k : Nat) (x : DmaChan) : (setDma s k x).time = s.time := rfl
@[simp] theorem setDma_rst (s : State) (k : Nat) (x : DmaChan) : (setDma s k x).rst = s.rst := rfl
@[simp] theorem setDma_sdio (s : State) (k : Nat) (x : DmaChan) : (setDma s k x).sdio = s.sdio := rfl
@[simp] theorem setDma_boot (s : State) (k : Nat) (x : DmaChan) : (setDma s k x).boot = s.boot := rfl
@[simp] theorem setDma_mb (s : State) (k : Nat) (x : DmaChan) : (setDma s k x).mb = s.mb := rfl
@[simp] theorem setDma_ev (s : State) (k : Nat) (x : DmaChan) : (setDma s k x).ev = s.ev := rfl
@[simp] theorem setDma_bulk (s : State) (k : Nat) (x : DmaChan) : (setDma s k x).bulk = s.bulk := rfl
@[simp] theorem setDma_chans (s : State) (k : Nat) (x : DmaChan) : (setDma s k x).chans = s.chans := rfl
@[simp] theorem setDma_fw (s : State) (k : Nat) (x : DmaChan) : (setDma s k x).fw = s.fw := rfl
@[simp] theorem setDma_islands (s : State) (k : Nat) (x : DmaChan) : (setDma s k x).islands = s.islands := rfl
@[simp] theorem setDma_mem (s : State) (k : Nat) (x : DmaChan) : (setDma s k x).mem = s.mem := rfl
@[simp] theorem setDma_marks (s : State) (k : Nat) (x : DmaChan) : (setDma s k x).marks = s.marks := rfl
@[simp] theorem setDma_eccBad (s : State) (k : Nat) (x : DmaChan) : (setDma s k x).eccBad = s.eccBad := rfl
@[simp] theorem setDma_pipes (s : State) (k : Nat) (x : DmaChan) : (setDma s k x).pipes = s.pipes := rfl
@[simp] theorem setDma_ports (s : State) (k : Nat) (x : DmaChan) : (setDma s k x).ports = s.ports := rfl
@[simp] theorem setDma_trigs (s : State) (k : Nat) (x : DmaChan) : (setDma s k x).trigs = s.trigs := rfl
@[simp] theorem setDma_flags (s : State) (k : Nat) (x : DmaChan) : (setDma s k x).flags = s.flags := rfl
@[simp] theorem setDma_binds (s : State) (k : Nat) (x : DmaChan) : (setDma s k x).binds = s.binds := rfl
@[simp] theorem setDma_sems (s : State) (k : Nat) (x : DmaChan) : (setDma s k x).sems = s.sems := rfl
@[simp] theorem setDma_nodes (s : State) (k : Nat) (x : DmaChan) : (setDma s k x).nodes = s.nodes := rfl
@[simp] theorem setDma_links (s : State) (k : Nat) (x : DmaChan) : (setDma s k x).links = s.links := rfl
@[simp] theorem setDma_descs (s : State) (k : Nat) (x : DmaChan) : (setDma s k x).descs = s.descs := rfl
@[simp] theorem setDma_graphs (s : State) (k : Nat) (x : DmaChan) : (setDma s k x).graphs = s.graphs := rfl
@[simp] theorem setDma_engines (s : State) (k : Nat) (x : DmaChan) : (setDma s k x).engines = s.engines := rfl
@[simp] theorem setDma_obxCarry (s : State) (k : Nat) (x : DmaChan) : (setDma s k x).obxCarry = s.obxCarry := rfl
@[simp] theorem setDma_objNext (s : State) (k : Nat) (x : DmaChan) : (setDma s k x).objNext = s.objNext := rfl
@[simp] theorem setDma_objDropped (s : State) (k : Nat) (x : DmaChan) : (setDma s k x).objDropped = s.objDropped := rfl
@[simp] theorem setDma_ringBusy (s : State) (k : Nat) (x : DmaChan) : (setDma s k x).ringBusy = s.ringBusy := rfl
@[simp] theorem setDma_cores (s : State) (k : Nat) (x : DmaChan) : (setDma s k x).cores = s.cores := rfl
@[simp] theorem setDma_pool (s : State) (k : Nat) (x : DmaChan) : (setDma s k x).pool = s.pool := rfl
@[simp] theorem setDma_eports (s : State) (k : Nat) (x : DmaChan) : (setDma s k x).eports = s.eports := rfl
@[simp] theorem setDma_dma (s : State) (k : Nat) (x : DmaChan) : (setDma s k x).dma = tabSet k x s.dma := rfl
@[simp] theorem setDma_streams (s : State) (k : Nat) (x : DmaChan) : (setDma s k x).streams = s.streams := rfl
@[simp] theorem setDma_wcache (s : State) (k : Nat) (x : DmaChan) : (setDma s k x).wcache = s.wcache := rfl
@[simp] theorem setDma_lports (s : State) (k : Nat) (x : DmaChan) : (setDma s k x).lports = s.lports := rfl
@[simp] theorem setDma_inst (s : State) (k : Nat) (x : DmaChan) : (setDma s k x).inst = s.inst := rfl
@[simp] theorem setDma_ddr (s : State) (k : Nat) (x : DmaChan) : (setDma s k x).ddr = s.ddr := rfl
@[simp] theorem setDma_safety (s : State) (k : Nat) (x : DmaChan) : (setDma s k x).safety = s.safety := rfl
@[simp] theorem setDma_power (s : State) (k : Nat) (x : DmaChan) : (setDma s k x).power = s.power := rfl
@[simp] theorem setDma_trace (s : State) (k : Nat) (x : DmaChan) : (setDma s k x).trace = s.trace := rfl
@[simp] theorem setDma_watches (s : State) (k : Nat) (x : DmaChan) : (setDma s k x).watches = s.watches := rfl
@[simp] theorem setDma_tap (s : State) (k : Nat) (x : DmaChan) : (setDma s k x).tap = s.tap := rfl
@[simp] theorem setDma_eccCnt (s : State) (k : Nat) (x : DmaChan) : (setDma s k x).eccCnt = s.eccCnt := rfl
@[simp] theorem setDma_eccWin (s : State) (k : Nat) (x : DmaChan) : (setDma s k x).eccWin = s.eccWin := rfl
@[simp] theorem setDma_freeCnt (s : State) (k : Nat) (x : DmaChan) : (setDma s k x).freeCnt = s.freeCnt := rfl

/-! ### setStream -/

@[simp] theorem setStream_pending (s : State) (k : Nat) (x : StreamSt) : (setStream s k x).pending = s.pending := rfl
@[simp] theorem setStream_time (s : State) (k : Nat) (x : StreamSt) : (setStream s k x).time = s.time := rfl
@[simp] theorem setStream_rst (s : State) (k : Nat) (x : StreamSt) : (setStream s k x).rst = s.rst := rfl
@[simp] theorem setStream_sdio (s : State) (k : Nat) (x : StreamSt) : (setStream s k x).sdio = s.sdio := rfl
@[simp] theorem setStream_boot (s : State) (k : Nat) (x : StreamSt) : (setStream s k x).boot = s.boot := rfl
@[simp] theorem setStream_mb (s : State) (k : Nat) (x : StreamSt) : (setStream s k x).mb = s.mb := rfl
@[simp] theorem setStream_ev (s : State) (k : Nat) (x : StreamSt) : (setStream s k x).ev = s.ev := rfl
@[simp] theorem setStream_bulk (s : State) (k : Nat) (x : StreamSt) : (setStream s k x).bulk = s.bulk := rfl
@[simp] theorem setStream_chans (s : State) (k : Nat) (x : StreamSt) : (setStream s k x).chans = s.chans := rfl
@[simp] theorem setStream_fw (s : State) (k : Nat) (x : StreamSt) : (setStream s k x).fw = s.fw := rfl
@[simp] theorem setStream_islands (s : State) (k : Nat) (x : StreamSt) : (setStream s k x).islands = s.islands := rfl
@[simp] theorem setStream_mem (s : State) (k : Nat) (x : StreamSt) : (setStream s k x).mem = s.mem := rfl
@[simp] theorem setStream_marks (s : State) (k : Nat) (x : StreamSt) : (setStream s k x).marks = s.marks := rfl
@[simp] theorem setStream_eccBad (s : State) (k : Nat) (x : StreamSt) : (setStream s k x).eccBad = s.eccBad := rfl
@[simp] theorem setStream_pipes (s : State) (k : Nat) (x : StreamSt) : (setStream s k x).pipes = s.pipes := rfl
@[simp] theorem setStream_ports (s : State) (k : Nat) (x : StreamSt) : (setStream s k x).ports = s.ports := rfl
@[simp] theorem setStream_trigs (s : State) (k : Nat) (x : StreamSt) : (setStream s k x).trigs = s.trigs := rfl
@[simp] theorem setStream_flags (s : State) (k : Nat) (x : StreamSt) : (setStream s k x).flags = s.flags := rfl
@[simp] theorem setStream_binds (s : State) (k : Nat) (x : StreamSt) : (setStream s k x).binds = s.binds := rfl
@[simp] theorem setStream_sems (s : State) (k : Nat) (x : StreamSt) : (setStream s k x).sems = s.sems := rfl
@[simp] theorem setStream_nodes (s : State) (k : Nat) (x : StreamSt) : (setStream s k x).nodes = s.nodes := rfl
@[simp] theorem setStream_links (s : State) (k : Nat) (x : StreamSt) : (setStream s k x).links = s.links := rfl
@[simp] theorem setStream_descs (s : State) (k : Nat) (x : StreamSt) : (setStream s k x).descs = s.descs := rfl
@[simp] theorem setStream_graphs (s : State) (k : Nat) (x : StreamSt) : (setStream s k x).graphs = s.graphs := rfl
@[simp] theorem setStream_engines (s : State) (k : Nat) (x : StreamSt) : (setStream s k x).engines = s.engines := rfl
@[simp] theorem setStream_obxCarry (s : State) (k : Nat) (x : StreamSt) : (setStream s k x).obxCarry = s.obxCarry := rfl
@[simp] theorem setStream_objNext (s : State) (k : Nat) (x : StreamSt) : (setStream s k x).objNext = s.objNext := rfl
@[simp] theorem setStream_objDropped (s : State) (k : Nat) (x : StreamSt) : (setStream s k x).objDropped = s.objDropped := rfl
@[simp] theorem setStream_ringBusy (s : State) (k : Nat) (x : StreamSt) : (setStream s k x).ringBusy = s.ringBusy := rfl
@[simp] theorem setStream_cores (s : State) (k : Nat) (x : StreamSt) : (setStream s k x).cores = s.cores := rfl
@[simp] theorem setStream_pool (s : State) (k : Nat) (x : StreamSt) : (setStream s k x).pool = s.pool := rfl
@[simp] theorem setStream_eports (s : State) (k : Nat) (x : StreamSt) : (setStream s k x).eports = s.eports := rfl
@[simp] theorem setStream_dma (s : State) (k : Nat) (x : StreamSt) : (setStream s k x).dma = s.dma := rfl
@[simp] theorem setStream_streams (s : State) (k : Nat) (x : StreamSt) : (setStream s k x).streams = tabSet k x s.streams := rfl
@[simp] theorem setStream_wcache (s : State) (k : Nat) (x : StreamSt) : (setStream s k x).wcache = s.wcache := rfl
@[simp] theorem setStream_lports (s : State) (k : Nat) (x : StreamSt) : (setStream s k x).lports = s.lports := rfl
@[simp] theorem setStream_inst (s : State) (k : Nat) (x : StreamSt) : (setStream s k x).inst = s.inst := rfl
@[simp] theorem setStream_ddr (s : State) (k : Nat) (x : StreamSt) : (setStream s k x).ddr = s.ddr := rfl
@[simp] theorem setStream_safety (s : State) (k : Nat) (x : StreamSt) : (setStream s k x).safety = s.safety := rfl
@[simp] theorem setStream_power (s : State) (k : Nat) (x : StreamSt) : (setStream s k x).power = s.power := rfl
@[simp] theorem setStream_trace (s : State) (k : Nat) (x : StreamSt) : (setStream s k x).trace = s.trace := rfl
@[simp] theorem setStream_watches (s : State) (k : Nat) (x : StreamSt) : (setStream s k x).watches = s.watches := rfl
@[simp] theorem setStream_tap (s : State) (k : Nat) (x : StreamSt) : (setStream s k x).tap = s.tap := rfl
@[simp] theorem setStream_eccCnt (s : State) (k : Nat) (x : StreamSt) : (setStream s k x).eccCnt = s.eccCnt := rfl
@[simp] theorem setStream_eccWin (s : State) (k : Nat) (x : StreamSt) : (setStream s k x).eccWin = s.eccWin := rfl
@[simp] theorem setStream_freeCnt (s : State) (k : Nat) (x : StreamSt) : (setStream s k x).freeCnt = s.freeCnt := rfl

/-! ### setFlow -/

@[simp] theorem setFlow_pending (s : State) (k : Nat) (x : Flow) : (setFlow s k x).pending = s.pending := rfl
@[simp] theorem setFlow_time (s : State) (k : Nat) (x : Flow) : (setFlow s k x).time = s.time := rfl
@[simp] theorem setFlow_rst (s : State) (k : Nat) (x : Flow) : (setFlow s k x).rst = s.rst := rfl
@[simp] theorem setFlow_sdio (s : State) (k : Nat) (x : Flow) : (setFlow s k x).sdio = s.sdio := rfl
@[simp] theorem setFlow_boot (s : State) (k : Nat) (x : Flow) : (setFlow s k x).boot = s.boot := rfl
@[simp] theorem setFlow_mb (s : State) (k : Nat) (x : Flow) : (setFlow s k x).mb = s.mb := rfl
@[simp] theorem setFlow_ev (s : State) (k : Nat) (x : Flow) : (setFlow s k x).ev = s.ev := rfl
@[simp] theorem setFlow_bulk (s : State) (k : Nat) (x : Flow) : (setFlow s k x).bulk = s.bulk := rfl
@[simp] theorem setFlow_chans (s : State) (k : Nat) (x : Flow) : (setFlow s k x).chans = s.chans := rfl
@[simp] theorem setFlow_fw (s : State) (k : Nat) (x : Flow) : (setFlow s k x).fw = s.fw := rfl
@[simp] theorem setFlow_islands (s : State) (k : Nat) (x : Flow) : (setFlow s k x).islands = s.islands := rfl
@[simp] theorem setFlow_mem (s : State) (k : Nat) (x : Flow) : (setFlow s k x).mem = s.mem := rfl
@[simp] theorem setFlow_marks (s : State) (k : Nat) (x : Flow) : (setFlow s k x).marks = s.marks := rfl
@[simp] theorem setFlow_eccBad (s : State) (k : Nat) (x : Flow) : (setFlow s k x).eccBad = s.eccBad := rfl
@[simp] theorem setFlow_pipes (s : State) (k : Nat) (x : Flow) : (setFlow s k x).pipes = s.pipes := rfl
@[simp] theorem setFlow_ports (s : State) (k : Nat) (x : Flow) : (setFlow s k x).ports = s.ports := rfl
@[simp] theorem setFlow_trigs (s : State) (k : Nat) (x : Flow) : (setFlow s k x).trigs = s.trigs := rfl
@[simp] theorem setFlow_flags (s : State) (k : Nat) (x : Flow) : (setFlow s k x).flags = s.flags := rfl
@[simp] theorem setFlow_binds (s : State) (k : Nat) (x : Flow) : (setFlow s k x).binds = s.binds := rfl
@[simp] theorem setFlow_sems (s : State) (k : Nat) (x : Flow) : (setFlow s k x).sems = s.sems := rfl
@[simp] theorem setFlow_nodes (s : State) (k : Nat) (x : Flow) : (setFlow s k x).nodes = s.nodes := rfl
@[simp] theorem setFlow_links (s : State) (k : Nat) (x : Flow) : (setFlow s k x).links = s.links := rfl
@[simp] theorem setFlow_descs (s : State) (k : Nat) (x : Flow) : (setFlow s k x).descs = s.descs := rfl
@[simp] theorem setFlow_graphs (s : State) (k : Nat) (x : Flow) : (setFlow s k x).graphs = s.graphs := rfl
@[simp] theorem setFlow_engines (s : State) (k : Nat) (x : Flow) : (setFlow s k x).engines = s.engines := rfl
@[simp] theorem setFlow_obxCarry (s : State) (k : Nat) (x : Flow) : (setFlow s k x).obxCarry = s.obxCarry := rfl
@[simp] theorem setFlow_objNext (s : State) (k : Nat) (x : Flow) : (setFlow s k x).objNext = s.objNext := rfl
@[simp] theorem setFlow_objDropped (s : State) (k : Nat) (x : Flow) : (setFlow s k x).objDropped = s.objDropped := rfl
@[simp] theorem setFlow_ringBusy (s : State) (k : Nat) (x : Flow) : (setFlow s k x).ringBusy = s.ringBusy := rfl
@[simp] theorem setFlow_cores (s : State) (k : Nat) (x : Flow) : (setFlow s k x).cores = s.cores := rfl
@[simp] theorem setFlow_pool (s : State) (k : Nat) (x : Flow) : (setFlow s k x).pool = { s.pool with flows := tabSet k x s.pool.flows } := rfl
@[simp] theorem setFlow_eports (s : State) (k : Nat) (x : Flow) : (setFlow s k x).eports = s.eports := rfl
@[simp] theorem setFlow_dma (s : State) (k : Nat) (x : Flow) : (setFlow s k x).dma = s.dma := rfl
@[simp] theorem setFlow_streams (s : State) (k : Nat) (x : Flow) : (setFlow s k x).streams = s.streams := rfl
@[simp] theorem setFlow_wcache (s : State) (k : Nat) (x : Flow) : (setFlow s k x).wcache = s.wcache := rfl
@[simp] theorem setFlow_lports (s : State) (k : Nat) (x : Flow) : (setFlow s k x).lports = s.lports := rfl
@[simp] theorem setFlow_inst (s : State) (k : Nat) (x : Flow) : (setFlow s k x).inst = s.inst := rfl
@[simp] theorem setFlow_ddr (s : State) (k : Nat) (x : Flow) : (setFlow s k x).ddr = s.ddr := rfl
@[simp] theorem setFlow_safety (s : State) (k : Nat) (x : Flow) : (setFlow s k x).safety = s.safety := rfl
@[simp] theorem setFlow_power (s : State) (k : Nat) (x : Flow) : (setFlow s k x).power = s.power := rfl
@[simp] theorem setFlow_trace (s : State) (k : Nat) (x : Flow) : (setFlow s k x).trace = s.trace := rfl
@[simp] theorem setFlow_watches (s : State) (k : Nat) (x : Flow) : (setFlow s k x).watches = s.watches := rfl
@[simp] theorem setFlow_tap (s : State) (k : Nat) (x : Flow) : (setFlow s k x).tap = s.tap := rfl
@[simp] theorem setFlow_eccCnt (s : State) (k : Nat) (x : Flow) : (setFlow s k x).eccCnt = s.eccCnt := rfl
@[simp] theorem setFlow_eccWin (s : State) (k : Nat) (x : Flow) : (setFlow s k x).eccWin = s.eccWin := rfl
@[simp] theorem setFlow_freeCnt (s : State) (k : Nat) (x : Flow) : (setFlow s k x).freeCnt = s.freeCnt := rfl

/-! ### setFw -/

@[simp] theorem setFw_pending (s : State) (k n : Nat) (x : FwRegion) : (setFw s k n x).pending = s.pending := rfl
@[simp] theorem setFw_time (s : State) (k n : Nat) (x : FwRegion) : (setFw s k n x).time = s.time := rfl
@[simp] theorem setFw_rst (s : State) (k n : Nat) (x : FwRegion) : (setFw s k n x).rst = s.rst := rfl
@[simp] theorem setFw_sdio (s : State) (k n : Nat) (x : FwRegion) : (setFw s k n x).sdio = s.sdio := rfl
@[simp] theorem setFw_boot (s : State) (k n : Nat) (x : FwRegion) : (setFw s k n x).boot = s.boot := rfl
@[simp] theorem setFw_mb (s : State) (k n : Nat) (x : FwRegion) : (setFw s k n x).mb = s.mb := rfl
@[simp] theorem setFw_ev (s : State) (k n : Nat) (x : FwRegion) : (setFw s k n x).ev = s.ev := rfl
@[simp] theorem setFw_bulk (s : State) (k n : Nat) (x : FwRegion) : (setFw s k n x).bulk = s.bulk := rfl
@[simp] theorem setFw_chans (s : State) (k n : Nat) (x : FwRegion) : (setFw s k n x).chans = s.chans := rfl
@[simp] theorem setFw_fw (s : State) (k n : Nat) (x : FwRegion) : (setFw s k n x).fw = tabSet (k * 64 + n) x s.fw := rfl
@[simp] theorem setFw_islands (s : State) (k n : Nat) (x : FwRegion) : (setFw s k n x).islands = s.islands := rfl
@[simp] theorem setFw_mem (s : State) (k n : Nat) (x : FwRegion) : (setFw s k n x).mem = s.mem := rfl
@[simp] theorem setFw_marks (s : State) (k n : Nat) (x : FwRegion) : (setFw s k n x).marks = s.marks := rfl
@[simp] theorem setFw_eccBad (s : State) (k n : Nat) (x : FwRegion) : (setFw s k n x).eccBad = s.eccBad := rfl
@[simp] theorem setFw_pipes (s : State) (k n : Nat) (x : FwRegion) : (setFw s k n x).pipes = s.pipes := rfl
@[simp] theorem setFw_ports (s : State) (k n : Nat) (x : FwRegion) : (setFw s k n x).ports = s.ports := rfl
@[simp] theorem setFw_trigs (s : State) (k n : Nat) (x : FwRegion) : (setFw s k n x).trigs = s.trigs := rfl
@[simp] theorem setFw_flags (s : State) (k n : Nat) (x : FwRegion) : (setFw s k n x).flags = s.flags := rfl
@[simp] theorem setFw_binds (s : State) (k n : Nat) (x : FwRegion) : (setFw s k n x).binds = s.binds := rfl
@[simp] theorem setFw_sems (s : State) (k n : Nat) (x : FwRegion) : (setFw s k n x).sems = s.sems := rfl
@[simp] theorem setFw_nodes (s : State) (k n : Nat) (x : FwRegion) : (setFw s k n x).nodes = s.nodes := rfl
@[simp] theorem setFw_links (s : State) (k n : Nat) (x : FwRegion) : (setFw s k n x).links = s.links := rfl
@[simp] theorem setFw_descs (s : State) (k n : Nat) (x : FwRegion) : (setFw s k n x).descs = s.descs := rfl
@[simp] theorem setFw_graphs (s : State) (k n : Nat) (x : FwRegion) : (setFw s k n x).graphs = s.graphs := rfl
@[simp] theorem setFw_engines (s : State) (k n : Nat) (x : FwRegion) : (setFw s k n x).engines = s.engines := rfl
@[simp] theorem setFw_obxCarry (s : State) (k n : Nat) (x : FwRegion) : (setFw s k n x).obxCarry = s.obxCarry := rfl
@[simp] theorem setFw_objNext (s : State) (k n : Nat) (x : FwRegion) : (setFw s k n x).objNext = s.objNext := rfl
@[simp] theorem setFw_objDropped (s : State) (k n : Nat) (x : FwRegion) : (setFw s k n x).objDropped = s.objDropped := rfl
@[simp] theorem setFw_ringBusy (s : State) (k n : Nat) (x : FwRegion) : (setFw s k n x).ringBusy = s.ringBusy := rfl
@[simp] theorem setFw_cores (s : State) (k n : Nat) (x : FwRegion) : (setFw s k n x).cores = s.cores := rfl
@[simp] theorem setFw_pool (s : State) (k n : Nat) (x : FwRegion) : (setFw s k n x).pool = s.pool := rfl
@[simp] theorem setFw_eports (s : State) (k n : Nat) (x : FwRegion) : (setFw s k n x).eports = s.eports := rfl
@[simp] theorem setFw_dma (s : State) (k n : Nat) (x : FwRegion) : (setFw s k n x).dma = s.dma := rfl
@[simp] theorem setFw_streams (s : State) (k n : Nat) (x : FwRegion) : (setFw s k n x).streams = s.streams := rfl
@[simp] theorem setFw_wcache (s : State) (k n : Nat) (x : FwRegion) : (setFw s k n x).wcache = s.wcache := rfl
@[simp] theorem setFw_lports (s : State) (k n : Nat) (x : FwRegion) : (setFw s k n x).lports = s.lports := rfl
@[simp] theorem setFw_inst (s : State) (k n : Nat) (x : FwRegion) : (setFw s k n x).inst = s.inst := rfl
@[simp] theorem setFw_ddr (s : State) (k n : Nat) (x : FwRegion) : (setFw s k n x).ddr = s.ddr := rfl
@[simp] theorem setFw_safety (s : State) (k n : Nat) (x : FwRegion) : (setFw s k n x).safety = s.safety := rfl
@[simp] theorem setFw_power (s : State) (k n : Nat) (x : FwRegion) : (setFw s k n x).power = s.power := rfl
@[simp] theorem setFw_trace (s : State) (k n : Nat) (x : FwRegion) : (setFw s k n x).trace = s.trace := rfl
@[simp] theorem setFw_watches (s : State) (k n : Nat) (x : FwRegion) : (setFw s k n x).watches = s.watches := rfl
@[simp] theorem setFw_tap (s : State) (k n : Nat) (x : FwRegion) : (setFw s k n x).tap = s.tap := rfl
@[simp] theorem setFw_eccCnt (s : State) (k n : Nat) (x : FwRegion) : (setFw s k n x).eccCnt = s.eccCnt := rfl
@[simp] theorem setFw_eccWin (s : State) (k n : Nat) (x : FwRegion) : (setFw s k n x).eccWin = s.eccWin := rfl
@[simp] theorem setFw_freeCnt (s : State) (k n : Nat) (x : FwRegion) : (setFw s k n x).freeCnt = s.freeCnt := rfl

/-! ### updateDoubt -/

@[simp] theorem updateDoubt_pending (s : State) : (updateDoubt s).pending = s.pending := rfl
@[simp] theorem updateDoubt_time (s : State) : (updateDoubt s).time = s.time := rfl
@[simp] theorem updateDoubt_rst (s : State) : (updateDoubt s).rst = s.rst := rfl
@[simp] theorem updateDoubt_sdio (s : State) : (updateDoubt s).sdio = s.sdio := rfl
@[simp] theorem updateDoubt_boot (s : State) : (updateDoubt s).boot = s.boot := rfl
@[simp] theorem updateDoubt_mb (s : State) : (updateDoubt s).mb = s.mb := rfl
@[simp] theorem updateDoubt_ev (s : State) : (updateDoubt s).ev = s.ev := rfl
@[simp] theorem updateDoubt_bulk (s : State) : (updateDoubt s).bulk = s.bulk := rfl
@[simp] theorem updateDoubt_chans (s : State) : (updateDoubt s).chans = s.chans := rfl
@[simp] theorem updateDoubt_fw (s : State) : (updateDoubt s).fw = s.fw := rfl
@[simp] theorem updateDoubt_islands (s : State) : (updateDoubt s).islands = s.islands := rfl
@[simp] theorem updateDoubt_mem (s : State) : (updateDoubt s).mem = s.mem := rfl
@[simp] theorem updateDoubt_marks (s : State) : (updateDoubt s).marks = s.marks := rfl
@[simp] theorem updateDoubt_eccBad (s : State) : (updateDoubt s).eccBad = s.eccBad := rfl
@[simp] theorem updateDoubt_pipes (s : State) : (updateDoubt s).pipes = s.pipes := rfl
@[simp] theorem updateDoubt_ports (s : State) : (updateDoubt s).ports = s.ports := rfl
@[simp] theorem updateDoubt_trigs (s : State) : (updateDoubt s).trigs = s.trigs := rfl
@[simp] theorem updateDoubt_flags (s : State) : (updateDoubt s).flags = s.flags := rfl
@[simp] theorem updateDoubt_binds (s : State) : (updateDoubt s).binds = s.binds := rfl
@[simp] theorem updateDoubt_sems (s : State) : (updateDoubt s).sems = s.sems := rfl
@[simp] theorem updateDoubt_nodes (s : State) : (updateDoubt s).nodes = s.nodes := rfl
@[simp] theorem updateDoubt_links (s : State) : (updateDoubt s).links = s.links := rfl
@[simp] theorem updateDoubt_descs (s : State) : (updateDoubt s).descs = s.descs := rfl
@[simp] theorem updateDoubt_graphs (s : State) : (updateDoubt s).graphs = s.graphs := rfl
@[simp] theorem updateDoubt_engines (s : State) : (updateDoubt s).engines = s.engines := rfl
@[simp] theorem updateDoubt_obxCarry (s : State) : (updateDoubt s).obxCarry = s.obxCarry := rfl
@[simp] theorem updateDoubt_objNext (s : State) : (updateDoubt s).objNext = s.objNext := rfl
@[simp] theorem updateDoubt_objDropped (s : State) : (updateDoubt s).objDropped = s.objDropped := rfl
@[simp] theorem updateDoubt_ringBusy (s : State) : (updateDoubt s).ringBusy = s.ringBusy := rfl
@[simp] theorem updateDoubt_cores (s : State) : (updateDoubt s).cores = s.cores := rfl
@[simp] theorem updateDoubt_pool (s : State) : (updateDoubt s).pool = s.pool := rfl
@[simp] theorem updateDoubt_eports (s : State) : (updateDoubt s).eports = s.eports := rfl
@[simp] theorem updateDoubt_dma (s : State) : (updateDoubt s).dma = s.dma := rfl
@[simp] theorem updateDoubt_streams (s : State) : (updateDoubt s).streams = s.streams := rfl
@[simp] theorem updateDoubt_wcache (s : State) : (updateDoubt s).wcache = s.wcache := rfl
@[simp] theorem updateDoubt_lports (s : State) : (updateDoubt s).lports = s.lports := rfl
@[simp] theorem updateDoubt_inst (s : State) : (updateDoubt s).inst = s.inst := rfl
@[simp] theorem updateDoubt_ddr (s : State) : (updateDoubt s).ddr = s.ddr := rfl
@[simp] theorem updateDoubt_safety (s : State) : (updateDoubt s).safety = { s.safety with doubtLow := doubtPin s } := rfl
@[simp] theorem updateDoubt_power (s : State) : (updateDoubt s).power = s.power := rfl
@[simp] theorem updateDoubt_trace (s : State) : (updateDoubt s).trace = s.trace := rfl
@[simp] theorem updateDoubt_watches (s : State) : (updateDoubt s).watches = s.watches := rfl
@[simp] theorem updateDoubt_tap (s : State) : (updateDoubt s).tap = s.tap := rfl
@[simp] theorem updateDoubt_eccCnt (s : State) : (updateDoubt s).eccCnt = s.eccCnt := rfl
@[simp] theorem updateDoubt_eccWin (s : State) : (updateDoubt s).eccWin = s.eccWin := rfl
@[simp] theorem updateDoubt_freeCnt (s : State) : (updateDoubt s).freeCnt = s.freeCnt := rfl

/-! ### advanceTo -/

@[simp] theorem advanceTo_pending (s : State) (t : Nat) : (advanceTo s t).pending = s.pending := rfl
@[simp] theorem advanceTo_time (s : State) (t : Nat) : (advanceTo s t).time = max s.time t := rfl
@[simp] theorem advanceTo_rst (s : State) (t : Nat) : (advanceTo s t).rst = s.rst := rfl
@[simp] theorem advanceTo_sdio (s : State) (t : Nat) : (advanceTo s t).sdio = s.sdio := rfl
@[simp] theorem advanceTo_boot (s : State) (t : Nat) : (advanceTo s t).boot = s.boot := rfl
@[simp] theorem advanceTo_mb (s : State) (t : Nat) : (advanceTo s t).mb = s.mb := rfl
@[simp] theorem advanceTo_ev (s : State) (t : Nat) : (advanceTo s t).ev = s.ev := rfl
@[simp] theorem advanceTo_bulk (s : State) (t : Nat) : (advanceTo s t).bulk = s.bulk := rfl
@[simp] theorem advanceTo_chans (s : State) (t : Nat) : (advanceTo s t).chans = s.chans := rfl
@[simp] theorem advanceTo_fw (s : State) (t : Nat) : (advanceTo s t).fw = s.fw := rfl
@[simp] theorem advanceTo_islands (s : State) (t : Nat) : (advanceTo s t).islands = s.islands := rfl
@[simp] theorem advanceTo_mem (s : State) (t : Nat) : (advanceTo s t).mem = s.mem := rfl
@[simp] theorem advanceTo_marks (s : State) (t : Nat) : (advanceTo s t).marks = s.marks := rfl
@[simp] theorem advanceTo_eccBad (s : State) (t : Nat) : (advanceTo s t).eccBad = s.eccBad := rfl
@[simp] theorem advanceTo_pipes (s : State) (t : Nat) : (advanceTo s t).pipes = s.pipes := rfl
@[simp] theorem advanceTo_ports (s : State) (t : Nat) : (advanceTo s t).ports = s.ports := rfl
@[simp] theorem advanceTo_trigs (s : State) (t : Nat) : (advanceTo s t).trigs = s.trigs := rfl
@[simp] theorem advanceTo_flags (s : State) (t : Nat) : (advanceTo s t).flags = s.flags := rfl
@[simp] theorem advanceTo_binds (s : State) (t : Nat) : (advanceTo s t).binds = s.binds := rfl
@[simp] theorem advanceTo_sems (s : State) (t : Nat) : (advanceTo s t).sems = s.sems := rfl
@[simp] theorem advanceTo_nodes (s : State) (t : Nat) : (advanceTo s t).nodes = s.nodes := rfl
@[simp] theorem advanceTo_links (s : State) (t : Nat) : (advanceTo s t).links = s.links := rfl
@[simp] theorem advanceTo_descs (s : State) (t : Nat) : (advanceTo s t).descs = s.descs := rfl
@[simp] theorem advanceTo_graphs (s : State) (t : Nat) : (advanceTo s t).graphs = s.graphs := rfl
@[simp] theorem advanceTo_engines (s : State) (t : Nat) : (advanceTo s t).engines = s.engines := rfl
@[simp] theorem advanceTo_obxCarry (s : State) (t : Nat) : (advanceTo s t).obxCarry = s.obxCarry := rfl
@[simp] theorem advanceTo_objNext (s : State) (t : Nat) : (advanceTo s t).objNext = s.objNext := rfl
@[simp] theorem advanceTo_objDropped (s : State) (t : Nat) : (advanceTo s t).objDropped = s.objDropped := rfl
@[simp] theorem advanceTo_ringBusy (s : State) (t : Nat) : (advanceTo s t).ringBusy = s.ringBusy := rfl
@[simp] theorem advanceTo_cores (s : State) (t : Nat) : (advanceTo s t).cores = s.cores := rfl
@[simp] theorem advanceTo_pool (s : State) (t : Nat) : (advanceTo s t).pool = s.pool := rfl
@[simp] theorem advanceTo_eports (s : State) (t : Nat) : (advanceTo s t).eports = s.eports := rfl
@[simp] theorem advanceTo_dma (s : State) (t : Nat) : (advanceTo s t).dma = s.dma := rfl
@[simp] theorem advanceTo_streams (s : State) (t : Nat) : (advanceTo s t).streams = s.streams := rfl
@[simp] theorem advanceTo_wcache (s : State) (t : Nat) : (advanceTo s t).wcache = s.wcache := rfl
@[simp] theorem advanceTo_lports (s : State) (t : Nat) : (advanceTo s t).lports = s.lports := rfl
@[simp] theorem advanceTo_inst (s : State) (t : Nat) : (advanceTo s t).inst = s.inst := rfl
@[simp] theorem advanceTo_ddr (s : State) (t : Nat) : (advanceTo s t).ddr = s.ddr := rfl
@[simp] theorem advanceTo_safety (s : State) (t : Nat) : (advanceTo s t).safety = s.safety := rfl
@[simp] theorem advanceTo_power (s : State) (t : Nat) : (advanceTo s t).power = s.power := rfl
@[simp] theorem advanceTo_trace (s : State) (t : Nat) : (advanceTo s t).trace = s.trace := rfl
@[simp] theorem advanceTo_watches (s : State) (t : Nat) : (advanceTo s t).watches = s.watches := rfl
@[simp] theorem advanceTo_tap (s : State) (t : Nat) : (advanceTo s t).tap = s.tap := rfl
@[simp] theorem advanceTo_eccCnt (s : State) (t : Nat) : (advanceTo s t).eccCnt = s.eccCnt := rfl
@[simp] theorem advanceTo_eccWin (s : State) (t : Nat) : (advanceTo s t).eccWin = s.eccWin := rfl
@[simp] theorem advanceTo_freeCnt (s : State) (t : Nat) : (advanceTo s t).freeCnt = s.freeCnt := rfl

/-! ### bump -/

@[simp] theorem bump_pending (s : State) (c u i n : Nat) : (bump s c u i n).pending = s.pending := rfl
@[simp] theorem bump_time (s : State) (c u i n : Nat) : (bump s c u i n).time = s.time := rfl
@[simp] theorem bump_rst (s : State) (c u i n : Nat) : (bump s c u i n).rst = s.rst := rfl
@[simp] theorem bump_sdio (s : State) (c u i n : Nat) : (bump s c u i n).sdio = s.sdio := rfl
@[simp] theorem bump_boot (s : State) (c u i n : Nat) : (bump s c u i n).boot = s.boot := rfl
@[simp] theorem bump_mb (s : State) (c u i n : Nat) : (bump s c u i n).mb = s.mb := rfl
@[simp] theorem bump_ev (s : State) (c u i n : Nat) : (bump s c u i n).ev = s.ev := rfl
@[simp] theorem bump_bulk (s : State) (c u i n : Nat) : (bump s c u i n).bulk = s.bulk := rfl
@[simp] theorem bump_chans (s : State) (c u i n : Nat) : (bump s c u i n).chans = s.chans := rfl
@[simp] theorem bump_fw (s : State) (c u i n : Nat) : (bump s c u i n).fw = s.fw := rfl
@[simp] theorem bump_islands (s : State) (c u i n : Nat) : (bump s c u i n).islands = s.islands := rfl
@[simp] theorem bump_mem (s : State) (c u i n : Nat) : (bump s c u i n).mem = s.mem := rfl
@[simp] theorem bump_marks (s : State) (c u i n : Nat) : (bump s c u i n).marks = s.marks := rfl
@[simp] theorem bump_eccBad (s : State) (c u i n : Nat) : (bump s c u i n).eccBad = s.eccBad := rfl
@[simp] theorem bump_pipes (s : State) (c u i n : Nat) : (bump s c u i n).pipes = s.pipes := rfl
@[simp] theorem bump_ports (s : State) (c u i n : Nat) : (bump s c u i n).ports = s.ports := rfl
@[simp] theorem bump_trigs (s : State) (c u i n : Nat) : (bump s c u i n).trigs = s.trigs := rfl
@[simp] theorem bump_flags (s : State) (c u i n : Nat) : (bump s c u i n).flags = s.flags := rfl
@[simp] theorem bump_binds (s : State) (c u i n : Nat) : (bump s c u i n).binds = s.binds := rfl
@[simp] theorem bump_sems (s : State) (c u i n : Nat) : (bump s c u i n).sems = s.sems := rfl
@[simp] theorem bump_nodes (s : State) (c u i n : Nat) : (bump s c u i n).nodes = s.nodes := rfl
@[simp] theorem bump_links (s : State) (c u i n : Nat) : (bump s c u i n).links = s.links := rfl
@[simp] theorem bump_descs (s : State) (c u i n : Nat) : (bump s c u i n).descs = s.descs := rfl
@[simp] theorem bump_graphs (s : State) (c u i n : Nat) : (bump s c u i n).graphs = s.graphs := rfl
@[simp] theorem bump_engines (s : State) (c u i n : Nat) : (bump s c u i n).engines = s.engines := rfl
@[simp] theorem bump_obxCarry (s : State) (c u i n : Nat) : (bump s c u i n).obxCarry = s.obxCarry := rfl
@[simp] theorem bump_objNext (s : State) (c u i n : Nat) : (bump s c u i n).objNext = s.objNext := rfl
@[simp] theorem bump_objDropped (s : State) (c u i n : Nat) : (bump s c u i n).objDropped = s.objDropped := rfl
@[simp] theorem bump_ringBusy (s : State) (c u i n : Nat) : (bump s c u i n).ringBusy = s.ringBusy := rfl
@[simp] theorem bump_cores (s : State) (c u i n : Nat) : (bump s c u i n).cores = s.cores := rfl
@[simp] theorem bump_pool (s : State) (c u i n : Nat) : (bump s c u i n).pool = s.pool := rfl
@[simp] theorem bump_eports (s : State) (c u i n : Nat) : (bump s c u i n).eports = s.eports := rfl
@[simp] theorem bump_dma (s : State) (c u i n : Nat) : (bump s c u i n).dma = s.dma := rfl
@[simp] theorem bump_streams (s : State) (c u i n : Nat) : (bump s c u i n).streams = s.streams := rfl
@[simp] theorem bump_wcache (s : State) (c u i n : Nat) : (bump s c u i n).wcache = s.wcache := rfl
@[simp] theorem bump_lports (s : State) (c u i n : Nat) : (bump s c u i n).lports = s.lports := rfl
@[simp] theorem bump_inst (s : State) (c u i n : Nat) : (bump s c u i n).inst = s.inst := rfl
@[simp] theorem bump_ddr (s : State) (c u i n : Nat) : (bump s c u i n).ddr = s.ddr := rfl
@[simp] theorem bump_safety (s : State) (c u i n : Nat) : (bump s c u i n).safety = s.safety := rfl
@[simp] theorem bump_power (s : State) (c u i n : Nat) : (bump s c u i n).power = s.power := rfl
@[simp] theorem bump_watches (s : State) (c u i n : Nat) : (bump s c u i n).watches = s.watches := rfl
@[simp] theorem bump_tap (s : State) (c u i n : Nat) : (bump s c u i n).tap = s.tap := rfl
@[simp] theorem bump_eccCnt (s : State) (c u i n : Nat) : (bump s c u i n).eccCnt = s.eccCnt := rfl
@[simp] theorem bump_eccWin (s : State) (c u i n : Nat) : (bump s c u i n).eccWin = s.eccWin := rfl
@[simp] theorem bump_freeCnt (s : State) (c u i n : Nat) : (bump s c u i n).freeCnt = s.freeCnt := rfl

/-! ### putBytes -/

@[simp] theorem putBytes_pending (s : State) (a : Nat) (bs : List Byte) (p : Bool) : (putBytes s a bs p).pending = s.pending := rfl
@[simp] theorem putBytes_time (s : State) (a : Nat) (bs : List Byte) (p : Bool) : (putBytes s a bs p).time = s.time := rfl
@[simp] theorem putBytes_rst (s : State) (a : Nat) (bs : List Byte) (p : Bool) : (putBytes s a bs p).rst = s.rst := rfl
@[simp] theorem putBytes_sdio (s : State) (a : Nat) (bs : List Byte) (p : Bool) : (putBytes s a bs p).sdio = s.sdio := rfl
@[simp] theorem putBytes_boot (s : State) (a : Nat) (bs : List Byte) (p : Bool) : (putBytes s a bs p).boot = s.boot := rfl
@[simp] theorem putBytes_mb (s : State) (a : Nat) (bs : List Byte) (p : Bool) : (putBytes s a bs p).mb = s.mb := rfl
@[simp] theorem putBytes_ev (s : State) (a : Nat) (bs : List Byte) (p : Bool) : (putBytes s a bs p).ev = s.ev := rfl
@[simp] theorem putBytes_bulk (s : State) (a : Nat) (bs : List Byte) (p : Bool) : (putBytes s a bs p).bulk = s.bulk := rfl
@[simp] theorem putBytes_chans (s : State) (a : Nat) (bs : List Byte) (p : Bool) : (putBytes s a bs p).chans = s.chans := rfl
@[simp] theorem putBytes_fw (s : State) (a : Nat) (bs : List Byte) (p : Bool) : (putBytes s a bs p).fw = s.fw := rfl
@[simp] theorem putBytes_islands (s : State) (a : Nat) (bs : List Byte) (p : Bool) : (putBytes s a bs p).islands = s.islands := rfl
@[simp] theorem putBytes_mem (s : State) (a : Nat) (bs : List Byte) (p : Bool) : (putBytes s a bs p).mem = memWrite s.mem a bs := rfl
@[simp] theorem putBytes_marks (s : State) (a : Nat) (bs : List Byte) (p : Bool) : (putBytes s a bs p).marks = marksAfter s a bs.length p := rfl
@[simp] theorem putBytes_eccBad (s : State) (a : Nat) (bs : List Byte) (p : Bool) :
    (putBytes s a bs p).eccBad = s.eccBad.filter (fun x => x.place == .rule || ! wholeGran a bs.length (granOf x.addr)) := rfl
@[simp] theorem putBytes_pipes (s : State) (a : Nat) (bs : List Byte) (p : Bool) : (putBytes s a bs p).pipes = s.pipes := rfl
@[simp] theorem putBytes_ports (s : State) (a : Nat) (bs : List Byte) (p : Bool) : (putBytes s a bs p).ports = s.ports := rfl
@[simp] theorem putBytes_trigs (s : State) (a : Nat) (bs : List Byte) (p : Bool) : (putBytes s a bs p).trigs = s.trigs := rfl
@[simp] theorem putBytes_flags (s : State) (a : Nat) (bs : List Byte) (p : Bool) : (putBytes s a bs p).flags = s.flags := rfl
@[simp] theorem putBytes_binds (s : State) (a : Nat) (bs : List Byte) (p : Bool) : (putBytes s a bs p).binds = s.binds := rfl
@[simp] theorem putBytes_sems (s : State) (a : Nat) (bs : List Byte) (p : Bool) : (putBytes s a bs p).sems = s.sems := rfl
@[simp] theorem putBytes_nodes (s : State) (a : Nat) (bs : List Byte) (p : Bool) : (putBytes s a bs p).nodes = s.nodes := rfl
@[simp] theorem putBytes_links (s : State) (a : Nat) (bs : List Byte) (p : Bool) : (putBytes s a bs p).links = s.links := rfl
@[simp] theorem putBytes_descs (s : State) (a : Nat) (bs : List Byte) (p : Bool) : (putBytes s a bs p).descs = s.descs := rfl
@[simp] theorem putBytes_graphs (s : State) (a : Nat) (bs : List Byte) (p : Bool) : (putBytes s a bs p).graphs = s.graphs := rfl
@[simp] theorem putBytes_engines (s : State) (a : Nat) (bs : List Byte) (p : Bool) : (putBytes s a bs p).engines = s.engines := rfl
@[simp] theorem putBytes_obxCarry (s : State) (a : Nat) (bs : List Byte) (p : Bool) : (putBytes s a bs p).obxCarry = s.obxCarry := rfl
@[simp] theorem putBytes_objNext (s : State) (a : Nat) (bs : List Byte) (p : Bool) : (putBytes s a bs p).objNext = s.objNext := rfl
@[simp] theorem putBytes_objDropped (s : State) (a : Nat) (bs : List Byte) (p : Bool) : (putBytes s a bs p).objDropped = s.objDropped := rfl
@[simp] theorem putBytes_ringBusy (s : State) (a : Nat) (bs : List Byte) (p : Bool) : (putBytes s a bs p).ringBusy = s.ringBusy := rfl
@[simp] theorem putBytes_cores (s : State) (a : Nat) (bs : List Byte) (p : Bool) : (putBytes s a bs p).cores = s.cores := rfl
@[simp] theorem putBytes_pool (s : State) (a : Nat) (bs : List Byte) (p : Bool) : (putBytes s a bs p).pool = s.pool := rfl
@[simp] theorem putBytes_eports (s : State) (a : Nat) (bs : List Byte) (p : Bool) : (putBytes s a bs p).eports = s.eports := rfl
@[simp] theorem putBytes_dma (s : State) (a : Nat) (bs : List Byte) (p : Bool) : (putBytes s a bs p).dma = s.dma := rfl
@[simp] theorem putBytes_streams (s : State) (a : Nat) (bs : List Byte) (p : Bool) : (putBytes s a bs p).streams = s.streams := rfl
@[simp] theorem putBytes_wcache (s : State) (a : Nat) (bs : List Byte) (p : Bool) : (putBytes s a bs p).wcache = s.wcache := rfl
@[simp] theorem putBytes_lports (s : State) (a : Nat) (bs : List Byte) (p : Bool) : (putBytes s a bs p).lports = s.lports := rfl
@[simp] theorem putBytes_inst (s : State) (a : Nat) (bs : List Byte) (p : Bool) : (putBytes s a bs p).inst = s.inst := rfl
@[simp] theorem putBytes_ddr (s : State) (a : Nat) (bs : List Byte) (p : Bool) : (putBytes s a bs p).ddr = s.ddr := rfl
@[simp] theorem putBytes_safety (s : State) (a : Nat) (bs : List Byte) (p : Bool) : (putBytes s a bs p).safety = s.safety := rfl
@[simp] theorem putBytes_power (s : State) (a : Nat) (bs : List Byte) (p : Bool) : (putBytes s a bs p).power = s.power := rfl
@[simp] theorem putBytes_trace (s : State) (a : Nat) (bs : List Byte) (p : Bool) : (putBytes s a bs p).trace = s.trace := rfl
@[simp] theorem putBytes_watches (s : State) (a : Nat) (bs : List Byte) (p : Bool) : (putBytes s a bs p).watches = s.watches := rfl
@[simp] theorem putBytes_tap (s : State) (a : Nat) (bs : List Byte) (p : Bool) : (putBytes s a bs p).tap = s.tap := rfl
@[simp] theorem putBytes_eccCnt (s : State) (a : Nat) (bs : List Byte) (p : Bool) : (putBytes s a bs p).eccCnt = s.eccCnt := rfl
@[simp] theorem putBytes_eccWin (s : State) (a : Nat) (bs : List Byte) (p : Bool) : (putBytes s a bs p).eccWin = s.eccWin := rfl
@[simp] theorem putBytes_freeCnt (s : State) (a : Nat) (bs : List Byte) (p : Bool) : (putBytes s a bs p).freeCnt = s.freeCnt := rfl

end Sys2Proof.Machine
end

