-- ==== Sys2Proof/Laws/Ops.lean ====
section
/-! SUPPORT. What the shared operations can do, each said once: sending a packet, posting an event, opening a doubt
condition, reading and writing local addresses, and answering a command. -/

namespace Sys2Proof.Machine

open Sys2Proof

/-! ### Sending and posting -/

theorem EventsOnly.refl (s : State) : EventsOnly s s := rfl

theorem EventsOnly.trans {s t u : State} (h : EventsOnly s t) (k : EventsOnly t u) : EventsOnly s u := by
  unfold EventsOnly at h k ⊢
  rw [h] at k
  exact k

theorem EventsOnly.setLport (s : State) (p : Nat) (x : LinkPort) : EventsOnly s (setLport s p x) := rfl

theorem EventsOnly.ev (s : State) (e : EventUnit) : EventsOnly s { s with ev := e } := rfl

theorem EventsOnly.bump (s : State) (c u i n : Nat) : EventsOnly s (bump s c u i n) := rfl

theorem EventsOnly.emitTrace (s : State) (c u : Nat) (g : Bool) (k a : Nat) (e : List (Nat × Nat × Nat × Nat × Nat)) :
    EventsOnly s (emitTrace s c u g k a e) := by
  unfold Sys2Proof.Machine.emitTrace
  dsimp only
  split <;> split <;> rfl

theorem EventsOnly.freeFlits (s : State) (p vc n : Nat) : EventsOnly s (freeFlits s p vc n) := by
  unfold Sys2Proof.Machine.freeFlits
  split <;> rfl

theorem startAt_only (s : State) (p i : Nat) : EventsOnly s (startAt s p i) := by
  unfold startAt
  dsimp only
  split
  · exact .refl s
  · exact .setLport s p _

/-- A flit put on the link changes only the ports, the counters and the trace. -/
theorem sendFlit_only (s : State) (p : Nat) (o : OutPkt) (f : Nat × Nat × List Byte) (r : List (Nat × Nat × List Byte)) :
    EventsOnly s (sendFlit s p o f r) := by
  unfold sendFlit
  dsimp only
  refine EventsOnly.trans ?_ (.freeFlits _ _ _ _)
  split
  · exact ((EventsOnly.setLport s p _).trans (.bump _ _ _ _ _)).trans (.emitTrace _ _ _ _ _ _ _)
  · exact (EventsOnly.setLport s p _).trans (.bump _ _ _ _ _)

theorem pumpStep_only {s t : State} {p : Nat} (h : pumpStep s p = some t) : EventsOnly s t := by
  unfold pumpStep at h
  dsimp only at h
  split at h
  · split at h
    · cases h
    · split at h <;> cases h
      exact sendFlit_only s p _ _ _
  · simp only [Option.map_eq_some_iff] at h
    obtain ⟨i, -, rfl⟩ := h
    exact startAt_only s p i

theorem pumpPort_only (n : Nat) (s : State) (p : Nat) : EventsOnly s (pumpPort n s p) := by
  induction n generalizing s with
  | zero => exact .refl s
  | succ n ih =>
    unfold pumpPort
    split
    · exact .refl s
    · split
      · exact .refl s
      · exact (pumpStep_only ‹_›).trans (ih _)

/-- A packet without an answer changes only the ports, the trace, and what has arrived or been discarded. -/
theorem routePosted_only (s : State) (src : Nat) (x : Packet) : EventsOnly s (routePosted s src x) := by
  unfold routePosted
  dsimp only
  split
  · rfl
  · split
    · rfl
    · split
      · rfl
      · split
        · rfl
        · exact (EventsOnly.setLport s _ _).trans (pumpPort_only _ _ _)

theorem pushEvent_only (s : State) (e : EvRec) : EventsOnly s (pushEvent s e) := by
  unfold pushEvent
  split <;> rfl

theorem placeEvent_only (s : State) (e : EvRec) : EventsOnly s (placeEvent s e) := by
  unfold placeEvent
  split
  · exact pushEvent_only s e
  · split
    · exact pushEvent_only s e
    · split
      · rfl
      · split
        · exact routePosted_only _ _ _
        · refine EventsOnly.trans ?_ (routePosted_only _ _ _)
          exact (EventsOnly.ev s _).trans (routePosted_only _ _ _)

/-- An event changes only function 3, the trace, and what its record's way to a sink changes. -/
theorem postEvent_only (s : State) (code cls unit : Nat) (arg : List Byte) : EventsOnly s (postEvent s code cls unit arg) := by
  unfold postEvent
  refine EventsOnly.trans ?_ (placeEvent_only _ _)
  exact (EventsOnly.ev s _).trans (.emitTrace _ _ _ _ _ _ _)

/-! ### Doubt -/

theorem EventsOnly.doubt {s t : State} (h : EventsOnly s t) : DoubtOnly s t := by
  unfold EventsOnly at h
  unfold DoubtOnly
  have e : t.safety = s.safety := by rw [h]
  rw [e]
  exact h

theorem DoubtOnly.trans {s t u : State} (h : DoubtOnly s t) (k : DoubtOnly t u) : DoubtOnly s u := by
  unfold DoubtOnly at h k ⊢
  rw [h] at k
  exact k

theorem DoubtOnly.conds (s : State) (c : List Cond) :
    DoubtOnly s { s with safety := { s.safety with conds := c } } := rfl

theorem updateDoubt_only (s : State) : DoubtOnly s (updateDoubt s) := rfl

/-- A failing source changes the conditions, DOUBT_N and what its events change. -/
theorem failCond_only (s : State) (source kind scope : Nat) (level : Bool) :
    DoubtOnly s (failCond s source kind scope level) := by
  unfold failCond
  dsimp only
  refine DoubtOnly.trans ?_ (updateDoubt_only _)
  split
  · refine DoubtOnly.trans ?_ (postEvent_only _ _ _ _ _).doubt
    split
    · exact (DoubtOnly.conds s _).trans (postEvent_only _ _ _ _ _).doubt
    · rfl
  · split
    · exact (DoubtOnly.conds s _).trans (postEvent_only _ _ _ _ _).doubt
    · rfl

theorem raiseDoubt_only (s : State) (code cls unit : Nat) (arg : List Byte) (source kind scope : Nat) :
    DoubtOnly s (raiseDoubt s code cls unit arg source kind scope) :=
  (postEvent_only _ _ _ _ _).doubt.trans (failCond_only _ _ _ _ _)

theorem travelMismatch_only (s : State) (cls unit count port addr : Nat) :
    DoubtOnly s (travelMismatch s cls unit count port addr) := by
  unfold travelMismatch
  split
  · rfl
  · exact raiseDoubt_only _ _ _ _ _ _ _ _

/-! ### Local addresses -/

/-- An access that is not denied leaves the state as it is. -/
theorem access_ok {s : State} {dom a len : Nat} {wr : Bool} (h : accessStatus s dom wr a len ≠ .denied) :
    access s dom wr a len = (s, accessStatus s dom wr a len) := by
  simp only [access, h, if_false]

/-- A write that every check admits stores its bytes, after the reads of its merges. -/
theorem writeLocal_ok {s : State} {dom a : Nat} {bs : List Byte} (p : Bool) (h : accessStatus s dom true a bs.length = .ok) :
    writeLocal s dom a bs p = (putBytes (meetMerge a bs.length s) a bs p, .ok) := by
  have hd : accessStatus s dom true a bs.length ≠ .denied := by rw [h]; decide
  simp only [writeLocal, access_ok hd, h, if_true]

/-- A write that its target does not admit stores nothing: memory and marks stay. -/
theorem writeLocal_refused {s : State} {dom a : Nat} {bs : List Byte} (p : Bool)
    (h : accessStatus s dom true a bs.length ≠ .ok) :
    EventsOnly s (writeLocal s dom a bs p).1 ∧ (writeLocal s dom a bs p).2 = accessStatus s dom true a bs.length := by
  simp only [writeLocal, access, h, if_false, and_true]
  split
  · unfold denyEvent
    split
    · exact .refl s
    · exact postEvent_only _ _ _ _ _
  · exact .refl s

theorem postEvent_mem (s : State) (code cls unit : Nat) (arg : List Byte) : (postEvent s code cls unit arg).mem = s.mem := by
  have h := postEvent_only s code cls unit arg
  unfold EventsOnly at h
  rw [h]

theorem raiseDoubt_mem (s : State) (code cls unit : Nat) (arg : List Byte) (source kind scope : Nat) :
    (raiseDoubt s code cls unit arg source kind scope).mem = s.mem := by
  have h := raiseDoubt_only s code cls unit arg source kind scope
  unfold DoubtOnly at h
  rw [h]

theorem eccCorrected_mem (s : State) (cls unit key : Nat) (arg : List Byte) : (eccCorrected s cls unit key arg).mem = s.mem := by
  unfold eccCorrected
  dsimp only
  split
  · rfl
  · rw [postEvent_mem]

theorem eccUncorr_mem (s : State) (cls unit : Nat) (grans : List Nat) (arg : List Byte) :
    (eccUncorr s cls unit grans arg).mem = s.mem := by
  unfold eccUncorr
  rw [raiseDoubt_mem]

/-- An error that a read meets changes no byte of memory. -/
theorem eccFound_mem (s : State) (x : EccHit) : (eccFound s x).mem = s.mem := by
  unfold eccFound lineEcc ddrEcc fsEcc traceEcc tableEcc spmEcc
  dsimp only
  repeat' split
  all_goals first
    | rfl
    | (rw [eccCorrected_mem]; done)
    | (rw [eccCorrected_mem]; rfl)
    | (rw [eccUncorr_mem]; done)

theorem eccMeet_mem (s : State) (x : EccHit) : (eccMeet s x).mem = s.mem := by
  unfold eccMeet
  dsimp only
  split <;> exact eccFound_mem s x

theorem meet_mem (reads : Nat → Bool) (s : State) : (meet reads s).mem = s.mem := by
  unfold meet
  generalize s.eccBad = l
  induction l generalizing s with
  | nil => rfl
  | cons x l ih =>
    rw [List.foldl_cons, ih]
    split
    · exact eccMeet_mem s x
    · rfl

theorem countMerges_mem (gs : List Nat) (s : State) : (countMerges gs s).mem = s.mem := by
  unfold countMerges
  induction gs generalizing s with
  | nil => rfl
  | cons g gs ih =>
    rw [List.foldl_cons, ih]
    split
    · split <;> (try split) <;> rfl
    · rfl

@[simp] theorem meetMerge_mem (a len : Nat) (s : State) : (meetMerge a len s).mem = s.mem := by
  unfold meetMerge
  rw [countMerges_mem, meet_mem]

@[simp] theorem meetRange_mem (a len : Nat) (s : State) : (meetRange a len s).mem = s.mem := meet_mem _ s

/-- What a write of bytes leaves at every address. -/
theorem putBytes_byte (s : State) (a : Nat) (bs : List Byte) (p : Bool) (c : Nat) :
    memByte (putBytes s a bs p).mem c = if h : a ≤ c ∧ c - a < bs.length then bs[c - a] else memByte s.mem c :=
  memByte_memWrite s.mem a bs c

/-! ### Commands -/

/-- A record whose header passes is the command itself. -/
theorem runCommand_accepted {op : Nat} {h : CmdHdr} {s : State} (ha : Accepted op h s) (f : State → State × CmdRes) :
    runCommand h op f s = answerRow h op (f s) := by
  obtain ⟨hu, hf, hd⟩ := ha
  have h2 : h.flags / 2 = 0 := Nat.div_eq_of_lt (by omega)
  have hr : domainRefused op h = false := by
    unfold domainRefused
    rcases hd with hd | ⟨h1, h3⟩
    · simp only [bne, hd, beq_self_eq_true, Bool.not_true, Bool.false_and]
    · simp only [Bool.and_eq_false_imp, Bool.or_eq_false_iff, decide_eq_false_iff_not]
      intro _
      omega
  simp only [runCommand, hu, execChecked, h2, hr, if_true, Bool.not_true, Bool.false_eq_true, if_false]

/-- Before firmware is ready, and after it halts, a command row changes nothing. -/
theorem runCommand_down {op : Nat} {h : CmdHdr} {s : State} (hu : fwUp s = false) (f : State → State × CmdRes) :
    runCommand h op f s = s := by
  simp only [runCommand, hu, Bool.not_false, if_true]

theorem recordHist_only (s : State) (op : Nat) (h : CmdHdr) (rsp : List Byte) :
    recordHist s op h rsp = { s with mb := { s.mb with history := (recordHist s op h rsp).mb.history } } := rfl

/-- What a finished row leaves: its response at the end of the order, and its entry in the history. -/
theorem answerRow_done (h : CmdHdr) (op : Nat) (s : State) (st : Status) (payload : List Byte) :
    let rsp := respBytes op h st payload
    let t := answerRow h op (s, .done st payload)
    t.mb = { s.mb with order := s.mb.order ++ [.resp .host rsp], history := trimHist (s.mb.history ++
      [{ seq := h.seq, opcode := op, crc := h.crc, resp := rsp }]) } ∧
    EventsOnly { s with mb := t.mb } t := by
  simp only [answerRow, settleAt, finishAt, placeResponse, recordHist, rowRecord, List.set_append_right, Nat.le_refl,
    Nat.sub_self, List.set_cons_zero]
  split
  · have k := postEvent_only { s with mb := { s.mb with order := s.mb.order ++ [.resp .host (respBytes op h st payload)], history := trimHist (s.mb.history ++
      [{ seq := h.seq, opcode := op, crc := h.crc, resp := respBytes op h st payload }]) } } 0x0001 13 0
      (leBytes 2 op ++ leBytes 2 0 ++ leBytes 4 h.seq ++ bytesAt (respBytes op h st payload) 14 2)
    have e : ∀ {a b : State}, EventsOnly a b → b.mb = a.mb := fun {a b} k => by unfold EventsOnly at k; rw [k]
    refine ⟨e k, ?_⟩
    rw [e k]
    exact k
  · exact ⟨rfl, rfl⟩

/-- A row that waits for a completion only joins the order. -/
theorem answerRow_wait (h : CmdHdr) (op : Nat) (s : State) (w : WaitKind) :
    answerRow h op (s, .wait w) = { s with mb := { s.mb with order := s.mb.order ++ [.exec (rowRecord h op) w] } } := by
  simp only [answerRow, settleAt, List.set_append_right, Nat.le_refl, Nat.sub_self, List.set_cons_zero]

end Sys2Proof.Machine
end

