-- ==== Sys2Proof/WellFormed.lean ====
section
/-! DEFINITION. Well-formed commands: each operand fits the field that carries it (the tables *Mailbox record header* and
*Mailbox commands*, R69, R492), and each unit number names a unit of the device. A record can carry any value of its
fields; a value that its command refuses is still well-formed, because the refusal is the command's effect. -/

namespace Sys2Proof

/-- The value fits a field of `k` bytes. -/
def fits (k n : Nat) : Bool := decide (n < 256 ^ k)

/-- The header fields of a record (R69). -/
def CmdHdr.wf (h : CmdHdr) : Bool := fits 2 h.flags && fits 4 h.seq && fits 1 h.domain && fits 4 h.crc

/-- A header with a payload of up to 65,532 bytes, a multiple of 4 (R69). -/
def recordWf (h : CmdHdr) (payload : List Byte) : Bool :=
  h.wf && decide (payload.length ≤ 65532) && decide (payload.length % 4 = 0)

/-- A cause of reset names one of the nine rails. -/
def ResetCause.wf : ResetCause → Bool
  | .pwrGoodLow => true
  | .porstLow => true
  | .railLow r => decide (r < 9)

/-- A command to a function: register addresses have 17 bits, a relative card address 16 (R53). -/
def SdioCmd.wf : SdioCmd → Bool
  | .cmd0 | .cmd3 | .cmd5 | .cmd19 => true
  | .cmd7 rca | .cmd15 rca => fits 2 rca
  | .cmd52Read f a => decide (f < 8) && decide (a < 2 ^ 17)
  | .cmd52Write f a v => decide (f < 8) && decide (a < 2 ^ 17) && fits 1 v
  | .cmd53Read f a _ _ _ => decide (f < 8) && decide (a < 2 ^ 17)
  | .cmd53Write f a _ _ d => decide (f < 8) && decide (a < 2 ^ 17) && d != []

/-- A peer's CONFIG: a 10-bit ID and one of the 12 ports (R357). -/
def PeerConfig.wf (p : PeerConfig) : Bool := decide (p.id < 1024) && decide (p.port < 12)

/-- A training outcome names a channel and subchannel of the device (R398). -/
def TrainResult.wf : TrainResult → Bool
  | .ok => true
  | .fail c sub st => decide (c < 4) && decide (sub < 2) && fits 1 st

/-- A packet: its granules are 64 bytes each, with one travel code each (R359, R375). -/
def Packet.wf (p : Packet) : Bool :=
  fits 1 p.type && fits 1 p.pflags && decide (p.dst < 1024) && decide (p.src < 1024) && fits 2 p.tag && fits 1 p.gen &&
  fits 8 p.addr && decide (p.data.length ≤ 4) && p.data.all (fun g => g.length == 64) &&
  decide (p.codes.length = p.data.length) && p.codes.all (fits 2) && fits 8 p.be && fits 4 p.arg

/-- A flit: 32 bytes of payload on one of four virtual channels (R359). -/
def Flit.wf (x : Flit) : Bool := decide (x.vc < 4) && decide (x.payload.length = 32) && fits 4 x.crc

/-- A CTRL flit holds the credits of the four virtual channels (R366). -/
def CtrlMsg.wf (m : CtrlMsg) : Bool := decide (m.cred.length = 4)

/-- A TIME flit: a DEPTH of one byte (R390). -/
def TimeMsg.wf (m : TimeMsg) : Bool := fits 1 m.depth

/-- A well-formed command. -/
def wellFormed : Instr → Bool
  | .resetEntry c => c.wf
  | .resetRelease _ | .refclkPresent | .aonRelease _ | .sdioFunctionReady | .sdioCmd0Spi | .sdioCmd11 | .imageVerifyDone
  | .firmwareReady | .fwHalt | .firmwareHeartbeat | .cpStall | .smFault | .mbRecordExecute _ | .pmbAlert | .refclkLoss
  | .ppsEdge | .ppsLost | .seasonChangeDone | .counterWindowBoundary | .frameIntervalEnd | .doubtPulseEnd
  | .monthSlotStart | .itemAccept | .timeStep | .timeJoinLocked | .tapReset | .idcode | .extest | .clamp | .highz
  | .dbgAccessDone | .selfTestStart _ | .sample _ | .preload _ => true
  | .aonPllLocked src => decide (src < 4)
  | .sdioCommand c => c.wf
  | .bootImageWrite d | .mbCmdPortWrite d | .bulkDataWrite d => d != []
  | .mbDoorbellWrite v | .mbStatusW1c v => fits 4 v
  | .mbRspPortRead _ | .eventRecordRead _ | .bulkDataRead _ _ => true
  | .registerWrite fn a v => decide (fn < 4) && decide (a < 2 ^ 17) && fits 4 v
  | .nop h | .deviceInfo h | .safetyDisarm h | .safetyStatus h | .powerStatus h | .traceStatus h | .linkStatus h
  | .linkTimeJoin h | .svnAdvance h | .debugDisable h => h.wf
  | .channelTableSet h b c => h.wf && fits 8 b && fits 4 c
  | .channelInvalidate h f c => h.wf && fits 4 f && fits 4 c
  | .bulkWrite h a l | .bulkRead h a l | .wcacheInvalidate h a l => h.wf && fits 8 a && fits 8 l
  | .dmaStart h c f => h.wf && fits 2 c && fits 2 f
  | .dmaStop h c r | .dmaKick h c r | .egressStart h c r | .cameraStart h c r | .powerCapSet h c r | .traceStart h c r
  | .linkStart h c r | .linkIdSet h c r => h.wf && fits 2 c && fits 2 r
  | .streamRearm h st r ja b => h.wf && fits 2 st && fits 2 r && fits 4 ja && fits 8 b
  | .ddrInit h c => recordWf h c
  | .firewallSet h t r fl b l rd wr => h.wf && fits 2 t && fits 1 r && fits 1 fl && fits 8 b && fits 8 l && fits 2 rd && fits 2 wr
  | .firewallGet h t g r => h.wf && fits 2 t && fits 1 g && fits 1 r
  | .egressStop h p r | .egressUrunClear h p r | .graphUnload h p r | .graphHold h p r | .graphResume h p r
  | .graphStop h p r | .graphStatus h p r | .fbcRead h p r | .seasonSet h p r | .thermalSet h p r | .islandStop h p r
  | .islandStart h p r | .traceStop h p r | .traceTrigger h p r | .watchClear h p r | .watchArm h p r | .linkStop h p r
  | .linkWindowOpen h p r | .linkWindowClose h p r | .coreFence h p r | .coreUnfence h p r | .keyRevoke h p r
  | .debugEnable h p r => h.wf && fits 1 p && fits 3 r
  | .tensorCheck h u r d td => recordWf h td && fits 1 u && fits 1 r && fits 2 d
  | .tensorLocate h g td => recordWf h td && decide (g.length = 6) && g.all (fits 4)
  | .graphLoad h p => recordWf h p
  | .graphStart h g f r s f0 => h.wf && fits 1 g && fits 1 f && fits 2 r && fits 4 s && decide (f0.length ≤ 64) && f0.all (fits 4)
  | .graphHoldQuiescent g | .graphStopIdle g | .itemDispatch g => decide (g < 16)
  | .graphParamSet h g r e r2 v => h.wf && fits 1 g && fits 1 r && fits 2 e && fits 4 r2 && fits 8 v
  | .csiPortConfig h p l m q i r => h.wf && fits 1 p && fits 1 l && fits 1 m && fits 1 q && fits 1 i && fits 3 r
  | .cameraStop h p r w => h.wf && fits 1 p && fits 1 r && fits 2 w
  | .cameraStopTimeout p | .pipelineLineDone p | .frameComplete p | .patternTestStart p | .patternTestDone p _
  | .sensorWriteDone p _ => decide (p < 64)
  | .cameraStatus h p c r => h.wf && fits 1 p && fits 1 c && fits 2 r
  | .triggerSet h t m q r p st w c =>
    h.wf && fits 1 t && fits 1 m && fits 1 q && fits 1 r && fits 4 p && fits 8 st && fits 4 w && fits 4 c
  | .triggerSwitchPoint t | .camTrigPulse t | .camTrigPulseEnd t => decide (t < 64)
  | .sensorCommit h p r c q w => h.wf && fits 1 p && fits 1 r && fits 2 c && fits 8 q && fits 8 w
  | .i3cTransfer h p a d l x => h.wf && fits 1 p && fits 1 a && fits 1 d && fits 1 l && decide (x.length = 64)
  | .safetyArm h p => recordWf h p
  | .safetyClear h src k sc => h.wf && fits 1 src && fits 1 k && fits 2 sc
  | .fbcLoad h p r a => h.wf && fits 1 p && fits 3 r && fits 8 a
  | .traceMark h v => h.wf && fits 4 v
  | .counterRead h c r f n r2 | .counterClear h c r f n r2 => h.wf && fits 1 c && fits 1 r && fits 2 f && fits 2 n && fits 2 r2
  | .watchSet h w => recordWf h w
  | .linkRouteSet h f c ps => recordWf h ps && fits 2 f && fits 2 c
  | .linkAbort h f l => h.wf && fits 2 f && fits 2 l
  | .linkReserve h p d r m => h.wf && fits 1 p && fits 1 d && fits 2 r && fits 4 m
  | .linkWindowSet h w r b l => h.wf && fits 1 w && fits 3 r && fits 8 b && fits 8 l
  | .linkImportSet h e w d ep r b l => h.wf && fits 1 e && fits 1 w && fits 2 d && fits 2 ep && fits 2 r && fits 8 b && fits 8 l
  | .linkIdAssign h p r i => h.wf && fits 1 p && fits 1 r && fits 2 i
  | .linkMboxRelay h d r rec => recordWf h rec && fits 2 d && fits 2 r
  | .linkEventSink h d f => h.wf && fits 2 d && fits 2 f
  | .linkPpsSet h p f => h.wf && fits 4 p && fits 4 f
  | .bootRelay h p r a l r2 => h.wf && fits 1 p && fits 3 r && fits 8 a && fits 4 l && fits 4 r2
  | .keyProvision h s r k => recordWf h k && fits 1 s && fits 3 r
  | .thermalSensorRead n _ | .thermalTrip n _ => decide (n < 64)
  | .budgetEpochStart _ => true
  | .vmon r _ => decide (r < 9)
  | .clkMon i _ => decide (i < 55)
  | .doubtLevelEnd src k _ => decide (1 ≤ src) && decide (src ≤ 15) && decide (k < 8)
  | .goldenRunStart c _ | .goldenRunDone c _ _ | .goldenRunOverdue c _ => decide (c < 11)
  | .selfTestDone b => b.elim true (fun k => decide (k < 16))
  | .csiFrameStart p v _ | .csiFrameEnd p v _ => decide (p < 16) && decide (v < 16)
  | .csiLongPacket p v d x _ _ n _ => decide (p < 16) && decide (v < 16) && decide (d < 64) && decide (n ≤ x.length)
  | .csiHeaderError p => decide (p < 16)
  | .sensorIbi p a _ => decide (p < 16) && decide (a < 128)
  | .i3cTransferDone p _ _ => decide (p < 16)
  | .sourceNotice g l => decide (g < 16) && decide (l < 64)
  | .nodeStart n | .nodeComplete n | .deadlockWalk n => decide (n < 32768)
  | .engineRunStart e _ | .engineRunDone e _ => decide (e < 96)
  | .obxObjectEmit k => decide (k < 16)
  | .coreUnitStart c | .scalarInstruction c _ | .issue c _ | .opStart c _ | .opComplete c _ _ _ | .spawn c _ | .coreUnitComplete c
  | .itemComplete c => decide (c < 256)
  | .resultRelease f => decide (f < 4096)
  | .recordAccept p | .egressSlot p _ => decide (p < 8)
  | .dmaDescriptorStart c _ | .dmaReadReturn c _ | .dmaDescriptorEnd c => decide (c < 1024)
  | .streamBlockStart t | .streamBlockDone t | .streamCancelled t => decide (t < 256)
  | .fsScrubRow b _ _ => decide (b < 48)
  | .ddrRefresh c | .ddrAlert c => decide (c < 4)
  | .ddrMr4Poll c r _ => decide (c < 4) && decide (r < 2)
  | .ddrScrubGranule a _ _ r _ _ => decide (a < 2 ^ 45) && decide (r < 2)
  | .ddrInitDone t => t.wf
  | .linkDetectPulse p | .linkPeerDetected p | .linkEqDone p | .linkAlignDone p _ _ _ | .linkTrainFail p | .replayTimer p
  | .timeFlitSend p | .hotJoin p | .ctrlFlitSend p => decide (p < 12)
  | .linkUp p c => decide (p < 12) && c.wf
  | .flitReceive p x _ => decide (p < 12) && x.wf
  | .ctrlReceive p m => decide (p < 12) && m.wf
  | .linkDown p c => decide (p < 12) && fits 1 c
  | .timeFlitReceive p m _ fr => decide (p < 12) && m.wf && fits 1 fr
  | .timeHoldover c => fits 1 c
  | .write p _ | .read p _ | .semSignal p | .winOpen p | .winClose p | .mbox p | .event p | .transactionResponse p => p.wf
  | .bootData k p | .bootEnd k p | .idAssign k p => decide (k < 12) && p.wf
  | .bootRelayDone p _ => decide (p < 12)
  | .traceRecordArrive c u => decide (c < 16) && decide (u < 2048)
  | .traceSpillCopy c _ => decide (c < 8)
  | .watchRead w _ => decide (w < 64)
  | .bypass c => fits 1 c
  | .dbgAccess d _ => decide (d < 2 ^ 128)

end Sys2Proof
end

