-- ==== Sys2Proof/Tests/Slice0.lean ====
section
/-! SUPPORT. The author's own checks: an ill-formed operand is refused by its check, single commands give what the rules of
the manual say, and the hypotheses of every statement are met, clause by clause, by a concrete state and operands. -/

-- One theorem after another: the evaluations below need little memory in turn, and much side by side.
set_option Elab.async false

namespace Sys2Proof.Tests

open Sys2Proof Sys2Proof.Machine

/-- Firmware runs, the host's bus answers and every island is up. -/
def up : State :=
  { State.reset with
    rst := { State.reset.rst with phase := .sdioUp, pwrGood := true, porstN := true }
    boot := { State.reset.boot with phase := 0x05, fwReady := true, keyHash := [] }
    islands := BitVec.allOnes 55 }

/-- The same with 1 MiB of DDR5 mapped, open to domain 2. -/
def upDdr : State :=
  { up with
    ddr := { up.ddr with usable := 0x100000, ready := true }
    fw := [(0, { base := 0, limit := 0xFF, rd := 0x0004, wr := 0x0004, en := true, lock := false })] }

/-- The card is selected and functions 1 to 3 are enabled. -/
def upSel : State := { up with sdio := { up.sdio with card := .selected, rca := 1, ioe := 0x0E } }

/-- A record of domain 2. -/
def hdr : CmdHdr := { flags := 0, seq := 1, domain := 2, crc := 0 }

/-- Where a command's effect leads. -/
def go (i : Instr) (s : State) : State :=
  match exec i s with
  | .next t => t
  | _ => s

/-! ### Long byte strings -/

/-- Bytes through the CRC, each step's value computed before the next. -/
def crcForced : List Byte → Nat → Nat
  | [], c => c
  | b :: bs, c => if crcByte c b = 0 then crcForced bs 0 else crcForced bs (crcByte c b)

theorem crcForced_eq (bs : List Byte) (c : Nat) : crcRun c bs = crcForced bs c := by
  induction bs generalizing c with
  | nil => rfl
  | cons b bs ih =>
    have h : crcRun c (b :: bs) = crcRun (crcByte c b) bs := rfl
    rw [h, ih, crcForced]
    split <;> simp_all

/-- A range in the window of the sequencer's tables. -/
def inTables (a n : Nat) : Bool :=
  inRange a n nodeBase 0x100000 || inRange a n semBase 0x40000 || inRange a n nodeBase 0x140000 || inRange a n flagBase 0x8000

/-- A range whose bytes are known, open and with good codes, reads so. -/
theorem readStruct_known (s : State) (cls unit dom a n : Nat) (bs : List Byte) (hm : memRead s.mem a n = bs)
    (h1 : firstBar s dom false (gransOf a n) = none) (h2 : rangeBad s a n = false)
    (h3 : inTables a n = false) (he : s.eccBad = []) : readStruct s cls unit dom a n = (s, .ok, bs) := by
  simp only [inTables, Bool.or_eq_false_iff] at h3
  obtain ⟨⟨⟨h3, h4⟩, h5⟩, h6⟩ := h3
  simp [readStruct, meetRange, meet, he, viewBytes, getBytes, h1, h2, h3, h4, h5, h6, hm]

/-- Memory in which nothing is written reads as zeros. -/
theorem memRead_nil (a n : Nat) : memRead [] a n = List.replicate n 0#8 := by
  induction n generalizing a with
  | zero => rfl
  | succ n ih => simp [memRead, ih, List.replicate_succ, memByte, tabGet, tabGet?, memDefault]

theorem readStruct_nil (s : State) (cls unit dom a n : Nat) (hm : s.mem = [])
    (h1 : firstBar s dom false (gransOf a n) = none) (h2 : rangeBad s a n = false)
    (h3 : inTables a n = false) (he : s.eccBad = []) : readStruct s cls unit dom a n = (s, .ok, List.replicate n 0#8) :=
  readStruct_known s cls unit dom a n _ (by rw [hm, memRead_nil]) h1 h2 h3 he

theorem leNat_zeros (n : Nat) : leNat (List.replicate n 0#8) = 0 := by
  induction n with
  | zero => rfl
  | succ n ih => rw [List.replicate_succ, leNat, ih]; rfl

theorem fieldAt_zeros (n off k : Nat) : fieldAt (List.replicate n 0#8) off k = 0 := by
  rw [fieldAt, List.drop_replicate, List.take_replicate, leNat_zeros]

theorem zeroAt_zeros (n off k : Nat) : zeroAt (List.replicate n 0#8) off k = true := by
  simp [zeroAt, allZero, bytesAt, List.drop_replicate, List.take_replicate]

theorem crc32c_forced (bs : List Byte) : crc32c bs = crcForced bs 0xFFFFFFFF ^^^ 0xFFFFFFFF := by
  rw [crc32c, crcForced_eq]

/-! ### Ill-formed operands -/

def badHdr : CmdHdr := { hdr with flags := 65536 }
def badPacket : Packet :=
  { type := 1, pflags := 0, dst := 0, src := 0, tag := 0, gen := 0, addr := 0, grans := 1, domain := 2, hops := 0, win := 0,
    epoch := 0, be := 0, status := 0, arg := 0, data := [[0]], codes := [0] }

/-- An operand that its field cannot hold, for each check of the bus, boot and register commands. -/
theorem ill_formed_bus_refused : ([.resetEntry (.railLow 9), .aonPllLocked 4, .sdioCommand (.cmd7 65536),
    .sdioCommand (.cmd52Read 8 0), .sdioCommand (.cmd52Read 0 131072), .sdioCommand (.cmd52Write 0 0 256),
    .sdioCommand (.cmd53Read 0 131072 1 false true), .sdioCommand (.cmd53Write 0 0 false true []), .bootImageWrite [],
    .mbCmdPortWrite [], .bulkDataWrite [], .mbDoorbellWrite (2 ^ 32), .mbStatusW1c (2 ^ 32), .registerWrite 4 0 0,
    .registerWrite 0 131072 0, .registerWrite 0 0 (2 ^ 32)] : List Instr).all (fun i => ! wellFormed i) = true := by
  decide

/-- The same for the records of the mailbox. -/
theorem ill_formed_records_refused : ([.nop badHdr, .nop { hdr with seq := 2 ^ 32 }, .nop { hdr with domain := 256 },
    .nop { hdr with crc := 2 ^ 32 }, .channelTableSet hdr (2 ^ 64) 0, .channelInvalidate hdr (2 ^ 32) 0,
    .bulkWrite hdr 0 (2 ^ 64), .dmaStart hdr 65536 0, .linkIdSet hdr 0 65536, .streamRearm hdr 0 0 (2 ^ 32) 0,
    .ddrInit hdr [0], .firewallSet hdr 65536 0 0 0 0 0 0, .firewallGet hdr 0 256 0, .graphStop hdr 256 0,
    .tensorCheck hdr 0 0 65536 [], .tensorLocate hdr [0] [], .graphLoad hdr [0], .graphStart hdr 0 0 0 0 [2 ^ 32],
    .graphParamSet hdr 0 0 65536 0 0, .csiPortConfig hdr 0 0 0 0 0 (2 ^ 24), .cameraStop hdr 0 0 65536,
    .cameraStatus hdr 0 256 0, .triggerSet hdr 256 0 0 0 0 0 0 0, .sensorCommit hdr 256 0 0 0 0,
    .i3cTransfer hdr 0 0 0 0 []] : List Instr).all (fun i => ! wellFormed i) = true := by
  decide

/-- The same for the later groups of records. -/
theorem ill_formed_later_records_refused : ([.safetyArm hdr [0], .safetyClear hdr 0 256 0, .fbcLoad hdr 0 0 (2 ^ 64),
    .traceMark hdr (2 ^ 32), .counterRead hdr 256 0 0 0 0, .watchSet hdr [0], .linkRouteSet hdr 65536 0 [],
    .linkAbort hdr 65536 0, .linkReserve hdr 0 256 0 0, .linkWindowSet hdr 256 0 0 0, .linkImportSet hdr 0 0 65536 0 0 0 0,
    .linkIdAssign hdr 256 0 0, .linkMboxRelay hdr 65536 0 [], .linkEventSink hdr 65536 0, .linkPpsSet hdr (2 ^ 32) 0,
    .bootRelay hdr 256 0 0 0 0, .keyProvision hdr 256 0 []] : List Instr).all (fun i => ! wellFormed i) = true := by
  decide

/-- The same for the events of units and for packets: each unit number is one that the device has. -/
theorem ill_formed_events_refused : ([.graphHoldQuiescent 16, .cameraStopTimeout 64, .triggerSwitchPoint 64,
    .thermalSensorRead 64 0, .vmon 9 0, .clkMon 55 0, .doubtLevelEnd 0 0 0, .doubtLevelEnd 1 8 0,
    .goldenRunStart 11 0, .selfTestDone (some 16), .csiFrameStart 16 0 false, .csiHeaderError 16, .sourceNotice 16 0, .nodeStart 32768,
    .engineRunStart 96 [], .obxObjectEmit 16, .coreUnitStart 256, .resultRelease 4096, .recordAccept 8,
    .dmaReadReturn 1024 [], .streamBlockStart 256, .ddrRefresh 4, .linkDetectPulse 12, .replayTimer 12, .linkDown 12 0,
    .timeHoldover 256, .write badPacket [], .bootRelayDone 12 0, .traceRecordArrive 16 0, .traceSpillCopy 8 [], .watchRead 64 [],
    .bypass 256, .dbgAccess (2 ^ 128) []] : List Instr).all (fun i => ! wellFormed i) = true := by
  decide

/-- Well-formed commands of each kind. -/
theorem well_formed_accepted : ([.nop hdr, .resetEntry (.railLow 8), .traceMark hdr 0xFFFFFFFF, .sourceNotice 15 63,
    .write { badPacket with data := [List.replicate 64 0], codes := [0] } [], .bypass 255] : List Instr).all wellFormed = true := by
  decide

/-- No row of the table has bits: no word spells a command, and the state stays. -/
theorem no_word_spells_a_command : decodeTableWord 32 0 = none ∧ State.reset.withFetchWord 32 0 = State.reset := ⟨rfl, rfl⟩

/-! ### Hypotheses of the statements: the queue, reset, the bus -/

theorem witness_StepRunsTheFrontCommandOrTicks :
    ({ up with pending := [.idcode, .highz] } : State).pending = Instr.idcode :: [.highz] ∧ up.pending = [] := ⟨rfl, rfl⟩

theorem witness_ResetEntryAndReleaseFollowTheirTables :
    State.reset.rst.phase = .held ∧
    (let s := go (.resetRelease false) State.reset
     s.rst.phase = .locking ∧ s.rst.refclk = false) ∧
    (let s := go (.resetRelease true) State.reset
     s.rst.phase = .locking ∧ s.rst.refclk = true) ∧
    (let s := { up with rst := { up.rst with phase := .locked, bootSrc := 1 } }
     s.rst.phase = .locked ∧ s.rst.tripped = false ∧ s.rst.bootSrc.toNat < 2) ∧
    (let s := { up with rst := { up.rst with phase := .locked, bootSrc := 2 } }
     s.rst.phase = .locked ∧ s.rst.tripped = false ∧ 2 ≤ s.rst.bootSrc.toNat) ∧
    (let s := { up with rst := { up.rst with phase := .aonUp, bootSrc := 1 } }
     s.rst.phase = .aonUp ∧ s.rst.tripped = false ∧ s.rst.bootSrc = 1) ∧
    (let s := { up with rst := { up.rst with phase := .aonUp, bootSrc := 0 } }
     s.rst.phase = .aonUp ∧ s.rst.tripped = false ∧ s.rst.bootSrc ≠ 1) := by
  decide

theorem witness_SdioBusCommandsReachFunctionZero :
    sdioAnswers up = true ∧ up.sdio.card ≠ .inactive ∧
    (fnAnswers upSel 1 = true ∧ regValue upSel 1 0x2004 = some (mbStatus upSel) ∧ (regValue upSel 1 0x2004).isSome = true) ∧
    (upSel.sdio.card = .selected ∧ tabGet 0 { upSel.sdio with blkSize := [(1, 512)] }.blkSize 1 = 512) ∧
    (let s := { upSel with sdio := { upSel.sdio with ioe := 0x0C } }
     sdioAnswers s = true ∧ s.sdio.card = .selected ∧ (1 : Nat) ≠ 0 ∧ fnAnswers s 1 = false) ∧
    (let s := { up with sdio := { up.sdio with card := .standby, rca := 1 } }
     s.sdio.card ≠ .inactive ∧ SdioCmd.cmd7 1 = .cmd7 s.sdio.rca ∧ s.sdio.card = .standby) ∧
    (let s := { up with sdio := { up.sdio with card := .selected, rca := 1 } }
     s.sdio.card ≠ .inactive ∧ SdioCmd.cmd15 1 = .cmd15 s.sdio.rca ∧ s.sdio.card = .selected) := by
  decide

/-! ### Boot -/

/-- The ROM receives an image. -/
def rom : State := { up with boot := { bootReset with phase := 0x01 } }

/-- A header for key slot 0, with SVN 1 and a body of 64 bytes. -/
def header : List Byte :=
  [0x53, 0x43, 0x58, 0x46, 1, 0, 0x40, 0x15, 1, 0, 0, 0, 0, 0, 0, 0, 64, 0, 0, 0, 0, 0, 0, 0] ++ List.replicate 5416 0

/-- Key slot 0 is programmed with the hash that such a header's key would have. -/
def keyed : BootUnit := { bootReset with keyHash := [List.replicate 64 1, [], [], []] }

theorem witness_BootRomTakesAndChecksTheHeader :
    (fnUp rom 2 = true ∧ rom.rst.bootSrc = 0 ∧ rom.boot.phase = 0x01 ∧ ([1] : List Byte) ≠ [] ∧
      rom.boot.received + 1 < 5440) ∧
    (let s := { rom with boot := { rom.boot with phase := 0x02, received := 5438 } }
     s.boot.phase = 0x02 ∧ s.boot.received + ([1] : List Byte).length < 5440) ∧
    ({ bootReset with otpErr := true } : BootUnit).otpErr = true ∧
    (bootReset.otpErr = false ∧ fieldAt [] 0 4 ≠ 0x46584353) := by
  decide

theorem test_header_of_an_empty_slot_and_a_revoked_one :
    headerCheck { keyed with keyHash := [] } header = some 0x0B05 ∧ headerCheck { keyed with keyRevoke := 1 } header = some 0x0B06 := by
  decide +kernel

theorem witness_FirmwareStartsHaltsAndStalls :
    (let s := { rom with boot := { rom.boot with verifying := true, received := 5504, bodyLen := some 64 } }
     s.boot.verifying = true ∧ s.rst.tripped = false ∧ s.boot.srcPort = none) ∧
    (let s := { rom with boot := { rom.boot with phase := 0x04 } }
     s.boot.phase = 0x04 ∧ s.rst.tripped = false ∧ s.boot.fwHalt = false ∧ (fwOf s 1 0).lock = false) ∧
    (up.boot.phase = 0x05 ∧ up.safety.cpStall = false) ∧
    (let s := { up with safety := { up.safety with cpStall := true } }
     s.boot.phase = 0x05 ∧ s.safety.cpStall = true) ∧
    fwUp up = true ∧ (up.boot.fwReady = true ∧ up.rst.tripped = false ∧ up.safety.cpStall = false ∧ aonRuns up = true ∧
      aonPowered up = true) := by
  decide

theorem witness_OtpCommandsHaveTheirEffect :
    (Accepted 0x0902 hdr up ∧ (List.replicate 64 (1 : Byte)).length = 64 ∧ allZero (List.replicate 64 (1 : Byte)) = false ∧
      slotProgrammed up.boot 3 = false) ∧
    (let s := { up with boot := { up.boot with keyHash := keyed.keyHash } }
     Accepted 0x0903 hdr s ∧ ∃ j < 4, j ≠ 3 ∧ slotProgrammed s.boot j = true ∧ s.boot.keyRevoke.getLsbD j = false) ∧
    (Accepted 0x0904 hdr up ∧ up.boot.svn ≤ 64) := by
  decide

/-! ### Mailbox, events, bulk -/

/-- A record of 32 bytes for NOP with this sequence number: no field but SEQ and the CRC is set. -/
def nopRecord (seq : Byte) : List Byte :=
  let h : List Byte := [0, 0, 0, 0, seq, 0, 0, 0, 0, 0, 0, 0, 2] ++ List.replicate 15 0
  h ++ leBytes 4 (crc32c h)

def withMb (m : Mailbox) : State := { up with mb := m }

theorem witness_CommandAndResponsePortsMoveRecords :
    (fnUp (withMb { up.mb with discarding := true }) 1 = true ∧ (withMb { up.mb with discarding := true }).mb.discarding = true) ∧
    (up.mb.discarding = false ∧ (withMb { up.mb with part := some [1] }).mb.part = some [1]) ∧
    (up.mb.part = none ∧ cmdFree up ≠ 0) ∧
    (let s := withMb { up.mb with order := List.replicate 4 (.queued (recordOf .host (nopRecord 1))) }
     s.mb.discarding = false ∧ s.mb.part = none ∧ cmdFree s = 0) ∧
    (let s := withMb { up.mb with order := [.resp .host (List.replicate 32 7)] }
     s.mb.order = .resp .host (List.replicate 32 7) :: [] ∧ s.mb.rspPos + 31 < 32 ∧ s.mb.rspPos + 32 = 32) ∧
    headResponse up = none := by
  decide

theorem witness_DoorbellWithWrongLengthSetsLenErr :
    (fnUp up 1 = true ∧ up.mb.discarding = false ∧ 1 % 2 ^ 17 ≠ (up.mb.part.getD []).length) ∧
    (withMb { up.mb with discarding := true }).mb.discarding = true := by
  decide

theorem witness_DoorbellMakesStageOneChecks :
    (let p := nopRecord 1
     let s := withMb { up.mb with part := some p }
     fnUp s 1 = true ∧ s.boot.fwHalt = false ∧ s.mb.discarding = false ∧ s.mb.part = some p ∧ 32 % 2 ^ 17 = p.length ∧
       ¬ (32 + fieldAt p 8 4 ≠ p.length ∨ fieldAt p 8 4 % 4 ≠ 0 ∨ 65536 < fieldAt p 8 4) ∧
       ¬ crc32c (p.take 28 ++ p.drop 32) ≠ (recordOf .host p).hdr.crc ∧ seqPending s.mb (recordOf .host p).hdr.seq = false) ∧
    (let p := nopRecord 1
     seqPending { up.mb with part := some p, order := [.queued (recordOf .host p)] } (recordOf .host p).hdr.seq = true) ∧
    (let p := List.replicate 32 (0 : Byte)
     32 + fieldAt p 8 4 = p.length ∧ crc32c (p.take 28 ++ p.drop 32) ≠ (recordOf .host p).hdr.crc) ∧
    (let p := List.replicate 31 (0 : Byte)
     31 % 2 ^ 17 = p.length ∧ 32 + fieldAt p 8 4 ≠ p.length) := by
  decide +kernel

theorem witness_RecordsAreCheckedAndRunByOpcode :
    let r := recordOf .host (nopRecord 1)
    let s := withMb { up.mb with order := [.queued r] }
    let e : HistEntry := { seq := 1, opcode := 0, crc := 0, resp := [] }
    (plant [] s = s ∧ fwUp s = true ∧ nextQueued s.mb.order 0 = some (0, r)) ∧
    ({ s with mb := { s.mb with history := [e] } } : State).mb.history.find? (fun e => e.seq == r.hdr.seq) = some e ∧
    ((∀ x ∈ [{ e with seq := 2 }], x.seq ≠ r.hdr.seq) ∧ [{ e with seq := 2 }].getLast? = some { e with seq := 2 } ∧
      newerSeq r.hdr.seq 2 = false ∧ newerSeq r.hdr.seq 0 = true) ∧
    (r.resv = none ∧ domainRefused r.opcode r.hdr = false) ∧ domainRefused r.opcode { r.hdr with domain := 1 } = true ∧
    (recordOf .host (List.replicate 32 1)).resv ≠ none ∧
    payLayout 0xFFFF = none ∧ (r.opcode = 0x0000 ∧ r.payload = []) ∧
    ((List.replicate 24 (0 : Byte)).length = 24 ∧ payLayout 0x0000 ≠ none ∧
      payLayout 0x0000 = some (0, true) ∧ payFits (0, true) 4 = false) := by
  decide +kernel

theorem witness_CommandRowsAreCheckedAndAnswered :
    fwUp State.reset = false ∧ (fwUp up = true ∧ 2 ≤ ({ hdr with flags := 2 } : CmdHdr).flags) ∧
    (hdr.flags ≤ 1 ∧ 0x0600 / 256 ≠ 5 ∧ ({ hdr with domain := 1 } : CmdHdr).domain ≤ 1 ∧
      15 < ({ hdr with domain := 16 } : CmdHdr).domain) ∧
    Accepted 0x0600 hdr up ∧ Accepted 0x0500 { hdr with domain := 0 } up ∧ Accepted 0x0600 { hdr with domain := 15, flags := 1 } up ∧
    hdr.flags % 2 = 0 := by
  decide

theorem witness_RegisterWritesReachTheirRegisters :
    fnUp up 1 = true ∧ fnUp up 3 = true ∧ fnUp { up with boot := { up.boot with fwReady := false } } 3 = false := by decide

def oneEvent : EvRec :=
  { t := 0, code := 0x0800, cls := 5, unit := 0, origin := 0, straddle := false, refLost := false, forwarded := false, u := 4,
    eseq := 0, arg := [] }

theorem witness_FullEventFifoCountsAndReports :
    (up.ev.fifo.length < 1024 ∧ up.ev.lost = 0) ∧
    1024 ≤ ({ up.ev with fifo := List.replicate 1024 oneEvent } : EventUnit).fifo.length ∧
    (let s := { up with ev := { up.ev with fifo := [oneEvent], pos := 31 } }
     fnUp s 3 = true ∧ s.ev.fifo = oneEvent :: [] ∧ s.ev.fifo.length ≤ 1024 ∧ s.ev.pos + 1 = 32 ∧ s.ev.lost = 0) ∧
    (let s := { up with ev := { up.ev with fifo := [oneEvent], lost := 3 } }
     s.ev.pos + 32 = 32 ∧ 0 < s.ev.lost) := by
  decide +kernel

theorem witness_EventTakesTimeAndSequence : up.ev.sink = none ∧ up.ev.fifo.length < 1024 ∧ up.ev.lost = 0 := by decide

theorem witness_BulkTransfersOpenAndMoveBytes :
    (Accepted 0x0102 hdr up ∧ Accepted 0x0103 hdr up ∧ 2 ^ 48 - 1 < 2 ^ 48 ∧ 64 ≤ 2 ^ 30 ∧ 2 ^ 30 % 64 = 0 ∧
      up.bulk.wr = none ∧ up.bulk.rd = none) ∧
    (let s := { up with bulk := { up.bulk with wr := some (bulkNew 0 128 2), rd := some (bulkNew 0 128 2) } }
     s.bulk.wr ≠ none ∧ s.bulk.rd ≠ none) ∧
    (let x := bulkNew 64 128 2
     let s := { upDdr with bulk := { up.bulk with wr := some x, rd := some x } }
     plant [] s = s ∧ fnUp s 2 = true ∧ fwUp s = true ∧ s.bulk.wr = some x ∧ s.bulk.rd = some x ∧ x.part = [] ∧
       (List.replicate 64 (1 : Byte)).length = 64 ∧ x.done + 64 < x.len ∧ accessStatus s x.dom true (x.addr + x.done) 64 = .ok ∧
       accessStatus s x.dom false (x.addr + x.done) 64 = .ok ∧ x.addr + x.done + 64 ≤ nodeBase ∧
       (x.addr + x.done) % 64 = 0 ∧ ∀ y ∈ s.eccBad, granOf y.addr ∉ gransOf (x.addr + x.done) 64) ∧
    (fnUp upDdr 2 = true ∧ upDdr.bulk.rd = none ∧ upDdr.bulk.wr = none) := by
  decide +kernel

/-! ### The device, channels, firewalls, memory -/

/-- A channel entry (R79): type, domain, unit and body, with its CHECK. -/
def entry (type unit : Nat) (body : List Byte) : List Byte :=
  let e := overlay (leBytes 1 type ++ [2] ++ leBytes 2 unit ++ List.replicate 120 0) 8 body
  e ++ leBytes 4 (crc32c e)

/-- A state whose channel 0 has this entry, cached. -/
def chan0 (s : State) (e : List Byte) : State := { s with chans := { base := 0, count := 1, cache := [(0, e)] } }

/-- The body of a ring of 16 descriptors at 0x1000, SHARE 256 and 1 tag. -/
def ringBody : List Byte := [0, 4] ++ leBytes 2 256 ++ leBytes 2 1 ++ [0, 0] ++ leBytes 8 0x1000

theorem witness_DeviceAndChannelCommandsHaveTheirEffect :
    (Accepted 0x0000 hdr up ∧ Accepted 0x0001 hdr up) ∧
    (Accepted 0x0100 hdr upDdr ∧ 0xFF000 % 4096 = 0 ∧ 0xFF000 + 32 * 128 ≤ upDdr.ddr.usable ∧ anyChannelRuns upDdr = false) ∧
    (let s := chan0 upDdr (entry 1 0 ringBody)
     Accepted 0x0101 hdr s ∧ 0 < s.chans.count ∧ 0 + 1 ≤ s.chans.count ∧ ∀ i < 1, channelRuns s (0 + i) = false) ∧
    (let s := { chan0 upDdr (entry 3 0 []) with eports := [(0, { eportReset with running := true, chan := 0 })] }
     ∃ i < 1, channelRuns s (0 + i) = true) ∧
    upDdr.chans.count ≤ 0 ∧
    (let e := entry 1 0 ringBody
     let s := chan0 upDdr e
     0 < s.chans.count ∧ s.chans.cache.find? (fun x => x.1 == 0) = some (0, e) ∧ fieldAt e 0 1 ≠ 2 ∧
       crc32c (e.take 124) = fieldAt e 124 4 ∧ fieldAt e 0 1 = 1 ∧ entryResvBad e = none ∧
       fieldAt e 1 1 = 2 ∧ fieldAt e 1 1 ≠ 3) ∧
    (let e := entry 1 0 (overlay ringBody 6 [1])
     crc32c (e.take 124) = fieldAt e 124 4 ∧ fieldAt e 0 1 = 1 ∧ (entryResvBad e).isSome = true) ∧
    (zeroAt (overlay (entry 1 0 ringBody) 6 [1]) 6 2 = false ∧ zeroAt (overlay (entry 1 0 ringBody) 120 [1]) 120 4 = false) ∧
    crc32c (List.replicate 124 (0 : Byte)) ≠ fieldAt (List.replicate 128 (0 : Byte)) 124 4 := by
  decide +kernel

theorem witness_FirewallTakesTheLowestRegion :
    upDdr.fw.Pairwise (fun x y => x.1 < y.1) ∧ (∀ e ∈ upDdr.fw, e.1 % 64 ≠ 63) ∧ traceGrants upDdr 0 = [] ∧
      fwAllows upDdr 0 2 true 0xFFFC0 64 = true ∧ fwAllows upDdr 0 2 true 0xFFFC1 64 = false ∧
      fwAllows upDdr 0 3 true 0 64 = false := by
  decide +kernel

theorem witness_FirewallCommandsReadAndWriteRegions :
    (Accepted 0x010A hdr up ∧ fwTargetOk 0x1FF = true ∧ (fwOf up 0x1FF 62).lock = false ∧ 0x1000 % 4096 = 0 ∧
      2 ^ 48 - 4096 < 2 ^ 48 ∧ (2 ^ 48 - 4096) % 4096 = 0 ∧ 65532 < 65536 ∧ 65532 % 4 = 0) ∧
    (let s := setFw up 1 0 { fwOf up 1 0 with lock := true }
     fwTargetOk 1 = true ∧ (fwOf s 1 0).lock = true) ∧
    Accepted 0x010B hdr up := by
  decide +kernel

theorem witness_AccessesAreMappedWholeAndRefusedWhole :
    (upDdr.ddr.usable ≤ ddrEnd ∧ mapTarget upDdr 0xFFFFF 1 = some 0 ∧ mapTarget upDdr 0xFFFFF 2 = none) ∧
    (accessStatus upDdr 3 true 0 1 ≠ .ok ∧ accessStatus upDdr 3 false 0 1 = .denied ∧ upDdr.ev.sink = none ∧
      upDdr.ev.fifo.length < 1024 ∧ upDdr.ev.lost = 0) ∧
    mapTarget up 0 64 = none ∧
    (let s := { upDdr with islands := 1 }
     mapTarget s 0 64 = some 0 ∧ islandRuns s (targetIsland 0) = false) ∧
    (mapTarget up 0x004400000000 8 = some 3 ∧ islandRuns up 1 = true) := by
  decide +kernel

theorem witness_WritesCarryTravelCodes :
    (([1] : List Byte) ≠ [] ∧ 127 < 1 * 64 + 64 ∧ 1 * 64 < 127 + ([1] : List Byte).length ∧ 1 * 64 < 127) ∧
    (64 ≤ 1 * 64 ∧ 1 * 64 + 64 ≤ 64 + (List.replicate 64 (1 : Byte)).length) := by
  decide

theorem test_a_poisoned_byte_poisons_its_granule_only :
    let t := putBytes up 127 [1] true
    goodGran t 1 = false ∧ failingGran t 1 = false ∧ goodGran t 0 = true ∧ goodGran t 2 = true := by
  decide +kernel

theorem witness_DdrInitMapsTheUsableCapacity :
    (let cfg : List Byte := [0, 16, 1, 24] ++ List.replicate 12 0
     Accepted 0x0109 hdr up ∧ cfg.length = 16 ∧ zeroAt cfg 4 12 = true ∧
       ddrSupported (fieldAt cfg 0 1) (fieldAt cfg 1 1) (fieldAt cfg 2 1) = true ∧ 1 ≤ fieldAt cfg 3 1 ∧ fieldAt cfg 3 1 ≤ 24 ∧
       up.ddr.ready = false ∧ up.ddr.training = false) ∧
    (let s := { up with
       ddr := { up.ddr with training := true }
       mb := { up.mb with order := [.exec (rowRecord hdr 0x0109) .ddrInit] } }
     s.ddr.training = true ∧ islandRuns s 50 = true ∧ Memory.wf s.mem = true ∧
       waitingOn .ddrInit 0 s.mb.order = some (0, rowRecord hdr 0x0109) ∧ (rowRecord hdr 0x0109).src = .host) := by
  decide +kernel

theorem witness_MemoryUpkeepCountsPoisonsAndReports :
    ddrUp upDdr = true ∧ 0xFFFFF < upDdr.ddr.usable ∧ islandRuns upDdr 1 = true ∧ ((95 : Int) ≤ 95 ∧ (95 : Int) < 96) ∧
      EccFind.corrected ≠ .uncorrectable ∧ 0xFFFFF / 64 * 64 + 64 ≤ upDdr.ddr.usable ∧ upDdr.ddr.usable ≤ ddrEnd ∧
      upDdr.eccBad = [] := by
  decide +kernel

/-- An error in DDR5, the frame store, the trace buffer or a scratchpad at an address. -/
def ecc (addr : Nat) (place : EccPlace) (found : EccFind) : EccHit :=
  { addr := addr, place := place, found := found, rank := 0, bank := 0, row := 0 }

theorem witness_EccErrorsCountPoisonAndReport :
    mapTarget upDdr 0xFFFC0 64 = some 0 ∧ mapTarget upDdr 0x004017FFFFC0 64 = some 1 ∧ mapTarget upDdr 0x0043007FFFC0 64 = some 2 ∧
    mapTarget upDdr (0x004100000000 + 255 * 0x80000) 64 = some (0x100 + 255) ∧
    mapTarget upDdr nodeBase 64 = some 3 ∧ (ecc 0x40 .memory .uncorrectable).found = .uncorrectable ∧
    ((ecc 0x40 .memory .uncorrectable).place = .memory ∧ (ecc 0x40 .memory .corrected).found ≠ .clean ∧
      ({ upDdr with eccBad := [ecc 0x40 .memory .corrected] } : State).eccBad = [ecc 0x40 .memory .corrected]) ∧ tabGet? upDdr.eccWin 0 = none ∧
    (let l : WLine := { addr := 0x40, way := 3, data := [], mark := 0 }
     l ∈ ({ upDdr with wcache := [l] } : State).wcache ∧ l.addr = (ecc 0x7F .line .corrected).addr / 64 * 64) := by
  decide +kernel

theorem test_an_uncorrectable_scratchpad_row_is_poisoned_and_reported :
    let t := eccHits (fun _ => true) [ecc (0x004100000000 + 0x80000 + 64) .memory .uncorrectable] up
    t.marks = [((0x004100080040) / 64, 0x6C39)] ∧ t.ev.fifo.map (fun e => (e.code, e.cls, e.unit)) = [(0x0106, 1, 1), (0x0500, 11, 0)] := by
  decide +kernel

theorem witness_FlagOperationsFollowTheirTable :
    (let s := setFlag up 0 { flagOf up 0 with cmask := 0x81 }
     flagIsSet (flagOf s 0) = false ∧ pendOf (flagOf s 0) 7 = 0 ∧
       flagIsSet (flagOf (flagSet s 0 5) 0) = true ∧ pendOf (flagOf (flagSet s 0 5) 0) 7 ≠ 0) := by
  decide +kernel

/-! ### Tensors -/

/-- A one-dimensional LINEAR tensor of `n` S8 elements at an installation address, in an allocation of one granule. -/
def tensor (addr n flags : Nat) : List Byte :=
  let h := [0, 0, 1, 1, 0, 0, 0] ++ leBytes 1 flags ++ leBytes 8 addr ++ leBytes 6 addr ++ leBytes 6 64
  overlay (overlay (padTo 128 h) 32 (leBytes 4 n)) 56 (leBytes 4 1)

/-- The same, sharded: dimension 0 CYCLIC in two parts of the `2 n` global elements. -/
def shardedTensor (n : Nat) : List Byte :=
  overlay (overlay (overlay (tensor 0 n 1) 28 (leBytes 2 2)) 96 (leBytes 4 (2 * n))) 120 [1]

theorem witness_TensorCommandsCheckAndLocate :
    (Accepted 0x0200 hdr upDdr ∧ useOf 1 = some .write ∧ tdCheck upDdr (tdesc (tensor 0x40 64 2)) .write 2 0 = none ∧
      tdCheck upDdr (tdesc (tensor 0x40 65 2)) .write 2 0 ≠ none) ∧
    (Accepted 0x0201 hdr upDdr ∧ tdCheck upDdr (tdesc (shardedTensor 8)) .read 2 upDdr.inst.id = none ∧
      isSharded (tdesc (shardedTensor 8)) = true ∧
      ∀ d < 6, if d < (tdesc (shardedTensor 8)).ndim then nth [15] d < nth (tdesc (shardedTensor 8)).gsize d else nth [15] d = 0) := by
  decide +kernel

theorem witness_FootprintHoldsEveryElement :
    let t := tdesc (tensor 0x40 64 2)
    tdParam t 0 = none ∧ ∀ d < t.ndim, ix [63] d < nth t.size d := by
  decide +kernel

theorem witness_WriteTestKeepsElementsApart :
    let t := tdesc (tensor 0x40 64 2)
    tdParam t 0 = none ∧ isWritable t = true ∧ t.layout = 0 ∧ t.etype ≠ 1 ∧ tdAlias t = none ∧
      (∀ d < t.ndim, ix [0] d < nth t.size d) ∧ (∀ d < t.ndim, ix [63] d < nth t.size d) ∧ ∃ d < t.ndim, ix [0] d ≠ ix [63] d := by
  decide +kernel

theorem witness_ShardPartsAndMoveKindsAreOneToOne :
    (let t := tdesc (shardedTensor 8)
     15 < nth t.gsize 0 ∧ shardOf t 0 = 2 ∧ partsOf t 0 ≤ nth t.gsize 0) ∧
    (let t := { tdesc (shardedTensor 8) with shard := 1 }
     15 < nth t.gsize 0 ∧ shardOf t 0 = 1 ∧ (partsOf t 0 - 1) * shardBlock t 0 < nth t.gsize 0) ∧
    (let t := { tdesc (shardedTensor 8) with shard := 0, parts := [] }
     15 < nth t.gsize 0 ∧ shardOf t 0 = 0 ∧ partsOf t 0 = 1) ∧
    permOf 0 0 3 = some [0, 1, 2] := by
  decide +kernel

/-! ### DMA channels and streams -/

/-- Two S8 tensors of 64 elements, and a descriptor that copies the first to the second. -/
def moveMem : List Host.Cell :=
  memWrite (memWrite (memWrite [] 0x1000 ([1, 0, 0, 0, 0, 0, 0, 0] ++ leBytes 8 0x2000 ++ leBytes 8 0x2080 ++ List.replicate 40 0))
    0x2000 (tensor 0x3000 64 0)) 0x2080 (tensor 0x3040 64 2)

def moveDesc : List Byte := memRead moveMem 0x1000 64

/-- A ring channel at 0x1000. -/
def ring : DmaChan :=
  { engine := 0, dom := 2, ring := true, ringLog := 4, share := 256, tags := 1, ringBase := 0x1000, head := 15, running := true,
    parked := false, kick := false, stopping := false, graph := none, run := none }

/-- A move of the first descriptor whose writes have been acknowledged. -/
def moved : DmaRun :=
  { runIdle none 0 0 0 with busy := true, written := true, desc := moveDesc, src := tensor 0x3000 64 0, dst := tensor 0x3040 64 2 }

def withRing (x : DmaChan) : State := { upDdr with mem := moveMem, dma := [(0, x)] }

/-- A DMA node of graph 0 on lane 0, with one iteration in progress. -/
def dmaNode : Node :=
  { kind := 3, safety := false, iterEnd := true, unit := 0, depInit := 0, cnt0 := 0, cnt1 := 0, desc := 0, descLen := 1, eclass := 0,
    edgeFirst := 0, edgeCnt := 0, waitCnt := 0, waitFirst := 0, lane := 0, graph := 0, iter := 1, lates := [1, 1, 1, 1], ws := [],
    js := [], run := some { iter := 0, f := 0, rel := 0, start := 0, unitDone := false }, registered := false, reported := false,
    slips := 0, slipWindow := none }

theorem witness_DmaCommandsDriveRings :
    (let e := entry 1 0 ringBody
     let s := chan0 upDdr e
     Accepted 0x0104 hdr s ∧ fetchEntry s 2 0 1 0 = (s, .inr e) ∧ dmaBody e = none ∧ fieldAt e 8 1 = 0 ∧
       mapTarget s (fieldAt e 16 8) (64 * 2 ^ fieldAt e 9 1) = some 0 ∧ tabGet? s.dma 0 = none ∧ s.dma = [] ∧
       graphOwned s (fieldAt e 2 2) = false ∧ engineChans s (fieldAt e 2 2) < 32 ∧
       engineTags s (fieldAt e 2 2) + fieldAt e 12 2 ≤ 256 ∧ (ringFit s 64).1 = true ∧
       islandRuns s (2 + fieldAt e 2 2 / 2) = true) ∧
    (let s := withRing ring
     Accepted 0x0105 hdr s ∧ Accepted 0x0106 hdr s ∧ Accepted 0x0108 hdr s ∧ ringAt s 0 = some ring ∧ ring.run = none ∧
       0 < { s.chans with count := 1 }.count ∧ s.chans.count ≤ 0) ∧
    (let x := { ring with run := some moved }
     let s := withRing x
     ringAt s 0 = some x ∧ x.run = some moved ∧ (moverAt s 0).isSome = true ∧ moved.written = true) := by
  decide +kernel

theorem witness_RingDescriptorsStartParkAndWriteBack_start :
    (let x := { ring with head := 0 }
     let s := withRing x
     tabGet? s.dma 0 = some x ∧ x.running = true ∧ x.ring = true ∧ x.parked = false ∧ x.stopping = false ∧ x.run = none ∧
       engineRuns s x.engine = true ∧ plant [] s = s ∧ ReadsClean s x.dom (ringDesc x) 64 ∧
       viewBytes s (ringDesc x) 64 = moveDesc ∧ fieldAt moveDesc 0 1 % 2 = 1 ∧ descFields moveDesc = none ∧
       descAligned moveDesc = none ∧ ReadsClean s x.dom (fieldAt moveDesc 8 8) 128 ∧
       ReadsClean s x.dom (fieldAt moveDesc 16 8) 128 ∧ viewBytes s (fieldAt moveDesc 8 8) 128 = tensor 0x3000 64 0 ∧
       viewBytes s (fieldAt moveDesc 16 8) 128 = tensor 0x3040 64 2 ∧
       (descFields (overlay moveDesc 1 [3])).or (descAligned (overlay moveDesc 1 [3])) = some (.badParam, 1) ∧
       (descFields (overlay moveDesc 8 [1])).or (descAligned (overlay moveDesc 8 [1])) = some (.badParam, 8) ∧
       moveCheck s x.dom (fieldAt moveDesc 1 1) (fieldAt moveDesc 4 4) ((fieldAt moveDesc 0 1).testBit 2)
         (tdesc (tensor 0x3000 64 0)) (tdesc (tensor 0x3040 64 2)) = none ∧ isRemote s (tdesc (tensor 0x3000 64 0)) = false) := by
  unfold ReadsClean
  decide +kernel

theorem witness_RingDescriptorsStartParkAndWriteBack_park :
    (let s := withRing ring
     ReadsClean s 2 (ringDesc ring) 64 ∧ fieldAt (viewBytes s (ringDesc ring) 64) 0 1 % 2 = 0) := by
  unfold ReadsClean
  decide +kernel

theorem witness_RingDescriptorsStartParkAndWriteBack :
    (let x := { ring with run := some moved }
     let s := withRing x
     tabGet? s.dma 0 = some x ∧ x.run = some moved ∧ moved.node = none ∧ moved.busy = true ∧ moved.reads = 0 ∧ moved.writes = 0 ∧
       moved.written = true ∧ moved.status = .ok ∧ moved.bad = false ∧ moved.mism = 0 ∧ moved.desc.length = 64 ∧
       engineRuns s x.engine = true ∧ x.stopping = false ∧ accessStatus s x.dom true (ringDesc x) 64 = .ok ∧
       ringDesc x % 64 = 0) ∧
    (let r := { moved with node := some 0 }
     let x := { ring with ring := false, graph := some 0, run := some r }
     let s := { withRing x with nodes := [(0, dmaNode)], descs := [(0, [2, 2] ++ List.replicate 62 0)] }
     tabGet? s.dma 0 = some x ∧ x.run = some r ∧ r.node = some 0 ∧ r.index + 1 < fieldAt (nodeDesc s 0) 1 1) ∧
    (let s := { withRing ring with nodes := [(0, dmaNode)], descs := [(0, [2, 1] ++ List.replicate 62 0)] }
     fieldAt (nodeDesc s 0) 1 1 ≤ moved.index + 1 ∧ tabGet? s.nodes 0 = some dmaNode ∧ dmaNode.run.isSome = true) := by
  decide +kernel

/-- A move whose reads are in progress: one granule of its source is to come. -/
def moving : DmaRun := { moved with reads := 1, written := false, todo := [0x3000 / 64] }

theorem witness_DmaReadReturnsThenWrites :
    (let x := { ring with run := some moving }
     let s := withRing x
     plant [] s = s ∧ tabGet? s.dma 0 = some x ∧ x.run = some moving ∧ moving.busy = true ∧
       isRemote s (tdesc moving.src) = false ∧ engineRuns s x.engine = true ∧
       (∀ y ∈ s.eccBad, moving.todo.head? ≠ some (y.addr / 64)) ∧ { x with stopping := true }.stopping = true ∧ 1 ≤ moving.reads ∧
       moving.todo = 0x3000 / 64 :: [] ∧ tabGet? moving.got (0x3000 / 64) = none ∧ x.stopping = false ∧
       (fieldAt moving.desc 0 1).testBit 2 = false ∧ moving.status = .ok ∧ 2 ≤ { moving with reads := 2 }.reads ∧
       accessStatus s x.dom false (0x3000 / 64 * 64) 64 = .ok ∧ accessStatus { s with fw := [] } x.dom false (0x3000 / 64 * 64) 64 = .denied) ∧
    (let x := { ring with run := some moving }
     let s := withRing x
     let got := tabSet (0x3000 / 64) (viewBytes s 0x3000 64, (markOf s (0x3000 / 64)).toNat) moving.got
     moving.reads = 1 ∧ isRemote s (tdesc moving.dst) = false ∧ (elemsOf moving).isSome = true ∧
       (let es := (elemsOf moving).getD []
        let cs := moveCells (got.foldl (fun m e => memWrite m (e.1 * 64) e.2.1) []) (tdesc moving.dst).etype s.mem es
        firstBar s x.dom true (cellGrans cs) = none ∧ cs.length = 64)) := by
  decide +kernel

/-- Lane 0 of graph 0: a pipeline's frames, released by node 0. -/
def lane0 : Lane :=
  { remote := false, src := 0, period := 40000000, source := 0, latMax := 0, fNext := some 0, f0 := 0, notices := [], started := 0,
    open_ := [], lastRel := none }

/-- Graph 0, loaded, with one node and one lane. -/
def graph0 : Graph :=
  { st := .loaded, order := 0, holding := false, holdAcc := 0, stopping := false, dom := 2, salt := 0, mask := 15, sx7 := false,
    ways := [], base := 0, nodes := 1, linkBase := 0, linkLen := 0, descBase := 0, descLen := 1, lanes := [lane0], pool := [],
    tensors := [], edits := [], aborted := 0, charge := chargeNone }

def stream0 : StreamSt :=
  { chan := 1, graph := 0, lane := 0, dom := 2, engine := 0, nbufLog := 1, share := 1, tags := 1, wcache := false, kind := 0,
    perm := 0, srcTd := tensor 0x3000 64 0, dstTd := tensor 0x3040 64 2, dstPitch := 64, srcStep := 0, srcWrap := 0, flag0 := 0,
    next := 1, rearms := [], active := true, halted := false, cancelling := false, run := none, discard := 0, unread := [] }

def withStream (x : StreamSt) : State := { upDdr with mem := moveMem, graphs := [(0, graph0)], streams := [(0, x)] }

theorem witness_StreamsMoveBlocksAndCancel :
    (let x := { stream0 with next := 0 }
     let s := withStream x
     tabGet? s.streams 0 = some x ∧ streamF0 s x = some 0 ∧ x.active = true ∧ x.halted = false ∧ x.cancelling = false ∧
       x.run = none ∧ engineRuns s x.engine = true ∧ flagIsSet (flagOf s (x.flag0 + streamSlot x 0 x.next)) = false ∧
       tabGet? s.dma x.chan = none ∧ streamOfChan s x.chan = some (0, x) ∧
       moveCheck s x.dom x.kind x.perm x.wcache (tdesc (withBase x.srcTd (streamBase x x.next)))
         (tdesc (withBase x.dstTd (fieldAt x.dstTd 8 8 + streamSlot x 0 x.next * x.dstPitch))) = none) ∧
    (let x := { stream0 with run := some moved }
     let s := { withStream x with flags := [(0, { frame := 0, pend := 0, cmask := 1 })] }
     tabGet? s.streams 0 = some x ∧ x.run = some moved ∧ moved.busy = true ∧ moved.reads = 0 ∧ moved.writes = 0 ∧
       moved.written = true ∧ moved.status = .ok ∧ moved.bad = false ∧ moved.mism = 0 ∧ x.cancelling = false ∧
       flagIsSet (flagOf s 0) = false ∧ (flagOf s 0).cmask ≠ 0) ∧
    (Accepted 0x0107 hdr (withStream stream0) ∧ stream0.dom = hdr.domain ∧ stream0.next < 2 ∧
      (stream0.next = 1 ∧ stream0.run = none) ∧ 0 < stream0.next ∧
      (let x := { stream0 with run := some moved }
       1 = x.next ∧ x.run ≠ none)) ∧
    (let x := { stream0 with cancelling := true }
     tabGet? (withStream x).streams 0 = some x ∧ x.cancelling = true ∧ x.run = none) := by
  decide +kernel

/-! ### Egress -/

def result : ResRec :=
  { objId := 1, frameCnt := 0, tExp := 0, tAct := 0, priClass := 1, priConf := 1, pipe := 0, fbClass := 0xFFFF, verdict := 0,
    doubt := false, priVoid := false, duplicated := false, kind := 0, underrun := false, edge := false, actSat := false, flags := 0,
    tUnc := 0, cores := [] }

def estream : EStream := { flow := 0, actAux := true, actDelay := 0, ageMax := 0, stubs := [], lateWindow := none }

def postItem (aux : Nat) : Released :=
  { flow := 0, seq := 0, f := 7, rel := 0, status := .ok, post := { cls := 0, conf := 0, aux := aux, poison := false }, void := false, err := false,
    dupMismatch := false, poison := false, slip := false, duplicated := false, cores := [] }

def port0 : EPort := { eportReset with running := true, dom := 2, streams := [estream] }

def withPort (p : EPort) : State := { up with eports := [(0, p)] }

theorem witness_ActuationDelayIsClamped :
    (0 ≤ (estream.actDelay : Int) + (BitVec.ofNat 32 5).toInt ∧ (buildRecord estream (stubFreeVal 0 0) (postItem 5)).priVoid = false) ∧
    (buildRecord estream (stubFreeVal 0 0) (postItem (2 ^ 32 - 1))).tAct = 0 ∧
    (buildRecord estream (stubFreeVal 0 0) (postItem (2 ^ 32 - 1))).actSat = true ∧
    (buildRecord { estream with actDelay := 2 ^ 32 - 1 } (stubFreeVal 0 0) (postItem 1)).tAct = 2 ^ 32 - 1 ∧
    (buildRecord { estream with actDelay := 2 ^ 32 - 1 } (stubFreeVal 0 0) (postItem 1)).actSat = true := by
  decide +kernel

theorem test_a_record_carries_its_code_and_the_mark_of_poison :
    fieldAt (recBytes result) 30 2 = tc ((recBytes result).take 30) ∧
    fieldAt (recBytes { result with flags := 2048 }) 30 2 = tc ((recBytes { result with flags := 2048 }).take 30) ^^^ 0x6C39 := by
  decide +kernel

theorem witness_VerdictFollowsThePolicy :
    up.safety.smFault = false ∧ up.safety.armed = false ∧
    (let s := { up with safety := { up.safety with armed := true } }
     (substitute s estream { result with flags := 0x3FF, fbClass := 0 }).verdict = 1 ∧
       (substitute s estream { result with flags := 0x3FF }).verdict = 2 ∧ (substitute s estream result).doubt = true) ∧
    (let s := { up with safety := { up.safety with smFault := true } }
     s.safety.smFault = true ∧ (substitute s estream result).verdict = 2) := by
  decide +kernel

/-- Graph 0 with an OBX node that spawns flow 0. -/
def withFlow : State :=
  { upDdr with
    graphs := [(0, graph0)], nodes := [(0, { dmaNode with kind := 1, descLen := 4 })],
    descs := [(0, [6, 0, 16] ++ List.replicate 61 0)]
    pool := { upDdr.pool with flows := [(0, { flowOfEntry (List.replicate 96 0) 0 0 with ordered := true })] } }

theorem witness_EgressCommandsStartStopAndClear :
    (let e := entry 3 0 (leBytes 2 1 ++ leBytes 2 0 ++ [1, 0, 0, 0] ++ leBytes 2 0 ++ leBytes 2 1 ++ leBytes 4 2 ++ leBytes 4 1)
     let s := chan0 withFlow e
     Accepted 0x010C hdr s ∧ fetchEntry s 2 0 3 0 = (s, .inr e) ∧ egressBody s e = none ∧
       (eportOf s (fieldAt e 2 2)).running = false ∧ islandRuns s 54 = true ∧
       ((streamEntries e).map (fun b => (streamFrom b).flow)).Nodup ∧
       (∀ b ∈ streamEntries e, streamOf s (streamFrom b).flow = none ∧ flowActive s (streamFrom b).flow = false) ∧
       flowGraph s 0 = some graph0 ∧ graph0.dom = hdr.domain) ∧
    (let s := withPort port0
     Accepted 0x010D hdr s ∧ Accepted 0x010E hdr s ∧ (eportOf s 0).running = true ∧
       ∀ x ∈ (eportOf s 0).streams, flowActive s x.flow = false) := by
  decide +kernel

theorem witness_EgressPortsAcceptAndSendRecords :
    (let s := withPort { port0 with queue := [(0, result)] }
     (eportOf s 0).running = true ∧ islandRuns s 54 = true ∧ (eportOf s 0).fill.length < 256 ∧
       (eportOf s 0).queue = (0, result) :: [] ∧ result.kind ≠ 1 ∧ (eportOf s 0).streams[0]? = some estream) ∧
    (let s := withPort { port0 with queue := [(0, { result with kind := 1 })] }
     (eportOf s 0).queue = (0, { result with kind := 1 }) :: []) ∧
    (eportOf (withPort { port0 with readB := [result] }) 0).readB = result :: [] ∧
    ((eportOf (withPort { port0 with fill := [result] }) 0).readB = [] ∧
      (eportOf (withPort { port0 with fill := [result] }) 0).fill = result :: []) ∧
    ((eportOf (withPort port0) 0).fill = [] ∧ (eportOf (withPort port0) 0).last = none ∧
      (eportOf (withPort { port0 with last := some result }) 0).last = some result) := by
  decide +kernel

/-! ### Graphs and the sequencer -/

/-- A SOURCE node of graph 0 on lane 0. -/
def sourceNode : Node := { dmaNode with kind := 4, descLen := 0, iter := 0, run := none }

/-- A node that runs on core 16. -/
def coreNode : Node := { dmaNode with kind := 2, unit := 16, iter := 0, run := none }

def withGraph (g : Graph) (ns : Tab Node) : State := { upDdr with graphs := [(0, g)], nodes := ns }

theorem witness_GraphCommandsStartHoldAndEdit_start :
    (let s := withGraph graph0 [(0, sourceNode)]
     Accepted 0x0302 hdr s ∧ Accepted 0x0301 hdr s ∧ tabGet? s.graphs 0 = some graph0 ∧ graph0.st = .loaded ∧
       [0].length = graph0.lanes.length ∧ ∀ e ∈ graph0.lanes.zip [0], e.1.remote = false → e.2 = 0) ∧
    (let g := { graph0 with st := .running }
     let s := withGraph g [(0, sourceNode)]
     Accepted 0x0303 hdr s ∧ tabGet? s.graphs 0 = some g ∧ g.st = .running ∧ g.holding = false ∧ g.stopping = false) ∧
    (let g := { graph0 with st := .running, holding := true }
     let s := { withGraph g [(0, sourceNode)] with mb := { up.mb with order := [.exec (rowRecord hdr 0x0303) (.graphHold 0)] } }
     tabGet? s.graphs 0 = some g ∧ g.holding = true ∧ g.stopping = false ∧ (∀ e ∈ nodesOf s 0, e.2.run = none) ∧
       (∀ l ∈ g.lanes, l.notices = [] ∧ ∀ e ∈ l.open_, iterDone s 0 0 e.1 = true) ∧ s.pool.flows = [] ∧
       waitingOn (.graphHold 0) 0 s.mb.order = some (0, rowRecord hdr 0x0303)) := by
  decide +kernel

theorem witness_GraphCommandsStartHoldAndEdit_held :
    (let g := { graph0 with st := .held }
     let s := withGraph g []
     Accepted 0x0304 hdr s ∧ Accepted 0x0306 hdr s ∧ Accepted 0x0307 hdr s ∧ tabGet? s.graphs 0 = some g ∧ g.st = .held ∧
       g.holding = false ∧ g.stopping = false) ∧
    (let e : List Byte := [1, 2, 5, 0, 0, 0, 0, 0] ++ leBytes 8 0 ++ leBytes 8 15
     let g := { graph0 with edits := [e] }
     g.st ≠ .running ∧ g.edits[0]? = some e ∧ editFits e 15 = true ∧ editFits e 16 = false ∧ fieldAt e 0 1 = 1) ∧ tabGet? up.graphs 15 = none := by
  decide +kernel

theorem witness_GraphCommandsStartHoldAndEdit_param :
    (let e : List Byte := [0, 1, 0, 0, 4, 0, 0, 0] ++ leBytes 8 1 ++ leBytes 8 255
     let g := { graph0 with edits := [e] }
     let y := { coreNode with unit := 0, descLen := 1 }
     let d : List Byte := [0x10, 0] ++ leBytes 2 0 ++ leBytes 4 8 ++ List.replicate 56 0
     let s := { withGraph g [(0, y)] with descs := [(0, d)] }
     g.edits[0]? = some e ∧ editFits e 16 = true ∧ fieldAt e 0 1 ≠ 1 ∧ tabGet? s.nodes (g.base + fieldAt e 2 2) = some y ∧
       descBad (putDesc s y (overlay (nodeDesc s 0) 4 (leBytes 1 16))) 0 y
         (nodeDesc (putDesc s y (overlay (nodeDesc s 0) 4 (leBytes 1 16))) 0) = none) := by
  decide +kernel

/-- A graph image of one lane and its SOURCE node (R207), with its CHECK. -/
def image : List Byte :=
  leBytes 4 0x48505247 ++ leBytes 2 1 ++ [1, 0] ++ leBytes 2 1 ++ List.replicate 6 0 ++ leBytes 4 128 ++ leBytes 4 16 ++
    leBytes 4 192 ++ leBytes 4 32 ++ List.replicate 40 0 ++ leBytes 4 256 ++ leBytes 4 16 ++ List.replicate 44 0 ++
    leBytes 4 3303726189 ++ padTo 64 ([1, 0] ++ leBytes 2 0 ++ leBytes 4 40000000) ++ padTo 64 [4, 2] ++ padTo 64 []

/-- GRAPH_LOAD of that image from 0x4000 as graph 0. -/
def loadPay : List Byte := padTo 64 (leBytes 8 0 ++ leBytes 8 0x4000 ++ leBytes 4 320)

def imageState : State := { upDdr with mem := memWrite [] 0x4000 image }

theorem witness_GraphLoadAdmitsOrChangesNothing_image :
    readStruct imageState 13 0 2 (fieldAt loadPay 8 8) (fieldAt loadPay 16 4) = (imageState, .ok, image) ∧ imageBad image = none := by
  have h1 : fieldAt loadPay 8 8 = 0x4000 := by decide +kernel
  have h2 : fieldAt loadPay 16 4 = image.length := by decide +kernel
  refine ⟨?_, ?_⟩
  · rw [h1, h2]
    refine readStruct_known imageState 13 0 2 0x4000 image.length image ?_ (by decide +kernel) (by decide +kernel) (by decide +kernel) rfl
    rw [imageState, memRead_memWrite]
  · rw [imageBad, crc32c_forced]
    decide +kernel

theorem witness_GraphLoadAdmitsOrChangesNothing :
    let a : LoadArgs := { g := 0, dom := 2, pay := loadPay, img := image, p := placesFor imageState image }
    Accepted 0x0300 hdr imageState ∧ imageState.eccBad = [] ∧ payloadBad imageState loadPay = none ∧ payFlows loadPay = 0 ∧
      (match loadCandidate imageState a [] with
       | .inl _ => false
       | .inr c => (tabGet? c.graphs 0).elim false (fun x =>
           ! resourcesFail c a.g (resourceList c a.g a.p x (graphCharge c a.g)) && (waitCycle c a.g).isNone &&
           bitAt (seasonMask x (scheduleAll c a.g x) (tokenShort (resourceList c a.g a.p x (graphCharge c a.g))))
             (seasonIdx imageState.power.season))) = true := by
  decide +kernel

/-! ### Cameras -/

/-- The frame store is open to domain 2 too, and nothing is written in memory. -/
def upCam : State :=
  { upDdr with
    fw := [(0, { base := 0, limit := 0xFF, rd := 0x0004, wr := 0x0004, en := true, lock := false }),
           (64, { base := 0x4000000, limit := 0x4017FFF, rd := 0x0004, wr := 0x0004, en := true, lock := false })] }

/-- A channel entry of pipeline 0: 16 × 2 pixels of RAW10, two slots in the frame store. -/
def cameraEntry : List Byte :=
  entry 2 0 ([0, 0x2B, 0, 0] ++ leBytes 2 16 ++ leBytes 2 2 ++ [2, 1, 0, 0] ++ leBytes 4 64 ++ leBytes 4 128 ++ leBytes 4 384 ++
    leBytes 8 fsBase ++ leBytes 8 (fsBase + 0x10000) ++ leBytes 8 0 ++ [0, 0, 0, 0] ++ leBytes 4 0 ++ leBytes 4 0 ++
    leBytes 4 1000 ++ leBytes 4 0 ++ leBytes 4 128 ++ leBytes 8 0 ++ leBytes 2 0)

/-- A parameter block of zeros. -/
def zeros : List Byte := List.replicate paramLen 0#8

/-- Pipeline 0 running with that body. -/
def pipe0 : Pipe :=
  { pipeReset with
    running := true, dom := 2, cfg := pipeCfgOf cameraEntry [], param := [] }

def withPipe (x : Pipe) : State := { upCam with pipes := [(0, x)] }

def frame0 : Frame :=
  { cnt := 0, gen := 0, param := [], flags := 0, tExp := 0, tFs := 0, linePeriod := 0, tUnc := 0, rcvd := 2,
    shortLines := 0, longLines := 0, crcLines := 0, codeErrs := 0, dpcCnt := 0, lines := [List.replicate 16 0, List.replicate 16 0], next := 0,
    ended := false, hist := [], zones := [] }

theorem paramReserved_zeros (n : Nat) : paramReserved (List.replicate n 0#8) = none := by
  simp [paramReserved, zeroAt_zeros]

theorem paramRange_zeros (n t : Nat) : paramRange (List.replicate n 0#8) 16 2 t = none := by
  have hf : ∀ l : List Nat, l.find? (fun _ => false) = none := fun l => by simp
  simp [paramRange, pBl, pThr, pCx, pCy, pTone, fieldAt_zeros, hf]

/-- A parameter block that can be read and is in range, without a defect list. -/
theorem readSetup_of (s : State) (dom chan : Nat) (e prm : List Byte)
    (hs : ∀ cls, readStruct s cls 0 dom (fieldAt e 48 8) paramLen = (s, .ok, prm)) (hr : paramReserved prm = none)
    (hp : paramRange prm (pipeCfgOf e []).width (pipeCfgOf e []).height (toneMax (pipeCfgOf e [])) = none) (hn : fieldAt e 88 2 = 0) :
    readSetup s dom chan e = (s, .inr (prm, [])) := by
  simp [readSetup, hs, hr, hp, hn, dpcEntries, dpcBad]

theorem readParam_of (s : State) (dom a : Nat) (x : Pipe) (prm : List Byte) (h0 : a ≠ 0) (hw : x.cfg.width ≠ 0)
    (hs : ∀ cls, readStruct s cls 0 dom a paramLen = (s, .ok, prm)) (hr : paramReserved prm = none)
    (hp : paramRange prm x.cfg.width x.cfg.height (toneMax x.cfg) = none) : readParam s dom x a = (s, .inr (some prm)) := by
  simp [readParam, h0, hw, hs, hr, hp]

theorem witness_CameraCommandsHaveTheirEffect_setup :
    readSetup (chan0 upCam cameraEntry) 2 0 cameraEntry = (chan0 upCam cameraEntry, .inr (zeros, [])) ∧
    readParam (withPipe pipe0) 2 pipe0 0x1000 = (withPipe pipe0, .inr (some zeros)) := by
  have h0 : fieldAt cameraEntry 48 8 = 0 := by decide +kernel
  have hw : (pipeCfgOf cameraEntry []).width = 16 := by decide +kernel
  have hh : (pipeCfgOf cameraEntry []).height = 2 := by decide +kernel
  refine ⟨readSetup_of _ 2 0 _ _ ?_ (paramReserved_zeros paramLen) ?_ (by decide +kernel),
    readParam_of _ 2 _ _ _ (by decide) (by decide +kernel) ?_ (paramReserved_zeros paramLen) ?_⟩
  · rw [h0]
    exact fun cls => readStruct_nil _ cls 0 2 0 paramLen rfl (by decide +kernel) (by decide +kernel) (by decide +kernel) rfl
  · rw [hw, hh]
    exact paramRange_zeros paramLen _
  · exact fun cls => readStruct_nil _ cls 0 2 0x1000 paramLen rfl (by decide +kernel) (by decide +kernel) (by decide +kernel) rfl
  · rw [show pipe0.cfg = pipeCfgOf cameraEntry [] from rfl, hw, hh]
    exact paramRange_zeros paramLen _

theorem witness_CameraCommandsHaveTheirEffect :
    (Accepted 0x0400 hdr up ∧ ((List.range 4).map (fun (i : Nat) => bitsAt 0xE4 (2 * i) 2)).Nodup) ∧
    (let s := chan0 upCam cameraEntry
     Accepted 0x0401 hdr s ∧ fetchEntry s 2 0 2 0 = (s, .inr cameraEntry) ∧
       pipeRange s cameraEntry = none ∧ fieldAt cameraEntry 2 2 = 0 ∧ keptBad (pipeOf s 0) (pipeCfgOf cameraEntry []) = none ∧
       footprintBad s 2 (pipeCfgOf cameraEntry []) = none ∧ (pipeOf s 0).running = false ∧ (pipeOf s 0).closing = none ∧
       islandRuns s 34 = true) := by
  decide +kernel

theorem witness_CameraCommandsHaveTheirEffect_running :
    (let s := withPipe pipe0
     Accepted 0x0402 hdr s ∧ Accepted 0x0403 hdr s ∧ (pipeOf s 0).running = true ∧ (pipeOf s 0).stopAt = none ∧
       frameOpen (pipeOf s 0) = false ∧ (pipeOf s 0).closing = none ∧ (pipeOf s 0).test = none ∧ (pipeOf s 0).testDue = none ∧
       frameOpen { pipe0 with cur := some frame0 } = true) ∧
    (Accepted 0x0404 hdr up ∧ 32 < 800 ∧ up.time + 40000 ≤ 40000) ∧
    (let s := withPipe pipe0
     Accepted 0x0405 hdr s ∧ readParam s 2 (pipeOf s 0) 0 = (s, .inr none) ∧
       readWrites s 2 0xFFFFC 1 = (s, .inr [(0, 0)]) ∧ ((pipeOf s 0).commits.filter (fun c => ! c.applied)).length < 4) ∧
    (Accepted 0x0406 hdr up ∧ islandRuns up 49 = true ∧ (portOf up 15).busWrite = false ∧ (portOf up 15).host = none ∧
      (portOf up 15).writers = [] ∧ (portOf up 15).hostQueue = []) ∧
    (portOf { up with ports := [(0, { portReset with busWrite := true })] } 0).busWrite = true := by
  decide +kernel

theorem witness_SensorsFillFramesAndPipelinesCompleteThem :
    (let s := withPipe pipe0
     portHears s 0 = true ∧ pipeOnVc s 0 0 = some 0 ∧ frameOpen (pipeOf s 0) = false ∧ slotFree s (pipeOf s 0).cfg 0 = true) ∧
    (let f := { frame0 with lines := [List.replicate 16 0], rcvd := 1 }
     let s := withPipe { pipe0 with cur := some f }
     portHears s 0 = true ∧ pipeOnVc s 0 0 = some 0 ∧ (pipeOf s 0).cfg.dt = 0x2B ∧ (pipeOf s 0).cur = some f ∧
       (List.replicate 16 1023).length = (pipeOf s 0).cfg.width ∧ f.lines.length < (pipeOf s 0).cfg.height ∧
       bufTakes s (pipeOf s 0) 16 16 = 16 ∧ ((pipeOf s 0).bufFill = 0 ∧ 12288 ≤ 12288) ∧
       (pipeOf s 0).closing = none ∧ (pipeOf s 0).stopAt = none) ∧
    (let s := withPipe { pipe0 with cur := some frame0 }
     islandRuns s 34 = true ∧ (pipeOf s 0).closing = none ∧ (pipeOf s 0).cur = some frame0 ∧
       lineReady (pipeOf s 0).cfg frame0 = true) ∧
    (let f := { frame0 with next := 2, ended := true }
     let s := withPipe { pipe0 with closing := some f, running := false }
     islandRuns s 34 = true ∧ (pipeOf s 0).closing = some f ∧ f.next = (pipeOf s 0).cfg.height ∧ (pipeOf s 0).running = false ∧
       accessStatus s (pipeOf s 0).dom true ((pipeOf s 0).cfg.statBase) 9280 = .ok) ∧
    (let s := withPipe { pipe0 with cur := some frame0, stopAt := some 400000 }
     (pipeOf s 0).stopAt = some 400000 ∧ (pipeOf s 0).cur = some frame0 ∧ (pipeOf s 0).closing = none) ∧
    (let q : PatTest := { gen := 0, param := [], frame := 0, start := 0 }
     let s := withPipe { pipe0 with testDue := some q }
     islandRuns s 34 = true ∧ (pipeOf s 0).testDue = some q ∧ (pipeOf s 0).closing = none ∧
       (pipeOf (withPipe { pipe0 with test := some q }) 0).test = some q) := by
  decide +kernel

/-- A loaded graph whose PYR node reads pipeline 0, with FLAG0 7, and its flag 7 is set for a reader. -/
def withReader : State :=
  { withPipe pipe0 with
    graphs := [(0, graph0)], nodes := [(0, { dmaNode with kind := 1, run := none })]
    descs := [(0, padTo 32 [1] ++ leBytes 8 fsBase ++ leBytes 4 64 ++ leBytes 4 128 ++ leBytes 4 384 ++ leBytes 2 16 ++ leBytes 2 2 ++
      [0, 3, 2, 1] ++ leBytes 2 7 ++ [0, 0])]
    flags := [(7, { frame := 0, pend := 1, cmask := 1 })] }

theorem witness_SensorsFillFramesAndPipelinesCompleteThem_full :
    portHears withReader 0 = true ∧ frameOpen (pipeOf withReader 0) = false ∧
      slotFree withReader (pipeOf withReader 0).cfg 0 = false ∧ slotFree withReader (pipeOf withReader 0).cfg 1 = true := by
  decide +kernel

def sched1 : TrigSched := { mode := 2, activeLow := true, start := 1000, period := 800, width := 32, count := 0 }

theorem witness_TriggersAndSensorBusesFollowTheirSchedules :
    (let s := { up with trigs := [(63, { trigReset with update := some sched1 })] }
     islandRuns s 49 = true ∧ (trigOf s 63).update = some sched1 ∧ (trigOf s 63).nextEdge = none ∧ 1000 = sched1.start) ∧
    (let s := { up with trigs := [(63, { trigReset with update := some sched1, sched := sched1, nextEdge := some 1000 })] }
     (trigOf s 63).nextEdge = some 1000 ∧ sched1.start ≤ 1000 ∧ (trigOf s 63).sched.mode ≠ 3) ∧
    (let s := { up with trigs := [(63, { trigReset with sched := sched1, nextEdge := some 1000 })] }
     islandRuns s 49 = true ∧ (trigOf s 63).nextEdge = some 1000 ∧ switchPoint (trigOf s 63) (atFirstLine s 63) = none ∧
       (pipeOf s 63).edges.length < 4 ∧ (trigOf s 63).pulseEnd = none ∧ (trigOf s 63).sched.mode ≠ 3) ∧
    (let y := { trigReset with sched := sched1, nextEdge := some 1000, pulseEnd := some 1000 }
     y.pulseEnd = some 1000 ∧ 1000 ≤ 1000 ∧ { y with pulseEnd := some 1001 }.pulseEnd = some 1001 ∧ 1000 < 1001 ∧
       switchPoint { y with sched := { sched1 with mode := 3 } } false = none ∧ ({ sched1 with mode := 3 }).mode = 3) ∧
    (let s := { up with trigs := [(63, { trigReset with sched := sched1, pulseEnd := some 1032 })] }
     islandRuns s 49 = true ∧ (trigOf s 63).pulseEnd = some 1032 ∧ (∀ o ∈ (trigOf s 63).laterEnds, o.1 ≤ 1032) ∧
       [(1040, Pin.lo)].filter (fun o => decide (1032 < o.1)) = (1040, Pin.lo) :: []) ∧
    (let c : Commit :=
       { gen := 1, param := none, writes := [(0, 0), (1, 1)], accepted := 0, kept := false, applied := false, st := .writing 0 }
     let s := { withPipe { pipe0 with commits := [c] } with ports := [(0, { portReset with busWrite := true, writers := [0] })] }
     (portOf s 0).busWrite = true ∧ (portOf s 0).writers.head? = some 0 ∧ islandRuns s 34 = true ∧
       nextWrites (pipeOf s 0) = some c ∧ c.st = .writing 0 ∧ 0 + 1 < c.writes.length) ∧
    (islandRuns up 49 = true ∧ up.ev.sink = none ∧ up.ev.fifo.length < 1024 ∧ up.ev.lost = 0) ∧
    (let x : I3cXfer := { addr := 16, read := true, len := 4, data := [] }
     let s := { up with ports := [(15, { portReset with host := some x })] }
     (portOf s 15).host = some x ∧ islandRuns s 49 = true ∧ (portOf s 15).writers = [] ∧ (portOf s 15).hostQueue = []) := by
  decide +kernel

theorem witness_GraphStopEndsEveryRun :
    (let g := { graph0 with st := .running }
     let s := withGraph g [(0, dmaNode)]
     Accepted 0x0305 hdr s ∧ tabGet? s.graphs 0 = some g ∧ g.st ≠ .loaded ∧ g.stopping = false ∧ 0 ∈ [0] ∧ dmaNode.run ≠ none) ∧
    (let g := { graph0 with st := .running, stopping := true }
     let s := withGraph g [(0, { dmaNode with run := none })]
     tabGet? s.graphs 0 = some g ∧ g.stopping = true ∧ graphIdle s 0 g = true) := by
  decide +kernel

/-- Graph 0 runs, and iteration 0 of lane 0 has been released at time 5 with frame counter 7. -/
def running0 : Graph := { graph0 with st := .running, lanes := [{ lane0 with open_ := [(0, 5, 7)] }] }

/-- An OBX engine node of cluster 0. -/
def obxNode : Node := { dmaNode with kind := 1, descLen := 4, iter := 0, run := none }
def obxDesc : Tab (List Byte) :=
  [(0, [6, 0, 0x10, 0, 0, 0, 0, 0, 0, 0, 0, 3] ++ leBytes 2 5 ++ [0, 0] ++ leBytes 8 0x8000 ++ leBytes 2 64 ++ List.replicate 38 0)]

theorem witness_SequencerReleasesStartsAndCompletes_source :
    (let g := { running0 with lanes := [{ lane0 with notices := [(5, 7)] }] }
     let s := withGraph g [(0, sourceNode)]
     (laneAt s 0 0).isSome = true ∧ tabGet? s.nodes lane0.source = some sourceNode ∧ sourceNode.kind = 4 ∧
       readyFor s lane0.source sourceNode = some (5, 7)) ∧
    (let s := withGraph running0 [(0, coreNode)]
     tabGet? s.nodes 0 = some coreNode ∧ readyFor s 0 coreNode = some (5, 7) ∧ unitTakes s 0 coreNode 5 = true) ∧
    (let s := { withGraph running0 [(0, obxNode)] with descs := obxDesc }
     tabGet? s.nodes 0 = some obxNode ∧ readyFor s 0 obxNode = some (5, 7) ∧ unitTakes s 0 obxNode 5 = true) := by
  decide +kernel

theorem witness_SequencerReleasesStartsAndCompletes_complete :
    (let r : NodeRun := { iter := 0, f := 7, rel := 5, start := 5, unitDone := true }
     let x := { coreNode with iter := 1, run := some r, edgeFirst := 0, edgeCnt := 1 }
     let s := { withGraph running0 [(0, x), (1, { coreNode with cnt0 := 1 })] with links := [(0, 1)] }
     tabGet? s.nodes 0 = some x ∧ x.run = some r ∧ watchPending s 0 r.f = false ∧ islandRuns s 1 = true ∧
       targetsOf s x = [1] ∧ ¬ (r.rel + 16 * nth x.lates (seasonIdx s.power.season) ≤ s.time) ∧
       r.rel + 16 * nth x.lates (seasonIdx s.power.season) ≤ 21) ∧
    (let p := { badPacket with type := 3, arg := 9, src := 77 }
     let s := { up with
       sems := [(9, { semReset with remote := true, sigDev := 77, graph := 0, waiter := some 0 })]
       inst := { up.inst with joined := true, arrived := [p] } }
     s.inst.arrived = [p] ∧ fwUp s = true ∧ p.type = 3 ∧ semBound (semOf s 9) = true ∧ (semOf s 9).remote = true ∧
       (semOf s 9).sigDev = p.src ∧ (semOf s 9).count < 0xFFFF) := by
  decide +kernel

theorem witness_SequencerReleasesStartsAndCompletes_deadlock :
    let x := { coreNode with waitFirst := 0, waitCnt := 1 }
    let s := { withGraph running0 [(0, x)] with
      links := [(0, 9)], sems := [(9, { semReset with graph := 0, waiter := some 0, signaler := some 0 })] }
    tabGet? s.nodes 0 = some x ∧ nextIter s x = some (5, 7) ∧ blockers s 0 x 7 = [(0, 9)] ∧
      (walk (registerNode s 0 x [(0, 9)]) 0 1024 [{ node := 0, nodes := [], res := [] }] [0]).isSome = true ∧
      x.reported = false := by
  decide +kernel

/-! ### The pool and the cores -/

/-- Flow 5 of graph 0, spawned by node 0, with eclass 2. -/
def flow5 : Flow := { flowOfEntry (List.replicate 96 0) 0 0 with ordered := true, eclass := 2, list := 8, listLen := 4, cycMax := 1000 }

def submission (cls : Nat) : Submission :=
  { node := 0, bytes := leBytes 4 0 ++ leBytes 2 5 ++ [BitVec.ofNat 8 cls] ++ List.replicate 9 0, f := 7, rel := 0 }

def item0 : PItem :=
  { acc := 0, seq := 0, eclass := 0, addr := 0, f := 7, rel := 0, void := false, status := .ok, dup := false, copies := [],
    first := none, done := false, slip := false, t := 0 }

def withPool (f : Flow) (subs : List Submission) : State :=
  { withGraph { graph0 with st := .running, pool := [16] } [(0, coreNode)] with
    pool := { up.pool with flows := [(5, f)], subs := subs } }

theorem witness_PoolAcceptsStartsAndReleases_accept :
    (let s := withPool flow5 [submission 2, submission 3]
     islandRuns s 1 = true ∧ itemFlow (submission 2).bytes = 5 ∧ tabGet? s.pool.flows 5 = some flow5 ∧ flow5.window.length < 1024 ∧
       itemReserved (submission 2).bytes = false ∧ (submission 2).node = flow5.spawner ∧
       itemClass (submission 2).bytes ≤ flow5.eclass ∧ flow5.eclass < itemClass (submission 3).bytes) ∧
    (let s := withPool flow5 []
     tabGet? { s.pool with subs := [submission 2], flows := [] }.flows (itemFlow (submission 2).bytes) = none) := by
  decide +kernel

theorem witness_PoolAcceptsStartsAndReleases_run :
    (let f := { flow5 with window := [item0] }
     let s := withPool f []
     (tabGet? s.graphs 0).isSome = true ∧ islandRuns s 1 = true ∧ firstStart s [16] (waitingItems s 0 false) = some (5, f, item0, 16)) ∧
    (let i := { item0 with copies := [{ core := 16, ended := true, done := false, post := none, status := .ok }] }
     let f := { flow5 with window := [i] }
     let s := withPool f []
     islandRuns s 1 = true ∧ endedOn s 16 = some (5, f, i) ∧ copyWaits i = false ∧ ∀ k ∈ i.copies, k.done = true ∨ (k.core = 16 ∧ k.ended = true)) ∧
    (let i := { item0 with done := true }
     let f := { flow5 with window := [i] }
     let s := withPool f []
     islandRuns s 1 = true ∧ formatterReady s 5 = true ∧ tabGet? s.pool.flows 5 = some f ∧ nextRelease f = some i) ∧
    Accepted 0x0900 hdr up ∧ Accepted 0x0901 hdr up ∧ coreHeld up 255 = false ∧ coreHeld (withPool flow5 []) 16 = true := by
  decide +kernel

/-- A unit of work of node 0 on core 16 that has begun, with its list at row 8. -/
def unit0 : CoreUnit :=
  { newUnit up 16 (.node 0) 0 0 7 8 4 1000 (List.replicate 12 0) 0 with begun := true }

/-- Core 16 runs that unit; its scratchpad holds these bytes at row 8 and those at row 32. -/
def withUnit (u : CoreUnit) (list rows : List Byte) : State :=
  { withGraph running0 [(0, { coreNode with run := some { iter := 0, f := 7, rel := 5, start := 5, unitDone := false } })] with
    cores := [(16, { coreReset with unit := some u })]
    mem := memWrite (memWrite [] (spmOf 16 + 512) list) (spmOf 16 + 2048) rows }

/-- An instruction: OP, RD, RA and the lower half. -/
def instr (op rd ra lo : Nat) : List Byte := leBytes 4 (op * 2 ^ 26 + rd * 2 ^ 21 + ra * 2 ^ 16 + lo)

/-- POST of row 40 as the record of row 32. -/
def postRec : List Byte := [0x0E] ++ List.replicate 15 0 ++ leBytes 2 40 ++ List.replicate 46 0

def postOp : CoreOp :=
  { issueNo := 0, vector := true, record := postRec, tds := [], started := false, pipe := 0, reads := [(40, 40)], writes := [],
    snap := List.replicate 32 0, snapBad := 0 }

theorem witness_CoresRunUnitsOfWork_scalar :
    (let s := withUnit { unit0 with begun := false } [] []
     (coreOf s 16).unit = some { unit0 with begun := false } ∧ islandRuns s 3 = true) ∧
    (∀ e ∈ [instr 0 0 0 0, instr 1 3 0 0, instr 9 3 0 0, instr 0x0A 3 0 0x8000, instr 0x0B 3 0 0xFFFF, instr 0x0C 3 0 1,
        instr 0x10 3 0 0, instr 0x13 4 0 8, instr 0x14 3 0 0x7FFF, instr 0x17 4 0 8, instr 0x18 0 0 1, instr 0x19 0 0 1,
        instr 0x1A 0 0 1, instr 0x1B 0 0 1, instr 0x1C 0 0 32],
      let s := withUnit unit0 e []
      plant [] s = s ∧ islandRuns s 3 = true ∧ s.eccBad = [] ∧ (coreOf s 16).unit = some unit0 ∧ unit0.begun = true ∧
        unit0.ended = false ∧ unit0.pendingIssue = none ∧ unit0.pc < unit0.listLen ∧
        64 * unit0.list + 4 * unit0.pc + 4 ≤ spmSize ∧ (∀ k < 32, sReg unit0 k < 2 ^ 32) ∧ unit0.regs.length = 32 ∧
        leBytes 4 (leNat (getBytes s (spmOf 16 + (64 * unit0.list + 4 * unit0.pc)) 4)) = e ∧ rowBusy unit0 0 true = false) := by
  decide +kernel

/-- SPAWN of row 40. -/
def spawnRec : List Byte := [0x0F] ++ List.replicate 15 0 ++ leBytes 2 40 ++ List.replicate 46 0

theorem witness_CoresRunUnitsOfWork_issue :
    (let u := { unit0 with pendingIssue := some 32 }
     let s := withUnit u [] spawnRec
     plant [] s = s ∧ meetRecord s 16 (64 * 32) = s ∧ (coreOf s 16).unit = some u ∧ islandRuns s 3 = true ∧
       u.pendingIssue = some 32 ∧ 32 < spmRows ∧ rangeBad s (spmOf 16 + 64 * 32) 64 = false ∧
       getBytes s (spmOf 16 + 64 * 32) 64 = spawnRec ∧ recordRefusal s 16 u spawnRec = none ∧ queueFull u true = false ∧
       queueFull { u with ops := List.replicate 16 postOp } true = true) ∧
    (let s := { withUnit { unit0 with pendingIssue := some 32 } [] spawnRec with marks := [(spmOf 16 / 64 + 32, 1)] }
     rangeBad s (spmOf 16 + 64 * 32) 64 = true) ∧
    (let u := { unit0 with pendingIssue := some 32 }
     recordRefusal (withUnit u [] []) 16 u (List.replicate 64 0xFF) ≠ none) ∧
    (let u := { unit0 with ops := [postOp] }
     let s := withUnit u [] []
     (coreOf s 16).unit = some u ∧ islandRuns s 3 = true ∧ u.ops[0]? = some postOp ∧ u.ops.findIdx? (fun o => o.vector == true && ! o.started) = some 0 ∧
       hazardFree (u.ops.take 0) postOp = true ∧ freePipe s 16 u postOp = some 0) ∧
    (let o := { postOp with vector := false, record := [1] ++ List.replicate 63 0 }
     let u := { unit0 with ops := [o] }
     u.ops.findIdx? (fun o => o.vector == false && ! o.started) = some 0 ∧ hazardFree (u.ops.take 0) o = true ∧
       arrayFree u = true) := by
  decide +kernel

theorem witness_CoresRunUnitsOfWork_complete :
    (let o := { postOp with started := true }
     let u := { unit0 with ops := [o] }
     let s := withUnit u [] []
     (coreOf s 16).unit = some u ∧ u.ops.find? (fun o => o.issueNo == 0 && o.started && ! opIsSpawn o) = some o ∧
       islandRuns s 3 = true ∧ recOpcode o.record = 0x0E ∧ u.posted = none) ∧
    recOpcode ([1] ++ List.replicate 63 0) ≠ 0x0E ∧
    (let o := { postOp with started := true, record := spawnRec }
     let u := { unit0 with ops := [o] }
     let s := withUnit u [] []
     let x : Submission := { node := 0, bytes := List.replicate 16 0, f := 7, rel := 5 }
     u.ops.find? (fun o => o.started && opIsSpawn o) = some o ∧ spawnItem s 16 u (fieldAt o.record 16 2) = some x ∧
       islandRuns s 1 = true ∧ islandRuns s 3 = true ∧ acceptable s x = true ∧
       meetRange (spmOf 16 + 64 * 40) 16 (plant [] s) = s) ∧
    (let u := { unit0 with ended := true }
     let s := withUnit u [] []
     (coreOf s 16).unit = some u ∧ u.begun = true ∧ u.ended = true ∧ u.ops = [] ∧ islandRuns s 3 = true ∧ u.work = .node 0 ∧
       (∃ y ∈ (tabGet? s.nodes 0).toList, y.run.isSome = true)) := by
  decide +kernel

def hdr0 : FrameHdr := { cnt := 0, gen := 0, flags := 0, tExp := 0, tUnc := 0, linePeriod := 0, eflags := 0 }

def engRun0 : EngRun :=
  { node := some 0, f := 7, tBegin := 0, desc := ((tabGet? obxDesc 0).getD []) ++ List.replicate 192 0, begun := true, stopping := false,
    hdrA := hdr0, hdrB := hdr0, stale := false, poison := false, coded := false, poisonGran := 0, objects := [], emitted := 0,
    lost := 0, maps := [], fails := [], ruleBad := [] }

def comp0 : Comp :=
  { firstX := 1, firstY := 1, pixels := [(1, 1), (2, 1)], sums := [4, 0, 0, 0], dispSum := 0, dispCnt := 0, poison := false,
    carried := false, spans := [hdr0], lastLine := [1], oflags := 0 }

def withEngine (e : Nat) (r : EngRun) : State :=
  { withFlow with
    graphs := [(0, running0)], engines := [(e, r)]
    nodes := [(0, { obxNode with run := some { iter := 0, f := 7, rel := 5, start := 5, unitDone := false } })]
    descs := obxDesc }

theorem witness_EnginesRunTheirNodes :
    (let r := { engRun0 with begun := false }
     let s := withEngine 5 r
     tabGet? s.engines 5 = some r ∧ r.node = some 0 ∧ r.stopping = false ∧ islandRuns s 18 = true ∧ unitStalled s 3 5 = false) ∧
    (let s := withEngine 5 engRun0
     tabGet? s.engines 5 = some engRun0 ∧ engRun0.node = some 0 ∧ engRun0.begun = true ∧ engRun0.stopping = false ∧ engRun0.objects = [] ∧ ∀ x ∈ s.pool.subs, x.node ≠ 0) ∧
    tabGet? (withEngine 95 { engRun0 with stopping := true }).engines 95 = some { engRun0 with stopping := true } ∧
    (let r := { engRun0 with objects := [comp0] }
     let s := withEngine 5 r
     tabGet? s.engines (6 * 0 + 5) = some r ∧ r.node = some 0 ∧ r.stopping = false ∧ islandRuns s 18 = true ∧
       unitStalled s 3 5 = false ∧ bitAt (fieldAt (overlay r.desc 2 [0]) 2 1) 4 = false ∧ r.objects = [comp0] ∧ fieldAt r.desc 11 1 = 3 ∧
       canEmit s r.desc 0 (tabGet 0 s.objNext 3) = true ∧ bitAt (fieldAt r.desc 2 1) 4 = true ∧
       accessStatus s (nodeDom s 0) true 0x8000 (objRecord r.desc comp0 0).bytes.length = .ok) := by
  decide +kernel

/-! ### The safety monitor, power and temperature -/

/-- A fallback table whose rules are all zeros, with its CHECK. -/
def fbcTable : List Byte := List.replicate 28 0 ++ leBytes 4 358870722 ++ List.replicate 2048 0

def fbcState : State := { upDdr with mem := memWrite [] 0x5000 fbcTable }

theorem witness_SafetyCommandsHaveTheirEffect_table :
    readStruct fbcState 13 0 2 0x5000 2080 = (fbcState, .ok, fbcTable) ∧
      crc32c (fbcTable.take 28 ++ fbcTable.drop 32) = fieldAt fbcTable 28 4 ∧ fbcReserved fbcTable = false ∧
      fbcParam fbcTable = false := by
  have hl : fbcTable.length = 2080 := by decide +kernel
  refine ⟨?_, ?_, by decide +kernel, by decide +kernel⟩
  · refine readStruct_known fbcState 13 0 2 0x5000 2080 fbcTable ?_ (by decide +kernel) (by decide +kernel) (by decide +kernel) rfl
    rw [fbcState, ← hl, memRead_memWrite]
  · rw [crc32c_forced]
    decide +kernel

/-- A policy of default values with its CHECK. -/
def policy0 : List Byte := List.replicate 28 0 ++ leBytes 4 (crc32c (List.replicate 28 0))

theorem witness_SafetyCommandsHaveTheirEffect :
    (Accepted 0x0500 hdr up ∧ policy0.length = 32 ∧ crc32c (policy0.take 28) = fieldAt policy0 28 4 ∧ policyReserved policy0 = none ∧
      policyParam policy0 = none ∧ up.graphs = []) ∧
    (∃ e ∈ (withGraph { graph0 with st := .held } []).graphs, e.2.st ≠ .loaded) ∧
    (Accepted 0x0501 hdr up ∧ Accepted 0x0502 hdr up ∧ ({ up.safety with policy := policy0 }).policy.length = 32) ∧
    (let c := { condNew 14 7 15 with st := .persistent }
     let s := { up with safety := { up.safety with conds := [c] } }
     Accepted 0x0503 hdr s ∧ 15 < kindCount 7 ∧ s.safety.conds.find? (isCond 14 7 15) = some c ∧ clearBlocked s c = false ∧
       clearBlocked s { c with level := true } = true) ∧
    (Accepted 0x0504 hdr fbcState ∧ pipeRead fbcState 63 = false) ∧
    (Accepted 0x0505 hdr up ∧ tabGet? [(63, [0])] 63 = some ([0] : List Byte)) := by
  decide +kernel

/-- Firmware runs; unit `u` of class `cls` has a golden run, started or not, in the interval in progress. -/
def withGolden (cls u : Nat) (started : Option Nat) : State :=
  { up with
    safety := { up.safety with golden := [{ goldenNew cls u with started := started }] }
    power := { up.power with budgets := [(unitGroup cls u, { budgetOf up 0 with safety := 4 })] } }

theorem witness_MonitorOpensCountsAndTests :
    (let c := { condNew 5 0 0 with st := .transient }
     c.st = .transient ∧ isClean up 0 c = true ∧ c.passes + 1 < polK up.safety.policy ∧
       polK up.safety.policy ≤ { c with passes := 1 }.passes + 1 ∧ isClean up 0 { c with level := true } = false) ∧
    (fwUp up = true ∧ up.ev.sink = none ∧ up.ev.fifo.length < 1024 ∧ up.ev.lost = 0 ∧ aonRuns up = true ∧ up.rst.tripped = false ∧
      islandRuns up 54 = true ∧ 200 < (-201 : Int).natAbs ∧ up.boot.fwReady = true) ∧
    ({ up.safety with pulseEnd := some 9 }).pulseEnd = some 9 ∧
    (let s := withGolden 3 95 none
     goldenDue s 3 95 = true ∧ s.time < intervalEnd s ∧ unitIdle s (3, 95) = true ∧ islandRuns s (islandOf 3 95) = true ∧
       unitStalled s 3 95 = false ∧ nodeBefore s 3 95 = false ∧ hasTokens s (unitGroup 3 95) .safety 1 = true) ∧
    (let s := withGolden 0 255 (some 0)
     goldenRuns s 0 255 = true ∧ s.time ≤ intervalEnd s ∧ islandRuns s (islandOf 0 255) = true ∧
       goldenLive s { goldenNew 0 255 with started := some 0 } = true) ∧
    (up.safety.monthTested = false ∧ up.safety.month % 12 < up.safety.deferrals.length ∧ up.safety.monthRunning = false ∧
      up.safety.month * polSlot up.safety.policy ≤ up.time ∧
      up.time + 8000 ≤ (up.safety.month + 1) * polSlot up.safety.policy ∧ up.nodes = [] ∧
      (let s := { up with power := { up.power with budgets := (List.range 32).map (fun g => (g, { budgetOf up 0 with safety := 64 })) } }
       holdsAll s (stallDraws s (s.safety.month % 12)) = true)) ∧
    ({ up.safety with monthRunning := true }).monthRunning = true := by
  decide +kernel

theorem witness_PowerFollowsSeasonCapAndHeat_reads :
    (let r := { moving with todo := [spmOf 16 / 64] }
     let x := { ring with run := some r }
     let s := { withRing x with fw := (0x110 * 64, { base := 0x4100800, limit := 0x410085F, rd := 4, wr := 4, en := true, lock := false })
       :: (withRing x).fw }
     islandHeld s 3 = false ∧ s.islands.getLsbD 3 = true ∧ runAt s 0 = some r ∧ (moverAt s 0).isSome = true ∧ r.busy = true ∧
       isRemote s (tdesc r.src) = false ∧ x.stopping = false ∧ r.todo.take x.tags = [spmOf 16 / 64] ∧
       accessStatus s x.dom false (spmOf 16) 64 = .ok ∧ mapTarget s (spmOf 16) 64 = some 0x110 ∧ targetIsland 0x110 = 3) := by
  decide +kernel

theorem witness_PowerFollowsSeasonCapAndHeat :
    (Accepted 0x0600 hdr up ∧ up.graphs = [] ∧ pFloor (seasonOf 3) ≤ up.power.nextCap ∧ up.power.changing = none) ∧
    (let s := withGraph { graph0 with mask := 1 } []
     (∀ e ∈ s.graphs, e.2.st ≠ .running) ∧ ∃ e ∈ s.graphs, bitAt e.2.mask 3 = false) ∧
    (let s := { up with power := { up.power with changing := some .winter } }
     fwUp s = true ∧ s.power.changing = some .winter) ∧
    (Accepted 0x0601 hdr up ∧ pFloor up.power.season ≤ 420 ∧ Accepted 0x0602 hdr up ∧ up.power.temps.length = 64 ∧
      Accepted 0x0603 hdr up ∧ Accepted 0x0604 hdr up ∧ Accepted 0x0605 hdr up) ∧
    (up.islands.getLsbD 54 = true ∧ islandHeld up 54 = false ∧
      islandHeld { up with eports := [(0, { eportReset with running := true })] } 54 = true ∧
      ({ up with islands := 1 } : State).islands.getLsbD 54 = false ∧ tabGet? up.dma 0 = none ∧ up.streams = []) ∧
    (up.rst.porstN = true ∧ aonPowered up = true ∧ (2000 : Int) ≤ 2000) ∧
    (aonRuns up = true ∧ up.rst.tripped = false ∧
      (1000 * up.power.nextCap < 421000 ∧ 0 < up.power.lambda) ∧
      (let p := { up.power with lambda := 0 }
       p.lambda = 0 ∧ floorKhz p.season < p.cgKhz) ∧
      (let p := { up.power with cgKhz := 243750, lambda := 15 }
       0 < 970 * p.nextCap ∧ hottest p < ((16 * p.th : Nat) : Int) - 48 ∧ p.cgKhz < 250000 ∧ p.lambda < 16)) := by
  decide +kernel

/-! ### Trace, counters, watches, debug -/

/-- The body of a trace channel in RING with a region of 64 KiB at 0. -/
def traceEntry : List Byte :=
  entry 5 7 ([0, 0] ++ leBytes 2 0xFFFF ++ leBytes 2 0xFFFF ++ leBytes 2 0 ++ leBytes 2 2047 ++ [0xFF, 1] ++ leBytes 2 0 ++ [0, 0] ++
    leBytes 4 0 ++ leBytes 4 65536)

def trace0 : TraceCh := { traceOfEntry traceEntry 0 2 with st := .running }

def withTrace (x : TraceCh) : State := { upDdr with trace := { up.trace with chans := [(7, x)] } }

def mark : TraceRec :=
  { t := 0, cls := 13, unit := 0, golden := false, u := 0, kind := 12, refLost := false, arg := 77, exts := [] }

theorem witness_TraceChannelsAndCountersFollowTheirCommands_start :
    let s := chan0 upDdr traceEntry
    Accepted 0x0700 hdr s ∧ fetchEntry s 2 0 5 0 = (s, .inr traceEntry) ∧ traceBody traceEntry = none ∧ fieldAt traceEntry 2 2 = 7 ∧
      traceActive (traceOf s 7) = false ∧ (traceOf s 7).dests = [] ∧ meetsChannel s 0 65536 = false ∧
      meetsDump s 64 0 65536 = false ∧ fieldAt traceEntry 48 8 = 0 ∧
      (ddrFit s (fun _ => cdiv (traceOfEntry traceEntry 0 2).spillRate 4)).1 = false := by
  decide +kernel

theorem witness_TraceChannelsAndCountersFollowTheirCommands :
    (let s := withTrace trace0
     Accepted 0x0701 hdr s ∧ Accepted 0x0702 hdr s ∧ Accepted 0x0703 hdr s ∧ traceActive (traceOf s 7) = true ∧
       (traceOf s 7).dests = [] ∧ bitAt (traceOf s 7).trig 0 = true ∧ (traceOf s 7).mode = 0 ∧
       (traceOf (withTrace { trace0 with dests := [1] }) 7).dests ≠ []) ∧
    (let x := { trace0 with mode := 2, st := .pre, triggered := true }
     traceActive x = true ∧ x.mode = 2 ∧ x.triggered = true) ∧
    (Accepted 0x0704 hdr up ∧ tabGet 0 up.trace.fifoLost (srcKey 13 0) = 0 ∧ fifoLen (tabGet [] up.trace.fifos (srcKey 13 0)) < 16) ∧
    (Accepted 0x0705 hdr up ∧ Accepted 0x0706 hdr up ∧ 0 < classUnits 10 ∧ up.trace.latches = []) ∧
    (let t := { trace0 with wr := 65520 }
     let s := { withTrace t with trace := { (withTrace t).trace with fifos := [(srcKey 13 0, [mark])] } }
     islandRuns s 1 = true ∧ tabGet [] s.trace.fifos (srcKey 13 0) = [mark] ∧
       (∀ j < 8, j ≠ 7 → traceActive (traceOf s j) = false) ∧ traceActive (traceOf s 6) = false ∧ t.st = .running ∧ t.mode = 0 ∧
       t.spillBase = 0 ∧ t.gapCnt = 0 ∧ mark.exts = [] ∧ recordCause t mark = none ∧ admits s t mark = true) ∧
    (let s := withTrace { trace0 with spillBase := 0x8000, dests := List.replicate 256 0 }
     plant [] s = s ∧ (traceOf s 7).spillBase ≠ 0 ∧ 256 ≤ (traceOf s 7).dests.length ∧ islandRuns s 1 = true ∧ islandRuns s 50 = true) := by
  decide +kernel

/-- A watch of tensor 0 of graph 0 at node 0, armed, with 16 slots at 0x8000. -/
def watchDef : List Byte :=
  padTo 64 ([63, 0] ++ leBytes 2 0 ++ leBytes 2 0 ++ leBytes 2 1 ++ [1, 0, 0, 0, 0, 0, 0, 0] ++ List.replicate 16 0 ++
    leBytes 8 0x8000 ++ leBytes 4 16)

def watched : Graph := { graph0 with lanes := [{ lane0 with latMax := 2000000 }], tensors := [overlay (tensor 0x3000 64 0) 3 [1]] }

def watch0 : Watch := watchOf watchDef 0 watched 2

/-- A core node with room before its deadline. -/
def watchedNode : Node := { coreNode with cnt0 := 1, depInit := 1, lates := [2000000, 2000000, 2000000, 2000000] }

theorem witness_WatchesAndTestAccessFollowTheirRegisters_set :
    let s := withGraph watched [(0, watchedNode)]
    Accepted 0x0707 hdr s ∧ fieldAt watchDef 1 1 = 0 ∧ tabGet? s.graphs 0 = some watched ∧ watched.st = .loaded ∧
      watchReserved watchDef = none ∧ watchBad s watched watchDef = none ∧ mapTarget s 0x8000 (192 * 16) = some 0 ∧
      fieldAt watchDef 32 8 = 0x8000 ∧ fieldAt watchDef 40 4 = 16 ∧ dumpArea watch0 = none ∧ sharesUsed s 16 < 224 ∧
      (ddrFit s (fun _ => watchDdr s watch0)).1 = false ∧
      bitAt (seasonMask watched (scheduleAll { s with watches := [(63, watch0)] } 0 watched) (fun _ => false))
        (seasonIdx s.power.season) = true := by
  decide +kernel

/-- A read of the oldest run of a watch on good memory, with no trace channel active: disarmed, and armed with its test on the
least element, which fires at the threshold −1 and not at 0. -/
theorem witness_WatchesAndTestAccessFollowTheirRegisters_read :
    let d := fun (thr : Int) => overlay watchDef 16 (leBytes 8 (unsignedOf 64 thr))
    let s := { withGraph watched [(0, coreNode)] with watches := [(63, { watch0 with armed := false, pending := [(0, 7)] })] }
    let td := watchTensor watched watchDef
    tabGet? s.watches 63 = some { watch0 with armed := false, pending := [(0, 7)] } ∧ islandRuns s 1 = true ∧
      (∀ c < 8, traceActive (traceOf s c) = false) ∧ s.trace.chans = [] ∧ (watchGrans td 16).all (fun k =>
        (firstBar s 2 false (gransOf (k * 64) 64)).isNone && ! rangeBad s (k * 64) 64) = true ∧ s.eccBad = [] ∧
      accessStatus s watch0.dom true 0x8000 192 = .ok ∧ watch0.armed = true ∧
      watchFires (d (-1)) (statsOf td.etype (watchElems s.mem td 16)) = true ∧
      watchFires (d 0) (statsOf td.etype (watchElems s.mem td 16)) = false := by
  decide +kernel

theorem witness_WatchesAndTestAccessFollowTheirRegisters_pins :
    (pinPowered up (.camTrig 63) && pinScanned (.camTrig 63)) = true ∧ pinPowered State.reset .doubtN = true ∧
      0x1FF % 256 ∉ [0x01, 0x02, 0x03, 0x04, 0x05, 0x06, 0x20] ∧ 0x101 % 256 ∈ [0x01, 0x02, 0x03, 0x04, 0x05, 0x06, 0x20] := by
  decide +kernel

theorem witness_WatchesAndTestAccessFollowTheirRegisters :
    (let s := { withGraph watched [(0, coreNode)] with watches := [(63, { watch0 with pending := [(0, 7)] })] }
     plant [] s = s ∧ Accepted 0x0708 hdr s ∧ Accepted 0x0709 hdr s ∧ (tabGet? s.watches 63).isSome = true ∧ tabGet? s.graphs 0 = some watched ∧
       watched.st = .loaded ∧ ({ watch0 with pending := [(0, 7)] }).pending = (0, 7) :: [] ∧ islandRuns s 1 = true) ∧
    (0xFF ∉ [0x01, 0x02, 0x03, 0x04, 0x05, 0x06, 0x20] ∧ Accepted 0x0905 hdr up ∧ Accepted 0x0906 hdr up) ∧
    (let s := { upDdr with tap := { upDdr.tap with dbgDomain := some 2 } }
     plant [] s = s ∧ s.tap.dbgBusy = false ∧ fwUp s = true ∧ s.tap.dbgDomain = some 2 ∧ bitAt (0x5000 + 1) 0 = true ∧ bitAt 0x5000 0 = false ∧
       8 * bitsAt 0x5001 3 45 = 0x5000 ∧ accessStatus s 2 true 0x5000 8 = .ok ∧ accessStatus s 2 false 0x5000 8 = .ok ∧
       0x5000 + 8 ≤ nodeBase ∧ upDdr.tap.dbgDomain = none ∧ ({ s.tap with dbgBusy := true }).dbgBusy = true) := by
  decide +kernel

/-! ### Links and the installation -/

def peer1 : PeerConfig := { id := 5, joined := true, inRom := false, tstate := 2, depth := 0, port := 3 }

/-- Port 11 in a state, and the device joined with id 9. -/
def withLink (l : LinkPort) : State :=
  { upDdr with
    lports := [(11, l)]
    inst := { up.inst with joined := true, id := 9 } }

def lactive : LinkPort := { lportReset with st := .active, chan := some 0, peer := some peer1 }

def linkEntry : List Byte := entry 4 11 [1, 0, 0, 0]

/-- A window of a granule at 0x1000, open, in epoch 3. -/
def window0 : Window := { base := 0x1000, length := 64, open_ := true, epoch := 3, closedSeen := [], closedCount := 0 }

theorem witness_LinkCommandsHaveTheirEffect :
    (let s := chan0 up linkEntry
     Accepted 0x0800 hdr s ∧ fetchEntry s 2 0 4 0 = (s, .inr linkEntry) ∧ linkBody linkEntry = none ∧ fieldAt linkEntry 2 2 = 11 ∧
       linkActive (lportOf s 11) = false ∧ portClock s 11 = true ∧ bitAt (fieldAt linkEntry 8 1) 0 = true ∧ s.lports = [] ∧
       ∀ x ∈ s.lports, x.1 ≠ 11 → x.2.timeParent = false) ∧
    (Accepted 0x0801 hdr up ∧ Accepted 0x0802 hdr up) ∧
    (Accepted 0x0803 hdr up ∧ 1023 + 1 ≤ 1024 ∧ ([0xFB, 0xFF, 0xFF, 0xFF] : List Byte).length = 4 * cdiv 1 8 ∧
      routeNibble [0xFB, 0xFF, 0xFF, 0xFF] 0 = 11) ∧
    Accepted 0x0804 hdr up ∧
    (Accepted 0x0805 hdr up ∧ 1 ≤ linkLimit - (linkUsed up (linkKey 11 1) - tabGet 0 up.inst.reserve (linkKey 11 1))) := by
  decide +kernel

theorem witness_LinkCommandsHaveTheirEffect_windows :
    (Accepted 0x0806 hdr up ∧ (2 ^ 48 - 4096) % 4096 = 0 ∧ Accepted 0x0807 hdr up ∧ Accepted 0x0808 hdr up ∧
      windowAt { up with inst := { up.inst with windows := [(255, window0)] } } 255 = some window0) ∧
    (Accepted 0x0809 hdr up ∧ Accepted 0x080A hdr up ∧ up.inst.joined = false ∧ hasParent up = false ∧
      hasParent { up with lports := [(0, { lactive with timeParent := true })] } = true) := by
  decide +kernel

theorem witness_LinkCommandsHaveTheirEffect_requests :
    (let s := withLink lactive
     Accepted 0x080B hdr s ∧ (lportOf s 11).st = .active ∧ freeTag s = some 0) ∧
    (let s := { withLink lactive with inst := { (withLink lactive).inst with routes := [(5, 11)] } }
     Accepted 0x080C hdr s ∧ relayRefused (List.replicate 32 0) = false ∧ pathRefusal s 5 = none ∧ freeTag s = some 0 ∧
       s.inst.tagWait = [] ∧ { s.inst with tagWait := [{ txn := cmdTxn 5 0x06 none, pkts := [], port := none }] }.tagWait ≠ []) ∧
    Accepted 0x080D hdr up ∧
    (let s := withLink lactive
     Accepted 0x0810 hdr s ∧ 11 ∉ s.inst.relayPorts ∧ s.inst.tagWait = [] ∧ freeTag s = some 0 ∧ (lportOf s 11).st = .active ∧
       readStruct s 13 0 2 0x1000 64 = (s, .ok, List.replicate 64 0)) ∧
    11 ∈ ({ up.inst with relayPorts := [11] }).relayPorts := by
  decide +kernel

/-- A head flit of a packet without data for device 9. -/
def headBytes0 : List Byte := [0x80, 0] ++ leBytes 2 9 ++ List.replicate 28 0

theorem witness_PortsTrainCarryAndLoseTheLink :
    (portIn (withLink { lportReset with st := .detect }) 11 .detect = true ∧ portIn (withLink { lportReset with st := .eq }) 11 .eq = true ∧
      portIn (withLink { lportReset with st := .align }) 11 .align = true ∧
      portIn (withLink { lportReset with st := .config }) 11 .config = true) ∧
    (let s := withLink { lportReset with st := .eq }
     portClock s 11 = true ∧ (lportOf s 11).st ∈ [LState.eq, LState.align, LState.config]) ∧
    (portIn (withLink lactive) 11 .active = true ∧ lossCause (lportOf (withLink lactive) 11) 0 = true ∧
      lossCause { lactive with crcRun := 16 } 1 = true ∧ lossCause { lactive with crcRun := 15 } 1 = false) ∧
    (let x := mkFlit 4 0 0 (headCheck headBytes0) headBytes0
     let k := packetOf x.payload [] []
     x.crc = flitCrc x.kind x.vc x.seq x.check x.payload ∧ x.seq = lactive.rxExp ∧ lactive.rxPart = [] ∧
       x.check = headCheck x.payload ∧ k.dst = 9 ∧ lactive.nakSent = false ∧
       x.crc ≠ flitCrc x.kind x.vc x.seq x.check x.payload ^^^ 0xFFFFFFFF ∧
       x.crc ^^^ 1 ≠ flitCrc x.kind x.vc x.seq x.check x.payload ∧
       x.crc ^^^ 1 ≠ flitCrc x.kind x.vc x.seq x.check x.payload ^^^ 0xFFFFFFFF) ∧
    (let h : HeldFlit := { flit := mkFlit 4 1 0 0 headBytes0, pkt := badPacket, resent := 0 }
     let l := { lactive with replay := [h], ackOwed := true }
     (lportOf (withLink l) 11).outQ = [] ∧ ctrlOwed l = true ∧ l.replay ≠ [] ∧ (withLink l).ev.sink = none) := by
  decide +kernel

/-- The head of a packet for device 5, which the route of port 11's device leads to port 3. -/
def headBytes5 : List Byte := [0x81, 0] ++ leBytes 2 5 ++ List.replicate 28 0

theorem witness_PortsTrainCarryAndLoseTheLink_flits :
    (let n := { mkFlit 5 1 0 0 headBytes0 with crc := flitCrc 5 1 0 0 headBytes0 }
     flitMisaligned n = true ∧ flitMisaligned (mkFlit 5 0 0 0 headBytes0) = false ∧ flitMisaligned (mkFlit 6 2 0 0 headBytes0) = false ∧
       portIn (withLink lactive) 11 .active = true ∧ plant [] (withLink lactive) = withLink lactive) ∧
    (let x := mkFlit 1 0 0 (headCheck headBytes0) headBytes0
     let s := withLink lactive
     x.kind = 1 ∧ x.seq = lactive.rxExp ∧ lactive.rxPart = [] ∧ x.check = headCheck x.payload ∧
       routeHead s (packetOf x.payload [] []) = .here) ∧
    (let x := mkFlit 2 0 1 0 headBytes0
     let l := { lactive with rxExp := 1, rxPart := [mkFlit 1 0 0 0 headBytes0], rxRoute := .here }
     x.kind = 2 ∧ x.seq = l.rxExp ∧ l.rxPart ≠ [] ∧ l.rxRoute = .here) ∧
    (let x := mkFlit 4 0 0 (headCheck headBytes5) headBytes5
     let s := { withLink lactive with
       lports := [(3, lactive), (11, lactive)]
       inst := { (withLink lactive).inst with routes := [(5, 3)] } }
     routeHead s (packetOf x.payload [] []) = .forward 3 ∧ x.check = headCheck x.payload ∧ (lportOf s 3).cur = none ∧
       (lportOf s 3).outQ = [] ∧ canSend (lportOf s 3) x.vc = true ∧ lactive.cur = none ∧ lactive.outQ = []) := by
  decide +kernel

/-- The packet at a device that has joined. -/
def withArrived (p : Packet) : State :=
  { withLink lactive with
    inst := { (withLink lactive).inst with windows := [(0, window0)], arrived := [p] } }

def writePacket : Packet := { badPacket with addr := 0x1000, epoch := 3, be := 2 ^ 64 - 1, data := [List.replicate 64 1] }

theorem witness_ArrivedPacketsAreServed :
    (let s := withArrived writePacket
     let cells := (packetCells writePacket).1
     plant [] s = s ∧ takesRequests s = true ∧ windowAt s writePacket.win = some window0 ∧ window0.epoch = writePacket.epoch ∧ cellSpan cells = (0x1000, 64) ∧
       inRange 0x1000 64 window0.base window0.length = true ∧ accessStatus s 2 true 0x1000 64 = .ok ∧
       window0.epoch ≠ { writePacket with epoch := 2 }.epoch ∧ takesRequests up = false) ∧
    (let s := withArrived { badPacket with type := 2, addr := 0x1000 }
     accessStatus s 2 false 0x1000 64 = .ok ∧ accessStatus s 3 false 0x1000 64 = .denied ∧
       accessStatus s 2 true window0.base window0.length = .ok) ∧
    (let s := { up with
       rst := { up.rst with bootSrc := 1 }
       boot := { up.boot with phase := 1, received := 0, srcPort := none } }
     romTakes s 3 = true ∧ 0 = s.boot.received ∧ s.boot.received < 64 ∧ 64 + 64 ≤ cpSize ∧ romTakes up 3 = false ∧
       ({ s.boot with phase := 0xFF }).phase = 0xFF) ∧
    (let s := { up with
       rst := { up.rst with bootSrc := 1 }
       boot := { up.boot with phase := 3, srcPort := some 3, verifying := true } }
     s.rst.bootSrc = 1 ∧ s.boot.phase ≠ 4 ∧ s.boot.phase ≠ 5 ∧ s.boot.phase ≠ 0xFF ∧ s.boot.srcPort = some 3 ∧ s.boot.verifying = true ∧
       ({ s.boot with verifying := false }).verifying = false) ∧
    (fwUp up = true ∧ up.inst.joined = false ∧ (withLink lactive).inst.joined = true ∧ (withLink lactive).ev.fifo.length < 1024 ∧
      (withLink lactive).ev.lost = 0) := by
  decide +kernel

theorem witness_ArrivedPacketsAreServed_responses :
    tabGet? up.inst.txns 0 = none ∧
    (let x := cmdTxn 5 0x09 (some (.idAssign 0))
     let s := { withLink lactive with inst := { (withLink lactive).inst with txns := [(0, x)] } }
     tabGet? s.inst.txns 0 = some x ∧ badPacket.gen = s.inst.gen ∧ x.kind = 0x09 ∧ x.chan = none ∧ x.wait = some (.idAssign 0)) ∧
    (let x := cmdTxn 5 0x06 (some (.relay 0))
     x.kind = 0x06 ∧ x.chan = none ∧ x.wait = some (.relay 0) ∧ bitAt { badPacket with pflags := 2 }.pflags 1 = true) ∧
    (let x := { cmdTxn 5 0x01 none with chan := some 0 }
     let c := { ring with run := some { moved with writes := 1 } }
     let s := { withRing c with inst := { up.inst with txns := [(0, x)] } }
     tabGet? s.inst.txns 0 = some x ∧ x.kind = 0x01 ∧ x.chan = some 0 ∧ runAt s 0 = c.run ∧ (moverAt s 0).isSome = true ∧
       s.inst.tagWait = []) := by
  decide +kernel

def timeMsg0 : TimeMsg :=
  { tTx := 100, tTxFr := 0, tstate := 2, depth := 0, xseq := 0, eSeq := 7, eRxFr := 0, eTxFr := 0, eRx := 90, eTx := 0 }

def timeParent0 : LinkPort := { lactive with timeParent := true, peerTime := some (timeMsg0, 0, 0), thetas := List.replicate 16 0 }

theorem witness_InstallationTimeFollowsItsParent :
    (portIn (withLink lactive) 11 .active = true ∧ 1 ≤ creditsOf (lportOf (withLink lactive) 11) 2) ∧
    (let l := { lactive with lastTime := some { timeMsg0 with tTx := 0, xseq := 7 } }
     (lportOf (withLink l) 11).lastTime ≠ none ∧ echoesOwn l timeMsg0 = true ∧ followsLast l timeMsg0 = true ∧
       echoesOwn l { timeMsg0 with eSeq := 5 } = false) ∧
    (let s := withLink timeParent0
     Accepted 0x080E hdr s ∧ parentPort s = some 11 ∧ (lportOf s 11).st = .active ∧ timeMayStep s = true ∧
       (lportOf s 11).thetas.length = 16 ∧ parentLocked (lportOf s 11) = true ∧ thetaSmall (lportOf s 11) = true ∧
       holdoverCause { timeParent0 with skipRun := 8 } 1 = true) ∧
    ({ up.inst with joinWait := true, tstate := .acquiring }).tstate = .acquiring ∧
    (let s := withLink lactive
     Accepted 0x080F hdr s ∧ isRoot s = true ∧ 0 < ppsPeriod ∧
       (isRoot s && ({ s.inst with ppsOn := true }).ppsOn) = true ∧ (isRoot s && s.inst.ppsOn) = false ∧ s.inst.ppsLost = false) := by
  decide +kernel

/-! ### The invariant and the way of a run -/

theorem witness_EveryStepKeepsTheInvariant :
    (Memory.wf (upDdr.mem) = true ∧ Marks.wf upDdr.marks = true ∧ upDdr.ev.fifo.length ≤ 1024 ∧ upDdr.mb.history.length ≤ 16 ∧
      (∀ e ∈ upDdr.trace.fifos, fifoLen e.2 ≤ 16) ∧ upDdr.islands.getLsbD 0 = true) ∧
    step { upDdr with pending := [.hotJoin 0] } = .next upDdr := by
  refine ⟨by decide +kernel, rfl⟩

end Sys2Proof.Tests
end

section
/-! PROOFS. The doorbell of the mailbox (R72): what it does in each state of the record before it, and O9. -/

namespace Sys2Proof.Machine

open Sys2Proof

theorem exec_mbDoorbellWrite (value : Nat) (s : State) :
    exec (.mbDoorbellWrite value) s = .next (doMbDoorbellWrite value s) := rfl

/-- The doorbell that ends a discarded record only ends the discarding (R71). -/
theorem doMbDoorbellWrite_of_discarding {s : State} (value : Nat) (hup : fnUp s 1 = true)
    (hd : s.mb.discarding = true) :
    doMbDoorbellWrite value s = { s with mb := { s.mb with discarding := false } } := by
  simp [doMbDoorbellWrite, hup, hd]

/-- With no byte written since the last doorbell, a LEN other than 0 differs from what was written (R72). -/
theorem doMbDoorbellWrite_of_noPart {s : State} {value : Nat} (hup : fnUp s 1 = true) (hd : s.mb.discarding = false)
    (hp : s.mb.part = none) (hlen : value % 2 ^ 17 ≠ 0) :
    doMbDoorbellWrite value s = { s with mb := { s.mb with lenErr := true } } := by
  simp only [doMbDoorbellWrite, hup, hd, hp, if_neg hlen, Bool.not_true, Bool.false_eq_true, if_false]

/-- A LEN other than the number of bytes written discards the record and sets LEN_ERR (R72). -/
theorem doMbDoorbellWrite_of_wrongLength {s : State} {value : Nat} {p : List Byte} (hup : fnUp s 1 = true)
    (hd : s.mb.discarding = false) (hp : s.mb.part = some p) (hlen : value % 2 ^ 17 ≠ p.length) :
    doMbDoorbellWrite value s = { s with mb := { s.mb with part := none, lenErr := true } } := by
  simp only [doMbDoorbellWrite, hup, hd, hp, if_pos hlen, Bool.not_true, Bool.false_eq_true, if_false]

/-- Settles O9, by whether a record stands before the doorbell. -/
theorem doorbellWithWrongLengthSetsLenErr : Obligations.DoorbellWithWrongLengthSetsLenErr := by
  intro s value hup
  refine ⟨fun hd hlen => ?_, fun hd => ?_⟩
  · rw [exec_mbDoorbellWrite]
    cases hp : s.mb.part with
    | none =>
      rw [hp] at hlen
      rw [doMbDoorbellWrite_of_noPart hup hd hp hlen, ← hp]
    | some p =>
      rw [hp] at hlen
      rw [doMbDoorbellWrite_of_wrongLength hup hd hp hlen]
  · rw [exec_mbDoorbellWrite, doMbDoorbellWrite_of_discarding value hup hd]

end Sys2Proof.Machine
end

section
/-! PROOFS. The event FIFO of function 3 (R75, R76): how a record joins it, how a read takes the first record and lets
EVENTS_LOST in, and O14. -/

namespace Sys2Proof.Machine

open Sys2Proof

/-! ### Bytes of a record -/

@[simp] theorem length_leBytes (k n : Nat) : (leBytes k n).length = k := by
  induction k generalizing n with
  | zero => rfl
  | succ k ih => simp [leBytes, ih]

@[simp] theorem length_padTo (k : Nat) (bs : List Byte) : (padTo k bs).length = k := by
  simp only [padTo, List.length_append, List.length_take, List.length_replicate]
  omega

theorem padTo_of_length {k : Nat} {bs : List Byte} (h : bs.length = k) : padTo k bs = bs := by
  simp [padTo, ← h]

@[simp] theorem length_evBytes (e : EvRec) : (evBytes e).length = 32 := by
  simp [evBytes]

/-! ### A record joins -/

theorem pushEvent_of_space {s : State} (e : EvRec) (hspace : s.ev.fifo.length < 1024) (hlost : s.ev.lost = 0) :
    pushEvent s e = { s with ev := { s.ev with fifo := s.ev.fifo ++ [e] } } := by
  simp [pushEvent, hspace, hlost]

theorem pushEvent_of_full {s : State} (e : EvRec) (hfull : 1024 ≤ s.ev.fifo.length) :
    pushEvent s e = { s with ev := { s.ev with lost := s.ev.lost + 1 } } := by
  simp [pushEvent, Nat.not_lt.mpr hfull]

theorem insertLost_of_noneLost {s : State} (hlost : s.ev.lost = 0) : insertLost s = s := by
  simp [insertLost, hlost]

/-- The EVENTS_LOST record of a FIFO that has dropped records: COUNT is how many, at most 2^32 - 1 (R76). -/
def lostRecord (s : State) : EvRec := mkEvent s 0x0002 11 0 (leBytes 4 (satTo 32 s.ev.lost))

theorem insertLost_of_space {s : State} (hlost : 0 < s.ev.lost) (hspace : s.ev.fifo.length < 1024) :
    insertLost s =
      { s with ev := { s.ev with fifo := s.ev.fifo ++ [lostRecord s], lost := 0, eseq := s.ev.eseq + 1 } } := by
  have hcond : ¬ (s.ev.lost = 0 ∨ 1024 ≤ s.ev.fifo.length) := by omega
  rw [insertLost, if_neg hcond, lostRecord]

/-! ### A read -/

theorem exec_eventRecordRead (count : Nat) (s : State) :
    exec (.eventRecordRead count) s = .next (doEventRecordRead count s) := rfl

theorem readEvents_zero (l : List EvRec) (pos : Nat) : readEvents l pos 0 = (l, pos, []) := by
  cases l <;> rfl

/-- A read of exactly the bytes left of the first record takes that record and stops before the next. -/
theorem readEvents_restOfFirst {pos count : Nat} (e : EvRec) (rest : List EvRec) (hend : pos + count = 32)
    (hpos : 0 < count) : readEvents (e :: rest) pos count = (rest, 0, (evBytes e).drop pos) := by
  have hleft : count - (32 - pos) = 0 := by omega
  simp [readEvents, hend, Nat.ne_of_gt hpos, hleft, readEvents_zero]

/-- The state after such a read, before the count of dropped records is reported. -/
def afterFirstRead (s : State) (e : EvRec) (rest : List EvRec) : State :=
  { s with ev := { s.ev with fifo := rest, pos := 0 }, sdio := { s.sdio with data := (evBytes e).drop s.ev.pos } }

theorem doEventRecordRead_restOfFirst {s : State} {count : Nat} {e : EvRec} {rest : List EvRec}
    (hup : fnUp s 3 = true) (hfifo : s.ev.fifo = e :: rest) (hend : s.ev.pos + count = 32) (hpos : 0 < count) :
    doEventRecordRead count s = insertLost (afterFirstRead s e rest) := by
  have hdata : ((evBytes e).drop s.ev.pos).length = count := by
    rw [List.length_drop, length_evBytes]
    omega
  simp only [doEventRecordRead, hup, hfifo, readEvents_restOfFirst e rest hend hpos, padTo_of_length hdata,
    Bool.not_true, Bool.false_eq_true, if_false, afterFirstRead]

/-- Settles O14. The read clause splits on whether records were dropped: then the space that the read makes goes to
EVENTS_LOST. -/
theorem fullEventFifoCountsAndReports : Obligations.FullEventFifoCountsAndReports := by
  refine ⟨fun s e => pushEvent_of_space e, fun s e => pushEvent_of_full e, ?_⟩
  intro s count e rest hup hfifo hfull hend hpos
  rw [exec_eventRecordRead, doEventRecordRead_restOfFirst hup hfifo hend hpos]
  refine ⟨_, rfl, ?_⟩
  have hspace : (afterFirstRead s e rest).ev.fifo.length < 1024 := by
    rw [hfifo, List.length_cons] at hfull
    exact hfull
  rcases Nat.eq_zero_or_pos s.ev.lost with hnone | hsome
  · have hlost : (afterFirstRead s e rest).ev.lost = 0 := hnone
    rw [insertLost_of_noneLost hlost]
    exact ⟨rfl, rfl, rfl, hnone, fun _ => rfl, fun h => absurd hnone (Nat.ne_of_gt h)⟩
  · have hlost : 0 < (afterFirstRead s e rest).ev.lost := hsome
    rw [insertLost_of_space hlost hspace]
    exact ⟨rfl, rfl, rfl, rfl, fun h => absurd h (Nat.ne_of_gt hsome), fun _ => ⟨lostRecord (afterFirstRead s e rest), rfl, rfl, rfl⟩⟩

end Sys2Proof.Machine
end

section
/-! PROOFS. The result record of an egress stream: T_ACT and its clamp (R409) with O34, and the bytes of a record with the
code over them (R410, R411) with O35. -/

namespace Sys2Proof.Machine

open Sys2Proof

/-! ### T_ACT -/

/-- The model's two's complement reading of a number is that of the bit vector. -/
theorem signedOf_eq_toInt (w n : Nat) : signedOf (w + 1) n = (BitVec.ofNat (w + 1) n).toInt := by
  have hhalf : n % 2 ^ (w + 1) < 2 ^ w ↔ 2 * (n % 2 ^ (w + 1)) < 2 ^ (w + 1) := by omega
  simp only [signedOf, BitVec.toInt_eq_toNat_cond, BitVec.toNat_ofNat, Nat.add_sub_cancel, hhalf]
  norm_cast

/-- The clamp of R409 followed by the code of 32 bits loses nothing: the clamped value fits the field. -/
theorem unsignedOf_clampInt (v : Int) :
    (unsignedOf 32 (clampInt v 0 4294967295) : Int) = max 0 (min v 4294967295) := by
  simp only [unsignedOf, clampInt]
  omega

/-- T_ACT before the clamp: POST AUX counts for a result that is neither void nor in error (R409). -/
def actTicks (x : EStream) (r : Released) : Int :=
  x.actDelay + if x.actAux = true ∧ (r.void || r.err) = false then (BitVec.ofNat 32 r.post.aux).toInt else 0

theorem actOf_eq (x : EStream) (r : Released) :
    actOf x r = (unsignedOf 32 (clampInt (actTicks x r) 0 4294967295),
      decide (actTicks x r < 0) || decide (4294967295 < actTicks x r)) := by
  simp [actOf, actTicks, signedOf_eq_toInt, and_assoc]

@[simp] theorem buildRecord_priVoid (x : EStream) (st : Stub) (r : Released) :
    (buildRecord x st r).priVoid = (r.void || r.err) := rfl

theorem buildRecord_tAct (x : EStream) (st : Stub) (r : Released) :
    ((buildRecord x st r).tAct : Int) = max 0 (min (actTicks x r) 4294967295) := by
  have htAct : (buildRecord x st r).tAct = (actOf x r).1 := rfl
  rw [htAct, actOf_eq, unsignedOf_clampInt]

theorem buildRecord_actSat (x : EStream) (st : Stub) (r : Released) :
    (buildRecord x st r).actSat = true ↔ actTicks x r < 0 ∨ 4294967295 < actTicks x r := by
  have hactSat : (buildRecord x st r).actSat = (actOf x r).2 := rfl
  rw [hactSat, actOf_eq, Bool.or_eq_true, decide_eq_true_iff, decide_eq_true_iff]

/-- Settles O34, by where the sum lies: in the range of the field, below it or above it. -/
theorem actuationDelayIsClamped : Obligations.ActuationDelayIsClamped := by
  intro x st r v
  have hv : v = actTicks x r := rfl
  have htAct := buildRecord_tAct x st r
  have hactSat := buildRecord_actSat x st r
  rw [← hv] at htAct hactSat
  refine ⟨fun hlo hhi => ⟨by omega, ?_⟩, fun hneg => ⟨by omega, hactSat.mpr (.inl hneg)⟩,
    fun hbig => ⟨by omega, hactSat.mpr (.inr (by omega))⟩⟩
  rw [← Bool.not_eq_true, hactSat]
  omega

/-! ### Fields of a byte string -/

theorem leNat_leBytes (k n : Nat) : leNat (leBytes k n) = n % 2 ^ (8 * k) := by
  induction k generalizing n with
  | zero => simp [leBytes, leNat, Nat.mod_one]
  | succ k ih =>
    have hpow : 2 ^ (8 * (k + 1)) = 256 * 2 ^ (8 * k) := by rw [Nat.mul_succ, Nat.pow_add, Nat.mul_comm]
    rw [leBytes, leNat, ih, hpow, Nat.mod_mul, byteOf, BitVec.toNat_ofNat]

/-- A field that was laid down whole reads back as its number, cut to its width (R3). -/
theorem fieldAt_leBytes (k n : Nat) : fieldAt (leBytes k n) 0 k = n % 2 ^ (8 * k) := by
  rw [fieldAt, List.drop_zero, List.take_of_length_le (Nat.le_of_eq (length_leBytes k n)), leNat_leBytes]

theorem fieldAt_append_left {a : List Byte} {off k : Nat} (b : List Byte) (h : off + k ≤ a.length) :
    fieldAt (a ++ b) off k = fieldAt a off k := by
  have hk : k ≤ (a.drop off).length := by
    rw [List.length_drop]
    omega
  rw [fieldAt, fieldAt, List.drop_append_of_le_length (by omega), List.take_append_of_le_length hk]

theorem fieldAt_append_right {a : List Byte} {off : Nat} (b : List Byte) (k : Nat) (h : a.length ≤ off) :
    fieldAt (a ++ b) off k = fieldAt b (off - a.length) k := by
  rw [fieldAt, fieldAt, List.drop_append, List.drop_eq_nil_of_le h, List.nil_append]

/-! ### The travel code -/

theorem tcBit_lt (r : Nat) : tcBit r < 2 ^ 16 := by
  unfold tcBit
  split <;> omega

theorem tcByte_lt (r : Nat) (b : Byte) : tcByte r b < 2 ^ 16 := tcBit_lt _

/-- The travel code fits its 16 bits whatever it is taken over (R184). -/
theorem tc_lt (bs : List Byte) : tc bs < 2 ^ 16 := by
  rcases List.eq_nil_or_concat bs with rfl | ⟨bs, b, rfl⟩
  · decide
  · rw [tc, List.concat_eq_append, List.foldl_append]
    exact tcByte_lt _ b

/-! ### The bytes of a record -/

@[simp] theorem length_recBody (r : ResRec) : (recBody r).length = 30 := by
  simp [recBody]

/-- CODE of a record (R411): the travel code of its first 30 bytes, with the poison mark where it carries POISON. -/
def recCode (r : ResRec) : Nat := if hasFlag r.flags fPoison then tc (recBody r) ^^^ poisonMark else tc (recBody r)

theorem recBytes_eq (r : ResRec) : recBytes r = recBody r ++ leBytes 2 (recCode r) := rfl

theorem recCode_lt (r : ResRec) : recCode r < 2 ^ 16 := by
  unfold recCode
  split
  · exact Nat.xor_lt_two_pow (tc_lt _) (by decide)
  · exact tc_lt _

@[simp] theorem length_recBytes (r : ResRec) : (recBytes r).length = 32 := by
  simp [recBytes_eq]

theorem take_recBytes (r : ResRec) : (recBytes r).take 30 = recBody r := by
  rw [recBytes_eq, List.take_left' (length_recBody r)]

theorem fieldAt_recBytes_code (r : ResRec) : fieldAt (recBytes r) 30 2 = recCode r := by
  rw [recBytes_eq, fieldAt_append_right _ _ (Nat.le_of_eq (length_recBody r)), length_recBody, fieldAt_leBytes]
  exact Nat.mod_eq_of_lt (recCode_lt r)

theorem fieldAt_recBytes_body (r : ResRec) {off k : Nat} (h : off + k ≤ 30) :
    fieldAt (recBytes r) off k = fieldAt (recBody r) off k := by
  rw [recBytes_eq, fieldAt_append_left _ (by rwa [length_recBody])]

theorem fieldAt_recBody_objId (r : ResRec) : fieldAt (recBody r) 0 4 = r.objId % 2 ^ 32 := by
  simp [recBody, fieldAt_append_left, fieldAt_leBytes]

theorem fieldAt_recBody_tExp (r : ResRec) : fieldAt (recBody r) 8 8 = r.tExp % 2 ^ 64 := by
  simp [recBody, fieldAt_append_left, fieldAt_append_right, fieldAt_leBytes]

theorem fieldAt_recBody_tAct (r : ResRec) : fieldAt (recBody r) 16 4 = r.tAct % 2 ^ 32 := by
  simp [recBody, fieldAt_append_left, fieldAt_append_right, fieldAt_leBytes]

theorem fieldAt_recBody_flags (r : ResRec) : fieldAt (recBody r) 28 2 = r.flags % 65536 := by
  simp [recBody, fieldAt_append_right, fieldAt_leBytes]

/-- Settles O35: CODE is the last field of the record, and every other field lies in the thirty bytes before it. -/
theorem recordCarriesItsCode : Obligations.RecordCarriesItsCode := by
  intro r
  refine ⟨length_recBytes r, ?_, ?_, ?_, ?_, ?_⟩
  · have hflag : hasFlag r.flags fPoison = true ↔ r.flags / 2048 % 2 = 1 := beq_iff_eq
    simp only [fieldAt_recBytes_code, take_recBytes, recCode, hflag, poisonMark]
  · rw [fieldAt_recBytes_body r (by decide), fieldAt_recBody_objId]
  · rw [fieldAt_recBytes_body r (by decide), fieldAt_recBody_tExp]
  · rw [fieldAt_recBytes_body r (by decide), fieldAt_recBody_tAct]
  · rw [fieldAt_recBytes_body r (by decide), fieldAt_recBody_flags]

end Sys2Proof.Machine
end

section
/-! PROOFS. Substitution at the acceptance of a result (R432) with O36: when a doubt condition holds a record, when the
primary and the fallback verdict are in doubt, and what the monitor sets. -/

namespace Sys2Proof.Machine

open Sys2Proof

theorem doubtOver_iff (s : State) (x : EStream) (r : ResRec) (p : Cond → Bool) :
    doubtOver s x r p = true ↔
      ∃ c ∈ s.safety.conds, c.st ≠ .clear ∧ p c = true ∧ inScope s x r c.kind c.scope = true := by
  simp [doubtOver, and_assoc]

/-- `pri` of R432: the policy's masks select the record, or a condition holds it. -/
def primaryInDoubt (s : State) (x : EStream) (r : ResRec) : Bool :=
  (decide (recordBits r &&& polRecordMask s.safety.policy ≠ 0) ||
    decide (r.flags % 1024 &&& polFrameMask s.safety.policy ≠ 0)) || doubtOver s x r (fun _ => true)

/-- `fb` of R432: the record has no fallback class, or a condition that covers both verdicts holds it. -/
def fallbackInDoubt (s : State) (x : EStream) (r : ResRec) : Bool :=
  r.fbClass == 0xFFFF || doubtOver s x r coversBoth

theorem primaryInDoubt_iff (s : State) (x : EStream) (r : ResRec) :
    primaryInDoubt s x r = true ↔
      (recordBits r &&& polRecordMask s.safety.policy ≠ 0 ∨ r.flags % 1024 &&& polFrameMask s.safety.policy ≠ 0) ∨
      ∃ c ∈ s.safety.conds, c.st ≠ .clear ∧ True ∧ inScope s x r c.kind c.scope = true := by
  simp only [primaryInDoubt, Bool.or_eq_true, decide_eq_true_iff, doubtOver_iff]

theorem fallbackInDoubt_iff (s : State) (x : EStream) (r : ResRec) :
    fallbackInDoubt s x r = true ↔ r.fbClass = 0xFFFF ∨
      ∃ c ∈ s.safety.conds, c.st ≠ .clear ∧ coversBoth c = true ∧ inScope s x r c.kind c.scope = true := by
  simp only [fallbackInDoubt, Bool.or_eq_true, beq_iff_eq, doubtOver_iff]

/-- VERDICT while the monitor works (R432): the primary's, the fallback's or none. -/
def verdictOf (armed pri fb : Bool) : Nat := if !armed || !pri then 0 else if !fb then 1 else 2

theorem verdictOf_eq_zero {armed pri : Bool} (fb : Bool) (h : armed = false ∨ ¬ pri = true) :
    verdictOf armed pri fb = 0 := by
  rcases h with rfl | hpri
  · rfl
  · simp [verdictOf, hpri]

theorem verdictOf_eq_one {armed pri fb : Bool} (harmed : armed = true) (hpri : pri = true) (hfb : ¬ fb = true) :
    verdictOf armed pri fb = 1 := by
  simp [verdictOf, harmed, hpri, hfb]

theorem verdictOf_eq_two {armed pri fb : Bool} (harmed : armed = true) (hpri : pri = true) (hfb : fb = true) :
    verdictOf armed pri fb = 2 := by
  simp [verdictOf, harmed, hpri, hfb]

theorem substitute_of_smFault {s : State} (x : EStream) (r : ResRec) (h : s.safety.smFault = true) :
    substitute s x r = { r with verdict := 2, doubt := true } :=
  if_pos h

theorem substitute_of_working {s : State} (x : EStream) (r : ResRec) (h : s.safety.smFault = false) :
    substitute s x r =
      { r with doubt := primaryInDoubt s x r || fallbackInDoubt s x r,
               verdict := verdictOf s.safety.armed (primaryInDoubt s x r) (fallbackInDoubt s x r) } :=
  if_neg (Bool.eq_false_iff.mp h)

/-- The monitor changes nothing of a record but VERDICT and DOUBT (R432). -/
theorem substitute_frame (s : State) (x : EStream) (r : ResRec) :
    substitute s x r = { r with verdict := (substitute s x r).verdict, doubt := (substitute s x r).doubt } := by
  cases h : s.safety.smFault with
  | true => rw [substitute_of_smFault x r h]
  | false => rw [substitute_of_working x r h]

/-- Settles O36, by whether the monitor itself is in fault: if not, DOUBT and VERDICT follow from the two doubts. -/
theorem verdictFollowsThePolicy : Obligations.VerdictFollowsThePolicy := by
  intro s x r y rec_ covers pri fb
  have hpri : primaryInDoubt s x r = true ↔ pri := primaryInDoubt_iff s x r
  have hfb : fallbackInDoubt s x r = true ↔ fb := fallbackInDoubt_iff s x r
  refine ⟨substitute_frame s x r, fun hfault => ?_, fun hwork => ?_⟩
  · have hy : y = { r with verdict := 2, doubt := true } := substitute_of_smFault x r hfault
    rw [hy]
    exact ⟨rfl, rfl⟩
  · have hy : y = _ := substitute_of_working x r hwork
    rw [hy, ← hpri, ← hfb]
    exact ⟨Bool.or_eq_true_iff, verdictOf_eq_zero _, verdictOf_eq_one, verdictOf_eq_two⟩

end Sys2Proof.Machine
end

section
/-! PROOFS. The invariant of the block (R14, R73, R76, R467) with O58 and O59: every command goes on and keeps what its
operations keep. -/

namespace Sys2Proof.Machine

open Sys2Proof

/-- Every command goes on, and to a state that keeps the queue, the invariant and the OTP bits: its row is one operation,
or a mailbox command between the checks and the answer that all of them share. -/
theorem exec_keeps {q₀ s : State} (c : Instr) (hK : Keeps q₀ s) : ∃ t, exec c s = .next t ∧ Keeps q₀ t := by
  cases c with
  | resetEntry _ => exact ⟨_, rfl, doResetEntry_keeps _ hK⟩
  | resetRelease _ => exact ⟨_, rfl, doResetRelease_keeps _ hK⟩
  | refclkPresent => exact ⟨_, rfl, doRefclkPresent_keeps hK⟩
  | aonPllLocked _ => exact ⟨_, rfl, doAonPllLocked_keeps _ hK⟩
  | aonRelease _ => exact ⟨_, rfl, doAonRelease_keeps _ hK⟩
  | sdioFunctionReady => exact ⟨_, rfl, doSdioFunctionReady_keeps hK⟩
  | sdioCmd0Spi => exact ⟨_, rfl, hK⟩
  | sdioCmd11 => exact ⟨_, rfl, doSdioCmd11_keeps hK⟩
  | sdioCommand _ => exact ⟨_, rfl, doSdioCommand_keeps _ hK⟩
  | bootImageWrite _ => exact ⟨_, rfl, doBootImageWrite_keeps _ hK⟩
  | imageVerifyDone => exact ⟨_, rfl, doImageVerifyDone_keeps hK⟩
  | firmwareReady => exact ⟨_, rfl, doFirmwareReady_keeps hK⟩
  | fwHalt => exact ⟨_, rfl, doFwHalt_keeps hK⟩
  | firmwareHeartbeat => exact ⟨_, rfl, doFirmwareHeartbeat_keeps hK⟩
  | cpStall => exact ⟨_, rfl, doCpStall_keeps hK⟩
  | smFault => exact ⟨_, rfl, doSmFault_keeps hK⟩
  | mbCmdPortWrite _ => exact ⟨_, rfl, doMbCmdPortWrite_keeps _ hK⟩
  | mbDoorbellWrite _ => exact ⟨_, rfl, doMbDoorbellWrite_keeps _ hK⟩
  | mbRecordExecute _ => exact ⟨_, rfl, doMbRecordExecute_keeps (plant_keeps _ hK)⟩
  | mbRspPortRead _ => exact ⟨_, rfl, doMbRspPortRead_keeps _ hK⟩
  | mbStatusW1c _ => exact ⟨_, rfl, doMbStatusW1c_keeps _ hK⟩
  | registerWrite _ _ _ => exact ⟨_, rfl, doRegisterWrite_keeps _ _ _ hK⟩
  | eventRecordRead _ => exact ⟨_, rfl, doEventRecordRead_keeps _ hK⟩
  | bulkDataWrite _ => exact ⟨_, rfl, doBulkDataWrite_keeps _ hK⟩
  | bulkDataRead _ _ => exact ⟨_, rfl, doBulkDataRead_keeps _ (plant_keeps _ hK)⟩
  | nop _ => exact ⟨_, rfl, runCommand_keeps _ _ (fun _ => okDone_keeps) hK⟩
  | deviceInfo _ => exact ⟨_, rfl, runCommand_keeps _ _ (fun _ => cmdDeviceInfo_keeps) hK⟩
  | channelTableSet _ _ _ => exact ⟨_, rfl, runCommand_keeps _ _ (fun _ => cmdChannelTableSet_keeps _ _) hK⟩
  | channelInvalidate _ _ _ => exact ⟨_, rfl, runCommand_keeps _ _ (fun _ => cmdChannelInvalidate_keeps _ _) hK⟩
  | bulkWrite _ _ _ => exact ⟨_, rfl, runCommand_keeps _ _ (fun _ => cmdBulkWrite_keeps _ _ _) hK⟩
  | bulkRead _ _ _ => exact ⟨_, rfl, runCommand_keeps _ _ (fun _ => cmdBulkRead_keeps _ _ _) hK⟩
  | dmaStart _ _ _ => exact ⟨_, rfl, runCommand_keeps _ _ (fun _ => cmdDmaStart_keeps _ _ _) hK⟩
  | dmaStop _ _ _ => exact ⟨_, rfl, runCommand_keeps _ _ (fun _ => cmdDmaStop_keeps _ _) hK⟩
  | dmaKick _ _ _ => exact ⟨_, rfl, runCommand_keeps _ _ (fun _ => cmdDmaKick_keeps _ _) hK⟩
  | streamRearm _ _ _ _ _ => exact ⟨_, rfl, runCommand_keeps _ _ (fun _ => cmdStreamRearm_keeps _ _ _ _ _) hK⟩
  | wcacheInvalidate _ _ _ => exact ⟨_, rfl, runCommand_keeps _ _ (fun _ => cmdWcacheInvalidate_keeps _ _) hK⟩
  | ddrInit _ _ => exact ⟨_, rfl, runCommand_keeps _ _ (fun _ => cmdDdrInit_keeps _) hK⟩
  | firewallSet _ _ _ _ _ _ _ _ => exact ⟨_, rfl, runCommand_keeps _ _ (fun _ => cmdFirewallSet_keeps _ _ _ _ _ _ _) hK⟩
  | firewallGet _ _ _ _ => exact ⟨_, rfl, runCommand_keeps _ _ (fun _ => cmdFirewallGet_keeps _ _ _) hK⟩
  | egressStart _ _ _ => exact ⟨_, rfl, runCommand_keeps _ _ (fun _ => cmdEgressStart_keeps _ _ _) hK⟩
  | egressStop _ _ _ => exact ⟨_, rfl, runCommand_keeps _ _ (fun _ => cmdEgressStop_keeps _ _) hK⟩
  | egressUrunClear _ _ _ => exact ⟨_, rfl, runCommand_keeps _ _ (fun _ => cmdEgressUrunClear_keeps _ _) hK⟩
  | tensorCheck _ _ _ _ _ => exact ⟨_, rfl, runCommand_keeps _ _ (fun _ => cmdTensorCheck_keeps _ _ _ _ _) hK⟩
  | tensorLocate _ _ _ => exact ⟨_, rfl, runCommand_keeps _ _ (fun _ => cmdTensorLocate_keeps _ _ _) hK⟩
  | graphLoad _ _ => exact ⟨_, rfl, runCommand_keeps _ _ (fun _ => cmdGraphLoad_keeps _ _) hK⟩
  | graphUnload _ _ _ => exact ⟨_, rfl, runCommand_keeps _ _ (fun _ => cmdGraphUnload_keeps _ _) hK⟩
  | graphStart _ _ _ _ _ _ => exact ⟨_, rfl, runCommand_keeps _ _ (fun _ => cmdGraphStart_keeps _ _ _ _ _) hK⟩
  | graphHold _ _ _ => exact ⟨_, rfl, runCommand_keeps _ _ (fun _ => cmdGraphHold_keeps _ _) hK⟩
  | graphHoldQuiescent _ => exact ⟨_, rfl, doGraphHoldQuiescent_keeps _ hK⟩
  | graphResume _ _ _ => exact ⟨_, rfl, runCommand_keeps _ _ (fun _ => cmdGraphResume_keeps _ _) hK⟩
  | graphStop _ _ _ => exact ⟨_, rfl, runCommand_keeps _ _ (fun _ => cmdGraphStop_keeps _ _) hK⟩
  | graphStopIdle _ => exact ⟨_, rfl, doGraphStopIdle_keeps _ hK⟩
  | graphParamSet _ _ _ _ _ _ => exact ⟨_, rfl, runCommand_keeps _ _ (fun _ => cmdGraphParamSet_keeps _ _ _ _ _) hK⟩
  | graphStatus _ _ _ => exact ⟨_, rfl, runCommand_keeps _ _ (fun _ => cmdGraphStatus_keeps _ _) hK⟩
  | csiPortConfig _ _ _ _ _ _ _ => exact ⟨_, rfl, runCommand_keeps _ _ (fun _ => cmdCsiPortConfig_keeps _ _ _ _ _ _) hK⟩
  | cameraStart _ _ _ => exact ⟨_, rfl, runCommand_keeps _ _ (fun _ => cmdCameraStart_keeps _ _ _) hK⟩
  | cameraStop _ _ _ _ => exact ⟨_, rfl, runCommand_keeps _ _ (fun _ => cmdCameraStop_keeps _ _ _) hK⟩
  | cameraStopTimeout _ => exact ⟨_, rfl, doCameraStopTimeout_keeps _ hK⟩
  | cameraStatus _ _ _ _ => exact ⟨_, rfl, runCommand_keeps _ _ (fun _ => cmdCameraStatus_keeps _ _ _) hK⟩
  | triggerSet _ _ _ _ _ _ _ _ _ => exact ⟨_, rfl, runCommand_keeps _ _ (fun _ => cmdTriggerSet_keeps _ _ _ _ _ _ _ _) hK⟩
  | triggerSwitchPoint _ => exact ⟨_, rfl, doTriggerSwitchPoint_keeps _ hK⟩
  | sensorCommit _ _ _ _ _ _ => exact ⟨_, rfl, runCommand_keeps _ _ (fun _ => cmdSensorCommit_keeps _ _ _ _ _ _) hK⟩
  | i3cTransfer _ _ _ _ _ _ => exact ⟨_, rfl, runCommand_keeps _ _ (fun _ => cmdI3cTransfer_keeps _ _ _ _ _) hK⟩
  | safetyArm _ _ => exact ⟨_, rfl, runCommand_keeps _ _ (fun _ => cmdSafetyArm_keeps _) hK⟩
  | safetyDisarm _ => exact ⟨_, rfl, runCommand_keeps _ _ (fun _ => cmdSafetyDisarm_keeps) hK⟩
  | safetyStatus _ => exact ⟨_, rfl, runCommand_keeps _ _ (fun _ => cmdSafetyStatus_keeps) hK⟩
  | safetyClear _ _ _ _ => exact ⟨_, rfl, runCommand_keeps _ _ (fun _ => cmdSafetyClear_keeps _ _ _) hK⟩
  | fbcLoad _ _ _ _ => exact ⟨_, rfl, runCommand_keeps _ _ (fun _ => cmdFbcLoad_keeps _ _ _ _) hK⟩
  | fbcRead _ _ _ => exact ⟨_, rfl, runCommand_keeps _ _ (fun _ => cmdFbcRead_keeps _ _) hK⟩
  | seasonSet _ _ _ => exact ⟨_, rfl, runCommand_keeps _ _ (fun _ => cmdSeasonSet_keeps _ _) hK⟩
  | powerCapSet _ _ _ => exact ⟨_, rfl, runCommand_keeps _ _ (fun _ => cmdPowerCapSet_keeps _ _) hK⟩
  | powerStatus _ => exact ⟨_, rfl, runCommand_keeps _ _ (fun _ => cmdPowerStatus_keeps) hK⟩
  | thermalSet _ _ _ => exact ⟨_, rfl, runCommand_keeps _ _ (fun _ => cmdThermalSet_keeps _ _) hK⟩
  | islandStop _ _ _ => exact ⟨_, rfl, runCommand_keeps _ _ (fun _ => cmdIslandStop_keeps _ _) hK⟩
  | islandStart _ _ _ => exact ⟨_, rfl, runCommand_keeps _ _ (fun _ => cmdIslandStart_keeps _ _) hK⟩
  | traceStart _ _ _ => exact ⟨_, rfl, runCommand_keeps _ _ (fun _ => cmdTraceStart_keeps _ _ _) hK⟩
  | traceStop _ _ _ => exact ⟨_, rfl, runCommand_keeps _ _ (fun _ => cmdTraceStop_keeps _ _) hK⟩
  | traceStatus _ => exact ⟨_, rfl, runCommand_keeps _ _ (fun _ => cmdTraceStatus_keeps) hK⟩
  | traceTrigger _ _ _ => exact ⟨_, rfl, runCommand_keeps _ _ (fun _ => cmdTraceTrigger_keeps _ _) hK⟩
  | traceMark _ _ => exact ⟨_, rfl, runCommand_keeps _ _ (fun _ => cmdTraceMark_keeps _) hK⟩
  | counterRead _ _ _ _ _ _ => exact ⟨_, rfl, runCommand_keeps _ _ (fun _ => cmdCounterRead_keeps _ _ _ _ _) hK⟩
  | counterClear _ _ _ _ _ _ => exact ⟨_, rfl, runCommand_keeps _ _ (fun _ => cmdCounterClear_keeps _ _ _ _ _) hK⟩
  | watchSet _ _ => exact ⟨_, rfl, runCommand_keeps _ _ (fun _ => cmdWatchSet_keeps _ _) hK⟩
  | watchClear _ _ _ => exact ⟨_, rfl, runCommand_keeps _ _ (fun _ => cmdWatchClear_keeps _ _) hK⟩
  | watchArm _ _ _ => exact ⟨_, rfl, runCommand_keeps _ _ (fun _ => cmdWatchArm_keeps _ _) hK⟩
  | linkStart _ _ _ => exact ⟨_, rfl, runCommand_keeps _ _ (fun _ => cmdLinkStart_keeps _ _ _) hK⟩
  | linkStop _ _ _ => exact ⟨_, rfl, runCommand_keeps _ _ (fun _ => cmdLinkStop_keeps _ _) hK⟩
  | linkStatus _ => exact ⟨_, rfl, runCommand_keeps _ _ (fun _ => cmdLinkStatus_keeps) hK⟩
  | linkRouteSet _ _ _ _ => exact ⟨_, rfl, runCommand_keeps _ _ (fun _ => cmdLinkRouteSet_keeps _ _ _) hK⟩
  | linkAbort _ _ _ => exact ⟨_, rfl, runCommand_keeps _ _ (fun _ => cmdLinkAbort_keeps _ _) hK⟩
  | linkReserve _ _ _ _ _ => exact ⟨_, rfl, runCommand_keeps _ _ (fun _ => cmdLinkReserve_keeps _ _ _ _) hK⟩
  | linkWindowSet _ _ _ _ _ => exact ⟨_, rfl, runCommand_keeps _ _ (fun _ => cmdLinkWindowSet_keeps _ _ _ _) hK⟩
  | linkWindowOpen _ _ _ => exact ⟨_, rfl, runCommand_keeps _ _ (fun _ => changeWindow_keeps _ _ _) hK⟩
  | linkWindowClose _ _ _ => exact ⟨_, rfl, runCommand_keeps _ _ (fun _ => changeWindow_keeps _ _ _) hK⟩
  | linkImportSet _ _ _ _ _ _ _ _ => exact ⟨_, rfl, runCommand_keeps _ _ (fun _ => cmdLinkImportSet_keeps _ _ _ _ _ _ _) hK⟩
  | linkIdSet _ _ _ => exact ⟨_, rfl, runCommand_keeps _ _ (fun _ => cmdLinkIdSet_keeps _ _) hK⟩
  | linkIdAssign _ _ _ _ => exact ⟨_, rfl, runCommand_keeps _ _ (fun _ => cmdLinkIdAssign_keeps _ _ _) hK⟩
  | linkMboxRelay _ _ _ _ => exact ⟨_, rfl, runCommand_keeps _ _ (fun _ => cmdLinkMboxRelay_keeps _ _ _) hK⟩
  | linkEventSink _ _ _ => exact ⟨_, rfl, runCommand_keeps _ _ (fun _ => cmdLinkEventSink_keeps _ _) hK⟩
  | linkTimeJoin _ => exact ⟨_, rfl, runCommand_keeps _ _ (fun _ => cmdLinkTimeJoin_keeps) hK⟩
  | linkPpsSet _ _ _ => exact ⟨_, rfl, runCommand_keeps _ _ (fun _ => cmdLinkPpsSet_keeps _ _) hK⟩
  | bootRelay _ _ _ _ _ _ => exact ⟨_, rfl, runCommand_keeps _ _ (fun _ => cmdBootRelay_keeps _ _ _ _ _ _) hK⟩
  | coreFence _ _ _ => exact ⟨_, rfl, runCommand_keeps _ _ (fun _ => cmdCoreFence_keeps _ _) hK⟩
  | coreUnfence _ _ _ => exact ⟨_, rfl, runCommand_keeps _ _ (fun _ => cmdCoreUnfence_keeps _ _) hK⟩
  | keyProvision _ _ _ _ => exact ⟨_, rfl, runCommand_keeps _ _ (fun _ => cmdKeyProvision_keeps _ _ _) hK⟩
  | keyRevoke _ _ _ => exact ⟨_, rfl, runCommand_keeps _ _ (fun _ => cmdKeyRevoke_keeps _ _) hK⟩
  | svnAdvance _ => exact ⟨_, rfl, runCommand_keeps _ _ (fun _ => cmdSvnAdvance_keeps) hK⟩
  | debugEnable _ _ _ => exact ⟨_, rfl, runCommand_keeps _ _ (fun _ => cmdDebugEnable_keeps _ _) hK⟩
  | debugDisable _ => exact ⟨_, rfl, runCommand_keeps _ _ (fun _ => cmdDebugDisable_keeps) hK⟩
  | pmbAlert => exact ⟨_, rfl, doPmbAlert_keeps hK⟩
  | refclkLoss => exact ⟨_, rfl, doRefclkLoss_keeps hK⟩
  | ppsEdge => exact ⟨_, rfl, doPpsEdge_keeps hK⟩
  | ppsLost => exact ⟨_, rfl, doPpsLost_keeps hK⟩
  | thermalSensorRead _ _ => exact ⟨_, rfl, doThermalSensorRead_keeps _ _ hK⟩
  | thermalTrip _ _ => exact ⟨_, rfl, doThermalTrip_keeps _ _ hK⟩
  | budgetEpochStart _ => exact ⟨_, rfl, doBudgetEpochStart_keeps _ hK⟩
  | seasonChangeDone => exact ⟨_, rfl, doSeasonChangeDone_keeps hK⟩
  | counterWindowBoundary => exact ⟨_, rfl, doCounterWindowBoundary_keeps hK⟩
  | vmon _ _ => exact ⟨_, rfl, doVmon_keeps _ _ hK⟩
  | clkMon _ _ => exact ⟨_, rfl, doClkMon_keeps _ _ hK⟩
  | doubtLevelEnd _ _ _ => exact ⟨_, rfl, doDoubtLevelEnd_keeps _ _ _ hK⟩
  | frameIntervalEnd => exact ⟨_, rfl, doFrameIntervalEnd_keeps hK⟩
  | doubtPulseEnd => exact ⟨_, rfl, doDoubtPulseEnd_keeps hK⟩
  | goldenRunStart _ _ => exact ⟨_, rfl, doGoldenRunStart_keeps _ _ hK⟩
  | goldenRunDone _ _ _ => exact ⟨_, rfl, doGoldenRunDone_keeps _ _ _ hK⟩
  | goldenRunOverdue _ _ => exact ⟨_, rfl, doGoldenRunOverdue_keeps _ _ hK⟩
  | monthSlotStart => exact ⟨_, rfl, doMonthSlotStart_keeps hK⟩
  | selfTestStart _ => exact ⟨_, rfl, doSelfTestStart_keeps _ hK⟩
  | selfTestDone _ => exact ⟨_, rfl, doSelfTestDone_keeps _ hK⟩
  | csiFrameStart _ _ _ => exact ⟨_, rfl, doCsiFrameStart_keeps _ _ _ hK⟩
  | csiFrameEnd _ _ _ => exact ⟨_, rfl, doCsiFrameEnd_keeps _ _ _ hK⟩
  | csiLongPacket _ _ _ _ _ _ _ _ => exact ⟨_, rfl, doCsiLongPacket_keeps _ _ _ _ _ _ _ _ hK⟩
  | csiHeaderError _ => exact ⟨_, rfl, doCsiHeaderError_keeps _ hK⟩
  | pipelineLineDone _ => exact ⟨_, rfl, doPipelineLineDone_keeps _ hK⟩
  | frameComplete _ => exact ⟨_, rfl, doFrameComplete_keeps _ hK⟩
  | patternTestStart _ => exact ⟨_, rfl, doPatternTestStart_keeps _ hK⟩
  | patternTestDone _ _ => exact ⟨_, rfl, doPatternTestDone_keeps _ _ hK⟩
  | camTrigPulse _ => exact ⟨_, rfl, doCamTrigPulse_keeps _ hK⟩
  | camTrigPulseEnd _ => exact ⟨_, rfl, doCamTrigPulseEnd_keeps _ hK⟩
  | sensorWriteDone _ _ => exact ⟨_, rfl, doSensorWriteDone_keeps _ _ hK⟩
  | sensorIbi _ _ _ => exact ⟨_, rfl, doSensorIbi_keeps _ _ _ hK⟩
  | i3cTransferDone _ _ _ => exact ⟨_, rfl, doI3cTransferDone_keeps _ _ _ hK⟩
  | sourceNotice _ _ => exact ⟨_, rfl, doSourceNotice_keeps _ _ hK⟩
  | nodeStart _ => exact ⟨_, rfl, doNodeStart_keeps _ hK⟩
  | nodeComplete _ => exact ⟨_, rfl, doNodeComplete_keeps _ hK⟩
  | deadlockWalk _ => exact ⟨_, rfl, doDeadlockWalk_keeps _ hK⟩
  | engineRunStart _ _ => exact ⟨_, rfl, doEngineRunStart_keeps _ (plant_keeps _ hK)⟩
  | engineRunDone _ _ => exact ⟨_, rfl, doEngineRunDone_keeps _ (plant_keeps _ hK)⟩
  | obxObjectEmit _ => exact ⟨_, rfl, doObxObjectEmit_keeps _ hK⟩
  | coreUnitStart _ => exact ⟨_, rfl, doCoreUnitStart_keeps _ hK⟩
  | scalarInstruction _ _ => exact ⟨_, rfl, doScalarInstruction_keeps _ (plant_keeps _ hK)⟩
  | issue _ _ => exact ⟨_, rfl, doIssue_keeps _ (plant_keeps _ hK)⟩
  | opStart _ _ => exact ⟨_, rfl, doOpStart_keeps _ _ hK⟩
  | opComplete _ _ _ _ => exact ⟨_, rfl, doOpComplete_keeps _ _ _ (plant_keeps _ hK)⟩
  | spawn _ _ => exact ⟨_, rfl, doSpawn_keeps _ (plant_keeps _ hK)⟩
  | coreUnitComplete _ => exact ⟨_, rfl, doCoreUnitComplete_keeps _ hK⟩
  | itemAccept => exact ⟨_, rfl, doItemAccept_keeps hK⟩
  | itemDispatch _ => exact ⟨_, rfl, doItemDispatch_keeps _ hK⟩
  | itemComplete _ => exact ⟨_, rfl, doItemComplete_keeps _ hK⟩
  | resultRelease _ => exact ⟨_, rfl, doResultRelease_keeps _ hK⟩
  | recordAccept _ => exact ⟨_, rfl, doRecordAccept_keeps _ hK⟩
  | egressSlot _ _ => exact ⟨_, rfl, doEgressSlot_keeps _ _ hK⟩
  | dmaDescriptorStart _ _ => exact ⟨_, rfl, doDmaDescriptorStart_keeps _ (plant_keeps _ hK)⟩
  | dmaReadReturn _ _ => exact ⟨_, rfl, doDmaReadReturn_keeps _ (plant_keeps _ hK)⟩
  | dmaDescriptorEnd _ => exact ⟨_, rfl, doDmaDescriptorEnd_keeps _ hK⟩
  | streamBlockStart _ => exact ⟨_, rfl, doStreamBlockStart_keeps _ hK⟩
  | streamBlockDone _ => exact ⟨_, rfl, doStreamBlockDone_keeps _ hK⟩
  | streamCancelled _ => exact ⟨_, rfl, doStreamCancelled_keeps _ hK⟩
  | fsScrubRow _ _ _ => exact ⟨_, rfl, doFsScrubRow_keeps _ _ _ hK⟩
  | ddrRefresh _ => exact ⟨_, rfl, doDdrRefresh_keeps _ hK⟩
  | ddrMr4Poll _ _ _ => exact ⟨_, rfl, doDdrMr4Poll_keeps _ _ _ hK⟩
  | ddrScrubGranule _ _ _ _ _ _ => exact ⟨_, rfl, doDdrScrubGranule_keeps _ _ _ _ _ _ hK⟩
  | ddrAlert _ => exact ⟨_, rfl, doDdrAlert_keeps _ hK⟩
  | ddrInitDone _ => exact ⟨_, rfl, doDdrInitDone_keeps _ hK⟩
  | linkDetectPulse _ => exact ⟨_, rfl, doLinkDetectPulse_keeps _ hK⟩
  | linkPeerDetected _ => exact ⟨_, rfl, doLinkPeerDetected_keeps _ hK⟩
  | linkEqDone _ => exact ⟨_, rfl, doLinkEqDone_keeps _ hK⟩
  | linkAlignDone _ _ _ _ => exact ⟨_, rfl, doLinkAlignDone_keeps _ _ _ _ hK⟩
  | linkUp _ _ => exact ⟨_, rfl, doLinkUp_keeps _ _ hK⟩
  | linkTrainFail _ => exact ⟨_, rfl, doLinkTrainFail_keeps _ hK⟩
  | flitReceive _ _ _ => exact ⟨_, rfl, doFlitReceive_keeps _ _ (plant_keeps _ hK)⟩
  | ctrlReceive _ _ => exact ⟨_, rfl, doCtrlReceive_keeps _ _ hK⟩
  | replayTimer _ => exact ⟨_, rfl, doReplayTimer_keeps _ hK⟩
  | linkDown _ _ => exact ⟨_, rfl, doLinkDown_keeps _ _ hK⟩
  | timeFlitSend _ => exact ⟨_, rfl, doTimeFlitSend_keeps _ hK⟩
  | timeFlitReceive _ _ _ _ => exact ⟨_, rfl, doTimeFlitReceive_keeps _ _ _ _ hK⟩
  | timeHoldover _ => exact ⟨_, rfl, doTimeHoldover_keeps _ hK⟩
  | timeStep => exact ⟨_, rfl, doTimeStep_keeps hK⟩
  | timeJoinLocked => exact ⟨_, rfl, doTimeJoinLocked_keeps hK⟩
  | write _ _ => exact ⟨_, rfl, doWrite_keeps _ (plant_keeps _ hK)⟩
  | read _ _ => exact ⟨_, rfl, doRead_keeps _ (plant_keeps _ hK)⟩
  | semSignal _ => exact ⟨_, rfl, doSemSignal_keeps _ hK⟩
  | winOpen _ => exact ⟨_, rfl, doWinOpen_keeps _ hK⟩
  | winClose _ => exact ⟨_, rfl, doWinClose_keeps _ hK⟩
  | mbox _ => exact ⟨_, rfl, doMbox_keeps _ hK⟩
  | bootData _ _ => exact ⟨_, rfl, doBootData_keeps _ _ hK⟩
  | bootEnd _ _ => exact ⟨_, rfl, doBootEnd_keeps _ _ hK⟩
  | idAssign _ _ => exact ⟨_, rfl, doIdAssign_keeps _ _ hK⟩
  | event _ => exact ⟨_, rfl, doEvent_keeps _ hK⟩
  | transactionResponse _ => exact ⟨_, rfl, doTransactionResponse_keeps _ hK⟩
  | bootRelayDone _ _ => exact ⟨_, rfl, doBootRelayDone_keeps _ _ hK⟩
  | traceRecordArrive _ _ => exact ⟨_, rfl, doTraceRecordArrive_keeps _ _ hK⟩
  | traceSpillCopy _ _ => exact ⟨_, rfl, doTraceSpillCopy_keeps _ (plant_keeps _ hK)⟩
  | watchRead _ _ => exact ⟨_, rfl, doWatchRead_keeps _ (plant_keeps _ hK)⟩
  | tapReset => exact ⟨_, rfl, doTapReset_keeps hK⟩
  | idcode => exact ⟨_, rfl, doIdcode_keeps hK⟩
  | sample _ => exact ⟨_, rfl, doSample_keeps _ hK⟩
  | preload _ => exact ⟨_, rfl, doPreload_keeps _ hK⟩
  | extest => exact ⟨_, rfl, doExtest_keeps hK⟩
  | clamp => exact ⟨_, rfl, doClamp_keeps hK⟩
  | highz => exact ⟨_, rfl, doHighz_keeps hK⟩
  | bypass _ => exact ⟨_, rfl, doBypass_keeps _ hK⟩
  | dbgAccess _ _ => exact ⟨_, rfl, doDbgAccess_keeps _ (plant_keeps _ hK)⟩
  | dbgAccessDone => exact ⟨_, rfl, doDbgAccessDone_keeps hK⟩
  | hotJoin _ => exact ⟨_, rfl, doHotJoin_keeps _ hK⟩
  | ctrlFlitSend _ => exact ⟨_, rfl, doCtrlFlitSend_keeps _ hK⟩

theorem Keeps.refl {s : State} (h : Inv s) : Keeps s s := ⟨rfl, h, .refl _⟩

/-- The queue and the device time are no part of the invariant. -/
theorem Inv.ofQueueAndTime {s : State} (h : Inv s) (queue : List Instr) (time : Nat) :
    Inv { s with pending := queue, time := time } :=
  ⟨h.mem, h.marks, h.events, h.history, h.traces, h.aon⟩

theorem idleTick_inv {s : State} (h : Inv s) : Inv (idleTick s) := by
  unfold idleTick
  split
  · exact h.ofQueueAndTime s.pending (s.time + 1)
  · exact h

/-- Settles O58: a step is a tick or the front command, and each keeps the invariant. -/
theorem everyStepKeepsTheInvariant : Obligations.EveryStepKeepsTheInvariant := by
  intro s t hs hstep
  unfold step at hstep
  split at hstep
  next =>
    cases hstep
    exact idleTick_inv hs
  next c rest _ =>
    obtain ⟨u, hu, hK⟩ := exec_keeps c (Keeps.refl (hs.ofQueueAndTime rest s.time))
    cases hu.symm.trans hstep
    exact hK.inv

/-- Settles O59: memory, marks, events, history and trace FIFOs are empty, and bit 0 of the islands is set. -/
theorem resetMeetsTheInvariant : Obligations.ResetMeetsTheInvariant where
  mem := rfl
  marks := rfl
  events := Nat.zero_le _
  history := Nat.zero_le _
  traces := fun _ he => absurd he List.not_mem_nil
  aon := by decide

end Sys2Proof.Machine
end

section
/-! PROOFS. Tensor descriptors (R301 to R308, R324): addresses as sums over the dimensions, with O27 (the footprint), O28
(the write test) and O29 (shards and the kinds of a move). -/

namespace Sys2Proof.Machine

open Sys2Proof

/-! ### Sums over the dimensions -/

theorem foldl_add_eq_sum {α : Type} (f : α → Int) (l : List α) (z : Int) :
    l.foldl (fun a x => a + f x) z = z + (l.map f).sum := by
  induction l generalizing z with
  | nil => simp
  | cons x l ih => rw [List.foldl_cons, ih, List.map_cons, List.sum_cons, Int.add_assoc]

/-- What a dimension adds to a LINEAR element's address (R301). -/
def dimTerm (t : TDesc) (i : List Nat) (d : Nat) : Int := ix i d * ith t.stride d

/-- The far part of a LINEAR address: every dimension but the innermost. -/
theorem farPart_eq (t : TDesc) (i : List Nat) (z : Int) :
    (List.range t.ndim).foldl (fun a d => if d = 0 then a else a + ix i d * ith t.stride d) z =
      z + ((List.range t.ndim).map (fun d => if d = 0 then 0 else dimTerm t i d)).sum := by
  rw [← foldl_add_eq_sum]
  congr 1
  funext a d
  split <;> simp [dimTerm]

theorem sum_range_cons (n : Nat) (hn : 0 < n) (f : Nat → Int) :
    ((List.range n).map f).sum = f 0 + ((List.range (n - 1)).map (fun d => f (d + 1))).sum := by
  obtain ⟨m, rfl⟩ := Nat.exists_eq_succ_of_ne_zero (Nat.ne_of_gt hn)
  rw [List.range_succ_eq_map]
  simp [Function.comp_def]

theorem sum_map_sub_map {α : Type} (f g : α → Int) (l : List α) :
    (l.map (fun x => f x - g x)).sum = (l.map f).sum - (l.map g).sum := by
  induction l with
  | nil => rfl
  | cons x l ih =>
    simp only [List.map_cons, List.sum_cons, ih]
    omega

/-- A LINEAR address whose elements fill whole bytes is the base and one term for each dimension (R301). -/
theorem elemAddr_linear {t : TDesc} (i : List Nat) (hl : t.layout = 0) (he : t.etype ≠ 1) (hn : 0 < t.ndim) :
    (elemAddr t i).1 = localBase t + ((List.range t.ndim).map (dimTerm t i)).sum := by
  simp only [elemAddr, hl, he, if_true, if_false]
  rw [farPart_eq, sum_range_cons _ hn, sum_range_cons _ hn]
  simp [dimTerm]
  omega

/-- With S4 the innermost dimension counts in pairs (R301). -/
theorem elemAddr_s4 {t : TDesc} (i : List Nat) (hl : t.layout = 0) (he : t.etype = 1) :
    (elemAddr t i).1 = localBase t +
      ((List.range t.ndim).map (fun d => if d = 0 then 0 else dimTerm t i d)).sum + (ix i 0 / 2 : Nat) := by
  simp only [elemAddr, hl, he, if_true]
  rw [farPart_eq]

/-! ### The write test (R306) -/

theorem insertBy_perm {α : Type} (le : α → α → Bool) (x : α) (l : List α) : (insertBy le x l).Perm (x :: l) := by
  induction l with
  | nil => exact .refl _
  | cons y l ih =>
    unfold insertBy
    split
    · exact .refl _
    · exact (ih.cons y).trans (.swap x y l)

theorem sortBy_perm {α : Type} (le : α → α → Bool) (l : List α) : (sortBy le l).Perm l := by
  induction l with
  | nil => exact .refl _
  | cons x l ih => exact (insertBy_perm le x _).trans (ih.cons x)

theorem sum_eq_of_perm {l m : List Int} (h : l.Perm m) : l.sum = m.sum := by
  induction h with
  | nil => rfl
  | cons x _ ih => rw [List.sum_cons, List.sum_cons, ih]
  | swap x y l => simp only [List.sum_cons]; omega
  | trans _ _ ih₁ ih₂ => exact ih₁.trans ih₂

/-- A dimension with more than one index, as the write test takes it where no element shares a byte. -/
theorem writeDims_perm {t : TDesc} (he : t.etype ≠ 1) :
    (writeDims t).Perm (((List.range t.ndim).filter (fun d => decide (1 < nth t.size d))).map
      (fun d => ((ith t.stride d).natAbs, nth t.size d, d))) := by
  simp only [writeDims, he, and_false, if_false]
  exact sortBy_perm _ _

/-- The heart of the write test. Each dimension's stride reaches beyond all that the ones before it span, so a step along
the last dimension that differs cannot be undone by them. `z` is the distance that the dimensions before make. -/
theorem writeFails_apart {stride step : Nat → Int} {e : Nat} (he : 0 < e) (l : List (Nat × Nat × Nat)) (need : Nat) (z : Int)
    (hl : ∀ x ∈ l, x.1 = (stride x.2.2).natAbs ∧ (step x.2.2).natAbs ≤ x.2.1 - 1)
    (htest : writeFails need l = none) (hz : z.natAbs + e ≤ need)
    (happart : e ≤ z.natAbs ∨ (z = 0 ∧ ∃ x ∈ l, step x.2.2 ≠ 0)) :
    e ≤ (z + (l.map (fun x => step x.2.2 * stride x.2.2)).sum).natAbs := by
  induction l generalizing need z with
  | nil =>
    rcases happart with h | ⟨-, x, hx, -⟩
    · simpa using h
    · exact absurd hx List.not_mem_nil
  | cons x l ih =>
    obtain ⟨st, n, d⟩ := x
    obtain ⟨⟨hst, hstep⟩, hrest⟩ := List.forall_mem_cons.1 hl
    dsimp only at hst hstep
    unfold writeFails at htest
    split at htest
    · cases htest
    next hlarge =>
    have hneed : need ≤ st := Nat.not_lt.1 hlarge
    have hspan : (step d * stride d).natAbs ≤ (n - 1) * st := by
      rw [Int.natAbs_mul, hst]
      exact Nat.mul_le_mul_right _ hstep
    rw [List.map_cons, List.sum_cons, ← Int.add_assoc]
    dsimp only
    refine ih _ _ hrest htest (by clear happart; omega) ?_
    by_cases hd : step d = 0
    · rcases happart with h | ⟨h0, x, hx, hne⟩
      · exact .inl (by simpa [hd] using h)
      · rcases List.mem_cons.1 hx with rfl | hx
        · exact absurd hd hne
        · exact .inr ⟨by simp [h0, hd], x, hx, hne⟩
    · have hone : st ≤ (step d * stride d).natAbs := by
        rw [Int.natAbs_mul, ← hst]
        exact Nat.le_mul_of_pos_left _ (Int.natAbs_pos.2 hd)
      exact .inl (by clear happart; omega)

/-- A chain of checks that finds nothing has passed its first check and goes on. -/
theorem check_none {α : Type} {c : Prop} [Decidable c] {a : α} {x : Option α} (h : (if c then some a else x) = none) :
    ¬ c ∧ x = none := by
  split at h
  · cases h
  · exact ⟨‹_›, h⟩

theorem found_none {α : Type} {x y : Option α} (h : (if x.isSome then x else y) = none) : y = none := by
  cases x
  · exact h
  · cases h

theorem tdParam_ndim {t : TDesc} {dev : Nat} (h : tdParam t dev = none) : 0 < t.ndim ∧ t.ndim ≤ 6 := by
  unfold tdParam at h
  obtain ⟨-, h⟩ := check_none h
  obtain ⟨-, h⟩ := check_none h
  obtain ⟨hn, -⟩ := check_none h
  omega

theorem elemBytes_pos (e : Nat) : 0 < elemBytes e := by
  unfold elemBytes
  split <;> omega

/-- The dimensions that have but one index add nothing to the distance of two elements. -/
theorem sum_filter_wide {t : TDesc} (f : Nat → Int) (l : List Nat)
    (h : ∀ d ∈ l, nth t.size d ≤ 1 → f d = 0) :
    ((l.filter (fun d => decide (1 < nth t.size d))).map f).sum = (l.map f).sum := by
  induction l with
  | nil => rfl
  | cons d l ih =>
    obtain ⟨hd, hl⟩ := List.forall_mem_cons.1 h
    rw [List.filter_cons]
    split
    · rw [List.map_cons, List.sum_cons, List.map_cons, List.sum_cons, ih hl]
    next hn =>
      have : nth t.size d ≤ 1 := by simpa using hn
      rw [List.map_cons, List.sum_cons, ih hl, hd this, Int.zero_add]

/-- Settles O28: the distance of two elements is a sum over the dimensions that the test looks at, and the test keeps that sum
away from zero. -/
theorem writeTestKeepsElementsApart : Obligations.WriteTestKeepsElementsApart := by
  intro t dev i j hparam hw hl he halias hi hj ⟨d₀, hd₀, hne⟩
  have hn := (tdParam_ndim hparam).1
  have htest : writeFails (elemBytes t.etype) (writeDims t) = none := by
    simpa [tdAlias, hw, hl] using halias
  let step : Nat → Int := fun d => (ix i d : Int) - ix j d
  have hdims : ∀ x ∈ writeDims t, ∃ d < t.ndim, 1 < nth t.size d ∧ x = ((ith t.stride d).natAbs, nth t.size d, d) := by
    intro x hx
    obtain ⟨d, hd, rfl⟩ := List.mem_map.1 ((writeDims_perm he).mem_iff.1 hx)
    obtain ⟨hr, hs⟩ := List.mem_filter.1 hd
    exact ⟨d, List.mem_range.1 hr, by simpa using hs, rfl⟩
  have hlist : ∀ x ∈ writeDims t, x.1 = (ith t.stride x.2.2).natAbs ∧ (step x.2.2).natAbs ≤ x.2.1 - 1 := by
    intro x hx
    obtain ⟨d, hd, -, rfl⟩ := hdims x hx
    have h1 := hi d hd
    have h2 := hj d hd
    refine ⟨rfl, ?_⟩
    simp only [step]
    omega
  have hsome : ∃ x ∈ writeDims t, step x.2.2 ≠ 0 := by
    have h1 := hi d₀ hd₀
    have h2 := hj d₀ hd₀
    refine ⟨_, (writeDims_perm he).mem_iff.2 (List.mem_map.2 ⟨d₀, List.mem_filter.2 ⟨List.mem_range.2 hd₀, ?_⟩, rfl⟩), ?_⟩
    · simp only [decide_eq_true_eq]
      omega
    · simp only [step]
      omega
  have hapart := writeFails_apart (elemBytes_pos t.etype) (writeDims t) _ 0 hlist htest (by simp) (.inr ⟨rfl, hsome⟩)
  have hsum : ((writeDims t).map (fun x => step x.2.2 * ith t.stride x.2.2)).sum =
      ((List.range t.ndim).map (fun d => step d * ith t.stride d)).sum := by
    rw [sum_eq_of_perm ((writeDims_perm he).map _), List.map_map]
    refine sum_filter_wide (t := t) (fun d => step d * ith t.stride d) _ fun d hd hone => ?_
    have h1 := hi d (List.mem_range.1 hd)
    have h2 := hj d (List.mem_range.1 hd)
    have h0 : step d = 0 := by simp only [step]; omega
    simp [h0]
  have hdist : (elemAddr t i).1 - (elemAddr t j).1 = ((List.range t.ndim).map (fun d => step d * ith t.stride d)).sum := by
    rw [elemAddr_linear i hl he hn, elemAddr_linear j hl he hn, Int.add_sub_add_left, ← sum_map_sub_map]
    simp only [step, dimTerm, Int.sub_mul]
  rw [Int.zero_add, hsum, ← hdist] at hapart
  omega

/-! ### The footprint (R303) -/

/-- The distance from the first to the last index along a dimension. -/
def dimSpan (t : TDesc) (d : Nat) : Int := ((nth t.size d : Int) - 1) * ith t.stride d

theorem footprint_linear {t : TDesc} (hl : t.layout = 0) :
    footprint t =
      (localBase t + (((List.range t.ndim).filter (fun d => ! (t.etype == 1 && d == 0))).map
          (fun d => min 0 (dimSpan t d))).sum,
        localBase t + (((List.range t.ndim).filter (fun d => ! (t.etype == 1 && d == 0))).map
          (fun d => max 0 (dimSpan t d))).sum + (if t.etype = 1 then (((nth t.size 0 - 1) / 2 : Nat) : Int) else 0) +
          elemBytes t.etype - 1) := by
  simp only [footprint, footprintAt, hl, if_true]
  rw [foldl_add_eq_sum, foldl_add_eq_sum]
  rfl

/-- A dimension's part of an address lies between the two ends of its span, whatever the sign of its stride. -/
theorem dimTerm_between {t : TDesc} {i : List Nat} {d : Nat} (h : ix i d < nth t.size d) :
    min 0 (dimSpan t d) ≤ dimTerm t i d ∧ dimTerm t i d ≤ max 0 (dimSpan t d) := by
  have hle : (ix i d : Int) ≤ (nth t.size d : Int) - 1 := by omega
  rcases Int.le_total 0 (ith t.stride d) with hpos | hneg
  · have h0 : 0 ≤ dimTerm t i d := Int.mul_nonneg (Int.natCast_nonneg _) hpos
    have h1 : dimTerm t i d ≤ dimSpan t d := Int.mul_le_mul_of_nonneg_right hle hpos
    omega
  · have h0 : dimTerm t i d ≤ 0 := Int.mul_nonpos_of_nonneg_of_nonpos (Int.natCast_nonneg _) hneg
    have h1 : dimSpan t d ≤ dimTerm t i d := Int.mul_le_mul_of_nonpos_right hle hneg
    omega

/-- The dimensions that the footprint of an S4 tensor leaves out of its sums are those that its addresses leave out. -/
theorem sum_filter_zero (p : Nat → Bool) (f : Nat → Int) (l : List Nat) :
    ((l.filter p).map f).sum = (l.map (fun d => if p d then f d else 0)).sum := by
  induction l with
  | nil => rfl
  | cons d l ih => cases h : p d <;> simp [h, ih]

theorem sum_le_of_le {f g : Nat → Int} {l : List Nat} (h : ∀ d ∈ l, f d ≤ g d) : (l.map f).sum ≤ (l.map g).sum := by
  induction l with
  | nil => exact Int.le_refl _
  | cons d l ih =>
    obtain ⟨hd, hl⟩ := List.forall_mem_cons.1 h
    exact Int.add_le_add hd (ih hl)

theorem footprint_holds_linear {t : TDesc} {i : List Nat} (hn : 0 < t.ndim) (hl : t.layout = 0)
    (hi : ∀ d < t.ndim, ix i d < nth t.size d) :
    (footprint t).1 ≤ (elemAddr t i).1 ∧ (elemAddr t i).1 + elemBytes t.etype - 1 ≤ (footprint t).2 := by
  have hterm : ∀ d ∈ List.range t.ndim, min 0 (dimSpan t d) ≤ dimTerm t i d ∧ dimTerm t i d ≤ max 0 (dimSpan t d) :=
    fun d hd => dimTerm_between (hi d (List.mem_range.1 hd))
  rw [footprint_linear hl]
  dsimp only
  by_cases he : t.etype = 1
  · have hlo := sum_le_of_le (f := fun d => if d = 0 then 0 else min 0 (dimSpan t d))
      (g := fun d => if d = 0 then 0 else dimTerm t i d) fun d hd => by
        split
        · exact Int.le_refl _
        · exact (hterm d hd).1
    have hhi := sum_le_of_le (f := fun d => if d = 0 then 0 else dimTerm t i d)
      (g := fun d => if d = 0 then 0 else max 0 (dimSpan t d)) fun d hd => by
        split
        · exact Int.le_refl _
        · exact (hterm d hd).2
    have h0 := hi 0 hn
    rw [elemAddr_s4 i hl he, sum_filter_zero, sum_filter_zero]
    simp only [he, if_true, beq_self_eq_true, Bool.true_and, Bool.not_eq_true', beq_eq_false_iff_ne, ne_eq, ite_not]
    omega
  · have hlo := sum_le_of_le fun d hd => (hterm d hd).1
    have hhi := sum_le_of_le fun d hd => (hterm d hd).2
    have hall : ∀ l : List Nat, l.filter (fun d => ! (t.etype == 1 && d == 0)) = l := by simp [he]
    rw [elemAddr_linear i hl he hn, hall]
    simp only [he, if_false]
    omega

/-- What the checks of a blocked descriptor leave (R302): 64 rows, whole columns for TILE, and blocks that do not overlap. -/
theorem tdParam_blocked {t : TDesc} {dev : Nat} (h : tdParam t dev = none) (hl : t.layout ≠ 0) :
    t.layout ≤ 3 ∧ t.ndim = 3 ∧ nth t.size 0 = 64 ∧ (t.layout = 3 → nth t.size 1 = 64) ∧
      ∃ b, blockBytes t = some b ∧ (b : Int) ≤ ith t.stride 2 := by
  unfold tdParam at h
  obtain ⟨-, h⟩ := check_none h
  obtain ⟨hlay, h⟩ := check_none h
  obtain ⟨hn, h⟩ := check_none h
  obtain ⟨-, h⟩ := check_none h
  obtain ⟨-, h⟩ := check_none h
  obtain ⟨-, h⟩ := check_none h
  obtain ⟨-, h⟩ := check_none h
  replace h := found_none h
  replace h := found_none h
  obtain ⟨-, h⟩ := check_none h
  rw [if_neg hl] at h
  obtain ⟨h64, h⟩ := check_none h
  obtain ⟨hk, h⟩ := check_none h
  obtain ⟨-, h⟩ := check_none h
  obtain ⟨-, h⟩ := check_none h
  split at h
  · cases h
  next b hb =>
    obtain ⟨hst, -⟩ := check_none h
    exact ⟨by omega, by omega, by omega, by omega, b, hb, by omega⟩

/-- An element of a blocked layout lies in the block of its dimension 2 (R302). -/
theorem elemAddr_blocked {t : TDesc} {i : List Nat} {b : Nat} (hl : t.layout ≠ 0) (hb : blockBytes t = some b)
    (h0 : ix i 0 < 64) (h1 : ix i 1 < nth t.size 1) (h64 : t.layout = 3 → nth t.size 1 = 64) :
    let start := localBase t + ix i 2 * ith t.stride 2
    start ≤ (elemAddr t i).1 ∧ (elemAddr t i).1 + elemBytes t.etype ≤ start + b := by
  intro start
  simp only [elemAddr, if_neg hl]
  unfold blockBytes at hb
  dsimp only at hb
  split at hb <;> cases hb <;>
  · rename_i hlay het
    simp only [hlay, het, elemBytes, cdiv, start, reduceIte, Nat.reduceEqDiff, forall_const] at h64 ⊢
    omega

theorem footprint_holds_blocked {t : TDesc} {dev : Nat} {i : List Nat} (hparam : tdParam t dev = none)
    (hl : t.layout ≠ 0) (hi : ∀ d < t.ndim, ix i d < nth t.size d) :
    (footprint t).1 ≤ (elemAddr t i).1 ∧ (elemAddr t i).1 + elemBytes t.etype - 1 ≤ (footprint t).2 := by
  obtain ⟨-, hn, h0, h64, b, hb, hst⟩ := tdParam_blocked hparam hl
  rw [hn] at hi
  obtain ⟨hlo, hhi⟩ := elemAddr_blocked hl hb (h0 ▸ hi 0 (by omega)) (hi 1 (by omega)) h64
  have h2 := dimTerm_between (hi 2 (by omega))
  have hpos : 0 ≤ dimSpan t 2 := Int.mul_nonneg (by have := hi 2 (by omega); omega) (by omega)
  have hterm : 0 ≤ dimTerm t i 2 := Int.mul_nonneg (Int.natCast_nonneg _) (by omega)
  have hfoot : footprint t = ((localBase t : Int), localBase t + dimSpan t 2 + b - 1) := by
    simp only [footprint, footprintAt, if_neg hl, hb, Option.getD_some, dimSpan]
  rw [hfoot]
  unfold dimTerm at h2 hterm
  dsimp only
  omega

/-- Settles O27, by the layout: LINEAR addresses lie between the ends of every dimension's span, and those of a blocked
layout in the block of their dimension 2. -/
theorem footprintHoldsEveryElement : Obligations.FootprintHoldsEveryElement := by
  intro t dev i hparam hi
  by_cases hl : t.layout = 0
  · exact footprint_holds_linear (tdParam_ndim hparam).1 hl hi
  · exact footprint_holds_blocked hparam hl hi

/-! ### Shards (R308) -/

theorem le_mul_cdiv {p : Nat} (g : Nat) (hp : 0 < p) : g ≤ p * cdiv g p := by
  have := Nat.lt_mul_div_succ (g + p - 1) hp
  unfold cdiv
  rw [Nat.mul_add, Nat.mul_one] at this
  omega

theorem cdiv_pos {g p : Nat} (hg : 0 < g) (hp : 0 < p) : 0 < cdiv g p := by
  unfold cdiv
  exact Nat.div_pos (by omega) hp

/-- Along a BLOCK dimension the parts cut the global indices into runs of B. -/
theorem block_part {t : TDesc} (dev : Nat) {d g : Nat} (hg : g < nth t.gsize d) (hs : shardOf t d = 1) :
    partOfIndex t dev d g < partsOf t d ∧ localIndex t d g < shardSize t d (partOfIndex t dev d g) ∧
      partOfIndex t dev d g * shardBlock t d + localIndex t d g = g := by
  have hp : 0 < partsOf t d := Nat.succ_pos _
  have hb : 0 < shardBlock t d := cdiv_pos (by omega) hp
  have hpart : partOfIndex t dev d g = g / shardBlock t d := by
    simp only [partOfIndex, hs, Nat.max_eq_right hb]
  have hloc : localIndex t d g = g % shardBlock t d := by
    simp only [localIndex, hs, Nat.max_eq_right hb]
  have hdiv : g / shardBlock t d * shardBlock t d + g % shardBlock t d = g := by
    rw [Nat.mul_comm]
    exact Nat.div_add_mod g _
  have hmod := Nat.mod_lt g hb
  rw [hpart, hloc]
  refine ⟨Nat.div_lt_of_lt_mul ?_, ?_, hdiv⟩
  · rw [Nat.mul_comm]
    exact Nat.lt_of_lt_of_le hg (le_mul_cdiv _ hp)
  · simp only [shardSize, hs, Nat.add_mul, Nat.one_mul]
    omega

/-- Along a CYCLIC dimension the parts take the global indices in turn. -/
theorem cyclic_part {t : TDesc} (dev : Nat) {d g : Nat} (hg : g < nth t.gsize d) (hs : shardOf t d = 2) :
    partOfIndex t dev d g < partsOf t d ∧ localIndex t d g < shardSize t d (partOfIndex t dev d g) ∧
      localIndex t d g * partsOf t d + partOfIndex t dev d g = g := by
  have hp : 0 < partsOf t d := Nat.succ_pos _
  have hdiv := Nat.div_add_mod g (partsOf t d)
  have hle := le_mul_cdiv (nth t.gsize d - g % partsOf t d) hp
  simp only [partOfIndex, localIndex, shardSize, hs]
  refine ⟨Nat.mod_lt _ hp, Nat.lt_of_mul_lt_mul_left (a := partsOf t d) (by omega), ?_⟩
  rw [Nat.mul_comm]
  exact hdiv

/-! ### The kind of a move (R324) -/

/-- A list that holds every member of a list without repetitions, and is no longer, is a permutation of it. -/
theorem perm_of_nodup_subset {l p : List Nat} (hl : l.Nodup) (hsub : ∀ d ∈ l, d ∈ p) (hlen : p.length ≤ l.length) :
    p.Perm l := by
  induction l generalizing p with
  | nil => exact List.eq_nil_of_length_eq_zero (Nat.le_zero.1 hlen) ▸ .refl _
  | cons a l ih =>
    obtain ⟨ha, hl⟩ := List.nodup_cons.1 hl
    obtain ⟨hap, hrest⟩ := List.forall_mem_cons.1 hsub
    refine (List.perm_cons_erase hap).trans ((ih hl (fun d hd => ?_) ?_).cons a)
    · have hne : d ≠ a := fun e => ha (e ▸ hd)
      exact (List.mem_erase_of_ne hne).2 (hrest d hd)
    · rw [List.length_erase_of_mem hap]
      exact Nat.sub_le_of_le_add hlen

/-- A swap of two dimensions permutes them. -/
theorem swap_perm_range {a b n : Nat} (ha : a < n) (hb : b < n) :
    ((List.range n).map (fun d => if d = a then b else if d = b then a else d)).Perm (List.range n) := by
  refine perm_of_nodup_subset List.nodup_range (fun d hd => ?_) (by simp)
  refine List.mem_map.2 ⟨if d = a then b else if d = b then a else d, ?_, ?_⟩
  · have := List.mem_range.1 hd
    exact List.mem_range.2 (by split; exact hb; split; exact ha; exact this)
  · grind

/-- A list as long as the range that holds all of it is a permutation of it. -/
theorem perm_range_of_all {p : List Nat} {n : Nat} (hlen : p.length = n)
    (h : (List.range n).all (fun d => p.contains d) = true) : p.Perm (List.range n) :=
  perm_of_nodup_subset List.nodup_range (fun d hd => by simpa using List.all_eq_true.1 h d hd) (by simp [hlen])

theorem permOf_perm {kind perm ndim : Nat} {p : List Nat} (h : permOf kind perm ndim = some p) :
    p.Perm (List.range ndim) := by
  unfold permOf at h
  split at h
  case h_1 =>
    split at h <;> cases h
    exact .refl _
  case h_2 =>
    dsimp only at h
    split at h <;> cases h
    next hab => exact swap_perm_range (by omega) hab.2.1
  case h_3 =>
    dsimp only at h
    split at h <;> cases h
    next hall => exact perm_range_of_all (by simp) hall.2
  case h_4 => cases h

/-- Settles O29, by the kind of the dimension and of the move. -/
theorem shardPartsAndMoveKindsAreOneToOne : Obligations.ShardPartsAndMoveKindsAreOneToOne := by
  refine ⟨fun t dev d g hg => ⟨fun hs _ => block_part dev hg hs, fun hs _ => cyclic_part dev hg hs, fun hs _ => ?_⟩,
    fun kind perm ndim p => permOf_perm⟩
  simp only [partOfIndex, localIndex, shardSize, hs]
  exact ⟨trivial, trivial, trivial⟩

end Sys2Proof.Machine
end

section
/-! PROOFS. The firewall test (R17, R20) with O18: the first region that the listing finds is the lowest-numbered one. -/

namespace Sys2Proof.Machine

open Sys2Proof

/-! ### Tables in rising order -/

/-- In a table in rising order, an entry that is listed is the one found under its key. -/
theorem tabGet?_of_mem {α : Type} {w : Tab α} (hw : w.Pairwise (fun x y => x.1 < y.1)) {e : Nat × α} (he : e ∈ w) :
    tabGet? w e.1 = some e.2 := by
  induction w with
  | nil => cases he
  | cons x w ih =>
    obtain ⟨hx, hw⟩ := List.pairwise_cons.1 hw
    rcases List.mem_cons.1 he with rfl | he
    · simp [tabGet?]
    · have hne : x.1 ≠ e.1 := Nat.ne_of_lt (hx e he)
      simp [tabGet?, hne, ih hw he]

theorem mem_of_tabGet? {α : Type} {w : Tab α} {k : Nat} {v : α} (h : tabGet? w k = some v) : (k, v) ∈ w := by
  induction w with
  | nil => cases h
  | cons x w ih =>
    unfold tabGet? at h
    split at h
    next hk =>
      cases h
      exact List.mem_cons.2 (.inl (by rw [← hk]))
    · exact List.mem_cons.2 (.inr (ih h))

/-- What a search of a table in rising order finds is the entry with the least key. -/
theorem find?_rising {α : Type} {w : Tab α} (hw : w.Pairwise (fun x y => x.1 < y.1)) (p : Nat × α → Bool) (e : Nat × α) :
    w.find? p = some e ↔ e ∈ w ∧ p e = true ∧ ∀ x ∈ w, x.1 < e.1 → ¬ p x = true := by
  induction w with
  | nil => simp
  | cons x w ih =>
    obtain ⟨hx, hw⟩ := List.pairwise_cons.1 hw
    rw [List.find?_cons]
    split
    next hp =>
      constructor
      · rintro ⟨⟩
        refine ⟨List.mem_cons_self, hp, fun y hy hlt => ?_⟩
        rcases List.mem_cons.1 hy with rfl | hy
        · exact absurd hlt (Nat.lt_irrefl _)
        · exact absurd (hx y hy) (Nat.lt_asymm hlt)
      · rintro ⟨he, -, hleast⟩
        rcases List.mem_cons.1 he with rfl | he
        · rfl
        · exact absurd hp (hleast x List.mem_cons_self (hx e he))
    next hp =>
      rw [ih hw]
      constructor
      · rintro ⟨he, hpe, hleast⟩
        refine ⟨List.mem_cons_of_mem _ he, hpe, fun y hy hlt => ?_⟩
        rcases List.mem_cons.1 hy with rfl | hy
        · simp [hp]
        · exact hleast y hy hlt
      · rintro ⟨he, hpe, hleast⟩
        rcases List.mem_cons.1 he with rfl | he
        · rw [hp] at hpe
          cases hpe
        · exact ⟨he, hpe, fun y hy => hleast y (List.mem_cons_of_mem _ hy)⟩

/-! ### The regions of a target -/

/-- A region that is in force and contains an address. -/
def fwCovers (r : FwRegion) (a : Nat) : Bool := r.en && fwHas r a

theorem fwAllows_iff (s : State) (t dom a len : Nat) (wr : Bool) :
    fwAllows s t dom wr a len = true ↔ ∃ r, (fwRegions s t).find? (fun r => fwCovers r a) = some r ∧
      fwHas r (a + len - 1) = true ∧ (if wr then r.wr.getLsbD dom else r.rd.getLsbD dom) = true := by
  unfold fwAllows fwCovers
  split
  next h => simp [h]
  next r h => simp [h]

theorem fw63_unlisted {s : State} (t : Nat) (h63 : ∀ e ∈ s.fw, e.1 % 64 ≠ 63) : tabGet? s.fw (t * 64 + 63) = none := by
  cases h : tabGet? s.fw (t * 64 + 63) with
  | none => rfl
  | some r => exact absurd (by omega) (h63 _ (mem_of_tabGet? h))

theorem fwRegions_eq {s : State} {t : Nat} (h63 : ∀ e ∈ s.fw, e.1 % 64 ≠ 63) (hg : traceGrants s t = []) :
    fwRegions s t = fwListed s t ++ [fwDefault63] := by
  simp [fwRegions, fw63_unlisted t h63, hg]

theorem fwOf_63 {s : State} (t : Nat) (h63 : ∀ e ∈ s.fw, e.1 % 64 ≠ 63) : fwOf s t 63 = fwDefault63 := by
  simp [fwOf, tabGet, fw63_unlisted t h63]

/-- A region below 63 that covers an address is a listed one: at reset those are disabled (R20). -/
theorem fwOf_listed {s : State} {t n a : Nat} (hn : n ≠ 63) (hc : fwCovers (fwOf s t n) a = true) :
    (t * 64 + n, fwOf s t n) ∈ s.fw := by
  cases h : tabGet? s.fw (t * 64 + n) with
  | none =>
    have hdef : fwOf s t n = fwDefault := by simp [fwOf, tabGet, h, hn]
    rw [hdef] at hc
    cases hc
  | some r =>
    have hr : fwOf s t n = r := by simp [fwOf, tabGet, h]
    exact hr ▸ mem_of_tabGet? h

theorem fwOf_of_mem {s : State} {t : Nat} (hw : s.fw.Pairwise (fun x y => x.1 < y.1)) {e : Nat × FwRegion}
    (he : e ∈ s.fw) (ht : e.1 / 64 = t) : fwOf s t (e.1 % 64) = e.2 := by
  have hkey : t * 64 + e.1 % 64 = e.1 := by omega
  simp [fwOf, tabGet, hkey, tabGet?_of_mem hw he]

/-- The search through a target's regions finds the lowest-numbered one that covers the address. -/
theorem fwRegions_find?_iff {s : State} {t : Nat} (hw : s.fw.Pairwise (fun x y => x.1 < y.1))
    (h63 : ∀ e ∈ s.fw, e.1 % 64 ≠ 63) (hg : traceGrants s t = []) (a : Nat) (r : FwRegion) :
    (fwRegions s t).find? (fun r => fwCovers r a) = some r ↔ ∃ n < 64, fwOf s t n = r ∧ fwCovers r a = true ∧
      ∀ m < n, ¬ fwCovers (fwOf s t m) a = true := by
  rw [fwRegions_eq h63 hg, fwListed, List.find?_append, List.find?_map, List.find?_filter]
  cases hfind : s.fw.find? (fun e => decide ((e.1 / 64 == t) = true ∧ ((fun r => fwCovers r a) ∘ fun e => e.2) e = true)) with
  | some e =>
    obtain ⟨he, hp, hleast⟩ := (find?_rising hw _ e).1 hfind
    simp only [decide_eq_true_eq, beq_iff_eq, Function.comp_apply] at hp hleast
    obtain ⟨ht, hc⟩ := hp
    have hof := fwOf_of_mem hw he ht
    have hnone : ∀ m < e.1 % 64, ¬ fwCovers (fwOf s t m) a = true := fun m hm hcm =>
      hleast _ (fwOf_listed (by omega) hcm) (by dsimp only; omega) ⟨by dsimp only; omega, hcm⟩
    simp only [Option.map_some, Option.some_or, Option.some.injEq]
    constructor
    · rintro rfl
      exact ⟨e.1 % 64, Nat.mod_lt _ (by decide), hof, hc, hnone⟩
    · rintro ⟨n, -, rfl, hcn, hlow⟩
      rcases Nat.lt_trichotomy n (e.1 % 64) with h | h | h
      · exact absurd hcn (hnone n h)
      · rw [h, hof]
      · exact absurd (hof ▸ hc) (hlow _ h)
  | none =>
    have hnone : ∀ m < 63, ¬ fwCovers (fwOf s t m) a = true := fun m hm hcm => by
      have := List.find?_eq_none.1 hfind _ (fwOf_listed (by omega) hcm)
      simp only [decide_eq_true_eq, beq_iff_eq, Function.comp_apply, not_and] at this
      exact this (by omega) hcm
    simp only [Option.map_none, Option.none_or, List.find?_singleton]
    constructor
    · split
      next hc =>
        rintro ⟨⟩
        exact ⟨63, by decide, fwOf_63 t h63, hc, hnone⟩
      · rintro ⟨⟩
    · rintro ⟨n, hn, rfl, hcn, -⟩
      have hn63 : n = 63 := by
        refine Decidable.byContradiction fun hne => ?_
        exact hnone n (by omega) hcn
      subst hn63
      rw [fwOf_63 t h63] at hcn ⊢
      rw [if_pos hcn]

/-- Settles O18: the test takes the first region that the search finds, and that is the lowest-numbered one. -/
theorem firewallTakesTheLowestRegion : Obligations.FirewallTakesTheLowestRegion := by
  intro s t dom a len wr hw h63 hg
  rw [fwAllows_iff]
  simp only [fwRegions_find?_iff hw h63 hg]
  simp only [fwCovers, Bool.and_eq_true]
  constructor
  · rintro ⟨r, ⟨n, hn, rfl, ⟨hen, hhas⟩, hlow⟩, hend, hbit⟩
    exact ⟨n, hn, hen, hhas, hlow, hend, hbit⟩
  · rintro ⟨n, hn, hen, hhas, hlow, hend, hbit⟩
    exact ⟨_, ⟨n, hn, rfl, ⟨hen, hhas⟩, hlow⟩, hend, hbit⟩

end Sys2Proof.Machine
end

section
/-! PROOFS. What a read of local addresses can change besides what it reads (R17, R18, R177, R189, R402, R511): reports, the
marks and counts of the ECC errors that it meets, and the doubt that they open. -/

namespace Sys2Proof.Machine

open Sys2Proof

/-- Nothing changed but what reads report: the marks of granules that an error poisons, errors met, lines dropped, the counts
of ECC, events, and the doubt conditions with DOUBT_N. -/
def ReadsOnly (s t : State) : Prop :=
  DoubtOnly { s with marks := t.marks, eccBad := t.eccBad, wcache := t.wcache, eccCnt := t.eccCnt, eccWin := t.eccWin,
                     freeCnt := t.freeCnt } t

theorem ReadsOnly.refl (s : State) : ReadsOnly s s := rfl

theorem ReadsOnly.trans {s t u : State} (h : ReadsOnly s t) (k : ReadsOnly t u) : ReadsOnly s u := by
  unfold ReadsOnly DoubtOnly at h k ⊢
  rw [h] at k
  exact k

theorem ReadsOnly.behind {s t u : State} (k : ReadsOnly t u) (h : ReadsOnly s t) : ReadsOnly s u := h.trans k

theorem DoubtOnly.reads {s t : State} (h : DoubtOnly s t) : ReadsOnly s t := by
  unfold DoubtOnly at h
  unfold ReadsOnly DoubtOnly
  rw [h]

theorem EventsOnly.reads {s t : State} (h : EventsOnly s t) : ReadsOnly s t := h.doubt.reads

/-- A fold whose every step changes only what reads report changes no more. -/
theorem ReadsOnly.foldl {α : Type} {f : State → α → State} (hf : ∀ s x, ReadsOnly s (f s x)) (l : List α) (s : State) :
    ReadsOnly s (l.foldl f s) := by
  induction l generalizing s with
  | nil => exact .refl s
  | cons x l ih => exact (hf s x).trans (ih _)

/-! ### ECC -/

theorem eccCorrected_reads (s : State) (cls unit key : Nat) (arg : List Byte) : ReadsOnly s (eccCorrected s cls unit key arg) := by
  unfold eccCorrected
  dsimp only
  split
  · rfl
  · exact ReadsOnly.behind (postEvent_only _ _ _ _ _).reads rfl

theorem eccUncorr_reads (s : State) (cls unit : Nat) (grans : List Nat) (arg : List Byte) :
    ReadsOnly s (eccUncorr s cls unit grans arg) :=
  ReadsOnly.behind (raiseDoubt_only _ _ _ _ _ _ _ _).reads rfl

theorem bump_reads (s : State) (c u i n : Nat) : ReadsOnly s (bump s c u i n) := (EventsOnly.bump s c u i n).reads

theorem fsEcc_reads (s : State) (bank row : Nat) (found : EccFind) : ReadsOnly s (fsEcc s bank row found) := by
  cases found with
  | clean => exact .refl s
  | corrected => exact (bump_reads s _ _ _ _).trans (eccCorrected_reads _ _ _ _ _)
  | uncorrectable => exact eccUncorr_reads _ _ _ _ _

theorem spmEcc_reads (s : State) (core row : Nat) (found : EccFind) : ReadsOnly s (spmEcc s core row found) := by
  cases found with
  | clean => exact .refl s
  | corrected => exact (bump_reads s _ _ _ _).trans (eccCorrected_reads _ _ _ _ _)
  | uncorrectable => exact eccUncorr_reads _ _ _ _ _

theorem ddrEcc_reads (s : State) (addr : Nat) (isCode : Bool) (found : EccFind) (rank bank row : Nat) :
    ReadsOnly s (ddrEcc s addr isCode found rank bank row) := by
  cases found with
  | clean => exact .refl s
  | corrected => exact (bump_reads s _ _ _ _).trans (eccCorrected_reads _ _ _ _ _)
  | uncorrectable => exact eccUncorr_reads _ _ _ _ _

theorem traceEcc_reads (s : State) (addr : Nat) (found : EccFind) : ReadsOnly s (traceEcc s addr found) := by
  cases found with
  | clean => exact .refl s
  | corrected => exact eccCorrected_reads _ _ _ _ _
  | uncorrectable => exact eccUncorr_reads _ _ _ _ _

theorem tableEcc_reads (s : State) (addr : Nat) (found : EccFind) : ReadsOnly s (tableEcc s addr found) := by
  cases found with
  | clean => exact .refl s
  | corrected => exact eccCorrected_reads _ _ _ _ _
  | uncorrectable => exact eccUncorr_reads _ _ _ _ _

theorem fifoEcc_reads (s : State) (port : Nat) (found : EccFind) : ReadsOnly s (fifoEcc s port found) := by
  cases found with
  | clean => exact .refl s
  | corrected => exact ReadsOnly.behind (eccCorrected_reads _ _ _ _ _) rfl
  | uncorrectable => exact ReadsOnly.behind (eccUncorr_reads _ _ _ _ _) rfl

theorem lineEcc_reads (s : State) (addr : Nat) (found : EccFind) : ReadsOnly s (lineEcc s addr found) := by
  unfold lineEcc
  dsimp only
  split
  · exact .refl s
  · cases found with
    | clean => exact .refl s
    | corrected => rfl
    | uncorrectable => exact ReadsOnly.behind (eccUncorr_reads _ _ _ _ _) rfl

theorem eccFound_reads (s : State) (x : EccHit) : ReadsOnly s (eccFound s x) := by
  unfold eccFound
  split
  · exact lineEcc_reads _ _ _
  · split
    · exact ddrEcc_reads _ _ _ _ _ _ _
    · exact .refl s
  · exact .refl s
  · split
    · exact ddrEcc_reads _ _ _ _ _ _ _
    · exact fsEcc_reads _ _ _ _
    · exact traceEcc_reads _ _ _
    · exact tableEcc_reads _ _ _
    · split
      · exact spmEcc_reads _ _ _ _
      · exact .refl s
    · exact .refl s

theorem eccMeet_reads (s : State) (x : EccHit) : ReadsOnly s (eccMeet s x) := by
  unfold eccMeet
  dsimp only
  split
  · exact eccFound_reads s x
  · exact (eccFound_reads s x).trans rfl

/-! ### Reads -/

theorem meet_reads (reads : Nat → Bool) (s : State) : ReadsOnly s (meet reads s) :=
  ReadsOnly.foldl (fun s x => by
    split
    · exact eccMeet_reads s x
    · exact .refl s) _ s

theorem meetRange_reads (a len : Nat) (s : State) : ReadsOnly s (meetRange a len s) := meet_reads _ s

theorem countMerges_reads (gs : List Nat) (s : State) : ReadsOnly s (countMerges gs s) :=
  ReadsOnly.foldl (fun s g => by
    split
    · split
      · exact bump_reads _ _ _ _ _
      · split
        · exact bump_reads _ _ _ _ _
        · exact .refl s
    · exact .refl s) _ s

theorem meetMerge_reads (a len : Nat) (s : State) : ReadsOnly s (meetMerge a len s) :=
  (meet_reads _ s).trans (countMerges_reads _ _)

theorem denyEvent_only (s : State) (dom a len : Nat) : EventsOnly s (denyEvent s dom a len) := by
  unfold denyEvent
  split
  · exact .refl s
  · exact postEvent_only _ _ _ _ _

theorem access_only (s : State) (dom : Nat) (wr : Bool) (a len : Nat) : EventsOnly s (access s dom wr a len).1 := by
  unfold access
  dsimp only
  split
  · exact denyEvent_only s dom a len
  · exact .refl s

theorem readLocal_reads (s : State) (dom a len : Nat) : ReadsOnly s (readLocal s dom a len).1 := by
  unfold readLocal
  have h := (access_only s dom false a len).reads
  generalize access s dom false a len = x at h
  obtain ⟨s', st⟩ := x
  dsimp only at h ⊢
  split
  · exact h.trans (meetRange_reads _ _ _)
  · exact h
  · exact h

theorem readStruct_reads (s : State) (cls unit dom a len : Nat) : ReadsOnly s (readStruct s cls unit dom a len).1 := by
  unfold readStruct
  split
  · dsimp only
    split
    · exact (denyEvent_only _ _ _ _).reads
    · exact .refl s
  · dsimp only
    split
    · exact (meetRange_reads a len s).trans (travelMismatch_only _ _ _ _ _ _).reads
    · exact meetRange_reads a len s

/-! ### Reads while no error stands -/

/-- With no error standing a read meets none. -/
theorem meet_clean {s : State} (reads : Nat → Bool) (h : s.eccBad = []) : meet reads s = s := by
  unfold meet
  rw [h]
  rfl

theorem meetRange_clean {s : State} (a len : Nat) (h : s.eccBad = []) : meetRange a len s = s := meet_clean _ h

/-- A structure that is read with OK while no error stands leaves the state as it is. -/
theorem readStruct_clean {s : State} {cls unit dom a len : Nat} (h : s.eccBad = [])
    (hok : (readStruct s cls unit dom a len).2.1 = .ok) : (readStruct s cls unit dom a len).1 = s := by
  unfold readStruct at hok ⊢
  split
  next g st hbar =>
    rw [hbar] at hok
    have hst : st = .ok := hok
    subst hst
    rfl
  next hbar =>
    rw [hbar] at hok
    rw [meetRange_clean a len h] at hok ⊢
    dsimp only at hok ⊢
    split at hok
    · cases hok
    next hb => rw [if_neg hb]

end Sys2Proof.Machine
end

section
/-! PROOFS. GRAPH_LOAD (R190, R195, R205 to R213) with O40: what a load has bound so far stands apart from the state at the
command's start, so that giving it up leaves that state but for what reads report. -/

namespace Sys2Proof.Machine

open Sys2Proof

/-! ### The entry of a channel -/

/-- An entry's 128 bytes with the status of its read: the cached copy, or the one in DDR5 (R81). -/
def entryRead (s : State) (dom chan : Nat) : State × Status × List Byte :=
  match s.chans.cache.find? (fun e => e.1 == chan) with
  | some e => (s, Status.ok, e.2)
  | none => readStruct s 13 0 dom (s.chans.base + chan * 128) 128

/-- The checks of an entry that was read (R79, R80), and its place in the cache. -/
def entryChecked (dom chan type : Nat) (x : State × Status × List Byte) : State × Sum CmdRes (List Byte) :=
  if x.2.1 ≠ .ok then (x.1, .inl (.done x.2.1 []))
  else if crc32c (x.2.2.take 124) ≠ fieldAt x.2.2 124 4 ∨ fieldAt x.2.2 0 1 ≠ type then (x.1, .inl (.done .badEntry []))
  else match entryResvBad x.2.2 with
    | some o => (x.1, .inl (.done .badField (detailOf o chan 2)))
    | none =>
      if fieldAt x.2.2 1 1 ≠ dom then (x.1, .inl (.done .denied []))
      else ({ x.1 with chans := { x.1.chans with cache := cacheUse x.1.chans.cache chan x.2.2 } }, .inr x.2.2)

theorem fetchEntry_eq (s : State) (dom chan type off : Nat) : fetchEntry s dom chan type off =
    if s.chans.count ≤ chan then (s, .inl (.done .badParam (detail off)))
    else entryChecked dom chan type (entryRead s dom chan) := by
  unfold fetchEntry entryRead
  split
  · rfl
  · cases s.chans.cache.find? (fun e => e.1 == chan) <;> rfl

theorem entryRead_reads (s : State) (dom chan : Nat) : ReadsOnly s (entryRead s dom chan).1 := by
  unfold entryRead
  split
  · exact .refl s
  · exact readStruct_reads _ _ _ _ _ _

theorem entryRead_clean {s : State} {dom chan : Nat} (h : s.eccBad = []) (hok : (entryRead s dom chan).2.1 = .ok) :
    (entryRead s dom chan).1 = s := by
  unfold entryRead at hok ⊢
  split
  · rfl
  next hnone =>
    rw [hnone] at hok
    exact readStruct_clean h hok

/-- The checks of an entry leave the state that its read left, but for the cache. -/
theorem entryChecked_chans (dom chan type : Nat) (x : State × Status × List Byte) :
    (entryChecked dom chan type x).1 = { x.1 with chans := (entryChecked dom chan type x).1.chans } := by
  unfold entryChecked
  split
  · rfl
  · split
    · rfl
    · split
      · rfl
      · split <;> rfl

theorem entryChecked_ok {dom chan type : Nat} {x : State × Status × List Byte} {s : State} {e : List Byte}
    (h : entryChecked dom chan type x = (s, .inr e)) : x.2.1 = .ok := by
  unfold entryChecked at h
  split at h
  · cases h
  next hst => exact Classical.not_not.1 hst

/-- Looking an entry up changes the cache of entries and what its read reports. -/
theorem fetchEntry_reads (s : State) (dom chan type off : Nat) :
    ReadsOnly { s with chans := (fetchEntry s dom chan type off).1.chans } (fetchEntry s dom chan type off).1 := by
  rw [fetchEntry_eq]
  split
  · rfl
  · have h := entryRead_reads s dom chan
    rw [entryChecked_chans]
    unfold ReadsOnly DoubtOnly at h ⊢
    rw [h]

/-- An entry found while no error stands: nothing but the cache of entries has changed. -/
theorem fetchEntry_clean {s s' : State} {dom chan type off : Nat} {e : List Byte} (h : s.eccBad = [])
    (hok : fetchEntry s dom chan type off = (s', .inr e)) : s' = { s with chans := s'.chans } := by
  rw [fetchEntry_eq] at hok
  split at hok
  · cases hok
  · have hs := entryChecked_chans dom chan type (entryRead s dom chan)
    rw [entryRead_clean h (entryChecked_ok hok), hok] at hs
    exact hs

/-! ### A candidate given up -/

/-- A candidate that holds, beside what it binds, only what reads report since the command's start. -/
def Pending (s c : State) : Prop := ReadsOnly s (undoLoad s c)

theorem Pending.reads {s c d : State} (h : Pending s c) (k : ReadsOnly c d) : Pending s d := by
  refine ReadsOnly.trans h ?_
  unfold ReadsOnly DoubtOnly at k ⊢
  rw [k]
  rfl

theorem Pending.fetch {s c : State} (h : Pending s c) (dom chan type off : Nat) :
    Pending s (fetchEntry c dom chan type off).1 :=
  Pending.reads (c := { c with chans := (fetchEntry c dom chan type off).1.chans }) h (fetchEntry_reads c dom chan type off)

/-- A step of the load goes wrong with what is left when the candidate is given up, or goes on with the candidate. -/
def StepSound (s : State) : LoadStep → Prop
  | .inl e => ReadsOnly s e.1
  | .inr c => Pending s c

theorem StepSound.then {s : State} {x : LoadStep} {f : State → LoadStep} (hx : StepSound s x)
    (hf : ∀ c, Pending s c → StepSound s (f c)) : StepSound s (loadThen x f) := by
  cases x with
  | inl e => exact hx
  | inr c => exact hf c hx

theorem StepSound.foldl {α : Type} {s : State} {f : α → State → LoadStep}
    (hf : ∀ i c, Pending s c → StepSound s (f i c)) (l : List α) {x : LoadStep} (hx : StepSound s x) :
    StepSound s (l.foldl (fun x i => loadThen x (f i)) x) := by
  induction l generalizing x with
  | nil => exact hx
  | cons i l ih => exact ih (hx.then (hf i))

theorem loadCheck_sound {s c : State} (b : Option Bad) (h : Pending s c) : StepSound s (loadCheck s c b) := by
  cases b <;> exact h

theorem bindDma_sound {s : State} (a : LoadArgs) (k : Nat) {c : State} (h : Pending s c) : StepSound s (bindDma s a k c) := by
  unfold bindDma
  dsimp only
  have hf := h.fetch a.dom (fieldAt (nodeE a.img k) 2 2) 1 0
  split
  · exact h
  · split
    next e => rw [e] at hf; exact hf
    next e =>
      rw [e] at hf
      split
      · exact hf
      · split
        · exact hf
        · exact hf

theorem bindStream_sound {s : State} (a : LoadArgs) (i : Nat) {c : State} (h : Pending s c) :
    StepSound s (bindStream s a i c) := by
  unfold bindStream
  split
  next ch lane r _ =>
  have hf := h.fetch a.dom ch 6 0
  split
  · exact h
  · split
    next e => rw [e] at hf; exact hf
    next c' e he =>
      rw [he] at hf
      have h1 := hf.reads (readStruct_reads c' 13 0 a.dom (fieldAt e 16 8) 128)
      have h2 := h1.reads (readStruct_reads _ 13 0 a.dom (fieldAt e 24 8) 128)
      split
      · exact hf
      · dsimp only
        split
        · exact h1
        · split
          · exact h2
          · exact h2

/-! ### What a load binds -/

/-- A fold whose every step leaves one part of the state leaves that part. -/
theorem foldl_keeps_part {α β : Type} {π : State → β} {f : State → α → State} (hf : ∀ s x, π (f s x) = π s) (l : List α)
    (s : State) : π (l.foldl f s) = π s := by
  induction l generalizing s with
  | nil => rfl
  | cons x l ih => exact (ih _).trans (hf s x)

/-- The graph of an image as it is entered. -/
def graphOfImage (s : State) (img : List Byte) (dom : Nat) (sx7 : Bool) (ways mask : Nat) (p : Places) : Graph :=
  { st := .loaded, order := nextOrder s, holding := false, holdAcc := 0, stopping := false, dom := dom, salt := 0, mask := 0,
    sx7 := sx7, ways := (freeWays s).take ways, base := p.node, nodes := imgNodes img, linkBase := p.link,
    linkLen := sectCount img 2 4, descBase := p.desc, descLen := sectCount img 3 64,
    lanes := (List.range (imgLanes img)).map (laneOfImage img p), pool := poolCores mask,
    tensors := (List.range (sectCount img 6 128)).map (sectEntry img 6 128),
    edits := (List.range (sectCount img 8 24)).map (sectEntry img 8 24), aborted := 0, charge := chargeNone }

/-- An image's tables leave all that is not bound by a load, and enter one graph. -/
theorem withImage_part {β : Type} (π : State → β) (hnode : ∀ s n x, π (setNode s n x) = π s)
    (hlink : ∀ (s : State) l, π { s with links := l } = π s) (hdesc : ∀ (s : State) d, π { s with descs := d } = π s)
    (hsem : ∀ s n x, π (setSem s n x) = π s) (s : State) (img : List Byte) (g dom : Nat) (sx7 : Bool) (ways mask : Nat)
    (p : Places) :
    π (withImage s img g dom sx7 ways mask p) = π (setGraph s g (graphOfImage s img dom sx7 ways mask p)) := by
  unfold withImage
  dsimp only
  refine (foldl_keeps_part (fun s e => ?_) _ _).trans ((foldl_keeps_part (fun s i => ?_) _ _).trans
    ((foldl_keeps_part (fun s e => ?_) _ _).trans ((foldl_keeps_part (fun s k => ?_) _ _).trans rfl)))
  · exact hsem s _ _
  · exact hdesc s _
  · exact hlink s _
  · exact hnode s _ _

theorem undoLoad_withImage (s₀ s : State) (img : List Byte) (g dom : Nat) (sx7 : Bool) (ways mask : Nat) (p : Places) :
    undoLoad s₀ (withImage s img g dom sx7 ways mask p) = undoLoad s₀ s :=
  withImage_part (undoLoad s₀) (fun _ _ _ => rfl) (fun _ _ => rfl) (fun _ _ => rfl) (fun _ _ _ => rfl) s img g dom sx7 ways
    mask p

theorem withImage_graphs (s : State) (img : List Byte) (g dom : Nat) (sx7 : Bool) (ways mask : Nat) (p : Places) :
    (withImage s img g dom sx7 ways mask p).graphs = tabSet g (graphOfImage s img dom sx7 ways mask p) s.graphs :=
  withImage_part (·.graphs) (fun _ _ _ => rfl) (fun _ _ => rfl) (fun _ _ => rfl) (fun _ _ _ => rfl) s img g dom sx7 ways mask p

theorem undoLoad_bindFlows (s : State) (a : LoadArgs) (n : Nat) (bs : List Byte) (c : State) :
    undoLoad s (bindFlows a n bs c) = undoLoad s c :=
  foldl_keeps_part (π := undoLoad s) (f := fun c _ => setFlow c _ _) (fun _ _ => rfl) _ c

theorem bindFlows_graphs (a : LoadArgs) (n : Nat) (bs : List Byte) (c : State) : (bindFlows a n bs c).graphs = c.graphs :=
  foldl_keeps_part (π := (·.graphs)) (f := fun c _ => setFlow c _ _) (fun _ _ => rfl) _ c

theorem undoLoad_bindFlags (s : State) (a : LoadArgs) (l : List (Nat × Producer)) (fs : List Nat) (c : State) :
    undoLoad s (fs.foldl (bindFlag a l) c) = undoLoad s c :=
  foldl_keeps_part (π := undoLoad s) (f := bindFlag a l) (fun _ _ => rfl) _ c

theorem bindFlags_graphs (a : LoadArgs) (l : List (Nat × Producer)) (fs : List Nat) (c : State) :
    (fs.foldl (bindFlag a l) c).graphs = c.graphs :=
  foldl_keeps_part (π := (·.graphs)) (f := bindFlag a l) (fun _ _ => rfl) _ c

theorem loadCandidate_sound (s : State) (a : LoadArgs) (flows : List Byte) : StepSound s (loadCandidate s a flows) := by
  unfold loadCandidate
  dsimp only
  refine StepSound.then (StepSound.foldl (fun i _ h => bindStream_sound a i h) _
    (StepSound.foldl (fun k _ h => bindDma_sound a k h) _ (loadCheck_sound _ ?_))) fun c h => loadCheck_sound _ ?_
  · unfold Pending
    rw [undoLoad_withImage]
    rfl
  · unfold Pending at h ⊢
    rw [undoLoad_bindFlags, undoLoad_bindFlows]
    exact h

/-! ### A load that goes through while no error stands -/

/-- A candidate whose reads have changed nothing, with one graph entered. -/
def Entered (s : State) (g : Nat) (x : Graph) (c : State) : Prop := undoLoad s c = s ∧ c.graphs = tabSet g x s.graphs

theorem Entered.eccBad {s c : State} {g : Nat} {x : Graph} (hclean : s.eccBad = []) (h : Entered s g x c) : c.eccBad = [] := by
  rw [← hclean, ← h.1]
  rfl

theorem Entered.fetch {s c c' : State} {g : Nat} {x : Graph} {dom chan type off : Nat} {e : List Byte}
    (hclean : s.eccBad = []) (h : Entered s g x c) (hf : fetchEntry c dom chan type off = (c', .inr e)) : Entered s g x c' := by
  rw [fetchEntry_clean (h.eccBad hclean) hf]
  exact h

theorem loadThen_inr {x : LoadStep} {f : State → LoadStep} {c : State} (h : loadThen x f = .inr c) :
    ∃ b, x = .inr b ∧ f b = .inr c := by
  cases x with
  | inl e => cases h
  | inr b => exact ⟨b, rfl, h⟩

theorem loadCheck_inr {s c d : State} {b : Option Bad} (h : loadCheck s c b = .inr d) : d = c := by
  cases b <;> cases h
  rfl

/-- A property that every step passes on, where it goes on, holds of the candidate that the steps leave. -/
theorem loadFold_inr {α : Type} {P : State → Prop} {f : α → State → LoadStep}
    (hf : ∀ i b c, P b → f i b = .inr c → P c) (l : List α) {x : LoadStep} {c : State} (hx : ∀ b, x = .inr b → P b)
    (h : l.foldl (fun x i => loadThen x (f i)) x = .inr c) : P c := by
  induction l generalizing x with
  | nil => exact hx c h
  | cons i l ih =>
    refine ih (fun b hb => ?_) h
    obtain ⟨a, rfl, ha⟩ := loadThen_inr hb
    exact hf i a b (hx a rfl) ha

theorem bindDma_entered {s b c : State} {g : Nat} {x : Graph} (a : LoadArgs) (k : Nat) (hclean : s.eccBad = [])
    (h : Entered s g x b) (hb : bindDma s a k b = .inr c) : Entered s g x c := by
  unfold bindDma at hb
  dsimp only at hb
  split at hb
  · cases hb
    exact h
  · split at hb
    · cases hb
    next hf =>
      split at hb
      · cases hb
      · split at hb
        · cases hb
        · cases hb
          have hc' := h.fetch hclean hf
          exact hc'

theorem bindStream_entered {s b c : State} {g : Nat} {x : Graph} (a : LoadArgs) (i : Nat) (hclean : s.eccBad = [])
    (h : Entered s g x b) (hb : bindStream s a i b = .inr c) : Entered s g x c := by
  unfold bindStream at hb
  split at hb
  split at hb
  · cases hb
  · split at hb
    · cases hb
    next c' e hf =>
      split at hb
      · cases hb
      · dsimp only at hb
        have hc' := h.fetch hclean hf
        split at hb
        · cases hb
        next h1 =>
        split at hb
        · cases hb
        next h2 =>
        rw [readStruct_clean (hc'.eccBad hclean) (Classical.not_not.1 h1)] at h2 hb
        rw [readStruct_clean (hc'.eccBad hclean) (Classical.not_not.1 h2)] at hb
        cases hb
        exact hc'

/-- The graph that a load enters. -/
def loadedGraph (s : State) (a : LoadArgs) : Graph :=
  graphOfImage s a.img a.dom (bitAt (fieldAt a.pay 1 1) 0) (fieldAt a.pay 2 1) (fieldAt a.pay 32 32) a.p

theorem loadCandidate_entered {s c : State} {a : LoadArgs} {flows : List Byte} (hclean : s.eccBad = [])
    (h : loadCandidate s a flows = .inr c) : Entered s a.g (loadedGraph s a) c := by
  unfold loadCandidate at h
  dsimp only at h
  obtain ⟨b, hb, hc⟩ := loadThen_inr h
  have hbound : Entered s a.g (loadedGraph s a) b := by
    refine loadFold_inr (fun i b c => bindStream_entered a i hclean) _ (fun b₁ hb₁ => ?_) hb
    refine loadFold_inr (fun k b c => bindDma_entered a k hclean) _ (fun b₂ hb₂ => ?_) hb₁
    cases loadCheck_inr hb₂
    exact ⟨undoLoad_withImage .., withImage_graphs ..⟩
  cases loadCheck_inr hc
  refine ⟨?_, ?_⟩
  · rw [undoLoad_bindFlags, undoLoad_bindFlows]
    exact hbound.1
  · rw [bindFlags_graphs, bindFlows_graphs]
    exact hbound.2

/-! ### Admission -/

theorem admitGraph_ok {s c : State} {a : LoadArgs} {x : Graph} (hx : tabGet? c.graphs a.g = some x)
    (hres : resourcesFail c a.g (resourceList c a.g a.p x (graphCharge c a.g)) = false) (hcyc : waitCycle c a.g = none)
    (hmask : bitAt (seasonMask x (scheduleAll c a.g x) (tokenShort (resourceList c a.g a.p x (graphCharge c a.g))))
      (seasonIdx s.power.season) = true) :
    admitGraph s c a =
      (let res := resourceList c a.g a.p x (graphCharge c a.g)
       let sched := scheduleAll c a.g x
       let mask := seasonMask x sched (tokenShort res)
       let t := withObjects (withSchedule c a.g) a.g
       okWith (setGraph t a.g { x with mask := mask, charge := graphCharge c a.g })
         (loadHead a.p.node mask 17 4 0 ++ (res.flatMap (·.2) ++ schedBytes sched))) := by
  simp only [admitGraph, hx, hres, hcyc, hmask, Bool.false_eq_true, Bool.not_true, if_false]

/-- A graph is admitted, or the state at hand is left as it is. -/
theorem admitGraph_cases (s c : State) (a : LoadArgs) :
    (∃ t p, admitGraph s c a = (t, .done .ok p)) ∨ ∃ st p, admitGraph s c a = (s, .done st p) := by
  unfold admitGraph
  split
  · exact .inr ⟨_, _, rfl⟩
  · dsimp only
    split
    · exact .inr ⟨_, _, rfl⟩
    · split
      · exact .inr ⟨_, _, rfl⟩
      · split
        · exact .inr ⟨_, _, rfl⟩
        · exact .inl ⟨_, _, rfl⟩

theorem withObjects_part {β : Type} (π : State → β) (h : ∀ (s : State) o, π { s with objNext := o } = π s) (c : State) (g : Nat) :
    π (withObjects c g) = π c :=
  foldl_keeps_part (π := π) (fun s d => by
    split
    · exact h s _
    · rfl) _ c

/-- What admission changes of a state besides the graph: its nodes and the next object numbers. -/
theorem admitted_part {β : Type} (π : State → β) (hobj : ∀ (s : State) o, π { s with objNext := o } = π s)
    (hnode : ∀ (s : State) n, π { s with nodes := n } = π s) (c : State) (g : Nat) :
    π (withObjects (withSchedule c g) g) = π c :=
  (withObjects_part π hobj _ g).trans (hnode c _)

theorem loadHead_fields (base mask nsched ncyc : Nat) (tail : List Byte) :
    fieldAt (loadHead base mask 17 nsched ncyc ++ tail) 0 2 = base % 65536 ∧
    fieldAt (loadHead base mask 17 nsched ncyc ++ tail) 2 1 = mask % 256 ∧
    fieldAt (loadHead base mask 17 nsched ncyc ++ tail) 3 1 = 17 := by
  simp [loadHead, fieldAt_append_left, fieldAt_append_right, fieldAt_leBytes]

/-! ### The command -/

/-- GRAPH_LOAD whose image and flows are read is the binding of a candidate and its admission. -/
theorem cmdGraphLoad_read {s : State} {h : CmdHdr} {pay img flows : List Byte} (hpay : payloadBad s pay = none)
    (himg : readStruct s 13 0 h.domain (fieldAt pay 8 8) (fieldAt pay 16 4) = (s, .ok, img)) (hbad : imageBad img = none)
    (hflows : (if payFlows pay = 0 then (s, Status.ok, []) else
      readStruct s 13 0 h.domain (fieldAt pay 24 8) (96 * payFlows pay)) = (s, Status.ok, flows)) :
    let a : LoadArgs := { g := fieldAt pay 0 1, dom := h.domain, pay := pay, img := img, p := placesFor s img }
    cmdGraphLoad h pay s = match loadCandidate s a flows with
      | .inl (s', b) => (s', loadRefused b)
      | .inr c => admitGraph (undoLoad s c) c a := by
  simp only [cmdGraphLoad, hpay, himg, hbad, hflows, ne_eq, not_true_eq_false, if_false] <;> rfl

/-- What a load that is not admitted leaves. -/
theorem cmdGraphLoad_cases (h : CmdHdr) (pay : List Byte) (s : State) :
    ∃ s' st p, cmdGraphLoad h pay s = (s', .done st p) ∧ (st = .ok ∨ ReadsOnly s s') := by
  unfold cmdGraphLoad
  split
  · exact ⟨_, _, _, rfl, .inr (.refl s)⟩
  · have hr1 := readStruct_reads s 13 0 h.domain (fieldAt pay 8 8) (fieldAt pay 16 4)
    dsimp only
    generalize readStruct s 13 0 h.domain (fieldAt pay 8 8) (fieldAt pay 16 4) = r1 at hr1 ⊢
    split
    · exact ⟨_, _, _, rfl, .inr hr1⟩
    · split
      · exact ⟨_, _, _, rfl, .inr hr1⟩
      · generalize hx : (if payFlows pay = 0 then (r1.1, Status.ok, []) else
          readStruct r1.1 13 0 h.domain (fieldAt pay 24 8) (96 * payFlows pay)) = r2
        have hr2 : ReadsOnly s r2.1 := by
          rw [← hx]
          split
          · exact hr1
          · exact hr1.trans (readStruct_reads _ _ _ _ _ _)
        split
        · exact ⟨_, _, _, rfl, .inr hr2⟩
        · split
          next s' b hcand =>
            have hsound := hcand ▸ loadCandidate_sound r2.1 _ r2.2.2
            exact ⟨_, _, _, rfl, .inr (hr2.trans hsound)⟩
          next c hcand =>
            have hsound := hcand ▸ loadCandidate_sound r2.1 _ r2.2.2
            rcases admitGraph_cases (undoLoad r2.1 c) c _ with ⟨t, p, hadm⟩ | ⟨st, p, hadm⟩
            · exact ⟨t, .ok, p, hadm, .inl rfl⟩
            · exact ⟨_, st, p, hadm, .inr (hr2.trans hsound)⟩

theorem exec_graphLoad {h : CmdHdr} {s : State} (pay : List Byte) (ha : Accepted 0x0300 h s) :
    exec (.graphLoad h pay) s = .next (answerRow h 0x0300 (cmdGraphLoad h pay s)) :=
  congrArg _ (runCommand_accepted ha _)

/-- Settles O40: the candidate differs from the state at the start only in what a load binds, and a refusal gives it up. -/
theorem graphLoadAdmitsOrChangesNothing : Obligations.GraphLoadAdmitsOrChangesNothing := by
  refine ⟨?_, fun s h pay ha => ?_⟩
  · intro s c h pay img flows ha hclean hpay himg hbad hflows a hcand x hx hres hcyc sched mask hmask
    obtain ⟨hundo, hgraphs⟩ := loadCandidate_entered hclean hcand
    have hload : cmdGraphLoad h pay s = admitGraph s c a := by
      rw [cmdGraphLoad_read hpay himg hbad hflows, hcand]
      dsimp only
      rw [hundo]
    have hpart : ∀ {β : Type} (π : State → β), (∀ s c, π (undoLoad s c) = π c) → π c = π s := fun π hπ => by
      rw [← hπ s c, hundo]
    have hxeq : loadedGraph s a = x := by
      rw [hgraphs, tabGet?_tabSet_same] at hx
      exact Option.some.inj hx
    obtain ⟨hf0, hf2, hf3⟩ := loadHead_fields a.p.node mask 4 0
      ((resourceList c a.g a.p x (graphCharge c a.g)).flatMap (·.2) ++ schedBytes sched)
    refine ⟨setGraph (withObjects (withSchedule c a.g) a.g) a.g { x with mask := mask, charge := graphCharge c a.g }, _, ?_,
      tabGet?_tabSet_same _ _ _, by rw [← hxeq]; rfl, by rw [← hxeq]; rfl, hf0, hf2, hf3, fun k hk => ?_,
      ?_, ?_, ?_, ?_, ?_, ?_, ?_, ?_, ?_⟩
    · rw [answersOk, exec_graphLoad pay ha, hload, admitGraph_ok hx hres hcyc hmask]
      rfl
    · rw [setGraph_graphs, tabGet?_tabSet_other _ _ hk, admitted_part (·.graphs) (fun _ _ => rfl) (fun _ _ => rfl), hgraphs,
        tabGet?_tabSet_other _ _ hk]
    · exact (admitted_part (·.mem) (fun _ _ => rfl) (fun _ _ => rfl) c a.g).trans (hpart _ fun _ _ => rfl)
    · exact (admitted_part (·.marks) (fun _ _ => rfl) (fun _ _ => rfl) c a.g).trans (hpart _ fun _ _ => rfl)
    · exact (admitted_part (·.pipes) (fun _ _ => rfl) (fun _ _ => rfl) c a.g).trans (hpart _ fun _ _ => rfl)
    · exact (admitted_part (·.engines) (fun _ _ => rfl) (fun _ _ => rfl) c a.g).trans (hpart _ fun _ _ => rfl)
    · exact (admitted_part (·.cores) (fun _ _ => rfl) (fun _ _ => rfl) c a.g).trans (hpart _ fun _ _ => rfl)
    · exact (admitted_part (·.eports) (fun _ _ => rfl) (fun _ _ => rfl) c a.g).trans (hpart _ fun _ _ => rfl)
    · exact (admitted_part (·.safety) (fun _ _ => rfl) (fun _ _ => rfl) c a.g).trans (hpart _ fun _ _ => rfl)
    · exact (admitted_part (·.power) (fun _ _ => rfl) (fun _ _ => rfl) c a.g).trans (hpart _ fun _ _ => rfl)
    · exact (admitted_part (·.time) (fun _ _ => rfl) (fun _ _ => rfl) c a.g).trans (hpart _ fun _ _ => rfl)
  · obtain ⟨s', st, p, hcmd, hcase⟩ := cmdGraphLoad_cases h pay s
    exact ⟨s', st, p, by rw [exec_graphLoad pay ha, hcmd], hcase⟩

end Sys2Proof.Machine
end

section
/-! PROOFS. The queue, the tick and reset (chapters 1, 2) with O1 to O3. -/

namespace Sys2Proof.Machine

open Sys2Proof

/-- Settles O1: both clauses are `step` on the two forms of the queue. -/
theorem stepRunsTheFrontCommandOrTicks : Obligations.StepRunsTheFrontCommandOrTicks := by
  unfold Obligations.StepRunsTheFrontCommandOrTicks
  refine ⟨fun s c rest h => by rw [step, h], fun s h => ?_⟩
  have hs : step s = .next (idleTick s) := by rw [step, h]
  rw [hs, idleTick]
  by_cases hr : aonRuns s = true ∧ s.rst.tripped = false
  · rw [if_pos (by simpa using hr), if_pos hr]
  · rw [if_neg (by simpa using hr), if_neg hr]

/-- No firewall region is stored in the state after reset, so each reads as its reset value. -/
theorem fwOf_reset (t n : Nat) : fwOf State.reset t n = if n = 63 then fwDefault63 else fwDefault := rfl

/-- Settles O2: each value is read off the reset state. -/
theorem resetLeavesStatedValues : Obligations.ResetLeavesStatedValues := by
  unfold Obligations.ResetLeavesStatedValues
  intro s
  have hfw : ∀ t n, fwOf s t n = if n = 63 then fwDefault63 else fwDefault := fwOf_reset
  refine ⟨rfl, rfl, rfl, rfl, rfl, by decide, by decide, rfl, rfl, rfl, rfl, rfl, rfl, rfl, rfl, rfl, fun t => by simp [hfw],
    fun t n hn => by simp [hfw, hn, fwDefault],
    fun n => (show flagBytes s n = flagBytes s 0 from rfl).trans (by decide), fun _ => rfl, fun _ => rfl, fun _ => rfl, ?_⟩
  simp +decide [s, State.reset, instReset, ddrReset, safetyReset, powerReset, tapReset, polK, polM, polFI, polSlot,
    polRecordMask, polFrameMask, polPulse, policyReset]

/-- Setting the first `n` ports to DETECT changes those ports alone. -/
theorem portDetect_all (n : Nat) (s : State) :
    (List.range n).foldl portDetect s = { s with lports := ((List.range n).foldl portDetect s).lports } := by
  induction n with
  | zero => rfl
  | succ n ih => rw [List.range_succ, List.foldl_append, List.foldl_cons, List.foldl_nil, ih]; rfl

/-- A port of the first `n` is in DETECT once they are set, also after later ones are. -/
theorem portDetect_all_detect (n : Nat) (s : State) {p : Nat} (hp : p < n) :
    (lportOf ((List.range n).foldl portDetect s) p).st = .detect := by
  induction n with
  | zero => omega
  | succ n ih =>
    rw [List.range_succ, List.foldl_append, List.foldl_cons, List.foldl_nil]
    by_cases h : p = n
    · subst h; simp [portDetect, lportOf, setLport, tabGet]
    · simpa [portDetect, lportOf, setLport, tabGet, tabGet?_tabSet_other, h] using ih (by omega)

/-- R40, R46, R60: what RESET_ENTRY leaves. -/
theorem doResetEntry_eq (s : State) (c : ResetCause) :
    doResetEntry c s = { State.reset with
      pending := s.pending, rst := rstAfter s.rst c, boot := bootAfter s.boot, tap := tapAfter s.tap, fw := fwAfter s.fw c,
      safety := { safetyReset with smFault := smFaultAfter s.safety.smFault c,
                                   doubtLow := (doResetEntry c s).safety.doubtLow },
      freeCnt := s.freeCnt } := rfl

/-- The firewall regions that a reset keeps are the locked ones, on a fall of PWR_GOOD. -/
theorem mem_fwAfter {fw : Tab FwRegion} {c : ResetCause} {e : Nat × FwRegion} :
    e ∈ fwAfter fw c ↔ e ∈ fw ∧ e.2.lock = true ∧ c = .pwrGoodLow := by
  cases c <;> simp [fwAfter]

/-- The SDIO function answers at t0 + 100 µs (R39). -/
def sdioReady (s : State) : State :=
  let s := advanceTo s (s.rst.t0 + 400000)
  { s with rst := { s.rst with phase := .sdioUp } }

/-- With BOOT_SRC = LINK the twelve ports begin training. -/
theorem doSdioFunctionReady_link {s : State} (h : s.rst.phase = .aonUp) (ht : s.rst.tripped = false)
    (hb : s.rst.bootSrc = 1) :
    doSdioFunctionReady s =
      (List.range 12).foldl portDetect { sdioReady s with islands := s.islands ||| lnkIslands } := by
  unfold doSdioFunctionReady
  rw [if_pos ⟨h, ht⟩]
  exact if_pos hb

/-- With any other BOOT_SRC the ports stay as they are. -/
theorem doSdioFunctionReady_other {s : State} (h : s.rst.phase = .aonUp) (ht : s.rst.tripped = false)
    (hb : s.rst.bootSrc ≠ 1) : doSdioFunctionReady s = sdioReady s := by
  unfold doSdioFunctionReady
  rw [if_pos ⟨h, ht⟩]
  exact if_neg hb

/-- Settles O3: each row is its `do` function under its guard; of the ports, `portDetect_all`. -/
theorem resetEntryAndReleaseFollowTheirTables : Obligations.ResetEntryAndReleaseFollowTheirTables := by
  unfold Obligations.ResetEntryAndReleaseFollowTheirTables
  refine ⟨fun s c => ⟨_, rfl, ?_⟩, fun s refclk h => ?_, fun s h hr => ?_, fun s src h hr => ?_,
    fun s otpErr h ht => ⟨_, rfl, ?_⟩, fun s h ht => ⟨_, rfl, ?_⟩⟩
  · refine ⟨rfl, fun e he => mem_fwAfter.1 he, fun hc e he hl => mem_fwAfter.2 ⟨he, hl, hc⟩, rfl, rfl, rfl, ?_, rfl, rfl, ?_⟩
    · cases c <;> rfl
    · rintro rfl; rfl
  · show Host.Outcome.next (doResetRelease refclk s) = _
    rw [doResetRelease, if_pos h]
  · show Host.Outcome.next (doRefclkPresent s) = _
    rw [doRefclkPresent, if_pos ⟨h, hr⟩]
  · show Host.Outcome.next (doAonPllLocked src s) = _
    rw [doAonPllLocked, if_pos ⟨h, hr⟩]
    rfl
  · rw [doAonRelease, if_pos ⟨h, ht⟩]
    refine ⟨rfl, ?_, fun hb => ?_, fun hb => ?_, rfl⟩ <;> dsimp [updateDoubt, advanceTo]
    · split <;> rfl
    · simp [Nat.not_le.2 hb]
    · simp [hb, bootFail]
  · by_cases hb : s.rst.bootSrc = 1
    · rw [doSdioFunctionReady_link h ht hb]
      refine ⟨?_, ?_, fun _ p hp => portDetect_all_detect 12 _ hp, fun h => absurd hb h⟩
      · rw [portDetect_all]; rfl
      · rw [portDetect_all]; simp [sdioAnswers, sdioReady, advanceTo, ht]
    · rw [doSdioFunctionReady_other h ht hb]
      exact ⟨rfl, by simp [sdioAnswers, sdioReady, advanceTo, ht], fun h => absurd h hb, fun _ => ⟨rfl, rfl⟩⟩

end Sys2Proof.Machine
end

section
/-! PROOFS. The SDIO bus (R36, R53 to R56) with O4. -/

namespace Sys2Proof.Machine

open Sys2Proof

/-- A read run returns one byte for each that it asks for. -/
theorem sdioReadRun_length (fn : Nat) (inc : Bool) (n a : Nat) (s : State) :
    (sdioReadRun fn inc n a s).2.length = n := by
  induction n generalizing a s with
  | zero => rfl
  | succ n ih => simp [sdioReadRun, ih]

/-- Reads of function 0 leave the block as it is. -/
theorem sdioReadRun_fn0 (inc : Bool) (n a : Nat) (s : State) : (sdioReadRun 0 inc n a s).1 = s := by
  induction n generalizing a with
  | zero => rfl
  | succ n ih => simpa [sdioReadRun, sdioReadByte] using ih _

/-- Writes of function 0 change the card alone. -/
theorem sdioWriteRun_fn0 (inc : Bool) (bs : List Byte) (a : Nat) (s : State) :
    sdioWriteRun 0 inc bs a s = { s with sdio := (sdioWriteRun 0 inc bs a s).sdio } := by
  induction bs generalizing a s with
  | nil => rfl
  | cons b bs ih => rw [sdioWriteRun, ih]; rfl

/-- A command that reaches function 0 alone. -/
def reachesFn0 : SdioCmd → Prop
  | .cmd52Read fn _ | .cmd52Write fn _ _ | .cmd53Read fn _ _ _ _ | .cmd53Write fn _ _ _ _ => fn = 0
  | _ => True

/-- What reaches no other function changes the card alone, and uses free values. -/
theorem sdioEffect_fn0 (s : State) (c : SdioCmd) (h : reachesFn0 c) :
    sdioEffect s c = { s with sdio := (sdioEffect s c).sdio, freeCnt := (sdioEffect s c).freeCnt } := by
  cases c with
  | cmd0 | cmd5 | cmd3 | cmd19 => rfl
  | cmd7 rca =>
    unfold sdioEffect; dsimp only
    repeat' split
    all_goals rfl
  | cmd15 rca =>
    unfold sdioEffect; dsimp only
    repeat' split
    all_goals rfl
  | cmd52Read fn a =>
    cases (h : fn = 0); unfold sdioEffect; dsimp only
    repeat' split
    all_goals rfl
  | cmd52Write fn a v =>
    cases (h : fn = 0); unfold sdioEffect; dsimp only
    repeat' split
    all_goals rfl
  | cmd53Read fn a n block inc =>
    cases (h : fn = 0); unfold sdioEffect; dsimp only
    split
    · rw [sdioReadRun_fn0]
    · rfl
  | cmd53Write fn a block inc data =>
    cases (h : fn = 0); unfold sdioEffect; dsimp only
    split
    · rw [sdioWriteRun_fn0]
    · rfl

/-- A command of a card that answers takes its effect. -/
theorem exec_sdioCommand {s : State} (c : SdioCmd) (h : sdioAnswers s = true) (hc : s.sdio.card ≠ .inactive) :
    exec (.sdioCommand c) s = .next (sdioEffect s c) := by
  show Host.Outcome.next (doSdioCommand c s) = _
  rw [doSdioCommand, if_pos (by simp [h, hc])]

/-- A function that answers is one of an active, selected card. -/
theorem fnAnswers_card {s : State} {fn : Nat} (h : fnAnswers s fn = true) :
    sdioAnswers s = true ∧ s.sdio.card ≠ .inactive ∧ s.sdio.card = .selected := by
  simp only [fnAnswers, fnUp, Bool.and_eq_true, bne_iff_ne, beq_iff_eq] at h
  exact ⟨h.1.1.1.1, h.1.1.1.2, h.1.2⟩

/-- The registers of functions 1 and 3, none of them at the place of a port. -/
theorem regValue_some {s : State} {fn r v : Nat} (h : regValue s fn r = some v) :
    (fn = 1 ∧ 0x2000 ≤ r) ∨ (fn = 3 ∧ 0x1000 ≤ r) := by
  unfold regValue at h
  split at h <;> grind

/-- A register is read byte by byte, little-endian (R5). -/
theorem sdioReadByte_register {s : State} {fn r k v : Nat} (h : fnAnswers s fn = true) (hv : regValue s fn r = some v)
    (hr : r % 4 = 0) (hk : k < 4) : sdioReadByte s fn (r + k) = (s, (leBytes 4 v).getD k 0) := by
  have hplace := regValue_some hv
  have hq : (r + k) / 4 * 4 = r := by omega
  have hm : (r + k) % 4 = k := by omega
  rw [sdioReadByte, if_neg (by omega), if_pos h, fnReadByte, if_neg (by omega), if_neg (by omega), if_neg (by omega),
    if_neg (by omega), hq, hv, hm]

/-- A register takes its value with the byte at offset 3 (R56). -/
theorem sdioWriteByte_register {s : State} {fn r : Nat} (v : Byte) (h : fnAnswers s fn = true)
    (hv : (regValue s fn r).isSome = true) (hr : r % 4 = 0) :
    sdioWriteByte s fn (r + 3) v = doRegisterWrite fn r (leNat (s.sdio.latch ++ [v])) s := by
  obtain ⟨x, hx⟩ := Option.isSome_iff_exists.1 hv
  have hplace := regValue_some hx
  have hq : (r + 3) / 4 * 4 = r := by omega
  rw [sdioWriteByte, if_neg (by omega), if_pos h, fnWriteByte, if_neg (by omega), if_neg (by omega), hq, hx,
    if_neg (by simp), if_pos (by omega)]

/-- Settles O4: the commands one by one, with the read and write runs of function 0 and the registers. -/
theorem sdioBusCommandsReachFunctionZero : Obligations.SdioBusCommandsReachFunctionZero := by
  unfold Obligations.SdioBusCommandsReachFunctionZero
  refine ⟨fun s => rfl, fun s h hc => ?_, fun s c h hc => ?_, fun s fn r k v h hv hr hk => ?_,
    fun s => ⟨rfl, rfl, rfl, rfl, rfl, rfl, rfl⟩, fun s fn r v h hv hr => ?_, fun s fn a v h hc hfn hn => ?_⟩
  · show Host.Outcome.next (doSdioCmd11 s) = _
    rw [doSdioCmd11, if_pos (by simp [h, hc])]
  · refine ⟨_, exec_sdioCommand c h hc, fun hfn => sdioEffect_fn0 s c (by cases c <;> exact hfn), ?_, ?_, ?_, ?_, ?_, ?_, ?_⟩
    · rintro rfl; rfl
    · rintro rfl
      refine ⟨rfl, ?_, ?_⟩ <;> dsimp [sdioEffect] <;> omega
    · rintro rfl hsel; simp [sdioEffect, hsel]
    · rintro rfl; simp [sdioEffect]
    · rintro v rfl hsel; simp [sdioEffect, hsel, sdioWriteByte, fn0Write]
    · rintro fn a n inc rfl hsel; simp [sdioEffect, hsel, sdioReadRun_length, cmd53Len]
    · rintro fn a n inc k rfl hsel hk h1 h2
      have hz : ¬ (k = 0 ∨ (fn ≠ 0 ∧ 512 < k)) := by omega
      simp only [sdioEffect, hsel, if_true, sdioReadRun_length, cmd53Len, hk, if_neg hz]
  · obtain ⟨ha, hc, hsel⟩ := fnAnswers_card h
    rw [exec_sdioCommand _ ha hc, sdioEffect]
    simp only [hsel, if_true, sdioReadByte_register h hv hr hk]
  · obtain ⟨ha, hc, hsel⟩ := fnAnswers_card h
    refine ⟨_, _, rfl, exec_sdioCommand _ ha hc, ?_⟩
    simp only [sdioEffect, hsel, if_true, sdioWriteByte_register _ h hv hr]
  · rw [exec_sdioCommand _ h (by simp [hc]), sdioEffect]
    simp [hc, sdioWriteByte, hfn, hn]

end Sys2Proof.Machine
end

section
/-! PROOFS. What a report leaves as it was, field by field (R76, R388, R430). -/

namespace Sys2Proof.Machine

open Sys2Proof

section
variable {s t : State} (h : DoubtOnly s t)
include h

theorem DoubtOnly.pending : t.pending = s.pending := by unfold DoubtOnly at h; rw [h]
theorem DoubtOnly.time : t.time = s.time := by unfold DoubtOnly at h; rw [h]
theorem DoubtOnly.rst : t.rst = s.rst := by unfold DoubtOnly at h; rw [h]
theorem DoubtOnly.sdio : t.sdio = s.sdio := by unfold DoubtOnly at h; rw [h]
theorem DoubtOnly.boot : t.boot = s.boot := by unfold DoubtOnly at h; rw [h]
theorem DoubtOnly.mb : t.mb = s.mb := by unfold DoubtOnly at h; rw [h]
theorem DoubtOnly.bulk : t.bulk = s.bulk := by unfold DoubtOnly at h; rw [h]
theorem DoubtOnly.chans : t.chans = s.chans := by unfold DoubtOnly at h; rw [h]
theorem DoubtOnly.fw : t.fw = s.fw := by unfold DoubtOnly at h; rw [h]
theorem DoubtOnly.islands : t.islands = s.islands := by unfold DoubtOnly at h; rw [h]
theorem DoubtOnly.mem : t.mem = s.mem := by unfold DoubtOnly at h; rw [h]
theorem DoubtOnly.marks : t.marks = s.marks := by unfold DoubtOnly at h; rw [h]
theorem DoubtOnly.eccBad : t.eccBad = s.eccBad := by unfold DoubtOnly at h; rw [h]
theorem DoubtOnly.pipes : t.pipes = s.pipes := by unfold DoubtOnly at h; rw [h]
theorem DoubtOnly.ports : t.ports = s.ports := by unfold DoubtOnly at h; rw [h]
theorem DoubtOnly.trigs : t.trigs = s.trigs := by unfold DoubtOnly at h; rw [h]
theorem DoubtOnly.flags : t.flags = s.flags := by unfold DoubtOnly at h; rw [h]
theorem DoubtOnly.binds : t.binds = s.binds := by unfold DoubtOnly at h; rw [h]
theorem DoubtOnly.sems : t.sems = s.sems := by unfold DoubtOnly at h; rw [h]
theorem DoubtOnly.nodes : t.nodes = s.nodes := by unfold DoubtOnly at h; rw [h]
theorem DoubtOnly.links : t.links = s.links := by unfold DoubtOnly at h; rw [h]
theorem DoubtOnly.descs : t.descs = s.descs := by unfold DoubtOnly at h; rw [h]
theorem DoubtOnly.graphs : t.graphs = s.graphs := by unfold DoubtOnly at h; rw [h]
theorem DoubtOnly.engines : t.engines = s.engines := by unfold DoubtOnly at h; rw [h]
theorem DoubtOnly.obxCarry : t.obxCarry = s.obxCarry := by unfold DoubtOnly at h; rw [h]
theorem DoubtOnly.objNext : t.objNext = s.objNext := by unfold DoubtOnly at h; rw [h]
theorem DoubtOnly.objDropped : t.objDropped = s.objDropped := by unfold DoubtOnly at h; rw [h]
theorem DoubtOnly.ringBusy : t.ringBusy = s.ringBusy := by unfold DoubtOnly at h; rw [h]
theorem DoubtOnly.cores : t.cores = s.cores := by unfold DoubtOnly at h; rw [h]
theorem DoubtOnly.pool : t.pool = s.pool := by unfold DoubtOnly at h; rw [h]
theorem DoubtOnly.eports : t.eports = s.eports := by unfold DoubtOnly at h; rw [h]
theorem DoubtOnly.dma : t.dma = s.dma := by unfold DoubtOnly at h; rw [h]
theorem DoubtOnly.streams : t.streams = s.streams := by unfold DoubtOnly at h; rw [h]
theorem DoubtOnly.wcache : t.wcache = s.wcache := by unfold DoubtOnly at h; rw [h]
theorem DoubtOnly.ddr : t.ddr = s.ddr := by unfold DoubtOnly at h; rw [h]
theorem DoubtOnly.power : t.power = s.power := by unfold DoubtOnly at h; rw [h]
theorem DoubtOnly.watches : t.watches = s.watches := by unfold DoubtOnly at h; rw [h]
theorem DoubtOnly.tap : t.tap = s.tap := by unfold DoubtOnly at h; rw [h]
theorem DoubtOnly.eccCnt : t.eccCnt = s.eccCnt := by unfold DoubtOnly at h; rw [h]
theorem DoubtOnly.eccWin : t.eccWin = s.eccWin := by unfold DoubtOnly at h; rw [h]
theorem DoubtOnly.freeCnt : t.freeCnt = s.freeCnt := by unfold DoubtOnly at h; rw [h]

end

theorem EventsOnly.safety {s t : State} (h : EventsOnly s t) : t.safety = s.safety := by
  unfold EventsOnly at h
  rw [h]

section
variable {s t : State} (h : ReadsOnly s t)
include h

theorem ReadsOnly.pending : t.pending = s.pending := by unfold ReadsOnly DoubtOnly at h; rw [h]
theorem ReadsOnly.time : t.time = s.time := by unfold ReadsOnly DoubtOnly at h; rw [h]
theorem ReadsOnly.rst : t.rst = s.rst := by unfold ReadsOnly DoubtOnly at h; rw [h]
theorem ReadsOnly.sdio : t.sdio = s.sdio := by unfold ReadsOnly DoubtOnly at h; rw [h]
theorem ReadsOnly.boot : t.boot = s.boot := by unfold ReadsOnly DoubtOnly at h; rw [h]
theorem ReadsOnly.mb : t.mb = s.mb := by unfold ReadsOnly DoubtOnly at h; rw [h]
theorem ReadsOnly.bulk : t.bulk = s.bulk := by unfold ReadsOnly DoubtOnly at h; rw [h]
theorem ReadsOnly.chans : t.chans = s.chans := by unfold ReadsOnly DoubtOnly at h; rw [h]
theorem ReadsOnly.fw : t.fw = s.fw := by unfold ReadsOnly DoubtOnly at h; rw [h]
theorem ReadsOnly.islands : t.islands = s.islands := by unfold ReadsOnly DoubtOnly at h; rw [h]
theorem ReadsOnly.mem : t.mem = s.mem := by unfold ReadsOnly DoubtOnly at h; rw [h]
theorem ReadsOnly.pipes : t.pipes = s.pipes := by unfold ReadsOnly DoubtOnly at h; rw [h]
theorem ReadsOnly.ports : t.ports = s.ports := by unfold ReadsOnly DoubtOnly at h; rw [h]
theorem ReadsOnly.trigs : t.trigs = s.trigs := by unfold ReadsOnly DoubtOnly at h; rw [h]
theorem ReadsOnly.flags : t.flags = s.flags := by unfold ReadsOnly DoubtOnly at h; rw [h]
theorem ReadsOnly.binds : t.binds = s.binds := by unfold ReadsOnly DoubtOnly at h; rw [h]
theorem ReadsOnly.sems : t.sems = s.sems := by unfold ReadsOnly DoubtOnly at h; rw [h]
theorem ReadsOnly.nodes : t.nodes = s.nodes := by unfold ReadsOnly DoubtOnly at h; rw [h]
theorem ReadsOnly.links : t.links = s.links := by unfold ReadsOnly DoubtOnly at h; rw [h]
theorem ReadsOnly.descs : t.descs = s.descs := by unfold ReadsOnly DoubtOnly at h; rw [h]
theorem ReadsOnly.graphs : t.graphs = s.graphs := by unfold ReadsOnly DoubtOnly at h; rw [h]
theorem ReadsOnly.engines : t.engines = s.engines := by unfold ReadsOnly DoubtOnly at h; rw [h]
theorem ReadsOnly.obxCarry : t.obxCarry = s.obxCarry := by unfold ReadsOnly DoubtOnly at h; rw [h]
theorem ReadsOnly.objNext : t.objNext = s.objNext := by unfold ReadsOnly DoubtOnly at h; rw [h]
theorem ReadsOnly.objDropped : t.objDropped = s.objDropped := by unfold ReadsOnly DoubtOnly at h; rw [h]
theorem ReadsOnly.ringBusy : t.ringBusy = s.ringBusy := by unfold ReadsOnly DoubtOnly at h; rw [h]
theorem ReadsOnly.cores : t.cores = s.cores := by unfold ReadsOnly DoubtOnly at h; rw [h]
theorem ReadsOnly.pool : t.pool = s.pool := by unfold ReadsOnly DoubtOnly at h; rw [h]
theorem ReadsOnly.eports : t.eports = s.eports := by unfold ReadsOnly DoubtOnly at h; rw [h]
theorem ReadsOnly.dma : t.dma = s.dma := by unfold ReadsOnly DoubtOnly at h; rw [h]
theorem ReadsOnly.streams : t.streams = s.streams := by unfold ReadsOnly DoubtOnly at h; rw [h]
theorem ReadsOnly.ddr : t.ddr = s.ddr := by unfold ReadsOnly DoubtOnly at h; rw [h]
theorem ReadsOnly.power : t.power = s.power := by unfold ReadsOnly DoubtOnly at h; rw [h]
theorem ReadsOnly.watches : t.watches = s.watches := by unfold ReadsOnly DoubtOnly at h; rw [h]
theorem ReadsOnly.tap : t.tap = s.tap := by unfold ReadsOnly DoubtOnly at h; rw [h]

end

end Sys2Proof.Machine
end

section
/-! PROOFS. The ports of the mailbox, the doorbell, records and rows, and registers (R16, R55, R56, R69 to R76) with O8, O10
to O13 and O15. -/

namespace Sys2Proof.Machine

open Sys2Proof

/-! ### Ports -/

/-- A response that is read in part keeps its place. -/
theorem readResponses_part {src : RecSrc} {bs : List Byte} {rest : List MbEntry} {pos n : Nat} (hlt : pos + n < bs.length)
    (hn : 0 < n) : readResponses (.resp src bs :: rest) pos n = (.resp src bs :: rest, pos + n, bytesAt bs pos n) := by
  rw [readResponses, if_neg (by omega), if_neg (by omega)]

/-- Nothing is read of the responses behind a count that is used up. -/
theorem readResponses_zero (l : List MbEntry) (pos : Nat) : readResponses l pos 0 = (l, pos, []) := by
  cases l with
  | nil => rfl
  | cons e l => cases e <;> rfl

/-- The last byte of a response removes it. -/
theorem readResponses_whole {src : RecSrc} {bs : List Byte} {rest : List MbEntry} {pos n : Nat} (he : pos + n = bs.length)
    (hn : 0 < n) : readResponses (.resp src bs :: rest) pos n = (rest, 0, bs.drop pos) := by
  rw [readResponses, if_neg (by omega), if_pos (by omega), show n - (bs.length - pos) = 0 by omega, readResponses_zero]
  simp

/-- A record that still waits hides every response behind it. -/
theorem readResponses_none {s : State} (h : headResponse s = none) (pos n : Nat) :
    readResponses s.mb.order pos n = (s.mb.order, pos, []) := by
  unfold headResponse at h
  cases ho : s.mb.order with
  | nil => rfl
  | cons e l => cases e with
    | resp src bs => rw [ho] at h; cases h
    | queued r => rfl
    | exec r w => rfl

/-- MB_RSP_PORT answers with the bytes read, zeros after their end. -/
theorem exec_mbRspPortRead {s : State} {count pos : Nat} {o : List MbEntry} {out : List Byte} (hup : fnUp s 1 = true)
    (h : readResponses s.mb.order s.mb.rspPos count = (o, pos, out)) :
    exec (.mbRspPortRead count) s = .next { s with mb := { s.mb with order := o, rspPos := pos },
                                                   sdio := { s.sdio with data := padTo count out } } := by
  show Host.Outcome.next (doMbRspPortRead count s) = _
  simp only [doMbRspPortRead, hup, h, Bool.not_true, Bool.false_eq_true, if_false]

/-- Settles O8: the command port by its four cases, the response port by `readResponses`. -/
theorem commandAndResponsePortsMoveRecords : Obligations.CommandAndResponsePortsMoveRecords := by
  unfold Obligations.CommandAndResponsePortsMoveRecords
  refine ⟨fun s data hup hd => ?_, fun s src bs rest count hup ho hlt hc => ?_, fun s src bs rest count hup ho he hc => ?_,
    fun s count hup hh => ?_⟩
  · have hport : exec (.mbCmdPortWrite data) s = .next (doMbCmdPortWrite data s) := rfl
    have hne : (data == []) = false := by simpa using hd
    rw [hport, doMbCmdPortWrite, hup, hne]
    refine ⟨fun h => ?_, fun h p hp => ?_, fun h hp hc => ?_, fun h hp hc => ?_⟩ <;> simp [*]
  · have hlen : (bytesAt bs s.mb.rspPos count).length = count := by
      rw [bytesAt, List.length_take, List.length_drop]; omega
    rw [exec_mbRspPortRead hup ((congrArg (readResponses · _ _) ho).trans (readResponses_part hlt hc)),
      padTo_of_length hlen, ← ho]
  · have hlen : (bs.drop s.mb.rspPos).length = count := by rw [List.length_drop]; omega
    rw [exec_mbRspPortRead hup ((congrArg (readResponses · _ _) ho).trans (readResponses_whole he hc)),
      padTo_of_length hlen]
  · rw [exec_mbRspPortRead hup (readResponses_none hh _ _)]
    simp [padTo]

/-! ### Stage 1 -/

/-- A response that is neither recorded nor executed joins the end of the order (R74). -/
theorem respondNew_eq (s : State) (r : MbRec) (st : Status) (hr : r.src = .host) :
    (respondNew s r st).mb =
      { s.mb with order := s.mb.order ++ [.resp .host (respBytes r.opcode r.hdr st [])] } ∧
    EventsOnly { s with mb := (respondNew s r st).mb } (respondNew s r st) := by
  simp only [respondNew, placeResponse, hr, List.set_append_right, Nat.le_refl, Nat.sub_self, List.set_cons_zero]
  split
  · rename_i hf
    generalize hq : ({ s with mb := { s.mb with
      order := s.mb.order ++ [.resp .host (respBytes r.opcode r.hdr st [])] } } : State) = q
    have k := postEvent_only q 0x0001 13 0 (leBytes 2 r.opcode ++ leBytes 2 0 ++ leBytes 4 r.hdr.seq ++
      bytesAt (respBytes r.opcode r.hdr st []) 14 2)
    have hmb := congrArg State.mb k
    refine ⟨hmb.trans (by rw [← hq]), ?_⟩
    rw [hmb]
    exact (show ({ s with mb := q.mb } : State) = q by rw [← hq]) ▸ k
  · exact ⟨rfl, rfl⟩

/-- Settles O10: a doorbell with the right length is stage 1, whose four cases these are. -/
theorem doorbellMakesStageOneChecks : Obligations.DoorbellMakesStageOneChecks := by
  unfold Obligations.DoorbellMakesStageOneChecks
  intro s value p hup hh hd hp hl s' r badLength badCrc
  have hx : exec (.mbDoorbellWrite value) s = .next (stage1 s' .host p) := by
    show Host.Outcome.next (doMbDoorbellWrite value s) = _
    simp only [doMbDoorbellWrite, hup, hd, hp, hl, takeRecord, hh, Bool.not_true, Bool.false_eq_true, if_false,
      ne_eq, not_true_eq_false, s']
  rw [hx, stage1]
  refine ⟨fun hb => ?_, fun hb hc => ?_, fun hb hc hq => ?_, fun hb hc hq => ?_⟩
  · rw [if_pos hb]
    exact ⟨_, rfl, respondNew_eq s' r .badLength rfl⟩
  · rw [if_neg hb, if_pos hc]
    exact ⟨_, rfl, respondNew_eq s' r .crcErr rfl⟩
  · rw [if_neg hb, if_neg hc]
    exact congrArg _ (if_pos hq)
  · rw [if_neg hb, if_neg hc]
    exact congrArg _ (if_neg (Bool.eq_false_iff.1 hq))

/-! ### Stage 2 -/

/-- The first record of the order that waits goes through stage 2. -/
theorem exec_mbRecordExecute {s0 s : State} {ecc : List EccHit} {i : Nat} {r : MbRec} (hp : plant ecc s0 = s)
    (hup : fwUp s = true) (hn : nextQueued s.mb.order 0 = some (i, r)) :
    exec (.mbRecordExecute ecc) s0 = .next (stage2 s i r) := by
  show Host.Outcome.next (doMbRecordExecute (plant ecc s0)) = _
  simp only [hp, doMbRecordExecute, hup, hn, Bool.not_true, Bool.false_eq_true, if_false]

/-- A record in the history gets its stored response or SEQ_CONFLICT. -/
theorem stage2_known {s : State} {i : Nat} {r : MbRec} {e : HistEntry}
    (h : s.mb.history.find? (fun e => e.seq == r.hdr.seq) = some e) :
    stage2 s i r = placeResponse s i r
      (if e.opcode = r.opcode ∧ e.crc = r.hdr.crc then e.resp else respBytes r.opcode r.hdr .seqConflict []) := by
  rw [stage2, h]
  exact (apply_ite (placeResponse s i r) _ _ _).symm

/-- A record that is not newer than the last one executed gets SEQ_STALE. -/
theorem stage2_stale {s : State} {i : Nat} {r : MbRec} {e : HistEntry}
    (h : s.mb.history.find? (fun e => e.seq == r.hdr.seq) = none) (hl : s.mb.history.getLast? = some e)
    (hn : newerSeq r.hdr.seq e.seq = false) :
    stage2 s i r = placeResponse s i r (respBytes r.opcode r.hdr .seqStale []) := by
  rw [stage2, h, hl]
  exact if_pos (by rw [Option.elim_some, hn]; rfl)

/-- Any other record is checked and executed. -/
theorem stage2_new {s : State} {i : Nat} {r : MbRec}
    (h : s.mb.history.find? (fun e => e.seq == r.hdr.seq) = none)
    (hl : ∀ e, s.mb.history.getLast? = some e → newerSeq r.hdr.seq e.seq = true) :
    stage2 s i r = settleAt (execChecked r.resv r.opcode r.hdr (runRecord r) s).1 i r
      (execChecked r.resv r.opcode r.hdr (runRecord r) s).2 := by
  have hc : (s.mb.history.getLast?).elim false (fun e => ! newerSeq r.hdr.seq e.seq) = false := by
    cases hg : s.mb.history.getLast? with
    | none => rfl
    | some e => rw [Option.elim_some, hl e hg]; rfl
  rw [stage2, h]
  generalize execChecked r.resv r.opcode r.hdr (runRecord r) s = x
  obtain ⟨s', res⟩ := x
  exact if_neg (Bool.eq_false_iff.1 hc)

/-- A header without a reserved field set is checked for its domain (R16). -/
theorem execChecked_domain (op : Nat) (h : CmdHdr) (f : State → State × CmdRes) (s : State) :
    execChecked none op h f s = if domainRefused op h = true then refuse s .denied else f s := rfl

/-- Settles O11: stage 2 by the history, then the checks, then the opcode. -/
theorem recordsAreCheckedAndRunByOpcode : Obligations.RecordsAreCheckedAndRunByOpcode := by
  unfold Obligations.RecordsAreCheckedAndRunByOpcode
  refine ⟨fun s0 s ecc i r hp hup hn => ?_, fun s r => ?_⟩
  · rw [exec_mbRecordExecute hp hup hn]
    refine ⟨fun e he => by rw [stage2_known he], fun hnot => ?_⟩
    have hnone : s.mb.history.find? (fun e => e.seq == r.hdr.seq) = none := by simpa using hnot
    refine ⟨fun e he hs => by rw [stage2_stale hnone he hs], fun hnew => ?_⟩
    rw [stage2_new hnone hnew]
    refine ⟨fun off h => ?_, fun h hd => ?_, fun h hd => ?_⟩
    · rw [h]; rfl
    · rw [h, execChecked_domain, if_pos hd]; rfl
    · rw [h, execChecked_domain, if_neg (Bool.eq_false_iff.1 hd)]
  · refine ⟨fun h => ?_, fun h hl => ?_, fun h hl => ?_, fun h hl => ?_, fun h hl => ?_, fun h hl => ?_, fun h hl => ?_,
      fun l h hl => ?_⟩
    · rw [runRecord, h]; rfl
    · simp [runRecord, h, hl, payLayout, payFits, runGroups02, okDone]
    · simp [runRecord, h, hl, payLayout, payFits, runGroups02]
    · simp [runRecord, h, hl, payLayout, payFits, runGroups02]
    · simp [runRecord, h, hl, payLayout, payFits, runGroups34]
    · simp [runRecord, h, hl, payLayout, payFits, runGroups89]
    · simp [runRecord, h, hl, payLayout, payFits, runGroups57]
    · simp [runRecord, h, hl, badLen]

/-! ### Rows -/

/-- The oldest entry of a history over its limits is dropped (R73). -/
theorem trimHist_cons (e e' : HistEntry) (l : List HistEntry) :
    trimHist (e :: e' :: l) =
      if 16 < (e :: e' :: l).length ∨ 524288 < histSize (e :: e' :: l) then trimHist (e' :: l) else e :: e' :: l := rfl

/-- A history within its limits keeps its newest entry (R73). -/
theorem trimHist_getLast? (l : List HistEntry) : (trimHist l).getLast? = l.getLast? := by
  induction l with
  | nil => rfl
  | cons e l ih => cases l with
    | nil => rfl
    | cons e' l =>
      rw [trimHist_cons]
      split
      · rw [ih]; rfl
      · rfl

/-- A history within its limits holds at most 512 KiB, or the newest entry alone (R73). -/
theorem trimHist_size (l : List HistEntry) : histSize (trimHist l) ≤ 524288 ∨ (trimHist l).length = 1 := by
  induction l with
  | nil => left; simp [trimHist, histSize]
  | cons e l ih => cases l with
    | nil => right; rfl
    | cons e' l =>
      rw [trimHist_cons]
      split
      · exact ih
      · rename_i h
        left
        omega

/-- A response is its header of 32 bytes and its payload. -/
theorem length_respBytes (op : Nat) (h : CmdHdr) (st : Status) (payload : List Byte) :
    (respBytes op h st payload).length = 32 + payload.length := by
  simp [respBytes]
  omega

/-- A row whose record asks for no CMD_DONE changes the mailbox alone. -/
theorem answerRow_quiet {h : CmdHdr} (op : Nat) (s : State) (st : Status) (payload : List Byte) (hf : h.flags % 2 = 0) :
    answerRow h op (s, .done st payload) = { s with mb := (answerRow h op (s, .done st payload)).mb } := by
  have hb : bitAt h.flags 0 = false := by simp [bitAt, Nat.testBit_zero, hf]
  simp [answerRow, settleAt, finishAt, placeResponse, recordHist, rowRecord, hb]

/-- Settles O12: the checks of `runCommand`, and what `answerRow` leaves. -/
theorem commandRowsAreCheckedAndAnswered : Obligations.CommandRowsAreCheckedAndAnswered := by
  unfold Obligations.CommandRowsAreCheckedAndAnswered
  refine ⟨fun s h op f => ⟨fun hu => runCommand_down hu f, fun hu hf => ?_, fun hu hf hg hd => ?_,
    fun ha => runCommand_accepted ha f⟩, fun s h op st payload => ?_⟩
  · have h2 : h.flags / 2 ≠ 0 := by omega
    simp [runCommand, hu, execChecked, h2]
  · have h2 : h.flags / 2 = 0 := by omega
    have hr : domainRefused op h = true := by simp [domainRefused, hg, hd]
    simp [runCommand, hu, execChecked, h2, hr, refuse]
  · obtain ⟨hmb, hev⟩ := answerRow_done h op s st payload
    intro rsp t
    refine ⟨hmb, ?_, ?_, ?_, answerRow_quiet op s st payload, hev, length_respBytes _ _ _ _, answerRow_wait h op s⟩
    · rw [hmb]; exact trimHist_length _
    · rw [hmb]; simp [trimHist_getLast?, rsp]
    · rw [hmb]; exact trimHist_size _

/-! ### Registers -/

/-- Settles O13: each register of functions 1 and 3 by its address. -/
theorem registerWritesReachTheirRegisters : Obligations.RegisterWritesReachTheirRegisters := by
  unfold Obligations.RegisterWritesReachTheirRegisters
  have hx : ∀ fn addr v s, exec (.registerWrite fn addr v) s = .next (doRegisterWrite fn addr v s) :=
    fun _ _ _ _ => rfl
  refine ⟨fun s v hup => ?_, fun s v hup => ⟨?_, ?_, ?_, ?_, ?_⟩, fun s v hup => ⟨?_, ?_⟩, fun s fn addr v hup => ?_,
    fun s => ?_⟩
  · show Host.Outcome.next (doMbStatusW1c v s) = _
    simp [doMbStatusW1c, hup, bitAt]
  · simp [hx, doRegisterWrite, hup]
  · rw [hx]; simp only [doRegisterWrite, hup]; rfl
  · rw [hx]; simp only [doRegisterWrite, hup]; rfl
  · simp [hx, doRegisterWrite, hup]
  · simp [hx, doRegisterWrite, hup]
  · simp [hx, doRegisterWrite, hup, bitAt]
  · simp [hx, doRegisterWrite, hup]
  · simp [hx, doRegisterWrite, hup]
  · simp [dat1, mbInt, evInt, Option.isSome_iff_ne_none, or_assoc]

/-! ### Events -/

/-- A trace record changes the trace alone. -/
theorem emitTrace_trace (s : State) (c u : Nat) (g : Bool) (k a : Nat) (e : List (Nat × Nat × Nat × Nat × Nat)) :
    emitTrace s c u g k a e = { s with trace := (emitTrace s c u g k a e).trace } := by
  unfold emitTrace
  dsimp only
  split <;> split <;> rfl

/-- Without a sink a record is for function 3. -/
theorem placeEvent_noSink {s : State} (e : EvRec) (h : s.ev.sink = none) : placeEvent s e = pushEvent s e := by
  rw [placeEvent, h]

/-- Settles O15: the event's trace record first, then the record that joins the FIFO. -/
theorem eventTakesTimeAndSequence : Obligations.EventTakesTimeAndSequence := by
  unfold Obligations.EventTakesTimeAndSequence
  intro s code cls unit arg hsink hspace hlost t
  refine ⟨mkEvent s code cls unit arg, ?_, rfl, rfl, rfl, rfl, rfl, rfl, rfl, length_evBytes _⟩
  have ht : t = placeEvent (emitTrace { s with ev := { s.ev with eseq := s.ev.eseq + 1 } } 13 0 false 11 code [])
      (mkEvent s code cls unit arg) := rfl
  have hq := emitTrace_trace { s with ev := { s.ev with eseq := s.ev.eseq + 1 } } 13 0 false 11 code []
  generalize emitTrace { s with ev := { s.ev with eseq := s.ev.eseq + 1 } } 13 0 false 11 code [] = q at ht hq
  have hev : q.ev = { s.ev with eseq := s.ev.eseq + 1 } := by rw [hq]
  rw [placeEvent_noSink _ (by rw [hev]; exact hsink),
    pushEvent_of_space _ (by rw [hev]; exact hspace) (by rw [hev]; exact hlost), hev] at ht
  rw [ht, hq]

end Sys2Proof.Machine
end

section
/-! PROOFS. Bulk transfers (R77, R78) with O16. -/

namespace Sys2Proof.Machine

open Sys2Proof

/-- A transfer within the limits of R77 is not refused. -/
theorem bulkRefusal_none {addr len : Nat} (ha : addr < 2 ^ 48) (hlo : 64 ≤ len) (hhi : len ≤ 2 ^ 30) (hm : len % 64 = 0) :
    bulkRefusal addr len = none := by
  rw [bulkRefusal, if_neg (by omega), if_neg (by omega)]

/-- A read of no granules meets nothing. -/
theorem meet_nothing (s : State) : meet (fun _ => false) s = s := by
  unfold meet
  generalize s.eccBad = l
  induction l with
  | nil => rfl
  | cons g l ih => exact ih

/-- The granules of a run of whole granules are all written whole. -/
theorem wholeGran_of_mem {a len g : Nat} (ha : a % 64 = 0) (hl : len % 64 = 0) (hg : g ∈ gransOf a len) :
    wholeGran a len g = true := by
  unfold gransOf at hg
  split at hg
  · cases hg
  · simp only [List.mem_map, List.mem_range, granOf] at hg
    obtain ⟨i, hi, rfl⟩ := hg
    simp only [wholeGran, Bool.and_eq_true, decide_eq_true_iff]
    omega

/-- A write of whole granules reads none of them for a merge (R188). -/
theorem meetMerge_whole {a len : Nat} (s : State) (ha : a % 64 = 0) (hl : len % 64 = 0) : meetMerge a len s = s := by
  have hpart : (gransOf a len).filter (fun g => ! wholeGran a len g) = [] :=
    List.filter_eq_nil_iff.2 (fun g hg => by rw [wholeGran_of_mem ha hl hg]; decide)
  unfold meetMerge
  rw [hpart]
  exact meet_nothing s

/-- A granule that its target admits is stored at the next address of the transfer, which goes on. -/
theorem doBulkDataWrite_granule {s : State} {x : BulkXfer} {data : List Byte} (hup : fnUp s 2 = true) (hfw : fwUp s = true)
    (hx : s.bulk.wr = some x) (hpart : x.part = []) (hlen : data.length = 64) (hmore : x.done + 64 < x.len)
    (hok : accessStatus s x.dom true (x.addr + x.done) 64 = .ok) :
    doBulkDataWrite data s =
      { putBytes (meetMerge (x.addr + x.done) 64 s) (x.addr + x.done) data false with
        bulk := { (meetMerge (x.addr + x.done) 64 s).bulk with wr := some { x with done := x.done + 64 } } } := by
  have hw : writeLocal s x.dom (x.addr + x.done) data false =
      (putBytes (meetMerge (x.addr + x.done) 64 s) (x.addr + x.done) data false, .ok) := by
    rw [← hlen] at hok
    rw [writeLocal_ok false hok, hlen]
  have hfuel : (0 + data.length) / 64 + 2 = 2 + 1 := by omega
  simp only [doBulkDataWrite, hup, hfw, hx, hpart, Bool.not_true, Bool.or_self, Bool.false_eq_true, if_false,
    List.nil_append, List.length_nil, hfuel]
  rw [bulkStore, if_neg (show ¬ x.done = x.len by omega), if_neg (show ¬ data.length < 64 by omega),
    show data.take 64 = data from List.take_of_length_le (by omega), hw]
  simp only [if_true, List.drop_of_length_le (Nat.le_of_eq hlen)]
  rw [bulkStore, if_neg (show ¬ x.done + 64 = x.len by omega)]
  rfl

/-- A read below the sequencer windows gives the bytes of memory. -/
theorem viewBytes_memory {s : State} {a len : Nat} (h : a + len ≤ nodeBase) (hl : 0 < len) :
    viewBytes s a len = memRead s.mem a len := by
  have hn : ∀ base size, nodeBase ≤ base → inRange a len base size = false := fun base size hb => by
    simp only [inRange, Bool.and_eq_false_imp, decide_eq_true_iff, decide_eq_false_iff_not]
    omega
  simp only [viewBytes, hn nodeBase _ (by decide), hn semBase _ (by decide), hn flagBase _ (by decide), Bool.false_eq_true,
    if_false, getBytes]

/-- A read that its target admits meets the errors that stand there, and gives the bytes. -/
theorem readLocal_ok {s : State} {dom a len : Nat} (h : accessStatus s dom false a len = .ok) :
    readLocal s dom a len = (meetRange a len s, .ok, viewBytes s a len) := by
  have hd : accessStatus s dom false a len ≠ .denied := by rw [h]; decide
  simp only [readLocal, access_ok hd, h]

/-- No error is met where none stands in the granules that a read touches. -/
theorem meetRange_absent {a len : Nat} {s : State} (h : ∀ y ∈ s.eccBad, granOf y.addr ∉ gransOf a len) :
    meetRange a len s = s := by
  unfold meetRange meet
  suffices ∀ l : List EccHit, (∀ y ∈ l, granOf y.addr ∉ gransOf a len) →
      l.foldl (fun s x => if (gransOf a len).contains (granOf x.addr) then eccMeet s x else s) s = s from this _ h
  intro l
  induction l with
  | nil => exact fun _ => rfl
  | cons y l ih =>
    intro hl
    rw [List.foldl_cons, if_neg (by simpa using hl y (by simp))]
    exact ih (fun z hz => hl z (by simp [hz]))

/-- The transfer after a granule that is read and given to the host. -/
def bulkReadOn (s : State) (x : BulkXfer) : BulkXfer :=
  { bulkCount s x (x.addr + x.done) with part := [], done := x.done + 64 }

/-- What a granule that is given to the host adds to the counts leaves the transfer's place and length. -/
theorem bulkCount_place (s : State) (x : BulkXfer) (a : Nat) :
    (bulkCount s x a).addr = x.addr ∧ (bulkCount s x a).len = x.len ∧ (bulkCount s x a).done = x.done := ⟨rfl, rfl, rfl⟩

/-- A granule that its target admits is given to the host, and the transfer goes on. -/
theorem doBulkDataRead_granule {s : State} {x : BulkXfer} (hup : fnUp s 2 = true) (hfw : fwUp s = true)
    (hx : s.bulk.rd = some x) (hpart : x.part = []) (hmore : x.done + 64 < x.len)
    (hok : accessStatus s x.dom false (x.addr + x.done) 64 = .ok) (hmem : x.addr + x.done + 64 ≤ nodeBase) :
    let q := meetRange (x.addr + x.done) 64 s
    doBulkDataRead 64 s =
      { q with bulk := { q.bulk with rd := some (bulkReadOn s x) },
               sdio := { q.sdio with data := memRead s.mem (x.addr + x.done) 64 } } := by
  intro q
  have hself : ({ s with bulk := { s.bulk with rd := some x } } : State) = s := by rw [← hx]
  have hlen := memRead_length s.mem (x.addr + x.done) 64
  have hr : readLocal s x.dom (x.addr + x.done) 64 = (q, .ok, memRead s.mem (x.addr + x.done) 64) := by
    rw [readLocal_ok hok, viewBytes_memory hmem (by decide)]
  generalize memRead s.mem (x.addr + x.done) 64 = bs at hlen hr ⊢
  have hne : bs ≠ [] := by rintro rfl; cases hlen
  simp only [doBulkDataRead, hup, hfw, hx, Bool.not_true, Bool.false_eq_true, if_false]
  have hload : bulkLoad (2 * (64 / 64) + 5) s x 64 [] =
      ({ q with bulk := { q.bulk with rd := some (bulkReadOn s x) } }, bs) := by
    show bulkLoad (4 + 3) s x 64 [] = _
    rw [bulkLoad, if_neg (by simp [hpart]), if_neg (by omega), if_neg (by decide), hself]
    simp only [hr, if_true]
    obtain ⟨haddr, hl, hdone⟩ := bulkCount_place s x (x.addr + x.done)
    unfold bulkReadOn
    generalize bulkCount s x (x.addr + x.done) = y at haddr hl hdone ⊢
    rw [bulkLoad, if_pos ⟨hne, by decide⟩]
    simp only [hlen, Nat.min_self, Nat.sub_self, List.take_of_length_le (Nat.le_of_eq hlen),
      List.drop_of_length_le (Nat.le_of_eq hlen), List.nil_append, hdone]
    rw [bulkLoad, if_neg (by simp), if_neg (show ¬ x.done + 64 = y.len by omega), if_pos rfl]
  rw [hload]
  simp only [padTo_of_length hlen]

/-- Settles O16: opening by `bulkRefusal`, a granule by `bulkStore` and `bulkLoad`, the rest by the open transfers. -/
theorem bulkTransfersOpenAndMoveBytes : Obligations.BulkTransfersOpenAndMoveBytes := by
  unfold Obligations.BulkTransfersOpenAndMoveBytes
  refine ⟨fun s h addr len hacc ha hlo hhi hm => ?_, fun s h addr len hacc ha hlo hhi hm => ?_,
    fun s x data hup hfw hx hpart hlen hmore hok => ?_, fun s0 s ecc x hp hup hfw hx hpart hmore hok hmem => ?_,
    fun s0 s ecc count hp hup hfw hx => ?_, fun s data hup hfw hx => ?_⟩
  · have hrun : exec (.bulkWrite h addr len) s = .next (answerRow h 0x0102 (cmdBulkWrite h addr len s)) :=
      congrArg _ (runCommand_accepted hacc _)
    rw [answersOk, hrun, cmdBulkWrite, bulkRefusal_none ha hlo hhi hm]
    exact ⟨fun hw => by simp [hw, okDone], fun hw => by simp [Option.isSome_iff_ne_none.2 hw, refuse]⟩
  · have hrun : exec (.bulkRead h addr len) s = .next (answerRow h 0x0103 (cmdBulkRead h addr len s)) :=
      congrArg _ (runCommand_accepted hacc _)
    rw [answersOk, hrun, cmdBulkRead, bulkRefusal_none ha hlo hhi hm]
    exact ⟨fun hw => by simp [hw, okDone], fun hw => by simp [Option.isSome_iff_ne_none.2 hw, refuse]⟩
  · refine ⟨_, rfl, ?_⟩
    rw [doBulkDataWrite_granule hup hfw hx hpart hlen hmore hok]
    have hq := meetMerge_reads (x.addr + x.done) 64 s
    have hqm := meetMerge_mem (x.addr + x.done) 64 s
    refine ⟨?_, fun hal => ?_, ?_, fun a ha => ?_⟩
    · generalize meetMerge (x.addr + x.done) 64 s = q at hq
      unfold ReadsOnly DoubtOnly at hq
      unfold DoubtOnly
      rw [hq]
      rfl
    · rw [meetMerge_whole s hal (by decide)]; rfl
    · have hm := memRead_memWrite (meetMerge (x.addr + x.done) 64 s).mem (x.addr + x.done) data
      rw [hlen] at hm
      exact hm
    · have hb := putBytes_byte (meetMerge (x.addr + x.done) 64 s) (x.addr + x.done) data false a
      rw [dif_neg (by omega), hqm] at hb
      exact hb
  · have hrun : exec (.bulkDataRead 64 ecc) s0 = .next (doBulkDataRead 64 s) := by rw [← hp]; rfl
    rw [hrun, doBulkDataRead_granule hup hfw hx hpart hmore hok hmem]
    refine ⟨_, rfl, ?_, fun hclean => ?_, rfl, ?_⟩
    · have hq := meetRange_reads (x.addr + x.done) 64 s
      generalize meetRange (x.addr + x.done) 64 s = q at hq
      unfold ReadsOnly DoubtOnly at hq
      unfold DoubtOnly
      rw [hq]
    · rw [meetRange_absent hclean]
    · have hq := meetRange_reads (x.addr + x.done) 64 s
      unfold ReadsOnly DoubtOnly at hq
      have hb := congrArg (fun t : State => t.bulk.extraRd) hq
      exact hb
  · have hrun : exec (.bulkDataRead count ecc) s0 = .next (doBulkDataRead count s) := by rw [← hp]; rfl
    simp only [hrun, doBulkDataRead, hup, hfw, hx, Bool.not_true, Bool.false_eq_true, if_false]
  · have hrun : exec (.bulkDataWrite data) s = .next (doBulkDataWrite data s) := rfl
    simp only [hrun, doBulkDataWrite, hup, hfw, hx, Bool.not_true, Bool.or_self, Bool.false_eq_true, if_false]

end Sys2Proof.Machine
end

section
/-! PROOFS. What the shared reports do (R66, R76, R428, R430, R463, R478): the counters that an event leaves alone, the ESEQ
that it takes, the condition that a source opens, and the place that a completion answers. -/

namespace Sys2Proof.Machine

open Sys2Proof

/-! ### Counters -/

/-- No counter of flits sent (class 5, counter 0) stands at this key: sending an event's record to a sink leaves it. -/
def CounterKey (k : Nat) : Prop := ∀ p < 12, k ≠ srcKey 5 p * 8

/-- The value at a key among the counters. -/
def cntAt (s : State) (k : Nat) : Nat := tabGet 0 s.trace.cnt k

theorem cntAt_bump_same (s : State) (cls unit i n : Nat) :
    cntAt (bump s cls unit i n) (srcKey cls unit * 8 + i) = satTo 48 (cntAt s (srcKey cls unit * 8 + i) + n) :=
  tabGet_tabPut_same _ _ _ _

theorem cntAt_bump_other (s : State) (cls unit i n : Nat) {k : Nat} (h : k ≠ srcKey cls unit * 8 + i) :
    cntAt (bump s cls unit i n) k = cntAt s k :=
  tabGet_tabPut_other _ _ _ h

@[simp] theorem cntAt_emitTrace (s : State) (c u : Nat) (g : Bool) (kd a : Nat) (e : List (Nat × Nat × Nat × Nat × Nat)) (k : Nat) :
    cntAt (emitTrace s c u g kd a e) k = cntAt s k := by
  unfold emitTrace
  dsimp only
  split <;> split <;> rfl

theorem cntAt_freeFlits (s : State) (p vc n k : Nat) : cntAt (freeFlits s p vc n) k = cntAt s k := by
  unfold freeFlits
  split <;> rfl

theorem cntAt_sendFlit {s : State} {p : Nat} (o : OutPkt) (f : Nat × Nat × List Byte) (r : List (Nat × Nat × List Byte))
    {k : Nat} (h : k ≠ srcKey 5 p * 8) : cntAt (sendFlit s p o f r) k = cntAt s k := by
  unfold sendFlit
  dsimp only
  rw [cntAt_freeFlits]
  split
  · rw [cntAt_emitTrace, cntAt_bump_other _ _ _ _ _ h]; rfl
  · rw [cntAt_bump_other _ _ _ _ _ h]; rfl

theorem cntAt_pumpStep {s t : State} {p k : Nat} (hk : k ≠ srcKey 5 p * 8) (h : pumpStep s p = some t) :
    cntAt t k = cntAt s k := by
  unfold pumpStep at h
  dsimp only at h
  split at h
  · split at h
    · cases h
    · split at h <;> cases h
      exact cntAt_sendFlit _ _ _ hk
  · simp only [Option.map_eq_some_iff] at h
    obtain ⟨i, -, rfl⟩ := h
    unfold startAt
    dsimp only
    split <;> rfl

theorem cntAt_pumpPort (n : Nat) (s : State) {p k : Nat} (hk : k ≠ srcKey 5 p * 8) :
    cntAt (pumpPort n s p) k = cntAt s k := by
  induction n generalizing s with
  | zero => rfl
  | succ n ih =>
    unfold pumpPort
    split
    · rfl
    · split
      · rfl
      · rename_i h
        exact (ih _).trans (cntAt_pumpStep hk h)

theorem cntAt_routePosted (s : State) (src : Nat) (x : Packet) {k : Nat} (hk : CounterKey k) :
    cntAt (routePosted s src x) k = cntAt s k := by
  unfold routePosted
  dsimp only
  split
  · rfl
  · split
    · rfl
    · split
      · rfl
      · split
        · rfl
        · exact cntAt_pumpPort _ _ (hk _ (by omega))

theorem cntAt_placeEvent (s : State) (e : EvRec) {k : Nat} (hk : CounterKey k) : cntAt (placeEvent s e) k = cntAt s k := by
  have hpush : cntAt (pushEvent s e) k = cntAt s k := by unfold pushEvent; split <;> rfl
  unfold placeEvent
  split
  · exact hpush
  · split
    · exact hpush
    · split
      · rfl
      · split
        · exact cntAt_routePosted _ _ _ hk
        · exact (cntAt_routePosted _ _ _ hk).trans (cntAt_routePosted _ _ _ hk)

/-- An event leaves every counter but those of flits sent. -/
theorem cntAt_postEvent (s : State) (code cls unit : Nat) (arg : List Byte) {k : Nat} (hk : CounterKey k) :
    cntAt (postEvent s code cls unit arg) k = cntAt s k := by
  unfold postEvent
  exact (cntAt_placeEvent _ _ hk).trans (cntAt_emitTrace _ _ _ _ _ _ _ _)

theorem cntAt_failCond (s : State) (source kind scope : Nat) (level : Bool) {k : Nat} (hk : CounterKey k) :
    cntAt (failCond s source kind scope level) k = cntAt s k := by
  unfold failCond
  dsimp only
  show cntAt (ite _ _ _) k = _
  split
  · rw [cntAt_postEvent _ _ _ _ _ hk]
    split
    · exact cntAt_postEvent _ _ _ _ _ hk
    · rfl
  · split
    · exact cntAt_postEvent _ _ _ _ _ hk
    · rfl

theorem cntAt_raiseDoubt (s : State) (code cls unit : Nat) (arg : List Byte) (source kind scope : Nat) {k : Nat}
    (hk : CounterKey k) : cntAt (raiseDoubt s code cls unit arg source kind scope) k = cntAt s k :=
  (cntAt_failCond _ _ _ _ _ hk).trans (cntAt_postEvent _ _ _ _ _ hk)

/-- A counter of a unit that is no link port, or that does not count flits sent. -/
theorem counterKey_of {cls unit i : Nat} (hu : unit < 2048) (hi : i < 8) (h : cls ≠ 5 ∨ i ≠ 0) :
    CounterKey (srcKey cls unit * 8 + i) := by
  intro p hp
  unfold srcKey
  omega

/-- A counter that has risen by `n` stands at its old value and `n`, saturated (R478). -/
theorem counted_of {s t : State} {cls unit i n : Nat}
    (h : cntAt t (srcKey cls unit * 8 + i) = satTo 48 (cntAt s (srcKey cls unit * 8 + i) + n)) : counted s t cls unit i n := h

theorem counted_bump (s : State) (cls unit i n : Nat) : counted s (bump s cls unit i n) cls unit i n :=
  counted_of (cntAt_bump_same _ _ _ _ _)

/-! ### ESEQ -/

theorem placeEvent_eseq (s : State) (e : EvRec) (h : s.ev.sink = none) : (placeEvent s e).ev.eseq = s.ev.eseq := by
  unfold placeEvent
  rw [h]
  dsimp only
  unfold pushEvent
  split <;> rfl

/-- An event takes an ESEQ; where a link sink stands, the records lost before it may take one more. -/
theorem postEvent_eseq (s : State) (code cls unit : Nat) (arg : List Byte) :
    (postEvent s code cls unit arg).ev.eseq = s.ev.eseq + 1 ∨ s.ev.sink ≠ none := by
  by_cases h : s.ev.sink = none
  · left
    have hev : (emitTrace { s with ev := { s.ev with eseq := s.ev.eseq + 1 } } 13 0 false 11 code []).ev =
        { s.ev with eseq := s.ev.eseq + 1 } := by
      unfold emitTrace
      dsimp only
      split <;> split <;> rfl
    unfold postEvent
    dsimp only
    rw [placeEvent_eseq _ _ (by rw [hev]; exact h), hev]
  · exact .inr h

/-! ### Doubt -/

/-- The condition of a source and scope stands among the conditions once it is put there. -/
theorem mem_putCond (cs : List Cond) (c : Cond) : c ∈ putCond cs c := by
  unfold putCond
  split
  · rename_i h
    obtain ⟨d, hd, hc⟩ := List.any_eq_true.1 h
    exact List.mem_map.2 ⟨d, hd, by rw [if_pos hc]⟩
  · simp

theorem isCond_self (c : Cond) : isCond c.source c.kind c.scope c = true := by simp [isCond]

theorem isCond_iff {source kind scope : Nat} {c : Cond} :
    isCond source kind scope c = true ↔ c.source = source ∧ c.kind = kind ∧ c.scope = scope := by
  simp [isCond, and_assoc]

/-- A failing interval leaves its condition open. -/
theorem failState_open (row m : Nat) (c : Cond) (n : Nat) (level : Bool) : (failState row m c n level).st ≠ .clear := by
  simp only [failState]
  split
  · decide
  · split <;> decide

theorem failState_isCond {row kind scope m n : Nat} {c : Cond} {level : Bool} (h : isCond row kind scope c = true) (row' : Nat) :
    isCond row kind scope (failState row' m c n level) = true := h

/-- The condition that a source and scope have, or a new one. -/
theorem find_isCond (cs : List Cond) (source kind scope : Nat) :
    isCond source kind scope ((cs.find? (isCond source kind scope)).getD (condNew source kind scope)) = true := by
  cases h : cs.find? (isCond source kind scope) with
  | none => simp [isCond, condNew]
  | some c => exact List.find?_some h

theorem postEvent_safety (s : State) (code cls unit : Nat) (arg : List Byte) :
    (postEvent s code cls unit arg).safety = s.safety := by
  have h := postEvent_only s code cls unit arg
  unfold EventsOnly at h
  rw [h]

/-- What a failing source leaves among the conditions (R430). -/
theorem failCond_conds (s : State) (source kind scope : Nat) (level : Bool) :
    (failCond s source kind scope level).safety.conds = putCond s.safety.conds (failState source (polM s.safety.policy)
      ((s.safety.conds.find? (isCond source kind scope)).getD (condNew source kind scope)) (intervalOf s s.time) level) := by
  unfold failCond
  dsimp only
  show (ite _ _ _ : State).safety.conds = _
  split
  · rw [postEvent_safety]
    split
    · rw [postEvent_safety]
    · rfl
  · split
    · rw [postEvent_safety]
    · rfl

/-- A source that fails has its condition open (R430). -/
theorem failCond_open (s : State) (source kind scope : Nat) (level : Bool) :
    doubtOpen (failCond s source kind scope level) source kind scope := by
  refine ⟨failState source (polM s.safety.policy)
      ((s.safety.conds.find? (isCond source kind scope)).getD (condNew source kind scope)) (intervalOf s s.time) level,
    ?_, failState_isCond (find_isCond _ _ _ _) _, failState_open _ _ _ _ _⟩
  rw [failCond_conds]
  exact mem_putCond _ _

theorem raiseDoubt_open (s : State) (code cls unit : Nat) (arg : List Byte) (source kind scope : Nat) :
    doubtOpen (raiseDoubt s code cls unit arg source kind scope) source kind scope :=
  failCond_open _ _ _ _ _

/-- A condition is open wherever the safety monitor is the same. -/
theorem doubtOpen_congr {s t : State} {row kind scope : Nat} (h : t.safety = s.safety) (k : doubtOpen s row kind scope) :
    doubtOpen t row kind scope := by
  unfold doubtOpen
  rw [h]
  exact k

/-! ### Answers -/

theorem sendMbox_only (s : State) (type dst tag gen : Nat) (bs : List Byte) :
    EventsOnly s (sendMbox s type dst tag gen bs) := by
  unfold sendMbox
  generalize mboxPackets s type dst tag gen (bs.length / 256 + 1) 0 bs = l
  induction l generalizing s with
  | nil => exact .refl s
  | cons p l ih => exact (routePosted_only s 12 p).trans (ih _)

theorem EventsOnly.mb {s t : State} (h : EventsOnly s t) : t.mb = s.mb := by
  unfold EventsOnly at h
  rw [h]

/-- A response in the place of its record, before CMD_DONE follows. -/
def responsePlaced (s : State) (i : Nat) (r : MbRec) (rsp : List Byte) : State :=
  match r.src with
  | .host => { s with mb := { s.mb with order := s.mb.order.set i (.resp .host rsp) } }
  | .relay dev tag gen => sendMbox { s with mb := { s.mb with order := s.mb.order.eraseIdx i } } 0x86 dev tag gen rsp

theorem placeResponse_eq (s : State) (i : Nat) (r : MbRec) (rsp : List Byte) :
    placeResponse s i r rsp = if bitAt r.hdr.flags 0 then
      postEvent (responsePlaced s i r rsp) 0x0001 13 0
        (leBytes 2 r.opcode ++ leBytes 2 0 ++ leBytes 4 r.hdr.seq ++ bytesAt rsp 14 2)
      else responsePlaced s i r rsp := rfl

theorem responsePlaced_only (s : State) (i : Nat) (r : MbRec) (rsp : List Byte) :
    EventsOnly { s with mb := (responsePlaced s i r rsp).mb } (responsePlaced s i r rsp) := by
  unfold responsePlaced
  cases r.src with
  | host => rfl
  | relay dev tag gen =>
    have hm := sendMbox_only { s with mb := { s.mb with order := s.mb.order.eraseIdx i } } 0x86 dev tag gen rsp
    dsimp only
    rw [hm.mb]
    exact hm

/-- A response changes the mailbox, and what its events and packets change. -/
theorem placeResponse_only (s : State) (i : Nat) (r : MbRec) (rsp : List Byte) :
    EventsOnly { s with mb := (placeResponse s i r rsp).mb } (placeResponse s i r rsp) := by
  have hq := responsePlaced_only s i r rsp
  rw [placeResponse_eq]
  generalize responsePlaced s i r rsp = q at hq ⊢
  split
  · have hp := postEvent_only q 0x0001 13 0 (leBytes 2 r.opcode ++ leBytes 2 0 ++ leBytes 4 r.hdr.seq ++ bytesAt rsp 14 2)
    rw [hp.mb]
    exact hq.trans hp
  · exact hq

theorem finishAt_only (s : State) (i : Nat) (r : MbRec) (st : Status) (payload : List Byte) :
    EventsOnly { s with mb := (finishAt s i r st payload).mb } (finishAt s i r st payload) := by
  unfold finishAt
  exact placeResponse_only (recordHist s r.opcode r.hdr (respBytes r.opcode r.hdr st payload)) i r
    (respBytes r.opcode r.hdr st payload)

/-- A completion changes the mailbox, and what its events and packets change. -/
theorem answer_only (s : State) (w : WaitKind) (st : Status) (payload : List Byte) :
    EventsOnly { s with mb := (answer s w st payload).mb } (answer s w st payload) := by
  unfold answer
  split
  · rfl
  · split
    · rfl
    · exact finishAt_only _ _ _ _ _

/-- A response to a record of the host stands in its place of the order. -/
theorem finishAt_order {s : State} {i : Nat} {r : MbRec} (st : Status) (payload : List Byte) (hr : r.src = .host) :
    (finishAt s i r st payload).mb.order = s.mb.order.set i (.resp .host (respBytes r.opcode r.hdr st payload)) := by
  simp only [finishAt, placeResponse, recordHist, hr]
  split
  · rw [(postEvent_only _ _ _ _ _).mb]
  · rfl

/-- A record that waits stands in the order. -/
theorem waitingOn_lt {w : WaitKind} {k i : Nat} {l : List MbEntry} {r : MbRec} (h : waitingOn w k l = some (i, r)) :
    k ≤ i ∧ i < k + l.length := by
  induction l generalizing k with
  | nil => cases h
  | cons e l ih =>
    cases e with
    | queued _ | resp _ _ => have := ih h; simp only [List.length_cons]; omega
    | exec r' w' =>
      rw [waitingOn] at h
      split at h
      · cases h; simp
      · have := ih h; simp only [List.length_cons]; omega

/-- A completion answers the host's record in its place of the order (R66). -/
theorem answer_completes (s : State) (w : WaitKind) (st : Status) (payload : List Byte) :
    completesWait s (answer s w st payload) w st payload := by
  intro hup i r hw hr
  have hlt := waitingOn_lt hw
  simp only [answer, hup, hw, Bool.not_true, Bool.false_eq_true, if_false]
  rw [finishAt_order _ _ hr, List.getElem?_set_self (by omega)]

/-- The same from a state with the same order and firmware. -/
theorem answer_completes_of {s q : State} {w : WaitKind} {st : Status} {payload : List Byte} (hu : fwUp q = fwUp s)
    (ho : q.mb.order = s.mb.order) : completesWait s (answer q w st payload) w st payload := by
  intro hup i r hw hr
  exact answer_completes q w st payload (hu.trans hup) i r (by rw [ho]; exact hw) hr

end Sys2Proof.Machine
end

section
/-! PROOFS. The address map, refused accesses and travel codes of writes (R14, R17, R18, R22, R187, R188) with O20 and O21. -/

namespace Sys2Proof.Machine

open Sys2Proof

/-! ### The map -/

theorem inRange_iff {a len base size : Nat} : inRange a len base size = true ↔ base ≤ a ∧ a + len ≤ base + size := by
  simp [inRange]

/-- The map as ranges: an access lies in one listed range whole, or in none (R22). -/
theorem mapTarget_eq (s : State) (a len : Nat) :
    mapTarget s a len =
      if a + len ≤ s.ddr.usable then some 0
      else if fsBase ≤ a ∧ a + len ≤ fsBase + fsSize then some 1
      else if spmBase ≤ a ∧ a + len ≤ spmBase + 256 * spmStride then
        (if spmBase + (a - spmBase) / spmStride * spmStride ≤ a ∧
            a + len ≤ spmBase + (a - spmBase) / spmStride * spmStride + spmSize then
          some (0x100 + (a - spmBase) / spmStride) else none)
      else if traceBase ≤ a ∧ a + len ≤ traceBase + traceSize then some 2
      else if (nodeBase ≤ a ∧ a + len ≤ nodeBase + 0x140000) ∨ (flagBase ≤ a ∧ a + len ≤ flagBase + 0x8000) then some 3
      else if cpBase ≤ a ∧ a + len ≤ cpBase + cpSize then some 4
      else if ctlBase ≤ a ∧ a + len ≤ ctlBase + (2 ^ 48 - ctlBase) then some 5
      else none := by
  simp only [mapTarget, mapWith, Bool.or_eq_true, inRange_iff, Nat.zero_le, true_and, Nat.zero_add]

theorem mapTarget_ddr {s : State} {a len : Nat} : mapTarget s a len = some 0 ↔ a + len ≤ s.ddr.usable := by
  rw [mapTarget_eq]
  repeat' split
  all_goals simp [*]

theorem mapTarget_frameStore {s : State} {a len : Nat} (hl : 0 < len) (hu : s.ddr.usable ≤ ddrEnd) :
    mapTarget s a len = some 1 ↔ fsBase ≤ a ∧ a + len ≤ fsBase + fsSize := by
  rw [mapTarget_eq]
  repeat' split
  all_goals simp only [fsBase, fsSize, spmBase, spmStride, spmSize, ddrEnd, Option.some.injEq, reduceCtorEq, true_iff,
    false_iff] at *
  all_goals omega

/-- An access within the range of the scratchpads lies in one of them, or is unmapped. -/
theorem mapTarget_inSpm {s : State} {a len : Nat} (hl : 0 < len) (hu : s.ddr.usable ≤ ddrEnd) (hlo : spmBase ≤ a)
    (hhi : a + len ≤ spmBase + 256 * spmStride) :
    mapTarget s a len = if spmBase + (a - spmBase) / spmStride * spmStride ≤ a ∧
        a + len ≤ spmBase + (a - spmBase) / spmStride * spmStride + spmSize then
      some (0x100 + (a - spmBase) / spmStride) else none := by
  have h0 : ¬ a + len ≤ s.ddr.usable := by simp only [ddrEnd, spmBase] at *; omega
  have h1 : ¬ (fsBase ≤ a ∧ a + len ≤ fsBase + fsSize) := by simp only [fsBase, fsSize, spmBase] at *; omega
  rw [mapTarget_eq, if_neg h0, if_neg h1, if_pos ⟨hlo, hhi⟩]

theorem mapTarget_scratchpad {s : State} {a len c : Nat} (hl : 0 < len) (hu : s.ddr.usable ≤ ddrEnd) (hc : c < 256) :
    mapTarget s a len = some (0x100 + c) ↔ spmBase + c * spmStride ≤ a ∧ a + len ≤ spmBase + c * spmStride + spmSize := by
  by_cases hin : spmBase ≤ a ∧ a + len ≤ spmBase + 256 * spmStride
  · rw [mapTarget_inSpm hl hu hin.1 hin.2]
    split
    · rw [Option.some.injEq]
      simp only [spmBase, spmStride, spmSize] at *
      omega
    · rename_i hn
      simp only [spmBase, spmStride, spmSize, reduceCtorEq, false_iff] at *
      rintro ⟨hlo, hhi⟩
      have hq : (a - 279172874240) / 524288 = c := by omega
      exact hn (by rw [hq]; exact ⟨hlo, hhi⟩)
  · have hne : mapTarget s a len ≠ some (0x100 + c) := by
      rw [mapTarget_eq]
      repeat' split
      all_goals simp <;> omega
    simp only [hne, false_iff]
    simp only [spmBase, spmStride, spmSize] at *
    omega

theorem mapTarget_trace {s : State} {a len : Nat} (hl : 0 < len) (hu : s.ddr.usable ≤ ddrEnd) :
    mapTarget s a len = some 2 ↔ traceBase ≤ a ∧ a + len ≤ traceBase + traceSize := by
  rw [mapTarget_eq]
  repeat' split
  all_goals simp only [fsBase, fsSize, spmBase, spmStride, spmSize, traceBase, traceSize, ddrEnd, Option.some.injEq,
    reduceCtorEq, true_iff, false_iff] at *
  all_goals omega

/-- Nothing is mapped between DDR5 and the frame store. -/
theorem mapTarget_hole {s : State} {a len : Nat} (hl : 0 < len) (hu : s.ddr.usable ≤ ddrEnd) (hlo : ddrEnd ≤ a)
    (hhi : a < fsBase) : mapTarget s a len = none := by
  rw [mapTarget_eq]
  repeat' split
  all_goals simp only [fsBase, fsSize, spmBase, spmStride, spmSize, traceBase, traceSize, nodeBase, flagBase, cpBase,
    ctlBase, ddrEnd] at *
  all_goals omega

/-! ### Refused accesses -/

theorem accessStatus_unmapped {s : State} {dom a n : Nat} {wr : Bool} (h : mapTarget s a n = none) :
    accessStatus s dom wr a n = .unmapped := by
  rw [accessStatus, h]

theorem accessStatus_islandOff {s : State} {dom a n t : Nat} {wr : Bool} (h : mapTarget s a n = some t)
    (hi : islandRuns s (targetIsland t) = false) : accessStatus s dom wr a n = .islandOff := by
  rw [accessStatus, h]
  simp [hi]

theorem accessStatus_windows {s : State} {dom a n : Nat} (h : mapTarget s a n = some 3) (hi : islandRuns s 1 = true) :
    accessStatus s dom true a n = .denied := by
  have hi3 : islandRuns s (targetIsland 3) = true := hi
  rw [accessStatus, h]
  simp [hi3]

/-- A denied access has a target. -/
theorem mapTarget_of_denied {s : State} {dom a n : Nat} {wr : Bool} (h : accessStatus s dom wr a n = .denied) :
    ∃ t, mapTarget s a n = some t := by
  cases hm : mapTarget s a n with
  | none => rw [accessStatus_unmapped hm] at h; cases h
  | some t => exact ⟨t, rfl⟩

/-- A denied read gives zeros, and its target's event. -/
theorem readLocal_denied {s : State} {dom a n : Nat} (h : accessStatus s dom false a n = .denied) :
    readLocal s dom a n = (denyEvent s dom a n, .denied, List.replicate n 0) := by
  simp only [readLocal, access, h, if_true]

/-- Function 3's FIFO after an event that finds room there. -/
theorem postEvent_fifo {s : State} (code cls unit : Nat) (arg : List Byte) (hs : s.ev.sink = none)
    (hf : s.ev.fifo.length < 1024) (hl : s.ev.lost = 0) :
    (postEvent s code cls unit arg).ev.fifo = s.ev.fifo ++ [mkEvent s code cls unit arg] := by
  have hev : (emitTrace { s with ev := { s.ev with eseq := s.ev.eseq + 1 } } 13 0 false 11 code []).ev =
      { s.ev with eseq := s.ev.eseq + 1 } := by
    unfold emitTrace
    dsimp only
    split <;> split <;> rfl
  unfold postEvent
  dsimp only
  generalize emitTrace { s with ev := { s.ev with eseq := s.ev.eseq + 1 } } 13 0 false 11 code [] = q at hev ⊢
  rw [placeEvent, hev]
  simp only [hs]
  rw [pushEvent_of_space _ (by rw [hev]; exact hf) (by rw [hev]; exact hl), hev]

/-- Settles O20: the map by its ranges, a refusal by what its target decides. -/
theorem accessesAreMappedWholeAndRefusedWhole : Obligations.AccessesAreMappedWholeAndRefusedWhole := by
  unfold Obligations.AccessesAreMappedWholeAndRefusedWhole
  refine ⟨fun s a len hl hu => ⟨mapTarget_ddr, mapTarget_frameStore hl hu, fun c hc => mapTarget_scratchpad hl hu hc,
    mapTarget_trace hl hu, mapTarget_hole hl hu⟩, fun s dom a bs poison => ⟨fun h => ?_, fun n h => ⟨?_, fun hs hf hlost => ?_⟩,
      fun n wr => accessStatus_unmapped, fun n wr t => accessStatus_islandOff, fun n => accessStatus_windows⟩⟩
  · obtain ⟨hev, hst⟩ := writeLocal_refused poison h
    unfold EventsOnly at hev
    exact ⟨by rw [hev], by rw [hev], hst⟩
  · rw [readLocal_denied h]
  · obtain ⟨t, ht⟩ := mapTarget_of_denied h
    refine ⟨mkEvent s 0x0003 (denySrc t a).1 (denySrc t a).2 (leBytes 1 dom ++ [0] ++ leBytes 2 t ++ leBytes 8 a), t, ht, ?_,
      rfl, rfl⟩
    rw [readLocal_denied h]
    simp only [denyEvent, ht]
    exact postEvent_fifo _ _ _ _ hs hf hlost

/-! ### Travel codes of writes -/

/-- A granule is touched by a write of some bytes that it holds. -/
theorem mem_gransOf {a len g : Nat} : g ∈ gransOf a len ↔ 0 < len ∧ a < g * 64 + 64 ∧ g * 64 < a + len := by
  unfold gransOf granOf
  split
  · simp; omega
  · simp only [List.mem_map, List.mem_range]
    constructor
    · rintro ⟨i, hi, rfl⟩; omega
    · rintro ⟨h1, h2, h3⟩; exact ⟨g - a / 64, by omega, by omega⟩

theorem gransOf_nodup (a len : Nat) : (gransOf a len).Nodup := by
  unfold gransOf
  split
  · exact List.nodup_nil
  · exact List.pairwise_map.2 (List.nodup_range.imp fun hne h => hne (Nat.add_right_cancel h))

/-- Marks of granules, each put once: what a granule carries afterwards. -/
theorem marks_foldl (f : Nat → BitVec 16 → BitVec 16) (g : Nat) (l : List Nat) (hn : l.Nodup) (t : Tab (BitVec 16)) :
    tabGet 0 (l.foldl (fun t g => tabPut 0 g (f g (tabGet 0 t g)) t) t) g =
      if g ∈ l then f g (tabGet 0 t g) else tabGet 0 t g := by
  induction l generalizing t with
  | nil => simp
  | cons h l ih =>
    obtain ⟨hh, hl⟩ := List.nodup_cons.1 hn
    rw [List.foldl_cons, ih hl]
    by_cases hg : g = h
    · subst hg; simp [hh]
    · rw [tabGet_tabPut_other _ _ _ hg]
      simp [hg]

/-- What a write leaves as a granule's mark (R187, R188). -/
theorem markOf_putBytes (s : State) (a : Nat) (bs : List Byte) (poison : Bool) (g : Nat) :
    markOf (putBytes s a bs poison) g =
      if g ∈ gransOf a bs.length then markAfter (markOf s g) (wholeGran a bs.length g) poison else markOf s g :=
  marks_foldl (fun g old => markAfter old (wholeGran a bs.length g) poison) g _ (gransOf_nodup _ _) _

/-- The mark of a poisoned granule is neither good nor failing. -/
theorem poison_mark : (BitVec.ofNat 16 poisonMark == 0) = false ∧ (BitVec.ofNat 16 poisonMark != BitVec.ofNat 16 poisonMark) = false := by
  decide

/-- Settles O21: the mark of each granule by `markOf_putBytes`, the bytes by `putBytes_byte`. -/
theorem writesCarryTravelCodes : Obligations.WritesCarryTravelCodes := by
  unfold Obligations.WritesCarryTravelCodes
  intro s a bs poison g t touched
  have ht : g ∈ gransOf a bs.length ↔ touched := by
    rw [mem_gransOf, List.length_pos_iff]
  have hm : markOf t g = _ := markOf_putBytes s a bs poison g
  have hw : wholeGran a bs.length g = true ↔ a ≤ g * 64 ∧ g * 64 + 64 ≤ a + bs.length := by simp [wholeGran]
  obtain ⟨hp1, hp2⟩ := poison_mark
  refine ⟨fun h => ?_, fun h hp => ?_, fun h hp h1 h2 => ?_, fun h hp hpart => ?_, putBytes_byte s a bs poison⟩
  · rw [hm, if_neg (fun hg => h (ht.1 hg))]
  · rw [if_pos (ht.2 h), hp, markAfter, if_pos rfl] at hm
    simp only [goodGran, failingGran, hm]
    exact ⟨hp1, by rw [hp2, Bool.and_false]⟩
  · rw [if_pos (ht.2 h), hp, hw.2 ⟨h1, h2⟩] at hm
    rw [goodGran, hm]; rfl
  · have hnw : wholeGran a bs.length g = false := Bool.eq_false_iff.2 (fun hx => by have := hw.1 hx; omega)
    rw [if_pos (ht.2 h), hp, hnw, markAfter] at hm
    simp only [Bool.false_eq_true, if_false] at hm
    refine ⟨fun hg => ?_, fun hg => ?_⟩
    · rw [goodGran] at hg
      rw [goodGran, hm, if_pos hg]; rfl
    · rw [goodGran] at hg
      rw [if_neg (Bool.eq_false_iff.1 hg)] at hm
      simp only [goodGran, failingGran, hm]
      exact ⟨hp1, by rw [hp2, Bool.and_false]⟩

end Sys2Proof.Machine
end

section
/-! PROOFS. What a read does with an ECC error that it meets, and the upkeep of the memories (R177 to R179, R318, R343, R402
to R405) with O23 and O24. -/

namespace Sys2Proof.Machine

open Sys2Proof

/-! ### The two reports -/

/-- Nothing changed but marks, the counts of ECC, events, and the doubt conditions with DOUBT_N. -/
def EccOnly (s t : State) : Prop :=
  DoubtOnly { s with marks := t.marks, eccCnt := t.eccCnt, eccWin := t.eccWin } t

theorem EccOnly.refl (s : State) : EccOnly s s := rfl

theorem EccOnly.trans {s t u : State} (h : EccOnly s t) (k : EccOnly t u) : EccOnly s u := by
  unfold EccOnly DoubtOnly at h k ⊢
  rw [h] at k
  exact k

theorem EccOnly.behind {s t u : State} (k : EccOnly t u) (h : EccOnly s t) : EccOnly s u := h.trans k

theorem DoubtOnly.ecc {s t : State} (h : DoubtOnly s t) : EccOnly s t := by
  unfold DoubtOnly at h
  unfold EccOnly DoubtOnly
  rw [h]

theorem EventsOnly.ecc {s t : State} (h : EventsOnly s t) : EccOnly s t := h.doubt.ecc

/-- The counts of a bank after a corrected error. -/
def eccBumped (s : State) (key : Nat) : State :=
  { s with eccCnt := tabSet key (tabGet 0 s.eccCnt key + 1) s.eccCnt, eccWin := tabSet key (windowOf s.time) s.eccWin }

theorem eccCorrected_eq (s : State) (cls unit key : Nat) (arg : List Byte) :
    eccCorrected s cls unit key arg =
      if tabGet? s.eccWin key = some (windowOf s.time) then eccBumped s key
      else postEvent (eccBumped s key) 0x0105 cls unit arg := rfl

/-- A corrected error changes the counts of its bank and reports. -/
theorem eccCorrected_counts (s : State) (cls unit key : Nat) (arg : List Byte) :
    EventsOnly (eccBumped s key) (eccCorrected s cls unit key arg) := by
  rw [eccCorrected_eq]
  split
  · exact .refl _
  · exact postEvent_only _ _ _ _ _

theorem eccCorrected_only (s : State) (cls unit key : Nat) (arg : List Byte) : EccOnly s (eccCorrected s cls unit key arg) :=
  EccOnly.behind (eccCorrected_counts s cls unit key arg).ecc rfl

/-- Granules poisoned. -/
def poisonAll (t : Tab (BitVec 16)) (grans : List Nat) : Tab (BitVec 16) :=
  grans.foldl (fun t g => tabPut 0 g (BitVec.ofNat 16 poisonMark) t) t

theorem tabGet_poisonAll (grans : List Nat) (t : Tab (BitVec 16)) (g : Nat) :
    tabGet 0 (poisonAll t grans) g = if g ∈ grans then BitVec.ofNat 16 poisonMark else tabGet 0 t g := by
  unfold poisonAll
  induction grans generalizing t with
  | nil => simp
  | cons h l ih =>
    rw [List.foldl_cons, ih]
    by_cases hg : g = h
    · subst hg; simp
    · rw [tabGet_tabPut_other _ _ _ hg]
      simp [hg]

theorem eccUncorr_eq (s : State) (cls unit : Nat) (grans : List Nat) (arg : List Byte) :
    eccUncorr s cls unit grans arg =
      raiseDoubt { s with marks := poisonAll s.marks grans } 0x0106 cls unit arg rowDevice kindDevice 0 := rfl

theorem eccUncorr_only (s : State) (cls unit : Nat) (grans : List Nat) (arg : List Byte) :
    EccOnly s (eccUncorr s cls unit grans arg) := by
  rw [eccUncorr_eq]
  exact EccOnly.behind (raiseDoubt_only _ _ _ _ _ _ _ _).ecc rfl

theorem eccUncorr_open (s : State) (cls unit : Nat) (grans : List Nat) (arg : List Byte) :
    doubtOpen (eccUncorr s cls unit grans arg) rowDevice kindDevice 0 := raiseDoubt_open _ _ _ _ _ _ _ _

theorem eccUncorr_marks (s : State) (cls unit : Nat) (grans : List Nat) (arg : List Byte) :
    (eccUncorr s cls unit grans arg).marks = poisonAll s.marks grans := by
  rw [eccUncorr_eq]
  have h := raiseDoubt_only { s with marks := poisonAll s.marks grans } 0x0106 cls unit arg rowDevice kindDevice 0
  unfold DoubtOnly at h
  rw [h]

theorem eccUncorr_wcache (s : State) (cls unit : Nat) (grans : List Nat) (arg : List Byte) :
    (eccUncorr s cls unit grans arg).wcache = s.wcache := by
  have h := eccUncorr_only s cls unit grans arg
  unfold EccOnly DoubtOnly at h
  rw [h]

/-! ### Which report an error makes -/

/-- The report of an error of a memory: nothing, a corrected error after its unit's counter, or an uncorrectable one. -/
def eccReport (s q : State) (found : EccFind) (cls unit key : Nat) (grans : List Nat) (arg : List Byte) : State :=
  match found with
  | .clean => s
  | .corrected => eccCorrected q cls unit key arg
  | .uncorrectable => eccUncorr s cls unit grans arg

theorem fsEcc_eq (s : State) (bank row : Nat) (found : EccFind) :
    fsEcc s bank row found = eccReport s (bump s 10 0 3 1) found 10 0 bank [granOf (fsRowAddr bank row)]
      (eccArg bank 0 0 row (fsRowAddr bank row)) := by cases found <;> rfl

theorem spmEcc_eq (s : State) (core row : Nat) (found : EccFind) :
    spmEcc s core row found = eccReport s (bump s 1 core 7 1) found 1 core (131072 + core)
      [granOf (spmBase + core * spmStride + 64 * row)]
      (eccArg (row % 16) 0 0 (row / 16) (spmBase + core * spmStride + 64 * row)) := by cases found <;> rfl

theorem ddrEcc_eq (s : State) (addr : Nat) (isCode : Bool) (found : EccFind) (rank bank row : Nat) :
    ddrEcc s addr isCode found rank bank row = eccReport s (bump s 7 (ddrChan addr) 4 1) found 7 (ddrChan addr)
      (65536 + ddrChan addr) (if isCode then codeGrans addr else [granOf addr])
      (eccArg bank rank (ddrSubch addr) row (if isCode then codeFirst addr + 2 ^ 63 else addr / 64 * 64)) := by
  cases found <;> rfl

theorem traceEcc_eq (s : State) (addr : Nat) (found : EccFind) :
    traceEcc s addr found = eccReport s s found 12 0 196608 [granOf addr]
      (eccArg 0 0 0 ((addr - traceBase) / 64) (addr / 64 * 64)) := by cases found <;> rfl

/-- The base of the sequencer's table that holds an address. -/
def tableBase (addr : Nat) : Nat := if addr < semBase then nodeBase else if addr < flagBase then semBase else flagBase

theorem tableEcc_eq (s : State) (addr : Nat) (found : EccFind) :
    tableEcc s addr found = eccReport s s found 8 0 196610 [granOf addr]
      (eccArg 0 0 0 ((addr - tableBase addr) / 64) (addr / 64 * 64)) := by cases found <;> rfl

theorem eccReport_only {s q : State} (found : EccFind) (cls unit key : Nat) (grans : List Nat) (arg : List Byte)
    (hq : EccOnly s q) : EccOnly s (eccReport s q found cls unit key grans arg) := by
  cases found with
  | clean => exact .refl s
  | corrected => exact hq.trans (eccCorrected_only _ _ _ _ _)
  | uncorrectable => exact eccUncorr_only _ _ _ _ _

theorem ddrChan_eq (a : Nat) : ddrChan a = a / 256 % 4 := by
  rw [ddrChan, Nat.shiftRight_eq_div_pow]

/-- The bank key of an error in a memory of a target (R513). -/
def eccKey (k a : Nat) : Nat :=
  if k = 0 then 65536 + a / 256 % 4 else if k = 1 then (a - 0x004000000000) / 64 % 48
  else if k = 2 then 196608 else if k = 3 then 196610 else 131072 + (k - 0x100)

/-- The unit's counter of corrected errors, where it has one (R478). -/
def eccCountUp (s : State) (k a : Nat) : State :=
  if k = 0 then bump s 7 (a / 256 % 4) 4 1
  else if k = 1 then bump s 10 0 3 1
  else if 0x100 ≤ k then bump s 1 (k - 0x100) 7 1
  else s

theorem eccKey_ddr (a : Nat) : eccKey 0 a = 65536 + ddrChan a := by rw [ddrChan_eq]; exact if_pos rfl

theorem eccKey_frameStore (a : Nat) : eccKey 1 a = (a - fsBase) / 64 % 48 := by
  rw [eccKey, if_neg (by decide), if_pos rfl, show fsBase = 0x004000000000 from rfl]

theorem eccCountUp_ddr (s : State) (a : Nat) : eccCountUp s 0 a = bump s 7 (ddrChan a) 4 1 := by
  rw [ddrChan_eq]; exact if_pos rfl

theorem eccCountUp_frameStore (s : State) (a : Nat) : eccCountUp s 1 a = bump s 10 0 3 1 := by
  rw [eccCountUp, if_neg (by decide), if_pos rfl]

theorem eccCountUp_only (s : State) (k a : Nat) : EventsOnly s (eccCountUp s k a) := by
  unfold eccCountUp
  repeat' split
  all_goals rfl

/-- An access to the frame store lies within it. -/
theorem frameStore_of_mapTarget {s : State} {a len : Nat} (h : mapTarget s a len = some 1) : fsBase ≤ a := by
  rw [mapTarget_eq] at h
  repeat' split at h
  all_goals simp at h <;> simp only [fsBase, spmBase, spmStride, spmSize] at * <;> omega

/-- An access to a scratchpad lies within its stride. -/
theorem scratchpad_of_mapTarget {s : State} {a len c : Nat} (h : mapTarget s a len = some (0x100 + c)) (hl : 0 < len) :
    spmBase ≤ a ∧ (a - spmBase) / spmStride = c ∧ c < 256 := by
  rw [mapTarget_eq] at h
  repeat' split at h
  all_goals simp at h <;> simp only [spmBase, spmStride, spmSize] at * <;> omega

/-- An error of a memory is reported by its target's unit, and poisons its granule if it is uncorrectable. -/
theorem eccFound_memory {s : State} {x : EccHit} {k : Nat} (hm : mapTarget s (x.addr / 64 * 64) 64 = some k)
    (hp : x.place = .memory) (hk : k ≤ 3 ∨ 0x100 ≤ k) :
    ∃ cls unit arg, eccFound s x = eccReport s (eccCountUp s k x.addr) x.found cls unit (eccKey k x.addr) [x.addr / 64] arg := by
  rcases hk with hk | hk
  · obtain rfl | rfl | rfl | rfl : k = 0 ∨ k = 1 ∨ k = 2 ∨ k = 3 := by omega
    · have hfound : eccFound s x = ddrEcc s x.addr false x.found x.rank x.bank x.row := by simp only [eccFound, hp, hm]
      exact ⟨_, _, _, by rw [hfound, ddrEcc_eq, eccKey_ddr, eccCountUp_ddr]; rfl⟩
    · have hfound : eccFound s x = fsEcc s ((x.addr - fsBase) / 64 % 48) ((x.addr - fsBase) / 64 / 48) x.found := by
        simp only [eccFound, hp, hm]
      have hfs := frameStore_of_mapTarget hm
      have hg : granOf (fsRowAddr ((x.addr - fsBase) / 64 % 48) ((x.addr - fsBase) / 64 / 48)) = x.addr / 64 := by
        simp only [granOf, fsRowAddr, fsBase] at *
        omega
      exact ⟨_, _, _, by rw [hfound, fsEcc_eq, hg, eccKey_frameStore, eccCountUp_frameStore]⟩
    · have hfound : eccFound s x = traceEcc s x.addr x.found := by simp only [eccFound, hp, hm]
      exact ⟨_, _, _, by rw [hfound, traceEcc_eq]; rfl⟩
    · have hfound : eccFound s x = tableEcc s x.addr x.found := by simp only [eccFound, hp, hm]
      exact ⟨_, _, _, by rw [hfound, tableEcc_eq]; rfl⟩
  · obtain ⟨c, rfl⟩ := Nat.exists_eq_add_of_le hk
    obtain ⟨hlo, hcore, hc⟩ := scratchpad_of_mapTarget hm (by decide)
    have hg : granOf (spmBase + (0x100 + c - 0x100) * spmStride + 64 * ((x.addr - spmBase) % spmStride / 64)) = x.addr / 64 := by
      simp only [granOf, spmBase, spmStride] at *
      omega
    have h0 : ¬ 0x100 + c = 0 := by omega
    have h1 : ¬ 0x100 + c = 1 := by omega
    have h2 : ¬ 0x100 + c = 2 := by omega
    have h3 : ¬ 0x100 + c = 3 := by omega
    have hfound : eccFound s x = spmEcc s (0x100 + c - 0x100) ((x.addr - spmBase) % spmStride / 64) x.found := by
      rw [eccFound, hp]
      dsimp only
      rw [hm]
      split
      · exact absurd (Option.some.inj ‹_›) h0
      · exact absurd (Option.some.inj ‹_›) h1
      · exact absurd (Option.some.inj ‹_›) h2
      · exact absurd (Option.some.inj ‹_›) h3
      · rename_i t ht
        cases Option.some.inj ht
        rw [if_pos hk]
      · cases ‹some _ = none›
    have hkey : eccKey (0x100 + c) x.addr = 131072 + (0x100 + c - 0x100) := by
      rw [eccKey, if_neg h0, if_neg h1, if_neg h2, if_neg h3]
    have hcount : eccCountUp s (0x100 + c) x.addr = bump s 1 (0x100 + c - 0x100) 7 1 := by
      rw [eccCountUp, if_neg h0, if_neg h1, if_pos hk]
    exact ⟨_, _, _, by rw [hfound, spmEcc_eq, hg, hkey, hcount]⟩

/-! ### What any error may change -/

theorem fsEcc_only (s : State) (bank row : Nat) (found : EccFind) : EccOnly s (fsEcc s bank row found) := by
  rw [fsEcc_eq]
  exact eccReport_only found _ _ _ _ _ (EventsOnly.bump s 10 0 3 1).ecc

theorem spmEcc_only (s : State) (core row : Nat) (found : EccFind) : EccOnly s (spmEcc s core row found) := by
  rw [spmEcc_eq]
  exact eccReport_only found _ _ _ _ _ (EventsOnly.bump s 1 core 7 1).ecc

theorem ddrEcc_only (s : State) (addr : Nat) (isCode : Bool) (found : EccFind) (rank bank row : Nat) :
    EccOnly s (ddrEcc s addr isCode found rank bank row) := by
  rw [ddrEcc_eq]
  exact eccReport_only found _ _ _ _ _ (EventsOnly.bump s 7 (ddrChan addr) 4 1).ecc

theorem traceEcc_only (s : State) (addr : Nat) (found : EccFind) : EccOnly s (traceEcc s addr found) := by
  rw [traceEcc_eq]
  exact eccReport_only found _ _ _ _ _ (EccOnly.refl s)

theorem tableEcc_only (s : State) (addr : Nat) (found : EccFind) : EccOnly s (tableEcc s addr found) := by
  rw [tableEcc_eq]
  exact eccReport_only found _ _ _ _ _ (EccOnly.refl s)

theorem lineEcc_absent {s : State} {addr : Nat} (found : EccFind) (h : s.wcache.any (fun l => l.addr == addr / 64 * 64) = false) :
    lineEcc s addr found = s := by
  simp [lineEcc, h]

theorem lineEcc_corrected {s : State} {addr : Nat} (h : s.wcache.any (fun l => l.addr == addr / 64 * 64) = true) :
    lineEcc s addr .corrected = { s with eccCnt := tabSet 196609 (tabGet 0 s.eccCnt 196609 + 1) s.eccCnt } := by
  simp [lineEcc, h]

/-- A line of the weight cache that fails is dropped (R343). -/
theorem lineEcc_uncorr {s : State} {addr : Nat} (h : s.wcache.any (fun l => l.addr == addr / 64 * 64) = true) :
    lineEcc s addr .uncorrectable =
      eccUncorr { s with wcache := s.wcache.filter (fun l => l.addr != addr / 64 * 64), freeCnt := s.freeCnt + 1 } 11 1 []
        (eccArg 0 0 0 (Config.freeNat s.freeCnt addr % 262144) (addr / 64 * 64)) := by
  simp [lineEcc, h]

/-- An error of any memory but the weight cache is reported by one unit, or stands where nothing is mapped. -/
theorem eccFound_report {s : State} {x : EccHit} (h : x.place ≠ .line) :
    eccFound s x = s ∨ ∃ q cls unit key grans arg, EventsOnly s q ∧
      eccFound s x = eccReport s q x.found cls unit key grans arg := by
  unfold eccFound
  split
  · exact absurd ‹_› h
  · split
    · exact .inr ⟨_, _, _, _, _, _, .bump s 7 (ddrChan x.addr) 4 1, ddrEcc_eq _ _ _ _ _ _ _⟩
    · exact .inl rfl
  · exact .inl rfl
  · split
    · exact .inr ⟨_, _, _, _, _, _, .bump s 7 (ddrChan x.addr) 4 1, ddrEcc_eq _ _ _ _ _ _ _⟩
    · exact .inr ⟨_, _, _, _, _, _, .bump s 10 0 3 1, fsEcc_eq _ _ _ _⟩
    · exact .inr ⟨_, _, _, _, _, _, .refl s, traceEcc_eq _ _ _⟩
    · exact .inr ⟨_, _, _, _, _, _, .refl s, tableEcc_eq _ _ _⟩
    · split
      · exact .inr ⟨_, _, _, _, _, _, .bump s 1 _ 7 1, spmEcc_eq _ _ _ _⟩
      · exact .inl rfl
    · exact .inl rfl

theorem eccFound_only {s : State} {x : EccHit} (h : x.place ≠ .line) : EccOnly s (eccFound s x) := by
  rcases eccFound_report (s := s) h with he | ⟨q, cls, unit, key, grans, arg, hq, he⟩ <;> rw [he]
  · exact .refl s
  · exact eccReport_only _ _ _ _ _ _ hq.ecc

theorem EccOnly.dropped {s t : State} (h : EccOnly s t) :
    DoubtOnly { s with marks := t.marks, wcache := t.wcache, eccCnt := t.eccCnt, eccWin := t.eccWin, freeCnt := t.freeCnt } t := by
  unfold EccOnly DoubtOnly at h
  unfold DoubtOnly
  rw [h]

/-- What any error that a read meets may change. -/
theorem eccFound_changes (s : State) (x : EccHit) :
    DoubtOnly { s with marks := (eccFound s x).marks, wcache := (eccFound s x).wcache, eccCnt := (eccFound s x).eccCnt,
                       eccWin := (eccFound s x).eccWin, freeCnt := (eccFound s x).freeCnt } (eccFound s x) := by
  by_cases h : x.place = .line
  · have hl : eccFound s x = lineEcc s x.addr x.found := by simp only [eccFound, h]
    rw [hl]
    cases ha : s.wcache.any (fun l => l.addr == x.addr / 64 * 64) with
    | false => rw [lineEcc_absent _ ha]; rfl
    | true => cases x.found with
      | clean => simp only [lineEcc, ha]; rfl
      | corrected => rw [lineEcc_corrected ha]; rfl
      | uncorrectable =>
        rw [lineEcc_uncorr ha]
        have hu := eccUncorr_only { s with wcache := s.wcache.filter (fun l => l.addr != x.addr / 64 * 64),
                                           freeCnt := s.freeCnt + 1 } 11 1 []
          (eccArg 0 0 0 (Config.freeNat s.freeCnt x.addr % 262144) (x.addr / 64 * 64))
        generalize eccUncorr _ 11 1 [] _ = t at hu ⊢
        unfold EccOnly DoubtOnly at hu
        unfold DoubtOnly
        rw [hu]
  · exact (eccFound_only h).dropped

theorem eccFound_clean {s : State} {x : EccHit} (h : x.found = .clean) : eccFound s x = s := by
  by_cases hl : x.place = .line
  · simp [eccFound, hl, lineEcc, h]
  · rcases eccFound_report (s := s) hl with he | ⟨q, cls, unit, key, grans, arg, hq, he⟩ <;> rw [he]
    rw [h]; rfl

theorem eccReport_corrected {s q : State} {cls unit key : Nat} {grans : List Nat} {arg : List Byte} :
    eccReport s q .corrected cls unit key grans arg = eccCorrected q cls unit key arg := rfl

/-- A corrected error changes no code, drops no line, and opens no doubt. -/
theorem eccFound_corrected {s : State} {x : EccHit} (h : x.found = .corrected) :
    (eccFound s x).marks = s.marks ∧ (eccFound s x).wcache = s.wcache ∧ (eccFound s x).safety = s.safety := by
  by_cases hl : x.place = .line
  · have hf : eccFound s x = lineEcc s x.addr .corrected := by simp only [eccFound, hl, h]
    rw [hf]
    cases ha : s.wcache.any (fun l => l.addr == x.addr / 64 * 64) with
    | false => rw [lineEcc_absent _ ha]; exact ⟨rfl, rfl, rfl⟩
    | true => rw [lineEcc_corrected ha]; exact ⟨rfl, rfl, rfl⟩
  · rcases eccFound_report (s := s) hl with he | ⟨q, cls, unit, key, grans, arg, hq, he⟩ <;> rw [he]
    · exact ⟨rfl, rfl, rfl⟩
    · rw [h, eccReport_corrected]
      have hc := eccCorrected_counts q cls unit key arg
      unfold EventsOnly at hc hq
      rw [hc]
      unfold eccBumped
      rw [hq]
      exact ⟨rfl, rfl, rfl⟩

theorem eccFound_eccBad (s : State) (x : EccHit) : (eccFound s x).eccBad = s.eccBad := by
  have h := eccFound_changes s x
  unfold DoubtOnly at h
  rw [h]

/-! ### The counts of a corrected error -/

theorem eccCountUp_parts (s : State) (k a : Nat) :
    (eccCountUp s k a).ev = s.ev ∧ (eccCountUp s k a).eccCnt = s.eccCnt ∧ (eccCountUp s k a).eccWin = s.eccWin ∧
      (eccCountUp s k a).time = s.time := by
  unfold eccCountUp
  repeat' split
  all_goals exact ⟨rfl, rfl, rfl, rfl⟩

theorem eccCorrected_eccCnt (s : State) (cls unit key : Nat) (arg : List Byte) :
    tabGet 0 (eccCorrected s cls unit key arg).eccCnt key = tabGet 0 s.eccCnt key + 1 := by
  have h := eccCorrected_counts s cls unit key arg
  unfold EventsOnly at h
  rw [h]
  exact tabGet_tabSet_same _ _ _ _

/-- A corrected error leaves every counter but those of flits sent. -/
theorem cntAt_eccCorrected (s : State) (cls unit key : Nat) (arg : List Byte) {k : Nat} (hk : CounterKey k) :
    cntAt (eccCorrected s cls unit key arg) k = cntAt s k := by
  rw [eccCorrected_eq]
  split
  · rfl
  · exact cntAt_postEvent _ _ _ _ _ hk

/-- The report of a corrected error is the first of its window, or there is none. -/
theorem eccCorrected_ev (s : State) (cls unit key : Nat) (arg : List Byte) :
    (tabGet? s.eccWin key = some (windowOf s.time) → (eccCorrected s cls unit key arg).ev = s.ev) ∧
    (tabGet? s.eccWin key ≠ some (windowOf s.time) →
      (eccCorrected s cls unit key arg).ev.eseq = s.ev.eseq + 1 ∨ s.ev.sink ≠ none) := by
  rw [eccCorrected_eq]
  refine ⟨fun h => ?_, fun h => ?_⟩
  · rw [if_pos h]; rfl
  · rw [if_neg h]
    exact postEvent_eseq (eccBumped s key) 0x0105 cls unit arg

/-! ### Errors that stand -/

/-- A read that meets the only error that stands. -/
theorem meet_only {s : State} {x : EccHit} {p : Nat → Bool} (h : s.eccBad = [x]) (hp : p (x.addr / 64) = true) :
    meet p s = { eccFound s x with eccBad := if staysAfter s x = true then [x] else [] } := by
  have hb := eccFound_eccBad s x
  rw [h] at hb
  unfold meet
  rw [h, List.foldl_cons, List.foldl_nil, granOf, if_pos hp]
  unfold eccMeet
  dsimp only
  split
  · rw [← hb]
  · rw [hb]; simp

/-- Settles O24: an error of a memory by `eccFound_memory`, one of a line by `lineEcc`, and what stands by `plant` and
`putBytes`. -/
theorem eccErrorsCountPoisonAndReport : Obligations.EccErrorsCountPoisonAndReport := by
  unfold Obligations.EccErrorsCountPoisonAndReport
  refine ⟨fun s x => ⟨_, rfl, eccFound_changes s x, eccFound_clean, eccFound_corrected⟩, fun s x k hm hp hk => ?_,
    fun s x l hp hl ha => ?_, fun s x p h => ⟨meet_only h, fun hp => ?_⟩, fun s x h hc => ?_, fun s x hf hp => ?_,
    fun s x a bs poison => ?_⟩
  · obtain ⟨cls, unit, arg, he⟩ := eccFound_memory hm hp hk
    obtain ⟨hev, hcnt, hwin, htime⟩ := eccCountUp_parts s k x.addr
    have hkey : ∀ {i u c : Nat}, u < 2048 → i < 8 → c ≠ 5 → eccCountUp s k x.addr = bump s c u i 1 → x.found = .corrected →
        counted s (eccFound s x) c u i 1 := fun hu hi hc hb hf => counted_of (by
      rw [he, hf, eccReport_corrected, cntAt_eccCorrected _ _ _ _ _ (counterKey_of hu hi (.inl hc)), hb]
      exact cntAt_bump_same _ _ _ _ _)
    refine ⟨fun hf => ?_, fun hf => ?_, fun hf hk => ?_, fun hf hk => ?_, fun hf hk => ?_⟩
    · rw [he, hf]
      refine ⟨eccUncorr_open _ _ _ _ _, ?_, fun g hg => ?_⟩ <;>
        simp only [markOf, eccReport, eccUncorr_marks, tabGet_poisonAll]
      · rw [if_pos (by simp)]; rfl
      · rw [if_neg (by simpa using hg)]
    · show tabGet 0 (eccFound s x).eccCnt (eccKey k x.addr) = _ ∧ _
      have hw := eccCorrected_ev (eccCountUp s k x.addr) cls unit (eccKey k x.addr) arg
      rw [hev, hwin, htime] at hw
      rw [he, hf, eccReport_corrected, eccCorrected_eccCnt, hcnt]
      exact ⟨rfl, hw⟩
    · obtain ⟨c, rfl⟩ := Nat.exists_eq_add_of_le hk
      obtain ⟨-, -, hc⟩ := scratchpad_of_mapTarget hm (by decide)
      refine hkey (by omega) (by decide) (by decide) ?_ hf
      rw [eccCountUp, if_neg (by omega), if_neg (by omega), if_pos hk]
    · subst hk
      exact hkey (by decide) (by decide) (by decide) (eccCountUp_frameStore _ _) hf
    · subst hk
      exact hkey (by omega) (by decide) (by decide) (by rw [eccCountUp, if_pos rfl]) hf
  · have hl' : s.wcache.any (fun l => l.addr == x.addr / 64 * 64) = true :=
      List.any_eq_true.2 ⟨l, hl, by simp [ha]⟩
    have he : eccFound s x = lineEcc s x.addr x.found := by simp only [eccFound, hp]
    refine ⟨fun hf => ?_, fun hf => ?_⟩
    · rw [he, hf, lineEcc_corrected hl']
      exact ⟨rfl, tabGet_tabSet_same _ _ _ _⟩
    · rw [he, hf, lineEcc_uncorr hl', eccUncorr_marks, eccUncorr_wcache]
      exact ⟨rfl, eccUncorr_open _ _ _ _ _, fun m => by simp⟩
  · unfold meet
    rw [h, List.foldl_cons, List.foldl_nil, granOf, if_neg (by simp [hp])]
  · simp [plant, standAt, h, hc]
  · simp [staysAfter, hp, hf]
  · have hw : wholeGran a bs.length (granOf x.addr) = true ↔
        a ≤ granOf x.addr * 64 ∧ granOf x.addr * 64 + 64 ≤ a + bs.length := by simp [wholeGran]
    rw [show x.addr / 64 = granOf x.addr from rfl, ← hw, Bool.not_eq_true]
    simp [putBytes]

end Sys2Proof.Machine
end

section
/-! PROOFS. Refresh, temperature polls, ALERT_N and scrubbing (R179, R402, R404, R405) with O23. -/

namespace Sys2Proof.Machine

open Sys2Proof

/-! ### A scrubbed granule -/

/-- An error comes to stand among others that stand elsewhere. -/
def planted (s : State) (x : EccHit) : State :=
  { s with eccBad := x :: s.eccBad, marks := poisonAll s.marks (eccPoisons s x) }

/-- Where nothing stands in its granule an error comes to stand before the others. -/
theorem plant_one {s : State} {x : EccHit} (hx : x.found ≠ .clean) (h : ∀ y ∈ s.eccBad, granOf y.addr ≠ granOf x.addr) :
    plant [x] s = planted s x := by
  have hany : ¬ (x.found = .clean ∨ s.eccBad.any (fun y => (y.place == x.place && granOf y.addr == granOf x.addr) &&
      y.found == .uncorrectable) = true) := by
    rintro (hc | hc)
    · exact hx hc
    · obtain ⟨y, hy, hb⟩ := List.any_eq_true.1 hc
      simp only [Bool.and_eq_true, beq_iff_eq] at hb
      exact h y hy hb.1.2
  have hfilter : s.eccBad.filter (fun y => ! (y.place == x.place && granOf y.addr == granOf x.addr)) = s.eccBad :=
    List.filter_eq_self.2 (fun y hy => by simp [h y hy])
  have hstand : standAt s.eccBad x = x :: s.eccBad := by
    rw [standAt, if_neg hany, hfilter]
  simp only [plant, List.foldl_cons, List.foldl_nil, hstand]
  rfl

/-- A read meets none of the errors that stand elsewhere. -/
theorem meet_elsewhere {g : Nat} (l : List EccHit) (h : ∀ y ∈ l, granOf y.addr ≠ g) (s : State) :
    l.foldl (fun s y => if granOf y.addr == g then eccMeet s y else s) s = s := by
  induction l with
  | nil => rfl
  | cons y l ih =>
    rw [List.foldl_cons, if_neg (by simpa using h y (by simp))]
    exact ih (fun z hz => h z (by simp [hz]))

/-- The read of a granule in which no other error stands meets what came with it alone. -/
theorem eccHits_one {s : State} {x : EccHit} (hx : x.found ≠ .clean)
    (h : ∀ y ∈ s.eccBad, granOf y.addr ≠ granOf x.addr) :
    eccHits (fun g => g == granOf x.addr) [x] s = eccMeet (planted s x) x := by
  unfold eccHits meet
  rw [plant_one hx h]
  show List.foldl _ _ (x :: s.eccBad) = _
  rw [List.foldl_cons, if_pos (by simp)]
  exact meet_elsewhere _ h _

/-- The read of a granule without an error changes nothing. -/
theorem eccHits_clean {s : State} {x : EccHit} (hx : x.found = .clean)
    (h : ∀ y ∈ s.eccBad, granOf y.addr ≠ granOf x.addr) : eccHits (fun g => g == granOf x.addr) [x] s = s := by
  have hp : plant [x] s = s := by simp [plant, standAt, eccPoisons, hx]
  unfold eccHits meet
  rw [hp]
  exact meet_elsewhere _ h _

theorem eccMeet_eq (s : State) (x : EccHit) :
    eccMeet s x = { eccFound s x with eccBad := if staysAfter s x then s.eccBad else s.eccBad.filter (fun y => y != x) } := by
  have hb := eccFound_eccBad s x
  unfold eccMeet
  dsimp only
  split
  · rw [← hb]
  · rw [hb]

theorem eccMeet_eccCnt (s : State) (x : EccHit) : (eccMeet s x).eccCnt = (eccFound s x).eccCnt := by rw [eccMeet_eq]

/-- The scrub of a granule changes marks, errors, the counts of ECC, events and doubt. -/
theorem eccHits_only {s : State} {x : EccHit} (hp : x.place ≠ .line) (h : ∀ y ∈ s.eccBad, granOf y.addr ≠ granOf x.addr) :
    let t := eccHits (fun g => g == granOf x.addr) [x] s
    DoubtOnly { s with marks := t.marks, eccBad := t.eccBad, eccCnt := t.eccCnt, eccWin := t.eccWin } t := by
  intro t
  by_cases hx : x.found = .clean
  · rw [show t = s from eccHits_clean hx h]; rfl
  · rw [show t = eccMeet (planted s x) x from eccHits_one hx h, eccMeet_eq]
    have he := eccFound_only (s := planted s x) hp
    generalize eccFound (planted s x) x = q at he ⊢
    unfold EccOnly DoubtOnly at he
    unfold DoubtOnly
    rw [he]
    rfl

/-- A scrub that finds nothing uncorrectable poisons nothing. -/
theorem eccHits_marks {s : State} {x : EccHit} (hx : x.found ≠ .uncorrectable)
    (h : ∀ y ∈ s.eccBad, granOf y.addr ≠ granOf x.addr) :
    (eccHits (fun g => g == granOf x.addr) [x] s).marks = s.marks := by
  cases hf : x.found with
  | clean => rw [eccHits_clean hf h]
  | corrected =>
    have hn : x.found ≠ .clean := by rw [hf]; decide
    rw [eccHits_one hn h, eccMeet_eq]
    exact (eccFound_corrected hf).1.trans (by simp [planted, eccPoisons, hf, poisonAll])
  | uncorrectable => exact absurd hf hx

/-- The granules that an uncorrectable error poisons where its unit finds it. -/
theorem eccHits_poisons {s : State} {x : EccHit} {cls unit key : Nat} {q : State} {grans : List Nat} {arg : List Byte}
    (hx : x.found = .uncorrectable) (h : ∀ y ∈ s.eccBad, granOf y.addr ≠ granOf x.addr) (hs : eccPoisons s x = grans)
    (he : eccFound (planted s x) x = eccReport (planted s x) q x.found cls unit key grans arg) (g : Nat) :
    markOf (eccHits (fun g => g == granOf x.addr) [x] s) g = if g ∈ grans then BitVec.ofNat 16 0x6C39 else markOf s g := by
  have hn : x.found ≠ .clean := by rw [hx]; decide
  rw [eccHits_one hn h, eccMeet_eq, markOf]
  show tabGet 0 (eccFound (planted s x) x).marks g = _
  rw [he, hx]
  show tabGet 0 (eccUncorr _ _ _ _ _).marks g = _
  rw [eccUncorr_marks, planted, hs]
  dsimp only
  rw [tabGet_poisonAll, tabGet_poisonAll]
  split <;> rfl

/-! ### The rows -/

/-- The error that the scrubber finds in a data granule of DDR5, or in the code granule that holds its code. -/
def ddrHit (a : Nat) (code : Bool) (f : EccFind) (rank bank row : Nat) : EccHit :=
  { addr := a, place := if code then .code else .memory, found := f, rank := rank, bank := bank, row := row }

/-- The granule counted as scrubbed. -/
def ddrScrubbed (s : State) : State := { s with ddr := { s.ddr with scrubbed := s.ddr.scrubbed + 1 } }

theorem doDdrScrubGranule_eq {s : State} {a rank bank row : Nat} {code : Bool} {f : EccFind} (hup : ddrUp s = true)
    (ha : a < s.ddr.usable) :
    doDdrScrubGranule a code f rank bank row s =
      eccHits (fun g => g == granOf a) [ddrHit a code f rank bank row] (ddrScrubbed s) := by
  rw [doDdrScrubGranule, if_neg (by simp [hup, ha])]
  rfl

/-- A data granule that fails is poisoned alone. -/
theorem ddrScrub_data {s : State} {a rank bank row : Nat} (ha : a / 64 * 64 + 64 ≤ s.ddr.usable)
    (hclean : ∀ y ∈ s.eccBad, granOf y.addr ≠ granOf a) (g : Nat) :
    markOf (eccHits (fun g => g == granOf a) [ddrHit a false .uncorrectable rank bank row] (ddrScrubbed s)) g =
      if g ∈ [a / 64] then BitVec.ofNat 16 0x6C39 else markOf s g := by
  have hmap : mapTarget (ddrScrubbed s) (a / 64 * 64) 64 = some 0 := mapTarget_ddr.2 ha
  obtain ⟨cls, unit, arg, he⟩ := eccFound_memory (s := planted (ddrScrubbed s) (ddrHit a false .uncorrectable rank bank row))
    (x := ddrHit a false .uncorrectable rank bank row) hmap rfl (.inl (by decide))
  have hpo : eccPoisons (ddrScrubbed s) (ddrHit a false .uncorrectable rank bank row) = [a / 64] := by
    simp [eccPoisons, ddrHit, hmap, granOf]
  exact eccHits_poisons (s := ddrScrubbed s) (x := ddrHit a false .uncorrectable rank bank row) rfl hclean hpo he g

/-- A code granule that fails poisons the granules whose codes it holds. -/
theorem ddrScrub_code {s : State} {a rank bank row : Nat} (ha : a < s.ddr.usable)
    (hclean : ∀ y ∈ s.eccBad, granOf y.addr ≠ granOf a) (g : Nat) :
    markOf (eccHits (fun g => g == granOf a) [ddrHit a true .uncorrectable rank bank row] (ddrScrubbed s)) g =
      if g ∈ codeGrans a then BitVec.ofNat 16 0x6C39 else markOf s g := by
  have he : eccFound (planted (ddrScrubbed s) (ddrHit a true .uncorrectable rank bank row))
      (ddrHit a true .uncorrectable rank bank row) = ddrEcc (planted (ddrScrubbed s)
        (ddrHit a true .uncorrectable rank bank row)) a true .uncorrectable rank bank row := if_pos ha
  rw [ddrEcc_eq] at he
  have hpo : eccPoisons (ddrScrubbed s) (ddrHit a true .uncorrectable rank bank row) = codeGrans a := by
    simp [eccPoisons, ddrHit, ddrScrubbed, ha]
  exact eccHits_poisons (s := ddrScrubbed s) (x := ddrHit a true .uncorrectable rank bank row) rfl hclean hpo he g

/-- The error that the scrubber finds in a row of the frame store. -/
def fsHit (bank row : Nat) (f : EccFind) : EccHit :=
  { addr := fsRowAddr bank row, place := .memory, found := f, rank := 0, bank := bank, row := row }

theorem doFsScrubRow_eq {s : State} {bank row : Nat} {f : EccFind} (hi : islandRuns s 1 = true) (hb : bank ≤ 47)
    (hr : row ≤ 131071) :
    doFsScrubRow bank row f s = writeBack (eccHits (fun g => g == granOf (fsRowAddr bank row)) [fsHit bank row f]
      (bump s 10 0 4 1)) (granOf (fsRowAddr bank row)) := by
  rw [doFsScrubRow, if_neg (by simp [hi]; omega)]
  rfl

theorem fsRowAddr_eq (bank row : Nat) : fsRowAddr bank row = 0x004000000000 + (row * 48 + bank) * 64 := rfl

/-- A row of the frame store lies in the frame store's range. -/
theorem mapTarget_fsRow {s : State} {bank row : Nat} (hb : bank ≤ 47) (hr : row ≤ 131071) (hu : s.ddr.usable ≤ ddrEnd) :
    mapTarget s (fsRowAddr bank row / 64 * 64) 64 = some 1 := by
  rw [mapTarget_frameStore (by decide) hu, fsRowAddr_eq]
  simp only [fsBase, fsSize]
  omega

/-- A row's bank comes back from its address. -/
theorem eccKey_fsRow {bank row : Nat} (hb : bank ≤ 47) : eccKey 1 (fsRowAddr bank row) = bank := by
  rw [eccKey_frameStore, fsRowAddr]
  omega

/-- What the read of a row finds there, once the row is planted. -/
theorem eccFound_fsRow {s : State} {bank row : Nat} (f : EccFind) (hb : bank ≤ 47) (hr : row ≤ 131071)
    (hu : s.ddr.usable ≤ ddrEnd) :
    ∃ cls unit arg, eccFound (planted s (fsHit bank row f)) (fsHit bank row f) =
      eccReport (planted s (fsHit bank row f)) (bump (planted s (fsHit bank row f)) 10 0 3 1) f cls unit bank
        [fsRowAddr bank row / 64] arg := by
  have hmap := mapTarget_fsRow (s := planted s (fsHit bank row f)) hb hr hu
  obtain ⟨cls, unit, arg, he⟩ := eccFound_memory (x := fsHit bank row f) hmap rfl (.inl (by decide))
  refine ⟨cls, unit, arg, he.trans ?_⟩
  rw [eccCountUp_frameStore, show (fsHit bank row f).addr = fsRowAddr bank row from rfl, eccKey_fsRow hb]
  rfl

/-- The scrub of a row counts it, whatever it finds there. -/
theorem fsScrub_counted {s : State} {bank row : Nat} (f : EccFind) (hb : bank ≤ 47) (hr : row ≤ 131071)
    (hu : s.ddr.usable ≤ ddrEnd) (hclean : ∀ y ∈ s.eccBad, granOf y.addr ≠ granOf (fsRowAddr bank row)) :
    cntAt (eccHits (fun g => g == granOf (fsRowAddr bank row)) [fsHit bank row f] s) (srcKey 10 0 * 8 + 4) =
      cntAt s (srcKey 10 0 * 8 + 4) := by
  by_cases hf : f = .clean
  · exact congrArg (cntAt · _) (eccHits_clean (x := fsHit bank row f) hf hclean)
  · have hk : CounterKey (srcKey 10 0 * 8 + 4) := counterKey_of (by decide) (by decide) (.inl (by decide))
    obtain ⟨cls, unit, arg, he⟩ := eccFound_fsRow f hb hr hu
    refine (congrArg (cntAt · _) ((eccHits_one (x := fsHit bank row f) hf hclean).trans (eccMeet_eq _ _))).trans ?_
    show cntAt (eccFound _ _) _ = _
    rw [he]
    cases f with
    | clean => exact absurd rfl hf
    | corrected =>
      rw [eccReport_corrected, cntAt_eccCorrected _ _ _ _ _ hk, cntAt_bump_other _ _ _ _ _ (by decide)]
      rfl
    | uncorrectable =>
      show cntAt (eccUncorr _ _ _ _ _) _ = _
      rw [eccUncorr_eq, cntAt_raiseDoubt _ _ _ _ _ _ _ _ hk]
      rfl

theorem writeBack_only {s t : State} (g : Nat)
    (h : DoubtOnly { s with marks := t.marks, eccBad := t.eccBad, eccCnt := t.eccCnt, eccWin := t.eccWin } t) :
    DoubtOnly { s with marks := (writeBack t g).marks, eccBad := (writeBack t g).eccBad, eccCnt := (writeBack t g).eccCnt,
                       eccWin := (writeBack t g).eccWin } (writeBack t g) := by
  unfold DoubtOnly at h ⊢
  unfold writeBack
  rw [h]

/-- After a scrub no corrected error stands in the row. -/
theorem writeBack_corrected {t : State} {bank row : Nat} {f : EccFind} {l : List EccHit}
    (ht : ∀ y ∈ t.eccBad, y = fsHit bank row f ∨ y ∈ l) (hl : ∀ y ∈ l, granOf y.addr ≠ granOf (fsRowAddr bank row)) :
    ∀ y ∈ (writeBack t (granOf (fsRowAddr bank row))).eccBad, y.found = .corrected →
      granOf y.addr ≠ granOf (fsRowAddr bank row) := by
  intro y hy hf
  obtain ⟨hy, hb⟩ := List.mem_filter.1 hy
  rcases ht y hy with rfl | hy
  · intro hg
    have hf : f = .corrected := hf
    subst hf
    simp [fsHit] at hb
  · exact hl y hy

/-- The errors that stand after the read of a row are those before, and what it found. -/
theorem eccHits_eccBad {s : State} {x : EccHit} (h : ∀ y ∈ s.eccBad, granOf y.addr ≠ granOf x.addr) :
    ∀ y ∈ (eccHits (fun g => g == granOf x.addr) [x] s).eccBad, y = x ∨ y ∈ s.eccBad := by
  intro y hy
  by_cases hx : x.found = .clean
  · rw [eccHits_clean hx h] at hy
    exact .inr hy
  · rw [eccHits_one hx h, eccMeet_eq] at hy
    dsimp only at hy
    split at hy
    · exact List.mem_cons.1 hy
    · exact List.mem_cons.1 (List.mem_filter.1 hy).1

/-- Settles O23: refresh, poll and alert by their rows, a scrub by the one granule that it reads. -/
theorem memoryUpkeepCountsPoisonsAndReports : Obligations.MemoryUpkeepCountsPoisonsAndReports := by
  unfold Obligations.MemoryUpkeepCountsPoisonsAndReports
  refine ⟨fun s ch hup hch => ⟨_, rfl, ?_⟩, fun s ch rank temp hup hch hr => ⟨_, rfl, ?_⟩, fun s ch hup hch => ⟨_, rfl, ?_⟩,
    fun s a rank bank row code f hup ha hclean => ⟨_, rfl, ?_⟩, fun s bank row f hi hb hr hu hclean => ⟨_, rfl, ?_⟩⟩
  · rw [doDdrRefresh, if_pos (by simp [hup, hch])]
    exact ⟨rfl, cntAt_bump_same _ 7 ch 3 1⟩
  · rw [doDdrMr4Poll, if_pos (by simp [hup, hch, hr])]
    by_cases ht : 95 < temp
    · dsimp only
      rw [if_pos ht]
      exact ⟨postEvent_only _ _ _ _ _, fun h => absurd ht (by omega), fun _ => postEvent_eseq _ _ _ _ _⟩
    · dsimp only
      rw [if_neg ht]
      exact ⟨rfl, fun _ => rfl, fun h => absurd h ht⟩
  · rw [doDdrAlert, if_pos (by simp [hup, hch])]
    exact ⟨raiseDoubt_only _ _ _ _ _ _ _ _, raiseDoubt_open _ _ _ _ _ _ _ _⟩
  · rw [doDdrScrubGranule_eq hup (by omega)]
    have hline : (ddrHit a code f rank bank row).place ≠ .line := by cases code <;> exact fun h => by cases h
    refine ⟨eccHits_only (s := ddrScrubbed s) (x := ddrHit a code f rank bank row) hline hclean,
      fun hf => eccHits_marks (s := ddrScrubbed s) (x := ddrHit a code f rank bank row) hf hclean, ?_, ?_⟩
    · rintro rfl rfl
      exact ⟨by rw [ddrScrub_data ha hclean, if_pos (by simp)],
        fun g hg => by rw [ddrScrub_data ha hclean, if_neg (by simpa using hg)]⟩
    · rintro rfl rfl i hi
      have hmem : ddrAddr (ddrChan a) (ddrOffset a / 2048 * 2048 + 64 * i) / 64 ∈ codeGrans a :=
        List.mem_map.2 ⟨i, List.mem_range.2 hi, rfl⟩
      rw [ddrScrub_code (by omega) hclean, if_pos hmem]
  · rw [doFsScrubRow_eq hi hb hr, ← fsRowAddr_eq] at *
    have honly := eccHits_only (s := bump s 10 0 4 1) (x := fsHit bank row f) (fun h => by cases h) hclean
    have hcount := fsScrub_counted (s := bump s 10 0 4 1) f hb hr hu hclean
    refine ⟨writeBack_only (s := bump s 10 0 4 1) _ honly, counted_of (hcount.trans (cntAt_bump_same _ _ _ _ _)),
      writeBack_corrected (eccHits_eccBad (x := fsHit bank row f) hclean) hclean,
      fun hf => eccHits_marks (s := bump s 10 0 4 1) (x := fsHit bank row f) hf hclean, ?_, ?_⟩
    · rintro rfl
      obtain ⟨cls, unit, arg, he⟩ := eccFound_fsRow (s := bump s 10 0 4 1) .uncorrectable hb hr hu
      have hmap := mapTarget_fsRow (s := bump s 10 0 4 1) hb hr hu
      have hpo : eccPoisons (bump s 10 0 4 1) (fsHit bank row .uncorrectable) = [fsRowAddr bank row / 64] := by
        simp [eccPoisons, fsHit, hmap, granOf]
      refine (eccHits_poisons (s := bump s 10 0 4 1) (x := fsHit bank row .uncorrectable) rfl hclean hpo he _).trans ?_
      rw [if_pos (by simp)]
    · rintro rfl
      obtain ⟨cls, unit, arg, he⟩ := eccFound_fsRow (s := bump s 10 0 4 1) .corrected hb hr hu
      have hone := eccHits_one (s := bump s 10 0 4 1) (x := fsHit bank row .corrected) (fun h => by cases h) hclean
      have hcnt := (congrArg State.eccCnt hone).trans (eccMeet_eccCnt _ _)
      refine (congrArg (tabGet 0 · bank) hcnt).trans ?_
      rw [he, eccReport_corrected, eccCorrected_eccCnt]
      rfl

end Sys2Proof.Machine
end

section
/-! PROOFS. Region flags (R181 to R183) with O25. -/

namespace Sys2Proof.Machine

open Sys2Proof

/-! ### PEND counts -/

theorem pendOf_eq (f : Flag) (j : Nat) : pendOf f j = f.pend.toNat / 2 ^ (4 * j) % 16 :=
  congrArg (· % 16) (Nat.shiftRight_eq_div_pow f.pend.toNat (4 * j))

theorem setPend_pend (f : Flag) (j n : Nat) :
    (setPend f j n).pend.toNat =
      (f.pend.toNat - f.pend.toNat / 2 ^ (4 * j) % 16 * 2 ^ (4 * j) + n * 2 ^ (4 * j)) % 2 ^ 32 := by
  rw [setPend, BitVec.toNat_ofNat, pendOf_eq]

theorem lt_eight {j : Nat} (h : j < 8) :
    j = 0 ∨ j = 1 ∨ j = 2 ∨ j = 3 ∨ j = 4 ∨ j = 5 ∨ j = 6 ∨ j = 7 := by omega

/-- Setting PEND_j sets PEND_j. -/
theorem pendOf_setPend_same (f : Flag) {j n : Nat} (hj : j < 8) (hn : n < 16) : pendOf (setPend f j n) j = n := by
  have hp := f.pend.isLt
  rw [pendOf_eq, setPend_pend]
  obtain rfl | rfl | rfl | rfl | rfl | rfl | rfl | rfl := lt_eight hj <;> omega

/-- Setting PEND_j leaves every other count. -/
theorem pendOf_setPend_other (f : Flag) {i j n : Nat} (hi : i < 8) (hj : j < 8) (hn : n < 16) (h : i ≠ j) :
    pendOf (setPend f j n) i = pendOf f i := by
  have hp := f.pend.isLt
  rw [pendOf_eq, pendOf_eq, setPend_pend]
  obtain rfl | rfl | rfl | rfl | rfl | rfl | rfl | rfl := lt_eight hj <;>
    obtain rfl | rfl | rfl | rfl | rfl | rfl | rfl | rfl := lt_eight hi <;> omega

/-- The counts of some consumers changed, each by its own value. -/
theorem pendOf_foldl (v : Nat → Nat) (hv : ∀ n, v n < 16) {j : Nat} (hj : j < 8) (l : List Nat) (hl : l.Nodup)
    (hlt : ∀ i ∈ l, i < 8) (x : Flag) :
    pendOf (l.foldl (fun x j => setPend x j (v (pendOf x j))) x) j = if j ∈ l then v (pendOf x j) else pendOf x j := by
  induction l generalizing x with
  | nil => simp
  | cons i l ih =>
    obtain ⟨hi, hl⟩ := List.nodup_cons.1 hl
    have hi8 := hlt i (by simp)
    rw [List.foldl_cons, ih hl (fun k hk => hlt k (by simp [hk]))]
    by_cases h : j = i
    · subst h; simp [hi, pendOf_setPend_same _ hi8 (hv _)]
    · simp [h, pendOf_setPend_other _ hj hi8 (hv _) h]

theorem setPend_foldl (v : Flag → Nat → Nat) (l : List Nat) (x : Flag) :
    (l.foldl (fun x j => setPend x j (v x j)) x).frame = x.frame ∧
      (l.foldl (fun x j => setPend x j (v x j)) x).cmask = x.cmask := by
  induction l generalizing x with
  | nil => exact ⟨rfl, rfl⟩
  | cons i l ih => exact ih _

theorem mem_consumersOf {f : Flag} {j : Nat} (hj : j < 8) : j ∈ consumersOf f ↔ f.cmask.getLsbD j = true := by
  simp [consumersOf, hj]

theorem consumersOf_nodup (f : Flag) : (consumersOf f).Nodup := List.nodup_range.filter _

theorem lt_of_mem_consumersOf {f : Flag} {j : Nat} (h : j ∈ consumersOf f) : j < 8 :=
  List.mem_range.1 (List.mem_filter.1 h).1

/-! ### The operations -/

/-- A conflict leaves every flag. -/
theorem flagConflict_flags (s : State) (n op j : Nat) : (flagConflict s n op j).flags = s.flags := by
  unfold flagConflict raiseGraph
  cases flagGraph s n with
  | none => exact (postEvent_only _ _ _ _ _).doubt.flags
  | some g => exact (raiseDoubt_only _ _ _ _ _ _ _ _).flags

theorem flagOf_congr {s t : State} (h : t.flags = s.flags) (k : Nat) : flagOf t k = flagOf s k := by
  rw [flagOf, flagOf, h]

theorem flagOf_setFlag_same (s : State) (n : Nat) (f : Flag) : flagOf (setFlag s n f) n = f := tabGet_tabSet_same _ _ _ _

theorem flagOf_setFlag_other (s : State) {n k : Nat} (f : Flag) (h : k ≠ n) : flagOf (setFlag s n f) k = flagOf s k :=
  tabGet_tabSet_other _ _ _ h

/-- SET of a flag that is set is a conflict. -/
theorem flagOf_flagSet_conflict {s : State} {n : Nat} (f : Nat) (h : flagIsSet (flagOf s n) = true) (k : Nat) :
    flagOf (flagSet s n f) k = flagOf s k := by
  have hs : flagSet s n f = flagConflict (countFlagOp s) n 0 0 := by simp only [flagSet, h, if_true]
  rw [hs]
  exact flagOf_congr (flagConflict_flags _ _ _ _) k

theorem flagSet_clear {s : State} {n : Nat} (f : Nat) (h : flagIsSet (flagOf s n) = false) :
    flagSet s n f = setFlag (countFlagOp s) n
      ((consumersOf (flagOf s n)).foldl (fun x j => setPend x j 1) { flagOf s n with frame := BitVec.ofNat 16 f }) := by
  simp only [flagSet, h, Bool.false_eq_true, if_false]

theorem flagOf_flagRelease_conflict {s : State} {n j : Nat} (h : pendOf (flagOf s n) j = 0) (k : Nat) :
    flagOf (flagRelease s n j) k = flagOf s k := by
  have hs : flagRelease s n j = flagConflict (countFlagOp s) n 1 j := by simp only [flagRelease, h, if_true]
  rw [hs]
  exact flagOf_congr (flagConflict_flags _ _ _ _) k

theorem flagRelease_pending {s : State} {n j : Nat} (h : pendOf (flagOf s n) j ≠ 0) :
    flagRelease s n j = setFlag (countFlagOp s) n (setPend (flagOf s n) j (pendOf (flagOf s n) j - 1)) := by
  simp only [flagRelease, h, if_false]

/-- The flag after REARM. -/
def rearmed (x : Flag) : Flag := (consumersOf x).foldl (fun x j => setPend x j (min 15 (pendOf x j + 1))) x

theorem flagOf_flagRearm (s : State) (n k : Nat) :
    flagOf (flagRearm s n) k = flagOf (setFlag (countFlagOp s) n (rearmed (flagOf s n))) k := by
  unfold flagRearm
  dsimp only
  split
  · exact flagOf_congr (postEvent_only _ _ _ _ _).doubt.flags k
  · rfl

/-- Settles O25: each operation by its two cases, the counts by `pendOf_foldl`. -/
theorem flagOperationsFollowTheirTable : Obligations.FlagOperationsFollowTheirTable := by
  unfold Obligations.FlagOperationsFollowTheirTable
  intro s n f j hj
  have hlt : pendOf (flagOf s n) j < 16 := by rw [pendOf_eq]; exact Nat.mod_lt _ (by decide)
  refine ⟨fun k hk => ⟨?_, ?_, ?_⟩, fun h => flagOf_flagSet_conflict f h n, fun h => ?_, fun h => flagOf_flagRelease_conflict h n,
    fun h => ?_, ?_, ?_⟩
  · cases h : flagIsSet (flagOf s n) with
    | true => exact flagOf_flagSet_conflict f h k
    | false => rw [flagSet_clear f h]; exact flagOf_setFlag_other _ _ hk
  · by_cases h : pendOf (flagOf s n) j = 0
    · exact flagOf_flagRelease_conflict h k
    · rw [flagRelease_pending h]; exact flagOf_setFlag_other _ _ hk
  · rw [flagOf_flagRearm]; exact flagOf_setFlag_other _ _ hk
  · obtain ⟨hfr, hcm⟩ := setPend_foldl (fun _ _ => 1) (consumersOf (flagOf s n)) { flagOf s n with frame := BitVec.ofNat 16 f }
    rw [flagSet_clear f h, flagOf_setFlag_same]
    refine ⟨?_, hfr, hcm⟩
    have hz : (flagOf s n).pend = 0 := by simpa [flagIsSet] using h
    have hp : pendOf { flagOf s n with frame := BitVec.ofNat 16 f } j = 0 := by rw [pendOf_eq]; simp [hz]
    rw [pendOf_foldl (fun _ => 1) (fun _ => by decide) hj _ (consumersOf_nodup _) (fun _ => lt_of_mem_consumersOf), hp]
    simp only [mem_consumersOf hj]
  · rw [flagRelease_pending h, flagOf_setFlag_same]
    exact ⟨pendOf_setPend_same _ hj (by omega), fun i hi hij => pendOf_setPend_other _ hi hj (by omega) hij⟩
  · rw [flagOf_flagRearm, flagOf_setFlag_same, rearmed,
      pendOf_foldl (fun n => min 15 (n + 1)) (fun n => by omega) hj _ (consumersOf_nodup _) (fun _ => lt_of_mem_consumersOf)]
    simp only [mem_consumersOf hj]
  · rw [flagOf_flagRearm, flagOf_setFlag_same]
    exact (setPend_foldl (fun x j => min 15 (pendOf x j + 1)) _ _).1

end Sys2Proof.Machine
end

section
/-! PROOFS. TENSOR_CHECK and TENSOR_LOCATE (R305, R309) with O26. -/

namespace Sys2Proof.Machine

open Sys2Proof

theorem length_flatMap_leBytes (k : Nat) (l : List Nat) : (l.flatMap (leBytes k)).length = k * l.length := by
  induction l with
  | nil => simp
  | cons x l ih => simp [ih, Nat.mul_succ, Nat.add_comm]

/-- An element of an array of fields of `k` bytes. -/
theorem fieldAt_flatMap_leBytes (k : Nat) (l : List Nat) {d : Nat} (hd : d < l.length) :
    fieldAt (l.flatMap (leBytes k)) (k * d) k = nth l d % 2 ^ (8 * k) := by
  induction l generalizing d with
  | nil => cases hd
  | cons x l ih =>
    rw [List.flatMap_cons]
    cases d with
    | zero => rw [Nat.mul_zero, fieldAt_append_left _ (by simp), fieldAt_leBytes]; rfl
    | succ d =>
      have hsub : k * (d + 1) - (leBytes k x).length = k * d := by rw [length_leBytes, Nat.mul_succ, Nat.add_sub_cancel]
      rw [fieldAt_append_right _ _ (by rw [length_leBytes, Nat.mul_succ]; omega), hsub, ih (by simpa using hd)]
      rfl

/-- An array of six fields that a function of the dimension gives. -/
theorem fieldAt_six (k : Nat) (f : Nat → Nat) {d : Nat} (hd : d < 6) :
    fieldAt (((List.range 6).map f).flatMap (leBytes k)) (k * d) k = f d % 2 ^ (8 * k) := by
  rw [fieldAt_flatMap_leBytes k _ (by simpa using hd), nth, List.getD_eq_getElem?_getD, List.getElem?_map,
    List.getElem?_range hd]
  rfl

/-- A descriptor that passes its checks has one to six dimensions. -/
theorem ndim_of_tdCheck {s : State} {t : TDesc} {u : TUse} {dom dev : Nat} (h : tdCheck s t u dom dev = none) :
    0 < t.ndim ∧ t.ndim ≤ 6 := by
  unfold tdCheck at h
  split at h <;> cases h
  exact tdParam_ndim ‹_›

theorem exec_tensorCheck {s : State} {h : CmdHdr} (hacc : Accepted 0x0200 h s) (use r device : Nat) (td : List Byte) :
    exec (.tensorCheck h use r device td) s = .next (answerRow h 0x0200 (cmdTensorCheck h use r device td s)) :=
  congrArg _ (runCommand_accepted hacc _)

theorem exec_tensorLocate {s : State} {h : CmdHdr} (hacc : Accepted 0x0201 h s) (g : List Nat) (td : List Byte) :
    exec (.tensorLocate h g td) s = .next (answerRow h 0x0201 (cmdTensorLocate h g td s)) :=
  congrArg _ (runCommand_accepted hacc _)

/-- The part coordinates that TENSOR_CHECK answers. -/
def checkedParts (t : TDesc) (device : Nat) : List Nat :=
  (List.range 6).map (fun d => if isSharded t then partCoord t device d else 0)

/-- The payload of TENSOR_CHECK. -/
def checkPayload (t : TDesc) (device : Nat) : List Byte :=
  leBytes 8 (footprint t).1.toNat ++ leBytes 8 (footprint t).2.toNat ++ (checkedParts t device).flatMap (leBytes 1) ++
    leBytes 2 0

theorem cmdTensorCheck_ok {s : State} {h : CmdHdr} {use device : Nat} {u : TUse} {td : List Byte} (hd : device ≤ 1023)
    (hu : useOf use = some u) (hc : tdCheck s (tdesc td) u h.domain device = none) :
    cmdTensorCheck h use 0 device td s = okWith s (checkPayload (tdesc td) device) := by
  have hd' : ¬ 1023 < device := by omega
  simp only [cmdTensorCheck, hd', hu, hc, ne_eq, not_true_eq_false, if_false, checkPayload, checkedParts, List.flatMap_map]

theorem cmdTensorCheck_fails {s : State} {h : CmdHdr} {use device off : Nat} {u : TUse} {td : List Byte} {st : Status}
    (hd : device ≤ 1023) (hu : useOf use = some u) (hc : tdCheck s (tdesc td) u h.domain device = some (st, off)) :
    cmdTensorCheck h use 0 device td s = refuseAt s st (4 + off) := by
  have hd' : ¬ 1023 < device := by omega
  simp only [cmdTensorCheck, hd', hu, hc, ne_eq, not_true_eq_false, if_false]

/-- The device that holds a global index (R309). -/
def locatedDevice (s : State) (t : TDesc) (g : List Nat) : Nat :=
  (List.range t.ndim).foldl (fun a d => a + partOfIndex t s.inst.id d (nth g d) * partsBelow t d) t.devBase

/-- The index there, dimension by dimension. -/
def locatedIndex (t : TDesc) (g : List Nat) : List Nat :=
  (List.range 6).map (fun d => if d < t.ndim then localIndex t d (nth g d) else 0)

theorem cmdTensorLocate_ok {s : State} {h : CmdHdr} {g : List Nat} {td : List Byte}
    (hc : tdCheck s (tdesc td) .read h.domain s.inst.id = none) (hs : isSharded (tdesc td) = true)
    (hg : ∀ d < 6, if d < (tdesc td).ndim then nth g d < nth (tdesc td).gsize d else nth g d = 0) :
    ∃ a : Nat, cmdTensorLocate h g td s = okWith s (leBytes 2 (locatedDevice s (tdesc td) g) ++ leBytes 2 0 ++
      (locatedIndex (tdesc td) g).flatMap (leBytes 4) ++ leBytes 8 a) := by
  have hfind : (List.range 6).find? (fun d => if d < (tdesc td).ndim then decide (nth (tdesc td).gsize d ≤ nth g d)
      else nth g d != 0) = none := List.find?_eq_none.2 (fun d hd => by
    have := hg d (List.mem_range.1 hd)
    split at this
    · simp [*]
    · simp [*])
  rw [cmdTensorLocate, hc]
  simp only [hs, hfind, Bool.not_true, Bool.false_eq_true, if_false]
  exact ⟨_, rfl⟩

/-- Settles O26: the payloads field by field. -/
theorem tensorCommandsCheckAndLocate : Obligations.TensorCommandsCheckAndLocate := by
  unfold Obligations.TensorCommandsCheckAndLocate
  refine ⟨fun s h use device u td hacc hd hu => ⟨fun hc => ⟨checkPayload (tdesc td) device, ?_⟩, fun st off hc => ?_⟩,
    fun s h g td hacc hc hs hg => ?_⟩
  · have hlen : ((checkedParts (tdesc td) device).flatMap (leBytes 1)).length = 6 := by
      rw [length_flatMap_leBytes, checkedParts, List.length_map, List.length_range]
    rw [answersOk, exec_tensorCheck hacc, cmdTensorCheck_ok hd hu hc, checkPayload]
    refine ⟨rfl, by simp only [List.length_append, length_leBytes, hlen], ?_, ?_, fun d hd => ?_⟩
    · rw [fieldAt_append_left _ (by simp), fieldAt_append_left _ (by simp), fieldAt_append_left _ (by simp), fieldAt_leBytes]
    · rw [fieldAt_append_left _ (by simp only [List.length_append, length_leBytes]; omega),
        fieldAt_append_left _ (by simp), fieldAt_append_right _ _ (by simp),
        length_leBytes, fieldAt_leBytes]
    · rw [fieldAt_append_left _ (by simp only [List.length_append, length_leBytes, hlen]; omega), fieldAt_append_right _ _ (by simp), List.length_append,
        length_leBytes, length_leBytes, Nat.add_sub_cancel_left]
      have h6 := fieldAt_six 1 (fun d => if isSharded (tdesc td) then partCoord (tdesc td) device d else 0) hd
      rw [Nat.one_mul] at h6
      rw [checkedParts, h6]
      split <;> rfl
  · rw [exec_tensorCheck hacc, cmdTensorCheck_fails hd hu hc]
    rfl
  · obtain ⟨a, ha⟩ := cmdTensorLocate_ok hc hs hg
    obtain ⟨-, hn⟩ := ndim_of_tdCheck hc
    have hlen : ((locatedIndex (tdesc td) g).flatMap (leBytes 4)).length = 24 := by
      rw [length_flatMap_leBytes, locatedIndex, List.length_map, List.length_range]
    refine ⟨_, by rw [answersOk, exec_tensorLocate hacc, ha]; rfl, by simp only [List.length_append, length_leBytes, hlen], ?_, fun d hd => ?_⟩
    · rw [fieldAt_append_left _ (by simp), fieldAt_append_left _ (by simp), fieldAt_append_left _ (by simp), fieldAt_leBytes]
      rfl
    · rw [fieldAt_append_left _ (by simp only [List.length_append, length_leBytes, hlen]; omega), fieldAt_append_right _ _ (by simp), List.length_append,
        length_leBytes, length_leBytes, Nat.add_sub_cancel_left, locatedIndex, fieldAt_six 4 _ (by omega), if_pos hd]

end Sys2Proof.Machine
end

section
/-! PROOFS. The egress ports (R413 to R421, R432, R433) with O37 and O38. -/

namespace Sys2Proof.Machine

open Sys2Proof

/-! ### Commands -/

theorem cmdEgressStart_ok {s s' : State} {h : CmdHdr} {c : Nat} {e : List Byte}
    (hf : fetchEntry s h.domain c 3 0 = (s', .inr e)) (hb : egressBody s e = none)
    (hrun : (eportOf s (fieldAt e 2 2)).running = false) (hi : islandRuns s 54 = true)
    (hnd : ((streamEntries e).map (fun b => (streamFrom b).flow)).Nodup)
    (hx : ∀ b ∈ streamEntries e, (streamOf s (streamFrom b).flow) = none ∧ flowActive s (streamFrom b).flow = false ∧
      ∀ g, flowGraph s (streamFrom b).flow = some g → g.dom = h.domain) :
    cmdEgressStart h c 0 s = okDone (setEport s' (fieldAt e 2 2) { eportReset with
      running := true, chan := c, dom := h.domain, wmHi := fieldAt e 8 2, wmLo := fieldAt e 10 2,
      streams := (streamEntries e).map streamFrom, out := List.replicate 32 0, wm := .lo, urun := .lo, driven := true }) := by
  have hdom : ((streamEntries e).map streamFrom).any (fun x => (flowGraph s x.flow).elim false (fun g => g.dom != h.domain)) =
      false := by
    simp only [List.any_map, List.any_eq_false, Function.comp_apply]
    intro b hb
    obtain ⟨-, -, hg⟩ := hx b hb
    cases hfg : flowGraph s (streamFrom b).flow with
    | none => simp
    | some g => simp [hg g hfg]
  have hstream : ((streamEntries e).map streamFrom).any (fun x => (streamOf s x.flow).isSome) = false := by
    simp only [List.any_map, List.any_eq_false, Function.comp_apply]
    intro b hb
    simp [(hx b hb).1]
  have hactive : ((streamEntries e).map streamFrom).any (fun x => flowActive s x.flow) = false := by
    simp only [List.any_map, List.any_eq_false, Function.comp_apply]
    intro b hb
    simp [(hx b hb).2.1]
  have hids : (((streamEntries e).map streamFrom).map (fun x => x.flow)).Nodup := by rwa [List.map_map]
  simp only [cmdEgressStart, hf, hb, hdom, hstream, hactive, hrun, hi, hids, ne_eq, not_true_eq_false, if_false,
    Bool.false_eq_true, Bool.or_self, decide_true, Bool.not_true]

/-- Settles O37: each command past its checks. -/
theorem egressCommandsStartStopAndClear : Obligations.EgressCommandsStartStopAndClear := by
  unfold Obligations.EgressCommandsStartStopAndClear
  refine ⟨fun s s' h c e hacc hf hb hrun hi hnd hx => ?_, fun s h p hacc hp hrun hx => ?_, fun s h p hacc hp hrun => ?_⟩
  · have hexec : exec (.egressStart h c 0) s = .next (answerRow h 0x010C (cmdEgressStart h c 0 s)) :=
      congrArg _ (runCommand_accepted hacc _)
    refine ⟨_, by rw [answersOk, hexec, cmdEgressStart_ok hf hb hrun hi hnd hx]; rfl, rfl, rfl, rfl, rfl, rfl, rfl, rfl, rfl,
      rfl, rfl, rfl⟩
  · have hexec : exec (.egressStop h p 0) s = .next (answerRow h 0x010D (cmdEgressStop p 0 s)) :=
      congrArg _ (runCommand_accepted hacc _)
    have hany : (eportOf s p).streams.any (fun x => flowActive s x.flow) = false := by
      rw [List.any_eq_false]
      intro x hm
      simp [hx x hm]
    have hp' : ¬ 7 < p := by omega
    rw [answersOk, hexec, cmdEgressStop]
    simp [hrun, hp', hany, okWith]
  · have hexec : exec (.egressUrunClear h p 0) s = .next (answerRow h 0x010E (cmdEgressUrunClear p 0 s)) :=
      congrArg _ (runCommand_accepted hacc _)
    have hp' : ¬ 7 < p := by omega
    rw [answersOk, hexec, cmdEgressUrunClear]
    simp [hrun, hp', okWith]

/-! ### Ports -/

theorem eportOf_setEport_same (s : State) (p : Nat) (q : EPort) : eportOf (setEport s p q) p = q := tabGet_tabSet_same _ _ _ _

theorem eportOf_setEport_other (s : State) {p k : Nat} (q : EPort) (h : k ≠ p) : eportOf (setEport s p q) k = eportOf s k :=
  tabGet_tabSet_other _ _ _ h

/-- The watermark moves its pin alone. -/
theorem watermark_eq (q : EPort) : watermark q = { q with wm := (watermark q).wm } := by
  unfold watermark
  repeat' split
  all_goals rfl

/-- Setting POISON in flags without it. -/
theorem add_poison {n : Nat} (h : n / 2048 % 2 = 0) : n + fPoison = n ||| 2 ^ 11 := by
  have hb : n % 2 ^ 12 < 2 ^ 11 := by omega
  calc n + fPoison = 2 ^ 12 * (n / 2 ^ 12) + (n % 2 ^ 12 + 2 ^ 11) := by simp only [fPoison]; omega
    _ = 2 ^ 12 * (n / 2 ^ 12) ||| (n % 2 ^ 12 ||| 2 ^ 11) := by
      rw [Nat.two_pow_add_eq_or_of_lt (by omega), Nat.or_two_pow_eq_add_of_lt hb]
    _ = (2 ^ 12 * (n / 2 ^ 12) ||| n % 2 ^ 12) ||| 2 ^ 11 := (Nat.or_assoc _ _ _).symm
    _ = n ||| 2 ^ 11 := by rw [← Nat.two_pow_add_eq_or_of_lt (by omega), Nat.div_add_mod]

/-- Setting POISON in flags that have it. -/
theorem or_poison {n : Nat} (h : n / 2048 % 2 = 1) : n ||| 2 ^ 11 = n := by
  refine Nat.eq_of_testBit_eq (fun i => ?_)
  rw [Nat.testBit_or, Nat.testBit_two_pow]
  by_cases hi : 11 = i
  · subst hi
    have hb : n.testBit 11 = true := by rw [Nat.testBit_eq_decide_div_mod_eq, decide_eq_true_iff]; exact h
    simp [hb]
  · simp [hi]

/-- A record whose granule fails carries POISON, any other is as it was (R411). -/
theorem readRecord_eq (r : ResRec) (f : EccFind) :
    readRecord r f = if f = .uncorrectable then { r with flags := r.flags ||| 2 ^ 11 } else r := by
  unfold readRecord
  by_cases hf : f = .uncorrectable
  · rcases Nat.mod_two_eq_zero_or_one (r.flags / 2048) with h | h
    · have hflag : hasFlag r.flags fPoison = false := by simp [hasFlag, fPoison, h]
      rw [if_pos ⟨hf, by rw [hflag]; rfl⟩, if_pos hf, add_poison h]
    · have hflag : hasFlag r.flags fPoison = true := by simp [hasFlag, fPoison, h]
      rw [if_neg (by rw [hflag]; simp), if_pos hf, or_poison h]
  · rw [if_neg (fun h => hf h.1), if_neg hf]

/-! ### Acceptance -/

/-- A record goes from the queue to the fill bank. -/
theorem eportOf_putRecord (s : State) (p : Nat) (r : ResRec) :
    (eportOf (putRecord s p r) p).queue = (eportOf s p).queue.tail ∧
      (eportOf (putRecord s p r) p).fill = (eportOf s p).fill ++ [r] := by
  unfold putRecord
  dsimp only
  rw [eportOf_setEport_same, watermark_eq]
  exact ⟨rfl, rfl⟩

/-- What the acceptance of a record may change before its pulse. -/
def AcceptOnly (p : Nat) (s t : State) : Prop :=
  EventsOnly { s with eports := t.eports } t ∧ (eportOf t p).queue = (eportOf s p).queue ∧
    (eportOf t p).fill = (eportOf s p).fill ∧ ∀ q, q ≠ p → eportOf t q = eportOf s q

theorem AcceptOnly.refl (p : Nat) (s : State) : AcceptOnly p s s := ⟨rfl, rfl, rfl, fun _ _ => rfl⟩

theorem AcceptOnly.trans {p : Nat} {s t u : State} (h : AcceptOnly p s t) (k : AcceptOnly p t u) : AcceptOnly p s u := by
  obtain ⟨h1, h2, h3, h4⟩ := h
  obtain ⟨k1, k2, k3, k4⟩ := k
  refine ⟨?_, k2.trans h2, k3.trans h3, fun q hq => (k4 q hq).trans (h4 q hq)⟩
  unfold EventsOnly at h1 k1 ⊢
  rw [h1] at k1
  exact k1

theorem EventsOnly.accept {s t : State} (p : Nat) (h : EventsOnly s t) : AcceptOnly p s t := by
  have he : t.eports = s.eports := h.doubt.eports
  have hq : ∀ q, eportOf t q = eportOf s q := fun q => by rw [eportOf, eportOf, he]
  refine ⟨?_, by rw [hq], by rw [hq], fun q _ => hq q⟩
  rw [he]
  exact h

/-- AGE_LATE changes the stream's window and reports. -/
theorem lateEvent_accept (s : State) (p k : Nat) (x : EStream) (r : ResRec) : AcceptOnly p s (lateEvent s p k x r) := by
  unfold lateEvent
  dsimp only
  split
  · exact .refl p s
  · refine AcceptOnly.trans ?_ ((postEvent_only _ _ _ _ _).accept p)
    refine ⟨rfl, ?_, ?_, fun q hq => eportOf_setEport_other _ _ hq⟩ <;> rw [eportOf_setEport_same] <;> rfl

/-- DOUBT_N's pulse begins with a record of VERDICT 1 or 2. -/
theorem substitutionPulse_eq (s : State) (v : Nat) :
    substitutionPulse s v = { s with safety := { s.safety with
      pulseEnd := (if v = 0 then s.safety.pulseEnd else some (s.time + polPulse s.safety.policy)),
      doubtLow := (substitutionPulse s v).safety.doubtLow } } := by
  unfold substitutionPulse
  repeat' split
  all_goals rfl

/-- The state in which the verdict of a record is found: after what its age reports. -/
def aged (s : State) (p k : Nat) (x : EStream) (r : ResRec) : State :=
  let s' := if hasFlag (ageTest s.time x r).flags fLate then lateEvent (bump s 6 p 3 1) p k x (ageTest s.time x r) else s
  if hasFlag (ageTest s.time x r).flags fStraddle then bump s' 6 p 4 1 else s'

/-- The verdict counted where it is the fallback's. -/
def verdictCounted (s : State) (p : Nat) (r : ResRec) : State := if r.verdict = 1 then bump s 6 p 5 1 else s

theorem acceptResult_eq (s : State) (p k : Nat) (x : EStream) (r : ResRec) :
    acceptResult s p k x r =
      substitutionPulse (putRecord (verdictCounted (aged s p k x r) p (substitute (aged s p k x r) x (ageTest s.time x r))) p
        (substitute (aged s p k x r) x (ageTest s.time x r))) (substitute (aged s p k x r) x (ageTest s.time x r)).verdict := rfl

theorem aged_accept (s : State) (p k : Nat) (x : EStream) (r : ResRec) : AcceptOnly p s (aged s p k x r) := by
  unfold aged
  dsimp only
  split
  · refine AcceptOnly.trans ?_ ((EventsOnly.bump _ 6 p 4 1).accept p)
    split
    · exact ((EventsOnly.bump s 6 p 3 1).accept p).trans (lateEvent_accept _ _ _ _ _)
    · exact .refl p s
  · split
    · exact ((EventsOnly.bump s 6 p 3 1).accept p).trans (lateEvent_accept _ _ _ _ _)
    · exact .refl p s

theorem verdictCounted_accept (s : State) (p : Nat) (r : ResRec) : AcceptOnly p s (verdictCounted s p r) := by
  unfold verdictCounted
  split
  · exact (EventsOnly.bump s 6 p 5 1).accept p
  · exact .refl p s

/-- A record's verdict depends on the safety monitor, the flows and the nodes alone. -/
theorem substitute_congr {s t : State} (hs : t.safety = s.safety) (hp : t.pool = s.pool) (hn : t.nodes = s.nodes) (x : EStream)
    (r : ResRec) : substitute t x r = substitute s x r := by
  have hd : ∀ p, doubtOver t x r p = doubtOver s x r p := fun p => by
    simp only [doubtOver, inScope, placesCore, hs, hp, hn]
  simp only [substitute, hs, hd]

/-- A result at the front of the queue is accepted with its age and verdict. -/
theorem recordAccept_result {s : State} {p k : Nat} {r : ResRec} {rest : List (Nat × ResRec)} {x : EStream}
    (hrun : (eportOf s p).running = true) (hi : islandRuns s 54 = true) (hroom : (eportOf s p).fill.length < 256)
    (hq : (eportOf s p).queue = (k, r) :: rest) (hk : r.kind ≠ 1) (hx : (eportOf s p).streams[k]? = some x) :
    exec (.recordAccept p) s = .next (acceptResult s p k x r) := by
  have hroom' : ¬ 256 ≤ (eportOf s p).fill.length := by omega
  show Host.Outcome.next (doRecordAccept p s) = _
  simp only [doRecordAccept, portLive, hrun, hi, hroom', hq, hk, hx, Bool.and_self, Bool.not_true, decide_false, Bool.or_self,
    Bool.false_eq_true, if_false]

theorem recordAccept_aborted {s : State} {p k : Nat} {r : ResRec} {rest : List (Nat × ResRec)}
    (hrun : (eportOf s p).running = true) (hi : islandRuns s 54 = true) (hroom : (eportOf s p).fill.length < 256)
    (hq : (eportOf s p).queue = (k, r) :: rest) (hk : r.kind = 1) :
    exec (.recordAccept p) s = .next (acceptAborted s p r) := by
  have hroom' : ¬ 256 ≤ (eportOf s p).fill.length := by omega
  show Host.Outcome.next (doRecordAccept p s) = _
  simp only [doRecordAccept, portLive, hrun, hi, hroom', hq, hk, Bool.and_self, Bool.not_true, decide_false, Bool.or_self,
    Bool.false_eq_true, if_false, if_true]

/-- What the acceptance of a result leaves. -/
theorem acceptResult_leaves {s : State} {p k : Nat} {r : ResRec} {rest : List (Nat × ResRec)} (x : EStream)
    (hq : (eportOf s p).queue = (k, r) :: rest) :
    let t := acceptResult s p k x r
    let y := substitute s x (ageTest s.time x r)
    (eportOf t p).queue = rest ∧ (eportOf t p).fill = (eportOf s p).fill ++ [y] ∧ (∀ q, q ≠ p → eportOf t q = eportOf s q) ∧
      t.safety.pulseEnd = (if y.verdict = 0 then s.safety.pulseEnd else some (s.time + polPulse s.safety.policy)) ∧
      t = { s with eports := t.eports, ev := t.ev, trace := t.trace, lports := t.lports,
                   inst := { s.inst with arrived := t.inst.arrived, discarded := t.inst.discarded },
                   safety := { s.safety with pulseEnd := t.safety.pulseEnd, doubtLow := t.safety.doubtLow } } := by
  intro t y
  have ha := aged_accept s p k x r
  have hy : substitute (aged s p k x r) x (ageTest s.time x r) = y :=
    substitute_congr ha.1.safety ha.1.doubt.pool ha.1.doubt.nodes x _
  have ht : t = substitutionPulse (putRecord (verdictCounted (aged s p k x r) p y) p y) y.verdict := by
    rw [← hy]; exact acceptResult_eq s p k x r
  obtain ⟨hev, hqueue, hfill, hother⟩ := ha.trans (verdictCounted_accept (aged s p k x r) p y)
  generalize verdictCounted (aged s p k x r) p y = q at hev hqueue hfill hother ht
  obtain ⟨hput1, hput2⟩ := eportOf_putRecord q p y
  have hputo : ∀ n, n ≠ p → eportOf (putRecord q p y) n = eportOf q n := fun n hn => eportOf_setEport_other _ _ hn
  have hput : putRecord q p y = { q with eports := (putRecord q p y).eports } := rfl
  have hps : (putRecord q p y).safety = s.safety := hev.safety
  have hpt : (putRecord q p y).time = s.time := hev.doubt.time
  generalize putRecord q p y = u at hput hput1 hput2 hputo ht hps hpt
  have hpulse := substitutionPulse_eq u y.verdict
  rw [← ht, hps, hpt] at hpulse
  have hports : t.eports = u.eports := by rw [hpulse]
  have hport : ∀ n, eportOf t n = eportOf u n := fun n => by rw [eportOf, eportOf, hports]
  refine ⟨?_, ?_, fun n hn => ?_, ?_, ?_⟩
  · rw [hport, hput1, hqueue, hq]; rfl
  · rw [hport, hput2, hfill]
  · rw [hport, hputo n hn, hother n hn]
  · rw [hpulse]
  · rw [hports]
    unfold EventsOnly at hev
    rw [hpulse, hput]
    dsimp only
    rw [hev]

/-- What the acceptance of a frame-aborted record leaves. -/
theorem acceptAborted_leaves {s : State} {p k : Nat} {r : ResRec} {rest : List (Nat × ResRec)}
    (hq : (eportOf s p).queue = (k, r) :: rest) :
    let t := acceptAborted s p r
    (eportOf t p).queue = rest ∧ (eportOf t p).fill = (eportOf s p).fill ++ [{ r with doubt := r.doubt || s.safety.smFault }] ∧
      counterOf t 6 p 6 = min (counterOf s 6 p 6 + 1) (2 ^ 48 - 1) ∧ t.mem = s.mem := by
  intro t
  have hr : (if s.safety.smFault then { r with doubt := true } else r) = { r with doubt := r.doubt || s.safety.smFault } := by
    cases s.safety.smFault <;> simp
  have ht : t = substitutionPulse (putRecord (bump s 6 p 6 1) p { r with doubt := r.doubt || s.safety.smFault }) 2 := by
    rw [← hr]; rfl
  obtain ⟨hput1, hput2⟩ := eportOf_putRecord (bump s 6 p 6 1) p { r with doubt := r.doubt || s.safety.smFault }
  rw [ht, substitutionPulse_eq]
  exact ⟨hput1.trans (by rw [show (eportOf (bump s 6 p 6 1) p).queue = (eportOf s p).queue from rfl, hq]; rfl), hput2,
    cntAt_bump_same s 6 p 6 1, rfl⟩

/-! ### Slots -/

/-- The record that a slot sends first: of the read bank, or of the fill bank that it swaps in. -/
theorem swapBanks_eq (q : EPort) : swapBanks q =
    { q with readB := if q.readB = [] then q.fill else q.readB, fill := if q.readB = [] then [] else q.fill } := by
  unfold swapBanks
  repeat' split
  all_goals rfl

/-- The port after a slot that sends a record. -/
def portSends (q : EPort) (r : ResRec) (rest : List ResRec) : EPort :=
  watermark { swapBanks q with readB := rest, last := some r, out := recBytes r }

theorem portSends_eq (q : EPort) (r : ResRec) (rest : List ResRec) :
    (portSends q r rest).last = some r ∧ (portSends q r rest).out = recBytes r ∧ (portSends q r rest).readB = rest ∧
      (portSends q r rest).fill = (if q.readB = [] then [] else q.fill) ∧ (portSends q r rest).urun = q.urun := by
  unfold portSends
  rw [watermark_eq, swapBanks_eq]
  exact ⟨rfl, rfl, rfl, rfl, rfl⟩

/-- The port after a slot that finds no record. -/
def portRepeats (q : EPort) : EPort :=
  { swapBanks q with out := recBytes (underrunRec (swapBanks q)), underruns := (swapBanks q).underruns + 1, urun := .hi }

theorem portRepeats_eq (q : EPort) :
    (portRepeats q).urun = .hi ∧ (portRepeats q).underruns = q.underruns + 1 ∧ (portRepeats q).last = q.last ∧
      (∀ r, q.last = some r → (portRepeats q).out = recBytes { r with underrun := true }) ∧
      (q.last = none → (portRepeats q).out = recBytes { recZero with kind := 2, underrun := true }) := by
  unfold portRepeats
  rw [swapBanks_eq]
  refine ⟨rfl, rfl, rfl, fun r h => ?_, fun h => ?_⟩ <;> simp only [underrunRec, h]

theorem exec_egressSlot_record {s : State} {p : Nat} {f : EccFind} {r : ResRec} {rest : List ResRec}
    (hrun : (eportOf s p).running = true) (hi : islandRuns s 54 = true)
    (hb : (swapBanks (eportOf s p)).readB = r :: rest) :
    exec (.egressSlot p f) s = .next (bump (setEport (fifoEcc s p f) p (portSends (eportOf s p) (readRecord r f) rest))
      6 p 0 1) := by
  show Host.Outcome.next (doEgressSlot p f s) = _
  simp only [doEgressSlot, portLive, hrun, hi, hb, Bool.and_self, Bool.not_true, Bool.false_eq_true, if_false, portSends]

theorem exec_egressSlot_empty {s : State} {p : Nat} {f : EccFind}
    (hrun : (eportOf s p).running = true) (hi : islandRuns s 54 = true) (hb : (swapBanks (eportOf s p)).readB = []) :
    exec (.egressSlot p f) s = .next (bump (setEport s p (portRepeats (eportOf s p))) 6 p 1 1) := by
  show Host.Outcome.next (doEgressSlot p f s) = _
  simp only [doEgressSlot, portLive, hrun, hi, hb, Bool.and_self, Bool.not_true, Bool.false_eq_true, if_false, portRepeats]

theorem fifoEcc_clean (s : State) (p : Nat) : fifoEcc s p .clean = s := rfl

/-- What the FIFO's ECC may change. -/
theorem fifoEcc_only (s : State) (p : Nat) (f : EccFind) :
    DoubtOnly { s with eccCnt := (fifoEcc s p f).eccCnt, eccWin := (fifoEcc s p f).eccWin,
                       freeCnt := (fifoEcc s p f).freeCnt } (fifoEcc s p f) := by
  cases f with
  | clean => rfl
  | corrected =>
    have h := (eccCorrected_counts { s with freeCnt := s.freeCnt + 1 } 6 p (196616 + p)
      (eccArg 0 0 0 (Config.freeNat s.freeCnt p % 2 ^ 32) (Config.freeNat s.freeCnt (p + 8) % 2 ^ 64))).doubt
    unfold fifoEcc
    dsimp only
    generalize eccCorrected _ 6 p (196616 + p) _ = t at h ⊢
    unfold DoubtOnly at h ⊢
    rw [h]
    rfl
  | uncorrectable =>
    have h := eccUncorr_only { s with freeCnt := s.freeCnt + 1 } 6 p []
      (eccArg 0 0 0 (Config.freeNat s.freeCnt p % 2 ^ 32) (Config.freeNat s.freeCnt (p + 8) % 2 ^ 64))
    have hm := eccUncorr_marks { s with freeCnt := s.freeCnt + 1 } 6 p []
      (eccArg 0 0 0 (Config.freeNat s.freeCnt p % 2 ^ 32) (Config.freeNat s.freeCnt (p + 8) % 2 ^ 64))
    unfold fifoEcc
    dsimp only
    generalize eccUncorr _ 6 p [] _ = t at h hm ⊢
    unfold EccOnly DoubtOnly at h
    have hm' : t.marks = s.marks := hm
    rw [hm'] at h
    unfold DoubtOnly
    rw [h]

theorem cntAt_fifoEcc (s : State) (p : Nat) (f : EccFind) {k : Nat} (hk : CounterKey k) : cntAt (fifoEcc s p f) k = cntAt s k := by
  cases f with
  | clean => rfl
  | corrected =>
    unfold fifoEcc
    dsimp only
    rw [cntAt_eccCorrected _ _ _ _ _ hk]
    rfl
  | uncorrectable =>
    unfold fifoEcc
    dsimp only
    rw [eccUncorr_eq, cntAt_raiseDoubt _ _ _ _ _ _ _ _ hk]
    rfl

/-- A granule of the FIFO that fails opens the doubt of the device. -/
theorem fifoEcc_open (s : State) (p : Nat) : doubtOpen (fifoEcc s p .uncorrectable) rowDevice kindDevice 0 := by
  unfold fifoEcc
  dsimp only
  exact eccUncorr_open _ _ _ _ _

/-- A counter of an egress port counts no flits. -/
theorem counterKey_egress (p i : Nat) (hi : i < 8) : CounterKey (srcKey 6 p * 8 + i) := by
  intro q hq
  unfold srcKey
  omega

theorem fifoEcc_eports (s : State) (p : Nat) (f : EccFind) : (fifoEcc s p f).eports = s.eports := (fifoEcc_only s p f).eports

/-- What a slot that sends a record leaves. -/
theorem slot_sends (s : State) (p : Nat) (f : EccFind) (q : EPort) :
    let t := bump (setEport (fifoEcc s p f) p q) 6 p 0 1
    eportOf t p = q ∧ (∀ k, k ≠ p → eportOf t k = eportOf s k) ∧
      counterOf t 6 p 0 = min (counterOf s 6 p 0 + 1) (2 ^ 48 - 1) ∧
      t.safety = (fifoEcc s p f).safety ∧ (f = .clean → t = { s with eports := t.eports, trace := t.trace }) ∧
      DoubtOnly { s with eports := t.eports, eccCnt := t.eccCnt, eccWin := t.eccWin, freeCnt := t.freeCnt } t := by
  intro t
  refine ⟨eportOf_setEport_same _ _ _, fun k hk => (eportOf_setEport_other _ _ hk).trans (by
    rw [eportOf, eportOf, fifoEcc_eports]), ?_, rfl, fun hf => ?_, ?_⟩
  · exact (cntAt_bump_same _ 6 p 0 1).trans
      (congrArg (fun n => satTo 48 (n + 1)) (cntAt_fifoEcc s p f (counterKey_egress p 0 (by decide))))
  · unfold t
    rw [hf, fifoEcc_clean]
    rfl
  · have h := fifoEcc_only s p f
    unfold t
    generalize fifoEcc s p f = u at h ⊢
    unfold DoubtOnly at h ⊢
    rw [h]
    rfl

/-- Settles O38: acceptance by `acceptResult` and `acceptAborted`, a slot by the bank that it reads. -/
theorem egressPortsAcceptAndSendRecords : Obligations.EgressPortsAcceptAndSendRecords := by
  unfold Obligations.EgressPortsAcceptAndSendRecords
  refine ⟨fun s p k r rest hrun hi hroom hq => ⟨fun x hk hx => ⟨_, _, recordAccept_result hrun hi hroom hq hk hx, rfl,
    acceptResult_leaves x hq⟩, fun hk => ⟨_, recordAccept_aborted hrun hi hroom hq hk, acceptAborted_leaves hq⟩⟩,
    fun s p f hrun hi => ?_⟩
  intro bank
  have hbank : (swapBanks (eportOf s p)).readB = bank := by rw [swapBanks_eq]
  refine ⟨fun r rest hb => ?_, fun hb => ?_⟩
  · obtain ⟨hport, hother, hcnt, hsafety, hclean, honly⟩ := slot_sends s p f (portSends (eportOf s p) (readRecord r f) rest)
    obtain ⟨hlast, hout, hread, hfill, hurun⟩ := portSends_eq (eportOf s p) (readRecord r f) rest
    refine ⟨_, exec_egressSlot_record hrun hi (hbank.trans hb), honly, hclean, ?_, fun hf => ?_, fun hf => ?_, ?_,
      (congrArg EPort.readB hport).trans hread, (congrArg EPort.fill hport).trans hfill,
      (congrArg EPort.urun hport).trans hurun, hother, hcnt⟩
    · rintro rfl
      exact doubtOpen_congr hsafety (fifoEcc_open s p)
    · exact (congrArg EPort.last hport).trans (hlast.trans (by rw [readRecord_eq, if_neg hf]))
    · exact (congrArg EPort.last hport).trans (hlast.trans (by rw [readRecord_eq, if_pos hf]))
    · have hl := (congrArg EPort.last hport).trans hlast
      have ho := (congrArg EPort.out hport).trans hout
      rw [ho, hl]
      rfl
  · have hport : eportOf (bump (setEport s p (portRepeats (eportOf s p))) 6 p 1 1) p = portRepeats (eportOf s p) :=
      eportOf_setEport_same _ _ _
    obtain ⟨hurun, hunder, hlast, hsome, hnone⟩ := portRepeats_eq (eportOf s p)
    exact ⟨_, exec_egressSlot_empty hrun hi (hbank.trans hb), rfl, (congrArg EPort.urun hport).trans hurun,
      (congrArg EPort.underruns hport).trans hunder, (congrArg EPort.last hport).trans hlast,
      fun r hr => (congrArg EPort.out hport).trans (hsome r hr), fun hr => (congrArg EPort.out hport).trans (hnone hr),
      cntAt_bump_same _ 6 p 1 1⟩

end Sys2Proof.Machine
end

section
/-! PROOFS. What the moves of a DMA channel leave unchanged (R325 to R333), and the DMA commands with O30. -/

namespace Sys2Proof.Machine

open Sys2Proof

/-! ### The frame of a move -/

/-- Nothing changed but what a move of a DMA channel can change: the channels, memory with its marks and errors, the weight
cache, the counts of ECC, undefined contents, requests that wait for a tag, reports and doubt. -/
def MoveOnly (s t : State) : Prop :=
  DoubtOnly { s with dma := t.dma, mem := t.mem, marks := t.marks, eccBad := t.eccBad, wcache := t.wcache,
                     eccCnt := t.eccCnt, eccWin := t.eccWin, freeCnt := t.freeCnt,
                     inst := { s.inst with tagWait := t.inst.tagWait } } t

theorem MoveOnly.refl (s : State) : MoveOnly s s := rfl

theorem MoveOnly.trans {s t u : State} (h : MoveOnly s t) (k : MoveOnly t u) : MoveOnly s u := by
  unfold MoveOnly DoubtOnly at h k ⊢
  rw [h] at k
  exact k

theorem MoveOnly.behind {s t u : State} (k : MoveOnly t u) (h : MoveOnly s t) : MoveOnly s u := h.trans k

theorem ReadsOnly.move {s t : State} (h : ReadsOnly s t) : MoveOnly s t := by
  unfold ReadsOnly DoubtOnly at h
  unfold MoveOnly DoubtOnly
  rw [h]

theorem EventsOnly.move {s t : State} (h : EventsOnly s t) : MoveOnly s t := h.reads.move

theorem MoveOnly.setDma (s : State) (c : Nat) (x : DmaChan) : MoveOnly s (setDma s c x) := rfl

/-- Nothing changed but what the writes of a move can change: the frame of a move without the requests that wait. -/
def StoreOnly (s t : State) : Prop :=
  DoubtOnly { s with dma := t.dma, mem := t.mem, marks := t.marks, eccBad := t.eccBad, wcache := t.wcache,
                     eccCnt := t.eccCnt, eccWin := t.eccWin, freeCnt := t.freeCnt } t

theorem StoreOnly.trans {s t u : State} (h : StoreOnly s t) (k : StoreOnly t u) : StoreOnly s u := by
  unfold StoreOnly DoubtOnly at h k ⊢
  rw [h] at k
  exact k

theorem StoreOnly.setDma (s : State) (c : Nat) (x : DmaChan) : StoreOnly s (setDma s c x) := rfl

theorem StoreOnly.move {s t : State} (h : StoreOnly s t) : MoveOnly s t := by
  unfold StoreOnly DoubtOnly at h
  unfold MoveOnly DoubtOnly
  rw [h]

theorem ReadsOnly.store {s t : State} (h : ReadsOnly s t) : StoreOnly s t := by
  unfold ReadsOnly DoubtOnly at h
  unfold StoreOnly DoubtOnly
  rw [h]

/-- Where a DMA channel stands at an index, its run is set in its entry. -/
theorem setRunAt_dma {s : State} {c : Nat} {x : DmaChan} (hx : tabGet? s.dma c = some x) (r : Option DmaRun) :
    setRunAt s c r = setDma s c { x with run := r } := by
  simp only [setRunAt, hx]

theorem runAt_dma {s : State} {c : Nat} {x : DmaChan} (hx : tabGet? s.dma c = some x) : runAt s c = x.run := by
  simp only [runAt, hx]

/-- The mover of a DMA channel. -/
def chanMover (x : DmaChan) : Mover :=
  { engine := x.engine, dom := x.dom, tags := x.tags, stopping := x.stopping, graph := x.graph, wcache := false }

theorem moverAt_dma {s : State} {c : Nat} {x : DmaChan} (hx : tabGet? s.dma c = some x) : moverAt s c = some (chanMover x) := by
  simp only [moverAt, hx, chanMover]

@[simp] theorem dma_setDma_same (s : State) (c : Nat) (x : DmaChan) : tabGet? (setDma s c x).dma c = some x :=
  tabGet?_tabSet_same _ _ _

theorem dma_setDma_other (s : State) {c k : Nat} (x : DmaChan) (h : k ≠ c) : tabGet? (setDma s c x).dma k = tabGet? s.dma k :=
  tabGet?_tabSet_other _ _ h

/-! ### Cells -/

/-- Cells change no byte but those they name. -/
theorem memByte_cellsInto (m : List Host.Cell) (cs : List (Nat × Byte)) {a : Nat} (h : ∀ e ∈ cs, e.1 ≠ a) :
    memByte (cellsInto m cs) a = memByte m a := by
  unfold cellsInto
  induction cs generalizing m with
  | nil => rfl
  | cons e cs ih =>
    rw [List.foldl_cons, ih _ (fun y hy => h y (by simp [hy])), memByte_memSet_other _ _ (Ne.symm (h e (by simp)))]

theorem storeCells_mem (s : State) (cs : List (Nat × Byte)) (bad : List Nat) :
    (storeCells s cs bad).mem = cellsInto s.mem cs := by
  simp only [storeCells, countMerges_mem, meet_mem]

/-- A store of cells changes memory, its marks and errors, and what the reads of its merges report. -/
theorem storeCells_store (s : State) (cs : List (Nat × Byte)) (bad : List Nat) : StoreOnly s (storeCells s cs bad) := by
  have h : ReadsOnly s _ := (meet_reads (fun g => ((cellGrans cs).filter (fun g => ! coversGran cs g)).contains g) s).trans
    (countMerges_reads ((cellGrans cs).filter (fun g => ! coversGran cs g)) _)
  have h := h.store
  unfold StoreOnly DoubtOnly at h ⊢
  unfold storeCells
  dsimp only
  rw [h]

theorem storeCells_move (s : State) (cs : List (Nat × Byte)) (bad : List Nat) : MoveOnly s (storeCells s cs bad) :=
  (storeCells_store s cs bad).move

theorem storeCells_dma (s : State) (cs : List (Nat × Byte)) (bad : List Nat) : (storeCells s cs bad).dma = s.dma :=
  ((meet_reads (fun g => ((cellGrans cs).filter (fun g => ! coversGran cs g)).contains g) s).trans
    (countMerges_reads ((cellGrans cs).filter (fun g => ! coversGran cs g)) _)).dma

/-- A move's frame: the channels stay, and so does every byte that no cell names. -/
def CellsOnly (cs : List (Nat × Byte)) (s t : State) : Prop :=
  MoveOnly s t ∧ t.dma = s.dma ∧ ∀ a, (∀ e ∈ cs, e.1 ≠ a) → memByte t.mem a = memByte s.mem a

theorem scrambleCells_only (s : State) (dom : Nat) (cs : List (Nat × Byte)) : CellsOnly cs s (scrambleCells s dom cs) := by
  refine ⟨?_, ?_, fun a ha => ?_⟩
  · exact (storeCells_move s _ []).trans rfl
  · exact storeCells_dma s _ []
  · show memByte (storeCells s _ []).mem a = _
    rw [storeCells_mem]
    refine memByte_cellsInto _ _ fun e he => ?_
    obtain ⟨y, hy, rfl⟩ := List.mem_map.1 he
    exact ha y (List.mem_filter.1 hy).1

/-! ### Stops and refusals -/

theorem dropWaiting_move (s : State) (c : Nat) : MoveOnly s (dropWaiting s c).1 := rfl

theorem dropWaiting_mem (s : State) (c : Nat) : (dropWaiting s c).1.mem = s.mem := rfl

theorem dropWaiting_dma (s : State) (c : Nat) : (dropWaiting s c).1.dma = s.dma := rfl

/-- The bytes that a stop or a refusal may leave undefined are those of the elements that the descriptor names. -/
def SpoilsOnly (r : DmaRun) (s t : State) : Prop :=
  ∀ a, (∀ es, elemsOf r = some es → ∀ e ∈ moveCells [] (tdesc r.dst).etype s.mem es, e.1 ≠ a) → memByte t.mem a = memByte s.mem a

/-- A state in which only the channel at `c` has another run, and its stop stands or not. -/
def RunSet (c : Nat) (x : DmaChan) (s t : State) (p : DmaRun → Prop) : Prop :=
  MoveOnly s t ∧ (∃ r, p r ∧ tabGet? t.dma c = some { x with run := some r }) ∧ ∀ k, k ≠ c → tabGet? t.dma k = tabGet? s.dma k

/-- The run of a channel is set in a state that left the channels alone. -/
theorem RunSet.of {c : Nat} {x : DmaChan} {s q : State} {p : DmaRun → Prop} {r : DmaRun} (hx : tabGet? s.dma c = some x)
    (hq : MoveOnly s q) (hd : q.dma = s.dma) (hr : p r) : RunSet c x s (setRunAt q c (some r)) p := by
  have hxq : tabGet? q.dma c = some x := by rw [hd, hx]
  rw [setRunAt_dma hxq]
  exact ⟨hq.trans (.setDma q c _), ⟨r, hr, dma_setDma_same q c _⟩, fun k hk => by rw [dma_setDma_other q _ hk, hd]⟩

theorem setRunAt_mem (s : State) (c : Nat) (r : Option DmaRun) : (setRunAt s c r).mem = s.mem := by
  unfold setRunAt
  split <;> rfl

/-- A refused access leaves the destination undefined, and no other byte. -/
theorem spoilDest_only (s : State) (m : Mover) (r : DmaRun) :
    MoveOnly s (spoilDest s m r) ∧ (spoilDest s m r).dma = s.dma ∧ SpoilsOnly r s (spoilDest s m r) := by
  unfold spoilDest
  split
  · exact ⟨.refl s, rfl, fun _ _ => rfl⟩
  next es hes =>
    split
    · exact ⟨.refl s, rfl, fun _ _ => rfl⟩
    · obtain ⟨hm, hd, hb⟩ := scrambleCells_only s m.dom (moveCells [] (tdesc r.dst).etype s.mem es)
      exact ⟨hm, hd, fun a ha => hb a (ha es hes)⟩

/-- A stop sets another run of its channel, and leaves every byte that the descriptor does not name. -/
theorem stopMove_leaves {s : State} {c : Nat} {x : DmaChan} {r : DmaRun} (m : Mover) (keep : Bool)
    (hx : tabGet? s.dma c = some x) (hr : x.run = some r) :
    RunSet c x s (stopMove s c m r keep) (fun _ => True) ∧ SpoilsOnly r s (stopMove s c m r keep) := by
  unfold stopMove
  generalize hd : dropWaiting s c = d
  obtain ⟨q, waitR, waitW⟩ := d
  have hq : q = (dropWaiting s c).1 := by rw [hd]
  have hmove : MoveOnly s q := hq ▸ dropWaiting_move s c
  have hdma : q.dma = s.dma := hq ▸ dropWaiting_dma s c
  have hmem : q.mem = s.mem := hq ▸ dropWaiting_mem s c
  dsimp only
  cases hes : elemsOf r with
  | none =>
    exact ⟨⟨hmove, ⟨r, trivial, by rw [hdma, hx, ← hr]⟩, fun k _ => by rw [hdma]⟩, fun a _ => by rw [hmem]⟩
  | some es =>
    dsimp only
    have key : ∀ p, (p = q ∨ p = scrambleCells q m.dom (moveCells [] (tdesc r.dst).etype q.mem es)) →
        MoveOnly s p ∧ p.dma = s.dma ∧ SpoilsOnly r s p := by
      rintro p (rfl | rfl)
      · exact ⟨hmove, hdma, fun a _ => by rw [hmem]⟩
      · obtain ⟨hm, hd', hb⟩ := scrambleCells_only q m.dom (moveCells [] (tdesc r.dst).etype q.mem es)
        refine ⟨hmove.trans hm, hd'.trans hdma, fun a ha => ?_⟩
        rw [hb a (by rw [hmem]; exact ha es hes), hmem]
    generalize hp : (if isRemote q (tdesc r.dst) || (r.written && keep) then q
      else scrambleCells q m.dom (moveCells [] (tdesc r.dst).etype q.mem es)) = p
    obtain ⟨hm, hd', hb⟩ := key p (by rw [← hp]; split <;> simp)
    split
    · exact ⟨.of hx hm hd' trivial, fun a ha => by rw [setRunAt_mem]; exact hb a ha⟩
    · exact ⟨.of hx (hm.trans rfl) hd' trivial, fun a ha => by rw [setRunAt_mem]; exact hb a ha⟩

/-! ### Commands -/

theorem ringAt_dma {s : State} {c : Nat} {x : DmaChan} (h : ringAt s c = some x) : tabGet? s.dma c = some x := by
  unfold ringAt at h
  split at h
  · next y hy =>
    split at h
    · rw [hy]; exact h
    · cases h
  · cases h

/-- DMA_STOP of a channel with a descriptor in progress stops its move. -/
theorem cmdDmaStop_waits {s : State} {c : Nat} {x : DmaChan} {r : DmaRun} (hc : c < s.chans.count) (hx : ringAt s c = some x)
    (hr : x.run = some r) : ∃ s' x', cmdDmaStop c 0 s = (s', .wait (.dmaStop c)) ∧
      tabGet? s'.dma c = some x' ∧ x' = { x with stopping := true, run := x'.run } ∧
      (∀ k, k ≠ c → tabGet? s'.dma k = tabGet? s.dma k) ∧ MoveOnly s s' ∧ SpoilsOnly r s s' := by
  have hd := ringAt_dma hx
  obtain ⟨⟨hm, ⟨r', -, hr'⟩, hk⟩, hb⟩ := stopMove_leaves (chanMover x) false hd hr
  have he : cmdDmaStop c 0 s = ((setDma (stopMove s c (chanMover x) r false) c
      { x with run := some r', stopping := true }), .wait (.dmaStop c)) := by
    simp only [cmdDmaStop, if_neg (show ¬ s.chans.count ≤ c by omega), hx, ne_eq, not_true_eq_false, if_false, hr,
      moverAt_dma hd, hr']
  generalize stopMove s c (chanMover x) r false = q at *
  exact ⟨_, _, he, dma_setDma_same q c _, rfl, fun k h => by rw [dma_setDma_other q _ h, hk k h], hm.trans (.setDma q c _), hb⟩

theorem cmdDmaStart_runs {s s' : State} {h : CmdHdr} {c f : Nat} {e : List Byte} (hf : f ≤ 1) (hc : c ≤ 1023)
    (he : fetchEntry s h.domain c 1 0 = (s', .inr e)) (hb : dmaBody e = none) (hmode : fieldAt e 8 1 = 0)
    (hmap : mapTarget s (fieldAt e 16 8) (64 * 2 ^ fieldAt e 9 1) = some 0 ∨
      mapTarget s (fieldAt e 16 8) (64 * 2 ^ fieldAt e 9 1) = some 1)
    (hidle : ∀ x, tabGet? s.dma c = some x → x.running = false ∧ x.run = none)
    (hkey : ∀ x ∈ s.dma, x.1 = c → tabGet? s.dma c = some x.2) (hg : graphOwned s (fieldAt e 2 2) = false)
    (hn : engineChans s (fieldAt e 2 2) < 32) (ht : engineTags s (fieldAt e 2 2) + fieldAt e 12 2 ≤ 256)
    (hfit : (ringFit s (fieldAt e 10 2)).1 = true) (hi : islandRuns s (2 + fieldAt e 2 2 / 2) = true) :
    cmdDmaStart h c f s = okDone (setDma s' c (dmaOfEntry e h.domain none
      ((tabGet? s.dma c).elim 0 (fun x => if bitAt f 0 then x.head % 2 ^ fieldAt e 9 1 else 0)))) := by
  have hany : tabAny (fun k x => k == c && (x.running || x.run.isSome)) s.dma = false := by
    rw [tabAny, List.any_eq_false]
    intro y hy
    by_cases hyc : y.1 = c
    · obtain ⟨h1, h2⟩ := hidle y.2 (hkey y hy hyc)
      simp [h1, h2]
    · simp [hyc]
  have hm : ¬ (mapTarget s (fieldAt e 16 8) (64 * 2 ^ fieldAt e 9 1) ≠ some 0 ∧
      mapTarget s (fieldAt e 16 8) (64 * 2 ^ fieldAt e 9 1) ≠ some 1) := by grind
  simp only [cmdDmaStart, if_neg (show ¬ 2 ≤ f by omega), if_neg (show ¬ 1023 < c by omega), he, hb, hmode, ne_eq,
    not_true_eq_false, if_false, hany, hg, hfit, hi, Bool.not_true, Bool.false_eq_true, Bool.or_self, Bool.false_or,
    decide_eq_true_eq, Bool.or_eq_true]
  rw [ne_eq, ne_eq] at hm
  rw [if_neg hm, if_neg (by omega)]
  cases tabGet? s.dma c <;> rfl

/-- Settles O30: each command past its checks. -/
theorem dmaCommandsDriveRings : Obligations.DmaCommandsDriveRings := by
  unfold Obligations.DmaCommandsDriveRings
  refine ⟨fun s s' h c f e hacc hf hc he hb hmode hmap hidle hkey hg hn ht hfit hi => ?_, fun s h c x hacc hc hx => ?_,
    fun s h c x hacc hc hx => ⟨fun hr => ?_, fun r hr => ?_⟩, fun s h c hc => ⟨fun hacc => ?_, fun hacc => ?_⟩,
    fun s h a len hacc => ?_⟩
  · have hexec : exec (.dmaStart h c f) s = .next (answerRow h 0x0104 (cmdDmaStart h c f s)) :=
      congrArg _ (runCommand_accepted hacc _)
    refine ⟨_, by rw [answersOk, hexec, cmdDmaStart_runs hf hc he hb hmode hmap hidle hkey hg hn ht hfit hi]; rfl, rfl, rfl,
      ?_, rfl, rfl, rfl, rfl, rfl, rfl, rfl, ?_, ?_⟩
    · simp [dmaOfEntry, hmode]
    · rintro rfl
      cases tabGet? s.dma c <;> simp [dmaOfEntry, bitAt]
    · rintro rfl
      cases tabGet? s.dma c <;> simp [dmaOfEntry, bitAt]
  · have hexec : exec (.dmaKick h c 0) s = .next (answerRow h 0x0106 (cmdDmaKick c 0 s)) :=
      congrArg _ (runCommand_accepted hacc _)
    rw [answersOk, hexec, cmdDmaKick, if_neg (show ¬ s.chans.count ≤ c by omega)]
    simp only [hx, ne_eq, not_true_eq_false, if_false, okDone]
  · have hexec : exec (.dmaStop h c 0) s = .next (answerRow h 0x0105 (cmdDmaStop c 0 s)) :=
      congrArg _ (runCommand_accepted hacc _)
    rw [answersOk, hexec, cmdDmaStop, if_neg (show ¬ s.chans.count ≤ c by omega)]
    simp only [hx, ne_eq, not_true_eq_false, if_false, hr, okWith]
  · have hexec : exec (.dmaStop h c 0) s = .next (answerRow h 0x0105 (cmdDmaStop c 0 s)) :=
      congrArg _ (runCommand_accepted hacc _)
    obtain ⟨s', x', hs, hx', hxe, hk, hm, hb⟩ := cmdDmaStop_waits hc hx hr
    exact ⟨s', x', by rw [answersLater, hexec, hs], hx', hxe, hk, hm, hb⟩
  · refine (congrArg _ (runCommand_accepted hacc _) : exec (.dmaStop h c 0) s = .next (answerRow h 0x0105 (cmdDmaStop c 0 s))).trans ?_
    rw [cmdDmaStop, if_pos hc]
    rfl
  · refine (congrArg _ (runCommand_accepted hacc _) : exec (.dmaKick h c 0) s = .next (answerRow h 0x0106 (cmdDmaKick c 0 s))).trans ?_
    rw [cmdDmaKick, if_pos hc]
    rfl
  · refine ⟨s.wcache.filter (fun l => decide (l.addr + 64 ≤ a) || decide (a + len ≤ l.addr)),
      congrArg _ (runCommand_accepted hacc _), fun l => ?_⟩
    simp

end Sys2Proof.Machine
end

section
/-! PROOFS. The descriptors of a ring and of a node's list (R326, R330 to R335) with O31. -/

namespace Sys2Proof.Machine

open Sys2Proof

/-! ### Reads of good structures -/

/-- A read of granules in which no error stands meets none. -/
theorem meet_absent {reads : Nat → Bool} {s : State} (h : ∀ y ∈ s.eccBad, reads (granOf y.addr) = false) : meet reads s = s := by
  unfold meet
  suffices ∀ l : List EccHit, (∀ y ∈ l, reads (granOf y.addr) = false) →
      l.foldl (fun s x => if reads (granOf x.addr) then eccMeet s x else s) s = s from this _ h
  intro l
  induction l with
  | nil => exact fun _ => rfl
  | cons y l ih =>
    intro hl
    rw [List.foldl_cons, if_neg (by simp [hl y (by simp)])]
    exact ih (fun z hz => hl z (by simp [hz]))

/-- A clean structure is read with OK, and nothing changes. -/
theorem readStruct_ok {s : State} {dom a len : Nat} (cls unit : Nat) (h : ReadsClean s dom a len) :
    readStruct s cls unit dom a len = (s, .ok, viewBytes s a len) := by
  obtain ⟨hbar, hbad, hecc⟩ := h
  simp only [readStruct, hbar, meetRange_absent hecc, hbad, Bool.false_eq_true, if_false]

theorem readTd_ok {s : State} {x : DmaChan} {a : Nat} (off : Nat) (h : ReadsClean s x.dom a 128) :
    readTd s x a off = (s, none, viewBytes s a 128) := by
  simp only [readTd, readStruct_ok 2 x.engine h, if_true]

section EmitTrace
variable (s : State) (c u : Nat) (g : Bool) (k a : Nat) (e : List (Nat × Nat × Nat × Nat × Nat))

theorem readsClean_emitTrace (dom b len : Nat) : ReadsClean (emitTrace s c u g k a e) dom b len ↔ ReadsClean s dom b len := by
  unfold emitTrace
  dsimp only
  split <;> split <;> exact Iff.rfl

theorem viewBytes_emitTrace (b len : Nat) : viewBytes (emitTrace s c u g k a e) b len = viewBytes s b len := by
  rw [emitTrace_trace]
  rfl

theorem isRemote_emitTrace (t : TDesc) : isRemote (emitTrace s c u g k a e) t = isRemote s t := by
  rw [emitTrace_trace]
  rfl

end EmitTrace

/-- States with one memory map and one firewall give a tensor descriptor the same checks. -/
theorem tdCheck_congr {s q : State} (hd : q.ddr = s.ddr) (hi : q.inst = s.inst) (hf : fwRegions q = fwRegions s)
    (t : TDesc) (u : TUse) (dom dev : Nat) : tdCheck q t u dom dev = tdCheck s t u dom dev := by
  have hmap : ∀ a n, mapTarget q a n = mapTarget s a n := fun a n => by rw [mapTarget, hd]; rfl
  have hin : ∀ a n, inSpace q t a n = inSpace s t a n := fun a n => by simp only [inSpace, hmap, hi]
  have hspan : ∀ k dom wr n a b, fwSpan q k dom wr n a b = fwSpan s k dom wr n a b := by
    intro k dom wr n
    induction n with
    | zero => intros; rfl
    | succ n ih => intro a b; simp only [fwSpan, fwAllows, hf, ih]
  have hper : ∀ dom wr a n, fwPermits q dom wr a n = fwPermits s dom wr a n := fun dom wr a n => by
    simp only [fwPermits, hmap, hspan]
  have hrange : tdRange q t u dom = tdRange s t u dom := by simp only [tdRange, hin, hper, hi]
  simp only [tdCheck, hrange]

theorem moveCheck_congr {s q : State} (hd : q.ddr = s.ddr) (hi : q.inst = s.inst) (hf : fwRegions q = fwRegions s)
    (dom kind perm : Nat) (w : Bool) (src dst : TDesc) :
    moveCheck q dom kind perm w src dst = moveCheck s dom kind perm w src dst := by
  have hr : ∀ t, isRemote q t = isRemote s t := fun t => by rw [isRemote, isRemote, hi]
  have ho : ∀ a b, footOverlap q a b = footOverlap s a b := fun a b => by simp only [footOverlap, devOf, hi]
  simp only [moveCheck, tdCheck_congr hd hi hf, hr, ho, hi]

theorem fwRegions_congr {s q : State} (hw : q.fw = s.fw) (hc : q.trace.chans = s.trace.chans) : fwRegions q = fwRegions s := by
  funext k
  simp only [fwRegions, fwListed, traceGrants, hw, hc]

/-- States with one memory map, one firewall and the same islands allow the same accesses. -/
theorem accessStatus_congr {s q : State} (hd : q.ddr = s.ddr) (hi : q.islands = s.islands) (hr : q.rst = s.rst)
    (hw : q.fw = s.fw) (hc : q.trace.chans = s.trace.chans) (dom : Nat) (wr : Bool) (a n : Nat) :
    accessStatus q dom wr a n = accessStatus s dom wr a n := by
  simp only [accessStatus, mapTarget, hd, islandRuns, hi, hr, fwAllows, fwRegions_congr hw hc] <;> rfl

theorem firstBar_congr {s q : State} (hd : q.ddr = s.ddr) (hi : q.islands = s.islands) (hr : q.rst = s.rst)
    (hw : q.fw = s.fw) (hc : q.trace.chans = s.trace.chans) (dom : Nat) (wr : Bool) (gs : List Nat) :
    firstBar q dom wr gs = firstBar s dom wr gs := by
  simp only [firstBar, accessStatus_congr hd hi hr hw hc]

theorem fwRegions_emitTrace (s : State) (c u : Nat) (g : Bool) (k a : Nat) (e : List (Nat × Nat × Nat × Nat × Nat)) :
    fwRegions (emitTrace s c u g k a e) = fwRegions s := by
  unfold emitTrace
  dsimp only
  split <;> split <;> rfl

theorem moveCheck_emitTrace (s : State) (c u : Nat) (g : Bool) (k a : Nat) (e : List (Nat × Nat × Nat × Nat × Nat))
    (dom kind perm : Nat) (w : Bool) (src dst : TDesc) :
    moveCheck (emitTrace s c u g k a e) dom kind perm w src dst = moveCheck s dom kind perm w src dst := by
  refine moveCheck_congr ?_ ?_ (fwRegions_emitTrace s c u g k a e) dom kind perm w src dst <;> rw [emitTrace_trace]

theorem viewBytes_setDma (s : State) (c : Nat) (x : DmaChan) (a len : Nat) :
    viewBytes (setDma s c x) a len = viewBytes s a len := rfl

/-! ### The start of a ring's descriptor -/

/-- The run of a descriptor that a ring begins, with its two tensor descriptors. -/
def ringRun (s : State) (x : DmaChan) (d src dst : List Byte) : DmaRun :=
  { runIdle none x.head 0 s.time with desc := d, src := src, dst := dst }

theorem doDmaDescriptorStart_ring {s : State} {c : Nat} {x : DmaChan} (hx : tabGet? s.dma c = some x)
    (hrun : x.running = true) (hring : x.ring = true) (hpark : x.parked = false) (hstop : x.stopping = false)
    (hr : x.run = none) (he : engineRuns s x.engine = true) : doDmaDescriptorStart c s = ringStart s c x := by
  simp only [doDmaDescriptorStart, hx, hrun, he, hstop, hr, hring, hpark, Bool.not_true, Bool.or_self, Bool.false_eq_true,
    if_false, Bool.not_false, Bool.and_self, if_true]

/-- A ring that finds OWN = 0 at HEAD parks (R330). -/
theorem ringStart_parks {s : State} {c : Nat} {x : DmaChan} (hd : ReadsClean s x.dom (ringDesc x) 64)
    (hown : fieldAt (viewBytes s (ringDesc x) 64) 0 1 % 2 = 0) :
    ringStart s c x = setDma s c { x with parked := true, kick := false } := by
  have hb : bitAt (fieldAt (viewBytes s (ringDesc x) 64) 0 1) 0 = false := by simp [bitAt, Nat.testBit_zero, hown]
  simp only [ringStart, readStruct_ok 2 x.engine hd, hb, ne_eq, not_true_eq_false, if_false, Bool.not_false, if_true]

/-- What the run of a ring's descriptor becomes where a check of it fails: nothing is moved (R332). -/
def failedRun (r : DmaRun) (st : Status) : DmaRun :=
  { r with busy := true, reads := 0, todo := [], got := [], writes := 0, written := true, bytes := 0, oobR := 0, oobW := 0,
           bad := false, mism := 0, firstBad := 0, status := st }

theorem failMove_dma {s : State} {c : Nat} {x : DmaChan} (hx : tabGet? s.dma c = some x) (r : DmaRun) (st : Status) :
    failMove s c r st = setDma s c { x with run := some (failedRun r st) } := setRunAt_dma hx _

/-- Only the channel at `c` and the trace changed: the channel has this run. -/
def RunsWith (c : Nat) (x : DmaChan) (r : DmaRun) (s t : State) : Prop :=
  t = { s with dma := t.dma, trace := t.trace } ∧ tabGet? t.dma c = some { x with run := some r } ∧
    ∀ k, k ≠ c → tabGet? t.dma k = tabGet? s.dma k

theorem RunsWith.emitTrace {c : Nat} {x : DmaChan} {r : DmaRun} {s t : State} {cls u : Nat} {g : Bool} {k a : Nat}
    {e : List (Nat × Nat × Nat × Nat × Nat)} (h : RunsWith c x r (emitTrace s cls u g k a e) t) : RunsWith c x r s t := by
  rw [emitTrace_trace] at h
  exact h

theorem RunsWith.setDma {c : Nat} {x y : DmaChan} {r : DmaRun} {s t : State} (h : RunsWith c x r (setDma s c y) t) :
    RunsWith c x r s t := by
  obtain ⟨he, hc, hk⟩ := h
  exact ⟨he, hc, fun k hne => (hk k hne).trans (dma_setDma_other s y hne)⟩

theorem RunsWith.of (c : Nat) (x : DmaChan) (r : DmaRun) (s : State) :
    RunsWith c x r s (Machine.setDma s c { x with run := some r }) :=
  ⟨rfl, dma_setDma_same _ _ _, fun _ h => dma_setDma_other _ _ h⟩

theorem RunsWith.bump {c : Nat} {x : DmaChan} {r : DmaRun} {s t : State} (h : RunsWith c x r s t) (cls u i n : Nat) :
    RunsWith c x r s (bump t cls u i n) := by
  obtain ⟨he, hc, hk⟩ := h
  refine ⟨?_, hc, hk⟩
  rw [he]
  rfl

/-- A descriptor one of whose own fields fails its check starts a run that ends at once (R332). -/
theorem ringStart_fails {s : State} {c : Nat} {x : DmaChan} {st : Status} {off : Nat}
    (hd : ReadsClean s x.dom (ringDesc x) 64) (hown : fieldAt (viewBytes s (ringDesc x) 64) 0 1 % 2 = 1)
    (hf : (descFields (viewBytes s (ringDesc x) 64)).or (descAligned (viewBytes s (ringDesc x) 64)) = some (st, off)) :
    ∃ r, RunsWith c x (failedRun r st) s (ringStart s c x) := by
  have hb : bitAt (fieldAt (viewBytes s (ringDesc x) 64) 0 1) 0 = true := by simp [bitAt, Nat.testBit_zero, hown]
  simp only [ringStart, readStruct_ok 2 x.engine hd, hb, ne_eq, not_true_eq_false, if_false, Bool.not_true,
    Bool.false_eq_true, hf]
  rw [failMove_dma (dma_setDma_same _ _ _)]
  exact ⟨_, ((RunsWith.of c x _ _).setDma).emitTrace⟩

/-- The run of a move that begins: its source granules are to be read (R325, R328). -/
def begunRun (r : DmaRun) (gs : List Nat) : DmaRun :=
  { r with busy := true, reads := gs.length, todo := gs, got := [], writes := 0, written := false, bytes := 0, oobR := 0,
           oobW := 0, bad := false, mism := 0, firstBad := 0, status := .ok }

theorem beginMove_local {s : State} {c : Nat} {x : DmaChan} {r : DmaRun} {es : List ((Nat × Nat) × Option (Nat × Nat) × Bool)}
    (hx : tabGet? s.dma c = some x) (m : Mover) (he : elemsOf r = some es) (hr : isRemote s (tdesc r.src) = false) :
    RunsWith c x (begunRun r (moveSrcGrans (tdesc r.src) es)) s (beginMove s c m r) := by
  have hrem : ∀ q : State, q.inst = s.inst → isRemote q (tdesc r.src) = false := fun q hq => by
    rw [isRemote, hq]
    exact hr
  simp only [beginMove, he]
  rw [if_neg (by rw [hrem _ (by rw [setRunAt_dma hx]; rfl)]; decide), setRunAt_dma hx]
  exact (RunsWith.of c x _ s).bump _ _ _ _

theorem moveCheck_setDma (s : State) (c : Nat) (x : DmaChan) (dom kind perm : Nat) (w : Bool) (src dst : TDesc) :
    moveCheck (setDma s c x) dom kind perm w src dst = moveCheck s dom kind perm w src dst :=
  moveCheck_congr (q := setDma s c x) (s := s) rfl rfl rfl dom kind perm w src dst

/-- A move that passes its checks has a permutation. -/
theorem perm_of_moveCheck {s : State} {dom kind perm : Nat} {w : Bool} {src dst : TDesc}
    (h : moveCheck s dom kind perm w src dst = none) : ∃ p, permOf kind perm src.ndim = some p := by
  cases hp : permOf kind perm src.ndim with
  | some p => exact ⟨p, rfl⟩
  | none =>
    rw [moveCheck, hp] at h
    exact absurd h (by simp)

/-- A ring's descriptor that passes every check begins its move (R326, R330). -/
theorem ringStart_begins {s : State} {c : Nat} {x : DmaChan} {d src dst : List Byte}
    (hd : ReadsClean s x.dom (ringDesc x) 64) (hdv : viewBytes s (ringDesc x) 64 = d)
    (hsv : viewBytes s (fieldAt d 8 8) 128 = src) (htv : viewBytes s (fieldAt d 16 8) 128 = dst)
    (hown : fieldAt d 0 1 % 2 = 1) (hf : descFields d = none) (ha : descAligned d = none)
    (hsrc : ReadsClean s x.dom (fieldAt d 8 8) 128) (hdst : ReadsClean s x.dom (fieldAt d 16 8) 128)
    (hcheck : moveCheck s x.dom (fieldAt d 1 1) (fieldAt d 4 4) ((fieldAt d 0 1).testBit 2) (tdesc src) (tdesc dst) = none)
    (hrem : isRemote s (tdesc src) = false) :
    ∃ perm, permOf (fieldAt d 1 1) (fieldAt d 4 4) (tdesc src).ndim = some perm ∧
      RunsWith c x (begunRun (ringRun s x d src dst)
        (moveSrcGrans (tdesc src) (moveElems (tdesc src) (tdesc dst) perm (offsAt d 24) (offsAt d 36)))) s (ringStart s c x) := by
  have hb : bitAt (fieldAt d 0 1) 0 = true := by simp [bitAt, Nat.testBit_zero, hown]
  obtain ⟨perm, hperm⟩ := perm_of_moveCheck hcheck
  refine ⟨perm, hperm, ?_⟩
  generalize hq : emitTrace s 2 x.engine false 0 (ringWork c x.head) [] = q
  have hqt : q = { s with trace := q.trace } := by rw [← hq]; exact emitTrace_trace _ _ _ _ _ _ _
  have hclean : ∀ b, ReadsClean s x.dom b 128 → ReadsClean q x.dom b 128 := fun b h => by
    rw [← hq]
    exact (readsClean_emitTrace _ _ _ _ _ _ _ _ _ _).2 h
  have hview : ∀ b n, viewBytes q b n = viewBytes s b n := fun b n => by rw [← hq, viewBytes_emitTrace]
  have hmc : moveCheck q x.dom (fieldAt d 1 1) (fieldAt d 4 4) (bitAt (fieldAt d 0 1) 2) (tdesc src) (tdesc dst) = none := by
    rw [← hq, moveCheck_emitTrace]
    exact hcheck
  have htime : q.time = s.time := by rw [hqt]
  have hstart : ringStart s c x = beginMove (setDma q c { x with run := some (ringRun s x d src dst) }) c
      (chanMover { x with run := some (ringRun s x d src dst) })
      (ringRun s x d src dst) := by
    simp only [ringStart, readStruct_ok 2 x.engine hd, hdv, hb, ne_eq, not_true_eq_false, if_false, Bool.not_true,
      Bool.false_eq_true, hf, ha, Option.or_none, hq, readTd_ok 8 (hclean _ hsrc), readTd_ok 16 (hclean _ hdst), hview, hsv, htv,
      moveCheck_setDma, hmc, moverAt_dma (dma_setDma_same _ _ _), htime, ringRun]
  have hel : elemsOf (ringRun s x d src dst) =
      some (moveElems (tdesc src) (tdesc dst) perm (offsAt d 24) (offsAt d 36)) := by
    simp only [elemsOf, ringRun, hperm, Option.map_some]
  rw [hstart]
  have hrq : ∀ y, isRemote (setDma q c y) (tdesc src) = false := fun y => by rw [hqt]; exact hrem
  have h := beginMove_local (x := { x with run := some (ringRun s x d src dst) }) (dma_setDma_same q c _)
    (chanMover { x with run := some (ringRun s x d src dst) }) hel (hrq _)
  have h := RunsWith.setDma h
  rw [← hq] at h ⊢
  exact h.emitTrace

/-! ### The end of a descriptor -/

theorem length_writtenBack {d : List Byte} (h : d.length = 64) (st : Status) (bytes oob t : Nat) :
    (writtenBack d st bytes oob t).length = 64 := by
  simp [writtenBack, bytesAt, h]

theorem travelMismatch_zero (s : State) (cls unit port addr : Nat) : travelMismatch s cls unit 0 port addr = s := rfl

/-- A ring's descriptor that has moved everything ends with OK. -/
theorem endStatus_ok {r : DmaRun} (hs : r.status = .ok) (hb : r.bad = false) : endStatus false r = .ok := by
  simp only [endStatus, hs, hb, ne_eq, not_true_eq_false, if_false, Bool.false_eq_true]

theorem doDmaDescriptorEnd_ended {s : State} {c : Nat} {x : DmaChan} {r : DmaRun} (hx : tabGet? s.dma c = some x)
    (hr : x.run = some r) (hb : r.busy = true) (hrd : r.reads = 0) (hw : r.writes = 0) (hwr : r.written = true)
    (he : engineRuns s x.engine = true) :
    doDmaDescriptorEnd c s = match r.node with
      | none => ringEnd s c x r
      | some n => nodeDescEnd s c x r n := by
  simp only [doDmaDescriptorEnd, hx, hr, moveEnded, hb, hrd, hw, hwr, he, decide_true, Bool.and_self, Bool.true_or, Bool.not_true,
    Bool.or_self, Bool.false_eq_true, if_false] <;> rfl

/-- The state after a ring's descriptor is written back and its end traced. -/
def ringWritten (s : State) (c : Nat) (x : DmaChan) (r : DmaRun) : State :=
  setDma (emitTrace (putBytes s (ringDesc x) (writtenBack r.desc .ok r.bytes (oobWord r) s.time) false) 2 x.engine false 1
    (ringWork c x.head) [(satTo 32 r.bytes, oobWord r, statusCode .ok, 0, 1)]) c
    { x with head := (x.head + 1) % 2 ^ x.ringLog, run := none }

theorem ringEnd_ok {s : State} {c : Nat} {x : DmaChan} {r : DmaRun} (hs : r.status = .ok) (hb : r.bad = false) (hm : r.mism = 0)
    (hl : r.desc.length = 64) (hp : x.stopping = false) (hacc : accessStatus s x.dom true (ringDesc x) 64 = .ok) (hal : ringDesc x % 64 = 0) :
    ringEnd s c x r = if bitAt (fieldAt r.desc 0 1) 1 then
      postEvent (ringWritten s c x r) 0x0101 2 x.engine (leBytes 2 c ++ leBytes 2 (statusCode .ok) ++ leBytes 4 x.head)
      else ringWritten s c x r := by
  have hlen := length_writtenBack hl .ok r.bytes (oobWord r) s.time
  have hw : writeLocal s x.dom (ringDesc x) (writtenBack r.desc .ok r.bytes (oobWord r) s.time) false =
      (putBytes s (ringDesc x) (writtenBack r.desc .ok r.bytes (oobWord r) s.time) false, .ok) := by
    rw [← hlen] at hacc
    rw [writeLocal_ok false hacc, hlen, meetMerge_whole s hal (by decide)]
  simp only [ringEnd, hp, endStatus_ok hs hb, hm, travelMismatch_zero, hw, Bool.false_eq_true, if_false,
    show goesOn .ok = true from rfl, if_true, ringWritten]

/-- Writing a descriptor back changes its granule, the channel and the trace. -/
theorem ringWritten_leaves (s : State) (c : Nat) (x : DmaChan) (r : DmaRun) :
    let t := ringWritten s c x r
    tabGet? t.dma c = some { x with head := (x.head + 1) % 2 ^ x.ringLog, run := none } ∧
      (∀ k, k ≠ c → tabGet? t.dma k = tabGet? s.dma k) ∧
      t.mem = memWrite s.mem (ringDesc x) (writtenBack r.desc .ok r.bytes (oobWord r) s.time) ∧
      EventsOnly { s with mem := t.mem, marks := t.marks, eccBad := t.eccBad, dma := t.dma } t := by
  simp only [ringWritten]
  rw [emitTrace_trace]
  exact ⟨dma_setDma_same _ _ _, fun k h => dma_setDma_other _ _ h, rfl, rfl⟩

/-- The run of a node's list after a descriptor that ended with OK. -/
def nextRun (r : DmaRun) : DmaRun :=
  { r with busy := false, index := r.index + 1, totalBytes := r.totalBytes + r.bytes, totalOob := oobSum r.totalOob r,
           descDone := r.descDone + 1 }

/-- A node's descriptor that ends with OK lets its list go on, or completes the node's work (R335). -/
theorem nodeDescEnd_ok {s : State} {c n : Nat} {x : DmaChan} {r : DmaRun} (hs : r.status = .ok) (hb : r.bad = false)
    (hm : r.mism = 0) (hp : x.stopping = false) :
    nodeDescEnd s c x r n = if r.index + 1 < fieldAt (nodeDesc s n) 1 1 then setDma s c { x with run := some (nextRun r) }
      else nodeUnitDone (nodeTraceEnd (setDma s c { x with run := none }) x (nextRun r) n .ok) n := by
  simp only [nextRun, nodeDescEnd, hp, endStatus_ok hs hb, hm, travelMismatch_zero, Bool.false_eq_true, if_false,
    show goesOn .ok = true from rfl, if_true, Bool.not_true]

theorem nodeUnitDone_eq (s : State) (n : Nat) : nodeUnitDone s n =
    { s with nodes := tabModify n (fun x => { x with run := x.run.map (fun r => { r with unitDone := true }) }) s.nodes,
             watches := (nodeUnitDone s n).watches } := by
  unfold nodeUnitDone
  dsimp only
  cases (tabGet? s.nodes n).bind (fun x => x.run) <;> rfl

theorem tabGet?_tabModify_same {α : Type} (n : Nat) (f : α → α) (t : Tab α) :
    tabGet? (tabModify n f t) n = (tabGet? t n).map f := by
  unfold tabModify
  induction t with
  | nil => rfl
  | cons e t ih =>
    rw [List.map_cons]
    by_cases he : e.1 = n
    · simp [tabGet?, he]
    · simp [tabGet?, he, ih]

/-- The unit of a node that runs is done (R335). -/
theorem nodeUnitDone_run {s : State} {n : Nat} {nd : Node} {q : NodeRun} (hn : tabGet? s.nodes n = some nd) (hq : nd.run = some q) :
    (tabGet? (nodeUnitDone s n).nodes n).bind (·.run) = some { q with unitDone := true } := by
  rw [nodeUnitDone_eq]
  simp only [tabGet?_tabModify_same, hn, Option.map_some, Option.bind_some, hq]

/-- Settles O31: the start by `ringStart`, the ends by `ringEnd` and `nodeDescEnd`. -/
theorem ringDescriptorsStartParkAndWriteBack : Obligations.RingDescriptorsStartParkAndWriteBack := by
  unfold Obligations.RingDescriptorsStartParkAndWriteBack
  refine ⟨fun s0 s ecc c x hpl hx hrun hring hpark hstop hr he hd => ?_,
    fun s c x r hx hr hn hb hrd hw hwr hs hbad hm hl he hp hacc hal => ?_,
    fun s c x r n hx hr hn hb hrd hw hwr hs hbad hm he hp => ?_⟩
  · have hexec : exec (.dmaDescriptorStart c ecc) s0 = .next (ringStart s c x) := by
      show Host.Outcome.next (doDmaDescriptorStart c (plant ecc s0)) = _
      rw [hpl, doDmaDescriptorStart_ring hx hrun hring hpark hstop hr he]
    intro d
    refine ⟨fun hown => hexec.trans (congrArg _ (ringStart_parks hd hown)), ?_, fun st off hown hf => ?_⟩
    · intro src dst hown hf ha hsrc hdst hcheck hrem
      obtain ⟨perm, hperm, ht, hc, hk⟩ := ringStart_begins (c := c) (d := d) (src := src) (dst := dst) hd rfl rfl rfl hown hf ha
        hsrc hdst hcheck hrem
      generalize hgs : moveSrcGrans (tdesc src) (moveElems (tdesc src) (tdesc dst) perm (offsAt d 24) (offsAt d 36)) = gs
        at ht hc hk
      exact ⟨_, _, hexec, ht, hc, hk, rfl, rfl, rfl, rfl, rfl, rfl, rfl, perm, hperm, hgs.symm, rfl⟩
    · obtain ⟨r, ht, hc, hk⟩ := ringStart_fails (c := c) hd hown hf
      exact ⟨_, _, hexec, ht, hc, rfl, rfl, rfl, rfl⟩
  · have hexec : exec (.dmaDescriptorEnd c) s = .next (ringEnd s c x r) := by
      show Host.Outcome.next (doDmaDescriptorEnd c s) = _
      rw [doDmaDescriptorEnd_ended hx hr hb hrd hw hwr he, hn]
    obtain ⟨hc, hk, hmem, hev⟩ := ringWritten_leaves s c x r
    have hlen := length_writtenBack hl .ok r.bytes (oobWord r) s.time
    have key : ∀ t, EventsOnly (ringWritten s c x r) t →
        tabGet? t.dma c = some { x with head := (x.head + 1) % 2 ^ x.ringLog, run := none } ∧
        (∀ k, k ≠ c → tabGet? t.dma k = tabGet? s.dma k) ∧
        memRead t.mem (ringDesc x) 64 = writtenBack r.desc .ok r.bytes (oobWord r) s.time ∧
        (∀ a, (a < ringDesc x ∨ ringDesc x + 64 ≤ a) → memByte t.mem a = memByte s.mem a) ∧
        EventsOnly { s with mem := t.mem, marks := t.marks, eccBad := t.eccBad, dma := t.dma } t := by
      intro t ht
      have hd := ht.reads.dma
      have hme := ht.reads.mem
      refine ⟨by rw [hd]; exact hc, fun k h => by rw [hd]; exact hk k h, ?_, fun a ha => ?_, ?_⟩
      · rw [hme, hmem]
        have h := memRead_memWrite s.mem (ringDesc x) (writtenBack r.desc .ok r.bytes (oobWord r) s.time)
        rwa [hlen] at h
      · rw [hme, hmem, memByte_memWrite, dif_neg (by omega)]
      · have h := hev.trans ht
        rw [ht.doubt.mem, ht.doubt.marks, ht.doubt.eccBad, ht.doubt.dma]
        exact h
    refine ⟨_, hexec, key _ ?_⟩
    rw [ringEnd_ok hs hbad hm hl hp hacc hal]
    split
    · exact postEvent_only _ _ _ _ _
    · exact .refl _
  · have hexec : exec (.dmaDescriptorEnd c) s = .next (nodeDescEnd s c x r n) := by
      show Host.Outcome.next (doDmaDescriptorEnd c s) = _
      rw [doDmaDescriptorEnd_ended hx hr hb hrd hw hwr he, hn]
    refine ⟨fun hlt => ⟨_, nextRun r, hexec, ?_⟩, fun hge => ⟨_, hexec, ?_⟩⟩
    · rw [nodeDescEnd_ok hs hbad hm hp, if_pos hlt]
      exact ⟨rfl, rfl, rfl, hn, rfl, rfl⟩
    · rw [nodeDescEnd_ok hs hbad hm hp, if_neg (by omega), nodeTraceEnd]
      generalize hw : emitTrace (setDma s c { x with run := none }) _ _ _ _ _ _ = w
      have hwt : w = { setDma s c { x with run := none } with trace := w.trace } := by rw [← hw]; exact emitTrace_trace _ _ _ _ _ _ _
      refine ⟨?_, ?_, fun nd q hnd hq => nodeUnitDone_run (by rw [hwt]; exact hnd) hq⟩
      · rw [nodeUnitDone_eq, hwt]
        exact dma_setDma_same _ _ _
      · rw [nodeUnitDone_eq, hwt]
        rfl

end Sys2Proof.Machine
end

section
/-! PROOFS. The reads of a DMA channel's move as they return (R325 to R328, R332, R333, R338) with O32. -/

namespace Sys2Proof.Machine

open Sys2Proof

/-! ### A read that returns -/

theorem setDma_self_run {x : DmaChan} {r : DmaRun} (h : x.run = some r) : { x with run := some r } = x := by rw [← h]

/-- The return of a read counts, and goes to the granule that is next, or to the end of the reads. -/
theorem doDmaReadReturn_local {s : State} {c : Nat} {x : DmaChan} {r : DmaRun} (hx : tabGet? s.dma c = some x)
    (hr : x.run = some r) (hb : r.busy = true) (hl : isRemote s (tdesc r.src) = false) (he : engineRuns s x.engine = true)
    (hecc : ∀ y ∈ s.eccBad, r.todo.head? ≠ some (y.addr / 64)) (hn : 1 ≤ r.reads) :
    doDmaReadReturn c s = localReturn s c (chanMover x) r := by
  have hm : meet (moveReads r) s = s := meet_absent fun y hy => by
    simp only [moveReads, beq_eq_false_iff_ne, ne_eq]
    exact hecc y hy
  simp only [doDmaReadReturn, runAt_dma hx, hr, moverAt_dma hx, hb, hl, decide_eq_true (show 0 < r.reads from hn),
    show engineRuns s (chanMover x).engine = true from he, Bool.not_false, Bool.and_self, if_true, hm]

/-- The state in which a read of an engine is counted. -/
def readCounted (s : State) (x : DmaChan) : State := bump s 2 x.engine 1 1

theorem dma_readCounted (s : State) (x : DmaChan) : (readCounted s x).dma = s.dma := rfl

theorem accessStatus_readCounted (s : State) (x : DmaChan) (dom a n : Nat) (wr : Bool) :
    accessStatus (readCounted s x) dom wr a n = accessStatus s dom wr a n :=
  accessStatus_congr (q := readCounted s x) (s := s) rfl rfl rfl rfl rfl dom wr a n

/-- The data of a stopped channel's read is discarded and counted (R333). -/
theorem localReturn_stopped {s : State} {c : Nat} {x : DmaChan} {r : DmaRun} (hx : tabGet? s.dma c = some x)
    (hstop : x.stopping = true) :
    localReturn s c (chanMover x) r =
      bump (setDma (readCounted s x) c { x with run := some { r with reads := r.reads - 1 } }) 2 x.engine 6 64 := by
  have hxc : tabGet? (readCounted s x).dma c = some x := hx
  have hback : ∀ r', readBack (readCounted s x) c (chanMover x) r' =
      bump (setDma (readCounted s x) c { x with run := some r' }) 2 x.engine 6 64 := fun r' => by
    rw [readBack, if_pos (show (chanMover x).stopping = true from hstop), setRunAt_dma hxc]
    simp only [discardRead, dma_setDma_same]
    rfl
  rw [localReturn, show (chanMover x).stopping = true from hstop]
  exact hback _

theorem counted_two {s q : State} (cls unit i j n k : Nat) (h : i ≠ j) (hq : counted s q cls unit i n) :
    counted s (bump q cls unit j k) cls unit i n := by
  have hne : srcKey cls unit * 8 + i ≠ srcKey cls unit * 8 + j := by omega
  exact (cntAt_bump_other q cls unit j k hne).trans hq

theorem counted_from {s q : State} (cls unit i n : Nat) (h : cntAt q (srcKey cls unit * 8 + i) = cntAt s (srcKey cls unit * 8 + i)) :
    counted s (bump q cls unit i n) cls unit i n := by
  refine counted_of ?_
  rw [cntAt_bump_same, h]

theorem viewBytes_readCounted (s : State) (x : DmaChan) (a n : Nat) : viewBytes (readCounted s x) a n = viewBytes s a n := rfl

/-- A granule as a move of this device keeps it until it writes (R328). -/
def gotGran (s : State) (r : DmaRun) (g : Nat) : Tab (List Byte × Nat) :=
  tabSet g (viewBytes s (g * 64) 64, (markOf s g).toNat) r.got

/-- The run after a granule was taken and its read has returned. -/
def takenRun (s : State) (r : DmaRun) (g : Nat) (rest : List Nat) : DmaRun :=
  { r with reads := r.reads - 1, todo := rest, got := gotGran s r g }

/-- The state with a granule taken. -/
def granTaken (s : State) (c : Nat) (x : DmaChan) (r : DmaRun) (g : Nat) : State :=
  setDma (readCounted s x) c { x with run := some { r with got := gotGran s r g } }

/-- The return of the read of a granule takes it, and is then the return of that read in the run as it stands. -/
theorem localReturn_next {s q : State} {c g : Nat} {rest : List Nat} {x : DmaChan} {r r' : DmaRun} (hstop : x.stopping = false)
    (htodo : r.todo = g :: rest) (ht : takeGran (readCounted s x) c (chanMover x) r g = q) (hq : runAt q c = some r') :
    localReturn s c (chanMover x) r =
      readBack q c (chanMover x) { r' with reads := r'.reads - 1, todo := r'.todo.drop 1 } := by
  have ht' : takeGran (bump s 2 (chanMover x).engine 1 1) c (chanMover x) r g = q := ht
  simp only [localReturn, show (chanMover x).stopping = false from hstop, htodo, ht', hq]

/-- A granule that its target admits is taken as it stands (R328). -/
theorem localReturn_takes {s : State} {c g : Nat} {rest : List Nat} {x : DmaChan} {r : DmaRun} (hx : tabGet? s.dma c = some x)
    (hstop : x.stopping = false) (htodo : r.todo = g :: rest) (hgot : tabGet? r.got g = none)
    (hcache : (fieldAt r.desc 0 1).testBit 2 = false) (hok : accessStatus s x.dom false (g * 64) 64 = .ok) :
    localReturn s c (chanMover x) r = readBack (granTaken s c x r g) c (chanMover x) (takenRun s r g rest) := by
  have hxc : tabGet? (readCounted s x).dma c = some x := hx
  have hacc : access (readCounted s x) x.dom false (g * 64) 64 = (readCounted s x, .ok) := by
    rw [access_ok (by rw [accessStatus_readCounted, hok]; decide), accessStatus_readCounted, hok]
  have hread : readGran (readCounted s x) (chanMover x) (bitAt (fieldAt r.desc 0 1) 2) g =
      (readCounted s x, viewBytes s (g * 64) 64, (markOf s g).toNat) := by
    rw [readGran, show bitAt (fieldAt r.desc 0 1) 2 = false from hcache]
    rfl
  have htake : takeGran (readCounted s x) c (chanMover x) r g = granTaken s c x r g := by
    simp only [takeGran, hgot, Option.isSome_none, Bool.false_eq_true, if_false,
      show (chanMover x).dom = x.dom from rfl, hacc, if_true, hread]
    exact setRunAt_dma hxc _
  have hrun : runAt (granTaken s c x r g) c = some { r with got := gotGran s r g } := runAt_dma (dma_setDma_same _ _ _)
  rw [localReturn_next hstop htodo htake hrun]
  simp only [takenRun, htodo, List.drop_one, List.tail_cons]

theorem granTaken_dma (s : State) (c : Nat) (x : DmaChan) (r : DmaRun) (g : Nat) :
    tabGet? (granTaken s c x r g).dma c = some { x with run := some { r with got := gotGran s r g } } :=
  dma_setDma_same _ _ _

/-- The return of one of several reads sets the run alone. -/
theorem readBack_more {s : State} {c : Nat} {x y : DmaChan} {r : DmaRun} (hx : tabGet? s.dma c = some y)
    (hstop : x.stopping = false) (hmore : r.reads ≠ 0 ∨ r.status ≠ .ok) :
    readBack s c (chanMover x) r = setDma s c { y with run := some r } := by
  have h : ¬ (r.reads = 0 ∧ r.status = .ok) := fun ⟨h1, h2⟩ => hmore.elim (· h1) (· h2)
  rw [readBack, if_neg (by rw [show (chanMover x).stopping = false from hstop]; decide), if_neg h, setRunAt_dma hx]

/-! ### A read that is refused -/

/-- A refused access sets the channel's run, with what is in flight awaited, and leaves every byte that the descriptor does
not name (R332). -/
theorem failReads_leaves {s : State} {c : Nat} {x : DmaChan} {r : DmaRun} (m : Mover) (st : Status) (n : Nat)
    (hx : tabGet? s.dma c = some x) (hs : r.status = .ok) :
    RunSet c x s (failReads s c m r st n) (fun r' => ∃ k, r' = { r with status := st, todo := [], reads := k }) ∧
      SpoilsOnly r s (failReads s c m r st n) := by
  unfold failReads
  generalize hd : dropWaiting s c = d
  obtain ⟨q, w, k⟩ := d
  have hq : q = (dropWaiting s c).1 := by rw [hd]
  have hmove : MoveOnly s q := hq ▸ dropWaiting_move s c
  have hdma : q.dma = s.dma := hq ▸ dropWaiting_dma s c
  have hmem : q.mem = s.mem := hq ▸ dropWaiting_mem s c
  dsimp only
  generalize hp : (if st = .denied ∨ st = .unmapped ∨ st = .islandOff then spoilDest q m r else q) = p
  have key : MoveOnly s p ∧ p.dma = s.dma ∧ SpoilsOnly r s p := by
    rw [← hp]
    split
    · obtain ⟨hm, hd', hb⟩ := spoilDest_only q m r
      refine ⟨hmove.trans hm, hd'.trans hdma, fun a ha => ?_⟩
      rw [hb a (by rw [hmem]; exact ha), hmem]
    · exact ⟨hmove, hdma, fun a _ => by rw [hmem]⟩
  obtain ⟨hm, hd', hb⟩ := key
  rw [hs, if_pos rfl]
  exact ⟨.of hx hm hd' ⟨_, rfl⟩, fun a ha => by rw [setRunAt_mem]; exact hb a ha⟩

/-- A granule that its target refuses ends the descriptor (R332). -/
theorem localReturn_refused {s : State} {c g : Nat} {rest : List Nat} {x : DmaChan} {r : DmaRun} {st : Status}
    (hx : tabGet? s.dma c = some x) (hstop : x.stopping = false) (htodo : r.todo = g :: rest)
    (hgot : tabGet? r.got g = none) (hs : r.status = .ok) (hst : accessStatus s x.dom false (g * 64) 64 = st) (hne : st ≠ .ok) :
    RunSet c x s (localReturn s c (chanMover x) r) (fun r' => ∃ k, r' = { r with status := st, todo := [], reads := k }) ∧
      SpoilsOnly r s (localReturn s c (chanMover x) r) := by
  have hxc : tabGet? (readCounted s x).dma c = some x := hx
  obtain ⟨q, hq⟩ : ∃ q, q = (access (readCounted s x) x.dom false (g * 64) 64).1 := ⟨_, rfl⟩
  have hev : EventsOnly (readCounted s x) q := hq ▸ access_only _ _ _ _ _
  have hacc : access (readCounted s x) x.dom false (g * 64) 64 = (q, st) := by
    rw [hq]
    simp only [access, accessStatus_readCounted, hst]
  have hxq : tabGet? q.dma c = some x := by rw [hev.doubt.dma]; exact hx
  have hmq : q.mem = s.mem := hev.doubt.mem
  obtain ⟨⟨hm, ⟨r', ⟨k, rfl⟩, hr'⟩, hk⟩, hb⟩ := failReads_leaves (chanMover x) st (min r.reads (chanMover x).tags) hxq hs
  have htake : takeGran (readCounted s x) c (chanMover x) r g =
      failReads q c (chanMover x) r st (min r.reads (chanMover x).tags) := by
    simp only [takeGran, hgot, Option.isSome_none, Bool.false_eq_true, if_false,
      show (chanMover x).dom = x.dom from rfl, hacc, hne]
  generalize failReads q c (chanMover x) r st (min r.reads (chanMover x).tags) = f at *
  have hlr : localReturn s c (chanMover x) r =
      setDma f c { x with run := some { r with status := st, todo := [], reads := k - 1 } } := by
    rw [localReturn_next hstop htodo htake (runAt_dma hr')]
    exact (readBack_more hr' hstop (.inr hne)).trans rfl
  rw [hlr]
  have hsq : MoveOnly s q := MoveOnly.trans (EventsOnly.bump s 2 x.engine 1 1).move hev.move
  have hmove : MoveOnly s f := hsq.trans hm
  refine ⟨⟨hmove.trans (.setDma f c _), ⟨_, ⟨_, rfl⟩, dma_setDma_same _ _ _⟩, fun j hj => ?_⟩, fun a ha => ?_⟩
  · rw [dma_setDma_other _ _ hj, hk j hj, hev.doubt.dma]
    rfl
  · have h := hb a (by rw [hmq]; exact ha)
    rw [hmq] at h
    exact h

/-! ### The last read of a move -/

theorem isRemote_bump (s : State) (cls u i n : Nat) (t : TDesc) : isRemote (bump s cls u i n) t = isRemote s t := by
  unfold isRemote bump
  rfl

/-- A run that has written its destination on this device, `cs` its cells. -/
def Wrote (r : DmaRun) (cs : List (Nat × Byte)) (r' : DmaRun) : Prop :=
  r'.reads = r.reads ∧ r'.written = true ∧ r'.desc = r.desc ∧ r'.status = r.status ∧ r'.bytes = (cs.map (·.1)).eraseDups.length

/-- A move whose destination takes every write stores its cells (R328). -/
theorem performMove_writes {s : State} {c : Nat} {x y : DmaChan} {r : DmaRun}
    {es : List ((Nat × Nat) × Option (Nat × Nat) × Bool)} {cs : List (Nat × Byte)} (hx : tabGet? s.dma c = some y)
    (hes : elemsOf r = some es) (hrem : isRemote s (tdesc r.dst) = false)
    (hcs : cs = moveCells (r.got.foldl (fun m e => memWrite m (e.1 * 64) e.2.1) []) (tdesc r.dst).etype s.mem es)
    (hbar : firstBar s x.dom true (cellGrans cs) = none) :
    ∃ bad r' q, performMove s c (chanMover x) r = setDma (storeCells q cs bad) c { y with run := some r' } ∧ Wrote r cs r' ∧
      EventsOnly s q := by
  subst hcs
  simp only [performMove, hes, hrem, Bool.false_eq_true, if_false, show firstBar s (chanMover x).dom true _ = none from hbar,
    isRemote_bump]
  generalize hq : bump (bump (bump s 2 (chanMover x).engine 5 _) 2 (chanMover x).engine 2 _) 2 (chanMover x).engine 7 _ = q
  have hev : EventsOnly s q := by
    rw [← hq]
    exact ((EventsOnly.bump s _ _ _ _).trans (.bump _ _ _ _ _)).trans (.bump _ _ _ _ _)
  have hd : ∀ cs bad, tabGet? (storeCells q cs bad).dma c = some y := fun cs bad => by rw [storeCells_dma, hev.doubt.dma, hx]
  rw [setRunAt_dma (hd _ _)]
  generalize moveCells _ _ s.mem es = cs
  exact ⟨_, _, q, rfl, ⟨rfl, rfl, rfl, rfl, rfl⟩, hev⟩

theorem cntAt_setDma (s : State) (c : Nat) (x : DmaChan) (k : Nat) : cntAt (setDma s c x) k = cntAt s k := rfl

theorem counted_setDma {s q : State} {cls u i n : Nat} (c : Nat) (x : DmaChan) (h : counted s q cls u i n) :
    counted s (setDma q c x) cls u i n := h

theorem RunsWith.readCounted {c : Nat} {x y : DmaChan} {r : DmaRun} {s t : State} (h : RunsWith c x r (readCounted s y) t) :
    RunsWith c x r s t := h

theorem readCounted_event (s : State) (x : DmaChan) : EventsOnly s (readCounted s x) := .bump s _ _ _ _

/-- What granting a granule to a run leaves for the checks of later accesses. -/
theorem granTaken_guard (s : State) (c g : Nat) (x y : DmaChan) (r : DmaRun) :
    let b := setDma (granTaken s c x r g) c y
    b.ddr = s.ddr ∧ b.islands = s.islands ∧ b.rst = s.rst ∧ b.fw = s.fw ∧ b.trace.chans = s.trace.chans ∧ b.mem = s.mem ∧
      b.inst = s.inst := by
  simp [granTaken, readCounted, bump]

/-- One of several reads takes its granule and counts. -/
theorem localReturn_more {s : State} {c g : Nat} {rest : List Nat} {x : DmaChan} {r : DmaRun} (hx : tabGet? s.dma c = some x)
    (hstop : x.stopping = false) (htodo : r.todo = g :: rest) (hgot : tabGet? r.got g = none)
    (hcache : (fieldAt r.desc 0 1).testBit 2 = false) (hok : accessStatus s x.dom false (g * 64) 64 = .ok) (hn : 2 ≤ r.reads) :
    let t := localReturn s c (chanMover x) r
    t = { s with dma := t.dma, trace := t.trace } ∧ counted s t 2 x.engine 1 1 ∧
      tabGet? t.dma c = some { x with run := some (takenRun s r g rest) } := by
  have hne : (takenRun s r g rest).reads ≠ 0 := by
    show r.reads - 1 ≠ 0
    omega
  have ht : localReturn s c (chanMover x) r = setDma (granTaken s c x r g) c { x with run := some (takenRun s r g rest) } := by
    rw [localReturn_takes hx hstop htodo hgot hcache hok, readBack_more (granTaken_dma s c x r g) hstop (.inl hne)]
  intro t
  obtain ⟨ho, hc, -⟩ := (RunsWith.setDma (y := { x with run := some { r with got := gotGran s r g } })
    (RunsWith.of c x (takenRun s r g rest) (granTaken s c x r g))).readCounted
  rw [show t = _ from ht]
  exact ⟨ho, counted_setDma (q := granTaken s c x r g) c _ (counted_setDma (q := readCounted s x) c _
    (counted_bump s 2 x.engine 1 1)), hc⟩

/-- The last read carries out the move (R328). -/
theorem localReturn_last {s : State} {c g : Nat} {rest : List Nat} {x : DmaChan} {r : DmaRun}
    {es : List ((Nat × Nat) × Option (Nat × Nat) × Bool)} {cs : List (Nat × Byte)} (hx : tabGet? s.dma c = some x)
    (hstop : x.stopping = false) (htodo : r.todo = g :: rest) (hgot : tabGet? r.got g = none)
    (hcache : (fieldAt r.desc 0 1).testBit 2 = false) (hs : r.status = .ok)
    (hok : accessStatus s x.dom false (g * 64) 64 = .ok) (hn : r.reads = 1) (hrem : isRemote s (tdesc r.dst) = false)
    (hes : elemsOf r = some es)
    (hcs : cs = moveCells ((gotGran s r g).foldl (fun m e => memWrite m (e.1 * 64) e.2.1) []) (tdesc r.dst).etype s.mem es)
    (hbar : firstBar s x.dom true (cellGrans cs) = none) :
    ∃ r', RunSet c x s (localReturn s c (chanMover x) r) (· = r') ∧ Wrote (takenRun s r g rest) cs r' ∧
      (localReturn s c (chanMover x) r).mem = cellsInto s.mem cs ∧ StoreOnly s (localReturn s c (chanMover x) r) := by
  have hzero : (takenRun s r g rest).reads = 0 := by
    show r.reads - 1 = 0
    omega
  have hlr : localReturn s c (chanMover x) r = performMove
      (setDma (granTaken s c x r g) c { x with run := some (takenRun s r g rest) }) c (chanMover x) (takenRun s r g rest) := by
    rw [localReturn_takes hx hstop htodo hgot hcache hok, readBack,
      if_neg (by rw [show (chanMover x).stopping = false from hstop]; decide), if_pos ⟨hzero, hs⟩,
      setRunAt_dma (granTaken_dma s c x r g)]
  have hbase : StoreOnly s (setDma (granTaken s c x r g) c { x with run := some (takenRun s r g rest) }) :=
    (readCounted_event s x).reads.store.trans ((StoreOnly.setDma _ c _).trans (.setDma _ c _))
  have hdma : ∀ k, k ≠ c →
      tabGet? (setDma (granTaken s c x r g) c { x with run := some (takenRun s r g rest) }).dma k = tabGet? s.dma k :=
    fun k hk => by rw [dma_setDma_other _ _ hk, granTaken, dma_setDma_other _ _ hk]; rfl
  obtain ⟨hddr, hisl, hrst, hfw, hch, hmem, hinst⟩ := granTaken_guard s c g x { x with run := some (takenRun s r g rest) } r
  have hxb := dma_setDma_same (granTaken s c x r g) c { x with run := some (takenRun s r g rest) }
  generalize setDma (granTaken s c x r g) c { x with run := some (takenRun s r g rest) } = b at *
  have hrem' : isRemote b (tdesc (takenRun s r g rest).dst) = false := by
    unfold isRemote at hrem ⊢
    rw [hinst]
    exact hrem
  have hbar' : firstBar b x.dom true (cellGrans cs) = none := by rw [firstBar_congr hddr hisl hrst hfw hch, hbar]
  obtain ⟨bad, r', q, hp, hw, hq⟩ := performMove_writes (x := x) hxb (r := takenRun s r g rest) hes hrem' (by rw [hcs, hmem]; rfl) hbar'
  rw [hlr, hp]
  have hst := (hbase.trans hq.reads.store).trans ((storeCells_store q cs bad).trans (.setDma _ c { x with run := some r' }))
  refine ⟨r', ⟨hst.move, ⟨r', rfl, dma_setDma_same _ _ _⟩, fun k hk => ?_⟩, hw, ?_, hst⟩
  · rw [dma_setDma_other _ _ hk, storeCells_dma, hq.doubt.dma, hdma k hk]
  · show (storeCells q cs bad).mem = _
    rw [storeCells_mem, hq.doubt.mem, hmem]

/-- Settles O32: the stop's discard, the granule that is taken, the refusal, and the write after the last read. -/
theorem dmaReadReturnsThenWrites : Obligations.DmaReadReturnsThenWrites := by
  unfold Obligations.DmaReadReturnsThenWrites
  intro s0 s c x r ecc hpl hx hr hb hl he hecc
  have hexec : ∀ hn : 1 ≤ r.reads, exec (.dmaReadReturn c ecc) s0 = .next (localReturn s c (chanMover x) r) := fun hn => by
    show Host.Outcome.next (doDmaReadReturn c (plant ecc s0)) = _
    rw [hpl, doDmaReadReturn_local hx hr hb hl he hecc hn]
  refine ⟨fun hstop hn => ⟨_, hexec hn, ?_⟩, fun g rest htodo hgot hstop hcache hs => ?_⟩
  · rw [localReturn_stopped hx hstop]
    obtain ⟨ht, hc, -⟩ := ((RunsWith.of c x { r with reads := r.reads - 1 } (readCounted s x)).bump 2 x.engine 6 64).readCounted
    refine ⟨ht, hc,
      counted_two _ _ _ _ _ _ (by decide) (counted_setDma (q := readCounted s x) c _ (counted_bump s 2 x.engine 1 1)),
      counted_from _ _ _ _ ?_⟩
    rw [cntAt_setDma, readCounted, cntAt_bump_other _ _ _ _ _ (by omega)]
  intro got
  refine ⟨fun hmore hok => ⟨_, hexec (by omega), localReturn_more hx hstop htodo hgot hcache hok hmore⟩, fun st hn hst hne => ?_, fun es hn hrest hok hrem hes cs hcs hbar => ?_⟩
  · obtain ⟨⟨hm, ⟨r', ⟨k, rfl⟩, hr'⟩, hk⟩, hbytes⟩ := localReturn_refused hx hstop htodo hgot hs hst hne
    exact ⟨_, _, hexec hn, hr', rfl, rfl, rfl, rfl, hk, hm, hbytes⟩
  · obtain ⟨r', ⟨-, ⟨r'', rfl, hr⟩, hk⟩, ⟨hrd, hwr, hdesc, hst, hbytes⟩, hmem, hd⟩ :=
      localReturn_last hx hstop htodo hgot hcache hs hok hn hrem hes hcs hbar
    exact ⟨_, r'', hexec (by omega), hr, hk, by rw [hrd, takenRun, hn], hwr, hdesc, hst.trans hs, hbytes, hmem, hd,
      fun a ha => by rw [hmem, memByte_cellsInto _ _ ha]⟩

end Sys2Proof.Machine
end

section
/-! PROOFS. The commands of the safety monitor (R426, R431, R434, R493) with O49. -/

namespace Sys2Proof.Machine

open Sys2Proof

/-- A little-endian field within a record is what was written there. -/
theorem fieldAt_field {a : List Byte} {off : Nat} (h : a.length = off) (k n : Nat) (b : List Byte) :
    fieldAt (a ++ (leBytes k n ++ b)) off k = n % 2 ^ (8 * k) := by
  rw [fieldAt_append_right _ _ (Nat.le_of_eq h), h, Nat.sub_self,
    fieldAt_append_left _ (Nat.le_of_eq (by rw [length_leBytes, Nat.zero_add])), fieldAt_leBytes]

/-- A field of one of several records of one length. -/
theorem fieldAt_records {α : Type} {f : α → List Byte} {n : Nat} (hf : ∀ x, (f x).length = n) {l : List α} {k : Nat} {x : α}
    (hk : l[k]? = some x) {off w : Nat} (hoff : off + w ≤ n) : fieldAt (l.flatMap f) (n * k + off) w = fieldAt (f x) off w := by
  induction l generalizing k with
  | nil => cases hk
  | cons y l ih =>
    rw [List.flatMap_cons]
    cases k with
    | zero =>
      cases hk
      rw [Nat.mul_zero, Nat.zero_add, fieldAt_append_left _ (by rw [hf]; exact hoff)]
    | succ k =>
      have hsub : n * (k + 1) + off - (f y).length = n * k + off := by rw [hf, Nat.mul_succ]; omega
      rw [fieldAt_append_right _ _ (by rw [hf, Nat.mul_succ]; omega), hsub, ih hk]

theorem length_records {α : Type} {f : α → List Byte} {n : Nat} (hf : ∀ x, (f x).length = n) (l : List α) :
    (l.flatMap f).length = n * l.length := by
  induction l with
  | nil => rfl
  | cons y l ih => rw [List.flatMap_cons, List.length_append, hf, ih, List.length_cons, Nat.mul_succ]; omega

/-! ### The policy -/

theorem anyActive_false {s : State} (h : ∀ e ∈ s.graphs, e.2.st = .loaded) : anyActive s = false := by
  rw [anyActive, tabAny, List.any_eq_false]
  intro e he
  simp [h e he]

theorem anyActive_true {s : State} (h : ∃ e ∈ s.graphs, e.2.st ≠ .loaded) : anyActive s = true := by
  obtain ⟨e, he, hne⟩ := h
  exact List.any_eq_true.2 ⟨e, he, by simpa using hne⟩

/-- SAFETY_ARM of a policy that passes its checks waits for the graphs alone. -/
theorem cmdSafetyArm_checked {s : State} {pol : List Byte} (hcrc : crc32c (pol.take 28) = fieldAt pol 28 4)
    (hres : policyReserved pol = none) (hpar : policyParam pol = none) :
    cmdSafetyArm pol s = if anyActive s || (policyMoves s pol && ! s.graphs.isEmpty) then refuse s .busy
      else okDone (setPolicy s pol) := by
  simp only [cmdSafetyArm, policyCheck, hcrc, beq_self_eq_true, Bool.not_true, Bool.false_eq_true, if_false, hres, hpar]

theorem setPolicy_leaves (s : State) (pol : List Byte) :
    let t := setPolicy s pol
    t = { s with safety := t.safety } ∧ t.safety.armed = true ∧ t.safety.policy = pol ∧ t.safety.conds = s.safety.conds ∧
      t.safety.fbc = s.safety.fbc ∧ t.safety.doubtLow = doubtPin t := by
  unfold setPolicy
  dsimp only
  split <;> exact ⟨rfl, rfl, rfl, rfl, rfl, rfl⟩

/-! ### Conditions -/

/-- A replaced condition hides those of its source and scope; the others stay. -/
theorem of_mem_putCond {cs : List Cond} {c d : Cond} (h : d ∈ putCond cs c) :
    d = c ∨ (d ∈ cs ∧ isCond c.source c.kind c.scope d = false) := by
  unfold putCond at h
  split at h
  · obtain ⟨e, he, hd⟩ := List.mem_map.1 h
    by_cases hc : isCond c.source c.kind c.scope e = true
    · rw [if_pos hc] at hd
      exact .inl hd.symm
    · rw [if_neg hc] at hd
      exact .inr ⟨hd ▸ he, by rw [← hd]; simpa using hc⟩
  · next hany =>
    rcases List.mem_append.1 h with hm | hm
    · refine .inr ⟨hm, ?_⟩
      refine Bool.eq_false_iff.2 fun hc => ?_
      exact hany (List.any_eq_true.2 ⟨d, hm, hc⟩)
    · exact .inl (List.mem_singleton.1 hm)

/-- A condition with its history emptied. -/
def cleared (c : Cond) : Cond := { c with st := .clear, passes := 0, fails := [] }

theorem clearCond_only (s : State) (c : Cond) : DoubtOnly s (clearCond s c) := by
  unfold clearCond
  split
  · rfl
  · exact ((DoubtOnly.conds s _).trans (postEvent_only _ _ _ _ _).doubt).trans (updateDoubt_only _)

theorem clearCond_conds {s : State} {c : Cond} (h : c.st ≠ .clear) : 
    (clearCond s c).safety.conds = putCond s.safety.conds (cleared c) := by
  have he := (postEvent_only { s with safety := { s.safety with conds := putCond s.safety.conds (cleared c) } } 0x0502 11 0
    (doubtArg (cleared c) (intervalOf s s.time))).safety
  simp only [clearCond, if_neg h]
  exact congrArg SafetyUnit.conds he

/-- What a list of open conditions, each cleared, leaves open is no condition of theirs. -/
theorem clearAll_leaves (l : List Cond) (s : State) (hl : ∀ c ∈ l, c.st ≠ .clear) :
    DoubtOnly s (l.foldl clearCond s) ∧
      ∀ d ∈ (l.foldl clearCond s).safety.conds, d.st ≠ .clear →
        d ∈ s.safety.conds ∧ ∀ c ∈ l, isCond c.source c.kind c.scope d = false := by
  induction l generalizing s with
  | nil => exact ⟨rfl, fun d hd _ => ⟨hd, by simp⟩⟩
  | cons c l ih =>
    obtain ⟨ho, hc⟩ := ih (clearCond s c) (fun e he => hl e (by simp [he]))
    refine ⟨(clearCond_only s c).trans ho, fun d hd hst => ?_⟩
    obtain ⟨hm, hn⟩ := hc d hd hst
    rw [clearCond_conds (hl c (by simp))] at hm
    rcases of_mem_putCond hm with rfl | ⟨hs, hk⟩
    · exact absurd rfl hst
    · exact ⟨hs, List.forall_mem_cons.2 ⟨hk, hn⟩⟩

/-- The condition that SAFETY_CLEAR clears is clear afterwards. -/
theorem clearCond_clears {s : State} {row kind scope : Nat} {c d : Cond}
    (hc : (s.safety.conds.find? (isCond row kind scope)).getD (condNew row kind scope) = c)
    (hd : (clearCond s c).safety.conds.find? (isCond row kind scope) = some d) : d.st = .clear := by
  by_cases hst : c.st = .clear
  · rw [clearCond, if_pos hst] at hd
    rw [hd] at hc
    exact (congrArg Cond.st hc).trans hst
  · rw [clearCond_conds hst] at hd
    have hk : c.source = row ∧ c.kind = kind ∧ c.scope = scope := by
      rw [← hc]
      exact isCond_iff.1 (find_isCond _ _ _ _)
    obtain ⟨rfl, rfl, rfl⟩ := hk
    rcases of_mem_putCond (List.mem_of_find?_eq_some hd) with rfl | ⟨-, hn⟩
    · rfl
    · have hp := List.find?_some hd
      rw [show isCond c.source c.kind c.scope d = false from hn] at hp
      cases hp

theorem length_condEntry (s : State) (c : Cond) : (condEntry s c).length = 16 := by simp [condEntry]

/-- Settles O49: each command past its checks. -/
theorem safetyCommandsHaveTheirEffect : Obligations.SafetyCommandsHaveTheirEffect := by
  unfold Obligations.SafetyCommandsHaveTheirEffect
  refine ⟨fun s h pol hacc hlen hcrc hres hpar => ?_, fun s h hacc => ⟨fun hl => ?_, fun ha => ?_⟩,
    fun s h hacc hlen => ?_, fun s h row kind scope hacc hrow hrow' hkind hscope => ?_, fun s h kind scope hacc => ?_,
    fun s h pipe addr t hacc hp hlo hhi hread hcrc hres hpar hpipe => ?_, fun s h pipe t hacc hp ht => ?_⟩
  · have hexec : exec (.safetyArm h pol) s = .next (answerRow h 0x0500 (cmdSafetyArm pol s)) := by
      have he : exec (.safetyArm h pol) s = .next (answerRow h 0x0500 (cmdSafetyArm (padTo 32 pol) s)) :=
        congrArg _ (runCommand_accepted hacc _)
      rwa [padTo_of_length hlen] at he
    rw [cmdSafetyArm_checked hcrc hres hpar] at hexec
    refine ⟨fun hl hm => ⟨setPolicy s pol, ?_, setPolicy_leaves s pol⟩, fun ha => ?_⟩
    · have hb : (anyActive s || (policyMoves s pol && ! s.graphs.isEmpty)) = false := by
        rcases hm with hm | hm <;> simp [anyActive_false hl, hm]
      rw [answersOk, hexec, if_neg (by rw [hb]; decide)]
      rfl
    · rw [hexec, anyActive_true ha, Bool.true_or, if_pos rfl]
      rfl
  · have hexec : exec (.safetyDisarm h) s = .next (answerRow h 0x0501 (cmdSafetyDisarm s)) :=
      congrArg _ (runCommand_accepted hacc _)
    refine ⟨updateDoubt { s with safety := { s.safety with armed := false } }, ?_, rfl, rfl⟩
    rw [answersOk, hexec, cmdSafetyDisarm, anyActive_false hl]
    rfl
  · have hexec : exec (.safetyDisarm h) s = .next (answerRow h 0x0501 (cmdSafetyDisarm s)) :=
      congrArg _ (runCommand_accepted hacc _)
    rw [hexec, cmdSafetyDisarm, anyActive_true ha, if_pos rfl]
    rfl
  · intro n
    have hexec : exec (.safetyStatus h) s = .next (answerRow h 0x0502 (cmdSafetyStatus s)) :=
      congrArg _ (runCommand_accepted hacc _)
    refine ⟨_, hexec, ?_, ?_, ?_, ?_, ?_⟩
    all_goals simp only [List.append_assoc]
    · rw [List.take_append_of_le_length (Nat.le_of_eq hlen.symm), List.take_of_length_le (Nat.le_of_eq hlen)]
    · simp only [List.length_append, length_leBytes, length_records (length_condEntry _), hlen]
      omega
    · rw [fieldAt_field hlen]
      cases s.safety.armed <;> cases s.safety.smFault <;> cases s.safety.doubtLow <;> rfl
    · rw [fieldAt_append_right _ _ (by rw [hlen]; decide), hlen, fieldAt_field (length_leBytes 4 _)]
      decide
    · rw [fieldAt_append_right _ _ (by rw [hlen]; decide), hlen, ← List.append_assoc (leBytes 4 _),
        fieldAt_field (by simp)]
  · intro c
    have hexec : exec (.safetyClear h row kind scope) s = .next (answerRow h 0x0503 (cmdSafetyClear row kind scope s)) :=
      congrArg _ (runCommand_accepted hacc _)
    have hne : row ≠ rowStall := by
      rw [rowStall]
      omega
    have hcmd : cmdSafetyClear row kind scope s = if clearBlocked s c then refuse s .busy
        else okWith (clearCond s c) (leBytes 4 0) := by
      rw [cmdSafetyClear, if_neg (by omega), if_neg (by omega), if_neg (by omega), if_neg (by omega)]
      simp only [hne, decide_false, Bool.false_or]
      rfl
    refine ⟨fun hb => ⟨clearCond s c, ?_, clearCond_only s c, fun d hd => clearCond_clears rfl hd⟩, fun hb => ?_⟩
    · rw [answersOk, hexec, hcmd, if_neg (by rw [hb]; decide)]
      rfl
    · rw [hexec, hcmd, if_pos hb]
      rfl
  · have hexec : exec (.safetyClear h 255 kind scope) s = .next (answerRow h 0x0503 (cmdSafetyClear 255 kind scope s)) :=
      congrArg _ (runCommand_accepted hacc _)
    obtain ⟨ho, hc⟩ := clearAll_leaves (s.safety.conds.filter (fun c => c.st != .clear && ! clearBlocked s c)) s
      (fun c hc => by
        have hp := (List.mem_filter.1 hc).2
        simp only [Bool.and_eq_true, bne_iff_ne] at hp
        exact hp.1)
    refine ⟨_, _, hexec, ho, fun d hd hst => ?_, ?_⟩
    · obtain ⟨hs, hn⟩ := hc d hd hst
      refine Decidable.byContradiction fun hb => ?_
      have hself := hn d (List.mem_filter.2 ⟨hs, by simp [hst, hb]⟩)
      rw [isCond_self] at hself
      cases hself
    · rw [fieldAt_append_left _ (by simp [length_leBytes]), fieldAt_leBytes]
  · have hexec : exec (.fbcLoad h pipe 0 addr) s = .next (answerRow h 0x0504 (cmdFbcLoad h pipe 0 addr s)) :=
      congrArg _ (runCommand_accepted hacc _)
    rw [answersOk, hexec, cmdFbcLoad, if_neg (by decide), if_neg (by omega), if_neg (by omega)]
    simp only [fbcLen, hread, ne_eq, not_true_eq_false, if_false, hcrc, hres, hpar, hpipe, Bool.false_eq_true, okDone]
    rfl
  · have hexec : exec (.fbcRead h pipe 0) s = .next (answerRow h 0x0505 (cmdFbcRead pipe 0 s)) :=
      congrArg _ (runCommand_accepted hacc _)
    rw [answersOk, hexec, cmdFbcRead, ht, if_neg (by simp), if_neg (by decide), if_neg (by omega), tabGet, ht]
    rfl

end Sys2Proof.Machine
end

section
/-! PROOFS. The commands of a loaded graph (R190, R214 to R218, R492) with O39. -/

namespace Sys2Proof.Machine

open Sys2Proof

/-! ### Tables -/

/-- A table whose entries are changed in place. -/
theorem tabGet?_map {α : Type} {F : Nat → α → α} {h : Nat × α → Nat × α} (hF : ∀ e, h e = (e.1, F e.1 e.2)) (t : Tab α) (k : Nat) :
    tabGet? (t.map h) k = (tabGet? t k).map (F k) := by
  induction t with
  | nil => rfl
  | cons e t ih =>
    rw [List.map_cons, hF]
    by_cases hk : e.1 = k
    · subst hk; simp [tabGet?]
    · simp [tabGet?, hk, ih]

/-- The entries of one graph changed in place. -/
theorem tabGet?_mapIf {α : Type} (p : α → Prop) [DecidablePred p] (f : α → α) {t : Tab α} {k : Nat} {y : α}
    (h : tabGet? t k = some y) :
    tabGet? (t.map (fun e => if p e.2 then (e.1, f e.2) else e)) k = some (if p y then f y else y) := by
  rw [tabGet?_map (F := fun _ x => if p x then f x else x) (fun e => by split <;> rfl), h]
  rfl

/-! ### The checks that graph commands share -/

theorem graphCheck_passes {s : State} {g off : Nat} {x : Graph} {allowed busy : Graph → Bool} (hg : g ≤ 15)
    (hx : tabGet? s.graphs g = some x) (ha : allowed x = true) (hb : busy x = false) :
    graphCheck s g 0 off allowed busy = none := by
  rw [graphCheck, hx, if_neg (by simp [ha]), if_neg (by decide), if_neg (by omega), if_neg (by simp [hb])]

theorem graphs_tabModify {s : State} {g : Nat} {x : Graph} (f : Graph → Graph) (hx : tabGet? s.graphs g = some x) :
    tabGet? (tabModify g f s.graphs) g = some (f x) ∧
      ∀ k, k ≠ g → tabGet? (tabModify g f s.graphs) k = tabGet? s.graphs k := by
  have h := fun k => tabGet?_map (F := fun k y => if k = g then f y else y) (h := fun e => if e.1 = g then (e.1, f e.2) else e)
    (fun e => by split <;> rfl) s.graphs k
  constructor
  · rw [tabModify, h, hx]
    simp
  · intro k hk
    rw [tabModify, h]
    cases tabGet? s.graphs k <;> simp [hk]

/-! ### GRAPH_START -/

/-- The state of a started graph (R214). -/
def startedGraph (s : State) (g v : Nat) (x : Graph) (f0 : List Nat) : State :=
  setGraph (resetGraph s g) g { x with
    st := .running, holding := false, stopping := false, salt := v, aborted := 0,
    lanes := (x.lanes.zip f0).map (fun e => startLane e.1 e.2) }

theorem cmdGraphStart_runs {s : State} {g sf salt : Nat} {f0 : List Nat} {x : Graph} (hg : g ≤ 15) (hsf : sf ≤ 1)
    (hx : tabGet? s.graphs g = some x) (hst : x.st = .loaded) (hlen : f0.length = x.lanes.length)
    (hf : ∀ e ∈ x.lanes.zip f0, e.1.remote = false → e.2 = 0) :
    let v := if sf = 1 then salt else s.time % 2 ^ 32
    cmdGraphStart g sf 0 salt f0 s = okWith (startedGraph s g v x f0) (leBytes 4 v) := by
  intro v
  have hfind : (x.lanes.zip f0).findIdx? (fun e => ! e.1.remote && e.2 != 0) = none := by
    rw [List.findIdx?_eq_none_iff]
    intro e he
    cases hr : e.1.remote with
    | true => simp
    | false => simp [hf e he hr]
  have hcheck : graphCheck s g 0 2 (fun g => g.st == .loaded) neverBusy = none :=
    graphCheck_passes hg hx (by simp [hst]) rfl
  have hv : (if bitAt sf 0 then salt else s.time % 2 ^ 32) = v := by
    rcases (show sf = 0 ∨ sf = 1 by omega) with rfl | rfl <;> rfl
  simp only [cmdGraphStart, if_neg (show ¬ 1 < sf by omega), hcheck, hx, hlen, ne_eq, not_true_eq_false, if_false, hfind, hv, startedGraph]

theorem flagOf_resetGraph (s : State) (g f : Nat) :
    flagOf (resetGraph s g) f = if flagGraph s f = some g then { flagOf s f with frame := 0, pend := 0 } else flagOf s f := by
  have h := tabGet?_map (F := fun k (y : Flag) => if flagGraph s k = some g then { y with frame := 0, pend := 0 } else y)
    (h := fun e => if flagGraph s e.1 = some g then (e.1, { e.2 with frame := 0, pend := 0 }) else e)
    (fun e => by dsimp only; split <;> rfl) s.flags f
  unfold flagOf tabGet
  rw [resetGraph, h]
  cases tabGet? s.flags f with
  | none => simp [flagReset]
  | some y => rfl

theorem startedGraph_leaves {s : State} {g v : Nat} {x : Graph} {f0 : List Nat} :
    let t := startedGraph s g v x f0
    t = { s with graphs := t.graphs, nodes := t.nodes, sems := t.sems, flags := t.flags, streams := t.streams,
                 pool := { s.pool with flows := t.pool.flows } } ∧
      (∀ n y, tabGet? s.pool.flows n = some y →
        tabGet? t.pool.flows n = some (if y.graph = g then { y with iterItems := [] } else y)) ∧
      (∀ n y, tabGet? s.streams n = some y → tabGet? t.streams n = some (if y.graph = g then
        { y with active := true, halted := false, next := 0, rearms := [], unread := [] } else y)) ∧
      (∀ k, k ≠ g → tabGet? t.graphs k = tabGet? s.graphs k) ∧
      (∀ n y, tabGet? s.nodes n = some y → tabGet? t.nodes n = some (if y.graph = g then
        { y with cnt0 := y.depInit, cnt1 := y.depInit, iter := 0, run := none, registered := false, reported := false,
                 slips := 0, slipWindow := none } else y)) ∧
      (∀ n y, tabGet? s.sems n = some y → tabGet? t.sems n = some (if y.graph = g then
        { y with count := y.init, blocked := false, signals := 0 } else y)) ∧
      (∀ f, flagOf t f = if flagGraph s f = some g then { flagOf s f with frame := 0, pend := 0 } else flagOf s f) :=
  ⟨rfl, fun _ _ h => tabGet?_mapIf (fun y : Flow => y.graph = g) (fun y => { y with iterItems := [] }) h,
    fun _ _ h => tabGet?_mapIf (fun y : StreamSt => y.graph = g)
      (fun y => { y with active := true, halted := false, next := 0, rearms := [], unread := [] }) h,
    fun _ hk => tabGet?_tabSet_other _ _ hk, fun _ _ h => tabGet?_mapIf (fun y : Node => y.graph = g) startedNode h,
    fun _ _ h => tabGet?_mapIf (fun y : Sem => y.graph = g) (fun y => { y with count := y.init, blocked := false, signals := 0 }) h,
    fun f => flagOf_resetGraph s g f⟩

/-! ### GRAPH_HOLD and its quiescence point -/

theorem quiescent_of {s : State} {g : Nat} {x : Graph} (hn : ∀ e ∈ nodesOf s g, e.2.run = none)
    (hl : ∀ k l, x.lanes[k]? = some l → l.notices = [] ∧ ∀ e ∈ l.open_, iterDone s g k e.1 = true)
    (hp : ∀ e ∈ s.pool.flows, e.2.graph = g → ∀ i ∈ e.2.window, x.holdAcc ≤ i.acc) : quiescent s g x = true := by
  have hnodes : (nodesOf s g).all (fun e => e.2.run.isNone) = true := by
    rw [List.all_eq_true]
    intro e he
    rw [hn e he]
    rfl
  have hlanes : (List.range x.lanes.length).all (fun k => (x.lanes[k]?).elim true (fun l =>
      l.notices.isEmpty && l.open_.all (fun e => iterDone s g k e.1))) = true := by
    rw [List.all_eq_true]
    intro k _
    cases hk : x.lanes[k]? with
    | none => rfl
    | some l =>
      obtain ⟨h1, h2⟩ := hl k l hk
      simp [h1, List.all_eq_true.2 h2]
  have hpool : poolQuiet s g x.holdAcc = true := by
    rw [poolQuiet, tabAll, List.all_eq_true]
    intro e he
    by_cases hg : e.2.graph = g
    · simpa [hg] using hp e he hg
    · simp [hg]
  rw [quiescent, hnodes, hlanes, hpool]
  rfl

/-- An answer to a command that waits leaves the graphs and the nodes. -/
theorem answer_graphs (s : State) (w : WaitKind) (st : Status) (payload : List Byte) :
    (answer s w st payload).graphs = s.graphs ∧ (answer s w st payload).nodes = s.nodes :=
  ⟨(answer_only s w st payload).doubt.graphs, (answer_only s w st payload).doubt.nodes⟩

/-- The state of a graph that is set and the command that waits for it answered. -/
theorem answer_setGraph (s : State) (g : Nat) (x : Graph) (w : WaitKind) (st : Status) (payload : List Byte) :
    let t := answer (setGraph s g x) w st payload
    tabGet? t.graphs g = some x ∧ (∀ k, k ≠ g → tabGet? t.graphs k = tabGet? s.graphs k) ∧ t.nodes = s.nodes ∧
      completesWait s t w st payload := by
  obtain ⟨hg, hn⟩ := answer_graphs (setGraph s g x) w st payload
  exact ⟨by rw [hg]; exact tabGet?_tabSet_same _ _ _, fun k hk => by rw [hg]; exact tabGet?_tabSet_other _ _ hk, hn,
    answer_completes_of (q := setGraph s g x) (s := s) rfl rfl⟩

/-! ### GRAPH_UNLOAD -/

/-- The state without a graph (R218). -/
theorem cmdGraphUnload_done {s : State} {g : Nat} {x : Graph} (hg : g ≤ 15) (hx : tabGet? s.graphs g = some x)
    (hst : x.st = .loaded) : ∃ t, cmdGraphUnload g 0 s = okDone t ∧ tabGet? t.graphs g = none ∧
      (∀ k, k ≠ g → tabGet? t.graphs k = tabGet? s.graphs k) ∧
      (∀ e, (e ∈ t.nodes ↔ e ∈ s.nodes ∧ e.2.graph ≠ g)) ∧ (∀ e, (e ∈ t.sems ↔ e ∈ s.sems ∧ e.2.graph ≠ g)) ∧
      (∀ e, (e ∈ t.binds ↔ e ∈ s.binds ∧ e.2.graph ≠ g)) ∧ (∀ e, (e ∈ t.streams ↔ e ∈ s.streams ∧ e.2.graph ≠ g)) ∧
      (∀ e, (e ∈ t.watches ↔ e ∈ s.watches ∧ e.2.graph ≠ g)) ∧
      (∀ e, (e ∈ t.pool.flows ↔ e ∈ s.pool.flows ∧ e.2.graph ≠ g)) ∧
      t.mem = s.mem ∧ t.marks = s.marks ∧ t.pipes = s.pipes ∧ t.engines = s.engines ∧ t.cores = s.cores ∧
      t.eports = s.eports ∧ t.safety = s.safety ∧ t.power = s.power := by
  have hcheck : graphCheck s g 0 1 (fun g => g.st == .loaded) neverBusy = none :=
    graphCheck_passes hg hx (by simp [hst]) rfl
  simp only [cmdGraphUnload, hcheck, hx]
  refine ⟨_, rfl, ?_⟩
  simp only [List.mem_filter, bne_iff_ne, ne_eq, implies_true, and_self, and_true]
  exact ⟨tabGet?_tabErase_same _ _, fun k hk => tabGet?_tabErase_other _ hk⟩

/-! ### GRAPH_PARAM_SET -/

/-- Granules put one after another stand at their indices, and nowhere else. -/
theorem tabGet?_putRange {α : Type} (f : Nat → α) (b n : Nat) (t : Tab α) :
    (∀ i < n, tabGet? ((List.range n).foldl (fun t i => tabSet (b + i) (f i) t) t) (b + i) = some (f i)) ∧
      ∀ k, (k < b ∨ b + n ≤ k) → tabGet? ((List.range n).foldl (fun t i => tabSet (b + i) (f i) t) t) k = tabGet? t k := by
  induction n with
  | zero => exact ⟨fun i hi => absurd hi (Nat.not_lt_zero i), fun _ _ => rfl⟩
  | succ n ih =>
    obtain ⟨hin, hout⟩ := ih
    simp only [List.range_succ, List.foldl_append, List.foldl_cons, List.foldl_nil]
    refine ⟨fun i hi => ?_, fun k hk => ?_⟩
    · by_cases h : i = n
      · subst h
        exact tabGet?_tabSet_same _ _ _
      · rw [tabGet?_tabSet_other _ _ (by omega)]
        exact hin i (by omega)
    · rw [tabGet?_tabSet_other _ _ (by omega)]
      exact hout k (by omega)

theorem cmdGraphParamSet_edits {s : State} {g k value : Nat} {x : Graph} {e : List Byte} (hg : g ≤ 15)
    (hx : tabGet? s.graphs g = some x) (hst : x.st ≠ .running) (hh : x.holding = false) (hp : x.stopping = false)
    (he : x.edits[k]? = some e) (hfit : editFits e value = true) :
    (fieldAt e 0 1 = 1 → cmdGraphParamSet g 0 k 0 value s = okDone (withEdit s x.base e value)) ∧
    (fieldAt e 0 1 ≠ 1 → ∀ y, tabGet? s.nodes (x.base + fieldAt e 2 2) = some y →
      descBad (withEdit s x.base e value) (x.base + fieldAt e 2 2) y
        (nodeDesc (withEdit s x.base e value) (x.base + fieldAt e 2 2)) = none →
      cmdGraphParamSet g 0 k 0 value s = okDone (withEdit s x.base e value)) := by
  have hcheck : graphCheck s g 0 4 (fun g => g.st == .loaded || g.st == .held) isChanging = none := by
    refine graphCheck_passes hg hx ?_ (by simp [isChanging, hh, hp])
    cases hs : x.st <;> simp_all
  refine ⟨fun h => ?_, fun h y hy hbad => ?_⟩
  · simp only [cmdGraphParamSet, ne_eq, not_true_eq_false, if_false, hcheck, hx, he, hfit, Bool.not_true, Bool.false_eq_true, h,
      if_true]
  · simp only [cmdGraphParamSet, ne_eq, not_true_eq_false, if_false, hcheck, hx, he, hfit, Bool.not_true, Bool.false_eq_true, h,
      hy, hbad]

/-! ### GRAPH_STATUS -/

/-- The status of a graph as a response carries it (R492). -/
def statusBytes (s : State) (g : Nat) (x : Graph) : List Byte :=
  leBytes 1 (gstateIdx x.st) ++ leBytes 1 x.mask ++ leBytes 2 0 ++ leBytes 4 x.salt ++
    ((List.range x.lanes.length).zip x.lanes).flatMap (fun e =>
      leBytes 4 e.2.started ++ leBytes 4 (satTo 32 (laneSlips s g e.1)))

/-- What a status gives for one lane. -/
def laneStatus (s : State) (g : Nat) (e : Nat × Lane) : List Byte :=
  leBytes 4 e.2.started ++ leBytes 4 (satTo 32 (laneSlips s g e.1))

theorem length_laneStatus (s : State) (g : Nat) (e : Nat × Lane) : (laneStatus s g e).length = 8 := by simp [laneStatus]

theorem statusBytes_eq (s : State) (g : Nat) (x : Graph) : statusBytes s g x =
    (leBytes 1 (gstateIdx x.st) ++ leBytes 1 x.mask ++ leBytes 2 0 ++ leBytes 4 x.salt) ++
      ((List.range x.lanes.length).zip x.lanes).flatMap (laneStatus s g) := by
  rfl

theorem statusBytes_fields (s : State) (g : Nat) (x : Graph) :
    (statusBytes s g x).length = 8 + 8 * x.lanes.length ∧ fieldAt (statusBytes s g x) 0 1 = gstateIdx x.st ∧
      fieldAt (statusBytes s g x) 1 1 = x.mask % 256 ∧ fieldAt (statusBytes s g x) 4 4 = x.salt % 2 ^ 32 ∧
      ∀ k l, x.lanes[k]? = some l → fieldAt (statusBytes s g x) (8 + 8 * k) 4 = l.started % 2 ^ 32 := by
  have hhead : (leBytes 1 (gstateIdx x.st) ++ leBytes 1 x.mask ++ leBytes 2 0 ++ leBytes 4 x.salt).length = 8 := by simp
  refine ⟨?_, ?_, ?_, ?_, fun k l hk => ?_⟩
  · rw [statusBytes_eq, List.length_append, hhead, length_records (length_laneStatus s g), List.length_zip, List.length_range,
      Nat.min_self]
  · rw [statusBytes_eq, fieldAt_append_left _ (by rw [hhead]; decide)]
    simp only [List.append_assoc]
    rw [fieldAt_append_left _ (by simp), fieldAt_leBytes]
    cases x.st <;> rfl
  · rw [statusBytes_eq, fieldAt_append_left _ (by rw [hhead]; decide)]
    simp only [List.append_assoc]
    exact fieldAt_field (by simp) _ _ _
  · rw [statusBytes_eq, fieldAt_append_left _ (Nat.le_of_eq hhead.symm)]
    rw [fieldAt_append_right _ _ (by simp), List.length_append, List.length_append, length_leBytes, length_leBytes, length_leBytes]
    exact fieldAt_leBytes _ _
  · have hlt : k < x.lanes.length := (List.getElem?_eq_some_iff.1 hk).1
    have hz : ((List.range x.lanes.length).zip x.lanes)[k]? = some (k, l) := by
      rw [List.getElem?_zip_eq_some]
      exact ⟨by rw [List.getElem?_range hlt], hk⟩
    have h := fieldAt_records (length_laneStatus s g) hz (off := 0) (w := 4) (by decide)
    rw [statusBytes_eq, fieldAt_append_right _ _ (by rw [hhead]; omega), hhead, Nat.add_sub_cancel_left, ← Nat.add_zero (8 * k), h,
      laneStatus, fieldAt_append_left _ (by simp), fieldAt_leBytes]

/-- Settles O39: each command past its checks. -/
theorem graphCommandsStartHoldAndEdit : Obligations.GraphCommandsStartHoldAndEdit := by
  unfold Obligations.GraphCommandsStartHoldAndEdit
  refine ⟨fun s h g sf salt f0 x hacc hg hsf hx hst hlen hf => ?_, fun s h g x hacc hg hx hst hh hp => ?_,
    fun s g x hx hh hp hn hl hq => ?_, fun s h g x hacc hg hx hst hp => ?_, fun s h g x hacc hg hx hst => ?_,
    fun s h g k value x e hacc hg hx hst hh hp he hfit => ?_, fun s h g hacc hg => ⟨fun hx => ?_, fun x hx => ?_⟩⟩
  · intro v
    have hexec : exec (.graphStart h g sf 0 salt f0) s = .next (answerRow h 0x0302 (cmdGraphStart g sf 0 salt f0 s)) :=
      congrArg _ (runCommand_accepted hacc _)
    obtain ⟨ht, hflows, hstreams, hgraphs, hnodes, hsems, hflags⟩ := startedGraph_leaves (s := s) (g := g) (v := v) (x := x) (f0 := f0)
    refine ⟨startedGraph s g v x f0, ?_, ht, hflows, hstreams, tabGet?_tabSet_same _ _ _, hgraphs, hnodes, hsems, hflags⟩
    rw [answersOk, hexec, cmdGraphStart_runs hg hsf hx hst hlen hf]
    rfl
  · have hexec : exec (.graphHold h g 0) s = .next (answerRow h 0x0303 (cmdGraphHold g 0 s)) :=
      congrArg _ (runCommand_accepted hacc _)
    have hcheck : graphCheck s g 0 1 (fun g => g.st == .running) isChanging = none :=
      graphCheck_passes hg hx (by simp [hst]) (by simp [isChanging, hh, hp])
    obtain ⟨hsame, hother⟩ := graphs_tabModify (fun g => { g with holding := true, holdAcc := s.pool.nextAcc }) hx
    refine ⟨{ s with graphs := tabModify g (fun g => { g with holding := true, holdAcc := s.pool.nextAcc }) s.graphs }, ?_, rfl,
      hsame, hother⟩
    rw [answersLater, hexec]
    simp only [cmdGraphHold, hcheck]
  · have hexec : exec (.graphHoldQuiescent g) s = .next (doGraphHoldQuiescent g s) := rfl
    have hdo : doGraphHoldQuiescent g s =
        answer (setGraph s g { x with st := .held, holding := false }) (.graphHold g) .ok [] := by
      simp only [doGraphHoldQuiescent, hx, hh, hp, quiescent_of hn hl hq, Bool.not_false, Bool.and_self, if_true]
    obtain ⟨hsame, hother, -, hw⟩ := answer_setGraph s g { x with st := .held, holding := false } (.graphHold g) .ok []
    rw [← hdo] at hsame hother hw
    exact ⟨_, hexec, hsame, hother, hw⟩
  · have hexec : exec (.graphResume h g 0) s = .next (answerRow h 0x0304 (cmdGraphResume g 0 s)) :=
      congrArg _ (runCommand_accepted hacc _)
    have hcheck : graphCheck s g 0 1 (fun g => g.st == .held) isStopping = none :=
      graphCheck_passes hg hx (by simp [hst]) hp
    obtain ⟨hsame, hother⟩ := graphs_tabModify (fun g => { g with st := .running }) hx
    refine ⟨{ s with graphs := tabModify g (fun g => { g with st := .running }) s.graphs }, ?_, rfl, hsame, hother⟩
    rw [answersOk, hexec]
    simp only [cmdGraphResume, hcheck]
    rfl
  · have hexec : exec (.graphUnload h g 0) s = .next (answerRow h 0x0301 (cmdGraphUnload g 0 s)) :=
      congrArg _ (runCommand_accepted hacc _)
    obtain ⟨t, ht, hrest⟩ := cmdGraphUnload_done hg hx hst
    exact ⟨t, by rw [answersOk, hexec, ht]; rfl, hrest⟩
  · have hexec : exec (.graphParamSet h g 0 k 0 value) s = .next (answerRow h 0x0306 (cmdGraphParamSet g 0 k 0 value s)) :=
      congrArg _ (runCommand_accepted hacc _)
    obtain ⟨hsem, hdesc⟩ := cmdGraphParamSet_edits hg hx hst hh hp he hfit
    refine ⟨fun h1 => ?_, fun h1 y hy => ?_⟩
    · rw [answersOk, hexec, hsem h1, withEdit, if_pos h1]
      rfl
    · intro d n hbad
      have hw : withEdit s x.base e value = putDesc s y d := by
        simp only [withEdit, if_neg h1, hy]
        rfl
      have hcmd := hdesc h1 y hy (by rw [hw]; exact hbad)
      rw [hw] at hcmd
      obtain ⟨hin, hout⟩ := tabGet?_putRange (fun i => bytesAt d (64 * i) 64) y.desc y.descLen s.descs
      exact ⟨putDesc s y d, by rw [answersOk, hexec, hcmd]; rfl, rfl, hin, hout⟩
  · have hexec : exec (.graphStatus h g 0) s = .next (answerRow h 0x0307 (cmdGraphStatus g 0 s)) :=
      congrArg _ (runCommand_accepted hacc _)
    rw [answersOk, hexec]
    simp only [cmdGraphStatus, ne_eq, not_true_eq_false, if_false, if_neg (show ¬ 15 < g by omega), hx, okWith]
  · have hexec : exec (.graphStatus h g 0) s = .next (answerRow h 0x0307 (cmdGraphStatus g 0 s)) :=
      congrArg _ (runCommand_accepted hacc _)
    obtain ⟨hlen, hst, hrest⟩ := statusBytes_fields s g x
    refine ⟨statusBytes s g x, ?_, hlen, ?_, hrest⟩
    · rw [answersOk, hexec]
      simp only [cmdGraphStatus, ne_eq, not_true_eq_false, if_false, if_neg (show ¬ 15 < g by omega), hx, okWith, statusBytes]
    · rw [hst]
      cases x.st <;> rfl

end Sys2Proof.Machine
end

section
/-! PROOFS. What the output of a port changes in the ports of the link (R362, R365, R366): its queue, its packet in progress,
the replay buffer, and credits. -/

namespace Sys2Proof.Machine

open Sys2Proof

/-- A port differs from another only in what its output changes. -/
def OutputOf (l m : LinkPort) : Prop :=
  m = { l with outQ := m.outQ, cur := m.cur, lastVc := m.lastVc, lastSrc := m.lastSrc, replay := m.replay, txSeq := m.txSeq,
               credSent := m.credSent, freed := m.freed }

/-- Every port differs only in what outputs change. -/
def OutputOnly (s t : State) : Prop := ∀ p, OutputOf (lportOf s p) (lportOf t p)

theorem OutputOf.trans {l m n : LinkPort} (h : OutputOf l m) (k : OutputOf m n) : OutputOf l n := by
  unfold OutputOf at *
  rw [h] at k
  exact k

theorem OutputOnly.refl (s : State) : OutputOnly s s := fun _ => rfl

theorem OutputOnly.trans {s t u : State} (h : OutputOnly s t) (k : OutputOnly t u) : OutputOnly s u :=
  fun p => (h p).trans (k p)

theorem OutputOnly.behind {s t u : State} (k : OutputOnly t u) (h : OutputOnly s t) : OutputOnly s u := h.trans k

theorem OutputOnly.of_lports {s t : State} (h : t.lports = s.lports) : OutputOnly s t := fun p => by
  rw [lportOf, lportOf, h]
  rfl

/-- The port that is set and the others. -/
theorem lportOf_setLport_same (s : State) (p : Nat) (l : LinkPort) : lportOf (setLport s p l) p = l := tabGet_tabSet_same _ _ _ _

theorem lportOf_setLport_other (s : State) {p q : Nat} (l : LinkPort) (h : q ≠ p) : lportOf (setLport s p l) q = lportOf s q :=
  tabGet_tabSet_other _ _ _ h

theorem OutputOnly.setLport {s : State} {p : Nat} {l : LinkPort} (h : OutputOf (lportOf s p) l) :
    OutputOnly s (setLport s p l) := by
  intro q
  by_cases hq : q = p
  · subst hq
    rw [lportOf_setLport_same]
    exact h
  · rw [lportOf_setLport_other s l hq]
    rfl

theorem bump_output (s : State) (cls u i n : Nat) : OutputOnly s (bump s cls u i n) := .of_lports rfl

theorem emitTrace_output (s : State) (c u : Nat) (g : Bool) (k a : Nat) (e : List (Nat × Nat × Nat × Nat × Nat)) :
    OutputOnly s (emitTrace s c u g k a e) := by
  refine .of_lports ?_
  unfold emitTrace
  dsimp only
  split <;> split <;> rfl

theorem freeFlits_output (s : State) (p vc n : Nat) : OutputOnly s (freeFlits s p vc n) := by
  unfold freeFlits
  split
  · exact .refl s
  · exact .setLport rfl

theorem startAt_output (s : State) (p i : Nat) : OutputOnly s (startAt s p i) := by
  unfold startAt
  dsimp only
  split
  · exact .refl s
  · exact .setLport rfl

theorem sendFlit_output (s : State) (p : Nat) (o : OutPkt) (f : Nat × Nat × List Byte) (r : List (Nat × Nat × List Byte)) :
    OutputOnly s (sendFlit s p o f r) := by
  unfold sendFlit
  dsimp only
  refine (freeFlits_output _ _ _ _).behind ?_
  split
  · exact (emitTrace_output _ _ _ _ _ _ _).behind ((bump_output _ _ _ _ _).behind (.setLport rfl))
  · exact (bump_output _ _ _ _ _).behind (.setLport rfl)

theorem pumpStep_output {s t : State} {p : Nat} (h : pumpStep s p = some t) : OutputOnly s t := by
  unfold pumpStep at h
  dsimp only at h
  split at h
  · split at h
    · cases h
    · split at h <;> cases h
      exact sendFlit_output _ _ _ _ _
  · simp only [Option.map_eq_some_iff] at h
    obtain ⟨i, -, rfl⟩ := h
    exact startAt_output _ _ _

theorem pumpPort_output (n : Nat) (s : State) (p : Nat) : OutputOnly s (pumpPort n s p) := by
  induction n generalizing s with
  | zero => exact .refl s
  | succ n ih =>
    unfold pumpPort
    split
    · exact .refl s
    · split
      · exact .refl s
      · rename_i h
        exact (pumpStep_output h).trans (ih _)

theorem enqueueAt_output (s : State) (p src : Nat) (x : Packet) : OutputOnly s (enqueueAt s p src x) :=
  (pumpPort_output _ _ _).behind (.setLport rfl)

theorem routePosted_output (s : State) (src : Nat) (x : Packet) : OutputOnly s (routePosted s src x) := by
  unfold routePosted
  dsimp only
  split
  · exact .of_lports rfl
  · split
    · exact .of_lports rfl
    · split
      · exact .of_lports rfl
      · split
        · exact .of_lports rfl
        · exact enqueueAt_output _ _ _ _

theorem placeEvent_output (s : State) (e : EvRec) : OutputOnly s (placeEvent s e) := by
  have hpush : OutputOnly s (pushEvent s e) := .of_lports (by unfold pushEvent; split <;> rfl)
  unfold placeEvent
  split
  · exact hpush
  · split
    · exact hpush
    · split
      · exact .of_lports rfl
      · split
        · exact routePosted_output _ _ _
        · exact (routePosted_output _ _ _).behind ((routePosted_output _ _ _).behind (.of_lports rfl))

/-- An event changes the ports only as outputs do. -/
theorem postEvent_output (s : State) (code cls unit : Nat) (arg : List Byte) : OutputOnly s (postEvent s code cls unit arg) := by
  unfold postEvent
  exact (placeEvent_output _ _).behind ((emitTrace_output _ _ _ _ _ _ _).behind (.of_lports rfl))

end Sys2Proof.Machine
end

section
/-! PROOFS. Installation time (R390 to R396) with O57. -/

namespace Sys2Proof.Machine

open Sys2Proof

/-! ### What reports leave of the installation -/

theorem DoubtOnly.inst {s t : State} (h : DoubtOnly s t) :
    t.inst = { s.inst with arrived := t.inst.arrived, discarded := t.inst.discarded } := by
  unfold DoubtOnly at h
  rw [h]

/-- The offsets of a port, its peer's last message and its skipped exchanges. -/
def exchanges (l : LinkPort) : List Int × Option (TimeMsg × Nat × Nat) × Nat := (l.thetas, l.peerTime, l.skipRun)

theorem OutputOf.exchanges {l m : LinkPort} (h : OutputOf l m) : exchanges m = exchanges l := by
  unfold OutputOf at h
  rw [h]
  rfl

/-! ### TIME flits -/

/-- A port after it has sent a TIME flit (R370, R390). -/
def timeSent (s : State) (l : LinkPort) : LinkPort :=
  { l with lastTime := some (timeMsg s l), xseq := (l.xseq + 1) % 256,
           credSent := l.credSent.set 2 ((nth l.credSent 2 + 1) % 4096) }

theorem doTimeFlitSend_sends {s : State} {p : Nat} (hp : portIn s p .active = true) (hc : 1 ≤ creditsOf (lportOf s p) 2) :
    doTimeFlitSend p s = bump (setLport s p (timeSent s (lportOf s p))) 5 p 0 1 := by
  simp only [doTimeFlitSend, hp, hc, decide_true, Bool.and_self, if_true, timeSent]

theorem lportOf_bump (s : State) (cls u i n p : Nat) : lportOf (bump s cls u i n) p = lportOf s p := rfl

/-- Freeing a buffer and counting change ports and the trace alone. -/
theorem linkTrace_bump {s t : State} (h : t = { s with lports := t.lports, trace := t.trace }) (cls u i n : Nat) :
    bump t cls u i n = { s with lports := (bump t cls u i n).lports, trace := (bump t cls u i n).trace } := by
  rw [h]
  rfl

theorem linkTrace_setLport {s t : State} (h : t = { s with lports := t.lports, trace := t.trace }) (p : Nat) (l : LinkPort) :
    setLport t p l = { s with lports := (setLport t p l).lports, trace := (setLport t p l).trace } := by
  rw [h]
  rfl

theorem linkTrace_freeFlits (s : State) (p vc n : Nat) :
    freeFlits s p vc n = { s with lports := (freeFlits s p vc n).lports, trace := (freeFlits s p vc n).trace } := by
  unfold freeFlits
  split <;> rfl

/-- The state in which a TIME flit that arrived has freed its buffer and is counted. -/
def timeCounted (s : State) (p : Nat) : State := bump (freeFlits s p 2 1) 5 p 1 1

theorem timeCounted_only (s : State) (p : Nat) :
    timeCounted s p = { s with lports := (timeCounted s p).lports, trace := (timeCounted s p).trace } :=
  linkTrace_bump (linkTrace_freeFlits s p 2 1) 5 p 1 1

theorem timeCounted_output (s : State) (p : Nat) : OutputOnly s (timeCounted s p) :=
  (bump_output _ _ _ _ _).behind (freeFlits_output s p 2 1)

theorem timeCounted_port (s : State) (p : Nat) :
    let l := lportOf (timeCounted s p) p
    l.lastTime = (lportOf s p).lastTime ∧ l.thetas = (lportOf s p).thetas ∧ l.peerTime = (lportOf s p).peerTime ∧
      l.asym = (lportOf s p).asym ∧ l.skipRun = (lportOf s p).skipRun := by
  have h := timeCounted_output s p p
  unfold OutputOf at h
  intro l
  rw [show l = _ from h]
  exact ⟨rfl, rfl, rfl, rfl, rfl⟩

theorem echoesOwn_congr {l k : LinkPort} (h : l.lastTime = k.lastTime) (m : TimeMsg) : echoesOwn l m = echoesOwn k m := by
  unfold echoesOwn
  rw [h]

theorem followsLast_congr {l k : LinkPort} (h : l.peerTime = k.peerTime) (m : TimeMsg) : followsLast l m = followsLast k m := by
  unfold followsLast
  rw [h]

/-- A port after an exchange that is skipped. -/
def skippedPort (l : LinkPort) (m : TimeMsg) (a fr : Nat) : LinkPort :=
  { l with peerTime := some (m, a, fr), crcRun := 0, skipRun := l.skipRun + 1, skipped := l.skipped + 1 }

/-- A port after an exchange that completes. -/
def exchangedPort (l : LinkPort) (m : TimeMsg) (a fr : Nat) : LinkPort :=
  { l with peerTime := some (m, a, fr), crcRun := 0, thetas := (theta m a fr l.asym :: l.thetas).take 16, skipRun := 0 }

theorem exchanges_exchangedPort (l : LinkPort) (m : TimeMsg) (a fr : Nat) :
    exchanges (exchangedPort l m a fr) = ((theta m a fr l.asym :: l.thetas).take 16, some (m, a, fr), 0) := rfl

theorem doTimeFlitReceive_exchange {s : State} {p a fr : Nat} {m : TimeMsg} (hp : portIn s p .active = true)
    (hl : (lportOf s p).lastTime ≠ none) : doTimeFlitReceive p m a fr s =
      if echoesOwn (lportOf s p) m && followsLast (lportOf s p) m then
        followParent (thetaRecord (setLport (timeCounted s p) p (exchangedPort (lportOf (timeCounted s p) p) m a fr)) p m.xseq) p m
      else bump (setLport (timeCounted s p) p (skippedPort (lportOf (timeCounted s p) p) m a fr)) 5 p 7 1 := by
  obtain ⟨hlast, -, hpeer, -, -⟩ := timeCounted_port s p
  have hne : (lportOf (timeCounted s p) p).lastTime ≠ none := by rw [hlast]; exact hl
  rw [doTimeFlitReceive, if_pos hp, receiveTime, ← echoesOwn_congr hlast m, ← followsLast_congr hpeer m]
  exact if_neg hne

theorem endLevel_only (s : State) (source kind scope : Nat) : DoubtOnly s (endLevel s source kind scope) := rfl

theorem thetaRecord_time (s : State) (p x : Nat) :
    exchanges (lportOf (thetaRecord s p x) p) = exchanges (lportOf s p) ∧ (thetaRecord s p x).time = s.time ∧
      (thetaRecord s p x).mem = s.mem := by
  unfold thetaRecord
  dsimp only
  split
  · exact ⟨rfl, rfl, rfl⟩
  · refine ⟨?_, ?_, ?_⟩
    · rw [((emitTrace_output _ _ _ _ _ _ _) p).exchanges, lportOf_setLport_same]
      rfl
    · rw [(EventsOnly.emitTrace _ _ _ _ _ _ _).doubt.time]
      rfl
    · rw [(EventsOnly.emitTrace _ _ _ _ _ _ _).doubt.mem]
      rfl

theorem slew_lports (s : State) : (slew s).lports = s.lports ∧ (slew s).time = s.time ∧ (slew s).mem = s.mem := ⟨rfl, rfl, rfl⟩

theorem followParent_time (s : State) (p : Nat) (m : TimeMsg) :
    exchanges (lportOf (followParent s p m) p) = exchanges (lportOf s p) ∧ (followParent s p m).time = s.time ∧
      (followParent s p m).mem = s.mem := by
  unfold followParent
  split
  · exact ⟨rfl, rfl, rfl⟩
  · dsimp only
    split
    · refine ⟨?_, ?_, ?_⟩
      · exact ((postEvent_output _ _ _ _ _) p).exchanges
      · exact (postEvent_only _ _ _ _ _).doubt.time
      · exact (postEvent_only _ _ _ _ _).doubt.mem
    · exact ⟨rfl, rfl, rfl⟩

theorem cntAt_setLport (s : State) (p : Nat) (l : LinkPort) (k : Nat) : cntAt (setLport s p l) k = cntAt s k := rfl

/-- A skipped exchange is counted (R392). -/
theorem timeSkipped_counted (s : State) (p : Nat) (l : LinkPort) :
    counted s (bump (setLport (timeCounted s p) p l) 5 p 7 1) 5 p 7 1 := by
  refine counted_of ?_
  rw [cntAt_bump_same, cntAt_setLport, timeCounted, cntAt_bump_other _ _ _ _ _ (by omega), cntAt_freeFlits]

/-! ### Joining, holdover and the root -/

/-- The state that a step of device time leaves before its report (R393). -/
def timeStepped (s : State) (p : Nat) (d : Int) : State :=
  let q := setLport (stepTime s d) p { lportOf s p with thetas := [] }
  { q with inst := { q.inst with joinWait := false, joinStep := d, tstate := .acquiring } }

theorem doTimeStep_steps {s : State} {p : Nat} (hp : parentPort s = some p) (hw : s.inst.joinWait = true)
    (hn : (lportOf s p).thetas.length = 16) :
    let d := (thetaSum (lportOf s p) + 2048) / 4096
    doTimeStep s = postEvent (timeStepped s p d) 0x0807 13 0 (leBytes 8 (unsignedOf 64 d)) := by
  simp only [doTimeStep, hp, hw, hn, beq_self_eq_true, Bool.and_self, if_true, timeStepped]

theorem timeStepped_port (s : State) (p : Nat) (d : Int) : (lportOf (timeStepped s p d) p).thetas = [] := by
  have h : lportOf (timeStepped s p d) p = { lportOf s p with thetas := [] } := tabGet_tabSet_same _ _ _ _
  rw [h]

theorem clampInt_bounds (x : Int) {lo hi : Int} (h : lo ≤ hi) : lo ≤ clampInt x lo hi ∧ clampInt x lo hi ≤ hi := by
  unfold clampInt
  omega

/-- Settles O57: the flits by `receiveTime`, the rest by each row past its conditions. -/
theorem installationTimeFollowsItsParent : Obligations.InstallationTimeFollowsItsParent := by
  unfold Obligations.InstallationTimeFollowsItsParent
  refine ⟨fun s p hp hc => ?_, fun s p a fr m hp hl => ⟨fun he hf => ?_, fun hn => ?_⟩, fun s h p hacc hpp hst hstep => ?_,
    fun s p hpp hw hn => ?_, fun s p hpp hst hlock hsmall => ?_, fun s p c hpp hst hcause => ?_,
    fun s h ph hacc hroot hph => ⟨?_, ?_⟩, fun s hup => ⟨fun hr => ?_, fun hr => ?_⟩, fun s x hx hr hlost => ?_⟩
  · refine ⟨_, rfl, ?_⟩
    rw [doTimeFlitSend_sends hp hc]
    exact ⟨rfl, lportOf_setLport_same _ _ _⟩
  · refine ⟨_, rfl, ?_⟩
    rw [doTimeFlitReceive_exchange hp hl, he, hf, Bool.and_self, if_pos rfl]
    obtain ⟨-, hth, -, has, -⟩ := timeCounted_port s p
    obtain ⟨he1, ht1, hm1⟩ := followParent_time
      (thetaRecord (setLport (timeCounted s p) p (exchangedPort (lportOf (timeCounted s p) p) m a fr)) p m.xseq) p m
    obtain ⟨he2, ht2, hm2⟩ := thetaRecord_time (setLport (timeCounted s p) p (exchangedPort (lportOf (timeCounted s p) p) m a fr))
      p m.xseq
    rw [he2, lportOf_setLport_same, exchanges_exchangedPort, hth, has] at he1
    obtain ⟨hthetas, hrest⟩ := Prod.mk.inj he1
    obtain ⟨hpeer, hskip⟩ := Prod.mk.inj hrest
    refine ⟨hthetas, hpeer, hskip, ?_, ?_⟩
    · rw [ht1, ht2, setLport, timeCounted_only]
    · rw [hm1, hm2, setLport, timeCounted_only]
  · have hb : ¬ (echoesOwn (lportOf s p) m && followsLast (lportOf s p) m) = true := by
      rcases hn with h | h <;> simp [h]
    obtain ⟨-, hth, -, -, hskip⟩ := timeCounted_port s p
    refine ⟨_, rfl, ?_⟩
    rw [doTimeFlitReceive_exchange hp hl, if_neg hb]
    refine ⟨linkTrace_bump (linkTrace_setLport (timeCounted_only s p) p _) 5 p 7 1, ?_, ?_, ?_, timeSkipped_counted s p _⟩
    all_goals rw [lportOf_bump, lportOf_setLport_same, skippedPort]
    · exact hth
    · exact congrArg (· + 1) hskip
  · have hexec : exec (.linkTimeJoin h) s = .next (answerRow h 0x080E (cmdLinkTimeJoin s)) :=
      congrArg _ (runCommand_accepted hacc _)
    have hmay : ¬ ((lportOf s p).st ≠ .active ∨ timeMayStep s = false) := by simp [hst, hstep]
    rw [answersLater, hexec, cmdLinkTimeJoin, hpp]
    exact congrArg (fun r => Host.Outcome.next (answerRow h 0x080E r)) (if_neg hmay)
  · intro d
    refine ⟨_, rfl, ?_⟩
    rw [doTimeStep_steps hpp hw hn]
    have hev := (postEvent_only (timeStepped s p d) 0x0807 13 0 (leBytes 8 (unsignedOf 64 d))).doubt
    have hout := (postEvent_output (timeStepped s p d) 0x0807 13 0 (leBytes 8 (unsignedOf 64 d))) p
    have hth := congrArg Prod.fst hout.exchanges
    refine ⟨hev.time, ?_, ?_, ?_, hth.trans (timeStepped_port s p d), hev.mem⟩
    all_goals rw [hev.inst]; rfl
  · have hdo : doTimeJoinLocked s = answer { s with inst := { s.inst with tstate := .locked } } .timeJoin .ok
        (leBytes 8 (unsignedOf 64 s.inst.joinStep)) := by
      simp only [doTimeJoinLocked, hpp, hst, hlock, hsmall, and_self, if_true]
    have hev := (answer_only { s with inst := { s.inst with tstate := .locked } } .timeJoin .ok
      (leBytes 8 (unsignedOf 64 s.inst.joinStep))).doubt
    refine ⟨_, rfl, ?_⟩
    rw [hdo]
    exact ⟨by rw [hev.inst], hev.time, answer_completes_of rfl rfl⟩
  · have hdo : doTimeHoldover c s = failCond (postEvent { s with inst := { s.inst with tstate := .holdover } } 0x0808 5 p
        (leBytes 1 p ++ leBytes 1 c)) rowTime kindDevice 0 true := by
      simp only [doTimeHoldover, hpp, hst, hcause, and_self, if_true]
    have hev := (postEvent_only { s with inst := { s.inst with tstate := .holdover } } 0x0808 5 p
      (leBytes 1 p ++ leBytes 1 c)).doubt.trans (failCond_only _ rowTime kindDevice 0 true)
    refine ⟨_, rfl, ?_⟩
    rw [hdo]
    exact ⟨by rw [hev.inst], failCond_open _ _ _ _ _, hev.time, hev.mem⟩
  · have hexec : exec (.linkPpsSet h ph 1) s = .next (answerRow h 0x080F (cmdLinkPpsSet ph 1 s)) :=
      congrArg _ (runCommand_accepted hacc _)
    rw [answersOk, hexec, cmdLinkPpsSet, hroot, if_neg (by decide), if_neg (by decide), if_neg (by omega), if_pos (by decide)]
    rfl
  · intro d
    have hexec : exec (.linkPpsSet h ph 0) s = .next (answerRow h 0x080F (cmdLinkPpsSet ph 0 s)) :=
      congrArg _ (runCommand_accepted hacc _)
    refine ⟨stepTime { s with inst := { s.inst with ppsOn := true, ppsPhase := ph, ppsLost := false } } d, ?_, rfl, rfl, rfl, rfl,
      rfl⟩
    rw [answersOk, hexec, cmdLinkPpsSet, hroot, if_neg (by decide), if_neg (by decide), if_neg (by omega), if_neg (by decide)]
    rfl
  · have hdo : doPpsEdge s = slew { s with inst := { s.inst with ppsLast := some s.time, ppsLost := false } } := by
      simp only [doPpsEdge, hup, Bool.not_true, Bool.false_eq_true, if_false]
      exact if_pos hr
    refine ⟨_, rfl, ?_⟩
    rw [hdo]
    exact ⟨rfl, clampInt_bounds _ (by decide)⟩
  · have hdo : doPpsEdge s = postEvent { s with inst := { s.inst with ppsLast := some s.time } } 0x080B 11 0 (leBytes 8 s.time) := by
      simp only [doPpsEdge, hup, Bool.not_true, Bool.false_eq_true, if_false]
      exact if_neg (by rw [show (isRoot { s with inst := { s.inst with ppsLast := some s.time } } && s.inst.ppsOn) = false from hr]; decide)
    refine ⟨_, rfl, ?_⟩
    rw [hdo]
    exact postEvent_only _ _ _ _ _
  · have hdo : doPpsLost s = postEvent { advanceTo s (x + 6000000000) with inst := { s.inst with ppsLost := true } } 0x080A 11 0 [] := by
      have hc : (fwUp s && isRoot s && s.inst.ppsOn && ! s.inst.ppsLost) = true := by rw [hr, hlost]; rfl
      rw [doPpsLost, hx]
      exact if_pos hc
    have hev := (postEvent_only { advanceTo s (x + 6000000000) with inst := { s.inst with ppsLost := true } } 0x080A 11 0 []).doubt
    refine ⟨_, rfl, ?_⟩
    rw [hdo]
    exact ⟨by rw [hev.inst], hev.time, hev.mem⟩

end Sys2Proof.Machine
end

section
/-! PROOFS. What sending packets over the link leaves alone (R362, R369, R372, R377): everything but the ports, the packets
that have arrived and the trace; and a port that is not ACTIVE keeps what it holds. -/

namespace Sys2Proof.Machine

open Sys2Proof

/-- Packets have left, or have reached the mesh: nothing but the outputs of ports, the mesh and the trace is different, and a
port that is not active holds what it held. -/
structure Sent (s t : State) : Prop where
  frame : t = { s with lports := t.lports, trace := t.trace,
                       inst := { s.inst with arrived := t.inst.arrived, discarded := t.inst.discarded } }
  output : OutputOnly s t
  still : ∀ p, (lportOf s p).st ≠ .active → lportOf t p = { lportOf s p with freed := (lportOf t p).freed }

theorem OutputOf.st {l m : LinkPort} (h : OutputOf l m) : m.st = l.st := by
  unfold OutputOf at h
  rw [h]

theorem OutputOf.peer {l m : LinkPort} (h : OutputOf l m) : m.peer = l.peer := by
  unfold OutputOf at h
  rw [h]

theorem OutputOf.chan {l m : LinkPort} (h : OutputOf l m) : m.chan = l.chan := by
  unfold OutputOf at h
  rw [h]

theorem Sent.refl (s : State) : Sent s s := ⟨rfl, .refl s, fun _ _ => rfl⟩

theorem Sent.trans {s t u : State} (h : Sent s t) (k : Sent t u) : Sent s u := by
  refine ⟨?_, h.output.trans k.output, fun p hp => ?_⟩
  · have hk := k.frame
    rw [h.frame] at hk
    exact hk
  · have hk := k.still p (by rw [(h.output p).st]; exact hp)
    rw [h.still p hp] at hk
    exact hk

theorem Sent.behind {s t u : State} (k : Sent t u) (h : Sent s t) : Sent s u := h.trans k

theorem Sent.foldl {α : Type} {f : State → α → State} (hf : ∀ s x, Sent s (f s x)) (l : List α) (s : State) :
    Sent s (l.foldl f s) := by
  induction l generalizing s with
  | nil => exact .refl s
  | cons x l ih => exact (hf s x).trans (ih _)

/-- Ports, trace and mesh aside nothing moved, and the ports stand. -/
theorem Sent.of_ports {s t : State}
    (h : t = { s with trace := t.trace, inst := { s.inst with arrived := t.inst.arrived, discarded := t.inst.discarded } }) :
    Sent s t := by
  have hl : t.lports = s.lports := by rw [h]
  have hp : ∀ p, lportOf t p = lportOf s p := fun p => by rw [lportOf, lportOf, hl]
  refine ⟨?_, .of_lports hl, fun p _ => ?_⟩
  · rw [hl]
    exact h
  · rw [hp]

theorem bump_sent (s : State) (cls u i n : Nat) : Sent s (bump s cls u i n) := .of_ports rfl

theorem emitTrace_sent (s : State) (c u : Nat) (g : Bool) (k a : Nat) (e : List (Nat × Nat × Nat × Nat × Nat)) :
    Sent s (emitTrace s c u g k a e) := by
  refine .of_ports ?_
  rw [emitTrace_trace]

theorem countDiscard_sent (s : State) : Sent s (countDiscard s) := .of_ports rfl

theorem deliver_sent (s : State) (x : Packet) : Sent s (deliver s x) := .of_ports rfl

/-- A port that is set: its output alone changes, and if it is not active its freed totals alone. -/
theorem setLport_sent {s : State} {p : Nat} {l : LinkPort} (h : OutputOf (lportOf s p) l)
    (hst : (lportOf s p).st ≠ .active → l = { lportOf s p with freed := l.freed }) : Sent s (setLport s p l) := by
  refine ⟨rfl, .setLport h, fun q hq => ?_⟩
  by_cases hqp : q = p
  · subst hqp
    rw [lportOf_setLport_same]
    exact hst hq
  · rw [lportOf_setLport_other s l hqp]

theorem freeFlits_sent (s : State) (p vc n : Nat) : Sent s (freeFlits s p vc n) := by
  unfold freeFlits
  split
  · exact .refl s
  · exact setLport_sent rfl (fun _ => rfl)

theorem sendFlit_sent {s : State} {p : Nat} (hp : (lportOf s p).st = .active) (o : OutPkt) (f : Nat × Nat × List Byte)
    (r : List (Nat × Nat × List Byte)) : Sent s (sendFlit s p o f r) := by
  unfold sendFlit
  dsimp only
  refine (freeFlits_sent _ _ _ _).behind ?_
  split
  · exact (emitTrace_sent _ _ _ _ _ _ _).behind ((bump_sent _ _ _ _ _).behind (setLport_sent rfl (absurd hp)))
  · exact (bump_sent _ _ _ _ _).behind (setLport_sent rfl (absurd hp))

theorem startAt_sent {s : State} {p : Nat} (hp : (lportOf s p).st = .active) (i : Nat) : Sent s (startAt s p i) := by
  unfold startAt
  dsimp only
  split
  · exact .refl s
  · exact setLport_sent rfl (absurd hp)

theorem pumpStep_sent {s t : State} {p : Nat} (hp : (lportOf s p).st = .active) (h : pumpStep s p = some t) : Sent s t := by
  unfold pumpStep at h
  dsimp only at h
  split at h
  · split at h
    · cases h
    · split at h <;> cases h
      exact sendFlit_sent hp _ _ _
  · simp only [Option.map_eq_some_iff] at h
    obtain ⟨i, -, rfl⟩ := h
    exact startAt_sent hp _

theorem pumpPort_sent (n : Nat) (s : State) (p : Nat) : Sent s (pumpPort n s p) := by
  induction n generalizing s with
  | zero => exact .refl s
  | succ n ih =>
    unfold pumpPort
    split
    · exact .refl s
    · rename_i hp
      split
      · exact .refl s
      · rename_i h
        exact (pumpStep_sent (Classical.not_not.mp hp) h).trans (ih _)

theorem enqueueAt_sent {s : State} {p : Nat} (hp : (lportOf s p).st = .active) (src : Nat) (x : Packet) :
    Sent s (enqueueAt s p src x) :=
  (pumpPort_sent _ _ _).behind (setLport_sent rfl (absurd hp))

theorem routePosted_sent (s : State) (src : Nat) (x : Packet) : Sent s (routePosted s src x) := by
  unfold routePosted
  dsimp only
  split
  · exact deliver_sent s x
  · split
    · exact countDiscard_sent s
    · split
      · exact countDiscard_sent s
      · split
        · exact countDiscard_sent s
        · exact enqueueAt_sent (Classical.not_not.mp ‹_›) _ _

theorem refusePacket_sent (s : State) (x : Packet) (st : Nat) : Sent s (refusePacket s x st) := by
  unfold refusePacket
  split
  · exact routePosted_sent _ _ _
  · exact countDiscard_sent s

theorem routePacket_sent (s : State) (src : Nat) (x : Packet) : Sent s (routePacket s src x) := by
  unfold routePacket
  dsimp only
  split
  · exact deliver_sent s x
  · split
    · exact refusePacket_sent _ _ _
    · split
      · exact refusePacket_sent _ _ _
      · split
        · exact refusePacket_sent _ _ _
        · exact enqueueAt_sent (Classical.not_not.mp ‹_›) _ _

theorem sendHopLocal_sent (s : State) (p : Nat) (x : Packet) : Sent s (sendHopLocal s p x) := by
  unfold sendHopLocal
  split
  · exact refusePacket_sent _ _ _
  · exact enqueueAt_sent (Classical.not_not.mp ‹_›) _ _

theorem sendTagged_sent (port : Option Nat) (t : Nat) (s : State) (p : Packet) : Sent s (sendTagged port t s p) := by
  cases port with
  | none => exact routePacket_sent _ _ _
  | some k => exact sendHopLocal_sent _ _ _

theorem sendReq_sent (s : State) (t : Nat) (q : TagReq) : Sent (allotTag s t q.txn) (sendReq s t q) :=
  .foldl (sendTagged_sent q.port t) _ _

/-- A port that is not active sends nothing. -/
theorem pumpPort_idle (n : Nat) {s : State} {p : Nat} (hp : (lportOf s p).st ≠ .active) : pumpPort n s p = s := by
  cases n with
  | zero => rfl
  | succ n => exact if_pos hp

theorem Sent.mem {s t : State} (h : Sent s t) : t.mem = s.mem := by rw [h.frame]

theorem Sent.mb {s t : State} (h : Sent s t) : t.mb = s.mb := by rw [h.frame]

theorem Sent.boot {s t : State} (h : Sent s t) : t.boot = s.boot := by rw [h.frame]

theorem Sent.inst {s t : State} (h : Sent s t) :
    t.inst = { s.inst with arrived := t.inst.arrived, discarded := t.inst.discarded } := by rw [h.frame]

/-! ### A port that stops (R358, R368, R369) -/

/-- A port once it has stopped, before the packets held for it are refused. -/
def portOff (now : Nat) (l : LinkPort) (st : LState) : LinkPort :=
  { l with st := st, since := now, rxPart := [], replay := [], outQ := [], cur := none,
           chan := if st = .disabled then none else l.chan, peer := none }

/-- What a port that has stopped holds, and what the others are. -/
structure Lost (p : Nat) (l : LinkPort) (s t : State) : Prop where
  frame : t = { s with lports := t.lports, trace := t.trace,
                       inst := { s.inst with arrived := t.inst.arrived, discarded := t.inst.discarded } }
  port : lportOf t p = { l with freed := (lportOf t p).freed }
  others : ∀ q, q ≠ p → (lportOf t q).st = (lportOf s q).st

theorem Lost.sent {p : Nat} {l : LinkPort} {s t u : State} (h : Lost p l s t) (hl : l.st ≠ .active) (k : Sent t u) :
    Lost p l s u := by
  refine ⟨?_, ?_, fun q hq => ?_⟩
  · have hk := k.frame
    rw [h.frame] at hk
    exact hk
  · have hk := k.still p (by rw [h.port]; exact hl)
    rw [h.port] at hk
    exact hk
  · rw [(k.output q).st, h.others q hq]

theorem dropOpen_lost {p : Nat} {l : LinkPort} {s t : State} (h : Lost p l s t) (hl : l.st ≠ .active) (hq : l.outQ = [])
    (hc : l.cur = none) (i r : Nat) : Lost p l s (dropOpen t i r) := by
  unfold dropOpen
  refine Lost.sent ?_ hl (pumpPort_sent _ _ _)
  refine ⟨?_, ?_, fun q hqp => ?_⟩
  · have hf := h.frame
    rw [hf]
    rfl
  · by_cases hr : p = r
    · subst hr
      rw [lportOf_setLport_same, h.port, hq, hc]
      simp only [List.filter_nil, Option.filter_none]
    · rw [lportOf_setLport_other t _ hr]
      exact h.port
  · by_cases hr : q = r
    · subst hr
      rw [lportOf_setLport_same]
      exact h.others q hqp
    · rw [lportOf_setLport_other t _ hr]
      exact h.others q hqp

theorem losePort_lost (s : State) (p : Nat) {st : LState} (hst : st ≠ .active) :
    Lost p (portOff s.time (lportOf s p) st) s (losePort s p st) := by
  have hset : Lost p (portOff s.time (lportOf s p) st) s (setLport s p (portOff s.time (lportOf s p) st)) :=
    ⟨rfl, by rw [lportOf_setLport_same], fun q hq => by rw [lportOf_setLport_other s _ hq]⟩
  have hfold := fun u (h : Lost p (portOff s.time (lportOf s p) st) s u) =>
    h.sent hst (Sent.foldl (fun s x => refusePacket_sent s x 0x42) (packetsFor (lportOf s p)) u)
  unfold losePort
  refine hfold _ ?_
  split
  · split
    · exact hset
    · exact dropOpen_lost hset hst rfl rfl _ _
  · exact hset

end Sys2Proof.Machine
end

section
/-! PROOFS. The commands of the link (R355, R358, R372, R379, R381, R382, R385 to R389, R68), with O54. -/

namespace Sys2Proof.Machine

open Sys2Proof

/-! ### Requests and tags (R377) -/

theorem request_sends {s : State} {q : TagReq} {g : Nat} (hw : s.inst.tagWait = []) (hg : freeTag s = some g) :
    request s q = sendReq s g q := by
  unfold request
  rw [hw, hg]

theorem request_waits {s : State} (q : TagReq) (h : s.inst.tagWait ≠ [] ∨ freeTag s = none) :
    request s q = { s with inst := { s.inst with tagWait := s.inst.tagWait ++ [q] } } := by
  unfold request
  split
  · rename_i hw hg
    rcases h with h | h
    · exact absurd hw h
    · rw [hg] at h
      cases h
  · rfl

/-- Requests that waited have left, or wait still. -/
def TagsOnly (s t : State) : Prop :=
  t = { s with lports := t.lports, trace := t.trace,
               inst := { s.inst with arrived := t.inst.arrived, discarded := t.inst.discarded, tagWait := t.inst.tagWait,
                                     txns := t.inst.txns, lastTag := t.inst.lastTag } }

theorem TagsOnly.trans {s t u : State} (h : TagsOnly s t) (k : TagsOnly t u) : TagsOnly s u := by
  unfold TagsOnly at h k ⊢
  rw [h] at k
  exact k

theorem Sent.tags {s t : State} (h : Sent s t) : TagsOnly s t := by
  unfold TagsOnly
  rw [h.frame]

theorem sendReq_tags (s : State) (g : Nat) (q : TagReq) : TagsOnly s (sendReq s g q) :=
  TagsOnly.trans (t := allotTag s g q.txn) rfl (sendReq_sent s g q).tags

theorem serveTags_tags (n : Nat) (s : State) : TagsOnly s (serveTags n s) := by
  induction n generalizing s with
  | zero => rfl
  | succ n ih =>
    unfold serveTags
    split
    · rename_i q w g _ _
      have hw : TagsOnly s { s with inst := { s.inst with tagWait := w } } := rfl
      exact (hw.trans (sendReq_tags _ g q)).trans (ih _)
    · rfl

/-- With no request waiting nothing is served. -/
theorem serveTags_none {s : State} (n : Nat) (h : s.inst.tagWait = []) : serveTags n s = s := by
  cases n with
  | zero => rfl
  | succ n =>
    unfold serveTags
    rw [h]

theorem TagsOnly.mem {s t : State} (h : TagsOnly s t) : t.mem = s.mem := by
  unfold TagsOnly at h
  rw [h]

theorem TagsOnly.mb {s t : State} (h : TagsOnly s t) : t.mb = s.mb := by
  unfold TagsOnly at h
  rw [h]

theorem TagsOnly.boot {s t : State} (h : TagsOnly s t) : t.boot = s.boot := by
  unfold TagsOnly at h
  rw [h]

theorem TagsOnly.inst {s t : State} (h : TagsOnly s t) :
    t.inst = { s.inst with arrived := t.inst.arrived, discarded := t.inst.discarded, tagWait := t.inst.tagWait,
                           txns := t.inst.txns, lastTag := t.inst.lastTag } := by
  unfold TagsOnly at h
  rw [h]

/-! ### LINK_START, LINK_STATUS and routes -/

theorem lports_parent {l : Tab LinkPort} {p : Nat} (h : ∀ x ∈ l, x.1 ≠ p → x.2.timeParent = false) :
    tabAny (fun k x => k != p && x.timeParent) l = false := by
  rw [tabAny, List.any_eq_false]
  rintro x hx
  by_cases hp : x.1 = p
  · simp [hp]
  · simp [h x hx hp]

theorem cmdLinkStart_starts {s s' : State} {h : CmdHdr} {c : Nat} {e : List Byte}
    (hf : fetchEntry s h.domain c 4 0 = (s', .inr e)) (hb : linkBody e = none)
    (ha : linkActive (lportOf s (fieldAt e 2 2)) = false) (hc : portClock s (fieldAt e 2 2) = true)
    (hp : bitAt (fieldAt e 8 1) 0 = true → ∀ x ∈ s.lports, x.1 ≠ fieldAt e 2 2 → x.2.timeParent = false) :
    cmdLinkStart h c 0 s = okDone (setLport s' (fieldAt e 2 2) (startPort (lportOf s (fieldAt e 2 2)) s.time c e)) := by
  have hpar : ¬ (bitAt (fieldAt e 8 1) 0 && tabAny (fun k x => k != fieldAt e 2 2 && x.timeParent) s.lports) = true := by
    intro hand
    obtain ⟨hbit, hany⟩ := Bool.and_eq_true_iff.mp hand
    rw [lports_parent (hp hbit)] at hany
    cases hany
  rw [cmdLinkStart, if_neg (by decide), hf]
  dsimp only
  rw [hb]
  dsimp only
  rw [if_neg (by rw [ha]; decide), if_neg hpar, if_neg (by rw [hc]; decide)]

theorem length_linkEntry (l : LinkPort) : (linkEntry l).length = 16 := by
  simp [linkEntry]

theorem linkEntry_fields (l : LinkPort) :
    fieldAt (linkEntry l) 0 1 = lstateIdx l.st ∧ fieldAt (linkEntry l) 4 2 = (l.peer.elim 0 (fun c => c.id)) % 65536 := by
  constructor
  · simp only [linkEntry, List.append_assoc]
    rw [fieldAt_append_left _ (by simp), fieldAt_leBytes]
    cases l.st <;> rfl
  · simp only [linkEntry, List.append_assoc]
    rw [← List.append_assoc (leBytes 1 _) (leBytes 1 _), ← List.append_assoc, ← List.append_assoc, fieldAt_field (by simp)]
    cases l.peer <;> rfl

theorem routes_setRoutes (t : Tab Nat) (ports : List Byte) (first n : Nat) :
    (∀ i < n, tabGet 15 (setRoutes t ports first n) (first + i) = routeNibble ports i) ∧
      ∀ d, d < first ∨ first + n ≤ d → tabGet 15 (setRoutes t ports first n) d = tabGet 15 t d := by
  induction n with
  | zero => exact ⟨fun i hi => absurd hi (by omega), fun d _ => rfl⟩
  | succ n ih =>
    obtain ⟨hin, hout⟩ := ih
    refine ⟨fun i hi => ?_, fun d hd => ?_⟩
    · rw [setRoutes]
      by_cases hn : i = n
      · rw [hn, tabGet_tabPut_same]
      · rw [tabGet_tabPut_other _ _ _ (by omega), hin i (by omega)]
    · rw [setRoutes, tabGet_tabPut_other _ _ _ (by omega), hout d (by omega)]

theorem cmdLinkRouteSet_sets {s : State} {first count : Nat} {ports : List Byte} (h1 : first ≤ 1023) (h2 : first + count ≤ 1024)
    (hl : ports.length = 4 * cdiv count 8) (hn : ∀ i < count, routeNibble ports i ≤ 11 ∨ routeNibble ports i = 15) :
    cmdLinkRouteSet first count ports s =
      okDone { s with inst := { s.inst with routes := setRoutes s.inst.routes ports first count } } := by
  have hfind : (List.range count).find? (fun i => decide (11 < routeNibble ports i) && routeNibble ports i != 15) = none := by
    rw [List.find?_eq_none]
    intro i hi
    rcases hn i (List.mem_range.mp hi) with h | h
    · simp [show ¬ 11 < routeNibble ports i by omega]
    · simp [h]
  rw [cmdLinkRouteSet, if_neg (by simp [hl]), if_neg (by omega), if_neg (by omega), hfind]

/-- The window of a number, or one of length zero. -/
def windowOr (s : State) (w : Nat) : Window :=
  (windowAt s w).getD { base := 0, length := 0, open_ := false, epoch := 0, closedSeen := [], closedCount := 0 }

/-! ### LINK_ABORT (R379) -/

/-- The completion of a transaction: the generation stands, no other transaction ends or begins, and no request joins those
that wait. -/
structure Completed (s t : State) : Prop where
  gen : t.inst.gen = s.inst.gen
  txns : t.inst.txns = s.inst.txns
  waits : s.inst.tagWait = [] → t.inst.tagWait = []

theorem Completed.refl (s : State) : Completed s s := ⟨rfl, rfl, id⟩

theorem Completed.trans {s t u : State} (h : Completed s t) (k : Completed t u) : Completed s u :=
  ⟨k.gen.trans h.gen, k.txns.trans h.txns, fun w => k.waits (h.waits w)⟩

theorem Completed.foldl {α : Type} {f : State → α → State} (hf : ∀ s x, Completed s (f s x)) (l : List α) (s : State) :
    Completed s (l.foldl f s) := by
  induction l generalizing s with
  | nil => exact .refl s
  | cons x l ih => exact (hf s x).trans (ih _)

/-- A state whose installation is that of another but for what has arrived or been discarded. -/
theorem Completed.of_inst {s t : State}
    (h : t.inst = { s.inst with arrived := t.inst.arrived, discarded := t.inst.discarded }) : Completed s t := by
  refine ⟨?_, ?_, fun w => ?_⟩ <;> rw [h]
  exact w

theorem EventsOnly.inst {s t : State} (h : EventsOnly s t) :
    t.inst = { s.inst with arrived := t.inst.arrived, discarded := t.inst.discarded } := by
  unfold EventsOnly at h
  rw [h]

theorem StoreOnly.inst {s t : State} (h : StoreOnly s t) :
    t.inst = { s.inst with arrived := t.inst.arrived, discarded := t.inst.discarded } := by
  unfold StoreOnly DoubtOnly at h
  rw [h]

theorem answer_completed (s : State) (w : WaitKind) (st : Status) (payload : List Byte) : Completed s (answer s w st payload) :=
  .of_inst (answer_only s w st payload).inst

theorem relayDone_completed (s : State) (port code : Nat) : Completed s (relayDone s port code) :=
  Completed.trans (t := { s with inst := { s.inst with relayPorts := s.inst.relayPorts.filter (fun q => q != port) } })
    ⟨rfl, rfl, id⟩ (.of_inst (postEvent_only _ _ _ _ _).inst)

theorem setRunAt_inst (s : State) (c : Nat) (r : Option DmaRun) : (setRunAt s c r).inst = s.inst := by
  unfold setRunAt
  split <;> rfl

theorem setRunAt_completed (s : State) (c : Nat) (r : Option DmaRun) : Completed s (setRunAt s c r) :=
  ⟨by rw [setRunAt_inst], by rw [setRunAt_inst], by rw [setRunAt_inst]; exact id⟩

theorem dropWaiting_completed (s : State) (c : Nat) : Completed s (dropWaiting s c).1 :=
  ⟨rfl, rfl, fun w => by rw [dropWaiting, w]; rfl⟩

theorem spoilDest_completed (s : State) (m : Mover) (r : DmaRun) : Completed s (spoilDest s m r) := by
  unfold spoilDest
  split
  · exact .refl s
  · split
    · exact .refl s
    · exact .of_inst (storeCells_store s _ []).inst

theorem failReads_completed (s : State) (c : Nat) (m : Mover) (r : DmaRun) (st : Status) (n : Nat) :
    Completed s (failReads s c m r st n) := by
  unfold failReads
  dsimp only
  split
  · exact ((dropWaiting_completed s c).trans (spoilDest_completed _ m r)).trans (setRunAt_completed _ _ _)
  · exact (dropWaiting_completed s c).trans (setRunAt_completed _ _ _)

/-- A transaction that does not end with OK begins no other. -/
theorem txnResult_completed (s : State) (t : Txn) {status : Nat} (h : status ≠ 0) (p : Packet) :
    Completed s (txnResult s t status p) := by
  unfold txnResult
  split
  · unfold moverResponse
    split
    · split
      · exact (dropWaiting_completed s _).trans (setRunAt_completed _ _ _)
      · exact failReads_completed _ _ _ _ _ _
    · exact .refl s
  · exact answer_completed _ _ _ _
  · exact answer_completed _ _ _ _
  · split
    · exact relayDone_completed _ _ _
    · exact .refl s

theorem noteResponse_completed (s : State) (d w k st ep : Nat) : Completed s (noteResponse s d w k st ep) := ⟨rfl, rfl, id⟩

/-- Destinations of a range. -/
def dstIn (first last : Nat) (e : Nat × Txn) : Bool := decide (first ≤ e.2.dst) && decide (e.2.dst ≤ last)

/-- The state in which LINK_ABORT has completed what it ends. -/
def abortedTxns (s : State) (first last : Nat) : State :=
  let q := { s with inst := { s.inst with txns := s.inst.txns.filter (fun e => ! dstIn first last e) } }
  (s.inst.txns.filter (dstIn first last)).foldl
    (fun s e => txnResult (noteResponse s e.2.dst e.2.win e.2.kind 0x45 0) e.2 0x45 (noPacket s)) q

theorem abortedTxns_completed (s : State) (first last : Nat) :
    Completed { s with inst := { s.inst with txns := s.inst.txns.filter (fun e => ! dstIn first last e) } }
      (abortedTxns s first last) :=
  .foldl (fun s _ => (noteResponse_completed s _ _ _ _ _).trans (txnResult_completed _ _ (by decide) _)) _ _

/-- The state in which the generation has advanced after an abort. -/
def abortAdvanced (s : State) (first last : Nat) : State :=
  let q := abortedTxns s first last
  { q with inst := { q.inst with gen := (q.inst.gen + 1) % 4 } }

theorem cmdLinkAbort_aborts {s : State} {first last : Nat} (h : first ≤ last) (hl : last ≤ 1023) :
    cmdLinkAbort first last s = okWith (serveTags (abortAdvanced s first last).inst.tagWait.length (abortAdvanced s first last))
      (leBytes 4 (s.inst.txns.filter (dstIn first last)).length) := by
  rw [cmdLinkAbort, if_neg (by omega), if_neg (by omega)]
  rfl

theorem dstIn_iff {first last : Nat} {e : Nat × Txn} : dstIn first last e = true ↔ first ≤ e.2.dst ∧ e.2.dst ≤ last := by
  simp [dstIn]

/-! ### BOOT_RELAY and its completion (R68, R389) -/

/-- The state in which a port's relay is noted. -/
def relayNoted (s : State) (p : Nat) : State := { s with inst := { s.inst with relayPorts := p :: s.inst.relayPorts } }

theorem cmdBootRelay_sends {s s' : State} {h : CmdHdr} {p a len : Nat} {b : List Byte} (hp : p ≤ 11) (hlen : 0 < len)
    (hn : p ∉ s.inst.relayPorts) (hst : (lportOf s p).st = .active) (hr : readStruct s 13 0 h.domain a len = (s', .ok, b)) :
    cmdBootRelay h p 0 a len 0 s = okDone (request (relayNoted s' p) (relayReqOf (relayNoted s' p) p len b)) := by
  rw [cmdBootRelay, if_neg (by decide), if_neg (by decide), if_neg (by omega), if_neg (by omega), hr]
  dsimp only
  rw [if_neg (by decide), if_neg (by simpa using hn), if_neg (by simp [hst])]
  rfl

theorem ReadsOnly.inst {s t : State} (h : ReadsOnly s t) :
    t.inst = { s.inst with arrived := t.inst.arrived, discarded := t.inst.discarded } := by
  unfold ReadsOnly DoubtOnly at h
  rw [h]

theorem freeTag_congr {s t : State} (hl : t.inst.lastTag = s.inst.lastTag) (ht : t.inst.txns = s.inst.txns) :
    freeTag t = freeTag s := by
  unfold freeTag
  rw [hl, ht]

/-- A boot relay's transaction of a port. -/
def relayOwn (p : Nat) (x : Txn) : Bool := x.kind == 0x08 && x.addr == p

/-- The state in which a port's boot relay has ended. -/
def relayEnded (s : State) (p : Nat) : State :=
  { s with inst := { s.inst with
    txns := s.inst.txns.filter (fun e => ! relayOwn p e.2), tagWait := s.inst.tagWait.filter (fun q => ! relayOwn p q.txn),
    arrived := s.inst.arrived.filter (fun x =>
      ! (x.type == 0x88 && ((s.inst.txns.filter (fun e => relayOwn p e.2)).map (·.1)).contains x.tag)) } }

theorem doBootRelayDone_ends {s : State} {p : Nat} (code : Nat) (h : p ∈ s.inst.relayPorts) :
    doBootRelayDone p code s =
      serveTags (relayDone (relayEnded s p) p code).inst.tagWait.length (relayDone (relayEnded s p) p code) := by
  rw [doBootRelayDone, if_pos (by simpa using h)]
  rfl

/-- Settles O54: each command by what its row does past its checks, and what sending leaves alone. -/
theorem linkCommandsHaveTheirEffect : Obligations.LinkCommandsHaveTheirEffect := by
  unfold Obligations.LinkCommandsHaveTheirEffect
  refine ⟨fun s s' h c e hacc hf hb ha hc hp => ?_, fun s h p hacc hp => ?_, fun s h hacc => ?_,
    fun s h first count ports hacc h1 h2 hl hn => ?_, fun s h first last hacc h1 h2 => ?_, fun s h p d m hacc hp hd hm => ?_,
    fun s h w base len hacc hb hb' hl hl' => ?_, fun s h w x hx => ⟨fun hacc => ?_, fun hacc => ?_⟩,
    fun s h n w dev ep base len hacc hd hb hl => ?_, fun s h id hacc hid hj => ?_, fun s h p id hacc hp hid hst => ?_,
    fun s h d b hacc hl1 hl2 hl4 hd href hpath => ?_, fun s h d hacc hd => ⟨?_, ?_⟩,
    fun s s' h p a len b hacc hp hlen hn hst hr => ?_, fun s p code hp => ?_⟩
  · have hexec : exec (.linkStart h c 0) s = .next (answerRow h 0x0800 (cmdLinkStart h c 0 s)) :=
      congrArg _ (runCommand_accepted hacc _)
    refine ⟨startPort (lportOf s (fieldAt e 2 2)) s.time c e, ?_, rfl, rfl, rfl, rfl, rfl, rfl, rfl, rfl, Iff.rfl, rfl⟩
    rw [answersOk, hexec, cmdLinkStart_starts hf hb ha hc hp]
    rfl
  · have hexec : exec (.linkStop h p 0) s = .next (answerRow h 0x0801 (cmdLinkStop p 0 s)) :=
      congrArg _ (runCommand_accepted hacc _)
    have hlost := losePort_lost s p (st := .disabled) (by decide)
    refine ⟨losePort s p .disabled, ?_, hlost.frame, ?_, ?_, ?_, ?_, ?_, hlost.others⟩
    · rw [answersOk, hexec, cmdLinkStop, if_neg (by decide), if_neg (by omega)]
      rfl
    all_goals rw [hlost.port]; rfl
  · have hexec : exec (.linkStatus h) s = .next (answerRow h 0x0802 (cmdLinkStatus s)) :=
      congrArg _ (runCommand_accepted hacc _)
    have hlen : ∀ p, ((fun p => linkEntry (lportOf s p)) p).length = 16 := fun p => length_linkEntry _
    refine ⟨_, hexec, length_records hlen _, fun p hp => ?_⟩
    have hk : (List.range 12)[p]? = some p := List.getElem?_range hp
    exact ⟨(fieldAt_records hlen hk (by decide)).trans (linkEntry_fields _).1,
      (fieldAt_records hlen hk (by decide)).trans (linkEntry_fields _).2⟩
  · have hexec : exec (.linkRouteSet h first count ports) s = .next (answerRow h 0x0803 (cmdLinkRouteSet first count ports s)) :=
      congrArg _ (runCommand_accepted hacc _)
    obtain ⟨hin, hout⟩ := routes_setRoutes s.inst.routes ports first count
    refine ⟨{ s with inst := { s.inst with routes := setRoutes s.inst.routes ports first count } }, ?_, rfl, hin, hout⟩
    rw [answersOk, hexec, cmdLinkRouteSet_sets h1 h2 hl hn]
    rfl
  · have hexec : exec (.linkAbort h first last) s = .next (answerRow h 0x0804 (cmdLinkAbort first last s)) :=
      congrArg _ (runCommand_accepted hacc _)
    obtain ⟨hgen, htxns, hwaits⟩ := abortedTxns_completed s first last
    refine ⟨serveTags (abortAdvanced s first last).inst.tagWait.length (abortAdvanced s first last), ?_, ?_, fun hw => ?_⟩
    · rw [answersOk, hexec, cmdLinkAbort_aborts h1 h2]
      rfl
    · rw [(serveTags_tags _ _).inst]
      exact congrArg (fun n => (n + 1) % 4) hgen
    · rw [serveTags_none (s := abortAdvanced s first last) _ (hwaits hw)]
      have htx : (abortAdvanced s first last).inst.txns = s.inst.txns.filter (fun e => ! dstIn first last e) := htxns
      rw [htx]
      refine ⟨fun e he hin => ?_, fun e he hf => ?_⟩
      · have := (List.mem_filter.mp he).2
        rw [dstIn_iff.mpr hin] at this
        cases this
      · refine List.mem_filter.mpr ⟨he, ?_⟩
        rw [Bool.not_eq_true', ← Bool.not_eq_true, dstIn_iff]
        exact hf e he rfl
  · have hexec : exec (.linkReserve h p d 0 m) s = .next (answerRow h 0x0805 (cmdLinkReserve p d 0 m s)) :=
      congrArg _ (runCommand_accepted hacc _)
    refine ⟨{ s with inst := { s.inst with reserve := tabPut 0 (linkKey p d) m s.inst.reserve } }, ?_, rfl,
      tabGet_tabPut_same _ _ _ _, fun k hk => tabGet_tabPut_other _ _ _ hk⟩
    rw [answersOk, hexec, cmdLinkReserve, if_neg (by decide), if_neg (by omega), if_neg (by omega)]
    exact congrArg (fun r => Host.Outcome.next (answerRow h 0x0805 r)) (if_neg (Nat.not_lt.mpr hm))
  · have hexec : exec (.linkWindowSet h w 0 base len) s = .next (answerRow h 0x0806 (cmdLinkWindowSet w 0 base len s)) :=
      congrArg _ (runCommand_accepted hacc _)
    refine ⟨{ windowOr s w with base := base, length := len, open_ := false }, ?_, rfl, rfl⟩
    rw [answersOk, hexec, cmdLinkWindowSet, if_neg (by decide), if_neg (by omega), if_neg (by omega)]
    rfl
  · have hexec : exec (.linkWindowOpen h w 0) s = .next (answerRow h 0x0807 (changeWindow openWindow w 0 s)) :=
      congrArg _ (runCommand_accepted hacc _)
    rw [answersOk, hexec, changeWindow, if_neg (by decide), hx]
    rfl
  · have hexec : exec (.linkWindowClose h w 0) s = .next (answerRow h 0x0808 (changeWindow closeWindow w 0 s)) :=
      congrArg _ (runCommand_accepted hacc _)
    rw [answersOk, hexec, changeWindow, if_neg (by decide), hx]
    rfl
  · have hexec : exec (.linkImportSet h n w dev ep 0 base len) s =
        .next (answerRow h 0x0809 (cmdLinkImportSet n w dev ep 0 base len s)) := congrArg _ (runCommand_accepted hacc _)
    let e : Import := { device := dev, win := w, base := base, length := len, epoch := ep, stale := false }
    refine ⟨{ s with inst := { s.inst with imports := tabSet n e s.inst.imports } }, ?_, rfl, tabGet?_tabSet_same _ _ _,
      fun k hk => tabGet?_tabSet_other _ _ hk⟩
    rw [answersOk, hexec, cmdLinkImportSet, if_neg (by decide), if_neg (by omega), if_neg (by omega), if_neg (by omega)]
    rfl
  · have hexec : exec (.linkIdSet h id 0) s = .next (answerRow h 0x080A (cmdLinkIdSet id 0 s)) :=
      congrArg _ (runCommand_accepted hacc _)
    refine ⟨joinAs s id, ?_, rfl, fun hp => ?_, fun hp => ?_⟩
    · rw [answersOk, hexec, cmdLinkIdSet, if_neg (by decide), if_neg (by omega), if_neg (by simp [hj])]
      rfl
    all_goals simp only [joinAs, hp, Bool.false_eq_true, if_false, if_true, and_self]
  · intro d n q w
    have hexec : exec (.linkIdAssign h p 0 id) s = .next (answerRow h 0x080B (request w q, .wait (.idAssign n))) := by
      refine congrArg _ ((runCommand_accepted hacc _).trans (congrArg (answerRow h 0x080B) ?_))
      rw [cmdLinkIdAssign, if_neg (by decide), if_neg (by omega), if_neg (by omega), if_neg (by simp [hst])]
      rfl
    refine ⟨fun g hw hg => ?_, fun hw => ?_⟩
    · rw [answersLater, hexec, request_sends (s := w) hw hg]
    · rw [answersLater, hexec, request_waits (s := w) q hw]
  · intro n q w
    have hexec : exec (.linkMboxRelay h d 0 b) s = .next (answerRow h 0x080C (request w q, .wait (.relay n))) := by
      refine congrArg _ ((runCommand_accepted hacc _).trans (congrArg (answerRow h 0x080C) ?_))
      rw [cmdLinkMboxRelay, if_neg (by omega), if_neg (by decide), if_neg (by omega), if_neg (by simp [href]), hpath]
      rfl
    refine ⟨fun g hw hg => ?_, fun hw => ?_⟩
    · rw [answersLater, hexec, request_sends (s := w) hw hg]
    · rw [answersLater, hexec, request_waits (s := w) q hw]
  · have hexec : exec (.linkEventSink h d 0) s = .next (answerRow h 0x080D (cmdLinkEventSink d 0 s)) :=
      congrArg _ (runCommand_accepted hacc _)
    rw [answersOk, hexec, cmdLinkEventSink, if_neg (by decide), if_neg (by omega)]
    rfl
  · have hexec : exec (.linkEventSink h d 1) s = .next (answerRow h 0x080D (cmdLinkEventSink d 1 s)) :=
      congrArg _ (runCommand_accepted hacc _)
    rw [answersOk, hexec, cmdLinkEventSink, if_neg (by decide), if_neg (by omega)]
    rfl
  · have hexec : exec (.bootRelay h p 0 a len 0) s = .next (answerRow h 0x0810 (cmdBootRelay h p 0 a len 0 s)) :=
      congrArg _ (runCommand_accepted hacc _)
    have hread : ReadsOnly s s' := by
      have := readStruct_reads s 13 0 h.domain a len
      rwa [hr] at this
    have hinst := hread.inst
    have hfree : freeTag (relayNoted s' p) = freeTag s := freeTag_congr (by rw [relayNoted, hinst]) (by rw [relayNoted, hinst])
    have hwait : (relayNoted s' p).inst.tagWait = s.inst.tagWait := by rw [relayNoted, hinst]
    have hports : (relayNoted s' p).inst.relayPorts = p :: s.inst.relayPorts := by rw [relayNoted, hinst]
    have htxns : (relayNoted s' p).inst.txns = s.inst.txns := by rw [relayNoted, hinst]
    have hmem : (relayNoted s' p).mem = s'.mem := rfl
    refine ⟨request (relayNoted s' p) (relayReqOf (relayNoted s' p) p len b), ?_, ?_, ?_, fun g hw hg => ?_, fun hw => ?_⟩
    · rw [answersOk, hexec, cmdBootRelay_sends hp hlen hn hst hr]
      rfl
    all_goals generalize hq : relayReqOf (relayNoted s' p) p len b = q
    · generalize relayNoted s' p = u at hports
      rw [← hports]
      unfold request
      split
      · rw [(sendReq_tags _ _ _).inst]
      · rfl
    · rw [← hmem]
      generalize relayNoted s' p = u
      unfold request
      split
      · rw [(sendReq_tags _ _ _).mem]
      · rfl
    · have htxn : q.txn = { cmdTxn 0 0x08 none with addr := p } := by rw [← hq]; rfl
      rw [request_sends (hwait.trans hw) (hfree.trans hg), (sendReq_sent _ _ _).inst, ← htxns, ← htxn]
      exact ⟨tabGet?_tabSet_same _ _ _, fun k hk => tabGet?_tabSet_other _ _ hk⟩
    · rw [request_waits q (by rw [hwait, hfree]; exact hw), ← htxns, ← hwait]
      exact ⟨rfl, by simp⟩
  · refine ⟨_, congrArg Host.Outcome.next (doBootRelayDone_ends code hp), ?_⟩
    have hev := postEvent_only { relayEnded s p with inst := { (relayEnded s p).inst with
      relayPorts := (relayEnded s p).inst.relayPorts.filter (fun q => q != p) } } 0x080C 13 0 (leBytes 1 p ++ [0] ++ leBytes 2 code)
    have hrel : EventsOnly { relayEnded s p with inst := { (relayEnded s p).inst with
      relayPorts := (relayEnded s p).inst.relayPorts.filter (fun q => q != p) } } (relayDone (relayEnded s p) p code) := hev
    have hserve := serveTags_tags (relayDone (relayEnded s p) p code).inst.tagWait.length (relayDone (relayEnded s p) p code)
    refine ⟨?_, fun hw => ?_, ?_, ?_⟩
    · rw [hserve.inst, hrel.inst]
      rfl
    · have hwait : (relayDone (relayEnded s p) p code).inst.tagWait = [] := by
        rw [hrel.inst, relayEnded, hw]
        rfl
      rw [serveTags_none _ hwait, hrel.inst]
      rfl
    · rw [hserve.mem, hrel.doubt.mem]
      rfl
    · rw [hserve.boot, hrel.doubt.boot]
      rfl

end Sys2Proof.Machine
end

section
/-! PROOFS. The packets that arrive for this device (R377, R378, R382 to R389, R67), with O56. -/

namespace Sys2Proof.Machine

open Sys2Proof

theorem Sent.marks {s t : State} (h : Sent s t) : t.marks = s.marks := by rw [h.frame]

theorem Sent.doubt {s t : State} (h : Sent s t) : DoubtOnly s t := by
  unfold DoubtOnly
  rw [h.frame]

theorem reply_sent (s : State) (p : Packet) (st : Nat) : Sent s (reply s p st) := routePosted_sent _ _ _

theorem serve_takes {s : State} (p : Packet) (f : State → State) (h : takesRequests s = true) :
    serve p s f = f (takePacket s p) := if_pos h

/-- A device that takes no requests answers or discards. -/
theorem serve_refuses {s : State} (p : Packet) (f : State → State) (h : takesRequests s = false) :
    Sent (takePacket s p) (serve p s f) := by
  have hif : serve p s f = if expectsRsp p then reply (takePacket s p) p 0x46 else countDiscard (takePacket s p) :=
    if_neg (by rw [show takesRequests (takePacket s p) = false from h]; decide)
  rw [hif]
  split
  · exact reply_sent _ _ _
  · exact countDiscard_sent _

/-! ### WRITE (R383, R384) -/

/-- Cells of different addresses stand as they were written. -/
theorem memByte_cellsInto_of_mem {m : List Host.Cell} {cs : List (Nat × Byte)} (hn : (cs.map Prod.fst).Nodup) {c : Nat × Byte}
    (hc : c ∈ cs) : memByte (cellsInto m cs) c.1 = c.2 := by
  induction cs generalizing m with
  | nil => cases hc
  | cons e cs ih =>
    rw [List.map_cons, List.nodup_cons] at hn
    obtain ⟨he, hn⟩ := hn
    rcases List.mem_cons.mp hc with rfl | hc
    · refine (memByte_cellsInto _ cs fun x hx h => he (List.mem_map.mpr ⟨x, hx, h⟩)).trans ?_
      exact memByte_memSet_same _ _ _
    · exact ih hn hc

/-- No two cells of a packet have one address (R375). -/
theorem packetCells_nodup (p : Packet) : ((packetCells p).1.map Prod.fst).Nodup := by
  have hz := List.nodup_range (n := (p.data.flatMap (padTo 64)).length)
  rw [← List.map_fst_zip (l₁ := List.range (p.data.flatMap (padTo 64)).length) (l₂ := p.data.flatMap (padTo 64)) (by simp)] at hz
  unfold packetCells
  rw [List.Nodup, List.pairwise_map, List.pairwise_filterMap]
  rw [List.Nodup, List.pairwise_map] at hz
  refine hz.imp fun {a b} hab x hx y hy hxy => hab ?_
  dsimp only at hx hy
  rw [Option.ite_none_right_eq_some, Option.some.injEq] at hx hy
  rw [← hx.2, ← hy.2] at hxy
  exact Nat.add_left_cancel hxy

/-- The state in which a remote WRITE's bytes stand. -/
def written (s : State) (p : Packet) : State := storeCells (takePacket s p) (packetCells p).1 (packetCells p).2

theorem written_memory (s : State) (p : Packet) :
    let t := written s p
    DoubtOnly { s with mem := t.mem, marks := t.marks, eccBad := t.eccBad, eccCnt := t.eccCnt, eccWin := t.eccWin,
                       wcache := t.wcache, freeCnt := t.freeCnt } t := by
  intro t
  have h : StoreOnly (takePacket s p) t := storeCells_store _ _ _
  have hd : t.dma = (takePacket s p).dma := storeCells_dma _ _ _
  unfold StoreOnly DoubtOnly at h
  rw [hd] at h
  exact h

theorem access_granted {s : State} {dom a n : Nat} {wr : Bool} (h : accessStatus s dom wr a n = .ok) :
    access s dom wr a n = (s, .ok) := by
  rw [access, h]
  rfl

theorem applyWrite_stores {s : State} {p : Packet} {w : Window} (hw : windowAt s p.win = some w) (ho : w.open_ = true)
    (he : w.epoch = p.epoch)
    (hr : inRange (cellSpan (packetCells p).1).1 (cellSpan (packetCells p).1).2 w.base w.length = true)
    (ha : accessStatus s p.domain true (cellSpan (packetCells p).1).1 (cellSpan (packetCells p).1).2 = .ok) :
    applyWrite p s = reply (storeCells s (packetCells p).1 (packetCells p).2) p 0 := by
  unfold applyWrite
  simp only [hw, ho, he, hr, access_granted ha, bne_self_eq_false, Bool.not_true, Bool.or_self, Bool.false_eq_true, if_false, if_true]

theorem closedEvent_memory (s : State) (p : Packet) (w : Window) :
    (closedEvent s p w).mem = s.mem ∧ (closedEvent s p w).marks = s.marks := by
  unfold closedEvent
  dsimp only
  split
  · exact ⟨rfl, rfl⟩
  · exact ⟨(postEvent_only _ _ _ _ _).doubt.mem, (postEvent_only _ _ _ _ _).doubt.marks⟩

/-- A remote WRITE that is not applied stores nothing. -/
theorem applyWrite_refuses {s : State} {p : Packet}
    (h : ∀ w, windowAt s p.win = some w → ¬ (w.open_ = true ∧ w.epoch = p.epoch ∧
      inRange (cellSpan (packetCells p).1).1 (cellSpan (packetCells p).1).2 w.base w.length = true ∧
      accessStatus s p.domain true (cellSpan (packetCells p).1).1 (cellSpan (packetCells p).1).2 = .ok)) :
    (applyWrite p s).mem = s.mem ∧ (applyWrite p s).marks = s.marks := by
  unfold applyWrite
  dsimp only
  split
  · exact ⟨(reply_sent _ _ _).mem, (reply_sent _ _ _).marks⟩
  next w hw =>
    split
    · obtain ⟨hm, hk⟩ := closedEvent_memory s p w
      exact ⟨(reply_sent _ _ _).mem.trans hm, (reply_sent _ _ _).marks.trans hk⟩
    next hopen =>
      split
      · exact ⟨(reply_sent _ _ _).mem, (reply_sent _ _ _).marks⟩
      next hrange =>
        have hdoubt := (access_only s p.domain true (cellSpan (packetCells p).1).1 (cellSpan (packetCells p).1).2).doubt
        split
        next hst =>
          refine absurd ⟨?_, ?_, ?_, hst⟩ (h w hw)
          · simp at hopen
            exact hopen.1
          · simp at hopen
            exact hopen.2
          · simpa using hrange
        · exact ⟨(reply_sent _ _ _).mem.trans hdoubt.mem, (reply_sent _ _ _).marks.trans hdoubt.marks⟩

/-! ### READ (R378) -/

/-- The state in which a remote READ has met what it reads. -/
def readMet (s : State) (p : Packet) : State :=
  let a := access s p.domain false (p.addr / 64 * 64) (64 * min 4 p.grans)
  if a.2 = .ok then meetRange (p.addr / 64 * 64) (64 * min 4 p.grans) a.1 else a.1

/-- The granules that a remote READ finds, with their marks. -/
def sentGrans (s : State) (p : Packet) (st : Status) : List (List Byte × Nat) :=
  (List.range (min 4 p.grans)).map (fun i => match st with
    | .ok => (viewBytes s (p.addr / 64 * 64 + 64 * i) 64, (markOf s (granOf (p.addr / 64 * 64) + i)).toNat)
    | _ => (List.replicate 64 (0 : Byte), poisonMark))

/-- The response to a remote READ that finds these granules. -/
def readReply (s : State) (p : Packet) (st : Status) (gs : List (List Byte × Nat)) : Packet :=
  let data := if st = .ok ∨ st = .denied then gs else []
  { responseTo (readMet s p) p (statusCode st) with
    grans := data.length, data := data.map (·.1), codes := data.map (fun e => tc e.1 ^^^ e.2) }

/-- The response to a remote READ. -/
def readPacket (s : State) (p : Packet) (st : Status) : Packet := readReply s p st (sentGrans s p st)

theorem applyRead_posts (p : Packet) (s : State) : applyRead p s =
    routePosted (readMet s p) 12 (readPacket s p (accessStatus s p.domain false (p.addr / 64 * 64) (64 * min 4 p.grans))) := by
  have hgs : ∃ gs, applyRead p s = routePosted (readMet s p) 12
      (readReply s p (accessStatus s p.domain false (p.addr / 64 * 64) (64 * min 4 p.grans)) gs) ∧
      gs = sentGrans s p (accessStatus s p.domain false (p.addr / 64 * 64) (64 * min 4 p.grans)) := by
    refine ⟨_, rfl, ?_⟩
    refine List.map_congr_left fun i _ => ?_
    cases accessStatus s p.domain false (p.addr / 64 * 64) (64 * min 4 p.grans) <;> rfl
  obtain ⟨gs, hr, rfl⟩ := hgs
  exact hr

theorem readMet_reads (s : State) (p : Packet) : ReadsOnly s (readMet s p) := by
  unfold readMet
  dsimp only
  split
  · exact (access_only _ _ _ _ _).reads.trans (meetRange_reads _ _ _)
  · exact (access_only _ _ _ _ _).reads

theorem readMet_clean {s : State} {p : Packet}
    (h : ∀ y ∈ s.eccBad, granOf y.addr ∉ gransOf (p.addr / 64 * 64) (64 * min 4 p.grans)) :
    readMet s p = (access s p.domain false (p.addr / 64 * 64) (64 * min 4 p.grans)).1 := by
  unfold readMet
  dsimp only
  split
  · exact meetRange_absent (by rw [(access_only _ _ _ _ _).doubt.eccBad]; exact h)
  · rfl

theorem readPacket_ok (s : State) (p : Packet) : (readPacket s p .ok).status = 0 ∧ (readPacket s p .ok).grans = min 4 p.grans ∧
    (readPacket s p .ok).data = (List.range (min 4 p.grans)).map (fun i => viewBytes s (p.addr / 64 * 64 + 64 * i) 64) := by
  refine ⟨rfl, ?_, ?_⟩
  · simp only [readPacket, readReply, true_or, if_true, sentGrans, List.length_map, List.length_range]
  · simp only [readPacket, readReply, true_or, if_true, sentGrans, List.map_map, Function.comp_def]

theorem readPacket_denied (s : State) (p : Packet) : (readPacket s p .denied).status = statusCode .denied ∧
    (readPacket s p .denied).data = List.replicate (min 4 p.grans) (List.replicate 64 0) := by
  refine ⟨rfl, ?_⟩
  simp only [readPacket, readReply, or_true, if_true, sentGrans, List.map_const', List.length_range, List.map_replicate]

/-! ### Windows (R382) -/

theorem windowRequest_changes {s : State} {p : Packet} {w : Window} (f : Window → Window) (hw : windowAt s p.win = some w)
    (ha : accessStatus s p.domain true w.base w.length = .ok) : windowRequest p f s =
      routePosted (setWindow s p.win (f w)) 12 { responseTo s p 0 with epoch := (f w).epoch } := by
  unfold windowRequest
  simp only [hw, access_granted ha, ne_eq, not_true_eq_false, if_false]

/-- The window that a request has changed, and the others. -/
theorem windowRequest_window {s : State} {p : Packet} {w : Window} (f : Window → Window) (ht : takesRequests s = true)
    (hw : windowAt s p.win = some w) (ha : accessStatus s p.domain true w.base w.length = .ok) :
    let t := serve p s (windowRequest p f)
    windowAt t p.win = some (f w) ∧ t.mem = s.mem ∧ ∀ k, k ≠ p.win → windowAt t k = windowAt s k := by
  intro t
  have ht : t = routePosted (setWindow (takePacket s p) p.win (f w)) 12
      { responseTo (takePacket s p) p 0 with epoch := (f w).epoch } :=
    (serve_takes p _ ht).trans (windowRequest_changes (s := takePacket s p) f hw ha)
  have hsent : Sent (setWindow (takePacket s p) p.win (f w)) t := ht ▸ routePosted_sent _ _ _
  refine ⟨?_, hsent.mem, fun k hk => ?_⟩
  · rw [windowAt, hsent.inst]
    exact tabGet?_tabSet_same _ _ _
  · rw [windowAt, hsent.inst]
    exact tabGet?_tabSet_other _ _ hk

/-! ### Boot packets (R67, R389) -/

theorem doBootData_taken {s : State} {port : Nat} (p : Packet) (h : romTakes s port = true) : doBootData port p s =
    receiveAt { takePacket s p with boot := { s.boot with srcPort := some port } } p.addr (p.data.flatMap (padTo 64)) := if_pos h

theorem doBootEnd_taken {s : State} {port : Nat} (p : Packet) (hb : s.rst.bootSrc = 1)
    (hph : ¬ (s.boot.phase = 0xFF ∨ s.boot.phase = 0x04 ∨ s.boot.phase = 0x05)) (hport : s.boot.srcPort = some port) :
    doBootEnd port p s = if s.boot.verifying then { takePacket s p with boot := { s.boot with relayReq := some p } }
      else bootAnswer { takePacket s p with boot := bootFail s.boot 0x0B03 } port p 0 0x0B03 :=
  (if_neg (Classical.not_not.mpr hb)).trans ((if_neg hph).trans (if_neg (Classical.not_not.mpr hport)))

theorem doBootEnd_ended {s : State} {port : Nat} (p : Packet) (hb : s.rst.bootSrc = 1)
    (hph : s.boot.phase = 0xFF ∨ s.boot.phase = 0x04 ∨ s.boot.phase = 0x05) :
    doBootEnd port p s = bootAnswer (takePacket s p) port p 0 s.boot.code.toNat :=
  (if_neg (Classical.not_not.mpr hb)).trans (if_pos hph)

/-! ### Responses (R377) -/

/-- The state in which a transaction's tag is free and its status is noted. -/
def responseNoted (s : State) (tag : Nat) (t : Txn) (status epoch : Nat) : State :=
  noteResponse { s with inst := { s.inst with txns := tabErase tag s.inst.txns } } t.dst t.win t.kind status epoch

theorem completeTxn_eq (s : State) (tag : Nat) (t : Txn) (status : Nat) (p : Packet) :
    let u := txnResult (responseNoted s tag t status p.epoch) t status p
    completeTxn s tag t status p = serveTags u.inst.tagWait.length u := rfl

/-- A response that answers a command: its tag is free, and its record has its answer. -/
theorem completeTxn_answers {s : State} {tag status : Nat} {t : Txn} {p : Packet} {w : WaitKind} {st : Status}
    {payload : List Byte} (h : ∀ q, txnResult q t status p = answer q w st payload) :
    (s.inst.tagWait = [] → (completeTxn s tag t status p).inst.txns = tabErase tag s.inst.txns) ∧
      completesWait s (completeTxn s tag t status p) w st payload := by
  rw [completeTxn_eq, h]
  have hc := answer_completed (responseNoted s tag t status p.epoch) w st payload
  refine ⟨fun hw => ?_, fun hup i r hr hs => ?_⟩
  · rw [serveTags_none _ (hc.waits hw), hc.txns]
    rfl
  · rw [(serveTags_tags _ _).mb]
    exact answer_completes_of (s := s) (q := responseNoted s tag t status p.epoch) rfl rfl hup i r hr hs

theorem doTransactionResponse_completes {s : State} {p : Packet} {x : Txn} (hx : tabGet? s.inst.txns p.tag = some x)
    (hg : p.gen = s.inst.gen) (hk : ¬ (x.kind = 0x06 ∧ p.status = 0)) :
    doTransactionResponse p s = completeTxn (takePacket s p) p.tag x p.status p := by
  unfold doTransactionResponse
  dsimp only
  rw [show tabGet? (takePacket s p).inst.txns p.tag = some x from hx]
  dsimp only
  rw [if_neg (Classical.not_not.mpr (show p.gen = (takePacket s p).inst.gen from hg)), if_neg hk]

theorem doTransactionResponse_relay {s : State} {p : Packet} {x : Txn} (hx : tabGet? s.inst.txns p.tag = some x)
    (hg : p.gen = s.inst.gen) (hk : x.kind = 0x06) (hs : p.status = 0) (hl : bitAt p.pflags 1 = true) :
    doTransactionResponse p s =
      completeTxn (takePacket s p) p.tag { x with rsp := x.rsp ++ p.data.flatMap (padTo 64) } 0 p := by
  unfold doTransactionResponse
  dsimp only
  rw [show tabGet? (takePacket s p).inst.txns p.tag = some x from hx]
  dsimp only
  rw [if_neg (Classical.not_not.mpr (show p.gen = (takePacket s p).inst.gen from hg)), if_pos ⟨hk, hs⟩, if_pos hl]

/-- A run whose write has completed (R332, R377). -/
def writeDone (r : DmaRun) (bytes status : Nat) : DmaRun :=
  { r with writes := r.writes - 1, bytes := if status = 0 then r.bytes + bytes else r.bytes,
           status := if status = 0 then r.status else if r.status = .ok then statusOf status else r.status }

theorem writeDone_ok (r : DmaRun) (bytes : Nat) : writeDone r bytes 0 = { r with writes := r.writes - 1, bytes := r.bytes + bytes } := rfl

theorem writeDone_failed (r : DmaRun) (bytes : Nat) {status : Nat} (h : status ≠ 0) : writeDone r bytes status =
    { r with writes := r.writes - 1, status := if r.status = .ok then statusOf status else r.status } := by
  simp only [writeDone, if_neg h]

theorem moverResponse_write {s : State} {c : Nat} {t : Txn} (status : Nat) (p : Packet) {r : DmaRun} {m : Mover}
    (hr : runAt s c = some r) (hm : moverAt s c = some m) (hk : t.kind = 0x01) (hw : s.inst.tagWait = []) :
    ∃ q, moverResponse s c t status p = setRunAt q c (some (writeDone r t.bytes status)) ∧ q = { s with inst := q.inst } ∧
      q.inst.txns = s.inst.txns ∧ q.inst.tagWait = [] := by
  unfold moverResponse
  simp only [hr, hm, hk, if_true]
  by_cases hs : status = 0
  · subst hs
    refine ⟨s, ?_, rfl, rfl, hw⟩
    rw [writeDone_ok, if_pos rfl]
  · refine ⟨(dropWaiting s c).1, ?_, rfl, rfl, ?_⟩
    · rw [writeDone_failed r t.bytes hs, if_neg hs]
      simp only [dropWaiting, hw, List.filter_nil, List.length_nil, Nat.sub_zero]
    · simp only [dropWaiting, hw, List.filter_nil]

/-- Settles O56: each packet by what its target does past its checks, and what sending its response leaves alone. -/
theorem arrivedPacketsAreServed : Obligations.ArrivedPacketsAreServed := by
  unfold Obligations.ArrivedPacketsAreServed
  refine ⟨fun s0 s ecc p hs => ⟨fun w ht hw hgood => ?_, fun h => ?_⟩, fun s0 s ecc p hs ht => ?_, fun s p w ht hw ha => ⟨?_, ?_⟩,
    fun s p ht => ⟨fun hl => ?_, fun hl => ?_⟩, fun s port p => ⟨fun ht ha => ?_, fun ht hlt hle => ?_, fun ht => ?_⟩,
    fun s port p hb h4 h5 hff hport => ⟨fun hv => ?_, fun hv => ?_⟩, fun s port p hb hph => ?_,
    fun s port p hup => ⟨fun hj => ?_, fun hj => ?_⟩, fun s p ht hfifo hlost => ?_,
    fun s p => ⟨fun h => ?_, fun x hx hg hk hc k hw => ?_, fun x k hx hg hk hc hw hst hl => ?_,
      fun x c r m hx hg hk hc hr hm hw => ?_⟩⟩
  · subst hs
    obtain ⟨ho, he, hrange, hacc⟩ := hgood
    refine ⟨_, rfl, ?_⟩
    rw [show doWrite p (plant ecc s0) = reply (written (plant ecc s0) p) p 0 from
      (serve_takes p _ ht).trans (applyWrite_stores (s := takePacket (plant ecc s0) p) hw ho he hrange hacc)]
    have hsent := reply_sent (written (plant ecc s0) p) p 0
    have hmem : (written (plant ecc s0) p).mem = cellsInto (plant ecc s0).mem (packetCells p).1 := storeCells_mem _ _ _
    have hdoubt := written_memory (plant ecc s0) p
    generalize reply (written (plant ecc s0) p) p 0 = t at hsent
    refine ⟨?_, fun c hcell => ?_, fun a ha => ?_⟩
    · have hf := hsent.doubt
      unfold DoubtOnly at hf hdoubt ⊢
      rw [hf, hdoubt]
    · rw [hsent.mem, hmem]
      exact memByte_cellsInto_of_mem (packetCells_nodup p) hcell
    · rw [hsent.mem, hmem]
      exact memByte_cellsInto _ _ fun e he hea => ha (List.mem_map.mpr ⟨e, he, hea⟩)
  · subst hs
    refine ⟨_, rfl, ?_⟩
    by_cases ht : takesRequests (plant ecc s0) = true
    · rw [doWrite, serve_takes p _ ht]
      refine applyWrite_refuses (s := takePacket (plant ecc s0) p) (h.resolve_right ?_)
      rw [ht]
      decide
    · have hsent := serve_refuses p (applyWrite p) (Bool.not_eq_true _ ▸ ht)
      exact ⟨hsent.mem, hsent.marks⟩
  · subst hs
    intro base n
    refine ⟨_, readMet (takePacket (plant ecc s0) p) p, congrArg Host.Outcome.next
      ((serve_takes p _ ht).trans (applyRead_posts p (takePacket (plant ecc s0) p))), ?_,
      fun hclean => readMet_clean (s := takePacket (plant ecc s0) p) hclean, rfl, rfl, rfl, fun hacc => ?_, fun hacc => ?_⟩
    · exact (show ReadsOnly (plant ecc s0) (takePacket (plant ecc s0) p) from rfl).trans (readMet_reads _ p)
    · rw [show accessStatus (takePacket (plant ecc s0) p) p.domain false (p.addr / 64 * 64) (64 * min 4 p.grans) = .ok from hacc]
      exact readPacket_ok _ p
    · rw [show accessStatus (takePacket (plant ecc s0) p) p.domain false (p.addr / 64 * 64) (64 * min 4 p.grans) = .denied from hacc]
      exact readPacket_denied _ p
  · exact ⟨_, rfl, windowRequest_window openWindow ht hw ha⟩
  · exact ⟨_, rfl, windowRequest_window closeWindow ht hw ha⟩
  · exact congrArg Host.Outcome.next ((serve_takes p _ ht).trans (if_neg (by rw [hl]; decide)))
  · exact congrArg Host.Outcome.next ((serve_takes p _ ht).trans (if_pos hl))
  · exact congrArg Host.Outcome.next ((doBootData_taken p ht).trans (if_pos ha))
  · have hput : doBootData port p s = putBytes { takePacket s p with boot := { s.boot with srcPort := some port } }
        (cpBase + p.addr) ((p.data.flatMap (padTo 64)).take (cpSize - p.addr)) false := by
      refine (doBootData_taken p ht).trans ?_
      unfold receiveAt
      dsimp only
      rw [if_neg (by omega), if_neg (by omega)]
    refine ⟨_, congrArg Host.Outcome.next hput, rfl, ?_⟩
    rw [List.take_of_length_le (by omega)]
    exact memRead_memWrite _ _ _
  · exact congrArg Host.Outcome.next (if_neg (by rw [show romTakes (takePacket s p) port = false from ht]; decide))
  · refine congrArg Host.Outcome.next ((doBootEnd_taken p hb (by grind) hport).trans ?_)
    rw [hv]
    rfl
  · have hend : doBootEnd port p s = bootAnswer { takePacket s p with boot := bootFail s.boot 0x0B03 } port p 0 0x0B03 := by
      refine (doBootEnd_taken p hb (by grind) hport).trans ?_
      rw [hv]
      rfl
    have hsent : Sent { takePacket s p with boot := bootFail s.boot 0x0B03 } (doBootEnd port p s) :=
      hend ▸ sendHopLocal_sent _ _ _
    exact ⟨_, rfl, hsent.boot, hsent.mem⟩
  · exact congrArg Host.Outcome.next (doBootEnd_ended p hb (by grind))
  · have hup' : fwUp (takePacket s p) = true := hup
    have hjoin : (takePacket s p).inst.joined = false := hj
    have hdo : doIdAssign port p s = sendHopLocal (joinAs (takePacket s p) (p.arg % 1024)) port
        { responseTo (joinAs (takePacket s p) (p.arg % 1024)) p 0 with pflags := 1 } := by
      unfold doIdAssign
      dsimp only
      rw [hup', hjoin]
      rfl
    have hsent : Sent (joinAs (takePacket s p) (p.arg % 1024)) (doIdAssign port p s) := hdo ▸ sendHopLocal_sent _ _ _
    refine ⟨_, rfl, ?_, ?_, fun hp => ?_⟩
    · rw [hsent.inst]
      rfl
    · rw [hsent.inst]
      rfl
    · have hp' : hasParent (takePacket s p) = false := hp
      rw [hsent.inst]
      simp only [joinAs, hp', Bool.false_eq_true, if_false, and_self]
  · have hup' : fwUp (takePacket s p) = true := hup
    have hjoin : (takePacket s p).inst.joined = true := hj
    have hdo : doIdAssign port p s = sendHopLocal (takePacket s p) port { responseTo (takePacket s p) p 0x09 with pflags := 1 } := by
      unfold doIdAssign
      dsimp only
      rw [hup', hjoin]
      rfl
    have hsent : Sent (takePacket s p) (doIdAssign port p s) := hdo ▸ sendHopLocal_sent _ _ _
    refine ⟨_, rfl, ?_⟩
    rw [hsent.inst]
    rfl
  · refine congrArg Host.Outcome.next ((serve_takes p _ ht).trans (if_pos ?_))
    have hf : (takePacket s p).ev.fifo.length < 1024 := hfifo
    have hz : (takePacket s p).ev.lost = 0 := hlost
    simp [hf, hz]
  · refine congrArg Host.Outcome.next ?_
    unfold doTransactionResponse
    dsimp only
    cases hx : tabGet? (takePacket s p).inst.txns p.tag with
    | none => rfl
    | some x =>
      refine if_pos (h.resolve_left fun hnone => ?_)
      rw [show tabGet? s.inst.txns p.tag = some x from hx] at hnone
      cases hnone
  · have hres : ∀ q, txnResult q x p.status p = answer q (.idAssign k) (statusOf p.status) [] := fun q => by
      unfold txnResult
      rw [hc, hw]
    refine ⟨_, congrArg Host.Outcome.next (doTransactionResponse_completes hx hg (by omega)), ?_⟩
    exact completeTxn_answers (s := takePacket s p) hres
  · intro b
    have hres : ∀ q, txnResult q { x with rsp := b } 0 p = answer q (.relay k) (statusOf 0) (b.take (32 + fieldAt b 8 4)) :=
      fun q => by
        unfold txnResult
        rw [hc, hw]
        rfl
    refine ⟨_, congrArg Host.Outcome.next (doTransactionResponse_relay hx hg hk hst hl), ?_⟩
    exact completeTxn_answers (s := takePacket s p) hres
  · have hres : ∀ q, txnResult q x p.status p = moverResponse q c x p.status p := fun q => by
      unfold txnResult
      rw [hc]
    obtain ⟨q, hq, hqs, htx, hwait⟩ := moverResponse_write (s := responseNoted (takePacket s p) p.tag x p.status p.epoch) (c := c)
      p.status p hr hm hk hw
    refine ⟨q, ?_, ?_, htx⟩
    · refine congrArg Host.Outcome.next ((doTransactionResponse_completes hx hg (by omega)).trans ?_)
      rw [completeTxn_eq, hres, hq]
      exact serveTags_none _ (by rw [setRunAt_inst, hwait])
    · rw [hqs]
      rfl

end Sys2Proof.Machine
end

section
/-! PROOFS. Training, flits, control flits, replay and the loss of a link (R356 to R368), with O55. -/

namespace Sys2Proof.Machine

open Sys2Proof

/-- The ports and the trace alone are different. -/
def PortsTrace (s t : State) : Prop := t = { s with lports := t.lports, trace := t.trace }

theorem PortsTrace.trans {s t u : State} (h : PortsTrace s t) (k : PortsTrace t u) : PortsTrace s u := by
  unfold PortsTrace at h k ⊢
  rw [h] at k
  exact k

theorem PortsTrace.trans' {s t u : State} (k : PortsTrace t u) (h : PortsTrace s t) : PortsTrace s u := h.trans k

theorem bump_portsTrace (s : State) (cls u i n : Nat) : PortsTrace s (bump s cls u i n) := rfl

theorem setLport_portsTrace (s : State) (p : Nat) (l : LinkPort) : PortsTrace s (setLport s p l) := rfl

theorem freeFlits_portsTrace (s : State) (p vc n : Nat) : PortsTrace s (freeFlits s p vc n) := linkTrace_freeFlits s p vc n

theorem emitTrace_portsTrace (s : State) (c u : Nat) (g : Bool) (k a : Nat) (e : List (Nat × Nat × Nat × Nat × Nat)) :
    PortsTrace s (emitTrace s c u g k a e) := by
  unfold PortsTrace
  rw [emitTrace_trace]

/-! ### Training -/

theorem doLinkUp_ups {s : State} {p : Nat} (c : PeerConfig) (h : portIn s p .config = true) :
    let q := setLport (enterState s p .active) p { freshPort (lportOf (enterState s p .active) p) with peer := some c }
    let u := postEvent q 0x0800 5 p (leBytes 1 p ++ [0] ++ leBytes 2 c.id)
    doLinkUp p c s = u ∨ doLinkUp p c s = postEvent u 0x0803 5 p (leBytes 1 p ++ [0] ++ leBytes 2 c.id) := by
  intro q u
  have hdo : doLinkUp p c s = if c.id = u.inst.id ∧ c.joined ∧ u.inst.joined then
      postEvent u 0x0803 5 p (leBytes 1 p ++ [0] ++ leBytes 2 c.id) else u := if_pos h
  rw [hdo]
  split
  · exact .inr rfl
  · exact .inl rfl

/-- The port that has come up, and the others. -/
theorem linkUp_port (s : State) (p : Nat) (c : PeerConfig) :
    let q := setLport (enterState s p .active) p { freshPort (lportOf (enterState s p .active) p) with peer := some c }
    lportOf q p = { freshPort { lportOf s p with st := .active, since := s.time } with peer := some c } ∧
      ∀ k, k ≠ p → lportOf q k = lportOf s k := by
  intro q
  constructor
  · rw [lportOf_setLport_same, enterState, lportOf_setLport_same]
  · intro k hk
    rw [lportOf_setLport_other _ _ hk, enterState, lportOf_setLport_other _ _ hk]

theorem OutputOf.config {l m : LinkPort} (h : OutputOf l m) :
    m.since = l.since ∧ m.rxExp = l.rxExp ∧ m.peer = l.peer ∧ m.chan = l.chan := by
  unfold OutputOf at h
  rw [h]
  exact ⟨rfl, rfl, rfl, rfl⟩

/-- What a port's coming up leaves: its events come after the port is active. -/
theorem doLinkUp_events {s : State} {p : Nat} (c : PeerConfig) (h : portIn s p .config = true) :
    let q := setLport (enterState s p .active) p { freshPort (lportOf (enterState s p .active) p) with peer := some c }
    EventsOnly s (doLinkUp p c s) ∧ OutputOnly q (doLinkUp p c s) := by
  intro q
  have h0 : EventsOnly s q := rfl
  have h1 := postEvent_only q 0x0800 5 p (leBytes 1 p ++ [0] ++ leBytes 2 c.id)
  have o1 := postEvent_output q 0x0800 5 p (leBytes 1 p ++ [0] ++ leBytes 2 c.id)
  rcases doLinkUp_ups c h with hu | hu
  · rw [hu]
    exact ⟨h0.trans h1, o1⟩
  · rw [hu]
    exact ⟨(h0.trans h1).trans (postEvent_only _ _ _ _ _), o1.trans (postEvent_output _ _ _ _ _)⟩

theorem updateDoubt_output (s : State) : OutputOnly s (updateDoubt s) := .of_lports rfl

theorem conds_output (s : State) (c : List Cond) : OutputOnly s { s with safety := { s.safety with conds := c } } := .of_lports rfl

/-- A failing source changes the ports only as outputs do. -/
theorem failCond_output (s : State) (source kind scope : Nat) (level : Bool) :
    OutputOnly s (failCond s source kind scope level) := by
  unfold failCond
  dsimp only
  refine OutputOnly.trans ?_ (updateDoubt_output _)
  split
  · refine OutputOnly.trans ?_ (postEvent_output _ _ _ _ _)
    split
    · exact (conds_output s _).trans (postEvent_output _ _ _ _ _)
    · exact conds_output s _
  · split
    · exact (conds_output s _).trans (postEvent_output _ _ _ _ _)
    · exact conds_output s _

theorem Lost.events {p : Nat} {l : LinkPort} {s t : State} (h : Lost p l s t) : EventsOnly s t := by
  unfold EventsOnly
  rw [h.frame]

/-! ### Flits that are not taken (R361, R366, R367) -/

theorem stompOut_only (s : State) (p : Nat) (x : Flit) :
    PortsTrace s (stompOut s p x) ∧ ∀ q, lportOf (stompOut s p x) q = lportOf s q := by
  unfold stompOut
  dsimp only
  split
  · split
    · split <;> exact ⟨rfl, fun _ => rfl⟩
    · split <;> exact ⟨rfl, fun _ => rfl⟩
  · exact ⟨rfl, fun _ => rfl⟩

/-- A CTRL flit carries what is owed, and nothing is owed after it (R366). -/
theorem sendCtrl_sends (s : State) (p : Nat) :
    ∃ m, sendCtrl s p = bump (setLport s p { lportOf s p with lastCtrl := some m, ackOwed := false, nakOwed := false }) 5 p 0 1 ∧
      m.nakPresent = (lportOf s p).nakOwed ∧ (m.nakPresent = true → m.nak = (lportOf s p).rxExp) ∧ m.cred = (lportOf s p).freed ∧
      m.ack = ((lportOf s p).rxExp + 2047) % 2048 :=
  ⟨_, rfl, rfl, fun h => if_pos h, rfl, rfl⟩

/-- A port after a flit whose CRC failed, before the CTRL flit leaves. -/
def failedPort (l : LinkPort) (number : Bool) : LinkPort :=
  { l with crcErrs := l.crcErrs + 1, crcRun := l.crcRun + 1, nakSent := l.nakSent || (number && ! l.nakSent),
           nakOwed := l.nakOwed || (number && ! l.nakSent) }

theorem failFlit_state (s : State) (p : Nat) (x : Flit) :
    let number := decide (1 ≤ x.kind) && decide (x.kind ≤ 4)
    ∃ q, failFlit s p x = sendCtrl q p ∧ PortsTrace s q ∧ lportOf q p = failedPort (lportOf s p) number := by
  intro number
  let u := bump (setLport s p { lportOf s p with crcErrs := (lportOf s p).crcErrs + 1, crcRun := (lportOf s p).crcRun + 1 }) 5 p 5 1
  obtain ⟨w, hw, hwu, hport⟩ : ∃ w, (if number then stompOut u p x else u) = w ∧ PortsTrace u w ∧ lportOf w p = lportOf u p := by
    refine ⟨_, rfl, ?_⟩
    split
    · exact ⟨(stompOut_only u p x).1, (stompOut_only u p x).2 p⟩
    · exact ⟨rfl, rfl⟩
  have hfail : failFlit s p x = sendCtrl (if number && ! (lportOf w p).nakSent then
      setLport w p { lportOf w p with nakSent := true, nakOwed := true } else w) p := by
    rw [← hw]
    rfl
  have hsw : PortsTrace s w := PortsTrace.trans (t := u) rfl hwu
  have hu : lportOf u p = { lportOf s p with crcErrs := (lportOf s p).crcErrs + 1, crcRun := (lportOf s p).crcRun + 1 } :=
    lportOf_setLport_same _ _ _
  rw [hu] at hport
  refine ⟨_, hfail, ?_, ?_⟩
  · split
    · exact hsw.trans (setLport_portsTrace _ _ _)
    · exact hsw
  · rw [hport, failedPort]
    by_cases hfirst : (number && ! (lportOf s p).nakSent) = true
    · rw [if_pos hfirst, lportOf_setLport_same, hfirst, Bool.or_true, Bool.or_true]
    · rw [if_neg hfirst, hport, (Bool.not_eq_true _).mp hfirst, Bool.or_false, Bool.or_false]

/-! ### Heads and data (R360, R362, R367) -/

/-- A port after it has taken a sequence number. -/
def countedPort (l : LinkPort) : LinkPort :=
  { l with rxExp := (l.rxExp + 1) % 2048, nakSent := false, ackOwed := true, crcRun := 0 }

/-- The state in which a flit in sequence is counted. -/
def seqTaken (s : State) (p : Nat) : State := setLport (bump s 5 p 1 1) p (countedPort (lportOf s p))

theorem seqTaken_same (s : State) (p : Nat) : lportOf (seqTaken s p) p = countedPort (lportOf s p) := lportOf_setLport_same _ _ _

theorem seqTaken_other (s : State) {p q : Nat} (h : q ≠ p) : lportOf (seqTaken s p) q = lportOf s q :=
  lportOf_setLport_other _ _ h

theorem routeHead_congr {s t : State} (x : Packet) (hi : t.inst = s.inst) (hb : t.boot = s.boot)
    (hp : ∀ q, (lportOf t q).st = (lportOf s q).st) : routeHead t x = routeHead s x := by
  unfold routeHead takesRequests routeOf
  rw [hi, hb, hp]

theorem seqTaken_st (s : State) (p q : Nat) : (lportOf (seqTaken s p) q).st = (lportOf s q).st := by
  by_cases h : q = p
  · subst h
    rw [seqTaken_same]
    rfl
  · rw [seqTaken_other s h]

theorem acceptFlit_head {s : State} {p : Nat} {x : Flit} (hk : x.kind = 1 ∨ x.kind = 4) :
    acceptFlit (bump s 5 p 1 1) p x = acceptHead (seqTaken s p) p x := if_pos hk

/-- The state in which an input holds a head, on its way to a route. -/
def headHeld (s : State) (p : Nat) (x : Flit) (rt : RxRoute) : State :=
  setLport (seqTaken s p) p { countedPort (lportOf s p) with rxPart := if x.kind = 4 then [] else [x], rxRoute := rt }

/-- The state in which a head that goes on has reached its output. -/
def headOut (s : State) (p : Nat) (x : Flit) (rt : RxRoute) : State :=
  match rt with
  | .forward r => openAt (headHeld s p x rt) r p x
  | _ => headHeld s p x rt

/-- A head whose check holds goes on by its route. -/
theorem acceptHead_goes {s : State} {p : Nat} {x : Flit} {rt : RxRoute} (hpart : (lportOf s p).rxPart = [])
    (hc : x.check = headCheck x.payload) (hr : routeHead s (packetOf x.payload [] []) = rt) :
    acceptHead (seqTaken s p) p x = if x.kind = 4 then packetDone (headOut s p x rt) p rt x [] else headOut s p x rt := by
  have hdrop : dropPart (seqTaken s p) p = seqTaken s p := by
    have hp : (lportOf (seqTaken s p) p).rxPart = [] := by rw [seqTaken_same]; exact hpart
    unfold dropPart
    dsimp only
    rw [hp]
  have hroute : routeHead (seqTaken s p) (packetOf x.payload [] []) = rt :=
    (routeHead_congr (s := s) (t := seqTaken s p) _ rfl rfl (seqTaken_st s p)).trans hr
  have hgood : (headCheck x.payload == x.check) = true := by simp [hc]
  unfold acceptHead
  simp only [hdrop, hgood, if_true, hroute, seqTaken_same]
  cases rt <;> rfl

/-! ### An output that is free (R362, R365) -/

theorem firstFrom_single (o : OutPkt) (vc src : Nat) :
    firstFrom [o] vc src = if o.vc = vc ∧ o.src = src then some 0 else none := by
  have h : firstFrom [o] vc src = if (o.vc == vc && o.src == src) = true then some 0 else none := by
    simp only [firstFrom, List.length_singleton, List.range_succ, List.range_zero, List.nil_append, List.find?_cons,
      List.getElem?_cons_zero, List.find?_nil]
    cases (o.vc == vc && o.src == src) <;> rfl
  rw [h]
  simp only [Bool.and_eq_true, beq_iff_eq]

theorem nextOfVc_single {l : LinkPort} {o : OutPkt} (hq : l.outQ = [o]) (hs : o.src < 13) (vc : Nat) :
    nextOfVc l vc = if o.vc = vc then some 0 else none := by
  unfold nextOfVc
  rw [hq]
  split
  next hvc =>
    have hnot : (List.range 13).findSome? (fun k => firstFrom [o] vc ((nth l.lastSrc vc + 1 + k) % 13)) ≠ none := by
      rw [Ne, List.findSome?_eq_none_iff]
      intro h
      have hk := h ((o.src + 13 * (nth l.lastSrc vc + 1) - (nth l.lastSrc vc + 1)) % 13) (List.mem_range.mpr (Nat.mod_lt _ (by decide)))
      rw [firstFrom_single, if_pos ⟨hvc, by omega⟩] at hk
      cases hk
    obtain ⟨i, hi⟩ := Option.ne_none_iff_exists'.mp hnot
    obtain ⟨k, -, hk⟩ := List.exists_of_findSome?_eq_some hi
    rw [firstFrom_single] at hk
    split at hk <;> cases hk
    exact hi
  next hvc =>
    rw [List.findSome?_eq_none_iff]
    intro k _
    rw [firstFrom_single, if_neg fun h => hvc h.1]

theorem nextPacket_single {l : LinkPort} {o : OutPkt} (hq : l.outQ = [o]) (hs : o.src < 13) (hc : canSend l o.vc = true)
    (hvc : o.vc = 0 ∨ o.vc = 1 ∨ o.vc = 3) : nextPacket l = some 0 := by
  have hr : ∀ vc, readyOfVc l vc = if o.vc = vc then some 0 else none := fun vc => by
    unfold readyOfVc
    rw [nextOfVc_single hq hs]
    by_cases h : o.vc = vc
    · subst h
      simp only [if_true, hc]
    · simp only [if_neg h]
  unfold nextPacket
  simp only [hr]
  rcases hvc with h | h | h <;> rw [h] <;> rfl

theorem nextPacket_empty {l : LinkPort} (hq : l.outQ = []) : nextPacket l = none := by
  have hr : ∀ vc, readyOfVc l vc = none := fun vc => by
    have hn : nextOfVc l vc = none := by
      unfold nextOfVc
      rw [hq, List.findSome?_eq_none_iff]
      exact fun _ _ => rfl
    unfold readyOfVc
    rw [hn]
  unfold nextPacket
  simp only [hr]

theorem pumpStep_turns {s : State} {p i : Nat} (hc : (lportOf s p).cur = none) (hn : nextPacket (lportOf s p) = some i) :
    pumpStep s p = some (startAt s p i) := by
  simp only [pumpStep, hc, hn, Option.map_some]

theorem pumpStep_sends {s : State} {p : Nat} {o : OutPkt} {f : Nat × Nat × List Byte} {rest : List (Nat × Nat × List Byte)}
    (hc : (lportOf s p).cur = some o) (hf : o.flits = f :: rest) (hcan : canSend (lportOf s p) o.vc = true) :
    pumpStep s p = some (sendFlit s p o f rest) := by
  simp only [pumpStep, hc, hf, hcan, if_true]

/-- An output that holds nothing more to send stands. -/
theorem pumpPort_empty (n : Nat) {s : State} {p : Nat} (hq : (lportOf s p).outQ = [])
    (hc : ∀ o, (lportOf s p).cur = some o → o.flits = []) : pumpPort n s p = s := by
  cases n with
  | zero => rfl
  | succ n =>
    have hstep : pumpStep s p = none := by
      unfold pumpStep
      dsimp only
      cases hcur : (lportOf s p).cur with
      | none =>
        dsimp only
        rw [nextPacket_empty hq]
        rfl
      | some o =>
        dsimp only
        rw [hc o hcur]
    unfold pumpPort
    rw [hstep]
    exact ite_self s

theorem lportOf_freeFlits_other (s : State) {p q : Nat} (vc n : Nat) (h : q ≠ p) : lportOf (freeFlits s p vc n) q = lportOf s q := by
  unfold freeFlits
  split
  · rfl
  · exact lportOf_setLport_other _ _ h

theorem lportOf_freeFlits_same (s : State) {p : Nat} (vc n : Nat) (h : p ≠ 12) : lportOf (freeFlits s p vc n) p =
    { lportOf s p with freed := (lportOf s p).freed.set vc ((nth (lportOf s p).freed vc + n) % 4096) } := by
  unfold freeFlits
  rw [if_neg h]
  exact lportOf_setLport_same _ _ _

/-- The bytes of a head as it goes on: with 1 added to HOPS (R373). -/
def passedHead (x : Flit) : List Byte := x.payload.set 15 (byteOf (fieldAt x.payload 15 1 + 1))

/-- A head on its way through an output. -/
def headPkt (p : Nat) (x : Flit) : OutPkt :=
  { pkt := packetOf (passedHead x) [] [], vc := x.vc, src := p,
    flits := [(x.kind, headCheck (passedHead x), passedHead x)], whole := x.kind == 4 }

/-- A free output that a head has reached. -/
def headQueued (u : State) (r p : Nat) (x : Flit) : State := setLport u r { lportOf u r with outQ := [headPkt p x] }

/-- The state in which the output has turned to the head. -/
def headTurned (u : State) (r p : Nat) (x : Flit) : State := startAt (headQueued u r p x) r 0

theorem headTurned_port (u : State) (r p : Nat) (x : Flit) : ∃ lv ls, headTurned u r p x =
    setLport (headQueued u r p x) r { lportOf u r with outQ := [], cur := some (headPkt p x), lastVc := lv, lastSrc := ls } := by
  have h : lportOf (headQueued u r p x) r = { lportOf u r with outQ := [headPkt p x] } := lportOf_setLport_same _ _ _
  unfold headTurned startAt
  rw [h]
  exact ⟨_, _, rfl⟩

/-- The state in which the head has left. -/
def headSent (u : State) (r p : Nat) (x : Flit) : State :=
  sendFlit (headTurned u r p x) r (headPkt p x) (x.kind, headCheck (passedHead x), passedHead x) []

/-- An output after the head has left. -/
def sentPort (l : LinkPort) (p : Nat) (x : Flit) : LinkPort :=
  { l with
    cur := restOf (headPkt p x) [],
    replay := l.replay ++ [{ flit := mkFlit x.kind x.vc l.txSeq (headCheck (passedHead x)) (passedHead x), pkt := (headPkt p x).pkt,
                             resent := 0 }],
    txSeq := (l.txSeq + 1) % 2048, credSent := l.credSent.set x.vc ((nth l.credSent x.vc + 1) % 4096) }

theorem headSent_eq (u : State) (r : Nat) {p : Nat} (x : Flit) (hp : p < 12) : headSent u r p x =
    freeFlits (bump (setLport (headTurned u r p x) r (sentPort (lportOf (headTurned u r p x) r) p x)) 5 r 0 1) p x.vc 1 := by
  unfold headSent sendFlit
  dsimp only
  rw [if_neg (show ¬ ((headPkt p x).src = 12 ∧ _) from fun h => absurd h.1 (show p ≠ 12 by omega))]
  rfl

theorem headTurned_portsTrace (u : State) (r p : Nat) (x : Flit) : PortsTrace u (headTurned u r p x) := by
  obtain ⟨lv, ls, hturn⟩ := headTurned_port u r p x
  rw [hturn]
  rfl

/-- A head that reaches a free output leaves at once. -/
theorem openAt_sends {u : State} {r p : Nat} {x : Flit} (hst : (lportOf u r).st = .active) (hcur : (lportOf u r).cur = none)
    (hq : (lportOf u r).outQ = []) (hcan : canSend (lportOf u r) x.vc = true) (hvc : x.vc = 0 ∨ x.vc = 1 ∨ x.vc = 3)
    (hp : p < 12) (hr : r ≠ p) : openAt u r p x = headSent u r p x := by
  have hq1 : lportOf (headQueued u r p x) r = { lportOf u r with outQ := [headPkt p x] } := lportOf_setLport_same _ _ _
  obtain ⟨lv, ls, hturn⟩ := headTurned_port u r p x
  have hq2 : lportOf (headTurned u r p x) r =
      { lportOf u r with outQ := [], cur := some (headPkt p x), lastVc := lv, lastSrc := ls } := by
    rw [hturn, lportOf_setLport_same]
  have hopen : openAt u r p x = pump (headQueued u r p x) r := by
    unfold openAt
    dsimp only
    rw [hq]
    rfl
  have hfuel : pumpFuel (lportOf (headQueued u r p x) r) = 3 := by
    rw [hq1]
    unfold pumpFuel
    dsimp only
    rw [hcur]
    rfl
  have hstep1 : pumpStep (headQueued u r p x) r = some (headTurned u r p x) :=
    pumpStep_turns (by rw [hq1]; exact hcur)
      (nextPacket_single (o := headPkt p x) (by rw [hq1]) (show p < 13 by omega) (by rw [hq1]; exact hcan) hvc)
  have hstep2 : pumpStep (headTurned u r p x) r = some (headSent u r p x) :=
    pumpStep_sends (by rw [hq2]) rfl (by rw [hq2]; exact hcan)
  have hlast : lportOf (headSent u r p x) r = sentPort (lportOf (headTurned u r p x) r) p x := by
    rw [headSent_eq u r x hp, lportOf_freeFlits_other _ _ _ hr, lportOf_bump, lportOf_setLport_same]
  rw [hopen, pump, hfuel]
  unfold pumpPort
  rw [if_neg (show ¬ (lportOf (headQueued u r p x) r).st ≠ .active by rw [hq1]; exact Classical.not_not.mpr hst), hstep1]
  dsimp only
  unfold pumpPort
  rw [if_neg (show ¬ (lportOf (headTurned u r p x) r).st ≠ .active by rw [hq2]; exact Classical.not_not.mpr hst), hstep2]
  dsimp only
  refine pumpPort_empty 1 (by rw [hlast, sentPort, hq2]) fun o ho => ?_
  rw [hlast, sentPort] at ho
  dsimp only at ho
  unfold restOf at ho
  split at ho <;> cases ho
  rfl

/-- What a head that has left changed: its output sent one flit, its input freed a place. -/
theorem headSent_ports {u : State} {r p : Nat} {x : Flit} (hp : p < 12) (hr : r ≠ p) :
    let t := headSent u r p x
    PortsTrace u t ∧ (lportOf t p).rxExp = (lportOf u p).rxExp ∧ (lportOf t r).txSeq = ((lportOf u r).txSeq + 1) % 2048 ∧
      ∃ h, (lportOf t r).replay = (lportOf u r).replay ++ [h] ∧
        h.flit = mkFlit x.kind x.vc (lportOf u r).txSeq (headCheck (passedHead x)) (passedHead x) := by
  obtain ⟨lv, ls, hturn⟩ := headTurned_port u r p x
  have hq2 : lportOf (headTurned u r p x) r =
      { lportOf u r with outQ := [], cur := some (headPkt p x), lastVc := lv, lastSrc := ls } := by
    rw [hturn, lportOf_setLport_same]
  have hp2 : lportOf (headTurned u r p x) p = lportOf u p := by
    rw [hturn, lportOf_setLport_other _ _ (Ne.symm hr), headQueued, lportOf_setLport_other _ _ (Ne.symm hr)]
  intro t
  have ht : t = freeFlits (bump (setLport (headTurned u r p x) r (sentPort (lportOf (headTurned u r p x) r) p x)) 5 r 0 1)
      p x.vc 1 := headSent_eq u r x hp
  rw [hq2] at ht
  refine ⟨?_, ?_, ?_, ?_⟩
  · rw [ht]
    exact (freeFlits_portsTrace _ _ _ _).trans' ((bump_portsTrace _ _ _ _ _).trans' ((setLport_portsTrace _ _ _).trans'
      (headTurned_portsTrace u r p x)))
  · rw [ht, lportOf_freeFlits_same _ _ _ (by omega), lportOf_bump, lportOf_setLport_other _ _ (Ne.symm hr), hp2]
  · rw [ht, lportOf_freeFlits_other _ _ _ hr, lportOf_bump, lportOf_setLport_same]
    rfl
  · rw [ht, lportOf_freeFlits_other _ _ _ hr, lportOf_bump, lportOf_setLport_same]
    exact ⟨_, rfl, rfl⟩

/-! ### A flit that arrives (R359, R361, R367) -/

/-- The CRC that a flit should have (R359). -/
def goodCrc (x : Flit) : Nat := flitCrc x.kind x.vc x.seq x.check x.payload

theorem ne_stomp (n : Nat) : n ≠ n ^^^ 0xFFFFFFFF := by
  intro h
  have hx := congrArg (n ^^^ ·) h
  rw [Nat.xor_self, ← Nat.xor_assoc, Nat.xor_self, Nat.zero_xor] at hx
  exact absurd hx (by decide)

/-- A flit with a good CRC in a state that counts it (R359, R367). -/
def takeFlit (s : State) (p : Nat) (x : Flit) : State :=
  if ! (decide (1 ≤ x.kind) && decide (x.kind ≤ 4)) then setLport (bump s 5 p 1 1) p { lportOf s p with crcRun := 0 }
  else if x.seq ≠ (lportOf s p).rxExp then
    setLport (bump s 5 p 1 1) p { lportOf s p with dups := (lportOf s p).dups + 1, crcRun := 0 }
  else acceptFlit (bump s 5 p 1 1) p x

theorem receiveFlit_good {s : State} {p : Nat} {x : Flit} (hg : x.crc = goodCrc x) : receiveFlit s p x =
    if flitMisaligned x then setLport (bump s 5 p 1 1) p { lportOf s p with misaligned := true, crcRun := 0 }
    else if x.kind = 5 then receiveCtrl s p (ctrlOf x.payload)
    else if x.kind = 6 then receiveTime s p (timeOf x.payload) ((s.time * 256 - (lportOf s p).rxLat) / 256)
      ((s.time * 256 - (lportOf s p).rxLat) % 256)
    else takeFlit s p x :=
  (if_neg (hg ▸ ne_stomp (goodCrc x))).trans (if_neg (Classical.not_not.mpr hg))

/-- The numbered kinds are never out of alignment. -/
theorem aligned_numbered {x : Flit} (h1 : 1 ≤ x.kind) (h4 : x.kind ≤ 4) : flitMisaligned x = false := by
  unfold flitMisaligned
  rw [show (x.kind == 0) = false by simp; omega, show (x.kind == 5) = false by simp; omega,
    show (x.kind == 6) = false by simp; omega]
  rfl

theorem receiveFlit_numbered {s : State} {p : Nat} {x : Flit} (hg : x.crc = goodCrc x) (h1 : 1 ≤ x.kind) (h4 : x.kind ≤ 4) :
    receiveFlit s p x = if x.seq ≠ (lportOf s p).rxExp then
      setLport (bump s 5 p 1 1) p { lportOf s p with dups := (lportOf s p).dups + 1, crcRun := 0 }
      else acceptFlit (bump s 5 p 1 1) p x := by
  rw [receiveFlit_good hg, if_neg (by rw [aligned_numbered h1 h4]; decide), if_neg (by omega), if_neg (by omega), takeFlit,
    if_neg (by simp [h1, h4])]

theorem receiveFlit_inSequence {s : State} {p : Nat} {x : Flit} (hg : x.crc = goodCrc x) (h1 : 1 ≤ x.kind) (h4 : x.kind ≤ 4)
    (hs : x.seq = (lportOf s p).rxExp) : receiveFlit s p x = acceptFlit (bump s 5 p 1 1) p x := by
  rw [receiveFlit_numbered hg h1 h4, if_neg (Classical.not_not.mpr hs)]

theorem packetDone_here (s : State) (p : Nat) (x : Flit) :
    let k := packetOf x.payload [] []
    packetDone s p .here x [] = deliver (emitTrace (freeFlits s p x.vc 1) 5 p false 7 (linkArg k) (linkExt k k.src)) k := rfl

theorem packetDone_forward (s : State) (p r : Nat) (x : Flit) : packetDone s p (.forward r) x [] = s := rfl

/-! ### Control flits and the replay buffer (R366, R367) -/

theorem postEvent_lports {s : State} (code cls unit : Nat) (arg : List Byte) (h : s.ev.sink = none) :
    (postEvent s code cls unit arg).lports = s.lports := by
  unfold postEvent
  rw [placeEvent_noSink]
  · have hpush : ∀ (q : State) (e : EvRec), (pushEvent q e).lports = q.lports := fun q e => by
      unfold pushEvent
      split <;> rfl
    rw [hpush, emitTrace_trace]
  · rw [emitTrace_trace]
    exact h

/-- A port whose held flits are sent again (R367). -/
def resentPort (l : LinkPort) (window : Nat) : LinkPort :=
  { l with replay := l.replay.map (fun h => { h with resent := h.resent + 1 }), replays := l.replays + 1,
           replayWindow := some window }

theorem resendAll_resends {s : State} {p : Nat} (h : (lportOf s p).replay ≠ []) (hs : s.ev.sink = none) :
    EventsOnly s (resendAll s p) ∧ lportOf (resendAll s p) p = resentPort (lportOf s p) (windowOf s.time) := by
  let u := bump (bump (setLport s p (resentPort (lportOf s p) (windowOf s.time))) 5 p 3 1) 5 p 0 (lportOf s p).replay.length
  have hu : EventsOnly s u := rfl
  have hport : lportOf u p = resentPort (lportOf s p) (windowOf s.time) := lportOf_setLport_same _ _ _
  have hdo : resendAll s p = if (lportOf s p).replayWindow = some (windowOf s.time) then u
      else postEvent u 0x0804 5 p (leBytes 1 p ++ leBytes 3 0 ++ leBytes 4 (satTo 32 (resentPort (lportOf s p) (windowOf s.time)).replays)) :=
    if_neg h
  rw [hdo]
  split
  · exact ⟨hu, hport⟩
  · refine ⟨hu.trans (postEvent_only _ _ _ _ _), ?_⟩
    rw [lportOf, postEvent_lports _ _ _ _ (show u.ev.sink = none from hs)]
    exact hport

/-- A port after a CTRL flit, before held flits are sent again. -/
def ctrlPort (l : LinkPort) (m : CtrlMsg) : LinkPort :=
  let r := if m.ackValid then l.replay.filter (fun h => seqNewer h.flit.seq m.ack) else l.replay
  { l with replay := if m.nakPresent then r.filter (fun h => h.flit.seq == m.nak || seqNewer h.flit.seq m.nak) else r,
           credSeen := m.cred, crcRun := 0 }

/-- The state in which a CTRL flit is counted and its acknowledgements stand. -/
def ctrlTaken (s : State) (p : Nat) (m : CtrlMsg) : State := setLport (bump s 5 p 1 1) p (ctrlPort (lportOf s p) m)

theorem ctrlTaken_port (s : State) (p : Nat) (m : CtrlMsg) : lportOf (ctrlTaken s p m) p = ctrlPort (lportOf s p) m :=
  lportOf_setLport_same _ _ _

theorem receiveCtrl_eq (s : State) (p : Nat) (m : CtrlMsg) :
    receiveCtrl s p m = pump (if m.nakPresent then resendAll (ctrlTaken s p m) p else ctrlTaken s p m) p := rfl

theorem ctrlPort_queue (l : LinkPort) (m : CtrlMsg) : (ctrlPort l m).outQ = l.outQ ∧ (ctrlPort l m).cur = l.cur := ⟨rfl, rfl⟩

theorem portIn_lt {s : State} {p : Nat} {st : LState} (h : portIn s p st = true) : p < 12 := by
  simp only [portIn, portClock, Bool.and_eq_true, decide_eq_true_eq] at h
  exact h.1.1.1

theorem portIn_st {s : State} {p : Nat} {st : LState} (h : portIn s p st = true) : (lportOf s p).st = st := by
  simp only [portIn, Bool.and_eq_true, beq_iff_eq] at h
  exact h.1.2

theorem routeHead_active {s : State} {x : Packet} {r : Nat} (h : routeHead s x = .forward r) : (lportOf s r).st = .active := by
  unfold routeHead at h
  split at h
  · cases h
  · split at h
    · cases h
    · split at h
      · cases h
      · split at h
        · cases h
        · split at h <;> cases h
          exact Classical.not_not.mp ‹_›

/-- The state in which a stomped flit is counted. -/
def stompTaken (s : State) (p : Nat) : State :=
  bump (setLport (bump s 5 p 1 1) p { lportOf s p with stomps := (lportOf s p).stomps + 1, crcRun := 0 }) 5 p 4 1

theorem stompTaken_portsTrace (s : State) (p : Nat) : PortsTrace s (stompTaken s p) :=
  (bump_portsTrace _ _ _ _ _).trans' ((setLport_portsTrace _ _ _).trans' (bump_portsTrace s 5 p 1 1))

theorem stompTaken_port (s : State) (p : Nat) :
    lportOf (stompTaken s p) p = { lportOf s p with stomps := (lportOf s p).stomps + 1, crcRun := 0 } :=
  lportOf_setLport_same _ _ _

/-- A flit that was stomped is counted and dropped (R362). -/
theorem stompFlit_leaves {s : State} {p : Nat} {x : Flit} (h : x.crc = goodCrc x ^^^ 0xFFFFFFFF) :
    PortsTrace s (receiveFlit s p x) ∧
      lportOf (receiveFlit s p x) p = { lportOf s p with stomps := (lportOf s p).stomps + 1, crcRun := 0 } := by
  have hf : receiveFlit s p x =
      if decide (1 ≤ x.kind) && decide (x.kind ≤ 4) then stompOut (stompTaken s p) p x else stompTaken s p := if_pos h
  rw [hf, ← stompTaken_port]
  split
  · obtain ⟨ht, hq⟩ := stompOut_only (stompTaken s p) p x
    exact ⟨(stompTaken_portsTrace s p).trans ht, hq p⟩
  · exact ⟨stompTaken_portsTrace s p, rfl⟩

theorem failFlit_portsTrace (s : State) (p : Nat) (x : Flit) : PortsTrace s (failFlit s p x) := by
  obtain ⟨q, hf, hq, -⟩ := failFlit_state s p x
  obtain ⟨m, hm, -⟩ := sendCtrl_sends q p
  rw [hf, hm]
  exact hq.trans ((setLport_portsTrace _ _ _).trans (bump_portsTrace _ _ _ _ _))

theorem failFlit_leaves (s : State) (p : Nat) (x : Flit) :
    let l := lportOf s p
    let first := decide (1 ≤ x.kind) && decide (x.kind ≤ 4) && ! l.nakSent
    ∃ m, lportOf (failFlit s p x) p = { l with crcErrs := l.crcErrs + 1, crcRun := l.crcRun + 1, nakSent := l.nakSent || first,
                                               nakOwed := false, ackOwed := false, lastCtrl := some m } ∧
      m.nakPresent = (l.nakOwed || first) ∧ (m.nakPresent = true → m.nak = l.rxExp) ∧ m.cred = l.freed := by
  intro l first
  obtain ⟨q, hf, -, hport⟩ := failFlit_state s p x
  obtain ⟨m, hm, hnak, hexp, hcred, -⟩ := sendCtrl_sends q p
  rw [hport] at hm hnak hexp hcred
  refine ⟨m, ?_, hnak, hexp, hcred⟩
  rw [hf, hm, lportOf_bump, lportOf_setLport_same]
  rfl

/-- A data flit of a packet for this device waits in its input (R360). -/
theorem acceptData_here {s : State} {p : Nat} {x : Flit} (hpart : (lportOf s p).rxPart ≠ []) (hr : (lportOf s p).rxRoute = .here)
    (hk : x.kind ≠ 3) :
    acceptData s p x = setLport s p { lportOf s p with rxPart := (lportOf s p).rxPart ++ [x] } := by
  unfold acceptData
  dsimp only
  split
  · exact absurd ‹_› hpart
  · rw [if_neg hk, if_neg hk, hr]

theorem headHeld_portsTrace (s : State) (p : Nat) (x : Flit) (rt : RxRoute) : PortsTrace s (headHeld s p x rt) :=
  (setLport_portsTrace _ _ _).trans' ((setLport_portsTrace _ _ _).trans' (bump_portsTrace s 5 p 1 1))

theorem headHeld_port (s : State) (p : Nat) (x : Flit) (rt : RxRoute) : lportOf (headHeld s p x rt) p =
    { countedPort (lportOf s p) with rxPart := if x.kind = 4 then [] else [x], rxRoute := rt } := lportOf_setLport_same _ _ _

/-- A head for this device waits for its data. -/
theorem receiveFlit_headHere {s : State} {p : Nat} {x : Flit} (hc : x.crc = goodCrc x) (hk : x.kind = 1)
    (hseq : x.seq = (lportOf s p).rxExp) (hpart : (lportOf s p).rxPart = []) (hcheck : x.check = headCheck x.payload)
    (hroute : routeHead s (packetOf x.payload [] []) = .here) : receiveFlit s p x = headHeld s p x .here := by
  rw [receiveFlit_inSequence hc (by omega) (by omega) hseq, acceptFlit_head (.inl hk), acceptHead_goes hpart hcheck hroute,
    if_neg (by omega)]
  rfl

/-- A head with a free output goes on at once. -/
theorem receiveFlit_headOn {s : State} {p r : Nat} {x : Flit} (hc : x.crc = goodCrc x) (hk : x.kind = 1 ∨ x.kind = 4)
    (hseq : x.seq = (lportOf s p).rxExp) (hpart : (lportOf s p).rxPart = []) (hcheck : x.check = headCheck x.payload)
    (hroute : routeHead s (packetOf x.payload [] []) = .forward r) (hr : r ≠ p) (hvc : x.vc = 0 ∨ x.vc = 1 ∨ x.vc = 3)
    (hp : p < 12) (hcur : (lportOf s r).cur = none) (hq : (lportOf s r).outQ = []) (hcan : canSend (lportOf s r) x.vc = true) :
    lportOf (headHeld s p x (.forward r)) r = lportOf s r ∧
      receiveFlit s p x = headSent (headHeld s p x (.forward r)) r p x := by
  have hheld : lportOf (headHeld s p x (.forward r)) r = lportOf s r := by
    rw [headHeld, lportOf_setLport_other _ _ hr, seqTaken_other s hr]
  refine ⟨hheld, ?_⟩
  rw [receiveFlit_inSequence hc (by omega) (by omega) hseq, acceptFlit_head hk, acceptHead_goes hpart hcheck hroute,
    packetDone_forward, ite_self]
  exact openAt_sends (by rw [hheld]; exact routeHead_active hroute) (by rw [hheld]; exact hcur) (by rw [hheld]; exact hq)
    (by rw [hheld]; exact hcan) hvc hp hr

/-- The state in which a packet of one flit has reached this device. -/
def singleTaken (s : State) (p : Nat) (x : Flit) : State :=
  let k := packetOf x.payload [] []
  deliver (emitTrace (freeFlits (headHeld s p x .here) p x.vc 1) 5 p false 7 (linkArg k) (linkExt k k.src)) k

theorem receiveFlit_single {s : State} {p : Nat} {x : Flit} (hc : x.crc = goodCrc x) (hk : x.kind = 4)
    (hseq : x.seq = (lportOf s p).rxExp) (hpart : (lportOf s p).rxPart = []) (hcheck : x.check = headCheck x.payload)
    (hroute : routeHead s (packetOf x.payload [] []) = .here) : receiveFlit s p x = singleTaken s p x := by
  rw [receiveFlit_inSequence hc (by omega) (by omega) hseq, acceptFlit_head (.inr hk), acceptHead_goes hpart hcheck hroute,
    if_pos hk]
  exact packetDone_here _ p x

theorem singleTaken_leaves (s : State) {p : Nat} (x : Flit) (hp : p < 12) :
    let t := singleTaken s p x
    t = { s with lports := t.lports, trace := t.trace,
                 inst := { s.inst with arrived := s.inst.arrived ++ [packetOf x.payload [] []] } } ∧
      ∃ l : LinkPort, lportOf t p = l ∧ l.rxExp = ((lportOf s p).rxExp + 1) % 2048 ∧ l.ackOwed = true ∧
        l.freed = (lportOf s p).freed.set x.vc ((nth (lportOf s p).freed x.vc + 1) % 4096) := by
  intro t
  have hport := lportOf_freeFlits_same (headHeld s p x .here) x.vc 1 (show p ≠ 12 by omega)
  have hports : PortsTrace s (freeFlits (headHeld s p x .here) p x.vc 1) :=
    (headHeld_portsTrace s p x .here).trans (freeFlits_portsTrace _ _ _ _)
  have ht : t = { freeFlits (headHeld s p x .here) p x.vc 1 with
      trace := t.trace, inst := { (freeFlits (headHeld s p x .here) p x.vc 1).inst with
        arrived := (freeFlits (headHeld s p x .here) p x.vc 1).inst.arrived ++ [packetOf x.payload [] []] } } := by
    show singleTaken s p x = _
    unfold singleTaken
    dsimp only
    rw [emitTrace_trace]
    rfl
  rw [headHeld_port] at hport
  generalize freeFlits (headHeld s p x .here) p x.vc 1 = u at hport hports ht
  generalize htr : t.trace = tr at ht
  constructor
  · unfold PortsTrace at hports
    rw [ht, hports]
  · have hl : lportOf t p = lportOf u p := by
      rw [ht]
      rfl
    exact ⟨_, hl.trans hport, rfl, rfl, rfl⟩

/-- A data flit of a packet for this device joins those that its input holds. -/
theorem receiveFlit_dataHere {s : State} {p : Nat} {x : Flit} (hc : x.crc = goodCrc x) (hk : x.kind = 2)
    (hseq : x.seq = (lportOf s p).rxExp) (hpart : (lportOf s p).rxPart ≠ []) (hroute : (lportOf s p).rxRoute = .here) :
    receiveFlit s p x = setLport (seqTaken s p) p { countedPort (lportOf s p) with rxPart := (lportOf s p).rxPart ++ [x] } := by
  have hf : receiveFlit s p x = acceptData (seqTaken s p) p x := by
    rw [receiveFlit_inSequence hc (by omega) (by omega) hseq]
    exact if_neg (by omega)
  have hdata := acceptData_here (s := seqTaken s p) (p := p) (x := x) (by rw [seqTaken_same]; exact hpart)
    (by rw [seqTaken_same]; exact hroute) (by omega)
  rw [hf, hdata, seqTaken_same]
  rfl

/-- A CTRL flit at a port with nothing to send (R367). -/
theorem receiveCtrl_leaves {s : State} {p : Nat} (m : CtrlMsg) (hq : (lportOf s p).outQ = []) (hcur : (lportOf s p).cur = none) :
    (m.nakPresent = false → receiveCtrl s p m = ctrlTaken s p m) ∧
      (m.nakPresent = true → s.ev.sink = none → EventsOnly s (receiveCtrl s p m) ∧
        (lportOf (receiveCtrl s p m) p).credSeen = m.cred ∧ (lportOf (receiveCtrl s p m) p).replay =
          (ctrlPort (lportOf s p) m).replay.map (fun h => { h with resent := h.resent + 1 })) := by
  have hidle : ∀ n (t : State), (lportOf t p).outQ = [] → (lportOf t p).cur = none → pumpPort n t p = t := fun n t h1 h2 =>
    pumpPort_empty n h1 fun o ho => by rw [h2] at ho; cases ho
  have htaken := ctrlTaken_port s p m
  have hev0 : EventsOnly s (ctrlTaken s p m) := (EventsOnly.bump s 5 p 1 1).trans (.setLport _ _ _)
  refine ⟨fun hn => ?_, fun hn hsink => ?_⟩
  · rw [receiveCtrl_eq, if_neg (by rw [hn]; decide)]
    exact hidle _ _ (by rw [htaken]; exact hq) (by rw [htaken]; exact hcur)
  · by_cases hrep : (ctrlPort (lportOf s p) m).replay = []
    · have hdo : receiveCtrl s p m = ctrlTaken s p m := by
        rw [receiveCtrl_eq, if_pos hn, resendAll, htaken, if_pos hrep]
        exact hidle _ _ (by rw [htaken]; exact hq) (by rw [htaken]; exact hcur)
      rw [hdo, htaken, hrep]
      exact ⟨hev0, rfl, rfl⟩
    · obtain ⟨hev, hport⟩ := resendAll_resends (s := ctrlTaken s p m) (p := p) (by rw [htaken]; exact hrep) hsink
      have hdo : receiveCtrl s p m = resendAll (ctrlTaken s p m) p := by
        rw [receiveCtrl_eq, if_pos hn]
        exact hidle _ _ (by rw [hport, htaken]; exact hq) (by rw [hport, htaken]; exact hcur)
      rw [hdo, hport, htaken]
      exact ⟨hev0.trans hev, rfl, rfl⟩

/-- Settles O55: training by each row, a flit by the branch of `receiveFlit` that takes it. -/
theorem portsTrainCarryAndLoseTheLink : Obligations.PortsTrainCarryAndLoseTheLink := by
  unfold Obligations.PortsTrainCarryAndLoseTheLink
  refine ⟨fun s p => ⟨fun h => ?_, fun h => ?_, fun h => ?_⟩, fun s p tx rx lanes h => ?_, fun s p c h => ?_,
    fun s p hc hst => ?_, fun s p c h hcause => ?_, fun s0 s ecc p x hs hp => ?_, fun s p m hp hq hcur => ?_,
    fun s p hp => ⟨fun ho => ?_, fun hr hsink => ?_⟩⟩
  · exact congrArg Host.Outcome.next (if_pos h)
  · exact congrArg Host.Outcome.next (if_pos h)
  · refine ⟨_, congrArg Host.Outcome.next (if_pos h), rfl, ?_, fun q hq => ?_⟩
    · rw [lportOf_setLport_same, enterState, lportOf_setLport_same]
      rfl
    · rw [lportOf_setLport_other _ _ hq, enterState, lportOf_setLport_other _ _ hq]
  · refine ⟨_, congrArg Host.Outcome.next (if_pos h), rfl, ?_, fun q hq => ?_⟩
    · rw [lportOf_setLport_same, enterState, lportOf_setLport_same]
      rfl
    · rw [lportOf_setLport_other _ _ hq, enterState, lportOf_setLport_other _ _ hq]
  · obtain ⟨hev, hout⟩ := doLinkUp_events c h
    obtain ⟨hsame, hother⟩ := linkUp_port s p c
    obtain ⟨hsince, hexp, hpeer, hchan⟩ := (hout p).config
    refine ⟨_, rfl, hev, ?_, ?_, ?_, ?_, ?_, fun q hq => ?_⟩
    · rw [(hout p).st, hsame]
      rfl
    · rw [hsince, hsame]
      rfl
    · rw [hpeer, hsame]
    · rw [hchan, hsame]
      rfl
    · rw [hexp, hsame]
      rfl
    · rw [(hout q).st, hother q hq]
  · have hfail : (portClock s p && ((lportOf s p).st == .eq || (lportOf s p).st == .align || (lportOf s p).st == .config)) = true := by
      rw [hc, Bool.true_and]
      simpa [or_assoc] using hst
    let q := setLport s p { lportOf s p with st := .disabled, since := s.time, chan := none }
    have hdo : doLinkTrainFail p s = postEvent q 0x0802 5 p (leBytes 1 p ++ leBytes 1 (lstateIdx (lportOf s p).st)) := if_pos hfail
    have hq : lportOf q p = { lportOf s p with st := .disabled, since := s.time, chan := none } := lportOf_setLport_same _ _ _
    have hout := postEvent_output q 0x0802 5 p (leBytes 1 p ++ leBytes 1 (lstateIdx (lportOf s p).st))
    refine ⟨_, congrArg Host.Outcome.next hdo, (show EventsOnly s q from rfl).trans (postEvent_only _ _ _ _ _), ?_, ?_, fun k hk => ?_⟩
    · rw [(hout p).st, hq]
    · rw [(hout p).chan, hq]
    · rw [(hout k).st, lportOf_setLport_other _ _ hk]
  · let q := raiseDoubt s 0x0801 5 p (leBytes 1 p ++ leBytes 1 c) rowDevice kindDevice 0
    have hdo : doLinkDown p c s = losePort q p .lost := if_pos (by rw [h, hcause]; rfl)
    have hlost := losePort_lost q p (st := .lost) (by decide)
    have hraise : OutputOnly s q := (postEvent_output _ _ _ _ _).trans (failCond_output _ _ _ _ _)
    refine ⟨_, congrArg Host.Outcome.next hdo, (raiseDoubt_only _ _ _ _ _ _ _ _).trans hlost.events.doubt, ?_, ?_, ?_, ?_, ?_,
      fun k hk => ?_⟩
    · rw [hlost.port]
      rfl
    · rw [hlost.port]
      rfl
    · rw [hlost.port]
      rfl
    · rw [hlost.port]
      rfl
    · exact doubtOpen_congr hlost.events.safety (raiseDoubt_open s _ _ _ _ _ _ _)
    · rw [hlost.others k hk, (hraise k).st]
  · intro l good number
    have hdo : exec (.flitReceive p x ecc) s0 = .next (receiveFlit s p x) := by
      rw [← hs] at hp ⊢
      exact congrArg Host.Outcome.next (if_pos hp)
    have hlt : p < 12 := portIn_lt hp
    refine ⟨fun hc => ?_, fun hg hst => ?_, fun hc hn hseq => ?_, fun hc hk hm => ?_, fun hc hk hm => ?_, fun hc hk hm => ?_,
      fun hc hk hseq hpart hcheck hroute => ?_, fun hc hk hseq hpart hroute => ?_,
      fun r hc hk hseq hpart hcheck hroute hr hvc hp12 hcur hq hcan => ?_, fun hc hk hseq hpart hcheck hto => ?_⟩
    · exact ⟨_, hdo, stompFlit_leaves hc⟩
    · obtain ⟨m, hport, hnak, hexp, hcred⟩ := failFlit_leaves (bump s 5 p 1 1) p x
      have hf : receiveFlit s p x = failFlit (bump s 5 p 1 1) p x := (if_neg hst).trans (if_pos hg)
      exact ⟨_, m, hdo.trans (congrArg _ hf), PortsTrace.trans (bump_portsTrace s 5 p 1 1) (failFlit_portsTrace _ p x), hport, hnak,
        hexp, hcred⟩
    · obtain ⟨h1, h4⟩ : 1 ≤ x.kind ∧ x.kind ≤ 4 := by simpa [number] using hn
      exact ⟨_, hdo.trans (congrArg _ ((receiveFlit_numbered hc h1 h4).trans (if_pos hseq))), rfl, lportOf_setLport_same _ _ _⟩
    · exact ⟨_, hdo.trans (congrArg _ ((receiveFlit_good hc).trans (if_pos hm))), rfl, lportOf_setLport_same _ _ _⟩
    · have hf : receiveFlit s p x = receiveCtrl s p (ctrlOf x.payload) :=
        (receiveFlit_good hc).trans ((if_neg (by rw [hm]; decide)).trans (if_pos hk))
      exact hdo.trans ((congrArg _ hf).trans (congrArg Host.Outcome.next (if_pos hp).symm))
    · have hf : receiveFlit s p x = receiveTime s p (timeOf x.payload) ((s.time * 256 - l.rxLat) / 256) ((s.time * 256 - l.rxLat) % 256) :=
        (receiveFlit_good hc).trans ((if_neg (by rw [hm]; decide)).trans ((if_neg (by omega)).trans (if_pos hk)))
      exact hdo.trans ((congrArg _ hf).trans (congrArg Host.Outcome.next (if_pos hp).symm))
    · refine ⟨_, hdo.trans (congrArg _ (receiveFlit_headHere hc hk hseq hpart hcheck hroute)), headHeld_portsTrace _ _ _ _, ?_⟩
      rw [headHeld_port, if_neg (by omega)]
      rfl
    · refine ⟨_, hdo.trans (congrArg _ (receiveFlit_dataHere hc hk hseq hpart hroute)),
        (setLport_portsTrace _ _ _).trans' ((setLport_portsTrace _ _ _).trans' (bump_portsTrace s 5 p 1 1)), ?_⟩
      rw [lportOf_setLport_same]
      rfl
    · intro hd
      obtain ⟨hheld, hf⟩ := receiveFlit_headOn hc hk hseq hpart hcheck hroute hr hvc hp12 hcur hq hcan
      obtain ⟨hports, hexp, htx, h, hrep, hflit⟩ := headSent_ports (u := headHeld s p x (.forward r)) (x := x) hp12 hr
      rw [hheld] at htx hrep hflit
      rw [headHeld_port] at hexp
      exact ⟨_, h, hdo.trans (congrArg _ hf), hports.trans' (headHeld_portsTrace _ _ _ _), hrep, hflit, htx, hexp⟩
    · have hf := receiveFlit_single hc hk hseq hpart hcheck (if_pos (by simpa using hto))
      obtain ⟨hframe, l', hl, hexp, hack, hfreed⟩ := singleTaken_leaves s x hlt
      refine ⟨_, hdo.trans (congrArg _ hf), hframe, ?_⟩
      rw [hl]
      exact ⟨hexp, hack, hfreed⟩
  · intro l kept
    obtain ⟨hplain, hnak⟩ := receiveCtrl_leaves m hq hcur
    refine ⟨fun hn => ?_, fun hn hsink => ?_⟩
    · refine ⟨_, congrArg Host.Outcome.next ((if_pos hp).trans (hplain hn)),
        (setLport_portsTrace _ _ _).trans' (bump_portsTrace s 5 p 1 1), ?_⟩
      rw [ctrlTaken_port, ctrlPort, if_neg (by rw [hn]; decide)]
    · obtain ⟨hev, hcred, hrep⟩ := hnak hn hsink
      refine ⟨_, congrArg Host.Outcome.next (if_pos hp), hev, hcred, ?_⟩
      rw [hrep, ctrlPort, if_pos hn]
  · obtain ⟨m, hsend, -, -, hcred, hack⟩ := sendCtrl_sends s p
    have hdo : doCtrlFlitSend p s = sendCtrl s p := if_pos (by rw [hp, ho]; rfl)
    refine ⟨_, m, congrArg Host.Outcome.next (hdo.trans hsend), rfl, ?_, hcred, hack⟩
    rw [lportOf_bump, lportOf_setLport_same]
  · obtain ⟨hev, hport⟩ := resendAll_resends hr hsink
    refine ⟨_, congrArg Host.Outcome.next (if_pos hp), hev, ?_, ?_, ?_⟩
    · rw [hport]
      rfl
    · rw [hport]
      rfl
    · rw [hport]
      exact portIn_st hp

end Sys2Proof.Machine
end

section
/-! PROOFS. What an operation of a core can change: memory with its codes, the core's own state, and what its reads report
(R252 to R300). -/

namespace Sys2Proof.Machine

open Sys2Proof

/-- Nothing changed but memory, the cores, and what reads and events change. -/
structure WorkOnly (s t : State) : Prop where
  frame : DoubtOnly { s with mem := t.mem, marks := t.marks, eccBad := t.eccBad, wcache := t.wcache, eccCnt := t.eccCnt,
                             eccWin := t.eccWin, freeCnt := t.freeCnt, cores := t.cores } t

theorem WorkOnly.refl (s : State) : WorkOnly s s := ⟨rfl⟩

theorem WorkOnly.trans {s t u : State} (h : WorkOnly s t) (k : WorkOnly t u) : WorkOnly s u := by
  obtain ⟨h⟩ := h
  obtain ⟨k⟩ := k
  unfold DoubtOnly at h k
  rw [h] at k
  exact ⟨k⟩

theorem WorkOnly.behind {s t u : State} (k : WorkOnly t u) (h : WorkOnly s t) : WorkOnly s u := h.trans k

theorem ReadsOnly.work {s t : State} (h : ReadsOnly s t) : WorkOnly s t := by
  unfold ReadsOnly DoubtOnly at h
  constructor
  unfold DoubtOnly
  rw [h]

theorem EventsOnly.work {s t : State} (h : EventsOnly s t) : WorkOnly s t := h.reads.work

theorem WorkOnly.setCore (s : State) (c : Nat) (x : CoreSt) : WorkOnly s (setCore s c x) := ⟨rfl⟩

theorem WorkOnly.putBytes (s : State) (a : Nat) (bs : List Byte) (p : Bool) : WorkOnly s (putBytes s a bs p) := ⟨rfl⟩

theorem WorkOnly.freeCnt (s : State) (n : Nat) : WorkOnly s { s with freeCnt := n } := ⟨rfl⟩

theorem WorkOnly.foldl {α : Type} {f : State → α → State} (hf : ∀ s x, WorkOnly s (f s x)) (l : List α) (s : State) :
    WorkOnly s (l.foldl f s) := by
  induction l generalizing s with
  | nil => exact .refl s
  | cons x l ih => exact (hf s x).trans (ih _)

theorem WorkOnly.foldlFst {α β : Type} {f : State × β → α → State × β} (hf : ∀ p x, WorkOnly p.1 (f p x).1) (l : List α)
    (p : State × β) : WorkOnly p.1 (l.foldl f p).1 := by
  induction l generalizing p with
  | nil => exact .refl p.1
  | cons x l ih => exact (hf p x).trans (ih _)

/-- Only memory, one core and what reads and events change: other cores stand, and the core stays as fenced as it was. -/
structure OnCore (c : Nat) (s t : State) : Prop where
  work : WorkOnly s t
  other : ∀ k, k ≠ c → coreOf t k = coreOf s k
  fenced : (coreOf t c).fenced = (coreOf s c).fenced

theorem OnCore.of {c : Nat} {s t : State} (h : WorkOnly s t) (hc : t.cores = s.cores) : OnCore c s t := by
  have hcore : ∀ k, coreOf t k = coreOf s k := fun k => congrArg (tabGet coreReset · k) hc
  exact ⟨h, fun k _ => hcore k, congrArg CoreSt.fenced (hcore c)⟩

theorem OnCore.refl {c : Nat} (s : State) : OnCore c s s := .of (.refl s) rfl

theorem OnCore.trans {c : Nat} {s t u : State} (h : OnCore c s t) (k : OnCore c t u) : OnCore c s u :=
  ⟨h.work.trans k.work, fun j hj => (k.other j hj).trans (h.other j hj), k.fenced.trans h.fenced⟩

theorem OnCore.behind {c : Nat} {s t u : State} (k : OnCore c t u) (h : OnCore c s t) : OnCore c s u := h.trans k

theorem ReadsOnly.onCore {c : Nat} {s t : State} (h : ReadsOnly s t) : OnCore c s t := .of h.work h.cores

theorem EventsOnly.onCore {c : Nat} {s t : State} (h : EventsOnly s t) : OnCore c s t := h.reads.onCore

theorem OnCore.setCore {c : Nat} (s : State) {x : CoreSt} (h : x.fenced = (coreOf s c).fenced) : OnCore c s (setCore s c x) :=
  ⟨.setCore s c x, fun _ hk => tabGet_tabSet_other _ _ _ hk, (congrArg CoreSt.fenced (tabGet_tabSet_same _ _ _ _)).trans h⟩

theorem OnCore.setAcc (s : State) (c : Nat) (a : Tab Int) (k : Nat) :
    OnCore c s (Machine.setCore s c { coreOf s c with acc := a, accSet := k }) := .setCore s rfl

theorem OnCore.setVec (s : State) (c : Nat) (r : Tab (List Byte)) (p : BitVec 32) (m : Tab Nat) :
    OnCore c s (Machine.setCore s c { coreOf s c with vregs := r, vpoison := p, vmask := m }) := .setCore s rfl

theorem OnCore.putBytes {c : Nat} (s : State) (a : Nat) (bs : List Byte) (p : Bool) : OnCore c s (putBytes s a bs p) :=
  .of (.putBytes s a bs p) rfl

theorem OnCore.freeCnt {c : Nat} (s : State) (n : Nat) : OnCore c s { s with freeCnt := n } := .of (.freeCnt s n) rfl

theorem OnCore.foldl {c : Nat} {α : Type} {f : State → α → State} (hf : ∀ s x, OnCore c s (f s x)) (l : List α) (s : State) :
    OnCore c s (l.foldl f s) := by
  induction l generalizing s with
  | nil => exact .refl s
  | cons x l ih => exact (hf s x).trans (ih _)

theorem OnCore.foldlFst {c : Nat} {α β : Type} {f : State × β → α → State × β} (hf : ∀ p x, OnCore c p.1 (f p x).1) (l : List α)
    (p : State × β) : OnCore c p.1 (l.foldl f p).1 := by
  induction l generalizing p with
  | nil => exact .refl p.1
  | cons x l ih => exact (hf p x).trans (ih _)

theorem storeCells_work (s : State) (cs : List (Nat × Byte)) (bad : List Nat) : WorkOnly s (storeCells s cs bad) := by
  have h : StoreOnly s (storeCells s cs bad) := storeCells_store s cs bad
  have hd := storeCells_dma s cs bad
  unfold StoreOnly DoubtOnly at h
  constructor
  unfold DoubtOnly
  rw [hd] at h
  rw [h]

theorem storeCells_onCore {c : Nat} (s : State) (cs : List (Nat × Byte)) (bad : List Nat) : OnCore c s (storeCells s cs bad) := by
  have h : StoreOnly s (storeCells s cs bad) := storeCells_store s cs bad
  unfold StoreOnly at h
  exact .of (storeCells_work s cs bad) h.cores

theorem scramble_onCore {c : Nat} (s : State) (a len : Nat) : OnCore c s (scramble s a len) :=
  (OnCore.freeCnt _ _).behind (.putBytes s a _ false)

theorem scrambleRows_onCore {d : Nat} (s : State) (c : Nat) (rows : List (Nat × Nat)) : OnCore d s (scrambleRows s c rows) :=
  .foldl (fun _ _ => scramble_onCore _ _ _) _ _

/-! ### Operations on tensors -/

theorem writeOut_onCore {d : Nat} (s : State) (c : Nat) (t : TDesc) (l : List OutEl) : OnCore d s (writeOut s c t l).1 :=
  storeCells_onCore s _ _

theorem emitOut_onCore {c : Nat} (s : State) (x : OpCtx) (t : TDesc) (l : List OutEl) : OnCore c s (emitOut s x t l).1 :=
  writeOut_onCore s _ t _

theorem runPasses_onCore (s : State) (x : OpCtx) (parity : List Nat) (ps : List Pass) : OnCore x.c s (runPasses s x parity ps).1 :=
  (OnCore.setAcc _ _ _ _).behind (writeOut_onCore s _ _ _)

theorem runMatmul_onCore (s : State) (x : OpCtx) (p : List Nat) : OnCore x.c s (runMatmul s x p).1 := runPasses_onCore s x p _

theorem runConv_onCore (s : State) (x : OpCtx) (p : List Nat) : OnCore x.c s (runConv s x p).1 := runPasses_onCore s x p _

theorem runDwconv_onCore {c : Nat} (s : State) (x : OpCtx) : OnCore c s (runDwconv s x).1 := emitOut_onCore s x _ _

theorem runPool_onCore {c : Nat} (s : State) (x : OpCtx) : OnCore c s (runPool s x).1 := emitOut_onCore s x _ _

theorem runEltwise_onCore {c : Nat} (s : State) (x : OpCtx) : OnCore c s (runEltwise s x).1 := emitOut_onCore s x _ _

theorem runRequant_onCore {c : Nat} (s : State) (x : OpCtx) : OnCore c s (runRequant s x).1 := emitOut_onCore s x _ _

theorem runConcat_onCore {c : Nat} (s : State) (x : OpCtx) : OnCore c s (runConcat s x).1 := emitOut_onCore s x _ _

theorem runResize_onCore {c : Nat} (s : State) (x : OpCtx) : OnCore c s (runResize s x).1 := emitOut_onCore s x _ _

theorem runSoftmax_onCore {c : Nat} (s : State) (x : OpCtx) : OnCore c s (runSoftmax s x).1 := emitOut_onCore s x _ _

theorem runNorm_onCore {c : Nat} (s : State) (x : OpCtx) : OnCore c s (runNorm s x).1 := emitOut_onCore s x _ _

theorem runArgmax_onCore {c : Nat} (s : State) (x : OpCtx) : OnCore c s (runArgmax s x).1 := emitOut_onCore s x _ _

theorem runTopk_onCore {c : Nat} (s : State) (x : OpCtx) : OnCore c s (runTopk s x).1 := by
  unfold runTopk
  dsimp only
  exact (emitOut_onCore _ _ _ _).behind (emitOut_onCore s _ _ _)

theorem readGrans_onCore {c : Nat} (s : State) (dom : Nat) (gs : List Nat) : OnCore c s (readGrans s dom gs) :=
  .foldl (fun _ _ => (readLocal_reads _ _ _ _).onCore) _ _

theorem cropHeaders_onCore {c : Nat} (s s1 : State) (dom : Nat) (hdr : Nat → Nat) (l : List Nat) :
    OnCore c s1 (cropHeaders s s1 dom hdr l).1 :=
  OnCore.foldlFst (β := Bool × List Nat) (fun _ _ => (readLocal_reads _ _ _ _).onCore) l (s1, false, [])

theorem runCrop_onCore {c : Nat} (s : State) (x : OpCtx) (u : CoreUnit) : OnCore c s (runCrop s x u).1 := by
  unfold runCrop
  dsimp only
  exact (OnCore.putBytes _ _ _ _).behind ((emitOut_onCore _ _ _ _).behind ((cropHeaders_onCore _ _ _ _ _).behind
    ((readGrans_onCore _ _ _).behind (readLocal_reads _ _ _ _).onCore)))

/-! ### Vector programs -/

theorem vOutside_onCore {d : Nat} (c issue work : Nat) (v : VRun) : OnCore d v.s (vOutside c issue work v).s := by
  unfold vOutside
  dsimp only
  split
  · exact (postEvent_only _ _ _ _ _).onCore
  · exact .refl _

theorem vLd_onCore {c : Nat} (x : OpCtx) (work : Nat) (v : VRun) (w : Nat) : OnCore c v.s (vLd x work v w).s := by
  unfold vLd vLoaded
  dsimp only
  split
  · exact .refl _
  · exact vOutside_onCore _ _ _ _

theorem vSt_onCore {c : Nat} (x : OpCtx) (work : Nat) (v : VRun) (w : Nat) : OnCore c v.s (vSt x work v w).s := by
  unfold vSt
  dsimp only
  split
  · exact .putBytes _ _ _ _
  · exact vOutside_onCore _ _ _ _

theorem vLut_onCore {c : Nat} (x : OpCtx) (work : Nat) (v : VRun) (w : Nat) : OnCore c v.s (vLut x work v w).s := by
  unfold vLut
  extract_lets a n inside bad tbl l r v2 v3 v4
  have h3 : v3.s = v.s := vPut_s v2 w l
  have h4 : v4.s = v.s := by
    simp only [v4]
    split
    · exact h3
    · rw [setPoison_s, h3]
  split
  · rw [h4]
    exact .refl _
  · rw [← h4]
    exact vOutside_onCore _ _ _ _

theorem vExec_onCore {c : Nat} (x : OpCtx) (work : Nat) (v : VRun) (w : Nat) : OnCore c v.s (vExec x work v w).s := by
  unfold vExec
  have key : ∀ l, OnCore c v.s (vPut v w l).s := fun l => by rw [vPut_s]; exact .refl _
  dsimp only
  split
  any_goals exact key _
  any_goals exact vLd_onCore _ _ _ _
  any_goals exact vSt_onCore _ _ _ _
  any_goals exact vLut_onCore _ _ _ _
  any_goals (simp only [vPut_s, vPutPair_s, vPutTwo_s, vCmp_s, vSel_s]; exact .refl _)
  split
  · exact key _
  · exact .refl _

theorem vTimes_onCore {c : Nat} (x : OpCtx) (v : VRun) (w : Nat) : OnCore c v.s (vTimes x v w).1.s := by
  unfold vTimes
  dsimp only
  split
  · exact .refl _
  · split
    · exact .refl _
    · exact .freeCnt _ _

theorem vEffect_onCore {c : Nat} (x : OpCtx) (work : Nat) (v : VRun) (w : Nat) : OnCore c v.s (vEffect x work v w).s := by
  unfold vEffect
  dsimp only
  split
  · rw [setPoisons_s]
    exact vExec_onCore _ _ _ _
  · exact vExec_onCore _ _ _ _

theorem vStep_onCore {c : Nat} (x : OpCtx) (work : Nat) (prog : List Byte) (t : Nat) (v : VRun) :
    OnCore c v.s (vStep x work prog t v).s := by
  unfold vStep
  dsimp only
  split
  · exact .refl _
  · exact (vTimes_onCore _ _ _).behind (.refl v.s)
  · exact (vEffect_onCore _ _ _ _).behind (.refl v.s)

theorem vLoop_onCore {c : Nat} (x : OpCtx) (work : Nat) (prog : List Byte) (n : Nat) (v : VRun) :
    OnCore c v.s (vLoop x work prog n v).s := by
  induction n generalizing v with
  | zero => exact .refl _
  | succ n ih =>
    unfold vLoop
    split
    · exact .refl _
    · dsimp only
      split
      · exact (postEvent_only _ _ _ _ _).onCore
      · exact (vStep_onCore _ _ _ _ _).trans (ih _)

theorem runVprog_onCore (s : State) (x : OpCtx) (work : Nat) : OnCore x.c s (runVprog s x work).1 := by
  unfold runVprog
  dsimp only
  exact (OnCore.setVec _ _ _ _ _).behind ((vLoop_onCore x work _ _ _).behind (.refl s))

/-- Every operation of a core. -/
theorem runOp_onCore (s : State) (c : Nat) (u : CoreUnit) (o : CoreOp) (limit : Option Nat) (parity : List Nat) :
    OnCore c s (runOp s c u o limit parity).1 := by
  unfold runOp
  dsimp only
  split
  · exact runMatmul_onCore _ (opCtx c u o limit) _
  · exact runConv_onCore _ (opCtx c u o limit) _
  · exact runDwconv_onCore _ _
  · exact runPool_onCore _ _
  · exact runEltwise_onCore _ _
  · exact runRequant_onCore _ _
  · exact runConcat_onCore _ _
  · exact runResize_onCore _ _
  · exact runSoftmax_onCore _ _
  · exact runNorm_onCore _ _
  · exact runArgmax_onCore _ _
  · exact runTopk_onCore _ _
  · exact runCrop_onCore _ _ _
  · exact runVprog_onCore _ (opCtx c u o limit) _
  · exact .refl s

end Sys2Proof.Machine
end

section
/-! PROOFS. Stops of a graph (R215, R216, R240, R310, R404): what a stop of its nodes, its pool and its streams leaves of the
schedule, with O41. -/

namespace Sys2Proof.Machine

open Sys2Proof

/-- The schedule stands: nodes, graphs and watches, device time and the power controller. -/
structure PlanKept (s t : State) : Prop where
  nodes : t.nodes = s.nodes
  graphs : t.graphs = s.graphs
  watches : t.watches = s.watches
  time : t.time = s.time
  power : t.power = s.power

theorem PlanKept.refl (s : State) : PlanKept s s := ⟨rfl, rfl, rfl, rfl, rfl⟩

theorem PlanKept.trans {s t u : State} (h : PlanKept s t) (k : PlanKept t u) : PlanKept s u :=
  ⟨k.nodes.trans h.nodes, k.graphs.trans h.graphs, k.watches.trans h.watches, k.time.trans h.time, k.power.trans h.power⟩

theorem PlanKept.behind {s t u : State} (k : PlanKept t u) (h : PlanKept s t) : PlanKept s u := h.trans k

theorem PlanKept.foldl {α : Type} {f : State → α → State} (hf : ∀ s x, PlanKept s (f s x)) (l : List α) (s : State) :
    PlanKept s (l.foldl f s) := by
  induction l generalizing s with
  | nil => exact .refl s
  | cons x l ih => exact (hf s x).trans (ih _)

theorem PlanKept.foldlFst {α β : Type} {f : State × β → α → State × β} (hf : ∀ p x, PlanKept p.1 (f p x).1) (l : List α)
    (p : State × β) : PlanKept p.1 (l.foldl f p).1 := by
  induction l generalizing p with
  | nil => exact .refl p.1
  | cons x l ih => exact (hf p x).trans (ih _)

theorem PlanKept.ite {s a b : State} {c : Prop} [Decidable c] (ha : PlanKept s a) (hb : PlanKept s b) :
    PlanKept s (if c then a else b) := by
  split
  · exact ha
  · exact hb

theorem WorkOnly.plan {s t : State} (h : WorkOnly s t) : PlanKept s t :=
  ⟨h.frame.nodes, h.frame.graphs, h.frame.watches, h.frame.time, h.frame.power⟩

theorem EventsOnly.plan {s t : State} (h : EventsOnly s t) : PlanKept s t := h.work.plan

theorem DoubtOnly.plan {s t : State} (h : DoubtOnly s t) : PlanKept s t := h.reads.work.plan

theorem MoveOnly.plan {s t : State} (h : MoveOnly s t) : PlanKept s t := by
  unfold MoveOnly at h
  exact ⟨h.nodes, h.graphs, h.watches, h.time, h.power⟩

/-! ### Cores -/

theorem endOp_onCore (c : Nat) (su : State × CoreUnit) (o : CoreOp) : OnCore c su.1 (endOp c su o).1 := by
  unfold endOp
  dsimp only
  exact (scrambleRows_onCore _ _ _).behind ((runOp_onCore _ _ _ _ _ _).behind (.freeCnt _ _))

theorem coreStop_onCore (s : State) (c : Nat) (u : CoreUnit) : OnCore c s (coreStop s c u).1 := by
  unfold coreStop
  dsimp only
  exact OnCore.foldlFst (endOp_onCore c) _ (s, u)

theorem setUnit_onCore (s : State) (c : Nat) (u : Option CoreUnit) : OnCore c s (setUnit s c u) := .setCore s rfl

theorem setUnit_unit (s : State) (c : Nat) (u : Option CoreUnit) : (coreOf (setUnit s c u) c).unit = u :=
  congrArg CoreSt.unit (tabGet_tabSet_same _ _ _ _)

theorem unitTraceEnd_onCore {d : Nat} (s : State) (c : Nat) (u : CoreUnit) : OnCore d s (unitTraceEnd s c u) :=
  (EventsOnly.emitTrace _ _ _ _ _ _ _).onCore.behind (.freeCnt s _)

theorem coreCounts_only (s : State) (c : Nat) (u : CoreUnit) : EventsOnly s (coreCounts s c u) :=
  ((EventsOnly.bump s _ _ _ _).trans (.bump _ _ _ _ _)).trans (.bump _ _ _ _ _)

theorem closeUnit_onCore (s : State) (c : Nat) (u : CoreUnit) : OnCore c s (closeUnit s c u) :=
  (setUnit_onCore _ _ _).behind ((unitTraceEnd_onCore _ _ _).behind ((coreCounts_only _ _ _).onCore.behind
    (travelMismatch_only _ _ _ _ _ _).reads.onCore))

theorem closeUnit_unit (s : State) (c : Nat) (u : CoreUnit) : (coreOf (closeUnit s c u) c).unit = none := setUnit_unit _ _ _

theorem abandonCoreNode_leaves (s : State) (c : Nat) (u : CoreUnit) (st : Status) :
    OnCore c s (abandonCoreNode s c u st) ∧ (coreOf (abandonCoreNode s c u st) c).unit = none := by
  unfold abandonCoreNode
  dsimp only
  split
  · exact ⟨(closeUnit_onCore _ _ _).behind (coreStop_onCore _ _ _), closeUnit_unit _ _ _⟩
  · exact ⟨(setUnit_onCore _ _ _).behind (coreStop_onCore _ _ _), setUnit_unit _ _ _⟩

/-! ### The pool -/

theorem PlanKept.setFlow (s : State) (f : Nat) (x : Flow) : PlanKept s (setFlow s f x) := ⟨rfl, rfl, rfl, rfl, rfl⟩

theorem mapWindow_plan (s : State) (flow : Nat) (p : PItem → PItem) : PlanKept s (mapWindow s flow p) := by
  unfold mapWindow
  split
  · exact .refl s
  · exact .setFlow _ _ _

theorem stopPoolCore_plan (s : State) (c : Nat) : PlanKept s (stopPoolCore s c) := by
  unfold stopPoolCore
  split
  · split
    · dsimp only
      refine PlanKept.behind (mapWindow_plan _ _ _) ?_
      split
      · exact (closeUnit_onCore _ _ _).work.plan.behind (coreStop_onCore _ _ _).work.plan
      · exact (setUnit_onCore _ _ _).work.plan.behind (coreStop_onCore _ _ _).work.plan
    · exact .refl s
  · exact .refl s

theorem dupMismatch_only (s : State) (flow : Nat) (f : Flow) (i : PItem) : EventsOnly s (dupMismatch s flow f i) := by
  unfold dupMismatch
  split
  · split
    · exact postEvent_only _ _ _ _ _
    · exact .refl s
  · exact .refl s

theorem itemSlip_plan (s : State) (flow : Nat) (f : Flow) (i : PItem) : PlanKept s (itemSlip s flow f i) := by
  unfold itemSlip
  dsimp only
  split
  · exact (failCond_only _ _ _ _ _).plan.behind (.setFlow _ _ _)
  · exact (raiseDoubt_only _ _ _ _ _ _ _ _).plan.behind (.setFlow _ _ _)

theorem PlanKept.ringBusy (s : State) (l : List (Nat × Nat)) : PlanKept s { s with ringBusy := l } := ⟨rfl, rfl, rfl, rfl, rfl⟩

theorem finishItem_plan (s : State) (flow : Nat) (f : Flow) (i : PItem) : PlanKept s (finishItem s flow f i) := by
  unfold finishItem
  dsimp only
  have hbase := fun x l => (PlanKept.ringBusy _ l).behind (PlanKept.setFlow s flow x)
  split
  · exact (itemSlip_plan _ _ _ _).behind ((dupMismatch_only _ _ _ _).plan.behind (hbase _ _))
  · exact (dupMismatch_only _ _ _ _).plan.behind (hbase _ _)

theorem takeSignal_plan (s : State) (flow : Nat) (f : Flow) (i : PItem) (c : Nat) : PlanKept s (takeSignal s flow f i c) := by
  unfold takeSignal
  exact .ite (.setFlow _ _ _) ((finishItem_plan _ _ _ _).behind (.setFlow _ _ _))

theorem takeSignals_plan (s : State) (flow acc : Nat) (l : List ItemCopy) : PlanKept s (takeSignals s flow acc l) := by
  refine .foldl (fun s k => ?_) _ _
  split
  · exact .refl s
  · split
    · exact .refl s
    · exact takeSignal_plan _ _ _ _ _

theorem stopFlow_plan (s : State) (flow : Nat) (f : Flow) : PlanKept s (stopFlow s flow f) := by
  unfold stopFlow
  dsimp only
  exact (PlanKept.ringBusy _ _).behind ((PlanKept.setFlow _ _ _).behind (.foldl (fun _ _ => takeSignals_plan _ _ _ _) _ _))

theorem stopPool_plan (s : State) (g : Nat) (cores : List Nat) : PlanKept s (stopPool s g cores) := by
  unfold stopPool
  dsimp only
  refine PlanKept.behind (.foldl (fun _ _ => stopFlow_plan _ _ _) _ _) (PlanKept.behind (.foldl stopPoolCore_plan _ _) ?_)
  exact ⟨rfl, rfl, rfl, rfl, rfl⟩

/-! ### Aborted frames, streams and what is carried -/

theorem PlanKept.setEport (s : State) (p : Nat) (x : EPort) : PlanKept s (setEport s p x) := ⟨rfl, rfl, rfl, rfl, rfl⟩

theorem abortRecord_plan (s : State) (flow objId f tExp reason flags : Nat) :
    PlanKept s (abortRecord s flow objId f tExp reason flags) := by
  unfold abortRecord
  split
  · exact .refl s
  · dsimp only
    split
    · exact (postEvent_only _ _ _ _ _).plan.behind ((EventsOnly.bump _ _ _ _ _).plan.behind (.setEport _ _ _))
    · exact .setEport _ _ _

theorem abortFrame_plan (s : State) (g k : Nat) (l : Lane) (f reason : Nat) : PlanKept s (abortFrame s g k l f reason) := by
  unfold abortFrame
  dsimp only
  exact .foldl (fun _ _ => abortRecord_plan _ _ _ _ _ _ _) _ _

theorem abortLane_plan (s : State) (g k : Nat) (l : Lane) : PlanKept s (abortLane s g k l).1 := by
  unfold abortLane
  exact .foldl (fun _ _ => abortFrame_plan _ _ _ _ _ _) _ _

theorem PlanKept.setRunAt (s : State) (c : Nat) (r : Option DmaRun) : PlanKept s (setRunAt s c r) := by
  unfold Sys2Proof.Machine.setRunAt
  split <;> exact ⟨rfl, rfl, rfl, rfl, rfl⟩

theorem dropWaiting_plan (s : State) (c : Nat) : PlanKept s (dropWaiting s c).1 := ⟨rfl, rfl, rfl, rfl, rfl⟩

theorem PlanKept.freeCnt (s : State) (n : Nat) : PlanKept s { s with freeCnt := n } := ⟨rfl, rfl, rfl, rfl, rfl⟩

theorem scrambleCells_plan (s : State) (dom : Nat) (cs : List (Nat × Byte)) : PlanKept s (scrambleCells s dom cs) :=
  (scrambleCells_only s dom cs).1.plan

theorem stopMove_plan (s : State) (c : Nat) (m : Mover) (r : DmaRun) (keep : Bool) : PlanKept s (stopMove s c m r keep) := by
  unfold stopMove
  dsimp only
  split
  · exact dropWaiting_plan s c
  · split
    · refine PlanKept.behind (.setRunAt _ _ _) ?_
      split
      · exact dropWaiting_plan s c
      · exact (scrambleCells_plan _ _ _).behind (dropWaiting_plan s c)
    · refine PlanKept.behind (.setRunAt _ _ _) (PlanKept.behind (.freeCnt _ _) ?_)
      split
      · exact dropWaiting_plan s c
      · exact (scrambleCells_plan _ _ _).behind (dropWaiting_plan s c)

theorem PlanKept.setDma (s : State) (c : Nat) (x : DmaChan) : PlanKept s (setDma s c x) := ⟨rfl, rfl, rfl, rfl, rfl⟩

theorem PlanKept.setStream (s : State) (c : Nat) (x : StreamSt) : PlanKept s (setStream s c x) := ⟨rfl, rfl, rfl, rfl, rfl⟩

theorem stopNodeRun_plan (s : State) (c : Nat) : PlanKept s (stopNodeRun s c) := by
  unfold stopNodeRun
  split
  · split
    · split
      · split
        · dsimp only
          split
          · exact (PlanKept.setDma _ _ _).behind (stopMove_plan _ _ _ _ _)
          · exact stopMove_plan _ _ _ _ _
        · exact (EventsOnly.emitTrace _ _ _ _ _ _ _).plan.behind (.setDma _ _ _)
      · exact .refl s
    · exact .refl s
  · exact .refl s

theorem cancelStream_plan (s : State) (k : Nat) (x : StreamSt) : PlanKept s (cancelStream s k x) := by
  unfold cancelStream
  dsimp only
  split
  · exact (stopMove_plan _ _ _ _ _).behind (.setStream _ _ _)
  · exact .setStream _ _ _

theorem dropCarry_plan (s : State) (g : Nat) : PlanKept s (dropCarry s g) :=
  PlanKept.foldl (f := fun (s : State) (e : Nat × Node) =>
    let n := (tabGet [] s.obxCarry e.1).length
    { s with obxCarry := tabErase e.1 s.obxCarry, objDropped := s.objDropped + n }) (fun _ _ => ⟨rfl, rfl, rfl, rfl, rfl⟩) _ _

theorem dropStubs_plan (s : State) (flow : Nat) (keep : List Nat) : PlanKept s (dropStubs s flow keep) := by
  unfold dropStubs
  split
  · exact .refl s
  · split
    · exact .setEport _ _ _
    · exact .refl s

/-! ### The nodes of a graph -/

/-- A node without its run. -/
def clearRun (x : Node) : Node := { x with run := none }

/-- The node works, and its unit is not done. -/
def runsOn (x : Node) : Bool := x.run.elim false (fun r => ! r.unitDone)

theorem runsOn_false {x : Node} (h : runsOn x = false) : x.run = none ∨ ∃ r, x.run = some r ∧ r.unitDone = true := by
  unfold runsOn at h
  cases hr : x.run with
  | none => exact .inl rfl
  | some r =>
    rw [hr] at h
    exact .inr ⟨r, rfl, by simpa using h⟩

/-- The state with the node's run taken away, where it works. -/
def runCleared (s : State) (n : Nat) (x : Node) : State := if runsOn x then modNode s n clearRun else s

/-- A stop of a node takes its run away, and nothing else of the schedule. -/
theorem stopNode_plan (s : State) (n : Nat) (x : Node) : PlanKept (runCleared s n x) (stopNode s n x) := by
  unfold stopNode runCleared runsOn
  cases x.run with
  | none => exact .refl s
  | some r =>
    cases hd : r.unitDone with
    | true =>
      simp only [Option.elim_some, hd, Bool.not_true, Bool.false_eq_true, if_false, if_true]
      exact .refl s
    | false =>
      simp only [Option.elim_some, hd, Bool.not_false, Bool.false_eq_true, if_false, if_true]
      split
      · exact ⟨rfl, rfl, rfl, rfl, rfl⟩
      · split
        · exact (abandonCoreNode_leaves _ _ _ _).1.work.plan
        · exact .refl _
      · exact stopNodeRun_plan _ _
      · exact .refl _

/-- The nodes after the runs of listed nodes are taken away. -/
def stopRuns (l : List (Nat × Node)) (t : Tab Node) : Tab Node :=
  t.map (fun e => if l.any (fun y => y.1 == e.1 && runsOn y.2) then (e.1, clearRun e.2) else e)

theorem stopRuns_cons (y : Nat × Node) (l : List (Nat × Node)) (t : Tab Node) :
    stopRuns (y :: l) t = stopRuns l (if runsOn y.2 then tabModify y.1 clearRun t else t) := by
  unfold stopRuns
  cases hy : runsOn y.2 with
  | false => simp only [List.any_cons, hy, Bool.and_false, Bool.false_or, Bool.false_eq_true, if_false]
  | true =>
    rw [if_pos rfl, tabModify, List.map_map]
    refine List.map_congr_left fun e _ => ?_
    simp only [List.any_cons, hy, Bool.and_true, Function.comp_apply]
    by_cases hk : e.1 = y.1
    · rw [if_pos hk, hk, beq_self_eq_true, Bool.true_or, if_pos rfl]
      split <;> rfl
    · rw [if_neg hk, beq_false_of_ne (Ne.symm hk), Bool.false_or]

theorem tabModify_runs (s : State) (n : Nat) (x : Node) :
    (runCleared s n x).nodes = if runsOn x then tabModify n clearRun s.nodes else s.nodes := by
  unfold runCleared
  split <;> rfl

/-- What stops of nodes leave of the schedule. -/
theorem stopNodes_plan (l : List (Nat × Node)) (s : State) :
    PlanKept { s with nodes := stopRuns l s.nodes } (l.foldl (fun s e => stopNode s e.1 e.2) s) := by
  induction l generalizing s with
  | nil =>
    have h : stopRuns [] s.nodes = s.nodes := List.map_id' _
    rw [h]
    exact .refl s
  | cons y l ih =>
    obtain ⟨hn, hg, hw, ht, hp⟩ := stopNode_plan s y.1 y.2
    obtain ⟨in_, ig, iw, it, ip⟩ := ih (stopNode s y.1 y.2)
    have hrun : (runCleared s y.1 y.2).graphs = s.graphs ∧ (runCleared s y.1 y.2).watches = s.watches ∧
        (runCleared s y.1 y.2).time = s.time ∧ (runCleared s y.1 y.2).power = s.power := by
      unfold runCleared
      split <;> exact ⟨rfl, rfl, rfl, rfl⟩
    obtain ⟨rg, rw', rt, rp⟩ := hrun
    rw [hn, tabModify_runs, ← stopRuns_cons] at in_
    exact ⟨in_, ig.trans (hg.trans rg), iw.trans (hw.trans rw'), it.trans (ht.trans rt), ip.trans (hp.trans rp)⟩

/-! ### GRAPH_STOP (R215, R216) -/

/-- The graph as a stop marks it. -/
def markedGraph (g : Graph) : Graph := { g with holding := false, stopping := true }

/-- The graph without the notices that waited, and with what was aborted. -/
def abortNoted (n : Nat) (g : Graph) : Graph :=
  { g with aborted := n, lanes := g.lanes.map (fun l => { l with notices := [] }) }

/-- The state in which the graph is marked as stopping. -/
def stopMarked (s : State) (graph : Nat) (g : Graph) : State :=
  setGraph (answer s (.graphHold graph) .stopped []) graph (markedGraph g)

/-- A stop leaves of the schedule what its nodes lose. -/
theorem stopGraph_plan (s : State) (graph : Nat) (g : Graph) : ∃ t n,
    PlanKept { stopMarked s graph g with nodes := stopRuns (nodesOf s graph) s.nodes } t ∧ stopGraph s graph g = { t with
      graphs := tabModify graph (abortNoted n) t.graphs,
      watches := t.watches.map (fun e => if e.2.graph = graph then (e.1, { e.2 with pending := [] }) else e) } := by
  have hmark : (stopMarked s graph g).nodes = s.nodes := (answer_graphs s _ _ _).2
  let lanes := ((List.range g.lanes.length).zip g.lanes).foldl (fun (p : State × Nat) e =>
    let (s, m) := abortLane p.1 graph e.1 e.2
    (s, p.2 + m)) (stopPool (stopMarked s graph g) graph g.pool, 0)
  have hlanes : PlanKept (stopMarked s graph g) lanes.1 :=
    (PlanKept.foldlFst (f := fun (p : State × Nat) (e : Nat × Lane) => ((abortLane p.1 graph e.1 e.2).1, p.2 + (abortLane p.1 graph e.1 e.2).2))
      (fun p e => abortLane_plan p.1 graph e.1 e.2) _ _).behind (stopPool_plan _ graph g.pool)
  have hnodes := stopNodes_plan (nodesOf lanes.1 graph) lanes.1
  have hof : nodesOf lanes.1 graph = nodesOf s graph := by rw [nodesOf, hlanes.nodes, hmark, nodesOf]
  rw [hof, hlanes.nodes, hmark] at hnodes
  refine ⟨_, lanes.2, ?_, rfl⟩
  refine PlanKept.behind (.foldl (fun _ _ => dropStubs_plan _ _ _) _ _) (PlanKept.behind (dropCarry_plan _ _)
    (PlanKept.behind (.foldl (fun _ _ => cancelStream_plan _ _ _) _ _) ?_))
  show PlanKept _ ((nodesOf lanes.1 graph).foldl (fun s e => stopNode s e.1 e.2) lanes.1)
  rw [hof]
  exact ⟨hnodes.nodes, hnodes.graphs.trans hlanes.graphs, hnodes.watches.trans hlanes.watches, hnodes.time.trans hlanes.time,
    hnodes.power.trans hlanes.power⟩

/-- Settles O41: the marked graph, its nodes without their runs, and the frames of what else a stop does. -/
theorem graphStopEndsEveryRun : Obligations.GraphStopEndsEveryRun := by
  unfold Obligations.GraphStopEndsEveryRun
  refine ⟨fun s h g x hacc hg hx hst hstop => ?_, fun s g x hx hstop hidle => ?_⟩
  · have hcheck : graphCheck s g 0 1 graphActive isStopping = none :=
      graphCheck_passes hg hx (by simpa [graphActive] using hst) hstop
    have hexec : exec (.graphStop h g 0) s = .next (answerRow h 0x0305 (cmdGraphStop g 0 s)) :=
      congrArg _ (runCommand_accepted hacc _)
    have hcmd : cmdGraphStop g 0 s = (stopGraph s g x, .wait (.graphStop g)) := by
      rw [cmdGraphStop, hcheck]
      dsimp only
      rw [hx]
    rw [hcmd] at hexec
    obtain ⟨t, n, hplan, hdo⟩ := stopGraph_plan s g x
    obtain ⟨hn, hgr, hw, ht, hp⟩ := hplan
    have hans := answer_only s (.graphHold g) .stopped []
    have hset : tabGet? t.graphs g = some (markedGraph x) := by
      rw [hgr]
      exact tabGet?_tabSet_same _ _ _
    refine ⟨_, hexec, ?_⟩
    rw [hdo]
    obtain ⟨hsame, hother⟩ := graphs_tabModify (abortNoted n) hset
    refine ⟨⟨abortNoted n (markedGraph x), hsame, rfl, rfl, rfl, fun l hl => ?_⟩, fun k hk => ?_, fun e he heg => ?_, fun m hm => ?_,
      fun e he heg => ?_, ?_, ?_⟩
    · obtain ⟨l0, -, rfl⟩ := List.mem_map.mp hl
      rfl
    · refine (hother k hk).trans ?_
      rw [hgr]
      refine (tabGet?_tabSet_other _ _ hk).trans ?_
      rw [hans.doubt.graphs]
    · have hnodes : t.nodes = stopRuns (nodesOf s g) s.nodes := hn
      have he' : e ∈ stopRuns (nodesOf s g) s.nodes := hnodes ▸ he
      obtain ⟨y, hy, rfl⟩ := List.mem_map.mp he'
      split
      · exact .inl rfl
      next hany =>
        rw [if_neg hany] at heg
        refine runsOn_false (Bool.not_eq_true _ ▸ fun hrun => hany ?_)
        exact List.any_eq_true.mpr ⟨y, List.mem_filter.mpr ⟨hy, by simpa using heg⟩, by simp [hrun]⟩
    · show tabGet? t.nodes m = _
      rw [hn]
      have hmap := tabGet?_map (F := fun k x => if (nodesOf s g).any (fun y => y.1 == k && runsOn y.2) then clearRun x else x)
        (h := fun e => if (nodesOf s g).any (fun y => y.1 == e.1 && runsOn y.2) then (e.1, clearRun e.2) else e)
        (fun e => by split <;> rfl) s.nodes m
      refine hmap.trans ?_
      have hnone : (nodesOf s g).any (fun y => y.1 == m && runsOn y.2) = false := by
        rw [List.any_eq_false]
        intro y hy hand
        obtain ⟨hmem, hyg⟩ := List.mem_filter.mp hy
        exact hm y hmem (by simpa using hyg) (by simpa using (Bool.and_eq_true_iff.mp hand).1)
      simp only [hnone, Bool.false_eq_true, if_false, Option.map_id']
    · obtain ⟨y, -, rfl⟩ := List.mem_map.mp he
      split
      · rfl
      next hne =>
        rw [if_neg hne] at heg
        exact absurd heg hne
    · exact ht.trans hans.doubt.time
    · exact hp.trans hans.doubt.power
  · have hdo : doGraphStopIdle g s = answer (setGraph s g { x with st := .loaded, stopping := false }) (.graphStop g) .ok
        (leBytes 4 (satTo 32 x.aborted)) := by
      simp only [doGraphStopIdle, hx, hstop, hidle, Bool.and_self, if_true]
    refine ⟨_, congrArg Host.Outcome.next hdo, ?_⟩
    exact answer_setGraph s g _ _ _ _

end Sys2Proof.Machine
end

section
/-! PROOFS. The sequencer at run time (R192, R197 to R202, R212, R213), with O42. -/

namespace Sys2Proof.Machine

open Sys2Proof

/-! ### Signals, notices and flags -/

/-- Nothing changed but flags, semaphores, lanes, egress queues, and what events change. -/
structure NoticeOnly (s t : State) : Prop where
  frame : DoubtOnly { s with flags := t.flags, sems := t.sems, graphs := t.graphs, eports := t.eports } t

theorem NoticeOnly.refl (s : State) : NoticeOnly s s := ⟨rfl⟩

theorem NoticeOnly.trans {s t u : State} (h : NoticeOnly s t) (k : NoticeOnly t u) : NoticeOnly s u := by
  obtain ⟨h⟩ := h
  obtain ⟨k⟩ := k
  unfold DoubtOnly at h k
  rw [h] at k
  exact ⟨k⟩

theorem NoticeOnly.behind {s t u : State} (k : NoticeOnly t u) (h : NoticeOnly s t) : NoticeOnly s u := h.trans k

theorem NoticeOnly.foldl {α : Type} {f : State → α → State} (hf : ∀ s x, NoticeOnly s (f s x)) (l : List α) (s : State) :
    NoticeOnly s (l.foldl f s) := by
  induction l generalizing s with
  | nil => exact .refl s
  | cons x l ih => exact (hf s x).trans (ih _)

theorem DoubtOnly.notice {s t : State} (h : DoubtOnly s t) : NoticeOnly s t := by
  unfold DoubtOnly at h
  constructor
  unfold DoubtOnly
  rw [h]

theorem EventsOnly.notice {s t : State} (h : EventsOnly s t) : NoticeOnly s t := h.doubt.notice

theorem NoticeOnly.setFlag (s : State) (n : Nat) (f : Flag) : NoticeOnly s (setFlag s n f) := ⟨rfl⟩

theorem NoticeOnly.setSem (s : State) (n : Nat) (x : Sem) : NoticeOnly s (setSem s n x) := ⟨rfl⟩

theorem NoticeOnly.setLane (s : State) (g k : Nat) (l : Lane) : NoticeOnly s (setLane s g k l) := ⟨rfl⟩

theorem NoticeOnly.setEport (s : State) (p : Nat) (x : EPort) : NoticeOnly s (setEport s p x) := ⟨rfl⟩

/-- Only flags, semaphores and egress queues move: the lanes stand. -/
structure SyncOnly (s t : State) : Prop where
  notice : NoticeOnly s t
  graphs : t.graphs = s.graphs

theorem SyncOnly.refl (s : State) : SyncOnly s s := ⟨.refl s, rfl⟩

theorem SyncOnly.trans {s t u : State} (h : SyncOnly s t) (k : SyncOnly t u) : SyncOnly s u :=
  ⟨h.notice.trans k.notice, k.graphs.trans h.graphs⟩

theorem SyncOnly.behind {s t u : State} (k : SyncOnly t u) (h : SyncOnly s t) : SyncOnly s u := h.trans k

theorem SyncOnly.foldl {α : Type} {f : State → α → State} (hf : ∀ s x, SyncOnly s (f s x)) (l : List α) (s : State) :
    SyncOnly s (l.foldl f s) := by
  induction l generalizing s with
  | nil => exact .refl s
  | cons x l ih => exact (hf s x).trans (ih _)

theorem DoubtOnly.sync {s t : State} (h : DoubtOnly s t) : SyncOnly s t := ⟨h.notice, h.graphs⟩

theorem EventsOnly.sync {s t : State} (h : EventsOnly s t) : SyncOnly s t := h.doubt.sync

theorem SyncOnly.setFlag (s : State) (n : Nat) (f : Flag) : SyncOnly s (setFlag s n f) := ⟨.setFlag s n f, rfl⟩

theorem SyncOnly.setSem (s : State) (n : Nat) (x : Sem) : SyncOnly s (setSem s n x) := ⟨.setSem s n x, rfl⟩

theorem SyncOnly.setEport (s : State) (p : Nat) (x : EPort) : SyncOnly s (setEport s p x) := ⟨.setEport s p x, rfl⟩

/-- Only flags and egress queues move: the semaphores stand. -/
structure FlagOnly (s t : State) : Prop where
  sync : SyncOnly s t
  sems : t.sems = s.sems

theorem FlagOnly.refl (s : State) : FlagOnly s s := ⟨.refl s, rfl⟩

theorem FlagOnly.trans {s t u : State} (h : FlagOnly s t) (k : FlagOnly t u) : FlagOnly s u :=
  ⟨h.sync.trans k.sync, k.sems.trans h.sems⟩

theorem FlagOnly.behind {s t u : State} (k : FlagOnly t u) (h : FlagOnly s t) : FlagOnly s u := h.trans k

theorem FlagOnly.foldl {α : Type} {f : State → α → State} (hf : ∀ s x, FlagOnly s (f s x)) (l : List α) (s : State) :
    FlagOnly s (l.foldl f s) := by
  induction l generalizing s with
  | nil => exact .refl s
  | cons x l ih => exact (hf s x).trans (ih _)

theorem DoubtOnly.flag {s t : State} (h : DoubtOnly s t) : FlagOnly s t := ⟨h.sync, h.sems⟩

theorem EventsOnly.flag {s t : State} (h : EventsOnly s t) : FlagOnly s t := h.doubt.flag

theorem FlagOnly.setFlag (s : State) (n : Nat) (f : Flag) : FlagOnly s (setFlag s n f) := ⟨.setFlag s n f, rfl⟩

theorem FlagOnly.setEport (s : State) (p : Nat) (x : EPort) : FlagOnly s (setEport s p x) := ⟨.setEport s p x, rfl⟩

theorem raiseGraph_only (s : State) (code cls unit : Nat) (arg : List Byte) (row : Nat) (g : Option Nat) :
    DoubtOnly s (raiseGraph s code cls unit arg row g) := by
  unfold raiseGraph
  cases g with
  | none => exact (postEvent_only _ _ _ _ _).doubt
  | some g => exact raiseDoubt_only _ _ _ _ _ _ _ _

theorem countFlagOp_only (s : State) : EventsOnly s (countFlagOp s) := .bump s 8 0 7 1

theorem flagSet_flag (s : State) (n f : Nat) : FlagOnly s (flagSet s n f) := by
  unfold flagSet
  dsimp only
  split
  · exact (raiseGraph_only _ _ _ _ _ _ _).flag.behind (countFlagOp_only s).flag
  · exact (FlagOnly.setFlag _ _ _).behind (countFlagOp_only s).flag

theorem flagRelease_flag (s : State) (n j : Nat) : FlagOnly s (flagRelease s n j) := by
  unfold flagRelease
  dsimp only
  split
  · exact (raiseGraph_only _ _ _ _ _ _ _).flag.behind (countFlagOp_only s).flag
  · exact (FlagOnly.setFlag _ _ _).behind (countFlagOp_only s).flag

theorem completeFlags_flag (s : State) (x : Node) (f : Nat) : FlagOnly s (completeFlags s x f) := by
  refine .foldl (fun s w => ?_) _ _
  split
  · exact flagSet_flag _ _ _
  · split
    · exact flagRelease_flag _ _ _
    · exact .refl s

theorem semSignalAt_sync (s : State) (n dev : Nat) (g : Option Nat) : SyncOnly s (semSignalAt s n dev g) := by
  unfold semSignalAt
  dsimp only
  split
  · exact (raiseGraph_only _ _ _ _ _ _ _).sync.behind (EventsOnly.bump s 8 0 6 1).sync
  · split
    · exact (postEvent_only _ _ _ _ _).sync.behind ((SyncOnly.setSem _ _ _).behind (EventsOnly.bump s 8 0 6 1).sync)
    · exact (SyncOnly.setSem _ _ _).behind (EventsOnly.bump s 8 0 6 1).sync

theorem abortRecord_flag (s : State) (flow objId f tExp reason flags : Nat) :
    FlagOnly s (abortRecord s flow objId f tExp reason flags) := by
  unfold abortRecord
  split
  · exact .refl s
  · dsimp only
    split
    · exact (postEvent_only _ _ _ _ _).flag.behind ((EventsOnly.bump _ _ _ _ _).flag.behind (.setEport _ _ _))
    · exact .setEport _ _ _

theorem abortFrame_flag (s : State) (g k : Nat) (l : Lane) (f reason : Nat) : FlagOnly s (abortFrame s g k l f reason) :=
  FlagOnly.foldl (fun _ _ => abortRecord_flag _ _ _ _ _ _ _) _ _

theorem skipFlags_flag (s : State) (l : Lane) (f : Nat) : FlagOnly s (skipFlags s l f) := by
  unfold skipFlags
  split
  · exact .refl s
  · dsimp only
    split
    · exact .refl s
    · refine .foldl (fun s fl => .foldl (fun s j => ?_) _ _) _ _
      split
      · exact .refl s
      · exact flagRelease_flag _ _ _

/-! ### Lanes -/

/-- The lane of a graph exists, and each entry of it has a property. -/
structure LaneGoes (g k : Nat) (P : Lane → Prop) (s : State) : Prop where
  has : (laneAt s g k).isSome = true
  all : ∀ e ∈ s.graphs, e.1 = g → ∀ l, e.2.lanes[k]? = some l → P l

theorem LaneGoes.congr {g k : Nat} {P : Lane → Prop} {s t : State} (h : LaneGoes g k P s) (ht : t.graphs = s.graphs) :
    LaneGoes g k P t := ⟨by rw [laneAt, ht]; exact h.has, by rw [ht]; exact h.all⟩

theorem LaneGoes.lane {g k : Nat} {P : Lane → Prop} {s : State} (h : LaneGoes g k P s) : ∃ l, laneAt s g k = some l ∧ P l := by
  obtain ⟨l, hl⟩ := Option.isSome_iff_exists.mp h.has
  refine ⟨l, hl, ?_⟩
  unfold laneAt at hl
  obtain ⟨x, hx, hxl⟩ := Option.bind_eq_some_iff.mp hl
  exact h.all (g, x) (mem_of_tabGet? hx) rfl l hxl

theorem tabGet?_tabModify {α : Type} (n : Nat) (f : α → α) (t : Tab α) (m : Nat) :
    tabGet? (tabModify n f t) m = (tabGet? t m).map (fun y => if m = n then f y else y) :=
  tabGet?_map (F := fun k y => if k = n then f y else y) (fun e => by split <;> rfl) t m

theorem laneAt_setLane (s : State) (g k g' k' : Nat) (l : Lane) :
    (laneAt (setLane s g' k' l) g k).isSome = (laneAt s g k).isSome := by
  unfold laneAt setLane
  rw [tabGet?_tabModify]
  cases tabGet? s.graphs g with
  | none => rfl
  | some x =>
    simp only [Option.map_some, Option.bind_some]
    split
    · rw [List.getElem?_set]
      split
      next h =>
        subst h
        by_cases hlt : k' < x.lanes.length
        · simp [hlt]
        · simp [hlt]
      · rfl
    · rfl

/-- Setting a lane: every entry of that lane is the new one, and other lanes stand. -/
theorem LaneGoes.setLane {g k g' k' : Nat} {P : Lane → Prop} {s : State} (h : LaneGoes g k P s) {l : Lane}
    (hl : g' = g → k' = k → P l) : LaneGoes g k P (setLane s g' k' l) := by
  refine ⟨by rw [laneAt_setLane]; exact h.has, fun e he heg m hm => ?_⟩
  obtain ⟨y, hy, rfl⟩ := List.mem_map.mp he
  split at heg
  next hyg =>
    rw [if_pos hyg] at hm
    dsimp only at hm
    rw [List.getElem?_set] at hm
    split at hm
    next hk =>
      split at hm <;> cases hm
      exact hl (hyg.symm.trans heg) hk
    · exact h.all y hy heg m hm
  next hyg =>
    rw [if_neg hyg] at hm
    exact h.all y hy heg m hm

theorem LaneGoes.foldl {g k : Nat} {P : Lane → Prop} {α : Type} {f : State → α → State} (l : List α)
    (hf : ∀ e ∈ l, ∀ s, LaneGoes g k P s → LaneGoes g k P (f s e)) {s : State} (h : LaneGoes g k P s) :
    LaneGoes g k P (l.foldl f s) := by
  induction l generalizing s with
  | nil => exact h
  | cons x l ih => exact ih (fun e he => hf e (List.mem_cons_of_mem _ he)) (hf x List.mem_cons_self s h)

/-- A property of lanes that notices keep. -/
def NoticeStable (P : Lane → Prop) : Prop :=
  ∀ l, P l → ∀ n, P { l with fNext := n } ∧ ∀ t f, P (takeNotice { l with fNext := n } t f)

theorem noticeAt_notice (s : State) (g k : Nat) (x : Graph) (l : Lane) : NoticeOnly s (noticeAt s g k x l) := by
  unfold noticeAt
  dsimp only
  split
  · exact (abortFrame_flag _ _ _ _ _ _).sync.notice.behind ((skipFlags_flag _ _ _).sync.notice.behind (.setLane _ _ _ _))
  · exact .setLane _ _ _ _

theorem noticeAt_sems (s : State) (g k : Nat) (x : Graph) (l : Lane) : (noticeAt s g k x l).sems = s.sems := by
  unfold noticeAt
  dsimp only
  split
  · exact (abortFrame_flag _ _ _ _ _ _).sems.trans (skipFlags_flag _ _ _).sems
  · rfl

theorem LaneGoes.noticeAt {g k g' k' : Nat} {P : Lane → Prop} (hP : NoticeStable P) {s : State} (h : LaneGoes g k P s)
    (x : Graph) {l : Lane} (hl : g' = g → k' = k → P l) : LaneGoes g k P (noticeAt s g' k' x l) := by
  unfold Sys2Proof.Machine.noticeAt
  dsimp only
  split
  · have hset := h.setLane (g' := g') (k' := k') (l := { l with fNext := some (((l.fNext.getD l.f0) + 1) % 2 ^ 32) })
      (fun hg hk => (hP l (hl hg hk) _).1)
    exact hset.congr ((abortFrame_flag _ _ _ _ _ _).sync.graphs.trans (skipFlags_flag _ _ _).sync.graphs)
  · exact h.setLane (fun hg hk => (hP l (hl hg hk) l.fNext).2 _ _)

theorem mem_lanesWhere {s : State} {p : Graph → Lane → Bool} {e : Nat × Nat × Graph × Lane} (h : e ∈ lanesWhere s p) :
    ∃ y ∈ s.graphs, y.1 = e.1 ∧ y.2.lanes[e.2.1]? = some e.2.2.2 := by
  unfold lanesWhere at h
  obtain ⟨y, hy, he⟩ := List.mem_flatMap.mp h
  obtain ⟨k, -, hk⟩ := List.mem_filterMap.mp he
  obtain ⟨l, hl, hp⟩ := Option.bind_eq_some_iff.mp hk
  split at hp <;> cases hp
  exact ⟨y, hy, rfl, hl⟩

theorem remoteNotice_notice (s : State) (sem : Nat) : NoticeOnly s (remoteNotice s sem) :=
  .foldl (fun _ _ => noticeAt_notice _ _ _ _ _) _ _

theorem remoteNotice_sems (s : State) (sem : Nat) : (remoteNotice s sem).sems = s.sems := by
  unfold remoteNotice
  generalize lanesWhere s _ = l
  induction l generalizing s with
  | nil => rfl
  | cons e l ih => exact (ih _).trans (noticeAt_sems _ _ _ _ _)

theorem LaneGoes.remoteNotice {g k : Nat} {P : Lane → Prop} (hP : NoticeStable P) {s : State} (h : LaneGoes g k P s) (sem : Nat) :
    LaneGoes g k P (remoteNotice s sem) := by
  refine LaneGoes.foldl _ (fun e he q hq => ?_) h
  obtain ⟨y, hy, hye, hyl⟩ := mem_lanesWhere he
  exact hq.noticeAt hP _ fun hg hk => h.all y hy (hye.trans hg) _ (hk ▸ hyl)

theorem signalEdge_notice (s : State) (e : EdgeE) (g : Nat) : NoticeOnly s (signalEdge s e g) := by
  unfold signalEdge
  split
  · dsimp only
    split
    · exact (remoteNotice_notice _ _).behind (semSignalAt_sync _ _ _ _).notice
    · exact (semSignalAt_sync _ _ _ _).notice
  · exact (routePosted_only _ _ _).notice

theorem LaneGoes.signalEdge {g k : Nat} {P : Lane → Prop} (hP : NoticeStable P) {s : State} (h : LaneGoes g k P s) (e : EdgeE)
    (g' : Nat) : LaneGoes g k P (signalEdge s e g') := by
  unfold Sys2Proof.Machine.signalEdge
  split
  · dsimp only
    split
    · exact (h.congr (semSignalAt_sync _ _ _ _).graphs).remoteNotice hP _
    · exact h.congr (semSignalAt_sync _ _ _ _).graphs
  · exact h.congr (routePosted_only _ _ _).sync.graphs

/-! ### Completions -/

/-- Nothing changed but nodes and what signals change. -/
structure NodeOnly (s t : State) : Prop where
  notice : NoticeOnly { s with nodes := t.nodes } t

theorem NodeOnly.trans {s t u : State} (h : NodeOnly s t) (k : NodeOnly t u) : NodeOnly s u := by
  obtain ⟨⟨h⟩⟩ := h
  obtain ⟨⟨k⟩⟩ := k
  unfold DoubtOnly at h k
  rw [h] at k
  exact ⟨⟨k⟩⟩

theorem NodeOnly.behind {s t u : State} (k : NodeOnly t u) (h : NodeOnly s t) : NodeOnly s u := h.trans k

theorem NodeOnly.refl (s : State) : NodeOnly s s := ⟨⟨rfl⟩⟩

theorem NodeOnly.modNode (s : State) (n : Nat) (p : Node → Node) : NodeOnly s (modNode s n p) := ⟨⟨rfl⟩⟩

theorem NodeOnly.foldl {α : Type} {f : State → α → State} (hf : ∀ s x, NodeOnly s (f s x)) (l : List α) (s : State) :
    NodeOnly s (l.foldl f s) := by
  induction l generalizing s with
  | nil => exact .refl s
  | cons x l ih => exact (hf s x).trans (ih _)

section
variable {s t : State} (h : NoticeOnly s t)
include h

theorem NoticeOnly.nodes : t.nodes = s.nodes := h.frame.nodes
theorem NoticeOnly.mem : t.mem = s.mem := h.frame.mem
theorem NoticeOnly.links : t.links = s.links := h.frame.links
theorem NoticeOnly.power : t.power = s.power := h.frame.power
theorem NoticeOnly.time : t.time = s.time := h.frame.time

theorem NoticeOnly.node : NodeOnly s t := by
  have hn := h.nodes
  obtain ⟨h⟩ := h
  constructor
  constructor
  rw [hn]
  exact h

end

section
variable {s t : State} (h : NodeOnly s t)
include h

theorem NodeOnly.mem : t.mem = s.mem := h.notice.mem
theorem NodeOnly.power : t.power = s.power := h.notice.power
theorem NodeOnly.time : t.time = s.time := h.notice.time

end

/-- One edge taken off the counter of an iteration. -/
def decNode (i : Nat) (y : Node) : Node := setCnt y i (cntOf y i - 1)

/-- One edge of a completion. -/
def edgeStep (g i : Nat) (s : State) (e : EdgeE) : State :=
  if e.sem then signalEdge (bump s 8 0 2 1) e g else modNode (bump s 8 0 2 1) e.target (decNode i)

theorem completeEdges_eq (s : State) (x : Node) (i : Nat) : completeEdges s x i = (edgesOf s x).foldl (edgeStep x.graph i) s := rfl

theorem edgeStep_only (g i : Nat) (s : State) (e : EdgeE) : NodeOnly s (edgeStep g i s e) := by
  unfold edgeStep
  split
  · exact (signalEdge_notice _ _ _).node.behind (EventsOnly.bump s 8 0 2 1).notice.node
  · exact (NodeOnly.modNode _ _ _).behind (EventsOnly.bump s 8 0 2 1).notice.node

theorem edgeStep_nodes (g i : Nat) (s : State) (e : EdgeE) :
    (edgeStep g i s e).nodes = if e.sem then s.nodes else tabModify e.target (decNode i) s.nodes := by
  unfold edgeStep
  split
  · exact (signalEdge_notice _ _ _).nodes
  · rfl

theorem edgeSteps_nodes (g i : Nat) (l : List EdgeE) (s : State) :
    (l.foldl (edgeStep g i) s).nodes =
      ((l.filter (fun e => ! e.sem)).map (fun e => e.target)).foldl (fun t m => tabModify m (decNode i) t) s.nodes := by
  induction l generalizing s with
  | nil => rfl
  | cons e l ih =>
    rw [List.foldl_cons, ih, edgeStep_nodes]
    cases h : e.sem with
    | true => rw [List.filter_cons_of_neg (by rw [h]; decide), if_pos rfl]
    | false =>
      rw [List.filter_cons_of_pos (by rw [h]; rfl), if_neg (by decide)]
      rfl

theorem LaneGoes.edgeStep {g k : Nat} {P : Lane → Prop} (hP : NoticeStable P) {s : State} (h : LaneGoes g k P s) (g' i : Nat)
    (e : EdgeE) : LaneGoes g k P (edgeStep g' i s e) := by
  unfold Sys2Proof.Machine.edgeStep
  split
  · exact (h.congr (t := bump s 8 0 2 1) rfl).signalEdge hP e g'
  · exact h.congr rfl

theorem cntOf_setCnt (y : Node) (i v : Nat) : cntOf (setCnt y i v) i = v := by
  unfold cntOf setCnt
  split <;> rfl

theorem setCnt_setCnt (y : Node) (i v w : Nat) : setCnt (setCnt y i v) i w = setCnt y i w := by
  unfold setCnt
  split <;> rfl

theorem setCnt_cntOf (y : Node) (i : Nat) : setCnt y i (cntOf y i) = y := by
  unfold cntOf setCnt
  split <;> rfl

theorem setCnt_iter (y : Node) (i v : Nat) : (setCnt y i v).iter = y.iter := by unfold setCnt; split <;> rfl
theorem setCnt_run (y : Node) (i v : Nat) : (setCnt y i v).run = y.run := by unfold setCnt; split <;> rfl
theorem setCnt_slips (y : Node) (i v : Nat) : (setCnt y i v).slips = y.slips := by unfold setCnt; split <;> rfl

/-- A node that loses an edge once for each place it has in a list. -/
theorem tabGet?_decNodes (i : Nat) (l : List Nat) (t : Tab Node) (m : Nat) :
    tabGet? (l.foldl (fun t m => tabModify m (decNode i) t) t) m =
      (tabGet? t m).map (fun y => setCnt y i (cntOf y i - l.count m)) := by
  induction l generalizing t with
  | nil =>
    cases h : tabGet? t m with
    | none => rw [List.foldl_nil, h]; rfl
    | some y => rw [List.foldl_nil, h, Option.map_some, List.count_nil, Nat.sub_zero, setCnt_cntOf]
  | cons a l ih =>
    rw [List.foldl_cons, ih, tabGet?_tabModify]
    cases tabGet? t m with
    | none => rfl
    | some y =>
      simp only [Option.map_some, Option.some.injEq]
      by_cases h : m = a
      · subst h
        rw [if_pos rfl, decNode, cntOf_setCnt, setCnt_setCnt, List.count_cons_self, Nat.sub_sub, Nat.add_comm]
      · rw [if_neg h, List.count_cons_of_ne (Ne.symm h)]

/-- One slip more in a counter window. -/
def slipNode (w : Nat) (y : Node) : Node := { y with slips := y.slips + 1, slipWindow := some w }

/-- The completion of a node comes after its latest time. -/
def isLate (s : State) (x : Node) (rel : Nat) : Prop := x.kind ≠ 4 ∧ rel + 16 * nth x.lates (seasonIdx s.power.season) ≤ s.time

theorem slipCheck_early {s : State} {x : Node} {rel : Nat} (n f : Nat) (h : ¬ isLate s x rel) : slipCheck s n x rel f = s := by
  refine if_pos ?_
  unfold isLate at h
  by_cases hk : x.kind = 4
  · exact .inl hk
  · exact .inr (Nat.lt_of_not_le fun hle => h ⟨hk, hle⟩)

/-- The slip of a late completion is counted and reported. -/
theorem slipCheck_late {s : State} {x : Node} {rel : Nat} (n f : Nat) (h : isLate s x rel) :
    DoubtOnly (modNode (bump s 8 0 3 1) n (slipNode (windowOf s.time))) (slipCheck s n x rel f) ∧
      doubtOpen (slipCheck s n x rel f) rowGraph kindGraph x.graph := by
  obtain ⟨hk, hle⟩ := h
  unfold slipCheck
  dsimp only
  rw [if_neg (fun hor => hor.elim hk (Nat.not_lt_of_le hle))]
  split
  · exact ⟨failCond_only _ _ _ _ _, failCond_open _ _ _ _ _⟩
  · exact ⟨raiseDoubt_only _ _ _ _ _ _ _ _, raiseDoubt_open _ _ _ _ _ _ _ _⟩

theorem slipCheck_only (s : State) (n : Nat) (x : Node) (rel f : Nat) : NodeOnly s (slipCheck s n x rel f) := by
  by_cases h : isLate s x rel
  · exact (slipCheck_late n f h).1.notice.node.behind
      ((NodeOnly.modNode _ _ _).behind (EventsOnly.bump s 8 0 3 1).notice.node)
  · rw [slipCheck_early n f h]
    exact .refl s

theorem slipCheck_graphs (s : State) (n : Nat) (x : Node) (rel f : Nat) : (slipCheck s n x rel f).graphs = s.graphs := by
  by_cases h : isLate s x rel
  · exact (slipCheck_late n f h).1.graphs
  · rw [slipCheck_early n f h]

theorem pruneLane_notice (s : State) (g k : Nat) : NoticeOnly s (pruneLane s g k) := by
  unfold pruneLane
  cases laneAt s g k with
  | none => exact .refl s
  | some l => exact .setLane _ _ _ _

theorem pruneLane_safety (s : State) (g k : Nat) : (pruneLane s g k).safety = s.safety := by
  unfold pruneLane
  cases laneAt s g k <;> rfl

/-- The state of a completion with its trace record and its flag operations. -/
def noted (s : State) (n : Nat) (x : Node) (f : Nat) : State :=
  completeFlags (bump (emitTrace s 8 0 false 1 (nodeWork f n) []) 8 0 1 1) x f

theorem noted_sync (s : State) (n : Nat) (x : Node) (f : Nat) : SyncOnly s (noted s n x f) :=
  (completeFlags_flag _ x f).sync.behind
    ((EventsOnly.bump _ 8 0 1 1).sync.behind (EventsOnly.emitTrace s 8 0 false 1 (nodeWork f n) []).sync)

/-- The state of a completion with its edges taken. -/
def edged (s : State) (n : Nat) (x : Node) (i f : Nat) : State := completeEdges (noted s n x f) x i

theorem completeNode_eq (s : State) (n : Nat) (x : Node) (i rel f : Nat) :
    completeNode s n x i rel f = pruneLane (slipCheck (edged s n x i f) n x rel f) x.graph x.lane := rfl

theorem recordNode_eq (s : State) (n : Nat) (x : Node) (rel f : Nat) :
    recordNode s n x rel f = slipCheck (noted s n x f) n x rel f := rfl

theorem edged_only (s : State) (n : Nat) (x : Node) (i f : Nat) : NodeOnly s (edged s n x i f) := by
  rw [edged, completeEdges_eq]
  exact (NodeOnly.foldl (edgeStep_only _ _) _ _).behind (noted_sync s n x f).notice.node

theorem targetsOf_congr {s t : State} (h : t.links = s.links) (x : Node) : targetsOf t x = targetsOf s x := by
  unfold targetsOf edgesOf linkWords
  rw [h]

theorem edged_nodes (s : State) (n : Nat) (x : Node) (i f : Nat) :
    (edged s n x i f).nodes = (targetsOf s x).foldl (fun t m => tabModify m (decNode i) t) s.nodes := by
  rw [edged, completeEdges_eq, edgeSteps_nodes, (noted_sync s n x f).notice.nodes,
    ← targetsOf_congr (noted_sync s n x f).notice.links x]
  rfl

theorem isLate_congr {s t : State} (h : NodeOnly s t) {x : Node} {rel : Nat} : isLate t x rel ↔ isLate s x rel := by
  unfold isLate
  rw [h.power, h.time]

/-- What a completion leaves of each node: its counter less the edges that end at it, and one slip more of the node itself
when it is late. -/
structure Ended (s t : State) (n i : Nat) (l : List Nat) (x : Node) (rel : Nat) : Prop where
  other : ∀ m y, tabGet? s.nodes m = some y → ∃ z, tabGet? t.nodes m = some z ∧ z.iter = y.iter ∧ z.run = y.run ∧
    cntOf z i = cntOf y i - l.count m ∧ (m = n → isLate s x rel → z.slips = y.slips + 1) ∧ (¬ isLate s x rel → z.slips = y.slips)
  mem : t.mem = s.mem
  doubt : isLate s x rel → doubtOpen t rowGraph kindGraph x.graph

theorem ended_slipCheck {s q : State} {n i : Nat} {l : List Nat} {x : Node} {rel : Nat} (f : Nat) (hq : NodeOnly s q)
    (hn : q.nodes = l.foldl (fun t m => tabModify m (decNode i) t) s.nodes) :
    Ended s (slipCheck q n x rel f) n i l x rel := by
  have hlate := isLate_congr (x := x) (rel := rel) hq
  refine ⟨fun m y hy => ?_, (slipCheck_only _ _ _ _ _).mem.trans hq.mem, fun h => (slipCheck_late n f (hlate.mpr h)).2⟩
  have hdec : tabGet? q.nodes m = some (setCnt y i (cntOf y i - l.count m)) := by
    rw [hn, tabGet?_decNodes, hy, Option.map_some]
  by_cases h : isLate q x rel
  · have hnodes : (slipCheck q n x rel f).nodes = tabModify n (slipNode (windowOf q.time)) q.nodes := (slipCheck_late n f h).1.nodes
    rw [hnodes, tabGet?_tabModify, hdec, Option.map_some]
    refine ⟨_, rfl, ?_⟩
    by_cases hm : m = n
    · rw [if_pos hm]
      exact ⟨setCnt_iter _ _ _, setCnt_run _ _ _, cntOf_setCnt _ _ _, fun _ _ => congrArg (· + 1) (setCnt_slips _ _ _),
        fun hl => (hl (hlate.mp h)).elim⟩
    · rw [if_neg hm]
      exact ⟨setCnt_iter _ _ _, setCnt_run _ _ _, cntOf_setCnt _ _ _, fun hmn => (hm hmn).elim,
        fun hl => (hl (hlate.mp h)).elim⟩
  · rw [slipCheck_early n f h, hdec]
    exact ⟨_, rfl, setCnt_iter _ _ _, setCnt_run _ _ _, cntOf_setCnt _ _ _, fun _ hl => (h (hlate.mpr hl)).elim,
      fun _ => setCnt_slips _ _ _⟩

theorem Ended.congr {s t u : State} {n i : Nat} {l : List Nat} {x : Node} {rel : Nat} (h : Ended s t n i l x rel)
    (hn : u.nodes = t.nodes) (hm : u.mem = t.mem) (hs : u.safety = t.safety) : Ended s u n i l x rel :=
  ⟨by rw [hn]; exact h.other, hm.trans h.mem, fun hl => doubtOpen_congr hs (h.doubt hl)⟩

theorem completeNode_ended (s : State) (n : Nat) (x : Node) (i rel f : Nat) :
    Ended s (completeNode s n x i rel f) n i (targetsOf s x) x rel :=
  (ended_slipCheck f (edged_only s n x i f) (edged_nodes s n x i f)).congr (pruneLane_notice _ _ _).nodes
    (pruneLane_notice _ _ _).mem (pruneLane_safety _ _ _)

theorem recordNode_ended (s : State) (n : Nat) (x : Node) (i rel f : Nat) :
    Ended s (recordNode s n x rel f) n i [] x rel :=
  ended_slipCheck f (noted_sync s n x f).notice.node (noted_sync s n x f).notice.nodes

/-- A property of lanes that the forgetting of completed iterations keeps. -/
def PruneStable (P : Lane → Prop) : Prop := ∀ l, P l → ∀ o, P { l with open_ := o }

theorem LaneGoes.pruneLane {g k : Nat} {P : Lane → Prop} (hP : PruneStable P) {s : State} (h : LaneGoes g k P s) (g' k' : Nat) :
    LaneGoes g k P (pruneLane s g' k') := by
  unfold Sys2Proof.Machine.pruneLane
  cases hl : laneAt s g' k' with
  | none => exact h
  | some l =>
    refine h.setLane fun hg hk => hP l ?_ _
    subst hg hk
    obtain ⟨m, hm, hPm⟩ := h.lane
    rw [hm] at hl
    cases hl
    exact hPm

theorem LaneGoes.completeNode {g k : Nat} {P : Lane → Prop} (hP : NoticeStable P) (hQ : PruneStable P) {s : State}
    (h : LaneGoes g k P s) (n : Nat) (x : Node) (i rel f : Nat) : LaneGoes g k P (completeNode s n x i rel f) := by
  rw [completeNode_eq]
  refine LaneGoes.pruneLane hQ (LaneGoes.congr ?_ (slipCheck_graphs _ _ _ _ _)) _ _
  rw [edged, completeEdges_eq]
  exact LaneGoes.foldl _ (fun e _ s hs => hs.edgeStep hP _ _ _) (h.congr (noted_sync s n x f).graphs)

/-! ### Starts -/

/-- A node whose next iteration starts: its counter reloads and ITER advances. -/
def startsNode (y : Node) : Node := { setCnt y y.iter y.depInit with iter := y.iter + 1, registered := false }

/-- A semaphore wait takes one from its semaphore. -/
def takeSem (s : State) (w : WaitE) : State :=
  if w.kind = 0 then setSem s w.index { semOf s w.index with count := (semOf s w.index).count - 1, blocked := false } else s

theorem takeStart_eq (s : State) (n : Nat) (x : Node) (f : Nat) :
    takeStart s n x f =
      bump (emitTrace ((waitsOf (modNode s n startsNode) x).foldl takeSem (modNode s n startsNode)) 8 0 false 0 (nodeWork f n) [])
        8 0 0 1 := rfl

/-- Nothing changed but the semaphores. -/
structure SemsOnly (s t : State) : Prop where
  frame : t = { s with sems := t.sems }

theorem SemsOnly.foldl {α : Type} {f : State → α → State} (hf : ∀ s x, SemsOnly s (f s x)) (l : List α) (s : State) :
    SemsOnly s (l.foldl f s) := by
  induction l generalizing s with
  | nil => exact ⟨rfl⟩
  | cons x l ih =>
    obtain ⟨h⟩ := ih (f s x)
    obtain ⟨k⟩ := hf s x
    constructor
    rw [List.foldl_cons]
    rw [k] at h
    rw [k]
    exact h

theorem SemsOnly.sync {s t : State} (h : SemsOnly s t) : SyncOnly s t := by
  obtain ⟨h⟩ := h
  refine ⟨⟨?_⟩, by rw [h]⟩
  unfold DoubtOnly
  rw [h]

theorem SemsOnly.trace {s t : State} (h : SemsOnly s t) : t.trace = s.trace := by rw [h.frame]
theorem SemsOnly.nodes {s t : State} (h : SemsOnly s t) : t.nodes = s.nodes := by rw [h.frame]
theorem SemsOnly.safety {s t : State} (h : SemsOnly s t) : t.safety = s.safety := by rw [h.frame]

theorem takeSem_sems (s : State) (w : WaitE) : SemsOnly s (takeSem s w) := by
  unfold takeSem
  split
  · exact ⟨rfl⟩
  · exact ⟨rfl⟩

/-- What a start leaves: one node started, and one start counted. -/
structure Started (s t : State) (n : Nat) : Prop where
  only : NodeOnly s t
  graphs : t.graphs = s.graphs
  nodes : t.nodes = tabModify n startsNode s.nodes
  counted : counted s t 8 0 0 1

theorem takeStart_started (s : State) (n : Nat) (x : Node) (f : Nat) : Started s (takeStart s n x f) n := by
  rw [takeStart_eq]
  have hsems := SemsOnly.foldl takeSem_sems (waitsOf (modNode s n startsNode) x) (modNode s n startsNode)
  generalize (waitsOf (modNode s n startsNode) x).foldl takeSem (modNode s n startsNode) = q at hsems ⊢
  have hev : EventsOnly q (bump (emitTrace q 8 0 false 0 (nodeWork f n) []) 8 0 0 1) :=
    (EventsOnly.emitTrace q 8 0 false 0 (nodeWork f n) []).trans (.bump _ 8 0 0 1)
  refine ⟨hev.notice.node.behind (hsems.sync.notice.node.behind (.modNode _ _ _)),
    hev.sync.graphs.trans hsems.sync.graphs, hev.notice.nodes.trans hsems.nodes, counted_of ?_⟩
  rw [cntAt_bump_same, cntAt_emitTrace]
  have hcnt : cntAt q (srcKey 8 0 * 8 + 0) = cntAt s (srcKey 8 0 * 8 + 0) := by
    unfold cntAt
    rw [hsems.trace]
    rfl
  rw [hcnt]

theorem readyFor_next {s : State} {n : Nat} {x : Node} {r : Nat × Nat} (h : readyFor s n x = some r) : nextIter s x = some r := by
  unfold readyFor at h
  split at h
  · cases h
  next rel f hn =>
    split at h
    · exact hn.trans h
    · cases h

/-- A SOURCE node that is ready has a notice that waits. -/
theorem nextIter_source {s : State} {x : Node} {r : Nat × Nat} (hk : x.kind = 4) (h : nextIter s x = some r) :
    ∃ l, laneAt s x.graph x.lane = some l ∧ l.notices.head? = some r := by
  unfold nextIter at h
  split at h
  · cases h
  · obtain ⟨l, hl, hr⟩ := Option.bind_eq_some_iff.mp h
    refine ⟨l, hl, ?_⟩
    split at hr
    next t f _ hnot =>
      rw [hnot]
      exact hr
    · cases hr

/-- The lane of a released iteration. -/
def releasedLane (l : Lane) (i rel f : Nat) : Lane :=
  { l with notices := l.notices.tail, started := l.started + 1, lastRel := some rel, open_ := l.open_ ++ [(i, rel, f)] }

/-- A lane that has released its oldest notice, and may have taken more. -/
def HasReleased (l : Lane) (rel : Nat) (m : Lane) : Prop :=
  l.notices.tail <+: m.notices ∧ m.started = l.started + 1 ∧ m.lastRel = some rel

theorem hasReleased_notice (l : Lane) (rel : Nat) : NoticeStable (HasReleased l rel) := by
  rintro m ⟨hn, hs, hr⟩ n
  exact ⟨⟨hn, hs, hr⟩, fun t f => ⟨hn.trans (List.prefix_append _ _), hs, hr⟩⟩

theorem hasReleased_prune (l : Lane) (rel : Nat) : PruneStable (HasReleased l rel) := fun _ h _ => h

/-- Setting a lane that exists. -/
theorem LaneGoes.of_set {s : State} {g k : Nat} {P : Lane → Prop} {l : Lane} (h : (laneAt s g k).isSome = true) (hl : P l) :
    LaneGoes g k P (Machine.setLane s g k l) := by
  refine ⟨by rw [laneAt_setLane]; exact h, fun e he heg m hm => ?_⟩
  obtain ⟨y, hy, rfl⟩ := List.mem_map.mp he
  split at heg
  next hyg =>
    rw [if_pos hyg] at hm
    dsimp only at hm
    rw [List.getElem?_set_self'] at hm
    obtain ⟨-, -, rfl⟩ := Option.map_eq_some_iff.mp hm
    exact hl
  next hyg => exact (hyg heg).elim

/-- The state of a release before its SOURCE node completes. -/
def releasedState (s : State) (n : Nat) (x : Node) (l : Lane) (rel f : Nat) : State :=
  takeStart (setLane (noteOpenings s x.graph x.lane rel) x.graph x.lane (releasedLane l x.iter rel f)) n x f

theorem releaseIteration_eq (s : State) (n : Nat) (x : Node) (l : Lane) (rel f : Nat) :
    releaseIteration s n x l rel f = completeNode (releasedState s n x l rel f) n x x.iter rel f := rfl

theorem releaseIteration_lane {s : State} {n : Nat} {x : Node} {l : Lane} (rel f : Nat)
    (hl : laneAt s x.graph x.lane = some l) :
    LaneGoes x.graph x.lane (HasReleased l rel) (releaseIteration s n x l rel f) := by
  rw [releaseIteration_eq]
  refine LaneGoes.completeNode (hasReleased_notice l rel) (hasReleased_prune l rel) ?_ _ _ _ _ _
  refine (LaneGoes.of_set ?_ ⟨List.prefix_refl _, rfl, rfl⟩).congr (takeStart_started _ n x f).graphs
  exact (congrArg Option.isSome hl).trans rfl

theorem releaseIteration_leaves {s : State} {n : Nat} {x : Node} (hx : tabGet? s.nodes n = some x) (l : Lane) (rel f : Nat) :
    (∃ y, tabGet? (releaseIteration s n x l rel f).nodes n = some y ∧ y.iter = x.iter + 1) ∧
      (releaseIteration s n x l rel f).mem = s.mem := by
  rw [releaseIteration_eq]
  have hst := takeStart_started
    (setLane (noteOpenings s x.graph x.lane rel) x.graph x.lane (releasedLane l x.iter rel f)) n x f
  have hend := completeNode_ended (releasedState s n x l rel f) n x x.iter rel f
  refine ⟨?_, hend.mem.trans hst.only.mem⟩
  have hn : tabGet? (releasedState s n x l rel f).nodes n = some (startsNode x) := by
    rw [show (releasedState s n x l rel f).nodes = tabModify n startsNode s.nodes from hst.nodes, tabGet?_tabModify, hx,
      Option.map_some, if_pos rfl]
  obtain ⟨z, hz, hiter, -⟩ := hend.other n (startsNode x) hn
  exact ⟨z, hz, hiter⟩

/-! ### Nodes on their units -/

/-- A node that runs. -/
def runsNode (r : NodeRun) (y : Node) : Node := { y with run := some r }

/-- Nodes, memory, marks and counters stand. -/
structure NodesStand (s t : State) : Prop where
  nodes : t.nodes = s.nodes
  descs : t.descs = s.descs
  mem : t.mem = s.mem
  marks : t.marks = s.marks
  trace : t.trace = s.trace

theorem drawTokens_stand (s : State) (g : Nat) (p : Purse) (c : Nat) : NodesStand s (drawTokens s g p c) := by
  unfold drawTokens
  split <;> exact ⟨rfl, rfl, rfl, rfl, rfl⟩

theorem drawTokens_time (s : State) (g : Nat) (p : Purse) (c : Nat) : (drawTokens s g p c).time = s.time := by
  unfold drawTokens
  split <;> rfl

theorem setRunAt_stand (s : State) (c : Nat) (r : Option DmaRun) : NodesStand s (setRunAt s c r) := by
  unfold setRunAt
  split <;> exact ⟨rfl, rfl, rfl, rfl, rfl⟩

theorem startUnit_stand (s : State) (n : Nat) (x : Node) (f : Nat) : NodesStand s (startUnit s n x f) := by
  unfold startUnit
  dsimp only
  split
  · exact ⟨rfl, rfl, rfl, rfl, rfl⟩
  · exact ⟨rfl, rfl, rfl, rfl, rfl⟩
  · exact setRunAt_stand _ _ _
  · exact ⟨rfl, rfl, rfl, rfl, rfl⟩

theorem startUnit_engine (s : State) (n : Nat) {x : Node} (f : Nat) (hk : x.kind = 1) :
    startUnit s n x f = setEngine s (nodeEngine s n x) (engRunNew (some n) f (nodeDesc s n)) := by
  unfold startUnit
  rw [hk]
  rfl

theorem startUnit_core (s : State) (n : Nat) {x : Node} (f : Nat) (hk : x.kind = 2) :
    startUnit s n x f = setUnit s x.unit (some (newUnit s x.unit (.node n) (saltOf s x.graph) n f (fieldAt (nodeDesc s n) 2 2)
      (fieldAt (nodeDesc s n) 4 4) (fieldAt (nodeDesc s n) 8 4) (argWords (nodeDesc s n) 16) 0)) := by
  unfold startUnit
  rw [hk]
  rfl

/-- The engine of a node is named by its descriptor, which a start leaves. -/
theorem nodeEngine_congr {s t : State} {n : Nat} {x y z : Node} (hx : tabGet? s.nodes n = some y) (hz : tabGet? t.nodes n = some z)
    (hd : z.desc = y.desc) (hl : z.descLen = y.descLen) (hdescs : t.descs = s.descs) : nodeEngine t n x = nodeEngine s n x := by
  unfold nodeEngine nodeDesc
  rw [hx, hz, hdescs]
  dsimp only
  rw [hd, hl]

/-- The state of a start with the node's tokens drawn. -/
def drawnState (s : State) (n : Nat) (x : Node) (f : Nat) : State :=
  match nodeUnit (takeStart s n x f) n x with
  | some (c, u) => drawTokens (takeStart s n x f) (unitGroup c u) (nodePurse x) x.eclass
  | none => takeStart s n x f

theorem drawnState_stand (s : State) (n : Nat) (x : Node) (f : Nat) :
    NodesStand (takeStart s n x f) (drawnState s n x f) := by
  unfold drawnState
  split
  · exact drawTokens_stand _ _ _ _
  · exact ⟨rfl, rfl, rfl, rfl, rfl⟩

theorem drawnState_time (s : State) (n : Nat) (x : Node) (f : Nat) : (drawnState s n x f).time = s.time := by
  unfold drawnState
  split
  · exact (drawTokens_time _ _ _ _).trans (takeStart_started s n x f).only.time
  · exact (takeStart_started s n x f).only.time

/-- The run that a start gives its node. -/
def nodeRunOf (s : State) (x : Node) (rel f : Nat) : NodeRun := { iter := x.iter, f := f, rel := rel, start := s.time, unitDone := false }

/-- The state in which a started node's unit begins. -/
def begunState (s : State) (n : Nat) (x : Node) (rel f : Nat) : State :=
  modNode (drawnState s n x f) n (runsNode (nodeRunOf s x rel f))

theorem startNode_eq {s : State} (n : Nat) {x : Node} (rel f : Nat) (hk : x.kind ≠ 5) :
    startNode s n x rel f = startUnit (begunState s n x rel f) n x f := by
  have h : startNode s n x rel f =
      startUnit (modNode (drawnState s n x f) n (runsNode (nodeRunOf (drawnState s n x f) x rel f))) n x f := if_neg hk
  rw [h, begunState, nodeRunOf, nodeRunOf, drawnState_time]

theorem begunState_nodes (s : State) (n : Nat) (x : Node) (rel f : Nat) :
    (begunState s n x rel f).nodes = tabModify n (runsNode (nodeRunOf s x rel f)) (tabModify n startsNode s.nodes) :=
  congrArg _ ((drawnState_stand s n x f).nodes.trans (takeStart_started s n x f).nodes)

theorem begunState_node {s : State} {n : Nat} {x y : Node} (hx : tabGet? s.nodes n = some y) (rel f : Nat) :
    tabGet? (begunState s n x rel f).nodes n = some (runsNode (nodeRunOf s x rel f) (startsNode y)) := by
  rw [begunState_nodes, tabGet?_tabModify, tabGet?_tabModify, hx, Option.map_some, Option.map_some, if_pos rfl, if_pos rfl]

theorem begunState_other {s : State} {n m : Nat} (hm : m ≠ n) (x : Node) (rel f : Nat) :
    tabGet? (begunState s n x rel f).nodes m = tabGet? s.nodes m := by
  rw [begunState_nodes, tabGet?_tabModify, tabGet?_tabModify]
  cases tabGet? s.nodes m with
  | none => rfl
  | some y => simp only [Option.map_some, if_neg hm]

theorem NoticeOnly.descs {s t : State} (h : NoticeOnly s t) : t.descs = s.descs := h.frame.descs
theorem NoticeOnly.marks {s t : State} (h : NoticeOnly s t) : t.marks = s.marks := h.frame.marks

theorem begunState_engine {s : State} {n : Nat} {x : Node} (hx : tabGet? s.nodes n = some x) (rel f : Nat) :
    nodeEngine (begunState s n x rel f) n x = nodeEngine s n x := by
  refine nodeEngine_congr hx (begunState_node hx rel f) ?_ ?_
    ((drawnState_stand s n x f).descs.trans (takeStart_started s n x f).only.notice.descs)
  · unfold runsNode startsNode setCnt
    split <;> rfl
  · unfold runsNode startsNode setCnt
    split <;> rfl

theorem startsNode_cnt (x : Node) : cntOf (startsNode x) x.iter = x.depInit := by
  unfold startsNode cntOf setCnt
  split <;> rfl

theorem counted_stand {s q t : State} {cls unit i k : Nat} (hq : counted s q cls unit i k) (h : t.trace = q.trace) :
    counted s t cls unit i k := by
  refine counted_of ?_
  rw [cntAt, h]
  exact hq

/-- A started node runs its next iteration, and its unit has it. -/
theorem startNode_leaves {s : State} {n : Nat} {x : Node} (hx : tabGet? s.nodes n = some x) (rel f : Nat) (h1 : 1 ≤ x.kind)
    (h3 : x.kind ≤ 3) :
    let t := startNode s n x rel f
    ∃ y, tabGet? t.nodes n = some y ∧ y.iter = x.iter + 1 ∧ cntOf y x.iter = x.depInit ∧
      y.run = some { iter := x.iter, f := f, rel := rel, start := s.time, unitDone := false } ∧
      (∀ m, m ≠ n → tabGet? t.nodes m = tabGet? s.nodes m) ∧
      (x.kind = 1 → ∃ e, tabGet? t.engines (nodeEngine s n x) = some e ∧ e.node = some n ∧ e.f = f ∧ e.begun = false) ∧
      (x.kind = 2 → ∃ u, (coreOf t x.unit).unit = some u ∧ u.work = .node n ∧ u.hi = n ∧ u.lo = f ∧ u.begun = false) ∧
      t.mem = s.mem ∧ t.marks = s.marks ∧ counted s t 8 0 0 1 := by
  intro t
  have ht : t = startUnit (begunState s n x rel f) n x f := startNode_eq n rel f (by omega)
  have hstart := takeStart_started s n x f
  have hdrawn := drawnState_stand s n x f
  have hunit := startUnit_stand (begunState s n x rel f) n x f
  rw [← ht] at hunit
  refine ⟨_, (congrArg (tabGet? · n) hunit.nodes).trans (begunState_node hx rel f), rfl, startsNode_cnt x, rfl, fun m hm => ?_,
    fun hk => ?_, fun hk => ?_, ?_, ?_, ?_⟩
  · rw [hunit.nodes]
    exact begunState_other hm x rel f
  · rw [ht, startUnit_engine _ n f hk, begunState_engine hx]
    exact ⟨_, tabGet?_tabSet_same _ _ _, rfl, rfl, rfl⟩
  · rw [ht, startUnit_core _ n f hk]
    exact ⟨_, congrArg CoreSt.unit (tabGet_tabSet_same _ _ _ _), rfl, rfl, rfl, rfl⟩
  · exact hunit.mem.trans (hdrawn.mem.trans hstart.only.mem)
  · exact hunit.marks.trans (hdrawn.marks.trans hstart.only.notice.marks)
  · exact counted_stand (counted_stand hstart.counted hdrawn.trace) hunit.trace

/-! ### NODE_COMPLETE -/

/-- A node whose run has ended. -/
def restsNode (y : Node) : Node := { y with run := none }

theorem tabGet?_restsNode {t : Tab Node} {n m : Nat} {y : Node} (h : tabGet? t m = some y) :
    ∃ z, tabGet? (tabModify n restsNode t) m = some z ∧ z.iter = y.iter ∧ z.slips = y.slips ∧ (∀ i, cntOf z i = cntOf y i) ∧
      (m = n → z.run = none) := by
  rw [tabGet?_tabModify, h]
  by_cases hm : m = n
  · exact ⟨_, congrArg some (if_pos hm), rfl, rfl, fun _ => rfl, fun _ => rfl⟩
  · exact ⟨_, congrArg some (if_neg hm), rfl, rfl, fun _ => rfl, fun h => (hm h).elim⟩

/-- What a completion leaves of each node, when its run ended first. -/
theorem Ended.rests {s t : State} {n i : Nat} {l : List Nat} {x : Node} {rel : Nat}
    (h : Ended (modNode s n restsNode) t n i l (restsNode x) rel) (hx : tabGet? s.nodes n = some x) :
    (∃ y, tabGet? t.nodes n = some y ∧ y.run = none ∧ (isLate s x rel → y.slips = x.slips + 1) ∧
        (¬ isLate s x rel → y.slips = x.slips)) ∧
      (∀ m y, tabGet? s.nodes m = some y → ∃ z, tabGet? t.nodes m = some z ∧ z.iter = y.iter ∧
        cntOf z i = cntOf y i - l.count m) ∧ t.mem = s.mem ∧
      (isLate s x rel → doubtOpen t rowGraph kindGraph x.graph) := by
  refine ⟨?_, fun m y hy => ?_, h.mem, h.doubt⟩
  · obtain ⟨y, hy, -, hslips, -, hrun⟩ := tabGet?_restsNode (n := n) hx
    obtain ⟨z, hz, -, hzrun, -, hlate, hearly⟩ := h.other n y hy
    exact ⟨z, hz, hzrun.trans (hrun rfl), fun hl => by rw [hlate rfl hl, hslips], fun hl => (hearly hl).trans hslips⟩
  · obtain ⟨w, hw, hiter, -, hcnt, -⟩ := tabGet?_restsNode (n := n) hy
    obtain ⟨z, hz, hziter, -, hzcnt, -⟩ := h.other m w hw
    exact ⟨z, hz, hziter.trans hiter, by rw [hzcnt, hcnt]⟩

theorem doNodeComplete_eq {s : State} {n : Nat} {x : Node} {r : NodeRun} (hx : tabGet? s.nodes n = some x) (hr : x.run = some r)
    (hd : r.unitDone = true) (hw : watchPending s n r.f = false) (hi : islandRuns s 1 = true) :
    doNodeComplete n s = if graphRuns s x.graph then completeNode (modNode s n restsNode) n (restsNode x) r.iter r.rel r.f
      else recordNode (modNode s n restsNode) n (restsNode x) r.rel r.f := by
  unfold doNodeComplete
  rw [hx]
  dsimp only
  rw [hr]
  dsimp only
  rw [if_neg (by rw [hd, hw, hi]; decide)]
  rfl

theorem doNodeComplete_leaves {s : State} {n : Nat} {x : Node} {r : NodeRun} (hx : tabGet? s.nodes n = some x)
    (hr : x.run = some r) (hd : r.unitDone = true) (hw : watchPending s n r.f = false) (hi : islandRuns s 1 = true) :
    let t := doNodeComplete n s
    (∃ y, tabGet? t.nodes n = some y ∧ y.run = none ∧ (isLate s x r.rel → y.slips = x.slips + 1) ∧
        (¬ isLate s x r.rel → y.slips = x.slips)) ∧
      (∀ m y, tabGet? s.nodes m = some y → ∃ z, tabGet? t.nodes m = some z ∧ z.iter = y.iter ∧
        cntOf z r.iter = cntOf y r.iter - (if graphRuns s x.graph = true then (targetsOf s x).count m else 0)) ∧
      t.mem = s.mem ∧ (isLate s x r.rel → doubtOpen t rowGraph kindGraph x.graph) := by
  intro t
  have ht : t = _ := doNodeComplete_eq hx hr hd hw hi
  by_cases hg : graphRuns s x.graph = true
  · rw [if_pos hg] at ht
    simp only [if_pos hg]
    rw [ht]
    exact (completeNode_ended (modNode s n restsNode) n (restsNode x) r.iter r.rel r.f).rests hx
  · rw [if_neg hg] at ht
    simp only [if_neg hg]
    rw [ht]
    exact (recordNode_ended (modNode s n restsNode) n (restsNode x) r.iter r.rel r.f).rests hx

/-! ### SEM_SIGNAL -/

theorem remoteNotice_nodes (s : State) (sem : Nat) : (remoteNotice s sem).nodes = s.nodes := (remoteNotice_notice s sem).nodes

/-- A signal of the semaphore's own device counts. -/
theorem semSignalRemote_own {s : State} {n dev : Nat} (hb : semBound (semOf s n) = true) (hr : (semOf s n).remote = true)
    (hd : (semOf s n).sigDev = dev) (hc : (semOf s n).count < 0xFFFF) :
    ∃ x, semSignalRemote s n dev = setSem (bump s 8 0 6 1) n x ∧ x.count = (semOf s n).count + 1 := by
  have hown : semSignalRemote s n dev = semSignalAt s n dev none :=
    if_pos (by rw [hb, hr, hd]; simp)
  refine ⟨{ semOf s n with count := min 65535 ((semOf s n).count + 1), signals := ((semOf s n).signals + 1) % 2 ^ 32 }, ?_,
    Nat.min_eq_right hc⟩
  rw [hown]
  unfold semSignalAt
  dsimp only
  rw [if_neg (by rw [hb]; decide), if_neg (Nat.ne_of_lt hc)]

theorem semOf_setSem_same (s : State) (n : Nat) (x : Sem) : semOf (setSem s n x) n = x := tabGet_tabSet_same _ _ _ _

theorem semOf_setSem_other (s : State) {n k : Nat} (x : Sem) (h : k ≠ n) : semOf (setSem s n x) k = semOf s k :=
  tabGet_tabSet_other _ _ _ h

theorem semOf_congr {s t : State} (h : t.sems = s.sems) (k : Nat) : semOf t k = semOf s k := congrArg (tabGet semReset · k) h

theorem applySemSignal_own {s : State} {p : Packet} (hb : semBound (semOf s p.arg) = true) (hr : (semOf s p.arg).remote = true)
    (hd : (semOf s p.arg).sigDev = p.src) (hc : (semOf s p.arg).count < 0xFFFF) :
    let t := applySemSignal p s
    (semOf t p.arg).count = (semOf s p.arg).count + 1 ∧ (∀ k, k ≠ p.arg → semOf t k = semOf s k) ∧ t.nodes = s.nodes ∧
      t.mem = s.mem := by
  intro t
  obtain ⟨x, hx, hcount⟩ := semSignalRemote_own hb hr hd hc
  have ht : t = remoteNotice (setSem (bump s 8 0 6 1) p.arg x) p.arg := by
    rw [← hx]
    exact if_pos (by rw [hb, hr, hd]; simp)
  rw [ht]
  refine ⟨?_, fun k hk => ?_, remoteNotice_nodes _ _, (remoteNotice_notice _ _).mem⟩
  · rw [semOf_congr (remoteNotice_sems _ _), semOf_setSem_same, hcount]
  · rw [semOf_congr (remoteNotice_sems _ _), semOf_setSem_other _ _ hk]
    rfl

/-! ### The deadlock walk -/

/-- A node that waits registered. -/
def registeredNode (y : Node) : Node := { y with registered := true }

/-- A node of a reported cycle. -/
def reportedNode (y : Node) : Node := { y with reported := true }

/-- A semaphore that a node waits for is BLOCKED. -/
def blockSem (s : State) (b : Blocker) : State :=
  if b.1 = 0 then setSem s b.2 { semOf s b.2 with blocked := true } else s

theorem blockSem_sems (s : State) (b : Blocker) : SemsOnly s (blockSem s b) := by
  unfold blockSem
  split
  · exact ⟨rfl⟩
  · exact ⟨rfl⟩

theorem blockSem_semOf (s : State) (b : Blocker) (k : Nat) :
    (semOf (blockSem s b) k).count = (semOf s k).count ∧
      ((semOf s k).blocked = true ∨ b = (0, k) → (semOf (blockSem s b) k).blocked = true) := by
  unfold blockSem
  split
  next h =>
    by_cases hk : k = b.2
    · subst hk
      rw [semOf_setSem_same]
      exact ⟨rfl, fun _ => rfl⟩
    · rw [semOf_setSem_other _ _ hk]
      exact ⟨rfl, fun hor => hor.elim id fun hb => (hk (congrArg Prod.snd hb).symm).elim⟩
  next h => exact ⟨rfl, fun hor => hor.elim id fun hb => (h (congrArg Prod.fst hb)).elim⟩

theorem blockSems_semOf (bs : List Blocker) (s : State) (k : Nat) :
    (semOf (bs.foldl blockSem s) k).count = (semOf s k).count ∧
      ((semOf s k).blocked = true ∨ (0, k) ∈ bs → (semOf (bs.foldl blockSem s) k).blocked = true) := by
  induction bs generalizing s with
  | nil => exact ⟨rfl, fun hor => hor.elim id fun h => (List.not_mem_nil h).elim⟩
  | cons b bs ih =>
    obtain ⟨hcount, hblocked⟩ := blockSem_semOf s b k
    obtain ⟨ihcount, ihblocked⟩ := ih (blockSem s b)
    refine ⟨ihcount.trans hcount, fun hor => ihblocked ?_⟩
    rcases hor with h | h
    · exact .inl (hblocked (.inl h))
    · rcases List.mem_cons.mp h with h | h
      · exact .inl (hblocked (.inr h.symm))
      · exact .inr h

/-- The state of a registration before its semaphores are BLOCKED. -/
def countedWait (s : State) (n : Nat) (x : Node) : State :=
  modNode (if x.registered then s else bump s 8 0 4 1) n registeredNode

theorem registerNode_eq (s : State) (n : Nat) (x : Node) (bs : List Blocker) :
    registerNode s n x bs = bs.foldl blockSem (countedWait s n x) := rfl

/-- What a registration leaves. -/
structure Registered (s t : State) (n : Nat) : Prop where
  nodes : t.nodes = tabModify n registeredNode s.nodes
  mem : t.mem = s.mem
  safety : t.safety = s.safety

theorem countedWait_registered (s : State) (n : Nat) (x : Node) :
    Registered s (countedWait s n x) n ∧ (countedWait s n x).sems = s.sems := by
  unfold countedWait
  split <;> exact ⟨⟨rfl, rfl, rfl⟩, rfl⟩

theorem registerNode_registered (s : State) (n : Nat) (x : Node) (bs : List Blocker) :
    Registered s (registerNode s n x bs) n := by
  rw [registerNode_eq]
  obtain ⟨hreg, -⟩ := countedWait_registered s n x
  have hsems := SemsOnly.foldl blockSem_sems bs (countedWait s n x)
  exact ⟨hsems.nodes.trans hreg.nodes, hsems.sync.notice.mem.trans hreg.mem, hsems.safety.trans hreg.safety⟩

theorem registerNode_sems {s : State} (n : Nat) (x : Node) {bs : List Blocker} {e : Blocker} (he : e ∈ bs) (h0 : e.1 = 0) :
    (semOf (registerNode s n x bs) e.2).blocked = true ∧
      (semOf (registerNode s n x bs) e.2).count = (semOf s e.2).count := by
  rw [registerNode_eq]
  obtain ⟨hcount, hblocked⟩ := blockSems_semOf bs (countedWait s n x) e.2
  refine ⟨hblocked (.inr ?_), hcount.trans ?_⟩
  · rw [← h0]
    exact he
  · rw [semOf_congr (countedWait_registered s n x).2]

theorem reportNodes_get (l : List Nat) (s : State) {n : Nat} {y : Node} (h : tabGet? s.nodes n = some y) :
    ∃ z, tabGet? (l.foldl (fun s m => modNode s m reportedNode) s).nodes n = some z ∧ z.registered = y.registered := by
  induction l generalizing s y with
  | nil => exact ⟨y, h, rfl⟩
  | cons a l ih =>
    have hmod : tabGet? (modNode s a reportedNode).nodes n = some (if n = a then reportedNode y else y) := by
      rw [modNode, tabGet?_tabModify, h, Option.map_some]
    obtain ⟨z, hz, hreg⟩ := ih (modNode s a reportedNode) hmod
    refine ⟨z, hz, hreg.trans ?_⟩
    split <;> rfl

theorem reportNodes_only (l : List Nat) (s : State) :
    (l.foldl (fun s m => modNode s m reportedNode) s).sems = s.sems ∧
      (l.foldl (fun s m => modNode s m reportedNode) s).mem = s.mem := by
  induction l generalizing s with
  | nil => exact ⟨rfl, rfl⟩
  | cons a l ih => exact ih (modNode s a reportedNode)

/-- A reported cycle changes nodes, doubt and events. -/
theorem reportDeadlock_leaves (s : State) (p : WalkPath) (g : Nat) :
    (reportDeadlock s p g).sems = s.sems ∧ (reportDeadlock s p g).mem = s.mem ∧
      (∀ n y, tabGet? s.nodes n = some y → ∃ z, tabGet? (reportDeadlock s p g).nodes n = some z ∧ z.registered = y.registered) ∧
      ((∃ m ∈ p.nodes, ∃ y, tabGet? s.nodes m = some y ∧ y.reported = false) →
        doubtOpen (reportDeadlock s p g) rowDeadlock kindGraph g) := by
  unfold reportDeadlock
  split
  next hall =>
    refine ⟨rfl, rfl, fun n y h => ⟨y, h, rfl⟩, ?_⟩
    rintro ⟨m, hm, y, hy, hrep⟩
    have hm := List.all_eq_true.mp hall m hm
    rw [hy] at hm
    exact absurd (hrep.symm.trans hm) (by decide)
  next =>
    have hd := raiseDoubt_only (p.nodes.foldl (fun s m => modNode s m reportedNode) s) 0x0301 8 0 (deadlockArg p.res)
      rowDeadlock kindGraph g
    obtain ⟨hsems, hmem⟩ := reportNodes_only p.nodes s
    refine ⟨hd.sems.trans hsems, hd.mem.trans hmem, fun n y h => ?_, fun _ => raiseDoubt_open _ _ _ _ _ _ _ _⟩
    obtain ⟨z, hz, hreg⟩ := reportNodes_get p.nodes s h
    exact ⟨z, (congrArg (tabGet? · n) hd.nodes).trans hz, hreg⟩

/-- Where a walk leads from a registered node. -/
def walkEnd (s : State) (n : Nat) (x : Node) (bs : List Blocker) : Option WalkPath :=
  walk (registerNode s n x bs) n 1024 [{ node := n, nodes := [], res := [] }] [n]

/-- The state after a deadlock walk. -/
def walkState (s : State) (n : Nat) (x : Node) (bs : List Blocker) : State :=
  match walkEnd s n x bs with
  | some p => reportDeadlock (registerNode s n x bs) p x.graph
  | none => registerNode s n x bs

theorem doDeadlockWalk_eq {s : State} {n rel f : Nat} {x : Node} {b : Blocker} {bs : List Blocker} (hx : tabGet? s.nodes n = some x)
    (hn : nextIter s x = some (rel, f)) (hb : blockers s n x f = b :: bs) : doDeadlockWalk n s = walkState s n x (b :: bs) := by
  unfold doDeadlockWalk
  rw [hx]
  dsimp only
  rw [hn]
  dsimp only
  rw [hb]
  rfl

theorem walkState_leaves {s : State} {n : Nat} {x : Node} (hx : tabGet? s.nodes n = some x) (bs : List Blocker) :
    let t := walkState s n x bs
    (∃ y, tabGet? t.nodes n = some y ∧ y.registered = true) ∧
      (∀ e ∈ bs, e.1 = 0 → (semOf t e.2).blocked = true ∧ (semOf t e.2).count = (semOf s e.2).count) ∧
      t.mem = s.mem ∧ (walkEnd s n x bs = none → t.safety = s.safety) ∧
      (∀ p, walkEnd s n x bs = some p → (∃ m ∈ p.nodes, ∃ y, tabGet? s.nodes m = some y ∧ y.reported = false) →
        doubtOpen t rowDeadlock kindGraph x.graph) := by
  intro t
  have hreg := registerNode_registered s n x bs
  have hsem : ∀ e ∈ bs, e.1 = 0 → (semOf (registerNode s n x bs) e.2).blocked = true ∧
      (semOf (registerNode s n x bs) e.2).count = (semOf s e.2).count := fun e he h0 => registerNode_sems n x he h0
  have hget : ∀ m y, tabGet? s.nodes m = some y → tabGet? (registerNode s n x bs).nodes m = some (if m = n then registeredNode y else y) :=
    fun m y hy => by rw [hreg.nodes, tabGet?_tabModify, hy, Option.map_some]
  cases hw : walkEnd s n x bs with
  | none =>
    have ht : t = registerNode s n x bs := by
      simp only [t, walkState]
      rw [hw]
    rw [ht]
    exact ⟨⟨_, hget n x hx, congrArg Node.registered (if_pos rfl)⟩, hsem, hreg.mem, fun _ => hreg.safety,
      fun p hp => by cases hp⟩
  | some p =>
    have ht : t = reportDeadlock (registerNode s n x bs) p x.graph := by
      simp only [t, walkState]
      rw [hw]
    rw [ht]
    obtain ⟨hsems, hmem, hnodes, hdoubt⟩ := reportDeadlock_leaves (registerNode s n x bs) p x.graph
    obtain ⟨z, hz, hzreg⟩ := hnodes n _ (hget n x hx)
    refine ⟨⟨z, hz, hzreg.trans (congrArg Node.registered (if_pos rfl))⟩, fun e he h0 => ?_, hmem.trans hreg.mem,
      fun h => (by cases h), ?_⟩
    · rw [semOf_congr hsems]
      exact hsem e he h0
    · rintro _ ⟨⟩ ⟨m, hm, y, hy, hrep⟩
      refine hdoubt ⟨m, hm, _, hget m y hy, ?_⟩
      split
      · exact hrep
      · exact hrep

/-! ### O42 -/

/-- Settles O42: each of the sequencer's steps is read off its own lemmas. -/
theorem sequencerReleasesStartsAndCompletes : Obligations.SequencerReleasesStartsAndCompletes := by
  unfold Obligations.SequencerReleasesStartsAndCompletes
  refine ⟨?_, ?_, ?_, ?_, ?_⟩
  · intro s g k rel f l x hl hx hk hg hlane hready
    subst hg hlane
    have hexec : exec (.sourceNotice x.graph x.lane) s = .next (releaseIteration s l.source x l rel f) := by
      refine congrArg Host.Outcome.next ?_
      unfold doSourceNotice
      rw [hl]
      dsimp only
      rw [hx]
      dsimp only
      rw [hready]
      exact if_pos hk
    obtain ⟨m, hm, hhead⟩ := nextIter_source hk (readyFor_next hready)
    rw [hl] at hm
    cases hm
    obtain ⟨l', hl', htail, hstarted, hlast⟩ := (releaseIteration_lane (n := l.source) rel f hl).lane
    obtain ⟨hnode, hmem⟩ := releaseIteration_leaves hx l rel f
    exact ⟨_, l', hexec, hl', htail, hhead, hstarted, hlast, hnode, hmem⟩
  · intro s n rel f x hx h1 h3 hready htakes
    have hexec : exec (.nodeStart n) s = .next (startNode s n x rel f) := by
      refine congrArg Host.Outcome.next ?_
      unfold doNodeStart
      rw [hx]
      dsimp only
      rw [hready]
      exact if_pos (by rw [htakes, Bool.and_true]; exact decide_eq_true (by omega))
    obtain ⟨y, hy⟩ := startNode_leaves hx rel f h1 h3
    exact ⟨_, y, hexec, hy⟩
  · intro s n x r hx hr hd hw hi late
    exact ⟨_, rfl, doNodeComplete_leaves hx hr hd hw hi⟩
  · intro s p harr hup hjoined htype hb hr hd hc
    have htakes : takesRequests s = true := by
      unfold fwUp at hup
      unfold takesRequests
      rw [hjoined, Bool.and_true]
      exact (Bool.and_eq_true_iff.mp (Bool.and_eq_true_iff.mp hup).1).1
    have hserve : doSemSignal p s = applySemSignal p (takePacket s p) := serve_takes p _ htakes
    exact ⟨_, congrArg Host.Outcome.next hserve, applySemSignal_own (s := takePacket s p) hb hr hd hc⟩
  · intro s n rel f x b bs hx hn hb s1 path
    exact ⟨_, congrArg Host.Outcome.next (doDeadlockWalk_eq hx hn hb), walkState_leaves hx (b :: bs)⟩

end Sys2Proof.Machine
end

section
/-! PROOFS. The pool (R282 to R299): acceptance, dispatch, completion and release of items, and the fencing of cores, with
O46. -/

namespace Sys2Proof.Machine

open Sys2Proof

/-! ### A flow changed -/

/-- The state has one flow of the pool set, beside what events, doubt and counts change. -/
structure FlowSet (s t : State) (n : Nat) (f : Flow) : Prop where
  flow : tabGet? t.pool.flows n = some f
  other : ∀ k, k ≠ n → tabGet? t.pool.flows k = tabGet? s.pool.flows k
  subs : t.pool.subs = s.pool.subs
  nextAcc : t.pool.nextAcc = s.pool.nextAcc
  mem : t.mem = s.mem

theorem FlowSet.of_setFlow (s : State) (n : Nat) (f : Flow) : FlowSet s (setFlow s n f) n f :=
  ⟨tabGet?_tabSet_same _ _ _, fun _ hk => tabGet?_tabSet_other _ _ hk, rfl, rfl, rfl⟩

theorem FlowSet.again {s t : State} {n : Nat} {f : Flow} (h : FlowSet s t n f) (f' : Flow) : FlowSet s (setFlow t n f') n f' :=
  ⟨tabGet?_tabSet_same _ _ _, fun k hk => (tabGet?_tabSet_other _ _ hk).trans (h.other k hk), h.subs, h.nextAcc, h.mem⟩

theorem FlowSet.congr {s t u : State} {n : Nat} {f : Flow} (h : FlowSet s t n f) (hp : u.pool = t.pool) (hm : u.mem = t.mem) :
    FlowSet s u n f := by
  exact ⟨by rw [hp]; exact h.flow, fun k hk => by rw [hp]; exact h.other k hk, by rw [hp]; exact h.subs,
    by rw [hp]; exact h.nextAcc, hm.trans h.mem⟩

theorem FlowSet.doubt {s t u : State} {n : Nat} {f : Flow} (h : FlowSet s t n f) (k : DoubtOnly t u) : FlowSet s u n f :=
  h.congr k.pool k.mem

theorem FlowSet.events {s t u : State} {n : Nat} {f : Flow} (h : FlowSet s t n f) (k : EventsOnly t u) : FlowSet s u n f :=
  h.doubt k.doubt

/-! ### Acceptance -/

theorem itemBad_only (s : State) (flow : Nat) (st : Status) (seq : Nat) : DoubtOnly s (itemBad s flow st seq) :=
  raiseDoubt_only _ _ _ _ _ _ _ _

theorem itemBad_open (s : State) (flow : Nat) (st : Status) (seq : Nat) : doubtOpen (itemBad s flow st seq) rowPool kindFlow flow :=
  raiseDoubt_open _ _ _ _ _ _ _ _

/-- The item that a submission becomes in a flow's window. -/
def acceptedItem (s : State) (f : Flow) (x : Submission) : PItem :=
  let st := voidStatus f x
  let void := decide (st ≠ .ok)
  { acc := s.pool.nextAcc, seq := fieldAt x.bytes 0 4, eclass := itemClass x.bytes, addr := fieldAt x.bytes 8 6, f := x.f,
    rel := x.rel, void := void, status := st, dup := ! void && decide (s.power.season = .spring), copies := [], first := none,
    done := void, slip := false, t := s.time }

/-- A submission does not follow the last of its flow. -/
def seqSkipped (f : Flow) (x : Submission) : Bool :=
  match f.lastSeq with
  | some l => decide (fieldAt x.bytes 0 4 ≠ (l + 1) % 2 ^ 32)
  | none => false

/-- A flow with one submission more in its window. -/
def joinedFlow (s : State) (f : Flow) (x : Submission) : Flow :=
  { f with window := f.window ++ [acceptedItem s f x], lastSeq := some (fieldAt x.bytes 0 4),
           seqSkips := f.seqSkips + bit01 (seqSkipped f x), iterItems := tabSet x.rel (countIter f x.rel) f.iterItems }

/-- The pool after one acceptance number more. -/
def numbered (s : State) : State := { s with pool := { s.pool with nextAcc := s.pool.nextAcc + 1 } }

/-- The state with the flow joined and counted. -/
def joinedState (s : State) (n : Nat) (f : Flow) (x : Submission) : State :=
  let q := bump (setFlow (numbered s) n (joinedFlow s f x)) 9 0 0 1
  poolExcess (if (acceptedItem s f x).dup then bump q 9 0 7 1 else q) n (joinedFlow s f x) x.f (countIter f x.rel)

/-- The slot of the object ring that an item held is free. -/
def ringFreed (s : State) (n seq : Nat) : State := { s with ringBusy := s.ringBusy.filter (fun b => b ≠ (n, seq)) }

theorem acceptItem_eq (s : State) (n : Nat) (f : Flow) (x : Submission) :
    acceptItem s n f x = if decide (voidStatus f x ≠ .ok) then
        itemBad (ringFreed (joinedState s n f x) n (fieldAt x.bytes 0 4)) n (voidStatus f x) (fieldAt x.bytes 0 4)
      else joinedState s n f x := rfl

theorem poolExcess_set {s t : State} {n : Nat} {f : Flow} (h : FlowSet s t n f) (fr count : Nat) :
    ∃ f', FlowSet s (poolExcess t n f fr count) n f' ∧ f'.window = f.window := by
  unfold poolExcess
  dsimp only
  split
  · exact ⟨f, h, rfl⟩
  · exact ⟨{ f with excessWindow := some (windowOf t.time) }, (h.again _).doubt (raiseDoubt_only _ _ _ _ _ _ _ _), rfl⟩

theorem joinedState_set (s : State) (n : Nat) (f : Flow) (x : Submission) :
    ∃ f', FlowSet (numbered s) (joinedState s n f x) n f' ∧ f'.window = f.window ++ [acceptedItem s f x] := by
  have hset := (FlowSet.of_setFlow (numbered s) n (joinedFlow s f x)).events (.bump _ 9 0 0 1)
  unfold joinedState
  refine poolExcess_set (f := joinedFlow s f x) ?_ _ _
  split
  · exact hset.events (.bump _ 9 0 7 1)
  · exact hset

theorem acceptItem_set (s : State) (n : Nat) (f : Flow) (x : Submission) :
    ∃ f', FlowSet (numbered s) (acceptItem s n f x) n f' ∧ f'.window = f.window ++ [acceptedItem s f x] := by
  obtain ⟨f', hset, hwin⟩ := joinedState_set s n f x
  refine ⟨f', ?_, hwin⟩
  rw [acceptItem_eq]
  split
  · exact (hset.congr (u := ringFreed (joinedState s n f x) n (fieldAt x.bytes 0 4)) rfl rfl).doubt (itemBad_only _ _ _ _)
  · exact hset

theorem acceptItem_void (s : State) (n : Nat) {f : Flow} {x : Submission} (h : voidStatus f x ≠ .ok) :
    doubtOpen (acceptItem s n f x) rowPool kindFlow n := by
  rw [acceptItem_eq, if_pos (decide_eq_true h)]
  exact itemBad_open _ _ _ _

theorem voidStatus_ok {f : Flow} {x : Submission} (hr : itemReserved x.bytes = false) (hn : x.node = f.spawner)
    (hc : itemClass x.bytes ≤ f.eclass) : voidStatus f x = .ok := by
  unfold voidStatus
  rw [if_neg (by rw [hr]; decide), if_neg (not_or.mpr ⟨Classical.not_not.mpr hn, Nat.not_lt_of_le hc⟩)]

theorem voidStatus_bad {f : Flow} {x : Submission}
    (h : itemReserved x.bytes = true ∨ x.node ≠ f.spawner ∨ f.eclass < itemClass x.bytes) : voidStatus f x ≠ .ok := by
  unfold voidStatus
  split
  · decide
  next hr =>
    rw [if_pos (h.resolve_left hr)]
    decide

/-- A pool state without its first submission. -/
def unqueued (s : State) (rest : List Submission) : State := { s with pool := { s.pool with subs := rest } }

theorem findIdx?_head {α : Type} {p : α → Bool} {a : α} {l : List α} (h : p a = true) : (a :: l).findIdx? p = some 0 := by
  rw [List.findIdx?_cons, if_pos h]

theorem doItemAccept_bound {s : State} {x : Submission} {rest : List Submission} {f : Flow} (hi : islandRuns s 1 = true)
    (hs : s.pool.subs = x :: rest) (hf : tabGet? s.pool.flows (itemFlow x.bytes) = some f) (hroom : f.window.length < 1024) :
    doItemAccept s = acceptItem (unqueued s rest) (itemFlow x.bytes) f x := by
  have hacc : acceptable s x = true := by
    unfold acceptable
    rw [hf]
    dsimp only
    unfold windowFull
    rw [decide_eq_false (Nat.not_le_of_lt hroom)]
    rfl
  unfold doItemAccept
  rw [if_neg (by rw [hi]; decide), hs, findIdx?_head hacc]
  dsimp only [List.getElem?_cons_zero]
  rw [hf]
  rfl

/-- The state of a submission whose flow is not bound. -/
def unboundState (s : State) (x : Submission) (rest : List Submission) : State :=
  { s with pool := { s.pool with subs := rest, unbound := s.pool.unbound + 1 },
           ringBusy := s.ringBusy.filter (fun b => b ≠ (itemFlow x.bytes, fieldAt x.bytes 0 4)) }

theorem doItemAccept_unbound {s : State} {x : Submission} {rest : List Submission} (hi : islandRuns s 1 = true)
    (hs : s.pool.subs = x :: rest) (hf : tabGet? s.pool.flows (itemFlow x.bytes) = none) :
    doItemAccept s = itemBad (unboundState s x rest) (itemFlow x.bytes) .badParam (fieldAt x.bytes 0 4) := by
  have hacc : acceptable s x = true := by
    unfold acceptable
    rw [hf]
  unfold doItemAccept
  rw [if_neg (by rw [hi]; decide), hs, findIdx?_head hacc]
  dsimp only [List.getElem?_cons_zero]
  rw [hf]
  rfl

/-! ### Dispatch -/

theorem coreOf_setUnit_other (s : State) {c k : Nat} (u : Option CoreUnit) (h : k ≠ c) : coreOf (setUnit s c u) k = coreOf s k :=
  tabGet_tabSet_other _ _ _ h

theorem coreOf_congr {s t : State} (h : t.cores = s.cores) (k : Nat) : coreOf t k = coreOf s k :=
  congrArg (tabGet coreReset · k) h

/-- An item with one copy more, on a core. -/
def copiedItem (i : PItem) (c : Nat) : PItem :=
  { i with copies := i.copies ++ [{ core := c, ended := false, done := false, post := none, status := .ok }] }

/-- A flow one of whose items has changed. -/
def windowWith (f : Flow) (acc : Nat) (j : PItem) : List PItem := f.window.map (fun k => if k.acc = acc then j else k)

/-- A flow with one copy of an item started. -/
def startedFlow (f : Flow) (i : PItem) (c : Nat) : Flow :=
  { f with window := windowWith f i.acc (copiedItem i c), lastCore := some c }

/-- The unit of work of an item's copy. -/
def copyUnit (s : State) (n : Nat) (f : Flow) (i : PItem) (c : Nat) : CoreUnit :=
  newUnit s c (.item n i.acc i.copies.length) (saltOf s f.graph) n i.seq f.list f.listLen f.cycMax f.args i.addr

/-- The state of a copy's start before the start is counted. -/
def copyState (s : State) (n : Nat) (f : Flow) (i : PItem) (c : Nat) : State :=
  setUnit (setFlow (drawTokens s (c / 16) (flowPurse f) i.eclass) n (startedFlow f i c)) c (some (copyUnit s n f i c))

theorem startCopy_eq (s : State) (n : Nat) (f : Flow) (i : PItem) (c : Nat) :
    startCopy s n f i c = if decide (f.lastCore = some c) then bump (bump (copyState s n f i c) 9 0 1 1) 9 0 2 1
      else bump (copyState s n f i c) 9 0 1 1 := rfl

theorem startCopy_only (s : State) (n : Nat) (f : Flow) (i : PItem) (c : Nat) :
    EventsOnly (copyState s n f i c) (startCopy s n f i c) ∧ counted (copyState s n f i c) (startCopy s n f i c) 9 0 1 1 := by
  rw [startCopy_eq]
  have hcount := counted_bump (copyState s n f i c) 9 0 1 1
  split
  · refine ⟨(EventsOnly.bump _ 9 0 1 1).trans (.bump _ 9 0 2 1), counted_of ?_⟩
    rw [cntAt_bump_other _ _ _ _ _ (by decide)]
    exact hcount
  · exact ⟨.bump _ 9 0 1 1, hcount⟩

theorem drawTokens_cores (s : State) (g : Nat) (p : Purse) (c : Nat) : (drawTokens s g p c).cores = s.cores := by
  unfold drawTokens
  split <;> rfl

theorem pickCore_takes {s : State} {pool : List Nat} {f : Flow} {i : PItem} {c : Nat} (h : pickCore s pool f i = some c) :
    coreTakes s (flowPurse f) i.eclass c = true := List.find?_some h

theorem firstStart_takes {s : State} {pool : List Nat} {l : List (Nat × Flow × PItem)} {n c : Nat} {f : Flow} {i : PItem}
    (h : firstStart s pool l = some (n, f, i, c)) : coreTakes s (flowPurse f) i.eclass c = true := by
  induction l with
  | nil => cases h
  | cons e l ih =>
    obtain ⟨m, g, j⟩ := e
    unfold firstStart at h
    split at h
    next d hd =>
      cases h
      exact pickCore_takes hd
    · exact ih h

/-- What the start of an item's copy leaves. -/
theorem startCopy_leaves (s : State) (n : Nat) (f : Flow) (i : PItem) (c : Nat) :
    let t := startCopy s n f i c
    (coreOf t c).unit = some (copyUnit s n f i c) ∧ (∀ k, k ≠ c → coreOf t k = coreOf s k) ∧
      tabGet? t.pool.flows n = some (startedFlow f i c) ∧ t.mem = s.mem ∧ counted s t 9 0 1 1 := by
  intro t
  obtain ⟨hev, hcount⟩ := startCopy_only s n f i c
  have hdrawn := drawTokens_stand s (c / 16) (flowPurse f) i.eclass
  have hcore := fun k => coreOf_congr hev.doubt.cores k
  refine ⟨?_, fun k hk => ?_, ?_, hev.doubt.mem.trans hdrawn.mem, ?_⟩
  · rw [hcore, copyState, setUnit_unit]
  · rw [hcore, copyState, coreOf_setUnit_other _ _ hk]
    exact coreOf_congr (drawTokens_cores _ _ _ _) k
  · rw [hev.doubt.pool]
    exact tabGet?_tabSet_same _ _ _
  · have hcnt : cntAt (copyState s n f i c) (srcKey 9 0 * 8 + 1) = cntAt s (srcKey 9 0 * 8 + 1) := by
      rw [cntAt, show (copyState s n f i c).trace = s.trace from hdrawn.trace]
      rfl
    have hc : cntAt t (srcKey 9 0 * 8 + 1) = satTo 48 (cntAt (copyState s n f i c) (srcKey 9 0 * 8 + 1) + 1) := hcount
    exact counted_of (hc.trans (by rw [hcnt]))

/-! ### Completion -/

theorem endedOn_mem {s : State} {c n : Nat} {f : Flow} {i : PItem} (h : endedOn s c = some (n, f, i)) : i ∈ f.window := by
  have hmem := (sortBy_perm _ _).mem_iff.mp (List.mem_of_mem_head? h)
  obtain ⟨e, -, he⟩ := List.mem_flatMap.mp hmem
  obtain ⟨j, hj, hij⟩ := List.mem_map.mp he
  cases hij
  exact (List.mem_filter.mp hj).1

/-- An item whose ended copies on a core are done. -/
def signalledItem (i : PItem) (c : Nat) : PItem :=
  let cs := i.copies.map (fun k => if k.core = c ∧ k.ended then { k with done := true } else k)
  { i with copies := cs, first := match i.first with
      | some k => some k
      | none => cs.findIdx? (fun k => k.core == c && k.done) }

/-- A flow one of whose items has had a signal taken. -/
def signalledFlow (f : Flow) (i : PItem) (c : Nat) : Flow := { f with window := windowWith f i.acc (signalledItem i c) }

theorem takeSignal_last {s : State} (n : Nat) (f : Flow) {i : PItem} {c : Nat} (hw : copyWaits i = false)
    (hall : ∀ k ∈ i.copies, k.done = true ∨ (k.core = c ∧ k.ended = true)) :
    takeSignal s n f i c = finishItem (setFlow s n (signalledFlow f i c)) n (signalledFlow f i c) (signalledItem i c) := by
  refine if_neg ?_
  have hwaits : copyWaits (signalledItem i c) = copyWaits i := by
    unfold copyWaits signalledItem
    dsimp only
    rw [List.length_map]
  have hdone : (signalledItem i c).copies.any (fun k => ! k.done) = false := by
    refine List.any_eq_false.mpr fun k hk => ?_
    obtain ⟨e, he, rfl⟩ := List.mem_map.mp hk
    split
    · exact Bool.false_ne_true
    next hne => rw [(hall e he).resolve_right hne]; decide
  show ¬ (copyWaits (signalledItem i c) || (signalledItem i c).copies.any (fun k => ! k.done)) = true
  rw [hwaits, hw, hdone]
  decide

/-- A result is late. -/
def lateItem (s : State) (f : Flow) (i : PItem) : Bool := decide (i.rel + 16 * f.itemLatest ≤ s.time)

/-- A completed item. -/
def finishedItem (s : State) (f : Flow) (i : PItem) : PItem := { i with done := true, slip := lateItem s f i, t := s.time }

/-- A flow one of whose items has completed. -/
def finishedFlow (s : State) (f : Flow) (i : PItem) : Flow := { f with window := windowWith f i.acc (finishedItem s f i) }

/-- The state of a completion before its slip is counted. -/
def finishedState (s : State) (n : Nat) (f : Flow) (i : PItem) : State :=
  dupMismatch (ringFreed (setFlow s n (finishedFlow s f i)) n i.seq) n (finishedFlow s f i) (finishedItem s f i)

theorem finishItem_eq (s : State) (n : Nat) (f : Flow) (i : PItem) :
    finishItem s n f i = if lateItem s f i then itemSlip (finishedState s n f i) n (finishedFlow s f i) (finishedItem s f i)
      else finishedState s n f i := rfl

theorem finishedState_set {s t : State} {n : Nat} {g : Flow} (h : FlowSet s t n g) (f : Flow) (i : PItem) :
    FlowSet s (finishedState t n f i) n (finishedFlow t f i) :=
  FlowSet.events (t := ringFreed (setFlow t n (finishedFlow t f i)) n i.seq) ((h.again (finishedFlow t f i)).congr rfl rfl)
    (dupMismatch_only _ _ _ _)

theorem itemSlip_set {s t : State} {n : Nat} {f : Flow} (h : FlowSet s t n f) (i : PItem) :
    ∃ f', FlowSet s (itemSlip t n f i) n f' ∧ f'.window = f.window ∧ f'.slips = f.slips + 1 ∧
      doubtOpen (itemSlip t n f i) rowGraph kindGraph f.graph := by
  unfold itemSlip
  dsimp only
  refine ⟨{ f with slips := f.slips + 1, slipWindow := some (windowOf t.time) }, ?_, rfl, rfl, ?_⟩
  · split
    · exact (h.again _).doubt (failCond_only _ _ _ _ _)
    · exact (h.again _).doubt (raiseDoubt_only _ _ _ _ _ _ _ _)
  · split
    · exact failCond_open _ _ _ _ _
    · exact raiseDoubt_open _ _ _ _ _ _ _ _

/-- A completed item stands in its flow's window; a late one is counted and reported. -/
theorem finishItem_set {s t : State} {n : Nat} {g : Flow} (h : FlowSet s t n g) (f : Flow) (i : PItem) :
    ∃ f', FlowSet s (finishItem t n f i) n f' ∧ f'.window = windowWith f i.acc (finishedItem t f i) ∧
      (lateItem t f i = true → f'.slips = f.slips + 1 ∧ doubtOpen (finishItem t n f i) rowGraph kindGraph f.graph) := by
  have hset := finishedState_set h f i
  rw [finishItem_eq]
  split
  · obtain ⟨f', hf', hwin, hslips, hopen⟩ := itemSlip_set hset (finishedItem t f i)
    exact ⟨f', hf', hwin, fun _ => ⟨hslips, hopen⟩⟩
  next hlate => exact ⟨_, hset, rfl, fun h => (hlate h).elim⟩

theorem mem_windowWith {f : Flow} {i : PItem} (h : i ∈ f.window) (j : PItem) : j ∈ windowWith f i.acc j :=
  List.mem_map.mpr ⟨i, h, if_pos rfl⟩

/-! ### Release -/

theorem nextRelease_spec {f : Flow} {i : PItem} (h : nextRelease f = some i) :
    i.done = true ∧ i ∈ f.window ∧ (f.ordered = true → f.window.head? = some i) := by
  unfold nextRelease at h
  split at h
  · split at h
    next j l hwin =>
      split at h
      next hdone =>
        cases h
        rw [hwin]
        exact ⟨hdone, List.mem_cons_self, fun _ => rfl⟩
      · cases h
    · cases h
  next hord =>
    have hmem := List.mem_filter.mp ((sortBy_perm _ _).mem_iff.mp (List.mem_of_mem_head? h))
    exact ⟨hmem.2, hmem.1, fun ho => (hord ho).elim⟩

/-- The formatter keeps the pool, memory and the counters. -/
theorem formatResult_keeps_pool (s : State) (r : Released) :
    (formatResult s r).pool = s.pool ∧ (formatResult s r).mem = s.mem ∧ (formatResult s r).trace = s.trace := by
  unfold formatResult
  split
  · exact ⟨rfl, rfl, rfl⟩
  · dsimp only
    split
    · exact ⟨rfl, rfl, rfl⟩
    · exact ⟨rfl, rfl, rfl⟩

/-- The state of a release before its result goes to the formatter. -/
def countedRelease (s : State) (n : Nat) (f : Flow) (i : PItem) : State :=
  let q := bump (setFlow s n { f with window := f.window.filter (fun k => k.acc != i.acc) }) 9 0 5 1
  if (resultOf n f i).void then bump q 9 0 6 1 else q

theorem releaseItem_eq (s : State) (n : Nat) (f : Flow) (i : PItem) :
    releaseItem s n f i = formatResult (countedRelease s n f i) (resultOf n f i) := rfl

theorem countedRelease_leaves (s : State) (n : Nat) (f : Flow) (i : PItem) :
    FlowSet s (countedRelease s n f i) n { f with window := f.window.filter (fun k => k.acc != i.acc) } ∧
      counted s (countedRelease s n f i) 9 0 5 1 := by
  have hset := (FlowSet.of_setFlow s n { f with window := f.window.filter (fun k => k.acc != i.acc) }).events (.bump _ 9 0 5 1)
  have hcount : cntAt (bump (setFlow s n { f with window := f.window.filter (fun k => k.acc != i.acc) }) 9 0 5 1)
      (srcKey 9 0 * 8 + 5) = satTo 48 (cntAt s (srcKey 9 0 * 8 + 5) + 1) := cntAt_bump_same _ _ _ _ _
  unfold countedRelease
  dsimp only
  split
  · refine ⟨hset.events (.bump _ 9 0 6 1), counted_of ?_⟩
    rw [cntAt_bump_other _ _ _ _ _ (by decide)]
    exact hcount
  · exact ⟨hset, counted_of hcount⟩

/-! ### Fences -/

theorem mapWindow_cores (s : State) (n : Nat) (p : PItem → PItem) : (mapWindow s n p).cores = s.cores := by
  unfold mapWindow
  split <;> rfl

/-- What a fence leaves of the cores: the fenced one has no unit of work, and others stand. -/
structure CoreEmptied (c : Nat) (s t : State) : Prop where
  unit : (coreOf t c).unit = none
  fenced : (coreOf t c).fenced = (coreOf s c).fenced
  other : ∀ k, k ≠ c → coreOf t k = coreOf s k

theorem CoreEmptied.of {c : Nat} {s t : State} (h : OnCore c s t) (hu : (coreOf t c).unit = none) : CoreEmptied c s t :=
  ⟨hu, h.fenced, h.other⟩

theorem CoreEmptied.congr {c : Nat} {s t u : State} (h : CoreEmptied c s t) (hc : u.cores = t.cores) : CoreEmptied c s u := by
  have hcore := fun k => coreOf_congr hc k
  exact ⟨by rw [hcore]; exact h.unit, by rw [hcore]; exact h.fenced, fun k hk => by rw [hcore]; exact h.other k hk⟩

theorem fenceUnit_emptied (s : State) (c : Nat) (u : CoreUnit) : CoreEmptied c s (fenceUnit s c u) := by
  unfold fenceUnit
  split
  · exact .of (abandonCoreNode_leaves _ _ _ _).1 (abandonCoreNode_leaves _ _ _ _).2
  · dsimp only
    refine CoreEmptied.congr ?_ (mapWindow_cores _ _ _)
    split
    · exact .of ((closeUnit_onCore _ _ _).behind (coreStop_onCore _ _ _)) (closeUnit_unit _ _ _)
    · exact .of ((setUnit_onCore _ _ _).behind (coreStop_onCore _ _ _)) (setUnit_unit _ _ _)

/-- The state with a core fenced. -/
def fencedCore (s : State) (c : Nat) : State := setCore s c { coreOf s c with fenced := true }

/-- The state after a fence. -/
def fenceState (s : State) (c : Nat) : State :=
  match (coreOf (fencedCore s c) c).unit with
  | some u => fenceUnit (fencedCore s c) c u
  | none => fencedCore s c

theorem fenceState_emptied (s : State) (c : Nat) : CoreEmptied c (fencedCore s c) (fenceState s c) := by
  unfold fenceState
  split
  · exact fenceUnit_emptied _ _ _
  next h => exact ⟨h, rfl, fun _ _ => rfl⟩

theorem cmdCoreFence_eq (s : State) {c : Nat} (h : c ≤ 255) : cmdCoreFence c 0 s = okDone (fenceState s c) := by
  unfold cmdCoreFence
  rw [if_neg (by decide), if_neg (Nat.not_lt_of_le h)]
  rfl

theorem cmdCoreUnfence_eq (s : State) {c : Nat} (h : c ≤ 255) :
    cmdCoreUnfence c 0 s = if coreHeld s c then refuse s .busy else okDone (setCore s c { coreOf s c with fenced := false }) := by
  unfold cmdCoreUnfence
  rw [if_neg (by decide), if_neg (Nat.not_lt_of_le h)]

/-! ### O46 -/

/-- Settles O46: each step of the pool is read off its flow and its core. -/
theorem poolAcceptsStartsAndReleases : Obligations.PoolAcceptsStartsAndReleases := by
  unfold Obligations.PoolAcceptsStartsAndReleases
  refine ⟨?_, ?_, ?_, ?_, ?_, ?_⟩
  · intro s x rest hi hs n
    refine ⟨fun hf => ?_, fun f hf hroom => ?_⟩
    · refine ⟨_, congrArg Host.Outcome.next (doItemAccept_unbound hi hs hf), ?_, itemBad_open _ _ _ _⟩
      exact (itemBad_only (unboundState s x rest) n .badParam (fieldAt x.bytes 0 4)).pool
    · obtain ⟨f', hset, hwin⟩ := acceptItem_set (unqueued s rest) n f x
      refine ⟨_, f', acceptedItem (unqueued s rest) f x, congrArg Host.Outcome.next (doItemAccept_bound hi hs hf hroom),
        hset.flow, hwin, rfl, rfl, rfl, rfl, rfl, hset.subs, hset.nextAcc, hset.mem, hset.other, fun hr hn hc => ?_, fun hbad => ?_⟩
      · have hok := voidStatus_ok hr hn hc
        unfold acceptedItem
        rw [hok]
        exact ⟨rfl, rfl, decide_eq_true_iff⟩
      · have hne := voidStatus_bad hbad
        have hvoid : decide (voidStatus f x ≠ .ok) = true := decide_eq_true hne
        refine ⟨hvoid, hvoid, ?_, acceptItem_void _ _ hne⟩
        unfold acceptedItem
        dsimp only
        rw [hvoid]
        rfl
  · intro s g n c x f i hx hi hstop hstart
    have hdo : doItemDispatch g s = startCopy s n f i c := by
      unfold doItemDispatch
      rw [hx]
      dsimp only
      rw [if_neg (by rw [hi, hstop]; decide), hstart]
    obtain ⟨hunit, hother, hflow, hmem, hcount⟩ := startCopy_leaves s n f i c
    exact ⟨_, _, _, congrArg Host.Outcome.next hdo, hunit, rfl, rfl, hother, firstStart_takes hstart, hflow,
      List.length_map _, hmem, hcount⟩
  · intro s c n f i hi hended hw hall
    have hdo : doItemComplete c s = _ :=
      (by unfold doItemComplete; rw [if_neg (by rw [hi]; decide), hended] : doItemComplete c s = takeSignal s n f i c).trans
        (takeSignal_last n f hw hall)
    obtain ⟨f', hset, hwin, hlate⟩ :=
      finishItem_set (FlowSet.of_setFlow s n (signalledFlow f i c)) (signalledFlow f i c) (signalledItem i c)
    refine ⟨_, f', finishedItem (setFlow s n (signalledFlow f i c)) (signalledFlow f i c) (signalledItem i c),
      congrArg Host.Outcome.next hdo, hset.flow, ?_, rfl, rfl, rfl, decide_eq_true_iff,
      fun h => hlate (decide_eq_true h), hset.mem⟩
    rw [hwin]
    exact mem_windowWith (mem_windowWith (endedOn_mem hended) (signalledItem i c)) _
  · intro s n f i hi hready hf hnext
    have hdo : doResultRelease n s = releaseItem s n f i := by
      unfold doResultRelease
      rw [hf]
      dsimp only
      rw [if_neg (by rw [hi, hready]; decide), hnext]
    obtain ⟨hdone, hmem, hhead⟩ := nextRelease_spec hnext
    obtain ⟨hset, hcount⟩ := countedRelease_leaves s n f i
    obtain ⟨hpool, hmem', htrace⟩ := formatResult_keeps_pool (countedRelease s n f i) (resultOf n f i)
    have hall := hset.congr hpool hmem'
    exact ⟨_, _, congrArg Host.Outcome.next hdo, hall.flow, hdone, hmem, rfl, hhead, counted_stand hcount htrace, hall.mem,
      hall.other⟩
  · intro s h c hacc hc
    have hexec : exec (.coreFence h c 0) s = .next (answerRow h 0x0900 (cmdCoreFence c 0 s)) :=
      congrArg _ (runCommand_accepted hacc _)
    obtain ⟨hunit, hfenced, hother⟩ := fenceState_emptied s c
    refine ⟨fenceState s c, ?_, hfenced.trans ?_, hunit, fun k hk => (hother k hk).trans ?_⟩
    · rw [answersOk, hexec, cmdCoreFence_eq s hc]
      rfl
    · exact congrArg CoreSt.fenced (tabGet_tabSet_same _ _ _ _)
    · exact tabGet_tabSet_other _ _ _ hk
  · intro s h c hacc hc
    have hexec : exec (.coreUnfence h c 0) s = .next (answerRow h 0x0901 (cmdCoreUnfence c 0 s)) :=
      congrArg _ (runCommand_accepted hacc _)
    refine ⟨fun hheld => ?_, fun hheld => ?_⟩
    · rw [answersOk, hexec, cmdCoreUnfence_eq s hc, if_neg (by rw [hheld]; decide)]
      rfl
    · rw [hexec, cmdCoreUnfence_eq s hc, if_pos hheld]
      rfl

end Sys2Proof.Machine
end

section
/-! PROOFS. Scalar instructions as operations on 32-bit words (R252). -/

namespace Sys2Proof.Machine

open Sys2Proof

/-! ### Values -/

theorem unsignedOf_eq_toNat (w : Nat) (i : Int) : unsignedOf w i = (BitVec.ofInt w i).toNat := by
  rw [BitVec.toNat_ofInt]
  unfold unsignedOf
  push_cast
  rfl

/-- A register's word. -/
def word (n : Nat) : BitVec 32 := BitVec.ofNat 32 n

theorem word_toNat {n : Nat} (h : n < 2 ^ 32) : (word n).toNat = n := BitVec.toNat_ofNat n 32 |>.trans (Nat.mod_eq_of_lt h)

/-- IMM extended to a word. -/
def immWord (n : Nat) : BitVec 32 := (BitVec.ofNat 16 n).signExtend 32

theorem plusImm_eq (a imm : Nat) : plusImm a imm = (word a + immWord imm).toNat := by
  have himm : immWord imm = BitVec.ofInt 32 (signedOf 16 imm) := by
    rw [signedOf_eq_toInt 15]
    rfl
  have ha : word a = BitVec.ofInt 32 (a : Int) := (BitVec.ofInt_natCast 32 a).symm
  rw [plusImm, unsignedOf_eq_toNat, himm, ha, BitVec.ofInt_add]

/-- The result of ADD to MUL as a word. -/
def aluWord (op : Nat) (a b : BitVec 32) : BitVec 32 :=
  match op with
  | 1 => a + b
  | 2 => a - b
  | 3 => a &&& b
  | 4 => a ||| b
  | 5 => a ^^^ b
  | 6 => a <<< (b.toNat % 32)
  | 7 => a >>> (b.toNat % 32)
  | 8 => a.sshiftRight (b.toNat % 32)
  | _ => a * b

theorem sshiftRight_eq (a : BitVec 32) (k : Nat) :
    unsignedOf 32 (signedOf 32 a.toNat / 2 ^ k) = (a.sshiftRight k).toNat := by
  rw [unsignedOf_eq_toNat, signedOf_eq_toInt 31, BitVec.ofNat_toNat, BitVec.setWidth_eq, BitVec.sshiftRight_eq,
    Int.shiftRight_eq_div_pow]
  push_cast
  rfl

theorem scalarAlu_eq {op a b : Nat} (h1 : 1 ≤ op) (h9 : op ≤ 9) (ha : a < 2 ^ 32) (hb : b < 2 ^ 32) :
    scalarAlu op a b % 2 ^ 32 = (aluWord op (word a) (word b)).toNat := by
  have hwa := word_toNat ha
  have hwb := word_toNat hb
  obtain rfl | rfl | rfl | rfl | rfl | rfl | rfl | rfl | rfl :
      op = 1 ∨ op = 2 ∨ op = 3 ∨ op = 4 ∨ op = 5 ∨ op = 6 ∨ op = 7 ∨ op = 8 ∨ op = 9 := by omega
  · rw [aluWord, BitVec.toNat_add, hwa, hwb]; rfl
  · rw [aluWord, BitVec.toNat_sub, hwa, hwb, scalarAlu]; omega
  · rw [aluWord, BitVec.toNat_and, hwa, hwb, scalarAlu, Nat.mod_eq_of_lt (Nat.and_lt_two_pow _ hb)]
  · rw [aluWord, BitVec.toNat_or, hwa, hwb, scalarAlu, Nat.mod_eq_of_lt (Nat.or_lt_two_pow ha hb)]
  · rw [aluWord, BitVec.toNat_xor, hwa, hwb, scalarAlu, Nat.mod_eq_of_lt (Nat.xor_lt_two_pow ha hb)]
  · rw [aluWord, BitVec.toNat_shiftLeft, hwa, hwb, scalarAlu, Nat.shiftLeft_eq]
  · rw [aluWord, BitVec.toNat_ushiftRight, hwa, hwb, scalarAlu, Nat.shiftRight_eq_div_pow]
    exact Nat.mod_eq_of_lt (Nat.lt_of_le_of_lt (Nat.div_le_self _ _) ha)
  · rw [aluWord, ← sshiftRight_eq, hwa, hwb, scalarAlu]
    exact Nat.mod_eq_of_lt (by rw [unsignedOf_eq_toNat]; exact BitVec.isLt _)
  · show a * b % 2 ^ 32 = (word a * word b).toNat
    rw [BitVec.toNat_mul, hwa, hwb]

theorem branchTaken_eq {op a r : Nat} (h1 : 0x18 ≤ op) (h2 : op ≤ 0x1B) (ha : a < 2 ^ 32) (hr : r < 2 ^ 32) :
    branchTaken op a r = true ↔ (op = 0x18 ∧ word a = word r) ∨ (op = 0x19 ∧ word a ≠ word r) ∨
      (op = 0x1A ∧ (word a).slt (word r) = true) ∨ (op = 0x1B ∧ (word a).ult (word r) = true) := by
  have heq : word a = word r ↔ a = r :=
    ⟨fun h => by rw [← word_toNat ha, ← word_toNat hr, h], fun h => by rw [h]⟩
  obtain rfl | rfl | rfl | rfl : op = 0x18 ∨ op = 0x19 ∨ op = 0x1A ∨ op = 0x1B := by omega
  · simp [branchTaken, heq]
  · simp [branchTaken, heq]
  · simp [branchTaken, BitVec.slt_iff_toInt_lt, signedOf_eq_toInt 31, word]
  · simp [branchTaken, BitVec.ult, word_toNat ha, word_toNat hr]

/-! ### Registers -/

/-- A unit of work with one scalar register written differs in its registers and their taint. -/
theorem setSReg_frame (u : CoreUnit) (k v : Nat) (bad : Bool) :
    setSReg u k v bad = { u with regs := (setSReg u k v bad).regs, taint := (setSReg u k v bad).taint } := by
  unfold setSReg
  dsimp only
  split <;> rfl

theorem setSReg_length (u : CoreUnit) (k v : Nat) (bad : Bool) : (setSReg u k v bad).regs.length = u.regs.length := by
  unfold setSReg
  dsimp only
  split
  · rfl
  · exact List.length_set

theorem sReg_setSReg {u : CoreUnit} {k : Nat} (hk : k < u.regs.length) (v : Nat) (bad : Bool) (j : Nat) :
    sReg (setSReg u k v bad) j = if j = k ∧ j ≠ 0 then v % 2 ^ 32 else sReg u j := by
  unfold setSReg
  dsimp only
  by_cases h0 : k = 0
  · rw [if_pos h0, if_neg (fun h => h.2 (h.1.trans h0))]
  · rw [if_neg h0]
    unfold sReg
    dsimp only
    by_cases hj0 : j = 0
    · rw [if_pos hj0, if_pos hj0, if_neg (fun h => h.2 hj0)]
    · rw [if_neg hj0, if_neg hj0, nth, List.getD_eq_getElem?_getD, List.getElem?_set]
      by_cases hjk : j = k
      · rw [if_pos hjk.symm, if_pos hk, if_pos ⟨hjk, hj0⟩]
        rfl
      · rw [if_neg (Ne.symm hjk), if_neg (fun h => hjk h.1), nth, List.getD_eq_getElem?_getD]

/-- A unit of work that goes on with its next instruction. -/
def stepUnit (u : CoreUnit) : CoreUnit := { u with pc := u.pc + 1 }

/-- What an instruction that writes one register leaves of its unit of work. -/
theorem stepUnit_setSReg {u : CoreUnit} {rd v : Nat} {bad : Bool} {x : BitVec 32} (hrd : rd < u.regs.length)
    (hv : v % 2 ^ 32 = x.toNat) :
    let u' := stepUnit (setSReg u rd v bad)
    u'.issued = u.issued ∧ u'.ops = u.ops ∧ u'.pc = u.pc + 1 ∧ u'.ended = u.ended ∧
      (∀ k < 32, sReg u' k = if k = rd ∧ k ≠ 0 then x.toNat else sReg u k) := by
  intro u'
  have hf := setSReg_frame u rd v bad
  have hu : u' = stepUnit { u with regs := (setSReg u rd v bad).regs, taint := (setSReg u rd v bad).taint } := congrArg stepUnit hf
  refine ⟨by rw [hu]; rfl, by rw [hu]; rfl, by rw [hu]; rfl, by rw [hu]; rfl, fun k _ => ?_⟩
  rw [← hv]
  exact sReg_setSReg hrd v bad k

/-! ### Instructions by opcode -/

section
variable (s : State) (c : Nat) (u : CoreUnit) {w : Nat} (bad : Bool)

theorem scalarExec_end (h : bitsAt w 26 6 = 0) : scalarExec s c u w bad = setUnit s c (some { u with ended := true }) := if_pos h

theorem scalarExec_alu (h1 : 1 ≤ bitsAt w 26 6) (h9 : bitsAt w 26 6 ≤ 9) (hr : bitsAt w 0 11 = 0) :
    ∃ b, scalarExec s c u w bad = setUnit s c (some (stepUnit (setSReg u (bitsAt w 21 5)
      (scalarAlu (bitsAt w 26 6) (sReg u (bitsAt w 16 5)) (sReg u (bitsAt w 11 5))) b))) :=
  ⟨_, (if_neg (by omega)).trans ((if_pos h9).trans (if_neg (Classical.not_not.mpr hr)))⟩

theorem scalarExec_addi (h : bitsAt w 26 6 = 0x0A) :
    ∃ b, scalarExec s c u w bad = setUnit s c (some (stepUnit (setSReg u (bitsAt w 21 5)
      (plusImm (sReg u (bitsAt w 16 5)) (bitsAt w 0 16)) b))) :=
  ⟨_, (if_neg (by omega)).trans ((if_neg (by omega)).trans (if_pos h))⟩

theorem scalarExec_lui (h : bitsAt w 26 6 = 0x0B) :
    scalarExec s c u w bad = setUnit s c (some (stepUnit (setSReg u (bitsAt w 21 5) (bitsAt w 0 16 * 65536) bad))) :=
  (if_neg (by omega)).trans ((if_neg (by omega)).trans ((if_neg (by omega)).trans (if_pos h)))

theorem scalarExec_ori (h : bitsAt w 26 6 = 0x0C) :
    ∃ b, scalarExec s c u w bad = setUnit s c (some (stepUnit (setSReg u (bitsAt w 21 5)
      (sReg u (bitsAt w 16 5) ||| bitsAt w 0 16) b))) :=
  ⟨_, (if_neg (by omega)).trans ((if_neg (by omega)).trans ((if_neg (by omega)).trans ((if_neg (by omega)).trans (if_pos h))))⟩

/-- A load or store whose access can be, and that no operation bars. -/
theorem scalarExec_access {m : Nat} (hm : m < 4) (store : Bool) (h : bitsAt w 26 6 = 0x10 + m + (if store then 4 else 0))
    (ha : accessBad (2 ^ m) (plusImm (sReg u (bitsAt w 16 5)) (bitsAt w 0 16)) (bitsAt w 21 5) = false)
    (hb : rowBusy u (plusImm (sReg u (bitsAt w 16 5)) (bitsAt w 0 16) / 64) store = false) :
    ∃ b, scalarExec s c u w bad =
      if store then scalarStore s c u (2 ^ m) (plusImm (sReg u (bitsAt w 16 5)) (bitsAt w 0 16)) (bitsAt w 21 5) b
      else scalarLoad s c u (2 ^ m) (plusImm (sReg u (bitsAt w 16 5)) (bitsAt w 0 16)) (bitsAt w 21 5) b := by
  have hle : bitsAt w 26 6 ≤ 0x17 ∧ 0x10 ≤ bitsAt w 26 6 := by
    split at h <;> omega
  obtain ⟨hle, hge⟩ := hle
  have hn : bitsAt w 26 6 % 4 = m := by
    split at h <;> omega
  have hst : decide (0x14 ≤ bitsAt w 26 6) = store := by
    cases store with
    | true => exact decide_eq_true (by rw [h, if_pos rfl]; omega)
    | false => exact decide_eq_false (by rw [h, if_neg Bool.false_ne_true]; omega)
  refine ⟨bad || sBad u (bitsAt w 16 5), (if_neg (by omega)).trans ((if_neg (by omega)).trans ((if_neg (by omega)).trans
    ((if_neg (by omega)).trans ((if_neg (by omega)).trans ((if_pos ⟨hge, hle⟩).trans ?_)))))⟩
  rw [hn, hst]
  dsimp only
  rw [if_neg (by rw [ha]; decide), if_neg (by rw [hb]; decide)]

theorem scalarExec_pass (h1 : 0x18 ≤ bitsAt w 26 6) (h2 : bitsAt w 26 6 ≤ 0x1B)
    (ht : branchTaken (bitsAt w 26 6) (sReg u (bitsAt w 16 5)) (sReg u (bitsAt w 21 5)) = false) :
    scalarExec s c u w bad = setUnit s c (some (stepUnit u)) :=
  (if_neg (by omega)).trans ((if_neg (by omega)).trans ((if_neg (by omega)).trans ((if_neg (by omega)).trans ((if_neg (by omega)).trans
    ((if_neg (by omega)).trans ((if_pos ⟨h1, h2⟩).trans (if_neg (by rw [ht]; decide))))))))

theorem scalarExec_branch (h1 : 0x18 ≤ bitsAt w 26 6) (h2 : bitsAt w 26 6 ≤ 0x1B)
    (ht : branchTaken (bitsAt w 26 6) (sReg u (bitsAt w 16 5)) (sReg u (bitsAt w 21 5)) = true) {p : Nat}
    (hp : (p : Int) = u.pc + signedOf 16 (bitsAt w 0 16)) (hlt : p < u.listLen) :
    scalarExec s c u w bad = setUnit s c (some { u with pc := p }) := by
  have hpc : ((u.pc : Int) + signedOf 16 (bitsAt w 0 16)).toNat = p := by omega
  refine ((if_neg (by omega)).trans ((if_neg (by omega)).trans ((if_neg (by omega)).trans ((if_neg (by omega)).trans
    ((if_neg (by omega)).trans ((if_neg (by omega)).trans ((if_pos ⟨h1, h2⟩).trans ((if_pos ht).trans (if_neg (by omega)))))))))).trans ?_
  rw [hpc]

theorem scalarExec_issue (h : bitsAt w 26 6 = 0x1C) :
    scalarExec s c u w bad = setUnit s c (some (stepUnit { u with
      pendingIssue := some (plusImm (sReg u (bitsAt w 16 5)) (bitsAt w 0 16)) })) :=
  (if_neg (by omega)).trans ((if_neg (by omega)).trans ((if_neg (by omega)).trans ((if_neg (by omega)).trans ((if_neg (by omega)).trans
    ((if_neg (by omega)).trans ((if_neg (by omega)).trans (if_pos h)))))))

end

/-! ### Loads and stores -/

theorem leNat_lt (bs : List Byte) : leNat bs < 2 ^ (8 * bs.length) := by
  induction bs with
  | nil => decide
  | cons b bs ih =>
    have hb : b.toNat < 256 := b.isLt
    have hpow : 2 ^ (8 * (bs.length + 1)) = 256 * 2 ^ (8 * bs.length) := by rw [Nat.mul_succ, Nat.pow_add, Nat.mul_comm]
    rw [List.length_cons, hpow, leNat]
    omega

/-- A unit of work with a loaded value, which eight bytes split into a pair of registers. -/
def loadedUnit (u : CoreUnit) (n v rd : Nat) (bad : Bool) : CoreUnit :=
  if n = 8 then setSReg (setSReg u rd v bad) (rd + 1) (v / 2 ^ 32) bad else setSReg u rd v bad

theorem scalarLoad_clean {s : State} {c : Nat} (u : CoreUnit) {n a : Nat} (rd : Nat) (bad : Bool)
    (h : ∀ y ∈ s.eccBad, y.addr / 64 ∉ gransOf (spmOf c + a) n) :
    ∃ fs b, scalarLoad s c u n a rd bad =
      setUnit s c (some (stepUnit (loadedUnit (noteFails u fs) n (leNat (getBytes s (spmOf c + a) n)) rd b))) := by
  refine ⟨rangeFailing s (spmOf c + a) n, bad || rangeBad s (spmOf c + a) n, ?_⟩
  unfold scalarLoad
  rw [meetRange_absent h]
  rfl

theorem loadedUnit_frame (u : CoreUnit) (n v rd : Nat) (bad : Bool) :
    (loadedUnit u n v rd bad).pc = u.pc ∧ (loadedUnit u n v rd bad).ended = u.ended := by
  unfold loadedUnit
  split
  · rw [setSReg_frame, setSReg_frame]
    exact ⟨rfl, rfl⟩
  · rw [setSReg_frame]
    exact ⟨rfl, rfl⟩

/-- An access of 2^m bytes is one of a register pair when m is 3. -/
theorem pow_eq_eight {m : Nat} (hm : m < 4) : 2 ^ m = 8 ↔ m = 3 := by
  obtain rfl | rfl | rfl | rfl : m = 0 ∨ m = 1 ∨ m = 2 ∨ m = 3 := by omega
  all_goals decide

theorem sReg_loadedUnit {u : CoreUnit} {m v rd : Nat} (bad : Bool) (hlen : u.regs.length = 32) (hrd : rd < 32) (hm : m < 4)
    (hpair : m = 3 → rd % 2 = 0) (hv : v < 2 ^ (8 * 2 ^ m)) (k : Nat) :
    sReg (loadedUnit u (2 ^ m) v rd bad) k =
      if k = rd ∧ k ≠ 0 then v % 2 ^ 32 else if m = 3 ∧ k = rd + 1 then v / 2 ^ 32 else sReg u k := by
  have h8 := pow_eq_eight hm
  unfold loadedUnit
  by_cases h : m = 3
  · have heven := hpair h
    subst h
    rw [if_pos (by decide : 2 ^ 3 = 8), sReg_setSReg (by rw [setSReg_length, hlen]; omega), sReg_setSReg (by rw [hlen]; exact hrd)]
    by_cases hk : k = rd + 1
    · rw [if_pos ⟨hk, by omega⟩, if_neg (fun h => by omega), if_pos ⟨rfl, hk⟩]
      exact Nat.mod_eq_of_lt (Nat.div_lt_of_lt_mul (Nat.lt_of_lt_of_eq hv (by decide)))
    · rw [if_neg (fun h => hk h.1), if_neg (c := 3 = 3 ∧ k = rd + 1) (fun h => hk h.2)]
  · rw [if_neg (fun h' => h (h8.mp h')), sReg_setSReg (by rw [hlen]; exact hrd), if_neg (c := m = 3 ∧ k = rd + 1) (fun h' => h h'.1)]

/-- What a store leaves: the bytes of its register or pair, and no other byte. -/
theorem scalarStore_leaves (s : State) (c : Nat) (u : CoreUnit) (n a rd : Nat) (bad : Bool) :
    let t := scalarStore s c u n a rd bad
    memRead t.mem (spmOf c + a) n = leBytes n (sReg u rd + (if n = 8 then sReg u (rd + 1) * 2 ^ 32 else 0)) ∧
      (coreOf t c).unit = some (stepUnit u) ∧
      (∀ k, (k < spmOf c + a ∨ spmOf c + a + n ≤ k) → memByte t.mem k = memByte s.mem k) := by
  intro t
  have hmem : (meetMerge (spmOf c + a) n (setUnit s c (some (stepUnit u)))).mem = s.mem := meetMerge_mem _ _ _
  refine ⟨?_, ?_, fun k hk => ?_⟩
  · have h := memRead_memWrite s.mem (spmOf c + a) (leBytes n (sReg u rd + (if n = 8 then sReg u (rd + 1) * 2 ^ 32 else 0)))
    rw [length_leBytes, ← hmem] at h
    exact h
  · have hcores : t.cores = (setUnit s c (some (stepUnit u))).cores := (meetMerge_reads _ _ _).cores
    rw [coreOf_congr hcores, setUnit_unit]
  · refine (putBytes_byte (meetMerge (spmOf c + a) n (setUnit s c (some (stepUnit u)))) _ _ _ k).trans ?_
    rw [dif_neg (by rw [length_leBytes]; omega), hmem]

/-! ### Other cores stand -/

theorem DoubtOnly.onCore {c : Nat} {s t : State} (h : DoubtOnly s t) : OnCore c s t := h.reads.onCore

theorem OnCore.ite {c : Nat} {s a b : State} {p : Prop} [Decidable p] (ha : OnCore c s a) (hb : OnCore c s b) :
    OnCore c s (if p then a else b) := by
  split
  · exact ha
  · exact hb

theorem endEarly_onCore (s : State) (c : Nat) (u : CoreUnit) (op : Nat) (st : Status) (issue : Nat) :
    OnCore c s (endEarly s c u op st issue) := by
  unfold endEarly
  dsimp only
  exact (raiseDoubt_only _ _ _ _ _ _ _ _).onCore.behind ((setUnit_onCore _ _ _).behind (coreStop_onCore _ _ _))

theorem scalarLoad_onCore (s : State) (c : Nat) (u : CoreUnit) (n a rd : Nat) (bad : Bool) :
    OnCore c s (scalarLoad s c u n a rd bad) := (setUnit_onCore _ _ _).behind (meetRange_reads _ _ _).onCore

theorem scalarStore_onCore (s : State) (c : Nat) (u : CoreUnit) (n a rd : Nat) (bad : Bool) :
    OnCore c s (scalarStore s c u n a rd bad) :=
  (OnCore.putBytes _ _ _ _).behind ((meetMerge_reads _ _ _).onCore.behind (setUnit_onCore _ _ _))

theorem scalarExec_onCore (s : State) (c : Nat) (u : CoreUnit) (w : Nat) (bad : Bool) : OnCore c s (scalarExec s c u w bad) := by
  have hset : ∀ u', OnCore c s (setUnit s c u') := fun u' => setUnit_onCore s c u'
  have hend : ∀ st, OnCore c s (scalarFault s c u (bitsAt w 26 6) st) := fun st => endEarly_onCore _ _ _ _ _ _
  exact .ite (hset _) (.ite (.ite (hend _) (hset _)) (.ite (hset _) (.ite (hset _) (.ite (hset _)
    (.ite (.ite (hend _) (.ite (.refl s) (.ite (scalarStore_onCore _ _ _ _ _ _ _) (scalarLoad_onCore _ _ _ _ _ _ _))))
      (.ite (.ite (.ite (hend _) (hset _)) (hset _)) (.ite (hset _) (hend _))))))))

/-- The instruction that a core executes. -/
theorem doScalarInstruction_eq {s : State} {c : Nat} {u : CoreUnit} (hu : (coreOf s c).unit = some u) (hb : u.begun = true)
    (he : u.ended = false) (hp : u.pendingIssue = none) (hi : islandRuns s (2 + c / 16) = true) (hpc : u.pc < u.listLen)
    (hend : 64 * u.list + 4 * u.pc + 4 ≤ spmSize)
    (hecc : ∀ y ∈ s.eccBad, y.addr / 64 ∉ gransOf (spmOf c + (64 * u.list + 4 * u.pc)) 4) :
    ∃ fs b, doScalarInstruction c s =
      scalarExec s c (noteFails u fs) (leNat (getBytes s (spmOf c + (64 * u.list + 4 * u.pc)) 4)) b := by
  refine ⟨rangeFailing s (spmOf c + (64 * u.list + 4 * u.pc)) 4, rangeBad s (spmOf c + (64 * u.list + 4 * u.pc)) 4, ?_⟩
  unfold doScalarInstruction
  rw [hu]
  dsimp only
  rw [if_neg (by rw [hb, he, hp, hi]; decide), if_neg (not_or.mpr ⟨Nat.not_le_of_lt hpc, Nat.not_lt_of_le hend⟩),
    meetRange_absent hecc]
  rfl

end Sys2Proof.Machine
end

section
/-! PROOFS. Units of work on a core (R244 to R255, R273, R274): start, issue, the operations, SPAWN and the end, with O47. -/

namespace Sys2Proof.Machine

open Sys2Proof

theorem setUnit_frame (s : State) (c : Nat) (u : Option CoreUnit) : setUnit s c u = { s with cores := (setUnit s c u).cores } := rfl

/-! ### Planted errors -/

theorem plant_frame (l : List EccHit) (s : State) : plant l s = { s with eccBad := (plant l s).eccBad, marks := (plant l s).marks } := by
  induction l generalizing s with
  | nil => rfl
  | cons x l ih => exact ih _

theorem plant_cores (l : List EccHit) (s : State) : (plant l s).cores = s.cores := by rw [plant_frame]
theorem plant_runs (l : List EccHit) (s : State) (k : Nat) : islandRuns (plant l s) k = islandRuns s k := by
  rw [plant_frame]
  rfl
theorem plant_mem (l : List EccHit) (s : State) : (plant l s).mem = s.mem := by rw [plant_frame]

/-! ### Start -/

/-- A unit of work that begins. -/
def beginUnit (s : State) (u : CoreUnit) : CoreUnit := { u with begun := true, start := s.time, rnd := defaultRound s }

/-- A core with its accumulators and vector registers at zero. -/
def clearedCore (k : CoreSt) : CoreSt := { k with acc := [], accSet := 0, vregs := [], vpoison := 0, vmask := [] }

/-- The state of a unit's start before its trace record. -/
def begunCore (s : State) (c : Nat) (u : CoreUnit) : State :=
  setUnit (setCore s c (clearedCore (coreOf s c))) c (some (beginUnit s u))

theorem doCoreUnitStart_eq {s : State} {c : Nat} {u : CoreUnit} (hu : (coreOf s c).unit = some u) (hb : u.begun = false)
    (hi : islandRuns s (2 + c / 16) = true) :
    doCoreUnitStart c s = emitTrace (begunCore s c u) 0 c false 0 (unitWork (beginUnit s u)) [] := by
  unfold doCoreUnitStart
  rw [hu]
  dsimp only
  rw [if_neg (by rw [hb, hi]; decide)]
  rfl

theorem begunCore_core (s : State) (c : Nat) (u : CoreUnit) :
    coreOf (begunCore s c u) c = { clearedCore (coreOf s c) with unit := some (beginUnit s u), sregs := u.regs } := by
  have hset : coreOf (setCore s c (clearedCore (coreOf s c))) c = clearedCore (coreOf s c) := tabGet_tabSet_same _ _ _ _
  have h : coreOf (begunCore s c u) c =
      { coreOf (setCore s c (clearedCore (coreOf s c))) c with unit := some (beginUnit s u), sregs := u.regs } :=
    tabGet_tabSet_same _ _ _ _
  rw [h, hset]

theorem begunCore_other (s : State) {c k : Nat} (u : CoreUnit) (h : k ≠ c) : coreOf (begunCore s c u) k = coreOf s k :=
  (coreOf_setUnit_other _ _ h).trans (tabGet_tabSet_other _ _ _ h)

/-! ### Issue -/

theorem meetRecord_reads (s : State) (c a : Nat) : ReadsOnly s (meetRecord s c a) := meet_reads _ s

theorem doIssue_eq {s : State} {c row : Nat} {u : CoreUnit} (hu : (coreOf s c).unit = some u)
    (hi : islandRuns s (2 + c / 16) = true) (hp : u.pendingIssue = some row) : doIssue c s = issueRow s c u row := by
  unfold doIssue
  rw [hu]
  dsimp only
  rw [if_neg (by rw [hi]; decide), hp]

/-- A unit of work that has noted the failing granules of a record. -/
def notedUnit (s : State) (c : Nat) (u : CoreUnit) (row : Nat) : CoreUnit :=
  noteFails u (rangeFailing s (spmOf c + 64 * row) 64 ++ recordFails s c (getBytes s (spmOf c + 64 * row) 64))

/-- A record read, checked and queued, or refused. -/
def issueRecord (s : State) (c : Nat) (u : CoreUnit) (row : Nat) : State :=
  let r := getBytes s (spmOf c + 64 * row) 64
  if rangeBad s (spmOf c + 64 * row) 64 then refuseRecord s c (notedUnit s c u row) (recOpcode r) .badField
  else match recordRefusal s c u r with
    | some st => refuseRecord s c (notedUnit s c u row) (recOpcode r) st
    | none =>
      if queueFull u (decide (3 ≤ recOpcode r)) then s
      else setUnit s c (some { notedUnit s c u row with
        ops := u.ops ++ [opOfRecord s c u r], issued := u.issued + 1, pendingIssue := none })

theorem issueRow_eq {s : State} (c : Nat) (u : CoreUnit) {row : Nat} (h : row < spmRows) :
    issueRow s c u row = issueRecord (meetRecord s c (64 * row)) c u row := if_neg (Nat.not_le_of_lt h)

section
variable {s : State} {c row : Nat} {u : CoreUnit} (hbad : rangeBad s (spmOf c + 64 * row) 64 = false)
include hbad

theorem issueRecord_full (href : recordRefusal s c u (getBytes s (spmOf c + 64 * row) 64) = none)
    (hfull : queueFull u (decide (3 ≤ recOpcode (getBytes s (spmOf c + 64 * row) 64))) = true) : issueRecord s c u row = s := by
  unfold issueRecord
  rw [if_neg (by rw [hbad]; decide), href]
  exact if_pos hfull

theorem issueRecord_queued (href : recordRefusal s c u (getBytes s (spmOf c + 64 * row) 64) = none)
    (hfull : queueFull u (decide (3 ≤ recOpcode (getBytes s (spmOf c + 64 * row) 64))) = false) :
    issueRecord s c u row = setUnit s c (some { notedUnit s c u row with
      ops := u.ops ++ [opOfRecord s c u (getBytes s (spmOf c + 64 * row) 64)], issued := u.issued + 1, pendingIssue := none }) := by
  unfold issueRecord
  rw [if_neg (by rw [hbad]; decide), href]
  exact if_neg (by rw [hfull]; decide)

end

theorem issueRecord_refused {s : State} {c row : Nat} {u : CoreUnit} {st : Status}
    (h : (rangeBad s (spmOf c + 64 * row) 64 = true ∧ st = .badField) ∨ (rangeBad s (spmOf c + 64 * row) 64 = false ∧
      recordRefusal s c u (getBytes s (spmOf c + 64 * row) 64) = some st)) :
    issueRecord s c u row = refuseRecord s c (notedUnit s c u row) (recOpcode (getBytes s (spmOf c + 64 * row) 64)) st := by
  unfold issueRecord
  rcases h with ⟨hbad, rfl⟩ | ⟨hbad, href⟩
  · exact if_pos hbad
  · rw [if_neg (by rw [hbad]; decide), href]

/-- What an early end leaves: the unit of work has ended with a status, and no operation is left. -/
theorem endEarly_leaves (s : State) (c : Nat) (u : CoreUnit) (op : Nat) (st : Status) (issue : Nat) :
    (∃ u', (coreOf (endEarly s c u op st issue) c).unit = some u' ∧ u'.ended = true ∧ u'.status = st ∧ u'.ops = []) ∧
      doubtOpen (endEarly s c u op st issue) rowCore kindCore c := by
  unfold endEarly opRefused
  dsimp only
  refine ⟨⟨{ (coreStop s c u).2 with status := st, refused := some issue }, ?_, rfl, rfl, rfl⟩, raiseDoubt_open _ _ _ _ _ _ _ _⟩
  rw [coreOf_congr (raiseDoubt_only _ _ _ _ _ _ _ _).cores, setUnit_unit]

/-! ### Start of operations -/

section
variable {s : State} {c i : Nat} {u : CoreUnit} {o : CoreOp} (hu : (coreOf s c).unit = some u)
include hu

theorem doOpStart_array (hfind : u.ops.findIdx? (fun o => o.vector == false && ! o.started) = some i) (hget : u.ops[i]? = some o)
    (hi : islandRuns s (2 + c / 16) = true) (hfree : hazardFree (u.ops.take i) o = true) (ha : arrayFree u = true) :
    doOpStart c false s = setUnit s c (some (startOp u i 0)) := by
  unfold doOpStart
  rw [hu]
  dsimp only
  rw [hfind]
  dsimp only
  rw [hget]
  dsimp only
  rw [if_neg (by rw [hi, hfree]; decide), if_neg Bool.false_ne_true, if_pos ha]

theorem doOpStart_pipe {p : Nat} (hfind : u.ops.findIdx? (fun o => o.vector == true && ! o.started) = some i)
    (hget : u.ops[i]? = some o) (hi : islandRuns s (2 + c / 16) = true) (hfree : hazardFree (u.ops.take i) o = true)
    (hp : freePipe s c u o = some p) : doOpStart c true s = setUnit s c (some (startOp u i p)) := by
  unfold doOpStart
  rw [hu]
  dsimp only
  rw [hfind]
  dsimp only
  rw [hget]
  dsimp only
  rw [if_neg (by rw [hi, hfree]; decide), if_pos rfl, hp]

end

/-! ### Completion of operations -/

/-- A unit of work once an operation has run: its counts or its POST, without the operation. -/
def ranUnit (q : State) (c : Nat) (u : CoreUnit) (o : CoreOp) (rep : OpRep) : CoreUnit :=
  let v := if opIsPost o then deliverPost q c u (fieldAt o.record 16 2) else addRep u rep
  { v with ops := v.ops.filter (fun k => k.issueNo != o.issueNo) }

theorem finishOp_eq {s s1 : State} {c : Nat} {u : CoreUnit} {o : CoreOp} {parity : List Nat} {rep : OpRep}
    (h : runOp s c u o none parity = (s1, rep)) :
    finishOp s c u o parity = (List.range rep.tiles).foldl (fun s _ => coreParity s c (ranUnit s1 c u o rep) o)
      (setUnit s1 c (some (ranUnit s1 c u o rep))) := by
  unfold finishOp
  rw [h]
  rfl

theorem coreParities_only (l : List Nat) (s : State) (c : Nat) (u : CoreUnit) (o : CoreOp) :
    DoubtOnly s (l.foldl (fun s _ => coreParity s c u o) s) := by
  induction l generalizing s with
  | nil => exact .refl s
  | cons x l ih => exact (raiseDoubt_only _ _ _ _ _ _ _ _).trans (ih _)

theorem coreParities_open {n : Nat} (hn : 0 < n) (s : State) (c : Nat) (u : CoreUnit) (o : CoreOp) :
    doubtOpen ((List.range n).foldl (fun s _ => coreParity s c u o) s) rowCore kindCore c := by
  obtain ⟨m, rfl⟩ : ∃ m, n = m + 1 := ⟨n - 1, by omega⟩
  rw [List.range_succ, List.foldl_append]
  exact raiseDoubt_open _ _ _ _ _ _ _ _

theorem ranUnit_ops (q : State) (c : Nat) (u : CoreUnit) (o : CoreOp) (rep : OpRep) :
    (ranUnit q c u o rep).ops = u.ops.filter (fun k => k.issueNo != o.issueNo) := by
  unfold ranUnit
  dsimp only
  split
  · unfold deliverPost
    dsimp only
    split <;> rfl
  · rfl

theorem ranUnit_post {u : CoreUnit} {o : CoreOp} (q : State) (c : Nat) (rep : OpRep) (ho : recOpcode o.record = 0x0E)
    (hp : u.posted = none) : (ranUnit q c u o rep).posted = some (postRow q c (fieldAt o.record 16 2)) := by
  have hpost : opIsPost o = true := beq_iff_eq.mpr ho
  unfold ranUnit
  dsimp only
  rw [if_pos hpost]
  unfold deliverPost
  dsimp only
  split
  · rfl
  next h => exact absurd (hp.symm.trans h) (by simp)

theorem ranUnit_counts {o : CoreOp} (q : State) (c : Nat) (u : CoreUnit) (rep : OpRep) (ho : recOpcode o.record ≠ 0x0E) :
    (ranUnit q c u o rep).parity = u.parity + rep.tiles ∧ (ranUnit q c u o rep).accSat = min (u.accSat + rep.acc) (2 ^ 32 - 1) ∧
      (ranUnit q c u o rep).outSat = min (u.outSat + rep.out) (2 ^ 32 - 1) := by
  have hpost : opIsPost o = false := beq_eq_false_iff_ne.mpr ho
  unfold ranUnit
  dsimp only
  rw [if_neg (by rw [hpost]; decide)]
  exact ⟨rfl, rfl, rfl⟩

/-- POST runs no operation on its core. -/
theorem runOp_post {s : State} {c : Nat} {u : CoreUnit} {o : CoreOp} (limit : Option Nat) (parity : List Nat)
    (ho : recOpcode o.record = 0x0E) : runOp s c u o limit parity = (s, opRepNone) := by
  unfold runOp
  rw [ho]
  rfl

theorem doOpComplete_eq {s : State} {c k : Nat} {u : CoreUnit} {o : CoreOp} (parity : List Nat) (hu : (coreOf s c).unit = some u)
    (ho : u.ops.find? (fun o => o.issueNo == k && o.started && ! opIsSpawn o) = some o)
    (hi : islandRuns s (2 + c / 16) = true) : doOpComplete c k parity s = finishOp (meet (opReadsGran c o) s) c u o parity := by
  unfold doOpComplete
  rw [hu]
  dsimp only
  rw [ho]
  dsimp only
  rw [if_pos hi]

/-! ### SPAWN -/

/-- A unit of work whose SPAWN has completed. -/
def spawnedUnit (s : State) (c : Nat) (u : CoreUnit) (o : CoreOp) : CoreUnit :=
  let v := noteFails u (rangeFailing s (spmOf c + 64 * fieldAt o.record 16 2) 16)
  { v with ops := v.ops.filter (fun k => k.issueNo != o.issueNo) }

theorem spawnItem_congr {s t : State} (hm : t.mem = s.mem) (hn : t.nodes = s.nodes) (c : Nat) (u : CoreUnit) (row : Nat) :
    spawnItem t c u row = spawnItem s c u row := by
  unfold spawnItem spmBytes getBytes
  rw [hm, hn]

theorem spawnItem_bytes {s : State} {c : Nat} {u : CoreUnit} {row : Nat} {x : Submission} (h : spawnItem s c u row = some x) :
    x.bytes = getBytes s (spmOf c + 64 * row) 16 := by
  unfold spawnItem at h
  split at h <;> cases h
  rfl

theorem acceptable_congr {s t : State} (h : t.pool = s.pool) (x : Submission) : acceptable t x = acceptable s x := by
  unfold acceptable
  rw [h]

theorem doSpawn_eq {s : State} {c : Nat} {u : CoreUnit} {o : CoreOp} {x : Submission} (hu : (coreOf s c).unit = some u)
    (ho : u.ops.find? (fun o => o.started && opIsSpawn o) = some o) (hx : spawnItem s c u (fieldAt o.record 16 2) = some x)
    (hi : islandRuns s (2 + c / 16) = true) (hi1 : islandRuns s 1 = true) (hacc : acceptable s x = true) :
    let q := meetRange (spmOf c + 64 * fieldAt o.record 16 2) 16 s
    doSpawn c s = setUnit { q with pool := { q.pool with subs := q.pool.subs ++ [x] } } c (some (spawnedUnit q c u o)) := by
  intro q
  unfold doSpawn
  rw [hu]
  dsimp only
  rw [ho]
  dsimp only
  rw [hx]
  dsimp only
  rw [if_neg (by rw [hi, hi1, hacc]; decide)]
  rfl

/-! ### The end of a unit of work -/

/-- The signal of a unit of work that has ended. -/
def unitSignal (s : State) (c : Nat) (u : CoreUnit) : State :=
  match u.work with
  | .node n => nodeUnitDone s n
  | .item flow acc _ => signalPool s flow acc c u.posted u.status

theorem doCoreUnitComplete_eq {s : State} {c : Nat} {u : CoreUnit} (hu : (coreOf s c).unit = some u) (hb : u.begun = true)
    (he : u.ended = true) (ho : u.ops = []) (hi : islandRuns s (2 + c / 16) = true) :
    doCoreUnitComplete c s = unitSignal (bump (closeUnit s c u) 0 c 4 1) c u := by
  unfold doCoreUnitComplete
  rw [hu]
  dsimp only
  rw [if_neg (by rw [hb, he, ho, hi]; decide)]
  rfl

theorem cntAt_travelMismatch (s : State) (cls unit count port addr : Nat) {k : Nat} (hk : CounterKey k) :
    cntAt (travelMismatch s cls unit count port addr) k = cntAt s k := by
  unfold travelMismatch
  split
  · rfl
  · exact cntAt_raiseDoubt _ _ _ _ _ _ _ _ hk

theorem cntAt_setUnit (s : State) (c : Nat) (u : Option CoreUnit) (k : Nat) : cntAt (setUnit s c u) k = cntAt s k := rfl

theorem cntAt_freeCnt (s : State) (n k : Nat) : cntAt { s with freeCnt := n } k = cntAt s k := rfl

theorem setUnit_mem (s : State) (c : Nat) (u : Option CoreUnit) : (setUnit s c u).mem = s.mem := rfl

theorem closeUnit_mem (s : State) (c : Nat) (u : CoreUnit) : (closeUnit s c u).mem = s.mem := by
  have htrace : ∀ q, (unitTraceEnd q c u).mem = q.mem := fun q => by
    unfold unitTraceEnd
    rw [emitTrace_trace]
  unfold closeUnit
  rw [setUnit_mem, htrace, (coreCounts_only _ _ _).doubt.mem, (travelMismatch_only _ _ _ _ _ _).mem]

theorem cntAt_unitTraceEnd (s : State) (c : Nat) (u : CoreUnit) (k : Nat) : cntAt (unitTraceEnd s c u) k = cntAt s k := by
  unfold unitTraceEnd
  rw [cntAt_emitTrace, cntAt_freeCnt]

theorem cntAt_closeUnit (s : State) (c : Nat) (u : CoreUnit) :
    cntAt (closeUnit s c u) (srcKey 0 c * 8 + 4) = cntAt s (srcKey 0 c * 8 + 4) := by
  have hkey : CounterKey (srcKey 0 c * 8 + 4) := fun p _ => by unfold srcKey; omega
  unfold closeUnit
  rw [cntAt_setUnit, cntAt_unitTraceEnd, coreCounts, cntAt_bump_other _ _ _ _ _ (by omega),
    cntAt_bump_other _ _ _ _ _ (by omega), cntAt_bump_other _ _ _ _ _ (by omega), cntAt_travelMismatch _ _ _ _ _ _ hkey]

/-- One unit of work more is counted. -/
theorem bump_emptied {s q : State} {c : Nat} (h : OnCore c s q) (hu : (coreOf q c).unit = none)
    (hc : cntAt q (srcKey 0 c * 8 + 4) = cntAt s (srcKey 0 c * 8 + 4)) :
    OnCore c s (bump q 0 c 4 1) ∧ (coreOf (bump q 0 c 4 1) c).unit = none ∧ counted s (bump q 0 c 4 1) 0 c 4 1 :=
  ⟨(EventsOnly.bump q 0 c 4 1).onCore.behind h, hu, counted_of (by rw [cntAt_bump_same, hc])⟩

/-- A closed unit of work is counted. -/
theorem closedUnit_leaves (s : State) (c : Nat) (u : CoreUnit) :
    OnCore c s (bump (closeUnit s c u) 0 c 4 1) ∧ (coreOf (bump (closeUnit s c u) 0 c 4 1) c).unit = none ∧
      counted s (bump (closeUnit s c u) 0 c 4 1) 0 c 4 1 :=
  bump_emptied (closeUnit_onCore s c u) (closeUnit_unit s c u) (cntAt_closeUnit s c u)

theorem nodeUnitDone_node {s : State} {n : Nat} {y : Node} {q : NodeRun} (hy : tabGet? s.nodes n = some y) (hq : y.run = some q) :
    tabGet? (nodeUnitDone s n).nodes n = some { y with run := some { q with unitDone := true } } := by
  rw [nodeUnitDone_eq]
  dsimp only
  rw [tabGet?_tabModify, hy, Option.map_some, if_pos rfl, hq]
  rfl

/-- A signal leaves cores, memory and counters. -/
theorem unitSignal_leaves (s : State) (c : Nat) (u : CoreUnit) :
    (unitSignal s c u).cores = s.cores ∧ (unitSignal s c u).mem = s.mem ∧ (unitSignal s c u).trace = s.trace := by
  unfold unitSignal
  split
  · rw [nodeUnitDone_eq]
    exact ⟨rfl, rfl, rfl⟩
  · unfold signalPool mapWindow
    split <;> exact ⟨rfl, rfl, rfl⟩

theorem unitSignal_node {s : State} {n : Nat} {y : Node} {q : NodeRun} (c : Nat) {u : CoreUnit} (hw : u.work = .node n)
    (hy : tabGet? s.nodes n = some y) (hq : y.run = some q) :
    tabGet? (unitSignal s c u).nodes n = some { y with run := some { q with unitDone := true } } := by
  unfold unitSignal
  rw [hw]
  exact nodeUnitDone_node hy hq

/-! ### Scalar instructions -/

theorem bitsAt_lt (n lo w : Nat) : bitsAt n lo w < 2 ^ w := Nat.mod_lt _ (Nat.two_pow_pos w)

/-- A register write of an instruction, read as a word. -/
def RegWrote (u u' : CoreUnit) (rd : Nat) (v : BitVec 32) : Prop :=
  u'.pc = u.pc + 1 ∧ u'.ended = false ∧ (∀ k < 32, sReg u' k = if k = rd ∧ k ≠ 0 then v.toNat else sReg u k)

/-- Nothing changed but the cores. -/
def CoresOnly (s t : State) : Prop := t = { s with cores := t.cores }

/-- The instruction writes one register and nothing else. -/
structure WriteStep (s t : State) (c : Nat) (u : CoreUnit) (rd : Nat) (v : BitVec 32) : Prop where
  frame : CoresOnly s t
  unit : ∃ u', (coreOf t c).unit = some u' ∧ u'.issued = u.issued ∧ u'.ops = u.ops ∧ RegWrote u u' rd v

section
variable {s : State} {c : Nat} {u : CoreUnit} (hlen : u.regs.length = 32) (hended : u.ended = false)
include hlen hended

theorem writeStep_of {rd v : Nat} {x : BitVec 32} (b : Bool) (hrd : rd < 32) (hv : v % 2 ^ 32 = x.toNat) (fs : List Nat) :
    WriteStep s (setUnit s c (some (stepUnit (setSReg (noteFails u fs) rd v b)))) c u rd x := by
  obtain ⟨hissued, hops, hpc, hend, hregs⟩ :=
    stepUnit_setSReg (u := noteFails u fs) (rd := rd) (v := v) (bad := b) (x := x) (by rw [show (noteFails u fs).regs = u.regs from rfl, hlen]; exact hrd) hv
  exact ⟨setUnit_frame _ _ _, _, setUnit_unit _ _ _, hissued, hops, hpc, hend.trans hended, hregs⟩

/-- ADD to MUL. -/
theorem alu_writes {w : Nat} (bad : Bool) (fs : List Nat) (hregs : ∀ k, sReg u k < 2 ^ 32) (h1 : 1 ≤ bitsAt w 26 6) (h9 : bitsAt w 26 6 ≤ 9)
    (hr : bitsAt w 0 11 = 0) :
    WriteStep s (scalarExec s c (noteFails u fs) w bad) c u (bitsAt w 21 5)
      (aluWord (bitsAt w 26 6) (word (sReg u (bitsAt w 16 5))) (word (sReg u (bitsAt w 11 5)))) := by
  obtain ⟨b, hb⟩ := scalarExec_alu s c (noteFails u fs) bad h1 h9 hr
  rw [hb]
  exact writeStep_of hlen hended b (bitsAt_lt _ _ _) (scalarAlu_eq h1 h9 (hregs _) (hregs _)) fs

theorem addi_writes {w : Nat} (bad : Bool) (fs : List Nat) (h : bitsAt w 26 6 = 0x0A) :
    WriteStep s (scalarExec s c (noteFails u fs) w bad) c u (bitsAt w 21 5)
      (word (sReg u (bitsAt w 16 5)) + immWord (bitsAt w 0 16)) := by
  obtain ⟨b, hb⟩ := scalarExec_addi s c (noteFails u fs) bad h
  rw [hb]
  refine writeStep_of hlen hended b (bitsAt_lt _ _ _) ?_ fs
  rw [plusImm_eq]
  exact Nat.mod_eq_of_lt (BitVec.isLt _)

theorem lui_writes {w : Nat} (bad : Bool) (fs : List Nat) (h : bitsAt w 26 6 = 0x0B) :
    WriteStep s (scalarExec s c (noteFails u fs) w bad) c u (bitsAt w 21 5) (BitVec.ofNat 32 (bitsAt w 0 16 * 65536)) := by
  rw [scalarExec_lui s c (noteFails u fs) bad h]
  exact writeStep_of hlen hended bad (bitsAt_lt _ _ _) (BitVec.toNat_ofNat _ _).symm fs

theorem ori_writes {w : Nat} (bad : Bool) (fs : List Nat) (hregs : ∀ k, sReg u k < 2 ^ 32) (h : bitsAt w 26 6 = 0x0C) :
    WriteStep s (scalarExec s c (noteFails u fs) w bad) c u (bitsAt w 21 5)
      (word (sReg u (bitsAt w 16 5)) ||| BitVec.ofNat 32 (bitsAt w 0 16)) := by
  obtain ⟨b, hb⟩ := scalarExec_ori s c (noteFails u fs) bad h
  rw [hb]
  refine writeStep_of hlen hended b (bitsAt_lt _ _ _) ?_ fs
  have himm : bitsAt w 0 16 < 2 ^ 32 := Nat.lt_trans (bitsAt_lt w 0 16) (by decide)
  rw [BitVec.toNat_or, word_toNat (hregs _), BitVec.toNat_ofNat, Nat.mod_eq_of_lt himm]
  exact Nat.mod_eq_of_lt (Nat.or_lt_two_pow (hregs _) himm)

/-- The result of an instruction that writes a register. -/
def resultWord (op : Nat) (a b imm : BitVec 32) (n : Nat) : BitVec 32 :=
  match op with
  | 0x0A => a + imm
  | 0x0B => BitVec.ofNat 32 (n * 65536)
  | 0x0C => a ||| BitVec.ofNat 32 n
  | _ => aluWord op a b

/-- ADD to ORI. -/
theorem result_writes {w : Nat} (bad : Bool) (fs : List Nat) (hregs : ∀ k, sReg u k < 2 ^ 32) (h1 : 1 ≤ bitsAt w 26 6)
    (h12 : bitsAt w 26 6 ≤ 0x0C) (hr : bitsAt w 26 6 ≤ 9 → bitsAt w 0 11 = 0) :
    WriteStep s (scalarExec s c (noteFails u fs) w bad) c u (bitsAt w 21 5) (resultWord (bitsAt w 26 6)
      (word (sReg u (bitsAt w 16 5))) (word (sReg u (bitsAt w 11 5))) (immWord (bitsAt w 0 16)) (bitsAt w 0 16)) := by
  by_cases h9 : bitsAt w 26 6 ≤ 9
  · have halu := alu_writes (s := s) (c := c) hlen hended bad fs hregs h1 h9 (hr h9)
    generalize bitsAt w 26 6 = op at *
    obtain rfl | rfl | rfl | rfl | rfl | rfl | rfl | rfl | rfl :
        op = 1 ∨ op = 2 ∨ op = 3 ∨ op = 4 ∨ op = 5 ∨ op = 6 ∨ op = 7 ∨ op = 8 ∨ op = 9 := by omega
    all_goals exact halu
  · obtain h | h | h : bitsAt w 26 6 = 0x0A ∨ bitsAt w 26 6 = 0x0B ∨ bitsAt w 26 6 = 0x0C := by omega
    · rw [h]
      exact addi_writes hlen hended bad fs h
    · rw [h]
      exact lui_writes hlen hended bad fs h
    · rw [h]
      exact ori_writes hlen hended bad fs hregs h

/-- LD8 to LD64. -/
theorem load_writes {w m : Nat} (bad : Bool) (fs : List Nat) (hm : m < 4) (h : bitsAt w 26 6 = 0x10 + m) {a : Nat}
    (ha : a = plusImm (sReg u (bitsAt w 16 5)) (bitsAt w 0 16)) (hok : accessBad (2 ^ m) a (bitsAt w 21 5) = false)
    (hfree : rowBusy u (a / 64) false = false) (hpair : m = 3 → bitsAt w 21 5 % 2 = 0)
    (hecc : ∀ y ∈ s.eccBad, y.addr / 64 ∉ gransOf (spmOf c + a) (2 ^ m)) :
    let t := scalarExec s c (noteFails u fs) w bad
    let v := leNat (getBytes s (spmOf c + a) (2 ^ m))
    t = { s with cores := t.cores } ∧ ∃ u', (coreOf t c).unit = some u' ∧ u'.pc = u.pc + 1 ∧ u'.ended = false ∧
      (∀ k < 32, sReg u' k = if k = bitsAt w 21 5 ∧ k ≠ 0 then v % 2 ^ 32
        else if m = 3 ∧ k = bitsAt w 21 5 + 1 then v / 2 ^ 32 else sReg u k) := by
  intro t v
  subst ha
  obtain ⟨b, hb⟩ := scalarExec_access s c (noteFails u fs) bad hm false (h.trans (Nat.add_zero _).symm) hok hfree
  obtain ⟨gs, b', hload⟩ := scalarLoad_clean (noteFails u fs) (bitsAt w 21 5) b hecc
  have ht : t = setUnit s c (some (stepUnit (loadedUnit (noteFails (noteFails u fs) gs) (2 ^ m) v (bitsAt w 21 5) b'))) :=
    hb.trans hload
  obtain ⟨hpc, hend⟩ := loadedUnit_frame (noteFails (noteFails u fs) gs) (2 ^ m) v (bitsAt w 21 5) b'
  have hv : v < 2 ^ (8 * 2 ^ m) := by
    have hlt := leNat_lt (getBytes s (spmOf c + plusImm (sReg u (bitsAt w 16 5)) (bitsAt w 0 16)) (2 ^ m))
    rwa [getBytes, memRead_length] at hlt
  rw [ht]
  exact ⟨setUnit_frame _ _ _, _, setUnit_unit _ _ _, congrArg (· + 1) hpc, hend.trans hended,
    fun k _ => sReg_loadedUnit (u := noteFails (noteFails u fs) gs) b' hlen (bitsAt_lt _ _ _) hm hpair hv k⟩

end

/-- ST8 to ST64. -/
theorem store_writes {s : State} {c w m : Nat} (u : CoreUnit) (bad : Bool) (fs : List Nat) (hm : m < 4) (h : bitsAt w 26 6 = 0x14 + m) {a : Nat}
    (ha : a = plusImm (sReg u (bitsAt w 16 5)) (bitsAt w 0 16)) (hok : accessBad (2 ^ m) a (bitsAt w 21 5) = false)
    (hfree : rowBusy u (a / 64) true = false) :
    let t := scalarExec s c (noteFails u fs) w bad
    memRead t.mem (spmOf c + a) (2 ^ m) =
        leBytes (2 ^ m) (sReg u (bitsAt w 21 5) + (if m = 3 then sReg u (bitsAt w 21 5 + 1) * 2 ^ 32 else 0)) ∧
      (∃ u', (coreOf t c).unit = some u' ∧ u'.pc = u.pc + 1 ∧ u'.regs = u.regs) ∧
      (∀ k, (k < spmOf c + a ∨ spmOf c + a + 2 ^ m ≤ k) → memByte t.mem k = memByte s.mem k) := by
  intro t
  subst ha
  obtain ⟨b, hb⟩ := scalarExec_access s c (noteFails u fs) bad hm true (by rw [h, if_pos rfl]; omega) hok hfree
  obtain ⟨hmem, hunit, hother⟩ := scalarStore_leaves s c (noteFails u fs) (2 ^ m)
    (plusImm (sReg u (bitsAt w 16 5)) (bitsAt w 0 16)) (bitsAt w 21 5) b
  have ht : t = scalarStore s c (noteFails u fs) (2 ^ m) (plusImm (sReg u (bitsAt w 16 5)) (bitsAt w 0 16)) (bitsAt w 21 5) b := hb
  have h8 := pow_eq_eight hm
  rw [ht]
  refine ⟨hmem.trans (congrArg (fun n => leBytes (2 ^ m) (sReg u (bitsAt w 21 5) + n)) ?_), ⟨_, hunit, rfl, rfl⟩, hother⟩
  exact ite_congr (propext h8) (fun _ => rfl) (fun _ => rfl)

theorem accessBad_of {m a rd : Nat} (hm : m < 4) (ha : a % 2 ^ m = 0) (hend : a + 2 ^ m ≤ spmSize) (hpair : m = 3 → rd % 2 = 0) :
    accessBad (2 ^ m) a rd = false := by
  unfold accessBad
  rw [ha, decide_eq_false (Nat.not_lt_of_le hend)]
  by_cases h : m = 3
  · rw [hpair h]
    simp
  · have h8 : (2 ^ m == 8) = false := beq_eq_false_iff_ne.2 (mt (pow_eq_eight hm).1 h)
    rw [h8]
    rfl

/-! ### O47 -/

/-- Settles O47: each step of a unit of work is read off its core, by the opcode for scalar instructions. -/
theorem coresRunUnitsOfWork : Obligations.CoresRunUnitsOfWork := by
  unfold Obligations.CoresRunUnitsOfWork
  refine ⟨?_, ?_, ?_, ?_, ?_, ?_, ?_⟩
  · intro s c u hu hb hi
    have hev := EventsOnly.emitTrace (begunCore s c u) 0 c false 0 (unitWork (beginUnit s u)) []
    have hcore := begunCore_core s c u
    have hsame : ∀ k, coreOf (emitTrace (begunCore s c u) 0 c false 0 (unitWork (beginUnit s u)) []) k =
        coreOf (begunCore s c u) k := fun k => coreOf_congr hev.doubt.cores k
    refine ⟨_, congrArg Host.Outcome.next (doCoreUnitStart_eq hu hb hi), ?_, ?_⟩
    · rw [emitTrace_trace]
      rfl
    · rw [hsame, hcore]
      exact ⟨rfl, rfl, rfl, rfl, rfl, rfl, rfl, rfl, fun k hk => (hsame k).trans (begunCore_other s u hk)⟩
  · rintro s0 s ecc c u rfl hu hb he hp hi hpc hend hregs hlen hecc
    obtain ⟨fs, bad, hdo⟩ := doScalarInstruction_eq hu hb he hp hi hpc hend hecc
    have hexec : exec (.scalarInstruction c ecc) s0 = .next (doScalarInstruction c (plant ecc s0)) := rfl
    generalize plant ecc s0 = s at *
    intro w op rd a b imm addr wr
    have haddr : addr = plusImm (sReg u (bitsAt w 16 5)) (bitsAt w 0 16) := (plusImm_eq _ _).symm
    refine ⟨scalarExec s c (noteFails u fs) w bad, hexec.trans (congrArg Host.Outcome.next hdo), (scalarExec_onCore _ _ _ _ _).other, fun hle hres => ?_, fun m hm hal hfit hpair => ?_,
      fun h1 h2 => ?_, fun h => ?_⟩
    · by_cases h0 : op = 0
      · rw [scalarExec_end s c (noteFails u fs) bad h0]
        have hne : ∀ k, k ≠ 0 → op ≠ k := fun k hk h => hk (h.symm.trans h0)
        refine ⟨setUnit_frame _ _ _, _, setUnit_unit _ _ _, rfl, rfl, fun _ => ⟨rfl, rfl⟩, ?_⟩
        refine ⟨?_, ?_, ?_, ?_, ?_, ?_, ?_, ?_, ?_, ?_, ?_, ?_⟩
        all_goals exact fun h => (hne _ (by decide) h).elim
      · obtain ⟨hframe, u', hunit, hissued, hops, hwrote⟩ :=
          result_writes (s := s) (c := c) hlen he bad fs hregs (Nat.pos_of_ne_zero h0) hle (hres (Nat.pos_of_ne_zero h0))
        have hwr : ∀ k, op = k → RegWrote u u' rd (resultWord k a b imm (bitsAt w 0 16)) := fun k hk => hk ▸ hwrote
        exact ⟨hframe, u', hunit, hissued, hops, fun h => (h0 h).elim, hwr 1, hwr 2, hwr 3, hwr 4, hwr 5, hwr 6, hwr 7, hwr 8,
          hwr 9, hwr 0x0A, hwr 0x0B, hwr 0x0C⟩
    · have hok := accessBad_of (rd := rd) hm hal hfit hpair
      exact ⟨fun h hfree hclean => load_writes hlen he bad fs hm h haddr hok hfree hpair hclean,
        fun h hfree => store_writes u bad fs hm h haddr hok hfree⟩
    · have hiff := branchTaken_eq h1 h2 (hregs (bitsAt w 16 5)) (hregs rd)
      refine ⟨fun hnot => ?_, fun htaken p hpc' hlt => ?_⟩
      · have hpass := scalarExec_pass s c (noteFails u fs) bad h1 h2 (Bool.eq_false_iff.mpr fun ht => hnot (hiff.mp ht))
        rw [hpass]
        exact ⟨setUnit_frame _ _ _, _, setUnit_unit _ _ _, rfl, rfl, he⟩
      · have hbranch := scalarExec_branch s c (noteFails u fs) bad h1 h2 (hiff.mpr htaken) (p := p)
          (by rw [signedOf_eq_toInt 15]; exact hpc') hlt
        rw [hbranch]
        exact ⟨setUnit_frame _ _ _, _, setUnit_unit _ _ _, rfl, rfl, he⟩
    · rw [scalarExec_issue s c (noteFails u fs) bad h, haddr]
      exact ⟨setUnit_frame _ _ _, _, setUnit_unit _ _ _, rfl, rfl⟩
  · rintro s0 s ecc c row u hu hi hp hrow rfl
    have hdo : doIssue c (plant ecc s0) = issueRecord (meetRecord (plant ecc s0) c (64 * row)) c u row :=
      (doIssue_eq hu ((plant_runs _ _ _).trans hi) hp).trans (issueRow_eq c u hrow)
    have hexec : exec (.issue c ecc) s0 = .next (doIssue c (plant ecc s0)) := rfl
    generalize meetRecord (plant ecc s0) c (64 * row) = s at *
    intro bad r
    rw [hexec, hdo]
    refine ⟨fun hbad href hfull => ?_, fun hbad href hfull => ?_, fun st hst => ?_⟩
    · rw [issueRecord_full hbad href hfull]
    · exact ⟨_, _, opOfRecord s c u r, congrArg Host.Outcome.next (issueRecord_queued hbad href hfull), setUnit_frame _ _ _, setUnit_unit _ _ _, rfl,
        rfl, rfl, rfl, rfl, rfl, rfl, rfl, rfl⟩
    · obtain ⟨⟨u', hunit, hended, hstatus, hops⟩, hopen⟩ := endEarly_leaves s c
        { notedUnit s c u row with issued := u.issued + 1 } (recOpcode r) st u.issued
      exact ⟨_, u', congrArg Host.Outcome.next (issueRecord_refused hst), hunit, hended, hstatus, hops, hopen⟩
  · intro s c i v u o hu hfind hget hi hfree
    refine ⟨?_, ?_⟩
    · rintro rfl hfree'
      exact congrArg Host.Outcome.next (doOpStart_array hu hfind hget hi hfree hfree')
    · rintro rfl p hp
      exact congrArg Host.Outcome.next (doOpStart_pipe hu hfind hget hi hfree hp)
  · intro s s1 c k parity ecc u o rep hu hi hfind hrun
    have hu' : (coreOf (plant ecc s) c).unit = some u := by rw [coreOf_congr (plant_cores ecc s), hu]
    have hdo := (doOpComplete_eq parity hu' hfind ((plant_runs _ _ _).trans hi)).trans (finishOp_eq hrun)
    have hreads : ReadsOnly (plant ecc s) (meet (opReadsGran c o) (plant ecc s)) := meet_reads _ _
    have hon : OnCore c (plant ecc s) s1 := by
      have h := runOp_onCore (meet (opReadsGran c o) (plant ecc s)) c u o none parity
      rw [hrun] at h
      exact hreads.onCore.trans h
    have hd := coreParities_only (List.range rep.tiles) (setUnit s1 c (some (ranUnit s1 c u o rep))) c (ranUnit s1 c u o rep) o
    have hissue : o.issueNo = k := by
      have h := List.find?_some hfind
      simp only [Bool.and_eq_true, beq_iff_eq] at h
      exact h.1.1
    have hall := (hon.trans (setUnit_onCore s1 c (some (ranUnit s1 c u o rep)))).trans hd.onCore
    refine ⟨_, ranUnit s1 c u o rep, congrArg Host.Outcome.next hdo, ?_, fun e he => ?_, fun e he hne => ?_, fun j hj => ?_,
      fun hop => ⟨?_, ranUnit_post s1 c rep hop⟩, fun hop => ⟨hd.mem, ?_⟩, ?_, ?_, ?_, ?_⟩
    · rw [coreOf_congr hd.cores, setUnit_unit]
    · rw [ranUnit_ops] at he
      obtain ⟨hmem, hne⟩ := List.mem_filter.mp he
      exact ⟨hmem, fun h => (bne_iff_ne.mp hne) (h.trans hissue.symm)⟩
    · rw [ranUnit_ops]
      exact List.mem_filter.mpr ⟨he, bne_iff_ne.mpr fun h => hne (h.trans hissue)⟩
    · rw [hall.other j hj, coreOf_congr (plant_cores ecc s)]
    · rw [runOp_post none parity hop] at hrun
      cases hrun
      exact hd.mem.trans ((meet_mem _ _).trans (plant_mem ecc s))
    · obtain ⟨hpar, hacc, hout⟩ := ranUnit_counts s1 c u rep hop
      exact ⟨hpar, hacc, hout, fun hpos => coreParities_open hpos _ _ _ _⟩
    · rw [hall.work.plan.graphs, plant_frame]
    · rw [hall.work.plan.nodes, plant_frame]
    · rw [hall.work.frame.pool, plant_frame]
    · rw [hall.work.plan.time, plant_frame]
  · rintro s s1 ecc c u o x hu hfind hx hi hi1 hacc rfl
    have hplant := plant_frame ecc s
    have hu' : (coreOf (plant ecc s) c).unit = some u := by rw [coreOf_congr (plant_cores ecc s), hu]
    have hx' : spawnItem (plant ecc s) c u (fieldAt o.record 16 2) = some x :=
      (spawnItem_congr (plant_mem ecc s) (by rw [hplant]) c u _).trans hx
    have hpool : (plant ecc s).pool = s.pool := by rw [hplant]
    have hdo := doSpawn_eq hu' hfind hx' ((plant_runs _ _ _).trans hi) ((plant_runs _ _ _).trans hi1)
      ((acceptable_congr hpool x).trans hacc)
    have hq : (meetRange (spmOf c + 64 * fieldAt o.record 16 2) 16 (plant ecc s)).pool = s.pool :=
      (meetRange_reads _ _ _).pool.trans hpool
    refine ⟨_, _, congrArg Host.Outcome.next hdo, ?_, spawnItem_bytes hx, setUnit_unit _ _ _, fun e he => ?_⟩
    · rw [setUnit_frame, hq]
    · exact bne_iff_ne.mp (List.mem_filter.mp he).2
  · intro s c u hu hb he ho hi
    obtain ⟨hon, hunit, hcount⟩ := closedUnit_leaves s c u
    have hdo := doCoreUnitComplete_eq hu hb he ho hi
    have hmem' : (bump (closeUnit s c u) 0 c 4 1).mem = s.mem := (EventsOnly.bump _ 0 c 4 1).doubt.mem.trans (closeUnit_mem s c u)
    generalize bump (closeUnit s c u) 0 c 4 1 = q at *
    obtain ⟨hcores, hmem, htrace⟩ := unitSignal_leaves q c u
    refine ⟨_, congrArg Host.Outcome.next hdo, ?_, fun k hk => ?_, hmem.trans hmem',
      counted_stand hcount htrace, fun n y q hw hy hq => unitSignal_node c hw ?_ hq⟩
    · rw [coreOf_congr hcores, hunit]
    · rw [coreOf_congr hcores, hon.other k hk]
    · rw [hon.work.plan.nodes, hy]

end Sys2Proof.Machine
end

section
/-! PROOFS. What an engine's run can change (R115 to R168): memory, flags, queues and counts, and neither the schedule nor
the engines themselves. -/

namespace Sys2Proof.Machine

open Sys2Proof

/-- The schedule and the engines stand: nodes, graphs, device time, engines and the pool. -/
structure RunStands (s t : State) : Prop where
  nodes : t.nodes = s.nodes
  graphs : t.graphs = s.graphs
  time : t.time = s.time
  engines : t.engines = s.engines
  pool : t.pool = s.pool

theorem RunStands.refl (s : State) : RunStands s s := ⟨rfl, rfl, rfl, rfl, rfl⟩

theorem RunStands.trans {s t u : State} (h : RunStands s t) (k : RunStands t u) : RunStands s u :=
  ⟨k.nodes.trans h.nodes, k.graphs.trans h.graphs, k.time.trans h.time, k.engines.trans h.engines, k.pool.trans h.pool⟩

theorem RunStands.behind {s t u : State} (k : RunStands t u) (h : RunStands s t) : RunStands s u := h.trans k

theorem RunStands.foldl {α : Type} {f : State → α → State} (hf : ∀ s x, RunStands s (f s x)) (l : List α) (s : State) :
    RunStands s (l.foldl f s) := by
  induction l generalizing s with
  | nil => exact .refl s
  | cons x l ih => exact (hf s x).trans (ih _)

theorem RunStands.foldlFst {α β : Type} {f : State × β → α → State × β} (hf : ∀ p x, RunStands p.1 (f p x).1) (l : List α)
    (p : State × β) : RunStands p.1 (l.foldl f p).1 := by
  induction l generalizing p with
  | nil => exact .refl p.1
  | cons x l ih => exact (hf p x).trans (ih _)

theorem RunStands.ite {s a b : State} {c : Prop} [Decidable c] (ha : RunStands s a) (hb : RunStands s b) :
    RunStands s (if c then a else b) := by
  split
  · exact ha
  · exact hb

theorem RunStands.iteFst {β : Type} {s : State} {a b : State × β} {c : Prop} [Decidable c] (ha : RunStands s a.1)
    (hb : RunStands s b.1) : RunStands s (if c then a else b).1 := by
  split
  · exact ha
  · exact hb

theorem ReadsOnly.stands {s t : State} (h : ReadsOnly s t) : RunStands s t := ⟨h.nodes, h.graphs, h.time, h.engines, h.pool⟩

theorem DoubtOnly.stands {s t : State} (h : DoubtOnly s t) : RunStands s t := h.reads.stands

theorem EventsOnly.stands {s t : State} (h : EventsOnly s t) : RunStands s t := h.reads.stands

theorem FlagOnly.stands {s t : State} (h : FlagOnly s t) : RunStands s t :=
  ⟨h.sync.notice.nodes, h.sync.graphs, h.sync.notice.time, h.sync.notice.frame.engines, h.sync.notice.frame.pool⟩

theorem WorkOnly.stands {s t : State} (h : WorkOnly s t) : RunStands s t :=
  ⟨h.plan.nodes, h.plan.graphs, h.plan.time, h.frame.engines, h.frame.pool⟩

/-! ### Reads and writes of planes -/

/-- What only reads: the reads of planes, headers and meshes. -/
theorem ReadsOnly.foldlFst {α β : Type} {f : State × β → α → State × β} (hf : ∀ p x, ReadsOnly p.1 (f p x).1) (l : List α)
    (p : State × β) : ReadsOnly p.1 (l.foldl f p).1 := by
  induction l generalizing p with
  | nil => exact .refl p.1
  | cons x l ih => exact (hf p x).trans (ih _)

theorem readRow_reads (s : State) (dom : Nat) (r : PRef) (a : Nat) : ReadsOnly s (readRow s dom r a).1 := by
  unfold readRow
  refine .foldlFst ?_ _ _
  intro q k
  exact readLocal_reads _ _ _ _

theorem readPlane_reads (s : State) (dom : Nat) (r : PRef) (slot p : Nat) : ReadsOnly s (readPlane s dom r slot p).1 := by
  unfold readPlane
  refine .foldlFst ?_ _ _
  intro q k
  exact readRow_reads _ _ _ _

theorem readPlanes_reads (s : State) (dom : Nat) (r : PRef) (slot : Nat) : ReadsOnly s (readPlanes s dom r slot).1 := by
  unfold readPlanes
  refine .foldlFst ?_ _ _
  intro q k
  exact readPlane_reads _ _ _ _ _

theorem readHeaders_reads (s : State) (dom : Nat) (d : List Byte) (f : Nat) : ReadsOnly s (readHeaders s dom d f).1 := by
  unfold readHeaders
  refine .foldlFst ?_ _ _
  intro q k
  exact readLocal_reads _ _ _ _

theorem readMaps_reads (s : State) (dom : Nat) (d : List Byte) : ReadsOnly s (readMaps s dom d).1 := by
  unfold readMaps
  refine .foldlFst ?_ _ _
  intro q k
  exact readLocal_reads _ _ _ _

theorem writeLocal_stands (s : State) (dom a : Nat) (bs : List Byte) (p : Bool) : RunStands s (writeLocal s dom a bs p).1 := by
  unfold writeLocal
  dsimp only
  have hacc := (access_only s dom true a bs.length).stands
  split
  · exact RunStands.behind (t := meetMerge a bs.length (access s dom true a bs.length).1) ⟨rfl, rfl, rfl, rfl, rfl⟩
      ((meetMerge_reads _ _ _).stands.behind hacc)
  · exact hacc

theorem writeRow_stands (s : State) (dom fmt a : Nat) (row : List Px) : RunStands s (writeRow s dom fmt a row).1 := by
  unfold writeRow
  refine .foldlFst ?_ _ (s, 0)
  intro q k
  exact writeLocal_stands _ _ _ _ _

theorem writePlane_stands (s : State) (dom : Nat) (r : PRef) (slot p : Nat) (g : Grid) :
    RunStands s (writePlane s dom r slot p g).1 := by
  unfold writePlane
  refine .foldlFst ?_ _ (s, 0)
  intro q k
  exact writeRow_stands _ _ _ _ _

theorem writePlanes_stands (s : State) (dom : Nat) (r : PRef) (slot : Nat) (gs : List Grid) :
    RunStands s (writePlanes s dom r slot gs).1 := by
  unfold writePlanes
  refine .foldlFst ?_ _ (s, 0)
  intro q k
  exact writePlane_stands _ _ _ _ _ _

theorem writeList_stands (s : State) (dom a : Nat) (bs : List Byte) (bad : Bool) : RunStands s (writeList s dom a bs bad).1 := by
  unfold writeList
  refine .foldlFst ?_ _ (s, 0)
  intro q k
  exact writeLocal_stands _ _ _ _ _

/-! ### Runs -/

/-- A step of a run whose result is named. -/
theorem RunStands.of_eq {β : Type} {s t : State} {x : State × β} {b : β} (h : RunStands s x.1) (hx : x = (t, b)) : RunStands s t := by
  rw [hx] at h
  exact h

theorem runPyr_stands (s : State) (dom : Nat) (r : EngRun) : RunStands s (runPyr s dom r).1 := by
  unfold runPyr
  refine RunStands.behind (.foldlFst ?_ _ _) (readPlanes_reads _ _ _ _).stands
  intro q k
  exact writePlanes_stands _ _ _ _ _

theorem runWarpSide_stands (s : State) (dom : Nat) (r : EngRun) (i so d m : Nat) : RunStands s (runWarpSide s dom r i so d m).1 := by
  unfold runWarpSide
  extract_lets desc src dst interp slot
  split
  next mp mbad hm =>
  split
  next s1 gs h1 =>
  extract_lets coords taps out
  split
  next s2 k h2 =>
  exact ((readPlanes_reads s dom src slot).stands.of_eq h1).trans ((writePlanes_stands _ _ _ _ _).of_eq h2)

theorem runWrp_stands (s : State) (dom : Nat) (r : EngRun) : RunStands s (runWrp s dom r).1 := by
  unfold runWrp
  split
  next s1 a h1 =>
  have hs1 := (runWarpSide_stands s dom r 0 48 80 176).of_eq h1
  split
  · split
    next s2 b h2 => exact hs1.trans ((runWarpSide_stands s1 dom r 1 112 144 216).of_eq h2)
  · exact hs1

theorem runFlw_stands (s : State) (dom : Nat) (r : EngRun) : RunStands s (runFlw s dom r).1 := by
  unfold runFlw
  dsimp only
  refine (writePlanes_stands _ _ _ _ _).behind ((writePlanes_stands _ _ _ _ _).behind ?_)
  exact RunStands.behind (.iteFst (readPlanes_reads _ _ _ _).stands (.refl _))
    ((readPlane_reads _ _ _ _ _).stands.behind (readPlane_reads _ _ _ _ _).stands)

theorem runSte_stands (s : State) (dom : Nat) (r : EngRun) : RunStands s (runSte s dom r).1 := by
  unfold runSte
  dsimp only
  refine (writePlanes_stands _ _ _ _ _).behind ((writePlanes_stands _ _ _ _ _).behind ?_)
  exact RunStands.behind (.iteFst (readPlane_reads _ _ _ _ _).stands (.refl _))
    ((readPlane_reads _ _ _ _ _).stands.behind (readPlane_reads _ _ _ _ _).stands)

theorem runFea_stands (s : State) (dom : Nat) (r : EngRun) : RunStands s (runFea s dom r).1 := by
  unfold runFea
  dsimp only
  have hread : RunStands s (if fieldAt r.desc 16 8 = 0 ∨ bitAt (fieldAt r.desc 2 1) 0 = false then
      ((readPlane s dom (pref r.desc 56) (slotOf (pref r.desc 56) r.f 0) (fieldAt r.desc 3 1)).1, Status.ok, [])
      else readLocal (readPlane s dom (pref r.desc 56) (slotOf (pref r.desc 56) r.f 0) (fieldAt r.desc 3 1)).1 dom
        (fieldAt r.desc 16 8) 1024).1 :=
    RunStands.behind (.iteFst (.refl _) (readLocal_reads _ _ _ _).stands) (readPlane_reads _ _ _ _ _).stands
  refine .iteFst hread ?_
  exact (writeList_stands _ _ _ _ _).behind ((writeList_stands _ _ _ _ _).behind hread)

theorem runEngine_stands (s : State) (e dom : Nat) (r : EngRun) : RunStands s (runEngine s e dom r).1 := by
  unfold runEngine
  split
  · exact runPyr_stands _ _ _
  · exact runWrp_stands _ _ _
  · exact runFlw_stands _ _ _
  · exact runSte_stands _ _ _
  · exact runFea_stands _ _ _
  · exact .refl s

/-- The pass of OBX leaves the schedule, and of its run what a start has set. -/
theorem obxPass_stands (s : State) (dom : Nat) (r : EngRun) (n : Nat) :
    RunStands s (obxPass s dom r n).1 ∧ (obxPass s dom r n).2.begun = r.begun ∧ (obxPass s dom r n).2.tBegin = r.tBegin ∧
      (obxPass s dom r n).2.node = r.node ∧ (obxPass s dom r n).2.f = r.f := by
  unfold obxPass
  extract_lets d ctrl sp bp pp slot useDisp
  split
  next s1 src h1 =>
  split
  next s2 bg h2 =>
  split
  next s3 dg h3 =>
  extract_lets px
  split
  next s4 pg h4 =>
  split
  next closed carried h5 =>
  have hs1 : RunStands s s1 := (readPlanes_reads s dom sp slot).stands.of_eq h1
  have hs2 : RunStands s1 s2 := (readPlanes_reads s1 dom bp 0).stands.of_eq h2
  have hs3 : RunStands s2 s3 := by
    refine RunStands.of_eq ?_ h3
    exact .iteFst (readPlane_reads s2 dom pp (slotOf pp r.f 0) 0).stands (.refl s2)
  have hs4 : RunStands s3 s4 := RunStands.of_eq (.iteFst (writePlanes_stands _ _ _ _ _) (.refl s3)) h4
  have hall := ((hs1.trans hs2).trans hs3).trans hs4
  exact ⟨⟨hall.nodes, hall.graphs, hall.time, hall.engines, hall.pool⟩, rfl, rfl, rfl, rfl⟩

/-! ### Headers and flags -/

theorem writeHeaders_stands (s : State) (dom : Nat) (r : EngRun) (ps : List EngRep) : RunStands s (writeHeaders s dom r ps) :=
  .foldl (fun _ _ => writeLocal_stands _ _ _ _ _) _ _

theorem flagSets_stands (l : List Nat) (s : State) (f : Nat) : RunStands s (l.foldl (fun s fl => flagSet s fl f) s) :=
  .foldl (fun _ _ => (flagSet_flag _ _ _).stands) _ _

theorem setBandsTo_stands (s : State) (x : PRef) (f lines : Nat) : RunStands s (setBandsTo s x f lines) :=
  .ite (flagSets_stands _ _ _) (.refl s)

theorem setBands_stands (s : State) (d : List Byte) (f : Nat) : RunStands s (setBands s d f) :=
  .foldl (fun _ _ => setBandsTo_stands _ _ _ _) _ _

theorem setLast_stands (s : State) (d : List Byte) (f : Nat) : RunStands s (setLast s d f) :=
  .foldl (fun s _ => .ite (flagSet_flag _ _ _).stands (.refl s)) _ _

theorem releaseSources_stands (s : State) (d : List Byte) (f n : Nat) : RunStands s (releaseSources s d f n) :=
  .ite (.refl s) (.foldl (fun s _ => .ite (.foldl (fun _ _ => .foldl (fun _ _ => (flagRelease_flag _ _ _).stands) _ _) _ _) (.refl s)) _ _)

/-! ### The end of a run -/

theorem engineEnd_stands (s : State) (e : Nat) (r : EngRun) (n : Nat) (p : EngRep) (st : Status) :
    RunStands s (engineEnd s e r n p st) := by
  unfold engineEnd
  dsimp only
  exact ((((EventsOnly.emitTrace _ _ _ _ _ _ _).trans (.bump _ _ _ _ _)).trans (.bump _ _ _ _ _)).trans (.bump _ _ _ _ _)).trans
    (.bump _ _ _ _ _) |>.stands

theorem nonlocalEvent_stands (s : State) (e : Nat) (r : EngRun) (p : EngRep) : RunStands s (nonlocalEvent s e r p) :=
  .ite (postEvent_only _ _ _ _ _).stands (.refl s)

theorem overflowEvent_stands (s : State) (e : Nat) (r : EngRun) : RunStands s (overflowEvent s e r) :=
  .ite (.refl s) (raiseDoubt_only _ _ _ _ _ _ _ _).stands

theorem runMismatch_stands (s : State) (e : Nat) (fails : List Nat) : RunStands s (runMismatch s e fails) :=
  (travelMismatch_only _ _ _ _ _ _).stands

theorem rulesMismatch_stands (s : State) (e : Nat) (r : EngRun) : RunStands s (rulesMismatch s e r) :=
  .ite (.refl s) ((travelMismatch_only _ _ _ _ _ _).stands.behind ⟨rfl, rfl, rfl, rfl, rfl⟩)

theorem restUndefined_stands (s : State) (x : PRef) (slot lines : Nat) : RunStands s (restUndefined s x slot lines) :=
  .foldl (fun _ _ => .foldl (fun _ _ => (scramble_onCore (c := 0) _ _ _).work.stands) _ _) _ _

theorem stopPlanes_stands (s : State) (c f : Nat) (xs : List PRef) : RunStands s (stopPlanes s c f xs) :=
  .foldl (fun _ _ => (setBandsTo_stands _ _ _ _).behind (restUndefined_stands _ _ _ _)) _ _

theorem stopWork_stands (s : State) (e dom : Nat) (r : EngRun) : RunStands s (stopWork s e dom r).1 := by
  unfold stopWork
  dsimp only
  have hfree : RunStands s { s with freeCnt := s.freeCnt + 1 } := ⟨rfl, rfl, rfl, rfl, rfl⟩
  split
  · exact (scramble_onCore (c := 0) _ _ _).work.stands.behind hfree
  · exact RunStands.ite ((restUndefined_stands _ _ _ _).behind hfree) hfree
  · exact (stopPlanes_stands _ _ _ _).behind ((runEngine_stands _ _ _ _).behind hfree)

end Sys2Proof.Machine
end

section
/-! PROOFS. The rows of an engine's run (R115, R120, R121, R139, R140, R165 to R168, R171), with O48. -/

namespace Sys2Proof.Machine

open Sys2Proof

theorem RunStands.plant (l : List EccHit) (s : State) : RunStands s (plant l s) := by
  rw [plant_frame]
  exact ⟨rfl, rfl, rfl, rfl, rfl⟩

theorem RunStands.bump (s : State) (c u i n : Nat) : RunStands s (bump s c u i n) := (EventsOnly.bump s c u i n).stands

theorem plant_stalled (l : List EccHit) (s : State) (c u : Nat) : unitStalled (plant l s) c u = unitStalled s c u := by
  rw [plant_frame]
  rfl

/-! ### Start -/

/-- A run that has begun at a time, with what it was given. -/
structure Begun (r q : EngRun) (time : Nat) : Prop where
  begun : q.begun = true
  tBegin : q.tBegin = time
  node : q.node = r.node
  f : q.f = r.f

/-- What a start leaves: the run begun, and memory as it was but for OBX. -/
theorem startRun_leaves (s : State) (e : Nat) (r : EngRun) (n : Nat) :
    ∃ t q, startRun s e r n = setEngine t e q ∧ RunStands s t ∧ Begun r q s.time ∧ (e % 6 ≠ 5 → t.mem = s.mem) := by
  unfold startRun
  extract_lets d dom s0
  split
  next s1 hs fails bad h1 =>
  extract_lets a b stale
  split
  next s2 ms mf h2 =>
  extract_lets r1 s3 s4
  have hs0 : EventsOnly s s0 := .emitTrace _ _ _ _ _ _ _
  have hs1 : ReadsOnly s0 s1 := by
    have h := readHeaders_reads s0 dom d r.f
    rw [h1] at h
    exact h
  have hs2 : ReadsOnly s1 s2 := by
    have h := readMaps_reads s1 dom d
    rw [h2] at h
    exact h
  have hs3 : EventsOnly s2 s3 := .bump s2 3 e 1 1
  have hs4 : EventsOnly s3 s4 := by
    simp only [s4]
    split
    · exact (postEvent_only _ _ _ _ _).trans (.bump _ 3 e 5 1)
    · exact .refl s3
  have hreads : ReadsOnly s s4 := hs0.reads.trans (hs1.trans (hs2.trans (hs3.reads.trans hs4.reads)))
  have hbegun : Begun r r1 s.time := ⟨rfl, (hs0.reads.trans (hs1.trans hs2)).time, rfl, rfl⟩
  split
  next h5 =>
    split
    next s5 r5 hobx =>
    obtain ⟨hstands, hb, ht, hn, hf⟩ := obxPass_stands s4 dom r1 n
    rw [hobx] at hstands hb ht hn hf
    exact ⟨s5, r5, rfl, hreads.stands.trans hstands, ⟨hb, ht.trans hbegun.tBegin, hn, hf⟩, fun h => (h h5).elim⟩
  · exact ⟨s4, r1, rfl, hreads.stands, hbegun, fun _ => hreads.mem⟩

/-! ### The end -/

/-- A finished run: everything but the engine and the node is done before they are freed. -/
theorem finishRun_leaves (s : State) (e : Nat) (r : EngRun) (n : Nat) :
    ∃ q, finishRun s e r n = nodeUnitDone (freeEngine q e) n ∧ RunStands s q := by
  unfold finishRun
  extract_lets dom
  split
  next s1 ps h1 =>
  extract_lets p s2 s3 s4 s5
  have hs1 : RunStands s s1 := (runEngine_stands s e dom r).of_eq h1
  have hs2 : RunStands s1 s2 := (rulesMismatch_stands _ _ _).behind (runMismatch_stands _ _ _)
  have hs3 : RunStands s2 s3 := (overflowEvent_stands _ _ _).behind (nonlocalEvent_stands _ _ _ _)
  have hs4 : RunStands s3 s4 := (engineEnd_stands _ _ _ _ _ _).behind ((setLast_stands _ _ _).behind
    ((writeHeaders_stands _ _ _ _).behind (setBands_stands _ _ _)))
  have hs5 : RunStands s4 s5 := .ite (flagSets_stands _ _ _) (.refl s4)
  exact ⟨_, rfl, (releaseSources_stands _ _ _ _).behind ((((hs1.trans hs2).trans hs3).trans hs4).trans hs5)⟩

theorem countDropped_stands (s : State) (n : Nat) : RunStands s (countDropped s n) := ⟨rfl, rfl, rfl, rfl, rfl⟩

/-- A stopped run: the engine is freed, and its sources are released. -/
theorem stopRun_leaves (s : State) (e : Nat) (r : EngRun) (n : Nat) :
    ∃ q, RunStands s q ∧ RunStands (freeEngine q e) (stopRun s e r n) := by
  unfold stopRun
  split
  · exact ⟨s, .refl s, releaseSources_stands _ _ _ _⟩
  · split
    next s1 p h1 =>
    extract_lets s2 s3
    have hs1 : RunStands s s1 := (stopWork_stands s e (nodeDom s n) r).of_eq h1
    have hs2 : RunStands s1 s2 := (overflowEvent_stands _ _ _).behind ((rulesMismatch_stands _ _ _).behind (runMismatch_stands _ _ _))
    have hs3 : RunStands s2 s3 := engineEnd_stands _ _ _ _ _ _
    exact ⟨s3, (hs1.trans hs2).trans hs3, (releaseSources_stands _ _ _ _).behind (countDropped_stands _ _)⟩

theorem freeEngine_same (s : State) (e : Nat) : tabGet? (freeEngine s e).engines e = none := tabGet?_tabErase_same _ _

theorem freeEngine_other (s : State) {e k : Nat} (h : k ≠ e) : tabGet? (freeEngine s e).engines k = tabGet? s.engines k :=
  tabGet?_tabErase_other _ h

theorem nodeUnitDone_stands (s : State) (n : Nat) : (nodeUnitDone s n).engines = s.engines ∧ (nodeUnitDone s n).time = s.time := by
  rw [nodeUnitDone_eq]
  exact ⟨rfl, rfl⟩

/-! ### Objects -/

/-- The run of an emitted object. -/
def emittedRun (s : State) (r : EngRun) (c : Comp) (rest : List Comp) : EngRun :=
  { r with objects := rest, emitted := r.emitted + 1, poisonGran := r.poisonGran + bit01 c.poison,
           ruleBad := r.ruleBad ++ if (tabGet? s.safety.fbc (fieldAt r.desc 11 1)).isNone then []
             else ruleFails s (fieldAt r.desc 11 1) }

/-- The ring address of an object. -/
def objAddr (d : List Byte) (id : Nat) : Nat := fieldAt d 16 8 + id % max 1 (fieldAt d 24 2) * 64

/-- The next OBJ_ID of an object engine's pipe. -/
def objId (s : State) (r : EngRun) : Nat := tabGet 0 s.objNext (fieldAt r.desc 11 1)

/-- The state with an OBJ_ID taken. -/
def numberedObject (w : State) (r : EngRun) (id : Nat) : State :=
  { w with objNext := tabSet (fieldAt r.desc 11 1) ((id + 1) % 2 ^ 32) w.objNext }

/-- The state with an object's record counted in its run. -/
def recordedOn (w : State) (e : Nat) (r : EngRun) (c : Comp) (rest : List Comp) (id : Nat) : State :=
  setEngine (numberedObject w r id) e (emittedRun (numberedObject w r id) r c rest)

/-- The state of an object's record written. -/
def writtenObject (s : State) (r : EngRun) (n : Nat) (c : Comp) : State :=
  (writeLocal s (nodeDom s n) (objAddr r.desc (objId s r)) (objRecord r.desc c (objId s r)).bytes c.poison).1

/-- The item of an object. -/
def objSubmission (s : State) (r : EngRun) (n : Nat) : Submission :=
  { node := n, bytes := objItem r.desc (objId s r) (objAddr r.desc (objId s r)), f := r.f,
    rel := ((tabGet? s.nodes n).bind (fun x => x.run)).elim s.time (fun x => x.rel) }

/-- The stub of an object. -/
def objStub (s : State) (r : EngRun) (c : Comp) (id : Nat) (bad : List Nat) : Stub :=
  let o := objRecord r.desc c id
  { seq := id, frameCnt := o.frameCnt, tObj := o.tObj, tUnc := o.tUnc, pipe := fieldAt r.desc 11 1, flags := o.flags,
    oflags := o.oflags,
    fbClass := if bad.isEmpty then fbVerdict (tabGet? s.safety.fbc (fieldAt r.desc 11 1)) o else 0xFFFF, poison := c.poison }

/-- The state with a stub delivered and an item submitted. -/
def submittedObject (q : State) (flow id : Nat) (st : Stub) (x : Submission) : State :=
  let q := deliverStub q flow st
  { q with ringBusy := q.ringBusy ++ [(flow, id)], pool := { q.pool with subs := q.pool.subs ++ [x] } }

/-- An emitted object: its record, and its stub and item when its objects are work items. -/
theorem emitObject_eq (s : State) (e : Nat) (r : EngRun) (n : Nat) (c : Comp) (rest : List Comp) :
    ∃ st, emitObject s e r n c rest = if ! bitAt (fieldAt r.desc 2 1) 4 then
        recordedOn (writtenObject s r n c) e r c rest (objId s r)
      else submittedObject (recordedOn (writtenObject s r n c) e r c rest (objId s r)) (fieldAt r.desc 12 2) (objId s r) st
        (objSubmission s r n) := by
  unfold emitObject
  extract_lets d pipe flow id o addr rel s1 s2 bad s3 s4
  have h1 : s1 = writtenObject s r n c := rfl
  have h3 : s3 = recordedOn s1 e r c rest id := rfl
  have hq : recordedOn (writtenObject s r n c) e r c rest (objId s r) = s3 := by
    rw [h3, h1]
    rfl
  have h4 : deliverStub s3 (fieldAt r.desc 12 2) (objStub s3 r c id bad) = s4 := rfl
  refine ⟨objStub s3 r c id bad, ?_⟩
  rw [hq, submittedObject, h4]
  clear_value s4
  rfl

/-- What a stub's delivery leaves. -/
theorem deliverStub_leaves (s : State) (flow : Nat) (st : Stub) :
    RunStands s (deliverStub s flow st) ∧ (deliverStub s flow st).mem = s.mem ∧ (deliverStub s flow st).objNext = s.objNext := by
  unfold deliverStub
  split
  · exact ⟨.refl s, rfl, rfl⟩
  · split
    · exact ⟨⟨rfl, rfl, rfl, rfl, rfl⟩, rfl, rfl⟩
    · exact ⟨.refl s, rfl, rfl⟩

/-- The record of an object stands in its ring entry when the access is admitted, and every other byte stays. -/
theorem writeLocal_bytes (s : State) (dom a : Nat) (bs : List Byte) (p : Bool) :
    (accessStatus s dom true a bs.length = .ok → memRead (writeLocal s dom a bs p).1.mem a bs.length = bs) ∧
      (∀ k, (k < a ∨ a + bs.length ≤ k) → memByte (writeLocal s dom a bs p).1.mem k = memByte s.mem k) := by
  by_cases hok : accessStatus s dom true a bs.length = .ok
  · rw [writeLocal_ok p hok]
    refine ⟨fun _ => ?_, fun k hk => ?_⟩
    · rw [putBytes_mem]
      exact memRead_memWrite _ _ _
    · rw [putBytes_byte, dif_neg (by omega), meetMerge_mem]
  · have hmem := (writeLocal_refused p hok).1.doubt.mem
    exact ⟨fun h => (hok h).elim, fun k _ => by rw [hmem]⟩

/-- What the record of an object leaves. -/
structure Recorded (w t : State) (e : Nat) (r : EngRun) (rest : List Comp) (id : Nat) : Prop where
  engine : ∃ q, tabGet? t.engines e = some q ∧ q.objects = rest ∧ q.emitted = r.emitted + 1
  next : tabGet 0 t.objNext (fieldAt r.desc 11 1) = (id + 1) % 2 ^ 32
  mem : t.mem = w.mem

theorem recordedOn_recorded (w : State) (e : Nat) (r : EngRun) (c : Comp) (rest : List Comp) (id : Nat) :
    Recorded w (recordedOn w e r c rest id) e r rest id ∧ (recordedOn w e r c rest id).pool = w.pool :=
  ⟨⟨⟨_, tabGet?_tabSet_same _ _ _, rfl, rfl⟩, tabGet_tabSet_same _ _ _ _, rfl⟩, rfl⟩

theorem submittedObject_recorded {w q : State} {e : Nat} {r : EngRun} {rest : List Comp} {id : Nat} (h : Recorded w q e r rest id)
    (flow k : Nat) (st : Stub) (x : Submission) :
    Recorded w (submittedObject q flow k st x) e r rest id ∧ (submittedObject q flow k st x).pool.subs = q.pool.subs ++ [x] := by
  obtain ⟨hstands, hmem, hnext⟩ := deliverStub_leaves q flow st
  refine ⟨⟨?_, ?_, ?_⟩, ?_⟩
  · rw [show (submittedObject q flow k st x).engines = q.engines from hstands.engines]
    exact h.engine
  · rw [show (submittedObject q flow k st x).objNext = q.objNext from hnext]
    exact h.next
  · rw [show (submittedObject q flow k st x).mem = q.mem from hmem]
    exact h.mem
  · rw [← hstands.pool]
    rfl

theorem writtenObject_pool (s : State) (r : EngRun) (n : Nat) (c : Comp) : (writtenObject s r n c).pool = s.pool := by
  unfold writtenObject
  exact (writeLocal_stands _ _ _ _ _).pool

/-- What an emitted object leaves: its record, and its item when its objects are work items. -/
theorem emitObject_leaves (s : State) (e : Nat) (r : EngRun) (n : Nat) (c : Comp) (rest : List Comp) :
    Recorded (writtenObject s r n c) (emitObject s e r n c rest) e r rest (objId s r) ∧
      (bitAt (fieldAt r.desc 2 1) 4 = true → (emitObject s e r n c rest).pool.subs = s.pool.subs ++ [objSubmission s r n]) ∧
      (bitAt (fieldAt r.desc 2 1) 4 = false → (emitObject s e r n c rest).pool = s.pool) := by
  obtain ⟨st, hemit⟩ := emitObject_eq s e r n c rest
  obtain ⟨hrec, hpool⟩ := recordedOn_recorded (writtenObject s r n c) e r c rest (objId s r)
  have hpool' := hpool.trans (writtenObject_pool s r n c)
  cases h : bitAt (fieldAt r.desc 2 1) 4 with
  | false =>
    rw [if_pos (by rw [h]; rfl)] at hemit
    rw [hemit]
    exact ⟨hrec, fun h => (by cases h), fun _ => hpool'⟩
  | true =>
    rw [if_neg (by rw [h]; decide)] at hemit
    rw [hemit]
    obtain ⟨hrec', hsubs⟩ := submittedObject_recorded hrec (fieldAt r.desc 12 2) (objId s r) st (objSubmission s r n)
    exact ⟨hrec', fun _ => by rw [hsubs, hpool'], fun h => (by cases h)⟩

/-! ### O48 -/

/-- Settles O48: an engine's run keeps the schedule and the other engines while it reads, writes and ends. -/
theorem enginesRunTheirNodes : Obligations.EnginesRunTheirNodes := by
  unfold Obligations.EnginesRunTheirNodes
  refine ⟨?_, ?_, ?_⟩
  · intro s e n r ecc hr hn hb hstop hi hstall
    have hplant := RunStands.plant ecc s
    have hdo : doEngineRunStart e (plant ecc s) = startRun (plant ecc s) e r n := by
      unfold doEngineRunStart
      rw [hplant.engines, hr]
      dsimp only
      rw [hn]
      dsimp only
      rw [if_neg (by rw [hb, hstop, plant_runs, hi, plant_stalled, hstall]; decide)]
    obtain ⟨t, q, ht, hstands, hbegun, hmem⟩ := startRun_leaves (plant ecc s) e r n
    have hall := hplant.trans hstands
    refine ⟨_, q, congrArg Host.Outcome.next (hdo.trans ht), tabGet?_tabSet_same _ _ _, hbegun.begun,
      hbegun.tBegin.trans hplant.time, hbegun.node.trans hn, hbegun.f, fun k hk => ?_, fun he => (hmem he).trans (plant_mem ecc s),
      hall.graphs, hall.nodes, hall.time⟩
    exact (tabGet?_tabSet_other _ _ hk).trans (congrArg (tabGet? · k) hall.engines)
  · intro s e n r ecc hr hn hi hstall
    have hplant := RunStands.plant ecc s
    have hdo : doEngineRunDone e (plant ecc s) = if r.stopping then stopRun (plant ecc s) e r n
        else if ! r.begun || ! r.objects.isEmpty || s.pool.subs.any (fun x => x.node == n) then plant ecc s
        else finishRun (plant ecc s) e r n := by
      unfold doEngineRunDone
      rw [hplant.engines, hr]
      dsimp only
      rw [hn]
      dsimp only
      rw [if_neg (by rw [plant_runs, hi, plant_stalled, hstall]; decide), hplant.pool]
    refine ⟨fun hstop hb hobj hsubs => ?_, fun hstop => ?_⟩
    · have hany : s.pool.subs.any (fun x => x.node == n) = false :=
        List.any_eq_false.mpr fun x hx => by simpa using hsubs x hx
      rw [if_neg (by rw [hstop]; decide), if_neg (by rw [hb, hobj, hany]; decide)] at hdo
      obtain ⟨q, hq, hstands⟩ := finishRun_leaves (plant ecc s) e r n
      have hall := hplant.trans hstands
      obtain ⟨hengines, htime⟩ := nodeUnitDone_stands (freeEngine q e) n
      refine ⟨_, congrArg Host.Outcome.next (hdo.trans hq), ?_, fun k hk => ?_, htime.trans hall.time, fun y z hy hz => ?_⟩
      · rw [hengines, freeEngine_same]
      · rw [hengines, freeEngine_other _ hk, hall.engines]
      · exact nodeUnitDone_node ((congrArg (tabGet? · n) hall.nodes).trans hy) hz
    · rw [if_pos hstop] at hdo
      obtain ⟨q, hstands, hfree⟩ := stopRun_leaves (plant ecc s) e r n
      have hall := hplant.trans hstands
      refine ⟨_, congrArg Host.Outcome.next hdo, ?_, fun k hk => ?_, hfree.nodes.trans hall.nodes, hfree.time.trans hall.time⟩
      · rw [hfree.engines, freeEngine_same]
      · rw [hfree.engines, freeEngine_other _ hk, hall.engines]
  · intro s k n r c rest hr hn hobj hstop hi hstall d pipe id addr hemit
    have hdo : doObxObjectEmit k s = emitObject s (6 * k + 5) r n c rest := by
      unfold doObxObjectEmit
      dsimp only
      rw [hr]
      dsimp only
      rw [hn, hobj]
      dsimp only
      rw [if_neg (by rw [hstop, hi, hstall, hemit]; decide)]
    obtain ⟨hrec, hitem, hnone⟩ := emitObject_leaves s (6 * k + 5) r n c rest
    obtain ⟨q, hq, hqobj, hqem⟩ := hrec.engine
    obtain ⟨hbytes, hother⟩ := writeLocal_bytes s (nodeDom s n) addr (objRecord d c id).bytes c.poison
    have hwritten : writtenObject s r n c = (writeLocal s (nodeDom s n) addr (objRecord d c id).bytes c.poison).1 := rfl
    refine ⟨_, q, congrArg Host.Outcome.next hdo, hq, hqobj, hqem, hrec.next, fun hok => ?_, fun a ha => ?_, fun hbit => ?_, hnone⟩
    · rw [hrec.mem, hwritten]
      exact hbytes hok
    · rw [hrec.mem, hwritten]
      exact hother a ha
    · exact ⟨objSubmission s r n, hitem hbit, rfl, rfl, rfl⟩

end Sys2Proof.Machine
end

section
/-! PROOFS. What the bus of a port takes, and what the wait for it leaves of ports and pipelines (R106, R108). -/

namespace Sys2Proof.Machine

open Sys2Proof

theorem pipeOf_setPipe_same (s : State) (p : Nat) (x : Pipe) : pipeOf (setPipe s p x) p = x := tabGet_tabSet_same _ _ _ _

theorem pipeOf_setPipe_other (s : State) {p q : Nat} (x : Pipe) (h : q ≠ p) : pipeOf (setPipe s p x) q = pipeOf s q :=
  tabGet_tabSet_other _ _ _ h

theorem portOf_setPort_same (s : State) (k : Nat) (x : CsiPort) : portOf (setPort s k x) k = x := tabGet_tabSet_same _ _ _ _

theorem trigOf_setTrig_same (s : State) (n : Nat) (x : Trig) : trigOf (setTrig s n x) n = x := tabGet_tabSet_same _ _ _ _

theorem pipeOf_congr {s t : State} (h : t.pipes = s.pipes) (p : Nat) : pipeOf t p = pipeOf s p := by
  unfold pipeOf
  rw [h]

theorem portOf_congr {s t : State} (h : t.ports = s.ports) (k : Nat) : portOf t k = portOf s k := by
  unfold portOf
  rw [h]

/-- Nothing changed but ports and pipelines. -/
def CameraOnly (s t : State) : Prop := t = { s with ports := t.ports, pipes := t.pipes }

theorem CameraOnly.refl (s : State) : CameraOnly s s := rfl

theorem CameraOnly.trans {s t u : State} (h : CameraOnly s t) (k : CameraOnly t u) : CameraOnly s u := by
  unfold CameraOnly at h k ⊢
  rw [h] at k
  exact k

theorem CameraOnly.setPipe (s : State) (p : Nat) (x : Pipe) : CameraOnly s (setPipe s p x) := rfl

theorem CameraOnly.setPort (s : State) (k : Nat) (x : CsiPort) : CameraOnly s (setPort s k x) := rfl

theorem CameraOnly.mem {s t : State} (h : CameraOnly s t) : t.mem = s.mem := by unfold CameraOnly at h; rw [h]

theorem CameraOnly.mb {s t : State} (h : CameraOnly s t) : t.mb = s.mb := by unfold CameraOnly at h; rw [h]

theorem CameraOnly.safety {s t : State} (h : CameraOnly s t) : t.safety = s.safety := by unfold CameraOnly at h; rw [h]

/-! ### The bus takes what waits -/

/-- A bus in use takes nothing. -/
theorem startBus_busy {s : State} {k : Nat} (h : (portOf s k).busWrite = true ∨ (portOf s k).host ≠ none) :
    startBus s k = s := by
  have hb : ((portOf s k).busWrite || (portOf s k).host.isSome) = true := by
    rw [Bool.or_eq_true, Option.isSome_iff_ne_none]
    exact h
  exact if_pos hb

/-- An idle bus on which nothing waits takes nothing. -/
theorem startBus_none {s : State} {k : Nat} (hw : (portOf s k).writers = []) (hq : (portOf s k).hostQueue = []) :
    startBus s k = s := by
  unfold startBus
  dsimp only
  rw [hw, hq]
  split <;> rfl

/-- An idle bus with a host transfer waiting, and no settings writes, takes the transfer. -/
theorem startBus_host {s : State} {k : Nat} {x : I3cXfer} {r : List I3cXfer} (hb : (portOf s k).busWrite = false)
    (hh : (portOf s k).host = none) (hw : (portOf s k).writers = []) (hq : (portOf s k).hostQueue = x :: r) :
    startBus s k = setPort s k { portOf s k with host := some x, hostQueue := r } := by
  unfold startBus
  dsimp only
  rw [hw, hq, hb, hh]
  rfl

/-- The bus's choice changes its port only. -/
theorem startBus_ports (s : State) (k : Nat) : startBus s k = { s with ports := (startBus s k).ports } := by
  unfold startBus
  dsimp only
  split
  · rfl
  · split
    · rfl
    · split <;> rfl

theorem startBus_only (s : State) (k : Nat) : CameraOnly s (startBus s k) := by
  unfold CameraOnly
  rw [startBus_ports]

theorem pipeOf_startBus (s : State) (k p : Nat) : pipeOf (startBus s k) p = pipeOf s p :=
  pipeOf_congr (by rw [startBus_ports]) p

/-! ### A pipeline waits for the bus -/

/-- A commit that takes the place of its generation leaves every generation in its place. -/
theorem setCommit_gens (x : Pipe) (c : Commit) : (setCommit x c).commits.map Commit.gen = x.commits.map Commit.gen := by
  unfold setCommit
  rw [List.map_map]
  refine List.map_congr_left fun d _ => ?_
  by_cases h : d.gen = c.gen
  · rw [Function.comp_apply, if_pos h, h]
  · rw [Function.comp_apply, if_neg h]

/-- What the wait for the bus leaves of a pipeline: all but the moment of its release and the states of its commits. -/
structure WaitKept (x y : Pipe) : Prop where
  same : y = { x with relAt := y.relAt, commits := y.commits }
  gens : y.commits.map Commit.gen = x.commits.map Commit.gen

theorem WaitKept.refl (x : Pipe) : WaitKept x x := ⟨rfl, rfl⟩

/-- What the wait of a pipeline for its bus leaves: ports and pipelines alone change, and of the pipelines its own. -/
structure BusWait (s t : State) (p : Nat) : Prop where
  only : CameraOnly s t
  own : WaitKept (pipeOf s p) (pipeOf t p)
  other : ∀ q, q ≠ p → pipeOf t q = pipeOf s q

theorem joinWriters_waits (s : State) (p : Nat) : BusWait s (joinWriters s p) p := by
  unfold joinWriters
  dsimp only
  split
  next c hc =>
    split
    · exact ⟨rfl, .refl _, fun _ _ => rfl⟩
    · refine ⟨((CameraOnly.setPipe s p _).trans (.setPort _ _ _)).trans (startBus_only _ _), ?_, fun q hq => ?_⟩
      · rw [pipeOf_startBus]
        refine (pipeOf_setPipe_same s p _).symm ▸ ⟨rfl, ?_⟩
        exact setCommit_gens { pipeOf s p with relAt := s.time } _
      · rw [pipeOf_startBus]
        exact pipeOf_setPipe_other s _ hq
  · exact ⟨rfl, .refl _, fun _ _ => rfl⟩

end Sys2Proof.Machine
end

section
/-! PROOFS. What the camera, trigger and sensor-bus commands leave (R83, R84, R101, R102, R106, R107, R114). -/

namespace Sys2Proof.Machine

open Sys2Proof

/-! ### CSI_PORT_CONFIG (R83) -/

theorem portOn_false {s : State} {k : Nat} (h : ∀ p, p / 4 = k → (pipeOf s p).running = false) : portOn s k = false := by
  have hany : (portPipes k).any (fun p => (pipeOf s p).running) = false := by
    rw [List.any_eq_false]
    intro p hp
    have hk : p / 4 = k := by
      simp only [portPipes, List.mem_cons, List.not_mem_nil, or_false] at hp
      omega
    rw [h p hk]
    decide
  rw [portOn, hany, Bool.and_false]

theorem cmdCsiPortConfig_idle {s : State} {k lanes map pol mode : Nat} (hk : k ≤ 15) (hl : 1 ≤ lanes) (hl' : lanes ≤ 4)
    (hd : ((List.range lanes).map (fun i => bitsAt map (2 * i) 2)).Nodup) (hp : pol < 32) (hm : mode ≤ 2)
    (hoff : portOn s k = false) :
    cmdCsiPortConfig k lanes map pol mode 0 s = okDone (setPort s k { portOf s k with
      lanes := lanes, map := map, pol := pol, i3cMode := mode, i3cOn := true }) := by
  have hdis : lanesDistinct map lanes = true := decide_eq_true hd
  rw [cmdCsiPortConfig, if_neg (by omega), if_neg (by omega), if_neg (by omega), if_neg (by omega),
    if_neg (by rw [hdis]; decide), if_neg (by omega), if_neg (by rw [hoff]; decide)]

/-! ### CAMERA_START (R84, R89, R107, R114) -/

/-- A test that is skipped changes its pipeline and the counters of the trace. -/
theorem skipTest_only (s : State) (p : Nat) :
    skipTest s p = { s with pipes := (skipTest s p).pipes, trace := (skipTest s p).trace } := by
  unfold skipTest
  dsimp only
  split <;> rfl

theorem pipeOf_bump (s : State) (c u i n p : Nat) : pipeOf (bump s c u i n) p = pipeOf s p := rfl

/-- A test that is skipped leaves the other pipelines. -/
theorem skipTest_other (s : State) {p q : Nat} (h : q ≠ p) : pipeOf (skipTest s p) q = pipeOf s q := by
  unfold skipTest
  dsimp only
  split
  · rfl
  · rw [pipeOf_bump, countPipe, modPipe, pipeOf_setPipe_other _ _ h, pipeOf_setPipe_other _ _ h]

/-- With no test in progress or due none is skipped. -/
theorem skipTest_none {s : State} {p : Nat} (ht : (pipeOf s p).test = none) (hd : (pipeOf s p).testDue = none) :
    skipTest s p = s := by
  unfold skipTest
  exact if_pos ⟨by rw [ht]; rfl, by rw [hd]; rfl⟩

/-- The block after the pipeline of a channel has started, with its commits waiting for the bus. -/
def pipeStarted (s : State) (p chan dom : Nat) (c : PipeCfg) (prm : List Byte) : State :=
  joinWriters (setPipe (skipTest s p) p (startedPipe (pipeOf (skipTest s p) p) chan dom c prm)) p

theorem pipeStarted_only (s : State) (p chan dom : Nat) (c : PipeCfg) (prm : List Byte) :
    pipeStarted s p chan dom c prm = { s with
      pipes := (pipeStarted s p chan dom c prm).pipes, ports := (pipeStarted s p chan dom c prm).ports,
      trace := (pipeStarted s p chan dom c prm).trace } := by
  have hs := skipTest_only s p
  have hw := (joinWriters_waits (setPipe (skipTest s p) p (startedPipe (pipeOf (skipTest s p) p) chan dom c prm)) p).only
  change CameraOnly _ (pipeStarted s p chan dom c prm) at hw
  generalize pipeStarted s p chan dom c prm = t at hw
  unfold CameraOnly setPipe at hw
  generalize skipTest s p = q at hs hw
  rw [hw, hs]

/-- The pipeline that starts: running at frame 0 with its channel's body and parameters, and no frame open. -/
theorem pipeStarted_own (s : State) (p chan dom : Nat) (c : PipeCfg) (prm : List Byte) :
    WaitKept (startedPipe (pipeOf (skipTest s p) p) chan dom c prm) (pipeOf (pipeStarted s p chan dom c prm) p) := by
  have hw := (joinWriters_waits (setPipe (skipTest s p) p (startedPipe (pipeOf (skipTest s p) p) chan dom c prm)) p).own
  rw [pipeOf_setPipe_same] at hw
  exact hw

theorem pipeStarted_other (s : State) {p q : Nat} (chan dom : Nat) (c : PipeCfg) (prm : List Byte) (h : q ≠ p) :
    pipeOf (pipeStarted s p chan dom c prm) q = pipeOf s q := by
  rw [pipeStarted, (joinWriters_waits _ p).other q h, pipeOf_setPipe_other _ _ h, skipTest_other s h]

/-- CAMERA_START of a channel that passes its checks, for a pipeline that stands. -/
theorem cmdCameraStart_starts {s s' s1 : State} {h : CmdHdr} {c : Nat} {e prm : List Byte} {dpc : List (Nat × Nat)}
    (hf : fetchEntry s h.domain c 2 0 = (s', .inr e)) (hr : pipeRange s e = none)
    (hs : readSetup s' h.domain c e = (s1, .inr (prm, dpc))) (hk : keptBad (pipeOf s (fieldAt e 2 2)) (pipeCfgOf e []) = none)
    (hfp : footprintBad s h.domain (pipeCfgOf e []) = none) (hrun : (pipeOf s (fieldAt e 2 2)).running = false)
    (hcl : (pipeOf s (fieldAt e 2 2)).closing = none) (hi : islandRuns s (34 + fieldAt e 2 2 / 4) = true) :
    cmdCameraStart h c 0 s =
      okDone (pipeStarted s1 (fieldAt e 2 2) c h.domain { pipeCfgOf e [] with dpc := dpc } prm) := by
  simp only [cmdCameraStart, hf, hr, hs, hk, hfp, hrun, hcl, hi]
  rfl

/-! ### CAMERA_STOP (R114) -/

theorem cmdCameraStop_running {s : State} {p ms : Nat} (hp : p ≤ 63) (hms : ms ≤ 2000) (hrun : (pipeOf s p).running = true)
    (hstop : (pipeOf s p).stopAt = none) : cmdCameraStop p 0 ms s =
      if frameOpen (pipeOf s p) then
        (setPipe s p { pipeOf s p with stopAt := some (s.time + waitTicks ms) }, .wait (.cameraStop p))
      else if (pipeOf s p).closing.isSome then (stopNow s p, .wait (.cameraStop p)) else okDone (stopNow s p) := by
  rw [cmdCameraStop]
  dsimp only
  rw [if_neg (by rw [hrun]; simp), if_neg (by omega), if_neg (by omega), if_neg (by omega),
    if_neg (by rw [hstop]; decide)]

/-! ### CAMERA_STATUS (R101) -/

/-- The counters of a pipeline and of its port cleared. -/
def countersCleared (s : State) (p : Nat) : State :=
  setPipe (setPort s (p / 4) { portOf s (p / 4) with cnt := List.replicate 6 0 }) p
    { pipeOf s p with cnt := List.replicate 16 0 }

theorem countersCleared_leaves (s : State) (p : Nat) : CameraOnly s (countersCleared s p) ∧
    portOf (countersCleared s p) (p / 4) = { portOf s (p / 4) with cnt := List.replicate 6 0 } ∧
    pipeOf (countersCleared s p) p = { pipeOf s p with cnt := List.replicate 16 0 } ∧
    ∀ q, q ≠ p → pipeOf (countersCleared s p) q = pipeOf s q :=
  ⟨rfl, portOf_setPort_same s _ _, pipeOf_setPipe_same _ _ _, fun _ hq => pipeOf_setPipe_other _ _ hq⟩

theorem cmdCameraStatus_ok {s : State} {p clear : Nat} (hp : p ≤ 63) (hc : clear ≤ 1) :
    cmdCameraStatus p clear 0 s = okWith (if clear = 0 then s else countersCleared s p)
      (((portOf s (p / 4)).cnt ++ (pipeOf s p).cnt).flatMap (leBytes 4)) := by
  rw [cmdCameraStatus, if_neg (by omega), if_neg (by omega), if_neg (by omega)]
  rfl

/-! ### TRIGGER_SET (R102, R103) -/

theorem cmdTriggerSet_ok {s : State} {n mode pol period t0 width count : Nat} (hn : n ≤ 63) (hm : mode ≤ 3)
    (hp : mode ≠ 0 → pol ≤ 1) (hper : 2 ≤ mode → 800 ≤ period ∧ width < period)
    (hw : mode ≠ 0 → 32 ≤ width ∧ width ≤ 4000000) (ht : s.time + 40000 ≤ t0) :
    cmdTriggerSet n mode pol 0 period t0 width count s = okDone (setTrig s n { trigOf s n with
        update := some { mode := mode, activeLow := pol == 1, start := t0, period := period, width := width, count := count }
        pin := if mode ≠ 0 ∧ (trigOf s n).nextEdge = none ∧ (trigOf s n).pulseEnd = none then (if pol = 1 then .hi else .lo)
          else (trigOf s n).pin }) := by
  have hidle : (mode != 0 && (trigOf s n).nextEdge.isNone && (trigOf s n).pulseEnd.isNone) =
      decide (mode ≠ 0 ∧ (trigOf s n).nextEdge = none ∧ (trigOf s n).pulseEnd = none) := by
    rw [Bool.eq_iff_iff]
    simp only [Bool.and_eq_true, bne_iff_ne, Option.isNone_iff_eq_none, decide_eq_true_eq, and_assoc]
  have hbad : ¬(mode ≠ 0 ∧ (width < 32 ∨ 4000000 < width ∨ (decide (2 ≤ mode) = true ∧ period ≤ width))) := by
    rw [decide_eq_true_eq]
    omega
  have hshort : ¬(decide (2 ≤ mode) = true ∧ period < 800) := by
    rw [decide_eq_true_eq]
    omega
  rw [cmdTriggerSet]
  dsimp only
  rw [if_neg (by omega), if_neg (by omega), if_neg (by omega), if_neg (by omega), if_neg hshort, if_neg hbad,
    if_neg (by omega), hidle, inactivePin]
  simp only [decide_eq_true_eq, beq_iff_eq]

/-! ### SENSOR_COMMIT (R107) -/

theorem readParam_reads (s : State) (dom : Nat) (x : Pipe) (addr : Nat) : ReadsOnly s (readParam s dom x addr).1 := by
  unfold readParam
  split
  · exact .refl s
  · have hr := readStruct_reads s 13 0 dom addr paramLen
    generalize readStruct s 13 0 dom addr paramLen = r at hr
    obtain ⟨q, st, prm⟩ := r
    dsimp only at hr ⊢
    split
    · exact hr
    · split <;> exact hr

theorem readWrites_reads (s : State) (dom addr count : Nat) : ReadsOnly s (readWrites s dom addr count).1 := by
  unfold readWrites
  split
  · exact .refl s
  · have hr := readStruct_reads s 13 0 dom addr (4 * count)
    generalize readStruct s 13 0 dom addr (4 * count) = r at hr
    obtain ⟨q, st, bs⟩ := r
    dsimp only at hr ⊢
    split <;> exact hr

theorem cmdSensorCommit_ok {s s1 s2 : State} {h : CmdHdr} {p count param writes : Nat} {prm : Option (List Byte)}
    {ws : List (Nat × Nat)} (hp : p ≤ 63) (hc : count ≤ 256) (hpm : param % 64 = 0) (hpr : param < fsBase)
    (hw : count ≠ 0 → writes % 4 = 0 ∧ writes < fsBase) (hrp : readParam s h.domain (pipeOf s p) param = (s1, .inr prm))
    (hrw : readWrites s1 h.domain writes count = (s2, .inr ws))
    (hroom : ((pipeOf s p).commits.filter (fun c => ! c.applied)).length < 4) :
    cmdSensorCommit h p 0 count param writes s =
      okWith (addCommit s2 p prm ws) (leBytes 2 (pipeOf s p).nextGen ++ leBytes 2 0) := by
  rw [cmdSensorCommit]
  rw [if_neg (by omega), if_neg (by omega), if_neg (by omega), if_neg (by omega), if_neg (by omega), hrp]
  dsimp only
  rw [hrw]
  dsimp only
  rw [if_neg (by omega)]

/-! ### I3C_TRANSFER (R106) -/

/-- A host transfer joins the queue of its bus, which may take it at once. -/
def transferQueued (s : State) (k : Nat) (x : I3cXfer) : State :=
  startBus (setPort s k { portOf s k with hostQueue := (portOf s k).hostQueue ++ [x] }) k

theorem cmdI3cTransfer_ok {s : State} {k addr dir len : Nat} {data : List Byte} (hk : k ≤ 15) (hd : dir ≤ 1) (hl : 1 ≤ len)
    (hl' : len ≤ 64) (hi : islandRuns s (34 + k) = true) : cmdI3cTransfer k addr dir len data s =
      (transferQueued s k { addr := addr, read := dir == 1, len := len, data := data.take len }, .wait (.i3c k)) := by
  rw [cmdI3cTransfer, if_neg (by omega), if_neg (by omega), if_neg (by omega), if_neg (by rw [hi]; decide)]
  rfl

theorem transferQueued_only (s : State) (k : Nat) (x : I3cXfer) : CameraOnly s (transferQueued s k x) :=
  (CameraOnly.setPort s k _).trans (startBus_only _ k)

/-- An idle bus on which nothing waits takes the transfer at once. -/
theorem transferQueued_idle {s : State} {k : Nat} (x : I3cXfer) (hb : (portOf s k).busWrite = false)
    (hh : (portOf s k).host = none) (hw : (portOf s k).writers = []) (hq : (portOf s k).hostQueue = []) :
    (portOf (transferQueued s k x) k).host = some x ∧ (portOf (transferQueued s k x) k).hostQueue = [] := by
  have hport := portOf_setPort_same s k { portOf s k with hostQueue := (portOf s k).hostQueue ++ [x] }
  rw [transferQueued, startBus_host (x := x) (r := []) (by rw [hport]; exact hb) (by rw [hport]; exact hh)
    (by rw [hport]; exact hw) (by rw [hport, hq]; rfl), portOf_setPort_same]
  exact ⟨rfl, rfl⟩

/-- On a bus in use the transfer waits. -/
theorem transferQueued_busy {s : State} {k : Nat} (x : I3cXfer)
    (h : (portOf s k).busWrite = true ∨ (portOf s k).host ≠ none) :
    portOf (transferQueued s k x) k = { portOf s k with hostQueue := (portOf s k).hostQueue ++ [x] } := by
  rw [transferQueued, startBus_busy (by rw [portOf_setPort_same]; exact h), portOf_setPort_same]

/-- Settles O43: each command through its checks to the ports, pipelines and triggers that it leaves. -/
theorem cameraCommandsHaveTheirEffect : Obligations.CameraCommandsHaveTheirEffect := by
  unfold Obligations.CameraCommandsHaveTheirEffect
  refine ⟨fun s h k lanes map pol mode hacc hk hl hl' hd hp hm hoff => ?_,
    fun s s' s1 h c e prm dpc hacc hf hr hs hk hfp hrun hcl hi => ?_, fun s h p ms hacc hp hms hrun hstop => ?_,
    fun s h p clear hacc hp hc => ?_, fun s h n mode pol period t0 width count hacc hn hm hp hper hw ht => ?_,
    fun s s1 s2 h p count param writes prm ws hacc hp hc hpm hpr hw hrp hrw hroom => ?_,
    fun s h k addr dir len data hacc hk hd hl hl' hi => ?_⟩
  · have hexec : exec (.csiPortConfig h k lanes map pol mode 0) s =
        .next (answerRow h 0x0400 (cmdCsiPortConfig k lanes map pol mode 0 s)) := congrArg _ (runCommand_accepted hacc _)
    rw [answersOk, hexec, cmdCsiPortConfig_idle hk hl hl' hd hp hm (portOn_false hoff)]
    rfl
  · have hexec : exec (.cameraStart h c 0) s = .next (answerRow h 0x0401 (cmdCameraStart h c 0 s)) :=
      congrArg _ (runCommand_accepted hacc _)
    have hown := pipeStarted_own s1 (fieldAt e 2 2) c h.domain { pipeCfgOf e [] with dpc := dpc } prm
    have honly := pipeStarted_only s1 (fieldAt e 2 2) c h.domain { pipeCfgOf e [] with dpc := dpc } prm
    have hother := fun q => @pipeStarted_other s1 (fieldAt e 2 2) q c h.domain { pipeCfgOf e [] with dpc := dpc } prm
    rw [cmdCameraStart_starts hf hr hs hk hfp hrun hcl hi] at hexec
    generalize pipeStarted s1 (fieldAt e 2 2) c h.domain { pipeCfgOf e [] with dpc := dpc } prm = t at *
    refine ⟨t, hexec, honly, ?_, fun q hq => ⟨by rw [hother q hq], by rw [hother q hq]⟩⟩
    rw [hown.same]
    exact ⟨rfl, rfl, rfl, rfl, rfl, rfl, rfl, rfl, rfl⟩
  · have hexec : exec (.cameraStop h p 0 ms) s = .next (answerRow h 0x0402 (cmdCameraStop p 0 ms s)) :=
      congrArg _ (runCommand_accepted hacc _)
    rw [cmdCameraStop_running hp hms hrun hstop] at hexec
    refine ⟨fun ho => ?_, fun ho hcl ht hd => ?_⟩
    · rw [answersLater, hexec, if_pos ho]
      rfl
    · rw [answersOk, hexec, ho, hcl, stopNow, skipTest_none ht hd]
      rfl
  · have hexec : exec (.cameraStatus h p clear 0) s = .next (answerRow h 0x0403 (cmdCameraStatus p clear 0 s)) :=
      congrArg _ (runCommand_accepted hacc _)
    rw [cmdCameraStatus_ok hp hc] at hexec
    refine ⟨_, hexec, fun h0 => if_pos h0, fun h1 => ?_⟩
    rw [if_neg (by omega)]
    exact countersCleared_leaves s p
  · have hexec : exec (.triggerSet h n mode pol 0 period t0 width count) s =
        .next (answerRow h 0x0404 (cmdTriggerSet n mode pol 0 period t0 width count s)) :=
      congrArg _ (runCommand_accepted hacc _)
    rw [answersOk, hexec, cmdTriggerSet_ok hn hm hp hper hw ht]
    rfl
  · have hexec : exec (.sensorCommit h p 0 count param writes) s =
        .next (answerRow h 0x0405 (cmdSensorCommit h p 0 count param writes s)) :=
      congrArg _ (runCommand_accepted hacc _)
    have hp1 := readParam_reads s h.domain (pipeOf s p) param
    have hp2 := readWrites_reads s1 h.domain writes count
    rw [hrp] at hp1
    rw [hrw] at hp2
    have hreads : ReadsOnly s s2 := hp1.trans hp2
    rw [answersOk, hexec, cmdSensorCommit_ok hp hc hpm hpr hw hrp hrw hroom, addCommit, modPipe,
      pipeOf_congr hreads.pipes, hreads.time]
    rfl
  · have hexec : exec (.i3cTransfer h k addr dir len data) s =
        .next (answerRow h 0x0406 (cmdI3cTransfer k addr dir len data s)) := congrArg _ (runCommand_accepted hacc _)
    rw [cmdI3cTransfer_ok hk hd hl hl' hi] at hexec
    exact ⟨_, hexec, transferQueued_only s k _, fun hb hh hw hq => transferQueued_idle _ hb hh hw hq,
      fun hb => transferQueued_busy _ hb⟩

end Sys2Proof.Machine
end

section
/-! PROOFS. Trigger pulses at their edges, and the transfers of the sensor buses (R102 to R106, R108, R110). -/

namespace Sys2Proof.Machine

open Sys2Proof

theorem trigRuns_of {s : State} {n : Nat} (hn : n < 64) (hi : islandRuns s (34 + n / 4) = true) : trigRuns s n = true := by
  rw [trigRuns, hi, decide_eq_true hn]
  rfl

/-! ### Switch point and pulses (R102 to R104) -/

theorem switchPoint_at {t : Trig} {u : TrigSched} {e : Nat} {first : Bool} (hu : t.update = some u)
    (h : t.nextEdge = none ∧ e = u.start ∨ (t.nextEdge = some e ∧ u.start ≤ e ∧ (t.sched.mode ≠ 3 ∨ first = true))) :
    switchPoint t first = some e := by
  unfold switchPoint
  rw [hu]
  rcases h with ⟨hn, rfl⟩ | ⟨hn, h⟩
  · rw [hn]
  · rw [hn]
    exact if_pos h

theorem doTriggerSwitchPoint_at {s : State} {n e : Nat} {u : TrigSched} (hr : trigRuns s n = true)
    (hu : (trigOf s n).update = some u) (hs : switchPoint (trigOf s n) (atFirstLine s n) = some e) :
    doTriggerSwitchPoint n s = setTrig (advanceTo s e) n (switchTrig (trigOf s n) u e) := by
  rw [doTriggerSwitchPoint]
  rw [hs, hu]
  exact if_pos hr

/-- A trigger after one more of its pulses: the number emitted and its next edge. -/
def pulseEmitted (t : Trig) (e : Nat) : Trig :=
  { t with emitted := t.emitted + 1, nextEdge := edgeAfter t.sched (t.emitted + 1) e }

theorem edgeAfter_eq (x : TrigSched) (n e : Nat) :
    edgeAfter x n e = if x.mode = 1 ∨ (x.count ≠ 0 ∧ x.count ≤ n) then none else some (e + x.period) := by
  unfold edgeAfter
  by_cases h1 : x.mode = 1
  · rw [if_pos h1, if_pos (.inl h1)]
  · rw [if_neg h1]
    by_cases h2 : x.count ≠ 0 ∧ x.count ≤ n
    · rw [if_pos h2, if_pos (.inr h2)]
    · rw [if_neg h2, if_neg (not_or.mpr ⟨h1, h2⟩)]

theorem beginPulse_idle {t : Trig} {e : Nat} (h : t.pulseEnd = none) :
    beginPulse t e = { t with pulseEnd := some (e + t.sched.width), pin := activePin t.sched } := by
  rw [beginPulse, h]

theorem beginPulse_after {t : Trig} {e pe : Nat} (h : t.pulseEnd = some pe) (hle : pe ≤ e) :
    beginPulse t e = { t with pulseEnd := some (e + t.sched.width), laterEnds := [], pin := activePin t.sched } := by
  rw [beginPulse, h]
  exact if_neg (Nat.not_lt.mpr hle)

theorem beginPulse_within {t : Trig} {e pe : Nat} (h : t.pulseEnd = some pe) (hlt : e < pe) :
    beginPulse t e = { t with laterEnds := t.laterEnds ++ [(e + t.sched.width, activePin t.sched)] } := by
  simp only [beginPulse, h, if_pos hlt]

theorem doCamTrigPulse_edge {s : State} {n e : Nat} (hr : trigRuns s n = true) (he : (trigOf s n).nextEdge = some e)
    (hs : switchPoint (trigOf s n) (atFirstLine s n) = none) :
    doCamTrigPulse n s = if (trigOf s n).sched.mode = 3
      then lineEdgeAt (setTrig (advanceTo s e) n (beginPulse (pulseEmitted (trigOf s n) e) e)) n e
      else queueEdge (setTrig (advanceTo s e) n (beginPulse (pulseEmitted (trigOf s n) e) e)) n e := by
  rw [doCamTrigPulse]
  dsimp only
  rw [he, hs, hr]
  rfl

theorem queueEdge_pipes (s : State) (p e : Nat) : queueEdge s p e = { s with pipes := (queueEdge s p e).pipes } := by
  unfold queueEdge
  dsimp only
  split <;> rfl

theorem queueEdge_room {s : State} {p : Nat} (e : Nat) (h : (pipeOf s p).edges.length < 4) :
    (pipeOf (queueEdge s p e) p).edges = (pipeOf s p).edges ++ [e] := by
  rw [queueEdge]
  rw [if_pos h, pipeOf_setPipe_same]

theorem lineEdgeAt_edge (s : State) (p e : Nat) :
    (pipeOf (lineEdgeAt s p e) p).lineEdge = some ((pipeOf s p).lineEdge.getD e) := by
  rw [lineEdgeAt, modPipe, pipeOf_setPipe_same]
  cases (pipeOf s p).lineEdge <;> rfl

/-- What a pulse's active edge leaves, after its trigger took the pulse `y`. -/
structure EdgeTaken (s t : State) (n e : Nat) (y : Trig) (mode : Nat) : Prop where
  frame : t = { s with time := max s.time e, trigs := t.trigs, pipes := t.pipes }
  trig : trigOf t n = y
  line : mode = 3 → (pipeOf t n).lineEdge = some ((pipeOf s n).lineEdge.getD e)
  queue : mode ≠ 3 → (pipeOf s n).edges.length < 4 → (pipeOf t n).edges = (pipeOf s n).edges ++ [e]

theorem pulse_taken (s : State) (n e : Nat) (y : Trig) (mode : Nat) :
    EdgeTaken s (if mode = 3 then lineEdgeAt (setTrig (advanceTo s e) n y) n e
      else queueEdge (setTrig (advanceTo s e) n y) n e) n e y mode := by
  split
  next h => exact ⟨rfl, trigOf_setTrig_same _ _ _, fun _ => lineEdgeAt_edge _ n e, fun hn => absurd h hn⟩
  next h =>
    refine ⟨?_, ?_, fun hn => absurd hn h, fun _ hroom => queueEdge_room e hroom⟩
    · rw [queueEdge_pipes]
      rfl
    · rw [queueEdge_pipes]
      exact trigOf_setTrig_same (advanceTo s e) n y

theorem endPulse_last {t : Trig} {e : Nat} (h : ∀ o ∈ t.laterEnds, o.1 ≤ e) : endPulse t e = { t with
    pulseEnd := none, laterEnds := [], pin := if t.nextEdge.isNone then .z else inactivePin t.sched } := by
  have hf : t.laterEnds.filter (fun o => decide (e < o.1)) = [] :=
    List.filter_eq_nil_iff.mpr fun o ho => by rw [decide_eq_true_eq]; exact Nat.not_lt.mpr (h o ho)
  rw [endPulse, hf]

theorem endPulse_later {t : Trig} {e : Nat} {o : Nat × Pin} {r : List (Nat × Pin)}
    (h : t.laterEnds.filter (fun o => decide (e < o.1)) = o :: r) :
    endPulse t e = { t with pulseEnd := some o.1, laterEnds := r, pin := o.2 } := by
  rw [endPulse, h]

theorem doCamTrigPulseEnd_at {s : State} {n e : Nat} (hr : trigRuns s n = true) (he : (trigOf s n).pulseEnd = some e) :
    doCamTrigPulseEnd n s = setTrig (advanceTo s e) n (endPulse (trigOf s n) e) := by
  rw [doCamTrigPulseEnd]
  rw [he, hr]
  rfl

/-! ### Settings writes (R106, R108, R110) -/

/-- The bus given back, with the pipeline that has ended its writes out of the wait. -/
def busFreed (s : State) (k : Nat) (ended : Bool) : State :=
  setPort s k { portOf s k with
    busWrite := false, writers := if ended then (portOf s k).writers.drop 1 else (portOf s k).writers }

theorem releaseBus_going (s : State) (p : Nat) : releaseBus s p false = startBus (busFreed s (p / 4) false) (p / 4) := rfl

theorem BusWait.ite (b : Bool) (s : State) (p : Nat) : BusWait s (if b then joinWriters s p else s) p := by
  cases b with
  | true => exact joinWriters_waits s p
  | false => exact ⟨rfl, .refl _, fun _ _ => rfl⟩

/-- What giving the bus back leaves of ports and pipelines. -/
theorem releaseBus_waits (s : State) (p : Nat) (ended : Bool) : BusWait s (releaseBus s p ended) p := by
  have hfree : ∀ q, BusWait (busFreed s (p / 4) ended) q p → BusWait s (startBus q (p / 4)) p := fun q hq =>
    ⟨((CameraOnly.setPort s _ _).trans hq.only).trans (startBus_only _ _), by rw [pipeOf_startBus]; exact hq.own,
      fun n hn => by rw [pipeOf_startBus]; exact hq.other n hn⟩
  unfold releaseBus
  dsimp only
  exact hfree _ (BusWait.ite _ _ p)

theorem doSensorWriteDone_ack {s : State} {p n : Nat} {c : Commit} {ack : Bool} (hb : (portOf s (p / 4)).busWrite = true)
    (hw : (portOf s (p / 4)).writers.head? = some p) (hi : islandRuns s (34 + p / 4) = true)
    (hc : nextWrites (pipeOf s p) = some c) (hst : c.st = .writing n) :
    doSensorWriteDone p ack s = if ack then
      releaseBus (setPipe s p (setCommit (pipeOf s p) (writeTaken c n))) p (decide (c.writes.length ≤ n + 1))
      else releaseBus (dropCommit s p c) p true := by
  rw [doSensorWriteDone]
  rw [hb, hw, hi, hc]
  dsimp only
  rw [hst, if_neg (by simp)]

theorem setCommit_taken {x : Pipe} {c d : Commit} (hd : d ∈ (setCommit x c).commits) (hg : d.gen = c.gen) : d = c := by
  obtain ⟨b, -, hb⟩ := List.mem_map.mp hd
  by_cases h : b.gen = c.gen
  · rw [← hb, if_pos h]
  · rw [if_neg h] at hb
    exact absurd (hb ▸ hg) h

/-- After a write that leaves further writes of its commit, the commit stands at the next of them. -/
theorem write_goesOn {s : State} {p n : Nat} {c d : Commit} (hn : n + 1 < c.writes.length)
    (hd : d ∈ (pipeOf (releaseBus (setPipe s p (setCommit (pipeOf s p) (writeTaken c n))) p
      (decide (c.writes.length ≤ n + 1))) p).commits) (hg : d.gen = c.gen) : d.st = .writing (n + 1) := by
  rw [decide_eq_false (by omega), releaseBus_going, pipeOf_startBus] at hd
  change d ∈ (pipeOf (setPipe s p (setCommit (pipeOf s p) (writeTaken c n))) p).commits at hd
  rw [pipeOf_setPipe_same] at hd
  rw [setCommit_taken (c := writeTaken c n) hd hg]
  exact if_pos hn

/-- A commit with a write that the sensor did not take: gone from its pipeline, with the device in doubt. -/
theorem dropCommit_leaves (s : State) (p : Nat) (c : Commit) : (dropCommit s p c).mem = s.mem ∧
    (∀ d ∈ (pipeOf (dropCommit s p c) p).commits, d.gen ≠ c.gen) ∧ doubtOpen (dropCommit s p c) rowSensor kindPipe p := by
  unfold dropCommit
  dsimp only
  have hd := raiseDoubt_only (modPipe s p (fun x => { x with commits := x.commits.filter (fun d => d.gen != c.gen) })) 0x0402 4 p
    (leBytes 1 p ++ [0] ++ leBytes 2 c.gen) rowSensor kindPipe p
  refine ⟨hd.mem, fun d h => ?_, raiseDoubt_open _ _ _ _ _ _ _ _⟩
  rw [pipeOf_congr hd.pipes, modPipe, pipeOf_setPipe_same] at h
  exact bne_iff_ne.mp (List.mem_filter.mp h).2

/-- A generation that no commit of a pipeline has has none after the wait for the bus either. -/
theorem WaitKept.gen_ne {x y : Pipe} {g : Nat} (h : WaitKept x y) (hx : ∀ d ∈ x.commits, d.gen ≠ g) :
    ∀ d ∈ y.commits, d.gen ≠ g := by
  intro d hd
  have hm : d.gen ∈ x.commits.map Commit.gen := by
    rw [← h.gens]
    exact List.mem_map_of_mem hd
  obtain ⟨b, hb, hg⟩ := List.mem_map.mp hm
  exact hg ▸ hx b hb

/-! ### Host transfers and in-band interrupts (R105, R106) -/

theorem doSensorIbi_posts {s : State} {k : Nat} (addr : Nat) (data : List Byte) (hk : k ≤ 15)
    (hi : islandRuns s (34 + k) = true) : doSensorIbi k addr data s = postEvent s 0x0401 11 (34 + k)
      (leBytes 1 k ++ leBytes 1 addr ++ leBytes 1 (data.take 8).length ++ [0] ++ padTo 8 (data.take 8)) := by
  have hrun : ¬(decide (15 < k) || ! islandRuns s (34 + k)) = true := by
    rw [hi, decide_eq_false (by omega)]
    decide
  rw [doSensorIbi, if_neg hrun]

/-- The answer of a host transfer: the bytes that a read brought, or the device's refusal (log entry 35). -/
def transferAnswered (s : State) (k : Nat) (x : I3cXfer) (ack : Bool) (data : List Byte) : State :=
  if ack then answer s (.i3c k) .ok (if x.read then padTo 64 (data.take x.len) else [])
  else answer { s with freeCnt := s.freeCnt + 1 } (.i3c k) (i3cRefused s k) []

theorem transferAnswered_mem (s : State) (k : Nat) (x : I3cXfer) (ack : Bool) (data : List Byte) :
    (transferAnswered s k x ack data).mem = s.mem := by
  unfold transferAnswered
  split
  · exact (answer_only s _ _ _).doubt.mem
  · exact (answer_only { s with freeCnt := s.freeCnt + 1 } _ _ _).doubt.mem

theorem doI3cTransferDone_host {s : State} {k : Nat} {x : I3cXfer} {ack : Bool} {data : List Byte}
    (hh : (portOf s k).host = some x) (hi : islandRuns s (34 + k) = true) : doI3cTransferDone k ack data s =
      startBus (setPort (transferAnswered s k x ack data) k { portOf s k with host := none }) k := by
  rw [doI3cTransferDone]
  dsimp only
  rw [hh, hi]
  rfl

/-- Settles O45: each edge, pulse and transfer by the state of its trigger and bus. -/
theorem triggersAndSensorBusesFollowTheirSchedules : Obligations.TriggersAndSensorBusesFollowTheirSchedules := by
  unfold Obligations.TriggersAndSensorBusesFollowTheirSchedules
  refine ⟨fun s n e u hn hi hu h => ?_, fun s n e hn hi he hs => ?_, fun s n e hn hi he => ⟨fun hl => ?_, fun o r hf => ?_⟩,
    fun s p n ack c hb hw hi hc hst => ?_, fun s k addr data hk hi hs hf hl => ?_, fun s k ack data x hh hi => ?_,
    fun s k => rfl⟩
  · have hsw : switchPoint (trigOf s n) (atFirstLine s n) = some e := switchPoint_at hu (by
      rw [atFirstLine, Option.isNone_iff_eq_none]
      exact h)
    exact congrArg _ (doTriggerSwitchPoint_at (trigRuns_of hn hi) hu hsw)
  · have hp := pulse_taken s n e (beginPulse (pulseEmitted (trigOf s n) e) e) (trigOf s n).sched.mode
    have hexec : exec (.camTrigPulse n) s = .next _ := congrArg Host.Outcome.next (doCamTrigPulse_edge (trigRuns_of hn hi) he hs)
    refine ⟨_, hexec, hp.frame, ?_, hp.line, hp.queue⟩
    rw [hp.trig, ← edgeAfter_eq]
    exact ⟨fun h0 => beginPulse_idle (t := pulseEmitted (trigOf s n) e) h0,
      fun pe hpe hle => beginPulse_after (t := pulseEmitted (trigOf s n) e) hpe hle,
      fun pe hpe hlt => beginPulse_within (t := pulseEmitted (trigOf s n) e) hpe hlt⟩
  · have hexec : exec (.camTrigPulseEnd n) s = .next _ := congrArg Host.Outcome.next (doCamTrigPulseEnd_at (trigRuns_of hn hi) he)
    rw [hexec, endPulse_last hl]
    simp only [Option.isNone_iff_eq_none]
    rfl
  · have hexec : exec (.camTrigPulseEnd n) s = .next _ := congrArg Host.Outcome.next (doCamTrigPulseEnd_at (trigRuns_of hn hi) he)
    rw [hexec, endPulse_later hf]
    rfl
  · have hexec : exec (.sensorWriteDone p ack) s = .next _ := congrArg Host.Outcome.next (doSensorWriteDone_ack hb hw hi hc hst)
    cases ack with
    | true =>
      rw [if_pos rfl] at hexec
      exact ⟨_, hexec, (releaseBus_waits _ p _).only.mem, fun _ hn d hd hg => write_goesOn hn hd hg, fun h => nomatch h⟩
    | false =>
      rw [if_neg (by decide)] at hexec
      obtain ⟨hmem, hgone, hopen⟩ := dropCommit_leaves s p c
      have hr := releaseBus_waits (dropCommit s p c) p true
      exact ⟨_, hexec, hr.only.mem.trans hmem, (fun h => nomatch h),
        fun _ => ⟨hr.own.gen_ne hgone, doubtOpen_congr hr.only.safety hopen⟩⟩
  · have hexec : exec (.sensorIbi k addr data) s = .next _ := congrArg Host.Outcome.next (doSensorIbi_posts addr data hk hi)
    generalize leBytes 1 k ++ leBytes 1 addr ++ leBytes 1 (data.take 8).length ++ [0] ++ padTo 8 (data.take 8) = arg at hexec ⊢
    exact ⟨postEvent s 0x0401 11 (34 + k) arg, mkEvent s 0x0401 11 (34 + k) arg, hexec, postEvent_only _ _ _ _ _,
      postEvent_fifo _ _ _ _ hs hf hl, rfl, rfl⟩
  · have hexec : exec (.i3cTransferDone k ack data) s = .next _ := congrArg Host.Outcome.next (doI3cTransferDone_host hh hi)
    have hmem := transferAnswered_mem s k x ack data
    have hport := portOf_setPort_same (transferAnswered s k x ack data) k { portOf s k with host := none }
    have honly := startBus_only (setPort (transferAnswered s k x ack data) k { portOf s k with host := none }) k
    refine ⟨_, hexec, honly.mem.trans hmem, fun ha => ?_, fun hw hq => ?_⟩
    · intro hup i r hwait hr
      rw [honly.mb, ha]
      exact answer_completes s (.i3c k) .ok _ hup i r hwait hr
    · rw [startBus_none (by rw [hport]; exact hw) (by rw [hport]; exact hq), hport]

end Sys2Proof.Machine
end

section
/-! PROOFS. A state in which the reads of one mover that an island's stop carries out do not stand in its run (R14, R458). -/

namespace Sys2Proof.Machine

open Sys2Proof

/-- The granule of core 0's scratchpad that both movers read. -/
def clashGran : Nat := spmBase / 64

/-- A descriptor in progress with one read in flight. -/
def clashRun : DmaRun :=
  { node := none, index := 0, f := 0, start := 0, busy := true, desc := [], src := [], dst := [], reads := 1,
    todo := [clashGran], got := [], writes := 0, written := false, bytes := 0, oobR := 0, oobW := 0, bad := false, mism := 0,
    firstBad := 0, status := .ok, totalBytes := 0, totalOob := 0, descDone := 0 }

/-- A stream on a channel, of an engine whose island goes on. -/
def clashStream (chan : Nat) : StreamSt :=
  { chan := chan, graph := 0, lane := 0, dom := 0, engine := 4, nbufLog := 0, share := 0, tags := 1, wcache := false,
    kind := 0, perm := 0, srcTd := [], dstTd := [], dstPitch := 0, srcStep := 0, srcWrap := 0, flag0 := 0, next := 0,
    rearms := [], active := true, halted := false, cancelling := false, run := some clashRun, discard := 0, unread := [] }

/-- Two streams that read core 0's scratchpad stand under one number of the table of streams. Firmware is ready, and the
islands of the AON logic and of group CG00 run. -/
def clashState : State :=
  { State.reset with boot := { State.reset.boot with fwReady := true }, islands := 5,
                     streams := [(0, clashStream 0), (0, clashStream 1)] }

/-- A command of the host in domain 2. -/
def clashHdr : CmdHdr := { flags := 0, seq := 1, domain := 2, crc := 0 }

/-- The block after island 2 was stopped. -/
def clashStopped : State :=
  setIsland (emitTrace (settleIsland clashState 2) 11 2 false 3 1 []) 2 false

theorem clash_accepted : Accepted 0x0604 clashHdr clashState := by decide

theorem clash_held : islandHeld clashState 2 = false := by decide

theorem clash_reads : accessStatus clashState 0 false (clashGran * 64) 64 = .ok := by decide

/-- The granule that the second stream took is stored in the first's place: channel 0 has no run left. -/
theorem clash_lost : runAt clashStopped 0 = none := by decide

/-- The answer of a row leaves the tables of movers. -/
theorem answerRow_movers (h : CmdHdr) (op : Nat) (s : State) (st : Status) (payload : List Byte) :
    (answerRow h op (s, .done st payload)).dma = s.dma ∧ (answerRow h op (s, .done st payload)).streams = s.streams := by
  obtain ⟨-, hev⟩ := answerRow_done h op s st payload
  exact ⟨hev.doubt.dma, hev.doubt.streams⟩

theorem runAt_congr {s t : State} (hd : t.dma = s.dma) (hs : t.streams = s.streams) (c : Nat) : runAt t c = runAt s c := by
  unfold runAt streamOfChan
  rw [hd, hs]

theorem clash_stop :
    exec (.islandStop clashHdr 2 0) clashState = .next (answerRow clashHdr 0x0604 (clashStopped, .done .ok [])) := by
  have hexec : exec (.islandStop clashHdr 2 0) clashState = .next (answerRow clashHdr 0x0604 (cmdIslandStop 2 0 clashState)) :=
    congrArg _ (runCommand_accepted clash_accepted _)
  have hcmd : cmdIslandStop 2 0 clashState = (clashStopped, .done .ok []) := rfl
  rw [hexec, hcmd]

/-- Refutes O51: with two streams under one number of their table, ISLAND_STOP of island 2 completes the read of channel 0 and
then stores the run of channel 1 in its place, so that the granule of channel 0 stands in no run. -/
theorem not_powerFollowsSeasonCapAndHeat : ¬ Obligations.PowerFollowsSeasonCapAndHeat := by
  unfold Obligations.PowerFollowsSeasonCapAndHeat
  rintro ⟨-, -, -, -, -, hstop, -⟩
  obtain ⟨hrun, -, -⟩ := hstop clashState clashHdr 2 clash_accepted (by decide) (by decide) (by decide)
  obtain ⟨t, hans, -, hread, -, -⟩ := hrun (by decide) clash_held
  have hin : ∀ g ∈ clashRun.todo.take 1, g = clashGran := fun g hg => List.mem_singleton.mp hg
  obtain ⟨r', hr', -, -⟩ := hread 0 clashRun
    { engine := 4, dom := 0, tags := 1, stopping := false, graph := some 0, wcache := false } rfl rfl rfl rfl rfl
    (fun g hg => hin g hg ▸ clash_reads) clashGran (List.mem_singleton.mpr rfl) 0x100 (by decide) (by decide)
  have hsame : answerRow clashHdr 0x0604 (clashStopped, .done .ok []) = answerRow clashHdr 0x0604 (t, .done .ok []) :=
    Host.Outcome.next.inj (clash_stop.symm.trans hans)
  obtain ⟨hqd, hqs⟩ := answerRow_movers clashHdr 0x0604 clashStopped .ok []
  obtain ⟨htd, hts⟩ := answerRow_movers clashHdr 0x0604 t .ok []
  have ht : runAt t 0 = runAt clashStopped 0 :=
    runAt_congr (by rw [← htd, ← hsame, hqd]) (by rw [← hts, ← hsame, hqs]) 0
  rw [ht, clash_lost] at hr'
  cases hr'

end Sys2Proof.Machine
end

section
/-! PROOFS. A debug access after the firmware has halted (R487). -/

namespace Sys2Proof.Machine

open Sys2Proof

/-- The block after a halt of the firmware, with DEBUG_ENABLE in force for domain 2 and no DDR5 mapped. -/
def haltedState : State :=
  { State.reset with boot := { State.reset.boot with fwReady := true, fwHalt := true },
                     tap := { State.reset.tap with dbgDomain := some 2 } }

/-- Refutes O53: firmware that has halted is not up, yet a debug access is still served in the domain of DEBUG_ENABLE; a read of
address 0, where no DDR5 is mapped, ends UNMAPPED and not DENIED. -/
theorem not_watchesAndTestAccessFollowTheirRegisters : ¬ Obligations.WatchesAndTestAccessFollowTheirRegisters := by
  unfold Obligations.WatchesAndTestAccessFollowTheirRegisters
  rintro ⟨-, -, -, -, -, -, -, -, -, -, -, haccess, -⟩
  obtain ⟨t, hexec, -, -, -, -, hdown, -, -⟩ := haccess haltedState haltedState [] 0 rfl rfl
  obtain ⟨-, hst, -⟩ := hdown (.inl rfl)
  have ht : doDbgAccess 0 haltedState = t := Host.Outcome.next.inj hexec
  have hserved : (doDbgAccess 0 haltedState).tap.dbgPendStatus = .unmapped := by decide
  rw [← ht, hserved] at hst
  cases hst

end Sys2Proof.Machine
end

section
/-! PROOFS. Events and answers leave the trace channels, and a channel's own writes leave the others (R464 to R474). -/

namespace Sys2Proof.Machine

open Sys2Proof

theorem traceOf_setTrace_same (s : State) (c : Nat) (x : TraceCh) : traceOf (setTrace s c x) c = x := tabGet_tabSet_same _ _ _ _

theorem traceOf_setTrace_other (s : State) {c j : Nat} (x : TraceCh) (h : j ≠ c) : traceOf (setTrace s c x) j = traceOf s j :=
  tabGet_tabSet_other _ _ _ h

/-! ### What leaves every channel -/

/-- Every trace channel is as it was. -/
def ChansKept (s t : State) : Prop := t.trace.chans = s.trace.chans

theorem ChansKept.refl (s : State) : ChansKept s s := rfl

theorem ChansKept.trans {s t u : State} (h : ChansKept s t) (k : ChansKept t u) : ChansKept s u := Eq.trans k h

theorem ChansKept.behind {s t u : State} (k : ChansKept t u) (h : ChansKept s t) : ChansKept s u := h.trans k

theorem ChansKept.of {s t : State} (h : t.trace.chans = s.trace.chans) : ChansKept s t := h

theorem ChansKept.traceOf {s t : State} (h : ChansKept s t) (c : Nat) : traceOf t c = traceOf s c :=
  congrArg (fun l => tabGet traceReset l c) h

theorem ChansKept.bump (s : State) (cls unit i n : Nat) : ChansKept s (bump s cls unit i n) := rfl

theorem ChansKept.emitTrace (s : State) (c u : Nat) (g : Bool) (k a : Nat) (e : List (Nat × Nat × Nat × Nat × Nat)) :
    ChansKept s (emitTrace s c u g k a e) := by
  unfold Machine.emitTrace
  dsimp only
  split <;> split <;> rfl

theorem ChansKept.sendFlit (s : State) (p : Nat) (o : OutPkt) (f : Nat × Nat × List Byte) (r : List (Nat × Nat × List Byte)) :
    ChansKept s (sendFlit s p o f r) := by
  have hfree : ∀ q v n, ChansKept q (freeFlits q o.src v n) := fun q v n => by
    unfold freeFlits
    split <;> rfl
  unfold Machine.sendFlit
  dsimp only
  refine ChansKept.trans ?_ (hfree _ _ _)
  split
  · exact (ChansKept.of rfl).trans (.emitTrace _ _ _ _ _ _ _)
  · exact .of rfl

theorem ChansKept.pumpStep {s t : State} {p : Nat} (h : pumpStep s p = some t) : ChansKept s t := by
  unfold Machine.pumpStep at h
  dsimp only at h
  split at h
  · split at h
    · cases h
    · split at h <;> cases h
      exact .sendFlit _ _ _ _ _
  · simp only [Option.map_eq_some_iff] at h
    obtain ⟨i, -, rfl⟩ := h
    unfold startAt
    dsimp only
    split <;> rfl

theorem ChansKept.pumpPort (n : Nat) (s : State) (p : Nat) : ChansKept s (pumpPort n s p) := by
  induction n generalizing s with
  | zero => rfl
  | succ n ih =>
    unfold Machine.pumpPort
    split
    · rfl
    · split
      · rfl
      next h => exact (ChansKept.pumpStep h).trans (ih _)

theorem ChansKept.routePosted (s : State) (src : Nat) (x : Packet) : ChansKept s (routePosted s src x) := by
  unfold Machine.routePosted
  dsimp only
  split
  · rfl
  · split
    · rfl
    · split
      · rfl
      · split
        · rfl
        · exact .pumpPort _ _ _

theorem ChansKept.placeEvent (s : State) (e : EvRec) : ChansKept s (placeEvent s e) := by
  have hpush : ChansKept s (pushEvent s e) := by unfold pushEvent; split <;> rfl
  unfold Machine.placeEvent
  split
  · exact hpush
  · split
    · exact hpush
    · split
      · rfl
      · split
        · exact .routePosted _ _ _
        · exact ChansKept.behind ((ChansKept.routePosted _ _ _).trans (.routePosted _ _ _)) rfl

theorem ChansKept.postEvent (s : State) (code cls unit : Nat) (arg : List Byte) : ChansKept s (postEvent s code cls unit arg) := by
  unfold Machine.postEvent
  exact ChansKept.behind ((ChansKept.emitTrace _ _ _ _ _ _ _).trans (.placeEvent _ _)) rfl

theorem ChansKept.sendMbox (s : State) (type dst tag gen : Nat) (bs : List Byte) :
    ChansKept s (sendMbox s type dst tag gen bs) := by
  unfold Machine.sendMbox
  generalize mboxPackets s type dst tag gen (bs.length / 256 + 1) 0 bs = l
  induction l generalizing s with
  | nil => exact .refl s
  | cons p l ih => exact (ChansKept.routePosted s 12 p).trans (ih _)

theorem ChansKept.responsePlaced (s : State) (i : Nat) (r : MbRec) (rsp : List Byte) :
    ChansKept s (responsePlaced s i r rsp) := by
  unfold Machine.responsePlaced
  cases r.src with
  | host => rfl
  | relay dev tag gen => exact .sendMbox _ _ _ _ _ _

theorem ChansKept.answer (s : State) (w : WaitKind) (st : Status) (payload : List Byte) :
    ChansKept s (answer s w st payload) := by
  unfold Machine.answer
  split
  · rfl
  · split
    · rfl
    next i r _ =>
      unfold finishAt
      rw [placeResponse_eq]
      have hq := ChansKept.responsePlaced (recordHist s r.opcode r.hdr (respBytes r.opcode r.hdr st payload)) i r
        (respBytes r.opcode r.hdr st payload)
      change ChansKept s _ at hq
      split
      · exact hq.trans (.postEvent _ _ _ _ _)
      · exact hq

/-! ### What leaves the other channels -/

/-- The channels other than one are as they were. -/
def OthersKept (c : Nat) (s t : State) : Prop := ∀ j, j ≠ c → traceOf t j = traceOf s j

theorem OthersKept.trans {c : Nat} {s t u : State} (h : OthersKept c s t) (k : OthersKept c t u) : OthersKept c s u :=
  fun j hj => (k j hj).trans (h j hj)

theorem ChansKept.others {s t : State} (h : ChansKept s t) (c : Nat) : OthersKept c s t := fun j _ => h.traceOf j

theorem OthersKept.setTrace (s : State) (c : Nat) (x : TraceCh) : OthersKept c s (setTrace s c x) :=
  fun _ hj => traceOf_setTrace_other s x hj

theorem traceOf_putBytes (s : State) (a : Nat) (bs : List Byte) (p : Bool) (c : Nat) :
    traceOf (putBytes s a bs p) c = traceOf s c := rfl

theorem OthersKept.putBytes {c : Nat} {s t : State} (h : OthersKept c s t) (a : Nat) (bs : List Byte) (p : Bool) :
    OthersKept c s (putBytes t a bs p) := h

theorem lossFull_others (s : State) (c : Nat) : OthersKept c s (lossFull s c) :=
  (OthersKept.setTrace s c (countLoss s (traceOf s c))).putBytes _ _ _

theorem enterFull_others (s : State) (c : Nat) : OthersKept c s (enterFull s c) :=
  (OthersKept.setTrace s c _).trans ((ChansKept.postEvent _ _ _ _ _).others c)

theorem checkFull_others (s : State) (c : Nat) : OthersKept c s (checkFull s c) := by
  unfold checkFull
  dsimp only
  split
  · exact enterFull_others s c
  · exact fun _ _ => rfl

theorem putSlot_others (s : State) (c : Nat) (b : List Byte) : OthersKept c s (putSlot s c b) := by
  unfold putSlot
  dsimp only
  split
  · exact (OthersKept.setTrace s c _).putBytes _ _ _
  · exact (OthersKept.setTrace s c _).putBytes _ _ _

theorem putSlots_others (c : Nat) (l : List (List Byte)) (s : State) :
    OthersKept c s (l.foldl (fun s b => putSlot s c b) s) := by
  induction l generalizing s with
  | nil => exact fun _ _ => rfl
  | cons b l ih => exact (putSlot_others s c b).trans (ih _)

theorem appendRecord_others (s : State) (c : Nat) (r : TraceRec) : OthersKept c s (appendRecord s c r) := by
  unfold appendRecord
  dsimp only
  generalize (if (traceOf s c).gapCnt = 0 then [] else [headBytes (traceOf s c) (gapRecord s (traceOf s c))]) ++
    recSlots (traceOf s c) r = slots
  split
  · exact lossFull_others s c
  · split
    · exact OthersKept.setTrace s c _
    · split
      · exact (enterFull_others s c).trans (lossFull_others _ c)
      · exact ((OthersKept.setTrace s c _).trans (putSlots_others c _ _)).trans (checkFull_others _ c)

end Sys2Proof.Machine
end

section
/-! PROOFS. What the commands on trace channels leave (R463, R468, R471, R472, R474). -/

namespace Sys2Proof.Machine

open Sys2Proof

/-! ### TRACE_START (R468) -/

theorem cmdTraceStart_starts {s s' : State} {h : CmdHdr} {c : Nat} {e : List Byte}
    (hf : fetchEntry s h.domain c 5 0 = (s', .inr e)) (hb : traceBody e = none)
    (ha : traceActive (traceOf s (fieldAt e 2 2)) = false) (hd : (traceOf s (fieldAt e 2 2)).dests = [])
    (hm : meetsChannel s (fieldAt e 24 4) (fieldAt e 28 4) = false) (hw : meetsDump s 64 (fieldAt e 24 4) (fieldAt e 28 4) = false)
    (hs : fieldAt e 48 8 ≠ 0 → mapTarget s (fieldAt e 48 8) (fieldAt e 56 4) = some 0)
    (hfit : (ddrFit s (fun _ => cdiv (traceOfEntry e c h.domain).spillRate 4)).1 = false) :
    cmdTraceStart h c 0 s = okDone (setTrace s' (fieldAt e 2 2) (traceOfEntry e c h.domain)) := by
  have hmap : ¬((traceOfEntry e c h.domain).spillBase ≠ 0 ∧
      mapTarget s (traceOfEntry e c h.domain).spillBase (traceOfEntry e c h.domain).spillLen ≠ some 0) :=
    fun hc => hc.2 (hs hc.1)
  have hbusy : (traceActive (traceOf s (fieldAt e 2 2)) || (traceOf s (fieldAt e 2 2)).dests != [] ||
      meetsChannel s (traceOfEntry e c h.domain).bufOff (traceOfEntry e c h.domain).bufLen ||
      meetsDump s 64 (traceOfEntry e c h.domain).bufOff (traceOfEntry e c h.domain).bufLen) = false := by
    rw [ha, hd, show meetsChannel s (traceOfEntry e c h.domain).bufOff (traceOfEntry e c h.domain).bufLen = false from hm,
      show meetsDump s 64 (traceOfEntry e c h.domain).bufOff (traceOfEntry e c h.domain).bufLen = false from hw]
    rfl
  rw [cmdTraceStart, if_neg (by decide), hf]
  dsimp only
  rw [hb]
  dsimp only
  rw [if_neg hmap, hbusy, hfit]
  rfl

/-! ### TRACE_STOP (R474) -/

theorem traceRefusal_none {s : State} {k : Nat} (hk : k ≤ 7) (ha : traceActive (traceOf s k) = true) :
    traceRefusal s k 0 = none := by
  rw [traceRefusal, if_neg (by rw [ha]; simp), if_neg (by decide), if_neg (by omega)]

/-- A channel stopped; with no channel left that runs, the sources' FIFOs are empty. -/
def channelStopped (s : State) (k : Nat) : State :=
  let t := setTrace s k { traceOf s k with st := .stopped }
  if tabAny (fun _ t => traceActive t) t.trace.chans then t else { t with trace := { t.trace with fifos := [] } }

theorem cmdTraceStop_runs {s : State} {k : Nat} (hk : k ≤ 7) (ha : traceActive (traceOf s k) = true) :
    cmdTraceStop k 0 s = if (traceOf (padBlock s k 256) k).dests = [] then okDone (channelStopped (padBlock s k 256) k)
      else (channelStopped (padBlock s k 256) k, .wait (.traceStop k)) := by
  rw [cmdTraceStop, traceRefusal_none hk ha]
  rfl

theorem channelStopped_trace (s : State) (k : Nat) : channelStopped s k = { s with trace := (channelStopped s k).trace } := by
  unfold channelStopped
  dsimp only
  split <;> rfl

theorem channelStopped_chans (s : State) (k : Nat) :
    ChansKept (setTrace s k { traceOf s k with st := .stopped }) (channelStopped s k) := by
  unfold channelStopped
  dsimp only
  split <;> rfl

theorem channelStopped_same (s : State) (k : Nat) : traceOf (channelStopped s k) k = { traceOf s k with st := .stopped } :=
  ((channelStopped_chans s k).traceOf k).trans (traceOf_setTrace_same _ _ _)

theorem channelStopped_others (s : State) (k : Nat) : OthersKept k s (channelStopped s k) :=
  (OthersKept.setTrace s k _).trans ((channelStopped_chans s k).others k)

theorem advanceWr_dests (x : TraceCh) : (advanceWr x).dests = x.dests := by
  unfold advanceWr
  split
  · split <;> rfl
  · rfl

/-- A channel whose blocks are full, or that writes no spill area, takes no PAD. -/
theorem padBlock_full {s : State} {c : Nat} (n : Nat) (h : (traceOf s c).dests.length % 256 = 0) : padBlock s c n = s := by
  cases n with
  | zero => rfl
  | succ n => exact if_pos h

theorem padBlock_others (c n : Nat) (s : State) : OthersKept c s (padBlock s c n) := by
  induction n generalizing s with
  | zero => exact fun _ _ => rfl
  | succ n ih =>
    unfold padBlock
    dsimp only
    split
    · exact fun _ _ => rfl
    · exact ((OthersKept.setTrace s c _).putBytes _ _ _).trans (ih _)

/-- PAD records fill the channel's last block: with n records as many as a block has room for, no part of one is left. -/
theorem padBlock_fills (c n : Nat) (s : State) (hd : (traceOf s c).dests ≠ [])
    (hn : 256 ≤ n + (traceOf s c).dests.length % 256 ∨ (traceOf s c).dests.length % 256 = 0) :
    (traceOf (padBlock s c n) c).dests.length % 256 = 0 ∧ (traceOf (padBlock s c n) c).dests ≠ [] := by
  induction n generalizing s with
  | zero =>
    have h0 : (traceOf s c).dests.length % 256 = 0 := by omega
    exact ⟨h0, hd⟩
  | succ n ih =>
    unfold padBlock
    dsimp only
    generalize (if ((ringLen (traceOf s c)).isNone && decide (fillEnd (traceOf s c) ≤ (traceOf s c).wr)) = true
      then areaLen (traceOf s c) else (traceOf s c).wr) = place
    split
    next h => exact ⟨h, hd⟩
    next h =>
      have key : ∀ x a b, x.dests.length = (traceOf s c).dests.length + 1 →
          (traceOf (padBlock (putBytes (setTrace s c x) a b false) c n) c).dests.length % 256 = 0 ∧
            (traceOf (padBlock (putBytes (setTrace s c x) a b false) c n) c).dests ≠ [] := fun x a b hx => by
        refine ih _ ?_ ?_ <;> rw [traceOf_putBytes, traceOf_setTrace_same]
        · exact List.ne_nil_of_length_pos (by omega)
        · omega
      refine key _ _ _ ?_
      split
      · exact List.length_append
      · rw [advanceWr_dests]
        exact List.length_append

/-! ### TRACE_STATUS (R472) -/

theorem fieldAt_leBytes_first (k n : Nat) (b : List Byte) : fieldAt (leBytes k n ++ b) 0 k = n % 2 ^ (8 * k) :=
  fieldAt_field (a := []) rfl k n b

theorem fieldAt_leBytes_skip (k n : Nat) (b : List Byte) {off w : Nat} (h : k ≤ off) :
    fieldAt (leBytes k n ++ b) off w = fieldAt b (off - k) w := by
  rw [fieldAt_append_right _ _ (by rw [length_leBytes]; exact h), length_leBytes]

/-- What TRACE_STATUS answers of a channel. -/
def chanStatus (s : State) (c : Nat) : List Byte :=
  leBytes 1 (traceStIdx (traceOf s c).st) ++ leBytes 3 0 ++ leBytes 4 (traceOf s c).wr ++
    leBytes 4 (satTo 32 (traceOf s c).wraps) ++ leBytes 4 (traceOf s c).trigOff ++ leBytes 4 (satTo 32 (traceOf s c).lost) ++
    leBytes 4 (satTo 32 (traceOf s c).ignored) ++ leBytes 8 0

theorem length_chanStatus (s : State) (c : Nat) : (chanStatus s c).length = 32 := by
  simp only [chanStatus, List.length_append, length_leBytes]

theorem chanStatus_fields (s : State) (c : Nat) : fieldAt (chanStatus s c) 0 1 = traceStIdx (traceOf s c).st ∧
    fieldAt (chanStatus s c) 4 4 = (traceOf s c).wr % 2 ^ 32 ∧
    fieldAt (chanStatus s c) 16 4 = min (traceOf s c).lost (2 ^ 32 - 1) := by
  simp only [chanStatus, List.append_assoc]
  refine ⟨?_, ?_, ?_⟩
  · rw [fieldAt_leBytes_first]
    cases (traceOf s c).st <;> rfl
  · rw [fieldAt_leBytes_skip _ _ _ (by decide), fieldAt_leBytes_skip _ _ _ (by decide)]
    exact fieldAt_leBytes_first _ _ _
  · rw [fieldAt_leBytes_skip _ _ _ (by decide), fieldAt_leBytes_skip _ _ _ (by decide), fieldAt_leBytes_skip _ _ _ (by decide),
      fieldAt_leBytes_skip _ _ _ (by decide), fieldAt_leBytes_skip _ _ _ (by decide)]
    refine (fieldAt_leBytes_first _ _ _).trans ?_
    unfold satTo
    omega

/-! ### TRACE_TRIGGER (R471) -/

theorem fireTrigger_runs {s : State} {k : Nat} (ha : traceActive (traceOf s k) = true) (hb : bitAt (traceOf s k).trig 0 = true) :
    fireTrigger s k 1 = if ((traceOf s k).mode = 2 ∧ (traceOf s k).triggered) ∨ ((traceOf s k).mode = 1 ∧ (traceOf s k).st = .full)
      then setTrace s k { traceOf s k with ignored := (traceOf s k).ignored + 1 } else takeTrigger s k 1 := by
  rw [fireTrigger]
  dsimp only
  rw [ha, hb]
  rfl

/-- A trigger that takes effect marks its channel, puts a CENTRED one in its post part, and leaves the others. -/
theorem takeTrigger_leaves (s : State) (k cause : Nat) : (traceOf (takeTrigger s k cause) k).triggered = true ∧
    ((traceOf s k).mode = 2 → (traceOf (takeTrigger s k cause) k).st = .post) ∧ OthersKept k s (takeTrigger s k cause) := by
  have happ := appendRecord_others s k (ownRecord s 5 cause [])
  unfold takeTrigger
  dsimp only
  generalize appendRecord s k (ownRecord s 5 cause []) = q at *
  generalize hoff : (if (traceOf q k).lost = (traceOf s k).lost
    then (if (traceOf s k).gapCnt = 0 then (traceOf s k).wr else (advanceWr (traceOf s k)).wr) else (traceOf s k).trigOff) = off
  generalize hy : (if (traceOf s k).mode = 2
    then { { traceOf q k with trigOff := off, triggered := true } with
      st := .post, wr := areaLen (traceOf s k) - postLen (traceOf s k) }
    else { traceOf q k with trigOff := off, triggered := true }) = y
  have hfinal : ∀ t, ChansKept (setTrace q k y) t → (traceOf t k).triggered = true ∧
      ((traceOf s k).mode = 2 → (traceOf t k).st = .post) ∧ OthersKept k s t := fun t ht => by
    have htk : traceOf t k = y := (ht.traceOf k).trans (traceOf_setTrace_same q k y)
    refine ⟨?_, fun hm => ?_, (happ.trans (.setTrace q k y)).trans (ht.others k)⟩ <;> rw [htk, ← hy]
    · split <;> rfl
    · rw [if_pos hm]
  split
  · exact hfinal _ (.refl _)
  · exact hfinal _ (.postEvent _ _ _ _ _)

/-! ### TRACE_MARK (R463) -/

theorem emitTrace_chans (s : State) (c u : Nat) (g : Bool) (k a : Nat) (e : List (Nat × Nat × Nat × Nat × Nat)) :
    (emitTrace s c u g k a e).trace.chans = s.trace.chans := ChansKept.emitTrace s c u g k a e

/-- A record for which its source's FIFO has room, with none lost before it, joins the FIFO. -/
theorem emitTrace_room {s : State} {cls unit k a : Nat} {g : Bool} (hl : tabGet 0 s.trace.fifoLost (srcKey cls unit) = 0)
    (hr : fifoLen (tabGet [] s.trace.fifos (srcKey cls unit)) < 16) :
    tabGet [] (emitTrace s cls unit g k a []).trace.fifos (srcKey cls unit) = tabGet [] s.trace.fifos (srcKey cls unit) ++
      [TraceRec.mk s.time cls unit g (uNow s cls unit) k s.rst.refLostAt.isSome a []] := by
  have hlen : ∀ r : TraceRec, r.exts = [] → fifoLen [r] = 1 := fun r hr => by simp only [fifoLen, List.foldl, hr, List.length_nil]
  unfold emitTrace
  dsimp only
  rw [if_pos hl, if_pos (by rw [hlen _ rfl]; omega)]
  exact tabGet_tabSet_same _ _ _ _

end Sys2Proof.Machine
end

section
/-! PROOFS. Counters: what their latches hold at a boundary, and how they are read and cleared (R478 to R480). -/

namespace Sys2Proof.Machine

open Sys2Proof

theorem classUnits_le (cls : Nat) : classUnits cls ≤ 256 := by
  unfold classUnits
  split <;> decide

/-- Units of the classes with counters have keys of their own. -/
theorem srcKey_inj {e f : Nat × Nat} (he : e.2 < 2048) (hf : f.2 < 2048) (h : srcKey e.1 e.2 = srcKey f.1 f.2) : e = f := by
  unfold srcKey at h
  exact Prod.ext (by omega) (by omega)

theorem mem_counterUnits {e : Nat × Nat} : e ∈ counterUnits ↔ e.1 ≤ 10 ∧ e.2 < classUnits e.1 := by
  unfold counterUnits
  simp only [List.mem_flatMap, List.mem_map, List.mem_range]
  constructor
  · rintro ⟨c, hc, u, hu, rfl⟩
    exact ⟨Nat.le_of_lt_succ hc, hu⟩
  · rintro ⟨hc, hu⟩
    exact ⟨e.1, Nat.lt_succ_of_le hc, e.2, hu, rfl⟩

/-! ### One unit at a boundary -/

/-- One counter of a unit after a boundary: cleared where COUNTER_CLEAR named the unit, an untimed one as it was latched. -/
def counterAfter (clear : Bool) (free : List Nat) (vals : List Nat) (k : Nat) (c : Tab Nat) (i : Nat) : Tab Nat :=
  if clear then tabErase (k * 8 + i) c else if free.contains i then tabSet (k * 8 + i) (nth vals i) c else c

theorem latchUnit_eq (s : State) (w : Nat) (t : TraceUnit) (e : Nat × Nat) : latchUnit s w t e = { t with
    cnt := (List.range 8).foldl (counterAfter (s.trace.clearing.contains (srcKey e.1 e.2)) (freeCounters e.1)
      (latchOf s w e.1 e.2).vals (srcKey e.1 e.2)) t.cnt,
    latches := tabSet (srcKey e.1 e.2) (latchOf s w e.1 e.2) t.latches } := rfl

theorem tabGet_tabErase_same (k : Nat) (t : Tab Nat) : tabGet 0 (tabErase k t) k = 0 := by
  rw [tabGet, tabGet?_tabErase_same]
  rfl

theorem tabGet_tabErase_other {k j : Nat} (t : Tab Nat) (h : j ≠ k) : tabGet 0 (tabErase k t) j = tabGet 0 t j := by
  rw [tabGet, tabGet, tabGet?_tabErase_other t h]

/-- A counter's step leaves the value at every other place. -/
theorem counterAfter_other {clear : Bool} {free vals : List Nat} {k i j : Nat} (c : Tab Nat) (h : j ≠ k * 8 + i) :
    tabGet 0 (counterAfter clear free vals k c i) j = tabGet 0 c j := by
  unfold counterAfter
  split
  · exact tabGet_tabErase_other c h
  · split
    · exact tabGet_tabSet_other _ _ _ h
    · rfl

/-- A counter's step leaves the value of a counter that is neither cleared nor untimed. -/
theorem counterAfter_kept {free vals : List Nat} {k i j : Nat} (c : Tab Nat) (hj : j ∉ free) :
    tabGet 0 (counterAfter false free vals k c i) (k * 8 + j) = tabGet 0 c (k * 8 + j) := by
  by_cases h : j = i
  · subst h
    unfold counterAfter
    rw [if_neg (by decide), if_neg (by rw [List.contains_iff_mem]; exact hj)]
  · exact counterAfter_other c (by omega)

/-- A counter's step of a unit that is cleared leaves a zero a zero. -/
theorem counterAfter_zero {free vals : List Nat} {k i j : Nat} {c : Tab Nat} (h : tabGet 0 c j = 0) :
    tabGet 0 (counterAfter true free vals k c i) j = 0 := by
  by_cases hj : j = k * 8 + i
  · rw [hj]
    exact tabGet_tabErase_same _ c
  · rw [counterAfter_other c hj, h]

theorem foldl_same {α β γ : Type} {f : α → β → α} (g : α → γ) {l : List β} (h : ∀ a, ∀ b ∈ l, g (f a b) = g a) (a : α) :
    g (l.foldl f a) = g a := by
  induction l generalizing a with
  | nil => rfl
  | cons b l ih =>
    rw [List.foldl_cons, ih (fun a c hc => h a c (List.mem_cons_of_mem b hc)), h a b List.mem_cons_self]

/-- A property that a step on one element establishes and every step keeps holds after the fold. -/
theorem foldl_reaches {α β : Type} {f : α → β → α} {p : α → Prop} {l : List β} {b : β} (hb : b ∈ l) (hset : ∀ a, p (f a b))
    (hkeep : ∀ a, ∀ c ∈ l, p a → p (f a c)) (a : α) : p (l.foldl f a) := by
  have keep : ∀ (m : List β), (∀ c ∈ m, c ∈ l) → ∀ a, p a → p (m.foldl f a) := fun m => by
    induction m with
    | nil => exact fun _ _ h => h
    | cons c m ih =>
      exact fun hm a h => ih (fun d hd => hm d (List.mem_cons_of_mem c hd)) _ (hkeep a c (hm c List.mem_cons_self) h)
  obtain ⟨m, n, rfl⟩ := List.append_of_mem hb
  rw [List.foldl_append, List.foldl_cons]
  exact keep n (fun c hc => by simp [hc]) _ (hset _)

/-- A unit that is cleared has its counters at zero. -/
theorem counters_cleared {free vals : List Nat} {k i : Nat} (hi : i < 8) (c : Tab Nat) :
    tabGet 0 ((List.range 8).foldl (counterAfter true free vals k) c) (k * 8 + i) = 0 :=
  foldl_reaches (p := fun c => tabGet 0 c (k * 8 + i) = 0) (List.mem_range.mpr hi)
    (fun c => tabGet_tabErase_same _ c) (fun _ _ _ h => counterAfter_zero h) c

/-! ### Every unit at a boundary -/

section
variable {s : State} {w : Nat} {e : Nat × Nat} (he : e ∈ counterUnits)
include he

theorem latches_boundary (t : TraceUnit) : tabGet? (counterUnits.foldl (latchUnit s w) t).latches (srcKey e.1 e.2) =
    some (latchOf s w e.1 e.2) := by
  refine foldl_reaches (p := fun t : TraceUnit => tabGet? t.latches (srcKey e.1 e.2) = some (latchOf s w e.1 e.2)) he
    (fun t => tabGet?_tabSet_same _ _ _) (fun t f hf ht => ?_) t
  by_cases h : srcKey e.1 e.2 = srcKey f.1 f.2
  · have hle := classUnits_le e.1
    have hlf := classUnits_le f.1
    have hef : e = f := srcKey_inj (by have := (mem_counterUnits.mp he).2; omega) (by have := (mem_counterUnits.mp hf).2; omega) h
    rw [hef]
    exact tabGet?_tabSet_same _ _ _
  · exact (tabGet?_tabSet_other _ _ h).trans ht

/-- A counter of a unit that COUNTER_CLEAR named is zero after the boundary. -/
theorem counter_boundary_cleared {i : Nat} (hi : i < 8) (hc : srcKey e.1 e.2 ∈ s.trace.clearing) (t : TraceUnit) :
    tabGet 0 (counterUnits.foldl (latchUnit s w) t).cnt (srcKey e.1 e.2 * 8 + i) = 0 := by
  refine foldl_reaches (p := fun t : TraceUnit => tabGet 0 t.cnt (srcKey e.1 e.2 * 8 + i) = 0) he
    (fun t => ?_) (fun t f _ ht => ?_) t
  · rw [latchUnit_eq, show s.trace.clearing.contains (srcKey e.1 e.2) = true from List.contains_iff_mem.mpr hc]
    exact counters_cleared hi _
  · by_cases h : srcKey e.1 e.2 = srcKey f.1 f.2
    · rw [latchUnit_eq, h, show s.trace.clearing.contains (srcKey f.1 f.2) = true from List.contains_iff_mem.mpr (h ▸ hc)]
      exact counters_cleared hi _
    · rw [latchUnit_eq]
      refine (foldl_same (fun c => tabGet 0 c (srcKey e.1 e.2 * 8 + i)) (fun c j hj => counterAfter_other c ?_) _).trans ht
      have hj8 := List.mem_range.mp hj
      omega

/-- Any other counter that the model times goes on from its value. -/
theorem counter_boundary_kept {i : Nat} (hi : i < 8) (hc : srcKey e.1 e.2 ∉ s.trace.clearing) (hfree : i ∉ freeCounters e.1)
    (t : TraceUnit) : tabGet 0 (counterUnits.foldl (latchUnit s w) t).cnt (srcKey e.1 e.2 * 8 + i) =
      tabGet 0 t.cnt (srcKey e.1 e.2 * 8 + i) := by
  refine foldl_same (fun t : TraceUnit => tabGet 0 t.cnt (srcKey e.1 e.2 * 8 + i)) (fun t f hf => ?_) t
  rw [latchUnit_eq]
  by_cases h : srcKey e.1 e.2 = srcKey f.1 f.2
  · have hle := classUnits_le e.1
    have hlf := classUnits_le f.1
    have hef : e = f := srcKey_inj (by have := (mem_counterUnits.mp he).2; omega) (by have := (mem_counterUnits.mp hf).2; omega) h
    have hclear : s.trace.clearing.contains (srcKey f.1 f.2) = false := by
      rw [← Bool.not_eq_true, List.contains_iff_mem, ← h]
      exact hc
    rw [h, hclear]
    exact foldl_same (fun c => tabGet 0 c (srcKey f.1 f.2 * 8 + i)) (fun c j _ => counterAfter_kept c (hef ▸ hfree)) _
  · refine foldl_same (fun c => tabGet 0 c (srcKey e.1 e.2 * 8 + i)) (fun c j hj => counterAfter_other c ?_) _
    have hj8 := List.mem_range.mp hj
    omega

end

/-- A latch holds the timed counters as they stand. -/
theorem latchOf_vals (s : State) (w cls u : Nat) {i : Nat} (hi : i < 8) (hf : i ∉ freeCounters cls) :
    nth (latchOf s w cls u).vals i = counterOf s cls u i := by
  unfold latchOf countersNow nth
  simp [hi, hf]

/-! ### COUNTER_READ and COUNTER_CLEAR (R480) -/

theorem rangeRefusal_none {s : State} {cls first count : Nat} (hc : cls ≤ 10) (hf : first < classUnits cls)
    (hn : first + count ≤ classUnits cls) : rangeRefusal s cls 0 first count 0 = none := by
  rw [rangeRefusal, if_neg (by decide), if_neg (by decide), if_neg (by omega), if_neg (by omega), if_neg (by omega)]

theorem length_latch {s : State} (hl : ∀ e ∈ s.trace.latches, e.2.vals.length = 8) (k : Nat) :
    (tabGet latchNone s.trace.latches k).vals.length = 8 := by
  unfold tabGet
  cases h : tabGet? s.trace.latches k with
  | none => rfl
  | some l => exact hl _ (mem_of_tabGet? h)

theorem length_latchBytes {s : State} (hl : ∀ e ∈ s.trace.latches, e.2.vals.length = 8) (cls u : Nat) :
    (latchBytes s cls u).length = 64 := by
  unfold latchBytes
  simp only [List.length_append, length_leBytes, length_records (length_leBytes 6), length_latch hl]

/-- A counter in the bytes of a unit's latch. -/
theorem latchBytes_counter {s : State} (hl : ∀ e ∈ s.trace.latches, e.2.vals.length = 8) (cls u : Nat) {j : Nat} (hj : j < 8) :
    fieldAt (latchBytes s cls u) (8 + 6 * j) 6 = nth (tabGet latchNone s.trace.latches (srcKey cls u)).vals j % 2 ^ 48 := by
  have hlen := length_latch hl (srcKey cls u)
  unfold latchBytes
  generalize tabGet latchNone s.trace.latches (srcKey cls u) = l at *
  simp only [List.append_assoc]
  rw [fieldAt_leBytes_skip _ _ _ (by omega), fieldAt_leBytes_skip _ _ _ (by omega), fieldAt_leBytes_skip _ _ _ (by omega),
    fieldAt_leBytes_skip _ _ _ (by omega), show 8 + 6 * j - 4 - 2 - 1 - 1 = 6 * j + 0 by omega,
    fieldAt_append_left _ (by rw [length_records (length_leBytes 6), hlen]; omega)]
  have hget : l.vals[j]? = some (nth l.vals j) := by
    rw [nth, List.getD_eq_getElem?_getD, List.getElem?_eq_getElem (by omega)]
    rfl
  rw [fieldAt_records (length_leBytes 6) hget (by omega), fieldAt_leBytes]

end Sys2Proof.Machine
end

section
/-! PROOFS. Records that reach their channels, and blocks that reach the spill area (R467, R469, R470, R473). -/

namespace Sys2Proof.Machine

open Sys2Proof

/-! ### A record reaches the channels (R467) -/

theorem offerRecord_idle {s : State} {c : Nat} (r : TraceRec) (h : traceActive (traceOf s c) = false) :
    offerRecord s c r = s := by
  rw [offerRecord]
  dsimp only
  rw [h]
  rfl

theorem offerRecords_idle {s : State} {l : List Nat} (r : TraceRec) (h : ∀ c ∈ l, traceActive (traceOf s c) = false) :
    l.foldl (fun s c => offerRecord s c r) s = s := by
  induction l with
  | nil => rfl
  | cons c l ih =>
    rw [List.foldl_cons, offerRecord_idle r (h c List.mem_cons_self)]
    exact ih fun d hd => h d (List.mem_cons_of_mem c hd)

/-- With one channel that may run, a record reaches that one. -/
theorem offerAll_one {s t : State} {c : Nat} {r : TraceRec} (hc : c < 8)
    (hidle : ∀ j < 8, j ≠ c → traceActive (traceOf s j) = false) (ht : offerRecord s c r = t) (hk : OthersKept c s t) :
    offerAll s r = t := by
  obtain ⟨m, n, hmn⟩ := List.append_of_mem (List.mem_range.mpr hc)
  have hnd : (m ++ c :: n).Nodup := hmn ▸ List.nodup_range
  have hne : ∀ j ∈ m ++ n, j < 8 ∧ j ≠ c := fun j hj => by
    have hin : j ∈ m ++ c :: n := by
      rcases List.mem_append.mp hj with h | h
      · exact List.mem_append_left _ h
      · exact List.mem_append_right _ (List.mem_cons_of_mem c h)
    refine ⟨List.mem_range.mp (hmn ▸ hin), fun hjc => ?_⟩
    exact (List.nodup_cons.mp (List.perm_middle.nodup_iff.mp hnd)).1 (hjc ▸ hj)
  have hidle' : ∀ j ∈ m ++ n, traceActive (traceOf s j) = false := fun j hj => hidle j (hne j hj).1 (hne j hj).2
  rw [offerAll, hmn, List.foldl_append, List.foldl_cons,
    offerRecords_idle r (fun j hj => hidle' j (List.mem_append_left n hj)), ht]
  exact offerRecords_idle r fun j hj => by
    rw [hk j (hne j (List.mem_append_right m hj)).2]
    exact hidle' j (List.mem_append_right m hj)

/-- A source's FIFO without its oldest record. -/
def fifoPopped (s : State) (k : Nat) (q : List TraceRec) : State :=
  { s with trace := { s.trace with fifos := tabPut [] k q s.trace.fifos } }

theorem doTraceRecordArrive_front {s : State} {cls u : Nat} {r : TraceRec} {q : List TraceRec} (hi : islandRuns s 1 = true)
    (hq : tabGet [] s.trace.fifos (srcKey cls u) = r :: q) :
    doTraceRecordArrive cls u s = offerAll (fifoPopped s (srcKey cls u) q) r := by
  rw [doTraceRecordArrive]
  dsimp only
  rw [hi, hq]
  rfl

theorem traceOf_fifoPopped (s : State) (k : Nat) (q : List TraceRec) (c : Nat) : traceOf (fifoPopped s k q) c = traceOf s c := rfl

/-! ### A record is written (R470) -/

/-- The later of two values set at one place stands. -/
theorem tabSet_tabSet {α : Type} (k : Nat) (u v : α) (t : Tab α) : tabSet k v (tabSet k u t) = tabSet k v t := by
  induction t with
  | nil => simp [tabSet]
  | cons e t ih =>
    obtain ⟨k', v'⟩ := e
    rw [tabSet, tabSet]
    split
    · simp [tabSet]
    · split
      · simp [tabSet]
      next h1 h2 => rw [tabSet, if_neg h1, if_neg h2, ih]

theorem setTrace_setTrace (s : State) (c : Nat) (x y : TraceCh) : setTrace (setTrace s c x) c y = setTrace s c y := by
  unfold setTrace
  dsimp only
  rw [tabSet_tabSet]

/-- A record's slot in a channel's region, with its place behind it. -/
def slotWritten (s : State) (c : Nat) (b : List Byte) : State :=
  putBytes (setTrace s c (advanceWr (traceOf s c))) (traceBase + (traceOf s c).bufOff + (traceOf s c).wr) b false

theorem slotWritten_chan (s : State) (c : Nat) (b : List Byte) : traceOf (slotWritten s c b) c = advanceWr (traceOf s c) :=
  traceOf_setTrace_same s c _

theorem slotWritten_others (s : State) (c : Nat) (b : List Byte) : OthersKept c s (slotWritten s c b) :=
  (OthersKept.setTrace s c _).putBytes _ _ _

theorem checkFull_ring {s : State} {c n : Nat} (h : ringLen (traceOf s c) = some n) : checkFull s c = s := by
  rw [checkFull]
  rw [h]
  rfl

theorem advanceWr_wrap {x : TraceCh} (hm : x.mode = 0) (hs : x.spillBase = 0) :
    ringLen (advanceWr x) = some x.bufLen ∧ (advanceWr x).wr = if x.bufLen ≤ x.wr + 16 then 0 else x.wr + 16 := by
  have hring : ringLen x = some x.bufLen := by rw [ringLen, if_pos hm, areaLen, if_pos hs]
  unfold advanceWr
  rw [hring]
  dsimp only
  split
  · exact ⟨by rw [ringLen, if_pos hm, areaLen, if_pos hs], rfl⟩
  · exact ⟨by rw [ringLen, if_pos hm, areaLen, if_pos hs], rfl⟩

/-- A record without extensions, for a WRAP channel without a spill area that owes no GAP, takes one slot of the region. -/
theorem appendRecord_wrap {s : State} {c : Nat} {r : TraceRec} (hst : (traceOf s c).st = .running) (hm : (traceOf s c).mode = 0)
    (hs : (traceOf s c).spillBase = 0) (hg : (traceOf s c).gapCnt = 0) (he : r.exts = []) :
    appendRecord s c r = slotWritten s c (headBytes (traceOf s c) r) := by
  have hslots : (if (traceOf s c).gapCnt = 0 then [] else [headBytes (traceOf s c) (gapRecord s (traceOf s c))]) ++
      recSlots (traceOf s c) r = [headBytes (traceOf s c) r] := by
    rw [if_pos hg, recSlots, he]
    rfl
  have hring : ringLen (traceOf s c) = some (traceOf s c).bufLen := by rw [ringLen, if_pos hm, areaLen, if_pos hs]
  have hself : { traceOf s c with gapCnt := 0 } = traceOf s c := by rw [← hg]
  have hput : putSlot (setTrace s c (traceOf s c)) c (headBytes (traceOf s c) r) =
      slotWritten s c (headBytes (traceOf s c) r) := by
    rw [putSlot, traceOf_setTrace_same, if_pos hs, setTrace_setTrace]
    rfl
  have hend : ringLen (traceOf (slotWritten s c (headBytes (traceOf s c) r)) c) = some (traceOf s c).bufLen := by
    rw [slotWritten_chan]
    exact (advanceWr_wrap hm hs).1
  rw [appendRecord]
  rw [hslots, if_neg (by rw [hst]; decide), freeSlots, if_pos hs, if_neg (by rw [List.length_singleton]; decide), hring,
    hself, List.foldl_cons, hput]
  exact checkFull_ring hend

/-- A record that a WRAP channel admits and that is no trigger is written to its region. -/
theorem offerRecord_wrap {s : State} {c : Nat} {r : TraceRec} (hst : (traceOf s c).st = .running) (hm : (traceOf s c).mode = 0)
    (hs : (traceOf s c).spillBase = 0) (hg : (traceOf s c).gapCnt = 0) (he : r.exts = [])
    (hc : recordCause (traceOf s c) r = none) (ha : admits s (traceOf s c) r = true) :
    offerRecord s c r = slotWritten s c (headBytes (traceOf s c) r) := by
  have hact : traceActive (traceOf s c) = true := by rw [traceActive, hst]; rfl
  rw [offerRecord]
  dsimp only
  rw [hact, hc, if_pos ha, appendRecord_wrap hst hm hs hg he]
  rfl

theorem length_headBytes (x : TraceCh) (r : TraceRec) : (headBytes x r).length = 16 := by
  simp only [headBytes, List.length_append, length_leBytes]

theorem memByte_putBytes_other (s : State) (a : Nat) (bs : List Byte) (p : Bool) {c : Nat} (h : c < a ∨ a + bs.length ≤ c) :
    memByte (putBytes s a bs p).mem c = memByte s.mem c := by
  rw [putBytes_byte, dif_neg (by omega)]

/-- The slot holds the record, and no other byte of memory changes. -/
theorem slotWritten_mem (s : State) (c : Nat) {b : List Byte} (hb : b.length = 16) :
    memRead (slotWritten s c b).mem (traceBase + (traceOf s c).bufOff + (traceOf s c).wr) 16 = b ∧
    ∀ a, (a < traceBase + (traceOf s c).bufOff + (traceOf s c).wr ∨ traceBase + (traceOf s c).bufOff + (traceOf s c).wr + 16 ≤ a) →
      memByte (slotWritten s c b).mem a = memByte s.mem a := by
  refine ⟨?_, fun a ha => memByte_putBytes_other _ _ _ _ (by rw [hb]; exact ha)⟩
  rw [← hb]
  exact memRead_memWrite _ _ _

/-! ### A block reaches the spill area (R473) -/

/-- A block's copy changes nothing but memory and its codes. -/
theorem copyBlock_frame (s : State) (x : TraceCh) (first : Nat) (dests : List Nat) :
    copyBlock s x first dests = { s with mem := (copyBlock s x first dests).mem, marks := (copyBlock s x first dests).marks,
                                         eccBad := (copyBlock s x first dests).eccBad } := by
  unfold copyBlock
  generalize (List.range dests.length).zip dests = l
  induction l generalizing s with
  | nil => rfl
  | cons e l ih =>
    rw [List.foldl_cons, ih]
    split <;> rfl

/-- A block's copy writes within the spill area. -/
theorem copyBlock_mem {s : State} {x : TraceCh} {first a : Nat} {dests : List Nat} (hd : ∀ d ∈ dests, d + 16 ≤ areaLen x)
    (ha : a < x.spillBase ∨ x.spillBase + areaLen x ≤ a) : memByte (copyBlock s x first dests).mem a = memByte s.mem a := by
  refine foldl_same (f := fun (s : State) (e : Nat × Nat) => if e.2 < areaLen x
      then putBytes s (x.spillBase + e.2) (getBytes s (regionAddr x ((first + 16 * e.1) % x.bufLen)) 16) false else s)
    (fun s : State => memByte s.mem a) (fun s e he => ?_) s
  have hle := hd e.2 (List.of_mem_zip he).2
  split
  · refine memByte_putBytes_other _ _ _ _ ?_
    rw [getBytes, memRead_length]
    omega
  · rfl

/-- The oldest block of a channel copied, with its places given back. -/
def blockSpilled (s : State) (k : Nat) : State :=
  let x := traceOf s k
  let first := (x.stage + x.bufLen - 16 * x.dests.length) % x.bufLen
  setTrace (copyBlock (meetRange (regionAddr x first) 4096 s) x first (x.dests.take 256)) k { x with dests := x.dests.drop 256 }

theorem doTraceSpillCopy_copies {s : State} {k : Nat} (hs : (traceOf s k).spillBase ≠ 0) (hd : 256 ≤ (traceOf s k).dests.length)
    (h1 : islandRuns s 1 = true) (h50 : islandRuns s 50 = true) : doTraceSpillCopy k s =
      if (traceOf s k).dests.drop 256 = [] ∧ (traceOf s k).st = .stopped then answer (blockSpilled s k) (.traceStop k) .ok []
      else blockSpilled s k := by
  have hgo : ¬((traceOf s k).spillBase = 0 ∨ (traceOf s k).dests.length < 256 ∨ islandRuns s 1 = false ∨
      islandRuns s 50 = false) := by
    rw [h1, h50]
    rintro (h | h | h | h)
    · exact hs h
    · omega
    · cases h
    · cases h
  rw [doTraceSpillCopy]
  dsimp only
  rw [if_neg hgo]
  rfl

theorem blockSpilled_chan (s : State) (k : Nat) :
    traceOf (blockSpilled s k) k = { traceOf s k with dests := (traceOf s k).dests.drop 256 } := traceOf_setTrace_same _ _ _

theorem blockSpilled_mem {s : State} {k a : Nat} (hd : ∀ d ∈ (traceOf s k).dests, d + 16 ≤ areaLen (traceOf s k))
    (ha : a < (traceOf s k).spillBase ∨ (traceOf s k).spillBase + areaLen (traceOf s k) ≤ a) :
    memByte (blockSpilled s k).mem a = memByte s.mem a := by
  refine (copyBlock_mem (fun d hd' => hd d (List.mem_of_mem_take hd')) ha).trans ?_
  rw [meetRange_mem]

/-- A block's copy leaves mailbox, boot unit and reset unit. -/
theorem blockSpilled_mailbox (s : State) (k : Nat) : (blockSpilled s k).mb = s.mb ∧ fwUp (blockSpilled s k) = fwUp s := by
  have hq := meetRange_reads (regionAddr (traceOf s k) (((traceOf s k).stage + (traceOf s k).bufLen -
    16 * (traceOf s k).dests.length) % (traceOf s k).bufLen)) 4096 s
  unfold blockSpilled
  dsimp only
  rw [copyBlock_frame]
  generalize meetRange _ 4096 s = q at hq ⊢
  refine ⟨hq.mb, ?_⟩
  show fwUp q = fwUp s
  unfold fwUp
  rw [hq.boot, hq.rst]

/-! ### A window ends (R479) -/

/-- The counters of every unit latched and cleared at the end of window w. -/
def unitsLatched (s : State) (w : Nat) : TraceUnit := counterUnits.foldl (latchUnit s w) s.trace

/-- The block after the boundary at the end of window w, with its units as they are after it. -/
def windowClosed (s : State) (w : Nat) (t : TraceUnit) : State :=
  { s with trace := { t with window := w + 1, clearing := [] }, freeCnt := s.freeCnt + 1 }

theorem doCounterWindowBoundary_runs {s : State} (hr : aonRuns s = true) (ht : s.rst.tripped = false) :
    doCounterWindowBoundary s = windowClosed (advanceTo s ((endingWindow s + 1) * 4000000)) (endingWindow s)
      (unitsLatched (advanceTo s ((endingWindow s + 1) * 4000000)) (endingWindow s)) := by
  rw [doCounterWindowBoundary, hr, ht]
  rfl

theorem windowClosed_latches (s : State) (w : Nat) (t : TraceUnit) : (windowClosed s w t).trace.latches = t.latches := rfl

theorem counterOf_windowClosed (s : State) (w : Nat) (t : TraceUnit) (cls u i : Nat) :
    counterOf (windowClosed s w t) cls u i = tabGet 0 t.cnt (srcKey cls u * 8 + i) := rfl

/-- A unit after the boundary at time n: its latch, and its timed counters as they were or cleared. -/
theorem windowClosed_unit (s q : State) (w n : Nat) {cls u : Nat} (he : (cls, u) ∈ counterUnits) :
    ∃ l, tabGet? (windowClosed q w (unitsLatched (advanceTo s n) w)).trace.latches (srcKey cls u) = some l ∧ l.window = w ∧
      ∀ i < 8, i ∉ freeCounters cls → nth l.vals i = counterOf s cls u i ∧
        counterOf (windowClosed q w (unitsLatched (advanceTo s n) w)) cls u i =
          if srcKey cls u ∈ s.trace.clearing then 0 else counterOf s cls u i := by
  rw [windowClosed_latches]
  refine ⟨_, latches_boundary he _, rfl, fun i hi hfree => ⟨latchOf_vals _ _ _ _ hi hfree, ?_⟩⟩
  rw [counterOf_windowClosed]
  split
  next hin => exact counter_boundary_cleared (s := advanceTo s n) he hi hin _
  next hin => exact counter_boundary_kept (s := advanceTo s n) he hi hin hfree _

/-- Settles O52: each command by its checks, the boundary counter by counter, and records and blocks by the bytes they write. -/
theorem traceChannelsAndCountersFollowTheirCommands : Obligations.TraceChannelsAndCountersFollowTheirCommands := by
  unfold Obligations.TraceChannelsAndCountersFollowTheirCommands
  refine ⟨fun s s' h c e hacc hf hb ha hd hm hw hs hfit => ⟨?_, rfl, rfl, rfl⟩, fun s h k hacc hk ha => ?_, fun s h hacc => ?_,
    fun s h k hacc hk ha hb => ?_, fun s h v hacc => ?_, fun s h cls first count hacc hc hf hn hl => ?_,
    fun s h cls first count hacc hc hf hn => ?_, fun s hr ht => ?_, fun s cls u c r q hi hq hc hidle => ⟨fun ha => ?_, ?_⟩,
    fun s0 s ecc k hpl hs hd h1 h50 => ?_⟩
  · have hexec : exec (.traceStart h c 0) s = .next (answerRow h 0x0700 (cmdTraceStart h c 0 s)) :=
      congrArg _ (runCommand_accepted hacc _)
    rw [answersOk, hexec, cmdTraceStart_starts hf hb ha hd hm hw hs hfit]
    rfl
  · have hexec : exec (.traceStop h k 0) s = .next (answerRow h 0x0701 (cmdTraceStop k 0 s)) :=
      congrArg _ (runCommand_accepted hacc _)
    rw [cmdTraceStop_runs hk ha] at hexec
    refine ⟨fun hd => ?_, fun hd => ?_⟩
    · rw [padBlock_full 256 (by rw [hd]; rfl), if_pos hd] at hexec
      exact ⟨_, hexec, channelStopped_trace s k, channelStopped_same s k, channelStopped_others s k⟩
    · obtain ⟨hfull, hne⟩ := padBlock_fills k 256 s hd (.inl (by omega))
      have hsame := channelStopped_same (padBlock s k 256) k
      rw [if_neg hne] at hexec
      exact ⟨_, hexec, by rw [hsame], by rw [hsame]; exact hfull,
        (padBlock_others k 256 s).trans (channelStopped_others _ k)⟩
  · have hexec : exec (.traceStatus h) s = .next (answerRow h 0x0702 (cmdTraceStatus s)) :=
      congrArg _ (runCommand_accepted hacc _)
    refine ⟨(List.range 8).flatMap (chanStatus s), hexec, ?_, fun c hc => ?_⟩
    · rw [length_records (length_chanStatus s), List.length_range]
    · obtain ⟨h0, h4, h16⟩ := chanStatus_fields s c
      have hget : (List.range 8)[c]? = some c := List.getElem?_range hc
      exact ⟨(fieldAt_records (length_chanStatus s) hget (off := 0) (by decide)).trans h0,
        (fieldAt_records (length_chanStatus s) hget (by decide)).trans h4,
        (fieldAt_records (length_chanStatus s) hget (by decide)).trans h16⟩
  · have hexec : exec (.traceTrigger h k 0) s = .next (answerRow h 0x0703 (cmdTraceTrigger k 0 s)) :=
      congrArg _ (runCommand_accepted hacc _)
    rw [cmdTraceTrigger, traceRefusal_none hk ha] at hexec
    dsimp only at hexec
    rw [fireTrigger_runs ha hb] at hexec
    refine ⟨fun hig => ?_, fun hig => ?_⟩
    · rw [if_pos hig] at hexec
      exact hexec
    · rw [if_neg hig] at hexec
      exact ⟨_, hexec, takeTrigger_leaves s k 1⟩
  · have hexec : exec (.traceMark h v) s = .next (answerRow h 0x0704 (cmdTraceMark v s)) :=
      congrArg _ (runCommand_accepted hacc _)
    exact ⟨_, hexec, emitTrace_trace _ _ _ _ _ _ _, emitTrace_chans _ _ _ _ _ _ _,
      fun hl hr => ⟨_, emitTrace_room hl hr, rfl, rfl, rfl, rfl⟩⟩
  · have hexec : exec (.counterRead h cls 0 first count 0) s = .next (answerRow h 0x0705 (cmdCounterRead cls 0 first count 0 s)) :=
      congrArg _ (runCommand_accepted hacc _)
    rw [cmdCounterRead, rangeRefusal_none hc hf hn] at hexec
    have hlen : ∀ i, (latchBytes s cls (first + i)).length = 64 := fun i => length_latchBytes hl cls _
    refine ⟨_, hexec, ?_, fun i hi j hj => ?_⟩
    · rw [length_records hlen, List.length_range]
    · rw [Nat.add_assoc, fieldAt_records hlen (List.getElem?_range hi) (by omega)]
      exact latchBytes_counter hl cls _ hj
  · have hexec : exec (.counterClear h cls 0 first count 0) s =
        .next (answerRow h 0x0706 (cmdCounterClear cls 0 first count 0 s)) := congrArg _ (runCommand_accepted hacc _)
    rw [answersOk, hexec, cmdCounterClear, rangeRefusal_none hc hf hn]
    rfl
  · have hexec : exec .counterWindowBoundary s = .next _ := congrArg Host.Outcome.next (doCounterWindowBoundary_runs hr ht)
    have hunit := fun cls u he => @windowClosed_unit s (advanceTo s ((endingWindow s + 1) * 4000000)) (endingWindow s)
      ((endingWindow s + 1) * 4000000) cls u he
    generalize unitsLatched (advanceTo s ((endingWindow s + 1) * 4000000)) (endingWindow s) = t at *
    exact ⟨_, hexec, rfl, rfl, rfl, rfl, fun cls hcls u hu => hunit cls u (mem_counterUnits.mpr ⟨hcls, hu⟩)⟩
  · have hexec : exec (.traceRecordArrive cls u) s = .next _ := congrArg Host.Outcome.next (doTraceRecordArrive_front hi hq)
    rw [hexec, offerAll_one (s := fifoPopped s (srcKey cls u) q) hc hidle (offerRecord_idle r ha) (fun _ _ => rfl)]
    rfl
  · intro x hst hm hs hg he hcause hadm
    have hexec : exec (.traceRecordArrive cls u) s = .next _ := congrArg Host.Outcome.next (doTraceRecordArrive_front hi hq)
    have hoff : offerRecord (fifoPopped s (srcKey cls u) q) c r = slotWritten (fifoPopped s (srcKey cls u) q) c (headBytes x r) :=
      offerRecord_wrap (s := fifoPopped s (srcKey cls u) q) hst hm hs hg he hcause hadm
    rw [offerAll_one (s := fifoPopped s (srcKey cls u) q) hc hidle hoff (slotWritten_others _ c _)] at hexec
    obtain ⟨hmem, hother⟩ := slotWritten_mem (fifoPopped s (srcKey cls u) q) c (length_headBytes x r)
    refine ⟨_, hexec, hmem, hother, ?_, tabGet_tabPut_same _ _ _ _⟩
    rw [slotWritten_chan]
    exact (advanceWr_wrap hm hs).2
  · have hexec : exec (.traceSpillCopy k ecc) s0 = .next (doTraceSpillCopy k s) := by rw [← hpl]; rfl
    rw [doTraceSpillCopy_copies hs hd h1 h50] at hexec
    obtain ⟨hmb, hup⟩ := blockSpilled_mailbox s k
    by_cases hlast : (traceOf s k).dests.drop 256 = [] ∧ (traceOf s k).st = .stopped
    · rw [if_pos hlast] at hexec
      refine ⟨_, hexec, fun hd' a ha => ?_, ?_, fun _ _ => answer_completes_of hup (by rw [hmb])⟩
      · rw [(answer_only _ _ _ _).doubt.mem]
        exact blockSpilled_mem hd' ha
      · rw [(ChansKept.answer _ _ _ _).traceOf, blockSpilled_chan]
    · rw [if_neg hlast] at hexec
      refine ⟨_, hexec, fun hd' a ha => blockSpilled_mem hd' ha, blockSpilled_chan s k, fun hlen hst => absurd ⟨?_, hst⟩ hlast⟩
      exact List.drop_eq_nil_of_le (Nat.le_of_eq hlen)

end Sys2Proof.Machine
end

section
/-! PROOFS. Whatever the state, the operations of the state, the links and memory leave
the queue of commands and OTP as they are. -/

namespace Sys2Proof.Machine

open Sys2Proof

/-- What no operation but KEY_PROVISION, KEY_REVOKE and SVN_ADVANCE changes: the queue of commands that wait, and OTP. -/
def queueOtp (s : State) : List Instr × List (List Byte) × BitVec 4 × BitVec 64 :=
  (s.pending, otpOf s.boot)

theorem queueOtp_foldl {α : Type} {f : State → α → State} (hf : ∀ s e, queueOtp (f s e) = queueOtp s)
    (l : List α) (s : State) :
    queueOtp (l.foldl f s) = queueOtp s := by
  induction l generalizing s with
  | nil => rfl
  | cons a l ih => exact (ih (f s a)).trans (hf s a)

theorem queueOtp_foldlFst {α β : Type} {f : State × β → α → State × β}
    (hf : ∀ p e, queueOtp (f p e).1 = queueOtp p.1)
    (l : List α) (p : State × β) : queueOtp (l.foldl f p).1 = queueOtp p.1 := by
  induction l generalizing p with
  | nil => rfl
  | cons a l ih => exact (ih (f p a)).trans (hf p a)

theorem putBytes_queueOtp {s : State} (a : Nat) (bs : List Byte) (poison : Bool) :
    queueOtp (putBytes s a bs poison) = queueOtp s := rfl

theorem scramble_queueOtp {s : State} (a len : Nat) : queueOtp (scramble s a len) = queueOtp s := by
  grind [queueOtp, scramble, putBytes_queueOtp]

theorem setPort_queueOtp {s : State} (k : Nat) (p : CsiPort) : queueOtp (setPort s k p) = queueOtp s := rfl

theorem setTrig_queueOtp {s : State} (n : Nat) (t : Trig) : queueOtp (setTrig s n t) = queueOtp s := rfl

theorem setFlag_queueOtp {s : State} (n : Nat) (f : Flag) : queueOtp (setFlag s n f) = queueOtp s := rfl

theorem setSem_queueOtp {s : State} (n : Nat) (x : Sem) : queueOtp (setSem s n x) = queueOtp s := rfl

theorem setCore_queueOtp {s : State} (c : Nat) (x : CoreSt) : queueOtp (setCore s c x) = queueOtp s := rfl

theorem setLport_queueOtp {s : State} (p : Nat) (x : LinkPort) : queueOtp (setLport s p x) = queueOtp s := rfl

theorem setEport_queueOtp {s : State} (p : Nat) (x : EPort) : queueOtp (setEport s p x) = queueOtp s := rfl

theorem setTrace_queueOtp {s : State} (c : Nat) (x : TraceCh) : queueOtp (setTrace s c x) = queueOtp s := rfl

theorem setPipe_queueOtp {s : State} (p : Nat) (x : Pipe) : queueOtp (setPipe s p x) = queueOtp s := rfl

theorem setNode_queueOtp {s : State} (n : Nat) (x : Node) : queueOtp (setNode s n x) = queueOtp s := rfl

theorem setGraph_queueOtp {s : State} (g : Nat) (x : Graph) : queueOtp (setGraph s g x) = queueOtp s := rfl

theorem setEngine_queueOtp {s : State} (e : Nat) (x : EngRun) : queueOtp (setEngine s e x) = queueOtp s := rfl

theorem setDma_queueOtp {s : State} (c : Nat) (x : DmaChan) : queueOtp (setDma s c x) = queueOtp s := rfl

theorem setStream_queueOtp {s : State} (c : Nat) (x : StreamSt) : queueOtp (setStream s c x) = queueOtp s := rfl

theorem setFlow_queueOtp {s : State} (f : Nat) (x : Flow) : queueOtp (setFlow s f x) = queueOtp s := rfl

theorem advanceTo_queueOtp {s : State} (t : Nat) : queueOtp (advanceTo s t) = queueOtp s := rfl

theorem bump_queueOtp {s : State} (cls unit i n : Nat) : queueOtp (bump s cls unit i n) = queueOtp s := rfl

theorem emitTrace_queueOtp {s : State} (cls unit : Nat) (golden : Bool) (kind arg : Nat) (exts : List (Nat × Nat ×
    Nat × Nat × Nat)) :
    queueOtp (emitTrace s cls unit golden kind arg exts) = queueOtp s := by
  grind [queueOtp, emitTrace]

theorem freeFlits_queueOtp {s : State} (p vc n : Nat) : queueOtp (freeFlits s p vc n) = queueOtp s := by
  grind [freeFlits, setLport_queueOtp]

theorem startAt_queueOtp {s : State} (p i : Nat) : queueOtp (startAt s p i) = queueOtp s := by
  grind [startAt, setLport_queueOtp]

theorem sendFlit_queueOtp {s : State} (p : Nat) (o : OutPkt) (f : Nat × Nat × List Byte) (rest : List (Nat × Nat ×
    List Byte)) :
    queueOtp (sendFlit s p o f rest) = queueOtp s := by
  grind [sendFlit, bump_queueOtp, setLport_queueOtp, emitTrace_queueOtp, freeFlits_queueOtp]

theorem pumpStep_queueOtp {s t : State} {p : Nat} (e : pumpStep s p = some t) : queueOtp t = queueOtp s := by
  unfold pumpStep at e
  grind [Option.map_eq_some_iff, sendFlit_queueOtp, startAt_queueOtp]

theorem pumpPort_queueOtp (n : Nat) {s : State} (p : Nat) : queueOtp (pumpPort n s p) = queueOtp s := by
  induction n generalizing s <;> grind [pumpPort, pumpStep_queueOtp]

theorem pump_queueOtp {s : State} (p : Nat) : queueOtp (pump s p) = queueOtp s := pumpPort_queueOtp ..

theorem enqueueAt_queueOtp {s : State} (p src : Nat) (x : Packet) : queueOtp (enqueueAt s p src x) = queueOtp s := by
  grind [enqueueAt, pump_queueOtp, setLport_queueOtp]

theorem countDiscard_queueOtp {s : State} : queueOtp (countDiscard s) = queueOtp s := rfl

theorem deliver_queueOtp {s : State} (x : Packet) : queueOtp (deliver s x) = queueOtp s := rfl

theorem routePosted_queueOtp {s : State} (src : Nat) (x : Packet) : queueOtp (routePosted s src x) = queueOtp s := by
  grind [routePosted, deliver_queueOtp, countDiscard_queueOtp, enqueueAt_queueOtp]

theorem refusePacket_queueOtp {s : State} (x : Packet) (status : Nat) :
    queueOtp (refusePacket s x status) = queueOtp s := by
  grind [refusePacket, routePosted_queueOtp, countDiscard_queueOtp]

theorem routePacket_queueOtp {s : State} (src : Nat) (x : Packet) : queueOtp (routePacket s src x) = queueOtp s := by
  grind [routePacket, deliver_queueOtp, refusePacket_queueOtp, enqueueAt_queueOtp]

theorem sendHopLocal_queueOtp {s : State} (p : Nat) (x : Packet) : queueOtp (sendHopLocal s p x) = queueOtp s := by
  grind [sendHopLocal, refusePacket_queueOtp, enqueueAt_queueOtp]

theorem allotTag_queueOtp {s : State} (t : Nat) (x : Txn) : queueOtp (allotTag s t x) = queueOtp s := rfl

theorem sendTagged_queueOtp (port : Option Nat) (t : Nat) {s : State} (p : Packet) :
    queueOtp (sendTagged port t s p) = queueOtp s := by
  cases port <;> grind [sendTagged, sendHopLocal_queueOtp, routePacket_queueOtp]

theorem sendReq_queueOtp {s : State} (t : Nat) (q : TagReq) : queueOtp (sendReq s t q) = queueOtp s := by
  simp [sendReq, queueOtp_foldl, sendTagged_queueOtp, allotTag_queueOtp]

theorem request_queueOtp {s : State} (q : TagReq) : queueOtp (request s q) = queueOtp s := by
  grind [queueOtp, request, sendReq_queueOtp]

theorem serveTags_queueOtp (n : Nat) {s : State} : queueOtp (serveTags n s) = queueOtp s := by
  induction n generalizing s with
  | zero => rfl
  | succ n ih =>
    unfold serveTags
    split
    · rw [ih, sendReq_queueOtp]
      rfl
    · rfl

theorem pushEvent_queueOtp {s : State} (e : EvRec) : queueOtp (pushEvent s e) = queueOtp s := by
  grind [queueOtp, pushEvent]

theorem placeEvent_queueOtp {s : State} (e : EvRec) : queueOtp (placeEvent s e) = queueOtp s := by
  grind [queueOtp, placeEvent, pushEvent_queueOtp, routePosted_queueOtp]

theorem postEvent_queueOtp {s : State} (code cls unit : Nat) (arg : List Byte) :
    queueOtp (postEvent s code cls unit arg) = queueOtp s := by
  grind [queueOtp, postEvent, placeEvent_queueOtp, emitTrace_queueOtp]

theorem updateDoubt_queueOtp {s : State} : queueOtp (updateDoubt s) = queueOtp s := rfl

theorem failCond_queueOtp {s : State} (source kind scope : Nat) (level : Bool) :
    queueOtp (failCond s source kind scope level) = queueOtp s := by
  grind [queueOtp, failCond, postEvent_queueOtp, updateDoubt_queueOtp]

theorem endLevel_queueOtp {s : State} (source kind scope : Nat) :
    queueOtp (endLevel s source kind scope) = queueOtp s := rfl

theorem raiseDoubt_queueOtp {s : State} (code cls unit : Nat) (arg : List Byte) (source kind scope : Nat) :
    queueOtp (raiseDoubt s code cls unit arg source kind scope) = queueOtp s := by
  grind [raiseDoubt, failCond_queueOtp, postEvent_queueOtp]

theorem travelMismatch_queueOtp {s : State} (cls unit count port addr : Nat) :
    queueOtp (travelMismatch s cls unit count port addr) = queueOtp s := by
  grind [travelMismatch, raiseDoubt_queueOtp]

theorem setFw_queueOtp {s : State} (target region : Nat) (r : FwRegion) :
    queueOtp (setFw s target region r) = queueOtp s := rfl

theorem denyEvent_queueOtp {s : State} (dom a len : Nat) : queueOtp (denyEvent s dom a len) = queueOtp s := by
  grind [denyEvent, postEvent_queueOtp]

theorem access_queueOtp {s : State} (dom : Nat) (wr : Bool) (a len : Nat) :
    queueOtp (access s dom wr a len).1 = queueOtp s := by
  grind [access, denyEvent_queueOtp]

theorem recordHist_queueOtp {s : State} (opcode : Nat) (hd : CmdHdr) (rsp : List Byte) :
    queueOtp (recordHist s opcode hd rsp) = queueOtp s := rfl

theorem sendMbox_queueOtp {s : State} (type dst tag gen : Nat) (bs : List Byte) :
    queueOtp (sendMbox s type dst tag gen bs) = queueOtp s := by
  simp [sendMbox, queueOtp_foldl, routePosted_queueOtp]

theorem placeResponse_queueOtp {s : State} (i : Nat) (r : MbRec) (rsp : List Byte) :
    queueOtp (placeResponse s i r rsp) = queueOtp s := by
  grind [queueOtp, placeResponse, sendMbox_queueOtp, postEvent_queueOtp]

theorem finishAt_queueOtp {s : State} (i : Nat) (r : MbRec) (st : Status) (payload : List Byte) :
    queueOtp (finishAt s i r st payload) = queueOtp s := by
  grind [finishAt, placeResponse_queueOtp, recordHist_queueOtp]

theorem settleAt_queueOtp {s : State} (i : Nat) (r : MbRec) (c : CmdRes) : queueOtp (settleAt s i r c) = queueOtp
  s := by
  cases c <;> grind [queueOtp, settleAt, finishAt_queueOtp]

theorem answer_queueOtp {s : State} (w : WaitKind) (st : Status) (payload : List Byte) :
    queueOtp (answer s w st payload) = queueOtp s := by
  grind [answer, finishAt_queueOtp]

theorem refuse_queueOtp {s : State} (st : Status) : queueOtp (refuse s st).1 = queueOtp s := rfl

theorem refuseAt_queueOtp {s : State} (st : Status) (off : Nat) : queueOtp (refuseAt s st off).1 = queueOtp s := rfl

theorem okDone_queueOtp {s : State} : queueOtp (okDone s).1 = queueOtp s := rfl

theorem okWith_queueOtp {s : State} (payload : List Byte) : queueOtp (okWith s payload).1 = queueOtp s := rfl

theorem answerRow_queueOtp (h : CmdHdr) (opcode : Nat) {x : State × CmdRes} :
    queueOtp (answerRow h opcode x) = queueOtp x.1 := settleAt_queueOtp ..

theorem eccCorrected_queueOtp {s : State} (cls unit key : Nat) (arg : List Byte) :
    queueOtp (eccCorrected s cls unit key arg) = queueOtp s := by
  grind [queueOtp, eccCorrected, postEvent_queueOtp]

theorem eccUncorr_queueOtp {s : State} (cls unit : Nat) (grans : List Nat) (arg : List Byte) :
    queueOtp (eccUncorr s cls unit grans arg) = queueOtp s := raiseDoubt_queueOtp ..

theorem fsEcc_queueOtp {s : State} (bank row : Nat) (found : EccFind) :
    queueOtp (fsEcc s bank row found) = queueOtp s := by
  cases found <;> grind [fsEcc, bump_queueOtp, eccCorrected_queueOtp, eccUncorr_queueOtp]

theorem spmEcc_queueOtp {s : State} (core row : Nat) (found : EccFind) :
    queueOtp (spmEcc s core row found) = queueOtp s := by
  cases found <;> grind [spmEcc, bump_queueOtp, eccCorrected_queueOtp, eccUncorr_queueOtp]

theorem ddrEcc_queueOtp {s : State} (addr : Nat) (isCode : Bool) (found : EccFind) (rank bank row : Nat) :
    queueOtp (ddrEcc s addr isCode found rank bank row) = queueOtp s := by
  cases found <;> grind [ddrEcc, bump_queueOtp, eccCorrected_queueOtp, eccUncorr_queueOtp]

theorem traceEcc_queueOtp {s : State} (addr : Nat) (found : EccFind) :
    queueOtp (traceEcc s addr found) = queueOtp s := by
  cases found <;> grind [traceEcc, eccCorrected_queueOtp, eccUncorr_queueOtp]

theorem tableEcc_queueOtp {s : State} (addr : Nat) (found : EccFind) :
    queueOtp (tableEcc s addr found) = queueOtp s := by
  cases found <;> grind [tableEcc, eccCorrected_queueOtp, eccUncorr_queueOtp]

theorem fifoEcc_queueOtp {s : State} (port : Nat) (found : EccFind) : queueOtp (fifoEcc s port found) = queueOtp s
  := by
  cases found <;> grind [queueOtp, fifoEcc, eccCorrected_queueOtp, eccUncorr_queueOtp]

theorem lineEcc_queueOtp {s : State} (addr : Nat) (found : EccFind) : queueOtp (lineEcc s addr found) = queueOtp s
  := by
  cases found <;> grind [queueOtp, lineEcc, eccUncorr_queueOtp]

theorem eccFound_queueOtp {s : State} (x : EccHit) : queueOtp (eccFound s x) = queueOtp s := by
  grind [eccFound, lineEcc_queueOtp, ddrEcc_queueOtp, fsEcc_queueOtp, traceEcc_queueOtp, tableEcc_queueOtp,
    spmEcc_queueOtp]

theorem plant_queueOtp (l : List EccHit) {s : State} : queueOtp (plant l s) = queueOtp s := by
  unfold plant
  exact queueOtp_foldl (fun s e => by grind [queueOtp]) _ _

theorem eccMeet_queueOtp {s : State} (x : EccHit) : queueOtp (eccMeet s x) = queueOtp s := by
  grind [queueOtp, eccMeet, eccFound_queueOtp]

theorem meet_queueOtp (reads : Nat → Bool) {s : State} : queueOtp (meet reads s) = queueOtp s := by
  unfold meet
  exact queueOtp_foldl (fun s e => by grind [eccMeet_queueOtp]) _ _

theorem eccHits_queueOtp (reads : Nat → Bool) (l : List EccHit) {s : State} :
    queueOtp (eccHits reads l s) = queueOtp s := by
  grind [eccHits, meet_queueOtp, plant_queueOtp]

theorem meetRange_queueOtp (a len : Nat) {s : State} : queueOtp (meetRange a len s) = queueOtp s := meet_queueOtp ..

theorem rulesWritten_queueOtp {s : State} (pipe : Nat) : queueOtp (rulesWritten s pipe) = queueOtp s := rfl

theorem countMerges_queueOtp (gs : List Nat) {s : State} : queueOtp (countMerges gs s) = queueOtp s := by
  unfold countMerges
  exact queueOtp_foldl (fun s e => by grind [bump_queueOtp]) _ _

theorem meetMerge_queueOtp (a len : Nat) {s : State} : queueOtp (meetMerge a len s) = queueOtp s := by
  grind [meetMerge, countMerges_queueOtp, meet_queueOtp]

theorem readLocal_queueOtp {s : State} (dom a len : Nat) : queueOtp (readLocal s dom a len).1 = queueOtp s := by
  grind [readLocal, access_queueOtp, meetRange_queueOtp]

theorem readStruct_queueOtp {s : State} (cls unit dom a len : Nat) :
    queueOtp (readStruct s cls unit dom a len).1 = queueOtp s := by
  grind [readStruct, denyEvent_queueOtp, meetRange_queueOtp, travelMismatch_queueOtp]

theorem writeLocal_queueOtp {s : State} (dom a : Nat) (bs : List Byte) (poison : Bool) :
    queueOtp (writeLocal s dom a bs poison).1 = queueOtp s := by
  grind [writeLocal, access_queueOtp, putBytes_queueOtp, meetMerge_queueOtp]

end Sys2Proof.Machine
end

section
/-! PROOFS. Whatever the state, the operations of reset, the host's interface and the flags leave
the queue of commands and OTP as they are. -/

namespace Sys2Proof.Machine

open Sys2Proof

theorem doResetEntry_queueOtp (c : ResetCause) {s : State} : queueOtp (doResetEntry c s) = queueOtp s := by
  unfold doResetEntry
  rw [updateDoubt_queueOtp]
  rfl

theorem doResetRelease_queueOtp (refclk : Bool) {s : State} : queueOtp (doResetRelease refclk s) = queueOtp s := by
  grind [queueOtp, doResetRelease]

theorem doRefclkPresent_queueOtp {s : State} : queueOtp (doRefclkPresent s) = queueOtp s := by
  grind [queueOtp, doRefclkPresent]

theorem doAonPllLocked_queueOtp (bootSrc : Nat) {s : State} : queueOtp (doAonPllLocked bootSrc s) = queueOtp s := by
  grind [queueOtp, doAonPllLocked, advanceTo_queueOtp]

theorem doAonRelease_queueOtp (otpErr : Bool) {s : State} : queueOtp (doAonRelease otpErr s) = queueOtp s := by
  unfold doAonRelease
  split
  · rw [updateDoubt_queueOtp]
    dsimp only
    split <;> rfl
  · rfl

theorem portDetect_queueOtp {s : State} (p : Nat) : queueOtp (portDetect s p) = queueOtp s := setLport_queueOtp ..

theorem doSdioFunctionReady_queueOtp {s : State} : queueOtp (doSdioFunctionReady s) = queueOtp s := by
  grind [queueOtp, doSdioFunctionReady, advanceTo_queueOtp, portDetect_queueOtp, queueOtp_foldl]

theorem doSdioCmd11_queueOtp {s : State} : queueOtp (doSdioCmd11 s) = queueOtp s := by
  grind [queueOtp, doSdioCmd11]

theorem placeImage_queueOtp {s : State} (bs : List Byte) : queueOtp (placeImage s bs) = queueOtp s := by
  grind [queueOtp, otpOf, placeImage, putBytes_queueOtp]

theorem headerDone_queueOtp {s : State} : queueOtp (headerDone s) = queueOtp s := by
  grind [queueOtp, otpOf, headerDone, bootFail]

theorem bodyBytes_queueOtp {s : State} (bs : List Byte) : queueOtp (bodyBytes s bs) = queueOtp s := by
  grind [queueOtp, otpOf, bodyBytes, placeImage_queueOtp]

theorem receiveImage_queueOtp {s : State} (data : List Byte) : queueOtp (receiveImage s data) = queueOtp s := by
  grind [queueOtp, otpOf, receiveImage, bodyBytes_queueOtp, placeImage_queueOtp, headerDone_queueOtp]

theorem receiveAt_queueOtp {s : State} (addr : Nat) (data : List Byte) :
    queueOtp (receiveAt s addr data) = queueOtp s := by
  grind [receiveAt, receiveImage_queueOtp, putBytes_queueOtp]

theorem doBootImageWrite_queueOtp (data : List Byte) {s : State} : queueOtp (doBootImageWrite data s) = queueOtp s
  := by
  grind [doBootImageWrite, receiveImage_queueOtp]

theorem bootDone_queueOtp {s : State} (code : Nat) : queueOtp (bootDone s code) = queueOtp s := by
  grind [queueOtp, otpOf, bootDone, sendHopLocal_queueOtp]

theorem doImageVerifyDone_queueOtp {s : State} : queueOtp (doImageVerifyDone s) = queueOtp s := by
  grind [queueOtp, otpOf, doImageVerifyDone, bootFail, bootDone_queueOtp]

theorem doFirmwareReady_queueOtp {s : State} : queueOtp (doFirmwareReady s) = queueOtp s := by
  grind [queueOtp, otpOf, doFirmwareReady]

theorem stall_queueOtp {s : State} : queueOtp (stall s) = queueOtp s := failCond_queueOtp ..

theorem doFwHalt_queueOtp {s : State} : queueOtp (doFwHalt s) = queueOtp s := by
  grind [queueOtp, otpOf, doFwHalt, stall_queueOtp]

theorem doFirmwareHeartbeat_queueOtp {s : State} : queueOtp (doFirmwareHeartbeat s) = queueOtp s := by
  grind [queueOtp, doFirmwareHeartbeat]

theorem doCpStall_queueOtp {s : State} : queueOtp (doCpStall s) = queueOtp s := by
  grind [doCpStall, stall_queueOtp, advanceTo_queueOtp]

theorem doSmFault_queueOtp {s : State} : queueOtp (doSmFault s) = queueOtp s := by
  grind [queueOtp, doSmFault, updateDoubt_queueOtp, postEvent_queueOtp]

theorem doMbCmdPortWrite_queueOtp (data : List Byte) {s : State} : queueOtp (doMbCmdPortWrite data s) = queueOtp s
  := by
  grind [queueOtp, doMbCmdPortWrite]

theorem respondNew_queueOtp {s : State} (r : MbRec) (st : Status) : queueOtp (respondNew s r st) = queueOtp s :=
  placeResponse_queueOtp ..

theorem stage1_queueOtp {s : State} (src : RecSrc) (bytes : List Byte) : queueOtp (stage1 s src bytes) = queueOtp
  s := by
  grind [queueOtp, stage1, respondNew_queueOtp]

theorem takeRecord_queueOtp {s : State} (p : List Byte) : queueOtp (takeRecord s p) = queueOtp s := by
  grind [queueOtp, takeRecord, stage1_queueOtp]

theorem doMbDoorbellWrite_queueOtp (value : Nat) {s : State} : queueOtp (doMbDoorbellWrite value s) = queueOtp s := by
  grind [queueOtp, doMbDoorbellWrite, takeRecord_queueOtp]

theorem doMbRspPortRead_queueOtp (count : Nat) {s : State} : queueOtp (doMbRspPortRead count s) = queueOtp s := by
  grind [queueOtp, doMbRspPortRead]

theorem doMbStatusW1c_queueOtp (value : Nat) {s : State} : queueOtp (doMbStatusW1c value s) = queueOtp s := by
  grind [queueOtp, doMbStatusW1c]

theorem doRegisterWrite_queueOtp (fn addr value : Nat) {s : State} :
    queueOtp (doRegisterWrite fn addr value s) = queueOtp s := by
  grind [queueOtp, doRegisterWrite, doMbDoorbellWrite_queueOtp, doMbStatusW1c_queueOtp]

theorem insertLost_queueOtp {s : State} : queueOtp (insertLost s) = queueOtp s := by
  grind [queueOtp, insertLost]

theorem doEventRecordRead_queueOtp (count : Nat) {s : State} : queueOtp (doEventRecordRead count s) = queueOtp s := by
  grind [queueOtp, doEventRecordRead, insertLost_queueOtp]

theorem bulkDone_queueOtp {s : State} (dir : Nat) (st : Status) (bytes : Nat) :
    queueOtp (bulkDone s dir st bytes) = queueOtp s := postEvent_queueOtp ..

theorem cmdBulkWrite_queueOtp (h : CmdHdr) (addr len : Nat) {s : State} :
    queueOtp (cmdBulkWrite h addr len s).1 = queueOtp s := by
  grind [queueOtp, cmdBulkWrite, refuseAt_queueOtp, refuse_queueOtp, okDone_queueOtp]

theorem cmdBulkRead_queueOtp (h : CmdHdr) (addr len : Nat) {s : State} :
    queueOtp (cmdBulkRead h addr len s).1 = queueOtp s := by
  grind [queueOtp, cmdBulkRead, refuseAt_queueOtp, refuse_queueOtp, okDone_queueOtp]

theorem bulkStore_queueOtp (n : Nat) {s : State} (x : BulkXfer) : queueOtp (bulkStore n s x) = queueOtp s := by
  induction n generalizing s x <;> grind [queueOtp, bulkStore, bulkDone_queueOtp, writeLocal_queueOtp]

theorem doBulkDataWrite_queueOtp (data : List Byte) {s : State} : queueOtp (doBulkDataWrite data s) = queueOtp s := by
  grind [queueOtp, doBulkDataWrite, bulkStore_queueOtp]

theorem bulkReadEnd_queueOtp {s : State} (x : BulkXfer) (st : Status) : queueOtp (bulkReadEnd s x st) = queueOtp s
  := by
  grind [queueOtp, bulkReadEnd, travelMismatch_queueOtp, bulkDone_queueOtp]

theorem bulkLoad_queueOtp (n : Nat) {s : State} (x : BulkXfer) (k : Nat) (out : List Byte) :
    queueOtp (bulkLoad n s x k out).1 = queueOtp s := by
  induction n generalizing s x k out <;> grind [queueOtp, bulkLoad, bulkReadEnd_queueOtp, readLocal_queueOtp]

theorem doBulkDataRead_queueOtp (count : Nat) {s : State} : queueOtp (doBulkDataRead count s) = queueOtp s := by
  grind [queueOtp, doBulkDataRead, bulkLoad_queueOtp]

theorem cmdChannelTableSet_queueOtp (base count : Nat) {s : State} :
    queueOtp (cmdChannelTableSet base count s).1 = queueOtp s := by
  grind [queueOtp, cmdChannelTableSet, refuseAt_queueOtp, refuse_queueOtp, okDone_queueOtp]

theorem cmdChannelInvalidate_queueOtp (first count : Nat) {s : State} :
    queueOtp (cmdChannelInvalidate first count s).1 = queueOtp s := by
  grind [queueOtp, cmdChannelInvalidate, refuseAt_queueOtp, refuse_queueOtp, okDone_queueOtp]

theorem fetchEntry_queueOtp {s : State} (dom chan type off : Nat) :
    queueOtp (fetchEntry s dom chan type off).1 = queueOtp s := by
  grind [queueOtp, fetchEntry, readStruct_queueOtp]

theorem cmdDeviceInfo_queueOtp {s : State} : queueOtp (cmdDeviceInfo s).1 = queueOtp s := okWith_queueOtp ..

theorem cmdFirewallSet_queueOtp (target region rflags base limit rdMask wrMask : Nat) {s : State} :
    queueOtp (cmdFirewallSet target region rflags base limit rdMask wrMask s).1 = queueOtp s := by
  grind [cmdFirewallSet, refuseAt_queueOtp, refuse_queueOtp, okDone_queueOtp, setFw_queueOtp]

theorem cmdFirewallGet_queueOtp (target region r : Nat) {s : State} :
    queueOtp (cmdFirewallGet target region r s).1 = queueOtp s := by
  grind [cmdFirewallGet, refuseAt_queueOtp, okWith_queueOtp]

theorem portByte_queueOtp {s : State} : queueOtp (portByte s).1 = queueOtp s := rfl

theorem fnReadByte_queueOtp {s : State} (fn a : Nat) : queueOtp (fnReadByte s fn a).1 = queueOtp s := by
  grind [fnReadByte, portByte_queueOtp, doMbRspPortRead_queueOtp, doBulkDataRead_queueOtp, doEventRecordRead_queueOtp]

theorem fnWriteByte_queueOtp {s : State} (fn a : Nat) (v : Byte) : queueOtp (fnWriteByte s fn a v) = queueOtp s := by
  grind [queueOtp, fnWriteByte, doMbCmdPortWrite_queueOtp, doBulkDataWrite_queueOtp, doBootImageWrite_queueOtp,
    doRegisterWrite_queueOtp]

theorem sdioReadByte_queueOtp {s : State} (fn a : Nat) : queueOtp (sdioReadByte s fn a).1 = queueOtp s := by
  grind [sdioReadByte, fnReadByte_queueOtp]

theorem sdioWriteByte_queueOtp {s : State} (fn a : Nat) (v : Byte) : queueOtp (sdioWriteByte s fn a v) = queueOtp
  s := by
  grind [queueOtp, sdioWriteByte, fnWriteByte_queueOtp]

theorem sdioReadRun_queueOtp (fn : Nat) (inc : Bool) (n a : Nat) {s : State} :
    queueOtp (sdioReadRun fn inc n a s).1 = queueOtp s := by
  induction n generalizing s a <;> grind [sdioReadRun, sdioReadByte_queueOtp]

theorem sdioWriteRun_queueOtp (fn : Nat) (inc : Bool) (bs : List Byte) (a : Nat) {s : State} :
    queueOtp (sdioWriteRun fn inc bs a s) = queueOtp s := by
  induction bs generalizing s a <;> grind [sdioWriteRun, sdioWriteByte_queueOtp]

theorem sdioEffect_queueOtp {s : State} (c : SdioCmd) : queueOtp (sdioEffect s c) = queueOtp s := by
  cases c <;> grind [queueOtp, sdioEffect, sdioReadByte_queueOtp, sdioWriteByte_queueOtp, sdioReadRun_queueOtp,
    sdioWriteRun_queueOtp]

theorem doSdioCommand_queueOtp (c : SdioCmd) {s : State} : queueOtp (doSdioCommand c s) = queueOtp s := by
  grind [doSdioCommand, sdioEffect_queueOtp]

theorem raiseGraph_queueOtp {s : State} (code cls unit : Nat) (arg : List Byte) (row : Nat) (g : Option Nat) :
    queueOtp (raiseGraph s code cls unit arg row g) = queueOtp s := by
  cases g <;> grind [raiseGraph, raiseDoubt_queueOtp, postEvent_queueOtp]

theorem flagConflict_queueOtp {s : State} (n op j : Nat) : queueOtp (flagConflict s n op j) = queueOtp s :=
  raiseGraph_queueOtp ..

theorem countFlagOp_queueOtp {s : State} : queueOtp (countFlagOp s) = queueOtp s := bump_queueOtp ..

theorem flagSet_queueOtp {s : State} (n f : Nat) : queueOtp (flagSet s n f) = queueOtp s := by
  grind [flagSet, countFlagOp_queueOtp, flagConflict_queueOtp, setFlag_queueOtp]

theorem flagRelease_queueOtp {s : State} (n j : Nat) : queueOtp (flagRelease s n j) = queueOtp s := by
  grind [flagRelease, countFlagOp_queueOtp, flagConflict_queueOtp, setFlag_queueOtp]

theorem flagRearm_queueOtp {s : State} (n : Nat) : queueOtp (flagRearm s n) = queueOtp s := by
  grind [flagRearm, countFlagOp_queueOtp, setFlag_queueOtp, postEvent_queueOtp]

theorem semUnbound_queueOtp {s : State} (n dev : Nat) (g : Option Nat) :
    queueOtp (semUnbound s n dev g) = queueOtp s := raiseGraph_queueOtp ..

theorem semSignalAt_queueOtp {s : State} (n dev : Nat) (g : Option Nat) :
    queueOtp (semSignalAt s n dev g) = queueOtp s := by
  grind [semSignalAt, bump_queueOtp, semUnbound_queueOtp, setSem_queueOtp, postEvent_queueOtp]

theorem semSignalRemote_queueOtp {s : State} (n dev : Nat) : queueOtp (semSignalRemote s n dev) = queueOtp s := by
  grind [semSignalRemote, semSignalAt_queueOtp, semUnbound_queueOtp, bump_queueOtp]

theorem storeCells_queueOtp {s : State} (cs : List (Nat × Byte)) (bad : List Nat) :
    queueOtp (storeCells s cs bad) = queueOtp s := by
  grind [queueOtp, storeCells, countMerges_queueOtp, meet_queueOtp]

theorem cmdTensorCheck_queueOtp (h : CmdHdr) (use r device : Nat) (td : List Byte) {s : State} :
    queueOtp (cmdTensorCheck h use r device td s).1 = queueOtp s := by
  grind [cmdTensorCheck, refuseAt_queueOtp, okWith_queueOtp]

theorem cmdTensorLocate_queueOtp (h : CmdHdr) (g : List Nat) (td : List Byte) {s : State} :
    queueOtp (cmdTensorLocate h g td s).1 = queueOtp s := by
  grind [cmdTensorLocate, refuseAt_queueOtp, okWith_queueOtp]

end Sys2Proof.Machine
end

section
/-! PROOFS. Whatever the state, the operations of the movers, the link, memory upkeep, egress and power leave
the queue of commands and OTP as they are. -/

namespace Sys2Proof.Machine

open Sys2Proof

theorem setRunAt_queueOtp {s : State} (c : Nat) (r : Option DmaRun) : queueOtp (setRunAt s c r) = queueOtp s := by
  grind [setRunAt, setDma_queueOtp, setStream_queueOtp]

theorem wRead_queueOtp {s : State} (g : Option Nat) (gran : Nat) : queueOtp (wRead s g gran).1 = queueOtp s := by
  grind [queueOtp, wRead]

theorem cmdWcacheInvalidate_queueOtp (addr len : Nat) {s : State} :
    queueOtp (cmdWcacheInvalidate addr len s).1 = queueOtp s := okDone_queueOtp ..

theorem issueReads_queueOtp (c dev dom n : Nat) {s : State} : queueOtp (issueReads c dev dom n s) = queueOtp s := by
  induction n generalizing s <;> grind [issueReads, request_queueOtp, setRunAt_queueOtp]

theorem remoteWrite_queueOtp {s : State} (c dev dom : Nat) (cs : List (Nat × Byte)) (bad gs : List Nat) :
    queueOtp (remoteWrite s c dev dom cs bad gs).1 = queueOtp s := by
  grind [remoteWrite, request_queueOtp]

theorem dropWaiting_queueOtp {s : State} (c : Nat) : queueOtp (dropWaiting s c).1 = queueOtp s := by
  grind [queueOtp, dropWaiting]

theorem readGran_queueOtp {s : State} (m : Mover) (w : Bool) (g : Nat) : queueOtp (readGran s m w g).1 = queueOtp
  s := by
  grind [readGran, wRead_queueOtp]

theorem scrambleCells_queueOtp {s : State} (dom : Nat) (cs : List (Nat × Byte)) :
    queueOtp (scrambleCells s dom cs) = queueOtp s := by
  grind [queueOtp, scrambleCells, storeCells_queueOtp]

theorem remoteWrites_queueOtp (c dev dom : Nat) (cs : List (Nat × Byte)) (bad : List Nat) (gs : List (List Nat)) {s
    : State} :
    queueOtp (remoteWrites c dev dom cs bad gs s).1 = queueOtp s := by
  induction gs generalizing s <;> grind [remoteWrites, remoteWrite_queueOtp]

theorem spoilDest_queueOtp {s : State} (m : Mover) (r : DmaRun) : queueOtp (spoilDest s m r) = queueOtp s := by
  grind [spoilDest, scrambleCells_queueOtp]

theorem failReads_queueOtp {s : State} (c : Nat) (m : Mover) (r : DmaRun) (st : Status) (n : Nat) :
    queueOtp (failReads s c m r st n) = queueOtp s := by
  grind [failReads, dropWaiting_queueOtp, spoilDest_queueOtp, setRunAt_queueOtp]

theorem performMove_queueOtp {s : State} (c : Nat) (m : Mover) (r : DmaRun) :
    queueOtp (performMove s c m r) = queueOtp s := by
  grind [performMove, bump_queueOtp, setRunAt_queueOtp, scrambleCells_queueOtp, denyEvent_queueOtp,
    remoteWrites_queueOtp, storeCells_queueOtp]

theorem discardRead_queueOtp {s : State} (c : Nat) (m : Mover) : queueOtp (discardRead s c m) = queueOtp s := by
  grind [discardRead, setStream_queueOtp, bump_queueOtp]

theorem readBack_queueOtp {s : State} (c : Nat) (m : Mover) (r : DmaRun) : queueOtp (readBack s c m r) = queueOtp
  s := by
  grind [readBack, discardRead_queueOtp, setRunAt_queueOtp, performMove_queueOtp]

theorem takeGran_queueOtp {s : State} (c : Nat) (m : Mover) (r : DmaRun) (g : Nat) :
    queueOtp (takeGran s c m r g) = queueOtp s := by
  grind [takeGran, access_queueOtp, readGran_queueOtp, setRunAt_queueOtp, failReads_queueOtp]

theorem localReturn_queueOtp {s : State} (c : Nat) (m : Mover) (r : DmaRun) :
    queueOtp (localReturn s c m r) = queueOtp s := by
  grind [localReturn, bump_queueOtp, takeGran_queueOtp, readBack_queueOtp]

theorem settleReads_queueOtp {s : State} (island c : Nat) : queueOtp (settleReads s island c) = queueOtp s := by
  grind [settleReads, takeGran_queueOtp, queueOtp_foldl]

theorem beginMove_queueOtp {s : State} (c : Nat) (m : Mover) (r : DmaRun) :
    queueOtp (beginMove s c m r) = queueOtp s := by
  grind [beginMove, bump_queueOtp, setRunAt_queueOtp, issueReads_queueOtp]

theorem failMove_queueOtp {s : State} (c : Nat) (r : DmaRun) (st : Status) :
    queueOtp (failMove s c r st) = queueOtp s := setRunAt_queueOtp ..

theorem stopMove_queueOtp {s : State} (c : Nat) (m : Mover) (r : DmaRun) (keep : Bool) :
    queueOtp (stopMove s c m r keep) = queueOtp s := by
  grind [queueOtp, stopMove, dropWaiting_queueOtp, scrambleCells_queueOtp, setRunAt_queueOtp]

theorem cmdDmaStart_queueOtp (h : CmdHdr) (channel flags : Nat) {s : State} :
    queueOtp (cmdDmaStart h channel flags s).1 = queueOtp s := by
  grind [cmdDmaStart, refuseAt_queueOtp, fetchEntry_queueOtp, refuse_queueOtp, okDone_queueOtp, setDma_queueOtp]

theorem cmdDmaStop_queueOtp (channel r : Nat) {s : State} : queueOtp (cmdDmaStop channel r s).1 = queueOtp s := by
  grind [cmdDmaStop, refuseAt_queueOtp, refuse_queueOtp, stopMove_queueOtp, setDma_queueOtp, okWith_queueOtp]

theorem cmdDmaKick_queueOtp (channel r : Nat) {s : State} : queueOtp (cmdDmaKick channel r s).1 = queueOtp s := by
  grind [cmdDmaKick, refuse_queueOtp, refuseAt_queueOtp, okDone_queueOtp, setDma_queueOtp]

theorem ringHalt_queueOtp {s : State} (channel : Nat) (x : DmaChan) (st : Status) :
    queueOtp (ringHalt s channel x st) = queueOtp s := by
  grind [ringHalt, postEvent_queueOtp, setDma_queueOtp]

theorem readTd_queueOtp {s : State} (x : DmaChan) (a off : Nat) : queueOtp (readTd s x a off).1 = queueOtp s :=
  readStruct_queueOtp ..

theorem ringStart_queueOtp {s : State} (channel : Nat) (x : DmaChan) :
    queueOtp (ringStart s channel x) = queueOtp s := by
  grind [ringStart, readStruct_queueOtp, ringHalt_queueOtp, setDma_queueOtp, emitTrace_queueOtp,
    failMove_queueOtp, readTd_queueOtp, beginMove_queueOtp]

theorem ringEnd_queueOtp {s : State} (channel : Nat) (x : DmaChan) (r : DmaRun) :
    queueOtp (ringEnd s channel x r) = queueOtp s := by
  grind [ringEnd, travelMismatch_queueOtp, writeLocal_queueOtp, emitTrace_queueOtp, setDma_queueOtp,
    postEvent_queueOtp, ringHalt_queueOtp, answer_queueOtp]

theorem nodeUnitDone_queueOtp {s : State} (n : Nat) : queueOtp (nodeUnitDone s n) = queueOtp s := by
  grind [queueOtp, nodeUnitDone]

theorem nodeDescStart_queueOtp {s : State} (channel : Nat) (x : DmaChan) (r : DmaRun) (n : Nat) :
    queueOtp (nodeDescStart s channel x r n) = queueOtp s := by
  grind [nodeDescStart, failMove_queueOtp, beginMove_queueOtp]

theorem nodeTraceEnd_queueOtp {s : State} (x : DmaChan) (r : DmaRun) (n : Nat) (st : Status) :
    queueOtp (nodeTraceEnd s x r n st) = queueOtp s := emitTrace_queueOtp ..

theorem nodeDescEnd_queueOtp {s : State} (channel : Nat) (x : DmaChan) (r : DmaRun) (n : Nat) :
    queueOtp (nodeDescEnd s channel x r n) = queueOtp s := by
  grind [nodeDescEnd, travelMismatch_queueOtp, nodeTraceEnd_queueOtp, setDma_queueOtp, raiseDoubt_queueOtp,
    nodeUnitDone_queueOtp]

theorem stopNodeRun_queueOtp {s : State} (channel : Nat) : queueOtp (stopNodeRun s channel) = queueOtp s := by
  unfold stopNodeRun
  split <;> grind [stopMove_queueOtp, setDma_queueOtp, nodeTraceEnd_queueOtp]

theorem doDmaDescriptorStart_queueOtp (channel : Nat) {s : State} :
    queueOtp (doDmaDescriptorStart channel s) = queueOtp s := by
  grind [doDmaDescriptorStart, ringStart_queueOtp, nodeDescStart_queueOtp]

theorem doDmaReadReturn_queueOtp (channel : Nat) {s : State} : queueOtp (doDmaReadReturn channel s) = queueOtp s := by
  grind [doDmaReadReturn, localReturn_queueOtp, meet_queueOtp]

theorem doDmaDescriptorEnd_queueOtp (channel : Nat) {s : State} :
    queueOtp (doDmaDescriptorEnd channel s) = queueOtp s := by
  grind [doDmaDescriptorEnd, ringEnd_queueOtp, nodeDescEnd_queueOtp]

theorem doStreamBlockStart_queueOtp (stream : Nat) {s : State} :
    queueOtp (doStreamBlockStart stream s) = queueOtp s := by
  unfold doStreamBlockStart
  split <;> grind [raiseDoubt_queueOtp, setStream_queueOtp, emitTrace_queueOtp, beginMove_queueOtp]

theorem doStreamBlockDone_queueOtp (stream : Nat) {s : State} : queueOtp (doStreamBlockDone stream s) = queueOtp s
  := by
  grind [doStreamBlockDone, travelMismatch_queueOtp, emitTrace_queueOtp, raiseDoubt_queueOtp, setStream_queueOtp,
    flagSet_queueOtp]

theorem cancelStream_queueOtp {s : State} (stream : Nat) (x : StreamSt) :
    queueOtp (cancelStream s stream x) = queueOtp s := by
  grind [cancelStream, setStream_queueOtp, stopMove_queueOtp]

theorem doStreamCancelled_queueOtp (stream : Nat) {s : State} : queueOtp (doStreamCancelled stream s) = queueOtp s
  := by
  grind [doStreamCancelled, bump_queueOtp, setStream_queueOtp, postEvent_queueOtp]

theorem cmdStreamRearm_queueOtp (h : CmdHdr) (stream r ja base : Nat) {s : State} :
    queueOtp (cmdStreamRearm h stream r ja base s).1 = queueOtp s := by
  grind [cmdStreamRearm, refuse_queueOtp, refuseAt_queueOtp, okDone_queueOtp, setStream_queueOtp]

theorem enterState_queueOtp {s : State} (p : Nat) (st : LState) : queueOtp (enterState s p st) = queueOtp s :=
  setLport_queueOtp ..

theorem doLinkDetectPulse_queueOtp (port : Nat) {s : State} : queueOtp (doLinkDetectPulse port s) = queueOtp s := by
  grind [doLinkDetectPulse, setLport_queueOtp]

theorem doLinkPeerDetected_queueOtp (port : Nat) {s : State} : queueOtp (doLinkPeerDetected port s) = queueOtp s := by
  grind [doLinkPeerDetected, enterState_queueOtp]

theorem doLinkEqDone_queueOtp (port : Nat) {s : State} : queueOtp (doLinkEqDone port s) = queueOtp s := by
  grind [doLinkEqDone, enterState_queueOtp, setLport_queueOtp]

theorem doLinkAlignDone_queueOtp (port txLat rxLat : Nat) (lanes : List (List Bool)) {s : State} :
    queueOtp (doLinkAlignDone port txLat rxLat lanes s) = queueOtp s := by
  grind [doLinkAlignDone, enterState_queueOtp, setLport_queueOtp]

theorem doLinkUp_queueOtp (port : Nat) (peer : PeerConfig) {s : State} :
    queueOtp (doLinkUp port peer s) = queueOtp s := by
  grind [doLinkUp, enterState_queueOtp, setLport_queueOtp, postEvent_queueOtp]

theorem doLinkTrainFail_queueOtp (port : Nat) {s : State} : queueOtp (doLinkTrainFail port s) = queueOtp s := by
  grind [doLinkTrainFail, setLport_queueOtp, postEvent_queueOtp]

theorem dropOpen_queueOtp {s : State} (p r : Nat) : queueOtp (dropOpen s p r) = queueOtp s := by
  grind [dropOpen, pump_queueOtp, setLport_queueOtp]

theorem losePort_queueOtp {s : State} (p : Nat) (st : LState) : queueOtp (losePort s p st) = queueOtp s := by
  grind [losePort, setLport_queueOtp, dropOpen_queueOtp, refusePacket_queueOtp, queueOtp_foldl]

theorem doLinkDown_queueOtp (port cause : Nat) {s : State} : queueOtp (doLinkDown port cause s) = queueOtp s := by
  grind [doLinkDown, losePort_queueOtp, raiseDoubt_queueOtp]

theorem sendCtrl_queueOtp {s : State} (p : Nat) : queueOtp (sendCtrl s p) = queueOtp s := by
  grind [sendCtrl, bump_queueOtp, setLport_queueOtp]

theorem answerOn_queueOtp {s : State} (p : Nat) (x : Packet) (status : Nat) :
    queueOtp (answerOn s p x status) = queueOtp s := by
  grind [answerOn, enqueueAt_queueOtp]

theorem openAt_queueOtp {s : State} (r p : Nat) (x : Flit) : queueOtp (openAt s r p x) = queueOtp s := by
  grind [openAt, pump_queueOtp, setLport_queueOtp]

theorem extendAt_queueOtp {s : State} (r p vc : Nat) (f : Nat × Nat × List Byte) :
    queueOtp (extendAt s r p vc f) = queueOtp s := by
  grind [extendAt, pump_queueOtp, setLport_queueOtp, freeFlits_queueOtp]

theorem packetDone_queueOtp {s : State} (p : Nat) (rt : RxRoute) (h : Flit) (data : List Flit) :
    queueOtp (packetDone s p rt h data) = queueOtp s := by
  grind [packetDone, travelMismatch_queueOtp, deliver_queueOtp, emitTrace_queueOtp, freeFlits_queueOtp,
    answerOn_queueOtp, countDiscard_queueOtp, refusePacket_queueOtp]

theorem dropPart_queueOtp {s : State} (p : Nat) : queueOtp (dropPart s p) = queueOtp s := by
  grind [dropPart, dropOpen_queueOtp, freeFlits_queueOtp]

theorem acceptHead_queueOtp {s : State} (p : Nat) (x : Flit) : queueOtp (acceptHead s p x) = queueOtp s := by
  grind [acceptHead, dropPart_queueOtp, raiseDoubt_queueOtp, setLport_queueOtp, openAt_queueOtp, packetDone_queueOtp]

theorem acceptData_queueOtp {s : State} (p : Nat) (x : Flit) : queueOtp (acceptData s p x) = queueOtp s := by
  grind [acceptData, freeFlits_queueOtp, setLport_queueOtp, extendAt_queueOtp, packetDone_queueOtp]

theorem stompOut_queueOtp {s : State} (p : Nat) (x : Flit) : queueOtp (stompOut s p x) = queueOtp s := by
  grind [stompOut, bump_queueOtp]

theorem acceptFlit_queueOtp {s : State} (p : Nat) (x : Flit) : queueOtp (acceptFlit s p x) = queueOtp s := by
  grind [acceptFlit, setLport_queueOtp, acceptHead_queueOtp, acceptData_queueOtp]

theorem failFlit_queueOtp {s : State} (p : Nat) (x : Flit) : queueOtp (failFlit s p x) = queueOtp s := by
  grind [failFlit, bump_queueOtp, setLport_queueOtp, stompOut_queueOtp, sendCtrl_queueOtp]

theorem resendAll_queueOtp {s : State} (p : Nat) : queueOtp (resendAll s p) = queueOtp s := by
  grind [resendAll, bump_queueOtp, setLport_queueOtp, postEvent_queueOtp]

theorem receiveCtrl_queueOtp {s : State} (p : Nat) (m : CtrlMsg) : queueOtp (receiveCtrl s p m) = queueOtp s := by
  grind [receiveCtrl, setLport_queueOtp, bump_queueOtp, pump_queueOtp, resendAll_queueOtp]

theorem doCtrlReceive_queueOtp (port : Nat) (m : CtrlMsg) {s : State} :
    queueOtp (doCtrlReceive port m s) = queueOtp s := by
  grind [doCtrlReceive, receiveCtrl_queueOtp]

theorem doReplayTimer_queueOtp (port : Nat) {s : State} : queueOtp (doReplayTimer port s) = queueOtp s := by
  grind [doReplayTimer, resendAll_queueOtp]

theorem doCtrlFlitSend_queueOtp (port : Nat) {s : State} : queueOtp (doCtrlFlitSend port s) = queueOtp s := by
  grind [doCtrlFlitSend, sendCtrl_queueOtp]

theorem takePacket_queueOtp {s : State} (p : Packet) : queueOtp (takePacket s p) = queueOtp s := rfl

theorem reply_queueOtp {s : State} (p : Packet) (status : Nat) : queueOtp (reply s p status) = queueOtp s :=
  routePosted_queueOtp ..

theorem serve_queueOtp (p : Packet) {s : State} {f : State → State} (hf : ∀ s, queueOtp (f s) = queueOtp s) :
    queueOtp (serve p s f) = queueOtp s := by
  grind [serve, takePacket_queueOtp, reply_queueOtp, countDiscard_queueOtp]

theorem setWindow_queueOtp {s : State} (w : Nat) (x : Window) : queueOtp (setWindow s w x) = queueOtp s := rfl

theorem closedEvent_queueOtp {s : State} (p : Packet) (w : Window) : queueOtp (closedEvent s p w) = queueOtp s := by
  grind [closedEvent, setWindow_queueOtp, postEvent_queueOtp]

theorem applyWrite_queueOtp (p : Packet) {s : State} : queueOtp (applyWrite p s) = queueOtp s := by
  grind [applyWrite, reply_queueOtp, closedEvent_queueOtp, access_queueOtp, storeCells_queueOtp]

theorem doWrite_queueOtp (p : Packet) {s : State} : queueOtp (doWrite p s) = queueOtp s := by
  grind [doWrite, serve_queueOtp, applyWrite_queueOtp]

theorem applyRead_queueOtp (p : Packet) {s : State} : queueOtp (applyRead p s) = queueOtp s := by
  grind [applyRead, access_queueOtp, meetRange_queueOtp, routePosted_queueOtp]

theorem doRead_queueOtp (p : Packet) {s : State} : queueOtp (doRead p s) = queueOtp s := by
  grind [doRead, serve_queueOtp, applyRead_queueOtp]

theorem windowRequest_queueOtp (p : Packet) (f : Window → Window) {s : State} :
    queueOtp (windowRequest p f s) = queueOtp s := by
  grind [windowRequest, reply_queueOtp, access_queueOtp, routePosted_queueOtp, setWindow_queueOtp]

theorem doWinOpen_queueOtp (p : Packet) {s : State} : queueOtp (doWinOpen p s) = queueOtp s := by
  grind [doWinOpen, serve_queueOtp, windowRequest_queueOtp]

theorem doWinClose_queueOtp (p : Packet) {s : State} : queueOtp (doWinClose p s) = queueOtp s := by
  grind [doWinClose, serve_queueOtp, windowRequest_queueOtp]

theorem setParts_queueOtp {s : State} (dev tag : Nat) (bs : List Byte) :
    queueOtp (setParts s dev tag bs) = queueOtp s := rfl

theorem applyMbox_queueOtp (p : Packet) {s : State} : queueOtp (applyMbox p s) = queueOtp s := by
  grind [applyMbox, stage1_queueOtp, setParts_queueOtp]

theorem doMbox_queueOtp (p : Packet) {s : State} : queueOtp (doMbox p s) = queueOtp s := by
  grind [doMbox, serve_queueOtp, applyMbox_queueOtp]

theorem doBootData_queueOtp (port : Nat) (p : Packet) {s : State} : queueOtp (doBootData port p s) = queueOtp s := by
  grind [queueOtp, otpOf, doBootData, takePacket_queueOtp, receiveAt_queueOtp, countDiscard_queueOtp]

theorem bootAnswer_queueOtp {s : State} (port : Nat) (p : Packet) (status code : Nat) :
    queueOtp (bootAnswer s port p status code) = queueOtp s := sendHopLocal_queueOtp ..

theorem doBootEnd_queueOtp (port : Nat) (p : Packet) {s : State} : queueOtp (doBootEnd port p s) = queueOtp s := by
  grind [queueOtp, otpOf, doBootEnd, bootFail, takePacket_queueOtp, bootAnswer_queueOtp]

theorem joinAs_queueOtp {s : State} (id : Nat) : queueOtp (joinAs s id) = queueOtp s := rfl

theorem doIdAssign_queueOtp (port : Nat) (p : Packet) {s : State} : queueOtp (doIdAssign port p s) = queueOtp s := by
  grind [doIdAssign, takePacket_queueOtp, sendHopLocal_queueOtp, joinAs_queueOtp]

theorem applyEvent_queueOtp (p : Packet) {s : State} : queueOtp (applyEvent p s) = queueOtp s :=
  pushEvent_queueOtp ..

theorem doEvent_queueOtp (p : Packet) {s : State} : queueOtp (doEvent p s) = queueOtp s := by
  grind [doEvent, serve_queueOtp, applyEvent_queueOtp]

theorem noteResponse_queueOtp {s : State} (dev win kind status epoch : Nat) :
    queueOtp (noteResponse s dev win kind status epoch) = queueOtp s := rfl

theorem moverResponse_queueOtp {s : State} (c : Nat) (t : Txn) (status : Nat) (p : Packet) :
    queueOtp (moverResponse s c t status p) = queueOtp s := by
  grind [moverResponse, setRunAt_queueOtp, dropWaiting_queueOtp, bump_queueOtp, discardRead_queueOtp,
    issueReads_queueOtp, readBack_queueOtp, failReads_queueOtp, queueOtp_foldl]

theorem relayDone_queueOtp {s : State} (port code : Nat) : queueOtp (relayDone s port code) = queueOtp s :=
  postEvent_queueOtp ..

theorem txnResult_queueOtp {s : State} (t : Txn) (status : Nat) (p : Packet) :
    queueOtp (txnResult s t status p) = queueOtp s := by
  grind [txnResult, moverResponse_queueOtp, answer_queueOtp, relayDone_queueOtp]

theorem completeTxn_queueOtp {s : State} (tag : Nat) (t : Txn) (status : Nat) (p : Packet) :
    queueOtp (completeTxn s tag t status p) = queueOtp s := by
  grind [queueOtp, completeTxn, txnResult_queueOtp, noteResponse_queueOtp, serveTags_queueOtp]

theorem doTransactionResponse_queueOtp (p : Packet) {s : State} : queueOtp (doTransactionResponse p s) = queueOtp
  s := by
  grind [queueOtp, doTransactionResponse, takePacket_queueOtp, countDiscard_queueOtp, completeTxn_queueOtp]

theorem doBootRelayDone_queueOtp (port code : Nat) {s : State} :
    queueOtp (doBootRelayDone port code s) = queueOtp s := by
  grind [queueOtp, doBootRelayDone, relayDone_queueOtp, serveTags_queueOtp]

theorem badLen_queueOtp {s : State} : queueOtp (badLen s).1 = queueOtp s := rfl

theorem cmdLinkStart_queueOtp (h : CmdHdr) (channel r : Nat) {s : State} :
    queueOtp (cmdLinkStart h channel r s).1 = queueOtp s := by
  grind [cmdLinkStart, refuseAt_queueOtp, fetchEntry_queueOtp, refuse_queueOtp, okDone_queueOtp, setLport_queueOtp]

theorem cmdLinkStop_queueOtp (port r : Nat) {s : State} : queueOtp (cmdLinkStop port r s).1 = queueOtp s := by
  grind [cmdLinkStop, refuseAt_queueOtp, okDone_queueOtp, losePort_queueOtp]

theorem cmdLinkStatus_queueOtp {s : State} : queueOtp (cmdLinkStatus s).1 = queueOtp s := okWith_queueOtp ..

theorem cmdLinkRouteSet_queueOtp (first count : Nat) (ports : List Byte) {s : State} :
    queueOtp (cmdLinkRouteSet first count ports s).1 = queueOtp s := by
  grind [queueOtp, cmdLinkRouteSet, badLen_queueOtp, refuseAt_queueOtp, okDone_queueOtp]

theorem cmdLinkAbort_queueOtp (first last : Nat) {s : State} : queueOtp (cmdLinkAbort first last s).1 = queueOtp s
  := by
  grind [queueOtp, cmdLinkAbort, refuseAt_queueOtp, txnResult_queueOtp, noteResponse_queueOtp, okWith_queueOtp,
    serveTags_queueOtp, queueOtp_foldl]

theorem cmdLinkReserve_queueOtp (port dir r mbps : Nat) {s : State} :
    queueOtp (cmdLinkReserve port dir r mbps s).1 = queueOtp s := by
  grind [queueOtp, cmdLinkReserve, refuseAt_queueOtp, okDone_queueOtp]

theorem cmdLinkWindowSet_queueOtp (win r base length : Nat) {s : State} :
    queueOtp (cmdLinkWindowSet win r base length s).1 = queueOtp s := by
  grind [cmdLinkWindowSet, refuseAt_queueOtp, okDone_queueOtp, setWindow_queueOtp]

theorem changeWindow_queueOtp (f : Window → Window) (win r : Nat) {s : State} :
    queueOtp (changeWindow f win r s).1 = queueOtp s := by
  grind [changeWindow, refuseAt_queueOtp, refuse_queueOtp, okWith_queueOtp, setWindow_queueOtp]

theorem cmdLinkImportSet_queueOtp (entry win device epoch r base length : Nat) {s : State} :
    queueOtp (cmdLinkImportSet entry win device epoch r base length s).1 = queueOtp s := by
  grind [queueOtp, cmdLinkImportSet, refuseAt_queueOtp, okDone_queueOtp]

theorem cmdLinkIdSet_queueOtp (id r : Nat) {s : State} : queueOtp (cmdLinkIdSet id r s).1 = queueOtp s := by
  grind [cmdLinkIdSet, refuseAt_queueOtp, refuse_queueOtp, okDone_queueOtp, joinAs_queueOtp]

theorem nextReq_queueOtp {s : State} : queueOtp (nextReq s) = queueOtp s := rfl

theorem cmdLinkIdAssign_queueOtp (port r id : Nat) {s : State} :
    queueOtp (cmdLinkIdAssign port r id s).1 = queueOtp s := by
  grind [cmdLinkIdAssign, refuseAt_queueOtp, refuse_queueOtp, request_queueOtp, nextReq_queueOtp]

theorem cmdLinkMboxRelay_queueOtp (device r : Nat) (record : List Byte) {s : State} :
    queueOtp (cmdLinkMboxRelay device r record s).1 = queueOtp s := by
  grind [cmdLinkMboxRelay, badLen_queueOtp, refuseAt_queueOtp, refuse_queueOtp, request_queueOtp, nextReq_queueOtp]

theorem cmdLinkEventSink_queueOtp (device flags : Nat) {s : State} :
    queueOtp (cmdLinkEventSink device flags s).1 = queueOtp s := by
  grind [queueOtp, cmdLinkEventSink, refuseAt_queueOtp, okDone_queueOtp]

theorem cmdBootRelay_queueOtp (h : CmdHdr) (port r addr len r2 : Nat) {s : State} :
    queueOtp (cmdBootRelay h port r addr len r2 s).1 = queueOtp s := by
  grind [queueOtp, cmdBootRelay, refuseAt_queueOtp, readStruct_queueOtp, refuse_queueOtp, okDone_queueOtp,
    request_queueOtp]

theorem doTimeFlitSend_queueOtp (port : Nat) {s : State} : queueOtp (doTimeFlitSend port s) = queueOtp s := by
  grind [doTimeFlitSend, bump_queueOtp, setLport_queueOtp]

theorem slew_queueOtp {s : State} : queueOtp (slew s) = queueOtp s := rfl

theorem thetaRecord_queueOtp {s : State} (p xseq : Nat) : queueOtp (thetaRecord s p xseq) = queueOtp s := by
  grind [thetaRecord, setLport_queueOtp, emitTrace_queueOtp]

theorem followParent_queueOtp {s : State} (p : Nat) (m : TimeMsg) : queueOtp (followParent s p m) = queueOtp s := by
  grind [queueOtp, followParent, slew_queueOtp, endLevel_queueOtp, postEvent_queueOtp]

theorem receiveTime_queueOtp {s : State} (p : Nat) (m : TimeMsg) (arrival arrivalFr : Nat) :
    queueOtp (receiveTime s p m arrival arrivalFr) = queueOtp s := by
  grind [receiveTime, bump_queueOtp, freeFlits_queueOtp, setLport_queueOtp, followParent_queueOtp,
    thetaRecord_queueOtp]

theorem doTimeFlitReceive_queueOtp (port : Nat) (m : TimeMsg) (arrival arrivalFr : Nat) {s : State} :
    queueOtp (doTimeFlitReceive port m arrival arrivalFr s) = queueOtp s := by
  grind [doTimeFlitReceive, receiveTime_queueOtp]

theorem receiveFlit_queueOtp {s : State} (p : Nat) (x : Flit) : queueOtp (receiveFlit s p x) = queueOtp s := by
  grind [receiveFlit, bump_queueOtp, setLport_queueOtp, stompOut_queueOtp, failFlit_queueOtp,
    receiveCtrl_queueOtp, receiveTime_queueOtp, acceptFlit_queueOtp]

theorem doFlitReceive_queueOtp (port : Nat) (x : Flit) {s : State} : queueOtp (doFlitReceive port x s) = queueOtp
  s := by
  grind [doFlitReceive, receiveFlit_queueOtp]

theorem cmdLinkTimeJoin_queueOtp {s : State} : queueOtp (cmdLinkTimeJoin s).1 = queueOtp s := by
  grind [queueOtp, cmdLinkTimeJoin, refuse_queueOtp, setLport_queueOtp]

theorem stepTime_queueOtp {s : State} (d : Int) : queueOtp (stepTime s d) = queueOtp s := rfl

theorem doTimeStep_queueOtp {s : State} : queueOtp (doTimeStep s) = queueOtp s := by
  grind [queueOtp, doTimeStep, setLport_queueOtp, stepTime_queueOtp, postEvent_queueOtp]

theorem doTimeJoinLocked_queueOtp {s : State} : queueOtp (doTimeJoinLocked s) = queueOtp s := by
  grind [queueOtp, doTimeJoinLocked, answer_queueOtp]

theorem doTimeHoldover_queueOtp (cause : Nat) {s : State} : queueOtp (doTimeHoldover cause s) = queueOtp s := by
  grind [queueOtp, doTimeHoldover, failCond_queueOtp, postEvent_queueOtp]

theorem cmdLinkPpsSet_queueOtp (phase flags : Nat) {s : State} :
    queueOtp (cmdLinkPpsSet phase flags s).1 = queueOtp s := by
  grind [queueOtp, cmdLinkPpsSet, refuse_queueOtp, refuseAt_queueOtp, okWith_queueOtp, stepTime_queueOtp]

theorem doPpsEdge_queueOtp {s : State} : queueOtp (doPpsEdge s) = queueOtp s := by
  grind [queueOtp, doPpsEdge, slew_queueOtp, postEvent_queueOtp]

theorem doPpsLost_queueOtp {s : State} : queueOtp (doPpsLost s) = queueOtp s := by
  grind [queueOtp, doPpsLost, advanceTo_queueOtp, postEvent_queueOtp]

theorem writeBack_queueOtp {s : State} (g : Nat) : queueOtp (writeBack s g) = queueOtp s := rfl

theorem doFsScrubRow_queueOtp (bank row : Nat) (found : EccFind) {s : State} :
    queueOtp (doFsScrubRow bank row found s) = queueOtp s := by
  grind [doFsScrubRow, writeBack_queueOtp, eccHits_queueOtp, bump_queueOtp]

theorem cmdDdrInit_queueOtp (cfg : List Byte) {s : State} : queueOtp (cmdDdrInit cfg s).1 = queueOtp s := by
  grind [queueOtp, cmdDdrInit, badLen_queueOtp, refuseAt_queueOtp, refuse_queueOtp]

theorem doDdrInitDone_queueOtp (result : TrainResult) {s : State} : queueOtp (doDdrInitDone result s) = queueOtp s
  := by
  cases result <;> grind [queueOtp, doDdrInitDone, answer_queueOtp]

theorem doDdrScrubGranule_queueOtp (addr : Nat) (isCode : Bool) (found : EccFind) (rank bank row : Nat) {s : State} :
    queueOtp (doDdrScrubGranule addr isCode found rank bank row s) = queueOtp s := by
  grind [queueOtp, doDdrScrubGranule, eccHits_queueOtp]

theorem doDdrAlert_queueOtp (channel : Nat) {s : State} : queueOtp (doDdrAlert channel s) = queueOtp s := by
  grind [doDdrAlert, raiseDoubt_queueOtp]

theorem doDdrRefresh_queueOtp (channel : Nat) {s : State} : queueOtp (doDdrRefresh channel s) = queueOtp s := by
  grind [queueOtp, doDdrRefresh, bump_queueOtp]

theorem doDdrMr4Poll_queueOtp (channel rank : Nat) (temp : Int) {s : State} :
    queueOtp (doDdrMr4Poll channel rank temp s) = queueOtp s := by
  grind [queueOtp, doDdrMr4Poll, postEvent_queueOtp]

theorem deliverStub_queueOtp {s : State} (flow : Nat) (st : Stub) : queueOtp (deliverStub s flow st) = queueOtp s
  := by
  grind [deliverStub, setEport_queueOtp]

theorem formatResult_queueOtp {s : State} (r : Released) : queueOtp (formatResult s r) = queueOtp s := by
  grind [queueOtp, formatResult, setEport_queueOtp]

theorem abortRecord_queueOtp {s : State} (flow objId f tExp reason flags : Nat) :
    queueOtp (abortRecord s flow objId f tExp reason flags) = queueOtp s := by
  grind [abortRecord, postEvent_queueOtp, bump_queueOtp, setEport_queueOtp]

theorem dropStubs_queueOtp {s : State} (flow : Nat) (keep : List Nat) :
    queueOtp (dropStubs s flow keep) = queueOtp s := by
  grind [dropStubs, setEport_queueOtp]

theorem substitutionPulse_queueOtp {s : State} (verdict : Nat) :
    queueOtp (substitutionPulse s verdict) = queueOtp s := by
  grind [queueOtp, substitutionPulse, updateDoubt_queueOtp]

theorem lateEvent_queueOtp {s : State} (p k : Nat) (x : EStream) (r : ResRec) :
    queueOtp (lateEvent s p k x r) = queueOtp s := by
  grind [lateEvent, setEport_queueOtp, postEvent_queueOtp]

theorem putRecord_queueOtp {s : State} (p : Nat) (r : ResRec) : queueOtp (putRecord s p r) = queueOtp s :=
  setEport_queueOtp ..

theorem acceptResult_queueOtp {s : State} (p k : Nat) (x : EStream) (r : ResRec) :
    queueOtp (acceptResult s p k x r) = queueOtp s := by
  grind [acceptResult, lateEvent_queueOtp, bump_queueOtp, substitutionPulse_queueOtp, putRecord_queueOtp]

theorem acceptAborted_queueOtp {s : State} (p : Nat) (r : ResRec) : queueOtp (acceptAborted s p r) = queueOtp s := by
  grind [acceptAborted, substitutionPulse_queueOtp, putRecord_queueOtp, bump_queueOtp]

theorem doRecordAccept_queueOtp (port : Nat) {s : State} : queueOtp (doRecordAccept port s) = queueOtp s := by
  grind [doRecordAccept, acceptAborted_queueOtp, acceptResult_queueOtp]

theorem doEgressSlot_queueOtp (port : Nat) (found : EccFind) {s : State} :
    queueOtp (doEgressSlot port found s) = queueOtp s := by
  grind [doEgressSlot, bump_queueOtp, setEport_queueOtp, fifoEcc_queueOtp]

theorem cmdEgressStart_queueOtp (h : CmdHdr) (channel r : Nat) {s : State} :
    queueOtp (cmdEgressStart h channel r s).1 = queueOtp s := by
  grind [cmdEgressStart, refuseAt_queueOtp, fetchEntry_queueOtp, refuse_queueOtp, okDone_queueOtp, setEport_queueOtp]

theorem cmdEgressStop_queueOtp (port r : Nat) {s : State} : queueOtp (cmdEgressStop port r s).1 = queueOtp s := by
  grind [cmdEgressStop, refuse_queueOtp, refuseAt_queueOtp, okWith_queueOtp, bump_queueOtp, setEport_queueOtp]

theorem cmdEgressUrunClear_queueOtp (port r : Nat) {s : State} :
    queueOtp (cmdEgressUrunClear port r s).1 = queueOtp s := by
  grind [cmdEgressUrunClear, refuse_queueOtp, refuseAt_queueOtp, okWith_queueOtp, setEport_queueOtp]

theorem drawTokens_queueOtp {s : State} (g : Nat) (p : Purse) (c : Nat) :
    queueOtp (drawTokens s g p c) = queueOtp s := by
  grind [queueOtp, drawTokens]

theorem drawAll_queueOtp {s : State} (ds : List ((Nat × Nat) × Purse × Nat)) : queueOtp (drawAll s ds) = queueOtp
  s := by
  simp [drawAll, queueOtp_foldl, drawTokens_queueOtp]

theorem throttleEvent_queueOtp {s : State} (down : Bool) : queueOtp (throttleEvent s down) = queueOtp s := by
  grind [queueOtp, throttleEvent, postEvent_queueOtp]

theorem capUnmet_queueOtp {s : State} (before : PowerUnit) (powerMw : Nat) :
    queueOtp (capUnmet s before powerMw) = queueOtp s := by
  grind [queueOtp, capUnmet, postEvent_queueOtp]

theorem doBudgetEpochStart_queueOtp (powerMw : Nat) {s : State} :
    queueOtp (doBudgetEpochStart powerMw s) = queueOtp s := by
  grind [queueOtp, doBudgetEpochStart, advanceTo_queueOtp, capUnmet_queueOtp, throttleEvent_queueOtp]

theorem cmdPowerCapSet_queueOtp (watts r : Nat) {s : State} : queueOtp (cmdPowerCapSet watts r s).1 = queueOtp s := by
  grind [queueOtp, cmdPowerCapSet, refuseAt_queueOtp, okDone_queueOtp]

theorem cmdPowerStatus_queueOtp {s : State} : queueOtp (cmdPowerStatus s).1 = queueOtp s := okWith_queueOtp ..

theorem thermCheck_queueOtp {s : State} : queueOtp (thermCheck s) = queueOtp s := by
  grind [queueOtp, thermCheck, postEvent_queueOtp]

theorem doThermalSensorRead_queueOtp (sensor : Nat) (temp : Int) {s : State} :
    queueOtp (doThermalSensorRead sensor temp s) = queueOtp s := by
  grind [queueOtp, doThermalSensorRead, thermCheck_queueOtp]

theorem cmdThermalSet_queueOtp (th r : Nat) {s : State} : queueOtp (cmdThermalSet th r s).1 = queueOtp s := by
  grind [queueOtp, cmdThermalSet, refuseAt_queueOtp, okDone_queueOtp, thermCheck_queueOtp]

theorem releasePins_queueOtp {s : State} : queueOtp (releasePins s) = queueOtp s := rfl

theorem doThermalTrip_queueOtp (sensor : Nat) (temp : Int) {s : State} :
    queueOtp (doThermalTrip sensor temp s) = queueOtp s := by
  grind [queueOtp, doThermalTrip, releasePins_queueOtp, updateDoubt_queueOtp]

theorem cmdSeasonSet_queueOtp (season r : Nat) {s : State} : queueOtp (cmdSeasonSet season r s).1 = queueOtp s := by
  grind [queueOtp, cmdSeasonSet, refuse_queueOtp, refuseAt_queueOtp]

theorem doSeasonChangeDone_queueOtp {s : State} : queueOtp (doSeasonChangeDone s) = queueOtp s := by
  grind [queueOtp, doSeasonChangeDone, answer_queueOtp]

theorem setIsland_queueOtp {s : State} (i : Nat) (on : Bool) : queueOtp (setIsland s i on) = queueOtp s := rfl

theorem settleIsland_queueOtp {s : State} (island : Nat) : queueOtp (settleIsland s island) = queueOtp s := by
  simp [settleIsland, queueOtp_foldl, settleReads_queueOtp]

theorem cmdIslandStop_queueOtp (island r : Nat) {s : State} : queueOtp (cmdIslandStop island r s).1 = queueOtp s := by
  grind [cmdIslandStop, refuseAt_queueOtp, refuse_queueOtp, okDone_queueOtp, emitTrace_queueOtp,
    setIsland_queueOtp, settleIsland_queueOtp]

theorem cmdIslandStart_queueOtp (island r : Nat) {s : State} : queueOtp (cmdIslandStart island r s).1 = queueOtp s
  := by
  grind [cmdIslandStart, refuseAt_queueOtp, okDone_queueOtp, emitTrace_queueOtp, setIsland_queueOtp]

end Sys2Proof.Machine
end

section
/-! PROOFS. Whatever the state, the operations of the cores and the pool leave
the queue of commands and OTP as they are. -/

namespace Sys2Proof.Machine

open Sys2Proof

theorem unitTraceEnd_queueOtp {s : State} (c : Nat) (u : CoreUnit) : queueOtp (unitTraceEnd s c u) = queueOtp s :=
  emitTrace_queueOtp ..

theorem scrambleRows_queueOtp {s : State} (c : Nat) (rows : List (Nat × Nat)) :
    queueOtp (scrambleRows s c rows) = queueOtp s := by
  simp [scrambleRows, queueOtp_foldl, scramble_queueOtp]

theorem setUnit_queueOtp {s : State} (c : Nat) (u : Option CoreUnit) : queueOtp (setUnit s c u) = queueOtp s := by
  unfold setUnit
  split <;> grind [setCore_queueOtp]

theorem writeOut_queueOtp {s : State} (c : Nat) (t : TDesc) (l : List OutEl) :
    queueOtp (writeOut s c t l).1 = queueOtp s := storeCells_queueOtp ..

theorem emitOut_queueOtp {s : State} (x : OpCtx) (t : TDesc) (l : List OutEl) :
    queueOtp (emitOut s x t l).1 = queueOtp s := writeOut_queueOtp ..

theorem runPasses_queueOtp {s : State} (x : OpCtx) (parity : List Nat) (ps : List Pass) :
    queueOtp (runPasses s x parity ps).1 = queueOtp s := by
  grind [runPasses, writeOut_queueOtp, setCore_queueOtp]

theorem runMatmul_queueOtp {s : State} (x : OpCtx) (parity : List Nat) :
    queueOtp (runMatmul s x parity).1 = queueOtp s := runPasses_queueOtp ..

theorem runConv_queueOtp {s : State} (x : OpCtx) (parity : List Nat) : queueOtp (runConv s x parity).1 = queueOtp s :=
  runPasses_queueOtp ..

theorem runDwconv_queueOtp {s : State} (x : OpCtx) : queueOtp (runDwconv s x).1 = queueOtp s := emitOut_queueOtp ..

theorem runPool_queueOtp {s : State} (x : OpCtx) : queueOtp (runPool s x).1 = queueOtp s := emitOut_queueOtp ..

theorem runEltwise_queueOtp {s : State} (x : OpCtx) : queueOtp (runEltwise s x).1 = queueOtp s :=
  emitOut_queueOtp ..

theorem runRequant_queueOtp {s : State} (x : OpCtx) : queueOtp (runRequant s x).1 = queueOtp s :=
  emitOut_queueOtp ..

theorem runConcat_queueOtp {s : State} (x : OpCtx) : queueOtp (runConcat s x).1 = queueOtp s := emitOut_queueOtp ..

theorem runResize_queueOtp {s : State} (x : OpCtx) : queueOtp (runResize s x).1 = queueOtp s := emitOut_queueOtp ..

theorem runSoftmax_queueOtp {s : State} (x : OpCtx) : queueOtp (runSoftmax s x).1 = queueOtp s :=
  emitOut_queueOtp ..

theorem runNorm_queueOtp {s : State} (x : OpCtx) : queueOtp (runNorm s x).1 = queueOtp s := emitOut_queueOtp ..

theorem runArgmax_queueOtp {s : State} (x : OpCtx) : queueOtp (runArgmax s x).1 = queueOtp s := emitOut_queueOtp ..

theorem runTopk_queueOtp {s : State} (x : OpCtx) : queueOtp (runTopk s x).1 = queueOtp s := by
  grind [runTopk, emitOut_queueOtp]

theorem readGrans_queueOtp {s : State} (dom : Nat) (gs : List Nat) : queueOtp (readGrans s dom gs) = queueOtp s := by
  simp [readGrans, queueOtp_foldl, readLocal_queueOtp]

theorem cropHeaders_queueOtp (s : State) {s1 : State} (dom : Nat) (hdr : Nat → Nat) (l : List Nat) :
    queueOtp (cropHeaders s s1 dom hdr l).1 = queueOtp s1 := by
  simp [cropHeaders, queueOtp_foldlFst, readLocal_queueOtp]

theorem runCrop_queueOtp {s : State} (x : OpCtx) (u : CoreUnit) : queueOtp (runCrop s x u).1 = queueOtp s := by
  unfold runCrop
  dsimp only
  rw [putBytes_queueOtp, emitOut_queueOtp, cropHeaders_queueOtp, readGrans_queueOtp, readLocal_queueOtp]

theorem vOutside_queueOtp (c issue work : Nat) {v : VRun} : queueOtp (vOutside c issue work v).s = queueOtp v.s := by
  grind [vOutside, postEvent_queueOtp]

theorem vLd_queueOtp (x : OpCtx) (work : Nat) {v : VRun} (w : Nat) : queueOtp (vLd x work v w).s = queueOtp v.s := by
  unfold vLd vLoaded
  dsimp only
  split
  · rfl
  · exact vOutside_queueOtp _ _ _

theorem vSt_queueOtp (x : OpCtx) (work : Nat) {v : VRun} (w : Nat) : queueOtp (vSt x work v w).s = queueOtp v.s := by
  grind [vSt, putBytes_queueOtp, vOutside_queueOtp]

theorem vLut_queueOtp (x : OpCtx) (work : Nat) {v : VRun} (w : Nat) : queueOtp (vLut x work v w).s = queueOtp v.s
  := by
  unfold vLut
  dsimp only
  split
  · split <;> simp only [setPoison_s, vPut_s]
  · rw [vOutside_queueOtp]
    split <;> simp only [setPoison_s, vPut_s]

theorem vExec_queueOtp (x : OpCtx) (work : Nat) {v : VRun} (w : Nat) : queueOtp (vExec x work v w).s = queueOtp
  v.s := by
  unfold vExec
  dsimp only
  split
  all_goals grind [vPut_s, vPutPair_s, vPutTwo_s, vCmp_s, vSel_s, vLd_queueOtp, vSt_queueOtp, vLut_queueOtp]

theorem vTimes_queueOtp (x : OpCtx) {v : VRun} (w : Nat) : queueOtp (vTimes x v w).1.s = queueOtp v.s := by
  grind [queueOtp, vTimes]

theorem vEffect_queueOtp (x : OpCtx) (work : Nat) {v : VRun} (w : Nat) :
    queueOtp (vEffect x work v w).s = queueOtp v.s := by
  unfold vEffect
  dsimp only
  split
  · rw [setPoisons_s, vExec_queueOtp]
  · exact vExec_queueOtp _ _ _

theorem vStep_queueOtp (x : OpCtx) (work : Nat) (prog : List Byte) (t : Nat) {v : VRun} :
    queueOtp (vStep x work prog t v).s = queueOtp v.s := by
  grind [vStep, vTimes_queueOtp, vEffect_queueOtp]

theorem vLoop_queueOtp (x : OpCtx) (work : Nat) (prog : List Byte) (n : Nat) {v : VRun} :
    queueOtp (vLoop x work prog n v).s = queueOtp v.s := by
  induction n generalizing v with
  | zero => rfl
  | succ n ih => grind [vLoop, vKill, postEvent_queueOtp, vStep_queueOtp]

theorem runVprog_queueOtp {s : State} (x : OpCtx) (work : Nat) : queueOtp (runVprog s x work).1 = queueOtp s := by
  grind [runVprog, setCore_queueOtp, vLoop_queueOtp]

theorem runOp_queueOtp {s : State} (c : Nat) (u : CoreUnit) (o : CoreOp) (limit : Option Nat) (parity : List Nat) :
    queueOtp (runOp s c u o limit parity).1 = queueOtp s := by
  grind [runOp, runMatmul_queueOtp, runConv_queueOtp, runDwconv_queueOtp, runPool_queueOtp, runEltwise_queueOtp,
    runRequant_queueOtp, runConcat_queueOtp, runResize_queueOtp, runSoftmax_queueOtp, runNorm_queueOtp,
    runArgmax_queueOtp, runTopk_queueOtp, runCrop_queueOtp, runVprog_queueOtp]

theorem endOp_queueOtp (c : Nat) {su : State × CoreUnit} (o : CoreOp) : queueOtp (endOp c su o).1 = queueOtp su.1
  := by
  grind [queueOtp, endOp, scrambleRows_queueOtp, runOp_queueOtp]

theorem coreStop_queueOtp {s : State} (c : Nat) (u : CoreUnit) : queueOtp (coreStop s c u).1 = queueOtp s := by
  simp [coreStop, queueOtp_foldlFst, endOp_queueOtp]

theorem coreCounts_queueOtp {s : State} (c : Nat) (u : CoreUnit) : queueOtp (coreCounts s c u) = queueOtp s :=
  bump_queueOtp ..

theorem closeUnit_queueOtp {s : State} (c : Nat) (u : CoreUnit) : queueOtp (closeUnit s c u) = queueOtp s := by
  grind [closeUnit, setUnit_queueOtp, unitTraceEnd_queueOtp, coreCounts_queueOtp, travelMismatch_queueOtp]

theorem abandonCoreNode_queueOtp {s : State} (c : Nat) (u : CoreUnit) (st : Status) :
    queueOtp (abandonCoreNode s c u st) = queueOtp s := by
  grind [abandonCoreNode, coreStop_queueOtp, closeUnit_queueOtp, setUnit_queueOtp]

theorem mapWindow_queueOtp {s : State} (flow : Nat) (p : PItem → PItem) :
    queueOtp (mapWindow s flow p) = queueOtp s := by
  grind [mapWindow, setFlow_queueOtp]

theorem signalPool_queueOtp {s : State} (flow acc c : Nat) (post : Option PostVal) (st : Status) :
    queueOtp (signalPool s flow acc c post st) = queueOtp s := mapWindow_queueOtp ..

theorem itemBad_queueOtp {s : State} (flow : Nat) (st : Status) (seq : Nat) :
    queueOtp (itemBad s flow st seq) = queueOtp s := raiseDoubt_queueOtp ..

theorem poolExcess_queueOtp {s : State} (flow : Nat) (f : Flow) (fr count : Nat) :
    queueOtp (poolExcess s flow f fr count) = queueOtp s := by
  grind [poolExcess, raiseDoubt_queueOtp, setFlow_queueOtp]

theorem acceptItem_queueOtp {s : State} (flow : Nat) (f : Flow) (x : Submission) :
    queueOtp (acceptItem s flow f x) = queueOtp s := by
  grind [queueOtp, acceptItem, setFlow_queueOtp, bump_queueOtp, poolExcess_queueOtp, itemBad_queueOtp]

theorem doItemAccept_queueOtp {s : State} : queueOtp (doItemAccept s) = queueOtp s := by
  unfold doItemAccept
  split <;> grind [queueOtp, itemBad_queueOtp, acceptItem_queueOtp]

theorem startCopy_queueOtp {s : State} (flow : Nat) (f : Flow) (i : PItem) (c : Nat) :
    queueOtp (startCopy s flow f i c) = queueOtp s := by
  grind [startCopy, drawTokens_queueOtp, setUnit_queueOtp, setFlow_queueOtp, bump_queueOtp]

theorem doItemDispatch_queueOtp (graph : Nat) {s : State} : queueOtp (doItemDispatch graph s) = queueOtp s := by
  grind [doItemDispatch, startCopy_queueOtp]

theorem dupMismatch_queueOtp {s : State} (flow : Nat) (f : Flow) (i : PItem) :
    queueOtp (dupMismatch s flow f i) = queueOtp s := by
  grind [dupMismatch, postEvent_queueOtp]

theorem itemSlip_queueOtp {s : State} (flow : Nat) (f : Flow) (i : PItem) :
    queueOtp (itemSlip s flow f i) = queueOtp s := by
  grind [itemSlip, setFlow_queueOtp, failCond_queueOtp, raiseDoubt_queueOtp]

theorem finishItem_queueOtp {s : State} (flow : Nat) (f : Flow) (i : PItem) :
    queueOtp (finishItem s flow f i) = queueOtp s := by
  grind [queueOtp, finishItem, setFlow_queueOtp, dupMismatch_queueOtp, itemSlip_queueOtp]

theorem takeSignal_queueOtp {s : State} (flow : Nat) (f : Flow) (i : PItem) (c : Nat) :
    queueOtp (takeSignal s flow f i c) = queueOtp s := by
  grind [takeSignal, setFlow_queueOtp, finishItem_queueOtp]

theorem doItemComplete_queueOtp (core : Nat) {s : State} : queueOtp (doItemComplete core s) = queueOtp s := by
  grind [doItemComplete, takeSignal_queueOtp]

theorem releaseItem_queueOtp {s : State} (flow : Nat) (f : Flow) (i : PItem) :
    queueOtp (releaseItem s flow f i) = queueOtp s := by
  grind [releaseItem, setFlow_queueOtp, bump_queueOtp, formatResult_queueOtp]

theorem doResultRelease_queueOtp (flow : Nat) {s : State} : queueOtp (doResultRelease flow s) = queueOtp s := by
  grind [doResultRelease, releaseItem_queueOtp]

theorem takeSignals_queueOtp {s : State} (flow acc : Nat) (l : List ItemCopy) :
    queueOtp (takeSignals s flow acc l) = queueOtp s := by
  unfold takeSignals
  exact queueOtp_foldl (fun s e => by grind [takeSignal_queueOtp]) _ _

theorem stopFlow_queueOtp {s : State} (flow : Nat) (f : Flow) : queueOtp (stopFlow s flow f) = queueOtp s := by
  unfold stopFlow
  exact queueOtp_foldl (fun s e => by grind [takeSignals_queueOtp, setFlow_queueOtp]) _ _

theorem stopPoolCore_queueOtp {s : State} (c : Nat) : queueOtp (stopPoolCore s c) = queueOtp s := by
  grind [stopPoolCore, coreStop_queueOtp, signalPool_queueOtp, closeUnit_queueOtp, setUnit_queueOtp]

theorem stopPool_queueOtp {s : State} (g : Nat) (cores : List Nat) : queueOtp (stopPool s g cores) = queueOtp s := by
  grind [queueOtp, stopPool, stopFlow_queueOtp, stopPoolCore_queueOtp, queueOtp_foldl]

theorem fenceUnit_queueOtp {s : State} (c : Nat) (u : CoreUnit) : queueOtp (fenceUnit s c u) = queueOtp s := by
  cases hw : u.work <;> grind [fenceUnit, abandonCoreNode_queueOtp, coreStop_queueOtp, signalPool_queueOtp,
    closeUnit_queueOtp, setUnit_queueOtp]

theorem cmdCoreFence_queueOtp (core r : Nat) {s : State} : queueOtp (cmdCoreFence core r s).1 = queueOtp s := by
  grind [cmdCoreFence, refuseAt_queueOtp, setCore_queueOtp, okDone_queueOtp, fenceUnit_queueOtp]

theorem cmdCoreUnfence_queueOtp (core r : Nat) {s : State} : queueOtp (cmdCoreUnfence core r s).1 = queueOtp s := by
  grind [cmdCoreUnfence, refuseAt_queueOtp, refuse_queueOtp, okDone_queueOtp, setCore_queueOtp]

end Sys2Proof.Machine
end

section
/-! PROOFS. Whatever the state, the operations of the sequencer, the cameras and the sensor buses leave
the queue of commands and OTP as they are. -/

namespace Sys2Proof.Machine

open Sys2Proof

theorem setLane_queueOtp {s : State} (g k : Nat) (l : Lane) : queueOtp (setLane s g k l) = queueOtp s := rfl

theorem pruneLane_queueOtp {s : State} (g k : Nat) : queueOtp (pruneLane s g k) = queueOtp s := by
  grind [pruneLane, setLane_queueOtp]

theorem modNode_queueOtp {s : State} (n : Nat) (p : Node → Node) : queueOtp (modNode s n p) = queueOtp s := rfl

theorem completeFlags_queueOtp {s : State} (x : Node) (f : Nat) : queueOtp (completeFlags s x f) = queueOtp s := by
  unfold completeFlags
  exact queueOtp_foldl (fun s e => by grind [flagSet_queueOtp, flagRelease_queueOtp]) _ _

theorem abortFrame_queueOtp {s : State} (g k : Nat) (l : Lane) (f reason : Nat) :
    queueOtp (abortFrame s g k l f reason) = queueOtp s := by
  simp [abortFrame, queueOtp_foldl, abortRecord_queueOtp]

theorem skipFlags_queueOtp {s : State} (l : Lane) (f : Nat) : queueOtp (skipFlags s l f) = queueOtp s := by
  grind [skipFlags, flagRelease_queueOtp, queueOtp_foldl]

theorem noticeAt_queueOtp {s : State} (g k : Nat) (x : Graph) (l : Lane) :
    queueOtp (noticeAt s g k x l) = queueOtp s := by
  grind [noticeAt, abortFrame_queueOtp, skipFlags_queueOtp, setLane_queueOtp]

theorem laneFrameStart_queueOtp {s : State} (pipe cnt : Nat) : queueOtp (laneFrameStart s pipe cnt) = queueOtp s :=
  queueOtp_foldl (fun _ _ => setLane_queueOtp ..) _ _

theorem pipeNotice_queueOtp {s : State} (pipe cnt : Nat) : queueOtp (pipeNotice s pipe cnt) = queueOtp s := by
  simp [pipeNotice, queueOtp_foldl, noticeAt_queueOtp]

theorem remoteNotice_queueOtp {s : State} (sem : Nat) : queueOtp (remoteNotice s sem) = queueOtp s := by
  simp [remoteNotice, queueOtp_foldl, noticeAt_queueOtp]

theorem signalEdge_queueOtp {s : State} (e : EdgeE) (g : Nat) : queueOtp (signalEdge s e g) = queueOtp s := by
  grind [signalEdge, semSignalAt_queueOtp, remoteNotice_queueOtp, routePosted_queueOtp]

theorem applySemSignal_queueOtp (p : Packet) {s : State} : queueOtp (applySemSignal p s) = queueOtp s := by
  grind [applySemSignal, semSignalRemote_queueOtp, remoteNotice_queueOtp]

theorem doSemSignal_queueOtp (p : Packet) {s : State} : queueOtp (doSemSignal p s) = queueOtp s := by
  grind [doSemSignal, serve_queueOtp, applySemSignal_queueOtp]

theorem completeEdges_queueOtp {s : State} (x : Node) (i : Nat) : queueOtp (completeEdges s x i) = queueOtp s := by
  unfold completeEdges
  exact queueOtp_foldl (fun s e => by grind [bump_queueOtp, signalEdge_queueOtp, modNode_queueOtp]) _ _

theorem slipCheck_queueOtp {s : State} (n : Nat) (x : Node) (rel f : Nat) :
    queueOtp (slipCheck s n x rel f) = queueOtp s := by
  grind [slipCheck, modNode_queueOtp, bump_queueOtp, failCond_queueOtp, raiseDoubt_queueOtp]

theorem completeNode_queueOtp {s : State} (n : Nat) (x : Node) (i rel f : Nat) :
    queueOtp (completeNode s n x i rel f) = queueOtp s := by
  grind [completeNode, bump_queueOtp, emitTrace_queueOtp, slipCheck_queueOtp, completeEdges_queueOtp,
    completeFlags_queueOtp, pruneLane_queueOtp]

theorem takeStart_queueOtp {s : State} (n : Nat) (x : Node) (f : Nat) : queueOtp (takeStart s n x f) = queueOtp s
  := by
  grind [takeStart, modNode_queueOtp, setSem_queueOtp, bump_queueOtp, emitTrace_queueOtp, queueOtp_foldl]

theorem noteOpenings_queueOtp {s : State} (g k rel : Nat) : queueOtp (noteOpenings s g k rel) = queueOtp s := rfl

theorem releaseIteration_queueOtp {s : State} (n : Nat) (x : Node) (l : Lane) (rel f : Nat) :
    queueOtp (releaseIteration s n x l rel f) = queueOtp s := by
  grind [releaseIteration, noteOpenings_queueOtp, setLane_queueOtp, completeNode_queueOtp, takeStart_queueOtp]

theorem doSourceNotice_queueOtp (graph lane : Nat) {s : State} :
    queueOtp (doSourceNotice graph lane s) = queueOtp s := by
  grind [doSourceNotice, releaseIteration_queueOtp]

theorem startUnit_queueOtp {s : State} (n : Nat) (x : Node) (f : Nat) : queueOtp (startUnit s n x f) = queueOtp s
  := by
  grind [startUnit, setEngine_queueOtp, setUnit_queueOtp, setRunAt_queueOtp]

theorem startNode_queueOtp {s : State} (n : Nat) (x : Node) (rel f : Nat) :
    queueOtp (startNode s n x rel f) = queueOtp s := by
  grind [startNode, takeStart_queueOtp, completeNode_queueOtp, drawTokens_queueOtp, modNode_queueOtp,
    startUnit_queueOtp]

theorem doNodeStart_queueOtp (node : Nat) {s : State} : queueOtp (doNodeStart node s) = queueOtp s := by
  grind [doNodeStart, startNode_queueOtp]

theorem recordNode_queueOtp {s : State} (n : Nat) (x : Node) (rel f : Nat) :
    queueOtp (recordNode s n x rel f) = queueOtp s := by
  grind [recordNode, slipCheck_queueOtp, completeFlags_queueOtp, bump_queueOtp, emitTrace_queueOtp]

theorem doNodeComplete_queueOtp (node : Nat) {s : State} : queueOtp (doNodeComplete node s) = queueOtp s := by
  grind [doNodeComplete, modNode_queueOtp, completeNode_queueOtp, recordNode_queueOtp]

theorem reportDeadlock_queueOtp {s : State} (p : WalkPath) (g : Nat) : queueOtp (reportDeadlock s p g) = queueOtp
  s := by
  grind [reportDeadlock, modNode_queueOtp, raiseDoubt_queueOtp, queueOtp_foldl]

theorem registerNode_queueOtp {s : State} (n : Nat) (x : Node) (bs : List Blocker) :
    queueOtp (registerNode s n x bs) = queueOtp s := by
  grind [registerNode, bump_queueOtp, modNode_queueOtp, setSem_queueOtp, queueOtp_foldl]

theorem doDeadlockWalk_queueOtp (node : Nat) {s : State} : queueOtp (doDeadlockWalk node s) = queueOtp s := by
  unfold doDeadlockWalk
  split <;> grind [registerNode_queueOtp, reportDeadlock_queueOtp]

theorem graphCheck_queueOtp {s : State} {graph r off : Nat} {allowed busy : Graph → Bool} {x : State × CmdRes} (hx :
    graphCheck s graph r off allowed busy = some x) :
    queueOtp x.1 = queueOtp s := by
  grind [graphCheck, refuseAt, refuse]

theorem resetGraph_queueOtp {s : State} (g : Nat) : queueOtp (resetGraph s g) = queueOtp s := rfl

theorem cmdGraphStart_queueOtp (graph sflags r salt : Nat) (f0 : List Nat) {s : State} :
    queueOtp (cmdGraphStart graph sflags r salt f0 s).1 = queueOtp s := by
  grind [cmdGraphStart, graphCheck_queueOtp, refuse_queueOtp, badLen_queueOtp, refuseAt_queueOtp,
    setGraph_queueOtp, resetGraph_queueOtp, okWith_queueOtp]

theorem cmdGraphHold_queueOtp (graph r : Nat) {s : State} : queueOtp (cmdGraphHold graph r s).1 = queueOtp s := by
  grind [queueOtp, cmdGraphHold, graphCheck_queueOtp]

theorem doGraphHoldQuiescent_queueOtp (graph : Nat) {s : State} :
    queueOtp (doGraphHoldQuiescent graph s) = queueOtp s := by
  grind [doGraphHoldQuiescent, answer_queueOtp, setGraph_queueOtp]

theorem cmdGraphResume_queueOtp (graph r : Nat) {s : State} : queueOtp (cmdGraphResume graph r s).1 = queueOtp s := by
  grind [queueOtp, cmdGraphResume, graphCheck_queueOtp, okDone_queueOtp]

theorem stopNode_queueOtp {s : State} (n : Nat) (x : Node) : queueOtp (stopNode s n x) = queueOtp s := by
  grind [queueOtp, stopNode, modNode_queueOtp, abandonCoreNode_queueOtp, stopNodeRun_queueOtp]

theorem abortLane_queueOtp {s : State} (g k : Nat) (l : Lane) : queueOtp (abortLane s g k l).1 = queueOtp s := by
  simp [abortLane, queueOtp_foldl, abortFrame_queueOtp]

theorem dropCarry_queueOtp {s : State} (g : Nat) : queueOtp (dropCarry s g) = queueOtp s := by
  unfold dropCarry
  exact queueOtp_foldl (fun s e => by grind [queueOtp]) _ _

theorem stopGraph_queueOtp {s : State} (graph : Nat) (g : Graph) : queueOtp (stopGraph s graph g) = queueOtp s := by
  unfold stopGraph
  extract_lets s1 s2 s3
  split
  next s4 n h4 =>
  extract_lets s5 s6 s7 s8
  have e3 : queueOtp s3 = queueOtp s := by
    rw [stopPool_queueOtp, setGraph_queueOtp, answer_queueOtp]
  have e4 : queueOtp s4 = queueOtp s3 := by
    rw [← congrArg (fun p => queueOtp p.1) h4]
    refine queueOtp_foldlFst (p := (s3, 0)) (fun p e => ?_) _
    exact abortLane_queueOtp graph e.1 e.2
  have e6 : queueOtp s6 = queueOtp s4 :=
    (queueOtp_foldl (fun s e => cancelStream_queueOtp ..) _ _).trans (queueOtp_foldl (fun s e => stopNode_queueOtp
      ..) _ _)
  have e8 : queueOtp s8 = queueOtp s6 := (queueOtp_foldl (fun s e => dropStubs_queueOtp ..) _ _).trans
    (dropCarry_queueOtp ..)
  exact (e8.trans e6).trans (e4.trans e3)

theorem cmdGraphStop_queueOtp (graph r : Nat) {s : State} : queueOtp (cmdGraphStop graph r s).1 = queueOtp s := by
  grind [cmdGraphStop, graphCheck_queueOtp, refuse_queueOtp, stopGraph_queueOtp]

theorem doGraphStopIdle_queueOtp (graph : Nat) {s : State} : queueOtp (doGraphStopIdle graph s) = queueOtp s := by
  grind [doGraphStopIdle, answer_queueOtp, setGraph_queueOtp]

theorem cmdGraphUnload_queueOtp (graph r : Nat) {s : State} : queueOtp (cmdGraphUnload graph r s).1 = queueOtp s := by
  grind [queueOtp, cmdGraphUnload, graphCheck_queueOtp, refuse_queueOtp, okDone_queueOtp]

theorem cmdGraphStatus_queueOtp (graph r : Nat) {s : State} : queueOtp (cmdGraphStatus graph r s).1 = queueOtp s := by
  grind [cmdGraphStatus, refuseAt_queueOtp, okWith_queueOtp]

theorem modPipe_queueOtp {s : State} (p : Nat) (f : Pipe → Pipe) : queueOtp (modPipe s p f) = queueOtp s :=
  setPipe_queueOtp ..

theorem countPort_queueOtp {s : State} (k i : Nat) : queueOtp (countPort s k i) = queueOtp s := setPort_queueOtp ..

theorem countPipe_queueOtp {s : State} (p i n : Nat) : queueOtp (countPipe s p i n) = queueOtp s :=
  modPipe_queueOtp ..

theorem countCorrected_queueOtp {s : State} (k : Nat) (corrected : Bool) :
    queueOtp (countCorrected s k corrected) = queueOtp s := by
  grind [countCorrected, countPort_queueOtp]

theorem doCsiHeaderError_queueOtp (port : Nat) {s : State} : queueOtp (doCsiHeaderError port s) = queueOtp s := by
  grind [doCsiHeaderError, countPort_queueOtp]

theorem lineArrives_queueOtp {s : State} (p dt : Nat) (samples : List Nat) (crcOk : Bool) (taken codeErrs : Nat) :
    queueOtp (lineArrives s p dt samples crcOk taken codeErrs) = queueOtp s := by
  grind [lineArrives, setPipe_queueOtp]

theorem longPacket_queueOtp {s : State} (port vc dt : Nat) (samples : List Nat) (corrected crcOk : Bool) (taken
    codeErrs : Nat) :
    queueOtp (longPacket s port vc dt samples corrected crcOk taken codeErrs) = queueOtp s := by
  grind [longPacket, countCorrected_queueOtp, countPort_queueOtp, lineArrives_queueOtp]

theorem doCsiLongPacket_queueOtp (port vc dt : Nat) (samples : List Nat) (corrected crcOk : Bool) (taken codeErrs :
    Nat) {s : State} :
    queueOtp (doCsiLongPacket port vc dt samples corrected crcOk taken codeErrs s) = queueOtp s := by
  grind [doCsiLongPacket, longPacket_queueOtp]

theorem bandDone_queueOtp {s : State} (c : PipeCfg) (cnt y : Nat) : queueOtp (bandDone s c cnt y) = queueOtp s := by
  grind [bandDone, flagSet_queueOtp]

theorem writeLine_queueOtp {s : State} (p : Nat) (x : Pipe) (f : Frame) :
    queueOtp (writeLine s p x f).1 = queueOtp s := by
  simp [writeLine, queueOtp_foldl, writeLocal_queueOtp, bump_queueOtp, bandDone_queueOtp]

theorem doPipelineLineDone_queueOtp (pipe : Nat) {s : State} : queueOtp (doPipelineLineDone pipe s) = queueOtp s := by
  grind [doPipelineLineDone, writeLine_queueOtp, modPipe_queueOtp]

theorem countFlags_queueOtp {s : State} (p flags : Nat) : queueOtp (countFlags s p flags) = queueOtp s := by
  unfold countFlags
  dsimp only
  rw [bump_queueOtp, bump_queueOtp, queueOtp_foldl fun _ _ => countPipe_queueOtp ..]

theorem finishFrame_queueOtp {s : State} (p : Nat) (x : Pipe) (f : Frame) :
    queueOtp (finishFrame s p x f) = queueOtp s := by
  grind [finishFrame, writeLocal_queueOtp, modPipe_queueOtp, countFlags_queueOtp, travelMismatch_queueOtp,
    flagSet_queueOtp, pipeNotice_queueOtp, answer_queueOtp]

theorem doFrameComplete_queueOtp (pipe : Nat) {s : State} : queueOtp (doFrameComplete pipe s) = queueOtp s := by
  grind [doFrameComplete, finishFrame_queueOtp]

theorem drainLines_queueOtp (n : Nat) {s : State} (p : Nat) : queueOtp (drainLines n s p) = queueOtp s := by
  induction n generalizing s <;> grind [drainLines, doPipelineLineDone_queueOtp]

theorem drainClosing_queueOtp {s : State} (p : Nat) : queueOtp (drainClosing s p) = queueOtp s := by
  grind [drainClosing, doFrameComplete_queueOtp, drainLines_queueOtp]

theorem skipTest_queueOtp {s : State} (p : Nat) : queueOtp (skipTest s p) = queueOtp s := by
  grind [skipTest, bump_queueOtp, countPipe_queueOtp, setPipe_queueOtp]

theorem dueTest_queueOtp {s : State} (p cnt gen : Nat) (param : List Byte) :
    queueOtp (dueTest s p cnt gen param) = queueOtp s := modPipe_queueOtp ..

theorem doPatternTestStart_queueOtp (pipe : Nat) {s : State} : queueOtp (doPatternTestStart pipe s) = queueOtp s := by
  grind [doPatternTestStart, setPipe_queueOtp]

theorem doPatternTestDone_queueOtp (pipe signature : Nat) {s : State} :
    queueOtp (doPatternTestDone pipe signature s) = queueOtp s := by
  grind [queueOtp, doPatternTestDone, setPipe_queueOtp, bump_queueOtp, countPipe_queueOtp, raiseDoubt_queueOtp]

theorem stopPipe_queueOtp {s : State} (p : Nat) : queueOtp (stopPipe s p) = queueOtp s := modPipe_queueOtp ..

theorem stopNow_queueOtp {s : State} (p : Nat) : queueOtp (stopNow s p) = queueOtp s := by
  grind [stopNow, stopPipe_queueOtp, skipTest_queueOtp]

theorem endFrame_queueOtp {s : State} (p extra : Nat) : queueOtp (endFrame s p extra) = queueOtp s := by
  grind [endFrame, drainClosing_queueOtp, modPipe_queueOtp, dueTest_queueOtp, stopPipe_queueOtp, answer_queueOtp]

theorem startBus_queueOtp {s : State} (k : Nat) : queueOtp (startBus s k) = queueOtp s := by
  grind [startBus, modPipe_queueOtp, setPort_queueOtp]

theorem joinWriters_queueOtp {s : State} (p : Nat) : queueOtp (joinWriters s p) = queueOtp s := by
  grind [joinWriters, modPipe_queueOtp, startBus_queueOtp, setPort_queueOtp]

theorem dropFrame_queueOtp {s : State} (p : Nat) (c : PipeCfg) (n : Nat) :
    queueOtp (dropFrame s p c n) = queueOtp s := by
  grind [dropFrame, postEvent_queueOtp, countPipe_queueOtp, flagRearm_queueOtp, pipeNotice_queueOtp,
    modPipe_queueOtp, queueOtp_foldl]

theorem beginFrame_queueOtp {s : State} (p : Nat) : queueOtp (beginFrame s p) = queueOtp s := by
  grind [beginFrame, skipTest_queueOtp, setPipe_queueOtp, countPipe_queueOtp, laneFrameStart_queueOtp,
    dropFrame_queueOtp]

theorem doCsiFrameStart_queueOtp (port vc : Nat) (corrected : Bool) {s : State} :
    queueOtp (doCsiFrameStart port vc corrected s) = queueOtp s := by
  grind [doCsiFrameStart, countCorrected_queueOtp, endFrame_queueOtp, beginFrame_queueOtp]

theorem doCsiFrameEnd_queueOtp (port vc : Nat) (corrected : Bool) {s : State} :
    queueOtp (doCsiFrameEnd port vc corrected s) = queueOtp s := by
  grind [doCsiFrameEnd, countCorrected_queueOtp, endFrame_queueOtp, joinWriters_queueOtp, modPipe_queueOtp]

theorem cmdCsiPortConfig_queueOtp (port lanes map pol i3cMode r : Nat) {s : State} :
    queueOtp (cmdCsiPortConfig port lanes map pol i3cMode r s).1 = queueOtp s := by
  grind [cmdCsiPortConfig, refuseAt_queueOtp, refuse_queueOtp, okDone_queueOtp, setPort_queueOtp]

theorem readSetup_queueOtp {s : State} (dom chan : Nat) (e : List Byte) :
    queueOtp (readSetup s dom chan e).1 = queueOtp s := by
  grind [readSetup, readStruct_queueOtp]

theorem cmdCameraStart_queueOtp (h : CmdHdr) (channel r : Nat) {s : State} :
    queueOtp (cmdCameraStart h channel r s).1 = queueOtp s := by
  grind [cmdCameraStart, refuseAt_queueOtp, fetchEntry_queueOtp, readSetup_queueOtp, refuse_queueOtp,
    skipTest_queueOtp, okDone_queueOtp, joinWriters_queueOtp, setPipe_queueOtp]

theorem cmdCameraStop_queueOtp (pipe r waitMs : Nat) {s : State} :
    queueOtp (cmdCameraStop pipe r waitMs s).1 = queueOtp s := by
  grind [cmdCameraStop, refuse_queueOtp, refuseAt_queueOtp, setPipe_queueOtp, stopNow_queueOtp, okDone_queueOtp]

theorem doCameraStopTimeout_queueOtp (pipe : Nat) {s : State} : queueOtp (doCameraStopTimeout pipe s) = queueOtp s
  := by
  grind [doCameraStopTimeout, modPipe_queueOtp, endFrame_queueOtp, advanceTo_queueOtp]

theorem cmdCameraStatus_queueOtp (pipe clear r : Nat) {s : State} :
    queueOtp (cmdCameraStatus pipe clear r s).1 = queueOtp s := by
  grind [cmdCameraStatus, refuseAt_queueOtp, okWith_queueOtp, setPipe_queueOtp, setPort_queueOtp]

theorem cmdTriggerSet_queueOtp (trig mode polarity r period tStart width count : Nat) {s : State} :
    queueOtp (cmdTriggerSet trig mode polarity r period tStart width count s).1 = queueOtp s := by
  grind [cmdTriggerSet, refuseAt_queueOtp, refuse_queueOtp, okDone_queueOtp, setTrig_queueOtp]

theorem doTriggerSwitchPoint_queueOtp (trig : Nat) {s : State} :
    queueOtp (doTriggerSwitchPoint trig s) = queueOtp s := by
  grind [doTriggerSwitchPoint, setTrig_queueOtp, advanceTo_queueOtp]

theorem queueEdge_queueOtp {s : State} (p e : Nat) : queueOtp (queueEdge s p e) = queueOtp s := by
  grind [queueEdge, setPipe_queueOtp, countPipe_queueOtp]

theorem lineEdgeAt_queueOtp {s : State} (p e : Nat) : queueOtp (lineEdgeAt s p e) = queueOtp s :=
  modPipe_queueOtp ..

theorem doCamTrigPulse_queueOtp (trig : Nat) {s : State} : queueOtp (doCamTrigPulse trig s) = queueOtp s := by
  grind [doCamTrigPulse, setTrig_queueOtp, advanceTo_queueOtp, lineEdgeAt_queueOtp, queueEdge_queueOtp]

theorem doCamTrigPulseEnd_queueOtp (trig : Nat) {s : State} : queueOtp (doCamTrigPulseEnd trig s) = queueOtp s := by
  grind [doCamTrigPulseEnd, setTrig_queueOtp, advanceTo_queueOtp]

theorem readParam_queueOtp {s : State} (dom : Nat) (x : Pipe) (addr : Nat) :
    queueOtp (readParam s dom x addr).1 = queueOtp s := by
  grind [readParam, readStruct_queueOtp]

theorem readWrites_queueOtp {s : State} (dom addr count : Nat) :
    queueOtp (readWrites s dom addr count).1 = queueOtp s := by
  grind [readWrites, readStruct_queueOtp]

theorem addCommit_queueOtp {s : State} (p : Nat) (prm : Option (List Byte)) (ws : List (Nat × Nat)) :
    queueOtp (addCommit s p prm ws) = queueOtp s := modPipe_queueOtp ..

theorem cmdSensorCommit_queueOtp (h : CmdHdr) (pipe r count param writes : Nat) {s : State} :
    queueOtp (cmdSensorCommit h pipe r count param writes s).1 = queueOtp s := by
  grind [cmdSensorCommit, refuseAt_queueOtp, readParam_queueOtp, readWrites_queueOtp, refuse_queueOtp,
    okWith_queueOtp, addCommit_queueOtp]

theorem releaseBus_queueOtp {s : State} (p : Nat) (ended : Bool) : queueOtp (releaseBus s p ended) = queueOtp s := by
  grind [releaseBus, setPort_queueOtp, startBus_queueOtp, joinWriters_queueOtp]

theorem dropCommit_queueOtp {s : State} (p : Nat) (c : Commit) : queueOtp (dropCommit s p c) = queueOtp s := by
  grind [dropCommit, modPipe_queueOtp, raiseDoubt_queueOtp]

theorem doSensorWriteDone_queueOtp (pipe : Nat) (ack : Bool) {s : State} :
    queueOtp (doSensorWriteDone pipe ack s) = queueOtp s := by
  grind [doSensorWriteDone, releaseBus_queueOtp, setPipe_queueOtp, dropCommit_queueOtp]

theorem doSensorIbi_queueOtp (port addr : Nat) (data : List Byte) {s : State} :
    queueOtp (doSensorIbi port addr data s) = queueOtp s := by
  grind [doSensorIbi, postEvent_queueOtp]

theorem cmdI3cTransfer_queueOtp (port addr dir len : Nat) (data : List Byte) {s : State} :
    queueOtp (cmdI3cTransfer port addr dir len data s).1 = queueOtp s := by
  grind [cmdI3cTransfer, refuseAt_queueOtp, refuse_queueOtp, startBus_queueOtp, setPort_queueOtp]

theorem doI3cTransferDone_queueOtp (port : Nat) (ack : Bool) (data : List Byte) {s : State} :
    queueOtp (doI3cTransferDone port ack data s) = queueOtp s := by
  grind [queueOtp, doI3cTransferDone, answer_queueOtp, startBus_queueOtp, setPort_queueOtp]

theorem doHotJoin_queueOtp (_port : Nat) {s : State} : queueOtp (doHotJoin _port s) = queueOtp s := rfl

end Sys2Proof.Machine
end

section
/-! PROOFS. Whatever the state, the operations of the engines and the rows of a core leave
the queue of commands and OTP as they are. -/

namespace Sys2Proof.Machine

open Sys2Proof

theorem readRow_queueOtp {s : State} (dom : Nat) (r : PRef) (a : Nat) : queueOtp (readRow s dom r a).1 = queueOtp
  s := by
  simp [readRow, queueOtp_foldlFst, readLocal_queueOtp]

theorem readPlane_queueOtp {s : State} (dom : Nat) (r : PRef) (slot p : Nat) :
    queueOtp (readPlane s dom r slot p).1 = queueOtp s := by
  simp [readPlane, queueOtp_foldlFst, readRow_queueOtp]

theorem readPlanes_queueOtp {s : State} (dom : Nat) (r : PRef) (slot : Nat) :
    queueOtp (readPlanes s dom r slot).1 = queueOtp s := by
  simp [readPlanes, queueOtp_foldlFst, readPlane_queueOtp]

theorem writeRow_queueOtp {s : State} (dom fmt a : Nat) (row : List Px) :
    queueOtp (writeRow s dom fmt a row).1 = queueOtp s := by
  simp [writeRow, queueOtp_foldlFst, writeLocal_queueOtp]

theorem writePlane_queueOtp {s : State} (dom : Nat) (r : PRef) (slot p : Nat) (g : Grid) :
    queueOtp (writePlane s dom r slot p g).1 = queueOtp s := by
  simp [writePlane, queueOtp_foldlFst, writeRow_queueOtp]

theorem writePlanes_queueOtp {s : State} (dom : Nat) (r : PRef) (slot : Nat) (gs : List Grid) :
    queueOtp (writePlanes s dom r slot gs).1 = queueOtp s := by
  simp [writePlanes, queueOtp_foldlFst, writePlane_queueOtp]

theorem readHeaders_queueOtp {s : State} (dom : Nat) (d : List Byte) (f : Nat) :
    queueOtp (readHeaders s dom d f).1 = queueOtp s := by
  simp [readHeaders, queueOtp_foldlFst, readLocal_queueOtp]

theorem writeHeaders_queueOtp {s : State} (dom : Nat) (r : EngRun) (ps : List EngRep) :
    queueOtp (writeHeaders s dom r ps) = queueOtp s := by
  simp [writeHeaders, queueOtp_foldl, writeLocal_queueOtp]

theorem setBandsTo_queueOtp {s : State} (x : PRef) (f lines : Nat) : queueOtp (setBandsTo s x f lines) = queueOtp
  s := by
  grind [setBandsTo, flagSet_queueOtp, queueOtp_foldl]

theorem setBands_queueOtp {s : State} (d : List Byte) (f : Nat) : queueOtp (setBands s d f) = queueOtp s := by
  simp [setBands, queueOtp_foldl, setBandsTo_queueOtp]

theorem setLast_queueOtp {s : State} (d : List Byte) (f : Nat) : queueOtp (setLast s d f) = queueOtp s := by
  unfold setLast
  exact queueOtp_foldl (fun s e => by grind [flagSet_queueOtp]) _ _

theorem releaseSources_queueOtp {s : State} (d : List Byte) (f n : Nat) :
    queueOtp (releaseSources s d f n) = queueOtp s := by
  grind [releaseSources, flagRelease_queueOtp, queueOtp_foldl]

theorem runPyr_queueOtp {s : State} (dom : Nat) (r : EngRun) : queueOtp (runPyr s dom r).1 = queueOtp s := by
  simp [runPyr, queueOtp_foldlFst, readPlanes_queueOtp, writePlanes_queueOtp]

theorem readMaps_queueOtp {s : State} (dom : Nat) (d : List Byte) : queueOtp (readMaps s dom d).1 = queueOtp s := by
  simp [readMaps, queueOtp_foldlFst, readLocal_queueOtp]

theorem runWarpSide_queueOtp {s : State} (dom : Nat) (r : EngRun) (i so do_ mo : Nat) :
    queueOtp (runWarpSide s dom r i so do_ mo).1 = queueOtp s := by
  grind [runWarpSide, readPlanes_queueOtp, writePlanes_queueOtp]

theorem runWrp_queueOtp {s : State} (dom : Nat) (r : EngRun) : queueOtp (runWrp s dom r).1 = queueOtp s := by
  grind [runWrp, runWarpSide_queueOtp]

theorem runFlw_queueOtp {s : State} (dom : Nat) (r : EngRun) : queueOtp (runFlw s dom r).1 = queueOtp s := by
  grind [runFlw, readPlane_queueOtp, readPlanes_queueOtp, writePlanes_queueOtp]

theorem runSte_queueOtp {s : State} (dom : Nat) (r : EngRun) : queueOtp (runSte s dom r).1 = queueOtp s := by
  grind [runSte, readPlane_queueOtp, writePlanes_queueOtp]

theorem writeList_queueOtp {s : State} (dom a : Nat) (bs : List Byte) (bad : Bool) :
    queueOtp (writeList s dom a bs bad).1 = queueOtp s := by
  simp [writeList, queueOtp_foldlFst, writeLocal_queueOtp]

theorem runFea_queueOtp {s : State} (dom : Nat) (r : EngRun) : queueOtp (runFea s dom r).1 = queueOtp s := by
  grind [runFea, readPlane_queueOtp, readLocal_queueOtp, writeList_queueOtp]

theorem countDropped_queueOtp {s : State} (n : Nat) : queueOtp (countDropped s n) = queueOtp s := rfl

theorem obxPass_queueOtp {s : State} (dom : Nat) (r : EngRun) (n : Nat) :
    queueOtp (obxPass s dom r n).1 = queueOtp s := by
  grind [queueOtp, obxPass, readPlanes_queueOtp, readPlane_queueOtp, writePlanes_queueOtp,
    travelMismatch_queueOtp, countDropped_queueOtp]

theorem startRun_queueOtp {s : State} (e : Nat) (r : EngRun) (n : Nat) : queueOtp (startRun s e r n) = queueOtp s
  := by
  grind [startRun, emitTrace_queueOtp, readHeaders_queueOtp, readMaps_queueOtp, bump_queueOtp, postEvent_queueOtp,
    obxPass_queueOtp, setEngine_queueOtp]

theorem doEngineRunStart_queueOtp (engine : Nat) {s : State} : queueOtp (doEngineRunStart engine s) = queueOtp s := by
  grind [doEngineRunStart, startRun_queueOtp]

theorem runEngine_queueOtp {s : State} (e dom : Nat) (r : EngRun) : queueOtp (runEngine s e dom r).1 = queueOtp s
  := by
  grind [runEngine, runPyr_queueOtp, runWrp_queueOtp, runFlw_queueOtp, runSte_queueOtp, runFea_queueOtp]

theorem engineEnd_queueOtp {s : State} (e : Nat) (r : EngRun) (n : Nat) (p : EngRep) (st : Status) :
    queueOtp (engineEnd s e r n p st) = queueOtp s := by
  grind [engineEnd, emitTrace_queueOtp, bump_queueOtp]

theorem nonlocalEvent_queueOtp {s : State} (e : Nat) (r : EngRun) (p : EngRep) :
    queueOtp (nonlocalEvent s e r p) = queueOtp s := by
  grind [nonlocalEvent, postEvent_queueOtp]

theorem overflowEvent_queueOtp {s : State} (e : Nat) (r : EngRun) : queueOtp (overflowEvent s e r) = queueOtp s := by
  grind [overflowEvent, raiseDoubt_queueOtp]

theorem freeEngine_queueOtp {s : State} (e : Nat) : queueOtp (freeEngine s e) = queueOtp s := rfl

theorem runMismatch_queueOtp {s : State} (e : Nat) (fails : List Nat) :
    queueOtp (runMismatch s e fails) = queueOtp s := travelMismatch_queueOtp ..

theorem rulesMismatch_queueOtp {s : State} (e : Nat) (r : EngRun) : queueOtp (rulesMismatch s e r) = queueOtp s := by
  grind [queueOtp, rulesMismatch, travelMismatch_queueOtp]

theorem finishRun_queueOtp {s : State} (e : Nat) (r : EngRun) (n : Nat) : queueOtp (finishRun s e r n) = queueOtp
  s := by
  grind [finishRun, runEngine_queueOtp, runMismatch_queueOtp, rulesMismatch_queueOtp, overflowEvent_queueOtp,
    nonlocalEvent_queueOtp, engineEnd_queueOtp, setLast_queueOtp, writeHeaders_queueOtp, setBands_queueOtp,
    flagSet_queueOtp, nodeUnitDone_queueOtp, freeEngine_queueOtp, releaseSources_queueOtp, queueOtp_foldl]

theorem restUndefined_queueOtp {s : State} (x : PRef) (slot lines : Nat) :
    queueOtp (restUndefined s x slot lines) = queueOtp s := by
  simp [restUndefined, queueOtp_foldl, scramble_queueOtp]

theorem stopPlanes_queueOtp {s : State} (c f : Nat) (xs : List PRef) : queueOtp (stopPlanes s c f xs) = queueOtp s
  := by
  simp [stopPlanes, queueOtp_foldl, setBandsTo_queueOtp, restUndefined_queueOtp]

theorem stopWork_queueOtp {s : State} (e dom : Nat) (r : EngRun) : queueOtp (stopWork s e dom r).1 = queueOtp s := by
  grind [queueOtp, stopWork, scramble_queueOtp, restUndefined_queueOtp, runEngine_queueOtp, stopPlanes_queueOtp]

theorem stopRun_queueOtp {s : State} (e : Nat) (r : EngRun) (n : Nat) : queueOtp (stopRun s e r n) = queueOtp s := by
  grind [stopRun, releaseSources_queueOtp, freeEngine_queueOtp, stopWork_queueOtp, overflowEvent_queueOtp,
    runMismatch_queueOtp, rulesMismatch_queueOtp, engineEnd_queueOtp, countDropped_queueOtp]

theorem doEngineRunDone_queueOtp (engine : Nat) {s : State} : queueOtp (doEngineRunDone engine s) = queueOtp s := by
  grind [doEngineRunDone, stopRun_queueOtp, finishRun_queueOtp]

theorem emitObject_queueOtp {s : State} (e : Nat) (r : EngRun) (n : Nat) (c : Comp) (rest : List Comp) :
    queueOtp (emitObject s e r n c rest) = queueOtp s := by
  grind [queueOtp, emitObject, writeLocal_queueOtp, setEngine_queueOtp, deliverStub_queueOtp]

theorem doObxObjectEmit_queueOtp (cluster : Nat) {s : State} : queueOtp (doObxObjectEmit cluster s) = queueOtp s := by
  grind [doObxObjectEmit, emitObject_queueOtp]

theorem doCoreUnitStart_queueOtp (c : Nat) {s : State} : queueOtp (doCoreUnitStart c s) = queueOtp s := by
  grind [doCoreUnitStart, setCore_queueOtp, emitTrace_queueOtp, setUnit_queueOtp]

theorem opRefused_queueOtp {s : State} (c : Nat) (u : CoreUnit) (op : Nat) (st : Status) (issue : Nat) :
    queueOtp (opRefused s c u op st issue) = queueOtp s := raiseDoubt_queueOtp ..

theorem endEarly_queueOtp {s : State} (c : Nat) (u : CoreUnit) (op : Nat) (st : Status) (issue : Nat) :
    queueOtp (endEarly s c u op st issue) = queueOtp s := by
  grind [endEarly, coreStop_queueOtp, opRefused_queueOtp, setUnit_queueOtp]

theorem scalarFault_queueOtp {s : State} (c : Nat) (u : CoreUnit) (op : Nat) (st : Status) :
    queueOtp (scalarFault s c u op st) = queueOtp s := endEarly_queueOtp ..

theorem scalarLoad_queueOtp {s : State} (c : Nat) (u : CoreUnit) (n a rd : Nat) (bad : Bool) :
    queueOtp (scalarLoad s c u n a rd bad) = queueOtp s := by
  grind [scalarLoad, meetRange_queueOtp, setUnit_queueOtp]

theorem scalarStore_queueOtp {s : State} (c : Nat) (u : CoreUnit) (n a rd : Nat) (bad : Bool) :
    queueOtp (scalarStore s c u n a rd bad) = queueOtp s := by
  grind [scalarStore, putBytes_queueOtp, meetMerge_queueOtp, setUnit_queueOtp]

theorem scalarExec_queueOtp {s : State} (c : Nat) (u : CoreUnit) (w : Nat) (bad : Bool) :
    queueOtp (scalarExec s c u w bad) = queueOtp s := by
  grind [scalarExec, setUnit_queueOtp, scalarFault_queueOtp, scalarStore_queueOtp, scalarLoad_queueOtp]

theorem listEndFault_queueOtp {s : State} (c : Nat) (u : CoreUnit) : queueOtp (listEndFault s c u) = queueOtp s :=
  scalarFault_queueOtp ..

theorem doScalarInstruction_queueOtp (c : Nat) {s : State} : queueOtp (doScalarInstruction c s) = queueOtp s := by
  grind [doScalarInstruction, listEndFault_queueOtp, meetRange_queueOtp, scalarExec_queueOtp]

theorem meetRecord_queueOtp {s : State} (c a : Nat) : queueOtp (meetRecord s c a) = queueOtp s := meet_queueOtp ..

theorem refuseRecord_queueOtp {s : State} (c : Nat) (u : CoreUnit) (op : Nat) (st : Status) :
    queueOtp (refuseRecord s c u op st) = queueOtp s := endEarly_queueOtp ..

theorem issueRow_queueOtp {s : State} (c : Nat) (u : CoreUnit) (row : Nat) :
    queueOtp (issueRow s c u row) = queueOtp s := by
  unfold issueRow
  split
  · exact refuseRecord_queueOtp ..
  · extract_lets s' r u'
    have e : queueOtp s' = queueOtp s := meetRecord_queueOtp ..
    split
    · exact (refuseRecord_queueOtp ..).trans e
    split
    · exact (refuseRecord_queueOtp ..).trans e
    split
    · exact e
    · exact (setUnit_queueOtp ..).trans e

theorem doIssue_queueOtp (c : Nat) {s : State} : queueOtp (doIssue c s) = queueOtp s := by
  grind [doIssue, issueRow_queueOtp]

theorem doOpStart_queueOtp (c : Nat) (vector : Bool) {s : State} : queueOtp (doOpStart c vector s) = queueOtp s := by
  unfold doOpStart
  split <;> grind [setUnit_queueOtp]

theorem coreParity_queueOtp {s : State} (c : Nat) (u : CoreUnit) (o : CoreOp) :
    queueOtp (coreParity s c u o) = queueOtp s := raiseDoubt_queueOtp ..

theorem finishOp_queueOtp {s : State} (c : Nat) (u : CoreUnit) (o : CoreOp) (parity : List Nat) :
    queueOtp (finishOp s c u o parity) = queueOtp s := by
  simp [finishOp, queueOtp_foldl, runOp_queueOtp, coreParity_queueOtp, setUnit_queueOtp]

theorem doOpComplete_queueOtp (c issueNo : Nat) (parity : List Nat) {s : State} :
    queueOtp (doOpComplete c issueNo parity s) = queueOtp s := by
  grind [doOpComplete, finishOp_queueOtp, meet_queueOtp]

theorem doSpawn_queueOtp (c : Nat) {s : State} : queueOtp (doSpawn c s) = queueOtp s := by
  unfold doSpawn
  split <;> grind [queueOtp, meetRange_queueOtp, setUnit_queueOtp]

theorem doCoreUnitComplete_queueOtp (c : Nat) {s : State} : queueOtp (doCoreUnitComplete c s) = queueOtp s := by
  grind [doCoreUnitComplete, bump_queueOtp, closeUnit_queueOtp, nodeUnitDone_queueOtp, signalPool_queueOtp]

end Sys2Proof.Machine
end

section
/-! PROOFS. Whatever the state, the operations of the safety monitor, trace, graph loading, watches and debug leave
the queue of commands and OTP as they are. -/

namespace Sys2Proof.Machine

open Sys2Proof

theorem setPolicy_queueOtp {s : State} (pol : List Byte) : queueOtp (setPolicy s pol) = queueOtp s :=
  updateDoubt_queueOtp ..

theorem cmdSafetyArm_queueOtp (pol : List Byte) {s : State} : queueOtp (cmdSafetyArm pol s).1 = queueOtp s := by
  grind [cmdSafetyArm, refuse_queueOtp, refuseAt_queueOtp, okDone_queueOtp, setPolicy_queueOtp]

theorem cmdSafetyDisarm_queueOtp {s : State} : queueOtp (cmdSafetyDisarm s).1 = queueOtp s := by
  grind [queueOtp, cmdSafetyDisarm, refuse_queueOtp, okDone_queueOtp, updateDoubt_queueOtp]

theorem cmdSafetyStatus_queueOtp {s : State} : queueOtp (cmdSafetyStatus s).1 = queueOtp s := okWith_queueOtp ..

theorem clearCond_queueOtp {s : State} (c : Cond) : queueOtp (clearCond s c) = queueOtp s := by
  grind [queueOtp, clearCond, updateDoubt_queueOtp, postEvent_queueOtp]

theorem cmdSafetyClear_queueOtp (source kind scope : Nat) {s : State} :
    queueOtp (cmdSafetyClear source kind scope s).1 = queueOtp s := by
  grind [cmdSafetyClear, clearCond_queueOtp, okWith_queueOtp, refuseAt_queueOtp, refuse_queueOtp, queueOtp_foldl]

theorem cmdFbcLoad_queueOtp (h : CmdHdr) (pipe r addr : Nat) {s : State} :
    queueOtp (cmdFbcLoad h pipe r addr s).1 = queueOtp s := by
  grind [queueOtp, cmdFbcLoad, refuseAt_queueOtp, refuse_queueOtp, readStruct_queueOtp, okDone_queueOtp,
    rulesWritten_queueOtp]

theorem cmdFbcRead_queueOtp (pipe r : Nat) {s : State} : queueOtp (cmdFbcRead pipe r s).1 = queueOtp s := by
  grind [cmdFbcRead, refuse_queueOtp, refuseAt_queueOtp, okWith_queueOtp]

theorem doPmbAlert_queueOtp {s : State} : queueOtp (doPmbAlert s) = queueOtp s := by
  grind [doPmbAlert, postEvent_queueOtp]

theorem doRefclkLoss_queueOtp {s : State} : queueOtp (doRefclkLoss s) = queueOtp s := by
  grind [queueOtp, doRefclkLoss, failCond_queueOtp, postEvent_queueOtp]

theorem doVmon_queueOtp (rail mv : Nat) {s : State} : queueOtp (doVmon rail mv s) = queueOtp s := by
  grind [doVmon, failCond_queueOtp, postEvent_queueOtp]

theorem doClkMon_queueOtp (island : Nat) (ppm : Int) {s : State} : queueOtp (doClkMon island ppm s) = queueOtp s := by
  grind [doClkMon, failCond_queueOtp, postEvent_queueOtp]

theorem doDoubtLevelEnd_queueOtp (source kind scope : Nat) {s : State} :
    queueOtp (doDoubtLevelEnd source kind scope s) = queueOtp s := by
  grind [queueOtp, doDoubtLevelEnd, endLevel_queueOtp]

theorem modGolden_queueOtp {s : State} (cls unit : Nat) (p : Golden → Golden) :
    queueOtp (modGolden s cls unit p) = queueOtp s := rfl

theorem goldenFail_queueOtp {s : State} (cls unit cause : Nat) :
    queueOtp (goldenFail s cls unit cause) = queueOtp s := raiseDoubt_queueOtp ..

theorem doGoldenRunStart_queueOtp (cls unit : Nat) {s : State} :
    queueOtp (doGoldenRunStart cls unit s) = queueOtp s := by
  grind [doGoldenRunStart, modGolden_queueOtp, drawTokens_queueOtp, emitTrace_queueOtp]

theorem rewriteGolden_queueOtp {s : State} (cls unit : Nat) : queueOtp (rewriteGolden s cls unit) = queueOtp s := by
  grind [queueOtp, rewriteGolden]

theorem goldenTraceEnd_queueOtp {s : State} (cls unit : Nat) : queueOtp (goldenTraceEnd s cls unit) = queueOtp s := by
  grind [queueOtp, goldenTraceEnd, emitTrace_queueOtp]

theorem endGolden_queueOtp {s : State} (cls unit : Nat) (cause : Option Nat) :
    queueOtp (endGolden s cls unit cause) = queueOtp s := by
  cases cause <;> grind [endGolden, goldenTraceEnd_queueOtp, modGolden_queueOtp, emitTrace_queueOtp,
    rewriteGolden_queueOtp, goldenFail_queueOtp, travelMismatch_queueOtp]

theorem doGoldenRunDone_queueOtp (cls unit : Nat) (result : GoldenResult) {s : State} :
    queueOtp (doGoldenRunDone cls unit result s) = queueOtp s := by
  grind [doGoldenRunDone, endGolden_queueOtp]

theorem doGoldenRunOverdue_queueOtp (cls unit : Nat) {s : State} :
    queueOtp (doGoldenRunOverdue cls unit s) = queueOtp s := by
  grind [doGoldenRunOverdue, endGolden_queueOtp, advanceTo_queueOtp]

theorem closeOne_queueOtp (n : Nat) {s : State} (c : Cond) : queueOtp (closeOne n s c) = queueOtp s := by
  grind [queueOtp, closeOne, postEvent_queueOtp]

theorem closeGolden_queueOtp {s : State} : queueOtp (closeGolden s) = queueOtp s := by
  simp [closeGolden, queueOtp_foldl, endGolden_queueOtp]

theorem closePattern_queueOtp (n : Nat) {s : State} (e : Nat × Pipe) : queueOtp (closePattern n s e) = queueOtp s
  := by
  grind [queueOtp, closePattern, raiseDoubt_queueOtp]

theorem doFrameIntervalEnd_queueOtp {s : State} : queueOtp (doFrameIntervalEnd s) = queueOtp s := by
  grind [queueOtp, doFrameIntervalEnd, advanceTo_queueOtp, closeOne_queueOtp, closeGolden_queueOtp,
    closePattern_queueOtp, updateDoubt_queueOtp, queueOtp_foldl]

theorem doDoubtPulseEnd_queueOtp {s : State} : queueOtp (doDoubtPulseEnd s) = queueOtp s := by
  grind [queueOtp, doDoubtPulseEnd, updateDoubt_queueOtp, advanceTo_queueOtp]

theorem deferTest_queueOtp {s : State} : queueOtp (deferTest s) = queueOtp s := by
  grind [queueOtp, deferTest, failCond_queueOtp, postEvent_queueOtp]

theorem doMonthSlotStart_queueOtp {s : State} : queueOtp (doMonthSlotStart s) = queueOtp s := by
  grind [queueOtp, doMonthSlotStart, advanceTo_queueOtp, deferTest_queueOtp]

theorem doSelfTestStart_queueOtp (duration : Nat) {s : State} : queueOtp (doSelfTestStart duration s) = queueOtp s
  := by
  grind [queueOtp, doSelfTestStart, drawAll_queueOtp]

theorem testPassed_queueOtp {s : State} (g : Nat) : queueOtp (testPassed s g) = queueOtp s := by
  grind [queueOtp, testPassed, endLevel_queueOtp]

theorem doSelfTestDone_queueOtp (badChecker : Option Nat) {s : State} :
    queueOtp (doSelfTestDone badChecker s) = queueOtp s := by
  grind [queueOtp, doSelfTestDone, raiseDoubt_queueOtp, testPassed_queueOtp]

theorem putSlot_queueOtp {s : State} (c : Nat) (b : List Byte) : queueOtp (putSlot s c b) = queueOtp s := by
  grind [putSlot, putBytes_queueOtp, setTrace_queueOtp]

theorem lossFull_queueOtp {s : State} (c : Nat) : queueOtp (lossFull s c) = queueOtp s := by
  grind [lossFull, putBytes_queueOtp, setTrace_queueOtp]

theorem enterFull_queueOtp {s : State} (c : Nat) : queueOtp (enterFull s c) = queueOtp s := by
  grind [enterFull, postEvent_queueOtp, setTrace_queueOtp]

theorem checkFull_queueOtp {s : State} (c : Nat) : queueOtp (checkFull s c) = queueOtp s := by
  grind [checkFull, enterFull_queueOtp]

theorem appendRecord_queueOtp {s : State} (c : Nat) (r : TraceRec) : queueOtp (appendRecord s c r) = queueOtp s := by
  grind [appendRecord, lossFull_queueOtp, setTrace_queueOtp, enterFull_queueOtp, checkFull_queueOtp,
    putSlot_queueOtp, queueOtp_foldl]

theorem takeTrigger_queueOtp {s : State} (c cause : Nat) : queueOtp (takeTrigger s c cause) = queueOtp s := by
  grind [takeTrigger, appendRecord_queueOtp, setTrace_queueOtp, postEvent_queueOtp]

theorem fireTrigger_queueOtp {s : State} (c cause : Nat) : queueOtp (fireTrigger s c cause) = queueOtp s := by
  grind [fireTrigger, setTrace_queueOtp, takeTrigger_queueOtp]

theorem offerRecord_queueOtp {s : State} (c : Nat) (r : TraceRec) : queueOtp (offerRecord s c r) = queueOtp s := by
  grind [offerRecord, appendRecord_queueOtp, fireTrigger_queueOtp]

theorem offerAll_queueOtp {s : State} (r : TraceRec) : queueOtp (offerAll s r) = queueOtp s := by
  simp [offerAll, queueOtp_foldl, offerRecord_queueOtp]

theorem doTraceRecordArrive_queueOtp (cls unit : Nat) {s : State} :
    queueOtp (doTraceRecordArrive cls unit s) = queueOtp s := by
  grind [queueOtp, doTraceRecordArrive, offerAll_queueOtp]

theorem copyBlock_queueOtp {s : State} (x : TraceCh) (first : Nat) (dests : List Nat) :
    queueOtp (copyBlock s x first dests) = queueOtp s := by
  unfold copyBlock
  exact queueOtp_foldl (fun s e => by grind [putBytes_queueOtp]) _ _

theorem doTraceSpillCopy_queueOtp (tch : Nat) {s : State} : queueOtp (doTraceSpillCopy tch s) = queueOtp s := by
  grind [doTraceSpillCopy, meetRange_queueOtp, setTrace_queueOtp, copyBlock_queueOtp, answer_queueOtp]

theorem cmdTraceStart_queueOtp (h : CmdHdr) (channel r : Nat) {s : State} :
    queueOtp (cmdTraceStart h channel r s).1 = queueOtp s := by
  grind [cmdTraceStart, refuseAt_queueOtp, fetchEntry_queueOtp, refuse_queueOtp, okDone_queueOtp, setTrace_queueOtp]

theorem traceRefusal_queueOtp {s : State} {tch r : Nat} {x : State × CmdRes} (hx : traceRefusal s tch r = some x) :
    queueOtp x.1 = queueOtp s := by
  grind [traceRefusal, refuseAt, refuse]

theorem padBlock_queueOtp {s : State} (c n : Nat) : queueOtp (padBlock s c n) = queueOtp s := by
  induction n generalizing s <;> grind [padBlock, putBytes_queueOtp, setTrace_queueOtp]

theorem cmdTraceStop_queueOtp (tch r : Nat) {s : State} : queueOtp (cmdTraceStop tch r s).1 = queueOtp s := by
  unfold cmdTraceStop
  split
  · exact traceRefusal_queueOtp (by assumption)
  · grind [queueOtp, okDone_queueOtp, setTrace_queueOtp, padBlock_queueOtp]

theorem cmdTraceStatus_queueOtp {s : State} : queueOtp (cmdTraceStatus s).1 = queueOtp s := okWith_queueOtp ..

theorem cmdTraceTrigger_queueOtp (tch r : Nat) {s : State} : queueOtp (cmdTraceTrigger tch r s).1 = queueOtp s := by
  grind [cmdTraceTrigger, traceRefusal_queueOtp, okDone_queueOtp, fireTrigger_queueOtp]

theorem cmdTraceMark_queueOtp (value : Nat) {s : State} : queueOtp (cmdTraceMark value s).1 = queueOtp s := by
  grind [cmdTraceMark, okDone_queueOtp, emitTrace_queueOtp]

theorem doCounterWindowBoundary_queueOtp {s : State} : queueOtp (doCounterWindowBoundary s) = queueOtp s := by
  unfold doCounterWindowBoundary
  split
  · rfl
  · generalize counterUnits = l
    exact advanceTo_queueOtp (s := s) ((endingWindow s + 1) * 4000000)

theorem rangeRefusal_queueOtp {s : State} {cls r first count r2 : Nat} {x : State × CmdRes} (hx : rangeRefusal s cls
    r first count r2 = some x) :
    queueOtp x.1 = queueOtp s := by
  grind [rangeRefusal, refuseAt]

theorem cmdCounterRead_queueOtp (cls r first count r2 : Nat) {s : State} :
    queueOtp (cmdCounterRead cls r first count r2 s).1 = queueOtp s := by
  grind [cmdCounterRead, rangeRefusal_queueOtp, okWith_queueOtp]

theorem cmdCounterClear_queueOtp (cls r first count r2 : Nat) {s : State} :
    queueOtp (cmdCounterClear cls r first count r2 s).1 = queueOtp s := by
  grind [queueOtp, cmdCounterClear, rangeRefusal_queueOtp, okDone_queueOtp]

theorem withImage_queueOtp {s : State} (img : List Byte) (g dom : Nat) (sx7 : Bool) (ways mask : Nat) (p : Places) :
    queueOtp (withImage s img g dom sx7 ways mask p) = queueOtp s := by
  grind [queueOtp, withImage, setGraph_queueOtp, setNode_queueOtp, setSem_queueOtp, queueOtp_foldl]

theorem putDesc_queueOtp {s : State} (x : Node) (d : List Byte) : queueOtp (putDesc s x d) = queueOtp s := by
  grind [queueOtp, putDesc]

theorem withEdit_queueOtp {c : State} (base : Nat) (e : List Byte) (v : Nat) :
    queueOtp (withEdit c base e v) = queueOtp c := by
  grind [withEdit, setSem_queueOtp, putDesc_queueOtp]

theorem bindFlows_queueOtp (a : LoadArgs) (n : Nat) (bs : List Byte) {c : State} :
    queueOtp (bindFlows a n bs c) = queueOtp c := queueOtp_foldl (fun _ _ => setFlow_queueOtp ..) _ _

theorem bindFlag_queueOtp (a : LoadArgs) (l : List (Nat × Producer)) {c : State} (f : Nat) :
    queueOtp (bindFlag a l c f) = queueOtp c := setFlag_queueOtp ..

theorem withSchedule_queueOtp {c : State} (g : Nat) : queueOtp (withSchedule c g) = queueOtp c := rfl

theorem withObjects_queueOtp {c : State} (g : Nat) : queueOtp (withObjects c g) = queueOtp c := by
  unfold withObjects
  exact queueOtp_foldl (fun s e => by grind [queueOtp]) _ _

theorem undoLoad_queueOtp (s : State) {c : State} : queueOtp (undoLoad s c) = queueOtp c := rfl

/-- What a command keeps, of the state that a step of a load leaves, whether the step refuses or goes on. -/
def loadQueueOtp : LoadStep → List Instr × List (List Byte) × BitVec 4 × BitVec 64
  | .inl p => queueOtp p.1
  | .inr c => queueOtp c

theorem loadThen_queueOtp {x : LoadStep} {f : State → LoadStep} (hf : ∀ c, loadQueueOtp (f c) = queueOtp c) :
    loadQueueOtp (loadThen x f) = loadQueueOtp x := by
  cases x with
  | inl p => rfl
  | inr c => exact hf c

theorem loadCheck_queueOtp (s c : State) (b : Option Bad) : loadQueueOtp (loadCheck s c b) = queueOtp c := by
  cases b <;> rfl

theorem loadFold_queueOtp {α : Type} {f : α → State → LoadStep} (hf : ∀ a c, loadQueueOtp (f a c) = queueOtp c)
    (l : List α) (x : LoadStep) : loadQueueOtp (l.foldl (fun x a => loadThen x (f a)) x) = loadQueueOtp x := by
  induction l generalizing x with
  | nil => rfl
  | cons a l ih => exact (ih _).trans (loadThen_queueOtp (hf a))

theorem bindDma_queueOtp (s : State) (a : LoadArgs) (k : Nat) (c : State) :
    loadQueueOtp (bindDma s a k c) = queueOtp c := by
  have hf := fetchEntry_queueOtp (s := c) a.dom (fieldAt (nodeE a.img k) 2 2) 1 0
  grind [bindDma, loadQueueOtp, undoLoad_queueOtp, setDma_queueOtp]

theorem bindStream_queueOtp (s : State) (a : LoadArgs) (i : Nat) (c : State) :
    loadQueueOtp (bindStream s a i c) = queueOtp c := by
  have hf := fetchEntry_queueOtp (s := c) a.dom (payStream a.pay i).1 6 0
  grind [bindStream, loadQueueOtp, undoLoad_queueOtp, setStream_queueOtp, readStruct_queueOtp]

theorem loadCandidate_queueOtp (s : State) (a : LoadArgs) (flows : List Byte) :
    loadQueueOtp (loadCandidate s a flows) = queueOtp s := by
  unfold loadCandidate
  dsimp only
  rw [loadThen_queueOtp, loadFold_queueOtp (f := bindStream s a) (bindStream_queueOtp s a),
    loadFold_queueOtp (f := bindDma s a) (bindDma_queueOtp s a), loadCheck_queueOtp, withImage_queueOtp]
  intro c
  rw [loadCheck_queueOtp, queueOtp_foldl fun _ _ => bindFlag_queueOtp .., bindFlows_queueOtp]

theorem admitGraph_queueOtp {q s c : State} (a : LoadArgs) (hs : queueOtp s = queueOtp q) (hc : queueOtp c = queueOtp q) :
    queueOtp (admitGraph s c a).1 = queueOtp q := by
  grind [admitGraph, refuse_queueOtp, okWith_queueOtp, setGraph_queueOtp, withObjects_queueOtp, withSchedule_queueOtp]

theorem cmdGraphLoad_queueOtp (h : CmdHdr) (pay : List Byte) {s : State} :
    queueOtp (cmdGraphLoad h pay s).1 = queueOtp s := by
  unfold cmdGraphLoad
  split
  · rfl
  · extract_lets r1 s1 img r2 s2 a
    have h1 : queueOtp s1 = queueOtp s := readStruct_queueOtp ..
    have h2 : queueOtp s2 = queueOtp s := by grind [readStruct_queueOtp]
    have hl := loadCandidate_queueOtp s2 a r2.2.2
    split
    · exact h1
    · split
      · exact h1
      · split
        · exact h2
        · split <;> simp_all only [loadQueueOtp]
          exact admitGraph_queueOtp a (by rw [undoLoad_queueOtp]; exact hl) hl

theorem cmdGraphParamSet_queueOtp (graph r entry r2 value : Nat) {s : State} :
    queueOtp (cmdGraphParamSet graph r entry r2 value s).1 = queueOtp s := by
  unfold cmdGraphParamSet
  split <;> grind [graphCheck_queueOtp, refuse_queueOtp, refuseAt_queueOtp, okDone_queueOtp, withEdit_queueOtp]

theorem admitWatch_queueOtp {s : State} (w : Nat) (x : Watch) (gr : Graph) :
    queueOtp (admitWatch s w x gr).1 = queueOtp s := by
  grind [queueOtp, admitWatch, okDone_queueOtp, setGraph_queueOtp]

theorem cmdWatchSet_queueOtp (h : CmdHdr) (d : List Byte) {s : State} : queueOtp (cmdWatchSet h d s).1 = queueOtp
  s := by
  grind [cmdWatchSet, refuse_queueOtp, refuseAt_queueOtp, admitWatch_queueOtp]

theorem watchRefusal_queueOtp {s : State} {w r : Nat} {allowed : Watch → Bool} {x : State × CmdRes} (hx :
    watchRefusal s w r allowed = some x) :
    queueOtp x.1 = queueOtp s := by
  grind [watchRefusal, refuse, refuseAt]

theorem cmdWatchClear_queueOtp (w r : Nat) {s : State} : queueOtp (cmdWatchClear w r s).1 = queueOtp s := by
  grind [queueOtp, cmdWatchClear, watchRefusal_queueOtp, okDone_queueOtp]

theorem cmdWatchArm_queueOtp (w r : Nat) {s : State} : queueOtp (cmdWatchArm w r s).1 = queueOtp s := by
  grind [queueOtp, cmdWatchArm, watchRefusal_queueOtp, okDone_queueOtp]

theorem watchAccess_queueOtp {s : State} (dom : Nat) (gs : List Nat) :
    queueOtp (watchAccess s dom gs).1 = queueOtp s := by
  simp [watchAccess, queueOtp_foldlFst, access_queueOtp]

theorem dumpElems_queueOtp {s : State} (off etype : Nat) (es : List WElem) (bad : List Nat) :
    queueOtp (dumpElems s off etype es bad) = queueOtp s := storeCells_queueOtp ..

theorem fireWatch_queueOtp {s : State} (w : Nat) (x : Watch) (f dumped : Nat) (v : Int) :
    queueOtp (fireWatch s w x f dumped v) = queueOtp s := by
  grind [queueOtp, fireWatch, postEvent_queueOtp, offerRecord_queueOtp, fireTrigger_queueOtp]

theorem readWatch_queueOtp {s : State} (w : Nat) (x : Watch) (g : Graph) (node f : Nat) :
    queueOtp (readWatch s w x g node f) = queueOtp s := by
  grind [queueOtp, readWatch, watchAccess_queueOtp, meet_queueOtp, travelMismatch_queueOtp, dumpElems_queueOtp,
    writeLocal_queueOtp, offerAll_queueOtp, fireWatch_queueOtp]

theorem doWatchRead_queueOtp (watch : Nat) {s : State} : queueOtp (doWatchRead watch s) = queueOtp s := by
  grind [doWatchRead, readWatch_queueOtp]

theorem loadTap_queueOtp {s : State} (code : Nat) (driving highz : Bool) :
    queueOtp (loadTap s code driving highz) = queueOtp s := rfl

theorem doTapReset_queueOtp {s : State} : queueOtp (doTapReset s) = queueOtp s := loadTap_queueOtp ..

theorem doIdcode_queueOtp {s : State} : queueOtp (doIdcode s) = queueOtp s := loadTap_queueOtp ..

theorem doSample_queueOtp (pins : List Bool) {s : State} : queueOtp (doSample pins s) = queueOtp s := by
  grind [queueOtp, doSample, loadTap_queueOtp]

theorem doPreload_queueOtp (cells : List Bool) {s : State} : queueOtp (doPreload cells s) = queueOtp s := by
  grind [queueOtp, doPreload, loadTap_queueOtp]

theorem doExtest_queueOtp {s : State} : queueOtp (doExtest s) = queueOtp s := loadTap_queueOtp ..

theorem doClamp_queueOtp {s : State} : queueOtp (doClamp s) = queueOtp s := loadTap_queueOtp ..

theorem doHighz_queueOtp {s : State} : queueOtp (doHighz s) = queueOtp s := loadTap_queueOtp ..

theorem doBypass_queueOtp (code : Nat) {s : State} : queueOtp (doBypass code s) = queueOtp s := by
  grind [doBypass, loadTap_queueOtp]

theorem cmdDebugEnable_queueOtp (domain r : Nat) {s : State} : queueOtp (cmdDebugEnable domain r s).1 = queueOtp s
  := by
  grind [queueOtp, cmdDebugEnable, refuseAt_queueOtp, okDone_queueOtp]

theorem cmdDebugDisable_queueOtp {s : State} : queueOtp (cmdDebugDisable s).1 = queueOtp s := okDone_queueOtp ..

theorem debugAccess_queueOtp {s : State} (dr : Nat) : queueOtp (debugAccess s dr).1 = queueOtp s := by
  grind [queueOtp, debugAccess, writeLocal_queueOtp, readLocal_queueOtp]

theorem doDbgAccess_queueOtp (dr : Nat) {s : State} : queueOtp (doDbgAccess dr s) = queueOtp s := by
  grind [queueOtp, doDbgAccess, loadTap_queueOtp, debugAccess_queueOtp]

theorem doDbgAccessDone_queueOtp {s : State} : queueOtp (doDbgAccessDone s) = queueOtp s := by
  grind [queueOtp, doDbgAccessDone]

end Sys2Proof.Machine
end

section
/-! PROOFS. Every command goes on, leaves the queue as it is and clears no OTP bit (R60). -/

namespace Sys2Proof.Machine

open Sys2Proof

/-- From `q` to `s` the queue stays and OTP only grows. -/
structure KeepsQueue (q s : State) : Prop where
  pending : s.pending = q.pending
  otp : OtpGrows q.boot s.boot

theorem KeepsQueue.trans {p q s : State} (h : KeepsQueue p q) (k : KeepsQueue q s) : KeepsQueue p s :=
  ⟨k.pending.trans h.pending, h.otp.trans k.otp⟩

theorem KeepsQueue.ofQueueOtp {q s : State} (h : queueOtp s = queueOtp q) : KeepsQueue q s :=
  ⟨congrArg Prod.fst h, .ofEq (congrArg Prod.snd h)⟩

/-- Provisioning writes the hash of an empty slot only. -/
theorem cmdKeyProvision_keepsQueue (slot r : Nat) (hash : List Byte) (s : State) :
    KeepsQueue s (cmdKeyProvision slot r hash s).1 := by
  unfold cmdKeyProvision
  split
  · exact .ofQueueOtp rfl
  split
  · exact .ofQueueOtp rfl
  split
  · exact .ofQueueOtp rfl
  split
  · exact .ofQueueOtp rfl
  next hempty =>
    refine ⟨rfl, fun _ x => x, fun _ x => x, fun k hk => ?_⟩
    have hne : slot ≠ k := fun e => hempty (e ▸ hk)
    simp only [okDone, keyHashOf, List.getD_eq_getElem?_getD, List.getElem?_set_ne hne]

theorem cmdKeyRevoke_keepsQueue (slot r : Nat) (s : State) : KeepsQueue s (cmdKeyRevoke slot r s).1 := by
  unfold cmdKeyRevoke
  split
  · exact .ofQueueOtp rfl
  split
  · exact .ofQueueOtp rfl
  split
  · exact .ofQueueOtp rfl
  · refine ⟨rfl, fun _ x => x, fun k x => ?_, fun _ _ => rfl⟩
    simp only [okDone, BitVec.getLsbD_or, x, Bool.true_or]

theorem cmdSvnAdvance_keepsQueue (s : State) : KeepsQueue s (cmdSvnAdvance s).1 := by
  refine ⟨rfl, fun k x => ?_, fun _ x => x, fun _ _ => rfl⟩
  change (s.boot.svnFuse ||| _).getLsbD k = true
  simp only [BitVec.getLsbD_or, x, Bool.true_or]

/-! ### A command between its checks and its answer -/

theorem execChecked_keepsQueue (resv : Option Nat) (opcode : Nat) (hd : CmdHdr) {f : State → State × CmdRes}
    {s : State}
    (hf : KeepsQueue s (f s).1) : KeepsQueue s (execChecked resv opcode hd f s).1 := by
  unfold execChecked
  split
  · exact .ofQueueOtp rfl
  · split
    · exact .ofQueueOtp (refuse_queueOtp _)
    · exact hf

theorem runCommand_keepsQueue (hd : CmdHdr) (opcode : Nat) {f : State → State × CmdRes} {s : State}
    (hf : KeepsQueue s (f s).1) : KeepsQueue s (runCommand hd opcode f s) := by
  unfold runCommand
  split
  · exact .ofQueueOtp rfl
  · exact (execChecked_keepsQueue _ _ _ hf).trans (.ofQueueOtp (answerRow_queueOtp ..))

/-! ### Records of the mailbox -/

theorem runGroups02_queueOtp (opcode : Nat) (h : CmdHdr) (p : List Byte) {s : State} :
    queueOtp (runGroups02 opcode h p s).1 = queueOtp s := by
  unfold runGroups02
  split <;> grind [okDone_queueOtp, cmdDeviceInfo_queueOtp, cmdChannelTableSet_queueOtp,
    cmdChannelInvalidate_queueOtp, cmdBulkWrite_queueOtp, cmdBulkRead_queueOtp, cmdDmaStart_queueOtp,
    cmdDmaStop_queueOtp, cmdDmaKick_queueOtp, cmdStreamRearm_queueOtp, cmdWcacheInvalidate_queueOtp,
    cmdDdrInit_queueOtp, cmdFirewallSet_queueOtp, cmdFirewallGet_queueOtp, cmdEgressStart_queueOtp,
    cmdEgressStop_queueOtp, cmdEgressUrunClear_queueOtp, cmdTensorCheck_queueOtp, cmdTensorLocate_queueOtp,
    refuse_queueOtp]

theorem runGroups34_queueOtp (opcode : Nat) (h : CmdHdr) (p : List Byte) {s : State} :
    queueOtp (runGroups34 opcode h p s).1 = queueOtp s := by
  unfold runGroups34
  split <;> grind [cmdGraphLoad_queueOtp, cmdGraphUnload_queueOtp, cmdGraphStart_queueOtp, cmdGraphHold_queueOtp,
    cmdGraphResume_queueOtp, cmdGraphStop_queueOtp, cmdGraphParamSet_queueOtp, cmdGraphStatus_queueOtp,
    cmdCsiPortConfig_queueOtp, cmdCameraStart_queueOtp, cmdCameraStop_queueOtp, cmdCameraStatus_queueOtp,
    cmdTriggerSet_queueOtp, cmdSensorCommit_queueOtp, cmdI3cTransfer_queueOtp, refuse_queueOtp]

theorem runGroups57_queueOtp (opcode : Nat) (h : CmdHdr) (p : List Byte) {s : State} :
    queueOtp (runGroups57 opcode h p s).1 = queueOtp s := by
  unfold runGroups57
  split <;> grind [cmdSafetyArm_queueOtp, cmdSafetyDisarm_queueOtp, cmdSafetyStatus_queueOtp,
    cmdSafetyClear_queueOtp, cmdFbcLoad_queueOtp, cmdFbcRead_queueOtp, cmdSeasonSet_queueOtp,
    cmdPowerCapSet_queueOtp, cmdPowerStatus_queueOtp, cmdThermalSet_queueOtp, cmdIslandStop_queueOtp,
    cmdIslandStart_queueOtp, cmdTraceStart_queueOtp, cmdTraceStop_queueOtp, cmdTraceStatus_queueOtp,
    cmdTraceTrigger_queueOtp, cmdTraceMark_queueOtp, cmdCounterRead_queueOtp, cmdCounterClear_queueOtp,
    cmdWatchSet_queueOtp, cmdWatchClear_queueOtp, cmdWatchArm_queueOtp, refuse_queueOtp]

theorem runGroups89_keepsQueue (opcode : Nat) (h : CmdHdr) (p : List Byte) (s : State) :
    KeepsQueue s (runGroups89 opcode h p s).1 := by
  unfold runGroups89
  split
  case h_20 => exact cmdKeyProvision_keepsQueue ..
  case h_21 => exact cmdKeyRevoke_keepsQueue ..
  case h_22 => exact cmdSvnAdvance_keepsQueue _
  all_goals
    refine .ofQueueOtp ?_
    grind [cmdLinkStart_queueOtp, cmdLinkStop_queueOtp, cmdLinkStatus_queueOtp, cmdLinkRouteSet_queueOtp,
      cmdLinkAbort_queueOtp, cmdLinkReserve_queueOtp, cmdLinkWindowSet_queueOtp, changeWindow_queueOtp,
      cmdLinkImportSet_queueOtp, cmdLinkIdSet_queueOtp, cmdLinkIdAssign_queueOtp, cmdLinkMboxRelay_queueOtp,
      cmdLinkEventSink_queueOtp, cmdLinkTimeJoin_queueOtp, cmdLinkPpsSet_queueOtp, cmdBootRelay_queueOtp,
      cmdCoreFence_queueOtp, cmdCoreUnfence_queueOtp, cmdDebugEnable_queueOtp, cmdDebugDisable_queueOtp,
      refuse_queueOtp]

theorem runRecord_keepsQueue (r : MbRec) (s : State) : KeepsQueue s (runRecord r s).1 := by
  unfold runRecord
  split
  · exact .ofQueueOtp (refuse_queueOtp _)
  split
  · exact .ofQueueOtp badLen_queueOtp
  split
  · exact .ofQueueOtp (runGroups02_queueOtp ..)
  split
  · exact .ofQueueOtp (runGroups34_queueOtp ..)
  split
  · exact .ofQueueOtp (runGroups57_queueOtp ..)
  · exact runGroups89_keepsQueue ..

theorem stage2_keepsQueue (s : State) (i : Nat) (r : MbRec) : KeepsQueue s (stage2 s i r) := by
  unfold stage2
  split
  · split <;> exact .ofQueueOtp (placeResponse_queueOtp ..)
  · split
    · exact .ofQueueOtp (placeResponse_queueOtp ..)
    · exact (execChecked_keepsQueue _ _ _ (runRecord_keepsQueue r s)).trans (.ofQueueOtp (settleAt_queueOtp ..))

theorem doMbRecordExecute_keepsQueue (s : State) : KeepsQueue s (doMbRecordExecute s) := by
  unfold doMbRecordExecute
  split
  · exact .ofQueueOtp rfl
  · split
    · exact .ofQueueOtp rfl
    · exact stage2_keepsQueue ..

/-! ### Every row -/

theorem exec_keepsQueue (c : Instr) (s : State) : ∃ t, exec c s = .next t ∧ KeepsQueue s t := by
  cases c with
  | resetEntry _ => exact ⟨_, rfl, .ofQueueOtp (doResetEntry_queueOtp ..)⟩
  | resetRelease _ => exact ⟨_, rfl, .ofQueueOtp (doResetRelease_queueOtp ..)⟩
  | refclkPresent => exact ⟨_, rfl, .ofQueueOtp (doRefclkPresent_queueOtp ..)⟩
  | aonPllLocked _ => exact ⟨_, rfl, .ofQueueOtp (doAonPllLocked_queueOtp ..)⟩
  | aonRelease _ => exact ⟨_, rfl, .ofQueueOtp (doAonRelease_queueOtp ..)⟩
  | sdioFunctionReady => exact ⟨_, rfl, .ofQueueOtp (doSdioFunctionReady_queueOtp ..)⟩
  | sdioCmd0Spi => exact ⟨_, rfl, .ofQueueOtp rfl⟩
  | sdioCmd11 => exact ⟨_, rfl, .ofQueueOtp (doSdioCmd11_queueOtp ..)⟩
  | sdioCommand _ => exact ⟨_, rfl, .ofQueueOtp (doSdioCommand_queueOtp ..)⟩
  | bootImageWrite _ => exact ⟨_, rfl, .ofQueueOtp (doBootImageWrite_queueOtp ..)⟩
  | imageVerifyDone => exact ⟨_, rfl, .ofQueueOtp (doImageVerifyDone_queueOtp ..)⟩
  | firmwareReady => exact ⟨_, rfl, .ofQueueOtp (doFirmwareReady_queueOtp ..)⟩
  | fwHalt => exact ⟨_, rfl, .ofQueueOtp (doFwHalt_queueOtp ..)⟩
  | firmwareHeartbeat => exact ⟨_, rfl, .ofQueueOtp (doFirmwareHeartbeat_queueOtp ..)⟩
  | cpStall => exact ⟨_, rfl, .ofQueueOtp (doCpStall_queueOtp ..)⟩
  | smFault => exact ⟨_, rfl, .ofQueueOtp (doSmFault_queueOtp ..)⟩
  | mbCmdPortWrite _ => exact ⟨_, rfl, .ofQueueOtp (doMbCmdPortWrite_queueOtp ..)⟩
  | mbDoorbellWrite _ => exact ⟨_, rfl, .ofQueueOtp (doMbDoorbellWrite_queueOtp ..)⟩
  | mbRecordExecute _ => exact ⟨_, rfl, .trans (.ofQueueOtp (plant_queueOtp ..)) (doMbRecordExecute_keepsQueue _)⟩
  | mbRspPortRead _ => exact ⟨_, rfl, .ofQueueOtp (doMbRspPortRead_queueOtp ..)⟩
  | mbStatusW1c _ => exact ⟨_, rfl, .ofQueueOtp (doMbStatusW1c_queueOtp ..)⟩
  | registerWrite _ _ _ => exact ⟨_, rfl, .ofQueueOtp (doRegisterWrite_queueOtp ..)⟩
  | eventRecordRead _ => exact ⟨_, rfl, .ofQueueOtp (doEventRecordRead_queueOtp ..)⟩
  | bulkDataWrite _ => exact ⟨_, rfl, .ofQueueOtp (doBulkDataWrite_queueOtp ..)⟩
  | bulkDataRead _ _ => exact ⟨_, rfl, .ofQueueOtp ((doBulkDataRead_queueOtp ..).trans (plant_queueOtp ..))⟩
  | nop _ => exact ⟨_, rfl, runCommand_keepsQueue _ _ (.ofQueueOtp (okDone_queueOtp ..))⟩
  | deviceInfo _ => exact ⟨_, rfl, runCommand_keepsQueue _ _ (.ofQueueOtp (cmdDeviceInfo_queueOtp ..))⟩
  | channelTableSet _ _ _ => exact ⟨_, rfl, runCommand_keepsQueue _ _ (.ofQueueOtp (cmdChannelTableSet_queueOtp ..))⟩
  | channelInvalidate _ _ _ => exact ⟨_, rfl, runCommand_keepsQueue _ _ (.ofQueueOtp (cmdChannelInvalidate_queueOtp ..))⟩
  | bulkWrite _ _ _ => exact ⟨_, rfl, runCommand_keepsQueue _ _ (.ofQueueOtp (cmdBulkWrite_queueOtp ..))⟩
  | bulkRead _ _ _ => exact ⟨_, rfl, runCommand_keepsQueue _ _ (.ofQueueOtp (cmdBulkRead_queueOtp ..))⟩
  | dmaStart _ _ _ => exact ⟨_, rfl, runCommand_keepsQueue _ _ (.ofQueueOtp (cmdDmaStart_queueOtp ..))⟩
  | dmaStop _ _ _ => exact ⟨_, rfl, runCommand_keepsQueue _ _ (.ofQueueOtp (cmdDmaStop_queueOtp ..))⟩
  | dmaKick _ _ _ => exact ⟨_, rfl, runCommand_keepsQueue _ _ (.ofQueueOtp (cmdDmaKick_queueOtp ..))⟩
  | streamRearm _ _ _ _ _ => exact ⟨_, rfl, runCommand_keepsQueue _ _ (.ofQueueOtp (cmdStreamRearm_queueOtp ..))⟩
  | wcacheInvalidate _ _ _ => exact ⟨_, rfl, runCommand_keepsQueue _ _ (.ofQueueOtp (cmdWcacheInvalidate_queueOtp ..))⟩
  | ddrInit _ _ => exact ⟨_, rfl, runCommand_keepsQueue _ _ (.ofQueueOtp (cmdDdrInit_queueOtp ..))⟩
  | firewallSet _ _ _ _ _ _ _ _ => exact ⟨_, rfl, runCommand_keepsQueue _ _ (.ofQueueOtp (cmdFirewallSet_queueOtp ..))⟩
  | firewallGet _ _ _ _ => exact ⟨_, rfl, runCommand_keepsQueue _ _ (.ofQueueOtp (cmdFirewallGet_queueOtp ..))⟩
  | egressStart _ _ _ => exact ⟨_, rfl, runCommand_keepsQueue _ _ (.ofQueueOtp (cmdEgressStart_queueOtp ..))⟩
  | egressStop _ _ _ => exact ⟨_, rfl, runCommand_keepsQueue _ _ (.ofQueueOtp (cmdEgressStop_queueOtp ..))⟩
  | egressUrunClear _ _ _ => exact ⟨_, rfl, runCommand_keepsQueue _ _ (.ofQueueOtp (cmdEgressUrunClear_queueOtp ..))⟩
  | tensorCheck _ _ _ _ _ => exact ⟨_, rfl, runCommand_keepsQueue _ _ (.ofQueueOtp (cmdTensorCheck_queueOtp ..))⟩
  | tensorLocate _ _ _ => exact ⟨_, rfl, runCommand_keepsQueue _ _ (.ofQueueOtp (cmdTensorLocate_queueOtp ..))⟩
  | graphLoad _ _ => exact ⟨_, rfl, runCommand_keepsQueue _ _ (.ofQueueOtp (cmdGraphLoad_queueOtp ..))⟩
  | graphUnload _ _ _ => exact ⟨_, rfl, runCommand_keepsQueue _ _ (.ofQueueOtp (cmdGraphUnload_queueOtp ..))⟩
  | graphStart _ _ _ _ _ _ => exact ⟨_, rfl, runCommand_keepsQueue _ _ (.ofQueueOtp (cmdGraphStart_queueOtp ..))⟩
  | graphHold _ _ _ => exact ⟨_, rfl, runCommand_keepsQueue _ _ (.ofQueueOtp (cmdGraphHold_queueOtp ..))⟩
  | graphHoldQuiescent _ => exact ⟨_, rfl, .ofQueueOtp (doGraphHoldQuiescent_queueOtp ..)⟩
  | graphResume _ _ _ => exact ⟨_, rfl, runCommand_keepsQueue _ _ (.ofQueueOtp (cmdGraphResume_queueOtp ..))⟩
  | graphStop _ _ _ => exact ⟨_, rfl, runCommand_keepsQueue _ _ (.ofQueueOtp (cmdGraphStop_queueOtp ..))⟩
  | graphStopIdle _ => exact ⟨_, rfl, .ofQueueOtp (doGraphStopIdle_queueOtp ..)⟩
  | graphParamSet _ _ _ _ _ _ => exact ⟨_, rfl, runCommand_keepsQueue _ _ (.ofQueueOtp (cmdGraphParamSet_queueOtp ..))⟩
  | graphStatus _ _ _ => exact ⟨_, rfl, runCommand_keepsQueue _ _ (.ofQueueOtp (cmdGraphStatus_queueOtp ..))⟩
  | csiPortConfig _ _ _ _ _ _ _ => exact ⟨_, rfl, runCommand_keepsQueue _ _ (.ofQueueOtp (cmdCsiPortConfig_queueOtp ..))⟩
  | cameraStart _ _ _ => exact ⟨_, rfl, runCommand_keepsQueue _ _ (.ofQueueOtp (cmdCameraStart_queueOtp ..))⟩
  | cameraStop _ _ _ _ => exact ⟨_, rfl, runCommand_keepsQueue _ _ (.ofQueueOtp (cmdCameraStop_queueOtp ..))⟩
  | cameraStopTimeout _ => exact ⟨_, rfl, .ofQueueOtp (doCameraStopTimeout_queueOtp ..)⟩
  | cameraStatus _ _ _ _ => exact ⟨_, rfl, runCommand_keepsQueue _ _ (.ofQueueOtp (cmdCameraStatus_queueOtp ..))⟩
  | triggerSet _ _ _ _ _ _ _ _ _ => exact ⟨_, rfl, runCommand_keepsQueue _ _ (.ofQueueOtp (cmdTriggerSet_queueOtp ..))⟩
  | triggerSwitchPoint _ => exact ⟨_, rfl, .ofQueueOtp (doTriggerSwitchPoint_queueOtp ..)⟩
  | sensorCommit _ _ _ _ _ _ => exact ⟨_, rfl, runCommand_keepsQueue _ _ (.ofQueueOtp (cmdSensorCommit_queueOtp ..))⟩
  | i3cTransfer _ _ _ _ _ _ => exact ⟨_, rfl, runCommand_keepsQueue _ _ (.ofQueueOtp (cmdI3cTransfer_queueOtp ..))⟩
  | safetyArm _ _ => exact ⟨_, rfl, runCommand_keepsQueue _ _ (.ofQueueOtp (cmdSafetyArm_queueOtp ..))⟩
  | safetyDisarm _ => exact ⟨_, rfl, runCommand_keepsQueue _ _ (.ofQueueOtp (cmdSafetyDisarm_queueOtp ..))⟩
  | safetyStatus _ => exact ⟨_, rfl, runCommand_keepsQueue _ _ (.ofQueueOtp (cmdSafetyStatus_queueOtp ..))⟩
  | safetyClear _ _ _ _ => exact ⟨_, rfl, runCommand_keepsQueue _ _ (.ofQueueOtp (cmdSafetyClear_queueOtp ..))⟩
  | fbcLoad _ _ _ _ => exact ⟨_, rfl, runCommand_keepsQueue _ _ (.ofQueueOtp (cmdFbcLoad_queueOtp ..))⟩
  | fbcRead _ _ _ => exact ⟨_, rfl, runCommand_keepsQueue _ _ (.ofQueueOtp (cmdFbcRead_queueOtp ..))⟩
  | seasonSet _ _ _ => exact ⟨_, rfl, runCommand_keepsQueue _ _ (.ofQueueOtp (cmdSeasonSet_queueOtp ..))⟩
  | powerCapSet _ _ _ => exact ⟨_, rfl, runCommand_keepsQueue _ _ (.ofQueueOtp (cmdPowerCapSet_queueOtp ..))⟩
  | powerStatus _ => exact ⟨_, rfl, runCommand_keepsQueue _ _ (.ofQueueOtp (cmdPowerStatus_queueOtp ..))⟩
  | thermalSet _ _ _ => exact ⟨_, rfl, runCommand_keepsQueue _ _ (.ofQueueOtp (cmdThermalSet_queueOtp ..))⟩
  | islandStop _ _ _ => exact ⟨_, rfl, runCommand_keepsQueue _ _ (.ofQueueOtp (cmdIslandStop_queueOtp ..))⟩
  | islandStart _ _ _ => exact ⟨_, rfl, runCommand_keepsQueue _ _ (.ofQueueOtp (cmdIslandStart_queueOtp ..))⟩
  | traceStart _ _ _ => exact ⟨_, rfl, runCommand_keepsQueue _ _ (.ofQueueOtp (cmdTraceStart_queueOtp ..))⟩
  | traceStop _ _ _ => exact ⟨_, rfl, runCommand_keepsQueue _ _ (.ofQueueOtp (cmdTraceStop_queueOtp ..))⟩
  | traceStatus _ => exact ⟨_, rfl, runCommand_keepsQueue _ _ (.ofQueueOtp (cmdTraceStatus_queueOtp ..))⟩
  | traceTrigger _ _ _ => exact ⟨_, rfl, runCommand_keepsQueue _ _ (.ofQueueOtp (cmdTraceTrigger_queueOtp ..))⟩
  | traceMark _ _ => exact ⟨_, rfl, runCommand_keepsQueue _ _ (.ofQueueOtp (cmdTraceMark_queueOtp ..))⟩
  | counterRead _ _ _ _ _ _ => exact ⟨_, rfl, runCommand_keepsQueue _ _ (.ofQueueOtp (cmdCounterRead_queueOtp ..))⟩
  | counterClear _ _ _ _ _ _ => exact ⟨_, rfl, runCommand_keepsQueue _ _ (.ofQueueOtp (cmdCounterClear_queueOtp ..))⟩
  | watchSet _ _ => exact ⟨_, rfl, runCommand_keepsQueue _ _ (.ofQueueOtp (cmdWatchSet_queueOtp ..))⟩
  | watchClear _ _ _ => exact ⟨_, rfl, runCommand_keepsQueue _ _ (.ofQueueOtp (cmdWatchClear_queueOtp ..))⟩
  | watchArm _ _ _ => exact ⟨_, rfl, runCommand_keepsQueue _ _ (.ofQueueOtp (cmdWatchArm_queueOtp ..))⟩
  | linkStart _ _ _ => exact ⟨_, rfl, runCommand_keepsQueue _ _ (.ofQueueOtp (cmdLinkStart_queueOtp ..))⟩
  | linkStop _ _ _ => exact ⟨_, rfl, runCommand_keepsQueue _ _ (.ofQueueOtp (cmdLinkStop_queueOtp ..))⟩
  | linkStatus _ => exact ⟨_, rfl, runCommand_keepsQueue _ _ (.ofQueueOtp (cmdLinkStatus_queueOtp ..))⟩
  | linkRouteSet _ _ _ _ => exact ⟨_, rfl, runCommand_keepsQueue _ _ (.ofQueueOtp (cmdLinkRouteSet_queueOtp ..))⟩
  | linkAbort _ _ _ => exact ⟨_, rfl, runCommand_keepsQueue _ _ (.ofQueueOtp (cmdLinkAbort_queueOtp ..))⟩
  | linkReserve _ _ _ _ _ => exact ⟨_, rfl, runCommand_keepsQueue _ _ (.ofQueueOtp (cmdLinkReserve_queueOtp ..))⟩
  | linkWindowSet _ _ _ _ _ => exact ⟨_, rfl, runCommand_keepsQueue _ _ (.ofQueueOtp (cmdLinkWindowSet_queueOtp ..))⟩
  | linkWindowOpen _ _ _ => exact ⟨_, rfl, runCommand_keepsQueue _ _ (.ofQueueOtp (changeWindow_queueOtp ..))⟩
  | linkWindowClose _ _ _ => exact ⟨_, rfl, runCommand_keepsQueue _ _ (.ofQueueOtp (changeWindow_queueOtp ..))⟩
  | linkImportSet _ _ _ _ _ _ _ _ => exact ⟨_, rfl, runCommand_keepsQueue _ _ (.ofQueueOtp (cmdLinkImportSet_queueOtp ..))⟩
  | linkIdSet _ _ _ => exact ⟨_, rfl, runCommand_keepsQueue _ _ (.ofQueueOtp (cmdLinkIdSet_queueOtp ..))⟩
  | linkIdAssign _ _ _ _ => exact ⟨_, rfl, runCommand_keepsQueue _ _ (.ofQueueOtp (cmdLinkIdAssign_queueOtp ..))⟩
  | linkMboxRelay _ _ _ _ => exact ⟨_, rfl, runCommand_keepsQueue _ _ (.ofQueueOtp (cmdLinkMboxRelay_queueOtp ..))⟩
  | linkEventSink _ _ _ => exact ⟨_, rfl, runCommand_keepsQueue _ _ (.ofQueueOtp (cmdLinkEventSink_queueOtp ..))⟩
  | linkTimeJoin _ => exact ⟨_, rfl, runCommand_keepsQueue _ _ (.ofQueueOtp (cmdLinkTimeJoin_queueOtp ..))⟩
  | linkPpsSet _ _ _ => exact ⟨_, rfl, runCommand_keepsQueue _ _ (.ofQueueOtp (cmdLinkPpsSet_queueOtp ..))⟩
  | bootRelay _ _ _ _ _ _ => exact ⟨_, rfl, runCommand_keepsQueue _ _ (.ofQueueOtp (cmdBootRelay_queueOtp ..))⟩
  | coreFence _ _ _ => exact ⟨_, rfl, runCommand_keepsQueue _ _ (.ofQueueOtp (cmdCoreFence_queueOtp ..))⟩
  | coreUnfence _ _ _ => exact ⟨_, rfl, runCommand_keepsQueue _ _ (.ofQueueOtp (cmdCoreUnfence_queueOtp ..))⟩
  | keyProvision _ _ _ _ => exact ⟨_, rfl, runCommand_keepsQueue _ _ (cmdKeyProvision_keepsQueue ..)⟩
  | keyRevoke _ _ _ => exact ⟨_, rfl, runCommand_keepsQueue _ _ (cmdKeyRevoke_keepsQueue ..)⟩
  | svnAdvance _ => exact ⟨_, rfl, runCommand_keepsQueue _ _ (cmdSvnAdvance_keepsQueue ..)⟩
  | debugEnable _ _ _ => exact ⟨_, rfl, runCommand_keepsQueue _ _ (.ofQueueOtp (cmdDebugEnable_queueOtp ..))⟩
  | debugDisable _ => exact ⟨_, rfl, runCommand_keepsQueue _ _ (.ofQueueOtp (cmdDebugDisable_queueOtp ..))⟩
  | pmbAlert => exact ⟨_, rfl, .ofQueueOtp (doPmbAlert_queueOtp ..)⟩
  | refclkLoss => exact ⟨_, rfl, .ofQueueOtp (doRefclkLoss_queueOtp ..)⟩
  | ppsEdge => exact ⟨_, rfl, .ofQueueOtp (doPpsEdge_queueOtp ..)⟩
  | ppsLost => exact ⟨_, rfl, .ofQueueOtp (doPpsLost_queueOtp ..)⟩
  | thermalSensorRead _ _ => exact ⟨_, rfl, .ofQueueOtp (doThermalSensorRead_queueOtp ..)⟩
  | thermalTrip _ _ => exact ⟨_, rfl, .ofQueueOtp (doThermalTrip_queueOtp ..)⟩
  | budgetEpochStart _ => exact ⟨_, rfl, .ofQueueOtp (doBudgetEpochStart_queueOtp ..)⟩
  | seasonChangeDone => exact ⟨_, rfl, .ofQueueOtp (doSeasonChangeDone_queueOtp ..)⟩
  | counterWindowBoundary => exact ⟨_, rfl, .ofQueueOtp (doCounterWindowBoundary_queueOtp ..)⟩
  | vmon _ _ => exact ⟨_, rfl, .ofQueueOtp (doVmon_queueOtp ..)⟩
  | clkMon _ _ => exact ⟨_, rfl, .ofQueueOtp (doClkMon_queueOtp ..)⟩
  | doubtLevelEnd _ _ _ => exact ⟨_, rfl, .ofQueueOtp (doDoubtLevelEnd_queueOtp ..)⟩
  | frameIntervalEnd => exact ⟨_, rfl, .ofQueueOtp (doFrameIntervalEnd_queueOtp ..)⟩
  | doubtPulseEnd => exact ⟨_, rfl, .ofQueueOtp (doDoubtPulseEnd_queueOtp ..)⟩
  | goldenRunStart _ _ => exact ⟨_, rfl, .ofQueueOtp (doGoldenRunStart_queueOtp ..)⟩
  | goldenRunDone _ _ _ => exact ⟨_, rfl, .ofQueueOtp (doGoldenRunDone_queueOtp ..)⟩
  | goldenRunOverdue _ _ => exact ⟨_, rfl, .ofQueueOtp (doGoldenRunOverdue_queueOtp ..)⟩
  | monthSlotStart => exact ⟨_, rfl, .ofQueueOtp (doMonthSlotStart_queueOtp ..)⟩
  | selfTestStart _ => exact ⟨_, rfl, .ofQueueOtp (doSelfTestStart_queueOtp ..)⟩
  | selfTestDone _ => exact ⟨_, rfl, .ofQueueOtp (doSelfTestDone_queueOtp ..)⟩
  | csiFrameStart _ _ _ => exact ⟨_, rfl, .ofQueueOtp (doCsiFrameStart_queueOtp ..)⟩
  | csiFrameEnd _ _ _ => exact ⟨_, rfl, .ofQueueOtp (doCsiFrameEnd_queueOtp ..)⟩
  | csiLongPacket _ _ _ _ _ _ _ _ => exact ⟨_, rfl, .ofQueueOtp (doCsiLongPacket_queueOtp ..)⟩
  | csiHeaderError _ => exact ⟨_, rfl, .ofQueueOtp (doCsiHeaderError_queueOtp ..)⟩
  | pipelineLineDone _ => exact ⟨_, rfl, .ofQueueOtp (doPipelineLineDone_queueOtp ..)⟩
  | frameComplete _ => exact ⟨_, rfl, .ofQueueOtp (doFrameComplete_queueOtp ..)⟩
  | patternTestStart _ => exact ⟨_, rfl, .ofQueueOtp (doPatternTestStart_queueOtp ..)⟩
  | patternTestDone _ _ => exact ⟨_, rfl, .ofQueueOtp (doPatternTestDone_queueOtp ..)⟩
  | camTrigPulse _ => exact ⟨_, rfl, .ofQueueOtp (doCamTrigPulse_queueOtp ..)⟩
  | camTrigPulseEnd _ => exact ⟨_, rfl, .ofQueueOtp (doCamTrigPulseEnd_queueOtp ..)⟩
  | sensorWriteDone _ _ => exact ⟨_, rfl, .ofQueueOtp (doSensorWriteDone_queueOtp ..)⟩
  | sensorIbi _ _ _ => exact ⟨_, rfl, .ofQueueOtp (doSensorIbi_queueOtp ..)⟩
  | i3cTransferDone _ _ _ => exact ⟨_, rfl, .ofQueueOtp (doI3cTransferDone_queueOtp ..)⟩
  | sourceNotice _ _ => exact ⟨_, rfl, .ofQueueOtp (doSourceNotice_queueOtp ..)⟩
  | nodeStart _ => exact ⟨_, rfl, .ofQueueOtp (doNodeStart_queueOtp ..)⟩
  | nodeComplete _ => exact ⟨_, rfl, .ofQueueOtp (doNodeComplete_queueOtp ..)⟩
  | deadlockWalk _ => exact ⟨_, rfl, .ofQueueOtp (doDeadlockWalk_queueOtp ..)⟩
  | engineRunStart _ _ => exact ⟨_, rfl, .ofQueueOtp ((doEngineRunStart_queueOtp ..).trans (plant_queueOtp ..))⟩
  | engineRunDone _ _ => exact ⟨_, rfl, .ofQueueOtp ((doEngineRunDone_queueOtp ..).trans (plant_queueOtp ..))⟩
  | obxObjectEmit _ => exact ⟨_, rfl, .ofQueueOtp (doObxObjectEmit_queueOtp ..)⟩
  | coreUnitStart _ => exact ⟨_, rfl, .ofQueueOtp (doCoreUnitStart_queueOtp ..)⟩
  | scalarInstruction _ _ => exact ⟨_, rfl, .ofQueueOtp ((doScalarInstruction_queueOtp ..).trans (plant_queueOtp ..))⟩
  | issue _ _ => exact ⟨_, rfl, .ofQueueOtp ((doIssue_queueOtp ..).trans (plant_queueOtp ..))⟩
  | opStart _ _ => exact ⟨_, rfl, .ofQueueOtp (doOpStart_queueOtp ..)⟩
  | opComplete _ _ _ _ => exact ⟨_, rfl, .ofQueueOtp ((doOpComplete_queueOtp ..).trans (plant_queueOtp ..))⟩
  | spawn _ _ => exact ⟨_, rfl, .ofQueueOtp ((doSpawn_queueOtp ..).trans (plant_queueOtp ..))⟩
  | coreUnitComplete _ => exact ⟨_, rfl, .ofQueueOtp (doCoreUnitComplete_queueOtp ..)⟩
  | itemAccept => exact ⟨_, rfl, .ofQueueOtp (doItemAccept_queueOtp ..)⟩
  | itemDispatch _ => exact ⟨_, rfl, .ofQueueOtp (doItemDispatch_queueOtp ..)⟩
  | itemComplete _ => exact ⟨_, rfl, .ofQueueOtp (doItemComplete_queueOtp ..)⟩
  | resultRelease _ => exact ⟨_, rfl, .ofQueueOtp (doResultRelease_queueOtp ..)⟩
  | recordAccept _ => exact ⟨_, rfl, .ofQueueOtp (doRecordAccept_queueOtp ..)⟩
  | egressSlot _ _ => exact ⟨_, rfl, .ofQueueOtp (doEgressSlot_queueOtp ..)⟩
  | dmaDescriptorStart _ _ => exact ⟨_, rfl, .ofQueueOtp ((doDmaDescriptorStart_queueOtp ..).trans (plant_queueOtp ..))⟩
  | dmaReadReturn _ _ => exact ⟨_, rfl, .ofQueueOtp ((doDmaReadReturn_queueOtp ..).trans (plant_queueOtp ..))⟩
  | dmaDescriptorEnd _ => exact ⟨_, rfl, .ofQueueOtp (doDmaDescriptorEnd_queueOtp ..)⟩
  | streamBlockStart _ => exact ⟨_, rfl, .ofQueueOtp (doStreamBlockStart_queueOtp ..)⟩
  | streamBlockDone _ => exact ⟨_, rfl, .ofQueueOtp (doStreamBlockDone_queueOtp ..)⟩
  | streamCancelled _ => exact ⟨_, rfl, .ofQueueOtp (doStreamCancelled_queueOtp ..)⟩
  | fsScrubRow _ _ _ => exact ⟨_, rfl, .ofQueueOtp (doFsScrubRow_queueOtp ..)⟩
  | ddrRefresh _ => exact ⟨_, rfl, .ofQueueOtp (doDdrRefresh_queueOtp ..)⟩
  | ddrMr4Poll _ _ _ => exact ⟨_, rfl, .ofQueueOtp (doDdrMr4Poll_queueOtp ..)⟩
  | ddrScrubGranule _ _ _ _ _ _ => exact ⟨_, rfl, .ofQueueOtp (doDdrScrubGranule_queueOtp ..)⟩
  | ddrAlert _ => exact ⟨_, rfl, .ofQueueOtp (doDdrAlert_queueOtp ..)⟩
  | ddrInitDone _ => exact ⟨_, rfl, .ofQueueOtp (doDdrInitDone_queueOtp ..)⟩
  | linkDetectPulse _ => exact ⟨_, rfl, .ofQueueOtp (doLinkDetectPulse_queueOtp ..)⟩
  | linkPeerDetected _ => exact ⟨_, rfl, .ofQueueOtp (doLinkPeerDetected_queueOtp ..)⟩
  | linkEqDone _ => exact ⟨_, rfl, .ofQueueOtp (doLinkEqDone_queueOtp ..)⟩
  | linkAlignDone _ _ _ _ => exact ⟨_, rfl, .ofQueueOtp (doLinkAlignDone_queueOtp ..)⟩
  | linkUp _ _ => exact ⟨_, rfl, .ofQueueOtp (doLinkUp_queueOtp ..)⟩
  | linkTrainFail _ => exact ⟨_, rfl, .ofQueueOtp (doLinkTrainFail_queueOtp ..)⟩
  | flitReceive _ _ _ => exact ⟨_, rfl, .ofQueueOtp ((doFlitReceive_queueOtp ..).trans (plant_queueOtp ..))⟩
  | ctrlReceive _ _ => exact ⟨_, rfl, .ofQueueOtp (doCtrlReceive_queueOtp ..)⟩
  | replayTimer _ => exact ⟨_, rfl, .ofQueueOtp (doReplayTimer_queueOtp ..)⟩
  | linkDown _ _ => exact ⟨_, rfl, .ofQueueOtp (doLinkDown_queueOtp ..)⟩
  | timeFlitSend _ => exact ⟨_, rfl, .ofQueueOtp (doTimeFlitSend_queueOtp ..)⟩
  | timeFlitReceive _ _ _ _ => exact ⟨_, rfl, .ofQueueOtp (doTimeFlitReceive_queueOtp ..)⟩
  | timeHoldover _ => exact ⟨_, rfl, .ofQueueOtp (doTimeHoldover_queueOtp ..)⟩
  | timeStep => exact ⟨_, rfl, .ofQueueOtp (doTimeStep_queueOtp ..)⟩
  | timeJoinLocked => exact ⟨_, rfl, .ofQueueOtp (doTimeJoinLocked_queueOtp ..)⟩
  | write _ _ => exact ⟨_, rfl, .ofQueueOtp ((doWrite_queueOtp ..).trans (plant_queueOtp ..))⟩
  | read _ _ => exact ⟨_, rfl, .ofQueueOtp ((doRead_queueOtp ..).trans (plant_queueOtp ..))⟩
  | semSignal _ => exact ⟨_, rfl, .ofQueueOtp (doSemSignal_queueOtp ..)⟩
  | winOpen _ => exact ⟨_, rfl, .ofQueueOtp (doWinOpen_queueOtp ..)⟩
  | winClose _ => exact ⟨_, rfl, .ofQueueOtp (doWinClose_queueOtp ..)⟩
  | mbox _ => exact ⟨_, rfl, .ofQueueOtp (doMbox_queueOtp ..)⟩
  | bootData _ _ => exact ⟨_, rfl, .ofQueueOtp (doBootData_queueOtp ..)⟩
  | bootEnd _ _ => exact ⟨_, rfl, .ofQueueOtp (doBootEnd_queueOtp ..)⟩
  | idAssign _ _ => exact ⟨_, rfl, .ofQueueOtp (doIdAssign_queueOtp ..)⟩
  | event _ => exact ⟨_, rfl, .ofQueueOtp (doEvent_queueOtp ..)⟩
  | transactionResponse _ => exact ⟨_, rfl, .ofQueueOtp (doTransactionResponse_queueOtp ..)⟩
  | bootRelayDone _ _ => exact ⟨_, rfl, .ofQueueOtp (doBootRelayDone_queueOtp ..)⟩
  | traceRecordArrive _ _ => exact ⟨_, rfl, .ofQueueOtp (doTraceRecordArrive_queueOtp ..)⟩
  | traceSpillCopy _ _ => exact ⟨_, rfl, .ofQueueOtp ((doTraceSpillCopy_queueOtp ..).trans (plant_queueOtp ..))⟩
  | watchRead _ _ => exact ⟨_, rfl, .ofQueueOtp ((doWatchRead_queueOtp ..).trans (plant_queueOtp ..))⟩
  | tapReset => exact ⟨_, rfl, .ofQueueOtp (doTapReset_queueOtp ..)⟩
  | idcode => exact ⟨_, rfl, .ofQueueOtp (doIdcode_queueOtp ..)⟩
  | sample _ => exact ⟨_, rfl, .ofQueueOtp (doSample_queueOtp ..)⟩
  | preload _ => exact ⟨_, rfl, .ofQueueOtp (doPreload_queueOtp ..)⟩
  | extest => exact ⟨_, rfl, .ofQueueOtp (doExtest_queueOtp ..)⟩
  | clamp => exact ⟨_, rfl, .ofQueueOtp (doClamp_queueOtp ..)⟩
  | highz => exact ⟨_, rfl, .ofQueueOtp (doHighz_queueOtp ..)⟩
  | bypass _ => exact ⟨_, rfl, .ofQueueOtp (doBypass_queueOtp ..)⟩
  | dbgAccess _ _ => exact ⟨_, rfl, .ofQueueOtp ((doDbgAccess_queueOtp ..).trans (plant_queueOtp ..))⟩
  | dbgAccessDone => exact ⟨_, rfl, .ofQueueOtp (doDbgAccessDone_queueOtp ..)⟩
  | hotJoin _ => exact ⟨_, rfl, .ofQueueOtp (doHotJoin_queueOtp ..)⟩
  | ctrlFlitSend _ => exact ⟨_, rfl, .ofQueueOtp (doCtrlFlitSend_queueOtp ..)⟩

/-- Settles O60: each row is one operation, or a mailbox command between its checks and its answer. Only KEY_PROVISION,
KEY_REVOKE and SVN_ADVANCE touch OTP: the first fills an empty slot, the others set bits. -/
theorem everyCommandGoesOnAndOtpOnlyGrows : Obligations.EveryCommandGoesOnAndOtpOnlyGrows := by
  intro c s
  obtain ⟨t, ht, hpending, hotp⟩ := exec_keepsQueue c s
  exact ⟨t, ht, hpending, hotp⟩

end Sys2Proof.Machine
end
